-- ==== Sys2Proof/Word.lean ====
section
/-! DEFINITION. Words, bytes and sorted tables: the plain data every later file is written over. -/

namespace Sys2Proof

/-- A byte. -/
abbrev Byte := BitVec 8
/-- A 64-bit register image. -/
abbrev Word := BitVec 64
/-- A pool row of 128 bytes, byte 0 in its lowest bits (R4). -/
abbrev Row := BitVec 1024

/-- A sparse table: pairs of a key and a value, keys rising. A key that is not listed has the
table's default value, which each use names. -/
abbrev Table (α : Type) := List (Nat × α)

/-- The value at key `k`, or `d` where the table does not list it. -/
def Table.get {α : Type} (d : α) : Table α → Nat → α
  | [], _ => d
  | (j, v) :: t, k => if k < j then d else if k = j then v else Table.get d t k

/-- The table with `v` at key `k`. -/
def Table.put {α : Type} : Table α → Nat → α → Table α
  | [], k, v => [(k, v)]
  | (j, w) :: t, k, v =>
    if k < j then (k, v) :: (j, w) :: t
    else if k = j then (k, v) :: t
    else (j, w) :: Table.put t k v

/-- The table without key `k`. -/
def Table.erase {α : Type} : Table α → Nat → Table α
  | [], _ => []
  | (j, w) :: t, k => if k = j then t else (j, w) :: Table.erase t k

/-- The table without the keys from `lo` up to but not including `hi`. -/
def Table.clear {α : Type} (t : Table α) (lo hi : Nat) : Table α :=
  t.filter fun p => p.1 < lo || hi ≤ p.1

/-- The keys of a table rise strictly. -/
def Table.sorted {α : Type} : Table α → Bool
  | [] => true
  | [_] => true
  | (j, _) :: (k, v) :: t => decide (j < k) && Table.sorted ((k, v) :: t)

/-- Memory: addresses with their bytes. An unlisted address reads as 0, the value of a byte at its
last generation bump (R246). -/
abbrev Memory := Table Byte

/-- The byte at an address. DESIGN CHOICE, log 42. -/
def Memory.read (m : Memory) (a : Nat) : Byte := Table.get 0 m a

/-- The memory with byte `b` at address `a`, in its canonical form. -/
def Memory.write (m : Memory) (a : Nat) (b : Byte) : Memory :=
  if b = 0 then Table.erase m a else Table.put m a b

/-- The canonical form: addresses rise strictly and no listed byte is 0. -/
def Memory.wf (m : Memory) : Bool := Table.sorted m && m.all fun p => p.2 != 0

/-- The `n` bytes from `a` as a little-endian number (R4). -/
def Memory.readLE (m : Memory) (a : Nat) : Nat → Nat
  | 0 => 0
  | n + 1 => (m.read a).toNat + 256 * Memory.readLE m (a + 1) n

/-- The memory with the low `n` bytes of `v` at `a`, little-endian (R4). -/
def Memory.writeLE (m : Memory) (a : Nat) : Nat → Nat → Memory
  | 0, _ => m
  | n + 1, v => Memory.writeLE (m.write a (BitVec.ofNat 8 v)) (a + 1) n (v / 256)

/-- The `n` bytes from `a`, in ascending address. -/
def Memory.bytes (m : Memory) (a n : Nat) : List Byte := (List.range n).map fun i => m.read (a + i)

/-- The memory with the listed bytes from `a` on. -/
def Memory.putBytes (m : Memory) (a : Nat) : List Byte → Memory
  | [] => m
  | b :: bs => Memory.putBytes (m.write a b) (a + 1) bs

end Sys2Proof
end

