-- ==== Sys2Proof/Syntax.lean ====
section
/-! DEFINITION. The steps of the G7: one constructor for each row of spec/opcode_table.json, the
instruction forms with their operand fields and the events of the device with what they act on. -/

namespace Sys2Proof

/-- Width of sext and zext (R107). -/
inductive ExtW where
  | w8 | w16 | w32
deriving DecidableEq, Repr

/-- Integer types of scalar memory accesses (R46, R115, R156). -/
inductive IntT where
  | i8 | i16 | i32 | i64 | n8 | n16 | n32 | n64
deriving DecidableEq, Repr

/-- type3 (R87). Code 7 is the bits type, 32-bit lanes (R133). -/
inductive LaneT where
  | f32 | f16 | bf16 | i8 | i16 | i32 | i64 | b32
deriving DecidableEq, Repr

/-- TYPE4 (R87), code 15 left out because it is reserved. -/
inductive Type4 where
  | f32 | f16 | bf16 | i8 | i16 | i32 | i64 | n8 | n16 | n32 | n64 | gx2 | gx4 | gx7 | b1
deriving DecidableEq, Repr

/-- The GX formats (R55). -/
inductive GxT where
  | gx2 | gx4 | gx7
deriving DecidableEq, Repr

/-- Rounding modes (R51). -/
inductive Rnd where
  | rne | rna | rz | rdn | rup
deriving DecidableEq, Repr

/-- Scopes of an atomic (R157). -/
inductive Scope where
  | core | cl | die | dev | sys
deriving DecidableEq, Repr

/-- Operations of an atomic (R157). -/
inductive AmoOp where
  | add | and | or | xor | min | max | minu | maxu | swap | fadd | cas
deriving DecidableEq, Repr

/-- One constructor for each row of the opcode table. Operand fields keep the letters of the table:
d, a destination; s, b, t, c, e, sources; i, o, l, immediate, offset, literal. -/
inductive Instr where
  /-- DEVICE_RESET (R381). -/
  | deviceReset
  /-- SELF_TEST_END (R385). -/
  | selfTestEnd (failed : List Nat)
  /-- RECOVERY_IMAGE_CHECK (R383). -/
  | recoveryImageCheck
  /-- MAILBOX_DOORBELL (R371). -/
  | mailboxDoorbell (off : Nat) (bs : List (BitVec 8))
  /-- LAUNCH_DOORBELL (R373). -/
  | launchDoorbell (f page : Nat) (v : BitVec 32)
  /-- COMPLETION_DOORBELL (R373). -/
  | completionDoorbell (f page : Nat) (v : BitVec 32)
  /-- TAILW_WRITE (R372). -/
  | tailwWrite (slot : Nat) (v : BitVec 32) (oid : Nat)
  /-- QUEUE_SLOT_ENABLE_WRITE (R374). -/
  | queueSlotEnableWrite (slot : Nat) (v : BitVec 8) (oid : Nat)
  /-- LAUNCH_FETCH (R374). -/
  | launchFetch (slot : Nat)
  /-- SPAWN_ADMIT (R304). -/
  | spawnAdmit (die : Nat)
  /-- TASK_EXPAND (R304). -/
  | taskExpand (die : Nat)
  /-- NODE_RETIRE (R306). -/
  | nodeRetire (id : Nat)
  /-- DEADLINE_DISCARD (R307). -/
  | deadlineDiscard (id : Nat)
  /-- TASK_DISPATCH (R310). -/
  | taskDispatch (die : Nat)
  /-- GANG_DRAIN (R313). -/
  | gangDrain (die : Nat)
  /-- TREE_PROPAGATE (R317). -/
  | treePropagate (slot node : Nat)
  /-- COMPLETION_RECORD_WRITE (R375). -/
  | completionRecordWrite (slot : Nat)
  /-- MSIX_HOLDOFF_EXPIRY (R376). -/
  | msixHoldoffExpiry (slot : Nat)
  /-- MSIX_UNMASK (R376). -/
  | msixUnmask (f vec : Nat)
  /-- DEADLINE_ABORT (R27). -/
  | deadlineAbort (core : Nat)
  /-- POD_MESSAGE_DELIVER (R225). -/
  | podMessageDeliver (core : Nat)
  /-- APPLY_QUEUE_START (R222). -/
  | applyQueueStart (core : Nat)
  /-- NOTICE_DELIVER (R289). -/
  | noticeDeliver
  /-- CARD_START (R189). -/
  | cardStart (core : Nat) (eng : Bool) (id : Nat)
  /-- MATRIX_UNIT_STEP (R202). -/
  | matrixUnitStep (core : Nat)
  /-- COPY_UNIT_WRITE (R209). -/
  | copyUnitWrite (core id : Nat)
  /-- CARD_COMPLETE (R191). -/
  | cardComplete (core : Nat) (eng : Bool) (id : Nat)
  /-- WRITE_BUFFER_DRAIN (R68). -/
  | writeBufferDrain (core bank : Nat)
  /-- ENGINE_BANK_FORCE (R69). -/
  | engineBankForce (core : Nat) (eng : Bool) (bank : Nat)
  /-- PTS_ADVANCE (R249). -/
  | ptsAdvance
  /-- GLOBAL_LOAD_RETURN (R105). -/
  | globalLoadReturn (core ctx : Nat)
  /-- GLOBAL_STORE_RETURN (R249). -/
  | globalStoreReturn (core ctx : Nat)
  /-- LINKED_BARRIER_EVENT (R170). -/
  | linkedBarrierEvent
  /-- POWER_ESTIMATE (R319). -/
  | powerEstimate
  /-- CLOCK_GATE (R318). -/
  | clockGate (core : Nat)
  /-- BUCKET_CHARGE (R316). -/
  | bucketCharge (b ticks : Nat)
  /-- BUCKET_REFILL (R316). -/
  | bucketRefill
  /-- COUNTER_SNAPSHOT (R362). -/
  | counterSnapshot
  /-- COUNTER_WRAP (R360). -/
  | counterWrap (core i amount : Nat)
  /-- LOAN_TERM_EXPIRY (R284). -/
  | loanTermExpiry (name : BitVec 64) (level : Nat)
  /-- GRACE_DEADLINE_EXPIRY (R284). -/
  | graceDeadlineExpiry (name : BitVec 64) (level : Nat)
  /-- TERM_NEAR (R277). -/
  | termNear (name : BitVec 64) (level : Nat)
  /-- OID_IDLE_RETIRE (R292). -/
  | oidIdleRetire (oid : Nat)
  /-- SEG_TERM_END (R232). -/
  | segTermEnd (dom : Nat) (name : BitVec 64)
  /-- STOP_TICK (R339). -/
  | stopTick (core : Nat)
  /-- QUIESCE_END (R340). -/
  | quiesceEnd (core : Nat)
  /-- FLUSH_TOKEN (R341). -/
  | flushToken (core : Nat)
  /-- SAVE_BUFFER_DRAIN (R341). -/
  | saveBufferDrain (core : Nat)
  /-- HUSK_SAVE_STEP (R342). -/
  | huskSaveStep (core : Nat)
  /-- HUSK_VALID (R342). -/
  | huskValid (core : Nat)
  /-- ACCEPT_STOP_END (R280). -/
  | acceptStopEnd (core : Nat)
  /-- RECLAIM_STOP_END (R285). -/
  | reclaimStopEnd (core : Nat)
  /-- POWER_EMERGENCY (R349). -/
  | powerEmergency
  /-- FUNCTION_LEVEL_RESET (R350). -/
  | functionLevelReset (f : Nat)
  /-- KSTOP_WRITE (R338). -/
  | kstopWrite (core : Nat) (v : BitVec 64) (oid : Nat)
  /-- KRESUME_WRITE (R347). -/
  | kresumeWrite (core : Nat) (v : BitVec 64) (oid : Nat)
  /-- EVENT_SELECT_WRITE (R357). -/
  | eventSelectWrite (core i : Nat) (v : BitVec 64) (oid : Nat)
  /-- COUNTER_WRITE (R130). -/
  | counterWrite (core i : Nat) (v : BitVec 64) (oid : Nat)
  /-- TFLAGS_WRITE (R130). -/
  | tflagsWrite (core ctx : Nat) (v : BitVec 64)
  /-- TGEN_WRITE (R329). -/
  | tgenWrite (dom oid : Nat)
  /-- PASID_WRITE (R331). -/
  | pasidWrite (dom : Nat) (v : BitVec 20) (oid : Nat)
  /-- TOFF_WRITE (R355). -/
  | toffWrite (dom : Nat) (v : BitVec 64) (oid : Nat)
  /-- ATS_RESPONSE (R331). -/
  | atsResponse (dom : Nat)
  /-- PASID_RETIRE_END (R331). -/
  | pasidRetireEnd (dom : Nat)
  /-- LOAD_REQUEST (R97). -/
  | loadRequest (dom : Nat) (v : BitVec 64) (oid : Nat)
  /-- LOAD_COMPLETE (R96). -/
  | loadComplete (dom : Nat)
  /-- ATTEST_NONCE_WRITE (R384). -/
  | attestNonceWrite (v : BitVec 384) (oid : Nat)
  /-- ATTEST_REPORT_DONE (R384). -/
  | attestReportDone
  /-- CONTROL_SPACE_WRITE (R322). -/
  | controlSpaceWrite (pa : Nat) (bs : List (BitVec 8)) (oid : Nat)
  /-- HOST_WINDOW_READ (R377). -/
  | hostWindowRead (f off len : Nat)
  /-- HOST_WINDOW_WRITE (R377). -/
  | hostWindowWrite (f off : Nat) (bs : List (BitVec 8))
  /-- HOST_WINDOW_ATOMIC (R377). -/
  | hostWindowAtomic (f off : Nat)
  /-- PEER_READ_REQUEST (R380). -/
  | peerReadRequest (port pa len : Nat)
  /-- PEER_WRITE_REQUEST (R380). -/
  | peerWriteRequest (port pa : Nat) (bs : List (BitVec 8))
  /-- PEER_ATOMIC_REQUEST (R380). -/
  | peerAtomicRequest (port pa : Nat) (op : AmoOp) (w : Bool) (v e : BitVec 64)
  /-- PEER_TIMEOUT (R380). -/
  | peerTimeout (core ctx : Nat)
  /-- add (R107). -/
  | add (d s t : BitVec 5)
  /-- sub (R107). -/
  | sub (d s t : BitVec 5)
  /-- and (R107). -/
  | andX (d s t : BitVec 5)
  /-- or (R107). -/
  | orX (d s t : BitVec 5)
  /-- xor (R107). -/
  | xorX (d s t : BitVec 5)
  /-- andn (R107). -/
  | andn (d s t : BitVec 5)
  /-- orn (R107). -/
  | orn (d s t : BitVec 5)
  /-- brev (R107). -/
  | brev (d s : BitVec 5)
  /-- sll (R107). -/
  | sll (d s t : BitVec 5)
  /-- srl (R107). -/
  | srl (d s t : BitVec 5)
  /-- sra (R107). -/
  | sra (d s t : BitVec 5)
  /-- rol (R107). -/
  | rol (d s t : BitVec 5)
  /-- ror (R107). -/
  | ror (d s t : BitVec 5)
  /-- slt (R107). -/
  | slt (d s t : BitVec 5)
  /-- sltu (R107). -/
  | sltu (d s t : BitVec 5)
  /-- min (R107). -/
  | minX (d s t : BitVec 5)
  /-- max (R107). -/
  | maxX (d s t : BitVec 5)
  /-- minu (R107). -/
  | minu (d s t : BitVec 5)
  /-- maxu (R107). -/
  | maxu (d s t : BitVec 5)
  /-- mul (R107). -/
  | mul (d s t : BitVec 5)
  /-- mulh (R107). -/
  | mulh (d s t : BitVec 5)
  /-- mulhu (R107). -/
  | mulhu (d s t : BitVec 5)
  /-- div (R47). -/
  | div (d s t : BitVec 5)
  /-- divu (R47). -/
  | divu (d s t : BitVec 5)
  /-- rem (R47). -/
  | rem (d s t : BitVec 5)
  /-- remu (R47). -/
  | remu (d s t : BitVec 5)
  /-- clz (R107). -/
  | clz (d s : BitVec 5)
  /-- ctz (R107). -/
  | ctz (d s : BitVec 5)
  /-- popc (R107). -/
  | popc (d s : BitVec 5)
  /-- bswap (R107). -/
  | bswap (d s : BitVec 5)
  /-- sext (R107). -/
  | sext (d s : BitVec 5) (w : ExtW)
  /-- zext (R107). -/
  | zext (d s : BitVec 5) (w : ExtW)
  /-- addi (R108). -/
  | addi (d s : BitVec 5) (i : BitVec 14)
  /-- addi (R108). -/
  | addiLit (d s : BitVec 5) (l : BitVec 64)
  /-- andi (R108). -/
  | andi (d s : BitVec 5) (i : BitVec 14)
  /-- andi (R108). -/
  | andiLit (d s : BitVec 5) (l : BitVec 64)
  /-- ori (R108). -/
  | ori (d s : BitVec 5) (i : BitVec 14)
  /-- ori (R108). -/
  | oriLit (d s : BitVec 5) (l : BitVec 64)
  /-- xori (R108). -/
  | xori (d s : BitVec 5) (i : BitVec 14)
  /-- xori (R108). -/
  | xoriLit (d s : BitVec 5) (l : BitVec 64)
  /-- slti (R108). -/
  | slti (d s : BitVec 5) (i : BitVec 14)
  /-- slti (R108). -/
  | sltiLit (d s : BitVec 5) (l : BitVec 64)
  /-- sltiu (R108). -/
  | sltiu (d s : BitVec 5) (i : BitVec 14)
  /-- sltiu (R108). -/
  | sltiuLit (d s : BitVec 5) (l : BitVec 64)
  /-- slli (R109). -/
  | slli (d s : BitVec 5) (h : BitVec 6)
  /-- srli (R109). -/
  | srli (d s : BitVec 5) (h : BitVec 6)
  /-- srai (R109). -/
  | srai (d s : BitVec 5) (h : BitVec 6)
  /-- rori (R109). -/
  | rori (d s : BitVec 5) (h : BitVec 6)
  /-- lui (R110). -/
  | lui (d : BitVec 5) (i : BitVec 19)
  /-- pcadd (R110). -/
  | pcadd (d : BitVec 5) (i : BitVec 19)
  /-- pcadd (R110). -/
  | pcaddLit (d : BitVec 5) (l : BitVec 64)
  /-- li (R110). -/
  | li (d : BitVec 5) (l : BitVec 64)
  /-- lea (R111). -/
  | lea (d b c sh : BitVec 5) (i : BitVec 32)
  /-- lea (R111). -/
  | leaLit (d b c sh : BitVec 5) (l : BitVec 64)
  /-- bfx (R112). -/
  | bfx (d s : BitVec 5) (p : BitVec 6) (w : BitVec 7)
  /-- bfxu (R112). -/
  | bfxu (d s : BitVec 5) (p : BitVec 6) (w : BitVec 7)
  /-- bfi (R112). -/
  | bfi (d s : BitVec 5) (p : BitVec 6) (w : BitVec 7)
  /-- csel (R112). -/
  | csel (d s t e : BitVec 5)
  /-- mad (R112). -/
  | mad (d s t e : BitVec 5)
  /-- wfield (R112). -/
  | wfield (d s t : BitVec 5)
  /-- fadd (R113). -/
  | fadd (d s t : BitVec 5)
  /-- fadd (R113). -/
  | faddExt (d s t : BitVec 5) (r : Rnd)
  /-- fsub (R113). -/
  | fsub (d s t : BitVec 5)
  /-- fsub (R113). -/
  | fsubExt (d s t : BitVec 5) (r : Rnd)
  /-- fmul (R113). -/
  | fmul (d s t : BitVec 5)
  /-- fmul (R113). -/
  | fmulExt (d s t : BitVec 5) (r : Rnd)
  /-- fdiv (R113). -/
  | fdiv (d s t : BitVec 5)
  /-- fdiv (R113). -/
  | fdivExt (d s t : BitVec 5) (r : Rnd)
  /-- fsqrt (R113). -/
  | fsqrt (d s : BitVec 5)
  /-- fsqrt (R113). -/
  | fsqrtExt (d s : BitVec 5) (r : Rnd)
  /-- fmin (R113). -/
  | fmin (d s t : BitVec 5)
  /-- fmax (R113). -/
  | fmax (d s t : BitVec 5)
  /-- fmadd (R113). -/
  | fmadd (d s t e : BitVec 5) (r : Rnd)
  /-- feq (R114). -/
  | feq (d s t : BitVec 5)
  /-- flt (R114). -/
  | flt (d s t : BitVec 5)
  /-- fle (R114). -/
  | fle (d s t : BitVec 5)
  /-- fclass (R114). -/
  | fclass (d s : BitVec 5)
  /-- fcvti (R113). -/
  | fcvti (d s : BitVec 5) (r : Rnd)
  /-- fcvtf (R113). -/
  | fcvtf (d s : BitVec 5) (r : Rnd)
  /-- ld (R116). -/
  | ld (w : IntT) (o : BitVec 11) (b d : BitVec 5)
  /-- ld (R116). -/
  | ldLit (w : IntT) (l : BitVec 64) (b d : BitVec 5)
  /-- ld.p (R117). -/
  | ldP (w : IntT) (o : BitVec 11) (b d : BitVec 5)
  /-- st (R116). -/
  | st (w : BitVec 2) (o : BitVec 11) (b v : BitVec 5)
  /-- st (R116). -/
  | stLit (w : BitVec 2) (l : BitVec 64) (b v : BitVec 5)
  /-- st.p (R117). -/
  | stP (w : BitVec 2) (o : BitVec 11) (b v : BitVec 5)
  /-- ldx (R156). -/
  | ldx (w : IntT) (sh : BitVec 3) (i : BitVec 32) (d b c : BitVec 5)
  /-- ldx (R156). -/
  | ldxLit (w : IntT) (sh : BitVec 3) (l : BitVec 64) (d b c : BitVec 5)
  /-- stx (R156). -/
  | stx (w : BitVec 2) (sh : BitVec 3) (i : BitVec 32) (v b c : BitVec 5)
  /-- stx (R156). -/
  | stxLit (w : BitVec 2) (sh : BitVec 3) (l : BitVec 64) (v b c : BitVec 5)
  /-- amo.add (R158). -/
  | amoAdd (p : Scope) (w : Bool) (d a v : BitVec 5)
  /-- amo.and (R158). -/
  | amoAnd (p : Scope) (w : Bool) (d a v : BitVec 5)
  /-- amo.or (R158). -/
  | amoOr (p : Scope) (w : Bool) (d a v : BitVec 5)
  /-- amo.xor (R158). -/
  | amoXor (p : Scope) (w : Bool) (d a v : BitVec 5)
  /-- amo.min (R158). -/
  | amoMin (p : Scope) (w : Bool) (d a v : BitVec 5)
  /-- amo.max (R158). -/
  | amoMax (p : Scope) (w : Bool) (d a v : BitVec 5)
  /-- amo.minu (R158). -/
  | amoMinu (p : Scope) (w : Bool) (d a v : BitVec 5)
  /-- amo.maxu (R158). -/
  | amoMaxu (p : Scope) (w : Bool) (d a v : BitVec 5)
  /-- amo.swap (R158). -/
  | amoSwap (p : Scope) (w : Bool) (d a v : BitVec 5)
  /-- amo.fadd (R158). -/
  | amoFadd (p : Scope) (d a v : BitVec 5)
  /-- amo.cas (R158). -/
  | amoCas (p : Scope) (w : Bool) (d a v e : BitVec 5)
  /-- fence.imem (R162). -/
  | fenceImem
  /-- fence.ext (R163). -/
  | fenceExt
  /-- discard (R164). -/
  | discard (s t : BitVec 5)
  /-- dpref (R165). -/
  | dpref (l : Bool) (s : BitVec 5)
  /-- ipref (R165). -/
  | ipref (s : BitVec 5)
  /-- beq (R119). -/
  | beq (o : BitVec 11) (s t : BitVec 5)
  /-- beq (R119). -/
  | beqExt (o : BitVec 32) (s t : BitVec 5)
  /-- beq (R119). -/
  | beqLit (l : BitVec 64) (s t : BitVec 5)
  /-- bne (R119). -/
  | bne (o : BitVec 11) (s t : BitVec 5)
  /-- bne (R119). -/
  | bneExt (o : BitVec 32) (s t : BitVec 5)
  /-- bne (R119). -/
  | bneLit (l : BitVec 64) (s t : BitVec 5)
  /-- blt (R119). -/
  | blt (o : BitVec 11) (s t : BitVec 5)
  /-- blt (R119). -/
  | bltExt (o : BitVec 32) (s t : BitVec 5)
  /-- blt (R119). -/
  | bltLit (l : BitVec 64) (s t : BitVec 5)
  /-- bge (R119). -/
  | bge (o : BitVec 11) (s t : BitVec 5)
  /-- bge (R119). -/
  | bgeExt (o : BitVec 32) (s t : BitVec 5)
  /-- bge (R119). -/
  | bgeLit (l : BitVec 64) (s t : BitVec 5)
  /-- bltu (R119). -/
  | bltu (o : BitVec 11) (s t : BitVec 5)
  /-- bltu (R119). -/
  | bltuExt (o : BitVec 32) (s t : BitVec 5)
  /-- bltu (R119). -/
  | bltuLit (l : BitVec 64) (s t : BitVec 5)
  /-- bgeu (R119). -/
  | bgeu (o : BitVec 11) (s t : BitVec 5)
  /-- bgeu (R119). -/
  | bgeuExt (o : BitVec 32) (s t : BitVec 5)
  /-- bgeu (R119). -/
  | bgeuLit (l : BitVec 64) (s t : BitVec 5)
  /-- b (R120). -/
  | b (o : BitVec 24)
  /-- b (R120). -/
  | bLit (l : BitVec 64)
  /-- bl (R120). -/
  | bl (o : BitVec 24)
  /-- bl (R120). -/
  | blLit (l : BitVec 64)
  /-- br (R121). -/
  | br (s : BitVec 5)
  /-- blr (R121). -/
  | blr (d s : BitVec 5)
  /-- ret (R121). -/
  | ret
  /-- loop (R122). -/
  | loop (c : BitVec 5) (r : Bool) (o : BitVec 18)
  /-- start (R18). -/
  | start (d s t : BitVec 5)
  /-- join (R19). -/
  | join (d s : BitVec 5)
  /-- endc (R18). -/
  | endc (s : BitVec 5)
  /-- yield (R18). -/
  | yield
  /-- trap (R127). -/
  | trap (n : BitVec 4) (s : BitVec 5)
  /-- brk (R127). -/
  | brk
  /-- tret (R128). -/
  | tret
  /-- rdsr (R129). -/
  | rdsr (d : BitVec 5) (i : BitVec 10)
  /-- wrsr (R129). -/
  | wrsr (i : BitVec 10) (s : BitVec 5)
  /-- rdtime (R131). -/
  | rdtime (d : BitVec 5)
  /-- vld (R137). -/
  | vld (t : Type4) (k : BitVec 3) (i : BitVec 32) (a b : BitVec 5)
  /-- vld (R137). -/
  | vldLit (t : Type4) (k : BitVec 3) (l : BitVec 64) (a b : BitVec 5)
  /-- vld.p (R137). -/
  | vldP (t : Type4) (k : BitVec 3) (i : BitVec 32) (a b : BitVec 5)
  /-- vld.p (R137). -/
  | vldPLit (t : Type4) (k : BitVec 3) (l : BitVec 64) (a b : BitVec 5)
  /-- vlds (R137). -/
  | vlds (t : Type4) (k : BitVec 3) (i : BitVec 32) (a b c : BitVec 5)
  /-- vlds (R137). -/
  | vldsLit (t : Type4) (k : BitVec 3) (l : BitVec 64) (a b c : BitVec 5)
  /-- vldx (R137). -/
  | vldx (t : Type4) (k sh : BitVec 3) (i : BitVec 32) (a b c : BitVec 5)
  /-- vldx (R137). -/
  | vldxLit (t : Type4) (k sh : BitVec 3) (l : BitVec 64) (a b c : BitVec 5)
  /-- vldb (R137). -/
  | vldb (t : Type4) (k : BitVec 3) (i : BitVec 32) (a b : BitVec 5)
  /-- vldb (R137). -/
  | vldbLit (t : Type4) (k : BitVec 3) (l : BitVec 64) (a b : BitVec 5)
  /-- vst (R137). -/
  | vst (t : Type4) (k : BitVec 3) (i : BitVec 32) (a b : BitVec 5)
  /-- vst (R137). -/
  | vstLit (t : Type4) (k : BitVec 3) (l : BitVec 64) (a b : BitVec 5)
  /-- vst.p (R137). -/
  | vstP (t : Type4) (k : BitVec 3) (i : BitVec 32) (a b : BitVec 5)
  /-- vst.p (R137). -/
  | vstPLit (t : Type4) (k : BitVec 3) (l : BitVec 64) (a b : BitVec 5)
  /-- vsts (R137). -/
  | vsts (t : Type4) (k : BitVec 3) (i : BitVec 32) (a b c : BitVec 5)
  /-- vsts (R137). -/
  | vstsLit (t : Type4) (k : BitVec 3) (l : BitVec 64) (a b c : BitVec 5)
  /-- vstx (R137). -/
  | vstx (t : Type4) (k sh : BitVec 3) (i : BitVec 32) (a b c : BitVec 5)
  /-- vstx (R137). -/
  | vstxLit (t : Type4) (k sh : BitVec 3) (l : BitVec 64) (a b c : BitVec 5)
  /-- vadd (R140). -/
  | vadd (k : BitVec 2) (y : LaneT) (a b c : BitVec 5)
  /-- vadd (R140). -/
  | vaddExt (k : BitVec 3) (y : LaneT) (r : Rnd) (a b c : BitVec 5)
  /-- vsub (R140). -/
  | vsub (k : BitVec 2) (y : LaneT) (a b c : BitVec 5)
  /-- vsub (R140). -/
  | vsubExt (k : BitVec 3) (y : LaneT) (r : Rnd) (a b c : BitVec 5)
  /-- vmul (R140). -/
  | vmul (k : BitVec 2) (y : LaneT) (a b c : BitVec 5)
  /-- vmul (R140). -/
  | vmulExt (k : BitVec 3) (y : LaneT) (r : Rnd) (a b c : BitVec 5)
  /-- vmin (R140). -/
  | vmin (k : BitVec 2) (y : LaneT) (a b c : BitVec 5)
  /-- vmin (R140). -/
  | vminExt (k : BitVec 3) (y : LaneT) (a b c : BitVec 5)
  /-- vmax (R140). -/
  | vmax (k : BitVec 2) (y : LaneT) (a b c : BitVec 5)
  /-- vmax (R140). -/
  | vmaxExt (k : BitVec 3) (y : LaneT) (a b c : BitVec 5)
  /-- vand (R140). -/
  | vand (k : BitVec 2) (y : LaneT) (a b c : BitVec 5)
  /-- vand (R140). -/
  | vandExt (k : BitVec 3) (y : LaneT) (a b c : BitVec 5)
  /-- vor (R140). -/
  | vor (k : BitVec 2) (y : LaneT) (a b c : BitVec 5)
  /-- vor (R140). -/
  | vorExt (k : BitVec 3) (y : LaneT) (a b c : BitVec 5)
  /-- vxor (R140). -/
  | vxor (k : BitVec 2) (y : LaneT) (a b c : BitVec 5)
  /-- vxor (R140). -/
  | vxorExt (k : BitVec 3) (y : LaneT) (a b c : BitVec 5)
  /-- vandn (R140). -/
  | vandn (k : BitVec 2) (y : LaneT) (a b c : BitVec 5)
  /-- vandn (R140). -/
  | vandnExt (k : BitVec 3) (y : LaneT) (a b c : BitVec 5)
  /-- vshl (R140). -/
  | vshl (k : BitVec 2) (y : LaneT) (a b c : BitVec 5)
  /-- vshl (R140). -/
  | vshlExt (k : BitVec 3) (y : LaneT) (a b c : BitVec 5)
  /-- vshr (R140). -/
  | vshr (k : BitVec 2) (y : LaneT) (a b c : BitVec 5)
  /-- vshr (R140). -/
  | vshrExt (k : BitVec 3) (y : LaneT) (a b c : BitVec 5)
  /-- vsra (R140). -/
  | vsra (k : BitVec 2) (y : LaneT) (a b c : BitVec 5)
  /-- vsra (R140). -/
  | vsraExt (k : BitVec 3) (y : LaneT) (a b c : BitVec 5)
  /-- vabs (R140). -/
  | vabs (k : BitVec 2) (y : LaneT) (a b : BitVec 5)
  /-- vabs (R140). -/
  | vabsExt (k : BitVec 3) (y : LaneT) (a b : BitVec 5)
  /-- vneg (R140). -/
  | vneg (k : BitVec 2) (y : LaneT) (a b : BitVec 5)
  /-- vneg (R140). -/
  | vnegExt (k : BitVec 3) (y : LaneT) (a b : BitVec 5)
  /-- vmov (R140). -/
  | vmov (k : BitVec 2) (y : LaneT) (a b : BitVec 5)
  /-- vmov (R140). -/
  | vmovExt (k : BitVec 3) (y : LaneT) (a b : BitVec 5)
  /-- vsel (R140). -/
  | vsel (k : BitVec 2) (y : LaneT) (a b c : BitVec 5)
  /-- vsel (R140). -/
  | vselExt (k : BitVec 3) (y : LaneT) (a b c : BitVec 5)
  /-- vminu (R140). -/
  | vminu (k : BitVec 2) (y : LaneT) (a b c : BitVec 5)
  /-- vminu (R140). -/
  | vminuExt (k : BitVec 3) (y : LaneT) (a b c : BitVec 5)
  /-- vmaxu (R140). -/
  | vmaxu (k : BitVec 2) (y : LaneT) (a b c : BitVec 5)
  /-- vmaxu (R140). -/
  | vmaxuExt (k : BitVec 3) (y : LaneT) (a b c : BitVec 5)
  /-- vmulh (R140). -/
  | vmulh (k : BitVec 2) (y : LaneT) (a b c : BitVec 5)
  /-- vmulh (R140). -/
  | vmulhExt (k : BitVec 3) (y : LaneT) (a b c : BitVec 5)
  /-- vmulhu (R140). -/
  | vmulhu (k : BitVec 2) (y : LaneT) (a b c : BitVec 5)
  /-- vmulhu (R140). -/
  | vmulhuExt (k : BitVec 3) (y : LaneT) (a b c : BitVec 5)
  /-- vavg (R140). -/
  | vavg (k : BitVec 2) (y : LaneT) (a b c : BitVec 5)
  /-- vavg (R140). -/
  | vavgExt (k : BitVec 3) (y : LaneT) (a b c : BitVec 5)
  /-- vadds (R140). -/
  | vadds (k : BitVec 2) (y : LaneT) (a b c : BitVec 5)
  /-- vadds (R140). -/
  | vaddsExt (k : BitVec 3) (y : LaneT) (a b c : BitVec 5)
  /-- vsubs (R140). -/
  | vsubs (k : BitVec 2) (y : LaneT) (a b c : BitVec 5)
  /-- vsubs (R140). -/
  | vsubsExt (k : BitVec 3) (y : LaneT) (a b c : BitVec 5)
  /-- vaddsu (R140). -/
  | vaddsu (k : BitVec 2) (y : LaneT) (a b c : BitVec 5)
  /-- vaddsu (R140). -/
  | vaddsuExt (k : BitVec 3) (y : LaneT) (a b c : BitVec 5)
  /-- vsubsu (R140). -/
  | vsubsu (k : BitVec 2) (y : LaneT) (a b c : BitVec 5)
  /-- vsubsu (R140). -/
  | vsubsuExt (k : BitVec 3) (y : LaneT) (a b c : BitVec 5)
  /-- vcmp.eq (R141). -/
  | vcmpEq (k : BitVec 2) (y : LaneT) (b c : BitVec 5) (a : BitVec 3)
  /-- vcmp.eq (R141). -/
  | vcmpEqExt (k : BitVec 3) (y : LaneT) (b c : BitVec 5) (a : BitVec 3)
  /-- vcmp.ne (R141). -/
  | vcmpNe (k : BitVec 2) (y : LaneT) (b c : BitVec 5) (a : BitVec 3)
  /-- vcmp.ne (R141). -/
  | vcmpNeExt (k : BitVec 3) (y : LaneT) (b c : BitVec 5) (a : BitVec 3)
  /-- vcmp.lt (R141). -/
  | vcmpLt (k : BitVec 2) (y : LaneT) (b c : BitVec 5) (a : BitVec 3)
  /-- vcmp.lt (R141). -/
  | vcmpLtExt (k : BitVec 3) (y : LaneT) (b c : BitVec 5) (a : BitVec 3)
  /-- vcmp.le (R141). -/
  | vcmpLe (k : BitVec 2) (y : LaneT) (b c : BitVec 5) (a : BitVec 3)
  /-- vcmp.le (R141). -/
  | vcmpLeExt (k : BitVec 3) (y : LaneT) (b c : BitVec 5) (a : BitVec 3)
  /-- vcmp.ltu (R141). -/
  | vcmpLtu (k : BitVec 2) (y : LaneT) (b c : BitVec 5) (a : BitVec 3)
  /-- vcmp.ltu (R141). -/
  | vcmpLtuExt (k : BitVec 3) (y : LaneT) (b c : BitVec 5) (a : BitVec 3)
  /-- vcmp.leu (R141). -/
  | vcmpLeu (k : BitVec 2) (y : LaneT) (b c : BitVec 5) (a : BitVec 3)
  /-- vcmp.leu (R141). -/
  | vcmpLeuExt (k : BitVec 3) (y : LaneT) (b c : BitVec 5) (a : BitVec 3)
  /-- vclass (R140). -/
  | vclass (k : BitVec 2) (y : LaneT) (a b : BitVec 5)
  /-- vclass (R140). -/
  | vclassExt (k : BitVec 3) (y : LaneT) (a b : BitVec 5)
  /-- vfma (R142). -/
  | vfma (k : BitVec 2) (y : LaneT) (a b c : BitVec 5)
  /-- vfma (R142). -/
  | vfmaExt (k : BitVec 3) (y : LaneT) (r : Rnd) (a b c : BitVec 5)
  /-- vfms (R142). -/
  | vfms (k : BitVec 2) (y : LaneT) (a b c : BitVec 5)
  /-- vfms (R142). -/
  | vfmsExt (k : BitVec 3) (y : LaneT) (r : Rnd) (a b c : BitVec 5)
  /-- vfnma (R142). -/
  | vfnma (k : BitVec 2) (y : LaneT) (a b c : BitVec 5)
  /-- vfnma (R142). -/
  | vfnmaExt (k : BitVec 3) (y : LaneT) (r : Rnd) (a b c : BitVec 5)
  /-- vfnms (R142). -/
  | vfnms (k : BitVec 2) (y : LaneT) (a b c : BitVec 5)
  /-- vfnms (R142). -/
  | vfnmsExt (k : BitVec 3) (y : LaneT) (r : Rnd) (a b c : BitVec 5)
  /-- vdot4 (R143). -/
  | vdot4 (k : BitVec 2) (y : LaneT) (a b c : BitVec 5)
  /-- vdot4 (R143). -/
  | vdot4Ext (k : BitVec 3) (y : LaneT) (a b c : BitVec 5)
  /-- vdot2 (R143). -/
  | vdot2 (k : BitVec 2) (y : LaneT) (a b c : BitVec 5)
  /-- vdot2 (R143). -/
  | vdot2Ext (k : BitVec 3) (y : LaneT) (r : Rnd) (a b c : BitVec 5)
  /-- vexp2 (R144). -/
  | vexp2 (k : BitVec 2) (y : LaneT) (a b : BitVec 5)
  /-- vexp2 (R144). -/
  | vexp2Ext (k : BitVec 3) (y : LaneT) (a b : BitVec 5)
  /-- vlog2 (R144). -/
  | vlog2 (k : BitVec 2) (y : LaneT) (a b : BitVec 5)
  /-- vlog2 (R144). -/
  | vlog2Ext (k : BitVec 3) (y : LaneT) (a b : BitVec 5)
  /-- vrcp (R144). -/
  | vrcp (k : BitVec 2) (y : LaneT) (a b : BitVec 5)
  /-- vrcp (R144). -/
  | vrcpExt (k : BitVec 3) (y : LaneT) (a b : BitVec 5)
  /-- vrsqrt (R144). -/
  | vrsqrt (k : BitVec 2) (y : LaneT) (a b : BitVec 5)
  /-- vrsqrt (R144). -/
  | vrsqrtExt (k : BitVec 3) (y : LaneT) (a b : BitVec 5)
  /-- vsqrt (R144). -/
  | vsqrt (k : BitVec 2) (y : LaneT) (a b : BitVec 5)
  /-- vsqrt (R144). -/
  | vsqrtExt (k : BitVec 3) (y : LaneT) (a b : BitVec 5)
  /-- vtanh (R144). -/
  | vtanh (k : BitVec 2) (y : LaneT) (a b : BitVec 5)
  /-- vtanh (R144). -/
  | vtanhExt (k : BitVec 3) (y : LaneT) (a b : BitVec 5)
  /-- vsigm (R144). -/
  | vsigm (k : BitVec 2) (y : LaneT) (a b : BitVec 5)
  /-- vsigm (R144). -/
  | vsigmExt (k : BitVec 3) (y : LaneT) (a b : BitVec 5)
  /-- vdiv (R144). -/
  | vdiv (k : BitVec 2) (y : LaneT) (a b c : BitVec 5)
  /-- vdiv (R144). -/
  | vdivExt (k : BitVec 3) (y : LaneT) (a b c : BitVec 5)
  /-- vcvt (R145). -/
  | vcvt (td ts : Type4) (part : BitVec 3) (r : Rnd) (k : BitVec 3) (a b : BitVec 5)
  /-- vpackgx (R146). -/
  | vpackgx (g : GxT) (off : BitVec 7) (a b : BitVec 5)
  /-- vunpackgx (R146). -/
  | vunpackgx (g : GxT) (off : BitVec 7) (k : BitVec 3) (a b : BitVec 5)
  /-- vperm (R147). -/
  | vperm (k : BitVec 2) (y : LaneT) (a b c : BitVec 5)
  /-- vperm (R147). -/
  | vpermExt (k : BitVec 3) (y : LaneT) (a b c : BitVec 5)
  /-- vslideup (R147). -/
  | vslideup (k : BitVec 2) (y : LaneT) (a b c : BitVec 5)
  /-- vslideup (R147). -/
  | vslideupExt (k : BitVec 3) (y : LaneT) (a b c : BitVec 5)
  /-- vslidedn (R147). -/
  | vslidedn (k : BitVec 2) (y : LaneT) (a b c : BitVec 5)
  /-- vslidedn (R147). -/
  | vslidednExt (k : BitVec 3) (y : LaneT) (a b c : BitVec 5)
  /-- vbcast (R147). -/
  | vbcast (k : BitVec 2) (y : LaneT) (a b : BitVec 5)
  /-- vbcast (R147). -/
  | vbcastExt (k : BitVec 3) (y : LaneT) (a b : BitVec 5)
  /-- vext (R147). -/
  | vext (y : LaneT) (a b c : BitVec 5)
  /-- vext (R147). -/
  | vextExt (y : LaneT) (a b c : BitVec 5)
  /-- vins (R147). -/
  | vins (k : BitVec 2) (y : LaneT) (a b c : BitVec 5)
  /-- vins (R147). -/
  | vinsExt (k : BitVec 3) (y : LaneT) (a b c : BitVec 5)
  /-- vzip (R147). -/
  | vzip (k : BitVec 2) (y : LaneT) (a b c : BitVec 5)
  /-- vzip (R147). -/
  | vzipExt (k : BitVec 3) (y : LaneT) (a b c : BitVec 5)
  /-- vunzip (R147). -/
  | vunzip (k : BitVec 2) (y : LaneT) (a b : BitVec 5)
  /-- vunzip (R147). -/
  | vunzipExt (k : BitVec 3) (y : LaneT) (a b : BitVec 5)
  /-- vrev (R147). -/
  | vrev (k : BitVec 2) (y : LaneT) (a b : BitVec 5)
  /-- vrev (R147). -/
  | vrevExt (k : BitVec 3) (y : LaneT) (a b : BitVec 5)
  /-- vscan.add (R147). -/
  | vscanAdd (k : BitVec 2) (y : LaneT) (a b : BitVec 5)
  /-- vscan.add (R147). -/
  | vscanAddExt (k : BitVec 3) (y : LaneT) (r : Rnd) (a b : BitVec 5)
  /-- vscan.max (R147). -/
  | vscanMax (k : BitVec 2) (y : LaneT) (a b : BitVec 5)
  /-- vscan.max (R147). -/
  | vscanMaxExt (k : BitVec 3) (y : LaneT) (r : Rnd) (a b : BitVec 5)
  /-- vkeep2 (R148). -/
  | vkeep2 (y : LaneT) (a b : BitVec 5) (c : BitVec 3)
  /-- vkeep2 (R148). -/
  | vkeep2Ext (y : LaneT) (a b : BitVec 5) (c : BitVec 3)
  /-- vred.add (R149). -/
  | vredAdd (k : BitVec 2) (y : LaneT) (a b : BitVec 5)
  /-- vred.add (R149). -/
  | vredAddExt (k : BitVec 3) (y : LaneT) (r : Rnd) (a b : BitVec 5)
  /-- vred.max (R149). -/
  | vredMax (k : BitVec 2) (y : LaneT) (a b : BitVec 5)
  /-- vred.max (R149). -/
  | vredMaxExt (k : BitVec 3) (y : LaneT) (a b : BitVec 5)
  /-- vred.min (R149). -/
  | vredMin (k : BitVec 2) (y : LaneT) (a b : BitVec 5)
  /-- vred.min (R149). -/
  | vredMinExt (k : BitVec 3) (y : LaneT) (a b : BitVec 5)
  /-- mand (R150). -/
  | mand (a b c : BitVec 3)
  /-- mor (R150). -/
  | mor (a b c : BitVec 3)
  /-- mxor (R150). -/
  | mxor (a b c : BitVec 3)
  /-- mandn (R150). -/
  | mandn (a b c : BitVec 3)
  /-- mnot (R150). -/
  | mnot (a b : BitVec 3)
  /-- mpopc (R150). -/
  | mpopc (a : BitVec 5) (b : BitVec 3)
  /-- mfirst (R150). -/
  | mfirst (a : BitVec 5) (b : BitVec 3)
  /-- mfromx (R150). -/
  | mfromx (h : Bool) (a : BitVec 3) (b : BitVec 5)
  /-- mtox (R150). -/
  | mtox (h : Bool) (a : BitVec 5) (b : BitVec 3)
  /-- mlanes (R150). -/
  | mlanes (a : BitVec 3) (b : BitVec 5)
  /-- sadd (R152). -/
  | sadd (r : Rnd) (a b c : BitVec 5)
  /-- ssub (R152). -/
  | ssub (r : Rnd) (a b c : BitVec 5)
  /-- smul (R152). -/
  | smul (r : Rnd) (a b c : BitVec 5)
  /-- sfma (R152). -/
  | sfma (r : Rnd) (a b c : BitVec 5)
  /-- smin (R152). -/
  | smin (a b c : BitVec 5)
  /-- smax (R152). -/
  | smax (a b c : BitVec 5)
  /-- scvt (R152). -/
  | scvt (r : Rnd) (a b : BitVec 5)
  /-- scopy (R152). -/
  | scopy (a b : BitVec 5)
  /-- sexp2 (R152). -/
  | sexp2 (a b : BitVec 5)
  /-- srsum (R153). -/
  | srsum (r : Rnd) (a b : BitVec 5)
  /-- srmax (R153). -/
  | srmax (a b : BitVec 5)
  /-- sbcast (R152). -/
  | sbcast (a b : BitVec 5)
  /-- shp.check (R154). -/
  | shpCheck (a b c e : BitVec 5)
  /-- post.mx (R184). -/
  | postMx (d : BitVec 4) (s : BitVec 5)
  /-- post.cp (R184). -/
  | postCp (d : BitVec 4) (s : BitVec 5)
  /-- fwait (R185). -/
  | fwait (d : BitVec 5) (s : BitVec 4)
  /-- ftest (R185). -/
  | ftest (d : BitVec 5) (s : BitVec 4)
  /-- fcancel (R186). -/
  | fcancel (s : BitVec 4)
  /-- fwaitany (R185). -/
  | fwaitany (d s : BitVec 5)
  /-- fmovx (R187). -/
  | fmovx (d : BitVec 5) (s : BitVec 4)
  /-- xmovf (R187). -/
  | xmovf (d : BitVec 4) (s : BitVec 5)
  /-- fence.cards (R188). -/
  | fenceCards
  /-- bar.init (R168). -/
  | barInit (b : BitVec 6) (s : BitVec 5)
  /-- bar.init (R168). -/
  | barInitImm (b : BitVec 6) (n : BitVec 32)
  /-- bar.arrive (R168). -/
  | barArrive (b : BitVec 6)
  /-- bar.drop (R168). -/
  | barDrop (b : BitVec 6)
  /-- bar.wait (R168). -/
  | barWait (b : BitVec 6)
  /-- bar.expect (R168). -/
  | barExpect (b : BitVec 6) (s : BitVec 5)
  /-- bar.expect (R168). -/
  | barExpectImm (b : BitVec 6) (n : BitVec 32)
  /-- bar.test (R168). -/
  | barTest (b : BitVec 6) (d : BitVec 5)
  /-- bar.link (R170). -/
  | barLink (b : BitVec 6) (s : BitVec 5)
  /-- pcap (R219). -/
  | pcap (d : BitVec 4) (s : BitVec 5) (xm : BitVec 8) (vm : BitVec 2)
  /-- pcapr (R219). -/
  | pcapr (g : Bool) (d : BitVec 4) (s : BitVec 5) (xm : BitVec 8) (vm : BitVec 2) (e : BitVec 5)
  /-- pcall (R221). -/
  | pcall (o : Bool) (s : BitVec 4)
  /-- pspawn (R222). -/
  | pspawn (o : Bool) (d : BitVec 5) (s : BitVec 4)
  /-- psend (R225). -/
  | psend (d : BitVec 5) (s : BitVec 4) (t : BitVec 5)
  /-- pdup (R223). -/
  | pdup (d s : BitVec 4)
  /-- prel (R223). -/
  | prel (s : BitVec 4)
  /-- pget (R223). -/
  | pget (d : BitVec 5) (s : BitVec 4)
  /-- pexport (R224). -/
  | pexport (d : BitVec 5) (s : BitVec 4)
  /-- pimport (R224). -/
  | pimport (d : BitVec 4) (s : BitVec 5)
  /-- seg.make (R239). -/
  | segMake (cls : BitVec 2) (cnt : BitVec 11) (d s t e : BitVec 5)
  /-- seg.attach (R240). -/
  | segAttach (m : BitVec 2) (d s : BitVec 5)
  /-- seg.detach (R241). -/
  | segDetach (s : BitVec 5)
  /-- seg.publish (R241). -/
  | segPublish (d s : BitVec 5)
  /-- seg.evict (R242). -/
  | segEvict (d s : BitVec 5)
  /-- seg.drop (R242). -/
  | segDrop (d s : BitVec 5)
  /-- seg.query (R243). -/
  | segQuery (d s : BitVec 5)
  /-- ibx.take (R172). -/
  | ibxTake
  /-- task.end (R173). -/
  | taskEnd (f : Bool) (s : BitVec 5)
  /-- task.spawn (R174). -/
  | taskSpawn (d s : BitVec 5)
  /-- task.spawn (R174). -/
  | taskSpawnExt (d s : BitVec 5) (i : BitVec 32)
  /-- task.spawn (R174). -/
  | taskSpawnLit (d s : BitVec 5) (l : BitVec 64)
  /-- rng.open (R175). -/
  | rngOpen (d s t e : BitVec 5)
  /-- rng.take (R176). -/
  | rngTake (d s : BitVec 5)
  /-- rng.close (R176). -/
  | rngClose (s : BitVec 5)
  /-- gang.lead (R177). -/
  | gangLead
  /-- gang.follow (R177). -/
  | gangFollow
  /-- gang.join (R24). -/
  | gangJoin (y : Bool)
  /-- gang.leave (R177). -/
  | gangLeave
  /-- give (R279). -/
  | give (s t : BitVec 5)
  /-- give (R279). -/
  | giveExt (clr : Bool) (s t e : BitVec 5)
  /-- accept (R280). -/
  | accept (s : BitVec 5)
  /-- decline (R281). -/
  | decline (s : BitVec 5)
  /-- lend (R282). -/
  | lend (rc clr : Bool) (h s t e : BitVec 5) (g : BitVec 32)
  /-- lend (R282). -/
  | lendLit (rc clr : Bool) (h s t e : BitVec 5) (g : BitVec 32)
  /-- recall (R283). -/
  | recall (d s : BitVec 5)
  /-- reclaim (R285). -/
  | reclaim (d s : BitVec 5)
  /-- own.q (R275). -/
  | ownQ (w : BitVec 2) (d s : BitVec 5)
  /-- mint (R290). -/
  | mint (d s : BitVec 5)
  /-- retire (R291). -/
  | retire
  /-- own.hook (R288). -/
  | ownHook (k : BitVec 3) (s : BitVec 4)
  /-- kread (R293). -/
  | kread (d s : BitVec 5) (i : BitVec 10) (x : BitVec 4)
  /-- kwrite (R293). -/
  | kwrite (s v : BitVec 5) (i : BitVec 10) (x : BitVec 4)
  /-- UNDECODABLE_WORD (R84). -/
  | undecodableWord (cause : BitVec 8) (tval : BitVec 64)
  /-- RESUME_COMPLETE (R347). -/
  | resumeComplete (core : Nat)
deriving DecidableEq, Repr

end Sys2Proof
end

