-- ==== Sys2Proof/WellFormed.lean ====
section
/-! DEFINITION. Which instructions have an encoding: the limits of R80 to R83 and of each
instruction's reference that the operand types alone do not state. -/

namespace Sys2Proof

/-- Floating-point lane types (R87). -/
def LaneT.isF : LaneT → Bool
  | .f32 | .f16 | .bf16 => true
  | _ => false

/-- Integer lane types (R87). -/
def LaneT.isI : LaneT → Bool
  | .i8 | .i16 | .i32 | .i64 => true
  | _ => false

/-- Types of vadd and its like: floats and integers (R140). -/
def LaneT.FI : LaneT → Bool
  | .b32 => false
  | _ => true
/-- Integer types only (R140). -/
def LaneT.I (y : LaneT) : Bool := y.isI
/-- Integers and the bits type (R140). -/
def LaneT.IB : LaneT → Bool
  | .f32 | .f16 | .bf16 => false
  | _ => true
/-- Floating-point types only (R140, R144). -/
def LaneT.F (y : LaneT) : Bool := y.isF
/-- Any lane type (R147). -/
def LaneT.any : LaneT → Bool := fun _ => true
/-- The type of vdot4 (R143). -/
def LaneT.dot4 : LaneT → Bool
  | .i8 => true
  | _ => false
/-- The types of vdot2 (R143). -/
def LaneT.dot2 : LaneT → Bool
  | .f16 | .bf16 | .i16 => true
  | _ => false
/-- The types of vkeep2 (R148). -/
def LaneT.keep : LaneT → Bool
  | .i64 | .b32 => false
  | _ => true

/-- Types of a vector memory access and of vcvt: the lane types of R87, codes 0 to 10. -/
def Type4.lane : Type4 → Bool
  | .gx2 | .gx4 | .gx7 | .b1 => false
  | _ => true

/-- Bits of one element (R46, R49, R87). -/
def Type4.bits : Type4 → Nat
  | .f32 => 32 | .f16 => 16 | .bf16 => 16 | .i8 => 8 | .i16 => 16 | .i32 => 32 | .i64 => 64
  | .n8 => 8 | .n16 => 16 | .n32 => 32 | .n64 => 64 | .gx2 => 2 | .gx4 => 4 | .gx7 => 7 | .b1 => 1

/-- Bytes of one block of 16 elements (R55). -/
def GxT.blockBytes : GxT → Nat
  | .gx2 => 8 | .gx4 => 12 | .gx7 => 18

/-- The part of vcvt names a part that the conversion has (R145). -/
def cvtPartOk (td ts : Type4) (part : BitVec 3) : Bool :=
  let r := if ts.bits < td.bits then td.bits / ts.bits else ts.bits / td.bits
  part.toNat < (if r = 0 then 1 else r)

/-- The bit field of bfx, bfxu and bfi lies in the register (R112). -/
def bfOk (p : BitVec 6) (w : BitVec 7) : Bool :=
  decide (1 ≤ w.toNat) && decide (p.toNat + w.toNat ≤ 64) && decide (w.toNat ≤ 64)

/-- The byte offset of vpackgx and vunpackgx leaves room for two blocks (R146). -/
def gxOffOk (g : GxT) (off : BitVec 7) : Bool := decide (off.toNat + 2 * g.blockBytes ≤ 128)

/-- A literal branch offset is a multiple of 4 (R83). -/
def mul4 (l : BitVec 64) : Bool := l.extractLsb' 0 2 == 0#2

/-- A type of an extended V-format form is a lane type of `p` with a TYPE4 code. -/
def extType (y : LaneT) (p : LaneT → Bool) : Bool := p y && y != .b32

/-- A rounding mode other than rne stands on a floating-point type only (R82, R140). -/
def modeOk (y : LaneT) (r : Rnd) : Bool := y.isF || r == .rne

/-- The instruction has an encoding. Events of the device, which no word encodes, count as
well-formed. -/
def WellFormed : Instr → Bool
  | .deviceReset => true
  | .selfTestEnd _ => true
  | .recoveryImageCheck => true
  | .mailboxDoorbell _ _ => true
  | .launchDoorbell _ _ _ => true
  | .completionDoorbell _ _ _ => true
  | .tailwWrite _ _ _ => true
  | .queueSlotEnableWrite _ _ _ => true
  | .launchFetch _ => true
  | .spawnAdmit _ => true
  | .taskExpand _ => true
  | .nodeRetire _ => true
  | .deadlineDiscard _ => true
  | .taskDispatch _ => true
  | .gangDrain _ => true
  | .treePropagate _ _ => true
  | .completionRecordWrite _ => true
  | .msixHoldoffExpiry _ => true
  | .msixUnmask _ _ => true
  | .deadlineAbort _ => true
  | .podMessageDeliver _ => true
  | .applyQueueStart _ => true
  | .noticeDeliver => true
  | .cardStart _ _ _ => true
  | .matrixUnitStep _ => true
  | .copyUnitWrite _ _ => true
  | .cardComplete _ _ _ => true
  | .writeBufferDrain _ _ => true
  | .engineBankForce _ _ _ => true
  | .ptsAdvance => true
  | .globalLoadReturn _ _ => true
  | .globalStoreReturn _ _ => true
  | .linkedBarrierEvent => true
  | .powerEstimate => true
  | .clockGate _ => true
  | .bucketCharge _ _ => true
  | .bucketRefill => true
  | .counterSnapshot => true
  | .counterWrap _ _ _ => true
  | .loanTermExpiry _ _ => true
  | .graceDeadlineExpiry _ _ => true
  | .termNear _ _ => true
  | .oidIdleRetire _ => true
  | .segTermEnd _ _ => true
  | .stopTick _ => true
  | .quiesceEnd _ => true
  | .flushToken _ => true
  | .saveBufferDrain _ => true
  | .huskSaveStep _ => true
  | .huskValid _ => true
  | .acceptStopEnd _ => true
  | .reclaimStopEnd _ => true
  | .powerEmergency => true
  | .functionLevelReset _ => true
  | .kstopWrite _ _ _ => true
  | .kresumeWrite _ _ _ => true
  | .eventSelectWrite _ _ _ _ => true
  | .counterWrite _ _ _ _ => true
  | .tflagsWrite _ _ _ => true
  | .tgenWrite _ _ => true
  | .pasidWrite _ _ _ => true
  | .toffWrite _ _ _ => true
  | .atsResponse _ => true
  | .pasidRetireEnd _ => true
  | .loadRequest _ _ _ => true
  | .loadComplete _ => true
  | .attestNonceWrite _ _ => true
  | .attestReportDone => true
  | .controlSpaceWrite _ _ _ => true
  | .hostWindowRead _ _ _ => true
  | .hostWindowWrite _ _ _ => true
  | .hostWindowAtomic _ _ => true
  | .peerReadRequest _ _ _ => true
  | .peerWriteRequest _ _ _ => true
  | .peerAtomicRequest _ _ _ _ _ _ => true
  | .peerTimeout _ _ => true
  | .add _ _ _ => true
  | .sub _ _ _ => true
  | .andX _ _ _ => true
  | .orX _ _ _ => true
  | .xorX _ _ _ => true
  | .andn _ _ _ => true
  | .orn _ _ _ => true
  | .brev _ _ => true
  | .sll _ _ _ => true
  | .srl _ _ _ => true
  | .sra _ _ _ => true
  | .rol _ _ _ => true
  | .ror _ _ _ => true
  | .slt _ _ _ => true
  | .sltu _ _ _ => true
  | .minX _ _ _ => true
  | .maxX _ _ _ => true
  | .minu _ _ _ => true
  | .maxu _ _ _ => true
  | .mul _ _ _ => true
  | .mulh _ _ _ => true
  | .mulhu _ _ _ => true
  | .div _ _ _ => true
  | .divu _ _ _ => true
  | .rem _ _ _ => true
  | .remu _ _ _ => true
  | .clz _ _ => true
  | .ctz _ _ => true
  | .popc _ _ => true
  | .bswap _ _ => true
  | .sext _ _ _ => true
  | .zext _ _ _ => true
  | .addi _ _ _ => true
  | .addiLit _ _ _ => true
  | .andi _ _ _ => true
  | .andiLit _ _ _ => true
  | .ori _ _ _ => true
  | .oriLit _ _ _ => true
  | .xori _ _ _ => true
  | .xoriLit _ _ _ => true
  | .slti _ _ _ => true
  | .sltiLit _ _ _ => true
  | .sltiu _ _ _ => true
  | .sltiuLit _ _ _ => true
  | .slli _ _ _ => true
  | .srli _ _ _ => true
  | .srai _ _ _ => true
  | .rori _ _ _ => true
  | .lui _ _ => true
  | .pcadd _ _ => true
  | .pcaddLit _ _ => true
  | .li _ _ => true
  | .lea _ _ _ _ _ => true
  | .leaLit _ _ _ _ _ => true
  | .bfx _ _ p w => bfOk p w
  | .bfxu _ _ p w => bfOk p w
  | .bfi _ _ p w => bfOk p w
  | .csel _ _ _ _ => true
  | .mad _ _ _ _ => true
  | .wfield _ _ _ => true
  | .fadd _ _ _ => true
  | .faddExt _ _ _ _ => true
  | .fsub _ _ _ => true
  | .fsubExt _ _ _ _ => true
  | .fmul _ _ _ => true
  | .fmulExt _ _ _ _ => true
  | .fdiv _ _ _ => true
  | .fdivExt _ _ _ _ => true
  | .fsqrt _ _ => true
  | .fsqrtExt _ _ _ => true
  | .fmin _ _ _ => true
  | .fmax _ _ _ => true
  | .fmadd _ _ _ _ _ => true
  | .feq _ _ _ => true
  | .flt _ _ _ => true
  | .fle _ _ _ => true
  | .fclass _ _ => true
  | .fcvti _ _ _ => true
  | .fcvtf _ _ _ => true
  | .ld w _ _ _ => w != .n64
  | .ldLit w _ _ _ => w != .n64
  | .ldP w _ _ _ => w != .n64
  | .st _ _ _ _ => true
  | .stLit _ _ _ _ => true
  | .stP _ _ _ _ => true
  | .ldx _ sh _ _ _ _ => sh != 7
  | .ldxLit _ sh _ _ _ _ => sh != 7
  | .stx _ sh _ _ _ _ => sh != 7
  | .stxLit _ sh _ _ _ _ => sh != 7
  | .amoAdd _ _ _ _ _ => true
  | .amoAnd _ _ _ _ _ => true
  | .amoOr _ _ _ _ _ => true
  | .amoXor _ _ _ _ _ => true
  | .amoMin _ _ _ _ _ => true
  | .amoMax _ _ _ _ _ => true
  | .amoMinu _ _ _ _ _ => true
  | .amoMaxu _ _ _ _ _ => true
  | .amoSwap _ _ _ _ _ => true
  | .amoFadd _ _ _ _ => true
  | .amoCas _ _ _ _ _ _ => true
  | .fenceImem => true
  | .fenceExt => true
  | .discard _ _ => true
  | .dpref _ _ => true
  | .ipref _ => true
  | .beq _ _ _ => true
  | .beqExt _ _ _ => true
  | .beqLit l _ _ => mul4 l
  | .bne _ _ _ => true
  | .bneExt _ _ _ => true
  | .bneLit l _ _ => mul4 l
  | .blt _ _ _ => true
  | .bltExt _ _ _ => true
  | .bltLit l _ _ => mul4 l
  | .bge _ _ _ => true
  | .bgeExt _ _ _ => true
  | .bgeLit l _ _ => mul4 l
  | .bltu _ _ _ => true
  | .bltuExt _ _ _ => true
  | .bltuLit l _ _ => mul4 l
  | .bgeu _ _ _ => true
  | .bgeuExt _ _ _ => true
  | .bgeuLit l _ _ => mul4 l
  | .b _ => true
  | .bLit l => mul4 l
  | .bl _ => true
  | .blLit l => mul4 l
  | .br _ => true
  | .blr _ _ => true
  | .ret => true
  | .loop _ _ _ => true
  | .start _ _ _ => true
  | .join _ _ => true
  | .endc _ => true
  | .yield => true
  | .trap _ _ => true
  | .brk => true
  | .tret => true
  | .rdsr _ _ => true
  | .wrsr _ _ => true
  | .rdtime _ => true
  | .vld t _ _ _ _ => t.lane
  | .vldLit t _ _ _ _ => t.lane
  | .vldP t _ _ _ _ => t.lane
  | .vldPLit t _ _ _ _ => t.lane
  | .vlds t _ _ _ _ _ => t.lane
  | .vldsLit t _ _ _ _ _ => t.lane
  | .vldx t _ sh _ _ _ _ => sh != 7 && t.lane
  | .vldxLit t _ sh _ _ _ _ => sh != 7 && t.lane
  | .vldb t _ _ _ _ => t.lane
  | .vldbLit t _ _ _ _ => t.lane
  | .vst t _ _ _ _ => t.lane
  | .vstLit t _ _ _ _ => t.lane
  | .vstP t _ _ _ _ => t.lane
  | .vstPLit t _ _ _ _ => t.lane
  | .vsts t _ _ _ _ _ => t.lane
  | .vstsLit t _ _ _ _ _ => t.lane
  | .vstx t _ sh _ _ _ _ => sh != 7 && t.lane
  | .vstxLit t _ sh _ _ _ _ => sh != 7 && t.lane
  | .vadd _ y _ _ _ => y.FI
  | .vaddExt _ y r _ _ _ => extType y LaneT.FI && modeOk y r
  | .vsub _ y _ _ _ => y.FI
  | .vsubExt _ y r _ _ _ => extType y LaneT.FI && modeOk y r
  | .vmul _ y _ _ _ => y.FI
  | .vmulExt _ y r _ _ _ => extType y LaneT.FI && modeOk y r
  | .vmin _ y _ _ _ => y.FI
  | .vminExt _ y _ _ _ => extType y LaneT.FI
  | .vmax _ y _ _ _ => y.FI
  | .vmaxExt _ y _ _ _ => extType y LaneT.FI
  | .vand _ y _ _ _ => y.IB
  | .vandExt _ y _ _ _ => extType y LaneT.IB
  | .vor _ y _ _ _ => y.IB
  | .vorExt _ y _ _ _ => extType y LaneT.IB
  | .vxor _ y _ _ _ => y.IB
  | .vxorExt _ y _ _ _ => extType y LaneT.IB
  | .vandn _ y _ _ _ => y.IB
  | .vandnExt _ y _ _ _ => extType y LaneT.IB
  | .vshl _ y _ _ _ => y.I
  | .vshlExt _ y _ _ _ => extType y LaneT.I
  | .vshr _ y _ _ _ => y.I
  | .vshrExt _ y _ _ _ => extType y LaneT.I
  | .vsra _ y _ _ _ => y.I
  | .vsraExt _ y _ _ _ => extType y LaneT.I
  | .vabs _ y _ _ => y.FI
  | .vabsExt _ y _ _ => extType y LaneT.FI
  | .vneg _ y _ _ => y.FI
  | .vnegExt _ y _ _ => extType y LaneT.FI
  | .vmov _ y _ _ => y.any
  | .vmovExt _ y _ _ => extType y LaneT.any
  | .vsel _ y _ _ _ => y.any
  | .vselExt _ y _ _ _ => extType y LaneT.any
  | .vminu _ y _ _ _ => y.I
  | .vminuExt _ y _ _ _ => extType y LaneT.I
  | .vmaxu _ y _ _ _ => y.I
  | .vmaxuExt _ y _ _ _ => extType y LaneT.I
  | .vmulh _ y _ _ _ => y.I
  | .vmulhExt _ y _ _ _ => extType y LaneT.I
  | .vmulhu _ y _ _ _ => y.I
  | .vmulhuExt _ y _ _ _ => extType y LaneT.I
  | .vavg _ y _ _ _ => y.I
  | .vavgExt _ y _ _ _ => extType y LaneT.I
  | .vadds _ y _ _ _ => y.I
  | .vaddsExt _ y _ _ _ => extType y LaneT.I
  | .vsubs _ y _ _ _ => y.I
  | .vsubsExt _ y _ _ _ => extType y LaneT.I
  | .vaddsu _ y _ _ _ => y.I
  | .vaddsuExt _ y _ _ _ => extType y LaneT.I
  | .vsubsu _ y _ _ _ => y.I
  | .vsubsuExt _ y _ _ _ => extType y LaneT.I
  | .vcmpEq _ y _ _ _ => y.FI
  | .vcmpEqExt _ y _ _ _ => extType y LaneT.FI
  | .vcmpNe _ y _ _ _ => y.FI
  | .vcmpNeExt _ y _ _ _ => extType y LaneT.FI
  | .vcmpLt _ y _ _ _ => y.FI
  | .vcmpLtExt _ y _ _ _ => extType y LaneT.FI
  | .vcmpLe _ y _ _ _ => y.FI
  | .vcmpLeExt _ y _ _ _ => extType y LaneT.FI
  | .vcmpLtu _ y _ _ _ => y.I
  | .vcmpLtuExt _ y _ _ _ => extType y LaneT.I
  | .vcmpLeu _ y _ _ _ => y.I
  | .vcmpLeuExt _ y _ _ _ => extType y LaneT.I
  | .vclass _ y _ _ => y.F
  | .vclassExt _ y _ _ => extType y LaneT.F
  | .vfma _ y _ _ _ => y.FI
  | .vfmaExt _ y r _ _ _ => extType y LaneT.FI && modeOk y r
  | .vfms _ y _ _ _ => y.FI
  | .vfmsExt _ y r _ _ _ => extType y LaneT.FI && modeOk y r
  | .vfnma _ y _ _ _ => y.FI
  | .vfnmaExt _ y r _ _ _ => extType y LaneT.FI && modeOk y r
  | .vfnms _ y _ _ _ => y.FI
  | .vfnmsExt _ y r _ _ _ => extType y LaneT.FI && modeOk y r
  | .vdot4 _ y _ _ _ => y.dot4
  | .vdot4Ext _ y _ _ _ => extType y LaneT.dot4
  | .vdot2 _ y _ _ _ => y.dot2
  | .vdot2Ext _ y r _ _ _ => extType y LaneT.dot2 && modeOk y r
  | .vexp2 _ y _ _ => y.F
  | .vexp2Ext _ y _ _ => extType y LaneT.F
  | .vlog2 _ y _ _ => y.F
  | .vlog2Ext _ y _ _ => extType y LaneT.F
  | .vrcp _ y _ _ => y.F
  | .vrcpExt _ y _ _ => extType y LaneT.F
  | .vrsqrt _ y _ _ => y.F
  | .vrsqrtExt _ y _ _ => extType y LaneT.F
  | .vsqrt _ y _ _ => y.F
  | .vsqrtExt _ y _ _ => extType y LaneT.F
  | .vtanh _ y _ _ => y.F
  | .vtanhExt _ y _ _ => extType y LaneT.F
  | .vsigm _ y _ _ => y.F
  | .vsigmExt _ y _ _ => extType y LaneT.F
  | .vdiv _ y _ _ _ => y.FI
  | .vdivExt _ y _ _ _ => extType y LaneT.FI
  | .vcvt td ts part _ _ _ _ => td.lane && ts.lane && cvtPartOk td ts part
  | .vpackgx g off _ _ => gxOffOk g off
  | .vunpackgx g off _ _ _ => gxOffOk g off
  | .vperm _ y _ _ _ => y.any
  | .vpermExt _ y _ _ _ => extType y LaneT.any
  | .vslideup _ y _ _ _ => y.any
  | .vslideupExt _ y _ _ _ => extType y LaneT.any
  | .vslidedn _ y _ _ _ => y.any
  | .vslidednExt _ y _ _ _ => extType y LaneT.any
  | .vbcast _ y _ _ => y.any
  | .vbcastExt _ y _ _ => extType y LaneT.any
  | .vext y _ _ _ => y.any
  | .vextExt y _ _ _ => extType y LaneT.any
  | .vins _ y _ _ _ => y.any
  | .vinsExt _ y _ _ _ => extType y LaneT.any
  | .vzip _ y _ _ _ => y.any
  | .vzipExt _ y _ _ _ => extType y LaneT.any
  | .vunzip _ y _ _ => y.any
  | .vunzipExt _ y _ _ => extType y LaneT.any
  | .vrev _ y _ _ => y.any
  | .vrevExt _ y _ _ => extType y LaneT.any
  | .vscanAdd _ y _ _ => y.FI
  | .vscanAddExt _ y _ _ _ => extType y LaneT.FI
  | .vscanMax _ y _ _ => y.FI
  | .vscanMaxExt _ y _ _ _ => extType y LaneT.FI
  | .vkeep2 y _ _ _ => y.keep
  | .vkeep2Ext y _ _ _ => extType y LaneT.keep
  | .vredAdd _ y _ _ => y.FI
  | .vredAddExt _ y _ _ _ => extType y LaneT.FI
  | .vredMax _ y _ _ => y.FI
  | .vredMaxExt _ y _ _ => extType y LaneT.FI
  | .vredMin _ y _ _ => y.FI
  | .vredMinExt _ y _ _ => extType y LaneT.FI
  | .mand _ _ _ => true
  | .mor _ _ _ => true
  | .mxor _ _ _ => true
  | .mandn _ _ _ => true
  | .mnot _ _ => true
  | .mpopc _ _ => true
  | .mfirst _ _ => true
  | .mfromx _ _ _ => true
  | .mtox _ _ _ => true
  | .mlanes _ _ => true
  | .sadd _ _ _ _ => true
  | .ssub _ _ _ _ => true
  | .smul _ _ _ _ => true
  | .sfma _ _ _ _ => true
  | .smin _ _ _ => true
  | .smax _ _ _ => true
  | .scvt _ _ _ => true
  | .scopy _ _ => true
  | .sexp2 _ _ => true
  | .srsum _ _ _ => true
  | .srmax _ _ => true
  | .sbcast _ _ => true
  | .shpCheck _ _ _ _ => true
  | .postMx _ _ => true
  | .postCp _ _ => true
  | .fwait _ _ => true
  | .ftest _ _ => true
  | .fcancel _ => true
  | .fwaitany _ _ => true
  | .fmovx _ _ => true
  | .xmovf _ _ => true
  | .fenceCards => true
  | .barInit _ _ => true
  | .barInitImm _ _ => true
  | .barArrive _ => true
  | .barDrop _ => true
  | .barWait _ => true
  | .barExpect _ _ => true
  | .barExpectImm _ _ => true
  | .barTest _ _ => true
  | .barLink _ _ => true
  | .pcap _ _ _ _ => true
  | .pcapr _ _ _ _ _ _ => true
  | .pcall _ _ => true
  | .pspawn _ _ _ => true
  | .psend _ _ _ => true
  | .pdup _ _ => true
  | .prel _ => true
  | .pget _ _ => true
  | .pexport _ _ => true
  | .pimport _ _ => true
  | .segMake cls _ _ _ _ e => (cls == 3 || e == 0)
  | .segAttach _ _ _ => true
  | .segDetach _ => true
  | .segPublish _ _ => true
  | .segEvict _ _ => true
  | .segDrop _ _ => true
  | .segQuery _ _ => true
  | .ibxTake => true
  | .taskEnd _ _ => true
  | .taskSpawn _ _ => true
  | .taskSpawnExt _ _ _ => true
  | .taskSpawnLit _ _ _ => true
  | .rngOpen _ _ _ _ => true
  | .rngTake _ _ => true
  | .rngClose _ => true
  | .gangLead => true
  | .gangFollow => true
  | .gangJoin _ => true
  | .gangLeave => true
  | .give _ _ => true
  | .giveExt _ _ _ _ => true
  | .accept _ => true
  | .decline _ => true
  | .lend _ _ _ _ _ _ _ => true
  | .lendLit _ _ _ _ _ _ _ => true
  | .recall _ _ => true
  | .reclaim _ _ => true
  | .ownQ _ _ _ => true
  | .mint _ _ => true
  | .retire => true
  | .ownHook k _ => decide (k.toNat ≤ 5)
  | .kread _ _ _ x => decide (x.toNat ≤ 10)
  | .kwrite _ _ _ x => decide (x.toNat ≤ 10)
  | .undecodableWord _ _ => true
  | .resumeComplete _ => true

end Sys2Proof
end

