-- ==== Sys2Proof/Decode.lean ====
section
/-! DEFINITION. Decoding an instruction from its words (R79 to R88), and the encoder beside it.
The decoder is marked noncomputable for one reason only: Lean's compiler has no tags for an inductive of
446 constructors. The kernel evaluates it. -/

namespace Sys2Proof

/-- Why a word is not an instruction (R84). `truncated` says that the bytes end before the
instruction does; the fetch unit, not the decoder, decides what happens then (R79). -/
inductive DecodeErr where
  | illZero | illOnes | undefMajor | undefFn | litNotAllowed | reservedField | truncated
deriving DecidableEq, Repr

/-- The words of one instruction. Words that its length does not announce are 0 (R79). -/
structure Raw where
  x0 : BitVec 32
  x1 : BitVec 32
  x2 : BitVec 32
  lit : BitVec 64
deriving DecidableEq, Repr

namespace Raw
variable (r : Raw)
/-- LEN, bits 1:0 (R79). -/
def len : BitVec 2 := r.x0.extractLsb' 0 2
/-- MAJOR, bits 7:2 (R80). -/
def major : BitVec 6 := r.x0.extractLsb' 2 6
/-- Field A (R80). -/
def fA : BitVec 5 := r.x0.extractLsb' 8 5
/-- Field B (R80). -/
def fB : BitVec 5 := r.x0.extractLsb' 13 5
/-- Field C (R80). -/
def fC : BitVec 5 := r.x0.extractLsb' 18 5
/-- Field D, fn9 in format R (R80). -/
def fD : BitVec 9 := r.x0.extractLsb' 23 9
/-- Bits 31:26. -/
def hi6 : BitVec 6 := r.x0.extractLsb' 26 6
/-- imm14 of format I. -/
def imm14 : BitVec 14 := r.x0.extractLsb' 18 14
/-- imm19 of format U. -/
def imm19 : BitVec 19 := r.x0.extractLsb' 13 19
/-- disp11 of format S and offset11 of format Bc. -/
def disp11 : BitVec 11 := r.x0.extractLsb' 21 11
/-- width of format S and cond of format Bc. -/
def w3 : BitVec 3 := r.x0.extractLsb' 18 3
/-- The low bits of the width of a store. -/
def wd : BitVec 2 := r.x0.extractLsb' 18 2
/-- offset24 of format J. -/
def off24 : BitVec 24 := r.x0.extractLsb' 8 24
/-- offset18 of format L. -/
def off18 : BitVec 18 := r.x0.extractLsb' 14 18
/-- rot of format L. -/
def rot : Bool := r.x0.getLsbD 13
/-- Shift amount of SHIFTI (R109). -/
def shamt : BitVec 6 := r.x0.extractLsb' 18 6
/-- Kind of SHIFTI (R109). -/
def shKind : BitVec 2 := r.x0.extractLsb' 24 2
/-- Status index of rdsr and wrsr, bits 22:13 (R126). -/
def srIdx : BitVec 10 := r.x0.extractLsb' 13 10
/-- Bit 31. -/
def top : Bool := r.x0.getLsbD 31
/-- Scope of an atomic (R157). -/
def amoP : BitVec 3 := r.x0.extractLsb' 28 3
/-- Width of an atomic (R157). -/
def amoW : Bool := r.x0.getLsbD 27
/-- Operation of an atomic (R157). -/
def amoOp : BitVec 4 := r.x0.extractLsb' 23 4
/-- mask2 of format V. -/
def m2 : BitVec 2 := r.x0.extractLsb' 30 2
/-- type3 of format V. -/
def t3 : BitVec 3 := r.x0.extractLsb' 27 3
/-- fn4 of format V. -/
def fn4 : BitVec 4 := r.x0.extractLsb' 23 4
/-- Function of a barrier instruction (R167). -/
def barFn : BitVec 3 := r.x0.extractLsb' 23 3
/-- Field A as a mask register. -/
def a3 : BitVec 3 := r.x0.extractLsb' 8 3
/-- Field B as a mask register. -/
def b3 : BitVec 3 := r.x0.extractLsb' 13 3
/-- Field C as a mask register. -/
def c3 : BitVec 3 := r.x0.extractLsb' 18 3
/-- Field A names a mask register. -/
def a3ok : Bool := r.x0.extractLsb' 11 2 == 0#2
/-- Field B names a mask register. -/
def b3ok : Bool := r.x0.extractLsb' 16 2 == 0#2
/-- Field C names a mask register. -/
def c3ok : Bool := r.x0.extractLsb' 21 2 == 0#2
/-- Field A as a handle register. -/
def a4 : BitVec 4 := r.x0.extractLsb' 8 4
/-- Field B as a handle register. -/
def b4 : BitVec 4 := r.x0.extractLsb' 13 4
/-- Field A names a handle register. -/
def a4ok : Bool := r.x0.getLsbD 12 == false
/-- Field B names a handle register. -/
def b4ok : Bool := r.x0.getLsbD 17 == false
/-- Field E, bits 36:32 (R81). -/
def eE : BitVec 5 := r.x1.extractLsb' 0 5
/-- Field F, bits 41:37 (R81). -/
def eF : BitVec 5 := r.x1.extractLsb' 5 5
/-- TYPE4, bits 45:42 (R81). -/
def eT : BitVec 4 := r.x1.extractLsb' 10 4
/-- MASK3, bits 48:46 (R81). -/
def eM : BitVec 3 := r.x1.extractLsb' 14 3
/-- FLAGS15, bits 63:49 (R81). -/
def eG : BitVec 15 := r.x1.extractLsb' 17 15
/-- The rounding mode in FLAGS15[51:49] (R81). -/
def gRnd : BitVec 3 := r.x1.extractLsb' 17 3
/-- FLAGS15 above the rounding mode. -/
def gRest : BitVec 12 := r.x1.extractLsb' 20 12
/-- PART of vcvt, FLAGS15[54:52] (R145). -/
def gPart : BitVec 3 := r.x1.extractLsb' 20 3
/-- FLAGS15 above PART. -/
def gHi : BitVec 9 := r.x1.extractLsb' 23 9
/-- FLAGS15 bit 49. -/
def g0 : Bool := r.x1.getLsbD 17
/-- FLAGS15 bit 50. -/
def g1 : Bool := r.x1.getLsbD 18
/-- FLAGS15 above bit 49. -/
def gTop : BitVec 14 := r.x1.extractLsb' 18 14
/-- FLAGS15[50:49], the class of seg.make (R238). -/
def gCls : BitVec 2 := r.x1.extractLsb' 17 2
/-- FLAGS15 above bit 50. -/
def gAbove : BitVec 13 := r.x1.extractLsb' 19 13
/-- imm32 (R81). -/
def imm32 : BitVec 32 := r.x2
/-- pos of a bit field (R112). -/
def bfPos : BitVec 6 := r.x2.extractLsb' 0 6
/-- width of a bit field (R112). -/
def bfWidth : BitVec 7 := r.x2.extractLsb' 8 7
/-- The bits of imm32 that a bit field leaves out. -/
def bfRest : BitVec 19 := r.x2.extractLsb' 15 17 ++ r.x2.extractLsb' 6 2
/-- Mask of x registers that a pod captures (R218). -/
def xmask : BitVec 8 := r.x2.extractLsb' 0 8
/-- Mask of v registers that a pod captures (R218). -/
def vmask : BitVec 2 := r.x2.extractLsb' 8 2
/-- The bits of imm32 above the capture masks. -/
def podRest : BitVec 22 := r.x2.extractLsb' 10 22
/-- Count of seg.make (R238). -/
def cnt11 : BitVec 11 := r.x2.extractLsb' 0 11
/-- The bits of imm32 above the count. -/
def cntRest : BitVec 21 := r.x2.extractLsb' 11 21
/-- Offset of vpackgx and vunpackgx (R146). -/
def off7 : BitVec 7 := r.x2.extractLsb' 0 7
/-- The bits of imm32 above the offset. -/
def offRest : BitVec 25 := r.x2.extractLsb' 7 25
/-- Status index of kread and kwrite (R293). -/
def krIdx : BitVec 10 := r.x2.extractLsb' 0 10
/-- Context of kread and kwrite (R293). -/
def krCtx : BitVec 4 := r.x2.extractLsb' 10 4
/-- The bits of imm32 that kread and kwrite leave out. -/
def krRest : BitVec 18 := r.x2.extractLsb' 14 18
end Raw

/-- `RESERVED_FIELD` unless the condition holds (R82). -/
def ck (c : Bool) (x : Except DecodeErr Instr) : Except DecodeErr Instr :=
  if c then x else .error .reservedField
/-- A literal on an instruction that takes one in neither length (R83, R84 step 6); of an ENGINE word too, for which R182
names RESERVED_FIELD. DEDUCED, log 101. -/
def noLit (r : Raw) (x : Except DecodeErr Instr) : Except DecodeErr Instr :=
  if r.len.getLsbD 0 then .error .litNotAllowed else x
/-- A code of a field, or `RESERVED_FIELD` where the code is not listed (R82). -/
def ofOpt {α : Type} (o : Option α) (f : α → Instr) : Except DecodeErr Instr :=
  match o with
  | some a => .ok (f a)
  | none => .error .reservedField
/-- A type and a rounding mode that go together. -/
def ofOpt2 (o : Option LaneT) (q : Option Rnd) (p : LaneT → Rnd → Bool) (f : LaneT → Rnd → Instr) :
    Except DecodeErr Instr :=
  match o, q with
  | some a, some b => if p a b then .ok (f a b) else .error .reservedField
  | _, _ => .error .reservedField
/-- The two types, the mode and the part of vcvt (R145). -/
def ofCvt (td ts : Option Type4) (q : Option Rnd) (part : BitVec 3) (f : Type4 → Type4 → Rnd → Instr) :
    Except DecodeErr Instr :=
  match td, ts, q with
  | some a, some b, some m => if cvtPartOk a b part then .ok (f a b m) else .error .reservedField
  | _, _, _ => .error .reservedField
/-- The format and the offset of vpackgx and vunpackgx (R146). -/
def ofGx (g : Option GxT) (off : BitVec 7) (f : GxT → Instr) : Except DecodeErr Instr :=
  match g with
  | some a => if gxOffOk a off then .ok (f a) else .error .reservedField
  | none => .error .reservedField
/-- An index shift, 0 to 6 (R136, R156). -/
def sh6 (f : BitVec 5) : Bool := decide (f.toNat ≤ 6)
/-- A two-bit code in field C. -/
def c4ok (f : BitVec 5) : Bool := decide (f.toNat ≤ 3)
/-- A hook of own.hook, 0 to 5 (R288). -/
def hook5 (k : BitVec 3) : Bool := decide (k.toNat ≤ 5)
/-- A context of kread and kwrite, 0 to 10 (R293). -/
def ctx10 (x : BitVec 4) : Bool := decide (x.toNat ≤ 10)
/-- A literal that fits 32 bits. -/
def small32 (l : BitVec 64) : Bool := l.extractLsb' 32 32 == 0#32
/-- A flag in a five-bit field. -/
def bit5 (b : Bool) : BitVec 5 := if b then 1 else 0
/-- A flag in FLAGS15. -/
def bit15 (b : Bool) : BitVec 15 := if b then 1 else 0

/-- Width code of sext and zext (R107). -/
def ExtW.ofCode (c : BitVec 5) : Option ExtW :=
  match c.toNat with
  | 0 => some .w8 | 1 => some .w16 | 2 => some .w32 | _ => none
def ExtW.code : ExtW → BitVec 5
  | .w8 => 0 | .w16 => 1 | .w32 => 2

/-- Rounding code (R51). -/
def Rnd.ofCode (c : BitVec 3) : Option Rnd :=
  match c.toNat with
  | 0 => some .rne | 1 => some .rna | 2 => some .rz | 3 => some .rdn | 4 => some .rup | _ => none
/-- Rounding code in field C (R113). -/
def Rnd.ofCode5 (c : BitVec 5) : Option Rnd :=
  match c.toNat with
  | 0 => some .rne | 1 => some .rna | 2 => some .rz | 3 => some .rdn | 4 => some .rup | _ => none
def Rnd.code : Rnd → BitVec 3
  | .rne => 0 | .rna => 1 | .rz => 2 | .rdn => 3 | .rup => 4

/-- Width code of ld (R115). -/
def IntT.ofWidth (c : BitVec 3) : Option IntT :=
  match c.toNat with
  | 0 => some .i8 | 1 => some .n8 | 2 => some .i16 | 3 => some .n16 | 4 => some .i32 | 5 => some .n32
  | 6 => some .i64 | _ => none
/-- Width code of ld; i64 and n64 are the same access. -/
def IntT.width : IntT → BitVec 3
  | .i8 => 0 | .n8 => 1 | .i16 => 2 | .n16 => 3 | .i32 => 4 | .n32 => 5 | .i64 => 6 | .n64 => 6
/-- TYPE4 code of ldx (R87, R156). -/
def IntT.ofType4 (c : BitVec 4) : Option IntT :=
  match c.toNat with
  | 3 => some .i8 | 4 => some .i16 | 5 => some .i32 | 6 => some .i64
  | 7 => some .n8 | 8 => some .n16 | 9 => some .n32 | 10 => some .n64 | _ => none
def IntT.type4 : IntT → BitVec 4
  | .i8 => 3 | .i16 => 4 | .i32 => 5 | .i64 => 6 | .n8 => 7 | .n16 => 8 | .n32 => 9 | .n64 => 10
/-- TYPE4 code of stx: the width in bits 8, 16, 32, 64 (R156). -/
def stType4 (c : BitVec 4) : Option (BitVec 2) :=
  match c.toNat with
  | 3 => some 0 | 4 => some 1 | 5 => some 2 | 6 => some 3 | _ => none
def stCode (w : BitVec 2) : BitVec 4 :=
  match w.toNat with
  | 0 => 3 | 1 => 4 | 2 => 5 | _ => 6

/-- type3 (R87). -/
def LaneT.ofCode3 (c : BitVec 3) : LaneT :=
  match c.toNat with
  | 0 => .f32 | 1 => .f16 | 2 => .bf16 | 3 => .i8 | 4 => .i16 | 5 => .i32 | 6 => .i64 | _ => .b32
def LaneT.code3 : LaneT → BitVec 3
  | .f32 => 0 | .f16 => 1 | .bf16 => 2 | .i8 => 3 | .i16 => 4 | .i32 => 5 | .i64 => 6 | .b32 => 7
/-- TYPE4 of an extended V-format form, codes 0 to 6, where the class accepts the type (R133). -/
def LaneT.ofCode4 (c : BitVec 4) (p : LaneT → Bool) : Option LaneT :=
  if c.getLsbD 3 then none
  else
    let y := LaneT.ofCode3 (c.extractLsb' 0 3)
    if extType y p then some y else none
def LaneT.code4 (y : LaneT) : BitVec 4 := y.code3.setWidth 4

/-- TYPE4 of a lane type, codes 0 to 10 (R87, R136, R145). -/
def Type4.ofLane (c : BitVec 4) : Option Type4 :=
  match c.toNat with
  | 0 => some .f32 | 1 => some .f16 | 2 => some .bf16 | 3 => some .i8 | 4 => some .i16 | 5 => some .i32
  | 6 => some .i64 | 7 => some .n8 | 8 => some .n16 | 9 => some .n32 | 10 => some .n64 | _ => none
/-- TYPE4 (R87). -/
def Type4.code : Type4 → BitVec 4
  | .f32 => 0 | .f16 => 1 | .bf16 => 2 | .i8 => 3 | .i16 => 4 | .i32 => 5 | .i64 => 6
  | .n8 => 7 | .n16 => 8 | .n32 => 9 | .n64 => 10 | .gx2 => 11 | .gx4 => 12 | .gx7 => 13 | .b1 => 14
/-- Any TYPE4 code of a record (R87). -/
def Type4.ofCode (c : BitVec 4) : Option Type4 :=
  match c.toNat with
  | 11 => some .gx2 | 12 => some .gx4 | 13 => some .gx7 | 14 => some .b1 | _ => Type4.ofLane c
def GxT.ofCode (c : BitVec 4) : Option GxT :=
  match c.toNat with
  | 11 => some .gx2 | 12 => some .gx4 | 13 => some .gx7 | _ => none
def GxT.code : GxT → BitVec 4
  | .gx2 => 11 | .gx4 => 12 | .gx7 => 13

/-- Scope code (R157). -/
def Scope.ofCode (c : BitVec 3) : Option Scope :=
  match c.toNat with
  | 0 => some .core | 1 => some .cl | 2 => some .die | 3 => some .dev | 4 => some .sys | _ => none
def Scope.code : Scope → BitVec 3
  | .core => 0 | .cl => 1 | .die => 2 | .dev => 3 | .sys => 4

/-- Major 0x01 (R86). -/
def decIntr (r : Raw) : Except DecodeErr Instr :=
  match r.fD.toNat with
  | 0 => noLit r (ck (r.len == 0) (.ok (.add r.fA r.fB r.fC)))
  | 1 => noLit r (ck (r.len == 0) (.ok (.sub r.fA r.fB r.fC)))
  | 2 => noLit r (ck (r.len == 0) (.ok (.andX r.fA r.fB r.fC)))
  | 3 => noLit r (ck (r.len == 0) (.ok (.orX r.fA r.fB r.fC)))
  | 4 => noLit r (ck (r.len == 0) (.ok (.xorX r.fA r.fB r.fC)))
  | 5 => noLit r (ck (r.len == 0) (.ok (.andn r.fA r.fB r.fC)))
  | 6 => noLit r (ck (r.len == 0) (.ok (.orn r.fA r.fB r.fC)))
  | 7 => noLit r (ck (r.len == 0 && r.fC == 0) (.ok (.brev r.fA r.fB)))
  | 8 => noLit r (ck (r.len == 0) (.ok (.sll r.fA r.fB r.fC)))
  | 9 => noLit r (ck (r.len == 0) (.ok (.srl r.fA r.fB r.fC)))
  | 10 => noLit r (ck (r.len == 0) (.ok (.sra r.fA r.fB r.fC)))
  | 11 => noLit r (ck (r.len == 0) (.ok (.rol r.fA r.fB r.fC)))
  | 12 => noLit r (ck (r.len == 0) (.ok (.ror r.fA r.fB r.fC)))
  | 13 => noLit r (ck (r.len == 0) (.ok (.slt r.fA r.fB r.fC)))
  | 14 => noLit r (ck (r.len == 0) (.ok (.sltu r.fA r.fB r.fC)))
  | 15 => noLit r (ck (r.len == 0) (.ok (.minX r.fA r.fB r.fC)))
  | 16 => noLit r (ck (r.len == 0) (.ok (.maxX r.fA r.fB r.fC)))
  | 17 => noLit r (ck (r.len == 0) (.ok (.minu r.fA r.fB r.fC)))
  | 18 => noLit r (ck (r.len == 0) (.ok (.maxu r.fA r.fB r.fC)))
  | 19 => noLit r (ck (r.len == 0) (.ok (.mul r.fA r.fB r.fC)))
  | 20 => noLit r (ck (r.len == 0) (.ok (.mulh r.fA r.fB r.fC)))
  | 21 => noLit r (ck (r.len == 0) (.ok (.mulhu r.fA r.fB r.fC)))
  | 22 => noLit r (ck (r.len == 0) (.ok (.div r.fA r.fB r.fC)))
  | 23 => noLit r (ck (r.len == 0) (.ok (.divu r.fA r.fB r.fC)))
  | 24 => noLit r (ck (r.len == 0) (.ok (.rem r.fA r.fB r.fC)))
  | 25 => noLit r (ck (r.len == 0) (.ok (.remu r.fA r.fB r.fC)))
  | 26 => noLit r (ck (r.len == 0 && r.fC == 0) (.ok (.clz r.fA r.fB)))
  | 27 => noLit r (ck (r.len == 0 && r.fC == 0) (.ok (.ctz r.fA r.fB)))
  | 28 => noLit r (ck (r.len == 0 && r.fC == 0) (.ok (.popc r.fA r.fB)))
  | 29 => noLit r (ck (r.len == 0 && r.fC == 0) (.ok (.bswap r.fA r.fB)))
  | 30 => noLit r (ck (r.len == 0) (ofOpt (ExtW.ofCode r.fC) fun w => .sext r.fA r.fB w))
  | 31 => noLit r (ck (r.len == 0) (ofOpt (ExtW.ofCode r.fC) fun w => .zext r.fA r.fB w))
  | _ => .error .undefFn

/-- Major 0x02 (R86). -/
def decAddi (r : Raw) : Except DecodeErr Instr :=
  if r.len == 0 then .ok (.addi r.fA r.fB r.imm14) else if r.len == 1 then ck (r.imm14 == 0) (.ok (.addiLit r.fA r.fB r.lit)) else .error .reservedField

/-- Major 0x03 (R86). -/
def decAndi (r : Raw) : Except DecodeErr Instr :=
  if r.len == 0 then .ok (.andi r.fA r.fB r.imm14) else if r.len == 1 then ck (r.imm14 == 0) (.ok (.andiLit r.fA r.fB r.lit)) else .error .reservedField

/-- Major 0x04 (R86). -/
def decOri (r : Raw) : Except DecodeErr Instr :=
  if r.len == 0 then .ok (.ori r.fA r.fB r.imm14) else if r.len == 1 then ck (r.imm14 == 0) (.ok (.oriLit r.fA r.fB r.lit)) else .error .reservedField

/-- Major 0x05 (R86). -/
def decXori (r : Raw) : Except DecodeErr Instr :=
  if r.len == 0 then .ok (.xori r.fA r.fB r.imm14) else if r.len == 1 then ck (r.imm14 == 0) (.ok (.xoriLit r.fA r.fB r.lit)) else .error .reservedField

/-- Major 0x06 (R86). -/
def decSlti (r : Raw) : Except DecodeErr Instr :=
  if r.len == 0 then .ok (.slti r.fA r.fB r.imm14) else if r.len == 1 then ck (r.imm14 == 0) (.ok (.sltiLit r.fA r.fB r.lit)) else .error .reservedField

/-- Major 0x07 (R86). -/
def decSltiu (r : Raw) : Except DecodeErr Instr :=
  if r.len == 0 then .ok (.sltiu r.fA r.fB r.imm14) else if r.len == 1 then ck (r.imm14 == 0) (.ok (.sltiuLit r.fA r.fB r.lit)) else .error .reservedField

/-- Major 0x08 (R86). -/
def decShifti (r : Raw) : Except DecodeErr Instr :=
  match r.shKind.toNat with
  | 0 => noLit r (ck (r.len == 0 && r.hi6 == 0) (.ok (.slli r.fA r.fB r.shamt)))
  | 1 => noLit r (ck (r.len == 0 && r.hi6 == 0) (.ok (.srli r.fA r.fB r.shamt)))
  | 2 => noLit r (ck (r.len == 0 && r.hi6 == 0) (.ok (.srai r.fA r.fB r.shamt)))
  | 3 => noLit r (ck (r.len == 0 && r.hi6 == 0) (.ok (.rori r.fA r.fB r.shamt)))
  | _ => .error .undefFn

/-- Major 0x09 (R86). -/
def decLui (r : Raw) : Except DecodeErr Instr :=
  noLit r (ck (r.len == 0) (.ok (.lui r.fA r.imm19)))

/-- Major 0x0A (R86). -/
def decPcadd (r : Raw) : Except DecodeErr Instr :=
  if r.len == 0 then .ok (.pcadd r.fA r.imm19) else if r.len == 1 then ck (r.imm19 == 0) (.ok (.pcaddLit r.fA r.lit)) else .error .reservedField

/-- Major 0x0B (R86). -/
def decLi (r : Raw) : Except DecodeErr Instr :=
  ck (r.len == 1 && r.imm19 == 0) (.ok (.li r.fA r.lit))

/-- Major 0x0C (R86). -/
def decLea (r : Raw) : Except DecodeErr Instr :=
  if r.len == 2 then ck (r.fD == 0 && r.eE == 0 && r.eT == 0 && r.eM == 0 && r.eG == 0) (.ok (.lea r.fA r.fB r.fC r.eF r.imm32)) else if r.len == 3 then ck (r.fD == 0 && r.eE == 0 && r.eT == 0 && r.eM == 0 && r.eG == 0 && r.imm32 == 0) (.ok (.leaLit r.fA r.fB r.fC r.eF r.lit)) else if r.len == 1 then .error .reservedField else .error .reservedField

/-- Major 0x0D (R86). -/
def decBits (r : Raw) : Except DecodeErr Instr :=
  match r.fD.toNat with
  | 0 => noLit r (ck (r.len == 2 && r.eE == 0 && r.eF == 0 && r.eT == 0 && r.eM == 0 && r.eG == 0 && r.bfRest == 0 && r.fC == 0 && bfOk r.bfPos r.bfWidth) (.ok (.bfx r.fA r.fB r.bfPos r.bfWidth)))
  | 1 => noLit r (ck (r.len == 2 && r.eE == 0 && r.eF == 0 && r.eT == 0 && r.eM == 0 && r.eG == 0 && r.bfRest == 0 && r.fC == 0 && bfOk r.bfPos r.bfWidth) (.ok (.bfxu r.fA r.fB r.bfPos r.bfWidth)))
  | 2 => noLit r (ck (r.len == 2 && r.eE == 0 && r.eF == 0 && r.eT == 0 && r.eM == 0 && r.eG == 0 && r.bfRest == 0 && r.fC == 0 && bfOk r.bfPos r.bfWidth) (.ok (.bfi r.fA r.fB r.bfPos r.bfWidth)))
  | 3 => noLit r (ck (r.len == 2 && r.eF == 0 && r.eT == 0 && r.eM == 0 && r.eG == 0 && r.imm32 == 0) (.ok (.csel r.fA r.fB r.fC r.eE)))
  | 4 => noLit r (ck (r.len == 2 && r.eF == 0 && r.eT == 0 && r.eM == 0 && r.eG == 0 && r.imm32 == 0) (.ok (.mad r.fA r.fB r.fC r.eE)))
  | 5 => noLit r (ck (r.len == 2 && r.eE == 0 && r.eF == 0 && r.eT == 0 && r.eM == 0 && r.eG == 0 && r.imm32 == 0) (.ok (.wfield r.fA r.fB r.fC)))
  | _ => .error .undefFn

/-- Major 0x0E (R86). -/
def decFps (r : Raw) : Except DecodeErr Instr :=
  match r.fD.toNat with
  | 0 => noLit r (if r.len == 0 then ck (true) (.ok (.fadd r.fA r.fB r.fC)) else ck (r.eE == 0 && r.eF == 0 && r.eT == 0 && r.eM == 0 && r.gRest == 0 && r.imm32 == 0) (ofOpt (Rnd.ofCode r.gRnd) fun m => .faddExt r.fA r.fB r.fC m))
  | 1 => noLit r (if r.len == 0 then ck (true) (.ok (.fsub r.fA r.fB r.fC)) else ck (r.eE == 0 && r.eF == 0 && r.eT == 0 && r.eM == 0 && r.gRest == 0 && r.imm32 == 0) (ofOpt (Rnd.ofCode r.gRnd) fun m => .fsubExt r.fA r.fB r.fC m))
  | 2 => noLit r (if r.len == 0 then ck (true) (.ok (.fmul r.fA r.fB r.fC)) else ck (r.eE == 0 && r.eF == 0 && r.eT == 0 && r.eM == 0 && r.gRest == 0 && r.imm32 == 0) (ofOpt (Rnd.ofCode r.gRnd) fun m => .fmulExt r.fA r.fB r.fC m))
  | 3 => noLit r (if r.len == 0 then ck (true) (.ok (.fdiv r.fA r.fB r.fC)) else ck (r.eE == 0 && r.eF == 0 && r.eT == 0 && r.eM == 0 && r.gRest == 0 && r.imm32 == 0) (ofOpt (Rnd.ofCode r.gRnd) fun m => .fdivExt r.fA r.fB r.fC m))
  | 4 => noLit r (if r.len == 0 then ck (r.fC == 0 && true) (.ok (.fsqrt r.fA r.fB)) else ck (r.fC == 0 && r.eE == 0 && r.eF == 0 && r.eT == 0 && r.eM == 0 && r.gRest == 0 && r.imm32 == 0) (ofOpt (Rnd.ofCode r.gRnd) fun m => .fsqrtExt r.fA r.fB m))
  | 5 => noLit r (ck (r.len == 0) (.ok (.fmin r.fA r.fB r.fC)))
  | 6 => noLit r (ck (r.len == 0) (.ok (.fmax r.fA r.fB r.fC)))
  | 7 => noLit r (ck (r.len == 2 && r.eF == 0 && r.eT == 0 && r.eM == 0 && r.gRest == 0 && r.imm32 == 0) (ofOpt (Rnd.ofCode r.gRnd) fun m => .fmadd r.fA r.fB r.fC r.eE m))
  | 8 => noLit r (ck (r.len == 0) (.ok (.feq r.fA r.fB r.fC)))
  | 9 => noLit r (ck (r.len == 0) (.ok (.flt r.fA r.fB r.fC)))
  | 10 => noLit r (ck (r.len == 0) (.ok (.fle r.fA r.fB r.fC)))
  | 11 => noLit r (ck (r.len == 0 && r.fC == 0) (.ok (.fclass r.fA r.fB)))
  | 12 => noLit r (ck (r.len == 0) (ofOpt (Rnd.ofCode5 r.fC) fun m => .fcvti r.fA r.fB m))
  | 13 => noLit r (ck (r.len == 0) (ofOpt (Rnd.ofCode5 r.fC) fun m => .fcvtf r.fA r.fB m))
  | _ => .error .undefFn

/-- Major 0x10 (R86). -/
def decLd (r : Raw) : Except DecodeErr Instr :=
  if r.len == 0 then ofOpt (IntT.ofWidth r.w3) fun w => .ld w r.disp11 r.fB r.fA else if r.len == 1 then ck (r.disp11 == 0) (ofOpt (IntT.ofWidth r.w3) fun w => .ldLit w r.lit r.fB r.fA) else .error .reservedField

/-- Major 0x11 (R86). -/
def decLdP (r : Raw) : Except DecodeErr Instr :=
  noLit r (ck (r.len == 0) (ofOpt (IntT.ofWidth r.w3) fun w => .ldP w r.disp11 r.fB r.fA))

/-- Major 0x12 (R86). -/
def decSt (r : Raw) : Except DecodeErr Instr :=
  if r.len == 0 then ck (r.w3[2] == false) (.ok (.st r.wd r.disp11 r.fB r.fA)) else if r.len == 1 then ck (r.w3[2] == false && r.disp11 == 0) (.ok (.stLit r.wd r.lit r.fB r.fA)) else .error .reservedField

/-- Major 0x13 (R86). -/
def decStP (r : Raw) : Except DecodeErr Instr :=
  noLit r (ck (r.len == 0 && r.w3[2] == false) (.ok (.stP r.wd r.disp11 r.fB r.fA)))

/-- Major 0x14 (R86). -/
def decIndexed (r : Raw) : Except DecodeErr Instr :=
  match r.fD.toNat with
  | 0 => if r.len == 2 then ck (r.eE == 0 && r.eM == 0 && r.eG == 0 && sh6 r.eF) (ofOpt (IntT.ofType4 r.eT) fun w => .ldx w (r.eF.setWidth 3) r.imm32 r.fA r.fB r.fC) else if r.len == 3 then ck (r.eE == 0 && r.eM == 0 && r.eG == 0 && sh6 r.eF && r.imm32 == 0) (ofOpt (IntT.ofType4 r.eT) fun w => .ldxLit w (r.eF.setWidth 3) r.lit r.fA r.fB r.fC) else .error .reservedField
  | 1 => if r.len == 2 then ck (r.eE == 0 && r.eM == 0 && r.eG == 0 && sh6 r.eF) (ofOpt (stType4 r.eT) fun w => .stx w (r.eF.setWidth 3) r.imm32 r.fA r.fB r.fC) else if r.len == 3 then ck (r.eE == 0 && r.eM == 0 && r.eG == 0 && sh6 r.eF && r.imm32 == 0) (ofOpt (stType4 r.eT) fun w => .stxLit w (r.eF.setWidth 3) r.lit r.fA r.fB r.fC) else .error .reservedField
  | _ => .error .undefFn

/-- Major 0x15 (R86). -/
def decAmo (r : Raw) : Except DecodeErr Instr :=
  match r.amoOp.toNat with
  | 0 => noLit r (ck (r.len == 0 && r.top == false) (ofOpt (Scope.ofCode r.amoP) fun p => .amoAdd p r.amoW r.fA r.fB r.fC))
  | 1 => noLit r (ck (r.len == 0 && r.top == false) (ofOpt (Scope.ofCode r.amoP) fun p => .amoAnd p r.amoW r.fA r.fB r.fC))
  | 2 => noLit r (ck (r.len == 0 && r.top == false) (ofOpt (Scope.ofCode r.amoP) fun p => .amoOr p r.amoW r.fA r.fB r.fC))
  | 3 => noLit r (ck (r.len == 0 && r.top == false) (ofOpt (Scope.ofCode r.amoP) fun p => .amoXor p r.amoW r.fA r.fB r.fC))
  | 4 => noLit r (ck (r.len == 0 && r.top == false) (ofOpt (Scope.ofCode r.amoP) fun p => .amoMin p r.amoW r.fA r.fB r.fC))
  | 5 => noLit r (ck (r.len == 0 && r.top == false) (ofOpt (Scope.ofCode r.amoP) fun p => .amoMax p r.amoW r.fA r.fB r.fC))
  | 6 => noLit r (ck (r.len == 0 && r.top == false) (ofOpt (Scope.ofCode r.amoP) fun p => .amoMinu p r.amoW r.fA r.fB r.fC))
  | 7 => noLit r (ck (r.len == 0 && r.top == false) (ofOpt (Scope.ofCode r.amoP) fun p => .amoMaxu p r.amoW r.fA r.fB r.fC))
  | 8 => noLit r (ck (r.len == 0 && r.top == false) (ofOpt (Scope.ofCode r.amoP) fun p => .amoSwap p r.amoW r.fA r.fB r.fC))
  | 9 => noLit r (ck (r.len == 0 && r.top == false && r.amoW == false) (ofOpt (Scope.ofCode r.amoP) fun p => .amoFadd p r.fA r.fB r.fC))
  | 10 => noLit r (ck (r.len == 2 && r.top == false && r.eF == 0 && r.eT == 0 && r.eM == 0 && r.eG == 0 && r.imm32 == 0) (ofOpt (Scope.ofCode r.amoP) fun p => .amoCas p r.amoW r.fA r.fB r.fC r.eE))
  | _ => .error .undefFn

/-- Major 0x16 (R86). -/
def decMemctl (r : Raw) : Except DecodeErr Instr :=
  match r.fD.toNat with
  | 0 => noLit r (ck (r.len == 0 && r.fA == 0 && r.fB == 0 && r.fC == 0) (.ok .fenceImem))
  | 1 => noLit r (ck (r.len == 0 && r.fA == 0 && r.fB == 0 && r.fC == 0) (.ok .fenceExt))
  | 2 => noLit r (ck (r.len == 0 && r.fA == 0) (.ok (.discard r.fB r.fC)))
  | 3 => noLit r (ck (r.len == 0 && r.fA == 0 && (r.fC == 0 || r.fC == 1)) (.ok (.dpref (r.fC == 1) r.fB)))
  | 4 => noLit r (ck (r.len == 0 && r.fA == 0 && r.fC == 0) (.ok (.ipref r.fB)))
  | _ => .error .undefFn

/-- Major 0x18 (R86). -/
def decBc (r : Raw) : Except DecodeErr Instr :=
  match r.w3.toNat with
  | 0 => if r.len == 0 then .ok (.beq r.disp11 r.fA r.fB) else if r.len == 2 then ck (r.disp11 == 0 && r.eE == 0 && r.eF == 0 && r.eT == 0 && r.eM == 0 && r.eG == 0) (.ok (.beqExt r.imm32 r.fA r.fB)) else if r.len == 3 then ck (r.disp11 == 0 && r.eE == 0 && r.eF == 0 && r.eT == 0 && r.eM == 0 && r.eG == 0 && r.imm32 == 0 && mul4 r.lit) (.ok (.beqLit r.lit r.fA r.fB)) else .error .reservedField
  | 1 => if r.len == 0 then .ok (.bne r.disp11 r.fA r.fB) else if r.len == 2 then ck (r.disp11 == 0 && r.eE == 0 && r.eF == 0 && r.eT == 0 && r.eM == 0 && r.eG == 0) (.ok (.bneExt r.imm32 r.fA r.fB)) else if r.len == 3 then ck (r.disp11 == 0 && r.eE == 0 && r.eF == 0 && r.eT == 0 && r.eM == 0 && r.eG == 0 && r.imm32 == 0 && mul4 r.lit) (.ok (.bneLit r.lit r.fA r.fB)) else .error .reservedField
  | 2 => if r.len == 0 then .ok (.blt r.disp11 r.fA r.fB) else if r.len == 2 then ck (r.disp11 == 0 && r.eE == 0 && r.eF == 0 && r.eT == 0 && r.eM == 0 && r.eG == 0) (.ok (.bltExt r.imm32 r.fA r.fB)) else if r.len == 3 then ck (r.disp11 == 0 && r.eE == 0 && r.eF == 0 && r.eT == 0 && r.eM == 0 && r.eG == 0 && r.imm32 == 0 && mul4 r.lit) (.ok (.bltLit r.lit r.fA r.fB)) else .error .reservedField
  | 3 => if r.len == 0 then .ok (.bge r.disp11 r.fA r.fB) else if r.len == 2 then ck (r.disp11 == 0 && r.eE == 0 && r.eF == 0 && r.eT == 0 && r.eM == 0 && r.eG == 0) (.ok (.bgeExt r.imm32 r.fA r.fB)) else if r.len == 3 then ck (r.disp11 == 0 && r.eE == 0 && r.eF == 0 && r.eT == 0 && r.eM == 0 && r.eG == 0 && r.imm32 == 0 && mul4 r.lit) (.ok (.bgeLit r.lit r.fA r.fB)) else .error .reservedField
  | 4 => if r.len == 0 then .ok (.bltu r.disp11 r.fA r.fB) else if r.len == 2 then ck (r.disp11 == 0 && r.eE == 0 && r.eF == 0 && r.eT == 0 && r.eM == 0 && r.eG == 0) (.ok (.bltuExt r.imm32 r.fA r.fB)) else if r.len == 3 then ck (r.disp11 == 0 && r.eE == 0 && r.eF == 0 && r.eT == 0 && r.eM == 0 && r.eG == 0 && r.imm32 == 0 && mul4 r.lit) (.ok (.bltuLit r.lit r.fA r.fB)) else .error .reservedField
  | 5 => if r.len == 0 then .ok (.bgeu r.disp11 r.fA r.fB) else if r.len == 2 then ck (r.disp11 == 0 && r.eE == 0 && r.eF == 0 && r.eT == 0 && r.eM == 0 && r.eG == 0) (.ok (.bgeuExt r.imm32 r.fA r.fB)) else if r.len == 3 then ck (r.disp11 == 0 && r.eE == 0 && r.eF == 0 && r.eT == 0 && r.eM == 0 && r.eG == 0 && r.imm32 == 0 && mul4 r.lit) (.ok (.bgeuLit r.lit r.fA r.fB)) else .error .reservedField
  | _ => if r.len == 1 then .error .reservedField else .error .reservedField

/-- Major 0x19 (R86). -/
def decB (r : Raw) : Except DecodeErr Instr :=
  if r.len == 0 then .ok (.b r.off24) else if r.len == 1 then ck (r.off24 == 0 && mul4 r.lit) (.ok (.bLit r.lit)) else .error .reservedField

/-- Major 0x1A (R86). -/
def decBl (r : Raw) : Except DecodeErr Instr :=
  if r.len == 0 then .ok (.bl r.off24) else if r.len == 1 then ck (r.off24 == 0 && mul4 r.lit) (.ok (.blLit r.lit)) else .error .reservedField

/-- Major 0x1B (R86). -/
def decJump (r : Raw) : Except DecodeErr Instr :=
  match r.fD.toNat with
  | 0 => noLit r (ck (r.len == 0 && r.fA == 0 && r.fC == 0) (.ok (.br r.fB)))
  | 1 => noLit r (ck (r.len == 0 && r.fC == 0) (.ok (.blr r.fA r.fB)))
  | 2 => noLit r (ck (r.len == 0 && r.fA == 0 && r.fB == 0 && r.fC == 0) (.ok .ret))
  | _ => .error .undefFn

/-- Major 0x1C (R86). -/
def decLoop (r : Raw) : Except DecodeErr Instr :=
  noLit r (ck (r.len == 0) (.ok (.loop r.fA r.rot r.off18)))

/-- Major 0x1E (R86). -/
def decContext (r : Raw) : Except DecodeErr Instr :=
  match r.fD.toNat with
  | 0 => noLit r (ck (r.len == 0) (.ok (.start r.fA r.fB r.fC)))
  | 1 => noLit r (ck (r.len == 0 && r.fC == 0) (.ok (.join r.fA r.fB)))
  | 2 => noLit r (ck (r.len == 0 && r.fA == 0 && r.fC == 0) (.ok (.endc r.fB)))
  | 3 => noLit r (ck (r.len == 0 && r.fA == 0 && r.fB == 0 && r.fC == 0) (.ok .yield))
  | _ => .error .undefFn

/-- Major 0x1F (R86). -/
def decSystem (r : Raw) : Except DecodeErr Instr :=
  match r.fD.toNat with
  | 0 => noLit r (ck (r.len == 0 && r.fA == 0 && r.fC[4] == false) (.ok (.trap (r.fC.setWidth 4) r.fB)))
  | 1 => noLit r (ck (r.len == 0 && r.fA == 0 && r.fB == 0 && r.fC == 0) (.ok .brk))
  | 2 => noLit r (ck (r.len == 0 && r.fA == 0 && r.fB == 0 && r.fC == 0) (.ok .tret))
  | 3 => noLit r (ck (r.len == 0) (.ok (.rdsr r.fA r.srIdx)))
  | 4 => noLit r (ck (r.len == 0) (.ok (.wrsr r.srIdx r.fA)))
  | 5 => noLit r (ck (r.len == 0 && r.fB == 0 && r.fC == 0) (.ok (.rdtime r.fA)))
  | _ => .error .undefFn

/-- Major 0x20 (R86). -/
def decVload (r : Raw) : Except DecodeErr Instr :=
  match r.fD.toNat with
  | 0 => if r.len == 2 then ck (r.eE == 0 && r.eG == 0 && r.fC == 0 && r.eF == 0) (ofOpt (Type4.ofLane r.eT) fun t => .vld t r.eM r.imm32 r.fA r.fB) else if r.len == 3 then ck (r.eE == 0 && r.eG == 0 && r.fC == 0 && r.eF == 0 && r.imm32 == 0) (ofOpt (Type4.ofLane r.eT) fun t => .vldLit t r.eM r.lit r.fA r.fB) else .error .reservedField
  | 1 => if r.len == 2 then ck (r.eE == 0 && r.eG == 0 && r.fC == 0 && r.eF == 0) (ofOpt (Type4.ofLane r.eT) fun t => .vldP t r.eM r.imm32 r.fA r.fB) else if r.len == 3 then ck (r.eE == 0 && r.eG == 0 && r.fC == 0 && r.eF == 0 && r.imm32 == 0) (ofOpt (Type4.ofLane r.eT) fun t => .vldPLit t r.eM r.lit r.fA r.fB) else .error .reservedField
  | 2 => if r.len == 2 then ck (r.eE == 0 && r.eG == 0 && r.eF == 0) (ofOpt (Type4.ofLane r.eT) fun t => .vlds t r.eM r.imm32 r.fA r.fB r.fC) else if r.len == 3 then ck (r.eE == 0 && r.eG == 0 && r.eF == 0 && r.imm32 == 0) (ofOpt (Type4.ofLane r.eT) fun t => .vldsLit t r.eM r.lit r.fA r.fB r.fC) else .error .reservedField
  | 3 => if r.len == 2 then ck (r.eE == 0 && r.eG == 0 && sh6 r.eF) (ofOpt (Type4.ofLane r.eT) fun t => .vldx t r.eM (r.eF.setWidth 3) r.imm32 r.fA r.fB r.fC) else if r.len == 3 then ck (r.eE == 0 && r.eG == 0 && sh6 r.eF && r.imm32 == 0) (ofOpt (Type4.ofLane r.eT) fun t => .vldxLit t r.eM (r.eF.setWidth 3) r.lit r.fA r.fB r.fC) else .error .reservedField
  | 4 => if r.len == 2 then ck (r.eE == 0 && r.eG == 0 && r.fC == 0 && r.eF == 0) (ofOpt (Type4.ofLane r.eT) fun t => .vldb t r.eM r.imm32 r.fA r.fB) else if r.len == 3 then ck (r.eE == 0 && r.eG == 0 && r.fC == 0 && r.eF == 0 && r.imm32 == 0) (ofOpt (Type4.ofLane r.eT) fun t => .vldbLit t r.eM r.lit r.fA r.fB) else .error .reservedField
  | _ => .error .undefFn

/-- Major 0x21 (R86). -/
def decVstore (r : Raw) : Except DecodeErr Instr :=
  match r.fD.toNat with
  | 0 => if r.len == 2 then ck (r.eE == 0 && r.eG == 0 && r.fC == 0 && r.eF == 0) (ofOpt (Type4.ofLane r.eT) fun t => .vst t r.eM r.imm32 r.fA r.fB) else if r.len == 3 then ck (r.eE == 0 && r.eG == 0 && r.fC == 0 && r.eF == 0 && r.imm32 == 0) (ofOpt (Type4.ofLane r.eT) fun t => .vstLit t r.eM r.lit r.fA r.fB) else .error .reservedField
  | 1 => if r.len == 2 then ck (r.eE == 0 && r.eG == 0 && r.fC == 0 && r.eF == 0) (ofOpt (Type4.ofLane r.eT) fun t => .vstP t r.eM r.imm32 r.fA r.fB) else if r.len == 3 then ck (r.eE == 0 && r.eG == 0 && r.fC == 0 && r.eF == 0 && r.imm32 == 0) (ofOpt (Type4.ofLane r.eT) fun t => .vstPLit t r.eM r.lit r.fA r.fB) else .error .reservedField
  | 2 => if r.len == 2 then ck (r.eE == 0 && r.eG == 0 && r.eF == 0) (ofOpt (Type4.ofLane r.eT) fun t => .vsts t r.eM r.imm32 r.fA r.fB r.fC) else if r.len == 3 then ck (r.eE == 0 && r.eG == 0 && r.eF == 0 && r.imm32 == 0) (ofOpt (Type4.ofLane r.eT) fun t => .vstsLit t r.eM r.lit r.fA r.fB r.fC) else .error .reservedField
  | 3 => if r.len == 2 then ck (r.eE == 0 && r.eG == 0 && sh6 r.eF) (ofOpt (Type4.ofLane r.eT) fun t => .vstx t r.eM (r.eF.setWidth 3) r.imm32 r.fA r.fB r.fC) else if r.len == 3 then ck (r.eE == 0 && r.eG == 0 && sh6 r.eF && r.imm32 == 0) (ofOpt (Type4.ofLane r.eT) fun t => .vstxLit t r.eM (r.eF.setWidth 3) r.lit r.fA r.fB r.fC) else .error .reservedField
  | _ => .error .undefFn

/-- Major 0x22 (R86). -/
noncomputable def decValuA (r : Raw) : Except DecodeErr Instr :=
  match r.fn4.toNat with
  | 0 => noLit r (if r.len == 0 then ck ((LaneT.ofCode3 r.t3).FI) (.ok (let y := LaneT.ofCode3 r.t3; .vadd r.m2 y r.fA r.fB r.fC)) else ck (r.m2 == 0 && r.t3 == 0 && r.eE == 0 && r.eF == 0 && r.imm32 == 0 && r.gRest == 0) (ofOpt2 (LaneT.ofCode4 r.eT LaneT.FI) (Rnd.ofCode r.gRnd) (modeOk) fun y m => .vaddExt r.eM y m r.fA r.fB r.fC))
  | 1 => noLit r (if r.len == 0 then ck ((LaneT.ofCode3 r.t3).FI) (.ok (let y := LaneT.ofCode3 r.t3; .vsub r.m2 y r.fA r.fB r.fC)) else ck (r.m2 == 0 && r.t3 == 0 && r.eE == 0 && r.eF == 0 && r.imm32 == 0 && r.gRest == 0) (ofOpt2 (LaneT.ofCode4 r.eT LaneT.FI) (Rnd.ofCode r.gRnd) (modeOk) fun y m => .vsubExt r.eM y m r.fA r.fB r.fC))
  | 2 => noLit r (if r.len == 0 then ck ((LaneT.ofCode3 r.t3).FI) (.ok (let y := LaneT.ofCode3 r.t3; .vmul r.m2 y r.fA r.fB r.fC)) else ck (r.m2 == 0 && r.t3 == 0 && r.eE == 0 && r.eF == 0 && r.imm32 == 0 && r.gRest == 0) (ofOpt2 (LaneT.ofCode4 r.eT LaneT.FI) (Rnd.ofCode r.gRnd) (modeOk) fun y m => .vmulExt r.eM y m r.fA r.fB r.fC))
  | 3 => noLit r (if r.len == 0 then ck ((LaneT.ofCode3 r.t3).FI) (.ok (let y := LaneT.ofCode3 r.t3; .vmin r.m2 y r.fA r.fB r.fC)) else ck (r.m2 == 0 && r.t3 == 0 && r.eE == 0 && r.eF == 0 && r.imm32 == 0 && r.eG == 0) (ofOpt (LaneT.ofCode4 r.eT LaneT.FI) fun y => .vminExt r.eM y r.fA r.fB r.fC))
  | 4 => noLit r (if r.len == 0 then ck ((LaneT.ofCode3 r.t3).FI) (.ok (let y := LaneT.ofCode3 r.t3; .vmax r.m2 y r.fA r.fB r.fC)) else ck (r.m2 == 0 && r.t3 == 0 && r.eE == 0 && r.eF == 0 && r.imm32 == 0 && r.eG == 0) (ofOpt (LaneT.ofCode4 r.eT LaneT.FI) fun y => .vmaxExt r.eM y r.fA r.fB r.fC))
  | 5 => noLit r (if r.len == 0 then ck ((LaneT.ofCode3 r.t3).IB) (.ok (let y := LaneT.ofCode3 r.t3; .vand r.m2 y r.fA r.fB r.fC)) else ck (r.m2 == 0 && r.t3 == 0 && r.eE == 0 && r.eF == 0 && r.imm32 == 0 && r.eG == 0) (ofOpt (LaneT.ofCode4 r.eT LaneT.IB) fun y => .vandExt r.eM y r.fA r.fB r.fC))
  | 6 => noLit r (if r.len == 0 then ck ((LaneT.ofCode3 r.t3).IB) (.ok (let y := LaneT.ofCode3 r.t3; .vor r.m2 y r.fA r.fB r.fC)) else ck (r.m2 == 0 && r.t3 == 0 && r.eE == 0 && r.eF == 0 && r.imm32 == 0 && r.eG == 0) (ofOpt (LaneT.ofCode4 r.eT LaneT.IB) fun y => .vorExt r.eM y r.fA r.fB r.fC))
  | 7 => noLit r (if r.len == 0 then ck ((LaneT.ofCode3 r.t3).IB) (.ok (let y := LaneT.ofCode3 r.t3; .vxor r.m2 y r.fA r.fB r.fC)) else ck (r.m2 == 0 && r.t3 == 0 && r.eE == 0 && r.eF == 0 && r.imm32 == 0 && r.eG == 0) (ofOpt (LaneT.ofCode4 r.eT LaneT.IB) fun y => .vxorExt r.eM y r.fA r.fB r.fC))
  | 8 => noLit r (if r.len == 0 then ck ((LaneT.ofCode3 r.t3).IB) (.ok (let y := LaneT.ofCode3 r.t3; .vandn r.m2 y r.fA r.fB r.fC)) else ck (r.m2 == 0 && r.t3 == 0 && r.eE == 0 && r.eF == 0 && r.imm32 == 0 && r.eG == 0) (ofOpt (LaneT.ofCode4 r.eT LaneT.IB) fun y => .vandnExt r.eM y r.fA r.fB r.fC))
  | 9 => noLit r (if r.len == 0 then ck ((LaneT.ofCode3 r.t3).I) (.ok (let y := LaneT.ofCode3 r.t3; .vshl r.m2 y r.fA r.fB r.fC)) else ck (r.m2 == 0 && r.t3 == 0 && r.eE == 0 && r.eF == 0 && r.imm32 == 0 && r.eG == 0) (ofOpt (LaneT.ofCode4 r.eT LaneT.I) fun y => .vshlExt r.eM y r.fA r.fB r.fC))
  | 10 => noLit r (if r.len == 0 then ck ((LaneT.ofCode3 r.t3).I) (.ok (let y := LaneT.ofCode3 r.t3; .vshr r.m2 y r.fA r.fB r.fC)) else ck (r.m2 == 0 && r.t3 == 0 && r.eE == 0 && r.eF == 0 && r.imm32 == 0 && r.eG == 0) (ofOpt (LaneT.ofCode4 r.eT LaneT.I) fun y => .vshrExt r.eM y r.fA r.fB r.fC))
  | 11 => noLit r (if r.len == 0 then ck ((LaneT.ofCode3 r.t3).I) (.ok (let y := LaneT.ofCode3 r.t3; .vsra r.m2 y r.fA r.fB r.fC)) else ck (r.m2 == 0 && r.t3 == 0 && r.eE == 0 && r.eF == 0 && r.imm32 == 0 && r.eG == 0) (ofOpt (LaneT.ofCode4 r.eT LaneT.I) fun y => .vsraExt r.eM y r.fA r.fB r.fC))
  | 12 => noLit r (if r.len == 0 then ck (r.fC == 0 && (LaneT.ofCode3 r.t3).FI) (.ok (let y := LaneT.ofCode3 r.t3; .vabs r.m2 y r.fA r.fB)) else ck (r.fC == 0 && r.m2 == 0 && r.t3 == 0 && r.eE == 0 && r.eF == 0 && r.imm32 == 0 && r.eG == 0) (ofOpt (LaneT.ofCode4 r.eT LaneT.FI) fun y => .vabsExt r.eM y r.fA r.fB))
  | 13 => noLit r (if r.len == 0 then ck (r.fC == 0 && (LaneT.ofCode3 r.t3).FI) (.ok (let y := LaneT.ofCode3 r.t3; .vneg r.m2 y r.fA r.fB)) else ck (r.fC == 0 && r.m2 == 0 && r.t3 == 0 && r.eE == 0 && r.eF == 0 && r.imm32 == 0 && r.eG == 0) (ofOpt (LaneT.ofCode4 r.eT LaneT.FI) fun y => .vnegExt r.eM y r.fA r.fB))
  | 14 => noLit r (if r.len == 0 then ck (r.fC == 0 && (LaneT.ofCode3 r.t3).any) (.ok (let y := LaneT.ofCode3 r.t3; .vmov r.m2 y r.fA r.fB)) else ck (r.fC == 0 && r.m2 == 0 && r.t3 == 0 && r.eE == 0 && r.eF == 0 && r.imm32 == 0 && r.eG == 0) (ofOpt (LaneT.ofCode4 r.eT LaneT.any) fun y => .vmovExt r.eM y r.fA r.fB))
  | 15 => noLit r (if r.len == 0 then ck ((LaneT.ofCode3 r.t3).any) (.ok (let y := LaneT.ofCode3 r.t3; .vsel r.m2 y r.fA r.fB r.fC)) else ck (r.m2 == 0 && r.t3 == 0 && r.eE == 0 && r.eF == 0 && r.imm32 == 0 && r.eG == 0) (ofOpt (LaneT.ofCode4 r.eT LaneT.any) fun y => .vselExt r.eM y r.fA r.fB r.fC))
  | _ => .error .undefFn

/-- Major 0x23 (R86). -/
noncomputable def decValuB (r : Raw) : Except DecodeErr Instr :=
  match r.fn4.toNat with
  | 0 => noLit r (if r.len == 0 then ck ((LaneT.ofCode3 r.t3).I) (.ok (let y := LaneT.ofCode3 r.t3; .vminu r.m2 y r.fA r.fB r.fC)) else ck (r.m2 == 0 && r.t3 == 0 && r.eE == 0 && r.eF == 0 && r.imm32 == 0 && r.eG == 0) (ofOpt (LaneT.ofCode4 r.eT LaneT.I) fun y => .vminuExt r.eM y r.fA r.fB r.fC))
  | 1 => noLit r (if r.len == 0 then ck ((LaneT.ofCode3 r.t3).I) (.ok (let y := LaneT.ofCode3 r.t3; .vmaxu r.m2 y r.fA r.fB r.fC)) else ck (r.m2 == 0 && r.t3 == 0 && r.eE == 0 && r.eF == 0 && r.imm32 == 0 && r.eG == 0) (ofOpt (LaneT.ofCode4 r.eT LaneT.I) fun y => .vmaxuExt r.eM y r.fA r.fB r.fC))
  | 2 => noLit r (if r.len == 0 then ck ((LaneT.ofCode3 r.t3).I) (.ok (let y := LaneT.ofCode3 r.t3; .vmulh r.m2 y r.fA r.fB r.fC)) else ck (r.m2 == 0 && r.t3 == 0 && r.eE == 0 && r.eF == 0 && r.imm32 == 0 && r.eG == 0) (ofOpt (LaneT.ofCode4 r.eT LaneT.I) fun y => .vmulhExt r.eM y r.fA r.fB r.fC))
  | 3 => noLit r (if r.len == 0 then ck ((LaneT.ofCode3 r.t3).I) (.ok (let y := LaneT.ofCode3 r.t3; .vmulhu r.m2 y r.fA r.fB r.fC)) else ck (r.m2 == 0 && r.t3 == 0 && r.eE == 0 && r.eF == 0 && r.imm32 == 0 && r.eG == 0) (ofOpt (LaneT.ofCode4 r.eT LaneT.I) fun y => .vmulhuExt r.eM y r.fA r.fB r.fC))
  | 4 => noLit r (if r.len == 0 then ck ((LaneT.ofCode3 r.t3).I) (.ok (let y := LaneT.ofCode3 r.t3; .vavg r.m2 y r.fA r.fB r.fC)) else ck (r.m2 == 0 && r.t3 == 0 && r.eE == 0 && r.eF == 0 && r.imm32 == 0 && r.eG == 0) (ofOpt (LaneT.ofCode4 r.eT LaneT.I) fun y => .vavgExt r.eM y r.fA r.fB r.fC))
  | 5 => noLit r (if r.len == 0 then ck ((LaneT.ofCode3 r.t3).I) (.ok (let y := LaneT.ofCode3 r.t3; .vadds r.m2 y r.fA r.fB r.fC)) else ck (r.m2 == 0 && r.t3 == 0 && r.eE == 0 && r.eF == 0 && r.imm32 == 0 && r.eG == 0) (ofOpt (LaneT.ofCode4 r.eT LaneT.I) fun y => .vaddsExt r.eM y r.fA r.fB r.fC))
  | 6 => noLit r (if r.len == 0 then ck ((LaneT.ofCode3 r.t3).I) (.ok (let y := LaneT.ofCode3 r.t3; .vsubs r.m2 y r.fA r.fB r.fC)) else ck (r.m2 == 0 && r.t3 == 0 && r.eE == 0 && r.eF == 0 && r.imm32 == 0 && r.eG == 0) (ofOpt (LaneT.ofCode4 r.eT LaneT.I) fun y => .vsubsExt r.eM y r.fA r.fB r.fC))
  | 7 => noLit r (if r.len == 0 then ck ((LaneT.ofCode3 r.t3).I) (.ok (let y := LaneT.ofCode3 r.t3; .vaddsu r.m2 y r.fA r.fB r.fC)) else ck (r.m2 == 0 && r.t3 == 0 && r.eE == 0 && r.eF == 0 && r.imm32 == 0 && r.eG == 0) (ofOpt (LaneT.ofCode4 r.eT LaneT.I) fun y => .vaddsuExt r.eM y r.fA r.fB r.fC))
  | 8 => noLit r (if r.len == 0 then ck ((LaneT.ofCode3 r.t3).I) (.ok (let y := LaneT.ofCode3 r.t3; .vsubsu r.m2 y r.fA r.fB r.fC)) else ck (r.m2 == 0 && r.t3 == 0 && r.eE == 0 && r.eF == 0 && r.imm32 == 0 && r.eG == 0) (ofOpt (LaneT.ofCode4 r.eT LaneT.I) fun y => .vsubsuExt r.eM y r.fA r.fB r.fC))
  | 9 => noLit r (if r.len == 0 then ck (r.a3ok && (LaneT.ofCode3 r.t3).FI) (.ok (let y := LaneT.ofCode3 r.t3; .vcmpEq r.m2 y r.fB r.fC r.a3)) else ck (r.a3ok && r.m2 == 0 && r.t3 == 0 && r.eE == 0 && r.eF == 0 && r.imm32 == 0 && r.eG == 0) (ofOpt (LaneT.ofCode4 r.eT LaneT.FI) fun y => .vcmpEqExt r.eM y r.fB r.fC r.a3))
  | 10 => noLit r (if r.len == 0 then ck (r.a3ok && (LaneT.ofCode3 r.t3).FI) (.ok (let y := LaneT.ofCode3 r.t3; .vcmpNe r.m2 y r.fB r.fC r.a3)) else ck (r.a3ok && r.m2 == 0 && r.t3 == 0 && r.eE == 0 && r.eF == 0 && r.imm32 == 0 && r.eG == 0) (ofOpt (LaneT.ofCode4 r.eT LaneT.FI) fun y => .vcmpNeExt r.eM y r.fB r.fC r.a3))
  | 11 => noLit r (if r.len == 0 then ck (r.a3ok && (LaneT.ofCode3 r.t3).FI) (.ok (let y := LaneT.ofCode3 r.t3; .vcmpLt r.m2 y r.fB r.fC r.a3)) else ck (r.a3ok && r.m2 == 0 && r.t3 == 0 && r.eE == 0 && r.eF == 0 && r.imm32 == 0 && r.eG == 0) (ofOpt (LaneT.ofCode4 r.eT LaneT.FI) fun y => .vcmpLtExt r.eM y r.fB r.fC r.a3))
  | 12 => noLit r (if r.len == 0 then ck (r.a3ok && (LaneT.ofCode3 r.t3).FI) (.ok (let y := LaneT.ofCode3 r.t3; .vcmpLe r.m2 y r.fB r.fC r.a3)) else ck (r.a3ok && r.m2 == 0 && r.t3 == 0 && r.eE == 0 && r.eF == 0 && r.imm32 == 0 && r.eG == 0) (ofOpt (LaneT.ofCode4 r.eT LaneT.FI) fun y => .vcmpLeExt r.eM y r.fB r.fC r.a3))
  | 13 => noLit r (if r.len == 0 then ck (r.a3ok && (LaneT.ofCode3 r.t3).I) (.ok (let y := LaneT.ofCode3 r.t3; .vcmpLtu r.m2 y r.fB r.fC r.a3)) else ck (r.a3ok && r.m2 == 0 && r.t3 == 0 && r.eE == 0 && r.eF == 0 && r.imm32 == 0 && r.eG == 0) (ofOpt (LaneT.ofCode4 r.eT LaneT.I) fun y => .vcmpLtuExt r.eM y r.fB r.fC r.a3))
  | 14 => noLit r (if r.len == 0 then ck (r.a3ok && (LaneT.ofCode3 r.t3).I) (.ok (let y := LaneT.ofCode3 r.t3; .vcmpLeu r.m2 y r.fB r.fC r.a3)) else ck (r.a3ok && r.m2 == 0 && r.t3 == 0 && r.eE == 0 && r.eF == 0 && r.imm32 == 0 && r.eG == 0) (ofOpt (LaneT.ofCode4 r.eT LaneT.I) fun y => .vcmpLeuExt r.eM y r.fB r.fC r.a3))
  | 15 => noLit r (if r.len == 0 then ck (r.fC == 0 && (LaneT.ofCode3 r.t3).F) (.ok (let y := LaneT.ofCode3 r.t3; .vclass r.m2 y r.fA r.fB)) else ck (r.fC == 0 && r.m2 == 0 && r.t3 == 0 && r.eE == 0 && r.eF == 0 && r.imm32 == 0 && r.eG == 0) (ofOpt (LaneT.ofCode4 r.eT LaneT.F) fun y => .vclassExt r.eM y r.fA r.fB))
  | _ => .error .undefFn

/-- Major 0x24 (R86). -/
noncomputable def decVfma (r : Raw) : Except DecodeErr Instr :=
  match r.fn4.toNat with
  | 0 => noLit r (if r.len == 0 then ck ((LaneT.ofCode3 r.t3).FI) (.ok (let y := LaneT.ofCode3 r.t3; .vfma r.m2 y r.fA r.fB r.fC)) else ck (r.m2 == 0 && r.t3 == 0 && r.eE == 0 && r.eF == 0 && r.imm32 == 0 && r.gRest == 0) (ofOpt2 (LaneT.ofCode4 r.eT LaneT.FI) (Rnd.ofCode r.gRnd) (modeOk) fun y m => .vfmaExt r.eM y m r.fA r.fB r.fC))
  | 1 => noLit r (if r.len == 0 then ck ((LaneT.ofCode3 r.t3).FI) (.ok (let y := LaneT.ofCode3 r.t3; .vfms r.m2 y r.fA r.fB r.fC)) else ck (r.m2 == 0 && r.t3 == 0 && r.eE == 0 && r.eF == 0 && r.imm32 == 0 && r.gRest == 0) (ofOpt2 (LaneT.ofCode4 r.eT LaneT.FI) (Rnd.ofCode r.gRnd) (modeOk) fun y m => .vfmsExt r.eM y m r.fA r.fB r.fC))
  | 2 => noLit r (if r.len == 0 then ck ((LaneT.ofCode3 r.t3).FI) (.ok (let y := LaneT.ofCode3 r.t3; .vfnma r.m2 y r.fA r.fB r.fC)) else ck (r.m2 == 0 && r.t3 == 0 && r.eE == 0 && r.eF == 0 && r.imm32 == 0 && r.gRest == 0) (ofOpt2 (LaneT.ofCode4 r.eT LaneT.FI) (Rnd.ofCode r.gRnd) (modeOk) fun y m => .vfnmaExt r.eM y m r.fA r.fB r.fC))
  | 3 => noLit r (if r.len == 0 then ck ((LaneT.ofCode3 r.t3).FI) (.ok (let y := LaneT.ofCode3 r.t3; .vfnms r.m2 y r.fA r.fB r.fC)) else ck (r.m2 == 0 && r.t3 == 0 && r.eE == 0 && r.eF == 0 && r.imm32 == 0 && r.gRest == 0) (ofOpt2 (LaneT.ofCode4 r.eT LaneT.FI) (Rnd.ofCode r.gRnd) (modeOk) fun y m => .vfnmsExt r.eM y m r.fA r.fB r.fC))
  | 4 => noLit r (if r.len == 0 then ck ((LaneT.ofCode3 r.t3).dot4) (.ok (let y := LaneT.ofCode3 r.t3; .vdot4 r.m2 y r.fA r.fB r.fC)) else ck (r.m2 == 0 && r.t3 == 0 && r.eE == 0 && r.eF == 0 && r.imm32 == 0 && r.eG == 0) (ofOpt (LaneT.ofCode4 r.eT LaneT.dot4) fun y => .vdot4Ext r.eM y r.fA r.fB r.fC))
  | 5 => noLit r (if r.len == 0 then ck ((LaneT.ofCode3 r.t3).dot2) (.ok (let y := LaneT.ofCode3 r.t3; .vdot2 r.m2 y r.fA r.fB r.fC)) else ck (r.m2 == 0 && r.t3 == 0 && r.eE == 0 && r.eF == 0 && r.imm32 == 0 && r.gRest == 0) (ofOpt2 (LaneT.ofCode4 r.eT LaneT.dot2) (Rnd.ofCode r.gRnd) (modeOk) fun y m => .vdot2Ext r.eM y m r.fA r.fB r.fC))
  | _ => .error .undefFn

/-- Major 0x25 (R86). -/
noncomputable def decVspec (r : Raw) : Except DecodeErr Instr :=
  match r.fn4.toNat with
  | 0 => noLit r (if r.len == 0 then ck (r.fC == 0 && (LaneT.ofCode3 r.t3).F) (.ok (let y := LaneT.ofCode3 r.t3; .vexp2 r.m2 y r.fA r.fB)) else ck (r.fC == 0 && r.m2 == 0 && r.t3 == 0 && r.eE == 0 && r.eF == 0 && r.imm32 == 0 && r.eG == 0) (ofOpt (LaneT.ofCode4 r.eT LaneT.F) fun y => .vexp2Ext r.eM y r.fA r.fB))
  | 1 => noLit r (if r.len == 0 then ck (r.fC == 0 && (LaneT.ofCode3 r.t3).F) (.ok (let y := LaneT.ofCode3 r.t3; .vlog2 r.m2 y r.fA r.fB)) else ck (r.fC == 0 && r.m2 == 0 && r.t3 == 0 && r.eE == 0 && r.eF == 0 && r.imm32 == 0 && r.eG == 0) (ofOpt (LaneT.ofCode4 r.eT LaneT.F) fun y => .vlog2Ext r.eM y r.fA r.fB))
  | 2 => noLit r (if r.len == 0 then ck (r.fC == 0 && (LaneT.ofCode3 r.t3).F) (.ok (let y := LaneT.ofCode3 r.t3; .vrcp r.m2 y r.fA r.fB)) else ck (r.fC == 0 && r.m2 == 0 && r.t3 == 0 && r.eE == 0 && r.eF == 0 && r.imm32 == 0 && r.eG == 0) (ofOpt (LaneT.ofCode4 r.eT LaneT.F) fun y => .vrcpExt r.eM y r.fA r.fB))
  | 3 => noLit r (if r.len == 0 then ck (r.fC == 0 && (LaneT.ofCode3 r.t3).F) (.ok (let y := LaneT.ofCode3 r.t3; .vrsqrt r.m2 y r.fA r.fB)) else ck (r.fC == 0 && r.m2 == 0 && r.t3 == 0 && r.eE == 0 && r.eF == 0 && r.imm32 == 0 && r.eG == 0) (ofOpt (LaneT.ofCode4 r.eT LaneT.F) fun y => .vrsqrtExt r.eM y r.fA r.fB))
  | 4 => noLit r (if r.len == 0 then ck (r.fC == 0 && (LaneT.ofCode3 r.t3).F) (.ok (let y := LaneT.ofCode3 r.t3; .vsqrt r.m2 y r.fA r.fB)) else ck (r.fC == 0 && r.m2 == 0 && r.t3 == 0 && r.eE == 0 && r.eF == 0 && r.imm32 == 0 && r.eG == 0) (ofOpt (LaneT.ofCode4 r.eT LaneT.F) fun y => .vsqrtExt r.eM y r.fA r.fB))
  | 5 => noLit r (if r.len == 0 then ck (r.fC == 0 && (LaneT.ofCode3 r.t3).F) (.ok (let y := LaneT.ofCode3 r.t3; .vtanh r.m2 y r.fA r.fB)) else ck (r.fC == 0 && r.m2 == 0 && r.t3 == 0 && r.eE == 0 && r.eF == 0 && r.imm32 == 0 && r.eG == 0) (ofOpt (LaneT.ofCode4 r.eT LaneT.F) fun y => .vtanhExt r.eM y r.fA r.fB))
  | 6 => noLit r (if r.len == 0 then ck (r.fC == 0 && (LaneT.ofCode3 r.t3).F) (.ok (let y := LaneT.ofCode3 r.t3; .vsigm r.m2 y r.fA r.fB)) else ck (r.fC == 0 && r.m2 == 0 && r.t3 == 0 && r.eE == 0 && r.eF == 0 && r.imm32 == 0 && r.eG == 0) (ofOpt (LaneT.ofCode4 r.eT LaneT.F) fun y => .vsigmExt r.eM y r.fA r.fB))
  | 7 => noLit r (if r.len == 0 then ck ((LaneT.ofCode3 r.t3).FI) (.ok (let y := LaneT.ofCode3 r.t3; .vdiv r.m2 y r.fA r.fB r.fC)) else ck (r.m2 == 0 && r.t3 == 0 && r.eE == 0 && r.eF == 0 && r.imm32 == 0 && r.eG == 0) (ofOpt (LaneT.ofCode4 r.eT LaneT.FI) fun y => .vdivExt r.eM y r.fA r.fB r.fC))
  | _ => .error .undefFn

/-- Major 0x26 (R86). -/
noncomputable def decVcvt (r : Raw) : Except DecodeErr Instr :=
  match r.fD.toNat with
  | 0 => noLit r (ck (r.len == 2 && r.eE == 0 && r.imm32 == 0 && r.gHi == 0 && r.fC == 0 && r.eF[4] == false) (ofCvt (Type4.ofLane r.eT) (Type4.ofLane (r.eF.setWidth 4)) (Rnd.ofCode r.gRnd) r.gPart fun td ts m => .vcvt td ts r.gPart m r.eM r.fA r.fB))
  | 1 => noLit r (ck (r.len == 2 && r.eE == 0 && r.eF == 0 && r.eM == 0 && r.eG == 0 && r.fC == 0 && r.offRest == 0) (ofGx (GxT.ofCode r.eT) r.off7 fun g => .vpackgx g r.off7 r.fA r.fB))
  | 2 => noLit r (ck (r.len == 2 && r.eE == 0 && r.eF == 0 && r.eG == 0 && r.fC == 0 && r.offRest == 0) (ofGx (GxT.ofCode r.eT) r.off7 fun g => .vunpackgx g r.off7 r.eM r.fA r.fB))
  | _ => .error .undefFn

/-- Major 0x27 (R86). -/
noncomputable def decVperm (r : Raw) : Except DecodeErr Instr :=
  match r.fn4.toNat with
  | 0 => noLit r (if r.len == 0 then ck ((LaneT.ofCode3 r.t3).any) (.ok (let y := LaneT.ofCode3 r.t3; .vperm r.m2 y r.fA r.fB r.fC)) else ck (r.m2 == 0 && r.t3 == 0 && r.eE == 0 && r.eF == 0 && r.imm32 == 0 && r.eG == 0) (ofOpt (LaneT.ofCode4 r.eT LaneT.any) fun y => .vpermExt r.eM y r.fA r.fB r.fC))
  | 1 => noLit r (if r.len == 0 then ck ((LaneT.ofCode3 r.t3).any) (.ok (let y := LaneT.ofCode3 r.t3; .vslideup r.m2 y r.fA r.fB r.fC)) else ck (r.m2 == 0 && r.t3 == 0 && r.eE == 0 && r.eF == 0 && r.imm32 == 0 && r.eG == 0) (ofOpt (LaneT.ofCode4 r.eT LaneT.any) fun y => .vslideupExt r.eM y r.fA r.fB r.fC))
  | 2 => noLit r (if r.len == 0 then ck ((LaneT.ofCode3 r.t3).any) (.ok (let y := LaneT.ofCode3 r.t3; .vslidedn r.m2 y r.fA r.fB r.fC)) else ck (r.m2 == 0 && r.t3 == 0 && r.eE == 0 && r.eF == 0 && r.imm32 == 0 && r.eG == 0) (ofOpt (LaneT.ofCode4 r.eT LaneT.any) fun y => .vslidednExt r.eM y r.fA r.fB r.fC))
  | 3 => noLit r (if r.len == 0 then ck (r.fC == 0 && (LaneT.ofCode3 r.t3).any) (.ok (let y := LaneT.ofCode3 r.t3; .vbcast r.m2 y r.fA r.fB)) else ck (r.fC == 0 && r.m2 == 0 && r.t3 == 0 && r.eE == 0 && r.eF == 0 && r.imm32 == 0 && r.eG == 0) (ofOpt (LaneT.ofCode4 r.eT LaneT.any) fun y => .vbcastExt r.eM y r.fA r.fB))
  | 4 => noLit r (if r.len == 0 then ck (r.m2 == 0 && (LaneT.ofCode3 r.t3).any) (.ok (let y := LaneT.ofCode3 r.t3; .vext y r.fA r.fB r.fC)) else ck (r.m2 == 0 && r.t3 == 0 && r.eE == 0 && r.eF == 0 && r.imm32 == 0 && r.eM == 0 && r.eG == 0) (ofOpt (LaneT.ofCode4 r.eT LaneT.any) fun y => .vextExt y r.fA r.fB r.fC))
  | 5 => noLit r (if r.len == 0 then ck ((LaneT.ofCode3 r.t3).any) (.ok (let y := LaneT.ofCode3 r.t3; .vins r.m2 y r.fA r.fB r.fC)) else ck (r.m2 == 0 && r.t3 == 0 && r.eE == 0 && r.eF == 0 && r.imm32 == 0 && r.eG == 0) (ofOpt (LaneT.ofCode4 r.eT LaneT.any) fun y => .vinsExt r.eM y r.fA r.fB r.fC))
  | 6 => noLit r (if r.len == 0 then ck ((LaneT.ofCode3 r.t3).any) (.ok (let y := LaneT.ofCode3 r.t3; .vzip r.m2 y r.fA r.fB r.fC)) else ck (r.m2 == 0 && r.t3 == 0 && r.eE == 0 && r.eF == 0 && r.imm32 == 0 && r.eG == 0) (ofOpt (LaneT.ofCode4 r.eT LaneT.any) fun y => .vzipExt r.eM y r.fA r.fB r.fC))
  | 7 => noLit r (if r.len == 0 then ck (r.fC == 0 && (LaneT.ofCode3 r.t3).any) (.ok (let y := LaneT.ofCode3 r.t3; .vunzip r.m2 y r.fA r.fB)) else ck (r.fC == 0 && r.m2 == 0 && r.t3 == 0 && r.eE == 0 && r.eF == 0 && r.imm32 == 0 && r.eG == 0) (ofOpt (LaneT.ofCode4 r.eT LaneT.any) fun y => .vunzipExt r.eM y r.fA r.fB))
  | 8 => noLit r (if r.len == 0 then ck (r.fC == 0 && (LaneT.ofCode3 r.t3).any) (.ok (let y := LaneT.ofCode3 r.t3; .vrev r.m2 y r.fA r.fB)) else ck (r.fC == 0 && r.m2 == 0 && r.t3 == 0 && r.eE == 0 && r.eF == 0 && r.imm32 == 0 && r.eG == 0) (ofOpt (LaneT.ofCode4 r.eT LaneT.any) fun y => .vrevExt r.eM y r.fA r.fB))
  | 9 => noLit r (if r.len == 0 then ck (r.fC == 0 && (LaneT.ofCode3 r.t3).FI) (.ok (let y := LaneT.ofCode3 r.t3; .vscanAdd r.m2 y r.fA r.fB)) else ck (r.fC == 0 && r.m2 == 0 && r.t3 == 0 && r.eE == 0 && r.eF == 0 && r.imm32 == 0 && r.gRest == 0) (ofOpt2 (LaneT.ofCode4 r.eT LaneT.FI) (Rnd.ofCode r.gRnd) (fun _ _ => true) fun y m => .vscanAddExt r.eM y m r.fA r.fB))
  | 10 => noLit r (if r.len == 0 then ck (r.fC == 0 && (LaneT.ofCode3 r.t3).FI) (.ok (let y := LaneT.ofCode3 r.t3; .vscanMax r.m2 y r.fA r.fB)) else ck (r.fC == 0 && r.m2 == 0 && r.t3 == 0 && r.eE == 0 && r.eF == 0 && r.imm32 == 0 && r.gRest == 0) (ofOpt2 (LaneT.ofCode4 r.eT LaneT.FI) (Rnd.ofCode r.gRnd) (fun _ _ => true) fun y m => .vscanMaxExt r.eM y m r.fA r.fB))
  | 11 => noLit r (if r.len == 0 then ck (r.c3ok && r.m2 == 0 && (LaneT.ofCode3 r.t3).keep) (.ok (let y := LaneT.ofCode3 r.t3; .vkeep2 y r.fA r.fB r.c3)) else ck (r.c3ok && r.m2 == 0 && r.t3 == 0 && r.eE == 0 && r.eF == 0 && r.imm32 == 0 && r.eM == 0 && r.eG == 0) (ofOpt (LaneT.ofCode4 r.eT LaneT.keep) fun y => .vkeep2Ext y r.fA r.fB r.c3))
  | _ => .error .undefFn

/-- Major 0x28 (R86). -/
noncomputable def decVred (r : Raw) : Except DecodeErr Instr :=
  match r.fn4.toNat with
  | 0 => noLit r (if r.len == 0 then ck (r.fC == 0 && (LaneT.ofCode3 r.t3).FI) (.ok (let y := LaneT.ofCode3 r.t3; .vredAdd r.m2 y r.fA r.fB)) else ck (r.fC == 0 && r.m2 == 0 && r.t3 == 0 && r.eE == 0 && r.eF == 0 && r.imm32 == 0 && r.gRest == 0) (ofOpt2 (LaneT.ofCode4 r.eT LaneT.FI) (Rnd.ofCode r.gRnd) (fun _ _ => true) fun y m => .vredAddExt r.eM y m r.fA r.fB))
  | 1 => noLit r (if r.len == 0 then ck (r.fC == 0 && (LaneT.ofCode3 r.t3).FI) (.ok (let y := LaneT.ofCode3 r.t3; .vredMax r.m2 y r.fA r.fB)) else ck (r.fC == 0 && r.m2 == 0 && r.t3 == 0 && r.eE == 0 && r.eF == 0 && r.imm32 == 0 && r.eG == 0) (ofOpt (LaneT.ofCode4 r.eT LaneT.FI) fun y => .vredMaxExt r.eM y r.fA r.fB))
  | 2 => noLit r (if r.len == 0 then ck (r.fC == 0 && (LaneT.ofCode3 r.t3).FI) (.ok (let y := LaneT.ofCode3 r.t3; .vredMin r.m2 y r.fA r.fB)) else ck (r.fC == 0 && r.m2 == 0 && r.t3 == 0 && r.eE == 0 && r.eF == 0 && r.imm32 == 0 && r.eG == 0) (ofOpt (LaneT.ofCode4 r.eT LaneT.FI) fun y => .vredMinExt r.eM y r.fA r.fB))
  | _ => .error .undefFn

/-- Major 0x29 (R86). -/
noncomputable def decMask (r : Raw) : Except DecodeErr Instr :=
  match r.fD.toNat with
  | 0 => noLit r (ck (r.len == 0 && r.a3ok && r.b3ok && r.c3ok) (.ok (.mand r.a3 r.b3 r.c3)))
  | 1 => noLit r (ck (r.len == 0 && r.a3ok && r.b3ok && r.c3ok) (.ok (.mor r.a3 r.b3 r.c3)))
  | 2 => noLit r (ck (r.len == 0 && r.a3ok && r.b3ok && r.c3ok) (.ok (.mxor r.a3 r.b3 r.c3)))
  | 3 => noLit r (ck (r.len == 0 && r.a3ok && r.b3ok && r.c3ok) (.ok (.mandn r.a3 r.b3 r.c3)))
  | 4 => noLit r (ck (r.len == 0 && r.a3ok && r.b3ok && r.fC == 0) (.ok (.mnot r.a3 r.b3)))
  | 5 => noLit r (ck (r.len == 0 && r.b3ok && r.fC == 0) (.ok (.mpopc r.fA r.b3)))
  | 6 => noLit r (ck (r.len == 0 && r.b3ok && r.fC == 0) (.ok (.mfirst r.fA r.b3)))
  | 7 => noLit r (ck (r.len == 0 && r.a3ok && (r.fC == 0 || r.fC == 1)) (.ok (.mfromx (r.fC == 1) r.a3 r.fB)))
  | 8 => noLit r (ck (r.len == 0 && r.b3ok && (r.fC == 0 || r.fC == 1)) (.ok (.mtox (r.fC == 1) r.fA r.b3)))
  | 9 => noLit r (ck (r.len == 0 && r.a3ok && r.fC == 0) (.ok (.mlanes r.a3 r.fB)))
  | _ => .error .undefFn

/-- Major 0x2C (R86). -/
noncomputable def decShape (r : Raw) : Except DecodeErr Instr :=
  match r.fD.toNat with
  | 0 => noLit r (ck (r.len == 2 && r.eF == 0 && r.eT == 0 && r.eM == 0 && r.imm32 == 0 && r.gRest == 0 && r.eE == 0) (ofOpt (Rnd.ofCode r.gRnd) fun m => .sadd m r.fA r.fB r.fC))
  | 1 => noLit r (ck (r.len == 2 && r.eF == 0 && r.eT == 0 && r.eM == 0 && r.imm32 == 0 && r.gRest == 0 && r.eE == 0) (ofOpt (Rnd.ofCode r.gRnd) fun m => .ssub m r.fA r.fB r.fC))
  | 2 => noLit r (ck (r.len == 2 && r.eF == 0 && r.eT == 0 && r.eM == 0 && r.imm32 == 0 && r.gRest == 0 && r.eE == 0) (ofOpt (Rnd.ofCode r.gRnd) fun m => .smul m r.fA r.fB r.fC))
  | 3 => noLit r (ck (r.len == 2 && r.eF == 0 && r.eT == 0 && r.eM == 0 && r.imm32 == 0 && r.gRest == 0 && r.eE == 0) (ofOpt (Rnd.ofCode r.gRnd) fun m => .sfma m r.fA r.fB r.fC))
  | 4 => noLit r (ck (r.len == 2 && r.eF == 0 && r.eT == 0 && r.eM == 0 && r.imm32 == 0 && r.eG == 0 && r.eE == 0) (.ok (.smin r.fA r.fB r.fC)))
  | 5 => noLit r (ck (r.len == 2 && r.eF == 0 && r.eT == 0 && r.eM == 0 && r.imm32 == 0 && r.eG == 0 && r.eE == 0) (.ok (.smax r.fA r.fB r.fC)))
  | 6 => noLit r (ck (r.len == 2 && r.eF == 0 && r.eT == 0 && r.eM == 0 && r.imm32 == 0 && r.gRest == 0 && r.eE == 0 && r.fC == 0) (ofOpt (Rnd.ofCode r.gRnd) fun m => .scvt m r.fA r.fB))
  | 7 => noLit r (ck (r.len == 2 && r.eF == 0 && r.eT == 0 && r.eM == 0 && r.imm32 == 0 && r.eG == 0 && r.eE == 0 && r.fC == 0) (.ok (.scopy r.fA r.fB)))
  | 8 => noLit r (ck (r.len == 2 && r.eF == 0 && r.eT == 0 && r.eM == 0 && r.imm32 == 0 && r.eG == 0 && r.eE == 0 && r.fC == 0) (.ok (.sexp2 r.fA r.fB)))
  | 9 => noLit r (ck (r.len == 2 && r.eF == 0 && r.eT == 0 && r.eM == 0 && r.imm32 == 0 && r.gRest == 0 && r.eE == 0 && r.fC == 0) (ofOpt (Rnd.ofCode r.gRnd) fun m => .srsum m r.fA r.fB))
  | 10 => noLit r (ck (r.len == 2 && r.eF == 0 && r.eT == 0 && r.eM == 0 && r.imm32 == 0 && r.eG == 0 && r.eE == 0 && r.fC == 0) (.ok (.srmax r.fA r.fB)))
  | 11 => noLit r (ck (r.len == 2 && r.eF == 0 && r.eT == 0 && r.eM == 0 && r.imm32 == 0 && r.eG == 0 && r.eE == 0 && r.fC == 0) (.ok (.sbcast r.fA r.fB)))
  | 12 => noLit r (ck (r.len == 2 && r.eF == 0 && r.eT == 0 && r.eM == 0 && r.imm32 == 0 && r.eG == 0) (.ok (.shpCheck r.fA r.fB r.fC r.eE)))
  | _ => .error .undefFn

/-- Major 0x2E (R86). -/
noncomputable def decEngine (r : Raw) : Except DecodeErr Instr :=
  match r.fD.toNat with
  | 0 => noLit r (ck (r.len == 0 && r.a4ok && r.fC == 0) (.ok (.postMx r.a4 r.fB)))
  | 1 => noLit r (ck (r.len == 0 && r.a4ok && r.fC == 0) (.ok (.postCp r.a4 r.fB)))
  | 2 => noLit r (ck (r.len == 0 && r.b4ok && r.fC == 0) (.ok (.fwait r.fA r.b4)))
  | 3 => noLit r (ck (r.len == 0 && r.b4ok && r.fC == 0) (.ok (.ftest r.fA r.b4)))
  | 6 => noLit r (ck (r.len == 0 && r.b4ok && r.fC == 0) (.ok (.fmovx r.fA r.b4)))
  | 4 => noLit r (ck (r.len == 0 && r.b4ok && r.fA == 0 && r.fC == 0) (.ok (.fcancel r.b4)))
  | 5 => noLit r (ck (r.len == 0 && r.fC == 0) (.ok (.fwaitany r.fA r.fB)))
  | 7 => noLit r (ck (r.len == 0 && r.a4ok && r.fC == 0) (.ok (.xmovf r.a4 r.fB)))
  | 8 => noLit r (ck (r.len == 0 && r.fA == 0 && r.fB == 0 && r.fC == 0) (.ok .fenceCards))
  | _ => .error .undefFn

/-- Major 0x2F (R86). -/
noncomputable def decBarrier (r : Raw) : Except DecodeErr Instr :=
  match r.barFn.toNat with
  | 0 => noLit r (if r.len == 0 then ck (r.fA == 0 && r.fC == 0) (.ok (.barInit r.hi6 r.fB)) else ck (r.fA == 0 && r.fB == 0 && r.fC == 0 && r.x1 == 0) (.ok (.barInitImm r.hi6 r.imm32)))
  | 4 => noLit r (if r.len == 0 then ck (r.fA == 0 && r.fC == 0) (.ok (.barExpect r.hi6 r.fB)) else ck (r.fA == 0 && r.fB == 0 && r.fC == 0 && r.x1 == 0) (.ok (.barExpectImm r.hi6 r.imm32)))
  | 1 => noLit r (ck (r.len == 0 && r.fA == 0 && r.fB == 0 && r.fC == 0) (.ok (.barArrive r.hi6)))
  | 2 => noLit r (ck (r.len == 0 && r.fA == 0 && r.fB == 0 && r.fC == 0) (.ok (.barDrop r.hi6)))
  | 3 => noLit r (ck (r.len == 0 && r.fA == 0 && r.fB == 0 && r.fC == 0) (.ok (.barWait r.hi6)))
  | 5 => noLit r (ck (r.len == 0 && r.fB == 0 && r.fC == 0) (.ok (.barTest r.hi6 r.fA)))
  | 6 => noLit r (ck (r.len == 0 && r.fA == 0 && r.fC == 0) (.ok (.barLink r.hi6 r.fB)))
  | _ => .error .undefFn

/-- Major 0x30 (R86). -/
noncomputable def decPod (r : Raw) : Except DecodeErr Instr :=
  match r.fD.toNat with
  | 0 => noLit r (ck (r.len == 2 && r.eE == 0 && r.eF == 0 && r.eT == 0 && r.eM == 0 && r.eG == 0 && r.podRest == 0 && r.fC == 0 && r.a4ok) (.ok (.pcap r.a4 r.fB r.xmask r.vmask)))
  | 1 => noLit r (ck (r.len == 2 && r.eF == 0 && r.eT == 0 && r.eM == 0 && r.gTop == 0 && r.podRest == 0 && r.fC == 0 && r.a4ok) (.ok (.pcapr r.g0 r.a4 r.fB r.xmask r.vmask r.eE)))
  | 2 => noLit r (ck (r.len == 0 && r.b4ok && r.fA == 0 && (r.fC == 0 || r.fC == 1)) (.ok (.pcall (r.fC == 1) r.b4)))
  | 3 => noLit r (ck (r.len == 0 && r.b4ok && (r.fC == 0 || r.fC == 1)) (.ok (.pspawn (r.fC == 1) r.fA r.b4)))
  | 4 => noLit r (ck (r.len == 0 && r.b4ok) (.ok (.psend r.fA r.b4 r.fC)))
  | 5 => noLit r (ck (r.len == 0 && r.a4ok && r.b4ok && r.fC == 0) (.ok (.pdup r.a4 r.b4)))
  | 6 => noLit r (ck (r.len == 0 && r.b4ok && r.fA == 0 && r.fC == 0) (.ok (.prel r.b4)))
  | 7 => noLit r (ck (r.len == 0 && r.b4ok && r.fC == 0) (.ok (.pget r.fA r.b4)))
  | 8 => noLit r (ck (r.len == 0 && r.b4ok && r.fC == 0) (.ok (.pexport r.fA r.b4)))
  | 9 => noLit r (ck (r.len == 0 && r.a4ok && r.fC == 0) (.ok (.pimport r.a4 r.fB)))
  | _ => .error .undefFn

/-- Major 0x31 (R86). -/
noncomputable def decSeg (r : Raw) : Except DecodeErr Instr :=
  match r.fD.toNat with
  | 0 => noLit r (ck (r.len == 2 && r.eF == 0 && r.eT == 0 && r.eM == 0 && r.gAbove == 0 && r.cntRest == 0 && (r.gCls == 3 || r.eE == 0)) (.ok (.segMake r.gCls r.cnt11 r.fA r.fB r.fC r.eE)))
  | 1 => noLit r (ck (r.len == 0 && c4ok r.fC) (.ok (.segAttach (r.fC.setWidth 2) r.fA r.fB)))
  | 2 => noLit r (ck (r.len == 0 && r.fA == 0 && r.fC == 0) (.ok (.segDetach r.fB)))
  | 3 => noLit r (ck (r.len == 0 && r.fC == 0) (.ok (.segPublish r.fA r.fB)))
  | 4 => noLit r (ck (r.len == 0 && r.fC == 0) (.ok (.segEvict r.fA r.fB)))
  | 5 => noLit r (ck (r.len == 0 && r.fC == 0) (.ok (.segDrop r.fA r.fB)))
  | 6 => noLit r (ck (r.len == 0 && r.fC == 0) (.ok (.segQuery r.fA r.fB)))
  | _ => .error .undefFn

/-- Major 0x32 (R86). -/
noncomputable def decTask (r : Raw) : Except DecodeErr Instr :=
  match r.fD.toNat with
  | 0 => noLit r (ck (r.len == 0 && r.fA == 0 && r.fB == 0 && r.fC == 0) (.ok .ibxTake))
  | 1 => noLit r (ck (r.len == 0 && r.fA == 0 && (r.fC == 0 || r.fC == 1)) (.ok (.taskEnd (r.fC == 1) r.fB)))
  | 2 => if r.len == 0 then ck (r.fC == 0) (.ok (.taskSpawn r.fA r.fB)) else if r.len == 2 then ck (r.fC == 0 && r.eE == 0 && r.eF == 0 && r.eT == 0 && r.eM == 0 && r.eG == 0) (.ok (.taskSpawnExt r.fA r.fB r.imm32)) else if r.len == 3 then ck (r.fC == 0 && r.eE == 0 && r.eF == 0 && r.eT == 0 && r.eM == 0 && r.eG == 0 && r.imm32 == 0) (.ok (.taskSpawnLit r.fA r.fB r.lit)) else .error .reservedField
  | 3 => noLit r (ck (r.len == 2 && r.eF == 0 && r.eT == 0 && r.eM == 0 && r.eG == 0 && r.imm32 == 0) (.ok (.rngOpen r.fA r.fB r.fC r.eE)))
  | 4 => noLit r (ck (r.len == 0 && r.fC == 0) (.ok (.rngTake r.fA r.fB)))
  | 5 => noLit r (ck (r.len == 0 && r.fA == 0 && r.fC == 0) (.ok (.rngClose r.fB)))
  | 6 => noLit r (ck (r.len == 0 && r.fA == 0 && r.fB == 0 && r.fC == 0) (.ok .gangLead))
  | 7 => noLit r (ck (r.len == 0 && r.fA == 0 && r.fB == 0 && r.fC == 0) (.ok .gangFollow))
  | 8 => noLit r (ck (r.len == 0 && r.fA == 0 && r.fB == 0 && (r.fC == 0 || r.fC == 1)) (.ok (.gangJoin (r.fC == 1))))
  | 9 => noLit r (ck (r.len == 0 && r.fA == 0 && r.fB == 0 && r.fC == 0) (.ok .gangLeave))
  | _ => .error .undefFn

/-- Major 0x33 (R86). -/
noncomputable def decOwn (r : Raw) : Except DecodeErr Instr :=
  match r.fD.toNat with
  | 0 => noLit r (if r.len == 0 then ck (r.fA == 0) (.ok (.give r.fB r.fC)) else ck (r.fA == 0 && r.eF == 0 && r.eT == 0 && r.eM == 0 && r.gTop == 0 && r.imm32 == 0) (.ok (.giveExt r.g0 r.fB r.fC r.eE)))
  | 1 => noLit r (ck (r.len == 0 && r.fA == 0 && r.fC == 0) (.ok (.accept r.fB)))
  | 2 => noLit r (ck (r.len == 0 && r.fA == 0 && r.fC == 0) (.ok (.decline r.fB)))
  | 3 => if r.len == 2 then ck (r.eF == 0 && r.eT == 0 && r.eM == 0 && r.gAbove == 0) (.ok (.lend r.g1 r.g0 r.fA r.fB r.fC r.eE r.imm32)) else if r.len == 3 then ck (r.eF == 0 && r.eT == 0 && r.eM == 0 && r.gAbove == 0 && r.imm32 == 0 && small32 r.lit) (.ok (.lendLit r.g1 r.g0 r.fA r.fB r.fC r.eE (r.lit.setWidth 32))) else .error .reservedField
  | 4 => noLit r (ck (r.len == 0 && r.fC == 0) (.ok (.recall r.fA r.fB)))
  | 5 => noLit r (ck (r.len == 0 && r.fC == 0) (.ok (.reclaim r.fA r.fB)))
  | 7 => noLit r (ck (r.len == 0 && r.fC == 0) (.ok (.mint r.fA r.fB)))
  | 6 => noLit r (ck (r.len == 0 && c4ok r.fC) (.ok (.ownQ (r.fC.setWidth 2) r.fA r.fB)))
  | 8 => noLit r (ck (r.len == 0 && r.fA == 0 && r.fB == 0 && r.fC == 0) (.ok .retire))
  | 9 => noLit r (ck (r.len == 0 && r.b4ok && r.fA == 0 && r.c3ok && hook5 r.c3) (.ok (.ownHook r.c3 r.b4)))
  | 10 => noLit r (ck (r.len == 2 && r.eE == 0 && r.eF == 0 && r.eT == 0 && r.eM == 0 && r.eG == 0 && r.krRest == 0 && r.fC == 0 && ctx10 r.krCtx) (.ok (.kread r.fA r.fB r.krIdx r.krCtx)))
  | 11 => noLit r (ck (r.len == 2 && r.eE == 0 && r.eF == 0 && r.eT == 0 && r.eM == 0 && r.eG == 0 && r.krRest == 0 && r.fA == 0 && ctx10 r.krCtx) (.ok (.kwrite r.fB r.fC r.krIdx r.krCtx)))
  | _ => .error .undefFn

/-- Steps 1 to 3 and 5 to 7 of R84. Step 4 and the firmware cores of R85 depend on the core and
stand with the fetch unit. -/
noncomputable def decodeRaw (r : Raw) : Except DecodeErr Instr :=
  if r.x0 = 0 then .error .illZero
  else if r.x0 = 0xFFFFFFFF then .error .illOnes
  else match r.major.toNat with
  | 1 => decIntr r
  | 2 => decAddi r
  | 3 => decAndi r
  | 4 => decOri r
  | 5 => decXori r
  | 6 => decSlti r
  | 7 => decSltiu r
  | 8 => decShifti r
  | 9 => decLui r
  | 10 => decPcadd r
  | 11 => decLi r
  | 12 => decLea r
  | 13 => decBits r
  | 14 => decFps r
  | 16 => decLd r
  | 17 => decLdP r
  | 18 => decSt r
  | 19 => decStP r
  | 20 => decIndexed r
  | 21 => decAmo r
  | 22 => decMemctl r
  | 24 => decBc r
  | 25 => decB r
  | 26 => decBl r
  | 27 => decJump r
  | 28 => decLoop r
  | 30 => decContext r
  | 31 => decSystem r
  | 32 => decVload r
  | 33 => decVstore r
  | 34 => decValuA r
  | 35 => decValuB r
  | 36 => decVfma r
  | 37 => decVspec r
  | 38 => decVcvt r
  | 39 => decVperm r
  | 40 => decVred r
  | 41 => decMask r
  | 44 => decShape r
  | 46 => decEngine r
  | 47 => decBarrier r
  | 48 => decPod r
  | 49 => decSeg r
  | 50 => decTask r
  | 51 => decOwn r
  | _ => .error .undefMajor

/-- The words of an instruction in memory order, and how many bytes they take (R79). -/
inductive Words where
  | short (w0 : BitVec 32)
  | shortLit (w0 : BitVec 32) (l : BitVec 64)
  | ext (w0 w1 w2 : BitVec 32)
  | extLit (w0 w1 w2 : BitVec 32) (l : BitVec 64)
deriving DecidableEq, Repr

/-- Bytes of an instruction with this LEN (R79). -/
def lenBytes (len : BitVec 2) : Nat :=
  match len.toNat with
  | 0 => 4 | 1 => 12 | 2 => 12 | _ => 20

/-- The words as the decoder reads them. -/
def Words.raw : Words → Raw
  | .short w0 => ⟨w0, 0, 0, 0⟩
  | .shortLit w0 l => ⟨w0, 0, 0, l⟩
  | .ext w0 w1 w2 => ⟨w0, w1, w2, 0⟩
  | .extLit w0 w1 w2 l => ⟨w0, w1, w2, l⟩

/-- A little-endian number of the first `n` bytes (R4); absent bytes count as 0. -/
def leNat : Nat → List (BitVec 8) → Nat
  | 0, _ => 0
  | _, [] => 0
  | n + 1, b :: bs => b.toNat + 256 * leNat n bs

/-- The `n` bytes of a number, little-endian (R4). -/
def leBytes : Nat → Nat → List (BitVec 8)
  | 0, _ => []
  | n + 1, v => BitVec.ofNat 8 v :: leBytes n (v / 256)

/-- The words in a list of bytes (R79): word 0 sets the length. -/
def rawOf (bs : List (BitVec 8)) : Raw :=
  let x0 := BitVec.ofNat 32 (leNat 4 bs)
  match (x0.extractLsb' 0 2).toNat with
  | 0 => ⟨x0, 0, 0, 0⟩
  | 1 => ⟨x0, 0, 0, BitVec.ofNat 64 (leNat 8 (bs.drop 4))⟩
  | 2 => ⟨x0, BitVec.ofNat 32 (leNat 4 (bs.drop 4)), BitVec.ofNat 32 (leNat 4 (bs.drop 8)), 0⟩
  | _ => ⟨x0, BitVec.ofNat 32 (leNat 4 (bs.drop 4)), BitVec.ofNat 32 (leNat 4 (bs.drop 8)),
          BitVec.ofNat 64 (leNat 8 (bs.drop 12))⟩

/-- The instruction at the start of a list of bytes, and the bytes after it. -/
noncomputable def decodeBytes (bs : List (BitVec 8)) : Except DecodeErr (Instr × List (BitVec 8)) :=
  if bs.length < 4 then .error .truncated
  else
    let r := rawOf bs
    if r.x0 = 0 then .error .illZero
    else if r.x0 = 0xFFFFFFFF then .error .illOnes
    else if bs.length < lenBytes r.len then .error .truncated
    else match decodeRaw r with
      | .ok i => .ok (i, bs.drop (lenBytes r.len))
      | .error e => .error e

/-- The instruction of a row of the opcode table whose bits are `w`: the low `nbits` bits in memory
order, and zeros above them. -/
noncomputable def decodeTableWord (nbits w : Nat) : Option Instr :=
  match decodeBytes (leBytes 20 (w % 2 ^ nbits)) with
  | .ok (i, _) => some i
  | .error _ => none

/-! The encoder, from the same tables. -/

/-- Format R (R80). -/
def packR (fn : BitVec 9) (c b a : BitVec 5) (maj : BitVec 6) (len : BitVec 2) : BitVec 32 :=
  fn ++ c ++ b ++ a ++ maj ++ len
/-- Format I (R80). -/
def packI (i : BitVec 14) (b a : BitVec 5) (maj : BitVec 6) (len : BitVec 2) : BitVec 32 :=
  i ++ b ++ a ++ maj ++ len
/-- Format S and format Bc (R80). -/
def packS (o : BitVec 11) (w : BitVec 3) (b a : BitVec 5) (maj : BitVec 6) (len : BitVec 2) : BitVec 32 :=
  o ++ w ++ b ++ a ++ maj ++ len
/-- SHIFTI (R109). -/
def packSh (kind : BitVec 2) (h : BitVec 6) (b a : BitVec 5) (maj : BitVec 6) (len : BitVec 2) : BitVec 32 :=
  (0 : BitVec 6) ++ kind ++ h ++ b ++ a ++ maj ++ len
/-- Format U (R80). -/
def packU (i : BitVec 19) (a : BitVec 5) (maj : BitVec 6) (len : BitVec 2) : BitVec 32 :=
  i ++ a ++ maj ++ len
/-- Format J (R80). -/
def packJ (o : BitVec 24) (maj : BitVec 6) (len : BitVec 2) : BitVec 32 := o ++ maj ++ len
/-- Format L (R80). -/
def packL (o : BitVec 18) (rot : Bool) (a : BitVec 5) (maj : BitVec 6) (len : BitVec 2) : BitVec 32 :=
  o ++ BitVec.ofBool rot ++ a ++ maj ++ len
/-- Format V (R80). -/
def packV (m : BitVec 2) (t : BitVec 3) (fn : BitVec 4) (c b a : BitVec 5) (maj : BitVec 6) (len : BitVec 2) :
    BitVec 32 :=
  m ++ t ++ fn ++ c ++ b ++ a ++ maj ++ len
/-- Atomics (R157). -/
def packA (p : BitVec 3) (w : Bool) (op : BitVec 4) (c b a : BitVec 5) (maj : BitVec 6) (len : BitVec 2) :
    BitVec 32 :=
  (0 : BitVec 1) ++ p ++ BitVec.ofBool w ++ op ++ c ++ b ++ a ++ maj ++ len
/-- Barriers (R167). -/
def packB (x : BitVec 6) (fn : BitVec 3) (c b a : BitVec 5) (maj : BitVec 6) (len : BitVec 2) : BitVec 32 :=
  x ++ fn ++ c ++ b ++ a ++ maj ++ len
/-- rdsr and wrsr (R126). -/
def packSr (fn : BitVec 9) (i : BitVec 10) (a : BitVec 5) (maj : BitVec 6) (len : BitVec 2) : BitVec 32 :=
  fn ++ i ++ a ++ maj ++ len
/-- Word 1 of an extended form (R81). -/
def packE (g : BitVec 15) (m : BitVec 3) (t : BitVec 4) (f e : BitVec 5) : BitVec 32 :=
  g ++ m ++ t ++ f ++ e
/-- imm32 of a bit field (R112). -/
def packBf (w : BitVec 7) (p : BitVec 6) : BitVec 32 := (0 : BitVec 17) ++ w ++ (0 : BitVec 2) ++ p
/-- imm32 of a capture (R218). -/
def packPod (vm : BitVec 2) (xm : BitVec 8) : BitVec 32 := (0 : BitVec 22) ++ vm ++ xm
/-- FLAGS15 of seg.make (R238). -/
def packCls (cls : BitVec 2) : BitVec 15 := (0 : BitVec 13) ++ cls
/-- FLAGS15 of lend (R282). -/
def packLend (rc clr : Bool) : BitVec 15 := (0 : BitVec 13) ++ BitVec.ofBool rc ++ BitVec.ofBool clr
/-- imm32 of kread and kwrite (R293). -/
def packKr (x : BitVec 4) (i : BitVec 10) : BitVec 32 := (0 : BitVec 18) ++ x ++ i
/-- FLAGS15 of vcvt (R145). -/
def packCvt (part : BitVec 3) (r : BitVec 3) : BitVec 15 := (0 : BitVec 9) ++ part ++ r

/-- The words of an instruction; none for an event, which no word encodes. -/
def encode : Instr → Option Words
  | .deviceReset => none
  | .selfTestEnd _ => none
  | .recoveryImageCheck => none
  | .mailboxDoorbell _ _ => none
  | .launchDoorbell _ _ _ => none
  | .completionDoorbell _ _ _ => none
  | .tailwWrite _ _ _ => none
  | .queueSlotEnableWrite _ _ _ => none
  | .launchFetch _ => none
  | .spawnAdmit _ => none
  | .taskExpand _ => none
  | .nodeRetire _ => none
  | .deadlineDiscard _ => none
  | .taskDispatch _ => none
  | .gangDrain _ => none
  | .treePropagate _ _ => none
  | .completionRecordWrite _ => none
  | .msixHoldoffExpiry _ => none
  | .msixUnmask _ _ => none
  | .deadlineAbort _ => none
  | .podMessageDeliver _ => none
  | .applyQueueStart _ => none
  | .noticeDeliver => none
  | .cardStart _ _ _ => none
  | .matrixUnitStep _ => none
  | .copyUnitWrite _ _ => none
  | .cardComplete _ _ _ => none
  | .writeBufferDrain _ _ => none
  | .engineBankForce _ _ _ => none
  | .ptsAdvance => none
  | .globalLoadReturn _ _ => none
  | .globalStoreReturn _ _ => none
  | .linkedBarrierEvent => none
  | .powerEstimate => none
  | .clockGate _ => none
  | .bucketCharge _ _ => none
  | .bucketRefill => none
  | .counterSnapshot => none
  | .counterWrap _ _ _ => none
  | .loanTermExpiry _ _ => none
  | .graceDeadlineExpiry _ _ => none
  | .termNear _ _ => none
  | .oidIdleRetire _ => none
  | .segTermEnd _ _ => none
  | .stopTick _ => none
  | .quiesceEnd _ => none
  | .flushToken _ => none
  | .saveBufferDrain _ => none
  | .huskSaveStep _ => none
  | .huskValid _ => none
  | .acceptStopEnd _ => none
  | .reclaimStopEnd _ => none
  | .powerEmergency => none
  | .functionLevelReset _ => none
  | .kstopWrite _ _ _ => none
  | .kresumeWrite _ _ _ => none
  | .eventSelectWrite _ _ _ _ => none
  | .counterWrite _ _ _ _ => none
  | .tflagsWrite _ _ _ => none
  | .tgenWrite _ _ => none
  | .pasidWrite _ _ _ => none
  | .toffWrite _ _ _ => none
  | .atsResponse _ => none
  | .pasidRetireEnd _ => none
  | .loadRequest _ _ _ => none
  | .loadComplete _ => none
  | .attestNonceWrite _ _ => none
  | .attestReportDone => none
  | .controlSpaceWrite _ _ _ => none
  | .hostWindowRead _ _ _ => none
  | .hostWindowWrite _ _ _ => none
  | .hostWindowAtomic _ _ => none
  | .peerReadRequest _ _ _ => none
  | .peerWriteRequest _ _ _ => none
  | .peerAtomicRequest _ _ _ _ _ _ => none
  | .peerTimeout _ _ => none
  | .add d s t => some (.short (packR 0 t s d 1 0))
  | .sub d s t => some (.short (packR 1 t s d 1 0))
  | .andX d s t => some (.short (packR 2 t s d 1 0))
  | .orX d s t => some (.short (packR 3 t s d 1 0))
  | .xorX d s t => some (.short (packR 4 t s d 1 0))
  | .andn d s t => some (.short (packR 5 t s d 1 0))
  | .orn d s t => some (.short (packR 6 t s d 1 0))
  | .brev d s => some (.short (packR 7 0 s d 1 0))
  | .sll d s t => some (.short (packR 8 t s d 1 0))
  | .srl d s t => some (.short (packR 9 t s d 1 0))
  | .sra d s t => some (.short (packR 10 t s d 1 0))
  | .rol d s t => some (.short (packR 11 t s d 1 0))
  | .ror d s t => some (.short (packR 12 t s d 1 0))
  | .slt d s t => some (.short (packR 13 t s d 1 0))
  | .sltu d s t => some (.short (packR 14 t s d 1 0))
  | .minX d s t => some (.short (packR 15 t s d 1 0))
  | .maxX d s t => some (.short (packR 16 t s d 1 0))
  | .minu d s t => some (.short (packR 17 t s d 1 0))
  | .maxu d s t => some (.short (packR 18 t s d 1 0))
  | .mul d s t => some (.short (packR 19 t s d 1 0))
  | .mulh d s t => some (.short (packR 20 t s d 1 0))
  | .mulhu d s t => some (.short (packR 21 t s d 1 0))
  | .div d s t => some (.short (packR 22 t s d 1 0))
  | .divu d s t => some (.short (packR 23 t s d 1 0))
  | .rem d s t => some (.short (packR 24 t s d 1 0))
  | .remu d s t => some (.short (packR 25 t s d 1 0))
  | .clz d s => some (.short (packR 26 0 s d 1 0))
  | .ctz d s => some (.short (packR 27 0 s d 1 0))
  | .popc d s => some (.short (packR 28 0 s d 1 0))
  | .bswap d s => some (.short (packR 29 0 s d 1 0))
  | .sext d s w => some (.short (packR 30 w.code s d 1 0))
  | .zext d s w => some (.short (packR 31 w.code s d 1 0))
  | .addi d s i => some (.short (packI i s d 2 0))
  | .addiLit d s l => some (.shortLit (packI 0 s d 2 1) l)
  | .andi d s i => some (.short (packI i s d 3 0))
  | .andiLit d s l => some (.shortLit (packI 0 s d 3 1) l)
  | .ori d s i => some (.short (packI i s d 4 0))
  | .oriLit d s l => some (.shortLit (packI 0 s d 4 1) l)
  | .xori d s i => some (.short (packI i s d 5 0))
  | .xoriLit d s l => some (.shortLit (packI 0 s d 5 1) l)
  | .slti d s i => some (.short (packI i s d 6 0))
  | .sltiLit d s l => some (.shortLit (packI 0 s d 6 1) l)
  | .sltiu d s i => some (.short (packI i s d 7 0))
  | .sltiuLit d s l => some (.shortLit (packI 0 s d 7 1) l)
  | .slli d s h => some (.short (packSh 0 h s d 8 0))
  | .srli d s h => some (.short (packSh 1 h s d 8 0))
  | .srai d s h => some (.short (packSh 2 h s d 8 0))
  | .rori d s h => some (.short (packSh 3 h s d 8 0))
  | .lui d i => some (.short (packU i d 9 0))
  | .pcadd d i => some (.short (packU i d 10 0))
  | .pcaddLit d l => some (.shortLit (packU 0 d 10 1) l)
  | .li d l => some (.shortLit (packU 0 d 11 1) l)
  | .lea d b c sh i => some (.ext (packR 0 c b d 12 2) (packE 0 0 0 sh 0) i)
  | .leaLit d b c sh l => some (.extLit (packR 0 c b d 12 3) (packE 0 0 0 sh 0) 0 l)
  | .bfx d s p w => some (.ext (packR 0 0 s d 13 2) (packE 0 0 0 0 0) (packBf w p))
  | .bfxu d s p w => some (.ext (packR 1 0 s d 13 2) (packE 0 0 0 0 0) (packBf w p))
  | .bfi d s p w => some (.ext (packR 2 0 s d 13 2) (packE 0 0 0 0 0) (packBf w p))
  | .csel d s t e => some (.ext (packR 3 t s d 13 2) (packE 0 0 0 0 e) (0))
  | .mad d s t e => some (.ext (packR 4 t s d 13 2) (packE 0 0 0 0 e) (0))
  | .wfield d s t => some (.ext (packR 5 t s d 13 2) (packE 0 0 0 0 0) (0))
  | .fadd d s t => some (.short (packR 0 t s d 14 0))
  | .faddExt d s t r => some (.ext (packR 0 t s d 14 2) (packE (r.code.setWidth 15) 0 0 0 0) 0)
  | .fsub d s t => some (.short (packR 1 t s d 14 0))
  | .fsubExt d s t r => some (.ext (packR 1 t s d 14 2) (packE (r.code.setWidth 15) 0 0 0 0) 0)
  | .fmul d s t => some (.short (packR 2 t s d 14 0))
  | .fmulExt d s t r => some (.ext (packR 2 t s d 14 2) (packE (r.code.setWidth 15) 0 0 0 0) 0)
  | .fdiv d s t => some (.short (packR 3 t s d 14 0))
  | .fdivExt d s t r => some (.ext (packR 3 t s d 14 2) (packE (r.code.setWidth 15) 0 0 0 0) 0)
  | .fsqrt d s => some (.short (packR 4 0 s d 14 0))
  | .fsqrtExt d s r => some (.ext (packR 4 0 s d 14 2) (packE (r.code.setWidth 15) 0 0 0 0) 0)
  | .fmin d s t => some (.short (packR 5 t s d 14 0))
  | .fmax d s t => some (.short (packR 6 t s d 14 0))
  | .fmadd d s t e r => some (.ext (packR 7 t s d 14 2) (packE (r.code.setWidth 15) 0 0 0 e) (0))
  | .feq d s t => some (.short (packR 8 t s d 14 0))
  | .flt d s t => some (.short (packR 9 t s d 14 0))
  | .fle d s t => some (.short (packR 10 t s d 14 0))
  | .fclass d s => some (.short (packR 11 0 s d 14 0))
  | .fcvti d s r => some (.short (packR 12 (r.code.setWidth 5) s d 14 0))
  | .fcvtf d s r => some (.short (packR 13 (r.code.setWidth 5) s d 14 0))
  | .ld w o b d => some (.short (packS o w.width b d 16 0))
  | .ldLit w l b d => some (.shortLit (packS 0 w.width b d 16 1) l)
  | .ldP w o b d => some (.short (packS o w.width b d 17 0))
  | .st w o b v => some (.short (packS o (w.setWidth 3) b v 18 0))
  | .stLit w l b v => some (.shortLit (packS 0 (w.setWidth 3) b v 18 1) l)
  | .stP w o b v => some (.short (packS o (w.setWidth 3) b v 19 0))
  | .ldx w sh i d b c => some (.ext (packR 0 c b d 20 2) (packE 0 0 (w.type4) (sh.setWidth 5) 0) i)
  | .ldxLit w sh l d b c => some (.extLit (packR 0 c b d 20 3) (packE 0 0 (w.type4) (sh.setWidth 5) 0) 0 l)
  | .stx w sh i v b c => some (.ext (packR 1 c b v 20 2) (packE 0 0 (stCode w) (sh.setWidth 5) 0) i)
  | .stxLit w sh l v b c => some (.extLit (packR 1 c b v 20 3) (packE 0 0 (stCode w) (sh.setWidth 5) 0) 0 l)
  | .amoAdd p w d a v => some (.short (packA p.code w 0 v a d 21 0))
  | .amoAnd p w d a v => some (.short (packA p.code w 1 v a d 21 0))
  | .amoOr p w d a v => some (.short (packA p.code w 2 v a d 21 0))
  | .amoXor p w d a v => some (.short (packA p.code w 3 v a d 21 0))
  | .amoMin p w d a v => some (.short (packA p.code w 4 v a d 21 0))
  | .amoMax p w d a v => some (.short (packA p.code w 5 v a d 21 0))
  | .amoMinu p w d a v => some (.short (packA p.code w 6 v a d 21 0))
  | .amoMaxu p w d a v => some (.short (packA p.code w 7 v a d 21 0))
  | .amoSwap p w d a v => some (.short (packA p.code w 8 v a d 21 0))
  | .amoFadd p d a v => some (.short (packA p.code false 9 v a d 21 0))
  | .amoCas p w d a v e => some (.ext (packA p.code w 10 v a d 21 2) (packE 0 0 0 0 e) 0)
  | .fenceImem => some (.short (packR 0 0 0 0 22 0))
  | .fenceExt => some (.short (packR 1 0 0 0 22 0))
  | .discard s t => some (.short (packR 2 t s 0 22 0))
  | .dpref l s => some (.short (packR 3 (bit5 l) s 0 22 0))
  | .ipref s => some (.short (packR 4 0 s 0 22 0))
  | .beq o s t => some (.short (packS o 0 t s 24 0))
  | .beqExt o s t => some (.ext (packS 0 0 t s 24 2) (packE 0 0 0 0 0) o)
  | .beqLit l s t => some (.extLit (packS 0 0 t s 24 3) (packE 0 0 0 0 0) 0 l)
  | .bne o s t => some (.short (packS o 1 t s 24 0))
  | .bneExt o s t => some (.ext (packS 0 1 t s 24 2) (packE 0 0 0 0 0) o)
  | .bneLit l s t => some (.extLit (packS 0 1 t s 24 3) (packE 0 0 0 0 0) 0 l)
  | .blt o s t => some (.short (packS o 2 t s 24 0))
  | .bltExt o s t => some (.ext (packS 0 2 t s 24 2) (packE 0 0 0 0 0) o)
  | .bltLit l s t => some (.extLit (packS 0 2 t s 24 3) (packE 0 0 0 0 0) 0 l)
  | .bge o s t => some (.short (packS o 3 t s 24 0))
  | .bgeExt o s t => some (.ext (packS 0 3 t s 24 2) (packE 0 0 0 0 0) o)
  | .bgeLit l s t => some (.extLit (packS 0 3 t s 24 3) (packE 0 0 0 0 0) 0 l)
  | .bltu o s t => some (.short (packS o 4 t s 24 0))
  | .bltuExt o s t => some (.ext (packS 0 4 t s 24 2) (packE 0 0 0 0 0) o)
  | .bltuLit l s t => some (.extLit (packS 0 4 t s 24 3) (packE 0 0 0 0 0) 0 l)
  | .bgeu o s t => some (.short (packS o 5 t s 24 0))
  | .bgeuExt o s t => some (.ext (packS 0 5 t s 24 2) (packE 0 0 0 0 0) o)
  | .bgeuLit l s t => some (.extLit (packS 0 5 t s 24 3) (packE 0 0 0 0 0) 0 l)
  | .b o => some (.short (packJ o 25 0))
  | .bLit l => some (.shortLit (packJ 0 25 1) l)
  | .bl o => some (.short (packJ o 26 0))
  | .blLit l => some (.shortLit (packJ 0 26 1) l)
  | .br s => some (.short (packR 0 0 s 0 27 0))
  | .blr d s => some (.short (packR 1 0 s d 27 0))
  | .ret => some (.short (packR 2 0 0 0 27 0))
  | .loop c r o => some (.short (packL o r c 28 0))
  | .start d s t => some (.short (packR 0 t s d 30 0))
  | .join d s => some (.short (packR 1 0 s d 30 0))
  | .endc s => some (.short (packR 2 0 s 0 30 0))
  | .yield => some (.short (packR 3 0 0 0 30 0))
  | .trap n s => some (.short (packR 0 (n.setWidth 5) s 0 31 0))
  | .brk => some (.short (packR 1 0 0 0 31 0))
  | .tret => some (.short (packR 2 0 0 0 31 0))
  | .rdsr d i => some (.short (packSr 3 i d 31 0))
  | .wrsr i s => some (.short (packSr 4 i s 31 0))
  | .rdtime d => some (.short (packR 5 0 0 d 31 0))
  | .vld t k i a b => some (.ext (packR 0 0 b a 32 2) (packE 0 k t.code 0 0) i)
  | .vldLit t k l a b => some (.extLit (packR 0 0 b a 32 3) (packE 0 k t.code 0 0) 0 l)
  | .vldP t k i a b => some (.ext (packR 1 0 b a 32 2) (packE 0 k t.code 0 0) i)
  | .vldPLit t k l a b => some (.extLit (packR 1 0 b a 32 3) (packE 0 k t.code 0 0) 0 l)
  | .vlds t k i a b c => some (.ext (packR 2 c b a 32 2) (packE 0 k t.code 0 0) i)
  | .vldsLit t k l a b c => some (.extLit (packR 2 c b a 32 3) (packE 0 k t.code 0 0) 0 l)
  | .vldx t k sh i a b c => some (.ext (packR 3 c b a 32 2) (packE 0 k t.code (sh.setWidth 5) 0) i)
  | .vldxLit t k sh l a b c => some (.extLit (packR 3 c b a 32 3) (packE 0 k t.code (sh.setWidth 5) 0) 0 l)
  | .vldb t k i a b => some (.ext (packR 4 0 b a 32 2) (packE 0 k t.code 0 0) i)
  | .vldbLit t k l a b => some (.extLit (packR 4 0 b a 32 3) (packE 0 k t.code 0 0) 0 l)
  | .vst t k i a b => some (.ext (packR 0 0 b a 33 2) (packE 0 k t.code 0 0) i)
  | .vstLit t k l a b => some (.extLit (packR 0 0 b a 33 3) (packE 0 k t.code 0 0) 0 l)
  | .vstP t k i a b => some (.ext (packR 1 0 b a 33 2) (packE 0 k t.code 0 0) i)
  | .vstPLit t k l a b => some (.extLit (packR 1 0 b a 33 3) (packE 0 k t.code 0 0) 0 l)
  | .vsts t k i a b c => some (.ext (packR 2 c b a 33 2) (packE 0 k t.code 0 0) i)
  | .vstsLit t k l a b c => some (.extLit (packR 2 c b a 33 3) (packE 0 k t.code 0 0) 0 l)
  | .vstx t k sh i a b c => some (.ext (packR 3 c b a 33 2) (packE 0 k t.code (sh.setWidth 5) 0) i)
  | .vstxLit t k sh l a b c => some (.extLit (packR 3 c b a 33 3) (packE 0 k t.code (sh.setWidth 5) 0) 0 l)
  | .vadd k y a b c => some (.short (packV k y.code3 0 c b a 34 0))
  | .vaddExt k y r a b c => some (.ext (packV 0 0 0 c b a 34 2) (packE (r.code.setWidth 15) k y.code4 0 0) 0)
  | .vsub k y a b c => some (.short (packV k y.code3 1 c b a 34 0))
  | .vsubExt k y r a b c => some (.ext (packV 0 0 1 c b a 34 2) (packE (r.code.setWidth 15) k y.code4 0 0) 0)
  | .vmul k y a b c => some (.short (packV k y.code3 2 c b a 34 0))
  | .vmulExt k y r a b c => some (.ext (packV 0 0 2 c b a 34 2) (packE (r.code.setWidth 15) k y.code4 0 0) 0)
  | .vmin k y a b c => some (.short (packV k y.code3 3 c b a 34 0))
  | .vminExt k y a b c => some (.ext (packV 0 0 3 c b a 34 2) (packE 0 k y.code4 0 0) 0)
  | .vmax k y a b c => some (.short (packV k y.code3 4 c b a 34 0))
  | .vmaxExt k y a b c => some (.ext (packV 0 0 4 c b a 34 2) (packE 0 k y.code4 0 0) 0)
  | .vand k y a b c => some (.short (packV k y.code3 5 c b a 34 0))
  | .vandExt k y a b c => some (.ext (packV 0 0 5 c b a 34 2) (packE 0 k y.code4 0 0) 0)
  | .vor k y a b c => some (.short (packV k y.code3 6 c b a 34 0))
  | .vorExt k y a b c => some (.ext (packV 0 0 6 c b a 34 2) (packE 0 k y.code4 0 0) 0)
  | .vxor k y a b c => some (.short (packV k y.code3 7 c b a 34 0))
  | .vxorExt k y a b c => some (.ext (packV 0 0 7 c b a 34 2) (packE 0 k y.code4 0 0) 0)
  | .vandn k y a b c => some (.short (packV k y.code3 8 c b a 34 0))
  | .vandnExt k y a b c => some (.ext (packV 0 0 8 c b a 34 2) (packE 0 k y.code4 0 0) 0)
  | .vshl k y a b c => some (.short (packV k y.code3 9 c b a 34 0))
  | .vshlExt k y a b c => some (.ext (packV 0 0 9 c b a 34 2) (packE 0 k y.code4 0 0) 0)
  | .vshr k y a b c => some (.short (packV k y.code3 10 c b a 34 0))
  | .vshrExt k y a b c => some (.ext (packV 0 0 10 c b a 34 2) (packE 0 k y.code4 0 0) 0)
  | .vsra k y a b c => some (.short (packV k y.code3 11 c b a 34 0))
  | .vsraExt k y a b c => some (.ext (packV 0 0 11 c b a 34 2) (packE 0 k y.code4 0 0) 0)
  | .vabs k y a b => some (.short (packV k y.code3 12 0 b a 34 0))
  | .vabsExt k y a b => some (.ext (packV 0 0 12 0 b a 34 2) (packE 0 k y.code4 0 0) 0)
  | .vneg k y a b => some (.short (packV k y.code3 13 0 b a 34 0))
  | .vnegExt k y a b => some (.ext (packV 0 0 13 0 b a 34 2) (packE 0 k y.code4 0 0) 0)
  | .vmov k y a b => some (.short (packV k y.code3 14 0 b a 34 0))
  | .vmovExt k y a b => some (.ext (packV 0 0 14 0 b a 34 2) (packE 0 k y.code4 0 0) 0)
  | .vsel k y a b c => some (.short (packV k y.code3 15 c b a 34 0))
  | .vselExt k y a b c => some (.ext (packV 0 0 15 c b a 34 2) (packE 0 k y.code4 0 0) 0)
  | .vminu k y a b c => some (.short (packV k y.code3 0 c b a 35 0))
  | .vminuExt k y a b c => some (.ext (packV 0 0 0 c b a 35 2) (packE 0 k y.code4 0 0) 0)
  | .vmaxu k y a b c => some (.short (packV k y.code3 1 c b a 35 0))
  | .vmaxuExt k y a b c => some (.ext (packV 0 0 1 c b a 35 2) (packE 0 k y.code4 0 0) 0)
  | .vmulh k y a b c => some (.short (packV k y.code3 2 c b a 35 0))
  | .vmulhExt k y a b c => some (.ext (packV 0 0 2 c b a 35 2) (packE 0 k y.code4 0 0) 0)
  | .vmulhu k y a b c => some (.short (packV k y.code3 3 c b a 35 0))
  | .vmulhuExt k y a b c => some (.ext (packV 0 0 3 c b a 35 2) (packE 0 k y.code4 0 0) 0)
  | .vavg k y a b c => some (.short (packV k y.code3 4 c b a 35 0))
  | .vavgExt k y a b c => some (.ext (packV 0 0 4 c b a 35 2) (packE 0 k y.code4 0 0) 0)
  | .vadds k y a b c => some (.short (packV k y.code3 5 c b a 35 0))
  | .vaddsExt k y a b c => some (.ext (packV 0 0 5 c b a 35 2) (packE 0 k y.code4 0 0) 0)
  | .vsubs k y a b c => some (.short (packV k y.code3 6 c b a 35 0))
  | .vsubsExt k y a b c => some (.ext (packV 0 0 6 c b a 35 2) (packE 0 k y.code4 0 0) 0)
  | .vaddsu k y a b c => some (.short (packV k y.code3 7 c b a 35 0))
  | .vaddsuExt k y a b c => some (.ext (packV 0 0 7 c b a 35 2) (packE 0 k y.code4 0 0) 0)
  | .vsubsu k y a b c => some (.short (packV k y.code3 8 c b a 35 0))
  | .vsubsuExt k y a b c => some (.ext (packV 0 0 8 c b a 35 2) (packE 0 k y.code4 0 0) 0)
  | .vcmpEq k y b c a => some (.short (packV k y.code3 9 c b (a.setWidth 5) 35 0))
  | .vcmpEqExt k y b c a => some (.ext (packV 0 0 9 c b (a.setWidth 5) 35 2) (packE 0 k y.code4 0 0) 0)
  | .vcmpNe k y b c a => some (.short (packV k y.code3 10 c b (a.setWidth 5) 35 0))
  | .vcmpNeExt k y b c a => some (.ext (packV 0 0 10 c b (a.setWidth 5) 35 2) (packE 0 k y.code4 0 0) 0)
  | .vcmpLt k y b c a => some (.short (packV k y.code3 11 c b (a.setWidth 5) 35 0))
  | .vcmpLtExt k y b c a => some (.ext (packV 0 0 11 c b (a.setWidth 5) 35 2) (packE 0 k y.code4 0 0) 0)
  | .vcmpLe k y b c a => some (.short (packV k y.code3 12 c b (a.setWidth 5) 35 0))
  | .vcmpLeExt k y b c a => some (.ext (packV 0 0 12 c b (a.setWidth 5) 35 2) (packE 0 k y.code4 0 0) 0)
  | .vcmpLtu k y b c a => some (.short (packV k y.code3 13 c b (a.setWidth 5) 35 0))
  | .vcmpLtuExt k y b c a => some (.ext (packV 0 0 13 c b (a.setWidth 5) 35 2) (packE 0 k y.code4 0 0) 0)
  | .vcmpLeu k y b c a => some (.short (packV k y.code3 14 c b (a.setWidth 5) 35 0))
  | .vcmpLeuExt k y b c a => some (.ext (packV 0 0 14 c b (a.setWidth 5) 35 2) (packE 0 k y.code4 0 0) 0)
  | .vclass k y a b => some (.short (packV k y.code3 15 0 b a 35 0))
  | .vclassExt k y a b => some (.ext (packV 0 0 15 0 b a 35 2) (packE 0 k y.code4 0 0) 0)
  | .vfma k y a b c => some (.short (packV k y.code3 0 c b a 36 0))
  | .vfmaExt k y r a b c => some (.ext (packV 0 0 0 c b a 36 2) (packE (r.code.setWidth 15) k y.code4 0 0) 0)
  | .vfms k y a b c => some (.short (packV k y.code3 1 c b a 36 0))
  | .vfmsExt k y r a b c => some (.ext (packV 0 0 1 c b a 36 2) (packE (r.code.setWidth 15) k y.code4 0 0) 0)
  | .vfnma k y a b c => some (.short (packV k y.code3 2 c b a 36 0))
  | .vfnmaExt k y r a b c => some (.ext (packV 0 0 2 c b a 36 2) (packE (r.code.setWidth 15) k y.code4 0 0) 0)
  | .vfnms k y a b c => some (.short (packV k y.code3 3 c b a 36 0))
  | .vfnmsExt k y r a b c => some (.ext (packV 0 0 3 c b a 36 2) (packE (r.code.setWidth 15) k y.code4 0 0) 0)
  | .vdot4 k y a b c => some (.short (packV k y.code3 4 c b a 36 0))
  | .vdot4Ext k y a b c => some (.ext (packV 0 0 4 c b a 36 2) (packE 0 k y.code4 0 0) 0)
  | .vdot2 k y a b c => some (.short (packV k y.code3 5 c b a 36 0))
  | .vdot2Ext k y r a b c => some (.ext (packV 0 0 5 c b a 36 2) (packE (r.code.setWidth 15) k y.code4 0 0) 0)
  | .vexp2 k y a b => some (.short (packV k y.code3 0 0 b a 37 0))
  | .vexp2Ext k y a b => some (.ext (packV 0 0 0 0 b a 37 2) (packE 0 k y.code4 0 0) 0)
  | .vlog2 k y a b => some (.short (packV k y.code3 1 0 b a 37 0))
  | .vlog2Ext k y a b => some (.ext (packV 0 0 1 0 b a 37 2) (packE 0 k y.code4 0 0) 0)
  | .vrcp k y a b => some (.short (packV k y.code3 2 0 b a 37 0))
  | .vrcpExt k y a b => some (.ext (packV 0 0 2 0 b a 37 2) (packE 0 k y.code4 0 0) 0)
  | .vrsqrt k y a b => some (.short (packV k y.code3 3 0 b a 37 0))
  | .vrsqrtExt k y a b => some (.ext (packV 0 0 3 0 b a 37 2) (packE 0 k y.code4 0 0) 0)
  | .vsqrt k y a b => some (.short (packV k y.code3 4 0 b a 37 0))
  | .vsqrtExt k y a b => some (.ext (packV 0 0 4 0 b a 37 2) (packE 0 k y.code4 0 0) 0)
  | .vtanh k y a b => some (.short (packV k y.code3 5 0 b a 37 0))
  | .vtanhExt k y a b => some (.ext (packV 0 0 5 0 b a 37 2) (packE 0 k y.code4 0 0) 0)
  | .vsigm k y a b => some (.short (packV k y.code3 6 0 b a 37 0))
  | .vsigmExt k y a b => some (.ext (packV 0 0 6 0 b a 37 2) (packE 0 k y.code4 0 0) 0)
  | .vdiv k y a b c => some (.short (packV k y.code3 7 c b a 37 0))
  | .vdivExt k y a b c => some (.ext (packV 0 0 7 c b a 37 2) (packE 0 k y.code4 0 0) 0)
  | .vcvt td ts part r k a b => some (.ext (packR 0 0 b a 38 2) (packE (packCvt part r.code) k td.code (ts.code.setWidth 5) 0) (0))
  | .vpackgx g off a b => some (.ext (packR 1 0 b a 38 2) (packE 0 0 g.code 0 0) (off.setWidth 32))
  | .vunpackgx g off k a b => some (.ext (packR 2 0 b a 38 2) (packE 0 k g.code 0 0) (off.setWidth 32))
  | .vperm k y a b c => some (.short (packV k y.code3 0 c b a 39 0))
  | .vpermExt k y a b c => some (.ext (packV 0 0 0 c b a 39 2) (packE 0 k y.code4 0 0) 0)
  | .vslideup k y a b c => some (.short (packV k y.code3 1 c b a 39 0))
  | .vslideupExt k y a b c => some (.ext (packV 0 0 1 c b a 39 2) (packE 0 k y.code4 0 0) 0)
  | .vslidedn k y a b c => some (.short (packV k y.code3 2 c b a 39 0))
  | .vslidednExt k y a b c => some (.ext (packV 0 0 2 c b a 39 2) (packE 0 k y.code4 0 0) 0)
  | .vbcast k y a b => some (.short (packV k y.code3 3 0 b a 39 0))
  | .vbcastExt k y a b => some (.ext (packV 0 0 3 0 b a 39 2) (packE 0 k y.code4 0 0) 0)
  | .vext y a b c => some (.short (packV 0 y.code3 4 c b a 39 0))
  | .vextExt y a b c => some (.ext (packV 0 0 4 c b a 39 2) (packE 0 0 y.code4 0 0) 0)
  | .vins k y a b c => some (.short (packV k y.code3 5 c b a 39 0))
  | .vinsExt k y a b c => some (.ext (packV 0 0 5 c b a 39 2) (packE 0 k y.code4 0 0) 0)
  | .vzip k y a b c => some (.short (packV k y.code3 6 c b a 39 0))
  | .vzipExt k y a b c => some (.ext (packV 0 0 6 c b a 39 2) (packE 0 k y.code4 0 0) 0)
  | .vunzip k y a b => some (.short (packV k y.code3 7 0 b a 39 0))
  | .vunzipExt k y a b => some (.ext (packV 0 0 7 0 b a 39 2) (packE 0 k y.code4 0 0) 0)
  | .vrev k y a b => some (.short (packV k y.code3 8 0 b a 39 0))
  | .vrevExt k y a b => some (.ext (packV 0 0 8 0 b a 39 2) (packE 0 k y.code4 0 0) 0)
  | .vscanAdd k y a b => some (.short (packV k y.code3 9 0 b a 39 0))
  | .vscanAddExt k y r a b => some (.ext (packV 0 0 9 0 b a 39 2) (packE (r.code.setWidth 15) k y.code4 0 0) 0)
  | .vscanMax k y a b => some (.short (packV k y.code3 10 0 b a 39 0))
  | .vscanMaxExt k y r a b => some (.ext (packV 0 0 10 0 b a 39 2) (packE (r.code.setWidth 15) k y.code4 0 0) 0)
  | .vkeep2 y a b c => some (.short (packV 0 y.code3 11 (c.setWidth 5) b a 39 0))
  | .vkeep2Ext y a b c => some (.ext (packV 0 0 11 (c.setWidth 5) b a 39 2) (packE 0 0 y.code4 0 0) 0)
  | .vredAdd k y a b => some (.short (packV k y.code3 0 0 b a 40 0))
  | .vredAddExt k y r a b => some (.ext (packV 0 0 0 0 b a 40 2) (packE (r.code.setWidth 15) k y.code4 0 0) 0)
  | .vredMax k y a b => some (.short (packV k y.code3 1 0 b a 40 0))
  | .vredMaxExt k y a b => some (.ext (packV 0 0 1 0 b a 40 2) (packE 0 k y.code4 0 0) 0)
  | .vredMin k y a b => some (.short (packV k y.code3 2 0 b a 40 0))
  | .vredMinExt k y a b => some (.ext (packV 0 0 2 0 b a 40 2) (packE 0 k y.code4 0 0) 0)
  | .mand a b c => some (.short (packR 0 (c.setWidth 5) (b.setWidth 5) (a.setWidth 5) 41 0))
  | .mor a b c => some (.short (packR 1 (c.setWidth 5) (b.setWidth 5) (a.setWidth 5) 41 0))
  | .mxor a b c => some (.short (packR 2 (c.setWidth 5) (b.setWidth 5) (a.setWidth 5) 41 0))
  | .mandn a b c => some (.short (packR 3 (c.setWidth 5) (b.setWidth 5) (a.setWidth 5) 41 0))
  | .mnot a b => some (.short (packR 4 0 (b.setWidth 5) (a.setWidth 5) 41 0))
  | .mpopc a b => some (.short (packR 5 0 (b.setWidth 5) a 41 0))
  | .mfirst a b => some (.short (packR 6 0 (b.setWidth 5) a 41 0))
  | .mfromx h a b => some (.short (packR 7 (bit5 h) b (a.setWidth 5) 41 0))
  | .mtox h a b => some (.short (packR 8 (bit5 h) (b.setWidth 5) a 41 0))
  | .mlanes a b => some (.short (packR 9 0 b (a.setWidth 5) 41 0))
  | .sadd r a b c => some (.ext (packR 0 c b a 44 2) (packE (r.code.setWidth 15) 0 0 0 0) (0))
  | .ssub r a b c => some (.ext (packR 1 c b a 44 2) (packE (r.code.setWidth 15) 0 0 0 0) (0))
  | .smul r a b c => some (.ext (packR 2 c b a 44 2) (packE (r.code.setWidth 15) 0 0 0 0) (0))
  | .sfma r a b c => some (.ext (packR 3 c b a 44 2) (packE (r.code.setWidth 15) 0 0 0 0) (0))
  | .smin a b c => some (.ext (packR 4 c b a 44 2) (packE 0 0 0 0 0) (0))
  | .smax a b c => some (.ext (packR 5 c b a 44 2) (packE 0 0 0 0 0) (0))
  | .scvt r a b => some (.ext (packR 6 0 b a 44 2) (packE (r.code.setWidth 15) 0 0 0 0) (0))
  | .scopy a b => some (.ext (packR 7 0 b a 44 2) (packE 0 0 0 0 0) (0))
  | .sexp2 a b => some (.ext (packR 8 0 b a 44 2) (packE 0 0 0 0 0) (0))
  | .srsum r a b => some (.ext (packR 9 0 b a 44 2) (packE (r.code.setWidth 15) 0 0 0 0) (0))
  | .srmax a b => some (.ext (packR 10 0 b a 44 2) (packE 0 0 0 0 0) (0))
  | .sbcast a b => some (.ext (packR 11 0 b a 44 2) (packE 0 0 0 0 0) (0))
  | .shpCheck a b c e => some (.ext (packR 12 c b a 44 2) (packE 0 0 0 0 e) (0))
  | .postMx d s => some (.short (packR 0 0 s (d.setWidth 5) 46 0))
  | .postCp d s => some (.short (packR 1 0 s (d.setWidth 5) 46 0))
  | .fwait d s => some (.short (packR 2 0 (s.setWidth 5) d 46 0))
  | .ftest d s => some (.short (packR 3 0 (s.setWidth 5) d 46 0))
  | .fcancel s => some (.short (packR 4 0 (s.setWidth 5) 0 46 0))
  | .fwaitany d s => some (.short (packR 5 0 s d 46 0))
  | .fmovx d s => some (.short (packR 6 0 (s.setWidth 5) d 46 0))
  | .xmovf d s => some (.short (packR 7 0 s (d.setWidth 5) 46 0))
  | .fenceCards => some (.short (packR 8 0 0 0 46 0))
  | .barInit b s => some (.short (packB b 0 0 s 0 47 0))
  | .barInitImm b n => some (.ext (packB b 0 0 0 0 47 2) 0 n)
  | .barArrive b => some (.short (packB b 1 0 0 0 47 0))
  | .barDrop b => some (.short (packB b 2 0 0 0 47 0))
  | .barWait b => some (.short (packB b 3 0 0 0 47 0))
  | .barExpect b s => some (.short (packB b 4 0 s 0 47 0))
  | .barExpectImm b n => some (.ext (packB b 4 0 0 0 47 2) 0 n)
  | .barTest b d => some (.short (packB b 5 0 0 d 47 0))
  | .barLink b s => some (.short (packB b 6 0 s 0 47 0))
  | .pcap d s xm vm => some (.ext (packR 0 0 s (d.setWidth 5) 48 2) (packE 0 0 0 0 0) (packPod vm xm))
  | .pcapr g d s xm vm e => some (.ext (packR 1 0 s (d.setWidth 5) 48 2) (packE (bit15 g) 0 0 0 e) (packPod vm xm))
  | .pcall o s => some (.short (packR 2 (bit5 o) (s.setWidth 5) 0 48 0))
  | .pspawn o d s => some (.short (packR 3 (bit5 o) (s.setWidth 5) d 48 0))
  | .psend d s t => some (.short (packR 4 t (s.setWidth 5) d 48 0))
  | .pdup d s => some (.short (packR 5 0 (s.setWidth 5) (d.setWidth 5) 48 0))
  | .prel s => some (.short (packR 6 0 (s.setWidth 5) 0 48 0))
  | .pget d s => some (.short (packR 7 0 (s.setWidth 5) d 48 0))
  | .pexport d s => some (.short (packR 8 0 (s.setWidth 5) d 48 0))
  | .pimport d s => some (.short (packR 9 0 s (d.setWidth 5) 48 0))
  | .segMake cls cnt d s t e => some (.ext (packR 0 t s d 49 2) (packE (packCls cls) 0 0 0 e) (cnt.setWidth 32))
  | .segAttach m d s => some (.short (packR 1 (m.setWidth 5) s d 49 0))
  | .segDetach s => some (.short (packR 2 0 s 0 49 0))
  | .segPublish d s => some (.short (packR 3 0 s d 49 0))
  | .segEvict d s => some (.short (packR 4 0 s d 49 0))
  | .segDrop d s => some (.short (packR 5 0 s d 49 0))
  | .segQuery d s => some (.short (packR 6 0 s d 49 0))
  | .ibxTake => some (.short (packR 0 0 0 0 50 0))
  | .taskEnd f s => some (.short (packR 1 (bit5 f) s 0 50 0))
  | .taskSpawn d s => some (.short (packR 2 0 s d 50 0))
  | .taskSpawnExt d s i => some (.ext (packR 2 0 s d 50 2) (packE 0 0 0 0 0) i)
  | .taskSpawnLit d s l => some (.extLit (packR 2 0 s d 50 3) (packE 0 0 0 0 0) 0 l)
  | .rngOpen d s t e => some (.ext (packR 3 t s d 50 2) (packE 0 0 0 0 e) (0))
  | .rngTake d s => some (.short (packR 4 0 s d 50 0))
  | .rngClose s => some (.short (packR 5 0 s 0 50 0))
  | .gangLead => some (.short (packR 6 0 0 0 50 0))
  | .gangFollow => some (.short (packR 7 0 0 0 50 0))
  | .gangJoin y => some (.short (packR 8 (bit5 y) 0 0 50 0))
  | .gangLeave => some (.short (packR 9 0 0 0 50 0))
  | .give s t => some (.short (packR 0 t s 0 51 0))
  | .giveExt clr s t e => some (.ext (packR 0 t s 0 51 2) (packE (bit15 clr) 0 0 0 e) 0)
  | .accept s => some (.short (packR 1 0 s 0 51 0))
  | .decline s => some (.short (packR 2 0 s 0 51 0))
  | .lend rc clr h s t e g => some (.ext (packR 3 t s h 51 2) (packE (packLend rc clr) 0 0 0 e) g)
  | .lendLit rc clr h s t e g => some (.extLit (packR 3 t s h 51 3) (packE (packLend rc clr) 0 0 0 e) 0 (g.setWidth 64))
  | .recall d s => some (.short (packR 4 0 s d 51 0))
  | .reclaim d s => some (.short (packR 5 0 s d 51 0))
  | .ownQ w d s => some (.short (packR 6 (w.setWidth 5) s d 51 0))
  | .mint d s => some (.short (packR 7 0 s d 51 0))
  | .retire => some (.short (packR 8 0 0 0 51 0))
  | .ownHook k s => some (.short (packR 9 (k.setWidth 5) (s.setWidth 5) 0 51 0))
  | .kread d s i x => some (.ext (packR 10 0 s d 51 2) (packE 0 0 0 0 0) (packKr x i))
  | .kwrite s v i x => some (.ext (packR 11 v s 0 51 2) (packE 0 0 0 0 0) (packKr x i))
  | .undecodableWord _ _ => none
  | .resumeComplete _ => none

/-- Bytes of an instruction; 0 for an event (R79). -/
def Words.bytes : Words → List (BitVec 8)
  | .short w0 => leBytes 4 w0.toNat
  | .shortLit w0 l => leBytes 4 w0.toNat ++ leBytes 8 l.toNat
  | .ext w0 w1 w2 => leBytes 4 w0.toNat ++ leBytes 4 w1.toNat ++ leBytes 4 w2.toNat
  | .extLit w0 w1 w2 l => leBytes 4 w0.toNat ++ leBytes 4 w1.toNat ++ leBytes 4 w2.toNat ++ leBytes 8 l.toNat

end Sys2Proof
end

