-- ==== Sys2Proof/Config.lean ====
section
/-! DEFINITION. What the spec leaves to the implementation or to the outside, and the free values of
the model: constants without a body, so that nothing proved can rest on what they are. Each is a row of
the assumption log. -/

namespace Sys2Proof

/-- Which agent moves next: the core of a context, an event of the device, or the host at the link. -/
inductive Turn where
  | issue (core : Nat)
  | event (i : Instr)
  /-- the host reads bytes of a BAR of a function, or writes them (R370) -/
  | hostRead (f bar off n : Nat)
  | hostWrite (f bar off : Nat) (bs : List (BitVec 8))
  /-- the host sets or clears AtomicOp Requester Enable of function 0 (R369) -/
  | atomicOps (on : Bool)
deriving DecidableEq, Repr, Inhabited

namespace Config

/-- A free 64-bit value, by the counter `State.n`. -/
opaque freeWord : Nat → BitVec 64
/-- A free choice, by the counter `State.n`. -/
opaque freeBool : Nat → Bool
/-- The agent that moves where the agenda of the state names none (R248). -/
opaque schedule : Nat → Turn
/-- How much fabric time one transition takes. -/
opaque elapsed : Nat → Nat
/-- The bytes of the flash (R381). -/
opaque flash : List (BitVec 8)
/-- The public key of images, as it came with the boot ROM, and the SHA-384 that is fused (R382). -/
opaque imageKey : Nat × Nat
opaque fused : List (BitVec 8)
/-- The private half of the device's key pair (R384). -/
opaque deviceKey : Nat
/-- The secret number of a signature, by the counter `State.n` (R384). -/
opaque nonce : Nat → Nat
/-- Estimates of package power, in watts (R319). -/
opaque power : Nat → Nat
/-- Occurrences of events that the model does not follow, by the counter `State.n`, the core and the event code (R358). -/
opaque counted : Nat → Nat → Nat → Nat
/-- Stores of the host, of CXL devices and of peers into their own memory before an access (R255). -/
opaque externalWrites : Nat → List (Nat × BitVec 8)

end Config

end Sys2Proof
end

