-- ==== Sys2Proof/Machine/Ecdsa.lean ====
section
/-! DEFINITION. ECDSA over brainpoolP384r1, the 384-bit curve of RFC 5639 in its non-twisted form (R382, R384). PRESUMED,
log 104: the parameters are those of the RFC, and signing and verifying are those of the standard. -/

namespace Sys2Proof.Machine
namespace Curve

/-- y² = x³ + ax + b over the field of p elements; the base point has the prime order q. -/
def p : Nat := 0x8CB91E82A3386D280F5D6F7E50E641DF152F7109ED5456B412B1DA197FB71123ACD3A729901D1A71874700133107EC53
def a : Nat := 0x7BC382C63D8C150C3C72080ACE05AFA0C2BEA28E4FB22787139165EFBA91F90F8AA5814A503AD4EB04A8C7DD22CE2826
def b : Nat := 0x04A8C7DD22CE28268B39B55416F0447C2FB77DE107DCD2A62E880EA53EEB62D57CB4390295DBC9943AB78696FA504C11
def q : Nat := 0x8CB91E82A3386D280F5D6F7E50E641DF152F7109ED5456B31F166E6CAC0425A7CF3AB6AF6B7FC3103B883202E9046565
def base : Nat × Nat :=
  (0x1D1C64F068CF45FFA2A63A81B7C13F6B8847A3E77EF14FE3DB7FCAFE0CBD10E8E826E03436D646AAEF87B2E247D4AF1E,
   0x8ABE1D7520F9C2A45CB1EB8E95CFD55262B70B29FEEC5864E19C054FF99129280E4646217791811142820341263C5315)

/-- A power modulo `m`, by as many squarings as there is fuel. -/
def powMod (m : Nat) : Nat → Nat → Nat → Nat
  | 0, _, _ => 1 % m
  | fuel + 1, x, e =>
    let h := powMod m fuel (x * x % m) (e / 2)
    if e % 2 = 1 then x * h % m else h
/-- The inverse modulo a prime below 2^384. -/
def inv (m x : Nat) : Nat := powMod m 384 x (m - 2)

/-- A point: none is the one at infinity. -/
abbrev Pt := Option (Nat × Nat)

def onCurve (x y : Nat) : Bool := decide (x < p) && decide (y < p) && y * y % p == (x * x * x + a * x + b) % p

/-- The third point of the line with a slope through two points, reflected. -/
def chord (l x1 y1 x2 : Nat) : Pt :=
  let x := (l * l + 2 * p - x1 - x2) % p
  some (x, (l * (x1 + p - x) + p - y1) % p)

def add : Pt → Pt → Pt
  | none, s => s
  | r, none => r
  | some (x1, y1), some (x2, y2) =>
    if x1 ≠ x2 then chord ((y2 + p - y1) * inv p ((x2 + p - x1) % p) % p) x1 y1 x2
    else if (y1 + y2) % p = 0 then none
    else chord ((3 * x1 * x1 + a) * inv p (2 * y1 % p) % p) x1 y1 x2

/-- A multiple, by as many doublings as there is fuel. -/
def mul : Nat → Nat → Pt → Pt
  | 0, _, _ => none
  | fuel + 1, k, r =>
    let h := mul fuel (k / 2) (add r r)
    if k % 2 = 1 then add r h else h

/-- Does (r, s) sign the number of a digest under a public key? -/
def verify (key : Nat × Nat) (z r s : Nat) : Bool :=
  let w := inv q s
  onCurve key.1 key.2 && decide (0 < r) && decide (r < q) && decide (0 < s) && decide (s < q) &&
    match add (mul 384 (z * w % q) (some base)) (mul 384 (r * w % q) (some key)) with
    | some (x, _) => x % q == r
    | none => false

/-- The signature (r, s) of the number of a digest by a private key, with a secret number. -/
def sign (d k z : Nat) : Nat × Nat :=
  match mul 384 k (some base) with
  | some (x, _) => (x % q, inv q k * (z + x % q * d) % q)
  | none => (0, 0)

end Curve

/-- The bytes of a public key, x then y, big-endian. PRESUMED, log 104. -/
def keyBytes (key : Nat × Nat) : List Byte := Sha.beOf 48 key.1 ++ Sha.beOf 48 key.2
/-- Do 96 bytes, r then s, sign a digest under the key whose SHA-384 is fused (R382)? -/
def imageSigned (digest sig : List Byte) : Bool :=
  sha384 (keyBytes Config.imageKey) == Config.fused &&
    Curve.verify Config.imageKey (Sha.beVal digest) (Sha.beVal (sig.take 48)) (Sha.beVal (sig.drop 48))
/-- The signature of a digest by the device's private key, which is a number from 1 to q − 1 as the secret number is (R384):
r then s, little-endian as every field is for which no rule says otherwise (R4). -/
def deviceSign (n : Nat) (digest : List Byte) : List Byte :=
  let r := Curve.sign (1 + Config.deviceKey % (Curve.q - 1)) (1 + Config.nonce n % (Curve.q - 1)) (Sha.beVal digest)
  (Sha.beOf 48 r.1).reverse ++ (Sha.beOf 48 r.2).reverse

end Sys2Proof.Machine
end

