-- ==== Sys2Proof/Machine/Float.lean ====
section
/-! DEFINITION. Numbers of R46 to R58: the floating-point formats with their five rounding modes,
the integer types, and the conversions between them. A value is an exact sign, magnitude and binary
exponent, and is rounded once. -/

namespace Sys2Proof.Machine

/-- A floating-point format by its exponent and fraction bits (R48). -/
structure Fmt where
  eb : Nat
  mb : Nat
deriving DecidableEq, Repr

/-- f32 (R48). -/
def Fmt.f32 : Fmt := ⟨8, 23⟩
/-- f16 (R48). -/
def Fmt.f16 : Fmt := ⟨5, 10⟩
/-- bf16 (R48). -/
def Fmt.bf16 : Fmt := ⟨8, 7⟩

/-- Bits of a number of this format. -/
def Fmt.bits (f : Fmt) : Nat := 1 + f.eb + f.mb
/-- The bias (R48). -/
def Fmt.bias (f : Fmt) : Int := 2 ^ (f.eb - 1) - 1
/-- The exponent of the smallest normal magnitude. -/
def Fmt.emin (f : Fmt) : Int := 1 - f.bias
/-- The exponent of the lowest bit of a subnormal. -/
def Fmt.qmin (f : Fmt) : Int := f.emin - f.mb
/-- The pattern of +∞. -/
def Fmt.inf (f : Fmt) : Nat := (2 ^ f.eb - 1) * 2 ^ f.mb
/-- The canonical quiet NaN (R49). -/
def Fmt.nan (f : Fmt) : Nat := f.inf + 2 ^ (f.mb - 1)
/-- The sign bit of a pattern. -/
def Fmt.sign (f : Fmt) (neg : Bool) : Nat := if neg then 2 ^ (f.eb + f.mb) else 0
/-- The largest finite magnitude. -/
def Fmt.maxFinite (f : Fmt) : Nat := f.inf - 1

/-- Sticky flags of FPFLAGS (R40): NV 16, DZ 8, OF 4, UF 2, NX 1. -/
abbrev FFlags := BitVec 5
def fNV : FFlags := 16
def fDZ : FFlags := 8
def fOF : FFlags := 4
def fUF : FFlags := 2
def fNX : FFlags := 1

/-- What a pattern stands for. `fin neg m e` is (-1)^neg · m · 2^e, and m = 0 is a signed zero. -/
inductive FVal where
  | nan (signalling : Bool)
  | inf (neg : Bool)
  | fin (neg : Bool) (m : Nat) (e : Int)
deriving DecidableEq, Repr

/-- The value of a pattern (R48). -/
def Fmt.decode (f : Fmt) (b : Nat) : FVal :=
  let frac := b % 2 ^ f.mb
  let ex := b / 2 ^ f.mb % 2 ^ f.eb
  let neg := b / 2 ^ (f.eb + f.mb) % 2 == 1
  if ex = 2 ^ f.eb - 1 then
    if frac = 0 then .inf neg else .nan (frac < 2 ^ (f.mb - 1))
  else if ex = 0 then .fin neg frac f.qmin
  else .fin neg (frac + 2 ^ f.mb) (f.qmin + (ex - 1))

/-- The magnitude `m · 2^e`, plus something less than one unit `2^e` where `sticky` holds, cut to a
multiple of `2^q`: the multiple below, and how the rest compares with half of `2^q`: 0 nothing left,
1 below half, 2 half, 3 above half. -/
def cutAt (m : Nat) (e q : Int) (sticky : Bool) : Nat × Nat :=
  if q ≤ e then
    (m * 2 ^ (e - q).toNat, if sticky then 1 else 0)
  else
    let sh := (q - e).toNat
    let r := m % 2 ^ sh
    let half := 2 ^ (sh - 1)
    (m / 2 ^ sh,
      if r = 0 then (if sticky then 1 else 0)
      else if r < half then 1
      else if r = half then (if sticky then 3 else 2)
      else 3)

/-- Does the mode round a magnitude away from zero (R51)? -/
def roundsUp (md : Rnd) (neg odd : Bool) (rest : Nat) : Bool :=
  match md with
  | .rne => rest == 3 || (rest == 2 && odd)
  | .rna => 2 ≤ rest
  | .rz => false
  | .rdn => neg && rest != 0
  | .rup => !neg && rest != 0

/-- The pattern of an overflow in a mode (R53). -/
def Fmt.overflow (f : Fmt) (md : Rnd) (neg : Bool) : Nat :=
  let toInf := match md with
    | .rne | .rna => true
    | .rz => false
    | .rdn => neg
    | .rup => !neg
  f.sign neg + if toInf then f.inf else f.maxFinite

/-- A nonzero magnitude rounded to the format, with its flags (R50, R51, R53). Where `sticky` holds,
`m` has at least two bits more than the format keeps. -/
def Fmt.round (f : Fmt) (md : Rnd) (neg : Bool) (m : Nat) (e : Int) (sticky : Bool) : Nat × FFlags :=
  let top : Int := e + Nat.log2 m
  let q := max (top - f.mb) f.qmin
  let (n, rest) := cutAt m e q sticky
  let r := if roundsUp md neg (n % 2 == 1) rest then n + 1 else n
  let (n0, rest0) := cutAt m e (top - f.mb) sticky
  let r0 := if roundsUp md neg (n0 % 2 == 1) rest0 then n0 + 1 else n0
  let tiny := decide (top < f.emin) && !(decide (top + 1 = f.emin) && r0 == 2 ^ (f.mb + 1))
  let nx := rest != 0
  let pat := (q - f.qmin).toNat * 2 ^ f.mb + r
  if f.inf ≤ pat then (f.overflow md neg, fOF ||| fNX)
  else (f.sign neg + pat, (if nx then fNX else 0) ||| if tiny && nx then fUF else 0)

/-- An exact value rounded to the format; a zero keeps its sign. -/
def Fmt.ofVal (f : Fmt) (md : Rnd) : FVal → Nat × FFlags
  | .nan s => (f.nan, if s then fNV else 0)
  | .inf neg => (f.sign neg + f.inf, 0)
  | .fin neg m e => if m = 0 then (f.sign neg, 0) else f.round md neg m e false

/-- The sign of a value. -/
def FVal.neg? : FVal → Bool
  | .nan _ => false
  | .inf n => n
  | .fin n _ _ => n
/-- The value with its sign inverted. -/
def FVal.negate : FVal → FVal
  | .nan s => .nan s
  | .inf n => .inf (!n)
  | .fin n m e => .fin (!n) m e
def FVal.isNan : FVal → Bool
  | .nan _ => true
  | _ => false
def FVal.isSNan : FVal → Bool
  | .nan s => s
  | _ => false
def FVal.isInf : FVal → Bool
  | .inf _ => true
  | _ => false
def FVal.isZero : FVal → Bool
  | .fin _ 0 _ => true
  | _ => false

/-- NV for a signalling NaN among the operands (R49). -/
def snan (a : FVal) : FFlags := if a.isSNan then fNV else 0

/-- The signed integer `m` in units of `2^e`, in units of `2^q`. -/
def scaled (neg : Bool) (m : Nat) (e q : Int) : Int :=
  let v : Int := m * 2 ^ (e - q).toNat
  if neg then -v else v

/-- The exact sum of two finite values; an exact zero takes the sign that IEEE 754 gives it in the
mode. -/
def finAdd (md : Rnd) (n1 : Bool) (m1 : Nat) (e1 : Int) (n2 : Bool) (m2 : Nat) (e2 : Int) : FVal :=
  let q := min e1 e2
  let s := scaled n1 m1 e1 q + scaled n2 m2 e2 q
  if s = 0 then
    .fin (if m1 = 0 && m2 = 0 && n1 == n2 then n1 else md == .rdn) 0 0
  else .fin (decide (s < 0)) s.natAbs q

/-- The exact sum, or the special value; the second part holds the flags so far. -/
def FVal.add (md : Rnd) (a b : FVal) : FVal × FFlags :=
  match a, b with
  | .nan s, .nan t => (.nan false, if s || t then fNV else 0)
  | .nan s, _ => (.nan false, if s then fNV else 0)
  | _, .nan t => (.nan false, if t then fNV else 0)
  | .inf n, .inf k => if n = k then (.inf n, 0) else (.nan false, fNV)
  | .inf n, _ => (.inf n, 0)
  | _, .inf k => (.inf k, 0)
  | .fin n1 m1 e1, .fin n2 m2 e2 => (finAdd md n1 m1 e1 n2 m2 e2, 0)

/-- The exact product, or the special value. -/
def FVal.mul (a b : FVal) : FVal × FFlags :=
  match a, b with
  | .nan s, .nan t => (.nan false, if s || t then fNV else 0)
  | .nan s, _ => (.nan false, if s then fNV else 0)
  | _, .nan t => (.nan false, if t then fNV else 0)
  | .inf n, .inf k => (.inf (n != k), 0)
  | .inf n, .fin k m _ => if m = 0 then (.nan false, fNV) else (.inf (n != k), 0)
  | .fin k m _, .inf n => if m = 0 then (.nan false, fNV) else (.inf (n != k), 0)
  | .fin n1 m1 e1, .fin n2 m2 e2 => (.fin (n1 != n2) (m1 * m2) (e1 + e2), 0)

/-- Round a value with the flags of the operation that made it. -/
def Fmt.deliver (f : Fmt) (md : Rnd) (v : FVal × FFlags) : Nat × FFlags :=
  let (p, g) := f.ofVal md v.1
  (p, g ||| v.2)

/-- a + b (R113, R140). -/
def Fmt.add (f : Fmt) (md : Rnd) (a b : Nat) : Nat × FFlags :=
  f.deliver md ((f.decode a).add md (f.decode b))
/-- a − b. -/
def Fmt.sub (f : Fmt) (md : Rnd) (a b : Nat) : Nat × FFlags :=
  f.deliver md ((f.decode a).add md (f.decode b).negate)
/-- a × b. -/
def Fmt.mul (f : Fmt) (md : Rnd) (a b : Nat) : Nat × FFlags :=
  f.deliver md ((f.decode a).mul (f.decode b))
/-- ±(a × b) ± d rounded once (R142); a product of 0 and ∞ sets NV whatever the addend is (R50). -/
def fmaVal (md : Rnd) (a b d : FVal) (negP negD : Bool) : FVal × FFlags :=
  let (p, g1) := a.mul b
  let p := if negP then p.negate else p
  let d := if negD then d.negate else d
  let (s, g2) := p.add md d
  (s, g1 ||| g2)
/-- ±(a × b) ± d in one format. -/
def Fmt.fma (f : Fmt) (md : Rnd) (a b d : Nat) (negP negD : Bool) : Nat × FFlags :=
  f.deliver md (fmaVal md (f.decode a) (f.decode b) (f.decode d) negP negD)

/-- The quotient of two finite nonzero magnitudes as a magnitude with a sticky rest. -/
def Fmt.divFin (f : Fmt) (md : Rnd) (neg : Bool) (m1 : Nat) (e1 : Int) (m2 : Nat) (e2 : Int) : Nat × FFlags :=
  let k := f.mb + 4 + Nat.log2 m2
  let n := m1 * 2 ^ k
  f.round md neg (n / m2) (e1 - e2 - k) (n % m2 != 0)

/-- a ÷ b, IEEE 754 division (R54, R113). -/
def Fmt.div (f : Fmt) (md : Rnd) (a b : Nat) : Nat × FFlags :=
  match f.decode a, f.decode b with
  | .nan s, v => (f.nan, (if s then fNV else 0) ||| snan v)
  | _, .nan t => (f.nan, if t then fNV else 0)
  | .inf _, .inf _ => (f.nan, fNV)
  | .inf n, .fin k _ _ => (f.sign (n != k) + f.inf, 0)
  | .fin n _ _, .inf k => (f.sign (n != k), 0)
  | .fin n1 m1 e1, .fin n2 m2 e2 =>
    if m2 = 0 then
      if m1 = 0 then (f.nan, fNV) else (f.sign (n1 != n2) + f.inf, fDZ)
    else if m1 = 0 then (f.sign (n1 != n2), 0)
    else f.divFin md (n1 != n2) m1 e1 m2 e2

/-- The integer square root, found bit by bit from bit `i` down. -/
def isqrtFrom (n : Nat) : Nat → Nat → Nat
  | 0, r => r
  | i + 1, r =>
    let t := r + 2 ^ i
    isqrtFrom n i (if t * t ≤ n then t else r)
/-- The integer square root. -/
def isqrt (n : Nat) : Nat := isqrtFrom n (Nat.log2 n / 2 + 1) 0

/-- √a (R54, R113). -/
def Fmt.sqrt (f : Fmt) (md : Rnd) (a : Nat) : Nat × FFlags :=
  match f.decode a with
  | .nan s => (f.nan, if s then fNV else 0)
  | .inf false => (f.inf, 0)
  | .inf true => (f.nan, fNV)
  | .fin n m e =>
    if m = 0 then (f.sign n, 0)
    else if n then (f.nan, fNV)
    else
      let k : Int := 2 * (f.mb + 4)
      let k := if (e - k) % 2 = 0 then k else k + 1
      let w := m * 2 ^ k.toNat
      let r := isqrt w
      f.round md false r ((e - k) / 2) (r * r != w)

/-- 1 ÷ √x, rounded once (R54). -/
def Fmt.rsqrt (f : Fmt) (a : Nat) : Nat × FFlags :=
  match f.decode a with
  | .nan s => (f.nan, if s then fNV else 0)
  | .inf false => (0, 0)
  | .inf true => (f.nan, fNV)
  | .fin n m e =>
    if m = 0 then (f.sign n + f.inf, fDZ)
    else if n then (f.nan, fNV)
    else
      -- 1/√(m·2^e) = √(2^(2k) / (m·2^(e mod 2))) · 2^(-k - (e div 2))
      let w := if e % 2 = 0 then m else 2 * m
      let h : Int := e / 2
      let k := 2 * (f.mb + 4) + Nat.log2 w
      let d := 2 ^ (2 * k)
      let r := isqrt (d / w)
      f.round .rne false r (-h - k) (r * r * w != d)

/-- 1 ÷ x (R54). -/
def Fmt.rcp (f : Fmt) (a : Nat) : Nat × FFlags := f.div .rne (f.bias.toNat * 2 ^ f.mb) a

/-- Order of two values that are not NaN: −0 and +0 are equal. -/
def FVal.key (q : Int) : FVal → Int
  | .nan _ => 0
  | .inf _ => 0
  | .fin n m e => scaled n m e q
/-- a < b for values that are not NaN. -/
def FVal.lt (a b : FVal) : Bool :=
  match a, b with
  | .inf true, .inf true => false
  | .inf true, _ => true
  | _, .inf true => false
  | .inf false, _ => false
  | _, .inf false => true
  | .fin _ _ e1, .fin _ _ e2 => decide (a.key (min e1 e2) < b.key (min e1 e2))
  | _, _ => false
/-- a = b for values that are not NaN. -/
def FVal.eqv (a b : FVal) : Bool := !a.lt b && !b.lt a

/-- Kinds of comparison (R114, R141). -/
inductive Cmp where
  | eq | ne | lt | le
deriving DecidableEq, Repr

/-- A floating-point comparison with its flags (R114, R141). -/
def Fmt.cmp (f : Fmt) (c : Cmp) (a b : Nat) : Bool × FFlags :=
  let x := f.decode a
  let y := f.decode b
  if x.isNan || y.isNan then
    (c == .ne, match c with
      | .eq | .ne => snan x ||| snan y
      | .lt | .le => fNV)
  else (match c with
    | .eq => x.eqv y
    | .ne => !x.eqv y
    | .lt => x.lt y
    | .le => !y.lt x, 0)

/-- The smaller operand, or the larger where `mx` holds: −0 is below +0 and a NaN operand gives the
canonical NaN (R62, R113, R140). -/
def Fmt.minmax (f : Fmt) (mx : Bool) (a b : Nat) : Nat × FFlags :=
  let x := f.decode a
  let y := f.decode b
  if x.isNan || y.isNan then (f.nan, snan x ||| snan y)
  else
    let aBelow := x.lt y || (x.eqv y && x.neg? && !y.neg?)
    ((if aBelow == mx then b else a), 0)

/-- The class bits (R114). -/
def Fmt.fclass (f : Fmt) (a : Nat) : Nat :=
  match f.decode a with
  | .nan s => if s then 2 ^ 8 else 2 ^ 9
  | .inf n => if n then 2 ^ 0 else 2 ^ 7
  | .fin n m _ =>
    if m = 0 then (if n then 2 ^ 3 else 2 ^ 4)
    else if m < 2 ^ f.mb then (if n then 2 ^ 2 else 2 ^ 5)
    else if n then 2 ^ 1 else 2 ^ 6

/-- The sign bit cleared (R140). -/
def Fmt.abs (f : Fmt) (a : Nat) : Nat × FFlags :=
  match f.decode a with
  | .nan s => (f.nan, if s then fNV else 0)
  | _ => (a % 2 ^ (f.eb + f.mb), 0)
/-- The sign bit inverted (R140). -/
def Fmt.neg (f : Fmt) (a : Nat) : Nat × FFlags :=
  match f.decode a with
  | .nan s => (f.nan, if s then fNV else 0)
  | _ => ((a + 2 ^ (f.eb + f.mb)) % 2 ^ f.bits, 0)

/-! Integer types. A lane of `w` bits is a number below `2^w`. -/

/-- The number as two's complement (R46). -/
def sgn (w : Nat) (a : Nat) : Int := if a < 2 ^ (w - 1) then a else (a : Int) - 2 ^ w
/-- The low `w` bits of an integer. -/
def wrap (w : Nat) (v : Int) : Nat := (v % (2 ^ w : Int)).toNat

/-- An element type: a float format or an integer of some width (R46, R48). -/
inductive ElemT where
  | flt (f : Fmt)
  | int (w : Nat) (signed : Bool)
deriving DecidableEq, Repr

def ElemT.bits : ElemT → Nat
  | .flt f => f.bits
  | .int w _ => w

/-- The least and the largest value of an integer type (R46). -/
def intMin (w : Nat) (signed : Bool) : Int := if signed then -(2 ^ (w - 1)) else 0
def intMax (w : Nat) (signed : Bool) : Int := if signed then 2 ^ (w - 1) - 1 else 2 ^ w - 1
/-- The integer that a lane holds. -/
def intVal (w : Nat) (signed : Bool) (a : Nat) : Int := if signed then sgn w a else a

/-- Sat of R89: the clamped value as a lane, and whether it was clamped. -/
def sat (w : Nat) (signed : Bool) (v : Int) : Nat × Bool :=
  if v < intMin w signed then (wrap w (intMin w signed), true)
  else if intMax w signed < v then (wrap w (intMax w signed), true)
  else (wrap w v, false)

/-- Flags that a lane operation collects: FPFLAGS and ISTAT (SAT 4, OV 2, DZ 1; R40). -/
structure Flags where
  fp : FFlags
  ist : BitVec 3
deriving DecidableEq, Repr
def Flags.none : Flags := ⟨0, 0⟩
def Flags.or (a b : Flags) : Flags := ⟨a.fp ||| b.fp, a.ist ||| b.ist⟩
def iSAT : BitVec 3 := 4
def iOV : BitVec 3 := 2
def iDZ : BitVec 3 := 1

/-- Division of R47: quotient and remainder as lanes, and the ISTAT bits. -/
def intDiv (w : Nat) (signed : Bool) (a c : Nat) : Nat × Nat × BitVec 3 :=
  let x := intVal w signed a
  let y := intVal w signed c
  if y = 0 then (0, a, iDZ)
  else if signed && x == intMin w true && y == -1 then (a, 0, iOV)
  else (wrap w (Int.tdiv x y), wrap w (Int.tmod x y), 0)

/-- A float rounded to an integer in a mode (R53). -/
def FVal.toInt (md : Rnd) (w : Nat) (signed : Bool) : FVal → Nat × FFlags
  | .nan _ => (0, fNV)
  | .inf n => (wrap w (if n then intMin w signed else intMax w signed), fNV)
  | .fin n m e =>
    let (k, rest) := cutAt m e 0 false
    let r := if roundsUp md n (k % 2 == 1) rest then k + 1 else k
    let v : Int := if n then -(r : Int) else r
    if v < intMin w signed || intMax w signed < v then
      (wrap w (if n then intMin w signed else intMax w signed), fNV)
    else (wrap w v, if rest != 0 then fNX else 0)

/-- The exact value of an integer. -/
def FVal.ofInt (v : Int) : FVal := .fin (decide (v < 0)) v.natAbs 0

/-- The exact value of an element. -/
def ElemT.val (t : ElemT) (a : Nat) : FVal :=
  match t with
  | .flt f => f.decode a
  | .int w s => FVal.ofInt (intVal w s a)

/-- Convert of R53 between lane types in a mode. -/
def convert (src dst : ElemT) (md : Rnd) (a : Nat) : Nat × Flags :=
  match src, dst with
  | .flt f, .flt g =>
    match f.decode a with
    | .nan s => (g.nan, ⟨if s then fNV else 0, 0⟩)
    | v => let (p, k) := g.ofVal md v; (p, ⟨k, 0⟩)
  | .flt f, .int w s => let (p, k) := (f.decode a).toInt md w s; (p, ⟨k, 0⟩)
  | .int w s, .flt g => let (p, k) := g.ofVal md (FVal.ofInt (intVal w s a)); (p, ⟨k, 0⟩)
  | .int w s, .int w' s' =>
    if w < w' then (wrap w' (intVal w s a), Flags.none)
    else
      let (p, c) := sat w' s' (intVal w s a)
      (p, ⟨0, if c then iSAT else 0⟩)

/-- A float converted to the same format still passes through the arithmetic path: a NaN becomes the
canonical NaN (R49, R147). -/
def Fmt.canon (f : Fmt) (a : Nat) : Nat × FFlags :=
  match f.decode a with
  | .nan s => (f.nan, if s then fNV else 0)
  | _ => (a, 0)

end Sys2Proof.Machine
end

