-- ==== Sys2Proof/Machine/Gx.lean ====
section
/-! DEFINITION. The GX block formats (R55 to R58) and the planar tile layout (R59 to R61). -/

namespace Sys2Proof

/-- Magnitude bits of a GX format (R55). -/
def GxT.b : GxT → Nat
  | .gx2 => 2 | .gx4 => 4 | .gx7 => 7

namespace Machine

/-- The fields of one block of 16 elements: E, the sub-scales, signs and magnitudes (R55). -/
structure Block where
  ex : Nat
  sub : List Nat
  sg : List Bool
  mag : List Nat
deriving DecidableEq, Repr

/-- The number with the `n`-bit digits `ds`, least significant first. -/
def digits (n : Nat) : List Nat → Nat
  | [] => 0
  | d :: ds => d % 2 ^ n + 2 ^ n * digits n ds

/-- A block as a little-endian number (R55). -/
def Block.pack (b : Nat) (k : Block) : Nat :=
  k.ex + 256 * digits 2 k.sub +
    65536 * digits (b + 1) ((k.sg.zip k.mag).map fun (s, m) => m + if s then 2 ^ b else 0)

/-- The fields of a packed block (R55). -/
def Block.unpack (b : Nat) (v : Nat) : Block :=
  let fld i := v / 2 ^ (16 + i * (1 + b)) % 2 ^ (1 + b)
  ⟨v % 256, (List.range 4).map fun k => v / 2 ^ (8 + 2 * k) % 4,
    (List.range 16).map fun i => fld i / 2 ^ b == 1, (List.range 16).map fun i => fld i % 2 ^ b⟩

/-- The value of element `i` of a block with `b` magnitude bits (R56). -/
def Block.val (b : Nat) (k : Block) (i : Nat) : FVal :=
  if k.ex = 255 then .nan false
  else .fin (k.sg.getD i false) (k.mag.getD i 0)
    ((k.ex : Int) - 127 - (k.sub.getD (i / 4) 0 : Nat) - (b - 1 : Nat))

/-- The f32 patterns of a block (R56). -/
def Block.toF32 (b : Nat) (k : Block) : List Nat :=
  (List.range 16).map fun i => (Fmt.f32.ofVal .rne (k.val b i)).1

/-- A magnitude over `2^q`, rounded to nearest with ties away. -/
def awayDiv (m : Nat) (e q : Int) : Nat :=
  let (n, rest) := cutAt m e q false
  if 2 ≤ rest then n + 1 else n

/-- Floor(Log2) of a nonzero magnitude. -/
def ilog (m : Nat) (e : Int) : Int := e + Nat.log2 m

/-- The larger of the top exponents of the finite nonzero values, if there is one. -/
def topExp : List FVal → Option Int
  | [] => none
  | .fin _ (m + 1) e :: t => match topExp t with
    | none => some (ilog (m + 1) e)
    | some k => some (max k (ilog (m + 1) e))
  | _ :: t => topExp t

/-- Does the quad fit at the scale `2^q`? -/
def quadFits (q : Int) (mmax : Nat) (xs : List FVal) : Bool :=
  xs.all fun x => match x with
    | .fin _ m e => awayDiv m e q ≤ mmax
    | _ => false

/-- The magnitude of one element at the scale `2^q` (R57). -/
def gxMag (q : Int) (mmax : Nat) : FVal → Nat
  | .fin _ m e => min (awayDiv m e q) mmax
  | _ => mmax

/-- Does the element decode to its own value? -/
def gxExact (q : Int) (mmax : Nat) (x : FVal) : Bool :=
  match x with
  | .fin _ m e => cutAt m e q false == (gxMag q mmax x, 0)
  | _ => false

/-- Conversion of 16 exact values into one block (R57). -/
def gxEncode (b : Nat) (xs : List FVal) : Block × FFlags :=
  if xs.any FVal.isNan then
    (⟨255, List.replicate 4 0, List.replicate 16 false, List.replicate 16 0⟩,
      fNV ||| if xs.all FVal.isNan then 0 else fNX)
  else
    let mmax := 2 ^ b - 1
    let ex : Nat := match topExp xs with
      | none => if xs.any FVal.isInf then 254 else 0
      | some k => (min (max (k + 127) 0) 254).toNat
    let scale (t : Nat) : Int := (ex : Int) - 127 - t - (b - 1 : Nat)
    let quads := (List.range 4).map fun k => xs.drop (4 * k) |>.take 4
    let sub := quads.map fun q =>
      if quadFits (scale 3) mmax q then 3 else if quadFits (scale 2) mmax q then 2
      else if quadFits (scale 1) mmax q then 1 else 0
    let qs := (List.range 16).map fun i => scale (sub.getD (i / 4) 0)
    let mags := (xs.zip qs).map fun (x, q) => gxMag q mmax x
    let exact := (xs.zip qs).all fun (x, q) => gxExact q mmax x
    (⟨ex, sub, xs.map FVal.neg?, mags⟩,
      (if exact then 0 else fNX) ||| if xs.any FVal.isInf then fOF else 0)

/-- Elements stored into a packed block of a format page (R58), with the flags of the conversion. -/
def gxStore (g : GxT) (blk : Nat) (vals : List (Nat × Nat)) : Nat × FFlags :=
  let k := Block.unpack g.b blk
  let xs := (List.range 16).map fun i =>
    match vals.find? fun p => p.1 == i with
    | some (_, v) => Fmt.f32.decode v
    | none => k.val g.b i
  ((gxEncode g.b xs).1.pack g.b, (gxEncode g.b xs).2)

/-- Magnitude planes of an element type of a planar tile (R59, R60); 0 where the type has no planar
layout. -/
def planes : Type4 → Nat
  | .gx2 => 2 | .gx4 => 4 | .gx7 => 7 | .i8 => 8 | .bf16 => 8 | .f16 => 11 | .f32 => 24 | _ => 0

/-- The block of a planar tile for 16 exact values of a type that is not GX (R60). -/
def planarBlock (t : Type4) (pats : List Nat) : Block :=
  match t with
  | .i8 => ⟨0, List.replicate 4 0, pats.map fun a => decide (128 ≤ a % 256),
      pats.map fun a => (sgn 8 (a % 256)).natAbs⟩
  | _ =>
    let f := match t with
      | .bf16 => Fmt.bf16
      | .f16 => Fmt.f16
      | _ => Fmt.f32
    let off := match t with
      | .f16 => 112
      | _ => 0
    let p := planes t
    let xs := pats.map f.decode
    if xs.any fun x => x.isNan || x.isInf then
      ⟨255, List.replicate 4 0, List.replicate 16 false, List.replicate 16 0⟩
    else
      let exps : List Nat := (pats.zip xs).map fun (a, x) =>
        if x.isZero then 0 else max 1 (a / 2 ^ f.mb % 2 ^ f.eb)
      let ex : Nat := exps.foldl max 0 + off
      let q : Int := (ex : Int) - 127 - (p - 1 : Nat)
      let mag (x : FVal) : Nat := match x with
        | .fin _ m e =>
          let (n, rest) := cutAt m e q false
          if roundsUp .rne false (n % 2 == 1) rest then n + 1 else n
        | _ => 0
      ⟨ex, List.replicate 4 0, xs.map FVal.neg?, xs.map mag⟩

/-- Bytes of a planar tile: exponents, sign plane and magnitude planes (R59). -/
def tileBytes (t : Type4) : Nat := 512 * (2 + planes t)

/-- The magnitude truncated to its first `k` of `p` planes (R61). -/
def truncMag (p k m : Nat) : Nat := m / 2 ^ (p - k) * 2 ^ (p - k)

end Machine

end Sys2Proof
end

