-- ==== Sys2Proof/Machine/Cause.lean ====
section
/-! DEFINITION. The cause codes (R333). -/

namespace Sys2Proof.Machine.Cause

abbrev ILL_ZERO : BitVec 8 := 0x00
abbrev ILL_ONES : BitVec 8 := 0x01
abbrev UNDEF_MAJOR : BitVec 8 := 0x02
abbrev UNDEF_FN : BitVec 8 := 0x03
abbrev RESERVED_FIELD : BitVec 8 := 0x04
abbrev PROFILE_UNDECLARED : BitVec 8 := 0x05
abbrev DECL_XREG : BitVec 8 := 0x06
abbrev DECL_VREG : BitVec 8 := 0x07
abbrev DECL_OTHERREG : BitVec 8 := 0x08
abbrev DECL_BARRIER : BitVec 8 := 0x09
abbrev FETCH_FAULT : BitVec 8 := 0x0A
abbrev LIT_NOT_ALLOWED : BitVec 8 := 0x0B
abbrev SR_ACCESS : BitVec 8 := 0x0C
abbrev TRET_IDLE : BitVec 8 := 0x0D
abbrev SHAPE_MISALIGN : BitVec 8 := 0x10
abbrev SHAPE_STRIDE_WRITE : BitVec 8 := 0x11
abbrev SHAPE_RANK : BitVec 8 := 0x12
abbrev SHAPE_RAGGED_LEN : BitVec 8 := 0x13
abbrev SHAPE_MISMATCH : BitVec 8 := 0x14
abbrev ROW_UNDECLARED : BitVec 8 := 0x15
abbrev PAGE_ABSENT : BitVec 8 := 0x20
abbrev PAGE_READ : BitVec 8 := 0x21
abbrev PAGE_WRITE : BitVec 8 := 0x22
abbrev NULL_WINDOW : BitVec 8 := 0x23
abbrev MISALIGNED : BitVec 8 := 0x24
abbrev FORMAT_ATOMIC : BitVec 8 := 0x25
abbrev EXTENT_NOT_HELD : BitVec 8 := 0x26
abbrev DISCARD_RANGE : BitVec 8 := 0x27
abbrev PTE_INVALID : BitVec 8 := 0x28
abbrev STACK_LIMIT : BitVec 8 := 0x29
abbrev PASID_RETIRED : BitVec 8 := 0x2A
abbrev CARD_FORMAT : BitVec 8 := 0x30
abbrev CARD_FOOTPRINT : BitVec 8 := 0x31
abbrev FUTURE_FOREIGN : BitVec 8 := 0x32
abbrev FUTURE_STALE : BitVec 8 := 0x33
abbrev FUTURE_FULL : BitVec 8 := 0x34
abbrev BAR_OVER : BitVec 8 := 0x40
abbrev BAR_NOT_MEMBER : BitVec 8 := 0x41
abbrev BAR_BYTES_OVER : BitVec 8 := 0x42
abbrev BAR_BUSY : BitVec 8 := 0x43
abbrev RNG_INVALID : BitVec 8 := 0x44
abbrev CTX_JOIN_INVALID : BitVec 8 := 0x50
abbrev DEADLINE_ABORT : BitVec 8 := 0x51
abbrev CTX_ROLE : BitVec 8 := 0x52
abbrev GANG_ROLE : BitVec 8 := 0x53
abbrev POD_STALE : BitVec 8 := 0x60
abbrev POD_DANGLING : BitVec 8 := 0x61
abbrev POD_STORE_FULL : BitVec 8 := 0x62
abbrev POD_REFCOUNT : BitVec 8 := 0x63
abbrev POD_NOT_PORTABLE : BitVec 8 := 0x64
abbrev POD_REF_INVALID : BitVec 8 := 0x65
abbrev POD_TARGET : BitVec 8 := 0x66
abbrev POD_FOREIGN : BitVec 8 := 0x67
abbrev SEG_ATTACH_MISS : BitVec 8 := 0x70
abbrev SEG_ELSEWHERE : BitVec 8 := 0x71
abbrev SEG_UNPUBLISHED : BitVec 8 := 0x72
abbrev SEG_EXCLUSIVE : BitVec 8 := 0x73
abbrev SEG_READ_ONLY : BitVec 8 := 0x74
abbrev SEG_UNKNOWN : BitVec 8 := 0x75
abbrev SEG_NO_ROOM : BitVec 8 := 0x76
abbrev SEG_LIMIT : BitVec 8 := 0x77
abbrev SEG_NAME_TAKEN : BitVec 8 := 0x78
abbrev SEG_DIR_FULL : BitVec 8 := 0x79
abbrev SEG_STATE : BitVec 8 := 0x7A
abbrev SEG_ARG : BitVec 8 := 0x7B
abbrev OWN_NOT_HELD : BitVec 8 := 0x80
abbrev OWN_NOT_KEEPER : BitVec 8 := 0x81
abbrev OFFER_FULL : BitVec 8 := 0x82
abbrev OWN_BAD_TERM : BitVec 8 := 0x83
abbrev OWN_BAD_OID : BitVec 8 := 0x84
abbrev OWN_BAD_NAME : BitVec 8 := 0x85
abbrev OWN_NO_OFFER : BitVec 8 := 0x86
abbrev OWN_MAP_FULL : BitVec 8 := 0x87
abbrev OWN_HOOK_INVALID : BitVec 8 := 0x88
abbrev OWN_DEPTH : BitVec 8 := 0x89
abbrev OWN_NO_HUSK : BitVec 8 := 0x8A
abbrev HUSK_INVALID : BitVec 8 := 0x8B
abbrev BREAK : BitVec 8 := 0x90
abbrev WATCH : BitVec 8 := 0x91
abbrev STEP : BitVec 8 := 0x92
abbrev REPLAY_DIVERGE : BitVec 8 := 0x93
abbrev STOP_TERM : BitVec 8 := 0xA0
abbrev STOP_RECLAIM : BitVec 8 := 0xA1
abbrev STOP_FLR : BitVec 8 := 0xA2
abbrev DOUBLE_FAULT : BitVec 8 := 0xA3
abbrev POWER_EMERGENCY : BitVec 8 := 0xA4
abbrev STOP_HANDOVER : BitVec 8 := 0xA5
abbrev STOP_KEEPER : BitVec 8 := 0xA6
/-- TRAP0 to TRAP15 (R127). -/
abbrev TRAP (n : BitVec 4) : BitVec 8 := 0xB0 + n.setWidth 8

end Sys2Proof.Machine.Cause
end

