-- ==== Sys2Proof/Machine/State.lean ====
section
/-! DEFINITION. The state of the device as plain data, and the state after reset. -/

namespace Sys2Proof.Machine

/-- Why a step can stop with a fault: there is no such reason, since the spec gives every fault of an instruction its
effect (R334, R335), and every access to an address that nothing answers (R327) a cause. -/
inductive Fault where
deriving DecidableEq, Repr

/-- Why a step can be refused. -/
inductive Refusal where
  /-- raised by the dispatch for an instruction that has no meaning yet (safe) -/
  | notModelled (mnemonic : String)
deriving DecidableEq, Repr

/-- State of a context (R18). -/
inductive CtxSt where
  | free | live | ended
deriving DecidableEq, Repr

/-- What a context waits for while its next instruction cannot be performed (R20, R89). `join` keeps
when the join issued (R19); `bar` keeps the barrier, and whether its phase has completed (R168); `fut` keeps the
handle, and once its card has completed the status word, the TVAL and the logical time of COMPLETE (R185, R191); `card`
says that an access waits for a card of the core (R190); `gang` says that the gang.join that
waits has counted (R24), `inbox` that an ibx.take waits for a record (R172), and `done` that a map instruction that waits has
taken its step (R278). -/
inductive Wait where
  | none
  | join (k seq : Nat)
  | bar (b : Nat) (woken : Bool)
  | fut (h : BitVec 16) (res : Option (Word × Word × BitVec 64))
  | card
  | gang
  | done
  | inbox
  | other
deriving DecidableEq, Repr

/-- An external access that waits for an answer: of the host's address translation (R331), or of a peer
(R380). `answer` is none until it comes; then the cause of the fault that it brings, 0 for success. -/
structure ExtWait where
  peer : Bool
  dom : Nat
  va : Word
  since : Nat
  answer : Option (BitVec 8)
deriving DecidableEq, Repr

/-- A barrier event that a context has forwarded to the holding member (R170): on its way, or the answer. -/
inductive BarAns where
  | sent
  | ok (v : Word)
  | bad (cause : BitVec 8) (tval : Word)
deriving DecidableEq, Repr

/-- A shape-form instruction between two of its steps (R72, R74): its records as read at its begin (address, 32
bytes, length table), and the linear progress index of its next step. Of a shp.check (`check`), the records as read so
far and the number of its steps (R154). -/
structure ShapeRun where
  check : Bool
  recs : List (Nat × BitVec 256 × List Nat)
  cur : Nat
deriving DecidableEq, Repr

/-- One context of a core (R31, R38). A register that a table does not list reads 0. -/
structure Ctx where
  st : CtxSt
  /-- no handle names the helper and it frees itself when it ends (R222) -/
  detached : Bool
  pc : Word
  x : Table Word
  m : Table (BitVec 128)
  h : Table (BitVec 16)
  c : Table (BitVec 16)
  rrb : BitVec 4
  trapvec : Word
  epc : Word
  cause : BitVec 8
  tval : Word
  tstep : Bool
  tin : Bool
  stacklim : Word
  fpflags : BitVec 5
  istat : BitVec 3
  /-- dirty bitmap: x0 to x31, v0 to v31, m0 to m7, h0 to h15, c0 to c15 (R37) -/
  dirty : BitVec 104
  /-- end value (R18) -/
  endv : Word
  wait : Wait
  /-- logical clock (R249) -/
  pts : BitVec 64
  /-- marks per barrier (R166) -/
  pend : BitVec 48
  aph : BitVec 48
  dropped : BitVec 48
  /-- registers, as in the dirty bitmap, that a global load has not returned yet (R105) -/
  loading : BitVec 104
  /-- a global store whose timestamp has not returned (R249) -/
  storing : Bool
  /-- an external access not yet acknowledged at its home (R163) -/
  extOut : Bool
  /-- an external access of the next instruction that waits for its answer -/
  ext : Option ExtWait
  /-- logical time of its last fence.imem (R162) -/
  ifence : BitVec 64
  /-- a forwarded barrier event of the next instruction -/
  bans : Option BarAns
  /-- the next instruction is a shape-form instruction that has taken a step -/
  shape : Option ShapeRun
deriving DecidableEq, Repr

/-- A context that is FREE and holds nothing. -/
def Ctx.empty : Ctx :=
  { st := .free, detached := false, pc := 0, x := [], m := [], h := [], c := [], rrb := 0, trapvec := 0,
    epc := 0, cause := 0, tval := 0, tstep := false, tin := false, stacklim := 0, fpflags := 0, istat := 0,
    dirty := 0, endv := 0, wait := .none, pts := 0, pend := 0, aph := 0, dropped := 0, loading := 0,
    storing := false, extOut := false, ext := none, ifence := 0, bans := none, shape := none }

/-- A barrier (R166). `link` is LINK, the mask of the link that last formed on the core (R267, log 93); `mem` are the
members of the link that the core is in, 0 for none, and `want` the mask that this core has given and that has not formed
yet (R170). -/
structure Barrier where
  exp : BitVec 8
  arr : BitVec 8
  drops : BitVec 8
  bexp : BitVec 32
  barr : BitVec 32
  phase : Bool
  link : BitVec 16
  mem : BitVec 16
  want : BitVec 16
  /-- timestamp of its last event (R170, R249) -/
  ts : BitVec 64
deriving DecidableEq, Repr

def Barrier.zero : Barrier :=
  { exp := 0, arr := 0, drops := 0, bexp := 0, barr := 0, phase := false, link := 0, mem := 0, want := 0, ts := 0 }

/-- An attachment of a named segment (R235, R240). `void` says that it no longer reaches the rows. -/
structure Attach where
  name : Word
  /-- read-write -/
  rw : Bool
  version : BitVec 32
  void : Bool
  /-- the rows as they stood at the attach -/
  base : Nat
  count : Nat
  /-- number of the entry that counts it, none where the entry was evicted; the model's own -/
  seg : Option Nat
deriving DecidableEq, Repr

/-- State of a segment (R231, R237). A dropped segment stays listed while an attachment is held. -/
inductive SegSt where
  | making | resident | evicted | dropped
deriving DecidableEq, Repr

/-- An entry of a segment directory (R231). -/
structure Seg where
  /-- a number that no other entry has; the model's own -/
  no : Nat
  name : Word
  dom : Nat
  core : Nat
  base : Nat
  count : Nat
  ver : BitVec 32
  st : SegSt
  home : Word
  /-- 0 TASK, 1 LAUNCH, 2 DOMAIN, 3 TERM -/
  cls : Nat
  term : Word
  ro : Nat
  wr : Bool
  dirty : Bool
  evp : Bool
  drp : Bool
  /-- number of the task that made it (`Core.taskNo`), until that task ends, and the arrival number of the making launch -/
  maker : Option Nat
  launch : Option Nat
  /-- timestamp of its last step (R236) -/
  ts : BitVec 64
deriving DecidableEq, Repr

/-- A future entry (R183). The status word is kept by its fields. -/
structure Future where
  used : Bool
  gen : BitVec 9
  complete : Bool
  cancelled : Bool
  narrow : Bool
  pqfull : Bool
  cause : BitVec 8
  tval : Word
  poster : Nat
  /-- timestamp of COMPLETE (R191, R257) -/
  pts : BitVec 64
deriving DecidableEq, Repr

def Future.zero : Future :=
  { used := false, gen := 0, complete := false, cancelled := false, narrow := false, pqfull := false,
    cause := 0, tval := 0, poster := 0, pts := 0 }

/-- A posted card (R179, R184, R212). -/
structure Card where
  /-- its 64 bytes, little-endian -/
  bytes : BitVec 512
  /-- its future entry -/
  slot : Nat
  poster : Nat
  /-- place in the post order of the core -/
  seq : Nat
  /-- the shape record and the length table read at the post -/
  record : BitVec 256
  lens : List Nat
  running : Bool
  /-- units completed -/
  cursor : Nat
  /-- landed bytes whose credit waits for a link to form (R389) -/
  owed : Nat
  /-- no unit is left -/
  finished : Bool
  /-- stopped by fcancel -/
  cancelled : Bool
  /-- some unit ran on 32 columns; some unit was begun (R202) -/
  narrow : Bool
  began : Bool
  /-- the fault that stopped it (R211) -/
  fault : Option (BitVec 8 × Word)
  /-- logical clock (R257) -/
  pts : BitVec 64
  /-- an access of its next unit that waits for the host's translation (R331) -/
  ext : Option ExtWait
deriving DecidableEq, Repr

/-- A B buffer: the type code of what loadB filled it with, 15 where nothing has, and its bytes as
loadB read them (R196). -/
structure BBuf where
  ty : Nat
  data : Memory
deriving DecidableEq, Repr

/-- A pod slot (R215 to R217). `row` is the first of its rows in the pod store. -/
structure PodSlot where
  used : Bool
  gen : BitVec 10
  row : Nat
deriving DecidableEq, Repr

/-- An apply that waits for a helper (R222), with the STACKLIM and TRAPVEC that the helper takes. `data`
holds x4 to x7 where a notice lands them (R289). -/
structure Apply where
  handle : BitVec 16
  stacklim : Word
  trapvec : Word
  data : List Word
deriving DecidableEq, Repr

/-- What a pod slot captures (R218, R219): ENTRY, the x registers by XMASK, and the v registers by VMASK. -/
structure Cap where
  entry : Word
  xmask : Nat
  xs : List Word
  vmask : Nat
  vs : List Nat
deriving DecidableEq, Repr
/-- An entry of the apply queue: the apply, the captures as they were read when it entered, and whether it entered while the
core's task or pod message ran (R222). -/
structure QApply where
  apply : Apply
  cap : Cap
  own : Bool
deriving DecidableEq, Repr

/-- An inbox record (R13, R225): the eight words of a task record, or of a pod message. `gang` is the number of the gang
whose member the record installs (R312), 0 for none; the model's own. -/
structure Msg where
  kind : Bool
  words : List Word
  gang : Nat
  /-- timestamp of the record's step (R225, R310) -/
  pts : BitVec 64
deriving DecidableEq, Repr

/-- HSTAT.STATE (R338). -/
inductive HState where
  | running | stopping | writing | valid | void | resuming
deriving DecidableEq, Repr

/-- What a router carries (R341): a forwarded barrier event, an inbox record, a gang forward with the bytes of the
instruction and the PC at which its leader goes on (R22), or the fields of a barrier handed over (R389). -/
inductive Packet where
  | bar (b : Nat) (src ctx fn : Nat) (n : Word)
  | inbox (src : Nat) (m : Msg)
  | fwd (src : Nat) (bs : List Byte) (pc : Word)
  | handover (b : Nat) (v : Barrier)
deriving DecidableEq, Repr

/-- What waits for the end of a stop: an accept, by the core and context that execute it or by the hardware
(R273, R280); a reclaim, with the lender (R285); the clear of a retirement (R291), each with the core's name; a
function-level reset of an OID (R350). -/
inductive StopEnd where
  | accept (who : Option (Nat × Nat)) (name : Word)
  | reclaim (name : Word) (lender : Nat)
  | clear (name : Word)
  | flr (oid : Nat)
deriving DecidableEq, Repr

/-- A synchronised stop in progress (R339 to R342, R349). -/
structure Stop where
  cause : BitVec 8
  /-- the stop tick -/
  tick : Nat
  /-- HOLDER at the stop tick (R344); no husk is to be written (R350) -/
  holder : Nat
  noHusk : Bool
  /-- the tick has been reached; the core has quiesced; the flush token has passed -/
  ticked : Bool
  quiet : Bool
  flushed : Bool
  /-- name of the husk region, 0 for none, and the OID that named it -/
  region : Word
  namer : Nat
  /-- first byte of the husk, and the bytes still to be written -/
  base : Nat
  todo : List (Nat × List Byte)
  /-- packets of the core in the routers' save buffers, with their destinations, and how many have been drained
  (R341) -/
  saved : List (Nat × Packet)
  drained : Nat
  /-- the husk has been written, or none will be -/
  finished : Bool
  ends : List StopEnd
deriving DecidableEq, Repr

/-- What the stop sequencer keeps of a husk beside the bytes that R343 gives a place: of the core and stop tick that the
husk names, which sections were written (R342), the records and packets that they hold, and what a resume also restores.
The model's own, log 10. -/
structure HuskNote where
  core : Nat
  tick : Word
  sects : List Nat
  /-- gang of each inbox record -/
  msgs : List Nat
  packets : Nat
  podMsg : Bool
  installed : Bool
  gfollowed : Bool
  gangId : Nat
  taskNo : Nat
  /-- of each context: detached (R222), waiting in a counted gang.join (R24), and the answer it awaits (R170) -/
  ctxs : List (Bool × Bool × Option BarAns)
  /-- timestamps of the barriers (R170) -/
  bars : List (BitVec 64)
  /-- rows and entry of each attachment (R244) -/
  atts : List (Nat × Nat × Option Nat)
  /-- TVAL of each future entry (R183) -/
  futs : List Word
  /-- captures of each entry of the apply queue (R222) -/
  queued : List QApply
  /-- the core ran the verified image (R381) -/
  image : Bool
deriving DecidableEq, Repr

/-- A line of the instruction buffer, with the timestamp of the read that filled it (R162). -/
structure ILine where
  dom : Nat
  va : Nat
  data : List Byte
  ts : BitVec 64
deriving DecidableEq, Repr

/-- One core (R6, R31, R38, R338). -/
structure Core where
  ctxs : Table Ctx
  /-- the context that issued last (R20) -/
  last : Nat
  /-- pool rows 0 to 1,535, 128 bytes each (R34); a byte that is not listed reads 0 (R246) -/
  pool : Memory
  /-- generation of each row (R259) -/
  rowGen : Table (BitVec 32)
  /-- rows written since their last bump (R346) -/
  written : BitVec 1536
  wid : Word
  partw : Word
  decla : Word
  declb : Word
  domain : BitVec 12
  prof : BitVec 16
  deadline : Word
  flags : Word
  ctarget : Word
  /-- a task is installed and has not reached task.end (R172) -/
  task : Bool
  /-- a pod message is running (R226) -/
  podMsg : Bool
  /-- an install has been made since the last reset or clear (R227) -/
  installed : Bool
  /-- number of the task that is installed, and of its gang; the model's own -/
  taskNo : Nat
  gangId : Nat
  loopRet : Word
  mxsat : Bool
  mxnarrow : Bool
  cnt : Table (BitVec 48)
  evsel : Table Word
  /-- counters that were written, or whose selects were, in the cycle under way, with the selects under which they count its
  events, 0 for none of them (R366) -/
  evcyc : Table Word
  /-- resumed, and nothing has issued since: the counters stand (R361) -/
  uncounted : Bool
  jcount : BitVec 32
  amask : BitVec 16
  gleft : Bool
  gformed : Bool
  gattached : Bool
  gfollowed : Bool
  bars : Table Barrier
  attach : List Attach
  futs : Table Future
  mxRing : List Card
  cpRing : List Card
  bbufs : Table BBuf
  pods : Table PodSlot
  applyQ : List QApply
  inbox : List Msg
  tmax : Word
  kcause : BitVec 8
  kepc : Word
  ktval : Word
  ktick : Word
  khusk : Word
  /-- the OID that wrote KHUSK (R342) -/
  khuskBy : Nat
  kresume : Word
  waddr : Word
  wctl : Word
  kpts : BitVec 64
  /-- completed cards that named global ranges, which later cards may have to follow (R189) -/
  past : List Card
  /-- latest logical time of an access of a context to each line of global virtual addresses, which later cards on it follow
  (R190) -/
  touched : Table (BitVec 64)
  hstat : HState
  /-- class of the husk of the last stop (R346) -/
  hclass : Nat
  /-- blocks of 128 bytes written by the last save (R338) -/
  hblocks : Nat
  stop : Option Stop
  /-- packets that wait at the core's router (R341) -/
  held : List Packet
  /-- tick of the write of KRESUME that a resume follows (R347, R348) -/
  resumeAt : Nat
  /-- clock step, 600, 720, 840 or 960 MHz (R319), and 600 times the part of a cycle that has passed -/
  clk : Nat
  frac : Nat
  /-- clock gated (R318) -/
  gated : Bool
  /-- it runs the verified image, and not its resident loop (R381) -/
  image : Bool
  /-- lines of the instruction buffer, by domain and virtual line (R162) -/
  ibuf : List ILine
  /-- rows waiting in the write buffers of banks 0 to 2, oldest first (R68) -/
  wbuf : List (List Nat)
  /-- cycles that an engine has waited for a bank: matrix banks 0 to 2, then copy banks 0 to 2 (R69) -/
  engWait : Table Nat
deriving DecidableEq, Repr

/-- A core that a table does not list: at the start of its resident loop, nothing written, clock at the nominal step
(R2, R381). -/
def Core.empty : Core :=
  { ctxs := [(0, { Ctx.empty with st := .live })], last := 0, pool := [], rowGen := [], written := 0, wid := 0, partw := 0, decla := 0, declb := 0,
    domain := 0, prof := 0, deadline := 0, flags := 0, ctarget := 0, task := false, podMsg := false,
    installed := false, taskNo := 0, gangId := 0, loopRet := 0, mxsat := false, mxnarrow := false, cnt := [], evsel := [], evcyc := [], uncounted := false, jcount := 0,
    amask := 0, gleft := false, gformed := false, gattached := false, gfollowed := false, bars := [], attach := [],
    futs := [], mxRing := [], cpRing := [], bbufs := [], pods := [], applyQ := [], inbox := [], tmax := 0,
    kcause := 0, kepc := 0, ktval := 0, ktick := 0, khusk := 0, khuskBy := 0, kresume := 0, waddr := 0, wctl := 0, kpts := 0, past := [], touched := [],
    hstat := .running, hclass := 0, hblocks := 0, stop := none, held := [], resumeAt := 0, clk := 600, frac := 0, gated := false, image := false, ibuf := [],
    wbuf := [], engWait := [] }

/-- One level of lending (R274). -/
structure Loan where
  lender : Nat
  borrower : Nat
  term : Word
  grace : BitVec 32
  rc : Bool
  recalled : Bool
  rdl : Word
  due : Bool
  husk : Word
  /-- TERM_NEAR has been sent (R277) -/
  near : Bool
deriving DecidableEq, Repr

/-- A pending offer (R274). -/
structure Offer where
  target : Nat
  lend : Bool
  clr : Bool
  term : Word
  grace : BitVec 32
  rc : Bool
  husk : Word
  /-- units of the resources that the offers named, first and end: an entry that has been merged may bear several (R272,
  R280); the model's own -/
  spans : List (Nat × Nat)
deriving DecidableEq, Repr

/-- An entry of the ownership map (R274): the resources `lo` to `hi - 1` of a class. Class and units:
0 cores by CORE value; 1 bytes of device physical memory; 3 pool rows of the core `aux`; 4 domains;
5 queues; 6 counters by core and index; 7 shared counters by die and index; 8 buckets; 9 links;
10 OID blocks. -/
structure Entry where
  cls : Nat
  aux : Nat
  lo : Nat
  hi : Nat
  owner : Nat
  /-- outermost loan first -/
  loans : List Loan
  /-- STATE is RECALLING while no offer is pending (R277) -/
  recalling : Bool
  offer : Option Offer
  gen : BitVec 8
  xid : BitVec 24
  /-- timestamp of its last step (R276) -/
  ts : BitVec 64
deriving DecidableEq, Repr

/-- A live minted OID (R273, R292). -/
structure Oid where
  sponsor : Nat
  /-- tick since which it has been idle -/
  idle : Option Nat
deriving DecidableEq, Repr

/-- A notice on its way or waiting in the map (R289). -/
structure Notice where
  oid : Nat
  kind : Nat
  res : Word
  data : List Word
deriving DecidableEq, Repr

/-- A hook (R288). -/
structure Hook where
  oid : Nat
  kind : Nat
  core : Nat
  handle : BitVec 16
deriving DecidableEq, Repr

/-- A domain (R322, R331, R97, R386). -/
structure Domain where
  root : Word
  enable : Bool
  pasid : BitVec 20
  /-- 0 NONE, 1 ACTIVE, 2 RETIRING -/
  pstate : Nat
  toff : Word
  tgen : BitVec 16
  dropped : Word
  /-- translation requests outstanding at the host for the PASID, those left of retired ones, and when RETIRING was
  entered -/
  atsOut : Nat
  atsOld : Nat
  retireAt : Nat
  ldObj : Word
  ldSize : Word
  ldStatus : BitVec 16
  ldSeq : BitVec 32
  logBase : Word
  logLen : Word
  logMode : BitVec 2
  /-- number of the log that the last store to BASE began (R386); the model's own -/
  logNo : Nat
deriving DecidableEq, Repr

def Domain.zero : Domain :=
  { root := 0, enable := false, pasid := 0, pstate := 0, toff := 0, tgen := 0, dropped := 0, atsOut := 0,
    atsOld := 0, retireAt := 0, ldObj := 0, ldSize := 0, ldStatus := 0, ldSeq := 0, logBase := 0, logLen := 0, logMode := 0,
    logNo := 0 }

/-- A cached translation of a cluster, or of one of its cores (R329). -/
structure Tlb where
  cluster : Nat
  core : Option Nat
  dom : Nat
  va : Nat
  size : Nat
  pte : BitVec 128
  tgen : BitVec 16
  /-- logical time at which its entries were read (R325) -/
  ts : BitVec 64
deriving DecidableEq, Repr

/-- A cached non-leaf entry of a die (R329). -/
structure WalkEntry where
  die : Nat
  dom : Nat
  addr : Nat
  pte : BitVec 128
  tgen : BitVec 16
  /-- GEN of the extent of its table -/
  egen : BitVec 8
  /-- logical time at which it was read (R325) -/
  ts : BitVec 64
deriving DecidableEq, Repr

/-- Timestamps of a line at its home (R249), and the cluster that holds a write lease (R160). -/
structure LineTs where
  wts : BitVec 64
  rts : BitVec 64
  lease : Option Nat
deriving DecidableEq, Repr

def LineTs.zero : LineTs := { wts := 0, rts := 0, lease := none }

/-- A read copy of a line in a cluster cache (R249). -/
structure Copy where
  cluster : Nat
  line : Nat
  data : List Byte
  wts : BitVec 64
  rts : BitVec 64
  fill : Nat
deriving DecidableEq, Repr

/-- A shared counter of a die (R356, R362). -/
structure Shared where
  count : BitVec 48
  ev : BitVec 8
  snap : BitVec 48
  /-- written, or its select was, in the cycle under way: the event whose occurrences it counts in that cycle, 0 for none
  (R366) -/
  cyc : Option (BitVec 8)
deriving DecidableEq, Repr

def Shared.zero : Shared := { count := 0, ev := 0, snap := 0, cyc := none }

/-- A status word, or the sum of some, at a node of the completion tree (R29, R30, R317). -/
structure TreeWord where
  slot : Nat
  node : Nat
  completed : Nat
  late : Nat
  faulted : Nat
  flags : Word
  /-- logical time of the last commit in it, and the tick at which it came to the node (R317) -/
  pts : BitVec 64
  since : Nat
deriving DecidableEq, Repr

/-- A completion record that has been written: the completion slot, the tick, and its logical time (R375, R376). -/
structure Written where
  slot : Nat
  tick : Nat
  pts : BitVec 64
deriving DecidableEq, Repr

/-- A launch that holds a launch slot: its record, its install block and the sums at the root (R14, R299,
R304, R317). -/
structure Launch where
  entry : Word
  args : Word
  deadline : Word
  partw : Word
  seghint : Word
  /-- widths and counts of the fields 0 to 5 (R10) -/
  widths : List Nat
  counts : List Nat
  cq : Nat
  tag : BitVec 32
  lflags : Word
  prio : Nat
  /-- footprints: base, length, stride (R301) -/
  fps : List (Word × Nat × Word)
  domain : Nat
  decla : Word
  declb : Word
  prof : BitVec 16
  /-- address and size of the .scratch image -/
  scratch : Word
  scratchLen : Nat
  /-- number of tasks, and the next spawn position to expand (R10) -/
  total : Nat
  next : Nat
  /-- die of each launch, gang or group chosen so far (R305), and the cluster of the last task of each group (R311) -/
  dies : Table Nat
  last : Table Nat
  status : Nat
  invcode : Nat
  completed : Nat
  late : Nat
  faulted : Nat
  flags : Word
  /-- order of arrival -/
  seq : Nat
  /-- record and replay (R386 to R388): 0 off, 1 record, 2 replay; log base, length and number -/
  logMode : Nat
  logBase : Word
  logLen : Nat
  logNo : Nat
  /-- entries of each core so far: the next sequence number (R387) -/
  logSeq : Table Nat
  /-- timestamp of the spawn or of the record read that made it (R174, R374), and, with footprints, of its retired
  tasks (R309) -/
  pts : BitVec 64
  /-- logical time of the last status word counted (R317) -/
  cpts : BitVec 64
  /-- place in the order of completion (R375), once every task has counted -/
  doneAt : Option Nat
  /-- its completion record, once it is written and before TAIL has advanced -/
  wrote : Option Written
deriving DecidableEq, Repr

/-- State of a pool node (R306). -/
inductive NodeSt where
  | waiting | ready | dispatched
deriving DecidableEq, Repr

/-- A node of a task pool (R306). -/
structure PoolNode where
  id : Nat
  die : Nat
  slot : Nat
  /-- spawn position -/
  pos : Nat
  st : NodeSt
  /-- predecessors not yet retired -/
  edges : List Nat
  readyAt : Nat
  core : Nat
  /-- its status word has been committed, and whether it counted as completed -/
  ended : Option Bool
  /-- timestamp that its accesses follow, and once it has ended that of its commit (R309) -/
  pts : BitVec 64
deriving DecidableEq, Repr

/-- A launch record of task.spawn in a die's spawn queue (R174, R304). -/
structure Spawn where
  bytes : List Byte
  prio : Nat
  domain : Nat
  core : Nat
  pts : BitVec 64
deriving DecidableEq, Repr

/-- A bucket (R315). -/
structure Bucket where
  rate : BitVec 32
  depth : BitVec 32
  level : BitVec 64
  dom : BitVec 12
  enable : Bool
  /-- tokens used and not yet charged (R316); the model's own -/
  due : Nat
deriving DecidableEq, Repr

def Bucket.zero : Bucket := { rate := 0, depth := 0, level := 0, dom := 0, enable := false, due := 0 }

/-- A queue slot (R372), with P and t0 of R376. -/
structure QSlot where
  ring : Word
  logn : BitVec 8
  completion : Bool
  enable : Bool
  func : BitVec 8
  fidx : BitVec 8
  queue : BitVec 16
  dom : BitVec 16
  head : BitVec 32
  tail : BitVec 32
  vec : BitVec 16
  holdoff : BitVec 16
  thresh : BitVec 16
  err : Bool
  stopped : Bool
  full : Bool
  /-- records written since the last signal, and the tick of the oldest -/
  p : Nat
  t0 : Nat
deriving DecidableEq, Repr

def QSlot.zero : QSlot :=
  { ring := 0, logn := 0, completion := false, enable := false, func := 0, fidx := 0, queue := 0, dom := 0, head := 0,
    tail := 0, vec := 0, holdoff := 0, thresh := 0, err := false, stopped := false, full := false, p := 0, t0 := 0 }

/-- A function entry (R371). -/
structure Func where
  oid : BitVec 16
  wdom : BitVec 12
  wva : Word
deriving DecidableEq, Repr

def Func.zero : Func := { oid := 0, wdom := 0, wva := 0 }

/-- An MSI-X vector: the address and data of its message, its mask and its pending bit (R370, R376). -/
structure Vec where
  addr : Word
  data : BitVec 32
  masked : Bool
  pending : Bool
deriving DecidableEq, Repr

/-- A vector that the host has not written: masked, as PCI Express resets it. PRESUMED, log 82. -/
def Vec.zero : Vec := { addr := 0, data := 0, masked := true, pending := false }

/-- What the device sends to the host and to peers (R376, R377, R380). -/
inductive Sent where
  | msix (f vec : Nat)
  | readData (bs : List Byte)
  | unsupported
  | peerData (port : Nat) (bs : List Byte)
  | peerError (port : Nat)
deriving DecidableEq, Repr

/-- A range unit (R25, R175). `launch` is the arrival number of the launch whose task opened it. -/
structure Range where
  used : Bool
  total : Nat
  min : Nat
  parts : Nat
  rem : Nat
  gen : BitVec 16
  launch : Option Nat
deriving DecidableEq, Repr

def Range.zero : Range := { used := false, total := 0, min := 0, parts := 0, rem := 0, gen := 0, launch := none }

/-- A symbol that an object binds for its domain (R95, R98). -/
structure Sym where
  name : List Byte
  weak : Bool
  value : Word
  size : Nat
  body : List Byte
  hash : Word
deriving DecidableEq, Repr

/-- An entry of a bound object (R95, R97). -/
structure EntryPt where
  addr : Word
  decla : Word
  declb : Word
deriving DecidableEq, Repr

/-- A bound code object (R96, R97). -/
structure Obj where
  dom : Nat
  base : Word
  size : Nat
  prof : BitVec 16
  entries : List EntryPt
  scratch : Word
  scratchLen : Nat
deriving DecidableEq, Repr

/-- An external write on its way to its home: the context that made it, the arrival number of the launch of its task, the
first byte, and the bytes (R255, R256). -/
structure ExtWrite where
  core : Nat
  ctx : Nat
  launch : Option Nat
  pa : Nat
  bs : List Byte
deriving DecidableEq, Repr

/-- The device. -/
structure State where
  cores : Table Core
  /-- the core and the context that execute -/
  cur : Nat
  ctx : Nat
  /-- turns that come before the free schedule; the model's own -/
  agenda : List Turn
  /-- counter of free values; the model's own -/
  n : Nat
  /-- fabric time (R2) -/
  fabric : Word
  /-- how many multiples of 64, 1,024, 1,024 and 2^20 ticks the periodic events have been made for (R249, R316, R319,
  R362) -/
  pts64 : Nat
  refills : Nat
  powers : Nat
  snaps : Nat
  /-- device physical memory (R327) -/
  mem : Memory
  lines : Table LineTs
  copies : List Copy
  tlb : List Tlb
  walks : List WalkEntry
  /-- lines that the translations of this transition rest on, and the latest logical time at which they were read: the
  accesses that they serve come after it, and before the next write of those lines (R325, R329) -/
  walked : List Nat
  walkTs : BitVec 64
  /-- device memory whose lines are stored compressed, as first bytes and ends: pages of leaves with CMP (R332) -/
  cmp : List (Nat × Nat)
  /-- sectors of such a line, 0 where none has been taken yet, and the lines whose size a die's metadata cache holds, newest
  first (R332) -/
  csize : Table Nat
  cmeta : List Nat
  /-- the endowment has been made (R385) -/
  endowed : Bool
  entries : List Entry
  oids : Table Oid
  notices : List Notice
  /-- overflow notices that have not taken their step at the map, with the ticks of their carries, oldest first (R366) -/
  ovf : List (Nat × Notice)
  hooks : List Hook
  domains : Table Domain
  shared : Table Shared
  buckets : Table Bucket
  qslots : Table QSlot
  /-- the queue slot at which the fetcher's round robin stands (R374) -/
  qnext : Nat
  funcs : Table Func
  /-- vectors by function and number; one that is not listed is masked -/
  vecs : Table Vec
  sent : List Sent
  /-- AtomicOp Requester Enable of function 0 (R369) -/
  atomicOps : Bool
  /-- MBPEND and the mailbox page (R371) -/
  mbpend : Bool
  mailbox : Memory
  /-- nonce at 0, report at 0x100, and whether a report is being written (R384) -/
  attest : Memory
  attesting : Bool
  /-- digest of the verified image (R382, R384) -/
  digest : List Byte
  /-- stage of R381; in recovery (R383) -/
  stage : Nat
  recovery : Bool
  /-- the power alarm (R202, R319) -/
  alarm : Bool
  /-- logical time of the last step of an outside agent on device memory: they enter the order as they are delivered
  (R256) -/
  outPts : BitVec 64
  /-- external writes of contexts that have not taken effect at their homes yet, oldest first (R255) -/
  extw : List ExtWrite
  /-- position and FULL of the logs, by domain and number (R387) -/
  logs : Table (Nat × Bool)
  /-- range units by die and number -/
  ranges : Table Range
  /-- bound objects, and the symbols that each domain defines (R97, R98) -/
  objs : List Obj
  syms : Table (List Sym)
  /-- packets on their way, with their destinations, oldest first: barrier events to the holding member (R170), pod
  messages (R225) and gang forwards (R22) -/
  barq : List (Nat × Packet)
  /-- status words on their way up the completion tree -/
  words : List TreeWord
  segs : List Seg
  /-- time of the last step on a name of a domain of which no entry is listed (R236) -/
  names : List ((Nat × Word) × BitVec 64)
  husks : List HuskNote
  slots : Table Launch
  pool : List PoolNode
  spawns : Table (List Spawn)
  /-- drained cluster of a die, and the pool node of the gang it waits for (R313) -/
  drains : Table (Nat × Nat)
  /-- by die, the arrival number from which expansion serves the next launch (R304) -/
  expandRr : Table Nat
  /-- by die, the tick in which its pool last acted and how far it came in it (R307) -/
  pools : Table (Nat × Nat)
  /-- node numbers, arrival and completion order so far -/
  serial : Nat
deriving DecidableEq, Repr

/-- The device at power-on (R381): stage 1, fabric time 0, the boot ROM on core 8.0.0. Every resource is
FREE until the endowment (R385). The values the spec does not give are zero, log 1. -/
def State.reset : State :=
  { cores := [], cur := 8192, ctx := 0, agenda := [], n := 0, fabric := 0, pts64 := 0, refills := 0, powers := 0, snaps := 0, mem := [], lines := [], copies := [], tlb := [],
    walks := [], walked := [], walkTs := 0, cmp := [], csize := [], cmeta := [], endowed := false, entries := [], oids := [], notices := [], ovf := [], hooks := [], domains := [], shared := [],
    buckets := [], qslots := [], qnext := 0, funcs := [], vecs := [], sent := [], atomicOps := false, mbpend := false, mailbox := [],
    attest := [], attesting := false, digest := [], stage := 1, recovery := false, alarm := false, outPts := 0, extw := [], logs := [], ranges := [], objs := [],
    syms := [], barq := [], words := [], segs := [], names := [], husks := [], slots := [], pool := [], spawns := [], drains := [], expandRr := [], pools := [], serial := 0 }

end Sys2Proof.Machine
end

