-- ==== Sys2Proof/Machine/Map.lean ====
section
/-! DEFINITION. Reading the ownership map (R271 to R275, R327): resource names, the entries that cover
a resource, who holds it, and whether a backing may be reached. -/

namespace Sys2Proof.Machine

/-- Does the device have a core of this CORE value (R1)? Dies 0 to 7 hold 64 clusters of 16 compute
cores; die 8 holds the firmware cores 8.0.0 to 8.0.7. -/
def coreExists (k : Nat) : Bool := k < 8192 || (8192 ≤ k && k < 8200)
/-- A firmware core (R85). -/
def isFirmware (k : Nat) : Bool := decide (8192 ≤ k)
def dieOf (k : Nat) : Nat := k / 1024
/-- The cluster of a core, over all dies. -/
def clusterOf (k : Nat) : Nat := k / 16

/-- Class codes of `Entry.cls`. -/
def cCore : Nat := 0
def cMem : Nat := 1
def cRows : Nat := 3
def cDomain : Nat := 4
def cQueue : Nat := 5
def cCounter : Nat := 6
def cShared : Nat := 7
def cBucket : Nat := 8
def cLink : Nat := 9
def cOid : Nat := 10

/-- The windows of R327 that an extent can name: first byte, end, extent id. -/
def hbmEnd : Nat := 0x59682F0000
def windows : List (Nat × Nat × Nat) :=
  [(0, hbmEnd, 1), (0x100000000000, 0x200000000000, 2), (0x200000000000, 0x300000000000, 3)] ++
    (List.range 12).map fun p => (0x400000000000 + p * 2 ^ 40, 0x400000000000 + (p + 1) * 2 ^ 40, 16 + p)

/-- First byte and end of the control space (R327). -/
def ctlBase : Nat := 0xF000000000
def ctlEnd : Nat := 0xF000120000

/-- What a valid name names: class, auxiliary core, first unit and end (R271, R272). -/
structure Res where
  cls : Nat
  aux : Nat
  lo : Nat
  hi : Nat
deriving DecidableEq, Repr

/-- A single resource. -/
def Res.one (cls i : Nat) : Option Res := some ⟨cls, 0, i, i + 1⟩

/-- The window that holds all of the bytes, if there is one. -/
def windowOf (lo hi : Nat) : Option (Nat × Nat × Nat) :=
  windows.find? fun w => w.1 ≤ lo && hi ≤ w.2.1

/-- Do the bytes lie within one memory target (R272)? The control space is one, with no entry in the map. -/
def inTarget (lo hi : Nat) : Bool := (windowOf lo hi).isSome || (decide (ctlBase ≤ lo) && decide (hi ≤ ctlEnd))

/-- A name read by R271; none where R272 calls it invalid. -/
def Res.ofName (nm : Word) : Option Res :=
  let k := (nm.extractLsb' 60 4).toNat
  let v := (nm.extractLsb' 0 60).toNat
  match k with
  | 0 => if v < 2 ^ 14 && coreExists v then Res.one cCore v else none
  | 1 =>
    let lo := v / 2 ^ 24 * 64
    let hi := lo + (v % 2 ^ 24 + 1) * 64
    if inTarget lo hi then some ⟨cMem, 0, lo, hi⟩ else none
  | 2 =>
    let lo := v / 2 ^ 24 * 2 ^ 21
    let hi := lo + (v % 2 ^ 24 + 1) * 2 ^ 21
    if inTarget lo hi then some ⟨cMem, 0, lo, hi⟩ else none
  | 3 =>
    let core := v / 2 ^ 22
    let row := v / 2 ^ 11 % 2 ^ 11
    let cnt := v % 2 ^ 11
    if v < 2 ^ 36 && coreExists core && 1 ≤ cnt && row + cnt ≤ 1536 then some ⟨cRows, core, row, row + cnt⟩
    else none
  | 4 => if v < 4096 then Res.one cDomain v else none
  | 5 => if v < 65536 then Res.one cQueue v else none
  | 6 =>
    if 2 ^ 21 ≤ v then none
    else if v < 2 ^ 20 then
      if coreExists (v / 16) then Res.one cCounter v else none
    else
      let w := v % 2 ^ 20
      let die := w / 2 ^ 14
      if w / 16 % 2 ^ 10 = 0 && w % 16 < 8 && die ≤ 8 then Res.one cShared (die * 16 + w % 16) else none
  | 7 => if v < 4096 then Res.one cBucket v else none
  | 8 => if v < 12 then Res.one cLink v else none
  | 9 => if v < 256 then Res.one cOid v else none
  | _ => none

/-- Does the name have an extent kind (R272)? -/
def Res.isExtent (r : Res) : Bool := r.cls == cMem || r.cls == cRows

/-- The holder: the innermost borrower, or the outright holder (R274). -/
def Entry.holder (e : Entry) : Nat :=
  match e.loans.getLast? with
  | some l => l.borrower
  | none => e.owner
/-- Is some loan due, so that the holder's use has ended (R284)? -/
def Entry.ended (e : Entry) : Bool := e.loans.any Loan.due
/-- The keepers of a core: its holder and the lender of each loan (R274). -/
def Entry.keepers (e : Entry) : List Nat := e.holder :: e.loans.map Loan.lender
/-- STATE of the entry (R274, R277): RECALLING from the recall of a loan to the transition that leaves it. DEDUCED, log
30. -/
def Entry.state (e : Entry) : Nat :=
  if e.holder = 0xFFFF then 6
  else match e.offer with
    | some o => if o.lend then 4 else 2
    | none =>
      if e.recalling && !e.loans.isEmpty then 5
      else if e.loans.isEmpty then (if e.owner = 0 then 0 else 1) else 3

/-- Extent id of a window byte (R327). -/
def xidOf (a : Nat) : BitVec 24 :=
  match windows.find? fun w => w.1 ≤ a && a < w.2.1 with
  | some w => BitVec.ofNat 24 w.2.2
  | none => 0

/-- An entry that the table does not list: HELD by the seed owner at GEN 0 after the endowment (R385),
FREE before it. The control space lies outside every entry (R274). -/
def Entry.dflt (endowed : Bool) (cls aux lo hi : Nat) : Entry :=
  { cls := cls, aux := aux, lo := lo, hi := hi, owner := if endowed && !(cls == cMem && (windowOf lo hi).isNone) then 1 else 0, loans := [], offer := none,
    recalling := false, gen := 0, xid := if cls = cMem then xidOf lo else 0, ts := 0 }

/-- The listed entries of a class that meet a range, in ascending order. -/
def Entry.meets (cls aux lo hi : Nat) (e : Entry) : Bool :=
  e.cls == cls && e.aux == aux && decide (e.lo < hi) && decide (lo < e.hi)

/-- The pieces of a range, given the listed entries that meet it in ascending order and the entry that
fills the gaps. -/
def piecesFrom (dflt : Nat → Nat → Entry) (hi : Nat) : Nat → List Entry → List Entry
  | lo, [] => if lo < hi then [dflt lo hi] else []
  | lo, e :: es =>
    (if lo < e.lo then [dflt lo e.lo] else []) ++
      { e with lo := max lo e.lo, hi := min hi e.hi } :: piecesFrom dflt hi (max lo e.hi) es

/-- The entry of a single resource that is not an extent (R274). -/
def State.entryOf (s : State) (cls i : Nat) : Entry :=
  match s.entries.find? (Entry.meets cls 0 i (i + 1)) with
  | some e => e
  | none => Entry.dflt s.endowed cls 0 i (i + 1)

/-- The entry of a core. -/
def State.coreEntry (s : State) (k : Nat) : Entry := s.entryOf cCore k

/-- The pieces of any resource. Pool rows that no ROWS entry names go with their core's entry (R272). -/
def State.pieces (s : State) (r : Res) : List Entry :=
  let listed := s.entries.filter (Entry.meets r.cls r.aux r.lo r.hi)
  let fill (lo hi : Nat) : Entry :=
    if r.cls = cRows then { s.coreEntry r.aux with cls := cRows, aux := r.aux, lo := lo, hi := hi, offer := none }
    else Entry.dflt s.endowed r.cls r.aux lo hi
  piecesFrom fill r.hi r.lo listed

/-- The holder of a core, HOLDER of R38. -/
def State.holderOf (s : State) (k : Nat) : Nat := (s.coreEntry k).holder
/-- The holder of a domain. -/
def State.domHolder (s : State) (d : Nat) : Nat := (s.entryOf cDomain d).holder

/-- May the holder use every byte of the range, with this extent id and generation (R328)? -/
def State.backingOk (s : State) (holder lo hi : Nat) (xid : BitVec 24) (gen : BitVec 8) : Bool :=
  (windowOf lo hi).isSome &&
  (s.pieces ⟨cMem, 0, lo, hi⟩).all fun e => e.holder == holder && !e.ended && e.xid == xid && e.gen == gen

/-- May the holder use every byte of the range? -/
def State.extentOk (s : State) (holder lo hi : Nat) : Bool :=
  (windowOf lo hi).isSome &&
  (s.pieces ⟨cMem, 0, lo, hi⟩).all fun e => e.holder == holder && !e.ended

/-- The ROWS entries that the table lists for a core. -/
def State.rowsEntries (s : State) (k : Nat) : List Entry :=
  s.entries.filter fun e => e.cls == cRows && e.aux == k

/-- Is the row named by a ROWS entry whose holder is not the core's holder, or whose use has ended
(R284, R346)? -/
def State.rowForeign (s : State) (k row : Nat) : Bool :=
  (s.rowsEntries k).any fun e => e.lo ≤ row && row < e.hi && (e.holder != s.holderOf k || e.ended)

/-- Is the OID live (R273)? -/
def State.oidLive (s : State) (o : Nat) : Bool := o == 1 || s.oids.any fun p => p.1 == o

end Sys2Proof.Machine
end

