-- ==== Sys2Proof/Machine/Regs.lean ====
section
/-! DEFINITION. The named operations over cores, contexts, registers, pool rows, counters and notices, and
the checks of declared limits. -/

namespace Sys2Proof.Machine

/-! Cores and contexts. -/

/-- A core of the device. -/
def State.coreAt (s : State) (k : Nat) : Core := Table.get Core.empty s.cores k
def State.setCoreAt (s : State) (k : Nat) (c : Core) : State := { s with cores := Table.put s.cores k c }
/-- The executing core. -/
def State.core (s : State) : Core := s.coreAt s.cur
def State.setCore (s : State) (c : Core) : State := s.setCoreAt s.cur c
/-- A context of a core. -/
def Core.ctxAt (c : Core) (k : Nat) : Ctx := Table.get Ctx.empty c.ctxs k
def Core.setCtx (c : Core) (k : Nat) (x : Ctx) : Core := { c with ctxs := Table.put c.ctxs k x }
/-- The executing context. -/
def State.me (s : State) : Ctx := s.core.ctxAt s.ctx
def State.setMe (s : State) (x : Ctx) : State := s.setCore (s.core.setCtx s.ctx x)
/-- The device with one core replaced by a function of it. -/
def State.updCoreAt (s : State) (k : Nat) (f : Core → Core) : State := s.setCoreAt k (f (s.coreAt k))
def State.updCore (s : State) (f : Core → Core) : State := s.setCore (f s.core)
def State.updMe (s : State) (f : Ctx → Ctx) : State := s.setMe (f s.me)
/-- Fabric time as a number. -/
def State.now (s : State) : Nat := s.fabric.toNat

/-! Registers of a context (R31). -/

/-- Bits of the dirty bitmap (R37). -/
def bitX (n : Nat) : Nat := n
def bitV (p : Nat) : Nat := 32 + p
def bitM (n : Nat) : Nat := 64 + n
def bitH (n : Nat) : Nat := 72 + n
def bitC (n : Nat) : Nat := 88 + n

/-- A bitmap with one bit set. -/
def setBit {w : Nat} (b : BitVec w) (i : Nat) : BitVec w := b ||| BitVec.ofNat w (2 ^ i)
/-- A bitmap with one bit clear. -/
def clearBit {w : Nat} (b : BitVec w) (i : Nat) : BitVec w := b &&& ~~~(BitVec.ofNat w (2 ^ i))

/-- x register `n`; x0 reads 0 (R31). -/
def Ctx.getX (c : Ctx) (n : BitVec 5) : Word := if n = 0 then 0 else Table.get 0 c.x n.toNat
/-- x register `n` written; a write to x0 is discarded (R31, R106). -/
def Ctx.setX (c : Ctx) (n : BitVec 5) (v : Word) : Ctx :=
  if n = 0 then c else { c with x := Table.put c.x n.toNat v, dirty := setBit c.dirty (bitX n.toNat) }
/-- m register `n`; m0 reads all ones (R31). -/
def Ctx.getM (c : Ctx) (n : BitVec 3) : BitVec 128 := if n = 0 then BitVec.allOnes 128 else Table.get 0 c.m n.toNat
def Ctx.setM (c : Ctx) (n : BitVec 3) (v : BitVec 128) : Ctx :=
  if n = 0 then c else { c with m := Table.put c.m n.toNat v, dirty := setBit c.dirty (bitM n.toNat) }
def Ctx.getH (c : Ctx) (n : BitVec 4) : BitVec 16 := Table.get 0 c.h n.toNat
def Ctx.setH (c : Ctx) (n : BitVec 4) (v : BitVec 16) : Ctx :=
  { c with h := Table.put c.h n.toNat v, dirty := setBit c.dirty (bitH n.toNat) }
def Ctx.getC (c : Ctx) (n : BitVec 4) : BitVec 16 := Table.get 0 c.c n.toNat
def Ctx.setC (c : Ctx) (n : BitVec 4) (v : BitVec 16) : Ctx :=
  { c with c := Table.put c.c n.toNat v, dirty := setBit c.dirty (bitC n.toNat) }

/-- The physical number of a vector register (R36). -/
def Ctx.phys (c : Ctx) (n : BitVec 5) : Nat :=
  if n.toNat < 16 then n.toNat else 16 + (n.toNat - 16 + c.rrb.toNat) % 16

def State.xr (s : State) (n : BitVec 5) : Word := s.me.getX n
def State.setX (s : State) (n : BitVec 5) (v : Word) : State := s.updMe fun c => c.setX n v
def State.mr (s : State) (n : BitVec 3) : BitVec 128 := s.me.getM n
def State.setM (s : State) (n : BitVec 3) (v : BitVec 128) : State := s.updMe fun c => c.setM n v
def State.hr (s : State) (n : BitVec 4) : BitVec 16 := s.me.getH n
def State.setH (s : State) (n : BitVec 4) (v : BitVec 16) : State := s.updMe fun c => c.setH n v
def State.cr (s : State) (n : BitVec 4) : BitVec 16 := s.me.getC n
def State.setC (s : State) (n : BitVec 4) (v : BitVec 16) : State := s.updMe fun c => c.setC n v

/-! The pool (R33 to R35, R68). -/

/-- CTX of the partition word; context 0 alone where none is installed. -/
def Core.nctx (c : Core) : Nat := max 1 (c.partw.toNat % 16)
/-- ACC rows of the partition word (R33). -/
def Core.acc (c : Core) : Nat :=
  match c.partw.toNat / 16 % 4 with
  | 0 => 0 | 1 => 64 | 2 => 128 | _ => 256
/-- Pod-store rows of the partition word. -/
def Core.podRows (c : Core) : Nat := 4 * (c.partw.toNat / 64 % 16)
/-- First register row (R34). -/
def Core.regBase (c : Core) : Nat := 1536 - 32 * c.nctx
/-- First accumulator row. -/
def Core.accBase (c : Core) : Nat := c.regBase - c.acc
/-- First row of the pod store. -/
def Core.podBase (c : Core) : Nat := c.accBase - c.podRows
/-- S, the rows of the scratchpad (R34). -/
def Core.rowsS (c : Core) : Nat := c.podBase
/-- B(k) (R35). -/
def Core.ctxBase (c : Core) (k : Nat) : Nat := c.regBase + 32 * k

/-- Rows of a pool as numbers. -/
def Core.row (c : Core) (r : Nat) : Nat := c.pool.readLE (128 * r) 128

/-- A row write enters its bank's write buffer; a full buffer drains its oldest entry first (R68). -/
def wbufPush (b : List (List Nat)) (row : Nat) : List (List Nat) :=
  let get i := b.getD i []
  (List.range 3).map fun i =>
    if i = row % 3 then (if 4 ≤ (get i).length then (get i).drop 1 else get i) ++ [row] else get i

/-- A row written by an instruction. -/
def Core.setRow (c : Core) (r v : Nat) : Core :=
  { c with pool := c.pool.writeLE (128 * r) 128 v, written := setBit c.written r, wbuf := wbufPush c.wbuf r }

/-- Runs of bytes of the pool written by an instruction, which lie in these rows: each row takes one write-buffer entry,
masked or not (R68). -/
def Core.setRuns (c : Core) (rows : List Nat) (rs : List (Nat × List Byte)) : Core :=
  rows.foldl (fun c r => { c with written := setBit c.written r, wbuf := wbufPush c.wbuf r })
    { c with pool := rs.foldl (fun m r => m.putBytes r.1 r.2) c.pool }
/-- Bytes of the pool written by an instruction. -/
def Core.setBytes (c : Core) (off : Nat) (bs : List Byte) : Core :=
  c.setRuns ((List.range ((off % 128 + bs.length + 127) / 128)).map fun i => off / 128 + i) [(off, bs)]

/-- A generation bump of the rows `lo` to `hi - 1`: they read zero, and their counters advance (R259). -/
def Core.bumpRows (c : Core) (lo hi : Nat) : Core :=
  { c with
    pool := Table.clear c.pool (128 * lo) (128 * hi)
    written := (List.range (hi - lo)).foldl (fun w i => clearBit w (lo + i)) c.written
    rowGen := (List.range (hi - lo)).foldl
      (fun g i => Table.put g (lo + i) (Table.get 0 g (lo + i) + 1)) c.rowGen
    wbuf := c.wbuf.map fun b => b.filter fun r => r < lo || hi ≤ r }

/-- The pool row of a vector register of the executing context (R35, R36). -/
def State.vrow (s : State) (n : BitVec 5) : Nat := s.core.ctxBase s.ctx + s.me.phys n
/-- V register `n` as a number of 1,024 bits. -/
def State.vr (s : State) (n : BitVec 5) : Nat := s.core.row (s.vrow n)
/-- V register `n` written. -/
def State.setV (s : State) (n : BitVec 5) (v : Nat) : State :=
  (s.updCore fun c => c.setRow (s.vrow n) v).updMe fun c => { c with dirty := setBit c.dirty (bitV (s.me.phys n)) }

/-- Lanes of `w` bits of a row. -/
def lanes (w v : Nat) : List Nat := (List.range (1024 / w)).map fun i => v / 2 ^ (w * i) % 2 ^ w
/-- The row with these lanes. -/
def ofLanes (w : Nat) : List Nat → Nat
  | [] => 0
  | x :: xs => x % 2 ^ w + 2 ^ w * ofLanes w xs

/-! Counters and notices (R288, R289, R358 to R363). -/

/-- Does a pod slot hold the pod that a hook names (R215)? -/
def Hook.podLive (h : Hook) (c : Core) : Bool :=
  let g := h.handle.toNat / 64
  match c.pods.find? fun p => p.1 == h.handle.toNat % 64 with
  | some p => g != 0 && p.2.used && p.2.gen.toNat == g
  | none => false
/-- Hooks whose OID does not hold their core, or whose pod slot is freed, are void, and the notices that wait for them are
discarded (R288). -/
def State.voidHooks (s : State) : State :=
  let ok (h : Hook) : Bool := s.holderOf h.core == h.oid && h.podLive (s.coreAt h.core)
  let gone := s.hooks.filter fun h => !ok h
  { s with
    hooks := s.hooks.filter ok
    notices := s.notices.filter fun n => !gone.any fun h => h.oid == n.oid && h.kind == n.kind }

/-- A notice is sent: it replaces a waiting one of the same recipient, kind and resource, and a kind
without a hook is discarded (R288, R289). -/
def State.notify (s : State) (n : Notice) : State :=
  let s := s.voidHooks
  if !(s.hooks.any fun h => h.oid == n.oid && h.kind == n.kind) then s
  else if s.notices.any fun m => m.oid == n.oid && m.kind == n.kind && m.res == n.res then
    { s with notices := s.notices.map fun m =>
        if m.oid == n.oid && m.kind == n.kind && m.res == n.res then n else m }
  else { s with notices := s.notices ++ [n] }

/-- Name of counter `i` of a core (R271). -/
def counterName (core i : Nat) : Word := BitVec.ofNat 64 (6 * 2 ^ 60 + core * 16 + i)
/-- Name of shared counter `i` of a die. -/
def sharedName (die i : Nat) : Word := BitVec.ofNat 64 (6 * 2 ^ 60 + 2 ^ 20 + die * 2 ^ 14 + i)

/-- EVENT of a select (R357). -/
def selEvent (v : Word) : Nat := (v.extractLsb' 0 8).toNat
def selShared (v : Word) : Bool := v.getLsbD 15
def selIdx (v : Word) : Nat := (v.extractLsb' 16 3).toNat

/-- The home L2 slice of a line of HBM, on its die, at the first byte `a` of the line (R332). -/
def homeDie (a : Nat) : Nat := a / 2 ^ 12 % 8
def homeSlice (a : Nat) : Nat := a / 2 ^ 15 % 8

/-- A counter was carried past its end: its notice sets out for the map (R360, R366). -/
def State.carried (s : State) (n : Notice) : State := { s with ovf := s.ovf ++ [(s.now, n)] }
/-- Of the overflow notices that set out 16 ticks ago or more, those that a free choice takes step at the map, none before an
earlier one of its combination (R366). -/
def State.postOvf (s : State) : State :=
  let same (n m : Notice) : Bool := n.oid == m.oid && n.kind == m.kind && n.res == m.res
  let r := s.ovf.foldl (fun (r : State × List (Nat × Notice)) p =>
    let t := { r.1 with n := r.1.n + 1 }
    if decide (p.1 + 16 ≤ s.now) && Config.freeBool r.1.n && !(r.2.any fun q => same q.2 p.2) then (t.notify p.2, r.2)
    else (t, r.2 ++ [p])) (s, [])
  { r.1 with ovf := r.2 }

/-- Events of which a cycle has at most one: cycles and ticks (R358). -/
def onePerCycle (ev : Nat) : Bool := ev == 1 || ev == 2 || ev == 4 || ev == 5 || ev == 13
/-- The count just after the addition that carried a counter, where `amt` events of code `ev` brought it to `t` (R360): the
events of several cycles are as many additions. -/
def carryCount (ev t : Nat) : Word := if onePerCycle ev then 0 else BitVec.ofNat 64 (t % 2 ^ 48)

/-- `amt` more events of code `ev` on counter `i` of a core, with its overflow notice (R360). -/
def State.addCounter (s : State) (k i ev amt : Nat) : State :=
  let c := s.coreAt k
  let t := (Table.get 0 c.cnt i).toNat + amt
  let s := s.setCoreAt k { c with cnt := Table.put c.cnt i (BitVec.ofNat 48 t) }
  if t < 2 ^ 48 then s
  else s.carried ⟨s.holderOf k, 4, counterName k i, [4, counterName k i, 0, carryCount ev t]⟩

/-- `amt` more on a shared counter. -/
def State.addShared (s : State) (die i ev amt : Nat) : State :=
  let c := Table.get Shared.zero s.shared (die * 16 + i)
  let t := c.count.toNat + amt
  let s := { s with shared := Table.put s.shared (die * 16 + i) { c with count := BitVec.ofNat 48 t } }
  if t < 2 ^ 48 then s
  else s.carried ⟨(s.entryOf cShared (die * 16 + i)).holder, 4, sharedName die i, [4, sharedName die i, 0, carryCount ev t]⟩

/-- Do the counters of a core count (R318, R361)? -/
def Core.counts (c : Core) : Bool := !c.gated && c.hstat == .running && !c.uncounted

/-- `amt` events of an OID-filtered code, which a request makes at a shared structure: on the counters of the cores that
`near` names, and on the shared counters of a die. A request of core `req` counts for its holder and for OID 1, and one
that no core makes for OID 1 alone (R358, R363). -/
def State.countNear (s : State) (req : Option Nat) (ev amt : Nat) (near : Nat → Bool) (die : Nat) : State :=
  let counts (o : Nat) : Bool := o == 1 || req.any fun k => o == s.holderOf k
  let s := s.cores.foldl (fun s p =>
    if near p.1 && p.2.counts && counts (s.holderOf p.1) then
      (p.2.evsel.filter fun q => selEvent q.2 == ev && !selShared q.2).foldl (fun s q => s.addCounter p.1 q.1 ev amt) s
    else s) s
  (s.shared.filter fun p => p.2.ev.toNat == ev && p.1 / 16 == die && counts (s.entryOf cShared p.1).holder).foldl
    (fun s p => s.addShared die (p.1 % 16) ev amt) s
/-- A lookup in the cluster cache of core `k` for a request of core `req` (R358). -/
def State.countCc (s : State) (req : Option Nat) (k : Nat) (hit : Bool) : State :=
  s.countNear req (if hit then 6 else 7) 1 (fun j => clusterOf j == clusterOf k) (dieOf k)

/-- Lines whose sizes a die's metadata cache holds (R332). -/
def metaLines : Nat := 4194304
/-- A list that keeps the first `n` of its entries that `p` holds of. -/
def keepFirst {α : Type} (p : α → Bool) : Nat → List α → List α
  | _, [] => []
  | n, x :: xs =>
    if !p x then x :: keepFirst p n xs
    else match n with
      | 0 => keepFirst p 0 xs
      | n + 1 => x :: keepFirst p n xs

/-- The sectors of the line of byte `a` of HBM: 4, or of a line stored compressed its size, which a write (`wr`) may change
(R332). What a line compresses to is a free choice, log 81. -/
def State.lineSize (s : State) (wr cmp : Bool) (a : Nat) : Nat × State :=
  let l := a / 128
  let old := Table.get 0 s.csize l
  if !cmp then (4, s)
  else if old ≠ 0 && !wr then (old, s)
  else
    let v := 1 + (Config.freeWord s.n).toNat % 4
    (v, { s with n := s.n + 1, csize := Table.put s.csize l v })
/-- The size of a compressed line looked up in its die's metadata cache, which keeps it: does it miss (R332)? What has left
the cache before is a free choice, log 81. -/
def State.metaLook (s : State) (cmp : Bool) (a : Nat) : Bool × State :=
  let l := a / 128
  if !cmp then (false, s)
  else
    let hit := s.cmeta.contains l && Config.freeBool s.n
    (!hit, { s with
      n := s.n + 1
      cmeta := keepFirst (fun m => homeDie (128 * m) == homeDie a) metaLines (l :: s.cmeta.filter fun m => m != l) })

/-- A lookup at the home slice of byte `a` of HBM, for a read or a write step of a request of core `req`: its miss moves the
line's 32-byte sectors at the die's stack, and those of a line that leaves the slice for it, and looks up the size of a
compressed line (R332, R358). Hits and what leaves are free choices, log 81. -/
def State.countL2 (s : State) (req : Option Nat) (wr : Bool) (a : Nat) : State :=
  let hit := Config.freeBool s.n
  let cmp := s.cmp.any fun r => decide (r.1 ≤ a) && decide (a < r.2)
  let out := (Config.freeWord (s.n + 1)).toNat % 5
  let at' (s : State) (ev amt : Nat) : State := s.countNear req ev amt (fun j => dieOf j == homeDie a) (homeDie a)
  let (size, s) := ({ s with n := s.n + 2 } : State).lineSize wr cmp a
  let (miss, s) := s.metaLook (cmp && !hit) a
  at' (at' (at' s (if hit then 8 else 9) 1) 15 (if hit then 0 else size + out)) 16 (if miss then 1 else 0)

/-- `amt` events of code `ev` at core `k`, but not on the counters of the core, or the shared counters, that `own` and
`sh` tell: the core's own counters with that select, which count nothing while it is gated or stopped, and the shared
counters of its die, which count what happens there all the same; a gated or stopped core has no cycle (R358, R361, R363). -/
def State.countBut (s : State) (k ev amt : Nat) (own sh : Nat → Bool) : State :=
  let c := s.coreAt k
  let mine := if !c.counts then [] else c.evsel.filter fun p => selEvent p.2 == ev && !selShared p.2 && !own p.1 &&
    ((ev != 17 && ev != 18) || s.holderOf k == 1)
  let s := mine.foldl (fun s p => s.addCounter k p.1 ev amt) s
  let clocked := ev == 1 || ev == 4 || ev == 5
  let shared := if clocked && (c.gated || c.hstat != .running) then [] else
    s.shared.filter fun p => p.2.ev.toNat == ev && p.1 / 16 == dieOf k && !sh p.1 &&
      ((ev != 17 && ev != 18) || (s.entryOf cShared p.1).holder == 1)
  shared.foldl (fun s p => s.addShared (p.1 / 16) (p.1 % 16) ev amt) s

/-- `amt` events of code `ev` at core `k` (R358). -/
def State.count (s : State) (k ev amt : Nat) : State := s.countBut k ev amt (fun _ => false) fun _ => false

/-! Free values. -/

/-- A free 64-bit value; the counter advances. DESIGN CHOICE, log 3. -/
def State.free (s : State) : Word × State := (Config.freeWord s.n, { s with n := s.n + 1 })

/-! Declared limits (R41, R43). -/

/-- A field of an instruction that names a register or a barrier (R43), or the use of a register. -/
inductive Use where
  | x (n : BitVec 5)
  | v (n : BitVec 5)
  | m (n : BitVec 3)
  | h (n : BitVec 4)
  | c (n : BitVec 4)
  | b (n : BitVec 6)
deriving DecidableEq, Repr

/-- Declared limits (R41). -/
def Core.xregs (c : Core) : Nat := (c.decla.extractLsb' 0 6).toNat
def Core.vregs (c : Core) : Nat := (c.decla.extractLsb' 6 6).toNat
def Core.masks (c : Core) : Nat := (c.decla.extractLsb' 12 4).toNat
def Core.handles (c : Core) : Nat := (c.decla.extractLsb' 16 5).toNat
def Core.podsDecl (c : Core) : Nat := (c.decla.extractLsb' 21 5).toNat
def Core.barriers (c : Core) : Nat := (c.decla.extractLsb' 26 6).toNat
def Core.rowsDecl (c : Core) : Nat := (c.decla.extractLsb' 32 11).toNat
def Core.stackRows (c : Core) : Nat := (c.declb.extractLsb' 14 11).toNat
def Core.segsDecl (c : Core) : Nat := (c.declb.extractLsb' 10 4).toNat

/-- Declared limits bind the code of an installed task; a core that has had no install since its reset
or clear, and so runs the resident loop only, has none. DEDUCED, log 11. -/
def Core.limited (c : Core) : Bool := c.installed

/-- The fault of one use in one class of R43's order: 0 x, 1 v, 2 other registers, 3 barriers. -/
def Use.fault (c : Core) (k : Ctx) (cls : Nat) : Use → Option (BitVec 8 × Word)
  | .x n => if cls = 0 && c.xregs ≤ n.toNat then some (Cause.DECL_XREG, n.setWidth 64) else none
  | .v n => if cls = 1 && c.vregs ≤ k.phys n then some (Cause.DECL_VREG, BitVec.ofNat 64 (k.phys n)) else none
  | .m n => if cls = 2 && c.masks ≤ n.toNat then some (Cause.DECL_OTHERREG, n.setWidth 64) else none
  | .h n => if cls = 2 && c.handles ≤ n.toNat then some (Cause.DECL_OTHERREG, n.setWidth 64) else none
  | .c n => if cls = 2 && c.podsDecl ≤ n.toNat then some (Cause.DECL_OTHERREG, n.setWidth 64) else none
  | .b n => if cls = 3 && (c.barriers ≤ n.toNat || 48 ≤ n.toNat) then some (Cause.DECL_BARRIER, n.setWidth 64) else none

/-- The declaration check of R43: the uses are listed in the field order A, B, C, E, F. -/
def declFault (c : Core) (k : Ctx) (us : List Use) : Option (BitVec 8 × Word) :=
  if !c.limited then us.findSome? fun u => match u with
    | .b n => if 48 ≤ n.toNat then some (Cause.DECL_BARRIER, n.setWidth 64) else none
    | _ => none
  else match us.findSome? (Use.fault c k 0) with
    | some f => some f
    | none => match us.findSome? (Use.fault c k 1) with
      | some f => some f
      | none => match us.findSome? (Use.fault c k 2) with
        | some f => some f
        | none => us.findSome? (Use.fault c k 3)

/-- Is the register still being loaded (R105)? -/
def Use.loading (k : Ctx) : Use → Bool
  | .x n => n != 0 && k.loading.getLsbD (bitX n.toNat)
  | .v n => k.loading.getLsbD (bitV (k.phys n))
  | .m n => k.loading.getLsbD (bitM n.toNat)
  | .h n => k.loading.getLsbD (bitH n.toNat)
  | .c n => k.loading.getLsbD (bitC n.toNat)
  | .b _ => false

end Sys2Proof.Machine
end

