-- ==== Sys2Proof/Machine/CardFmt.lean ====
section
/-! DEFINITION. The fields of a job card (R179, R180, R193, R203) and the comparison of card ranges (R189,
R190). -/

namespace Sys2Proof.Machine

/-- A little-endian field of a card. -/
def Card.fld (c : Card) (off n : Nat) : Nat := c.bytes.toNat / 2 ^ (8 * off) % 2 ^ (8 * n)
def Card.op (c : Card) : Nat := c.fld 0 1 % 16
def Card.eng (c : Card) : Bool := c.fld 0 1 / 128 == 1
def Card.bar (c : Card) : Nat := c.fld 1 1 % 64
def Card.baren (c : Card) : Bool := c.fld 1 1 / 128 == 1
def Card.pod (c : Card) : BitVec 16 := BitVec.ofNat 16 (c.fld 2 2)

/-- A footprint entry (R180). -/
structure Fp where
  rd : Bool
  wr : Bool
  loc : Bool
  glb : Bool
  addr : Nat
  len : Nat
  remote : Bool
  core : Nat
  planar : Bool
  ty : Nat
  /-- a reserved bit is set -/
  bad : Bool
deriving DecidableEq, Repr

/-- Footprint entry `i` of a card. -/
def Card.fp (c : Card) (i : Nat) : Fp :=
  let base := c.fld (16 + 16 * i) 8
  let attr := c.fld (28 + 16 * i) 4
  let bit (n : Nat) : Bool := base / 2 ^ n % 2 == 1
  { rd := bit 63, wr := bit 62, loc := bit 61, glb := bit 60, addr := base % 2 ^ 57, len := c.fld (24 + 16 * i) 4,
    remote := attr / 32 % 2 == 1, core := attr / 256 % 16, planar := attr / 16 % 2 == 1, ty := attr % 16,
    bad := base / 2 ^ 57 % 8 != 0 || attr / 4096 != 0 || attr / 64 % 4 != 0 }

/-- Is the entry used (R180)? -/
def Fp.used (f : Fp) : Bool := f.len != 0

/-- Do two entries name overlapping ranges (R189)? -/
def Fp.overlaps (f g : Fp) : Bool :=
  f.used && g.used && f.glb == g.glb && f.remote == g.remote && (!f.remote || f.core == g.core) &&
    decide (f.addr < g.addr + g.len) && decide (g.addr < f.addr + f.len)

/-- Must the later card wait for the earlier (R189)? -/
def cardConflict (x y : Card) : Bool :=
  (List.range 3).any fun i => (List.range 3).any fun j =>
    let f := x.fp i
    let g := y.fp j
    f.overlaps g && ((f.wr && (g.rd || g.wr)) || (f.rd && g.wr))

/-- Cards of a core that have been posted and have not completed. -/
def Core.cards (c : Core) : List Card := c.mxRing ++ c.cpRing

/-- Does an access of a context meet a range of a posted card that holds it back (R190)? -/
def Core.cardStall (c : Core) (write : Bool) (a n : Nat) : Bool :=
  c.cards.any fun k => (List.range 3).any fun i =>
    let f := k.fp i
    f.used && !f.remote && f.glb == decide (2 ^ 32 ≤ a) && (f.wr || (write && f.rd)) &&
      decide (f.addr < a + n) && decide (a < f.addr + f.len)

end Sys2Proof.Machine
end

