-- ==== Sys2Proof/Machine/Ctl.lean ====
section
/-! DEFINITION. The control space (R322, R315, R371, R372, R384, R386, R97): where its blocks lie, what a
read of them returns, who may write them, and what a store to each field does. -/

namespace Sys2Proof.Machine

/-- A block of the control space. -/
inductive Blk where
  | dom (d : Nat)
  | qslot (i : Nat)
  | func (f : Nat)
  | mbpend
  | mailbox
  | attest
  | logd (d : Nat)
  | load (d : Nat)
  | bucket (b : Nat)
deriving DecidableEq, Repr

/-- The arrays of the control space: first byte, end, block size, and the block of an index. -/
def ctlArrays : List (Nat × Nat × Nat × (Nat → Blk)) :=
  [(0xF000000000, 0xF000040000, 64, .dom), (0xF000080000, 0xF000090000, 64, .qslot),
   (0xF000090000, 0xF000090400, 16, .func), (0xF0000A0000, 0xF0000A0008, 8, fun _ => .mbpend),
   (0xF0000A1000, 0xF0000A2000, 4096, fun _ => .mailbox), (0xF0000B0000, 0xF0000B0200, 512, fun _ => .attest),
   (0xF0000C0000, 0xF0000D0000, 16, .logd), (0xF0000D0000, 0xF0000F0000, 32, .load),
   (0xF000100000, 0xF000120000, 32, .bucket)]

/-- The block of a byte, the offset in it, and the bytes of the block from there on. -/
def ctlLocate (pa : Nat) : Option (Blk × Nat × Nat) :=
  match ctlArrays.find? fun a => a.1 ≤ pa && pa < a.2.1 with
  | some (lo, _, sz, f) => some (f ((pa - lo) / sz), (pa - lo) % sz, sz - (pa - lo) % sz)
  | none => none

/-- First byte of a domain's block, of a queue slot, of a log and a load descriptor, of a bucket, and of the mailbox and its
flag. -/
def domBlock (d : Nat) : Nat := 0xF000000000 + 64 * (d % 4096)
def slotBlock (i : Nat) : Nat := 0xF000080000 + 64 * (i % 1024)
def logdBlock (d : Nat) : Nat := 0xF0000C0000 + 16 * (d % 4096)
def loadBlock (d : Nat) : Nat := 0xF0000D0000 + 32 * (d % 4096)
def bucketBlock (b : Nat) : Nat := 0xF000100000 + 32 * (b % 4096)
def pendBlock : Nat := 0xF0000A0000
def mailBlock : Nat := 0xF0000A1000

/-- A little-endian field of a block image. -/
def fieldOf (img off n : Nat) : Nat := img / 2 ^ (8 * off) % 2 ^ (8 * n)
/-- A field placed in a block image. -/
def at' (off v : Nat) : Nat := v * 2 ^ (8 * off)
def b2n (b : Bool) : Nat := if b then 1 else 0

/-- Is LEVEL at or below 0 (R316)? -/
def Bucket.empty (b : Bucket) : Bool := decide (b.level.toInt ≤ 0)

def State.bucketAt (s : State) (b : Nat) : Bucket := Table.get Bucket.zero s.buckets b
def State.qslotAt (s : State) (i : Nat) : QSlot := Table.get QSlot.zero s.qslots i
def State.funcAt (s : State) (f : Nat) : Func := Table.get Func.zero s.funcs f
/-- A domain's block. -/
def State.domainAt (s : State) (d : Nat) : Domain := Table.get Domain.zero s.domains d
def State.setDomain (s : State) (d : Nat) (x : Domain) : State := { s with domains := Table.put s.domains d x }
def State.setQslot (s : State) (i : Nat) (x : QSlot) : State := { s with qslots := Table.put s.qslots i x }

/-- Position and FULL of log `no` of a domain (R387). -/
def State.logAt (s : State) (d no : Nat) : Nat × Bool := Table.get (0, false) s.logs (d + 4096 * no)
def State.setLog (s : State) (d no : Nat) (v : Nat × Bool) : State := { s with logs := Table.put s.logs (d + 4096 * no) v }

/-- The contents of a block, little-endian. -/
def State.ctlImage (s : State) : Blk → Nat
  | .dom d =>
    let b := s.domainAt d
    at' 0 (b.root.toNat + b2n b.enable) + at' 8 (b.pasid.toNat + b.pstate * 2 ^ 20) + at' 16 b.toff.toNat +
      at' 24 b.tgen.toNat + at' 32 b.dropped.toNat
  | .qslot i =>
    let q := s.qslotAt i
    at' 0 q.ring.toNat + at' 8 q.logn.toNat + at' 9 (b2n q.completion + 128 * b2n q.enable) + at' 10 q.func.toNat +
      at' 11 q.fidx.toNat + at' 12 q.queue.toNat + at' 14 q.dom.toNat + at' 16 q.head.toNat + at' 20 q.tail.toNat +
      at' 24 q.vec.toNat + at' 26 q.holdoff.toNat + at' 28 q.thresh.toNat +
      at' 30 (b2n q.err + 2 * b2n q.stopped + 4 * b2n q.full)
  | .func f =>
    let e := s.funcAt f
    at' 0 e.oid.toNat + at' 2 e.wdom.toNat + at' 8 e.wva.toNat
  | .mbpend => b2n s.mbpend
  | .mailbox => s.mailbox.readLE 0 4096
  | .attest => s.attest.readLE 0 512 + at' 0xF8 (b2n s.attesting)
  | .logd d =>
    let b := s.domainAt d
    at' 0 b.logBase.toNat + at' 8 (b.logLen.toNat % 2 ^ 32) + at' 12 b.logMode.toNat + at' 13 (b2n (s.logAt d b.logNo).2)
  | .load d =>
    let b := s.domainAt d
    at' 0 b.ldObj.toNat + at' 8 b.ldSize.toNat + at' 16 b.ldStatus.toNat + at' 20 b.ldSeq.toNat
  | .bucket b =>
    let x := s.bucketAt b
    at' 0 x.rate.toNat + at' 4 x.depth.toNat + at' 8 x.level.toNat + at' 16 (x.dom.toNat + 2 ^ 15 * b2n x.enable) +
      at' 18 (b2n x.empty)

/-- Does OID `o` hold the single resource? -/
def State.holdsOne (s : State) (o cls i : Nat) : Bool := (s.entryOf cls i).holder == o
/-- Does it hold it with its use not ended (R284)? -/
def State.usesOne (s : State) (o cls i : Nat) : Bool := s.holdsOne o cls i && !(s.entryOf cls i).ended

/-- Do the bytes `off` to `off + n - 1` touch the field? -/
def touches (off n fo fl : Nat) : Bool := decide (off < fo + fl) && decide (fo < off + n)

/-- May OID `o` read these bytes of the block (R322, R315, R371, R384, R97)? -/
def State.ctlReadable (s : State) (o : Nat) (b : Blk) (off n : Nat) : Bool :=
  match b with
  | .dom d => s.holdsOne o cDomain d
  | .qslot _ => true
  | .func _ => true
  | .mbpend => o == 1
  | .mailbox => o == 1
  | .attest => o == 1 && (decide (off + n ≤ 48) || (decide (0xF8 ≤ off) && decide (off + n ≤ 0x100)) || decide (0x100 ≤ off))
  | .logd d => s.holdsOne o cDomain d
  | .load _ => true
  | .bucket b => s.holdsOne o cBucket b || (decide (8 ≤ off) && decide (off + n ≤ 16))

/-- May OID `o` write these bytes of the block? A store to a read-only field of it has no effect. DEDUCED, log 79. -/
def State.ctlWritable (s : State) (o : Nat) (b : Blk) (off n : Nat) : Bool :=
  match b with
  | .dom d => s.usesOne o cDomain d
  | .qslot i =>
    let q := (s.qslotAt i).queue.toNat
    (!touches off n 12 2 || o == 1) && (!touches off n 9 1 || o == 1 || s.holdsOne o cQueue q) &&
      (!(touches off n 0 9 || touches off n 10 2 || touches off n 14 50) || s.holdsOne o cQueue q)
  | .func _ => o == 1
  | .mbpend => o == 1
  | .mailbox => o == 1
  | .attest => o == 1 && decide (off + n ≤ 48)
  | .logd d => s.usesOne o cDomain d
  | .load d => s.usesOne o cDomain d
  | .bucket b => s.usesOne o cBucket b

/-- A doorbell write of `v` to a queue slot (R373). -/
def State.ring (s : State) (i : Nat) (v : BitVec 32) : State :=
  let q := s.qslotAt i
  let cap := 2 ^ q.logn.toNat
  if q.completion then
    if cap < (q.tail - v).toNat then s.setQslot i { q with err := true }
    else s.setQslot i { q with head := v, full := q.full && !decide ((q.tail - v).toNat < cap) }
  else if cap < (v - q.head).toNat then s.setQslot i { q with err := true }
  else s.setQslot i { q with tail := v }

/-- A store of `p` to a domain's PASID by OID 1 (R331). -/
def Domain.storePasid (b : Domain) (p : BitVec 20) (now : Nat) : Domain :=
  match b.pstate with
  | 0 => if p = 0 then b else { b with pasid := p, pstate := 1 }
  | 1 => if p = 0 then { b with pstate := 2, retireAt := now } else b
  | _ => b

/-- A store to a field of a domain block; `img` is the block with the stored bytes in it. -/
def State.domStore (s : State) (o d off n img : Nat) : State :=
  let b := s.domainAt d
  let b := if touches off n 0 8 then
    { b with root := BitVec.ofNat 64 (fieldOf img 0 8) &&& 0x000FFFFFFFFF0000, enable := fieldOf img 0 1 % 2 == 1 } else b
  let b := if touches off n 8 8 && o == 1 then b.storePasid (BitVec.ofNat 20 (fieldOf img 8 4)) s.now else b
  let b := if touches off n 16 8 then { b with toff := BitVec.ofNat 64 (fieldOf img 16 8) } else b
  let b := if touches off n 24 8 then { b with tgen := b.tgen + 1 } else b
  s.setDomain d b

/-- A store to a queue slot (R371, R372). -/
def State.qslotStore (s : State) (o i off n img : Nat) : State :=
  let q := s.qslotAt i
  let mine := s.holdsOne o cQueue q.queue.toNat
  let f (fo fl : Nat) : Nat := fieldOf img fo fl
  let q := { q with
    ring := if mine then BitVec.ofNat 64 (f 0 8) else q.ring
    logn := if mine then BitVec.ofNat 8 (f 8 1) else q.logn
    func := if mine then BitVec.ofNat 8 (f 10 1) else q.func
    fidx := if mine then BitVec.ofNat 8 (f 11 1) else q.fidx
    dom := if mine then BitVec.ofNat 16 (f 14 2 % 4096) else q.dom
    head := if mine then BitVec.ofNat 32 (f 16 4) else q.head
    tail := if mine then BitVec.ofNat 32 (f 20 4) else q.tail
    vec := if mine then BitVec.ofNat 16 (f 24 2) else q.vec
    holdoff := if mine then BitVec.ofNat 16 (f 26 2) else q.holdoff
    thresh := if mine then BitVec.ofNat 16 (f 28 2) else q.thresh
    queue := if o == 1 && touches off n 12 2 && !q.enable then BitVec.ofNat 16 (f 12 2) else q.queue
    completion := if mine && touches off n 9 1 then f 9 1 % 2 == 1 else q.completion
    enable := if o == 1 && touches off n 9 1 then f 9 1 / 128 == 1 else q.enable
    stopped := q.stopped && !(o == 1 && touches off n 9 1) }
  let s := s.setQslot i q
  if touches off n 32 4 then s.ring i (BitVec.ofNat 32 (f 32 4)) else s

/-- A store to a bucket block (R315). -/
def State.bucketStore (s : State) (b img : Nat) : State :=
  let x : Bucket :=
    { rate := BitVec.ofNat 32 (fieldOf img 0 4), depth := BitVec.ofNat 32 (fieldOf img 4 4),
      level := BitVec.ofNat 64 (fieldOf img 8 8), dom := BitVec.ofNat 12 (fieldOf img 16 2),
      enable := fieldOf img 16 2 / 2 ^ 15 == 1, due := (s.bucketAt b).due }
  { s with buckets := Table.put s.buckets b x }

/-- A store to a function entry (R371). -/
def State.funcStore (s : State) (f img : Nat) : State :=
  let x : Func :=
    { oid := BitVec.ofNat 16 (fieldOf img 0 2), wdom := BitVec.ofNat 12 (fieldOf img 2 2),
      wva := BitVec.ofNat 64 (fieldOf img 8 8) }
  { s with funcs := Table.put s.funcs f x }

/-- A store to a load descriptor: one that touches SIZE requests a load unless one is in progress (R97). -/
def State.loadStore (s : State) (d off n img : Nat) : State :=
  let b := s.domainAt d
  let b := if touches off n 0 8 then { b with ldObj := BitVec.ofNat 64 (fieldOf img 0 8) } else b
  let b := if touches off n 8 8 && b.ldStatus != 0xFFFF then
    { b with ldSize := BitVec.ofNat 64 (fieldOf img 8 8), ldStatus := 0xFFFF } else b
  s.setDomain d b

/-- A store to a log descriptor; a store to BASE begins another log, and launches that have been admitted keep theirs
(R386). DESIGN CHOICE, log 16. -/
def State.logStore (s : State) (d off n img : Nat) : State :=
  let b := s.domainAt d
  let b := if touches off n 0 8 then
    { b with logBase := BitVec.ofNat 64 (fieldOf img 0 8), logNo := b.logNo + 1 } else b
  s.setDomain d { b with
    logLen := BitVec.ofNat 64 (fieldOf img 8 4), logMode := BitVec.ofNat 2 (fieldOf img 12 1) }

/-- What a store of the bytes `off` to `off + n - 1` does to a block; `img` is the block with them in it. -/
def State.ctlStore (s : State) (o : Nat) (b : Blk) (off n img : Nat) : State :=
  match b with
  | .dom d => s.domStore o d off n img
  | .qslot i => s.qslotStore o i off n img
  | .func f => s.funcStore f img
  | .mbpend => if touches off n 0 1 then { s with mbpend := img % 2 == 1 } else s
  | .mailbox => { s with mailbox := s.mailbox.writeLE off n (fieldOf img off n) }
  | .attest =>
    if s.attesting then s
    else { s with attest := s.attest.writeLE off n (fieldOf img off n), attesting := touches off n 47 1 }
  | .logd d => s.logStore d off n img
  | .load d => s.loadStore d off n img
  | .bucket b => s.bucketStore b img

/-- The parts of a range by block: block, offset and bytes. None where a byte is unassigned. -/
def ctlParts : Nat → Nat → Nat → Option (List (Blk × Nat × Nat))
  | _, _, 0 => some []
  | 0, _, _ => none
  | fuel + 1, pa, n =>
    match ctlLocate pa with
    | none => none
    | some (b, off, left) =>
      match ctlParts fuel (pa + min n left) (n - min n left) with
      | some ps => some ((b, off, min n left) :: ps)
      | none => none

/-- A read of control-space bytes by OID `o`, little-endian; none where it is refused (R322). -/
def State.ctlRead (s : State) (o pa n : Nat) : Option (List Byte) :=
  match ctlParts n pa n with
  | none => none
  | some ps =>
    if ps.all fun p => s.ctlReadable o p.1 p.2.1 p.2.2 then
      some (ps.flatMap fun p => (List.range p.2.2).map fun i => BitVec.ofNat 8 (fieldOf (s.ctlImage p.1) (p.2.1 + i) 1))
    else none

/-- Little-endian value of bytes. -/
def leVal : List Byte → Nat
  | [] => 0
  | b :: bs => b.toNat + 256 * leVal bs

/-- A block image with `n` bytes of it replaced. -/
def overlay (img off n v : Nat) : Nat := img - at' off (fieldOf img off n) + at' off (v % 2 ^ (8 * n))

/-- A store of control-space bytes by OID `o`, without its time; none where it is refused (R322). -/
def State.ctlPut (s : State) (o pa : Nat) (bs : List Byte) : Option State :=
  match ctlParts bs.length pa bs.length with
  | none => none
  | some ps =>
    if ps.all fun p => s.ctlWritable o p.1 p.2.1 p.2.2 then
      some (ps.foldl (fun (sb : State × List Byte) p =>
        let v := leVal (sb.2.take p.2.2)
        (sb.1.ctlStore o p.1 p.2.1 p.2.2 (overlay (sb.1.ctlImage p.1) p.2.1 p.2.2 v), sb.2.drop p.2.2)) (s, bs)).1
    else none

end Sys2Proof.Machine
end

