-- ==== Sys2Proof/Machine/Mem.lean ====
section
/-! DEFINITION. Memory: translation (R322 to R331), the local address map (R66), the lease mechanism
(R249), format pages (R118, R326), watches (R337) and the stalls of cards in flight (R190). -/

namespace Sys2Proof.Machine

/-- A cause code with its TVAL. -/
abbrev Trap := BitVec 8 × Word

/-- Kinds of access (R325). -/
inductive Acc where
  | read | write | fetch
deriving DecidableEq, Repr

/-- Where an access lands. -/
inductive Place where
  /-- byte of the executing core's pool -/
  | pool (off : Nat)
  /-- byte of device physical memory: HBM or an external window -/
  | phys (pa : Nat)
  /-- byte of the control space -/
  | ctl (pa : Nat)
  /-- byte of the decoded image of a format page: backing of the page, offset within it -/
  | fmt (g : GxT) (pa o : Nat)
deriving DecidableEq, Repr

/-! Page-table entries (R324). -/

abbrev Pte := BitVec 128
def Pte.v (e : Pte) : Bool := e.getLsbD 0
def Pte.leaf (e : Pte) : Bool := e.getLsbD 1
def Pte.r (e : Pte) : Bool := e.getLsbD 2
def Pte.w (e : Pte) : Bool := e.getLsbD 3
def Pte.x (e : Pte) : Bool := e.getLsbD 4
def Pte.cmp (e : Pte) : Bool := e.getLsbD 5
def Pte.tgt (e : Pte) : Nat := (e.extractLsb' 6 2).toNat
def Pte.fmt (e : Pte) : Nat := (e.extractLsb' 8 4).toNat
def Pte.geo (e : Pte) : Nat := (e.extractLsb' 12 2).toNat
def Pte.pa (e : Pte) : Nat := (e.extractLsb' 16 52).toNat
def Pte.xid (e : Pte) : BitVec 24 := e.extractLsb' 68 24
def Pte.egen (e : Pte) : BitVec 8 := e.extractLsb' 92 8

/-- A level of the table (R323): lowest VA bit, entries, and the size of the table that a non-leaf entry
of the level points to; 0 where no level lies below. -/
structure Level where
  shift : Nat
  entries : Nat
  nextSize : Nat
  /-- a leaf may stand here -/
  leafOk : Bool
deriving DecidableEq, Repr

def levels : List Level :=
  [⟨45, 4096, 32768, false⟩, ⟨34, 2048, 256, true⟩, ⟨30, 16, 8192, true⟩, ⟨21, 512, 512, true⟩, ⟨16, 32, 0, true⟩]

/-- The format of a format page. -/
def fmtOf (f : Nat) : Option GxT :=
  match f with
  | 1 => some .gx2 | 2 => some .gx4 | 3 => some .gx7 | _ => none

/-- First byte and end of the window of a TGT for the address (R327). -/
def inTgt (t pa : Nat) : Bool :=
  match t with
  | 0 => pa < hbmEnd || (ctlBase ≤ pa && pa < ctlEnd)
  | 1 => 0x100000000000 ≤ pa && pa < 0x200000000000
  | 2 => 0x200000000000 ≤ pa && pa < 0x300000000000
  | _ => 0x400000000000 ≤ pa && pa < 0x400000000000 + 12 * 2 ^ 40

/-- Malformed entries (R324). -/
def Pte.malformed (e : Pte) (l : Level) : Bool :=
  e.extractLsb' 100 28 != 0 || e.extractLsb' 14 2 != 0 || e.geo != 0 || 4 ≤ e.fmt ||
  (if e.leaf then
    !l.leafOk || !inTgt e.tgt e.pa ||
    (ctlBase ≤ e.pa && e.pa < ctlEnd &&
      (e.tgt != 0 || e.fmt != 0 || e.cmp || e.x || e.xid != 0 || e.egen != 0)) ||
    e.pa % (if e.fmt = 0 then 2 ^ l.shift else 4096) != 0 || (e.fmt != 0 && e.tgt != 0)
  else
    l.nextSize == 0 || e.extractLsb' 2 12 != 0 || e.extractLsb' 68 32 != 0 ||
    e.pa % l.nextSize != 0 || !inTgt 0 e.pa)

/-- A leaf that a walk has found: the entry, the first virtual address of its page, and the page size. -/
structure Leaf where
  pte : Pte
  va : Nat
  size : Nat
deriving DecidableEq, Repr

/-- GEN of the extent of a byte of device physical memory. -/
def State.extentGen (s : State) (pa : Nat) : BitVec 8 :=
  match s.pieces ⟨cMem, 0, pa, pa + 1⟩ with
  | e :: _ => e.gen
  | [] => 0

/-- The entry at a table address, and the time at which it was read where a cached non-leaf entry of the die serves
(R329, R330). -/
def State.walkRead (s : State) (die dom addr : Nat) (tgen : BitVec 16) : Pte × Option (BitVec 64) :=
  let home := (BitVec.ofNat 128 (s.mem.readLE addr 16), none)
  match s.walks.find? fun w => w.die == die && w.dom == dom && w.addr == addr && w.tgen == tgen &&
      w.egen == s.extentGen addr with
  | some w => if Config.freeBool (s.n + addr) then (w.pte, some w.ts) else home
  | none => home

/-- The larger of two logical times. DEDUCED, log 80. -/
def later (a b : BitVec 64) : BitVec 64 := if a.toNat < b.toNat then b else a

/-- An agent: the core whose pool it reaches, its domain, whether its reads may be served by copies of its cluster (an
outside agent has no cluster), and the core whose accesses they are, none for an agent that is no core's (R251, R358). -/
structure Ag where
  core : Nat
  dom : Nat
  inside : Bool
  req : Option Nat
deriving DecidableEq, Repr
/-- An agent of a core, which reaches the pool of core `k`. -/
def Ag.ofCore (core k dom : Nat) : Ag := ⟨k, dom, true, some core⟩
/-- An agent of the I/O die, or outside of the device, with the rights of a domain. -/
def Ag.outside (dom : Nat) : Ag := ⟨8192, dom, false, none⟩

/-- What a walk comes to: the leaf or the fault, the non-leaf entries that it used, the lines that it read, and the
latest time of the cached entries that it used. -/
structure Walked where
  leaf : Except Trap Leaf
  used : List (Nat × Pte)
  lines : List Nat
  ts : BitVec 64
deriving DecidableEq, Repr

/-- The walk of R325 from a table down to a leaf. Every table must lie whole in HBM extents of the holder (R323). -/
def State.walk (s : State) (die dom holder : Nat) (tgen : BitVec 16) (a : Nat) :
    List Level → Nat → List (Nat × Pte) → List Nat → BitVec 64 → Walked
  | [], _, used, lines, ts => ⟨.error (Cause.PTE_INVALID, BitVec.ofNat 64 a), used, lines, ts⟩
  | l :: ls, table, used, lines, ts =>
    if hbmEnd < table + 16 * l.entries || !s.extentOk holder table (table + 16 * l.entries) then
      ⟨.error (Cause.EXTENT_NOT_HELD, BitVec.ofNat 64 a), used, lines, ts⟩
    else
      let addr := table + 16 * (a / 2 ^ l.shift % l.entries)
      let (e, cached) := s.walkRead die dom addr tgen
      let lines := if cached.isNone then lines ++ [addr / 128] else lines
      let ts := later ts (cached.getD 0)
      if !e.v then ⟨.error (Cause.PAGE_ABSENT, BitVec.ofNat 64 a), used, lines, ts⟩
      else if e.malformed l then ⟨.error (Cause.PTE_INVALID, BitVec.ofNat 64 a), used, lines, ts⟩
      else if e.leaf then ⟨.ok ⟨e, a / 2 ^ l.shift * 2 ^ l.shift, 2 ^ l.shift⟩, used, lines, ts⟩
      else s.walk die dom holder tgen a ls e.pa ((addr, e) :: used) lines ts

/-- Bytes of device physical memory behind a leaf (R326, R328). -/
def Leaf.backing (l : Leaf) : Nat :=
  match fmtOf l.pte.fmt with
  | some g => l.size / 64 * g.blockBytes
  | none => l.size

/-- A cached translation that an access may use, with the time at which it was read (R329): its TGEN is current and its
extent's generation still stands. DESIGN CHOICE, log 81. -/
def State.tlbHit (s : State) (g : Ag) (holder a : Nat) : Option (Leaf × BitVec 64) :=
  if !g.inside then none
  else match s.tlb.find? fun t => t.cluster == clusterOf g.core && (t.core.isNone || t.core == some g.core) &&
      t.dom == g.dom && t.va ≤ a && a < t.va + t.size && t.tgen == (s.domainAt g.dom).tgen with
  | some t =>
    let l : Leaf := ⟨t.pte, t.va, t.size⟩
    if Config.freeBool s.n && (ctlBase ≤ l.pte.pa && l.pte.pa < ctlEnd ||
        s.backingOk holder l.pte.pa (l.pte.pa + l.backing) l.pte.xid l.pte.egen) then some (l, t.ts) else none
  | none => none

/-- The leaf for an address in a domain, cached or walked. -/
def State.leafFor (s : State) (g : Ag) (a : Nat) : Walked :=
  let d := s.domainAt g.dom
  let holder := s.domHolder g.dom
  if 2 ^ 57 ≤ a || !d.enable then ⟨.error (Cause.PAGE_ABSENT, BitVec.ofNat 64 a), [], [], 0⟩
  else match s.tlbHit g holder a with
    | some (l, ts) => ⟨.ok l, [], [], ts⟩
    | none => s.walk (dieOf g.core) g.dom holder d.tgen a levels ((d.root.extractLsb' 16 36).toNat * 65536) [] [] 0

/-- The caches with a walk's result in them: 64 translations of the core, 1,024 of the cluster, and the non-leaf entries
of the die (R329), all read by the time `ts`. -/
def State.cacheWalk (s : State) (g : Ag) (l : Leaf) (es : List (Nat × Pte)) (ts : BitVec 64) : State :=
  let tgen := (s.domainAt g.dom).tgen
  let cl := clusterOf g.core
  if !g.inside then s
  else
    let old := s.tlb.filter fun t =>
      !(t.cluster == cl && (t.core.isNone || t.core == some g.core) && t.dom == g.dom && t.va == l.va)
    { s with
      tlb := keepFirst (fun t => t.core == some g.core) 64 (keepFirst (fun t => t.cluster == cl && t.core.isNone) 1024
        (⟨cl, some g.core, g.dom, l.va, l.size, l.pte, tgen, ts⟩ :: ⟨cl, none, g.dom, l.va, l.size, l.pte, tgen, ts⟩ :: old))
      walks := (es.map fun e => ⟨dieOf g.core, g.dom, e.1, e.2, tgen, s.extentGen e.1, ts⟩) ++
        s.walks.filter fun w => !(w.die == dieOf g.core && w.dom == g.dom && es.any fun e => e.1 == w.addr) }

/-- Does device physical memory at `pa` belong to another device, the host or CXL (R255)? -/
def isExternal (pa : Nat) : Bool := decide (0x100000000000 ≤ pa)
def isHost (pa : Nat) : Bool := decide (0x100000000000 ≤ pa) && decide (pa < 0x200000000000)
def isPeer (pa : Nat) : Bool := decide (0x400000000000 ≤ pa)
/-- The Umanath port of a peer address (R327). -/
def portOf (pa : Nat) : Nat := (pa - 0x400000000000) / 2 ^ 40

/-- The checks of R325 on a leaf, the backing check (R328), the PASID (R331) and the LINK (R379). -/
def State.leafCheck (s : State) (g : Ag) (k : Acc) (l : Leaf) (a : Nat) : Option (BitVec 8) :=
  let e : Pte := l.pte
  let holder := s.domHolder g.dom
  if k == .read && !e.r then some Cause.PAGE_READ
  else if k == .write && !e.w then some Cause.PAGE_WRITE
  else if k == .fetch && (!e.x || e.fmt != 0) then some Cause.FETCH_FAULT
  else if !(ctlBase ≤ e.pa && e.pa < ctlEnd) && !s.backingOk holder e.pa (e.pa + l.backing) e.xid e.egen then some Cause.EXTENT_NOT_HELD
  else if isHost e.pa && (s.domainAt g.dom).pstate != 1 then some Cause.PASID_RETIRED
  else if isPeer e.pa && !s.usesOne holder cLink (portOf (e.pa + (a - l.va))) then some Cause.EXTENT_NOT_HELD
  else none

/-- Where a leaf takes the address (R326). -/
def Leaf.place (l : Leaf) (a : Nat) : Place :=
  let e : Pte := l.pte
  let o := a - l.va
  match fmtOf e.fmt with
  | some g => .fmt g e.pa o
  | none => if ctlBase ≤ e.pa && e.pa < ctlEnd then .ctl (e.pa + o) else .phys (e.pa + o)

def State.lineAt (s : State) (l : Nat) : LineTs := Table.get LineTs.zero s.lines l
def State.setLine (s : State) (l : Nat) (t : LineTs) : State := { s with lines := Table.put s.lines l t }

/-- A read step of locations that no cluster cache holds, at their homes: it grants no lease beyond the step (R249). -/
def State.stampReads (s : State) (ls : List Nat) (pts : BitVec 64) : BitVec 64 × State :=
  let p := ls.foldl (fun p l => later p (s.lineAt l).wts) pts
  (p, ls.foldl (fun s l => s.setLine l { s.lineAt l with rts := later (s.lineAt l).rts p }) s)

/-- The line of a domain's block, which holds its ROOT, ENABLE and TGEN (R322). -/
def domLine (d : Nat) : Nat := (ctlBase + 64 * d) / 128
/-- The entries of a walk as read steps of one time, not before `pts`, with the domain's block before them (R325, R329): its
time is kept for the access that it serves. -/
def State.readWalk (s : State) (g : Ag) (w : Walked) (pts : BitVec 64) : BitVec 64 × State :=
  let ls := domLine g.dom :: w.lines
  let r := (w.lines.foldl (fun s l => s.countL2 g.req false (128 * l)) s).stampReads ls (later pts w.ts)
  (r.1, { r.2 with walked := ls ++ s.walked.filter fun l => !ls.contains l, walkTs := later s.walkTs r.1 })

/-- Lines of a page of HBM are stored compressed where its leaf has CMP set (R332). -/
def State.noteCmp (s : State) (l : Leaf) : State :=
  let r := (l.pte.pa, l.pte.pa + l.backing)
  if hbmEnd ≤ l.pte.pa || s.cmp.contains r == l.pte.cmp then s
  else { s with cmp := if l.pte.cmp then r :: s.cmp else s.cmp.filter fun q => q != r }

/-- Translation of a global virtual address (R325), with the caches it leaves, and its read steps. -/
def State.translate (s : State) (g : Ag) (k : Acc) (a : Nat) : Except Trap (Place × State) :=
  let w := s.leafFor g a
  match w.leaf with
  | .error t => .error t
  | .ok l => match s.leafCheck g k l a with
    | some c => .error (c, BitVec.ofNat 64 a)
    | none =>
      let r := s.readWalk g w 0
      .ok (l.place a, (r.2.cacheWalk g l w.used r.1).noteCmp l)

/-- The attachment through which the core reaches a row: one that is live comes before one that is void (R235). -/
def Core.attachOf (c : Core) (row : Nat) : Option Attach :=
  let here := c.attach.filter fun t => t.base ≤ row && row < t.base + t.count
  match here.find? fun t => !t.void with
  | some t => some t
  | none => here.head?

/-- May the core's occupant reach the row (R66, R235, R346)? The cause where it may not. -/
def State.rowCheck (s : State) (k : Nat) (acc : Acc) (row : Nat) : Option (BitVec 8) :=
  let c := s.coreAt k
  if decide (row < c.rowsS) && (!c.limited || decide (row < c.rowsDecl)) then
    if s.rowForeign k row then some Cause.EXTENT_NOT_HELD else none
  else match c.attachOf row with
    | some t =>
      if t.void then some Cause.SEG_ATTACH_MISS
      else if s.rowForeign k row then some Cause.EXTENT_NOT_HELD
      else if acc == .write && !t.rw then some Cause.SEG_READ_ONLY
      else none
    | none => some Cause.ROW_UNDECLARED

/-- The rows that `n` bytes from a scratchpad address touch. -/
def rowsOf (a n : Nat) : List Nat := (List.range ((a % 128 + n + 127) / 128)).map fun i => a / 128 + i

/-- The meaning of an address (R66), with its checks. -/
def State.place (s : State) (g : Ag) (k : Acc) (a n : Nat) : Except Trap (Place × State) :=
  if a < 2 ^ 18 then
    match (rowsOf a n).findSome? (s.rowCheck g.core k) with
    | some c => .error (c, BitVec.ofNat 64 a)
    | none => .ok (.pool a, s)
  else if a < 2 ^ 32 then .error (Cause.NULL_WINDOW, BitVec.ofNat 64 a)
  else s.translate g k a

/-! The lease mechanism (R249). -/

def LEASE : Nat := 8
def AGE : Nat := 512
/-- The key of a pool row among the lines. -/
def rowKey (core row : Nat) : Nat := 2 ^ 52 + core * 2048 + row

/-- An event of code `ev` of the core whose access it is (R251, R358). -/
def State.countReq (s : State) (g : Ag) (ev : Nat) : State :=
  match g.req with
  | some k => s.count k ev 1
  | none => s
/-- Does the cluster of the agent hold the write lease of a line, and so act as its home (R254)? -/
def State.leased (s : State) (g : Ag) (l : Nat) : Bool := g.inside && (s.lineAt l).lease == some (clusterOf g.core)
/-- A lookup at the home slice of a line, where it is not this cluster that acts as the home (R254). -/
def State.lookHome (s : State) (g : Ag) (wr : Bool) (l : Nat) : State :=
  if s.leased g l then s else s.countL2 g.req wr (128 * l)

/-- An access that reaches a line's home from outside the cluster that holds a write lease on it makes
that cluster publish the line (R160), unless the cluster cache has evicted it before: a free choice, log 81 (R254). -/
def State.widen (s : State) (g : Ag) (l : Nat) : State :=
  match (s.lineAt l).lease with
  | none => s
  | some c =>
    if g.inside && c == clusterOf g.core then s
    else
      let evicted := Config.freeBool s.n
      let s := { s.setLine l { s.lineAt l with lease := none } with n := s.n + 1 }
      if evicted then s else s.countReq g 12

/-- Lines of a cluster cache of 512 KiB (R6). -/
def ccLines : Nat := 4096

/-- A read of a line at its home: a fill or a renewal, or of an agent without a cluster cache a read that grants no lease
(R249). -/
def State.homeRead (s : State) (g : Ag) (l : Nat) (pts : BitVec 64) : BitVec 64 × State :=
  let s := s.widen g l
  let t := s.lineAt l
  let p := later pts t.wts
  let t := { t with rts := later t.rts (if g.inside then p + BitVec.ofNat 64 LEASE else p) }
  let s := s.setLine l t
  if !g.inside then (p, s)
  else
    let cp : Copy := ⟨clusterOf g.core, l, s.mem.bytes (128 * l) 128, t.wts, t.rts, s.now⟩
    let old := s.copies.filter fun c => !(c.cluster == clusterOf g.core && c.line == l)
    (p, { s with copies := keepFirst (fun c => c.cluster == clusterOf g.core) ccLines (cp :: old) })

/-- A read step of `n` bytes of one line of HBM (R249): the copy of the cluster cache may serve it. `cc` tells whether the
lookup there is one that is counted (R366). DESIGN CHOICE, log 81. -/
def State.lineReadAs (s : State) (cc : Bool) (g : Ag) (pa n : Nat) (pts : BitVec 64) : List Byte × BitVec 64 × State :=
  let l := pa / 128
  let look (s : State) (hit : Bool) : State := if cc then s.countCc g.req g.core hit else s
  let home (s : State) (pts : BitVec 64) : List Byte × BitVec 64 × State :=
    let r := ((look s (s.leased g l)).lookHome g false l).homeRead g l pts
    (s.mem.bytes pa n, r.1, r.2)
  if !g.inside then home s pts
  else match s.copies.find? fun c => c.cluster == clusterOf g.core && c.line == l with
    | none => home s pts
    | some c =>
      let hit := Config.freeBool s.n
      let s := { s with n := s.n + 1 }
      if !hit then home s pts
      else if decide (c.rts.toNat < pts.toNat) || decide (c.fill + AGE ≤ s.now) then home (s.countReq g 10) pts
      else ((c.data.drop (pa % 128)).take n, later pts c.wts, look s true)

/-- The same of a data step or a card read: the lookup is counted where the agent has a cluster cache. DESIGN CHOICE, log 81. -/
def State.lineRead (s : State) (g : Ag) (pa n : Nat) (pts : BitVec 64) : List Byte × BitVec 64 × State :=
  s.lineReadAs g.inside g pa n pts

/-- A write step on some lines at their homes (R249): the writer's time, and the lines'. -/
def State.stampWrites (s : State) (g : Ag) (ls : List Nat) (pts : BitVec 64) : BitVec 64 × State :=
  let s := ls.foldl (fun s l => s.widen g l) s
  let ts := ls.foldl (fun ts l => later ts ((s.lineAt l).rts + 1)) pts
  let s := (ls.filter fun l => decide (128 * l < hbmEnd)).foldl (fun s l => s.lookHome g true l) s
  let s := if decide (pts.toNat < ts.toNat) then s.countReq g 11 else s
  (ts, ls.foldl (fun s l => s.setLine l { s.lineAt l with wts := ts, rts := ts }) s)
/-- A write step on one line. -/
def State.stampWrite (s : State) (g : Ag) (l : Nat) (pts : BitVec 64) : BitVec 64 × State := s.stampWrites g [l] pts

/-- A write step of an agent outside on `n` bytes of the control space: its time, not before `pts` (R246). -/
def State.ctlStamp (s : State) (pa n : Nat) (pts : BitVec 64) : BitVec 64 × State :=
  s.stampWrites (Ag.outside 0) [pa / 128, (pa + n - 1) / 128].eraseDups pts
/-- A store of control-space bytes by OID `o` that no context makes, as one step of an agent outside whose time is not
before `pts`; none where it is refused (R246, R322). -/
def State.ctlStep (s : State) (o pa : Nat) (bs : List Byte) (pts : BitVec 64) : Option (BitVec 64 × State) :=
  (s.ctlPut o pa bs).map fun s => s.ctlStamp pa bs.length pts
/-- A change that the device makes to `n` bytes of the control space, as a step that does not come before `pts` (R246). -/
def State.ctlMark (s : State) (pa n : Nat) (pts : BitVec 64) : State := (s.ctlStamp pa n pts).2
/-- One that the host makes, in the order in which its writes are delivered (R256). -/
def State.outMark (s : State) (pa n : Nat) : State :=
  let r := s.ctlStamp pa n s.outPts
  { r.2 with outPts := r.1 }
/-- The state of a domain, and of a queue slot, as the device changes it. -/
def State.stepDomain (s : State) (d : Nat) (x : Domain) : State := (s.setDomain d x).ctlMark (domBlock d) 64 0
def State.stepQslot (s : State) (i : Nat) (x : QSlot) (pts : BitVec 64) : State := (s.setQslot i x).ctlMark (slotBlock i) 64 pts
/-- A store of control-space bytes that nothing else orders. -/
def State.ctlWrite (s : State) (o pa : Nat) (bs : List Byte) : Option State := (s.ctlStep o pa bs 0).map Prod.snd

/-- A generation bump as one step on every line that `p` names (R259): a line that is not listed has had no step that a
time could order it after. -/
def State.stampBump (s : State) (p : Nat → Bool) (pts : BitVec 64) : BitVec 64 × State :=
  let ts := s.lines.foldl (fun ts l => if p l.1 then later ts (l.2.rts + 1) else ts) pts
  (ts, { s with lines := s.lines.map fun l => if p l.1 then (l.1, { wts := ts, rts := ts, lease := none }) else l })
/-- The bump of the pool rows of a core that `p` names. -/
def State.stampRows (s : State) (core : Nat) (p : Nat → Bool) (pts : BitVec 64) : BitVec 64 × State :=
  s.stampBump (fun l => rowKey core 0 ≤ l && l < rowKey core 2048 && p (l - rowKey core 0)) pts

/-- The time that an access follows: that of the agent, and that of the walks before it (R325). -/
def State.joinWalks (s : State) (pts : BitVec 64) : BitVec 64 := later pts s.walkTs
/-- An access at the time `pts` comes before the next write of the entries and of the TGEN that it rests on (R329). -/
def State.sealWalks (s : State) (pts : BitVec 64) : State := (s.stampReads s.walked pts).2

/-- A read step of one location that no cluster cache holds. -/
def State.stampHome (s : State) (l : Nat) (pts : BitVec 64) : BitVec 64 × State := s.stampReads [l] pts
/-- The same of a pool row. -/
def State.stampRow (s : State) (core row : Nat) (pts : BitVec 64) : BitVec 64 × State := s.stampHome (rowKey core row) pts

/-- What outside agents have written to their own memory meanwhile (R255). DESIGN CHOICE, log 6. -/
def State.outsideWrites (s : State) : State :=
  let ws := (Config.externalWrites s.n).filter fun w => isExternal w.1
  { s with mem := ws.foldl (fun m w => m.write w.1 w.2) s.mem, n := s.n + 1 }

/-- Runs of an external write at their home; one to a peer that cannot be delivered is discarded (R380). DESIGN CHOICE,
log 83. -/
def State.outPut (s : State) (rs : List (Nat × List Byte)) : State :=
  let lost := (rs.any fun r => isPeer r.1) && Config.freeBool s.n
  let s := { s with n := s.n + 1 }
  if lost then s else { s with mem := rs.foldl (fun m r => m.putBytes r.1 r.2) s.mem }

/-- Does a pending external write touch some of `n` bytes from `pa`? -/
def ExtWrite.touches (w : ExtWrite) (pa n : Nat) : Bool := decide (w.pa < pa + n) && decide (pa < w.pa + w.bs.length)
/-- Are two of one context, and to a common byte? -/
def ExtWrite.ordered (v w : ExtWrite) : Bool := v.core == w.core && v.ctx == w.ctx && v.touches w.pa w.bs.length
/-- The pending writes, each with whether it must land: those that `must` names, and those that come before one of them
(R255). -/
def mustLand (must : ExtWrite → Bool) : List ExtWrite → List (ExtWrite × Bool)
  | [] => []
  | w :: ws =>
    let r := mustLand must ws
    (w, must w || r.any fun v => v.2 && w.ordered v.1) :: r
/-- Pending external writes take effect at their homes: all that `must` names, and of the others those that a free choice
takes, but no write before an earlier one of its context to a common byte (R255). One to a peer that cannot be delivered
is discarded (R380). DESIGN CHOICE, log 96. -/
def State.landExt (s : State) (must : ExtWrite → Bool) : State :=
  let r := (mustLand must s.extw).foldl (fun (r : Memory × List ExtWrite × Nat) p =>
    let w := p.1
    if p.2 || (Config.freeBool r.2.2 && !r.2.1.any fun v => v.ordered w) then
      (if isPeer w.pa && Config.freeBool (r.2.2 + 1) then r.1 else r.1.putBytes w.pa w.bs, r.2.1, r.2.2 + 2)
    else (r.1, r.2.1 ++ [w], r.2.2 + 1)) (s.mem, [], s.n)
  { s with mem := r.1, extw := r.2.1, n := r.2.2 }
/-- Every external write of a context is acknowledged (R163). -/
def State.landCtx (s : State) (core ctx : Nat) : State := s.landExt fun w => w.core == core && w.ctx == ctx
/-- External writes to a range of physical addresses take effect before its holder changes (R276, R287). -/
def State.landRange (s : State) (lo hi : Nat) : State := s.landExt fun w => w.touches lo (hi - lo)
/-- A context's own writes to some of `n` external bytes take effect before it reads them (R255). -/
def State.landOwn (s : State) (core ctx pa n : Nat) : State := s.landExt fun w => w.core == core && w.ctx == ctx && w.touches pa n
/-- Every external write of a core's contexts is acknowledged. -/
def State.landCore (s : State) (core : Nat) : State := s.landExt fun w => w.core == core

/-- The lines that `n` bytes from `pa` touch, as parts of the range. -/
def lineParts : Nat → Nat → Nat → List (Nat × Nat)
  | 0, _, _ => []
  | fuel + 1, pa, n =>
    if n = 0 then []
    else
      let k := min n (128 - pa % 128)
      (pa, k) :: lineParts fuel (pa + k) (n - k)

/-- A read of device physical memory. -/
def State.physRead (s : State) (g : Ag) (pa n : Nat) (pts : BitVec 64) : List Byte × BitVec 64 × State :=
  if isExternal pa then
    let s := s.outsideWrites
    (s.mem.bytes pa n, pts, s)
  else
    (lineParts (n + 1) pa n).foldl (fun (r : List Byte × BitVec 64 × State) p =>
      let q := r.2.2.lineRead g p.1 p.2 r.2.1
      (r.1 ++ q.1, q.2.1, q.2.2)) ([], pts, s)

/-- An instruction-buffer fill: its lookup counts as no event of the cluster cache (R366). -/
def State.fillRead (s : State) (g : Ag) (pa : Nat) (pts : BitVec 64) : List Byte × BitVec 64 × State :=
  if isExternal pa then s.physRead g pa 128 pts else s.lineReadAs false g pa 128 pts

/-- A write of device physical memory. -/
def State.physWrite (s : State) (g : Ag) (pa : Nat) (bs : List Byte) (pts : BitVec 64) : BitVec 64 × State :=
  if isExternal pa then (pts, s.outsideWrites.outPut [(pa, bs)])
  else
    let r := (lineParts (bs.length + 1) pa bs.length).foldl (fun (r : BitVec 64 × State) p =>
      r.2.stampWrite g (p.1 / 128) r.1) (pts, s)
    (r.1, { r.2 with mem := r.2.mem.putBytes pa bs })

/-- A read of some ranges as one step, which may touch several lines: then all are read at their homes, at one time. -/
def State.spanRead (s : State) (g : Ag) (rs : List (Nat × Nat)) (pts : BitVec 64) : List Byte × BitVec 64 × State :=
  let s := if rs.any fun r => isExternal r.1 then s.outsideWrites else s
  match (rs.filter fun r => !isExternal r.1).flatMap fun r => lineParts (r.2 + 1) r.1 r.2 with
  | [p] =>
    let q := s.lineRead g p.1 p.2 pts
    (rs.flatMap fun r => if isExternal r.1 then s.mem.bytes r.1 r.2 else q.1, q.2.1, q.2.2)
  | ps =>
    let home (r : BitVec 64 × State) : BitVec 64 × State := ps.foldl (fun r p => r.2.homeRead g (p.1 / 128) r.1) r
    let s := ps.foldl (fun s p =>
      (if g.inside then s.countCc g.req g.core (s.leased g (p.1 / 128)) else s).lookHome g false (p.1 / 128)) s
    let r := home (home (pts, s))
    (rs.flatMap fun r => s.mem.bytes r.1 r.2, r.1, r.2)
/-- The same of one range. -/
def State.blockRead (s : State) (g : Ag) (pa n : Nat) (pts : BitVec 64) : List Byte × BitVec 64 × State := s.spanRead g [(pa, n)] pts

/-- A write of some ranges as one step. -/
def State.spanWrite (s : State) (g : Ag) (rs : List (Nat × List Byte)) (pts : BitVec 64) : BitVec 64 × State :=
  let ext := rs.filter fun r => isExternal r.1
  let dev := rs.filter fun r => !isExternal r.1
  let s := if ext.isEmpty then s else s.outsideWrites.outPut ext
  let r := s.stampWrites g (dev.flatMap fun r => (lineParts (r.2.length + 1) r.1 r.2.length).map fun p => p.1 / 128).eraseDups pts
  (r.1, { r.2 with mem := dev.foldl (fun m r => m.putBytes r.1 r.2) r.2.mem })

/-! Reads and writes at a place. -/

/-- The bytes of the decoded image of a block (R118). -/
def blockImage (g : GxT) (blk : Nat) : List Byte :=
  ((Block.unpack g.b blk).toF32 g.b).flatMap fun v => (List.range 4).map fun i => BitVec.ofNat 8 (v / 256 ^ i)

/-- The bytes of a number, little-endian. -/
def leOf : Nat → Nat → List Byte
  | 0, _ => []
  | n + 1, v => BitVec.ofNat 8 v :: leOf n (v / 256)

/-- A read step of `n` bytes at a place, after the walks. -/
def State.readPlace (s : State) (g : Ag) (p : Place) (a n : Nat) (pts : BitVec 64) :
    Except Trap (List Byte × BitVec 64 × State) :=
  match p with
  | .pool off =>
    let r := s.stampReads ((rowsOf off n).map (rowKey g.core)) pts
    .ok ((s.coreAt g.core).pool.bytes off n, r.1, r.2)
  | .phys pa => .ok (s.blockRead g pa n pts)
  | .ctl pa => match s.ctlRead (s.domHolder g.dom) pa n with
    | some bs =>
      let r := s.stampHome (pa / 128) pts
      .ok (bs, r.1, r.2)
    | none => .error (Cause.EXTENT_NOT_HELD, BitVec.ofNat 64 a)
  | .fmt f pa o =>
    let r := (List.range ((o % 64 + n + 63) / 64)).foldl (fun (r : List Byte × BitVec 64 × State) i =>
      let q := r.2.2.blockRead g (pa + (o / 64 + i) * f.blockBytes) f.blockBytes r.2.1
      (r.1 ++ blockImage f (leVal q.1), q.2.1, q.2.2)) ([], pts, s)
    .ok ((r.1.drop (o % 64)).take n, r.2.1, r.2.2)

/-- A read step of `n` bytes at a place of the agent, in the virtual address `a`. -/
def State.readAt (s : State) (g : Ag) (p : Place) (a n : Nat) (pts : BitVec 64) :
    Except Trap (List Byte × BitVec 64 × State) :=
  (s.readPlace g p a n (s.joinWalks pts)).map fun r => (r.1, r.2.1, r.2.2.sealWalks r.2.1)

/-- The bytes at a place as its home holds them. -/
def State.peekAt (s : State) (g : Ag) (p : Place) (a n : Nat) : Except Trap (List Byte × State) :=
  match p with
  | .pool off => .ok ((s.coreAt g.core).pool.bytes off n, s)
  | .phys pa =>
    let s := if isExternal pa then s.outsideWrites else s
    .ok (s.mem.bytes pa n, s)
  | .ctl pa => match s.ctlRead (s.domHolder g.dom) pa n with
    | some bs => .ok (bs, s)
    | none => .error (Cause.EXTENT_NOT_HELD, BitVec.ofNat 64 a)
  | .fmt f pa o => .ok (((blockImage f (s.mem.readLE (pa + o / 64 * f.blockBytes) f.blockBytes)).drop (o % 64)).take n, s)

/-- The times of a read step at a place's home. -/
def State.stampRead (s : State) (g : Ag) (p : Place) (pts : BitVec 64) : BitVec 64 × State :=
  let pts := s.joinWalks pts
  let r := match p with
    | .pool off => s.stampRow g.core (off / 128) pts
    | .phys pa => if isExternal pa then (pts, s) else (s.lookHome g false (pa / 128)).homeRead g (pa / 128) pts
    | .ctl pa => s.stampHome (pa / 128) pts
    | .fmt _ _ _ => (pts, s)
  (r.1, r.2.sealWalks r.1)

/-- The lookup of an atomic's line: one of scope .core or .cl executes in the cluster cache, and hits where it holds the
lease; one of a wider scope executes at the home slice, and ends a lease of this cluster (R159, R254, R366). -/
def State.atomicLook (s : State) (g : Ag) (p : Place) (near : Bool) : State :=
  match p with
  | .phys pa =>
    let l := pa / 128
    if isExternal pa then s
    else if near then s.countCc g.req g.core (s.leased g l)
    else if s.leased g l then s.setLine l { s.lineAt l with lease := none }
    else s
  | _ => s
/-- The write lease that an atomic of scope .core or .cl leaves on its line (R159, R160). -/
def State.takeLease (s : State) (g : Ag) (p : Place) (near : Bool) : State :=
  match p with
  | .phys pa =>
    if isExternal pa then s
    else s.setLine (pa / 128) { s.lineAt (pa / 128) with lease := if near then some (clusterOf g.core) else none }
  | _ => s

/-- Named segments of a core whose rows a write touches become DIRTY (R235). -/
def State.dirtyRows (s : State) (core : Nat) (rows : List Nat) : State :=
  { s with segs := s.segs.map fun g =>
      if g.core == core && (g.st == .resident || g.st == .making) && rows.any fun r => g.base ≤ r && r < g.base + g.count
      then { g with dirty := true } else g }
/-- The same for `n` bytes from a scratchpad address. -/
def State.dirtySegs (s : State) (core off n : Nat) : State := s.dirtyRows core (rowsOf off n)

/-- The bytes of a write step that may skip some: those it writes, in runs of address and bytes. -/
def runs : Nat → List (Option Byte) → List (Nat × List Byte)
  | _, [] => []
  | a, none :: bs => runs (a + 1) bs
  | a, some b :: bs => match runs (a + 1) bs with
    | (c, cs) :: rs => if c = a + 1 then (a, b :: cs) :: rs else (a, [b]) :: (c, cs) :: rs
    | [] => [(a, [b])]

/-- The write of some bytes of the decoded image of one block of a format page: the block is encoded anew
as one step (R58, R139). -/
def State.fmtBlock (s : State) (g : Ag) (f : GxT) (bpa o : Nat) (bs : List (Option Byte)) (pts : BitVec 64) :
    BitVec 64 × State × FFlags :=
  let old := s.mem.readLE bpa f.blockBytes
  let img := (blockImage f old).zipIdx.map fun (b, i) =>
    if o ≤ i then (bs.getD (i - o) none).getD b else b
  let els := (List.range 16).filter fun i => (List.range 4).any fun j =>
    o ≤ 4 * i + j && (bs.getD (4 * i + j - o) none).isSome
  if els.isEmpty then (pts, s, 0)
  else
    let v := gxStore f old (els.map fun i => (i, leVal ((img.drop (4 * i)).take 4)))
    let r := s.spanWrite g [(bpa, leOf f.blockBytes v.1)] pts
    (r.1, r.2, v.2)

/-- The same over every block that the bytes touch, in ascending address. -/
def State.fmtWrite (s : State) (g : Ag) (f : GxT) (pa o : Nat) (bs : List (Option Byte)) (pts : BitVec 64) :
    BitVec 64 × State × FFlags :=
  (List.range ((o % 64 + bs.length + 63) / 64)).foldl (fun (r : BitVec 64 × State × FFlags) i =>
    let skip := if i = 0 then 0 else 64 * i - o % 64
    let o' := if i = 0 then o % 64 else 0
    let q := r.2.1.fmtBlock g f (pa + (o / 64 + i) * f.blockBytes) o' ((bs.drop skip).take (64 - o')) r.1
    (q.1, q.2.1, r.2.2 ||| q.2.2)) (pts, s, 0)

/-- The runs of a write as control-space stores, made whole or not at all. -/
def State.ctlWrites (s : State) (o : Nat) : List (Nat × List Byte) → Option State
  | [] => some s
  | (pa, bs) :: rs => match s.ctlPut o pa bs with
    | some s => s.ctlWrites o rs
    | none => none

/-- A write step at a place, of the bytes that are given, after the walks. -/
def State.writePlace (s : State) (g : Ag) (p : Place) (a : Nat) (bs : List (Option Byte)) (pts : BitVec 64) :
    Except Trap (BitVec 64 × State × FFlags) :=
  match p with
  | .pool off =>
    let rs := runs off bs
    let rows := (rs.flatMap fun r => rowsOf r.1 r.2.length).eraseDups
    let r := s.stampWrites g (rows.map (rowKey g.core)) pts
    .ok (r.1, (r.2.updCoreAt g.core fun c => c.setRuns rows rs).dirtyRows g.core rows, 0)
  | .phys pa =>
    if isExternal pa then .ok (pts, s.outsideWrites.outPut (runs pa bs), 0)
    else
      let r := s.stampWrites g ((lineParts (bs.length + 1) pa bs.length).map fun p => p.1 / 128) pts
      .ok (r.1, { r.2 with mem := (runs pa bs).foldl (fun m r => m.putBytes r.1 r.2) r.2.mem }, 0)
  | .ctl pa => match s.ctlWrites (s.domHolder g.dom) (runs pa bs) with
    | some s =>
      let r := s.stampWrite g (pa / 128) pts
      .ok (r.1, r.2, 0)
    | none => .error (Cause.EXTENT_NOT_HELD, BitVec.ofNat 64 a)
  | .fmt f pa o => .ok (s.fmtWrite g f pa o bs pts)

/-- A write step at a place of the agent, of the bytes that are given: the writer's time, the state, and the flags of a
conversion. -/
def State.writeAt (s : State) (g : Ag) (p : Place) (a : Nat) (bs : List (Option Byte)) (pts : BitVec 64) :
    Except Trap (BitVec 64 × State × FFlags) :=
  (s.writePlace g p a bs (s.joinWalks pts)).map fun r => (r.1, r.2.1.sealWalks r.1, r.2.2)

end Sys2Proof.Machine
end

