-- ==== Sys2Proof/Machine/Log.lean ====
section
/-! DEFINITION. Record and replay (R386 to R388). -/

namespace Sys2Proof.Machine

/-- The launch in a slot, with the slot. -/
def State.slotLaunch (s : State) (slot : Nat) : Option (Nat × Launch) := s.slots.find? fun p => p.1 == slot
/-- The launch of the task of a core, with its slot (R14). -/
def State.taskLaunch (s : State) (k : Nat) : Option (Nat × Launch) :=
  let c := s.coreAt k
  if c.task then s.slotLaunch (c.ctarget.toNat % 256) else none

/-- An access to the log of a launch, in its domain. -/
def Launch.logAg (l : Launch) : Ag := Ag.outside l.domain

/-- Where a virtual address of the launch's domain takes an access to its log (R386). -/
def State.logPlace (s : State) (l : Launch) (acc : Acc) (a : Nat) : Except Trap (Place × State) :=
  s.translate l.logAg acc a

/-- A log entry of 32 bytes (R387). -/
def logEntry (kind ctx core seq : Nat) (addr : Word) (v : Nat) : Nat :=
  kind + 2 ^ 8 * ctx + 2 ^ 16 * core + 2 ^ 32 * (seq % 2 ^ 32) + 2 ^ 64 * addr.toNat + 2 ^ 128 * (v % 2 ^ 128)

/-- An entry is appended at the log's position; past the end FULL is set (R387). An entry that cannot be
written through the domain's translation is lost. No write of an outside agent falls between it and the event (R158). DESIGN
CHOICE, log 16. -/
def State.logAppend (s : State) (slot : Nat) (l : Launch) (kind ctx core : Nat) (addr : Word) (v : Nat) : State :=
  let d := s.logAt l.domain l.logNo
  if d.2 then s
  else if l.logLen < d.1 + 32 then (s.setLog l.domain l.logNo (d.1, true)).ctlMark (logdBlock l.domain) 16 0
  else
    let a := l.logBase.toNat + d.1
    let seq := Table.get 0 l.logSeq core
    let s := { s with slots := Table.put s.slots slot { l with logSeq := Table.put l.logSeq core (seq + 1) } }
    let s := s.setLog l.domain l.logNo (d.1 + 32, false)
    match s.logPlace l .write a with
    | .error _ => s
    | .ok (p, s) =>
      let bs := leOf 32 (logEntry kind ctx core seq addr v)
      match p with
      | .phys pa => if isExternal pa then s.outPut [(pa, bs)] else (s.physWrite l.logAg pa bs 0).2
      | _ => match s.writeAt l.logAg p a (bs.map some) 0 with
        | .ok (_, s, _) => s
        | .error _ => s

/-- Entry `i` of a launch's log; none past its end. DESIGN CHOICE, log 16. -/
def State.logRead (s : State) (l : Launch) (i : Nat) : Option Nat :=
  if l.logLen < 32 * i + 32 then none
  else
    let a := l.logBase.toNat + 32 * i
    match s.logPlace l .read a with
    | .error _ => none
    | .ok (p, s) => match s.peekAt l.logAg p a 32 with
      | .ok (bs, _) => some (leVal bs)
      | .error _ => none

/-- The `skip`-th entry at or after entry `i` that a core made while it ran (kinds 3 to 6). -/
def State.logFind (s : State) (l : Launch) (core : Nat) : Nat → Nat → Nat → Option Nat
  | 0, _, _ => none
  | fuel + 1, i, skip =>
    match s.logRead l i with
    | none => none
    | some e =>
      if 3 ≤ e % 256 && e / 2 ^ 16 % 2 ^ 16 == core then
        if skip = 0 then some e else s.logFind l core fuel (i + 1) (skip - 1)
      else s.logFind l core fuel (i + 1) skip

/-- An event of a core for a launch under record or replay: the value it takes, which is the logged one in replay
(R388). -/
def State.loggedFor (s : State) (launch : Option (Nat × Launch)) (core ctx kind : Nat) (addr : Word) (v : Nat) :
    Except Trap (Nat × State) :=
  match launch with
  | none => .ok (v, s)
  | some (slot, l) =>
    if l.logMode = 1 then .ok (v, s.logAppend slot l kind ctx core addr v)
    else if l.logMode = 2 then
      let seq := Table.get 0 l.logSeq core
      match s.logFind l core (l.logLen / 32) 0 seq with
      | some e =>
        if e % 256 == kind && e / 256 % 256 == ctx && e / 2 ^ 64 % 2 ^ 64 == addr.toNat then
          .ok (e / 2 ^ 128, { s with slots := Table.put s.slots slot { l with logSeq := Table.put l.logSeq core (seq + 1) } })
        else .error (Cause.REPLAY_DIVERGE, BitVec.ofNat 64 seq)
      | none => .error (Cause.REPLAY_DIVERGE, BitVec.ofNat 64 seq)
    else .ok (v, s)

/-- An event of a running core. -/
def State.logged (s : State) (core ctx kind : Nat) (addr : Word) (v : Nat) : Except Trap (Nat × State) :=
  s.loggedFor (s.taskLaunch core) core ctx kind addr v

/-- A read of the host window for a launch by an agent of a core under record or replay (R387, R388): the data, 16 bytes to an
entry. -/
def State.hostLogFor (s : State) (launch : State → Option (Nat × Launch)) (core ctx : Nat) :
    Nat → Word → List Byte → Except Trap (List Byte × State)
  | 0, _, bs => .ok (bs, s)
  | fuel + 1, a, bs =>
    if bs.isEmpty then .ok ([], s)
    else match s.loggedFor (launch s) core ctx 6 a (leVal (bs.take 16)) with
      | .error t => .error t
      | .ok (v, s) => match s.hostLogFor launch core ctx fuel (a + 16) (bs.drop 16) with
        | .error t => .error t
        | .ok (rest, s) => .ok (leOf (bs.take 16).length v ++ rest, s)
/-- One for the task of the core. -/
def State.hostLog (s : State) (core ctx n : Nat) (a : Word) (bs : List Byte) : Except Trap (List Byte × State) :=
  s.hostLogFor (fun s => s.taskLaunch core) core ctx n a bs

/-- Is the place in the host window? -/
def Place.host : Place → Bool
  | .phys pa => isHost pa
  | _ => false

/-- Is the task of a core in replay? -/
def State.replaying (s : State) (core : Nat) : Bool :=
  match s.taskLaunch core with
  | some (_, l) => l.logMode == 2
  | none => false

end Sys2Proof.Machine
end

