-- ==== Sys2Proof/Machine/Access.lean ====
section
/-! DEFINITION. How an instruction can end early, and the accesses that a context makes: the checks of R116
in their order, watches (R337), the stalls behind cards and stores (R190, R249), and external accesses. -/

namespace Sys2Proof.Machine

/-- Why the meaning of an instruction does not go on. -/
inductive Halt where
  /-- a fault (R334) -/
  | trap (cause : BitVec 8) (tval : Word)
  /-- the condition of a Wait does not hold (R89); the state is what the attempt leaves -/
  | wait (s : State) (w : Wait)
deriving DecidableEq, Repr

abbrev Run (α : Type) := Except Halt α

/-- A fault, as the rules write it. -/
def fault {α : Type} (cause : BitVec 8) (tval : Word) : Run α := .error (.trap cause tval)
/-- A Wait that does not end yet. -/
def waiting {α : Type} (s : State) : Run α := .error (.wait s .other)

def liftTrap {α : Type} : Except Trap α → Run α
  | .ok a => .ok a
  | .error t => .error (.trap t.1 t.2)

/-- The executing context as an agent. -/
def State.ag (s : State) : Ag := Ag.ofCore s.cur s.cur s.core.domain.toNat
/-- A word from a number. -/
def word (n : Nat) : Word := BitVec.ofNat 64 n

/-- The answer that the instruction's global access at `a` awaits (R331, R380), if it awaits one. -/
def State.awaited (s : State) (a : Word) : Option ExtWait := s.me.ext.filter fun e => e.va == a && decide (2 ^ 32 ≤ a.toNat)

/-- The checks of R116 and R66 on an access of `n` bytes at `a` that must be aligned to `z`; `stk` where
its base register is x2. An access that has passed them and awaits the host's translation goes on by the answer alone
(R331). -/
def State.accCheck (s : State) (acc : Acc) (stk : Bool) (a : Word) (z n : Nat) : Run (Place × State) :=
  if a.toNat % z ≠ 0 then fault Cause.MISALIGNED a
  else if stk && decide (a.toNat < s.me.stacklim.toNat) then fault Cause.STACK_LIMIT a
  else match s.awaited a with
    | some ⟨false, _, _, _, none⟩ => waiting s
    | some ⟨false, _, _, _, some c⟩ => if c = 0 then liftTrap (s.place s.ag acc a.toNat n) else fault c a
    | _ => liftTrap (s.place s.ag acc a.toNat n)

/-- Does the watch of the core cover an access in these kinds (R337)? DEDUCED, log 55. -/
def Core.watched (c : Core) (rd wr : Bool) (a n : Nat) : Bool :=
  let mode := c.wctl.toNat % 4
  let len := c.wctl.toNat / 2 ^ 16 % 2 ^ 16
  ((rd && mode % 2 == 1) || (wr && mode / 2 == 1)) && decide (c.waddr.toNat < a + n) && decide (a < c.waddr.toNat + len)

/-- An access to the memory of the host or of a peer: the answers it may have to wait for (R331, R380). A store to a peer
waits for none, but may be refused. DESIGN CHOICE, log 83. -/
def State.extGate (s : State) (wr : Bool) (p : Place) (a : Word) : Run State :=
  match p with
  | .phys pa =>
    if !isExternal pa then .ok s
    else match s.awaited a with
      | some e => match e.answer with
        | some c =>
          if c = 0 then .ok (s.updMe fun c => { c with ext := none }) else fault c a
        | none =>
          if !e.peer then waiting s
          else
            let yes := Config.freeBool s.n
            let bad := Config.freeBool (s.n + 1)
            let s := { s with n := s.n + 2 }
            if !yes then waiting s
            else if bad then fault Cause.EXTENT_NOT_HELD a
            else .ok (s.updMe fun c => { c with ext := none })
      | none =>
        if s.me.ext.isSome then .ok s
        else if isHost pa then
          let known := Config.freeBool s.n
          let s := { s with n := s.n + 1 }
          if known then .ok s
          else
            let d := s.core.domain.toNat
            let s := s.setDomain d { s.domainAt d with atsOut := (s.domainAt d).atsOut + 1 }
            waiting (s.updMe fun c => { c with ext := some ⟨false, d, a, s.now, none⟩ })
        else if isPeer pa && wr then
          let bad := Config.freeBool s.n
          let s := { s with n := s.n + 1 }
          if bad then fault Cause.EXTENT_NOT_HELD a else .ok s
        else if isPeer pa then
          let now := Config.freeBool s.n
          let s := { s with n := s.n + 1 }
          if now then .ok s
          else waiting (s.updMe fun c => { c with ext := some ⟨true, 0, a, s.now, none⟩ })
        else .ok s
  | _ => .ok s

/-- The first byte of an external place (R255). -/
def Place.ext? : Place → Option Nat
  | .phys pa => if isExternal pa then some pa else none
  | _ => none
/-- Is the place external (R255)? -/
def Place.external (p : Place) : Bool := p.ext?.isSome

/-- What the host or a peer answers to an access of a unit of the device, or of an engine to a peer: a free choice of an answer that
the access may have, log 83. A translation that the host refuses is PAGE_ABSENT, and a request that a peer refuses
EXTENT_NOT_HELD; a peer's silence is PAGE_ABSENT for a read or an atomic, while a write (`wr`) is then discarded, which
`State.outPut` does (R331, R369, R380). -/
def State.extAnswer (s : State) (wr : Bool) (p : Place) (a : Nat) : Option Trap × State :=
  match p.ext? with
  | none => (none, s)
  | some pa =>
    let good := Config.freeBool s.n
    let lost := Config.freeBool (s.n + 1)
    let s := { s with n := s.n + 2 }
    if good || !(isHost pa || isPeer pa) then (none, s)
    else if isHost pa || (lost && !wr) then (some (Cause.PAGE_ABSENT, word a), s)
    else (some (Cause.EXTENT_NOT_HELD, word a), s)

/-- What an engine's access comes to at the host or a peer: it goes on, it ends with a fault, or it must wait for the host's
translation, with the request that it makes. -/
inductive Gate where
  | go (s : State) (ext : Option ExtWait)
  | bad (s : State) (t : Trap)
  | ask (s : State) (w : ExtWait)
deriving DecidableEq, Repr
/-- The gate of an access of a card in a domain at `a`, where `ext` is the request that the card has made for it: a card whose
translation the I/O die does not hold asks the host for it (R331). Whether it is held is a free choice. DESIGN CHOICE, log 83. -/
def State.cardGate (s : State) (dom : Nat) (ext : Option ExtWait) (wr : Bool) (p : Place) (a : Nat) : Gate :=
  let host := match p.ext? with
    | some pa => isHost pa
    | none => false
  if !host then
    match s.extAnswer wr p a with
    | (some t, s) => .bad s t
    | (none, s) => .go s ext
  else match ext.filter fun e => e.va == word a with
    | some ⟨_, _, _, _, some c⟩ => if c = 0 then .go s none else .bad s (c, word a)
    | _ =>
      let known := Config.freeBool s.n
      let s := { s with n := s.n + 1 }
      if known then .go s ext else .ask s ⟨false, dom, word a, s.now, none⟩

/-- What stands between the checks of an access and its step: a watch, a card of the core, an earlier global
store whose timestamp has not returned, and the answers to an external access. `lo` is the lowest byte of the step that
the access is a part of. -/
def State.partReady (s : State) (lo : Word) (rd wr : Bool) (p : Place) (a : Word) (n : Nat) : Run State :=
  if s.core.watched rd wr a.toNat n then fault Cause.WATCH lo
  else if s.core.cardStall wr a.toNat n then .error (.wait s .card)
  else if decide (2 ^ 32 ≤ a.toNat) && s.me.storing then waiting s
  else s.extGate (wr && !rd) p a
/-- The same for an access that is a step of its own. -/
def State.accReady (s : State) (rd wr : Bool) (p : Place) (a : Word) (n : Nat) : Run State := s.partReady a rd wr p a n

/-- The lines of virtual addresses that `n` bytes from a global address touch. -/
def globalLines (a : Word) (n : Nat) : List Nat := if decide (a.toNat < 2 ^ 32) then [] else rowsOf a.toNat n
/-- A step of the context at the time `t` on `n` bytes from `a` (R190). -/
def State.touch (s : State) (a : Word) (n : Nat) (t : BitVec 64) : State :=
  match globalLines a n with
  | [] => s
  | ls => s.updCore fun c => { c with touched := ls.foldl (fun m l => Table.put m l (later (Table.get 0 m l) t)) c.touched }
/-- The time that a card follows for the accesses of the core's contexts to its ranges (R190). -/
def Core.touchedBy (c : Core) (k : Card) : BitVec 64 :=
  c.touched.foldl (fun t p =>
    if (List.range 3).any fun i => (k.fp i).used && !(k.fp i).remote && (k.fp i).glb &&
      decide ((k.fp i).addr < 128 * p.1 + 128) && decide (128 * p.1 < (k.fp i).addr + (k.fp i).len) then later t p.2 else t) 0

/-- A read step of the context. -/
def State.ctxRead (s : State) (p : Place) (a : Word) (n : Nat) : Run (List Byte × State) :=
  let s := match p.ext? with
    | some pa => s.landOwn s.cur s.ctx pa n
    | none => s
  match liftTrap (s.readAt s.ag p a.toNat n s.me.pts) with
  | .error e => .error e
  | .ok (bs, pts, s) =>
    let s := (s.updMe fun c => { c with pts := pts }).touch a n pts
    if p.host then liftTrap (s.hostLog s.cur s.ctx n a bs) else .ok (bs, s)

/-- The context follows the walks of an external access, which is no step of the memory order itself (R255, R325). -/
def State.followWalks (s : State) : State :=
  let t := s.joinWalks s.me.pts
  (s.sealWalks t).updMe fun c => { c with pts := t }
/-- A write step of the context: where `fl`, it sets the flags of a conversion in the context (R57). A store that is
not to the scratchpad leaves its timestamp outstanding (R249), and an external one is on its way to its home until it is
acknowledged (R163, R255). -/
def State.stepWrite (s : State) (fl : Bool) (p : Place) (a : Word) (bs : List (Option Byte)) : Run State :=
  match p.ext? with
  | some pa =>
    let l := (s.taskLaunch s.cur).map fun p => p.2.seq
    let s := { s with extw := s.extw ++ (runs pa bs).map fun (r : Nat × List Byte) => (⟨s.cur, s.ctx, l, r.1, r.2⟩ : ExtWrite) }
    .ok (s.followWalks.updMe fun c => { c with extOut := true })
  | none => match liftTrap (s.writeAt s.ag p a.toNat bs s.me.pts) with
    | .error e => .error e
    | .ok (pts, s, f) =>
      .ok ((s.updMe fun c => { c with
        pts := pts, fpflags := if fl then c.fpflags ||| f else c.fpflags
        storing := c.storing || decide (2 ^ 32 ≤ a.toNat) }).touch a bs.length pts)
/-- A write step of an instruction that sets flags. -/
def State.ctxWrite (s : State) (p : Place) (a : Word) (bs : List (Option Byte)) : Run State := s.stepWrite true p a bs

/-- Is the place in the decoded image of a format page? A store there reads and writes its block (R58, R246). -/
def Place.image : Place → Bool
  | .fmt _ _ _ => true
  | _ => false

/-- A load of `n` bytes (R116). -/
def State.load (s : State) (stk : Bool) (a : Word) (n : Nat) : Run (Nat × State) := do
  let (p, s) ← s.accCheck .read stk a n n
  let s ← s.accReady true false p a n
  let (bs, s) ← s.ctxRead p a n
  .ok (leVal bs, s)

/-- A store of the low `n` bytes of `v` (R116). -/
def State.store (s : State) (stk : Bool) (a : Word) (n v : Nat) : Run State := do
  let (p, s) ← s.accCheck .write stk a n n
  let s ← s.accReady p.image true p a n
  s.ctxWrite p a ((leOf n v).map some)

/-- One lane of a vector access: its address and, for a store, its bytes. -/
structure Lane where
  a : Word
  bs : List Byte
deriving DecidableEq, Repr

/-- The checks of every lane, in lane order (R137). -/
def State.lanesCheck (s : State) (acc : Acc) (stk : Bool) (z : Nat) : List Lane → Run (List (Place × Lane) × State)
  | [] => .ok ([], s)
  | l :: ls => do
    let (p, s) ← s.accCheck acc stk l.a z z
    let (ps, s) ← s.lanesCheck acc stk z ls
    .ok ((p, l) :: ps, s)

/-- Everything the lanes wait for, in lane order; `lo` tells the lowest byte of the step of a lane, and `rd` whether it reads
there. -/
def State.lanesReady (s : State) (lo : Place × Lane → Word) (rd : Place × Lane → Bool) (wr : Bool) (z : Nat) :
    List (Place × Lane) → Run State
  | [] => .ok s
  | x :: ls => do
    let s ← s.partReady (lo x) (rd x) wr x.1 x.2.a z
    s.lanesReady lo rd wr z ls

/-- Do the bytes of all the lanes lie in one aligned 128-byte span (R138)? -/
def oneSpan (z : Nat) : List (Place × Lane) → Bool
  | [] => true
  | (_, l) :: ls => ls.all fun m => m.2.a.toNat / 128 == l.a.toNat / 128 && (m.2.a.toNat + z - 1) / 128 == l.a.toNat / 128

/-- The address of a lane. -/
def laneAddr (x : Place × Lane) : Nat := x.2.a.toNat
/-- Where a lane lies in the decoded image of its block of a format page, which two virtual pages may show. -/
def lanePos (x : Place × Lane) : Nat :=
  match x.1 with
  | .fmt _ _ o => o % 64
  | _ => 0

/-- The lowest of some lanes, by a position. -/
def lowest (pos : Place × Lane → Nat) : (Place × Lane) → List (Place × Lane) → Place × Lane
  | x, [] => x
  | x, y :: ys => let m := lowest pos y ys
    if pos x ≤ pos m then x else m

/-- The bytes of some stores from position `lo` on: a later lane replaces an earlier one. -/
def mergeLanes (lo : Nat) (ls : List (Nat × List Byte)) : List (Option Byte) :=
  let n := ls.foldl (fun m l => max m (l.1 - lo + l.2.length)) 0
  (List.range n).map fun i => ls.foldl (fun o l =>
    if l.1 ≤ lo + i && lo + i < l.1 + l.2.length then some (l.2.getD (lo + i - l.1) 0) else o) none

/-- One write step for a group of lanes, which lie by a position: a vector store sets no flag (R134). In the control space a
step that is refused is so at the address of its lowest lane. DEDUCED, log 106. -/
def State.groupWrite (s : State) (pos : Place × Lane → Nat) : List (Place × Lane) → Run State
  | [] => .ok s
  | x :: xs =>
    let m := lowest pos x xs
    s.stepWrite false m.1 m.2.a (mergeLanes (pos m) ((x :: xs).map fun y => (pos y, y.2.bs)))

/-- The block of a format page that a lane falls in: the format, and the block's first byte. -/
def blockKey : Place → Option (GxT × Nat)
  | .fmt f pa o => some (f, pa + o / 64 * f.blockBytes)
  | _ => none

/-- The write steps of a vector store that is not one step: ascending lanes, but a block of a format page
takes all its lanes in one step (R138, R139). -/
def State.lanesWrite (s : State) : Nat → List (Place × Lane) → Run State
  | _, [] => .ok s
  | 0, _ => .ok s
  | fuel + 1, x :: xs => match blockKey x.1 with
    | none => do
      let s ← s.groupWrite laneAddr [x]
      s.lanesWrite fuel xs
    | some k => do
      let s ← s.groupWrite lanePos (x :: xs.filter fun y => blockKey y.1 == some k)
      s.lanesWrite fuel (xs.filter fun y => blockKey y.1 != some k)

/-- The lanes of the step of a vector access that a lane belongs to: all of them where it is one step, else those of its
block of a format page, else itself alone (R138, R139). -/
def stepLanes (one : Bool) (z : Nat) (ps : List (Place × Lane)) (x : Place × Lane) : List (Place × Lane) :=
  if one && oneSpan z ps then ps
  else match blockKey x.1 with
    | some k => ps.filter fun y => blockKey y.1 == some k
    | none => [x]
/-- The lowest byte of that step (R337). -/
def stepLo (one : Bool) (z : Nat) (ps : List (Place × Lane)) (x : Place × Lane) : Word :=
  (lowest laneAddr x (stepLanes one z ps x)).2.a
/-- Does a store in a lane read too: does its step leave some element of its block of a format page as it was (R58, R246)? -/
def laneReads (z : Nat) (ps : List (Place × Lane)) (x : Place × Lane) : Bool :=
  match blockKey x.1 with
  | none => false
  | some k =>
    let ys := ps.filter fun y => blockKey y.1 == some k
    !(List.range 64).all fun i => ys.any fun y => decide (lanePos y ≤ i) && decide (i < lanePos y + z)

/-- The core with its write buffers as one step of an instruction leaves them that writes these rows of the pool: an
entry for each distinct row (R68, R137). -/
def State.rowEntries (s : State) (before : List (List Nat)) (rows : List Nat) : State :=
  s.updCore fun c => { c with wbuf := rows.eraseDups.foldl wbufPush before }

/-- The row of a place in the pool. -/
def Place.row? : Place → Option Nat
  | .pool off => some (off / 128)
  | _ => none

/-- A vector store of lanes of `z` bytes (R137 to R139); `one` where its form can be one step. DESIGN CHOICE, log 47. -/
def State.vstore (s : State) (one stk : Bool) (z : Nat) (ls : List Lane) : Run State := do
  let (ps, s) ← s.lanesCheck .write stk z ls
  let s ← s.lanesReady (stepLo one z ps) (laneReads z ps) true z ps
  let t ← if one && oneSpan z ps then s.groupWrite laneAddr ps else s.lanesWrite (ps.length + 1) ps
  .ok (t.rowEntries s.core.wbuf (ps.filterMap fun p => p.1.row?))

/-- Blocks of format pages that a vector load has read, with their decoded images. -/
abbrev Blocks := List ((GxT × Nat) × List Byte)
/-- The read steps of a vector load, one for each lane, but a block of a format page is read once for all its lanes (R138,
R260). -/
def State.lanesRead (s : State) (z : Nat) : Blocks → List (Place × Lane) → Run (List Nat × State)
  | _, [] => .ok ([], s)
  | seen, (p, l) :: ls =>
    match p with
    | .fmt f pa o => do
      let key := (f, pa + o / 64 * f.blockBytes)
      let (img, s) ← match seen.find? fun b => b.1 == key with
        | some b => .ok (b.2, s)
        | none => s.ctxRead (.fmt f pa (o / 64 * 64)) l.a 64
      let (vs, s) ← s.lanesRead z ((key, img) :: seen) ls
      .ok (leVal ((img.drop (o % 64)).take z) :: vs, s)
    | _ => do
      let (bs, s) ← s.ctxRead p l.a z
      let (vs, s) ← s.lanesRead z seen ls
      .ok (leVal bs :: vs, s)

/-- Is the place in the control space, whose unassigned bytes no access may touch (R322)? -/
def Place.control : Place → Bool
  | .ctl _ => true
  | _ => false

/-- A vector load of lanes of `z` bytes (R137, R138): their values in lane order. In the control space the lanes of one step
are read one by one, at one time. -/
def State.vload (s : State) (one stk : Bool) (z : Nat) (ls : List Lane) : Run (List Nat × State) := do
  let (ps, s) ← s.lanesCheck .read stk z ls
  let s ← s.lanesReady (stepLo one z ps) (fun _ => true) false z ps
  match ps with
  | [] => .ok ([], s)
  | x :: xs =>
    if one && oneSpan z ps && !x.1.control then
      let m := lowest laneAddr x xs
      let lo := m.2.a.toNat
      let n := xs.foldl (fun k l => max k (l.2.a.toNat + z - lo)) (x.2.a.toNat + z - lo)
      let (bs, s) ← s.ctxRead m.1 m.2.a n
      .ok (ps.map fun l => leVal ((bs.drop (l.2.a.toNat - lo)).take z), s)
    else s.lanesRead z [] ps

/-- The write of an atomic at an external place: at its home nothing falls between it and the read (R158, R159).
DESIGN CHOICE, log 48. -/
def State.homePut (s : State) (p : Place) (bs : List Byte) : State :=
  match p with
  | .phys pa => ({ s with mem := s.mem.putBytes pa bs } : State).followWalks.updMe fun c => { c with extOut := true }
  | _ => s

/-- An atomic (R158): the old value, after the step that wrote `f` of it; `none` writes nothing. `near` where
its scope is .core or .cl. Record and replay log the old value (R387, R388). -/
def State.rmw (s : State) (stk near : Bool) (a : Word) (n : Nat) (f : Nat → Option Nat) : Run (Nat × State) := do
  let (p, s) ← s.accCheck .write stk a n n
  match p with
  | .fmt _ _ _ => fault Cause.FORMAT_ATOMIC a
  | _ =>
    if p.host && !s.atomicOps then fault Cause.PAGE_WRITE a
    else
    let s ← s.accReady true true p a n
    let s := if p.external then s.landCtx s.cur s.ctx else s
    let (bs, s) ← liftTrap (s.peekAt s.ag p a.toNat n)
    let (old, s) ← liftTrap (s.logged s.cur s.ctx 4 a (leVal bs))
    let s := s.atomicLook s.ag p near
    match f old with
    | some v =>
      let s ← if p.external then .ok (s.homePut p (leOf n v)) else s.ctxWrite p a ((leOf n v).map some)
      .ok (old, s.takeLease s.ag p near)
    | none =>
      let r := s.stampRead s.ag p s.me.pts
      .ok (old, ((r.2.updMe fun c => { c with pts := r.1 }).touch a n r.1).takeLease s.ag p near)

end Sys2Proof.Machine
end

