-- ==== Sys2Proof/Machine/BarOps.lean ====
section
/-! DEFINITION. Barriers and their links (R166 to R170, R265, R389): the events at the holding core, the
forming and leaving of a link, and byte credits. -/

namespace Sys2Proof.Machine

def Core.barAt (c : Core) (b : Nat) : Barrier := Table.get Barrier.zero c.bars b
def Core.setBar (c : Core) (b : Nat) (v : Barrier) : Core := { c with bars := Table.put c.bars b v }
def State.barAt (s : State) (k b : Nat) : Barrier := (s.coreAt k).barAt b
def State.setBar (s : State) (k b : Nat) (v : Barrier) : State := s.updCoreAt k fun c => c.setBar b v

/-- The cores of a link mask, in the cluster of core `k`, ascending. -/
def maskCores (k : Nat) (m : BitVec 16) : List Nat :=
  ((List.range 16).filter fun i => m.getLsbD i).map fun i => k / 16 * 16 + i
/-- The members of barrier `b` of core `k`: the link, or the core alone. -/
def State.barMembers (s : State) (k b : Nat) : List Nat :=
  if (s.barAt k b).mem = 0 then [k] else maskCores k (s.barAt k b).mem
/-- The core that holds the fields: the lowest member (R170). -/
def State.barHolder (s : State) (k b : Nat) : Nat := (s.barMembers k b).headD k

/-- Contexts 0 to 10. -/
def ctxNums : List Nat := List.range 11

/-- The marks of a context on a barrier (R166). -/
def Ctx.isPend (x : Ctx) (b : Nat) : Bool := x.pend.getLsbD b
def Ctx.isAph (x : Ctx) (b : Nat) : Bool := x.aph.getLsbD b
def Ctx.isDropped (x : Ctx) (b : Nat) : Bool := x.dropped.getLsbD b
def putBit {w : Nat} (m : BitVec w) (b : Nat) (v : Bool) : BitVec w := if v then setBit m b else clearBit m b

/-- Does a context sleep in bar.wait on `b` (R168)? -/
def Ctx.sleepsOn (x : Ctx) (b : Nat) : Bool :=
  x.st == .live && match x.wait with
    | .bar c woken => c == b && !woken
    | _ => false

def State.updCtx (s : State) (k j : Nat) (f : Ctx → Ctx) : State :=
  s.updCoreAt k fun c => c.setCtx j (f (c.ctxAt j))

/-- The contexts that a core lists. -/
def Core.liveCtxs (c : Core) : List Nat := ctxNums.filter fun j => (c.ctxAt j).st == .live

/-- Wake every context sleeping on `b`, on every member (R168). -/
def State.wakeBar (s : State) (k b : Nat) : State :=
  (s.barMembers k b).foldl (fun s m => ((s.coreAt m).liveCtxs).foldl (fun s j =>
    s.updCtx m j fun x => if x.sleepsOn b then { x with wait := .bar b true } else x) s) s

/-- TryComplete at the holding core `h` (R168). -/
def State.tryComplete (s : State) (h b : Nat) : State :=
  let v := s.barAt h b
  if v.arr = v.exp && v.barr == v.bexp then
    (s.setBar h b { v with
      phase := !v.phase, exp := v.exp - v.drops, arr := 0, drops := 0, barr := 0, bexp := 0 }).wakeBar h b
  else s

/-- The value `(n << 8) | b` of a barrier fault (R168, R210). -/
def barTval (n b : Nat) : Word := word (n * 256 + b)

/-- The functions of R167. -/
inductive BarFn where
  | init | arrive | drop | wait | expect | test
deriving DecidableEq, Repr

/-- Its code (R167). -/
def BarFn.code : BarFn → Nat
  | .init => 0 | .arrive => 1 | .drop => 2 | .wait => 3 | .expect => 4 | .test => 5
def BarFn.ofCode : Nat → BarFn
  | 0 => .init | 1 => .arrive | 2 => .drop | 3 => .wait | 4 => .expect | _ => .test

/-- The timestamp of an event of context `j` of core `k`: it follows every event before it at the barrier, and
the context's later steps follow it (R170, R249). -/
def State.barStamp (s : State) (k j b : Nat) : State :=
  let h := s.barHolder k b
  let t := later ((s.coreAt k).ctxAt j).pts (s.barAt h b).ts
  (s.setBar h b { s.barAt h b with ts := t }).updCtx k j fun x => { x with pts := t }

/-- An event of context `j` of core `k` at the holding core (R168): the state with its answer, or no answer
where a bar.wait must sleep. DEDUCED, log 86. -/
def State.barEvent (s : State) (k j b : Nat) (fn : BarFn) (n : Word) : State × Option BarAns :=
  let s := s.barStamp k j b
  let h := s.barHolder k b
  let v := s.barAt h b
  let x := (s.coreAt k).ctxAt j
  let busy := x.isDropped b || (x.isPend b && x.isAph b == v.phase) || v.arr == v.exp
  let mark (s : State) (d : Bool) : State := s.updCtx k j fun x =>
    { x with pend := setBit x.pend b, aph := putBit x.aph b v.phase,
             dropped := if d then setBit x.dropped b else x.dropped }
  match fn with
  | .init =>
    if (s.barMembers k b).any fun m => (s.coreAt m).liveCtxs.any fun i => ((s.coreAt m).ctxAt i).sleepsOn b then
      (s, some (.bad Cause.BAR_BUSY (word b)))
    else if 255 < n.toNat then (s, some (.bad Cause.BAR_OVER (n <<< 8 ||| word b)))
    else
      let s := s.setBar h b { v with exp := BitVec.ofNat 8 n.toNat, arr := 0, drops := 0, bexp := 0, barr := 0 }
      let s := (s.barMembers k b).foldl (fun s m => ctxNums.foldl (fun s i =>
        if ((s.coreAt m).ctxAt i).pend.getLsbD b || ((s.coreAt m).ctxAt i).aph.getLsbD b || ((s.coreAt m).ctxAt i).dropped.getLsbD b then
          s.updCtx m i fun x => { x with pend := clearBit x.pend b, aph := clearBit x.aph b, dropped := clearBit x.dropped b }
        else s) s) s
      (s, some (.ok 0))
  | .arrive =>
    if busy then (s, some (.bad Cause.BAR_OVER (word b)))
    else ((mark (s.setBar h b { v with arr := v.arr + 1 }) false).tryComplete h b, some (.ok 0))
  | .drop =>
    if busy then (s, some (.bad Cause.BAR_OVER (word b)))
    else ((mark (s.setBar h b { v with arr := v.arr + 1, drops := v.drops + 1 }) true).tryComplete h b, some (.ok 0))
  | .wait =>
    let unpend (s : State) : State := s.updCtx k j fun x => { x with pend := clearBit x.pend b }
    if x.isPend b && x.isAph b != v.phase then (unpend s, some (.ok 0))
    else
      let s := s.tryComplete h b
      if (s.barAt h b).phase != v.phase then (unpend s, some (.ok 0)) else (s, none)
  | .expect =>
    if n.toNat < v.barr.toNat then (s, some (.bad Cause.BAR_BYTES_OVER (n <<< 8 ||| word b)))
    else ((s.setBar h b { v with bexp := BitVec.ofNat 32 n.toNat }).tryComplete h b, some (.ok 0))
  | .test =>
    (s, some (.ok (word (v.barr.toNat * 2 ^ 32 + v.exp.toNat * 2 ^ 24 + v.arr.toNat * 2 ^ 16 + (if x.isDropped b then 4 else 0) +
      (if x.isPend b then 2 else 0) + if v.phase then 1 else 0))))

/-- Does a packet come from the core (R341)? -/
def Packet.from (p : Packet) (k : Nat) : Bool := match p with
  | .bar _ src _ _ _ => src == k
  | .inbox src _ => src == k
  | .fwd src _ _ => src == k
  | .handover _ _ => false
/-- Packets that a core has sent and that have not been delivered, of one flit each: at most 32 (R341). -/
def State.outbound (s : State) (k : Nat) : Nat := s.barq.countP fun p => p.2.from k
def maxFlits : Nat := 32

/-- Is a link of `b` pending on the core (R170)? -/
def State.linkPending (s : State) (k b : Nat) : Bool := (s.barAt k b).want != 0

/-- A barrier of core `k` whose link has the members `mask` left; a stopped core that is the only one left has LINK naming
it alone (R389). -/
def Barrier.left (v : Barrier) (k : Nat) (stopped : Bool) (mask : BitVec 16) : Barrier :=
  { v with mem := mask, link := if stopped && mask == BitVec.ofNat 16 (2 ^ (k % 16)) then mask else v.link }

/-- A barrier handed over to core `k` (R389) belongs to the link as it stands when it is applied. -/
def Packet.relink (k b : Nat) (mask : BitVec 16) (p : Packet) : Packet := match p with
  | .handover c v => if c = b then .handover c (v.left k true mask) else p
  | _ => p

/-- A core leaves the link of `b`, or withdraws its pending mask; the fields go to the lowest remaining
member where it holds them (R170, R389). -/
def State.barLeave (s : State) (k b : Nat) : State :=
  let v := s.barAt k b
  if v.mem = 0 then
    if v.want = 0 then s else s.setBar k b { v with want := 0 }
  else
    let rest := (maskCores k v.mem).filter fun m => m != k
    let mask := clearBit v.mem (k % 16)
    let holds := s.barHolder k b == k
    let idle (m : Nat) : Bool := (s.coreAt m).hstat != HState.running
    let s := rest.foldl (fun s m => (s.setBar m b ((s.barAt m b).left m (idle m) mask)).updCoreAt m fun c =>
      { c with held := c.held.map (Packet.relink m b mask) }) s
    let s := match rest, holds with
      | m :: _, true =>
        let w := v.left m (idle m) mask
        if idle m then s.updCoreAt m fun c => { c with held := c.held ++ [Packet.handover b w] }
        else s.setBar m b w
      | _, _ => s
    s.setBar k b { v with mem := 0, want := 0 }

/-- The core leaves every link (R170, R173). -/
def State.leaveLinks (s : State) (k : Nat) : State :=
  ((s.coreAt k).bars.filter fun p => p.2.mem != 0 || p.2.want != 0).foldl (fun s p => s.barLeave k p.1) s

/-- What routers hold for a core is discarded where it is cleared (R341, R389); the sender of a
barrier event sends it again. -/
def State.dropHeld (s : State) (k : Nat) : State :=
  let gone := s.barq.filter fun p => p.1 == k
  let s := ({ s with barq := s.barq.filter fun p => p.1 != k }).updCoreAt k fun c => { c with held := [] }
  gone.foldl (fun s p => match p.2 with
    | .bar _ src j _ _ => s.updCtx src j fun x => if x.bans = some .sent then { x with bans := none } else x
    | _ => s) s

/-- How bar.link ends (R170). The mask of a member is the one that formed, LINK, also after another member has left: it has no
effect again, whoever holds the cores of the mask by then. A core that has left and names a link that the others keep stays
pending. DEDUCED, log 93. -/
def State.barLinkTo (s : State) (k b : Nat) (x : Word) : Option State :=
  let mask := BitVec.ofNat 16 x.toNat
  let cl := k / 16 * 16
  let given (j : Nat) : BitVec 16 := if (s.barAt (cl + j) b).mem = 0 then (s.barAt (cl + j) b).want else (s.barAt (cl + j) b).link
  if mask = 0 && x.toNat < 2 ^ 16 then some (s.barLeave k b)
  else if x.toNat < 2 ^ 16 && (s.barAt k b).mem != 0 && (s.barAt k b).link == mask then some s
  else if 2 ^ 16 ≤ x.toNat || !mask.getLsbD (k % 16) ||
      (maskCores k mask).any (fun m => !coreExists m || s.holderOf m != s.holderOf k) ||
      (List.range 16).any fun j => given j != 0 && given j != mask &&
        (cl + j == k || mask.getLsbD j || (given j).getLsbD (k % 16)) then none
  else
    let s := s.setBar k b { s.barAt k b with want := mask }
    if (maskCores k mask).all fun m => (s.barAt m b).want == mask then
      some ((maskCores k mask).foldl (fun s m => s.setBar m b { s.barAt m b with link := mask, mem := mask, want := 0 }) s)
    else some s

/-- How a byte credit ends. -/
inductive Credit where
  | made
  | refused (barr : Nat)
  | waits
deriving DecidableEq, Repr

/-- A byte credit of `n` to barrier `b` of core `k` at logical time `pts` (R168, R210, R389). -/
def State.credit (s : State) (k b n : Nat) (pts : BitVec 64) : Credit × State :=
  let h := s.barHolder k b
  let v := s.barAt h b
  if s.linkPending k b || (s.coreAt h).hstat != HState.running then (.waits, s)
  else if v.bexp.toNat < v.barr.toNat + n then (.refused (v.barr.toNat + n), s)
  else (.made, (s.setBar h b { v with barr := v.barr + BitVec.ofNat 32 n, ts := later pts v.ts }).tryComplete h b)

/-- A barrier event by the executing context: made here where the core holds the fields, else forwarded, and
its answer awaited (R170). -/
def State.barDo (s : State) (b : Nat) (fn : BarFn) (n : Word) : Run (Word × State) :=
  match s.me.bans with
  | some (.ok v) => .ok (v, s.updMe fun x => { x with bans := none })
  | some (.bad c t) => fault c t
  | some .sent => waiting s
  | none =>
    if s.linkPending s.cur b then waiting s
    else
      let h := s.barHolder s.cur b
      if h = s.cur then
        match s.barEvent s.cur s.ctx b fn n with
        | (s, some (.ok v)) => .ok (v, s)
        | (_, some (.bad c t)) => fault c t
        | (s, some .sent) => waiting s
        | (s, none) => .error (.wait s (.bar b false))
      else if (s.coreAt h).hstat != HState.running || decide (maxFlits ≤ s.outbound s.cur) then waiting s
      else
        let s := { s with barq := s.barq ++ [(h, Packet.bar b s.cur s.ctx fn.code n)] }
        waiting (s.updMe fun x => { x with bans := some .sent })

end Sys2Proof.Machine
end

