-- ==== Sys2Proof/Machine/SegOps.lean ====
section
/-! DEFINITION. The moves of a segment entry (R231 to R237, R244) that several instructions and events
share. -/

namespace Sys2Proof.Machine

/-- KPTS: the highest logical time used on the core (R338). -/
def Core.kptsNow (c : Core) : Word :=
  (c.cards.foldl (fun m k => later m k.pts) (c.ctxs.foldl (fun m p => later m p.2.pts) c.kpts))

/-- Is the entry live (R230)? -/
def Seg.live (g : Seg) : Bool := g.st != .dropped
/-- Is some attachment held? -/
def Seg.held (g : Seg) : Bool := g.wr || decide (0 < g.ro)
/-- Do the entry's rows stand in a pool? A dropped entry keeps its rows while it is listed. -/
def Seg.inPool (g : Seg) : Bool := g.st != .evicted
/-- Are two values the same directory entry? -/
def Seg.same (g h : Seg) : Bool := g.no == h.no

/-- The live entry of a name in a domain (R230). -/
def State.liveSeg (s : State) (dom : Nat) (name : Word) : Option Seg :=
  s.segs.find? fun g => g.dom == dom && g.name == name && g.live
def State.updSeg (s : State) (g : Seg) (h : Seg) : State :=
  { s with segs := s.segs.map fun x => if x.same g then h else x }
/-- The time of the last step on a name of a domain (R236). -/
def State.nameTime (s : State) (dom : Nat) (name : Word) : BitVec 64 :=
  let gone := s.names.foldl (fun t x => if x.1 == (dom, name) then later t x.2 else t) 0
  s.segs.foldl (fun t g => if g.dom == dom && g.name == name then later t g.ts else t) gone
def State.setName (s : State) (dom : Nat) (name : Word) (t : BitVec 64) : State :=
  { s with names := ((dom, name), t) :: s.names.filter fun x => x.1 != (dom, name) }
/-- The directory entry freed: later steps on its name follow its last (R236). -/
def State.removeSeg (s : State) (g : Seg) : State :=
  let t := s.nameTime g.dom g.name
  { s with segs := s.segs.filter fun x => !x.same g }.setName g.dom g.name t
/-- A step of the executing context on a name that no entry of the domain bears (R236). -/
def State.nameStep (s : State) (dom : Nat) (name : Word) : State :=
  let t := later s.me.pts (s.nameTime dom name)
  (s.setName dom name t).updMe fun x => { x with pts := t }

/-- Every attachment to the entry that is held on its core becomes void, and counts no more (R235, R237). -/
def State.voidAttach (s : State) (g : Seg) : State :=
  let voids (t : Attach) : Attach := if t.seg == some g.no then { t with void := true, seg := none } else t
  s.updCoreAt g.core fun c => { c with attach := c.attach.map voids }

/-- The write home of the entry's rows, one row after another, from a time on (R237); the fault of a translation that
fails, or that the host or a peer refuses (R369, R380). DEDUCED, log 63. -/
def State.writeHome (s : State) (g : Seg) : List Nat → BitVec 64 → Except Trap (BitVec 64 × State)
  | [], pts => .ok (pts, s)
  | i :: is, pts =>
    let ag := Ag.ofCore g.core g.core g.dom
    let a := g.home.toNat + 128 * i
    match s.translate ag .write a with
    | .error t => .error t
    | .ok (p, s) => match s.extAnswer true p a with
    | (some t, _) => .error t
    | (none, s) =>
      let r := s.stampRow g.core (g.base + i) pts
      let bs := (r.2.coreAt g.core).pool.bytes (128 * (g.base + i)) 128
      match r.2.writeAt ag p a (bs.map some) r.1 with
      | .error t => .error t
      | .ok (pts, s, _) => s.writeHome g is pts

/-- The eviction of a resident entry that is not held: rows written home when DIRTY, rows freed, as steps that follow the
entry's last (R236, R237). -/
def State.evictSeg (s : State) (g : Seg) : Except Trap State :=
  let go (s : State) (ts : BitVec 64) : State :=
    s.updSeg g { g with st := .evicted, dirty := false, evp := false, ro := 0, wr := false, ts := ts }
  if g.dirty then
    match s.writeHome g (List.range g.count) (later g.ts (s.coreAt g.core).kptsNow) with
    | .error t => .error t
    | .ok (ts, s) => .ok (go s ts)
  else .ok (go s g.ts)

/-- A drop, or the end of the entry by its class (R232, R237): held, it leaves the namespace and is freed at
the last detach. -/
def State.dropSeg (s : State) (g : Seg) : State :=
  if g.held && g.inPool then s.updSeg g { g with st := .dropped, drp := true } else s.removeSeg g

/-- A drop that voids every attachment (R237). -/
def State.dropVoid (s : State) (g : Seg) : State := (s.voidAttach g).removeSeg g

/-- An eviction that must free the rows: it drops the entry where the write home fails (R234, R237,
R244). -/
def State.evictOrDrop (s : State) (g : Seg) : State :=
  if g.st == .resident then
    match (s.voidAttach g).evictSeg g with
    | .ok s => s
    | .error _ => s.dropVoid g
  else s.dropVoid g

/-- The publish of an entry whose maker holds it no more (R232). -/
def Seg.publishFree (g : Seg) : Seg := { g with st := .resident, ver := g.ver + 1, wr := false }
/-- The publish of an entry (R236, R237): the writer keeps a read-only attachment. -/
def Seg.publish (g : Seg) : Seg := { g.publishFree with ro := g.ro + 1 }

/-- The deferred eviction or drop at the last detach (R237). -/
def State.lastDetach (s : State) (g : Seg) : State :=
  if g.held then s
  else if g.drp || !g.live then s.removeSeg g
  else if g.evp then
    match s.evictSeg g with
    | .ok s => s
    | .error _ => s.updSeg g { g with evp := false }
  else s

/-- The entry that an attachment is counted in. A void attachment has one where the entry was dropped, or is still MAKING,
and none where it was evicted (R230, R237, R244). -/
def State.attachedSeg (s : State) (t : Attach) : Option Seg := t.seg.bind fun i => s.segs.find? fun g => g.no == i

/-- What follows a write home on the core follows the step that made the entry EVICTED: the core's logical time, and the
executing context (R237, R242). -/
def State.followHome (s : State) (core : Nat) (g : Seg) : State :=
  let t := s.nameTime g.dom g.name
  let s := s.updCoreAt core fun c => { c with kpts := later c.kpts t }
  if core = s.cur then s.updMe fun x => { x with pts := later x.pts t } else s

/-- A detach by the task of a core (R241): a write attachment is first published, but a void one, and one to an entry that
is DROPPED already, is removed with no publish; the deferred drop or eviction follows the last detach. DEDUCED, log 63. -/
def State.detach (s : State) (core : Nat) (t : Attach) : State :=
  let s := s.updCoreAt core fun c => { c with attach := c.attach.erase t }
  match s.attachedSeg t with
  | none => s
  | some g =>
    let pub := t.rw && g.live && !t.void
    let h := { g with
      ver := if pub then g.ver + 1 else g.ver
      st := if pub then .resident else g.st
      wr := g.wr && !t.rw
      ro := if t.rw then g.ro else g.ro - 1
      ts := later g.ts (s.coreAt core).kptsNow }
    let u := (s.updSeg g h).lastDetach h
    if h.evp && !h.held then u.followHome core h else u

/-- Insert an attachment in ascending order of name. -/
def insertAttach (t : Attach) : List Attach → List Attach
  | [] => [t]
  | u :: us => if t.name.toNat < u.name.toNat then t :: u :: us else u :: insertAttach t us

/-- The segments that the task of a core has made. -/
def State.madeBy (s : State) (core : Nat) (g : Seg) : Bool := g.maker == some (s.coreAt core).taskNo
/-- No segment counts as the making task's any more. -/
def State.endMaker (s : State) (core : Nat) : State :=
  { s with segs := s.segs.map fun g => if s.madeBy core g then { g with maker := none } else g }

/-- What the end of a task does to the segments it made and to its attachments (R232, R241). -/
def State.endTaskSegs (s : State) (core : Nat) : State :=
  let made := s.segs.filter fun g => s.madeBy core g && g.st == .making
  let s := made.foldl (fun s g =>
    let g := { g with ts := later g.ts (s.coreAt core).kptsNow }
    if g.cls = 0 then s.dropSeg g
    else if g.cls = 1 then
      let ours (t : Attach) : Bool := t.rw && (s.attachedSeg t).any g.same
      let held := (s.coreAt core).attach.any ours
      let s := s.updCoreAt core fun c => { c with attach := c.attach.map fun t =>
        if (ours t) then { t with rw := false, version := g.ver + 1 } else t }
      s.updSeg g (if held then g.publish else g.publishFree)
    else s) s
  let s := s.endMaker core
  (s.coreAt core).attach.foldl (fun s t => s.detach core t) s

/-- What a deadline abort does to them (R237): what the task was making, and what it could write, is
dropped. -/
def State.abortSegs (s : State) (core : Nat) : State :=
  let ts := (s.coreAt core).attach
  let s := ts.foldl (fun s t =>
    match s.attachedSeg t with
    | none => s
    | some g => if t.rw && !t.void then s.dropVoid g else s.detach core t) s
  let s := (s.segs.filter fun g => s.madeBy core g && g.st == .making).foldl State.dropVoid s
  (s.endMaker core).updCoreAt core fun c => { c with attach := [] }

/-- The end of a launch drops its TASK and LAUNCH segments (R232). -/
def State.endLaunchSegs (s : State) (seq : Nat) : State :=
  (s.segs.filter fun g => g.launch == some seq && g.cls ≤ 1 && g.live).foldl State.dropSeg s

/-- Every live segment of a core is evicted or dropped (R244). -/
def State.clearSegs (s : State) (core : Nat) : State :=
  (s.segs.filter fun g => g.core == core && g.live && g.inPool).foldl State.evictOrDrop s

/-- Is the row free for a segment (R233)? -/
def State.rowFree (s : State) (core row : Nat) : Bool :=
  !(s.segs.any fun g => g.core == core && g.inPool && g.base ≤ row && row < g.base + g.count) &&
  !(s.rowsEntries core).any fun e => e.lo ≤ row && row < e.hi && e.holder != s.holderOf core

/-- The highest run of `n` free rows below `top` and at or above `lo` (R233). -/
def State.findRows (s : State) (core lo n : Nat) : Nat → Option Nat
  | 0 => none
  | top + 1 =>
    if top + 1 < lo + n then none
    else if (List.range n).all fun i => s.rowFree core (top - i) then some (top + 1 - n)
    else s.findRows core lo n top

end Sys2Proof.Machine
end

