-- ==== Sys2Proof/Machine/PodOps.lean ====
section
/-! DEFINITION. The pod store and the applying of pods (R215 to R222), and the start of a helper (R18). -/

namespace Sys2Proof.Machine

/-! Slots (R215, R216). -/

def PodSlot.zero : PodSlot := { used := false, gen := 1, row := 0 }
def Core.slotAt (c : Core) (i : Nat) : PodSlot := Table.get PodSlot.zero c.pods i
/-- A field of a slot's first row. -/
def Core.podFld (c : Core) (p : PodSlot) (off n : Nat) : Nat := c.pool.readLE (128 * (c.podBase + p.row) + off) n
/-- A field of a slot's first row written by the hardware. -/
def Core.podSet (c : Core) (p : PodSlot) (off n v : Nat) : Core :=
  { c with pool := c.pool.writeLE (128 * (c.podBase + p.row) + off) n v, written := setBit c.written (c.podBase + p.row) }
def Core.podXmask (c : Core) (p : PodSlot) : Nat := c.podFld p 88 1
def Core.podKinds (c : Core) (p : PodSlot) : Nat := c.podFld p 89 1
def Core.podVmask (c : Core) (p : PodSlot) : Nat := c.podKinds p % 4
def Core.podRkind (c : Core) (p : PodSlot) : Nat := c.podKinds p / 4 % 4
def Core.podExported (c : Core) (p : PodSlot) : Bool := c.podKinds p / 16 % 2 == 1
def Core.podCount (c : Core) (p : PodSlot) : Nat := c.podFld p 90 1
def Core.podQhold (c : Core) (p : PodSlot) : Nat := c.podFld p 91 1
/-- Rows that a slot takes: three where it captures a vector register. -/
def Core.podLen (c : Core) (p : PodSlot) : Nat := if c.podVmask p = 0 then 1 else 3

/-- The handle's slot number, and its slot where the handle is live (R215). -/
def Core.livePod (c : Core) (h : BitVec 16) : Option (Nat × PodSlot) :=
  let i := h.toNat % 64
  let g := h.toNat / 64
  let p := c.slotAt i
  if g ≠ 0 && p.used && p.gen.toNat == g then some (i, p) else none

/-- The slot freed: its generation advances, from 1,023 to 1 (R215). -/
def Core.freePod (c : Core) (i : Nat) : Core :=
  let p := c.slotAt i
  let g := if p.gen = 1023 then 1 else p.gen + 1
  { c with pods := Table.put c.pods i { p with used := false, gen := g } }

/-- Pod-store rows in use. -/
def Core.podRowUsed (c : Core) (r : Nat) : Bool :=
  c.pods.any fun q => q.2.used && q.2.row ≤ r && r < q.2.row + c.podLen q.2
/-- The lowest free slot number (R216). -/
def Core.freeSlot (c : Core) : Option Nat := (List.range 64).find? fun i => !(c.slotAt i).used
/-- The lowest run of `n` free rows of the pod store (R216). -/
def Core.freeRun (c : Core) (n : Nat) : Option Nat :=
  (List.range c.podRows).find? fun r => decide (r + n ≤ c.podRows) && (List.range n).all fun i => !c.podRowUsed (r + i)

/-- COUNT falls by 1; at 0, with QHOLD 0, the slot is freed (R221, R223). A COUNT that is 0 already stays 0. DEDUCED, log
103. -/
def Core.releasePod (c : Core) (i : Nat) : Core :=
  let p := c.slotAt i
  let n := c.podCount p - 1
  let c := c.podSet p 90 1 n
  if n = 0 && c.podQhold p == 0 then c.freePod i else c

/-- An apply-queue entry lets go of its pod (R222). -/
def Core.unholdPod (c : Core) (i : Nat) : Core :=
  let p := c.slotAt i
  let q := c.podQhold p - 1
  let c := c.podSet p 91 1 q
  if q = 0 && c.podCount p == 0 then c.freePod i else c

/-- The same by the handle that the entry kept: a slot that an install has freed meanwhile (R217) is held no more. -/
def Core.unhold (c : Core) (h : BitVec 16) : Core := if (c.livePod h).isSome then c.unholdPod (h.toNat % 64) else c

/-- Every slot freed, or every slot that is not EXPORTED (R217). -/
def Core.freePods (c : Core) (all : Bool) : Core :=
  (c.pods.filter fun q => q.2.used && (all || !c.podExported q.2)).foldl (fun c q => c.freePod q.1) c

/-! The check and the landing (R220). -/

/-- Why an apply is refused. -/
inductive PodBad where
  | stale | dangling
deriving DecidableEq, Repr

def PodBad.cause : PodBad → BitVec 8
  | .stale => Cause.POD_STALE
  | .dangling => Cause.POD_DANGLING

/-- Check(h) on a core. -/
def State.podCheck (s : State) (core : Nat) (h : BitVec 16) : Except PodBad (Nat × PodSlot) :=
  let c := s.coreAt core
  match c.livePod h with
  | none => .error .stale
  | some (i, p) =>
    if c.podRkind p = 1 then
      let base := c.podFld p 72 2
      let rgen := c.podFld p 76 4
      if (List.range (c.podFld p 74 2)).all fun r => (Table.get 0 c.rowGen (base + r)).toNat == rgen then .ok (i, p)
      else .error .dangling
    else if c.podRkind p = 2 then
      let name := word (c.podFld p 72 8)
      let held := c.attach.any fun t => t.name == name && !t.void
      match s.liveSeg c.domain.toNat name with
      | some g => if held && g.ver.toNat == c.podFld p 80 4 then .ok (i, p) else .error .dangling
      | none => .error .dangling
    else .ok (i, p)

/-- The captures of a slot, read in one step (R220). -/
def Core.capOf (c : Core) (p : PodSlot) : Cap :=
  let vrow := c.podBase + c.podFld p 94 2
  { entry := word (c.podFld p 0 8), xmask := c.podXmask p, xs := (List.range 8).map fun i => word (c.podFld p (8 + 8 * i) 8)
    vmask := c.podVmask p, vs := [c.row vrow, c.row (vrow + 1)] }
def Cap.zero : Cap := { entry := 0, xmask := 0, xs := [], vmask := 0, vs := [] }

/-- Land(k): captures in a context's registers. -/
def Core.landCap (c : Core) (k : Nat) (p : Cap) : Core :=
  let ctx := (List.range 8).foldl (fun (x : Ctx) i =>
    if p.xmask / 2 ^ i % 2 = 1 then x.setX (BitVec.ofNat 5 (20 + i)) (p.xs.getD i 0) else x) (c.ctxAt k)
  let go (c : Core) (j : Nat) : Core :=
    if p.vmask / 2 ^ j % 2 = 1 then
      let c := c.setRow (c.ctxBase k + 14 + j) (p.vs.getD j 0)
      c.setCtx k { c.ctxAt k with dirty := setBit (c.ctxAt k).dirty (bitV (14 + j)) }
    else c
  go (go (c.setCtx k ctx) 0) 1
/-- The same of the captures of a slot. -/
def Core.land (c : Core) (k : Nat) (p : PodSlot) : Core := c.landCap k (c.capOf p)

/-! Helpers (R18). -/

/-- Rows that read zero again, with no bump. -/
def Core.clearRows (c : Core) (lo n : Nat) : Core :=
  { c with pool := Table.clear c.pool (128 * lo) (128 * (lo + n)), wbuf := c.wbuf.map fun b => b.filter fun r => r < lo || lo + n ≤ r }

/-- The FREE helpers below CTX, ascending. -/
def Core.freeHelpers (c : Core) : List Nat := (List.range c.nctx).filter fun k => k ≠ 0 && (c.ctxAt k).st == .free
/-- The lowest-numbered FREE helper that no entry of the apply queue takes before (R18, R222). -/
def Core.freeHelper (c : Core) : Option Nat := (c.freeHelpers.drop c.applyQ.length).head?

/-- A context with nothing in it but its logical clock, its last fence.imem and what it has on its way to external
memory, as a task finds it at its start. -/
def Ctx.cleared (x : Ctx) : Ctx := { Ctx.empty with pts := x.pts, ifence := x.ifence, extOut := x.extOut }
/-- A context that is free or starts anew within a task: its registers are gone, but the sticky flags (R40) and the marks on
barriers (R166) stand. DEDUCED, log 94. -/
def Ctx.fresh (x : Ctx) : Ctx :=
  { x.cleared with fpflags := x.fpflags, istat := x.istat, pend := x.pend, aph := x.aph, dropped := x.dropped }

/-- Helper `k` made LIVE at `pc`: every register zero (R18), but x4 to x7 as given, whose dirty bits are set; the sticky flags
stand (R40). DEDUCED, log 94. -/
def Core.startHelper (c : Core) (k : Nat) (pc stacklim trapvec : Word) (detached : Bool) (xs : List Word)
    (pts : BitVec 64) : Core :=
  let base : Ctx := { (c.ctxAt k).fresh with
    st := .live, detached := detached, pc := pc, stacklim := stacklim, trapvec := trapvec
    pts := later (c.ctxAt k).pts pts }
  let ctx := xs.zipIdx.foldl (fun (x : Ctx) (v, i) => x.setX (BitVec.ofNat 5 (4 + i)) v) base
  (c.clearRows (c.ctxBase k) 32).setCtx k ctx

/-- How a spawn-type apply ends (R222). -/
inductive Spawned where
  | started (k : Nat)
  | queued
  | full
  | bad (b : PodBad)
deriving DecidableEq, Repr

/-- A spawn-type apply of a pod on a core (R220 to R222). -/
def State.spawnApply (s : State) (core : Nat) (a : Apply) (once : Bool) (pts : BitVec 64) : Spawned × State :=
  match s.podCheck core a.handle with
  | .error b => (.bad b, s)
  | .ok (i, p) =>
    let c := s.coreAt core
    let entry := word (c.podFld p 0 8)
    match c.freeHelper with
    | some k =>
      let c := (c.startHelper k entry a.stacklim a.trapvec true a.data pts).land k p
      (.started k, s.setCoreAt core (if once then c.releasePod i else c))
    | none =>
      if 16 ≤ c.applyQ.length then (.full, s)
      else
        let c := (c.podSet p 91 1 (c.podQhold p + 1))
        let c := { c with applyQ := c.applyQ ++ [⟨a, c.capOf p, c.task || c.podMsg⟩] }
        (.queued, s.setCoreAt core (if once then c.releasePod i else c))

/-- The oldest entry of the apply queue starts in a FREE helper (R222). -/
def State.startQueued (s : State) (core : Nat) : State :=
  let c := s.coreAt core
  match c.applyQ, c.freeHelpers with
  | a :: q, k :: _ =>
    let c := (c.startHelper k a.cap.entry a.apply.stacklim a.apply.trapvec true a.apply.data c.kptsNow).landCap k a.cap
    s.setCoreAt core { c.unhold a.apply.handle with applyQ := q }
  | _, _ => s

end Sys2Proof.Machine
end

