-- ==== Sys2Proof/Machine/EndTask.lean ====
section
/-! DEFINITION. The end of a task, in each of its forms: task.end (R173), DOUBLE_FAULT (R335), and the
deadline abort (R27). -/

namespace Sys2Proof.Machine

/-- Outcomes of a status word (R29). -/
inductive Outc where
  | completed | late | faulted
deriving DecidableEq, Repr

/-! Gangs (R22, R177, R178). -/

def Core.gsize (c : Core) : Nat := c.flags.toNat / 2 ^ 12 % 8
def Core.gpos (c : Core) : Nat := c.flags.toNat / 2 ^ 8 % 16
/-- The leader's core. -/
def State.gangLeader (s : State) (k : Nat) : Nat := k - (s.coreAt k).gpos
/-- Does core `m` run the task of another member of the gang of core `k`, whose place it is? A core that has ended its
member's task is in the gang no more, whatever it runs next. -/
def State.gangMate (s : State) (k m : Nat) : Bool :=
  let c := s.coreAt k
  let d := s.coreAt m
  d.task && d.gsize == c.gsize && d.gangId == c.gangId && s.gangLeader m == s.gangLeader k
/-- The places of the gang of core `k`. -/
def State.gangPlaces (s : State) (k : Nat) : List Nat :=
  (List.range (2 ^ (s.coreAt k).gsize)).map fun i => s.gangLeader k + i
/-- Cores of the gang of core `k`, by position. -/
def State.gang (s : State) (k : Nat) : List Nat := (s.gangPlaces k).filter fun m => m == k || s.gangMate k m

/-- Every follower detaches; `dissolve` where the gang is at its end (R23, R177). -/
def State.detachAll (s : State) (k : Nat) (dissolve : Bool) : State :=
  (s.gang k).foldl (fun s m => s.updCoreAt m fun c =>
    { c with gattached := m == k && !dissolve && c.gattached, gformed := c.gformed && !dissolve,
             gfollowed := c.gfollowed && !dissolve, gleft := c.gleft || dissolve,
             amask := if m ≠ k then c.amask else if dissolve then 0 else c.amask &&& 1 }) s

/-- The position of a member goes from AMASK of its leader. -/
def State.unmask (s : State) (k : Nat) : State :=
  if s.gangMate k (s.gangLeader k) then s.updCoreAt (s.gangLeader k) fun l => { l with amask := clearBit l.amask (s.coreAt k).gpos }
  else s

/-- A member leaves its gang at the end of its task (R23). The end of the leader dissolves the gang: every follower has LEFT
set and FORMED clear, and its later gang.join has no effect and is not counted (R173, R177). DEDUCED, log 85. -/
def State.endGang (s : State) (k : Nat) : State :=
  let c := s.coreAt k
  if c.gsize = 0 then s
  else if c.gpos = 0 then s.detachAll k true
  else (s.unmask k).updCoreAt k fun c => { c with gattached := false, gfollowed := false, gleft := true }

/-! The completion tree (R29, R317). -/

/-- Nodes of the tree: clusters from 0, dies from 1,024, and the root. -/
def dieNode (d : Nat) : Nat := 1024 + d
def rootNode : Nat := 2048
/-- Node and launch slot of CTARGET (R310). -/
def ctNode (ct : Word) : Nat := ct.toNat / 2 ^ 16 % 2 ^ 10
def ctSlot (ct : Word) : Nat := ct.toNat % 256

/-- A status word at a node. -/
def TreeWord.of (slot node : Nat) (o : Outc) (flags : Word) (pts : BitVec 64) (now : Nat) : TreeWord :=
  { slot := slot, node := node, pts := pts, since := now, completed := if o = .completed then 1 else 0, late := if o = .late then 1 else 0,
    faulted := if o = .faulted then 1 else 0, flags := flags }

/-- WID of a spawn position (R10): field 0 varies fastest. -/
def Launch.wid (l : Launch) (pos : Nat) : Nat :=
  ((l.widths.zip l.counts).foldl (fun (r : Nat × Nat × Nat) p =>
    (r.1 + r.2.1 % p.2 * 2 ^ r.2.2, r.2.1 / p.2, r.2.2 + p.1)) (0, pos, 0)).1

/-- Is the node that of the task of core `k` with this CTARGET and WID? The spawn positions of a launch have different
WIDs, so that a task in a husk is told from one that the core runs after it (R347). -/
def State.nodeIs (s : State) (k : Nat) (ct wid : Word) (n : PoolNode) : Bool :=
  n.st == .dispatched && n.core == k && n.slot == ctSlot ct && n.ended.isNone &&
    (s.slots.find? fun p => p.1 == n.slot).all fun p => p.2.wid n.pos == wid.toNat
/-- The commit of the status word of the task of core `k` with this CTARGET and WID, as one step (R29). -/
def State.commitAt (s : State) (k : Nat) (ct wid : Word) (o : Outc) (flags : Word) (pts : BitVec 64) : State :=
  { s with
    words := s.words ++ [TreeWord.of (ctSlot ct) (ctNode ct) o flags pts s.now]
    pool := s.pool.map fun n =>
      if s.nodeIs k ct wid n then { n with ended := some (o == .completed), pts := later n.pts pts } else n }
/-- The commit of a core's task; a pod message commits none (R226). -/
def State.commit (s : State) (k : Nat) (o : Outc) (flags : Word) : State :=
  let c := s.coreAt k
  if !c.task then s else s.commitAt k c.ctarget c.wid o flags c.kptsNow

/-- Every future entry in use is freed (R188). -/
def freeFuts (t : Table Future) : Table Future :=
  t.map fun p => if p.2.used then (p.1, { Future.zero with gen := p.2.gen + 1 }) else p

/-- What every end of a task or pod message does to its core: helpers FREE, cards and futures gone, context 0 back at the loop
with every register zero, its later accesses after all of the task's (R258). -/
def Core.endTask (c : Core) : Core :=
  let kp := c.kptsNow
  let ctxs := c.ctxs.map fun p =>
    (p.1, if p.1 = 0 then { p.2.fresh with st := .live, pc := c.loopRet, pts := kp } else p.2.fresh)
  let c := { c with
    ctxs := ctxs, mxRing := [], cpRing := [], futs := freeFuts c.futs, task := false, podMsg := false }
  c.clearRows c.regBase (32 * c.nctx)

/-- The end of the task of a core: `all` where every pod slot is freed (R217), `abort` where its segments end
as at a deadline abort (R237). The queued applies of the task go with it; where every slot is freed, the apply queue is
emptied (R217, R222). The end of a pod message frees every slot that is not EXPORTED, whoever captured it (R226).
DEDUCED, log 107. -/
def State.endTask (s : State) (k : Nat) (all abort : Bool) : State :=
  let s := if abort then s.abortSegs k else s.endTaskSegs k
  let s := (s.endGang k).leaveLinks k
  s.updCoreAt k fun c =>
    let gone := c.applyQ.filter fun a => all || a.own
    let c := { gone.foldl (fun c a => c.unhold a.apply.handle) c with applyQ := c.applyQ.filter fun a => !(all || a.own) }
    (c.freePods all).endTask

/-- DOUBLE_FAULT in context `j` of core `k` (R335): the task ends faulted, or the pod message with no status
word (R227). -/
def State.doubleFault (s : State) (k j : Nat) (pc : Word) (cause : BitVec 8) : State :=
  let x := (s.coreAt k).ctxAt j
  let old := if x.trapvec = 0 then 0 else x.cause.toNat
  let msg := (s.coreAt k).podMsg
  let s := (s.commit k .faulted 8).endTask k (!msg) false
  s.updCoreAt k fun c => { c with
    kcause := Cause.DOUBLE_FAULT, kepc := pc, ktval := word (cause.toNat + 256 * old + 65536 * j) }

/-- Does the row belong to a live segment of the core, or to a ROWS entry of another holder (R234, R365)? -/
def State.rowKept (s : State) (k r : Nat) : Bool :=
  s.rowForeign k r || s.segs.any fun g => g.core == k && g.inPool && g.base ≤ r && r < g.base + g.count

/-- A generation bump of every row of a core that `keep` does not name (R259). -/
def Core.bumpBut (c : Core) (keep : Nat → Bool) : Core :=
  { c with
    pool := c.pool.filter fun p => keep (p.1 / 128)
    written := (List.range 1536).foldl (fun w r => if keep r then w else clearBit w r) c.written
    rowGen := (List.range 1536).map fun r => (r, Table.get 0 c.rowGen r + if keep r then 0 else 1)
    wbuf := c.wbuf.map fun b => b.filter keep }

/-- The bump that releases the rows of a task, or clears the way for the next (R16, R27): a step of the core, which its
context 0 follows (R259). -/
def State.bumpTask (s : State) (k : Nat) : State :=
  let keep := (List.range 1536).filter (s.rowKept k)
  let r := s.stampRows k (fun r => !keep.contains r) (s.coreAt k).kptsNow
  r.2.updCoreAt k fun c =>
    let c := { c.bumpBut (fun r => keep.contains r) with kpts := r.1 }
    c.setCtx 0 { c.ctxAt 0 with pts := later (c.ctxAt 0).pts r.1 }

/-- A deadline abort of the task of core `k` (R27). DEDUCED, log 67. -/
def State.deadlineAbort (s : State) (k : Nat) : State :=
  let s := (s.commit k .late 2).endTask k true true
  (s.bumpTask k).updCoreAt k fun c => { c with kcause := Cause.DEADLINE_ABORT }

end Sys2Proof.Machine
end

