-- ==== Sys2Proof/Machine/Ops.lean ====
section
/-! DEFINITION. The end of an instruction: taking an exception and returning from one (R334, R335, R128),
retiring, and the one form that every instruction has. -/

namespace Sys2Proof.Machine

/-- What an instruction does when it retires. -/
inductive Done where
  /-- the context goes on at the next instruction -/
  | next (s : State)
  /-- the context goes on at `pc` -/
  | jump (s : State) (pc : Word)
  /-- the same, and the instruction has counted itself before what it wrote (R130) -/
  | wrote (s : State)
  /-- its own effect has set where the context goes on -/
  | own (s : State)
  /-- it retires and then traps with EPC at the next instruction (R127, R185) -/
  | trapNext (s : State) (cause : BitVec 8) (tval : Word)
  /-- it traps between two of its steps, with EPC at itself (R74, R337) -/
  | trapHere (s : State) (cause : BitVec 8) (tval : Word)
deriving DecidableEq, Repr

/-- The causes that a translation gives (R325, R331). -/
def walkCause (c : BitVec 8) : Bool :=
  c == Cause.PAGE_ABSENT || c == Cause.PAGE_READ || c == Cause.PAGE_WRITE || c == Cause.FETCH_FAULT ||
  c == Cause.EXTENT_NOT_HELD || c == Cause.PTE_INVALID || c == Cause.PASID_RETIRED
/-- A walk that ends in a fault at `a` has read its entries all the same, as read steps of the executing context (R325). -/
def State.walkFault (s : State) (c : BitVec 8) (a : Word) : State :=
  if walkCause c && decide (2 ^ 32 ≤ a.toNat) && decide (a.toNat < 2 ^ 57) then
    let r := s.readWalk s.ag (s.leafFor s.ag a.toNat) s.me.pts
    r.2.updMe fun x => { x with pts := r.1 }
  else s

/-- Taking an exception in the executing context, with EPC `epc` (R334); a fault with TFLAGS.IN set or
TRAPVEC 0 is DOUBLE_FAULT (R335), recorded with the PC of the faulting instruction. -/
def State.takeTrap (s : State) (epc : Word) (cause : BitVec 8) (tval : Word) : State :=
  let x := s.me
  if x.tin || x.trapvec = 0 then s.doubleFault s.cur s.ctx x.pc cause
  else s.setMe { x with
    pc := x.trapvec, epc := epc, cause := cause, tval := tval, tin := true, wait := .none, ext := none, bans := none,
    shape := none }

/-- Return from an exception (R128); none where no handler runs. -/
def State.returnTrap (s : State) : Option (State × Word) :=
  if s.me.tin then some (s.updMe fun x => { x with tin := false }, s.me.epc) else none

/-- The executing context waits (R89). -/
def State.setWait (s : State) (w : Wait) : State := s.updMe fun x => { x with wait := w }

/-- The executing context goes on at `pc`. -/
def State.goOn (s : State) (pc : Word) : State := s.updMe fun x => { x with pc := pc, wait := .none }

/-- The exception of single-stepping after an instruction that has retired; `step` is TFLAGS.STEP as it stood at issue
(R40, R130). DEDUCED, log 51. -/
def State.stepTrap (s : State) (step : Bool) (pc : Word) : State :=
  if step then
    let r := s.free
    r.2.takeTrap pc Cause.STEP r.1
  else s

/-- An instruction retires in the executing context, which goes on at `pc` (R40, R130, R358). -/
def State.retire (s : State) (step : Bool) (pc : Word) : State := ((s.goOn pc).count s.cur 3 1).stepTrap step pc

/-- The end of an instruction whose word 0 holds operands that R82 reserves: RESERVED_FIELD, before any other check
(R84). -/
def State.reserved (s : State) (w : BitVec 32) : Host.Outcome State Fault Refusal :=
  .next (s.takeTrap s.me.pc Cause.RESERVED_FIELD (w.setWidth 64))

/-- The outcome of an instruction of `len` bytes whose meaning gave `r`. One that retires into a trap of its own (R127,
R185) raises that trap alone, and no STEP: DEDUCED, log 51. -/
def State.finish (s : State) (len : Nat) (r : Run Done) : Host.Outcome State Fault Refusal :=
  let next := s.me.pc + word len
  let step := s.me.tstep
  match r with
  | .error (.trap c t) => .next ((s.walkFault c t).takeTrap s.me.pc c t)
  | .error (.wait t w) => .next (t.setWait w)
  | .ok (.next t) => .next (t.retire step next)
  | .ok (.jump t pc) => .next (t.retire step pc)
  | .ok (.wrote t) => .next ((t.goOn next).stepTrap step next)
  | .ok (.own t) => .next (t.count s.cur 3 1)
  | .ok (.trapHere t c v) => .next ((t.walkFault c v).takeTrap t.me.pc c v)
  | .ok (.trapNext t c v) => .next ((t.retire false s.me.pc).takeTrap next c v)

/-- An instruction of `len` bytes that names the registers `us` (R43, R105): it waits while one of them is
being loaded, faults where one is not declared, and else means `body`. -/
def State.instr (s : State) (len : Nat) (us : List Use) (body : State → Run Done) :
    Host.Outcome State Fault Refusal :=
  if us.any (Use.loading s.me) then .next (s.setWait .other)
  else match declFault s.core s.me us with
    | some f => .next (s.takeTrap s.me.pc f.1 f.2)
    | none => s.finish len (body s)

/-- A meaning that always goes on at the next instruction. -/
def goes (s : State) : Run Done := .ok (.next s)
/-- The same after a step that can end early. -/
def andGoes (r : Run State) : Run Done := match r with
  | .ok s => .ok (.next s)
  | .error e => .error e

end Sys2Proof.Machine
end

