-- ==== Sys2Proof/Machine/Operands.lean ====
section
/-! DEFINITION. Operand forms: immediates and offsets (R80, R108), masks and lane types (R87, R88), and the
addresses of vector lanes (R136). -/

namespace Sys2Proof

/-! Widths of scalar accesses (R115). -/

/-- Bytes of a load width. -/
def IntT.size : IntT → Nat
  | .i8 | .n8 => 1 | .i16 | .n16 => 2 | .i32 | .n32 => 4 | .i64 | .n64 => 8
def IntT.signed : IntT → Bool
  | .i8 | .i16 | .i32 | .i64 => true | _ => false
/-- Ext of R116. -/
def IntT.ext (t : IntT) (v : Nat) : Word :=
  let n := 8 * t.size
  if t.signed then BitVec.ofInt 64 (Machine.sgn n v) else BitVec.ofNat 64 v
/-- Bytes of a store width code. -/
def stSize (w : BitVec 2) : Nat := 2 ^ w.toNat

/-! Lane types (R87, R88). -/

/-- Bits of a lane type; `b32` is the b1 of the VALU forms, lanes of 32 bits. -/
def LaneT.bits : LaneT → Nat
  | .f32 | .i32 | .b32 => 32 | .f16 | .bf16 | .i16 => 16 | .i8 => 8 | .i64 => 64
/-- The floating-point format of a lane type. -/
def LaneT.fmt : LaneT → Option Machine.Fmt
  | .f32 => some .f32 | .f16 => some .f16 | .bf16 => some .bf16 | _ => none
/-- An element type as the conversions of R53 take it. -/
def Type4.elem : Type4 → Option Machine.ElemT
  | .f32 => some (.flt .f32) | .f16 => some (.flt .f16) | .bf16 => some (.flt .bf16)
  | .i8 => some (.int 8 true) | .i16 => some (.int 16 true) | .i32 => some (.int 32 true) | .i64 => some (.int 64 true)
  | .n8 => some (.int 8 false) | .n16 => some (.int 16 false) | .n32 => some (.int 32 false) | .n64 => some (.int 64 false)
  | _ => none
/-- The GX format of a type. -/
def Type4.gx : Type4 → Option GxT
  | .gx2 => some .gx2 | .gx4 => some .gx4 | .gx7 => some .gx7 | _ => none

namespace Machine

/-! Immediates. -/

/-- A field sign-extended to 64 bits. -/
def sx {n : Nat} (i : BitVec n) : Word := i.signExtend 64
/-- A branch offset, in words, as bytes. -/
def off4 {n : Nat} (o : BitVec n) : Word := sx o <<< 2
/-- The constant of lui and pcadd: SignExt(imm19 << 13, 32). -/
def imm19 (i : BitVec 19) : Word := ((i.setWidth 32 : BitVec 32) <<< 13).signExtend 64
/-- PC of the executing context. -/
def State.pc (s : State) : Word := s.me.pc
/-- NextPC of an instruction of `len` bytes. -/
def State.nextPc (s : State) (len : Nat) : Word := s.me.pc + word len

end Machine
end Sys2Proof
end

