-- ==== Sys2Proof/Machine/Flags.lean ====
section
/-! DEFINITION. The flags that results set: FPFLAGS and ISTAT are sticky and set in the executing context
(R40, R50). -/

namespace Sys2Proof.Machine

/-- Sticky flags set in the executing context. -/
def State.setFlags (s : State) (f : Flags) : State :=
  s.updMe fun x => { x with fpflags := x.fpflags ||| f.fp, istat := x.istat ||| f.ist }
/-- FPFLAGS bits set. -/
def State.setFp (s : State) (f : FFlags) : State := s.setFlags ⟨f, 0⟩
/-- ISTAT bits set. -/
def State.setIst (s : State) (f : BitVec 3) : State := s.setFlags ⟨0, f⟩

end Sys2Proof.Machine
end

