-- ==== Sys2Proof/Machine/Intr.lean ====
section
/-! DEFINITION. The integer instructions of the scalar base: INTR (R107), the immediates (R108), SHIFTI
(R109), the constants (R110), lea (R111) and BITS (R112). -/

namespace Sys2Proof.Machine

/-- A register form of three operands: X[A] := f X[B] X[C]. -/
def State.rrr (s : State) (d a c : BitVec 5) (f : Word → Word → Word) : Host.Outcome State Fault Refusal :=
  s.instr 4 [.x d, .x a, .x c] fun s => goes (s.setX d (f (s.xr a) (s.xr c)))
/-- A register form of two operands: X[A] := f X[B]. -/
def State.rr (s : State) (d a : BitVec 5) (f : Word → Word) : Host.Outcome State Fault Refusal :=
  s.instr 4 [.x d, .x a] fun s => goes (s.setX d (f (s.xr a)))
/-- An immediate form of `len` bytes: X[A] := f X[B] k. -/
def State.rri (s : State) (len : Nat) (d a : BitVec 5) (k : Word) (f : Word → Word → Word) :
    Host.Outcome State Fault Refusal :=
  s.instr len [.x d, .x a] fun s => goes (s.setX d (f (s.xr a) k))

/-- 1 or 0. -/
def ofBool (b : Bool) : Word := if b then 1 else 0
/-- A shift amount: the low six bits (R107). -/
def sh6 (c : Word) : Nat := c.toNat % 64

def execAdd (d a c : BitVec 5) (s : State) := s.rrr d a c fun x y => x + y
def execSub (d a c : BitVec 5) (s : State) := s.rrr d a c fun x y => x - y
def execAndX (d a c : BitVec 5) (s : State) := s.rrr d a c fun x y => x &&& y
def execOrX (d a c : BitVec 5) (s : State) := s.rrr d a c fun x y => x ||| y
def execXorX (d a c : BitVec 5) (s : State) := s.rrr d a c fun x y => x ^^^ y
def execAndn (d a c : BitVec 5) (s : State) := s.rrr d a c fun x y => x &&& ~~~y
def execOrn (d a c : BitVec 5) (s : State) := s.rrr d a c fun x y => x ||| ~~~y
def execBrev (d a : BitVec 5) (s : State) := s.rr d a BitVec.reverse
def execSll (d a c : BitVec 5) (s : State) := s.rrr d a c fun x y => x <<< sh6 y
def execSrl (d a c : BitVec 5) (s : State) := s.rrr d a c fun x y => x >>> sh6 y
def execSra (d a c : BitVec 5) (s : State) := s.rrr d a c fun x y => x.sshiftRight (sh6 y)
def execRol (d a c : BitVec 5) (s : State) := s.rrr d a c fun x y => x.rotateLeft (sh6 y)
def execRor (d a c : BitVec 5) (s : State) := s.rrr d a c fun x y => x.rotateRight (sh6 y)
def execSlt (d a c : BitVec 5) (s : State) := s.rrr d a c fun x y => ofBool (x.slt y)
def execSltu (d a c : BitVec 5) (s : State) := s.rrr d a c fun x y => ofBool (x.ult y)
def execMinX (d a c : BitVec 5) (s : State) := s.rrr d a c fun x y => if x.slt y then x else y
def execMaxX (d a c : BitVec 5) (s : State) := s.rrr d a c fun x y => if x.slt y then y else x
def execMinu (d a c : BitVec 5) (s : State) := s.rrr d a c fun x y => if x.ult y then x else y
def execMaxu (d a c : BitVec 5) (s : State) := s.rrr d a c fun x y => if x.ult y then y else x
def execMul (d a c : BitVec 5) (s : State) := s.rrr d a c fun x y => x * y
def execMulh (d a c : BitVec 5) (s : State) := s.rrr d a c fun x y => BitVec.ofInt 64 (x.toInt * y.toInt / 2 ^ 64)
def execMulhu (d a c : BitVec 5) (s : State) := s.rrr d a c fun x y => word (x.toNat * y.toNat / 2 ^ 64)

/-- A division of R47: quotient or remainder, with ISTAT. -/
def State.divide (s : State) (d a c : BitVec 5) (signed rem : Bool) : Host.Outcome State Fault Refusal :=
  s.instr 4 [.x d, .x a, .x c] fun s =>
    let r := intDiv 64 signed (s.xr a).toNat (s.xr c).toNat
    goes ((s.setX d (word (if rem then r.2.1 else r.1))).setIst r.2.2)

def execDiv (d a c : BitVec 5) (s : State) := s.divide d a c true false
def execDivu (d a c : BitVec 5) (s : State) := s.divide d a c false false
def execRem (d a c : BitVec 5) (s : State) := s.divide d a c true true
def execRemu (d a c : BitVec 5) (s : State) := s.divide d a c false true

/-- Zero bits of a number below bit `n`, counted from the top. -/
def clzFrom (v : Word) : Nat → Nat
  | 0 => 0
  | n + 1 => if v.getLsbD n then 0 else 1 + clzFrom v n
/-- Number of one bits below bit `n`. -/
def popcTo (v : Word) : Nat → Nat
  | 0 => 0
  | n + 1 => (if v.getLsbD n then 1 else 0) + popcTo v n
/-- The eight bytes in reverse order (R107). -/
def bytesRev (v : Word) : Word := word (leVal ((leOf 8 v.toNat).reverse))

def execClz (d a : BitVec 5) (s : State) := s.rr d a fun x => word (clzFrom x 64)
def execCtz (d a : BitVec 5) (s : State) := s.rr d a fun x => word (clzFrom x.reverse 64)
def execPopc (d a : BitVec 5) (s : State) := s.rr d a fun x => word (popcTo x 64)
def execBswap (d a : BitVec 5) (s : State) := s.rr d a bytesRev

/-- Bits of a width code of sext and zext (R107). -/
def extBits : ExtW → Nat
  | .w8 => 8 | .w16 => 16 | .w32 => 32
def execSext (d a : BitVec 5) (w : ExtW) (s : State) := s.rr d a fun x => sx (x.extractLsb' 0 (extBits w))
def execZext (d a : BitVec 5) (w : ExtW) (s : State) := s.rr d a fun x => (x.extractLsb' 0 (extBits w)).setWidth 64

/-! Immediates (R108). -/

def execAddi (d a : BitVec 5) (i : BitVec 14) (s : State) := s.rri 4 d a (sx i) fun x k => x + k
def execAddiLit (d a : BitVec 5) (l : BitVec 64) (s : State) := s.rri 12 d a l fun x k => x + k
def execAndi (d a : BitVec 5) (i : BitVec 14) (s : State) := s.rri 4 d a (sx i) fun x k => x &&& k
def execAndiLit (d a : BitVec 5) (l : BitVec 64) (s : State) := s.rri 12 d a l fun x k => x &&& k
def execOri (d a : BitVec 5) (i : BitVec 14) (s : State) := s.rri 4 d a (sx i) fun x k => x ||| k
def execOriLit (d a : BitVec 5) (l : BitVec 64) (s : State) := s.rri 12 d a l fun x k => x ||| k
def execXori (d a : BitVec 5) (i : BitVec 14) (s : State) := s.rri 4 d a (sx i) fun x k => x ^^^ k
def execXoriLit (d a : BitVec 5) (l : BitVec 64) (s : State) := s.rri 12 d a l fun x k => x ^^^ k
def execSlti (d a : BitVec 5) (i : BitVec 14) (s : State) := s.rri 4 d a (sx i) fun x k => ofBool (x.slt k)
def execSltiLit (d a : BitVec 5) (l : BitVec 64) (s : State) := s.rri 12 d a l fun x k => ofBool (x.slt k)
def execSltiu (d a : BitVec 5) (i : BitVec 14) (s : State) := s.rri 4 d a (sx i) fun x k => ofBool (x.ult k)
def execSltiuLit (d a : BitVec 5) (l : BitVec 64) (s : State) := s.rri 12 d a l fun x k => ofBool (x.ult k)

/-! Shifts by an amount of the instruction (R109). -/

def execSlli (d a : BitVec 5) (h : BitVec 6) (s : State) := s.rr d a fun x => x <<< h.toNat
def execSrli (d a : BitVec 5) (h : BitVec 6) (s : State) := s.rr d a fun x => x >>> h.toNat
def execSrai (d a : BitVec 5) (h : BitVec 6) (s : State) := s.rr d a fun x => x.sshiftRight h.toNat
def execRori (d a : BitVec 5) (h : BitVec 6) (s : State) := s.rr d a fun x => x.rotateRight h.toNat

/-! Constants (R110) and lea (R111). -/

/-- A constant of an instruction of `len` bytes in X[A]. -/
def State.const (s : State) (len : Nat) (d : BitVec 5) (f : State → Word) : Host.Outcome State Fault Refusal :=
  s.instr len [.x d] fun s => goes (s.setX d (f s))

def execLui (d : BitVec 5) (i : BitVec 19) (s : State) := s.const 4 d fun _ => imm19 i
def execPcadd (d : BitVec 5) (i : BitVec 19) (s : State) := s.const 4 d fun s => s.pc + imm19 i
def execPcaddLit (d : BitVec 5) (l : BitVec 64) (s : State) := s.const 12 d fun s => s.pc + l
def execLi (d : BitVec 5) (l : BitVec 64) (s : State) := s.const 12 d fun _ => l

/-- X[A] := X[B] + (X[C] << s) + k (R111). -/
def State.lea (s : State) (len : Nat) (d b c sh : BitVec 5) (k : Word) : Host.Outcome State Fault Refusal :=
  s.instr len [.x d, .x b, .x c] fun s => goes (s.setX d (s.xr b + (s.xr c <<< sh.toNat) + k))
def execLea (d b c sh : BitVec 5) (i : BitVec 32) (s : State) := s.lea 12 d b c sh (sx i)
def execLeaLit (d b c sh : BitVec 5) (l : BitVec 64) (s : State) := s.lea 20 d b c sh l

/-! BITS (R112). -/

/-- The low `w` bits set. -/
def lowMask (w : Nat) : Word := word (2 ^ w - 1)
/-- `old` with bits `p` to `p + w - 1` from the low bits of `v`; bits above 63 are lost. -/
def insertField (old v : Word) (p w : Nat) : Word := (old &&& ~~~(lowMask w <<< p)) ||| ((v &&& lowMask w) <<< p)

def execBfx (d a : BitVec 5) (p : BitVec 6) (w : BitVec 7) (s : State) :=
  s.instr 12 [.x d, .x a] fun s => goes (s.setX d (sx ((s.xr a).extractLsb' p.toNat w.toNat)))
def execBfxu (d a : BitVec 5) (p : BitVec 6) (w : BitVec 7) (s : State) :=
  s.instr 12 [.x d, .x a] fun s => goes (s.setX d ((s.xr a >>> p.toNat) &&& lowMask w.toNat))
def execBfi (d a : BitVec 5) (p : BitVec 6) (w : BitVec 7) (s : State) :=
  s.instr 12 [.x d, .x a] fun s => goes (s.setX d (insertField (s.xr d) (s.xr a) p.toNat w.toNat))
def execCsel (d a c e : BitVec 5) (s : State) :=
  s.instr 12 [.x d, .x a, .x c, .x e] fun s => goes (s.setX d (if s.xr e ≠ 0 then s.xr a else s.xr c))
def execMad (d a c e : BitVec 5) (s : State) :=
  s.instr 12 [.x d, .x a, .x c, .x e] fun s => goes (s.setX d (s.xr a * s.xr c + s.xr e))
def execWfield (d a c : BitVec 5) (s : State) :=
  s.instr 12 [.x d, .x a, .x c] fun s =>
    goes (s.setX d (insertField (s.xr d) (s.xr a) ((s.xr c).toNat % 64) ((s.xr c).toNat / 256 % 128)))

end Sys2Proof.Machine
end

