-- ==== Sys2Proof/Machine/Fps.lean ====
section
/-! DEFINITION. Scalar f32 (R113, R114): results in bits 31:0, zero above (R32), flags in FPFLAGS (R50). -/

namespace Sys2Proof.Machine

/-- The f32 in a register (R32). -/
def State.fr (s : State) (n : BitVec 5) : Nat := (s.xr n).toNat % 2 ^ 32

/-- A form of `len` bytes with two sources whose result has flags. -/
def State.fp2 (s : State) (len : Nat) (d a c : BitVec 5) (f : Nat → Nat → Nat × FFlags) : Host.Outcome State Fault Refusal :=
  s.instr len [.x d, .x a, .x c] fun s =>
    let r := f (s.fr a) (s.fr c)
    goes ((s.setX d (word r.1)).setFp r.2)
/-- The same with one source. -/
def State.fp1 (s : State) (len : Nat) (d a : BitVec 5) (f : Nat → Nat × FFlags) : Host.Outcome State Fault Refusal :=
  s.instr len [.x d, .x a] fun s =>
    let r := f (s.fr a)
    goes ((s.setX d (word r.1)).setFp r.2)

def execFadd (d a c : BitVec 5) (s : State) := s.fp2 4 d a c (Fmt.f32.add .rne)
def execFaddExt (d a c : BitVec 5) (r : Rnd) (s : State) := s.fp2 12 d a c (Fmt.f32.add r)
def execFsub (d a c : BitVec 5) (s : State) := s.fp2 4 d a c (Fmt.f32.sub .rne)
def execFsubExt (d a c : BitVec 5) (r : Rnd) (s : State) := s.fp2 12 d a c (Fmt.f32.sub r)
def execFmul (d a c : BitVec 5) (s : State) := s.fp2 4 d a c (Fmt.f32.mul .rne)
def execFmulExt (d a c : BitVec 5) (r : Rnd) (s : State) := s.fp2 12 d a c (Fmt.f32.mul r)
def execFdiv (d a c : BitVec 5) (s : State) := s.fp2 4 d a c (Fmt.f32.div .rne)
def execFdivExt (d a c : BitVec 5) (r : Rnd) (s : State) := s.fp2 12 d a c (Fmt.f32.div r)
def execFsqrt (d a : BitVec 5) (s : State) := s.fp1 4 d a (Fmt.f32.sqrt .rne)
def execFsqrtExt (d a : BitVec 5) (r : Rnd) (s : State) := s.fp1 12 d a (Fmt.f32.sqrt r)
def execFmin (d a c : BitVec 5) (s : State) := s.fp2 4 d a c (Fmt.f32.minmax false)
def execFmax (d a c : BitVec 5) (s : State) := s.fp2 4 d a c (Fmt.f32.minmax true)
def execFmadd (d a c e : BitVec 5) (r : Rnd) (s : State) :=
  s.instr 12 [.x d, .x a, .x c, .x e] fun s =>
    let v := Fmt.f32.fma r (s.fr a) (s.fr c) (s.fr e) false false
    goes ((s.setX d (word v.1)).setFp v.2)

/-- A comparison with its flags, 1 or 0 (R114). -/
def fpTest (c : Cmp) (x y : Nat) : Nat × FFlags :=
  let r := Fmt.f32.cmp c x y
  (if r.1 then 1 else 0, r.2)
def execFeq (d a c : BitVec 5) (s : State) := s.fp2 4 d a c (fpTest .eq)
def execFlt (d a c : BitVec 5) (s : State) := s.fp2 4 d a c (fpTest .lt)
def execFle (d a c : BitVec 5) (s : State) := s.fp2 4 d a c (fpTest .le)
def execFclass (d a : BitVec 5) (s : State) := s.fp1 4 d a fun x => (Fmt.f32.fclass x, 0)
def execFcvti (d a : BitVec 5) (r : Rnd) (s : State) := s.fp1 4 d a fun x => (Fmt.f32.decode x).toInt r 64 true
def execFcvtf (d a : BitVec 5) (r : Rnd) (s : State) :=
  s.instr 4 [.x d, .x a] fun s =>
    let v := Fmt.f32.ofVal r (FVal.ofInt (s.xr a).toInt)
    goes ((s.setX d (word v.1)).setFp v.2)

end Sys2Proof.Machine
end

