-- ==== Sys2Proof/Machine/LoadStore.lean ====
section
/-! DEFINITION. Scalar loads and stores (R115 to R118), the indexed forms (R156), atomics (R157 to R160) and
memory control (R161 to R165). -/

namespace Sys2Proof.Machine

/-- A register that a global access writes is not readable until the data arrives (R105). -/
def State.awaitX (s : State) (d : BitVec 5) (a : Word) : State :=
  if decide (2 ^ 32 ≤ a.toNat) && d != 0 then s.updMe fun x => { x with loading := setBit x.loading (bitX d.toNat) } else s

/-- The load of R116 from `a` into X[d]. -/
def State.loadX (s : State) (t : IntT) (stk : Bool) (a : Word) (d : BitVec 5) : Run State := do
  let (v, s) ← s.load stk a t.size
  .ok ((s.setX d (t.ext v)).awaitX d a)

/-- A load at X[B] + k of an instruction of `len` bytes. -/
def State.ldAt (s : State) (len : Nat) (t : IntT) (k : Word) (b d : BitVec 5) : Host.Outcome State Fault Refusal :=
  s.instr len [.x d, .x b] fun s => andGoes (s.loadX t (b == 2) (s.xr b + k) d)
/-- A store of X[v] at X[B] + k of an instruction of `len` bytes. -/
def State.stAt (s : State) (len : Nat) (w : BitVec 2) (k : Word) (b v : BitVec 5) : Host.Outcome State Fault Refusal :=
  s.instr len [.x v, .x b] fun s => andGoes (s.store (b == 2) (s.xr b + k) (stSize w) (s.xr v).toNat)

def execLd (t : IntT) (o : BitVec 11) (b d : BitVec 5) (s : State) := s.ldAt 4 t (sx o) b d
def execLdLit (t : IntT) (l : BitVec 64) (b d : BitVec 5) (s : State) := s.ldAt 12 t l b d
def execSt (w : BitVec 2) (o : BitVec 11) (b v : BitVec 5) (s : State) := s.stAt 4 w (sx o) b v
def execStLit (w : BitVec 2) (l : BitVec 64) (b v : BitVec 5) (s : State) := s.stAt 12 w l b v

/-- ld.p (R117): the access at X[B], then the base update; A = B is RESERVED_FIELD. -/
def execLdP (t : IntT) (o : BitVec 11) (b d : BitVec 5) (s : State) :=
  if b = d then s.reserved (packS o t.width b d 17 0)
  else s.instr 4 [.x d, .x b] fun s => do
    let base := s.xr b
    let s ← s.loadX t (b == 2) base d
    goes (s.setX b (base + sx o))
/-- st.p (R117); with A = B the old base is stored. -/
def execStP (w : BitVec 2) (o : BitVec 11) (b v : BitVec 5) (s : State) :=
  s.instr 4 [.x v, .x b] fun s => do
    let base := s.xr b
    let s ← s.store (b == 2) base (stSize w) (s.xr v).toNat
    goes (s.setX b (base + sx o))

/-! Indexed forms (R156). -/

/-- The effective address of R156. -/
def State.idxAddr (s : State) (b c : BitVec 5) (sh : BitVec 3) (k : Word) : Word := s.xr b + (s.xr c <<< sh.toNat) + k

def State.ldxAt (s : State) (len : Nat) (t : IntT) (sh : BitVec 3) (k : Word) (d b c : BitVec 5) :
    Host.Outcome State Fault Refusal :=
  s.instr len [.x d, .x b, .x c] fun s => andGoes (s.loadX t (b == 2) (s.idxAddr b c sh k) d)
def State.stxAt (s : State) (len : Nat) (w : BitVec 2) (sh : BitVec 3) (k : Word) (v b c : BitVec 5) :
    Host.Outcome State Fault Refusal :=
  s.instr len [.x v, .x b, .x c] fun s => andGoes (s.store (b == 2) (s.idxAddr b c sh k) (stSize w) (s.xr v).toNat)

def execLdx (t : IntT) (sh : BitVec 3) (i : BitVec 32) (d b c : BitVec 5) (s : State) := s.ldxAt 12 t sh (sx i) d b c
def execLdxLit (t : IntT) (sh : BitVec 3) (l : BitVec 64) (d b c : BitVec 5) (s : State) := s.ldxAt 20 t sh l d b c
def execStx (w : BitVec 2) (sh : BitVec 3) (i : BitVec 32) (v b c : BitVec 5) (s : State) := s.stxAt 12 w sh (sx i) v b c
def execStxLit (w : BitVec 2) (sh : BitVec 3) (l : BitVec 64) (v b c : BitVec 5) (s : State) := s.stxAt 20 w sh l v b c

/-! Atomics (R157, R158). -/

/-- Bits of a width flag. -/
def amoBits (w : Bool) : Nat := if w then 64 else 32
/-- new(old, v, e) of R157 with the flags of amo.fadd; `none` where amo.cas does not write. -/
def amoNew (op : AmoOp) (n old v e : Nat) : Option Nat × FFlags :=
  match op with
  | .add => (some ((old + v) % 2 ^ n), 0)
  | .and => (some (old &&& v), 0)
  | .or => (some (old ||| v), 0)
  | .xor => (some (old ^^^ v), 0)
  | .min => (some (if sgn n old ≤ sgn n v then old else v), 0)
  | .max => (some (if sgn n old ≤ sgn n v then v else old), 0)
  | .minu => (some (min old v), 0)
  | .maxu => (some (max old v), 0)
  | .swap => (some v, 0)
  | .fadd => let r := Fmt.f32.add .rne old v; (some r.1, r.2)
  | .cas => (if old = e then some v else none, 0)
/-- Does the old value arrive sign-extended (R158)? -/
def AmoOp.signs : AmoOp → Bool
  | .minu | .maxu | .fadd => false
  | _ => true
/-- Scopes that execute in the cluster cache (R159). -/
def scopeNear : Scope → Bool
  | .core | .cl => true
  | _ => false

/-- The effect of R158. -/
def State.amo (s : State) (op : AmoOp) (p : Scope) (w : Bool) (d a v e : BitVec 5) : Run Done := do
  let n := amoBits w
  let addr := s.xr a
  let x := (s.xr v).toNat % 2 ^ n
  let y := (s.xr e).toNat % 2 ^ n
  let (old, s) ← s.rmw (a == 2) (scopeNear p) addr (n / 8) fun old => (amoNew op n old x y).1
  let r := if AmoOp.signs op then BitVec.ofInt 64 (sgn n old) else word old
  goes (((s.setX d r).setFp (amoNew op n old x y).2).awaitX d addr)

def State.amo3 (s : State) (op : AmoOp) (p : Scope) (w : Bool) (d a v : BitVec 5) : Host.Outcome State Fault Refusal :=
  s.instr 4 [.x d, .x a, .x v] fun s => s.amo op p w d a v 0

def execAmoAdd (p : Scope) (w : Bool) (d a v : BitVec 5) (s : State) := s.amo3 .add p w d a v
def execAmoAnd (p : Scope) (w : Bool) (d a v : BitVec 5) (s : State) := s.amo3 .and p w d a v
def execAmoOr (p : Scope) (w : Bool) (d a v : BitVec 5) (s : State) := s.amo3 .or p w d a v
def execAmoXor (p : Scope) (w : Bool) (d a v : BitVec 5) (s : State) := s.amo3 .xor p w d a v
def execAmoMin (p : Scope) (w : Bool) (d a v : BitVec 5) (s : State) := s.amo3 .min p w d a v
def execAmoMax (p : Scope) (w : Bool) (d a v : BitVec 5) (s : State) := s.amo3 .max p w d a v
def execAmoMinu (p : Scope) (w : Bool) (d a v : BitVec 5) (s : State) := s.amo3 .minu p w d a v
def execAmoMaxu (p : Scope) (w : Bool) (d a v : BitVec 5) (s : State) := s.amo3 .maxu p w d a v
def execAmoSwap (p : Scope) (w : Bool) (d a v : BitVec 5) (s : State) := s.amo3 .swap p w d a v
def execAmoFadd (p : Scope) (d a v : BitVec 5) (s : State) := s.amo3 .fadd p false d a v
def execAmoCas (p : Scope) (w : Bool) (d a v e : BitVec 5) (s : State) :=
  s.instr 12 [.x d, .x a, .x v, .x e] fun s => s.amo .cas p w d a v e

/-! Memory control (R161 to R165). -/

/-- fence.imem (R162): a store of device memory has been performed when its timestamp has returned, and an external one
when it is acknowledged. -/
def execFenceImem (s : State) :=
  s.instr 4 [] fun s =>
    if s.me.storing || s.me.extOut then waiting s
    else goes ((s.updMe fun x => { x with ifence := x.pts }).updCore fun c => { c with ibuf := [] })

/-- fence.ext (R163). -/
def execFenceExt (s : State) :=
  s.instr 4 [] fun s =>
    if s.me.extOut || decide (s.me.loading ≠ 0) then waiting s else goes s

/-- The lines of a range, in ascending address. -/
def linesOf (a : Word) (n : Nat) : List Word := (List.range (n / 128)).map fun i => a + word (128 * i)

/-- The check of every line of a discard, before any is written (R164). -/
def State.discardCheck (s : State) : List Word → Run (List (Place × Word) × State)
  | [] => .ok ([], s)
  | a :: as => do
    let (p, s) ← liftTrap (s.place s.ag .write a.toNat 128)
    let (ps, s) ← s.discardCheck as
    .ok ((p, a) :: ps, s)

/-- Everything that the lines wait for, and a watch on one of them (R116, R337). -/
def State.discardReady (s : State) : List (Place × Word) → Run State
  | [] => .ok s
  | (p, a) :: ps => do
    let s ← s.accReady false true p a 128
    s.discardReady ps

/-- The zeroing of one line: a row by a generation bump of that row, a format page by the packed blocks behind
the line, any other line by zeros (R164). -/
def State.zeroLine (s : State) (p : Place) (a : Word) : Run State :=
  match p with
  | .pool off =>
    let r := s.stampWrite s.ag (rowKey s.cur (off / 128)) s.me.pts
    let s := (r.2.updMe fun x => { x with pts := r.1 }).updCore fun c => c.bumpRows (off / 128) (off / 128 + 1)
    .ok (s.dirtySegs s.cur off 128)
  | .fmt g pa o =>
    let n := 2 * g.blockBytes
    s.ctxWrite (.phys (pa + o / 64 * g.blockBytes)) a (List.replicate n (some 0))
  | _ => s.ctxWrite p a (List.replicate 128 (some 0))

/-- Lines zeroed one after another (R164). -/
def State.zeroLines (s : State) : List (Place × Word) → Run State
  | [] => .ok s
  | (p, a) :: ps => do
    let s ← s.zeroLine p a
    s.zeroLines ps

/-- discard xs1, xs2 (R164). -/
def execDiscard (a n : BitVec 5) (s : State) :=
  s.instr 4 [.x a, .x n] fun s => do
    let base := s.xr a
    let len := s.xr n
    let e := base.toNat + len.toNat
    if len = 0 then goes s
    else if base.toNat % 128 ≠ 0 then fault Cause.MISALIGNED base
    else if len.toNat % 128 ≠ 0 then fault Cause.MISALIGNED (base + len)
    else if 65536 < len.toNat ∨ (base.toNat < 2 ^ 18 ∧ 2 ^ 18 < e) ∨ (base.toNat < 2 ^ 32 ∧ 2 ^ 32 < e) then
      fault Cause.DISCARD_RANGE len
    else
      let (ps, s) ← s.discardCheck (linesOf base len.toNat)
      let s ← s.discardReady ps
      andGoes (s.zeroLines ps)

/-- The lines of device memory behind the line of a hint's address, for the kind of access that it prepares (R165): of a
format page, those of its packed blocks (R326). The walk of a hint comes before no access of this instruction. -/
def State.hintLines (s : State) (k : Acc) (a : Word) : Option (List Nat × State) :=
  if a.toNat < 2 ^ 32 then none
  else match s.translate s.ag k a.toNat with
    | .ok (p, t) =>
      let t := { t with walked := s.walked, walkTs := s.walkTs }
      match p with
      | .phys pa => if isExternal pa then none else some ([pa / 128], t)
      | .fmt f pa o => some (((lineParts 128 (pa + o / 128 * 2 * f.blockBytes) (2 * f.blockBytes)).map fun q => q.1 / 128), t)
      | _ => none
    | .error _ => none
/-- A line brought from its home for a hint: a lookup there, but none of a data step in the cluster cache (R358, R366). -/
def State.hintFill (s : State) (pts : BitVec 64) (l : Nat) : BitVec 64 × State := (s.lookHome s.ag false l).homeRead s.ag l pts

/-- dpref (R165): the line comes into the cluster cache under a read lease; level 1 names the L2, which holds
no copies of its own in the model. -/
def execDpref (l : Bool) (a : BitVec 5) (s : State) :=
  s.instr 4 [.x a] fun s =>
    match s.hintLines .read (s.xr a) with
    | some (ls, t) =>
      goes (ls.foldl (fun t i => if l then t.lookHome t.ag false i else (t.hintFill t.me.pts i).2) t)
    | none => goes s

/-- ipref (R165): the line comes into the cluster cache, and into the instruction buffer where it is within
1 KiB of the program counter, which is measured strictly and from the address itself; a line that may not be fetched is
dropped. DEDUCED, log 106. -/
def execIpref (a : BitVec 5) (s : State) :=
  s.instr 4 [.x a] fun s =>
    let v := (s.xr a).toNat
    match s.hintLines .fetch (s.xr a) with
    | some (l :: _, t) =>
      let (ts, t) := t.hintFill t.me.pts l
      let near := decide (v < s.pc.toNat + 1024) && decide (s.pc.toNat < v + 1024)
      goes (if near then t.updCore fun c =>
          { c with ibuf := (⟨c.domain.toNat, v / 128, t.mem.bytes (128 * l) 128, ts⟩ :: c.ibuf.filter fun i =>
              !(i.dom == c.domain.toNat && i.va == v / 128)).take 64 }
        else t)
    | _ => goes s

end Sys2Proof.Machine
end

