-- ==== Sys2Proof/Machine/Status.lean ====
section
/-! DEFINITION. The status registers (R38 to R40, R129, R178, R338, R357, R362, R363): one reading and one
writing of each, for the occupant and for a keeper. -/

namespace Sys2Proof.Machine

/-- May OID `o` write a shared counter of a die (R362)? -/
def State.ownsShared (s : State) (o die i : Nat) : Bool := s.usesOne o cShared (die * 16 + i)

/-- Event codes that count only on a counter held by OID 1, and read as zero on any other (R359). -/
def seedOnly (ev : Nat) : Bool := ev == 17 || ev == 18

/-- A shared counter as OID `o` reads it (R362). -/
def State.readShared (s : State) (o die i : Nat) : Word :=
  let c := Table.get Shared.zero s.shared (die * 16 + i)
  if seedOnly c.ev.toNat && (s.entryOf cShared (die * 16 + i)).holder != 1 then 0
  else if o = 1 then c.count.setWidth 64
  else if s.ownsShared o die i then (c.snap.setWidth 64) &&& ~~~(0x3FF : Word)
  else 0

/-- CNTn of a core as OID `o` reads it (R359, R363). -/
def State.readCnt (s : State) (o k n : Nat) : Word :=
  let c := s.coreAt k
  let sel := Table.get 0 c.evsel n
  if selShared sel then s.readShared o (dieOf k) (selIdx sel)
  else if seedOnly (selEvent sel) && s.holderOf k != 1 then 0
  else (Table.get 0 c.cnt n).setWidth 64

/-- CNTn of a core written by OID `o` (R130, R362, R363): the events of the cycle are not counted (R360). -/
def State.writeCnt (s : State) (o k n : Nat) (v : Word) : State :=
  let c := s.coreAt k
  let sel := Table.get 0 c.evsel n
  if selShared sel then
    let key := dieOf k * 16 + selIdx sel
    if s.ownsShared o (dieOf k) (selIdx sel) then
      { s with shared := Table.put s.shared key { Table.get Shared.zero s.shared key with count := v.setWidth 48, cyc := some 0 } }
    else s
  else s.setCoreAt k { c with cnt := Table.put c.cnt n (v.setWidth 48), evcyc := Table.put c.evcyc n 0 }

/-- The bits of an event select that a write keeps: a code that is not listed stores 0 (R357). -/
def selClean (v : Word) : Word := (v &&& 0x78000) ||| (if selEvent v ≤ 18 then v &&& 0xFF else 0)

/-- Event select `n` of a core written by OID `o` (R357, R363): the events of the cycle count under the old select (R366). -/
def State.writeSel (s : State) (o k n : Nat) (v : Word) : State :=
  let v := selClean v
  let s := s.updCoreAt k fun c =>
    { c with evsel := Table.put c.evsel n v, evcyc := Table.put c.evcyc n (Table.get (Table.get 0 c.evsel n) c.evcyc n) }
  if selShared v && s.ownsShared o (dieOf k) (selIdx v) then
    let key := dieOf k * 16 + selIdx v
    let c := Table.get Shared.zero s.shared key
    { s with shared := Table.put s.shared key { c with ev := BitVec.ofNat 8 (selEvent v), cyc := some (c.cyc.getD c.ev) } }
  else s

/-- The executing instruction counts itself before it writes CNT`n` or event select `n` of core `k` (R129, R130, R360, R366): it
takes place in the cycle of a write to CNTn, so that counter does not count it, and it counts under the selects that
stood before it (R366). -/
def State.countFirst (s : State) (k n : Nat) (cnt : Bool) : State :=
  let sel := Table.get 0 (s.coreAt k).evsel n
  s.countBut s.cur 3 1 (fun i => cnt && !selShared sel && k == s.cur && i == n)
    fun i => cnt && selShared sel && i == dieOf k * 16 + selIdx sel

/-- MXSTAT (R40, R201). -/
def Core.mxstat (c : Core) : Word :=
  (if c.mxRing.isEmpty then 0 else 4) ||| (if c.mxsat then 2 else 0) ||| (if c.mxnarrow then 1 else 0)

/-- GANG (R178). -/
def Core.gangReg (c : Core) : Word :=
  let lead := c.gsize != 0 && c.gpos == 0
  word (c.jcount.toNat * 2 ^ 32 + c.amask.toNat * 2 ^ 16 + c.gsize * 2 ^ 8 + c.gpos * 2 ^ 4 + (if c.gleft then 8 else 0) +
    (if c.gformed then 4 else 0) + (if c.gattached then 2 else 0) + if lead then 1 else 0)

/-- KEEPER: the lender of the innermost loan, or the holder (R274). -/
def Entry.keeper (e : Entry) : Nat :=
  match e.loans.getLast? with
  | some l => l.lender
  | none => e.holder
/-- TERM: the term of the innermost loan; 0 when not lent (R38). -/
def Entry.termReg (e : Entry) : Word :=
  match e.loans.getLast? with
  | some l => l.term
  | none => 0

/-- HSTAT (R338). -/
def HState.code : HState → Nat
  | .running => 0 | .stopping => 1 | .writing => 2 | .valid => 3 | .void => 4 | .resuming => 5
def Core.hstatReg (c : Core) : Word := word (c.hstat.code + c.hclass * 16 + c.hblocks % 2 ^ 16 * 2 ^ 32)

/-- A status register of context `j` of core `k` as OID `o` reads it (R38). -/
def State.readSR (s : State) (o k j i : Nat) : Option Word :=
  let c := s.coreAt k
  let x := c.ctxAt j
  let e := s.coreEntry k
  if 0x040 ≤ i && i ≤ 0x04F then some (s.readCnt o k (i - 0x040))
  else if 0x050 ≤ i && i ≤ 0x05F then some (Table.get 0 c.evsel (i - 0x050))
  else match i with
    | 0x000 => some (word k)
    | 0x001 => some (word j)
    | 0x002 => some c.wid
    | 0x003 => some c.partw
    | 0x004 => some c.decla
    | 0x005 => some c.declb
    | 0x010 => some x.trapvec
    | 0x011 => some x.epc
    | 0x012 => some (x.cause.setWidth 64)
    | 0x013 => some x.tval
    | 0x014 => some ((if x.tstep then 2 else 0) ||| if x.tin then 1 else 0)
    | 0x015 => some x.stacklim
    | 0x020 => some (x.fpflags.setWidth 64)
    | 0x021 => some (x.istat.setWidth 64)
    | 0x022 => some c.mxstat
    | 0x023 => some (x.rrb.setWidth 64)
    | 0x030 => some (word e.holder)
    | 0x031 => some (word e.keeper)
    | 0x032 => some e.termReg
    | 0x033 => some (c.domain.setWidth 64)
    | 0x034 => some (e.gen.setWidth 64)
    | 0x060 => some c.gangReg
    | _ => none

/-- A status register of context `j` of core `k` written by OID `o` as the occupant may (R38, R129); none
where the occupant has no write access. -/
def State.writeSR (s : State) (o k j i : Nat) (v : Word) : Option State :=
  let ctx (f : Ctx → Ctx) : Option State := some (s.updCoreAt k fun c => c.setCtx j (f (c.ctxAt j)))
  if 0x040 ≤ i && i ≤ 0x04F then some (s.writeCnt o k (i - 0x040) v)
  else if 0x050 ≤ i && i ≤ 0x05F then some (s.writeSel o k (i - 0x050) v)
  else match i with
    | 0x010 => ctx fun x => { x with trapvec := v }
    | 0x011 => ctx fun x => { x with epc := v }
    | 0x012 => ctx fun x => { x with cause := v.setWidth 8 }
    | 0x013 => ctx fun x => { x with tval := v }
    | 0x014 => ctx fun x => { x with tstep := v.getLsbD 1, tin := v.getLsbD 0 }
    | 0x015 => ctx fun x => { x with stacklim := v }
    | 0x020 => ctx fun x => { x with fpflags := v.setWidth 5 }
    | 0x021 => ctx fun x => { x with istat := v.setWidth 3 }
    | 0x022 => some (s.updCoreAt k fun c => { c with mxsat := v.getLsbD 1 })
    | 0x023 => ctx fun x => { x with rrb := v.setWidth 4 }
    | _ => none

end Sys2Proof.Machine
end

