-- ==== Sys2Proof/Machine/Control.lean ====
section
/-! DEFINITION. Branches and calls (R119 to R121), the loop (R122), contexts (R18, R19, R124) and the system
group (R126 to R131, R355). -/

namespace Sys2Proof.Machine

/-- A conditional branch of `len` bytes to PC + `off` (R119). -/
def State.branch (s : State) (len : Nat) (off : Word) (a b : BitVec 5) (f : Word → Word → Bool) :
    Host.Outcome State Fault Refusal :=
  s.instr len [.x a, .x b] fun s => if f (s.xr a) (s.xr b) then .ok (.jump s (s.pc + off)) else goes s

def execBeq (o : BitVec 11) (a b : BitVec 5) (s : State) := s.branch 4 (off4 o) a b fun x y => x == y
def execBeqExt (o : BitVec 32) (a b : BitVec 5) (s : State) := s.branch 12 (off4 o) a b fun x y => x == y
def execBeqLit (l : BitVec 64) (a b : BitVec 5) (s : State) := s.branch 20 l a b fun x y => x == y
def execBne (o : BitVec 11) (a b : BitVec 5) (s : State) := s.branch 4 (off4 o) a b fun x y => x != y
def execBneExt (o : BitVec 32) (a b : BitVec 5) (s : State) := s.branch 12 (off4 o) a b fun x y => x != y
def execBneLit (l : BitVec 64) (a b : BitVec 5) (s : State) := s.branch 20 l a b fun x y => x != y
def execBlt (o : BitVec 11) (a b : BitVec 5) (s : State) := s.branch 4 (off4 o) a b fun x y => x.slt y
def execBltExt (o : BitVec 32) (a b : BitVec 5) (s : State) := s.branch 12 (off4 o) a b fun x y => x.slt y
def execBltLit (l : BitVec 64) (a b : BitVec 5) (s : State) := s.branch 20 l a b fun x y => x.slt y
def execBge (o : BitVec 11) (a b : BitVec 5) (s : State) := s.branch 4 (off4 o) a b fun x y => !x.slt y
def execBgeExt (o : BitVec 32) (a b : BitVec 5) (s : State) := s.branch 12 (off4 o) a b fun x y => !x.slt y
def execBgeLit (l : BitVec 64) (a b : BitVec 5) (s : State) := s.branch 20 l a b fun x y => !x.slt y
def execBltu (o : BitVec 11) (a b : BitVec 5) (s : State) := s.branch 4 (off4 o) a b fun x y => x.ult y
def execBltuExt (o : BitVec 32) (a b : BitVec 5) (s : State) := s.branch 12 (off4 o) a b fun x y => x.ult y
def execBltuLit (l : BitVec 64) (a b : BitVec 5) (s : State) := s.branch 20 l a b fun x y => x.ult y
def execBgeu (o : BitVec 11) (a b : BitVec 5) (s : State) := s.branch 4 (off4 o) a b fun x y => !x.ult y
def execBgeuExt (o : BitVec 32) (a b : BitVec 5) (s : State) := s.branch 12 (off4 o) a b fun x y => !x.ult y
def execBgeuLit (l : BitVec 64) (a b : BitVec 5) (s : State) := s.branch 20 l a b fun x y => !x.ult y

/-- Waits while x1, which no field names, is being loaded (R105). -/
def State.x1Ready (s : State) (f : State → Run Done) : Run Done :=
  if (Use.x 1).loading s.me then waiting s else f s

def execB (o : BitVec 24) (s : State) := s.instr 4 [] fun s => .ok (.jump s (s.pc + off4 o))
def execBLit (l : BitVec 64) (s : State) := s.instr 12 [] fun s => .ok (.jump s (s.pc + l))
def execBl (o : BitVec 24) (s : State) :=
  s.instr 4 [] fun s => s.x1Ready fun s => .ok (.jump (s.setX 1 (s.nextPc 4)) (s.pc + off4 o))
def execBlLit (l : BitVec 64) (s : State) :=
  s.instr 12 [] fun s => s.x1Ready fun s => .ok (.jump (s.setX 1 (s.nextPc 12)) (s.pc + l))
def execBr (a : BitVec 5) (s : State) := s.instr 4 [.x a] fun s => .ok (.jump s (s.xr a))
def execBlr (d a : BitVec 5) (s : State) :=
  s.instr 4 [.x d, .x a] fun s => .ok (.jump (s.setX d (s.nextPc 4)) (s.xr a))
def execRet (s : State) := s.instr 4 [] fun s => s.x1Ready fun s => .ok (.jump s (s.xr 1))

/-- loop and loop.rot (R122). -/
def execLoop (c : BitVec 5) (r : Bool) (o : BitVec 18) (s : State) :=
  if c = 0 then s.reserved (packL o r c 28 0)
  else s.instr 4 [.x c] fun s =>
    let n := s.xr c - 1
    let s := s.setX c n
    let s := if r then s.updMe fun x => { x with rrb := x.rrb + 1 } else s
    if n ≠ 0 then .ok (.jump s (s.pc + off4 o)) else goes s

/-! Contexts (R18, R19). -/

/-- start xd, xs1, xs2; a helper that an entry of the apply queue takes is not FREE for it (R222). -/
def execStart (d a c : BitVec 5) (s : State) :=
  s.instr 4 [.x d, .x a, .x c] fun s =>
    match s.core.freeHelper with
    | none => goes (s.setX d 0)
    | some k =>
      let me := s.me
      let t := s.updCore fun co => co.startHelper k (s.xr a) me.stacklim me.trapvec false [s.xr c] me.pts
      goes (t.setX d (word k))

/-- Does some other context wait on helper `k` by an earlier join (R19)? -/
def State.earlierJoin (s : State) (k seq : Nat) : Bool :=
  s.core.liveCtxs.any fun j => j != s.ctx && match (s.core.ctxAt j).wait with
    | .join i q => i == k && decide (q < seq)
    | _ => false

/-- Every other join that waits on helper `k` finds it FREE, whatever becomes of it before that context's turn (R19). -/
def State.failJoins (s : State) (k : Nat) : State :=
  s.updCore fun c => { c with ctxs := c.ctxs.map fun p => match p.2.wait with
    | .join i q => if i = k && p.1 != s.ctx then (p.1, { p.2 with wait := .join 0 q }) else p
    | _ => p }

/-- join xd, xs1 (R18, R19). -/
def execJoin (d a : BitVec 5) (s : State) :=
  s.instr 4 [.x d, .x a] fun s =>
    let k := (s.xr a).toNat
    let h := s.core.ctxAt k
    let failed := match s.me.wait with
      | .join i _ => i == 0
      | _ => false
    if failed || k = 0 || k = s.ctx || s.core.nctx ≤ k || h.st == .free || h.detached then fault Cause.CTX_JOIN_INVALID (s.xr a)
    else
      let seq := match s.me.wait with
        | .join i q => if i = k then q else s.serial
        | _ => s.serial
      if h.st == .live || s.earlierJoin k seq then .error (.wait { s with serial := s.serial + 1 } (.join k seq))
      else
        let t := ((s.failJoins k).updCore fun c => c.setCtx k h.fresh).updMe fun x => { x with pts := later x.pts h.pts }
        goes (t.setX d h.endv)

/-- endc xs1 (R18, R17); a detached helper is FREE at once (R222). TFLAGS.STEP raises nothing in the context that has ended.
DEDUCED, log 51. -/
def execEndc (a : BitVec 5) (s : State) :=
  s.instr 4 [.x a] fun s =>
    if s.ctx = 0 then fault Cause.CTX_ROLE 0
    else
      let v := s.xr a
      .ok (.own (s.updMe fun x =>
        if x.detached then x.fresh else { x with st := .ended, endv := v, wait := .none, pc := s.nextPc 4 }))

/-- yield (R18): the selection of R20 takes this context last in any case. -/
def execYield (s : State) := s.instr 4 [] goes

/-! The system group. -/

def execTrap (n : BitVec 4) (a : BitVec 5) (s : State) :=
  s.instr 4 [.x a] fun s => .ok (.trapNext s (Cause.TRAP n) (s.xr a))
def execBrk (s : State) := s.instr 4 [] fun _ => fault Cause.BREAK 0
def execTret (s : State) :=
  s.instr 4 [] fun s => match s.returnTrap with
    | some (s, pc) => .ok (.jump s pc)
    | none => fault Cause.TRET_IDLE 0
def execRdsr (d : BitVec 5) (i : BitVec 10) (s : State) :=
  s.instr 4 [.x d] fun s =>
    match s.readSR (s.holderOf s.cur) s.cur s.ctx i.toNat with
    | some v => goes (s.setX d v)
    | none => fault Cause.SR_ACCESS (i.setWidth 64)
def execWrsr (i : BitVec 10) (a : BitVec 5) (s : State) :=
  s.instr 4 [.x a] fun s =>
    let n := i.toNat % 16
    let wr (s : State) : Option State := s.writeSR (s.holderOf s.cur) s.cur s.ctx i.toNat (s.xr a)
    if i.toNat / 16 = 4 || i.toNat / 16 = 5 then
      let s := s.countFirst s.cur n (i.toNat / 16 == 4)
      .ok (.wrote ((wr s).getD s))
    else match wr s with
    | some s => goes s
    | none => fault Cause.SR_ACCESS (i.setWidth 64)

/-- rdtime xd (R131, R355). -/
def execRdtime (d : BitVec 5) (s : State) :=
  s.instr 4 [.x d] fun s =>
    let t := later (s.fabric - (s.domainAt s.core.domain.toNat).toff) s.core.tmax
    goes ((s.updCore fun c => { c with tmax := t }).setX d t)

end Sys2Proof.Machine
end

