-- ==== Sys2Proof/Machine/Lanes.lean ====
section
/-! DEFINITION. Masked lanes (R88, R134) and the vector loads and stores (R136 to R139). -/

namespace Sys2Proof.Machine

/-- The mask that mask2 names (R88). -/
def mask2 (k : BitVec 2) : BitVec 3 := k.setWidth 3
/-- Active(i): does lane `i` take part (R88)? -/
def State.act (s : State) (k : BitVec 3) (i : Nat) : Bool := (s.mr k).getLsbD i

/-- `f` on the lanes from number `i` on that take part, given the lane's number, its old value and one lane of each
source; the others keep their old value and raise no flag (R88). -/
def mapLanes (act : Nat → Bool) (f : Nat → Nat → Nat → Nat → Nat × Flags) :
    Nat → List Nat → List Nat → List Nat → List Nat × Flags
  | i, o :: os, a :: as, c :: cs =>
    let r := if act i then f i o a c else (o, Flags.none)
    let rest := mapLanes act f (i + 1) os as cs
    (r.1 :: rest.1, r.2.or rest.2)
  | _, _, _, _ => ([], Flags.none)

/-- Lanes of `w` bits of V[d] written by `f` from the lanes `as` and `cs` under mask `k`. -/
def State.vwrite (s : State) (w : Nat) (k : BitVec 3) (d : BitVec 5) (as cs : List Nat)
    (f : Nat → Nat → Nat → Nat → Nat × Flags) : State :=
  let r := mapLanes (s.act k) f 0 (lanes w (s.vr d)) as cs
  (s.setV d (ofLanes w r.1)).setFlags r.2

/-! Vector loads and stores (R136, R137). -/

/-- Bytes of an element. -/
def elemBytes (t : Type4) : Nat := t.bits / 8
/-- Lanes that take part. -/
def State.actives (s : State) (t : Type4) (k : BitVec 3) : List Nat := (List.range (1024 / t.bits)).filter (s.act k)

/-- The values of the lanes that take part, from lane `i` on, put into the old lanes. -/
def spread (act : Nat → Bool) : Nat → List Nat → List Nat → List Nat
  | _, [], _ => []
  | i, o :: os, vs => if act i then vs.headD o :: spread act (i + 1) os vs.tail else o :: spread act (i + 1) os vs

/-- A vector register that a global access writes is not readable until the data arrives (R135). -/
def State.awaitV (s : State) (d : BitVec 5) (ls : List Lane) : State :=
  if ls.any fun l => decide (2 ^ 32 ≤ l.a.toNat) then
    s.updMe fun x => { x with loading := setBit x.loading (bitV (x.phys d)) }
  else s

/-- The load of R137 at the lane addresses `addr` into V[d]. -/
def State.loadV (s : State) (one stk : Bool) (t : Type4) (k : BitVec 3) (d : BitVec 5) (addr : Nat → Word) : Run State := do
  let ls : List Lane := (s.actives t k).map fun i => ⟨addr i, []⟩
  let (vs, s) ← s.vload one stk (elemBytes t) ls
  .ok ((s.setV d (ofLanes t.bits (spread (s.act k) 0 (lanes t.bits (s.vr d)) vs))).awaitV d ls)

/-- The store of R137 of V[d] at the lane addresses `addr`. -/
def State.storeV (s : State) (one stk : Bool) (t : Type4) (k : BitVec 3) (d : BitVec 5) (addr : Nat → Word) : Run State :=
  let vs := lanes t.bits (s.vr d)
  s.vstore one stk (elemBytes t) ((s.actives t k).map fun i => ⟨addr i, leOf (elemBytes t) (vs.getD i 0)⟩)

/-- Lane addresses: from a base on, at a stride, and by an index register (R136). -/
def seqAddr (t : Type4) (base : Word) (i : Nat) : Word := base + word (i * elemBytes t)
def strideAddr (base stride : Word) (i : Nat) : Word := base + word i * stride
def indexAddr (base : Word) (idx : List Nat) (sh : BitVec 3) (i : Nat) : Word := base + (word (idx.getD i 0) <<< sh.toNat)

/-- A vector access of an instruction of `len` bytes: `st` for a store; `c` the use of field C. -/
def State.vmem (s : State) (len : Nat) (st one : Bool) (t : Type4) (k : BitVec 3) (a b : BitVec 5) (c : List Use)
    (addr : State → Nat → Word) (upd : Option Word) : Host.Outcome State Fault Refusal :=
  s.instr len ([.v a, .x b] ++ c ++ [.m k]) fun s => do
    let base := s.xr b
    let s ← if st then s.storeV one (b == 2) t k a (addr s) else s.loadV one (b == 2) t k a (addr s)
    goes (match upd with | some k => s.setX b (base + k) | none => s)

def State.vldAt (s : State) (len : Nat) (st : Bool) (t : Type4) (k : BitVec 3) (disp : Word) (a b : BitVec 5) :=
  s.vmem len st true t k a b [] (fun s => seqAddr t (s.xr b + disp)) none
def State.vldPAt (s : State) (len : Nat) (st : Bool) (t : Type4) (k : BitVec 3) (disp : Word) (a b : BitVec 5) :=
  s.vmem len st true t k a b [] (fun s => seqAddr t (s.xr b)) (some disp)
def State.vldsAt (s : State) (len : Nat) (st : Bool) (t : Type4) (k : BitVec 3) (disp : Word) (a b c : BitVec 5) :=
  s.vmem len st false t k a b [.x c] (fun s => strideAddr (s.xr b + disp) (s.xr c)) none
def State.vldxAt (s : State) (len : Nat) (st : Bool) (t : Type4) (k sh : BitVec 3) (disp : Word) (a b c : BitVec 5) :=
  s.vmem len st false t k a b [.v c] (fun s => indexAddr (s.xr b + disp) (lanes t.bits (s.vr c)) sh) none
def State.vldbAt (s : State) (len : Nat) (t : Type4) (k : BitVec 3) (disp : Word) (a b : BitVec 5) :=
  s.vmem len false true t k a b [] (fun s _ => s.xr b + disp) none

def execVld (t : Type4) (k : BitVec 3) (i : BitVec 32) (a b : BitVec 5) (s : State) := s.vldAt 12 false t k (sx i) a b
def execVldLit (t : Type4) (k : BitVec 3) (l : BitVec 64) (a b : BitVec 5) (s : State) := s.vldAt 20 false t k l a b
def execVldP (t : Type4) (k : BitVec 3) (i : BitVec 32) (a b : BitVec 5) (s : State) := s.vldPAt 12 false t k (sx i) a b
def execVldPLit (t : Type4) (k : BitVec 3) (l : BitVec 64) (a b : BitVec 5) (s : State) := s.vldPAt 20 false t k l a b
def execVlds (t : Type4) (k : BitVec 3) (i : BitVec 32) (a b c : BitVec 5) (s : State) := s.vldsAt 12 false t k (sx i) a b c
def execVldsLit (t : Type4) (k : BitVec 3) (l : BitVec 64) (a b c : BitVec 5) (s : State) := s.vldsAt 20 false t k l a b c
def execVldx (t : Type4) (k sh : BitVec 3) (i : BitVec 32) (a b c : BitVec 5) (s : State) :=
  s.vldxAt 12 false t k sh (sx i) a b c
def execVldxLit (t : Type4) (k sh : BitVec 3) (l : BitVec 64) (a b c : BitVec 5) (s : State) :=
  s.vldxAt 20 false t k sh l a b c
def execVldb (t : Type4) (k : BitVec 3) (i : BitVec 32) (a b : BitVec 5) (s : State) := s.vldbAt 12 t k (sx i) a b
def execVldbLit (t : Type4) (k : BitVec 3) (l : BitVec 64) (a b : BitVec 5) (s : State) := s.vldbAt 20 t k l a b
def execVst (t : Type4) (k : BitVec 3) (i : BitVec 32) (a b : BitVec 5) (s : State) := s.vldAt 12 true t k (sx i) a b
def execVstLit (t : Type4) (k : BitVec 3) (l : BitVec 64) (a b : BitVec 5) (s : State) := s.vldAt 20 true t k l a b
def execVstP (t : Type4) (k : BitVec 3) (i : BitVec 32) (a b : BitVec 5) (s : State) := s.vldPAt 12 true t k (sx i) a b
def execVstPLit (t : Type4) (k : BitVec 3) (l : BitVec 64) (a b : BitVec 5) (s : State) := s.vldPAt 20 true t k l a b
def execVsts (t : Type4) (k : BitVec 3) (i : BitVec 32) (a b c : BitVec 5) (s : State) := s.vldsAt 12 true t k (sx i) a b c
def execVstsLit (t : Type4) (k : BitVec 3) (l : BitVec 64) (a b c : BitVec 5) (s : State) := s.vldsAt 20 true t k l a b c
def execVstx (t : Type4) (k sh : BitVec 3) (i : BitVec 32) (a b c : BitVec 5) (s : State) :=
  s.vldxAt 12 true t k sh (sx i) a b c
def execVstxLit (t : Type4) (k sh : BitVec 3) (l : BitVec 64) (a b c : BitVec 5) (s : State) :=
  s.vldxAt 20 true t k sh l a b c

end Sys2Proof.Machine
end

