-- ==== Sys2Proof/Machine/Real.lean ====
section
/-! DEFINITION. The correctly rounded functions of R54 that no exact arithmetic gives: 2^x, log2 x,
tanh x and 1/(1 + e^-x). Each is enclosed between two fixed-point numbers; where both ends round to the
same pattern, that pattern is the correctly rounded result. -/

namespace Sys2Proof.Machine

/-- A positive real enclosed between lo·2^e and hi·2^e. -/
structure Encl where
  lo : Nat
  hi : Nat
  e : Int
deriving DecidableEq, Repr

/-- Fraction bits of the fixed-point work. -/
def rp : Nat := 240
/-- 1 in fixed point. -/
def r1 : Nat := 2 ^ rp
/-- The floor of ln 2 in fixed point. -/
def ln2Fix : Nat := 1224685061431752149387114016819916847747660333428801675508466606222838698
/-- Units by which a fixed-point sum below may fall short of the real value. -/
def rErr : Nat := 2 ^ 16

/-- e^y for a fixed-point y below 1, from below: the sum of y^k/k! for the next `n` terms after
term `k` with value `t`. -/
def expSum (y : Nat) : Nat → Nat → Nat → Nat
  | 0, _, _ => 0
  | n + 1, k, t => t + expSum y n (k + 1) (t * y / ((k + 1) * r1))

/-- 2^f for a fixed-point f below 1. -/
def exp2Frac (f : Nat) : Encl :=
  let v := expSum (f * ln2Fix / r1) 60 0 r1
  ⟨v - rErr, v + rErr, -(rp : Int)⟩

/-- 2^v for the fixed-point integer v: its whole part goes to the exponent. -/
def exp2Fix (v : Int) : Encl :=
  let k := v / (r1 : Int)
  let x := exp2Frac (v % (r1 : Int)).toNat
  ⟨x.lo, x.hi, x.e + k⟩

/-- atanh z for a fixed-point z below 1/3, from below: the sum of z^(2k+1)/(2k+1). -/
def atanhSum (z2 : Nat) : Nat → Nat → Nat → Nat
  | 0, _, _ => 0
  | n + 1, k, t => t / (2 * k + 1) + atanhSum z2 n (k + 1) (t * z2 / r1)

/-- log2 m in fixed point for m·2^-s in [1, 2), from below by at most rErr units. -/
def log2Frac (m s : Nat) : Nat :=
  let z := (m - 2 ^ s) * r1 / (m + 2 ^ s)
  2 * atanhSum (z * z / r1) 80 0 z * r1 / ln2Fix

/-- A magnitude `m · 2^e` in fixed point, cut towards zero. -/
def toFix (m : Nat) (e : Int) : Nat :=
  let k := e + rp
  if 0 ≤ k then m * 2 ^ k.toNat else m / 2 ^ (-k).toNat

/-- Both ends rounded; an inexact result always sets NX. Where the ends differ, the enclosure decides
nothing and the value is the free one. DESIGN CHOICE, log 53. -/
def Fmt.ofEncl (f : Fmt) (neg : Bool) (x : Encl) (n : Nat) : Nat × FFlags :=
  let a := f.round .rne neg x.lo x.e true
  let b := f.round .rne neg (x.hi - 1) x.e true
  if a = b then a else ((Config.freeWord n).toNat % 2 ^ f.bits, fNX)

/-- 2^x (R54). -/
def Fmt.exp2 (f : Fmt) (n : Nat) (a : Nat) : Nat × FFlags :=
  let one := f.bias.toNat * 2 ^ f.mb
  match f.decode a with
  | .nan s => (f.nan, if s then fNV else 0)
  | .inf neg => (if neg then 0 else f.inf, 0)
  | .fin neg m e =>
    if m = 0 then (one, 0)
    else if 12 < e + Nat.log2 m then
      f.round .rne false 1 (if neg then -8192 else 8192) false
    else if cutAt m e 0 false == (m * 2 ^ e.toNat, 0) && 0 ≤ e then
      f.round .rne false 1 (scaled neg m e 0) false
    else if (cutAt m e 0 false).2 = 0 then
      let k : Int := (cutAt m e 0 false).1
      f.round .rne false 1 (if neg then -k else k) false
    else
      -- x lies between v and v + 1 units of the fixed point
      let w := toFix m e
      let v : Int := if neg then -(w : Int) - 1 else w
      let x := exp2Fix v
      f.ofEncl false ⟨x.lo, x.hi + rErr, x.e⟩ n

/-- log2 x (R54). -/
def Fmt.log2 (f : Fmt) (n : Nat) (a : Nat) : Nat × FFlags :=
  match f.decode a with
  | .nan s => (f.nan, if s then fNV else 0)
  | .inf neg => if neg then (f.nan, fNV) else (f.inf, 0)
  | .fin neg m e =>
    if m = 0 then (f.sign true + f.inf, fDZ)
    else if neg then (f.nan, fNV)
    else
      let s := Nat.log2 m
      let k : Int := e + s
      if m = 2 ^ s then f.ofVal .rne (FVal.ofInt k)
      else
        let l := log2Frac m s
        let v : Int := k * r1 + l
        if 0 ≤ v then f.ofEncl false ⟨v.toNat, v.toNat + rErr, -(rp : Int)⟩ n
        else f.ofEncl true ⟨(-v).toNat - rErr, (-v).toNat, -(rp : Int)⟩ n

/-- e^x for a nonzero magnitude of moderate size. -/
def expEncl (neg : Bool) (m : Nat) (e : Int) : Encl :=
  let y := toFix m e * r1 / ln2Fix
  let x := exp2Fix (if neg then -(y : Int) - 1024 else y)
  ⟨x.lo, x.hi + rErr, x.e⟩

/-- The enclosure as a pair of fixed-point numbers. -/
def Encl.fix (x : Encl) : Nat × Nat := (toFix x.lo x.e, toFix x.hi x.e + 1)

/-- tanh x (R54). -/
def Fmt.tanh (f : Fmt) (n : Nat) (a : Nat) : Nat × FFlags :=
  match f.decode a with
  | .nan s => (f.nan, if s then fNV else 0)
  | .inf neg => (f.sign neg + f.bias.toNat * 2 ^ f.mb, 0)
  | .fin neg m e =>
    if m = 0 then (f.sign neg, 0)
    else
      let top := e + Nat.log2 m
      if top < -40 then
        -- x - x³/3 < tanh x < x, and x³/3 is below x·2^-80
        f.ofEncl neg ⟨m * 2 ^ 80 - m, m * 2 ^ 80, e - 80⟩ n
      else if 6 < top then f.ofEncl neg ⟨2 ^ 100 - 1, 2 ^ 100, -100⟩ n
      else
        let (lo, hi) := (expEncl false m (e + 1)).fix
        -- (e^2x - 1)/(e^2x + 1)
        f.ofEncl neg ⟨(lo - r1) * r1 / (hi + r1), (hi - r1) * r1 / (lo + r1) + 1, -(rp : Int)⟩ n

/-- 1 ÷ (1 + e^-x) (R54). -/
def Fmt.sigm (f : Fmt) (n : Nat) (a : Nat) : Nat × FFlags :=
  let one := f.bias.toNat * 2 ^ f.mb
  match f.decode a with
  | .nan s => (f.nan, if s then fNV else 0)
  | .inf neg => (if neg then 0 else one, 0)
  | .fin neg m e =>
    if m = 0 then ((f.bias.toNat - 1) * 2 ^ f.mb, 0)
    else
      let top := e + Nat.log2 m
      if 9 < top then
        if neg then f.round .rne false 1 (-700) true
        else f.ofEncl false ⟨2 ^ 100 - 1, 2 ^ 100, -100⟩ n
      else if neg then
        -- e^-|x| / (1 + e^-|x|), kept relative to the power of two of e^-|x|
        let t := expEncl true m e
        let (lo, hi) := t.fix
        f.ofEncl false ⟨t.lo * r1 / (hi + r1), t.hi * r1 / (lo + r1) + 1, t.e⟩ n
      else
        let (lo, hi) := (expEncl true m e).fix
        f.ofEncl false ⟨r1 * r1 / (hi + r1), r1 * r1 / (lo + r1) + 1, -(rp : Int)⟩ n

end Sys2Proof.Machine
end

