-- ==== Sys2Proof/Machine/Vector.lean ====
section
/-! DEFINITION. VALU-A and VALU-B (R140, R141), VFMA (R142, R143), the special functions (R144), conversions
(R145, R146) and the mask group (R150). -/

namespace Sys2Proof

/-- A lane of a float type by `ff` with its FPFLAGS, of any other type by `fi` at its width with its ISTAT bits. -/
def LaneT.by' (y : LaneT) (ff : Machine.Fmt → Nat × Machine.FFlags) (fi : Nat → Nat × BitVec 3) : Nat × Machine.Flags :=
  match y.fmt with
  | some f => let r := ff f; (r.1, ⟨r.2, 0⟩)
  | none => let r := fi y.bits; (r.1, ⟨0, r.2⟩)

namespace Machine

/-- The VALU template with two sources (R140), for an instruction of `len` bytes. -/
def State.valu (s : State) (len : Nat) (k : BitVec 3) (y : LaneT) (a b c : BitVec 5) (f : Nat → Nat → Nat × Flags) :
    Host.Outcome State Fault Refusal :=
  s.instr len [.v a, .v b, .v c, .m k] fun s =>
    goes (s.vwrite y.bits k a (lanes y.bits (s.vr b)) (lanes y.bits (s.vr c)) fun _ _ x z => f x z)
/-- The same with one source; `f` takes the number of the lane too. -/
def State.valu1 (s : State) (len : Nat) (k : BitVec 3) (y : LaneT) (a b : BitVec 5) (f : Nat → Nat → Nat × Flags) :
    Host.Outcome State Fault Refusal :=
  s.instr len [.v a, .v b, .m k] fun s =>
    goes (s.vwrite y.bits k a (lanes y.bits (s.vr b)) (lanes y.bits (s.vr b)) fun i _ x _ => f i x)

/-! The functions of R140 on one lane. -/

/-- A value without a flag. -/
def plain (v : Nat) : Nat × BitVec 3 := (v, 0)
def laneAdd (y : LaneT) (r : Rnd) (x z : Nat) : Nat × Flags := y.by' (fun f => f.add r x z) fun w => plain ((x + z) % 2 ^ w)
def laneSub (y : LaneT) (r : Rnd) (x z : Nat) : Nat × Flags :=
  y.by' (fun f => f.sub r x z) fun w => plain ((x + 2 ^ w - z) % 2 ^ w)
def laneMul (y : LaneT) (r : Rnd) (x z : Nat) : Nat × Flags := y.by' (fun f => f.mul r x z) fun w => plain (x * z % 2 ^ w)
def laneMin (y : LaneT) (x z : Nat) : Nat × Flags :=
  y.by' (fun f => f.minmax false x z) fun w => plain (if sgn w x ≤ sgn w z then x else z)
def laneMax (y : LaneT) (x z : Nat) : Nat × Flags :=
  y.by' (fun f => f.minmax true x z) fun w => plain (if sgn w x ≤ sgn w z then z else x)
def laneAbs (y : LaneT) (_ x : Nat) : Nat × Flags :=
  y.by' (fun f => f.abs x) fun w => plain (wrap w ((sgn w x).natAbs : Int))
def laneNeg (y : LaneT) (_ x : Nat) : Nat × Flags := y.by' (fun f => f.neg x) fun w => plain (wrap w (-sgn w x))
/-- A function without flags. -/
def bare (f : Nat → Nat → Nat) (x z : Nat) : Nat × Flags := (f x z, Flags.none)
/-- A shift by c & (w − 1) (R140). -/
def laneShl (y : LaneT) (x z : Nat) : Nat := x * 2 ^ (z % y.bits) % 2 ^ y.bits
def laneShr (y : LaneT) (x z : Nat) : Nat := x / 2 ^ (z % y.bits)
def laneSra (y : LaneT) (x z : Nat) : Nat := wrap y.bits (sgn y.bits x >>> (z % y.bits))
def laneAndn (x z : Nat) : Nat := x - (x &&& z)
/-- The high half of a product (R140). -/
def laneMulh (y : LaneT) (x z : Nat) : Nat := wrap y.bits (sgn y.bits x * sgn y.bits z / 2 ^ y.bits)
def laneMulhu (y : LaneT) (x z : Nat) : Nat := x * z / 2 ^ y.bits
def laneAvg (y : LaneT) (x z : Nat) : Nat := wrap y.bits ((sgn y.bits x + sgn y.bits z + 1) / 2)
/-- A saturating sum, with ISTAT.SAT where it clamps (R140). -/
def laneSat (y : LaneT) (signed : Bool) (f : Int → Int → Int) (x z : Nat) : Nat × Flags :=
  let r := sat y.bits signed (f (intVal y.bits signed x) (intVal y.bits signed z))
  (r.1, ⟨0, if r.2 then iSAT else 0⟩)
def laneClass (y : LaneT) (_ x : Nat) : Nat × Flags := y.by' (fun f => (f.fclass x, 0)) fun _ => plain 0

def execVadd (k : BitVec 2) (y : LaneT) (a b c : BitVec 5) (s : State) := s.valu 4 (mask2 k) y a b c (laneAdd y .rne)
def execVaddExt (k : BitVec 3) (y : LaneT) (r : Rnd) (a b c : BitVec 5) (s : State) := s.valu 12 k y a b c (laneAdd y r)
def execVsub (k : BitVec 2) (y : LaneT) (a b c : BitVec 5) (s : State) := s.valu 4 (mask2 k) y a b c (laneSub y .rne)
def execVsubExt (k : BitVec 3) (y : LaneT) (r : Rnd) (a b c : BitVec 5) (s : State) := s.valu 12 k y a b c (laneSub y r)
def execVmul (k : BitVec 2) (y : LaneT) (a b c : BitVec 5) (s : State) := s.valu 4 (mask2 k) y a b c (laneMul y .rne)
def execVmulExt (k : BitVec 3) (y : LaneT) (r : Rnd) (a b c : BitVec 5) (s : State) := s.valu 12 k y a b c (laneMul y r)
def execVmin (k : BitVec 2) (y : LaneT) (a b c : BitVec 5) (s : State) := s.valu 4 (mask2 k) y a b c (laneMin y)
def execVminExt (k : BitVec 3) (y : LaneT) (a b c : BitVec 5) (s : State) := s.valu 12 k y a b c (laneMin y)
def execVmax (k : BitVec 2) (y : LaneT) (a b c : BitVec 5) (s : State) := s.valu 4 (mask2 k) y a b c (laneMax y)
def execVmaxExt (k : BitVec 3) (y : LaneT) (a b c : BitVec 5) (s : State) := s.valu 12 k y a b c (laneMax y)
def execVand (k : BitVec 2) (y : LaneT) (a b c : BitVec 5) (s : State) := s.valu 4 (mask2 k) y a b c (bare fun x z => x &&& z)
def execVandExt (k : BitVec 3) (y : LaneT) (a b c : BitVec 5) (s : State) := s.valu 12 k y a b c (bare fun x z => x &&& z)
def execVor (k : BitVec 2) (y : LaneT) (a b c : BitVec 5) (s : State) := s.valu 4 (mask2 k) y a b c (bare fun x z => x ||| z)
def execVorExt (k : BitVec 3) (y : LaneT) (a b c : BitVec 5) (s : State) := s.valu 12 k y a b c (bare fun x z => x ||| z)
def execVxor (k : BitVec 2) (y : LaneT) (a b c : BitVec 5) (s : State) := s.valu 4 (mask2 k) y a b c (bare fun x z => x ^^^ z)
def execVxorExt (k : BitVec 3) (y : LaneT) (a b c : BitVec 5) (s : State) := s.valu 12 k y a b c (bare fun x z => x ^^^ z)
def execVandn (k : BitVec 2) (y : LaneT) (a b c : BitVec 5) (s : State) := s.valu 4 (mask2 k) y a b c (bare laneAndn)
def execVandnExt (k : BitVec 3) (y : LaneT) (a b c : BitVec 5) (s : State) := s.valu 12 k y a b c (bare laneAndn)
def execVshl (k : BitVec 2) (y : LaneT) (a b c : BitVec 5) (s : State) := s.valu 4 (mask2 k) y a b c (bare (laneShl y))
def execVshlExt (k : BitVec 3) (y : LaneT) (a b c : BitVec 5) (s : State) := s.valu 12 k y a b c (bare (laneShl y))
def execVshr (k : BitVec 2) (y : LaneT) (a b c : BitVec 5) (s : State) := s.valu 4 (mask2 k) y a b c (bare (laneShr y))
def execVshrExt (k : BitVec 3) (y : LaneT) (a b c : BitVec 5) (s : State) := s.valu 12 k y a b c (bare (laneShr y))
def execVsra (k : BitVec 2) (y : LaneT) (a b c : BitVec 5) (s : State) := s.valu 4 (mask2 k) y a b c (bare (laneSra y))
def execVsraExt (k : BitVec 3) (y : LaneT) (a b c : BitVec 5) (s : State) := s.valu 12 k y a b c (bare (laneSra y))
def execVabs (k : BitVec 2) (y : LaneT) (a b : BitVec 5) (s : State) := s.valu1 4 (mask2 k) y a b (laneAbs y)
def execVabsExt (k : BitVec 3) (y : LaneT) (a b : BitVec 5) (s : State) := s.valu1 12 k y a b (laneAbs y)
def execVneg (k : BitVec 2) (y : LaneT) (a b : BitVec 5) (s : State) := s.valu1 4 (mask2 k) y a b (laneNeg y)
def execVnegExt (k : BitVec 3) (y : LaneT) (a b : BitVec 5) (s : State) := s.valu1 12 k y a b (laneNeg y)
def execVmov (k : BitVec 2) (y : LaneT) (a b : BitVec 5) (s : State) := s.valu1 4 (mask2 k) y a b (fun _ x => (x, Flags.none))
def execVmovExt (k : BitVec 3) (y : LaneT) (a b : BitVec 5) (s : State) := s.valu1 12 k y a b (fun _ x => (x, Flags.none))

/-- vsel: every lane, a where the mask bit is 1 and c where it is 0 (R140). -/
def State.vselAt (s : State) (len : Nat) (k : BitVec 3) (y : LaneT) (a b c : BitVec 5) : Host.Outcome State Fault Refusal :=
  s.instr len [.v a, .v b, .v c, .m k] fun s =>
    goes (s.vwrite y.bits 0 a (lanes y.bits (s.vr b)) (lanes y.bits (s.vr c)) fun i _ x z =>
      (if s.act k i then x else z, Flags.none))
def execVsel (k : BitVec 2) (y : LaneT) (a b c : BitVec 5) (s : State) := s.vselAt 4 (mask2 k) y a b c
def execVselExt (k : BitVec 3) (y : LaneT) (a b c : BitVec 5) (s : State) := s.vselAt 12 k y a b c

def execVminu (k : BitVec 2) (y : LaneT) (a b c : BitVec 5) (s : State) := s.valu 4 (mask2 k) y a b c (bare Nat.min)
def execVminuExt (k : BitVec 3) (y : LaneT) (a b c : BitVec 5) (s : State) := s.valu 12 k y a b c (bare Nat.min)
def execVmaxu (k : BitVec 2) (y : LaneT) (a b c : BitVec 5) (s : State) := s.valu 4 (mask2 k) y a b c (bare Nat.max)
def execVmaxuExt (k : BitVec 3) (y : LaneT) (a b c : BitVec 5) (s : State) := s.valu 12 k y a b c (bare Nat.max)
def execVmulh (k : BitVec 2) (y : LaneT) (a b c : BitVec 5) (s : State) := s.valu 4 (mask2 k) y a b c (bare (laneMulh y))
def execVmulhExt (k : BitVec 3) (y : LaneT) (a b c : BitVec 5) (s : State) := s.valu 12 k y a b c (bare (laneMulh y))
def execVmulhu (k : BitVec 2) (y : LaneT) (a b c : BitVec 5) (s : State) := s.valu 4 (mask2 k) y a b c (bare (laneMulhu y))
def execVmulhuExt (k : BitVec 3) (y : LaneT) (a b c : BitVec 5) (s : State) := s.valu 12 k y a b c (bare (laneMulhu y))
def execVavg (k : BitVec 2) (y : LaneT) (a b c : BitVec 5) (s : State) := s.valu 4 (mask2 k) y a b c (bare (laneAvg y))
def execVavgExt (k : BitVec 3) (y : LaneT) (a b c : BitVec 5) (s : State) := s.valu 12 k y a b c (bare (laneAvg y))
def execVadds (k : BitVec 2) (y : LaneT) (a b c : BitVec 5) (s : State) := s.valu 4 (mask2 k) y a b c (laneSat y true fun x z => x + z)
def execVaddsExt (k : BitVec 3) (y : LaneT) (a b c : BitVec 5) (s : State) := s.valu 12 k y a b c (laneSat y true fun x z => x + z)
def execVsubs (k : BitVec 2) (y : LaneT) (a b c : BitVec 5) (s : State) := s.valu 4 (mask2 k) y a b c (laneSat y true fun x z => x - z)
def execVsubsExt (k : BitVec 3) (y : LaneT) (a b c : BitVec 5) (s : State) := s.valu 12 k y a b c (laneSat y true fun x z => x - z)
def execVaddsu (k : BitVec 2) (y : LaneT) (a b c : BitVec 5) (s : State) := s.valu 4 (mask2 k) y a b c (laneSat y false fun x z => x + z)
def execVaddsuExt (k : BitVec 3) (y : LaneT) (a b c : BitVec 5) (s : State) := s.valu 12 k y a b c (laneSat y false fun x z => x + z)
def execVsubsu (k : BitVec 2) (y : LaneT) (a b c : BitVec 5) (s : State) := s.valu 4 (mask2 k) y a b c (laneSat y false fun x z => x - z)
def execVsubsuExt (k : BitVec 3) (y : LaneT) (a b c : BitVec 5) (s : State) := s.valu 12 k y a b c (laneSat y false fun x z => x - z)

/-! Compares (R141). -/

/-- The result of a comparison on one lane, with the flags of R114; ltu and leu read integers as unsigned. -/
def laneCmp (y : LaneT) (c : Cmp) (uns : Bool) (x z : Nat) : Bool × FFlags :=
  match y.fmt with
  | some f => f.cmp c x z
  | none =>
    let p := intVal y.bits (!uns) x
    let q := intVal y.bits (!uns) z
    (match c with
      | .eq => p == q
      | .ne => p != q
      | .lt => decide (p < q)
      | .le => decide (p ≤ q), 0)

/-- The bits of a mask from lane `i` on, and the flags: a lane that takes part gives its comparison, another keeps
its bit, and no lane leaves zero. -/
def cmpBits (act old : Nat → Bool) (f : Nat → Nat → Bool × FFlags) : Nat → List Nat → List Nat → Nat × FFlags
  | i, x :: xs, z :: zs =>
    let r := if act i then f x z else (old i, 0)
    let rest := cmpBits act old f (i + 1) xs zs
    ((if r.1 then 1 else 0) + 2 * rest.1, r.2 ||| rest.2)
  | _, _, _ => (0, 0)

/-- vcmp into mask register `a` (R141). -/
def State.vcmpAt (s : State) (len : Nat) (k : BitVec 3) (y : LaneT) (c : Cmp) (uns : Bool) (b z : BitVec 5) (a : BitVec 3) :
    Host.Outcome State Fault Refusal :=
  s.instr len [.m a, .v b, .v z, .m k] fun s =>
    let r := cmpBits (s.act k) (s.act a) (laneCmp y c uns) 0 (lanes y.bits (s.vr b)) (lanes y.bits (s.vr z))
    goes ((s.setM a (BitVec.ofNat 128 r.1)).setFp r.2)

def execVcmpEq (k : BitVec 2) (y : LaneT) (b c : BitVec 5) (a : BitVec 3) (s : State) := s.vcmpAt 4 (mask2 k) y .eq false b c a
def execVcmpEqExt (k : BitVec 3) (y : LaneT) (b c : BitVec 5) (a : BitVec 3) (s : State) := s.vcmpAt 12 k y .eq false b c a
def execVcmpNe (k : BitVec 2) (y : LaneT) (b c : BitVec 5) (a : BitVec 3) (s : State) := s.vcmpAt 4 (mask2 k) y .ne false b c a
def execVcmpNeExt (k : BitVec 3) (y : LaneT) (b c : BitVec 5) (a : BitVec 3) (s : State) := s.vcmpAt 12 k y .ne false b c a
def execVcmpLt (k : BitVec 2) (y : LaneT) (b c : BitVec 5) (a : BitVec 3) (s : State) := s.vcmpAt 4 (mask2 k) y .lt false b c a
def execVcmpLtExt (k : BitVec 3) (y : LaneT) (b c : BitVec 5) (a : BitVec 3) (s : State) := s.vcmpAt 12 k y .lt false b c a
def execVcmpLe (k : BitVec 2) (y : LaneT) (b c : BitVec 5) (a : BitVec 3) (s : State) := s.vcmpAt 4 (mask2 k) y .le false b c a
def execVcmpLeExt (k : BitVec 3) (y : LaneT) (b c : BitVec 5) (a : BitVec 3) (s : State) := s.vcmpAt 12 k y .le false b c a
def execVcmpLtu (k : BitVec 2) (y : LaneT) (b c : BitVec 5) (a : BitVec 3) (s : State) := s.vcmpAt 4 (mask2 k) y .lt true b c a
def execVcmpLtuExt (k : BitVec 3) (y : LaneT) (b c : BitVec 5) (a : BitVec 3) (s : State) := s.vcmpAt 12 k y .lt true b c a
def execVcmpLeu (k : BitVec 2) (y : LaneT) (b c : BitVec 5) (a : BitVec 3) (s : State) := s.vcmpAt 4 (mask2 k) y .le true b c a
def execVcmpLeuExt (k : BitVec 3) (y : LaneT) (b c : BitVec 5) (a : BitVec 3) (s : State) := s.vcmpAt 12 k y .le true b c a

def execVclass (k : BitVec 2) (y : LaneT) (a b : BitVec 5) (s : State) := s.valu1 4 (mask2 k) y a b (laneClass y)
def execVclassExt (k : BitVec 3) (y : LaneT) (a b : BitVec 5) (s : State) := s.valu1 12 k y a b (laneClass y)

/-! VFMA (R142, R143). -/

/-- ±(a × c) ± d on one lane. -/
def laneFma (y : LaneT) (r : Rnd) (negP negD : Bool) (d x z : Nat) : Nat × Flags :=
  y.by' (fun f => f.fma r x z d negP negD) fun w =>
    let p : Int := if negP then -(x * z : Int) else x * z
    plain (wrap w (if negD then p - d else p + d))

/-- A function of R142: the destination is a third operand. -/
def State.vfmaAt (s : State) (len : Nat) (k : BitVec 3) (y : LaneT) (r : Rnd) (negP negD : Bool) (a b c : BitVec 5) :
    Host.Outcome State Fault Refusal :=
  s.instr len [.v a, .v b, .v c, .m k] fun s =>
    goes (s.vwrite y.bits k a (lanes y.bits (s.vr b)) (lanes y.bits (s.vr c)) fun _ d x z => laneFma y r negP negD d x z)

def execVfma (k : BitVec 2) (y : LaneT) (a b c : BitVec 5) (s : State) := s.vfmaAt 4 (mask2 k) y .rne false false a b c
def execVfmaExt (k : BitVec 3) (y : LaneT) (r : Rnd) (a b c : BitVec 5) (s : State) := s.vfmaAt 12 k y r false false a b c
def execVfms (k : BitVec 2) (y : LaneT) (a b c : BitVec 5) (s : State) := s.vfmaAt 4 (mask2 k) y .rne false true a b c
def execVfmsExt (k : BitVec 3) (y : LaneT) (r : Rnd) (a b c : BitVec 5) (s : State) := s.vfmaAt 12 k y r false true a b c
def execVfnma (k : BitVec 2) (y : LaneT) (a b c : BitVec 5) (s : State) := s.vfmaAt 4 (mask2 k) y .rne true false a b c
def execVfnmaExt (k : BitVec 3) (y : LaneT) (r : Rnd) (a b c : BitVec 5) (s : State) := s.vfmaAt 12 k y r true false a b c
def execVfnms (k : BitVec 2) (y : LaneT) (a b c : BitVec 5) (s : State) := s.vfmaAt 4 (mask2 k) y .rne true true a b c
def execVfnmsExt (k : BitVec 3) (y : LaneT) (r : Rnd) (a b c : BitVec 5) (s : State) := s.vfmaAt 12 k y r true true a b c

/-- The sum of an integer accumulator and the products of a group, saturated (R63). -/
def dotInt (w : Nat) (d : Nat) (xs zs : List Nat) : Nat × Flags :=
  let r := sat 32 true (sgn 32 d + ((xs.zip zs).map fun p => sgn w p.1 * sgn w p.2).sum)
  (r.1, ⟨0, if r.2 then iSAT else 0⟩)

/-- The exact sum of an f32 accumulator and two products, rounded once (R63). Infinities of both signs among the terms are
an invalid condition beside a quiet NaN too (R49), and an exact zero takes the sign of a sum of two terms in the mode: minus
under .rdn or where every term is minus zero. DEDUCED, log 54. -/
def dotFlt (f : Fmt) (r : Rnd) (d : Nat) (xs zs : List Nat) : Nat × Flags :=
  let ms := (xs.zip zs).map fun p => (f.decode p.1).mul (f.decode p.2)
  let ts := Fmt.f32.decode d :: ms.map Prod.fst
  let t := ms.foldl (fun (acc : FVal × FFlags) m =>
    let t := acc.1.add r m.1
    (t.1, acc.2 ||| m.2 ||| t.2)) (Fmt.f32.decode d, if ts.contains (.inf false) && ts.contains (.inf true) then fNV else 0)
  let v := Fmt.f32.deliver r t
  (v.1, ⟨v.2, 0⟩)

/-- vdot4 and vdot2 (R143): lane j of 32 bits takes `n` lanes of each source. -/
def State.vdotAt (s : State) (len n : Nat) (k : BitVec 3) (y : LaneT) (r : Rnd) (a b c : BitVec 5) :
    Host.Outcome State Fault Refusal :=
  s.instr len [.v a, .v b, .v c, .m k] fun s =>
    let part (v j : Nat) : List Nat := (List.range n).map fun i => v / 2 ^ (32 * j + y.bits * i) % 2 ^ y.bits
    let x := s.vr b
    let z := s.vr c
    goes (s.vwrite 32 k a (lanes 32 x) (lanes 32 z) fun j d _ _ => match y.fmt with
      | some f => dotFlt f r d (part x j) (part z j)
      | none => dotInt y.bits d (part x j) (part z j))
def execVdot4 (k : BitVec 2) (y : LaneT) (a b c : BitVec 5) (s : State) := s.vdotAt 4 4 (mask2 k) y .rne a b c
def execVdot4Ext (k : BitVec 3) (y : LaneT) (a b c : BitVec 5) (s : State) := s.vdotAt 12 4 k y .rne a b c
def execVdot2 (k : BitVec 2) (y : LaneT) (a b c : BitVec 5) (s : State) := s.vdotAt 4 2 (mask2 k) y .rne a b c
def execVdot2Ext (k : BitVec 3) (y : LaneT) (r : Rnd) (a b c : BitVec 5) (s : State) := s.vdotAt 12 2 k y r a b c

/-! Special functions (R144, R54). -/

/-- A unary special function; `f` takes the free counter. -/
def State.spec1 (s : State) (len : Nat) (k : BitVec 3) (y : LaneT) (a b : BitVec 5) (f : Fmt → Nat → Nat → Nat × FFlags) :
    Host.Outcome State Fault Refusal :=
  let n := s.n
  State.valu1 { s with n := s.n + 64 } len k y a b fun i x => y.by' (fun g => f g (n + i) x) fun _ => plain 0

def execVexp2 (k : BitVec 2) (y : LaneT) (a b : BitVec 5) (s : State) := s.spec1 4 (mask2 k) y a b Fmt.exp2
def execVexp2Ext (k : BitVec 3) (y : LaneT) (a b : BitVec 5) (s : State) := s.spec1 12 k y a b Fmt.exp2
def execVlog2 (k : BitVec 2) (y : LaneT) (a b : BitVec 5) (s : State) := s.spec1 4 (mask2 k) y a b Fmt.log2
def execVlog2Ext (k : BitVec 3) (y : LaneT) (a b : BitVec 5) (s : State) := s.spec1 12 k y a b Fmt.log2
def execVrcp (k : BitVec 2) (y : LaneT) (a b : BitVec 5) (s : State) := s.valu1 4 (mask2 k) y a b (fun _ x => y.by' (fun g => g.rcp x) fun _ => plain 0)
def execVrcpExt (k : BitVec 3) (y : LaneT) (a b : BitVec 5) (s : State) := s.valu1 12 k y a b (fun _ x => y.by' (fun g => g.rcp x) fun _ => plain 0)
def execVrsqrt (k : BitVec 2) (y : LaneT) (a b : BitVec 5) (s : State) := s.valu1 4 (mask2 k) y a b (fun _ x => y.by' (fun g => g.rsqrt x) fun _ => plain 0)
def execVrsqrtExt (k : BitVec 3) (y : LaneT) (a b : BitVec 5) (s : State) := s.valu1 12 k y a b (fun _ x => y.by' (fun g => g.rsqrt x) fun _ => plain 0)
def execVsqrt (k : BitVec 2) (y : LaneT) (a b : BitVec 5) (s : State) := s.valu1 4 (mask2 k) y a b (fun _ x => y.by' (fun g => g.sqrt .rne x) fun _ => plain 0)
def execVsqrtExt (k : BitVec 3) (y : LaneT) (a b : BitVec 5) (s : State) := s.valu1 12 k y a b (fun _ x => y.by' (fun g => g.sqrt .rne x) fun _ => plain 0)
def execVtanh (k : BitVec 2) (y : LaneT) (a b : BitVec 5) (s : State) := s.spec1 4 (mask2 k) y a b Fmt.tanh
def execVtanhExt (k : BitVec 3) (y : LaneT) (a b : BitVec 5) (s : State) := s.spec1 12 k y a b Fmt.tanh
def execVsigm (k : BitVec 2) (y : LaneT) (a b : BitVec 5) (s : State) := s.spec1 4 (mask2 k) y a b Fmt.sigm
def execVsigmExt (k : BitVec 3) (y : LaneT) (a b : BitVec 5) (s : State) := s.spec1 12 k y a b Fmt.sigm
/-- A quotient: IEEE 754 division or the signed quotient of R47. -/
def laneDiv (y : LaneT) (x z : Nat) : Nat × Flags :=
  y.by' (fun f => f.div .rne x z) fun w => let r := intDiv w true x z; (r.1, r.2.2)
def execVdiv (k : BitVec 2) (y : LaneT) (a b c : BitVec 5) (s : State) := s.valu 4 (mask2 k) y a b c (laneDiv y)
def execVdivExt (k : BitVec 3) (y : LaneT) (a b c : BitVec 5) (s : State) := s.valu 12 k y a b c (laneDiv y)

/-! Conversions (R145, R146). -/

/-- vcvt (R145). -/
def execVcvt (td ts : Type4) (part : BitVec 3) (r : Rnd) (k : BitVec 3) (a b : BitVec 5) (s : State) :=
  s.instr 12 [.v a, .v b, .m k] fun s =>
    let ns := 1024 / ts.bits
    let nd := 1024 / td.bits
    let n := min ns nd
    let so := if nd ≤ ns then part.toNat * nd else 0
    let dof := if nd ≤ ns then 0 else part.toNat * ns
    let src := (lanes ts.bits (s.vr b)).drop so
    let as := List.replicate dof 0 ++ src.take n ++ List.replicate (nd - dof - n) 0
    let f (x : Nat) : Nat × Flags := match ts.elem, td.elem with
      | some p, some q => convert p q r x
      | _, _ => (x, Flags.none)
    let m := mapLanes (fun i => s.act k i && decide (dof ≤ i) && decide (i < dof + n)) (fun _ _ x _ => f x) 0
      (lanes td.bits (s.vr a)) as as
    goes ((s.setV a (ofLanes td.bits m.1)).setFlags m.2)

/-- vpackgx (R146): two blocks into bytes `off` onwards. -/
def execVpackgx (g : GxT) (off : BitVec 7) (a b : BitVec 5) (s : State) :=
  s.instr 12 [.v a, .v b] fun s =>
    let xs := (lanes 32 (s.vr b)).map Fmt.f32.decode
    let p := gxEncode g.b (xs.take 16)
    let q := gxEncode g.b (xs.drop 16)
    let z := 8 * g.blockBytes
    let new := p.1.pack g.b + q.1.pack g.b * 2 ^ z
    let o := 8 * off.toNat
    let old := s.vr a
    goes ((s.setV a (old % 2 ^ o + new * 2 ^ o + old / 2 ^ (o + 2 * z) * 2 ^ (o + 2 * z))).setFp (p.2 ||| q.2))

/-- vunpackgx (R146). -/
def execVunpackgx (g : GxT) (off : BitVec 7) (k : BitVec 3) (a b : BitVec 5) (s : State) :=
  s.instr 12 [.v a, .v b, .m k] fun s =>
    let z := 8 * g.blockBytes
    let v := s.vr b / 2 ^ (8 * off.toNat)
    let xs := (Block.unpack g.b (v % 2 ^ z)).toF32 g.b ++ (Block.unpack g.b (v / 2 ^ z % 2 ^ z)).toF32 g.b
    goes (s.vwrite 32 k a xs xs fun _ _ x _ => (x, Flags.none))

/-! Mask operations (R150). -/

/-- A function of two masks. -/
def State.mask3 (s : State) (a b c : BitVec 3) (f : BitVec 128 → BitVec 128 → BitVec 128) : Host.Outcome State Fault Refusal :=
  s.instr 4 [.m a, .m b, .m c] fun s => goes (s.setM a (f (s.mr b) (s.mr c)))
def execMand (a b c : BitVec 3) (s : State) := s.mask3 a b c fun x y => x &&& y
def execMor (a b c : BitVec 3) (s : State) := s.mask3 a b c fun x y => x ||| y
def execMxor (a b c : BitVec 3) (s : State) := s.mask3 a b c fun x y => x ^^^ y
def execMandn (a b c : BitVec 3) (s : State) := s.mask3 a b c fun x y => x &&& ~~~y
def execMnot (a b : BitVec 3) (s : State) := s.instr 4 [.m a, .m b] fun s => goes (s.setM a (~~~(s.mr b)))

/-- Number of one bits of a mask, and the index of the lowest, 128 where there is none. -/
def maskCount (v : BitVec 128) : Nat := ((List.range 128).filter fun i => v.getLsbD i).length
def maskFirst (v : BitVec 128) : Nat := ((List.range 128).find? fun i => v.getLsbD i).getD 128
def execMpopc (a : BitVec 5) (b : BitVec 3) (s : State) :=
  s.instr 4 [.x a, .m b] fun s => goes (s.setX a (word (maskCount (s.mr b))))
def execMfirst (a : BitVec 5) (b : BitVec 3) (s : State) :=
  s.instr 4 [.x a, .m b] fun s => goes (s.setX a (word (maskFirst (s.mr b))))
def execMfromx (h : Bool) (a : BitVec 3) (b : BitVec 5) (s : State) :=
  s.instr 4 [.m a, .x b] fun s =>
    let m := s.mr a
    goes (s.setM a (if h then s.xr b ++ m.extractLsb' 0 64 else m.extractLsb' 64 64 ++ s.xr b))
def execMtox (h : Bool) (a : BitVec 5) (b : BitVec 3) (s : State) :=
  s.instr 4 [.x a, .m b] fun s => goes (s.setX a ((s.mr b).extractLsb' (if h then 64 else 0) 64))
def execMlanes (a : BitVec 3) (b : BitVec 5) (s : State) :=
  s.instr 4 [.m a, .x b] fun s => goes (s.setM a (BitVec.ofNat 128 (2 ^ min (s.xr b).toNat 128 - 1)))

end Machine
end Sys2Proof
end

