-- ==== Sys2Proof/Machine/Perm.lean ====
section
/-! DEFINITION. Permutes and scans (R147), vkeep2 (R148) and reductions (R149). -/

namespace Sys2Proof.Machine

/-- A permutation with two vector sources: `f` gives the new lanes from those of the sources (R147). -/
def State.perm2 (s : State) (len : Nat) (k : BitVec 3) (y : LaneT) (a b c : BitVec 5) (f : List Nat → List Nat → List Nat) :
    Host.Outcome State Fault Refusal :=
  s.instr len [.v a, .v b, .v c, .m k] fun s =>
    let r := f (lanes y.bits (s.vr b)) (lanes y.bits (s.vr c))
    goes (s.vwrite y.bits k a r r fun _ _ x _ => (x, Flags.none))
/-- The same with one vector source. -/
def State.perm1 (s : State) (len : Nat) (k : BitVec 3) (y : LaneT) (a b : BitVec 5) (f : List Nat → List Nat) :
    Host.Outcome State Fault Refusal :=
  s.instr len [.v a, .v b, .m k] fun s =>
    let r := f (lanes y.bits (s.vr b))
    goes (s.vwrite y.bits k a r r fun _ _ x _ => (x, Flags.none))

/-- Lane i takes lane V[C][i] mod L. -/
def permLanes (xs is : List Nat) : List Nat := is.map fun i => xs.getD (i % xs.length) 0
/-- Lanes of both sources in turn, from the low halves. -/
def zipLanes : List Nat → List Nat → List Nat
  | x :: xs, z :: zs => x :: z :: zipLanes xs zs
  | _, _ => []
/-- The lanes of even number. -/
def evens : List Nat → List Nat
  | x :: _ :: xs => x :: evens xs
  | xs => xs
def unzipLanes (xs : List Nat) : List Nat := evens xs ++ evens xs.tail

def execVperm (k : BitVec 2) (y : LaneT) (a b c : BitVec 5) (s : State) := s.perm2 4 (mask2 k) y a b c permLanes
def execVpermExt (k : BitVec 3) (y : LaneT) (a b c : BitVec 5) (s : State) := s.perm2 12 k y a b c permLanes
def execVzip (k : BitVec 2) (y : LaneT) (a b c : BitVec 5) (s : State) :=
  s.perm2 4 (mask2 k) y a b c fun xs zs => (zipLanes xs zs).take xs.length
def execVzipExt (k : BitVec 3) (y : LaneT) (a b c : BitVec 5) (s : State) :=
  s.perm2 12 k y a b c fun xs zs => (zipLanes xs zs).take xs.length
def execVunzip (k : BitVec 2) (y : LaneT) (a b : BitVec 5) (s : State) := s.perm1 4 (mask2 k) y a b unzipLanes
def execVunzipExt (k : BitVec 3) (y : LaneT) (a b : BitVec 5) (s : State) := s.perm1 12 k y a b unzipLanes
def execVrev (k : BitVec 2) (y : LaneT) (a b : BitVec 5) (s : State) := s.perm1 4 (mask2 k) y a b List.reverse
def execVrevExt (k : BitVec 3) (y : LaneT) (a b : BitVec 5) (s : State) := s.perm1 12 k y a b List.reverse

/-- vslideup: lanes from X[C] on take the lane X[C] below; the lower lanes are kept. -/
def State.slideUp (s : State) (len : Nat) (k : BitVec 3) (y : LaneT) (a b c : BitVec 5) : Host.Outcome State Fault Refusal :=
  s.instr len [.v a, .v b, .x c, .m k] fun s =>
    let n := (s.xr c).toNat
    let xs := lanes y.bits (s.vr b)
    let r := List.replicate (min n xs.length) 0 ++ xs
    goes (s.vwrite y.bits k a r r fun i old x _ => (if n ≤ i then x else old, Flags.none))
/-- vslidedn: lane i takes lane i + X[C], or 0. -/
def State.slideDn (s : State) (len : Nat) (k : BitVec 3) (y : LaneT) (a b c : BitVec 5) : Host.Outcome State Fault Refusal :=
  s.instr len [.v a, .v b, .x c, .m k] fun s =>
    let xs := lanes y.bits (s.vr b)
    let r := xs.drop (min (s.xr c).toNat xs.length) ++ List.replicate xs.length 0
    goes (s.vwrite y.bits k a r r fun _ _ x _ => (x, Flags.none))
def execVslideup (k : BitVec 2) (y : LaneT) (a b c : BitVec 5) (s : State) := s.slideUp 4 (mask2 k) y a b c
def execVslideupExt (k : BitVec 3) (y : LaneT) (a b c : BitVec 5) (s : State) := s.slideUp 12 k y a b c
def execVslidedn (k : BitVec 2) (y : LaneT) (a b c : BitVec 5) (s : State) := s.slideDn 4 (mask2 k) y a b c
def execVslidednExt (k : BitVec 3) (y : LaneT) (a b c : BitVec 5) (s : State) := s.slideDn 12 k y a b c

/-- vbcast: every lane takes the low bits of X[B]. -/
def State.bcast (s : State) (len : Nat) (k : BitVec 3) (y : LaneT) (a b : BitVec 5) : Host.Outcome State Fault Refusal :=
  s.instr len [.v a, .x b, .m k] fun s =>
    let r := List.replicate (1024 / y.bits) ((s.xr b).toNat % 2 ^ y.bits)
    goes (s.vwrite y.bits k a r r fun _ _ x _ => (x, Flags.none))
def execVbcast (k : BitVec 2) (y : LaneT) (a b : BitVec 5) (s : State) := s.bcast 4 (mask2 k) y a b
def execVbcastExt (k : BitVec 3) (y : LaneT) (a b : BitVec 5) (s : State) := s.bcast 12 k y a b

/-- vext: lane X[C] mod L into X[A], sign-extended for I types. -/
def State.vextAt (s : State) (len : Nat) (y : LaneT) (a b c : BitVec 5) : Host.Outcome State Fault Refusal :=
  s.instr len [.x a, .v b, .x c] fun s =>
    let i := (s.xr c).toNat % (1024 / y.bits)
    let v := s.vr b / 2 ^ (y.bits * i) % 2 ^ y.bits
    goes (s.setX a (if y.isI then BitVec.ofInt 64 (sgn y.bits v) else word v))
def execVext (y : LaneT) (a b c : BitVec 5) (s : State) := s.vextAt 4 y a b c
def execVextExt (y : LaneT) (a b c : BitVec 5) (s : State) := s.vextAt 12 y a b c

/-- vins: lane X[C] mod L takes the low bits of X[B]. -/
def State.vinsAt (s : State) (len : Nat) (k : BitVec 3) (y : LaneT) (a b c : BitVec 5) : Host.Outcome State Fault Refusal :=
  s.instr len [.v a, .x b, .x c, .m k] fun s =>
    let j := (s.xr c).toNat % (1024 / y.bits)
    let xs := lanes y.bits (s.vr a)
    let v := (s.xr b).toNat % 2 ^ y.bits
    goes (s.vwrite y.bits k a xs xs fun i old _ _ => (if i = j then v else old, Flags.none))
def execVins (k : BitVec 2) (y : LaneT) (a b c : BitVec 5) (s : State) := s.vinsAt 4 (mask2 k) y a b c
def execVinsExt (k : BitVec 3) (y : LaneT) (a b c : BitVec 5) (s : State) := s.vinsAt 12 k y a b c

/-! Reductions (R62). -/

/-- What a reduction combines with: addition in a mode, the larger, the smaller. -/
inductive RedOp where
  | add (r : Rnd)
  | max
  | min
deriving DecidableEq, Repr

/-- An element type as a reduction takes it. -/
def LaneT.elemT (y : LaneT) : ElemT := match y.fmt with
  | some f => .flt f
  | none => .int y.bits true

/-- One combination, with its flags (R62). -/
def RedOp.ap (o : RedOp) (t : ElemT) (x z : Nat) : Nat × FFlags :=
  match o, t with
  | .add r, .flt f => f.add r x z
  | .add _, .int w _ => ((x + z) % 2 ^ w, 0)
  | .max, .flt f => f.minmax true x z
  | .min, .flt f => f.minmax false x z
  | .max, .int w g => (if intVal w g x ≤ intVal w g z then z else x, 0)
  | .min, .int w g => (if intVal w g x ≤ intVal w g z then x else z, 0)

/-- The identity of an operation (R62). -/
def RedOp.ident (o : RedOp) (t : ElemT) : Nat :=
  match o, t with
  | .add _, .flt f => f.sign true
  | .add _, .int _ _ => 0
  | .max, .flt f => f.sign true + f.inf
  | .min, .flt f => f.inf
  | .max, .int w g => wrap w (intMin w g)
  | .min, .int w g => wrap w (intMax w g)

/-- One level of the tree: adjacent values combined. -/
def treeLevel (f : Nat → Nat → Nat × FFlags) : List Nat → List Nat × FFlags
  | x :: z :: xs =>
    let r := f x z
    let rest := treeLevel f xs
    (r.1 :: rest.1, r.2 ||| rest.2)
  | xs => (xs, 0)
/-- The tree of R62 of at most `n` levels. -/
def tree (f : Nat → Nat → Nat × FFlags) : Nat → List Nat → Nat × FFlags
  | 0, xs => (xs.headD 0, 0)
  | n + 1, xs =>
    let l := treeLevel f xs
    let r := tree f n l.1
    (r.1, l.2 ||| r.2)

/-- The lanes with the identity in those that do not take part. -/
def withIdent (act : Nat → Bool) (e : Nat) : Nat → List Nat → List Nat
  | _, [] => []
  | i, x :: xs => (if act i then x else e) :: withIdent act e (i + 1) xs

/-- vred (R149): the result in lane 0 of V[A], always; the other lanes are kept. -/
def State.vredAt (s : State) (len : Nat) (k : BitVec 3) (y : LaneT) (o : RedOp) (a b : BitVec 5) :
    Host.Outcome State Fault Refusal :=
  s.instr len [.v a, .v b, .m k] fun s =>
    let t := LaneT.elemT y
    let r := tree (o.ap t) 7 (withIdent (s.act k) (o.ident t) 0 (lanes y.bits (s.vr b)))
    let old := s.vr a
    goes ((s.setV a (r.1 % 2 ^ y.bits + old / 2 ^ y.bits * 2 ^ y.bits)).setFp r.2)
def execVredAdd (k : BitVec 2) (y : LaneT) (a b : BitVec 5) (s : State) := s.vredAt 4 (mask2 k) y (.add .rne) a b
def execVredAddExt (k : BitVec 3) (y : LaneT) (r : Rnd) (a b : BitVec 5) (s : State) := s.vredAt 12 k y (.add r) a b
def execVredMax (k : BitVec 2) (y : LaneT) (a b : BitVec 5) (s : State) := s.vredAt 4 (mask2 k) y .max a b
def execVredMaxExt (k : BitVec 3) (y : LaneT) (a b : BitVec 5) (s : State) := s.vredAt 12 k y .max a b
def execVredMin (k : BitVec 2) (y : LaneT) (a b : BitVec 5) (s : State) := s.vredAt 4 (mask2 k) y .min a b
def execVredMinExt (k : BitVec 3) (y : LaneT) (a b : BitVec 5) (s : State) := s.vredAt 12 k y .min a b

/-! Scans (R147). -/

/-- The running values from a value on, with their flags. -/
def scanFrom (f : Nat → Nat → Nat × FFlags) : Nat → List Nat → List Nat × FFlags
  | _, [] => ([], 0)
  | v, x :: xs =>
    let r := f v x
    let rest := scanFrom f r.1 xs
    (r.1 :: rest.1, r.2 ||| rest.2)

/-- The scan of some lanes: s(0) is lane 0 by the arithmetic path (R147). -/
def scanLanes (o : RedOp) (t : ElemT) : List Nat → List Nat × FFlags
  | [] => ([], 0)
  | x :: xs =>
    let v := match t with
      | .flt f => f.canon x
      | .int _ _ => (x, 0)
    let rest := scanFrom (o.ap t) v.1 xs
    (v.1 :: rest.1, v.2 ||| rest.2)

/-- vscan: lanes that do not take part contribute the identity and keep their value. -/
def State.vscanAt (s : State) (len : Nat) (k : BitVec 3) (y : LaneT) (o : RedOp) (a b : BitVec 5) :
    Host.Outcome State Fault Refusal :=
  s.instr len [.v a, .v b, .m k] fun s =>
    let t := LaneT.elemT y
    let r := scanLanes o t (withIdent (s.act k) (o.ident t) 0 (lanes y.bits (s.vr b)))
    goes ((s.vwrite y.bits k a r.1 r.1 fun _ _ x _ => (x, Flags.none)).setFp r.2)
def execVscanAdd (k : BitVec 2) (y : LaneT) (a b : BitVec 5) (s : State) := s.vscanAt 4 (mask2 k) y (.add .rne) a b
def execVscanAddExt (k : BitVec 3) (y : LaneT) (r : Rnd) (a b : BitVec 5) (s : State) := s.vscanAt 12 k y (.add r) a b
def execVscanMax (k : BitVec 2) (y : LaneT) (a b : BitVec 5) (s : State) := s.vscanAt 4 (mask2 k) y .max a b
def execVscanMaxExt (k : BitVec 3) (y : LaneT) (_ : Rnd) (a b : BitVec 5) (s : State) := s.vscanAt 12 k y .max a b

/-! vkeep2 (R148). -/

/-- The rank of a lane by magnitude. -/
def keepKey (y : LaneT) (x : Nat) : Nat :=
  match y.fmt with
  | some f => min (x % f.sign true) (f.inf + 1)
  | none => (sgn y.bits x).natAbs
/-- The place of the largest key, the lowest of equals. -/
def topAt : List Nat → Nat
  | [] => 0
  | [_] => 0
  | x :: xs => let j := topAt xs
    if xs.getD j 0 ≤ x then 0 else j + 1
/-- The two places kept of a group, in ascending order. -/
def keepTwo (keys : List Nat) : Nat × Nat :=
  let p := topAt keys
  let q := topAt ((keys.map (· + 1)).set p 0)
  if p < q then (p, q) else (q, p)
/-- The kept lanes and the mask bits of the groups of some lanes. -/
def keepLanes (y : LaneT) : List Nat → List Nat × Nat
  | x0 :: x1 :: x2 :: x3 :: xs =>
    let g := [x0, x1, x2, x3]
    let pq := keepTwo (g.map (keepKey y))
    let rest := keepLanes y xs
    (g.getD pq.1 0 :: g.getD pq.2 0 :: rest.1, pq.1 + 4 * pq.2 + 16 * rest.2)
  | _ => ([], 0)
def State.keep2 (s : State) (len : Nat) (y : LaneT) (a b : BitVec 5) (c : BitVec 3) : Host.Outcome State Fault Refusal :=
  s.instr len [.v a, .v b, .m c] fun s =>
    let r := keepLanes y (lanes y.bits (s.vr b))
    goes ((s.setV a (ofLanes y.bits r.1)).setM c (BitVec.ofNat 128 r.2))
def execVkeep2 (y : LaneT) (a b : BitVec 5) (c : BitVec 3) (s : State) := s.keep2 4 y a b c
def execVkeep2Ext (y : LaneT) (a b : BitVec 5) (c : BitVec 3) (s : State) := s.keep2 12 y a b c

end Sys2Proof.Machine
end

