-- ==== Sys2Proof/Machine/Records.lean ====
section
/-! DEFINITION. Shape records: their fields (R70, R71), their elements in order (R72) and the stages that check
them (R75 to R77). -/

namespace Sys2Proof.Machine

/-- A shape record (R70). `ty` is none for TYPE 14 and 15. -/
structure Rec where
  addr : Nat
  base : Nat
  ty : Option Type4
  planar : Bool
  ragged : Bool
  bcast : Bool
  /-- a reserved bit is set -/
  resv : Bool
  rank : Nat
  ext : List Nat
  stride : List Nat
  lentab : Nat
  cursor : Nat
  /-- the length table (R71) -/
  lens : List Nat
deriving DecidableEq, Repr

/-- The record at `addr` of these 32 bytes, with its length table. -/
def Rec.of (addr : Nat) (v : BitVec 256) (lens : List Nat) : Rec :=
  let f (off n : Nat) : Nat := v.toNat / 2 ^ (8 * off) % 2 ^ (8 * n)
  let b4 := f 4 1
  let b5 := f 5 1
  { addr := addr, base := f 0 4
    ty := if b4 % 16 = 14 then none else Type4.ofCode (BitVec.ofNat 4 b4)
    planar := b4 / 16 % 2 == 1, ragged := b5 / 8 % 2 == 1, bcast := b5 / 16 % 2 == 1
    resv := b4 / 32 != 0 || b5 / 32 != 0 || f 6 2 != 0 || f 28 4 != 0
    rank := b5 % 8, ext := (List.range 4).map fun i => f (8 + 2 * i) 2
    stride := (List.range 3).map fun i => f (16 + 2 * i) 2, lentab := f 22 2, cursor := f 24 4, lens := lens }

/-- Element size in bytes, the block size for GX (R70). -/
def typeSize (t : Type4) : Nat := match t.gx with
  | some g => g.blockBytes
  | none => t.bits / 8
def Rec.t (r : Rec) : Type4 := r.ty.getD .b1
def Rec.z (r : Rec) : Nat := typeSize r.t
def Rec.gx (r : Rec) : Bool := r.t.gx.isSome
/-- Extents and strides; those of dimensions RANK and above count as 1 and 0 (R70). -/
def Rec.e (r : Rec) (d : Nat) : Nat := if d < r.rank then r.ext.getD d 0 else 1
def Rec.st (r : Rec) (d : Nat) : Nat := if d < r.rank then r.stride.getD (d - 1) 0 else 0
/-- The dimension-0 extent for index i1 (R71). -/
def Rec.len (r : Rec) (i1 : Nat) : Nat := if r.ragged then r.lens.getD i1 0 else r.e 0

/-- Elements of one (i2, i3), and of the record (R72). -/
def Rec.slab (r : Rec) : Nat := if r.ragged then r.lens.sum else r.e 0 * r.e 1
def Rec.count (r : Rec) : Nat := r.slab * r.e 2 * r.e 3
/-- Source rows (R153). -/
def Rec.rows (r : Rec) : Nat := r.e 1 * r.e 2 * r.e 3

/-- The place of an offset among runs of the given lengths: the run and the offset in it. -/
def locate : List Nat → Nat → Nat → Nat × Nat
  | [], i, p => (i, p)
  | n :: ns, i, p => if p < n then (i, p) else locate ns (i + 1) (p - n)

/-- Coordinates of the element of linear progress index `p` (R72). -/
def Rec.coord (r : Rec) (p : Nat) : Nat × Nat × Nat × Nat :=
  let q := p / r.slab
  let o := p % r.slab
  let m := if r.ragged then locate r.lens 0 o else (o / r.e 0, o % r.e 0)
  (m.2, m.1, q % r.e 2, q / r.e 2)

/-- Address of an element, or of the block that holds it (R70). -/
def Rec.at' (r : Rec) (i : Nat × Nat × Nat × Nat) : Nat :=
  r.base + (if r.gx then i.1 / 16 else i.1) * r.z + i.2.1 * r.st 1 + i.2.2.1 * r.st 2 + i.2.2.2 * r.st 3
/-- Bytes of a run of `n` elements of dimension 0. -/
def Rec.runBytes (r : Rec) (n : Nat) : Nat := if r.gx then (n + 15) / 16 * r.z else n * r.z
/-- Coordinates of source row `k` in the order of R72. -/
def Rec.rowAt (r : Rec) (k : Nat) : Nat × Nat × Nat := (k % r.e 1, k / r.e 1 % r.e 2, k / (r.e 1 * r.e 2))

/-- The lowest of `n` bytes from `a` that is not in a legal row, with its fault (R66, R75): of a row of a segment or of a ROWS
entry, the cause that an access to it has (R235, R346). DEDUCED, log 106. -/
def State.lowBad (s : State) (k : Nat) (acc : Acc) (a n : Nat) : Option (BitVec 8 × Nat) :=
  if n = 0 then none
  else (rowsOf a n).findSome? fun r =>
    if 2048 ≤ r then some (Cause.NULL_WINDOW, max a (128 * r))
    else (s.rowCheck k acc r).map fun c => (c, max a (128 * r))

abbrev RecErr := BitVec 8 × Word
/-- A fault with the address of a byte, and one with the address of the record and a detail (R77). -/
def byteErr (e : BitVec 8 × Nat) : RecErr := (e.1, word e.2)
def recErr (cause : BitVec 8) (r : Rec) (detail : Nat) : RecErr := (cause, word (r.addr * 2 ^ 32 + detail))

/-- Stage 1 on a record address. DEDUCED, log 45. -/
def State.stage1 (s : State) (k : Nat) (acc : Acc) (a : Nat) : Option RecErr :=
  if a % 32 ≠ 0 then some (Cause.MISALIGNED, word a)
  else (s.lowBad k acc a 32).map byteErr
/-- Stages 2 and 3; `ok` says which types are accepted. -/
def Rec.stage2 (r : Rec) (planarOk : Bool) (ok : Type4 → Bool) : Option RecErr :=
  if r.resv || r.ty.isNone || (r.planar && !planarOk) || !ok r.t then some (recErr Cause.RESERVED_FIELD r 0) else none
def Rec.stage3 (r : Rec) : Option RecErr :=
  if r.rank = 0 || decide (4 < r.rank) || (r.ragged && r.rank == 1) then some (recErr Cause.SHAPE_RANK r 0) else none
/-- Place and bytes of the length table; no bytes where there is none. -/
def Rec.tab (r : Rec) : Nat × Nat := (128 * r.lentab, if r.ragged then 2 * r.ext.getD 1 0 else 0)
/-- Stage 4. -/
def Rec.longRow (r : Rec) : Option Nat :=
  if r.ragged then (List.range r.lens.length).find? fun i => decide (r.ext.getD 0 0 < r.lens.getD i 0) else none
def State.stage4 (s : State) (k : Nat) (r : Rec) : Option RecErr :=
  match s.lowBad k .read r.tab.1 r.tab.2 with
  | some e => some (byteErr e)
  | none => r.longRow.map fun i => recErr Cause.SHAPE_RAGGED_LEN r i
/-- Stage 6. -/
def Rec.stage6 (r : Rec) : Option RecErr :=
  let off (d : Nat) : Bool := decide (1 < r.e d) && r.st d % r.z != 0
  if r.base % r.z != 0 || off 1 || off 2 || off 3 ||
      (r.gx && (r.ext.getD 0 0 % 16 != 0 || (r.ragged && r.lens.any fun n => n % 16 != 0)))
  then some (recErr Cause.SHAPE_MISALIGN r 0) else none
/-- The lower of two failing bytes. -/
def lower (a b : Option (BitVec 8 × Nat)) : Option (BitVec 8 × Nat) :=
  match a, b with
  | some x, some y => if y.2 < x.2 then some y else some x
  | some x, none => some x
  | none, y => y
/-- Stage 7: the lowest failing byte of the elements. -/
def State.stage7 (s : State) (k : Nat) (acc : Acc) (r : Rec) : Option RecErr :=
  ((List.range r.rows).foldl (fun m i =>
    let c := r.rowAt i
    lower m (s.lowBad k acc (r.at' (0, c)) (r.runBytes (r.len c.1)))) none).map byteErr
/-- span(d) of R75. -/
def Rec.span (r : Rec) : Nat → Nat
  | 0 => r.runBytes (r.ext.getD 0 0)
  | d + 1 => r.st (d + 1) * (r.e (d + 1) - 1) + r.span d
/-- Stage 8. -/
def Rec.stage8 (r : Rec) : Option RecErr :=
  ([1, 2, 3].find? fun d => decide (d < r.rank) && decide (1 < r.e d) && decide (r.st d < r.span (d - 1))).map fun d =>
    recErr Cause.SHAPE_STRIDE_WRITE r d
/-- Stage 9 on the destination and on a source; `types` where the types must be equal, `red` for a reduction
(R151, R153). A mismatch between two records is told of the source's, also where R153 speaks of the destination's count, and
BCAST in the source of a reduction, which pairs by row, is only held against RAGGED, and a BCAST source is held against EXT[0]
of a RAGGED destination: DEDUCED, log 97. -/
def Rec.stage9dst (d : Rec) : Option RecErr := if d.bcast then some (recErr Cause.SHAPE_MISMATCH d 0) else none
def Rec.stage9src (d r : Rec) (types red : Bool) : Option RecErr :=
  let bad := (r.bcast && r.ragged) || (types && r.ty != d.ty) ||
    (if red then d.count != r.rows
     else if r.bcast then (List.range 4).any fun i => r.e i != 1 && r.e i != d.e i
     else r.count != d.count)
  if bad then some (recErr Cause.SHAPE_MISMATCH r 0) else none

end Sys2Proof.Machine
end

