-- ==== Sys2Proof/Machine/Shape.lean ====
section
/-! DEFINITION. Shape-form instructions (R72 to R74, R151 to R154). A context that is between two steps of one
keeps its progress in `Ctx.shape`. -/

namespace Sys2Proof.Machine

/-- An operand: its number (R154), the address of its record, and whether it is the destination. -/
abbrev Opnd := Nat × Nat × Bool

/-- Everything that a step of the instruction waits for: reads or writes of `n` bytes from `a`. -/
def State.poolReady (s : State) : List (Bool × Nat × Nat) → Run State
  | [] => .ok s
  | (wr, a, n) :: t => do
    let s ← if n = 0 then .ok s else s.accReady (!wr) wr (.pool a) (word a) n
    s.poolReady t
/-- Bytes of the scratchpad that the instruction reads, one list for each range. -/
def State.poolReads (s : State) : List (Nat × Nat) → Run (List (List Byte) × State)
  | [] => .ok ([], s)
  | (a, n) :: t => do
    let (bs, s) ← if n = 0 then .ok ([], s) else s.ctxRead (.pool a) (word a) n
    let (rest, s) ← s.poolReads t
    .ok (bs :: rest, s)

/-- Entries of a length table of these bytes. -/
def entries16 : List Byte → List Nat
  | x :: y :: bs => (x.toNat + 256 * y.toNat) :: entries16 bs
  | _ => []

/-- What the stages of R75 find: the first failure and its operand, a record without elements, or the records as
read. -/
inductive Checked where
  | bad (j : Nat) (e : RecErr)
  | empty
  | good (recs : List (Nat × BitVec 256 × List Nat))
deriving DecidableEq, Repr

/-- The records of a run. -/
def recsOf (rs : List (Nat × BitVec 256 × List Nat)) : List Rec := rs.map fun r => Rec.of r.1 r.2.1 r.2.2

/-- The first failure of a stage, in operand order. -/
def firstBad {α : Type} (xs : List (Nat × α)) (f : α → Option RecErr) : Option (Nat × RecErr) :=
  xs.findSome? fun x => (f x.2).map fun e => (x.1, e)

/-- The kind of access that an operand's rows must allow. -/
def opAcc (written : Bool) : Acc := if written then .write else .read

/-- Stages 6 to 9 of R75 on the records, the destination first. -/
def State.lateStages (s : State) (js : List (Nat × Rec)) (ws : List Bool) (types red : Bool) : Option (Nat × RecErr) :=
  match firstBad js Rec.stage6 with
  | some e => some e
  | none => match firstBad (js.zipIdx.map fun p => (p.1.1, p.1.2, p.2)) fun p =>
      s.stage7 s.cur (opAcc (ws.getD p.2 false)) p.1 with
    | some e => some e
    | none => match js with
      | [] => none
      | (j, d) :: rest => match d.stage8 with
        | some e => some (j, e)
        | none => match d.stage9dst with
          | some e => some (j, e)
          | none => firstBad rest fun r => d.stage9src r types red

/-- Stage 1 on the operands of an instruction. The destination's record must be writable, since its CURSOR is
written. -/
def State.opStage1 (s : State) (ops : List Opnd) : Option (Nat × RecErr) :=
  firstBad (ops.map fun o => (o.1, o.2)) fun o => s.stage1 s.cur (opAcc o.2) o.1
/-- Stages 2 and 3 on the records as read. -/
def stages23 (js : List (Nat × Rec)) (ok : Type4 → Bool) : Option (Nat × RecErr) :=
  match firstBad js fun r => r.stage2 false ok with
  | some e => some e
  | none => firstBad js Rec.stage3
/-- The length table of a record, as far as its bytes may be read. -/
def State.tabOf (s : State) (r : Rec) : Nat × Nat :=
  if (s.lowBad s.cur .read r.tab.1 r.tab.2).isSome then (r.tab.1, 0) else r.tab
/-- Stages 4 to 9 on the records and their length tables. -/
def State.stages49 (s : State) (ops : List Opnd) (raw : List (Nat × BitVec 256 × List Nat)) (types red : Bool) : Checked :=
  let rs := recsOf raw
  let js := (ops.map Prod.fst).zip rs
  match firstBad js (s.stage4 s.cur) with
  | some e => .bad e.1 e.2
  | none =>
    if rs.any fun r => r.count == 0 then .empty
    else match s.lateStages js (ops.map fun o => o.2.2) types red with
      | some e => .bad e.1 e.2
      | none => .good raw

/-- The stages of R75 for an instruction of the executing context. -/
def State.validate (s : State) (ops : List Opnd) (ok : Type4 → Bool) (types red : Bool) : Run (Checked × State) :=
  match s.opStage1 ops with
  | some e => .ok (.bad e.1 e.2, s)
  | none => do
    let s ← s.poolReady (ops.map fun o => (false, o.2.1, 32))
    let (bs, s) ← s.poolReads (ops.map fun o => (o.2.1, 32))
    let raw := (ops.zip bs).map fun p => (p.1.2.1, BitVec.ofNat 256 (leVal p.2), ([] : List Nat))
    match stages23 ((ops.map Prod.fst).zip (recsOf raw)) ok with
    | some e => .ok (.bad e.1 e.2, s)
    | none => do
      let tabs := (recsOf raw).map s.tabOf
      let s ← s.poolReady (tabs.map fun t => (false, t.1, t.2))
      let (ts, s) ← s.poolReads tabs
      .ok (s.stages49 ops ((raw.zip ts).map fun p => (p.1.1, p.1.2.1, entries16 p.2)) types red, s)

/-! Steps (R72, R152, R153). -/

/-- CURSOR of the record at `addr` written by the context (R74). DEDUCED, log 56. -/
def State.setCursor (s : State) (addr v : Nat) : Run State :=
  s.ctxWrite (.pool (addr + 24)) (word (addr + 24)) ((leOf 4 v).map some)

/-- CURSOR written where a core is stopped, or an instruction traps, between two steps (R74); the run is given
up. A shp.check writes none. -/
def State.parkShape (s : State) (k j : Nat) : State :=
  let x := (s.coreAt k).ctxAt j
  match x.shape with
  | none => s
  | some r =>
    let s := s.updCoreAt k fun c => c.setCtx j { x with shape := none }
    if r.check then s
    else match r.recs with
    | [] => s
    | d :: _ => (s.updCoreAt k fun c => c.setBytes (d.1 + 24) (leOf 4 r.cur)).dirtySegs k (d.1 + 24) 4

/-- What one step does: the ranges it reads and writes, the destination elements it completes, and its effect. -/
structure ShStep where
  accs : List (Bool × Nat × Nat)
  n : Nat
  act : State → Run State

/-- One step of a run, and the end of the instruction after the last. -/
def State.shapeGo (s : State) (run : ShapeRun) (st : ShStep) (began : Bool) : Run Done :=
  match recsOf run.recs with
  | [] => goes s
  | d :: _ =>
    let last := decide (d.count ≤ run.cur + st.n)
    let r : Run State := do
      let s ← s.poolReady (st.accs ++ if last then [(true, d.addr + 24, 4)] else [])
      let s ← st.act s
      if last then s.setCursor d.addr 0 else .ok s
    match r with
    | .error (.trap c t) => if began then .ok (.trapHere (s.parkShape s.cur s.ctx) c t) else fault c t
    | .error e => .error e
    | .ok s =>
      if last then goes (s.updMe fun x => { x with shape := none })
      else .error (.wait (s.updMe fun x => { x with shape := some { run with cur := run.cur + st.n } }) .none)

/-- A shape-form instruction: it begins with every stage of R75, or goes on with its next step (R74). -/
def State.shapeForm (s : State) (us : List Use) (ops : State → List Opnd) (ok : Type4 → Bool) (types red : Bool)
    (step : State → ShapeRun → ShStep) : Host.Outcome State Fault Refusal :=
  s.instr 12 us fun s =>
    match s.me.shape with
    | some run => s.shapeGo run (step s run) true
    | none => do
      let (c, s) ← s.validate (ops s) ok types red
      match c with
      | .bad _ e => fault e.1 e.2
      | .empty => match ops s with
        | [] => goes s
        | o :: _ => do
          let s ← s.poolReady [(true, o.2.1 + 24, 4)]
          andGoes (s.setCursor o.2.1 0)
      | .good raw => match recsOf raw with
        | [] => goes s
        | d :: _ =>
          if d.count ≤ d.cursor then do
            let s ← s.poolReady [(true, d.addr + 24, 4)]
            andGoes (s.setCursor d.addr 0)
          else
            let run : ShapeRun := ⟨false, raw, if d.gx then d.cursor / 16 * 16 else d.cursor⟩
            s.shapeGo run (step s run) false

/-! Elements. -/

/-- Functions that pair elements (R151). -/
inductive ShOp where
  | add | sub | mul | fma | min | max | cvt | copy | exp2 | bcast
deriving DecidableEq, Repr

/-- The type that a source element has once read: GX decodes to f32 (R56). -/
def readType (t : Type4) : Type4 := if t.gx.isSome then .f32 else t

/-- One destination element from elements a and c and its old value d (R151). -/
def ShOp.ap (o : ShOp) (md : Rnd) (src dst : Type4) (n a c d : Nat) : Nat × Flags :=
  let fl (p : Nat × FFlags) : Nat × Flags := (p.1, ⟨p.2, 0⟩)
  match o, dst.elem with
  | .copy, _ => (a, Flags.none)
  | .bcast, _ => (a % 2 ^ dst.bits, Flags.none)
  | .cvt, some q => match src.elem with
    | some p => convert p q md a
    | none => (a, Flags.none)
  | .exp2, some (.flt f) => fl (f.exp2 n a)
  | .add, some (.flt f) => fl (f.add md a c)
  | .sub, some (.flt f) => fl (f.sub md a c)
  | .mul, some (.flt f) => fl (f.mul md a c)
  | .fma, some (.flt f) => fl (f.fma md a c d false false)
  | .min, some (.flt f) => fl (f.minmax false a c)
  | .max, some (.flt f) => fl (f.minmax true a c)
  | .add, some (.int w _) => ((a + c) % 2 ^ w, Flags.none)
  | .sub, some (.int w _) => ((a + 2 ^ w - c) % 2 ^ w, Flags.none)
  | .mul, some (.int w _) => (a * c % 2 ^ w, Flags.none)
  | .fma, some (.int w _) => ((a * c + d) % 2 ^ w, Flags.none)
  | .min, some (.int w g) => (if intVal w g a ≤ intVal w g c then a else c, Flags.none)
  | .max, some (.int w g) => (if intVal w g a ≤ intVal w g c then c else a, Flags.none)
  | _, _ => (a, Flags.none)

/-- Coordinates in a source of the element that pairs with destination element `p` at `i` (R73). -/
def Rec.pair (r : Rec) (p : Nat) (i : Nat × Nat × Nat × Nat) : Nat × Nat × Nat × Nat :=
  if r.bcast then
    let at1 (d v : Nat) : Nat := if r.e d = 1 then 0 else v
    (at1 0 i.1, at1 1 i.2.1, at1 2 i.2.2.1, at1 3 i.2.2.2)
  else r.coord p

/-- An element as read from the bytes of its element or block. -/
def Rec.elem (r : Rec) (i0 v : Nat) : Nat :=
  match r.t.gx with
  | some g => ((Block.unpack g.b v).toF32 g.b).getD (i0 % 16) 0
  | none => v

/-- The destination elements of a step from coordinates `i` on (R72, R152). -/
def Rec.stepLen (d : Rec) (i : Nat × Nat × Nat × Nat) : Nat :=
  let room := 128 - d.at' i % 128
  let left := d.len i.2.1 - i.1
  if d.gx then 16 * min (left / 16) ((room + d.z - 1) / d.z) else min left (room / d.z)

/-- Lists of `n` in turn. -/
def groups {α : Type} (n : Nat) : Nat → List α → List (List α)
  | 0, _ => []
  | k + 1, xs => xs.take n :: groups n k (xs.drop n)

/-- The bytes of the destination of a step, and their flags: GX blocks are encoded from the exact values of their
16 elements, or copied (R57, R152). -/
def ShOp.out (o : ShOp) (md : Rnd) (src : Type4) (d : Rec) (n : Nat) (raw as cs ds : List Nat) : List Byte × Flags :=
  match d.t.gx with
  | some g =>
    let k := as.length / 16
    if o = .copy then (((groups 16 k raw).flatMap fun q => leOf g.blockBytes (q.headD 0)), Flags.none)
    else
      let bs := (groups 16 k as).map fun q => gxEncode g.b (q.map fun a => match (readType src).elem with
        | some t => t.val a
        | none => .fin false 0 0)
      (bs.flatMap fun b => leOf g.blockBytes (b.1.pack g.b), ⟨bs.foldl (fun f b => f ||| b.2) 0, 0⟩)
  | none =>
    let rs := (List.range as.length).map fun i =>
      o.ap md (readType src) d.t (n + i) (as.getD i 0) (cs.getD i 0) (ds.getD i 0)
    (rs.flatMap fun r => leOf d.z r.1, rs.foldl (fun f r => f.or r.2) Flags.none)

/-- The elements, or the blocks, of `z` bytes of a step's destination run written in turn, each as one step of the memory
order (R72). -/
def State.elemWrites (s : State) (z : Nat) : Nat → Nat → List Byte → Run State
  | 0, _, _ => .ok s
  | k + 1, a, bs => do
    let s ← s.ctxWrite (.pool a) (word a) ((bs.take z).map some)
    s.elemWrites z k (a + z) (bs.drop z)
/-- A step's destination run written: its rows take one write-buffer entry each (R68). -/
def State.runWrite (s : State) (z a : Nat) (bs : List Byte) : Run State := do
  let t ← s.elemWrites z (bs.length / z) a bs
  .ok (t.rowEntries s.core.wbuf (rowsOf a bs.length))

/-- One step of an elementwise function (R152); `x` is the value of sbcast. -/
def ShOp.step (o : ShOp) (md : Rnd) (x : Nat) (_ : State) (run : ShapeRun) : ShStep :=
  match recsOf run.recs with
  | [] => ⟨[], 0, .ok⟩
  | d :: srcs =>
    let i := d.coord run.cur
    let n := d.stepLen i
    let a0 := d.at' i
    let bytes := d.runBytes n
    let place (r : Rec) (q : Nat) : Nat × Nat × Nat × Nat := r.pair (run.cur + q) (i.1 + q, i.2)
    let rds := srcs.flatMap fun r => (List.range n).map fun q => (r.at' (place r q), r.z)
    let dst := (List.range (bytes / d.z)).map fun q => (a0 + q * d.z, d.z)
    { accs := (rds ++ if o = .fma then dst else []).map (fun p => (false, p.1, p.2)) ++ dst.map fun p => (true, p.1, p.2)
      n := n
      act := fun s => do
        let (bs, s) ← s.poolReads rds
        let vs := bs.map leVal
        let (old, s) ← if o = .fma then s.poolReads dst else .ok ([], s)
        let elems (r : Rec) (vs : List Nat) : List Nat := (List.range n).map fun q => r.elem (place r q).1 (vs.getD q 0)
        let as := match srcs with
          | r :: _ => elems r vs
          | [] => List.replicate n x
        let cs := match srcs with
          | _ :: r :: _ => elems r (vs.drop n)
          | _ => []
        let src := match srcs with
          | r :: _ => r.t
          | [] => d.t
        let out := o.out md src d s.n vs as cs (old.map leVal)
        let s := ({ s with n := s.n + 128 }).setFlags out.2
        s.runWrite d.z a0 out.1 }

/-- Levels of the tree over positions 0 to 2^⌈log2 n⌉ − 1 (R153). -/
def treeDepth (n : Nat) : Nat := if n ≤ 1 then 0 else Nat.log2 (n - 1) + 1

/-- One step of srsum or srmax: one destination element from one source row (R153). -/
def RedOp.step (o : RedOp) (_ : State) (run : ShapeRun) : ShStep :=
  match recsOf run.recs with
  | d :: r :: _ =>
    let a := d.at' (d.coord run.cur)
    let c := r.rowAt run.cur
    let len := Nat.min (r.len c.1) (r.e 0)
    let rds := (List.range len).map fun q => (r.at' (q, c), r.z)
    { accs := rds.map (fun p => (false, p.1, p.2)) ++ [(true, a, d.z)]
      n := 1
      act := fun s => do
        let (bs, s) ← s.poolReads rds
        let res : Nat × FFlags := match d.t.elem with
          | none => (0, 0)
          | some t =>
            let k := treeDepth (r.e 0)
            let xs := bs.map leVal ++ List.replicate (2 ^ k - len) (o.ident t)
            match k, t with
            | 0, .flt f => f.canon (xs.headD 0)
            | _, _ => tree (o.ap t) k xs
        (s.setFp res.2).ctxWrite (.pool a) (word a) ((leOf d.z res.1).map some) }
  | _ => ⟨[], 0, .ok⟩

/-! The instructions (R151). -/

def isF (t : Type4) : Bool := t = .f32 || t = .f16 || t = .bf16
def notB1 (t : Type4) : Bool := t != .b1
/-- Operands A, B and C, and A and B. -/
def ops3 (a b c : BitVec 5) (s : State) : List Opnd :=
  [(1, (s.xr a).toNat, true), (2, (s.xr b).toNat, false), (3, (s.xr c).toNat, false)]
def ops2 (a b : BitVec 5) (s : State) : List Opnd := [(1, (s.xr a).toNat, true), (2, (s.xr b).toNat, false)]

def State.shape3 (s : State) (o : ShOp) (r : Rnd) (a b c : BitVec 5) : Host.Outcome State Fault Refusal :=
  s.shapeForm [.x a, .x b, .x c] (ops3 a b c) Type4.lane true false (o.step r 0)
def execSadd (r : Rnd) (a b c : BitVec 5) (s : State) := s.shape3 .add r a b c
def execSsub (r : Rnd) (a b c : BitVec 5) (s : State) := s.shape3 .sub r a b c
def execSmul (r : Rnd) (a b c : BitVec 5) (s : State) := s.shape3 .mul r a b c
def execSfma (r : Rnd) (a b c : BitVec 5) (s : State) := s.shape3 .fma r a b c
def execSmin (a b c : BitVec 5) (s : State) := s.shape3 .min .rne a b c
def execSmax (a b c : BitVec 5) (s : State) := s.shape3 .max .rne a b c
def execScvt (r : Rnd) (a b : BitVec 5) (s : State) :=
  s.shapeForm [.x a, .x b] (ops2 a b) notB1 false false (ShOp.step .cvt r 0)
def execScopy (a b : BitVec 5) (s : State) := s.shapeForm [.x a, .x b] (ops2 a b) notB1 true false (ShOp.step .copy .rne 0)
def execSexp2 (a b : BitVec 5) (s : State) := s.shapeForm [.x a, .x b] (ops2 a b) isF true false (ShOp.step .exp2 .rne 0)
def execSrsum (r : Rnd) (a b : BitVec 5) (s : State) :=
  s.shapeForm [.x a, .x b] (ops2 a b) Type4.lane true true (RedOp.step (.add r))
def execSrmax (a b : BitVec 5) (s : State) :=
  s.shapeForm [.x a, .x b] (ops2 a b) Type4.lane true true (RedOp.step .max)
def execSbcast (a b : BitVec 5) (s : State) :=
  s.shapeForm [.x a, .x b] (fun s => [(1, (s.xr a).toNat, true)]) Type4.lane true false
    (fun s => ShOp.step .bcast .rne (s.xr b).toNat s)

/-- The word that shp.check writes for a failure of operand `j` (R154): the byte address for the three causes that give one,
else the record's address. -/
def checkWord (ops : List Opnd) (j : Nat) (e : RecErr) : Word :=
  let byte := e.1 == Cause.MISALIGNED || e.1 == Cause.ROW_UNDECLARED || e.1 == Cause.NULL_WINDOW
  let shape := e.1 == Cause.RESERVED_FIELD || (decide (0x10 ≤ e.1.toNat) && decide (e.1.toNat ≤ 0x14))
  let rec' := ((ops.find? fun o => o.1 == j).map fun o => o.2.1).getD 0
  let hi := if byte then e.2.toNat % 2 ^ 32 else rec' % 2 ^ 32
  let det := if shape then e.2.toNat % 2 ^ 16 else 0
  word (hi * 2 ^ 32 + det * 2 ^ 16 + j * 2 ^ 8 + e.1.toNat)

/-- A read of `n` bytes of the pool as one step of shp.check. -/
def State.checkRead (s : State) (a n : Nat) : Run (List Byte × State) := do
  let s ← s.poolReady [(false, a, n)]
  let (bs, s) ← s.poolReads [(a, n)]
  .ok (bs.headD [], s)

/-- One step of shp.check, which reads a record, or the length table of one (R154): the run, and the outcome where the
check ends. -/
def State.checkStep (s : State) (ops : List Opnd) (run : ShapeRun) : Run (Option Checked × ShapeRun × State) :=
  let next (run : ShapeRun) (s : State) : Option Checked × ShapeRun × State :=
    let js := (ops.map Prod.fst).zip (recsOf run.recs)
    let tabs := js.countP fun p => p.2.tab.2 != 0
    let bad := if run.cur = ops.length then stages23 js notB1 else none
    (match bad with
      | some e => some (.bad e.1 e.2)
      | none => if run.cur < ops.length + tabs then none else some (s.stages49 ops run.recs false false), run, s)
  match ops[run.cur]? with
  | some o => do
    let (bs, s) ← s.checkRead o.2.1 32
    .ok (next { run with recs := run.recs ++ [(o.2.1, BitVec.ofNat 256 (leVal bs), [])], cur := run.cur + 1 } s)
  | none =>
    let todo := (List.range run.recs.length).filter fun i => (recsOf run.recs)[i]?.any fun r => r.tab.2 != 0
    match todo[run.cur - ops.length]? with
    | none => .ok (next { run with cur := run.cur + 1 } s)
    | some i => do
      let t := ((recsOf run.recs)[i]?.map s.tabOf).getD (0, 0)
      let (bs, s) ← s.checkRead t.1 t.2
      let recs := run.recs.zipIdx.map fun p => if p.2 = i then (p.1.1, p.1.2.1, entries16 bs) else p.1
      .ok (next { run with recs := recs, cur := run.cur + 1 } s)

/-- shp.check (R154): a step for each record and each length table, between which other contexts issue (R72). -/
def execShpCheck (a b c e : BitVec 5) (s : State) :=
  s.instr 12 [.x a, .x b, .x c, .x e] fun s =>
    let src (j : Nat) (n : BitVec 5) : List Opnd := if n = 0 then [] else [(j, (s.xr n).toNat, false)]
    let ops := [(1, (s.xr b).toNat, true)] ++ src 2 c ++ src 3 e
    let done (r : Checked) (s : State) : Run Done :=
      goes ((s.updMe fun x => { x with shape := none }).setX a (match r with
        | .bad j e => checkWord ops j e
        | _ => 0))
    let go (run : ShapeRun) : Run Done :=
      match s.checkStep ops run with
      | .ok (some r, _, t) => done r t
      | .ok (none, run, t) => .error (.wait (t.updMe fun x => { x with shape := some run }) .none)
      | .error (.trap c v) => if s.me.shape.isSome then .ok (.trapHere (s.parkShape s.cur s.ctx) c v) else fault c v
      | .error w => .error w
    match s.me.shape with
    | some run => go run
    | none => match s.opStage1 ops with
      | some e => done (.bad e.1 e.2) s
      | none => go ⟨true, [], 0⟩

end Sys2Proof.Machine
end

