-- ==== Sys2Proof/Machine/Barrier.lean ====
section
/-! DEFINITION. The barrier group (R167, R168, R170). -/

namespace Sys2Proof.Machine

/-- A barrier function of `len` bytes that answers nothing. -/
def State.barFn (s : State) (len : Nat) (us : List Use) (b : BitVec 6) (fn : BarFn) (n : State → Word) :
    Host.Outcome State Fault Refusal :=
  s.instr len ([.b b] ++ us) fun s => do
    let (_, s) ← s.barDo b.toNat fn (n s)
    goes s

def execBarInit (b : BitVec 6) (a : BitVec 5) (s : State) := s.barFn 4 [.x a] b .init fun s => s.xr a
def execBarInitImm (b : BitVec 6) (n : BitVec 32) (s : State) := s.barFn 12 [] b .init fun _ => n.setWidth 64
def execBarArrive (b : BitVec 6) (s : State) := s.barFn 4 [] b .arrive fun _ => 0
def execBarDrop (b : BitVec 6) (s : State) := s.barFn 4 [] b .drop fun _ => 0
def execBarExpect (b : BitVec 6) (a : BitVec 5) (s : State) := s.barFn 4 [.x a] b .expect fun s => s.xr a
def execBarExpectImm (b : BitVec 6) (n : BitVec 32) (s : State) := s.barFn 12 [] b .expect fun _ => n.setWidth 64

/-- The end of a bar.wait that slept (R168): it precedes every later access of its context (R170). -/
def State.barWoken (s : State) (b : Nat) : State :=
  (s.barStamp s.cur s.ctx b).updMe fun x => { x with pend := clearBit x.pend b }

/-- bar.wait: a context that sleeps does not issue again before the phase changes. -/
def execBarWait (b : BitVec 6) (s : State) :=
  s.instr 4 [.b b] fun s =>
    match s.me.wait with
    | .bar _ true => goes (s.barWoken b.toNat)
    | .bar c false => .error (.wait s (.bar c false))
    | _ => do
      let (_, s) ← s.barDo b.toNat .wait 0
      goes s

def execBarTest (b : BitVec 6) (d : BitVec 5) (s : State) :=
  s.instr 4 [.b b, .x d] fun s => do
    let (v, s) ← s.barDo b.toNat .test 0
    goes (s.setX d v)

/-- bar.link (R170). -/
def execBarLink (b : BitVec 6) (a : BitVec 5) (s : State) :=
  s.instr 4 [.b b, .x a] fun s =>
    match s.barLinkTo s.cur b.toNat (s.xr a) with
    | some s => goes s
    | none => fault Cause.BAR_NOT_MEMBER (s.xr a)

end Sys2Proof.Machine
end

