-- ==== Sys2Proof/Machine/CardCheck.lean ====
section
/-! DEFINITION. The validation of a card at its post (R179 to R181, R184, R193 to R200, R203 to R208) and the
storage that its entries name (R204). -/

namespace Sys2Proof.Machine

/-- TYPE4 of an entry (R180), and its GX format. -/
def Fp.t (f : Fp) : Type4 := (Type4.ofCode (BitVec.ofNat 4 f.ty)).getD .b1
def Fp.gx (f : Fp) : Option GxT := f.t.gx
def Fp.hi (f : Fp) : Nat := f.addr + f.len

/-- Offsets of the parts of entry `i` in the card. -/
def fpBase (i : Nat) : Nat := 16 + 16 * i
def fpLen (i : Nat) : Nat := 24 + 16 * i
def fpAttr (i : Nat) : Nat := 28 + 16 * i

/-- An offence at an offset. -/
def off (b : Bool) (o : Nat) : List Nat := if b then [o] else []

/-- The role of an entry: unused, or what it must be (R193, R203). -/
structure Role where
  rd : Bool
  wr : Bool
  mustLoc : Bool
  mustGlb : Bool
  layout : Bool
deriving DecidableEq, Repr

/-- Offences of entry `i` of a card (R180, R181) against its role: RD and WR are those of the role and no more. DEDUCED,
log 102. -/
def Card.fpBad (c : Card) (i : Nat) (role : Option Role) : List Nat :=
  let f := c.fp i
  let attr := c.fld (fpAttr i) 4
  if !f.used then
    off (c.fld (fpBase i) 8 != 0) (fpBase i) ++ off (attr != 0) (fpAttr i) ++ off role.isSome (fpLen i)
  else
    off (c.fld (fpBase i) 8 / 2 ^ 57 % 8 != 0 || f.loc == f.glb || (f.loc && decide (2 ^ 18 < f.hi)) ||
        (f.glb && (decide (f.addr < 2 ^ 32) || decide (2 ^ 57 < f.hi))) || (f.remote && !f.loc)) (fpBase i) ++
      off (attr / 4096 != 0 || attr / 64 % 4 != 0 || decide (13 < f.ty) || (f.remote && !c.eng) ||
        (!f.remote && f.core != 0)) (fpAttr i) ++
      match role with
      | none => [fpBase i]
      | some r =>
        off (f.rd != r.rd || f.wr != r.wr || (r.mustLoc && !f.loc) || (r.mustGlb && f.loc)) (fpBase i) ++
          off (f.planar != r.layout) (fpAttr i)

/-- MFLAGS of a matrix card (R193). -/
def Card.mflag (c : Card) (i : Nat) : Bool := c.fld 5 1 / 2 ^ i % 2 == 1
def Card.sparse (c : Card) : Bool := c.mflag 2
def Card.int (c : Card) : Bool := c.mflag 1
def Card.bsel (c : Card) : Nat := if c.mflag 0 then 1 else 0
def Card.accbase (c : Card) : Nat := c.fld 6 2
def Card.dstride (c : Card) : Nat := c.fld 8 2
def Card.row0 (c : Card) : Nat := c.fld 10 1
def Card.nrows (c : Card) : Nat := c.fld 11 1
def Card.ncols (c : Card) : Nat := c.fld 12 1
def Card.recAddr (c : Card) : Nat := c.fld 8 4
/-- PLANAR of a copy card (R203). -/
def Card.planarCopy (c : Card) : Bool := c.eng && c.op == 0 && c.fld 4 1 % 2 == 1
def Card.item (c : Card) : Nat := c.fld 6 2
def Card.cnt (c : Card) : Nat := c.fld 12 4
/-- Does the card read a shape record? -/
def Card.hasRec (c : Card) : Bool := if c.eng then c.planarCopy else c.op < 2

/-- A read entry, a written entry. -/
def rdRole (loc layout : Bool) : Option Role := some ⟨true, false, loc, false, layout⟩
def wrRole (loc layout : Bool) : Option Role := some ⟨false, true, loc, false, layout⟩

/-- Offences of a matrix card that its 64 bytes show (R193, R195, R196, R200, R210). NROWS 0 is one for readout only: a
zeroacc card has no unit then. DEDUCED, log 102. -/
def Card.mxBad (c : Card) (acc : Nat) : List Nat :=
  let f := c.fp 0
  off (c.baren && c.op != 3) 1 ++
  match c.op with
  | 0 | 1 =>
    off (decide (7 < c.fld 5 1) || (c.sparse && (c.op == 1 || !(c.fp 1).used))) 5 ++ off (c.accbase % 2 != 0) 6 ++ off (c.fld 12 4 != 0) 12 ++
      c.fpBad 0 (rdRole true true) ++ c.fpBad 1 (if c.sparse then rdRole true (c.fp 1).planar else none) ++ c.fpBad 2 none
  | 2 =>
    off (c.fld 4 1 != 0) 4 ++ off (decide (1 < c.fld 5 1)) 5 ++ off (c.fld 6 2 != 0) 6 ++ off (c.fld 8 4 != 0) 8 ++
      off (c.fld 12 4 != 0) 12 ++ c.fpBad 0 (rdRole true false) ++ off (f.used && planes f.t == 0) (fpAttr 0) ++
      c.fpBad 1 none ++ c.fpBad 2 none
  | 3 =>
    let rowBytes := match f.gx with
      | some g => c.ncols / 16 * g.blockBytes
      | none => c.ncols * (f.t.bits / 8)
    let tyOk := f.gx.isSome || f.t == .f32 || f.t == .f16 || f.t == .bf16 || f.t == .i8 || f.t == .i16 || f.t == .i32
    off (c.fld 4 1 != 0) 4 ++ off (c.fld 5 1 != 0 && c.fld 5 1 != 8) 5 ++
      off (c.accbase % 2 != 0 || decide (acc < c.accbase + 2 * (c.row0 + c.nrows))) 6 ++
      off (decide (1 < c.nrows) && decide (c.dstride < rowBytes)) 8 ++ off (decide (64 < c.row0 + c.nrows)) 10 ++
      off (c.nrows == 0) 11 ++ off (c.ncols == 0 || decide (64 < c.ncols) || (f.gx.isSome && c.ncols % 16 != 0)) 12 ++
      off (c.fld 13 3 != 0) 13 ++ c.fpBad 0 (wrRole true false) ++ off (f.used && !tyOk) (fpAttr 0) ++ c.fpBad 1 none ++
      c.fpBad 2 none
  | 4 =>
    off (c.fld 4 1 != 0) 4 ++ off (c.fld 5 1 != 0) 5 ++
      off (c.accbase % 2 != 0 || decide (acc < c.accbase + 2 * c.nrows)) 6 ++ off (c.dstride != 0) 8 ++ off (c.row0 != 0) 10 ++
      off (c.fld 12 4 != 0) 12 ++ c.fpBad 0 none ++ c.fpBad 1 none ++ c.fpBad 2 none
  | _ => [0]

/-! Elements of an entry (R204). -/

/-- How an entry's bytes hold elements: lanes, linear GX blocks, the decoded image of a format page, or its packed
blocks at their virtual addresses. -/
inductive Kind where
  | lane (z : Nat)
  | blocks (g : GxT)
  | image
  | packed (g : GxT)
deriving DecidableEq, Repr

/-- Is the page at an address of an entry a format page? -/
def State.fmtPage (s : State) (core : Nat) (f : Fp) (a : Nat) : Bool :=
  f.glb && match s.translate (Ag.ofCore core core (s.coreAt core).domain.toNat) (if f.rd then .read else .write) a with
  | .ok (.fmt _ _ _, _) => true
  | _ => false
/-- Do the blocks of an entry on a format page of its type move unchanged to or from the other entry of its card, a
scratchpad range of that GX type (R204)? -/
def Fp.unchanged (f o : Fp) : Bool := f.gx.isSome && f.gx == o.gx && o.loc
/-- The kind of an entry, by the page that its first byte lies in and the other entry of the card. -/
def State.kindOf (s : State) (core : Nat) (f o : Fp) : Kind :=
  let page := s.fmtPage core f f.addr
  match f.gx with
  | some g => if page && f.unchanged o then .packed g else .blocks g
  | none => if page then .image else .lane (f.t.bits / 8)

/-- Bytes and elements of the smallest whole piece of a kind. -/
def Kind.step : Kind → Nat
  | .lane z => z | .blocks g => g.blockBytes | .image => 4 | .packed _ => 64
def Kind.per : Kind → Nat
  | .lane _ => 1 | .blocks _ => 16 | .image => 1 | .packed _ => 16
/-- Elements of an entry; none where LEN is not whole pieces. -/
def Kind.elems (k : Kind) (f : Fp) : Option Nat := if f.len % k.step = 0 then some (f.len / k.step * k.per) else none
/-- The element counts that an entry may have: that of a global entry of a GX type hangs on its page, which the card
first touches when it runs (R204, R262). -/
def Fp.counts (f o : Fp) : List Nat :=
  let kinds : List Kind := match f.gx with
    | some g => if f.glb && f.unchanged o then [.blocks g, .packed g] else [.blocks g]
    | none => [.lane (f.t.bits / 8)]
  kinds.filterMap fun k => k.elems f

/-- Offences of a copy card's operation (R203 to R207). An entry whose TYPE gives no element count breaks no rule about counts
(R181). DEDUCED, log 57. The index list of FP2 may bear any TYPE of a used entry (R181, R206), and the LEN of a gather's or
scatter's FP0 and FP1 need be no whole number of elements (R204). DEDUCED, log 102. -/
def Card.cpBad (c : Card) : List Nat :=
  let f0 := c.fp 0
  let f1 := c.fp 1
  let f2 := c.fp 2
  let fixed := off (decide (1 < c.fld 4 1) || (c.fld 4 1 != 0 && c.op != 0)) 4 ++ off (c.fld 5 1 != 0) 5 ++
    off ((c.item != 0) != (c.op == 1 || c.op == 2)) 6 ++ off (!c.planarCopy && c.recAddr != 0) 8 ++
    off (c.fld 12 4 != 0 && (c.op == 0 || c.op == 4)) 12 ++
    off (f0.used && f1.used && f0.glb && f1.glb) 16
  let roles := match c.op with
    | 0 => c.fpBad 0 (rdRole false false) ++ c.fpBad 1 (wrRole false f1.planar) ++
        off (f1.used && f1.planar != c.planarCopy) 4 ++ c.fpBad 2 none
    | 1 | 2 => c.fpBad 0 (rdRole false false) ++ c.fpBad 1 (wrRole false false) ++ c.fpBad 2 (rdRole true false)
    | 3 => c.fpBad 0 none ++ c.fpBad 1 (wrRole false false) ++ c.fpBad 2 none
    | 4 => c.fpBad 0 (rdRole true false) ++ c.fpBad 1 (some ⟨true, true, false, true, false⟩) ++ c.fpBad 2 none
    | _ => [0]
  let counted (f : Fp) : Bool := f.used && decide (f.ty < 14)
  let n0 := f0.counts f1
  let n1 := f1.counts f0
  let elements := match c.op with
    | 0 | 4 =>
      off (counted f0 && n0.isEmpty) 24 ++
        off (c.op == 4 && ((f0.t != .f32 && f0.t != .i32) || f0.ty != f1.ty)) 28 ++
        if c.planarCopy then []
        else off (counted f1 && n1.isEmpty) 40 ++
          off (counted f0 && counted f1 && !n0.isEmpty && !n1.isEmpty && !n0.any fun n => n1.contains n) 24
    | 1 | 2 =>
      off (f0.ty != f1.ty) 28 ++ off (counted f0 && c.item % typeSize f0.t != 0) 6 ++ off (f2.len != 4 * c.cnt) 12
    | 3 => off f1.gx.isSome 44 ++ off (f1.len % 4 != 0) 40
    | _ => []
  fixed ++ roles ++ elements

/-- Offences against the limits of R194 and the rules of the operation that involve the record. -/
def Card.recBad (c : Card) (s : State) (core : Nat) (r : Rec) : List Nat :=
  let e (i : Nat) : Nat := r.ext.getD i 0
  let cols := if !c.eng && c.sparse then e 2 == 8 || e 2 == 16 || e 2 == 24 || e 2 == 32
    else e 2 == 16 || e 2 == 32 || e 2 == 48 || e 2 == 64
  let shape := off (!r.planar || r.rank != 3 || e 0 == 0 || decide (64 < e 0 * e 1) || decide (64 < e 0) || !cols ||
    planes r.t == 0) 8
  if c.eng then
    let f1 := c.fp 1
    shape ++ off (some f1.t != r.ty || decide (r.base < f1.addr) || decide (f1.hi < r.base + tileBytes r.t) ||
      !((c.fp 0).counts f1).contains r.count) 8
  else
    let f0 := c.fp 0
    shape ++ off (decide (planes r.t < c.fld 4 1)) 4 ++ off (c.int != (r.t == .i8)) 5 ++
      off (decide ((s.coreAt core).acc < c.accbase + 2 * (e 0 * e 1))) 6 ++ off (some f0.t != r.ty) 8 ++
      off (c.op == 1 && (e 2 != 16 || decide (16 < e 1))) 8

/-- CARD_FORMAT at the first of some offences. -/
def formatErr (os : List Nat) : Option Trap :=
  match os with
  | [] => none
  | o :: os => some (Cause.CARD_FORMAT, word (os.foldl min o))

/-- Offences of the header, the entries and the operation. DEDUCED, log 44. -/
def State.cardBad (s : State) (core : Nat) (eng : Bool) (c : Card) : List Nat :=
  if c.fld 0 1 / 16 % 8 != 0 || c.eng != eng || 4 < c.op then [0]
  else off (c.fld 1 1 / 64 % 2 != 0) 1 ++ if eng then c.cpBad else c.mxBad (s.coreAt core).acc

/-- The record of a card. -/
def Card.rec' (c : Card) : Rec := Rec.of c.recAddr c.record c.lens

/-- Stages 6 and 7 as R76 applies them to the tile as a whole; the rows of a remote tile are checked when the card
starts (R208). -/
def State.tileStages (s : State) (core : Nat) (acc : Acc) (remote : Bool) (r : Rec) : Option RecErr :=
  if r.base % 128 ≠ 0 then some (recErr Cause.SHAPE_MISALIGN r 0)
  else if remote then none
  else (s.lowBad core acc r.base (tileBytes r.t)).map byteErr

/-- The checks of a record that follow its reading: stages 2 to 5, the limits of R194, and stages 6 and 7; `acc` is
the access to the tile. A record without elements passes. -/
def State.cardRecord (s : State) (core : Nat) (c : Card) (acc : Acc) : Option Trap :=
  let r := c.rec'
  match r.stage2 true notB1 with
  | some e => some e
  | none => match r.stage3 with
    | some e => some e
    | none => match s.stage4 core r with
      | some e => some e
      | none =>
        if r.count = 0 then none
        else match formatErr (c.recBad s core r) with
          | some e => some e
          | none => s.tileStages core acc (c.eng && (c.fp 1).remote) r

end Sys2Proof.Machine
end

