-- ==== Sys2Proof/Machine/Matrix.lean ====
section
/-! DEFINITION. The accesses of a card (R181, R204, R208, R257) and the units of the matrix unit (R193 to R202). -/

namespace Sys2Proof.Machine

/-! What a card runs in: the state and its logical time; a fault keeps what it has done (R211). -/

structure EngS where
  s : State
  pts : BitVec 64
  /-- the copy unit, not the matrix unit -/
  eng : Bool
  /-- the answered request of the card, and the one with which its unit must wait (R331) -/
  ext : Option ExtWait
  ask : Option ExtWait
deriving DecidableEq, Repr

abbrev Eng (α : Type) := ExceptT Trap (StateM EngS) α

/-- A fault of the card. -/
def cardFault {α : Type} (cause : BitVec 8) (tval : Nat) : Eng α := throw (cause, word tval)
def onState (f : State → State) : Eng Unit := modify fun e => { e with s := f e.s }

/-- An access of `n` bytes at `a` lies in the entry (R181); else CARD_FOOTPRINT at the first byte outside it. -/
def covered (f : Fp) (a n : Nat) : Eng Unit :=
  if n = 0 then pure ()
  else if a < f.addr || f.hi ≤ a then cardFault Cause.CARD_FOOTPRINT a
  else if f.hi < a + n then cardFault Cause.CARD_FOOTPRINT f.hi
  else pure ()

/-- The parts of a range within 128-byte rows or lines. -/
def parts (a n : Nat) : List (Nat × Nat) := lineParts (n + 1) a n

/-- The core of a remote range (R208). -/
def Fp.coreOf (f : Fp) (k : Nat) : Nat := if f.remote then k / 16 * 16 + f.core else k

/-- Does the holder of core `k` hold a pool row of core `m`: the ROWS resource that names it, or else the core itself,
with its use not ended (R208, R284)? -/
def State.rowOpen (s : State) (k m row : Nat) : Bool :=
  match (s.rowsEntries m).find? fun e => e.lo ≤ row && row < e.hi with
  | some e => e.holder == s.holderOf k && !e.ended
  | none => s.usesOne (s.holderOf k) cCore m
/-- The fault of bytes of a remote range (R208, R235): of the whole range at the start of its card, and of each access,
since the use of a resource may end while the card runs (R276, R284). -/
def State.remoteBad (s : State) (k m a n : Nat) : Option Trap :=
  let rows := rowsOf a n
  match rows.find? fun r => !(coreExists m && s.rowOpen k m r) with
  | some r => some (Cause.EXTENT_NOT_HELD, word (max a (128 * r)))
  | none =>
    let inSeg (r : Nat) : Bool := s.segs.any fun g => g.core == m && g.live && g.inPool && g.base ≤ r && r < g.base + g.count
    match rows.find? fun r => decide ((s.coreAt m).rowsS ≤ r) || inSeg r with
    | some r => some (Cause.ROW_UNDECLARED, word (max a (128 * r)))
    | none => none

/-- The agent of a fault at `a` of a card has read the entries of the walk all the same (R325). -/
def walkFault (ag : Ag) (t : Trap) : Eng Unit :=
  if decide (2 ^ 32 ≤ t.2.toNat) then modify fun e =>
    let r := e.s.readWalk ag (e.s.leafFor ag t.2.toNat) e.pts
    { e with s := r.2, pts := r.1 }
  else pure ()

/-- Where an access of a card lands: a global entry must have the type of its page (R204). `packed` where the entry
holds packed blocks at virtual addresses. One that must wait for the host leaves its request, and its unit does not take
place (R331). -/
def cardPlace (k : Nat) (f : Fp) (acc : Acc) (packed : Bool) (a n : Nat) : Eng (Ag × Place) := do
  let s := (← get).s
  let ag := Ag.ofCore k (f.coreOf k) (s.coreAt k).domain.toNat
  if f.remote then
    match s.remoteBad k ag.core a n with
    | some t => throw t
    | none => pure (ag, .pool a)
  else match s.place ag acc a n with
    | .error t => do
      walkFault ag t
      throw t
    | .ok (p, s) => do
      match s.cardGate ag.dom (← get).ext (acc == .write && !f.rd) p a with
      | .go s ext => modify fun e => { e with s := s, ext := ext }
      | .bad s t => do
        onState fun _ => s
        throw t
      | .ask s w => do
        modify fun e => { e with s := s, ask := some w }
        throw (0, word a)
      match p, f.gx with
      | .fmt g pa o, some h =>
        if g = h && packed then pure (ag, .phys (pa + o / 64 * g.blockBytes)) else cardFault Cause.CARD_FORMAT a
      | .fmt _ _ _, none => if f.t = .f32 then pure (ag, p) else cardFault Cause.CARD_FORMAT a
      | _, _ => if packed then cardFault Cause.CARD_FORMAT a else pure (ag, p)

/-- The engine's wait for a bank ends with its access to the bank (R69). -/
def Core.bankDone (c : Core) (eng : Bool) (row : Nat) : Core :=
  { c with engWait := Table.erase c.engWait ((if eng then 3 else 0) + row % 3) }
/-- The banks of some rows of a core, after the engine's access to them. -/
def banksDone (core : Nat) (rows : List Nat) : Eng Unit :=
  modify fun e => { e with s := e.s.updCoreAt core fun c => rows.foldl (fun c r => c.bankDone e.eng r) c }
/-- The rows of a pool that `n` bytes at a place touch. -/
def Place.rows (p : Place) (n : Nat) : List Nat :=
  match p with
  | .pool off => rowsOf off n
  | _ => []

/-- The context that the log entries of a card's reads name: engines come after context 10. DESIGN CHOICE, log 16. -/
def engCtx : Nat := 11
/-- A part of a step of a card: the agent, the place, the address and the bytes. -/
structure Bit where
  ag : Ag
  place : Place
  a : Nat
  n : Nat
deriving DecidableEq, Repr
/-- The data of the parts of a read, of which those in the host window are what the log holds (R387, R388). -/
def logBits : List Bit → List Byte → Eng (List Byte)
  | [], _ => pure []
  | b :: bs, data => do
    let own := data.take b.n
    let own ← if b.place.host then do
        match (← get).s.hostLog b.ag.core engCtx b.n (word b.a) own with
        | .error t => throw t
        | .ok (own, s) => do
          onState fun _ => s
          pure own
      else pure own
    let rest ← logBits bs (data.drop b.n)
    pure (own ++ rest)
/-- Some bytes read as one step. -/
def readPart (ag : Ag) (p : Place) (a n : Nat) : Eng (List Byte) := do
  let e ← get
  match e.s.readAt ag p a n e.pts with
  | .error t => throw t
  | .ok (bs, pts, s) => do
    set { e with s := s, pts := pts }
    banksDone ag.core (p.rows n)
    logBits [⟨ag, p, a, n⟩] bs
/-- Some bytes written as one step; an engine fills no write buffer (R69) and sets no flag (R50). -/
def writePart (ag : Ag) (p : Place) (a : Nat) (bs : List (Option Byte)) : Eng Unit := do
  let e ← get
  let w := (e.s.coreAt ag.core).wbuf
  match e.s.writeAt ag p a bs e.pts with
  | .error t => throw t
  | .ok (pts, s, _) => do
    set { e with s := s.updCoreAt ag.core fun c => { c with wbuf := w }, pts := pts }
    banksDone ag.core (p.rows bs.length)

/-- The physical ranges of some parts, where all of them are in device physical memory. -/
def physRanges : List Bit → Option (List (Nat × Nat))
  | [] => some []
  | b :: bs => match b.place, physRanges bs with
    | .phys pa, some rs => some ((pa, b.n) :: rs)
    | _, _ => none

/-- The parts of a step by the pages that it touches, each with its place. -/
def stepBits (k : Nat) (f : Fp) (acc : Acc) (packed : Bool) (a n : Nat) : Eng (List Bit) :=
  (if a < 2 ^ 32 || a / 2 ^ 16 == (a + n - 1) / 2 ^ 16 then [(a, n)] else parts a n).mapM fun p => do
    let (ag, pl) ← cardPlace k f acc packed p.1 p.2
    pure ⟨ag, pl, p.1, p.2⟩
/-- The bytes of some parts, read as one step. -/
def readBits : List Bit → Eng (List Byte)
  | [b] => readPart b.ag b.place b.a b.n
  | bs => match physRanges bs, bs with
    | some rs, b :: _ => do
      let e ← get
      let r := e.s.spanRead b.ag rs (e.s.joinWalks e.pts)
      set { e with s := r.2.2.sealWalks r.2.1, pts := r.2.1 }
      logBits bs r.1
    | _, _ => do
      let r ← bs.mapM fun b => readPart b.ag b.place b.a b.n
      pure r.flatten
/-- Some bytes written to some parts as one step. -/
def writeBits (bs : List Byte) (ps : List Bit) : Eng Unit :=
  let a := (ps.map Bit.a).headD 0
  let own (b : Bit) : List Byte := (bs.drop (b.a - a)).take b.n
  match ps with
  | [b] => writePart b.ag b.place b.a (bs.map some)
  | _ => match physRanges ps, ps with
    | some rs, b :: _ => do
      let e ← get
      let r := e.s.spanWrite b.ag (rs.zip (ps.map own) |>.map fun (r, bs) => (r.1, bs)) (e.s.joinWalks e.pts)
      set { e with s := r.2.sealWalks r.1, pts := r.1 }
    | _, _ => do
      let _ ← ps.mapM fun b => writePart b.ag b.place b.a ((own b).map some)
      pure ()

/-- The steps of a range of elements of `z` bytes, as parts of it: the elements that lie in one row or line take one step, and
one that runs into the next row or line takes a step of its own. -/
def elemSteps : Nat → Nat → Nat → Nat → List (Nat × Nat)
  | 0, _, _, _ => []
  | fuel + 1, z, a, n =>
    if n = 0 then []
    else
      let whole := (128 - a % 128) / z * z
      let m := min n (if whole = 0 then z else whole)
      (a, m) :: elemSteps fuel z (a + m) (n - m)

/-- A read of `n` bytes of elements of `z` bytes by a card of core `k` through an entry (R257). -/
def cardRead (k : Nat) (f : Fp) (z a n : Nat) : Eng (List Byte) := do
  covered f a n
  let bss ← (elemSteps (n + 1) z a n).mapM fun p => do
    let ps ← stepBits k f .read false p.1 p.2
    readBits ps
  pure bss.flatten
/-- A write of elements of `z` bytes through an entry, each as one step, but the elements of one block of a format page
together (R58, R257); a fault keeps what comes before it (R211). -/
def cardWriteFrom (k : Nat) (f : Fp) (z : Nat) : Nat → Nat → List Byte → Eng Unit
  | 0, _, _ => pure ()
  | fuel + 1, a, bs =>
    if bs.isEmpty then pure ()
    else do
      let block := f.gx.isNone && (← get).s.fmtPage k f a
      let es := bs.take (if block then 64 - a % 64 else z)
      covered f a es.length
      let ps ← stepBits k f .write false a es.length
      writeBits es ps
      cardWriteFrom k f z fuel (a + es.length) (bs.drop es.length)
/-- The same of all of some bytes. -/
def cardWrite (k : Nat) (f : Fp) (z a : Nat) (bs : List Byte) : Eng Unit := cardWriteFrom k f z bs.length a bs

/-! Accumulator rows (R195). -/

/-- The 64 elements of the tile row in accumulator rows `r` and `r + 1`. -/
def Core.accRow (c : Core) (r : Nat) : List Nat :=
  lanes 32 (c.row (c.accBase + r)) ++ lanes 32 (c.row (c.accBase + r + 1))
/-- The pool rows of a tile row of the accumulator. -/
def Core.accPair (c : Core) (r : Nat) : List Nat := [c.accBase + r, c.accBase + r + 1]
def Core.setAccRow (c : Core) (r : Nat) (vs : List Nat) : Core :=
  let put (c : Core) (row v : Nat) : Core :=
    { c with pool := c.pool.writeLE (128 * row) 128 v, written := setBit c.written row }
  put (put c (c.accBase + r) (ofLanes 32 (vs.take 32))) (c.accBase + r + 1) (ofLanes 32 (vs.drop 32))

/-! Elements of A and B. -/

/-- Tile rows that exist, ascending (R194). -/
def Rec.tileRows (r : Rec) : List Nat :=
  (List.range (r.e 1)).flatMap fun i1 => (List.range (min (r.len i1) (r.e 0))).map fun i0 => i1 * r.e 0 + i0

/-- Column `c` of a planar tile row: the sign and the magnitude bits of the first `k` of `p` planes, by the bytes
of its pieces (R59, R61). DEDUCED, log 43. -/
def tileElem (t : Type4) (k : Nat) (exps : List Byte) (sign : Nat) (mags : List Nat) (c : Nat) : FVal :=
  let ex := (exps.getD (2 * (c / 16)) 0).toNat
  let sub := (exps.getD (2 * (c / 16) + 1) 0).toNat / 2 ^ (2 * (c % 16 / 4)) % 4
  let p := planes t
  let m := ((mags.take k).zipIdx.map fun (v, j) => v / 2 ^ c % 2 * 2 ^ (p - 1 - j)).sum
  let neg := sign / 2 ^ c % 2 == 1
  if t = .i8 then .fin neg m 0
  else if ex = 255 then .nan false
  else .fin neg m ((ex : Int) - 127 - (if t.gx.isSome then sub else 0 : Nat) - (p - 1 : Nat))

/-- The `n` packed columns of tile row `t`, read through FP0 (R194, R202). -/
def tileRow (core : Nat) (c : Card) (r : Rec) (k t n : Nat) : Eng (List FVal) := do
  let f := c.fp 0
  let exps ← cardRead core f 1 (r.base + 8 * t) (2 * ((n + 15) / 16))
  let sign ← cardRead core f 1 (r.base + 512 + 8 * t) 8
  let mags ← (List.range k).mapM fun j => do
    let bs ← cardRead core f 1 (r.base + 1024 + 512 * j + 8 * t) 8
    pure (leVal bs)
  pure ((List.range n).map fun i => tileElem r.t k exps (leVal sign) mags i)

/-- The columns of a 2:4 packed row, by the index word of its row (R199). -/
def unpackSparse (row : List FVal) (idx : Nat) : Eng (List FVal) := do
  let gs ← (List.range (row.length / 2)).mapM fun g => do
    let x := idx / 2 ^ (4 * g) % 4
    let y := idx / 2 ^ (4 * g + 2) % 4
    if x = y then cardFault Cause.CARD_FORMAT 32
    else pure ((List.range 4).map fun i =>
      if i = x then row.getD (2 * g) (.fin false 0 0) else if i = y then row.getD (2 * g + 1) (.fin false 0 0) else .fin false 0 0)
  pure gs.flatten

/-- Element (k, n) of a B buffer; a buffer that nothing has filled reads +0 (R196). -/
def BBuf.elem (b : BBuf) (k n : Nat) : FVal :=
  match Type4.ofCode (BitVec.ofNat 4 b.ty) with
  | none => .fin false 0 0
  | some t => match t.gx with
    | some g => (Block.unpack g.b (b.data.readLE ((4 * k + n / 16) * g.blockBytes) g.blockBytes)).val g.b (n % 16)
    | none => match t.elem with
      | some e => e.val (b.data.readLE ((64 * k + n) * (t.bits / 8)) (t.bits / 8))
      | none => .fin false 0 0
def BBuf.empty : BBuf := { ty := 15, data := [] }
def Core.bbuf (c : Core) (i : Nat) : BBuf := Table.get BBuf.empty c.bbufs i
/-- Slices of a buffer (R196). -/
def BBuf.slices (b : BBuf) : Nat := if b.ty = 1 then 2 else if b.ty = 0 then 3 else 1

/-! The sum of a K-group and the accumulator (R64, R65). -/

/-- The exact sum of some products. DEDUCED, log 54. -/
def dotExact (ps : List (FVal × FVal)) : FVal :=
  match ps with
  | [] => .fin false 0 0
  | p :: ps => ps.foldl (fun v q => (v.add .rne (q.1.mul q.2).1).1) (p.1.mul p.2).1

/-- The value of an integer element. -/
def FVal.int : FVal → Int
  | .fin n m e => scaled n m e 0
  | _ => 0

/-- One accumulator element after the K-groups of a row; true where the INT32 sum saturated. -/
def accElem (int : Bool) : Nat → List FVal → (Nat → FVal) → Nat → Nat → Nat × Bool
  | 0, _, _, _, v => (v, false)
  | groups + 1, row, col, k, v =>
    let ps := (List.range 16).map fun i => (row.getD (k + i) (.fin false 0 0), col (k + i))
    let one : Nat × Bool :=
      if int then sat 32 true (sgn 32 v + (ps.map fun p => FVal.int p.1 * FVal.int p.2).sum)
      else ((Fmt.f32.add .rne v (Fmt.f32.ofVal .rne (dotExact ps)).1).1, false)
    let rest := accElem int groups row col (k + 16) one.1
    (rest.1, one.2 || rest.2)

/-- The accumulator update of one tile row, made whole (R197, R198): `cols` columns, with B taken from (k0, n0). -/
def macRow (core : Nat) (c : Card) (t : Nat) (row : List FVal) (k0 n0 cols : Nat) : Eng Unit := do
  let co := (← get).s.coreAt core
  let b := co.bbuf c.bsel
  let old := co.accRow (c.accbase + 2 * t)
  let new := old.zipIdx.map fun (v, n) =>
    if n < cols then accElem c.int (row.length / 16) row (fun k => b.elem (k0 + k) (n0 + n)) 0 v else (v, false)
  onState fun s => s.updCoreAt core fun co =>
    { co.setAccRow (c.accbase + 2 * t) (new.map Prod.fst) with mxsat := co.mxsat || new.any Prod.snd }
  banksDone core (co.accPair (c.accbase + 2 * t))

/-- One tile row of dense or batched16. -/
def mulRow (core : Nat) (c : Card) (r : Rec) (t : Nat) : Eng Unit := do
  let p := planes r.t
  let k := if c.fld 4 1 = 0 then p else c.fld 4 1
  let row ← tileRow core c r k t (r.e 2)
  let row ← if c.sparse then do
      let f := c.fp 1
      let bs ← cardRead core f 1 (f.addr + 8 * t) 8
      unpackSparse row (leVal bs)
    else pure row
  if c.op = 1 then
    let j := t / max 1 (r.e 0)
    macRow core c t row (16 * (j / 4)) (16 * (j % 4)) 16
  else macRow core c t row 0 0 64

/-- loadB (R196): 64 rows of B as they lie in FP0. -/
def loadB (core : Nat) (c : Card) : Eng Unit := do
  let f := c.fp 0
  let z := typeSize f.t
  let bs ← cardRead core f z f.addr (if f.gx.isSome then 256 * z else 4096 * z)
  onState fun s => s.updCoreAt core fun co =>
    { co with bbufs := Table.put co.bbufs c.bsel ⟨f.ty, Memory.putBytes [] 0 bs⟩ }

/-- The destination bytes of one tile row of a readout, and whether an integer clamped (R200). DEDUCED, log 60. -/
def readoutBytes (f : Fp) (vs : List Nat) : List Byte × Bool :=
  match f.gx with
  | some g => ((groups 16 (vs.length / 16) vs).flatMap fun q =>
      leOf g.blockBytes ((gxEncode g.b (q.map Fmt.f32.decode)).1.pack g.b), false)
  | none => match f.t.elem with
    | some (.int w g) =>
      let rs := vs.map fun v => sat w g (sgn 32 v)
      (rs.flatMap fun r => leOf (w / 8) r.1, rs.any Prod.snd)
    | some (.flt g) => (vs.flatMap fun v => leOf (g.bits / 8) (if g = .f32 then v else (convert (.flt .f32) (.flt g) .rne v).1), false)
    | none => ([], false)

/-- One accumulator row pair of a readout (R200); the bytes that its credit counts. -/
def readoutRow (core : Nat) (c : Card) (i : Nat) : Eng Nat := do
  let f := c.fp 0
  let co := (← get).s.coreAt core
  let r := c.accbase + 2 * (c.row0 + i)
  let vs := co.accRow r
  let (bs, clamp) := readoutBytes f (vs.take c.ncols)
  banksDone core (co.accPair r)
  cardWrite core f (match f.gx with | some g => g.blockBytes | none => f.t.bits / 8) (f.addr + i * c.dstride) bs
  onState fun s => s.updCoreAt core fun co =>
    let co := { co with mxsat := co.mxsat || clamp }
    if c.mflag 3 then co.setAccRow r (List.replicate c.ncols 0 ++ vs.drop c.ncols) else co
  pure bs.length

/-- The units of a matrix card (R202): the tile rows of each, or one number for each row pair or load. -/
def Card.mxUnits (c : Card) : List (List Nat) :=
  let r := c.rec'
  match c.op with
  | 0 =>
    let rows := r.tileRows
    if c.sparse then groups 2 ((rows.length + 1) / 2) rows else rows.map fun t => [t]
  | 1 =>
    let rows := r.tileRows
    ((List.range (r.e 0)).map fun i0 => rows.filter fun t => t % r.e 0 == i0).filter fun u => !u.isEmpty
  | 2 => [[0]]
  | _ => (List.range c.nrows).map fun i => [i]

/-- One unit of a matrix card: the bytes that its credit counts. -/
def mxUnit (core : Nat) (c : Card) : Eng Nat :=
  let u := c.mxUnits.getD c.cursor []
  match c.op with
  | 0 | 1 => do
    let _ ← u.mapM fun t => mulRow core c c.rec' t
    pure 0
  | 2 => do
    loadB core c
    pure 0
  | 3 => do
    let n ← readoutRow core c (u.headD 0)
    pure n
  | _ => do
    onState fun s => s.updCoreAt core fun co => co.setAccRow (c.accbase + 2 * u.headD 0) (List.replicate 64 0)
    banksDone core (((← get).s.coreAt core).accPair (c.accbase + 2 * u.headD 0))
    pure 0

/-- Cycles of a unit, twice as many where it is narrow (R201, R202). -/
def Card.mxCycles (c : Card) (b : BBuf) (narrow : Bool) : Nat :=
  let n := match c.op with
    | 0 | 1 => (if c.fld 4 1 = 0 then planes c.rec'.t else c.fld 4 1) * b.slices
    | 2 => 64
    | _ => 2
  if narrow then 2 * n else n

end Sys2Proof.Machine
end

