-- ==== Sys2Proof/Machine/Copy.lean ====
section
/-! DEFINITION. The units of the copy unit (R203 to R210). -/

namespace Sys2Proof.Machine

/-! Storage by kind (R204). -/

/-- Is an entry's storage packed blocks at virtual addresses? -/
def Kind.isPacked : Kind → Bool
  | .packed _ => true
  | _ => false
/-- The GX format of a kind. -/
def Kind.gx : Kind → Option GxT
  | .blocks g | .packed g => some g
  | _ => none

/-- Pieces `g0` to `g1 - 1` of an entry read: each piece as a number. -/
def readPieces (core : Nat) (f : Fp) (k : Kind) (g0 g1 : Nat) : Eng (List Nat) :=
  match k with
  | .packed g => (List.range (g1 - g0)).mapM fun i => do
    let a := f.addr + 64 * (g0 + i)
    covered f a 64
    let (ag, p) ← cardPlace core f .read true a 64
    let bs ← readPart ag p a g.blockBytes
    pure (leVal bs)
  | _ => do
    let z := k.step
    let bs ← cardRead core f z (f.addr + z * g0) (z * (g1 - g0))
    pure ((List.range (g1 - g0)).map fun i => leVal ((bs.drop (z * i)).take z))
/-- Pieces from `g0` on written; the number of bytes that land. -/
def writePieces (core : Nat) (f : Fp) (k : Kind) (g0 : Nat) (vs : List Nat) : Eng Nat :=
  match k with
  | .packed g => do
    let _ ← vs.zipIdx.mapM fun (v, i) => do
      let a := f.addr + 64 * (g0 + i)
      covered f a 64
      let (ag, p) ← cardPlace core f .write true a 64
      writePart ag p a ((leOf g.blockBytes v).map some)
    pure (vs.length * g.blockBytes)
  | _ => do
    let z := k.step
    cardWrite core f z (f.addr + z * g0) (vs.flatMap fun v => leOf z v)
    pure (vs.length * z)

/-- The kind of an entry at the first touch of its page: a page whose format does not match the entry, or gives it another
count of elements than the card needs, faults the card there (R204, R262). -/
def touchKind (core : Nat) (f o : Fp) (acc : Acc) (n : Option Nat) : Eng Kind := do
  let k := (← get).s.kindOf core f o
  if n.isNone || k.elems f == n then pure k
  else do
    let _ ← cardPlace core f acc k.isPacked f.addr 1
    cardFault Cause.CARD_FORMAT f.addr

/-- The elements of some pieces, as exact values and as patterns of the type they read as (R56). -/
def pieceElems (k : Kind) (vs : List Nat) : List Nat :=
  match k.gx with
  | some g => vs.flatMap fun v => (Block.unpack g.b v).toF32 g.b
  | none => vs

/-- The type that the elements of an entry read as. -/
def Kind.type (k : Kind) (f : Fp) : Type4 := if k.gx.isSome then .f32 else f.t

/-- One element converted, to nearest (R52, R53); equal types move the bits. Ties go to even, for targets of 8 bits also.
DEDUCED, log 102. -/
def convElem (src dst : Type4) (v : Nat) : Nat :=
  if src = dst then v
  else match src.elem, dst.elem with
    | some p, some q => (convert p q .rne v).1
    | _, _ => v
/-- The exact value of an element. -/
def exactElem (t : Type4) (v : Nat) : FVal :=
  match t.elem with
  | some p => p.val v
  | none => .fin false 0 0

/-- Elements of type `src` as pieces of a destination: GX blocks are encoded from their exact values (R57). -/
def toPieces (src : Type4) (f : Fp) (k : Kind) (vs : List Nat) : List Nat :=
  match k.gx with
  | some g => (groups 16 (vs.length / 16) vs).map fun q => (gxEncode g.b (q.map (exactElem src))).1.pack g.b
  | none => vs.map (convElem src f.t)

/-- The pieces that begin in row or line number `u` of an entry, counted from its first (R209). -/
def unitPieces (f : Fp) (z total u : Nat) : Nat × Nat :=
  let upto (line : Nat) : Nat := min total ((128 * line - f.addr + z - 1) / z)
  (if u = 0 then 0 else upto (f.addr / 128 + u), upto (f.addr / 128 + u + 1))
/-- Rows or lines that an entry touches. -/
def unitCount (f : Fp) : Nat := if f.len = 0 then 0 else (f.hi - 1) / 128 - f.addr / 128 + 1
/-- Bytes of an entry in its row or line number `u` (R210). DEDUCED, log 58. -/
def unitBytes (f : Fp) (u : Nat) : Nat :=
  min f.hi (128 * (f.addr / 128 + u + 1)) - max f.addr (128 * (f.addr / 128 + u))

/-- The credit of `n` bytes within a unit (R210): a refused one faults the card after the write it follows, and
one that must wait is left over (R389). -/
def creditIn (core : Nat) (c : Card) (n : Nat) : Eng Nat := do
  if !c.baren then pure 0
  else
    let e ← get
    match e.s.credit core c.bar n e.pts with
    | (.made, s) => do
      onState fun _ => s
      pure 0
    | (.waits, _) => pure n
    | (.refused b, _) => cardFault Cause.BAR_BYTES_OVER (b * 256 + c.bar)

/-- One row or line of a copy (R204, R209): all its elements are read before the first is written, also where source and
destination overlap (R257). DESIGN CHOICE, log 47. -/
def copyRow (core : Nat) (c : Card) (u : Nat) : Eng Nat := do
  let f0 := c.fp 0
  let f1 := c.fp 1
  let n := (f0.counts f1).find? fun n => (f1.counts f0).contains n
  let k0 ← touchKind core f0 f1 .read n
  let k1 ← touchKind core f1 f0 .write n
  let (g0, g1) := unitPieces f1 k1.step (f1.len / k1.step) u
  let e0 := g0 * k1.per
  let e1 := g1 * k1.per
  let s0 := e0 / k0.per
  let src ← if g0 < g1 then readPieces core f0 k0 s0 ((e1 + k0.per - 1) / k0.per) else pure []
  let vs := ((pieceElems k0 src).drop (e0 - s0 * k0.per)).take (e1 - e0)
  let n ← writePieces core f1 k1 g0 (if f0.t = f1.t then src else toPieces (k0.type f0) f1 k1 vs)
  pure (if k1.isPacked then n else unitBytes f1 u)

/-- One item of a gather or a scatter (R206), all of it read before it is written (log 47), and credited after each row or line
(R210); the bytes left to credit. -/
def moveItem (core : Nat) (c : Card) (j : Nat) : Eng Nat := do
  let f0 := c.fp 0
  let f1 := c.fp 1
  let f2 := c.fp 2
  let z := typeSize f0.t
  let idx ← cardRead core f2 4 (f2.addr + 4 * j) 4
  let i := leVal idx
  let src := f0.addr + (if c.op = 1 then i else j) * c.item
  let dst := f1.addr + (if c.op = 1 then j else i) * c.item
  covered f1 dst c.item
  let bs ← cardRead core f0 z src c.item
  let owed ← (parts dst c.item).mapM fun p => do
    let _ ← ((elemSteps (c.item + 1) z dst c.item).filter fun q => p.1 ≤ q.1 && q.1 < p.1 + p.2).mapM fun q =>
      cardWrite core f1 z q.1 ((bs.drop (q.1 - dst)).take q.2)
    creditIn core c p.2
  pure owed.sum

/-- One row or line of a fill (R207). -/
def fillRow (core : Nat) (c : Card) (u : Nat) : Eng Nat := do
  let f := c.fp 1
  let (g0, g1) := unitPieces f 4 (f.len / 4) u
  cardWrite core f 4 (f.addr + 4 * g0) ((List.range (g1 - g0)).flatMap fun _ => leOf 4 c.cnt)
  pure (unitBytes f u)

/-- One element of accadd, as one step at the home (R207, R159). -/
def accElement (core : Nat) (c : Card) (i : Nat) : Eng Unit := do
  let f0 := c.fp 0
  let f1 := c.fp 1
  let bs ← cardRead core f0 4 (f0.addr + 4 * i) 4
  let a := f1.addr + 4 * i
  covered f1 a 4
  let (ag, p) ← cardPlace core { f1 with ty := 0 } .write false a 4
  match p with
  | .fmt _ _ _ => cardFault Cause.FORMAT_ATOMIC a
  | _ => do
    if p.host && !(← get).s.atomicOps then cardFault Cause.PAGE_WRITE a
    let e ← get
    match e.s.peekAt ag p a 4 with
    | .error t => throw t
    | .ok (old, s) => do
      onState fun _ => s
      let x := leVal old
      let y := leVal bs
      let v := if f1.t = .f32 then (Fmt.f32.add .rne x y).1 else (x + y) % 2 ^ 32
      match p.ext? with
      | some pa => modify fun e =>
          let t := e.s.joinWalks e.pts
          { e with s := { e.s.sealWalks t with mem := e.s.mem.putBytes pa (leOf 4 v) }, pts := t }
      | none => do
        writePart ag p a ((leOf 4 v).map some)
        onState fun s => s.takeLease ag p false
/-- The elements of accadd that begin in one line. -/
def accLine (core : Nat) (c : Card) (u : Nat) : Eng Nat := do
  let f := c.fp 1
  let (g0, g1) := unitPieces f 4 (f.len / 4) u
  let _ ← (List.range (g1 - g0)).mapM fun i => accElement core c (g0 + i)
  pure (unitBytes f u)

/-! Planar destinations (R59, R60, R205). -/

/-- The block of a planar tile for 16 elements of type `src`: GX is encoded from exact values, any other type is
converted and laid in planes. -/
def planarOf (src dst : Type4) (vs : List Nat) : Block :=
  match dst.gx with
  | some g => (gxEncode g.b (vs.map (exactElem src))).1
  | none => planarBlock dst (vs.map (convElem src dst))

/-- 16 bits as two bytes, bit `i` of element `i`. -/
def bits16 (bs : List Bool) : List Byte :=
  leOf 2 ((bs.zipIdx.map fun (b, i) => if b then 2 ^ i else 0).sum)

/-- The bytes of a block in its tile: row `r`, column block `g` (R59). -/
def blockBytes (base : Nat) (t : Type4) (r g : Nat) (b : Block) : List (Nat × List Byte) :=
  let p := planes t
  let sub := ((b.sub.zipIdx).map fun (v, i) => v * 4 ^ i).sum
  (base + 2 * (4 * r + g), [BitVec.ofNat 8 b.ex, BitVec.ofNat 8 sub]) ::
  (base + 512 + 8 * r + 2 * g, bits16 b.sg) ::
  (List.range p).map fun j =>
    (base + 1024 + 512 * j + 8 * r + 2 * g, bits16 (b.mag.map fun m => m / 2 ^ (p - 1 - j) % 2 == 1))

/-- Bytes by address. -/
def byAddr (xs : List (Nat × List Byte)) : Table Byte :=
  xs.foldl (fun t x => x.2.zipIdx.foldl (fun t (b, i) => Table.put t (x.1 + i) b) t) []
/-- The rows that some addresses lie in, ascending. -/
def rowsIn : Table Byte → List Nat
  | [] => []
  | (a, _) :: t => match rowsIn t with
    | r :: rs => if r = a / 128 then r :: rs else a / 128 :: r :: rs
    | [] => [a / 128]

/-- The last pool row that a block touches (R210). -/
def lastRow (bs : List (Nat × List Byte)) : Nat := bs.foldl (fun m x => max m ((x.1 + x.2.length - 1) / 128)) 0

/-- One stage of a planar copy: up to 16 tile rows, whose pool rows are written once each (R205), each block credited
at the write of its last row (R210); the bytes left to credit. -/
def planarStage (core : Nat) (c : Card) (u : Nat) : Eng Nat := do
  let f0 := c.fp 0
  let f1 := c.fp 1
  let r := c.rec'
  let k0 ← touchKind core f0 f1 .read (some r.count)
  let nb := r.e 2 / 16
  let rows := (r.tileRows.drop (16 * u)).take 16
  let e0 := 256 * u * nb
  let n := 16 * nb * rows.length
  let s0 := e0 / k0.per
  let src ← readPieces core f0 k0 s0 ((e0 + n + k0.per - 1) / k0.per)
  let blocks : List Block := match r.t.gx, k0.gx with
    | some g, some h => if g = h then src.map (Block.unpack g.b) else
        (groups 16 (nb * rows.length) (pieceElems k0 src)).map (planarOf .f32 r.t)
    | _, _ =>
      (groups 16 (nb * rows.length) (((pieceElems k0 src).drop (e0 - s0 * k0.per)).take n)).map (planarOf (k0.type f0) r.t)
  let cells := rows.flatMap fun t => (List.range nb).map fun g => (t, g)
  let placed := (cells.zip blocks).map fun (x, b) => blockBytes r.base r.t x.1 x.2 b
  let new := byAddr placed.flatten
  let amount := match r.t.gx with
    | some g => g.blockBytes
    | none => 16 * (r.t.bits / 8)
  let owed ← (rowsIn new).mapM fun row => do
    let bs := (List.range 128).map fun i => (new.find? fun p => p.1 == 128 * row + i).map Prod.snd
    let (ag, p) ← cardPlace core f1 .write false (128 * row) 128
    writePart ag p (128 * row) bs
    let left ← (placed.filter fun b => lastRow b == row).mapM fun _ => creditIn core c amount
    pure left.sum
  pure owed.sum

/-- Units of a copy card (R206, R209, R205). -/
def Card.cpUnits (c : Card) : Nat :=
  let f1 := c.fp 1
  match c.op with
  | 0 =>
    if c.planarCopy then (c.rec'.tileRows.length + 15) / 16
    else unitCount f1
  | 1 | 2 => c.cnt
  | _ => unitCount f1

/-- One unit of a copy card: the bytes that are still to be credited. -/
def cpUnit (core : Nat) (c : Card) : Eng Nat :=
  match c.op with
  | 0 => if c.planarCopy then planarStage core c c.cursor else copyRow core c c.cursor
  | 1 | 2 => moveItem core c c.cursor
  | 3 => fillRow core c c.cursor
  | _ => accLine core c c.cursor

/-- Units of a card; a card whose record has no element has none (R75). -/
def Card.units (c : Card) : Nat :=
  if c.hasRec && c.rec'.count == 0 then 0
  else if c.eng then c.cpUnits else c.mxUnits.length

end Sys2Proof.Machine
end

