-- ==== Sys2Proof/Machine/Engine.lean ====
section
/-! DEFINITION. Posting and waiting (R182 to R188) and the events of the engines (R68, R69, R189 to R191, R201,
R202, R209 to R213). An event that is not enabled leaves the state as it is. -/

namespace Sys2Proof.Machine

/-! Futures (R183). -/

def Core.fut (c : Core) (i : Nat) : Future := Table.get Future.zero c.futs i
def Core.setFut (c : Core) (i : Nat) (f : Future) : Core := { c with futs := Table.put c.futs i f }
/-- The entry of a live handle: VALID is 1, and GEN is the entry's current generation. -/
def Core.liveFut (c : Core) (h : BitVec 16) : Option (Nat × Future) :=
  let i := h.toNat % 64
  let f := c.fut i
  if h.getLsbD 15 && f.gen.toNat == h.toNat / 64 % 512 then some (i, f) else none
/-- The handle of an entry. -/
def handleOf (i : Nat) (f : Future) : BitVec 16 := BitVec.ofNat 16 (2 ^ 15 + f.gen.toNat * 64 + i)
/-- The status word. -/
def Future.status (f : Future) : Word :=
  if !f.complete then 0
  else word ((if f.cause = 0 then 0 else f.tval.toNat % 2 ^ 48 * 2 ^ 16) + (if f.pqfull then 2 ^ 11 else 0) +
    (if f.narrow then 2 ^ 10 else 0) + (if f.cancelled then 2 ^ 9 else 0) + 2 ^ 8 + f.cause.toNat)
/-- An entry freed: its generation advances. -/
def Core.freeFut (c : Core) (i : Nat) : Core := c.setFut i { Future.zero with gen := (c.fut i).gen + 1 }
/-- The lowest entry that is not in use. -/
def Core.freeEntry (c : Core) : Option Nat := (List.range 64).find? fun i => !(c.fut i).used

/-! Rings (R184). -/

def Core.ring (c : Core) (eng : Bool) : List Card := if eng then c.cpRing else c.mxRing
def Core.setRing (c : Core) (eng : Bool) (l : List Card) : Core := if eng then { c with cpRing := l } else { c with mxRing := l }
def ringSize (eng : Bool) : Nat := if eng then 16 else 8
def State.updCard (s : State) (core : Nat) (eng : Bool) (id : Nat) (f : Card → Card) : State :=
  s.updCoreAt core fun c => c.setRing eng ((c.ring eng).map fun k => if k.seq = id then f k else k)

/-- COMPLETE of an entry (R191): every fwait that waits on it takes its status (R185). -/
def Core.complete (c : Core) (i : Nat) (f : Future) : Core :=
  let h := handleOf i f
  let c := c.setFut i f
  { c with ctxs := c.ctxs.map fun p => match p.2.wait with
      | .fut g none => if g = h then (p.1, { p.2 with wait := .fut g (some (f.status, f.tval, f.pts)) }) else p
      | _ => p }

/-- Logical time after a card has completed: what waited for it follows its steps (R189, R190), and the core has used its
time. DEDUCED, log 80. -/
def Core.afterCard (c : Core) (x : Card) : Core :=
  let late (k : Card) : Card := if decide (x.seq < k.seq) && cardConflict x k then { k with pts := later k.pts x.pts } else k
  { c with
    past := if (List.range 3).any fun i => (x.fp i).used && (x.fp i).glb then x :: c.past else c.past
    kpts := later c.kpts x.pts, mxRing := c.mxRing.map late, cpRing := c.cpRing.map late
    ctxs := c.ctxs.map fun p => if p.2.wait == .card then (p.1, { p.2 with pts := later p.2.pts x.pts }) else p }

/-- A card completes: its entry takes the result, and it leaves its ring (R191, R202, R211). -/
def State.completeCard (s : State) (core : Nat) (c : Card) (cause : BitVec 8) (tval : Word) (pqfull : Bool) : State :=
  (s.updCoreAt core fun co =>
    let f := { co.fut c.slot with
      complete := true, cancelled := c.cancelled && cause == 0, narrow := c.narrow, pqfull := pqfull, cause := cause, tval := tval, pts := c.pts }
    let co := (co.setRing c.eng ((co.ring c.eng).filter fun k => k.seq != c.seq)).afterCard c
    let co := if !c.eng && c.began then { co with mxnarrow := c.narrow } else co
    co.complete c.slot f).count core 14 1

/-! Posting (R184). -/

/-- The record and the length table of a card, read in the same step; the fault of the record where there is one. -/
def State.readRecord (s : State) (c : Card) (acc : Acc) : Run (Card × Option Trap × State) :=
  match s.stage1 s.cur .read c.recAddr with
  | some e => .ok (c, some e, s)
  | none => do
    let s ← s.poolReady [(false, c.recAddr, 32)]
    let (bs, s) ← s.poolReads [(c.recAddr, 32)]
    let c := { c with record := BitVec.ofNat 256 (leVal (bs.headD [])) }
    let tab := c.rec'.tab
    let tab := if (s.lowBad s.cur .read tab.1 tab.2).isSome then (tab.1, 0) else tab
    let s ← s.poolReady [(false, tab.1, tab.2)]
    let (ts, s) ← s.poolReads [tab]
    let c := { c with lens := entries16 (ts.headD []) }
    .ok (c, s.cardRecord s.cur c acc, s)

/-- The fault of a card by the offences of its bytes and the outcome of its record: the first offending field where
both are offences of the format (R181), else that of the bytes. -/
def firstOffence (bad rec : Option Trap) : Option Trap :=
  match bad, rec with
  | none, e => e
  | some b, none => some b
  | some b, some e => if e.1 = Cause.CARD_FORMAT && decide (e.2.toNat < b.2.toNat) then some e else some b

/-- The fault of a card whose barrier is not declared (R210). -/
def Core.cardBar (co : Core) (c : Card) : Option Trap :=
  if c.baren && (decide (48 ≤ c.bar) || (co.limited && decide (co.barriers ≤ c.bar))) then some (Cause.DECL_BARRIER, word c.bar)
  else none

/-- The card that a post by the executing context makes of 64 bytes, for a future entry, before its record is read. -/
def State.newCard (s : State) (i : Nat) (bs : BitVec 512) : Card :=
  { bytes := bs, slot := i, poster := s.ctx, seq := s.serial, record := 0, lens := [], running := false, cursor := 0, owed := 0,
    finished := false, cancelled := false, narrow := false, began := false, fault := none, pts := 0, ext := none }

/-- post.mx and post.cp (R184). The card's clock starts at the time of its post step (R257), or of the latest access of a
context of the core to a line of its ranges (R190) and of the completed cards that it must follow (R189); the contexts'
external writes have landed. -/
def State.post (s : State) (eng : Bool) (d : BitVec 4) (a : BitVec 5) : Host.Outcome State Fault Refusal :=
  s.instr 4 [.h d, .x a] fun s => do
    let addr := s.xr a
    if addr.toNat % 64 ≠ 0 then fault Cause.MISALIGNED addr
    else if 2 ^ 32 ≤ addr.toNat then fault Cause.CARD_FORMAT addr
    else
      let (p, s) ← liftTrap (s.place s.ag .read addr.toNat 64)
      match s.core.freeEntry with
      | none => fault Cause.FUTURE_FULL 0
      | some i =>
        if ringSize eng ≤ (s.core.ring eng).length then waiting s
        else
          let s ← s.accReady true false p addr 64
          let (bs, s) ← s.ctxRead p addr 64
          let c := s.newCard i (BitVec.ofNat 512 (leVal bs))
          let bad := s.cardBad s.cur eng c
          let (c, err, s) ←
            if c.hasRec && !bad.contains 0 then do
              let (c, e, s) ← s.readRecord c (if eng then .write else .read)
              .ok (c, firstOffence (formatErr bad) e, s)
            else .ok (c, formatErr bad, s)
          let err := match err with
            | some e => some e
            | none => s.core.cardBar c
          let s := s.landCore s.cur
          let t := later s.me.pts (s.core.touchedBy c)
          let c := { c with pts := s.core.past.foldl (fun t x => if cardConflict x c then later t x.pts else t) t }
          let f : Future := { Future.zero with used := true, gen := (s.core.fut i).gen, poster := s.ctx }
          let s := { s with serial := s.serial + 1 }
          let s := (s.updCore fun co => co.setFut i f).setH d (handleOf i f)
          match err with
          | some e => goes (s.completeCard s.cur c e.1 e.2 false)
          | none => goes (s.updCore fun co => co.setRing eng (co.ring eng ++ [c]))

def execPostMx (d : BitVec 4) (a : BitVec 5) (s : State) := s.post false d a
def execPostCp (d : BitVec 4) (a : BitVec 5) (s : State) := s.post true d a

/-! Waiting (R185 to R188). -/

/-- A later step of the context follows a completion that it has observed (R191). -/
def State.follow (s : State) (t : BitVec 64) : State := s.updMe fun x => { x with pts := later x.pts t }

/-- The return of a fwait with a status. -/
def fwaitDone (s : State) (d : BitVec 5) (st tval : Word) : Run Done :=
  if d ≠ 0 then goes (s.setX d st)
  else if st.extractLsb' 0 8 ≠ 0 then .ok (.trapNext s (st.extractLsb' 0 8) tval)
  else goes s

def execFwait (d : BitVec 5) (a : BitVec 4) (s : State) :=
  s.instr 4 [.x d, .h a] fun s =>
    let h := s.hr a
    let live := s.core.liveFut h
    let free (s : State) : State := match live with
      | some (i, _) => s.updCore fun c => c.freeFut i
      | none => s
    match s.me.wait with
    | .fut g (some (st, tval, pts)) =>
      if g = h then fwaitDone ((free s).follow pts) d st tval else fault Cause.FUTURE_STALE (h.setWidth 64)
    | _ => match live with
      | none => fault Cause.FUTURE_STALE (h.setWidth 64)
      | some (_, f) =>
        if f.complete then fwaitDone ((free s).follow f.pts) d f.status f.tval else .error (.wait s (.fut h none))

def execFtest (d : BitVec 5) (a : BitVec 4) (s : State) :=
  s.instr 4 [.x d, .h a] fun s =>
    match s.core.liveFut (s.hr a) with
    | none => fault Cause.FUTURE_STALE ((s.hr a).setWidth 64)
    | some (_, f) => goes ((if f.complete then s.follow f.pts else s).setX d f.status)

/-- fcancel (R186): a queued card completes at once; a running one stops at its next unit boundary. -/
def execFcancel (a : BitVec 4) (s : State) :=
  s.instr 4 [.h a] fun s =>
    match s.core.liveFut (s.hr a) with
    | none => fault Cause.FUTURE_STALE ((s.hr a).setWidth 64)
    | some (i, _) =>
      match s.core.cards.find? fun c => c.slot == i with
      | none => goes s
      | some c =>
        if c.running then goes (s.updCard s.cur c.eng c.seq fun k => { k with cancelled := true })
        else goes (s.completeCard s.cur { c with cancelled := true } 0 0 false)

/-- fwaitany (R185). -/
def execFwaitany (d a : BitVec 5) (s : State) :=
  s.instr 4 [.x d, .x a] fun s =>
    let sel := (List.range 16).filter fun n => (s.xr a).getLsbD n
    if sel.isEmpty then goes (s.setX d 16)
    else match sel.find? fun n => s.core.limited && decide (s.core.handles ≤ n) with
      | some n => fault Cause.DECL_OTHERREG (word n)
      | none =>
        let h (n : Nat) : BitVec 16 := s.hr (BitVec.ofNat 4 n)
        match sel.find? fun n => (s.core.liveFut (h n)).isNone with
        | some n => fault Cause.FUTURE_STALE ((h n).setWidth 64)
        | none =>
          let done (n : Nat) : Option (Nat × Future) := match s.core.liveFut (h n) with
            | some (_, f) => if f.complete then some (n, f) else none
            | none => none
          match sel.findSome? done with
          | some (n, f) => goes ((s.follow f.pts).setX d (word n))
          | none => waiting s

def execFmovx (d : BitVec 5) (a : BitVec 4) (s : State) :=
  s.instr 4 [.x d, .h a] fun s => goes (s.setX d (word (s.cur % 2 ^ 14 * 2 ^ 16 + (s.hr a).toNat)))
def execXmovf (d : BitVec 4) (a : BitVec 5) (s : State) :=
  s.instr 4 [.h d, .x a] fun s =>
    let v := s.xr a
    if v.toNat / 2 ^ 16 ≠ s.cur then fault Cause.FUTURE_FOREIGN v else goes (s.setH d (v.setWidth 16))

/-- The latest completion among the entries that satisfy a test. -/
def Core.doneTs (c : Core) (p : Future → Bool) : BitVec 64 :=
  c.futs.foldl (fun t f => if f.2.used && f.2.complete && p f.2 then later t f.2.pts else t) 0

/-- fence.cards (R188). -/
def execFenceCards (s : State) :=
  s.instr 4 [] fun s =>
    if s.core.cards.any fun c => c.poster == s.ctx then waiting s
    else goes (s.follow (s.core.doneTs fun f => f.poster == s.ctx))

/-! Events of the engines. -/

/-- A core that runs: not stopped. -/
def Core.active (c : Core) : Bool := c.hstat == .running
/-- Does core `k` run? Where its holder's use has ended, nothing but the stop that follows does (R284). -/
def State.coreOn (s : State) (k : Nat) : Bool :=
  (s.coreAt k).active && !((s.coreEntry k).ended && (s.coreAt k).stop.isNone)

/-- The fault of a remote entry at the start of its card (R208, R235). -/
def State.remoteEntry (s : State) (core : Nat) (f : Fp) : Option Trap :=
  if f.used && f.remote then s.remoteBad core (f.coreOf core) f.addr f.len else none

/-- The check of a matrix card against the buffer that it uses (R197). -/
def Core.bufferBad (co : Core) (c : Card) : Option Trap :=
  let b := co.bbuf c.bsel
  if !c.eng && c.op < 2 && b.ty != 15 && (b.ty == 3) != c.int then some (Cause.CARD_FORMAT, 5) else none

/-- May the card at the head of the queue of its ring begin (R189, R201, R209)? -/
def Core.mayStart (co : Core) (c : Card) : Bool :=
  let ring := co.ring c.eng
  let running := ring.filter Card.running
  ((ring.find? fun k => !k.running).map Card.seq) == some c.seq &&
  (if c.eng then decide (running.length < 4)
   else match running with
     | [] => true
     | [k] => c.op == 2 && (decide (2 < k.op) || k.bsel != c.bsel)
     | _ => false) &&
  !(co.cards.any fun x => decide (x.seq < c.seq) && cardConflict x c)

/-- CARD_START. -/
def execCardStart (core : Nat) (eng : Bool) (id : Nat) (s : State) : Host.Outcome State Fault Refusal :=
  let co := s.coreAt core
  match (co.ring eng).find? fun c => c.seq == id with
  | none => .next s
  | some c =>
    if !s.coreOn core || c.running || !co.mayStart c then .next s
    else
      let bad := match [0, 1, 2].findSome? fun i => s.remoteEntry core (c.fp i) with
        | some e => some e
        | none => if c.hasRec && c.rec'.count == 0 then none else co.bufferBad c
      .next (s.updCard core eng id fun k => { k with running := true, fault := bad, finished := c.units == 0 })

/-- The credit of `n` landed bytes of a card, and what the card becomes (R210, R389). -/
def State.cardCredit (s : State) (core : Nat) (c : Card) (n : Nat) : Card × State :=
  if !c.baren || n = 0 then ({ c with owed := 0 }, s)
  else match s.credit core c.bar n c.pts with
    | (.made, s) => ({ c with owed := 0 }, s)
    | (.waits, s) => ({ c with owed := n }, s)
    | (.refused b, s) => ({ c with owed := 0, fault := some (Cause.BAR_BYTES_OVER, word (b * 256 + c.bar)) }, s)

/-- A card asks the host for a translation, and waits (R331). -/
def State.cardAsk (s : State) (core : Nat) (c : Card) (w : ExtWait) : State :=
  (s.setDomain w.dom { s.domainAt w.dom with atsOut := (s.domainAt w.dom).atsOut + 1 }).updCard core c.eng c.seq
    fun k => { k with ext := some w }

/-- One unit of a running card (R186, R202, R206, R209 to R211): what it does, then its credit. A unit with an access that
waits for the host has not taken place (R331). -/
def State.cardUnit (s : State) (core : Nat) (c : Card) (u : Eng Nat) (narrow : Bool) : State :=
  let units := c.units
  let close (c : Card) : Card := { c with finished := decide (units ≤ c.cursor) && c.owed == 0 }
  if c.owed ≠ 0 then
    let r := s.cardCredit core c c.owed
    r.2.updCard core c.eng c.seq fun _ => close r.1
  else
    let (r, e) := u.run (⟨s, c.pts, c.eng, c.ext, none⟩ : EngS)
    match e.ask with
    | some w => ({ s with n := e.s.n } : State).cardAsk core c w
    | none =>
    let c := { c with pts := e.pts, began := true, narrow := c.narrow || narrow, ext := none }
    match r with
    | .error t => e.s.updCard core c.eng c.seq fun _ => { c with fault := some t }
    | .ok n =>
      let r := e.s.cardCredit core { c with cursor := c.cursor + 1 } n
      r.2.updCard core c.eng c.seq fun _ => close r.1

/-- Can the card do a unit? -/
def Card.canStep (c : Card) : Bool :=
  c.running && !c.finished && !c.cancelled && c.fault.isNone && c.ext.all fun e => e.answer.isSome

/-- MATRIX_UNIT_STEP: of a card and a loadB that runs beside it, either may be next. A unit that begins under the
power alarm runs on 32 columns (R202). -/
def execMatrixUnitStep (core : Nat) (s : State) : Host.Outcome State Fault Refusal :=
  let co := s.coreAt core
  let cs := co.mxRing.filter Card.canStep
  let pick := match cs with
    | [] => none
    | [c] => some c
    | c :: d :: _ => some (if Config.freeBool s.n then c else d)
  let s := if 2 ≤ cs.length then { s with n := s.n + 1 } else s
  match pick with
  | none => .next s
  | some c =>
    if !s.coreOn core then .next s
    else
      let narrow := s.alarm
      let hidden := c.op == 2 && co.mxRing.any fun k => k.running && k.seq != c.seq
      let s := if hidden || c.owed != 0 || c.ext.isSome then s else s.count core 13 (c.mxCycles (co.bbuf c.bsel) narrow)
      .next (s.cardUnit core c (mxUnit core c) narrow)

/-- COPY_UNIT_WRITE. -/
def execCopyUnitWrite (core id : Nat) (s : State) : Host.Outcome State Fault Refusal :=
  let co := s.coreAt core
  match co.cpRing.find? fun c => c.seq == id && c.canStep with
  | none => .next s
  | some c => if s.coreOn core then .next (s.cardUnit core c (cpUnit core c) false) else .next s

/-- CARD_COMPLETE (R191, R211, R213, R268): the pod is applied before the completion can be observed. -/
def execCardComplete (core : Nat) (eng : Bool) (id : Nat) (s : State) : Host.Outcome State Fault Refusal :=
  let co := s.coreAt core
  match (co.ring eng).find? fun c => c.seq == id && c.running && (c.finished || c.cancelled || c.fault.isSome) with
  | none => .next s
  | some c =>
    if !s.coreOn core then .next s
    else match c.fault with
      | some t => .next (s.completeCard core c t.1 t.2 false)
      | none =>
        if c.cancelled then .next (s.completeCard core c 0 0 false)
        else
          if c.pod = 0 then .next (s.completeCard core c 0 0 false)
          else
            let x := co.ctxAt 0
            match s.spawnApply core ⟨c.pod, x.stacklim, x.trapvec, []⟩ true c.pts with
            | (.bad b, s) => .next (s.completeCard core c b.cause (c.pod.setWidth 64) false)
            | (.full, s) => .next (s.completeCard core c 0 0 true)
            | (_, s) => .next (s.completeCard core c 0 0 false)

/-- WRITE_BUFFER_DRAIN: the oldest entry of a bank's buffer drains (R68); the row already reads its new value. -/
def execWriteBufferDrain (core bank : Nat) (s : State) : Host.Outcome State Fault Refusal :=
  .next (if coreExists core then
      s.updCoreAt core fun c => { c with wbuf := c.wbuf.zipIdx.map fun (b, i) => if i = bank then b.drop 1 else b }
    else s)

/-- ENGINE_BANK_FORCE (R69): a cycle denied to an engine, or after 16 of them the cycle that it takes, which may
cost an instruction read one extra cycle. DESIGN CHOICE, log 59. -/
def execEngineBankForce (core : Nat) (eng : Bool) (bank : Nat) (s : State) : Host.Outcome State Fault Refusal :=
  let co := s.coreAt core
  let key := (if eng then 3 else 0) + bank % 3
  let n := Table.get 0 co.engWait key
  if !s.coreOn core || (co.ring eng).isEmpty then .next s
  else if n < 16 then .next (s.updCoreAt core fun c => { c with engWait := Table.put c.engWait key (n + 1) })
  else
    let read := Config.freeBool s.n
    let s := { s with n := s.n + 1 }.updCoreAt core fun c => { c with engWait := Table.put c.engWait key 0 }
    .next (if read then s.count core 5 1 else s)

end Sys2Proof.Machine
end

