-- ==== Sys2Proof/Machine/Pods.lean ====
section
/-! DEFINITION. The pod instructions (R218 to R225). -/

namespace Sys2Proof.Machine

/-- Waits while a register that a mask captures is being loaded (R105, R219). -/
def State.captureReady (s : State) (xm : BitVec 8) (vm : BitVec 2) (f : State → Run Done) : Run Done :=
  if ((List.range 8).any fun i => xm.getLsbD i && s.me.loading.getLsbD (bitX (20 + i))) ||
      (List.range 2).any fun j => vm.getLsbD j && s.me.loading.getLsbD (bitV (14 + j)) then waiting s
  else f s

/-- A by-reference capture: RKIND, and the bytes of REF (R216, R219). -/
structure PodRef where
  kind : Nat
  bytes : Nat
deriving DecidableEq, Repr

/-- The capture of R219 in a slot of the executing core: the handle, or none where the pod store is full. -/
def State.capture (s : State) (entry : Word) (xm : BitVec 8) (vm : BitVec 2) (r : PodRef) :
    Option (BitVec 16 × State) :=
  let c := s.core
  match c.freeSlot, c.freeRun (if vm = 0 then 1 else 3) with
  | some i, some row =>
    let p := c.slotAt i
    let cap (k : Nat) : Nat := if xm.getLsbD k then (s.xr (BitVec.ofNat 5 (20 + k))).toNat else 0
    let img := at' 0 entry.toNat + (List.range 8).foldl (fun v k => v + at' (8 + 8 * k) (cap k)) 0 + at' 72 r.bytes +
      at' 88 xm.toNat + at' 89 (vm.toNat + 4 * r.kind) + at' 90 1 + at' 92 p.gen.toNat +
      at' 94 (if vm = 0 then 0 else row + 1)
    let base := c.podBase + row
    let vrow (j : Nat) : Nat := if vm.getLsbD j then s.vr (BitVec.ofNat 5 (14 + j)) else 0
    let c := { c.setRow base img with pods := Table.put c.pods i { p with used := true, row := row } }
    let c := if vm = 0 then c else (c.setRow (base + 1) (vrow 0)).setRow (base + 2) (vrow 1)
    some (BitVec.ofNat 16 (p.gen.toNat * 64 + i), s.setCore c)
  | _, _ => none

/-- The end of a capture: C[d] takes the handle. -/
def State.captureTo (s : State) (d : BitVec 4) (b : BitVec 5) (xm : BitVec 8) (vm : BitVec 2) (r : PodRef) : Run Done :=
  match s.capture (s.xr b) xm vm r with
  | some (h, s) => goes (s.setC d h)
  | none => fault Cause.POD_STORE_FULL 0

/-- pcap cd, xs1, xmask, vmask (R219). The registers that the masks name stand in no register field, and so R43 does not
check them: DEDUCED, log 98. -/
def execPcap (d : BitVec 4) (b : BitVec 5) (xm : BitVec 8) (vm : BitVec 2) (s : State) :=
  s.instr 12 [.c d, .x b] fun s => s.captureReady xm vm fun s => s.captureTo d b xm vm ⟨0, 0⟩

/-- The reference of pcapr.rows: base row, count and the generation that the rows share. DEDUCED, log 61. -/
def State.rowsRef (s : State) (v : Word) : Run PodRef :=
  let base := v.toNat % 2 ^ 16
  let n := v.toNat / 2 ^ 16 % 2 ^ 16
  if n = 0 || v.toNat / 2 ^ 32 != 0 then fault Cause.POD_REF_INVALID v
  else
    let rows := (List.range n).map fun i => base + i
    let bad (r : Nat) : Option Trap := (s.rowCheck s.cur .read r).map fun c => (c, word (128 * r))
    match rows.findSome? bad with
    | some t => fault t.1 t.2
    | none =>
      let g := Table.get 0 s.core.rowGen base
      if rows.all fun r => Table.get 0 s.core.rowGen r == g then
        .ok ⟨1, base + 2 ^ 16 * n + 2 ^ 32 * g.toNat⟩
      else fault Cause.POD_REF_INVALID v

/-- The reference of pcapr.seg: name and version of the task's attachment. -/
def State.segRef (s : State) (v : Word) : Run PodRef :=
  match s.core.attach.find? fun t => t.name == v && !t.void with
  | some t => .ok ⟨2, v.toNat + 2 ^ 64 * t.version.toNat⟩
  | none => fault Cause.POD_REF_INVALID v

/-- pcapr.rows, pcapr.seg cd, xs1, xmask, vmask, xe (R219); of its masks log 98 holds as of those of pcap. -/
def execPcapr (g : Bool) (d : BitVec 4) (b : BitVec 5) (xm : BitVec 8) (vm : BitVec 2) (e : BitVec 5) (s : State) :=
  s.instr 12 [.c d, .x b, .x e] fun s => s.captureReady xm vm fun s => do
    let r ← if g then s.segRef (s.xr e) else s.rowsRef (s.xr e)
    s.captureTo d b xm vm r

/-- The check of an apply by the executing context. -/
def State.podChecked (s : State) (h : BitVec 16) : Run (Nat × PodSlot) :=
  match s.podCheck s.cur h with
  | .ok p => .ok p
  | .error b => fault b.cause (h.setWidth 64)

/-- pcall cs and pcall.once cs (R221). -/
def execPcall (once : Bool) (a : BitVec 4) (s : State) :=
  s.instr 4 [.c a] fun s => s.x1Ready fun s => do
    let (i, p) ← s.podChecked (s.cr a)
    let entry := word (s.core.podFld p 0 8)
    let t := (s.updCore fun c => c.land s.ctx p).setX 1 (s.nextPc 4)
    .ok (.jump (if once then t.updCore fun c => c.releasePod i else t) entry)

/-- pspawn xd, cs and pspawn.once xd, cs (R221, R222). -/
def execPspawn (once : Bool) (d : BitVec 5) (a : BitVec 4) (s : State) :=
  s.instr 4 [.x d, .c a] fun s =>
    let h := s.cr a
    match s.spawnApply s.cur ⟨h, s.me.stacklim, s.me.trapvec, []⟩ once s.me.pts with
    | (.bad b, _) => fault b.cause (h.setWidth 64)
    | (.full, s) => goes (s.setX d 0)
    | (.queued, s) => goes (s.setX d 16)
    | (.started k, s) => goes (s.setX d (word k))

/-- The live slot of a handle of the executing core. -/
def State.podLive (s : State) (h : BitVec 16) : Run (Nat × PodSlot) :=
  match s.core.livePod h with
  | some p => .ok p
  | none => fault Cause.POD_STALE (h.setWidth 64)

/-- The record of a pod message (R225). -/
def Core.podRecord (c : Core) (p : PodSlot) : List Word :=
  let xm := c.podXmask p
  let vals := ((List.range 8).filter fun i => xm / 2 ^ i % 2 == 1).map fun i => word (c.podFld p (8 + 8 * i) 8)
  word (c.podFld p 0 8) :: ((vals ++ List.replicate 6 0).take 6 ++
    [word (2 ^ 17 + 2 ^ 18 * xm + c.flags.toNat % 256)])

/-- Pod messages on their way to a core. DESIGN CHOICE, log 62. -/
def State.transit (s : State) (k : Nat) : Nat := s.barq.countP fun p => p.1 == k && match p.2 with
  | .inbox _ _ => true
  | _ => false

/-- psend xd, cs, xs2 (R225): the record is delivered by a step of its own; the room it takes counts from the
send. -/
def execPsend (d : BitVec 5) (a : BitVec 4) (t : BitVec 5) (s : State) :=
  s.instr 4 [.x d, .c a, .x t] fun s => do
    let h := s.cr a
    let (_, p) ← s.podLive h
    let c := s.core
    let caps := (List.range 8).countP fun i => c.podXmask p / 2 ^ i % 2 == 1
    if c.podVmask p ≠ 0 || c.podRkind p != 0 || decide (6 < caps) then fault Cause.POD_NOT_PORTABLE (h.setWidth 64)
    else
      let v := s.xr t
      let k := v.toNat
      if !coreExists k || s.holderOf k != s.holderOf s.cur || !(s.coreAt k).installed then fault Cause.POD_TARGET v
      else if 4 ≤ (s.coreAt k).inbox.length + s.transit k || (s.coreAt k).hstat != .running then goes (s.setX d 0)
      else if maxFlits ≤ s.outbound s.cur then waiting s
      else
        let m : Msg := { kind := true, words := c.podRecord p, gang := 0, pts := s.me.pts }
        goes (({ s with barq := s.barq ++ [(k, Packet.inbox s.cur m)] }).setX d 1)

/-- pdup cd, cs (R223). -/
def execPdup (d a : BitVec 4) (s : State) :=
  s.instr 4 [.c d, .c a] fun s => do
    let h := s.cr a
    let (_, p) ← s.podLive h
    if s.core.podCount p = 255 then fault Cause.POD_REFCOUNT (h.setWidth 64)
    else goes ((s.updCore fun c => c.podSet p 90 1 (c.podCount p + 1)).setC d h)

/-- prel cs (R223). -/
def execPrel (a : BitVec 4) (s : State) :=
  s.instr 4 [.c a] fun s => do
    let (i, _) ← s.podLive (s.cr a)
    goes (s.updCore fun c => c.releasePod i)

/-- pget xd, cs (R223). -/
def execPget (d : BitVec 5) (a : BitVec 4) (s : State) :=
  s.instr 4 [.x d, .c a] fun s => goes (s.setX d ((s.cr a).setWidth 64))

/-- pexport xd, cs (R224). -/
def execPexport (d : BitVec 5) (a : BitVec 4) (s : State) :=
  s.instr 4 [.x d, .c a] fun s => do
    let h := s.cr a
    let (_, p) ← s.podLive h
    let c := s.core
    let token := word (s.cur * 2 ^ 16 + h.toNat)
    if c.podExported p then goes (s.setX d token)
    else if c.podCount p = 255 then fault Cause.POD_REFCOUNT (h.setWidth 64)
    else goes ((s.updCore fun c =>
      (c.podSet p 90 1 (c.podCount p + 1)).podSet p 89 1 (c.podKinds p + 16)).setX d token)

/-- pimport cd, xs1 (R224). -/
def execPimport (d : BitVec 4) (a : BitVec 5) (s : State) :=
  s.instr 4 [.c d, .x a] fun s => do
    let v := s.xr a
    if v.toNat / 2 ^ 16 ≠ s.cur then fault Cause.POD_FOREIGN v
    else
      let h := v.setWidth 16
      let (_, p) ← s.podLive h
      if s.core.podExported p then goes (s.setC d h) else fault Cause.POD_STALE (h.setWidth 64)

end Sys2Proof.Machine
end

