-- ==== Sys2Proof/Machine/Segments.lean ====
section
/-! DEFINITION. The segment instructions (R238 to R243). -/

namespace Sys2Proof.Machine

/-- The step of the executing context on an entry (R236, R249): it follows the entry's last step, and the entry's
next step follows it. -/
def State.segStep (s : State) (g : Seg) (t : BitVec 64) : BitVec 64 × State :=
  let t := later (later s.me.pts t) g.ts
  (t, s.updMe fun x => { x with pts := t })

/-- The home of a segment of `n` rows translated, row by row (R239, R240). -/
def State.homePlaces (s : State) (acc : Acc) (home : Nat) : List Nat → Run (List Place × State)
  | [] => .ok ([], s)
  | i :: is => do
    let (p, s) ← liftTrap (s.translate s.ag acc (home + 128 * i))
    let (ps, s) ← s.homePlaces acc home is
    .ok (p :: ps, s)

/-- Is the place in a format page? -/
def Place.formatted : Place → Bool
  | .fmt _ _ _ => true
  | _ => false

/-- Entries in the directory of a die (R231). -/
def State.dirCount (s : State) (die : Nat) : Nat := s.segs.countP fun g => dieOf g.core == die

/-- A generation bump of rows of the executing core, as a step of the executing context (R259). -/
def State.bumpOwn (s : State) (lo hi : Nat) : State :=
  let r := s.stampRows s.cur (fun i => lo ≤ i && i < hi) (s.joinWalks s.me.pts)
  (r.2.updMe fun x => { x with pts := r.1 }).updCore fun c => c.bumpRows lo hi

/-- seg.make xd, xs1, xs2, xe, count, class (R239). -/
def execSegMake (cls : BitVec 2) (cnt : BitVec 11) (d b c e : BitVec 5) (s : State) :=
  s.instr 12 ([.x d, .x b, .x c] ++ if cls = 3 then [.x e] else []) fun s => do
    let name := s.xr b
    let home := s.xr c
    let n := cnt.toNat
    let dom := s.core.domain.toNat
    if name = 0 || n = 0 || decide (1504 < n) || home.toNat % 128 != 0 || decide (home.toNat < 2 ^ 32) then
      fault Cause.SEG_ARG name
    else if cls = 3 && decide ((s.xr e).toNat ≤ s.now) then fault Cause.SEG_ARG (s.xr e)
    else
      let (ps, s) ← s.homePlaces .write home.toNat (List.range n)
      if ps.any Place.formatted then fault Cause.SEG_ARG home
      else if (s.liveSeg dom name).isSome then fault Cause.SEG_NAME_TAKEN name
      else if s.core.segsDecl ≤ s.core.attach.length then fault Cause.SEG_LIMIT name
      else if 8192 ≤ s.dirCount (dieOf s.cur) then fault Cause.SEG_DIR_FULL name
      else match s.findRows s.cur s.core.rowsDecl n s.core.rowsS with
        | none => fault Cause.SEG_NO_ROOM name
        | some base =>
          let g : Seg :=
            { no := s.serial, name := name, dom := dom, core := s.cur, base := base, count := n, ver := 0, st := .making, home := home,
              cls := cls.toNat, term := if cls = 3 then s.xr e else 0, ro := 0, wr := true, dirty := true, evp := false,
              drp := false, maker := some s.core.taskNo,
              launch := if cls.toNat ≤ 1 then (s.taskLaunch s.cur).map (fun l => l.2.seq) else none, ts := s.me.pts }
          let t : Attach := { name := name, rw := true, version := 0, void := false, base := base, count := n, seg := some s.serial }
          let s := (s.nameStep dom name).bumpOwn base (base + n)
          let s := s.updCore fun c => { c with attach := insertAttach t c.attach }
          goes (({ s with segs := s.segs ++ [{ g with ts := s.me.pts }], serial := s.serial + 1 }).setX d (word (128 * base)))

/-- One row of the home image, read by the executing context: the host or a peer may refuse it, and of the host window the
log holds the data (R240, R369, R380, R387). -/
def State.homeRow (s : State) (p : Place) (a : Nat) : Except (Trap × State) (List Byte × State) :=
  match s.extAnswer false p a with
  | (some t, s) => .error (t, s)
  | (none, s) => match s.readAt s.ag p a 128 s.me.pts with
    | .error t => .error (t, s)
    | .ok (bs, pts, s) =>
      let s := s.updMe fun x => { x with pts := pts }
      if p.host then
        match s.hostLog s.cur s.ctx 128 (word a) bs with
        | .error t => .error (t, s)
        | .ok r => .ok r
      else .ok (bs, s)

/-- The rows of a reload, read from the home image, as steps of the executing context (R240); the fault that ends it
early, where there is one. -/
def State.reloadRows (s : State) (base home : Nat) : List (Nat × Place) → Option Trap × State
  | [] => (none, s)
  | (i, p) :: ps => match s.homeRow p (home + 128 * i) with
    | .error (t, s) => (some t, s)
    | .ok (bs, s) =>
      let r := s.stampWrite s.ag (rowKey s.cur (base + i)) s.me.pts
      ((r.2.updMe fun x => { x with pts := r.1 }).updCore fun c => { c with
        pool := c.pool.putBytes (128 * (base + i)) bs, written := setBit c.written (base + i) }).reloadRows base home ps

/-- The reload of an evicted entry on the executing core (R233, R240): the entry that it becomes, resident also where a
fault ends the reload once it has begun. DEDUCED, log 63. -/
def State.reload (s : State) (g : Seg) : Run (Seg × Option Trap × State) :=
  match s.findRows s.cur s.core.rowsDecl g.count s.core.rowsS with
  | none => fault Cause.SEG_NO_ROOM g.name
  | some base => do
    let (ps, s) ← (s.segStep g 0).2.homePlaces .read g.home.toNat (List.range g.count)
    let s := if ps.any Place.external then s.landCtx s.cur s.ctx else s
    let (bad, s) := (s.bumpOwn base (base + g.count)).reloadRows base g.home.toNat (ps.zipIdx.map fun p => (p.2, p.1))
    let h := { g with ts := s.me.pts, st := .resident, core := s.cur, base := base, ver := g.ver + 1, dirty := false, evp := false }
    .ok (h, bad, s.updSeg g h)

/-- The last rows of the table of R240: the attachment itself. A fault after a reload keeps the reload, and any other
leaves no effect (R334). -/
def State.attachTo (s : State) (reloaded : Bool) (g : Seg) (rw : Bool) (d : BitVec 5) : Run Done :=
  let bad (cause : BitVec 8) : Run Done := if reloaded then .ok (.trapHere s cause g.name) else fault cause g.name
  if (if rw then g.held else g.wr) then bad Cause.SEG_EXCLUSIVE
  else if s.core.segsDecl ≤ s.core.attach.length then bad Cause.SEG_LIMIT
  else
    let (t, s) := s.segStep g 0
    let h := { g with wr := g.wr || rw, ro := if rw then g.ro else g.ro + 1, ts := t }
    let a : Attach := { name := g.name, rw := rw, version := g.ver, void := false, base := g.base, count := g.count, seg := some g.no }
    let s := (s.updSeg g h).updCore fun c => { c with attach := insertAttach a c.attach }
    goes (s.setX d (word (128 * g.base)))

/-- seg.attach and seg.attach.load (R240); bit 0 of `m` is .rw, bit 1 .load. A void attachment of the name is first
removed, as seg.detach would. -/
def execSegAttach (m : BitVec 2) (d b : BitVec 5) (s : State) :=
  s.instr 4 [.x d, .x b] fun s => do
    let name := s.xr b
    let rw := m.getLsbD 0
    let load := m.getLsbD 1
    match s.core.attach.find? fun t => t.name == name && !t.void with
    | some t => if t.rw == rw then goes (s.setX d (word (128 * t.base))) else fault Cause.SEG_EXCLUSIVE name
    | none =>
      let s := (s.core.attach.filter fun t => t.name == name).foldl (fun s t => s.detach s.cur t) s
      match s.liveSeg s.core.domain.toNat name with
      | none => fault Cause.SEG_UNKNOWN name
      | some g =>
        match g.st with
        | .making => fault Cause.SEG_UNPUBLISHED name
        | .evicted =>
          if load then do
            let (h, bad, s) ← s.reload g
            match bad with
            | some t => .ok (.trapHere s t.1 t.2)
            | none => s.attachTo true h rw d
          else fault Cause.SEG_ATTACH_MISS name
        | _ =>
          if g.core = s.cur then s.attachTo false g rw d
          else if load then fault Cause.SEG_ELSEWHERE (word g.core)
          else fault Cause.SEG_ATTACH_MISS name

/-- Does a card of the core touch the rows of an attachment, or has a context begun a shape-form instruction (R236)? The
whole instruction counts as access to the rows. -/
def Core.segBusy (c : Core) (t : Attach) : Bool :=
  c.cardStall true (128 * t.base) (128 * t.count) || c.ctxs.any fun p => p.2.shape.isSome

/-- A fault whose TVAL no rule gives: a free value. DESIGN CHOICE, log 9. -/
def State.faultFree {α : Type} (s : State) (cause : BitVec 8) : Run α := fault cause s.free.1

/-- seg.detach xs1 (R241): of two attachments of one name, one of them to an entry that is DROPPED, the first listed. DEDUCED,
log 63. -/
def execSegDetach (b : BitVec 5) (s : State) :=
  s.instr 4 [.x b] fun s =>
    match s.core.attach.find? fun t => t.name == s.xr b with
    | none => s.faultFree Cause.SEG_STATE
    | some t =>
      if !t.void && t.rw && s.core.segBusy t then waiting s
      else
        let s := match s.attachedSeg t with
          | some g => (s.segStep g (if t.rw then s.core.kptsNow else 0)).2
          | none => s
        goes (s.detach s.cur t)

/-- seg.publish xd, xs1 (R236, R241). An entry that is DROPPED already is published no more: the attachment turns read-only,
and the version stays. DEDUCED, log 63. -/
def execSegPublish (d b : BitVec 5) (s : State) :=
  s.instr 4 [.x d, .x b] fun s =>
    match s.core.attach.find? fun t => t.name == s.xr b && !t.void && t.rw with
    | none => s.faultFree Cause.SEG_STATE
    | some t =>
      if s.core.segBusy t then waiting s
      else match s.attachedSeg t with
        | none => s.faultFree Cause.SEG_STATE
        | some g =>
          let (pts, s) := s.segStep g s.core.kptsNow
          let h := { if g.live then g.publish else { g with wr := false, ro := g.ro + 1 } with ts := pts }
          let s := s.updCore fun c => { c with attach := c.attach.map fun u =>
            if u == t then { u with rw := false, version := h.ver } else u }
          goes ((s.updSeg g h).setX d (h.ver.setWidth 64))

/-- seg.evict xd, xs1 (R237, R242). -/
def execSegEvict (d b : BitVec 5) (s : State) :=
  s.instr 4 [.x d, .x b] fun s =>
    match s.liveSeg s.core.domain.toNat (s.xr b) with
    | none => goes ((s.nameStep s.core.domain.toNat (s.xr b)).setX d 4)
    | some g =>
      let (t, s) := s.segStep g 0
      let h := { g with ts := t }
      let s := s.updSeg g h
      if h.st = .making then goes (s.setX d 3)
      else if h.st = .evicted then goes (s.setX d 2)
      else if h.held then goes ((s.updSeg h { h with evp := true }).setX d 1)
      else match s.evictSeg h with
        | .ok s =>
          let ts := s.segs.foldl (fun ts x => if x.same h then later ts x.ts else ts) s.me.pts
          goes ((s.updMe fun x => { x with pts := ts }).setX d 0)
        | .error _ => goes (s.setX d 5)

/-- seg.drop xd, xs1 (R232, R242). -/
def execSegDrop (d b : BitVec 5) (s : State) :=
  s.instr 4 [.x d, .x b] fun s =>
    match s.liveSeg s.core.domain.toNat (s.xr b) with
    | none => goes ((s.nameStep s.core.domain.toNat (s.xr b)).setX d 4)
    | some g =>
      let (t, s) := s.segStep g 0
      let h := { g with ts := t }
      goes (((s.updSeg g h).dropSeg h).setX d (if h.held then 1 else 0))

/-- The word of seg.query (R243). -/
def Seg.query (g : Seg) : Word :=
  let st := match g.st with
    | .making => 1 | .resident => 2 | .evicted => 3 | .dropped => 0
  let here := g.st == .making || g.st == .resident
  word (g.ver.toNat * 2 ^ 32 + (if here then g.core % 2 ^ 14 * 2 ^ 18 + g.base % 2 ^ 11 * 2 ^ 7 else 0) + st * 16 + g.cls % 4 * 4 +
    (if g.wr then 2 else 0) + if g.held then 1 else 0)

/-- seg.query xd, xs1 (R243). -/
def execSegQuery (d b : BitVec 5) (s : State) :=
  s.instr 4 [.x d, .x b] fun s =>
    match s.liveSeg s.core.domain.toNat (s.xr b) with
    | none => goes ((s.nameStep s.core.domain.toNat (s.xr b)).setX d 0)
    | some g =>
      let (t, s) := s.segStep g 0
      goes ((s.updSeg g { g with ts := t }).setX d g.query)

end Sys2Proof.Machine
end

