-- ==== Sys2Proof/Machine/Task.lean ====
section
/-! DEFINITION. The task group: ibx.take and the install (R16, R94, R172, R217, R226, R234), task.end (R173),
task.spawn (R174), range units (R175, R176) and gangs (R22 to R24, R177). -/

namespace Sys2Proof.Machine

/-! The install. -/

/-- What an install takes from the launch slot of its record (R14). -/
structure InstallBlock where
  domain : Nat
  decla : Word
  declb : Word
  prof : BitVec 16
  scratch : Nat
  scratchLen : Nat
deriving DecidableEq, Repr

/-- The install block of a slot. -/
def State.block (s : State) (slot : Nat) : InstallBlock :=
  match s.slots.find? fun p => p.1 == slot with
  | some (_, l) => ⟨l.domain, l.decla, l.declb, l.prof, l.scratch.toNat, l.scratchLen⟩
  | none => ⟨0, 0, 0, 0, 0, 0⟩

/-- The bytes of some parts of lines, each translated and read by the executing context in its turn; the data of the host
window is what the log of the launch in a slot holds (R387, R388). -/
def State.partsRead (s : State) (slot : Nat) (g : Ag) : List (Nat × Nat) → Except Trap (List Byte × State)
  | [] => .ok ([], s)
  | (a, n) :: ps =>
    match s.place g .read a n with
    | .error t => .error t
    | .ok (p, s) => match s.extAnswer false p a with
      | (some t, _) => .error t
      | (none, s) => match s.readAt g p a n s.me.pts with
      | .error t => .error t
      | .ok (bs, pts, s) =>
        let s := s.updMe fun x => { x with pts := pts }
        match if p.host then s.hostLogFor (fun s => s.slotLaunch slot) s.cur s.ctx n (word a) bs else .ok (bs, s) with
        | .error t => .error t
        | .ok (bs, s) => match s.partsRead slot g ps with
          | .error t => .error t
          | .ok (rest, s) => .ok (bs ++ rest, s)

/-- The read of a .scratch image, one row after another, each by the lines that it lies in (R94). DEDUCED, log 64. -/
def State.imageRead (s : State) (slot : Nat) (g : Ag) (a n : Nat) : List Nat → Except Trap (List (List Byte) × State)
  | [] => .ok ([], s)
  | i :: is =>
    let k := min 128 (n - 128 * i)
    match s.partsRead slot g (lineParts (k + 1) (a + 128 * i) k) with
    | .error t => .error t
    | .ok (bs, s) => match s.imageRead slot g a n is with
      | .error t => .error t
      | .ok (rest, s) => .ok (bs :: rest, s)

/-- The images of the EXPORTED pods that a new partition word keeps: pod-store row and contents (R217). -/
def Core.keptPods (c : Core) (partw : Word) : List (Nat × Nat) :=
  let rows := Core.podRows { c with partw := partw }
  (c.pods.filter fun q => q.2.used && c.podExported q.2 && decide (q.2.row + c.podLen q.2 ≤ rows)).flatMap fun q =>
    (List.range (c.podLen q.2)).map fun i => (q.2.row + i, c.row (c.podBase + q.2.row + i))

/-- Every slot freed that an install does not keep (R217). -/
def Core.installPods (c : Core) (partw : Word) : Core :=
  let rows := Core.podRows { c with partw := partw }
  (c.pods.filter fun q => q.2.used && !(c.podExported q.2 && decide (q.2.row + c.podLen q.2 ≤ rows))).foldl
    (fun c q => c.freePod q.1) c

/-- The segments in the way of an install are evicted or dropped (R234); one that is DROPPED already but still held goes too.
DEDUCED, log 107. -/
def State.installSegs (s : State) (k : Nat) (partw decla : Word) : State :=
  let c := { s.coreAt k with partw := partw, decla := decla }
  (s.segs.filter fun g => g.core == k && g.inPool && (decide (c.rowsS < g.base + g.count) || decide (g.base < c.rowsDecl))).foldl
    State.evictOrDrop s

/-- x2 and STACKLIM of the declarations (R44). -/
def Core.stackTop (c : Core) : Word := word (128 * c.rowsDecl)
def Core.stackLim (c : Core) : Word := word (128 * (c.rowsDecl - c.stackRows))

/-- The install of a KIND 0 record on the executing core, whose image rows are `img` (R16); `gang` is its gang's number.
Rows of the image, and of the pods that it keeps, that a ROWS entry of another holder names are not written (R365). DEDUCED,
log 84. -/
def State.install (s : State) (w : Nat → Word) (gang : Nat) (b : InstallBlock) (loopRet : Word) (img : List (List Byte)) : State :=
  let k := s.cur
  let no := s.serial
  let s := { s with serial := no + 1 }
  let pods := s.core.keptPods (w 6)
  let s := (s.installSegs k (w 6) b.decla).updCore fun c => c.installPods (w 6)
  let s := s.bumpTask k
  let foreign := (List.range img.length).filter (s.rowForeign k)
  let pods := pods.filter fun r => !s.rowForeign k (Core.podBase { Core.empty with partw := w 6 } + r.1)
  s.updCore fun c =>
    let c := { c with
      partw := w 6, wid := w 1, decla := b.decla, declb := b.declb, domain := BitVec.ofNat 12 b.domain, prof := b.prof,
      deadline := w 3, flags := w 7, ctarget := w 4, task := true, podMsg := false, installed := true, loopRet := loopRet, taskNo := no, gangId := gang,
      mxsat := false, tmax := 0, bars := [], bbufs := [], jcount := 0, amask := 0, gleft := false, gformed := false,
      gattached := false, gfollowed := false }
    let c := pods.foldl (fun c r => { c with
      pool := c.pool.writeLE (128 * (c.podBase + r.1)) 128 r.2, written := setBit c.written (c.podBase + r.1) }) c
    let c := img.zipIdx.foldl (fun (c : Core) r =>
      if foreign.contains r.2 then c
      else { c with pool := c.pool.putBytes (128 * r.2) r.1, written := setBit c.written r.2 }) c
    let x0 : Ctx := { (c.ctxAt 0).cleared with st := .live, pc := w 0, stacklim := c.stackLim }
    let x0 := (((x0.setX 2 c.stackTop).setX 4 (w 2)).setX 5 (w 1)).setX 6 (w 3)
    { c with ctxs := Table.put (c.ctxs.map fun p => (p.1, p.2.cleared)) 0 x0 }

/-- A pod message (R226): the values land, and nothing is installed; the sticky flags stand (R40). DEDUCED, log 94. -/
def State.startMessage (s : State) (w : Nat → Word) (loopRet : Word) : State :=
  { s with serial := s.serial + 1 }.updCore fun c =>
    let xm := (w 7).toNat / 2 ^ 18 % 256
    let x0 : Ctx := { (c.ctxAt 0).fresh with st := .live, pc := w 0, stacklim := c.stackLim }
    let sel := (List.range 8).filter fun i => xm / 2 ^ i % 2 == 1
    let x0 := sel.zipIdx.foldl (fun (x : Ctx) (i, j) => x.setX (BitVec.ofNat 5 (20 + i)) (w (1 + j))) (x0.setX 2 c.stackTop)
    let c := c.clearRows (c.ctxBase 0) 32
    { c with ctxs := Table.put c.ctxs 0 x0, podMsg := true, loopRet := loopRet, flags := w 7, deadline := 0, taskNo := s.serial }

/-- ibx.take (R172). -/
def execIbxTake (s : State) :=
  s.instr 4 [] fun s =>
    if s.ctx ≠ 0 || s.core.task || s.core.podMsg then fault Cause.CTX_ROLE (word s.ctx)
    else match s.core.inbox with
      | [] => .error (.wait s .inbox)
      | m :: q => do
        let w (i : Nat) : Word := m.words.getD i 0
        let s := (s.updCore fun c => { c with inbox := q }).follow m.pts
        if m.kind then .ok (.own (s.startMessage w (s.nextPc 4)))
        else
          let slot := (w 4).toNat % 256
          let b := s.block slot
          let (img, s) ← liftTrap (s.imageRead slot (Ag.ofCore s.cur s.cur b.domain) b.scratch b.scratchLen
            (List.range ((b.scratchLen + 127) / 128)))
          .ok (.own (s.install w m.gang b (s.nextPc 4) img))

/-! The end of a task. -/

/-- FLAGS.ABORT of the core's task (R15). -/
def Core.abortSet (c : Core) : Bool := c.flags.getLsbD 15
/-- Is the deadline tick of the core's task reached at a tick (R26)? -/
def State.pastDeadlineAt (s : State) (k tick : Nat) : Bool :=
  let c := s.coreAt k
  c.task && c.deadline != 0 && decide (c.deadline.toNat ≤ tick)
/-- Has it been reached? -/
def State.pastDeadline (s : State) (k : Nat) : Bool := s.pastDeadlineAt k s.now

/-- Does task.end wait: a helper that is not ENDED, a card that has not completed, an apply of the task that has not started
(R173, R222)? -/
def Core.endWaits (c : Core) : Bool :=
  (c.liveCtxs.any fun j => j != 0) || !c.cards.isEmpty || c.applyQ.any QApply.own

/-- task.end xs1 and task.end.f xs1 (R173). -/
def execTaskEnd (f : Bool) (a : BitVec 5) (s : State) :=
  s.instr 4 [.x a] fun s =>
    let c := s.core
    if s.ctx ≠ 0 || !(c.task || c.podMsg) then fault Cause.CTX_ROLE (word s.ctx)
    else if s.pastDeadline s.cur && c.abortSet then .ok (.own (s.deadlineAbort s.cur))
    else if c.endWaits then waiting s
    else
      let late := !f && s.pastDeadline s.cur
      let flags := (s.xr a &&& ~~~(0xFF : Word)) ||| (if f then 8 else 0) ||| if late then 1 else 0
      .ok (.own ((s.commit s.cur (if f then .faulted else .completed) flags).endTask s.cur false false))

/-! task.spawn (R174). -/

/-- The spawn queue of a die. -/
def State.spawnQ (s : State) (die : Nat) : List Spawn := Table.get [] s.spawns die

/-- task.spawn xd of the record at `k(xb)`; where replay makes it wait for a full queue, it has read nothing yet. DEDUCED,
log 65. -/
def State.spawnAt (s : State) (len : Nat) (d b : BitVec 5) (k : Word) : Host.Outcome State Fault Refusal :=
  s.instr len [.x d, .x b] fun s => do
    let before := s
    let a := s.xr b + k
    let (p, s) ← s.accCheck .read false a 128 128
    let s ← s.accReady true false p a 128
    let (bs, s) ← s.ctxRead p a 128
    let die := dieOf s.cur
    let room := decide ((s.spawnQ die).length < 16)
    let (v, t) ← liftTrap (s.logged s.cur s.ctx 5 a (if room then 1 else 0))
    if v ≠ 0 && !room then waiting { before with n := t.n }
    else
      let r : Spawn := { bytes := bs, prio := t.core.flags.toNat % 256, domain := t.core.domain.toNat, core := t.cur, pts := t.me.pts }
      let t := if v = 0 then t else { t with spawns := Table.put t.spawns die (t.spawnQ die ++ [r]) }
      goes (t.setX d (word v))

def execTaskSpawn (d b : BitVec 5) (s : State) := s.spawnAt 4 d b 0
def execTaskSpawnExt (d b : BitVec 5) (i : BitVec 32) (s : State) := s.spawnAt 12 d b (sx i)
def execTaskSpawnLit (d b : BitVec 5) (l : BitVec 64) (s : State) := s.spawnAt 20 d b l

/-! Range units. -/

/-- The launch of the core's task, by arrival number. -/
def State.launchSeq (s : State) (k : Nat) : Option Nat := (s.taskLaunch k).map fun l => l.2.seq
def State.rangeAt (s : State) (i : Nat) : Range := Table.get Range.zero s.ranges i

/-- rng.open xd, xs1, xs2, xe (R175); which free unit of the die it takes is a free choice, log 3. -/
def execRngOpen (d b c e : BitVec 5) (s : State) :=
  s.instr 12 [.x d, .x b, .x c, .x e] fun s =>
    let t := s.xr b
    let m := s.xr c
    let p := s.xr e
    if 2 ^ 40 ≤ t.toNat then fault Cause.RNG_INVALID t
    else if 2 ^ 24 ≤ m.toNat then fault Cause.RNG_INVALID m
    else if p = 0 || decide (65535 < p.toNat) then fault Cause.RNG_INVALID p
    else
      let die := dieOf s.cur
      let free := (List.range 64).filter fun u => !(s.rangeAt (die * 64 + u)).used
      if free.isEmpty then goes (s.setX d 0)
      else
        let (v, s) := s.free
        let u := free.getD (v.toNat % free.length) 0
        let g := (s.rangeAt (die * 64 + u)).gen + 1
        let r : Range := { used := true, total := t.toNat, min := max m.toNat 1, parts := p.toNat, rem := t.toNat, gen := g, launch := s.launchSeq s.cur }
        let s := { s with ranges := Table.put s.ranges (die * 64 + u) r }
        goes (s.setX d (word (g.toNat * 2 ^ 16 + die * 2 ^ 8 + 2 ^ 7 + u)))

/-- The unit of a handle, where a request of the executing task may reach it (R176). DESIGN CHOICE, log 66. -/
def State.rangeOf (s : State) (h : Word) : Option (Nat × Range) :=
  let i := h.toNat / 2 ^ 8 % 16 * 64 + h.toNat % 64
  let r := s.rangeAt i
  if h.getLsbD 7 && r.used && r.gen.toNat == h.toNat / 2 ^ 16 % 2 ^ 16 && r.launch == s.launchSeq s.cur then some (i, r)
  else none

/-- The chunk of a take (R25): start and count. -/
def Range.chunk (r : Range) : Nat × Nat :=
  (r.total - r.rem, Nat.min (Nat.min (Nat.max r.min ((r.rem + 2 * r.parts - 1) / (2 * r.parts))) r.rem) (2 ^ 24 - 1))

/-- rng.take xd, xs1 (R25, R176). -/
def execRngTake (d a : BitVec 5) (s : State) :=
  s.instr 4 [.x d, .x a] fun s =>
    match s.rangeOf (s.xr a) with
    | none => fault Cause.RNG_INVALID (s.xr a)
    | some (i, r) => do
      let (start, n) := r.chunk
      let (v, s) ← liftTrap (s.logged s.cur s.ctx 3 0 (start * 2 ^ 24 + n))
      goes (({ s with ranges := Table.put s.ranges i { r with rem := r.rem - n } }).setX d (word v))

/-- rng.close xs1 (R176). -/
def execRngClose (a : BitVec 5) (s : State) :=
  s.instr 4 [.x a] fun s =>
    match s.rangeOf (s.xr a) with
    | none => fault Cause.RNG_INVALID (s.xr a)
    | some (i, r) => goes { s with ranges := Table.put s.ranges i { r with used := false, gen := r.gen + 1 } }

/-! Gangs. -/

/-- The followers of the gang that core `k` leads. -/
def State.followers (s : State) (k : Nat) : List Nat := (s.gang k).filter fun m => m != k

/-- The GANG_ROLE fault of the executing context (R177). -/
def State.gangRole {α : Type} (s : State) : Run α := fault Cause.GANG_ROLE (word (s.core.gpos * 16 + s.ctx))

/-- A gang instruction: context 0 only; in a core of no gang, or one that has left, it retires with no effect.
DEDUCED, log 50. -/
def State.gangInstr (s : State) (body : State → Run Done) : Host.Outcome State Fault Refusal :=
  s.instr 4 [] fun s =>
    if s.ctx ≠ 0 then s.gangRole
    else if s.core.gsize = 0 || s.core.gleft then goes s
    else body s

/-- A follower attaches and goes on with the instruction after the leader's (R22). -/
def State.attachMember (s : State) (m : Nat) : State :=
  let pc := s.nextPc 4
  let s := s.updCoreAt m fun c => ({ c with gattached := true }).setCtx 0 { c.ctxAt 0 with pc := pc, wait := .none }
  s.updCore fun c => { c with amask := setBit c.amask (m - s.cur) }

/-- gang.lead (R177). -/
def execGangLead (s : State) :=
  s.gangInstr fun s =>
    let fs := s.followers s.cur
    if s.core.gpos ≠ 0 then s.gangRole
    else if s.core.gformed then goes s
    else if (s.gangPlaces s.cur).all fun m => m == s.cur || (s.gangMate s.cur m && (s.coreAt m).gfollowed) then
      let s := fs.foldl State.attachMember s
      let s := (s.cur :: fs).foldl (fun s m => s.updCoreAt m fun c => { c with
        gformed := true, gattached := true, gfollowed := false, jcount := 0 }) s
      goes (s.updCore fun c => { c with amask := setBit c.amask 0 })
    else waiting s

/-- gang.follow (R177). -/
def execGangFollow (s : State) :=
  s.gangInstr fun s =>
    if s.core.gpos = 0 then s.gangRole
    else if s.core.gformed then goes s
    else waiting (s.updCore fun c => { c with gfollowed := true })

/-- The join counts of the executing leader and of its attached followers rise by 1; each of them has counted. -/
def State.countJoin (s : State) : State :=
  (s.cur :: (s.followers s.cur).filter fun m => (s.coreAt m).gattached).foldl (fun s m =>
    s.updCoreAt m fun c => ({ c with jcount := c.jcount + 1 }).setCtx 0 { c.ctxAt 0 with wait := .gang }) s

/-- A detached follower that waits at the leader's count (R24). -/
def State.joinReady (s : State) (m : Nat) : Bool :=
  let c := s.coreAt m
  !c.gattached && !c.gleft && (c.ctxAt 0).wait == .gang && c.jcount == s.core.jcount

/-- gang.join and gang.join.sync (R24, R177). -/
def execGangJoin (sync : Bool) (s : State) :=
  s.gangInstr fun s =>
    let c := s.core
    if !c.gformed then goes (s.updCore fun c => { c with jcount := c.jcount + 1 })
    else if c.gpos = 0 then
      let s := if s.me.wait == .gang then s else s.countJoin
      let fs := s.followers s.cur
      if !sync || fs.all (fun m => (s.coreAt m).gleft || (s.coreAt m).gattached || s.joinReady m) then
        goes ((fs.filter s.joinReady).foldl State.attachMember s)
      else .error (.wait s .gang)
    else if c.gattached then goes s
    else
      let s := if s.me.wait == .gang then s else s.updCore fun c => { c with jcount := c.jcount + 1 }
      let l := s.coreAt (s.gangLeader s.cur)
      if s.core.jcount = l.jcount + 1 || (s.core.jcount == l.jcount && (l.ctxAt 0).wait == .gang) then .error (.wait s .gang)
      else goes s

/-- gang.leave (R23, R177). -/
def execGangLeave (s : State) :=
  s.gangInstr fun s =>
    if s.core.gpos = 0 then goes (s.detachAll s.cur true)
    else goes ((s.unmask s.cur).updCore fun c => { c with gattached := false, gleft := true })

end Sys2Proof.Machine
end

