-- ==== Sys2Proof/Machine/MapOps.lean ====
section
/-! DEFINITION. Changing the ownership map: entries split and merged (R272), the clear (R286), the start of a
synchronised stop (R339, R349), the transfers of R277, and the retirement of an OID (R291). -/

namespace Sys2Proof.Machine

/-! Entries (R272). -/

/-- What two entries of one kind must agree in to be one. -/
def Entry.terms (e : Entry) : Entry := { e with lo := 0, hi := 0, ts := 0, offer := e.offer.map fun o => { o with spans := [] } }
def Entry.sameTerms (e f : Entry) : Bool := e.terms == f.terms

/-- The entry of a resource that is held on one set of terms. -/
def State.entryFor (s : State) (r : Res) : Option Entry :=
  match s.pieces r with
  | [] => none
  | e :: es =>
    if es.all e.sameTerms then some { e with lo := r.lo, hi := r.hi, ts := es.foldl (fun t f => later t f.ts) e.ts }
    else none

/-- What is left of an entry outside the place of `e`. -/
def Entry.cut (e x : Entry) : List Entry :=
  if x.meets e.cls e.aux e.lo e.hi then
    (if x.lo < e.lo then [{ x with hi := e.lo }] else []) ++ if e.hi < x.hi then [{ x with lo := e.hi }] else []
  else [x]
/-- The order of the listed entries. -/
def Entry.before (e f : Entry) : Bool :=
  decide (e.cls < f.cls) || (e.cls == f.cls && (decide (e.aux < f.aux) || (e.aux == f.aux && decide (e.lo < f.lo))))
def insertEntry (e : Entry) : List Entry → List Entry
  | [] => [e]
  | f :: fs => if e.before f then e :: f :: fs else f :: insertEntry e fs
/-- Adjacent entries of an extent kind that agree in every field are one. -/
def mergeEntries : List Entry → List Entry
  | [] => []
  | e :: es => match mergeEntries es with
    | f :: fs =>
      if (e.cls == cMem || e.cls == cRows) && e.hi == f.lo && e.sameTerms f then
        { e with hi := f.hi, ts := later e.ts f.ts
                 offer := e.offer.map fun o => { o with spans := (o.spans ++ (f.offer.map Offer.spans).getD []).dedup } } :: fs
      else e :: f :: fs
    | [] => [e]
/-- The map with `e` in its place, what it stood in split around it. -/
def State.putEntry (s : State) (e : Entry) : State :=
  { s with entries := mergeEntries (insertEntry e (s.entries.flatMap e.cut)) }

/-- Entries of extent kinds; what the table does not list is one with its neighbours that agree with it. -/
def State.extentCount (s : State) : Nat :=
  (windows.map fun w => (mergeEntries (s.pieces ⟨cMem, 0, w.1, w.2.1⟩)).length).sum + s.entries.countP fun e => e.cls == cRows

/-- A change of the map at an entry of a class; OWN_MAP_FULL where a split finds no free entry. -/
def State.splitCheck (s : State) (nm : Word) (cls : Nat) (t : State) : Run State :=
  if (cls == cMem || cls == cRows) && decide (262144 < t.extentCount) && decide (s.extentCount < t.extentCount) then
    fault Cause.OWN_MAP_FULL nm
  else .ok t
/-- `e` put in its place. -/
def State.splitTo (s : State) (nm : Word) (e : Entry) : Run State := s.splitCheck nm e.cls (s.putEntry e)

/-- The name of an entry (R271). -/
def Entry.name (e : Entry) : Word :=
  let n := e.hi - e.lo
  if e.cls = cMem then
    if e.lo % 64 = 0 && n % 64 == 0 && decide (e.lo < 2 ^ 42) && decide (n ≤ 2 ^ 30) then
      word (2 ^ 60 + e.lo / 64 * 2 ^ 24 + (n / 64 - 1))
    else word (2 * 2 ^ 60 + e.lo / 2 ^ 21 * 2 ^ 24 + (n / 2 ^ 21 - 1))
  else if e.cls = cRows then word (3 * 2 ^ 60 + e.aux * 2 ^ 22 + e.lo * 2 ^ 11 + n)
  else if e.cls = cShared then sharedName (e.lo / 16) (e.lo % 16)
  else
    let k := if e.cls = cCore then 0 else if e.cls = cDomain then 4 else if e.cls = cQueue then 5
      else if e.cls = cBucket then 7 else if e.cls = cLink then 8 else 9
    word (k * 2 ^ 60 + e.lo)

/-- The offer on exactly the named resource (R280). -/
def State.offerAt (s : State) (r : Res) : Option (Entry × Offer) :=
  match (s.entryFor r).bind fun e => e.offer.map fun o => (e, o) with
  | some (e, o) =>
    let o' := { o with spans := [(r.lo, r.hi)] }
    if o.spans.contains (r.lo, r.hi) then some ({ e with offer := some o' }, o') else none
  | none => none
/-- Offers pending to an OID. -/
def State.pendingTo (s : State) (t : Nat) : Nat :=
  ((s.entries.filter fun e => e.offer.any fun o => o.target == t).flatMap fun e =>
    ((e.offer.map Offer.spans).getD []).map fun p => (e.cls, e.aux, p)).dedup.length

/-! Cards that touch a resource (R280, R285). -/

/-- The pages' parts that a global range reaches, by steps of the smallest page. -/
def State.glbMeets (s : State) (g : Ag) (a : Nat) (hi lo' hi' : Nat) : Bool :=
  (List.range ((hi - a / 65536 * 65536 + 65535) / 65536)).any fun i =>
    let p := max a ((a / 65536 + i) * 65536)
    let n := min hi ((a / 65536 + i + 1) * 65536) - p
    match (s.leafFor g p).leaf with
    | .error _ => false
    | .ok l =>
      let o := p - l.va
      let (x, y) := match fmtOf (Pte.fmt l.pte) with
        | some f => (Pte.pa l.pte + o / 64 * f.blockBytes, Pte.pa l.pte + ((o + n + 63) / 64) * f.blockBytes)
        | none => (Pte.pa l.pte + o, Pte.pa l.pte + o + n)
      decide (x < hi') && decide (lo' < y)

/-- Does a card of core `k` touch the resource? -/
def State.cardTouches (s : State) (k : Nat) (c : Card) (r : Res) : Bool :=
  [0, 1, 2].any fun i =>
    let f := c.fp i
    if !f.used then false
    else if r.cls = cMem then
      f.glb && s.glbMeets ⟨k, (s.coreAt k).domain.toNat, false, none⟩ f.addr (f.addr + f.len) r.lo r.hi
    else if r.cls = cRows then
      !f.glb && f.coreOf k == r.aux && decide (f.addr < 128 * r.hi) && decide (128 * r.lo < f.addr + f.len)
    else if r.cls = cCore then !f.glb && f.remote && f.coreOf k == r.lo
    else false

/-- Has some core of an OID a card that touches it? -/
def State.touching (s : State) (o : Nat) (r : Res) : Bool :=
  s.cores.any fun p => s.holderOf p.1 == o && p.2.cards.any fun c => s.cardTouches p.1 c r

/-- Cards that touch it, of the cores of some OIDs, cancelled without completion (R212, R285): the core has used their
time (R249). -/
def State.cancelTouching (s : State) (os : List Nat) (r : Res) : State :=
  { s with cores := s.cores.map fun p =>
      if os.contains (s.holderOf p.1) then
        (p.1, { p.2 with kpts := (p.2.cards.filter Card.running).foldl (fun t c => later t c.pts) p.2.kpts, mxRing := p.2.mxRing.filter fun c => !s.cardTouches p.1 c r,
                         cpRing := p.2.cpRing.filter fun c => !s.cardTouches p.1 c r })
      else p }

/-! The clear (R286). -/

/-- PC of the start of the resident loop. DESIGN CHOICE, log 12. -/
def loopStart : Word := 0

/-- A core at the start of its resident loop: no task, no helper, no card, an empty inbox, no install state
(R227, R280). -/
def Core.restartLoop (c : Core) : Core :=
  let c := (c.applyQ.foldl (fun (c : Core) a => c.unhold a.apply.handle) c).endTask
  { c with
    ctxs := Table.put (c.ctxs.map fun p => (p.1, p.2.fresh)) 0 { (c.ctxAt 0).fresh with st := .live, pc := loopStart },
    applyQ := [], inbox := [], installed := false, attach := [], image := false }

/-- The clear of a core: everything that R286 names reads as after reset, but its logical time (R249), the
generations of its pod slots (R215) and futures, and the keeper's own registers. `named` are the rows of ROWS
entries, which it leaves alone. DEDUCED, log 69. -/
def Core.clear (c : Core) (named : List Nat) : Core :=
  let c := { c.freePods true with applyQ := [] }.restartLoop.bumpBut fun r => named.contains r
  { c with
    ctxs := c.ctxs.map fun p => (p.1, { p.2.cleared with st := p.2.st, pc := p.2.pc })
    wid := 0, partw := 0, decla := 0, declb := 0, domain := 0, prof := 0, deadline := 0, flags := 0, ctarget := 0,
    loopRet := loopStart, mxsat := false, mxnarrow := false, cnt := [], evsel := [], evcyc := [], jcount := 0, amask := 0, gleft := false,
    gformed := false, gattached := false, gfollowed := false, bars := [], attach := [], bbufs := [], tmax := 0, held := [], past := [], touched := [] }

/-- The clear of a domain (R286): a nonzero PASID is retired, and its log begins anew (R386). -/
def State.clearDomain (s : State) (d : Nat) : State :=
  let b := (s.domainAt d).storePasid 0 s.now
  let b := { Domain.zero with
    pasid := b.pasid, pstate := b.pstate, retireAt := b.retireAt, atsOut := b.atsOut, atsOld := b.atsOld, tgen := b.tgen + 1
    logNo := b.logNo + 1 }
  { s.setDomain d b with objs := s.objs.filter fun o => o.dom != d, syms := Table.erase s.syms d }

/-- The bump of a clear as one step, which follows the entry's last (R259, R286): its time, where the resource holds
bytes of device memory, of a pool or of the control space. -/
def State.clearTime (s : State) (e : Entry) : BitVec 64 × State :=
  if e.cls = cCore then
    s.stampRows e.lo (fun r => !(s.rowsEntries e.lo).any fun x => x.lo ≤ r && r < x.hi) (later e.ts (s.coreAt e.lo).kptsNow)
  else if e.cls = cMem then s.stampBump (fun l => decide (128 * l < e.hi) && decide (e.lo < 128 * l + 128)) e.ts
  else if e.cls = cRows then s.stampRows e.aux (fun r => e.lo ≤ r && r < e.hi) e.ts
  else if e.cls = cDomain then
    s.stampBump (fun l => l == domBlock e.lo / 128 || l == loadBlock e.lo / 128 || l == logdBlock e.lo / 128) e.ts
  else (e.ts, s)

/-- The external writes to the bytes of an entry reach their home before its holder changes (R276, R287). -/
def State.landEntry (s : State) (e : Entry) : State := if e.cls = cMem && isExternal e.lo then s.landRange e.lo e.hi else s
/-- The step of a context's map instruction at an entry, after every earlier access of the context, the external ones too
(R276). -/
def State.mapStepOf (s : State) (k j : Nat) (e : Entry) : Entry × State :=
  let s := s.landCtx k j
  let t := later ((s.coreAt k).ctxAt j).pts e.ts
  ({ e with ts := t }, s.updCtx k j fun x => { x with pts := t })
/-- Its later accesses follow the step. -/
def State.followMapOf (s : State) (k j : Nat) (e : Entry) : State :=
  let t := (s.pieces ⟨e.cls, e.aux, e.lo, e.hi⟩).foldl (fun t f => later t f.ts) ((s.coreAt k).ctxAt j).pts
  s.updCtx k j fun x => { x with pts := t }
/-- The executing context's later accesses follow the step at an entry. -/
def State.followMap (s : State) (e : Entry) : State := s.followMapOf s.cur s.ctx e
/-- The entries of a resource bear the time of a step that changes none of their terms; rows that no ROWS entry names stand in
their core's entry (R272, R276). -/
def State.stampMap (s : State) (r : Res) (t : BitVec 64) : State :=
  (s.pieces r).foldl (fun s f =>
    let f := if r.cls = cRows && !(s.rowsEntries r.aux).any (fun x => x.lo ≤ f.lo && f.hi ≤ x.hi) then s.coreEntry r.aux else f
    s.putEntry { f with ts := later f.ts t }) s

/-- The clear of a resource (R286), as one step. -/
def State.clearEntry (s : State) (e : Entry) : State :=
  let s := s.landEntry e
  let s := if e.cls = cCore then s.clearSegs e.lo else s
  let (ts, s) := s.clearTime e
  let s := s.putEntry { e with gen := e.gen + 1, ts := ts }
  if e.cls = cCore then
    let s := ((s.endGang e.lo).leaveLinks e.lo).dropHeld e.lo
    let named := (List.range 1536).filter fun r => (s.rowsEntries e.lo).any fun x => x.lo ≤ r && r < x.hi
    s.updCoreAt e.lo fun c => { c.clear named with kpts := ts }
  else if e.cls = cMem then
    if isExternal e.lo then s
    else { s with mem := Table.clear s.mem e.lo e.hi,
                  copies := s.copies.filter fun c => !(decide (128 * c.line < e.hi) && decide (e.lo < 128 * c.line + 128)) }
  else if e.cls = cRows then s.updCoreAt e.aux fun c => c.bumpRows e.lo e.hi
  else if e.cls = cShared then
    { s with shared := Table.put s.shared e.lo { Table.get Shared.zero s.shared e.lo with count := 0, snap := 0 } }
  else if e.cls = cDomain then s.clearDomain e.lo
  else s

/-! The start of a stop (R339, R349). -/

/-- The stop tick of a cause that is no deadline (R339). -/
def stopTick (now : Nat) : Nat := (now + 47) / 16 * 16
/-- Order of the causes (R349). -/
def causeRank (c : BitVec 8) : Nat :=
  if c = Cause.STOP_FLR then 0 else if c = Cause.POWER_EMERGENCY then 1 else if c = Cause.STOP_TERM then 2
  else if c = Cause.STOP_RECLAIM then 3 else if c = Cause.STOP_HANDOVER then 4 else 5

/-- A stopped core (R338). -/
def Core.stopped (c : Core) : Bool := c.hstat == .valid || c.hstat == .void

/-- A stop of core `k` that falls due at `tick`: a stop that has not begun takes the earlier tick, and of causes
due at one tick the first; a stop in progress is joined. A stopped core stays stopped. DEDUCED, log 69. -/
def State.beginStop (s : State) (k : Nat) (cause : BitVec 8) (region : Word) (namer tick : Nat) (ends : List StopEnd) : State :=
  let c := s.coreAt k
  if c.stopped then s
  else
    let new : Stop :=
      { cause := cause, tick := tick, ticked := false, quiet := false, flushed := false, region := region, namer := namer,
        base := 0, todo := [], saved := [], drained := 0, finished := false, ends := ends, holder := s.holderOf k, noHusk := false }
    let st := match c.stop with
      | none => new
      | some st =>
        if !st.ticked && (decide (tick < st.tick) || (tick == st.tick && decide (causeRank cause < causeRank st.cause))) then
          { new with ends := st.ends ++ ends }
        else { st with ends := st.ends ++ ends }
    s.setCoreAt k { c with stop := some st }

/-- Is the end of a stop that of an accept? -/
def StopEnd.isAccept : StopEnd → Bool
  | .accept _ _ => true
  | _ => false
/-- Does a map step that has begun on the core wait for its stop (R276)? -/
def State.entryBusy (s : State) (r : Res) : Bool :=
  r.cls == cCore && (s.coreAt r.lo).stop.any fun st => !st.ends.isEmpty
/-- Has an accept of the core begun (R280)? -/
def State.accepting (s : State) (r : Res) : Bool :=
  r.cls == cCore && (s.coreAt r.lo).stop.any fun st => st.ends.any StopEnd.isAccept

/-! Transfers (R277). -/

/-- The data of a notice (R289). -/
def noticeData (kind : Nat) (x5 x6 x7 : Word) : List Word := [word kind, x5, x6, x7]

/-- Pod messages on their way to a core that has no install state are lost (R227, R341). -/
def State.loseMessages (s : State) (k : Nat) : State :=
  { s with barq := s.barq.filter fun p => !(p.1 == k && match p.2 with | .inbox _ m => m.kind | _ => false) }

/-- The offer of an entry becomes a gift or a loan; it clears when CLR is set (R277, R280), and a core is left with no
install state and an empty inbox (R227). -/
def State.takeOffer (s : State) (e : Entry) (o : Offer) : State :=
  let l : Loan :=
    { lender := e.holder, borrower := o.target, term := o.term, grace := o.grace, rc := o.rc, recalled := false, rdl := 0,
      due := false, husk := o.husk, near := decide (o.term.toNat ≤ s.now + 65536) }
  let e := { e with offer := none, recalling := false }
  let s := s.landEntry e
  let e' := if o.lend then { e with loans := e.loans ++ [l] } else { e with owner := o.target }
  let s := if o.clr then s.clearEntry e' else s.putEntry e'
  let s := if e.cls = cCore then (s.updCoreAt e.lo fun c => { c with installed := false, inbox := [] }).loseMessages e.lo else s
  let s := if o.lend && l.near then
    s.notify ⟨o.target, 2, e.name, noticeData 2 e.name (word l.lender) l.term⟩ else s
  s.voidHooks

/-- The barriers that were handed over to a stopped core (R389), which its router delivers when it runs again (R341). -/
def Core.takeHeld (c : Core) : Core :=
  { c.held.foldl (fun (c : Core) p => match p with
      | .handover b v => c.setBar b v
      | _ => c) c with held := [] }

/-- A core starts its resident loop afresh, under a new holder (R280) or by KRESUME 0 (R347). Packets that routers hold
for it are delivered (R341). -/
def State.restart (s : State) (k : Nat) : State :=
  let s := (s.updCoreAt k Core.takeHeld).leaveLinks k
  s.updCoreAt k fun c => { c.restartLoop with hstat := .running }

/-- The innermost loans whose borrowers are not live are gone with the loan above them: such an OID holds nothing
(R273, R291). DEDUCED, log 46. -/
def State.settle (s : State) (ls : List Loan) : List Loan := (ls.reverse.dropWhile fun l => !s.oidLive l.borrower).reverse

/-- The entry after the loans from `j` up are removed and it is cleared (R285); `left` where a return keeps its contents
(R277, R287). -/
def State.unlent (s : State) (e : Entry) (j : Nat) (left : Bool) : Entry :=
  let ls := s.settle (e.loans.take j)
  { e with loans := ls, offer := none, recalling := left && (ls.getLast?.any Loan.recalled) }

/-- The loans from `j` up are removed (R285): HOLDER is the lender of loan `j`. `tell` where a notice goes to the
lender too. -/
def State.finishReclaim (s : State) (nm : Word) (e : Entry) (j : Nat) (tell : Bool) : State :=
  let gone := e.loans.drop j
  match gone with
  | [] => s
  | l :: _ =>
    let s := s.cancelTouching (gone.map Loan.borrower) ⟨e.cls, e.aux, e.lo, e.hi⟩
    let s := s.clearEntry (s.unlent e j false)
    let s := gone.foldl (fun s m => s.notify ⟨m.borrower, 3, nm, noticeData 3 nm (word l.lender) 0⟩) s
    let s := if tell then s.notify ⟨l.lender, 3, nm, noticeData 3 nm (word l.borrower) 1⟩ else s
    s.voidHooks

/-- The voluntary return of an entry by its top borrower (R287): its cards that touch the resource reach it no more
(R276). -/
def State.voluntaryReturn (s : State) (e : Entry) : State :=
  match e.loans.getLast? with
  | none => s
  | some l =>
    let s := s.cancelTouching [l.borrower] ⟨e.cls, e.aux, e.lo, e.hi⟩
    let s := ((s.landEntry e).putEntry (s.unlent e (e.loans.length - 1) true)).voidHooks
    if e.cls = cCore then s.beginStop e.lo Cause.STOP_HANDOVER l.husk l.lender (stopTick s.now) [] else s

/-! Retirement (R291). -/

/-- The loans that OID `o` made pass to the lender of its own loan, the one before, or to the seed owner. -/
def passLoans (o up : Nat) : List Loan → List Loan
  | [] => []
  | l :: ls =>
    let l := if l.lender = o then { l with lender := up } else l
    l :: passLoans o l.lender ls

/-- The offers and loans of an entry without OID `o`, and the region for a stop where the holder changes. A loan to
`o` that is not the innermost stays, and its lender may reclaim it (R285). DEDUCED, log 46. -/
def State.retired (s : State) (e : Entry) (o : Nat) : Entry × Option (Word × Nat) :=
  let offer := if e.offer.any fun f => f.target == o || e.holder == o then none else e.offer
  let pass (ls : List Loan) : Entry :=
    { e with offer := offer, owner := if e.owner = o then 1 else e.owner, loans := passLoans o 1 ls }
  if e.holder = o then
    match e.loans.getLast? with
    | some l =>
      let gone (l : Loan) : Bool := l.borrower == o || !s.oidLive l.borrower
      let ls := ((passLoans o 1 e.loans.dropLast).reverse.dropWhile gone).reverse
      ({ pass ls with recalling := ls.getLast?.any Loan.recalled }, some (l.husk, l.lender))
    | none => (pass [], some (0, 1))
  else (pass e.loans, none)

/-- The loss of one entry: a running core is stopped before its clear. -/
def State.retireEntry (s : State) (o : Nat) (e : Entry) : State :=
  match s.retired e o with
  | (f, none) => s.putEntry f
  | (f, some (region, namer)) =>
    if e.cls = cCore && !(s.coreAt e.lo).stopped then
      (s.putEntry f).beginStop e.lo Cause.STOP_RECLAIM region namer (stopTick s.now) [.clear f.name]
    else s.clearEntry f

/-- The retirement of OID `o`, at a time not before `pts`; `how` is 0 by retire and 1 by the hardware. -/
def State.retireOid (s : State) (o how : Nat) (pts : BitVec 64) : State :=
  let sponsor := (s.oids.find? fun p => p.1 == o).map fun p => p.2.sponsor
  let lenders := s.entries.flatMap fun e => (e.loans.filter fun l => l.borrower == o).map Loan.lender
  let tell := (sponsor.toList ++ lenders).dedup.filter fun p => p != o
  let hit := s.entries.filter fun e => (s.retired e o).1 != e || (s.retired e o).2.isSome
  let t := hit.foldl (fun t e => later t e.ts) pts
  let s := hit.foldl (fun s e => s.retireEntry o { e with ts := t }) s
  let s := { s with
    oids := Table.erase s.oids o
    hooks := s.hooks.filter fun h => h.oid != o
    notices := s.notices.filter fun n => n.oid != o
    funcs := s.funcs.map fun (p : Nat × Func) => if p.2.oid.toNat = o then (p.1, { p.2 with oid := 0 }) else p }
  (tell.foldl (fun s p => s.notify ⟨p, 5, word o, noticeData 5 0 (word o) (word how)⟩) s).voidHooks

end Sys2Proof.Machine
end

