-- ==== Sys2Proof/Machine/Own.lean ====
section
/-! DEFINITION. The OWN instructions (R278 to R291). -/

namespace Sys2Proof.Machine

/-- The executing OID. -/
def State.oid (s : State) : Nat := s.holderOf s.cur
/-- A map instruction: its step follows every earlier access of its context (R276). -/
def State.ownInstr (s : State) (len : Nat) (us : List Use) (body : State → Run Done) : Host.Outcome State Fault Refusal :=
  s.instr len us fun s => if s.me.storing then waiting s else body s
/-- The name of an operand (R272). -/
def ownName (n : Word) : Run Res :=
  match Res.ofName n with
  | some r => .ok r
  | none => fault Cause.OWN_BAD_NAME n
/-- Does a resource lie in an entry in DEFUNCT: a core, or pool rows that go with it (R272, R277)? -/
def State.defunct (s : State) (r : Res) : Bool := (s.pieces r).any fun e => e.holder == 0xFFFF
/-- The name of an operand, where it does not lie in an entry in DEFUNCT (R277). -/
def State.ownLive (s : State) (n : Word) : Run Res := do
  let r ← ownName n
  if s.defunct r then fault Cause.OWN_NOT_HELD n else .ok r
/-- An OID that cannot be a target (R273). -/
def State.badTarget (s : State) (t : Word) : Bool :=
  t == 0 || t == 0xFFFF || decide (2 ^ 16 ≤ t.toNat) || !s.oidLive t.toNat || t.toNat == s.oid
/-- The step of the executing context's map instruction at an entry (R276). -/
def State.mapStep (s : State) (e : Entry) : Entry × State := s.mapStepOf s.cur s.ctx e
/-- The step of one that changes no term of the entries of a resource. -/
def State.mapTouch (s : State) (r : Res) : State :=
  let s := s.landCtx s.cur s.ctx
  let t := (s.pieces r).foldl (fun t f => later t f.ts) s.me.pts
  (s.stampMap r t).updMe fun x => { x with pts := t }

/-! Offers (R279, R282). -/

/-- First byte of a full husk in a region (R342); none where it does not fit. -/
def huskBase (region : Word) : Option Nat :=
  match Res.ofName region with
  | some r =>
    let a := (r.lo + 127) / 128 * 128
    if r.cls = cMem && decide (a + 262144 ≤ r.hi) then some a else none
  | none => none

/-- Does OID `o` hold all of a resource on one set of terms, with its use not ended (R272)? -/
def State.heldWhole (s : State) (o : Nat) (r : Res) : Bool := (s.entryFor r).any fun e => e.holder == o && !e.ended
/-- Does OID `o` hold a region of at least one full husk? -/
def State.huskHeld (s : State) (o : Nat) (region : Word) : Bool :=
  match Res.ofName region with
  | some r => (huskBase region).isSome && s.heldWhole o r
  | none => false

/-- Does an OID hold a core? -/
def State.holdsCore (s : State) (o : Nat) : Bool := s.entries.any fun e => e.cls == cCore && e.holder == o

/-- The holder check of an offer: the executing OID holds all of the name on one set of terms, and the name has an
entry of its own (R272, R356). -/
def State.heldEntry (s : State) (n : Word) (r : Res) : Run Entry :=
  match s.entryFor r with
  | some e => if r.cls = cCounter || e.holder != s.oid || s.oid == 0xFFFF then fault Cause.OWN_NOT_HELD n else .ok e
  | none => fault Cause.OWN_NOT_HELD n

/-- The checks of an offer from the one for a pending offer on, and the offer (R279, R273); `husk` is the register
that names the husk region, where the form has one. -/
def State.offer (s : State) (n t : Word) (r : Res) (e : Entry) (husk : Option (BitVec 5)) (lends clr rc : Bool)
    (term : Word) (grace : BitVec 32) : Run Done := do
  let s0 := s
  let region := match husk with
    | some h => if h = 0 then 0 else s.xr h
    | none => 0
  let named := husk.any fun h => h != 0
  if e.offer.isSome then fault Cause.OFFER_FULL n
  else if r.cls = cCore && !named then fault Cause.OWN_NO_HUSK n
  else if named && !s.huskHeld s.oid region then fault Cause.EXTENT_NOT_HELD region
  else if 256 ≤ s.pendingTo t.toNat then fault Cause.OFFER_FULL t
  else
    let o : Offer := { target := t.toNat, lend := lends, clr := clr, term := term, grace := grace, rc := rc, husk := region, spans := [(r.lo, r.hi)] }
    let (e, s) := s.mapStep e
    let s ← s.splitTo n { e with offer := some o }
    let sponsored := s.oids.any fun p => p.1 == t.toNat && p.2.sponsor == s.oid
    if sponsored && !s.holdsCore t.toNat then
      if s.touching s.oid r then waiting s0
      else if r.cls = cCore && !(s.coreAt r.lo).stopped then
        goes (s.beginStop r.lo Cause.STOP_HANDOVER region s.oid (stopTick s.now) [.accept none n])
      else goes ((s.takeOffer { e with offer := some o } o).followMap e)
    else goes (s.notify ⟨t.toNat, 0, n, noticeData 0 n (word s.oid) (if lends then term else 0)⟩)

/-- give (R279): to the lender of the top loan it is a voluntary return; by the seed owner it is a lend, and so no fourth
loan (R274, R282). DEDUCED, log 68. -/
def State.giveTo (s : State) (len : Nat) (b c : BitVec 5) (husk : Option (BitVec 5)) (clr : Bool) :
    Host.Outcome State Fault Refusal :=
  s.ownInstr len ([.x b, .x c] ++ (husk.toList.map Use.x)) fun s => do
    let n := s.xr b
    let t := s.xr c
    let r ← ownName n
    if s.entryBusy r then waiting s
    else if s.badTarget t then fault Cause.OWN_BAD_OID t
    else
      let e ← s.heldEntry n r
      match e.loans.getLast? with
      | some l =>
        if t.toNat = l.lender then
          let (e, s) := s.mapStep e
          let _ ← s.splitTo n (s.unlent e (e.loans.length - 1) true)
          goes (s.voluntaryReturn e)
        else if s.oid ≠ 1 then fault Cause.OWN_NOT_HELD n
        else if 3 ≤ e.loans.length then fault Cause.OWN_DEPTH n
        else s.offer n t r e husk true clr true (BitVec.allOnes 64) (2 ^ 20)
      | none =>
        if s.oid = 1 then s.offer n t r e husk true clr true (BitVec.allOnes 64) (2 ^ 20)
        else s.offer n t r e husk false clr false 0 0

def execGive (b c : BitVec 5) (s : State) := s.giveTo 4 b c none false
def execGiveExt (clr : Bool) (b c e : BitVec 5) (s : State) := s.giveTo 12 b c (some e) clr

/-- lend (R282). -/
def State.lendTo (s : State) (len : Nat) (rc clr : Bool) (h b c e : BitVec 5) (g : BitVec 32) :
    Host.Outcome State Fault Refusal :=
  s.ownInstr len [.x h, .x b, .x c, .x e] fun s => do
    let n := s.xr b
    let t := s.xr c
    let term := s.xr e
    let r ← ownName n
    if s.entryBusy r then waiting s
    else if s.badTarget t then fault Cause.OWN_BAD_OID t
    else
      let en ← s.heldEntry n r
      let past := match en.loans.getLast? with
        | some l => l.term.ult term || l.grace.ult g
        | none => false
      if 3 ≤ en.loans.length then fault Cause.OWN_DEPTH n
      else if decide (term.toNat ≤ s.now) || past then fault Cause.OWN_BAD_TERM term
      else s.offer n t r en (some h) true clr rc term g

def execLend (rc clr : Bool) (h b c e : BitVec 5) (g : BitVec 32) (s : State) := s.lendTo 12 rc clr h b c e g
def execLendLit (rc clr : Bool) (h b c e : BitVec 5) (g : BitVec 32) (s : State) := s.lendTo 20 rc clr h b c e g

/-- accept xs1 (R280): it waits for the stop of a running core, then for the former holder's cards. -/
def execAccept (b : BitVec 5) (s : State) :=
  s.ownInstr 4 [.x b] fun s =>
    if s.me.wait == .done then goes s
    else do
      let n := s.xr b
      let r ← s.ownLive n
      if s.entryBusy r then waiting s
      else match s.offerAt r with
        | none => fault Cause.OWN_NO_OFFER n
        | some (e, o) =>
          if o.target ≠ s.oid then fault Cause.OWN_NO_OFFER n
          else if r.cls = cCore && !(s.coreAt r.lo).stopped then
            waiting (s.beginStop r.lo Cause.STOP_HANDOVER o.husk e.holder (stopTick s.now) [.accept (some (s.cur, s.ctx)) n])
          else if s.touching e.holder r then waiting s
          else
            let (e, s) := s.mapStep e
            goes (← s.splitCheck n r.cls ((s.takeOffer e o).followMap e))

/-- decline xs1 (R281). -/
def execDecline (b : BitVec 5) (s : State) :=
  s.ownInstr 4 [.x b] fun s => do
    let n := s.xr b
    let r ← s.ownLive n
    match s.offerAt r with
    | none => fault Cause.OWN_NO_OFFER n
    | some (e, o) =>
      if s.accepting r || (o.target != s.oid && e.holder != s.oid) then fault Cause.OWN_NO_OFFER n
      else
        let (e, s) := s.mapStep e
        goes (← s.splitTo n { e with offer := none, recalling := false })

/-! Loans (R283, R285). -/

/-- The outermost loan of an entry that an OID lends. DEDUCED, log 68. -/
def Entry.lentBy (e : Entry) (o : Nat) : Option Nat := e.loans.findIdx? fun l => l.lender == o

/-- recall xd, xs1 (R283): it never faults on the state of the entry. -/
def execRecall (d b : BitVec 5) (s : State) :=
  s.ownInstr 4 [.x d, .x b] fun s => do
    let n := s.xr b
    let r ← ownName n
    let status (v : Word) : Run Done := goes ((s.mapTouch r).setX d v)
    if r.cls = cCounter then fault Cause.OWN_NOT_HELD n
    else if s.entryBusy r then waiting s
    else match s.entryFor r with
      | none => status 2
      | some e =>
        match e.lentBy s.oid with
        | none => status 2
        | some j =>
          match e.loans[j]? with
          | none => status 2
          | some l =>
            if l.recalled || l.due then status 1
            else if !l.rc then status 3
            else
              let (e, s) := s.mapStep e
              let rdl := s.fabric + l.grace.setWidth 64
              let s ← s.splitTo n { e with loans := e.loans.set j { l with recalled := true, rdl := rdl }, recalling := true }
              goes ((s.notify ⟨l.borrower, 1, n, noticeData 1 n (word s.oid) rdl⟩).setX d 0)

/-- reclaim xd, xs1 (R285, R296). -/
def execReclaim (d b : BitVec 5) (s : State) :=
  s.ownInstr 4 [.x d, .x b] fun s => do
    let n := s.xr b
    let r ← s.ownLive n
    let status (v : Word) : Run Done := goes ((s.mapTouch r).setX d v)
    if r.cls = cCounter then fault Cause.OWN_NOT_HELD n
    else if s.accepting r then waiting s
    else match s.entryFor r with
      | none => status 2
      | some e =>
        match e.lentBy s.oid with
        | none => status 2
        | some j =>
          match e.loans[j]? with
          | none => status 2
          | some l =>
            if !l.due && s.oidLive l.borrower then status 1
            else if r.cls = cCore && !(s.coreAt r.lo).stopped then
              goes (((s.mapTouch r).beginStop r.lo Cause.STOP_RECLAIM l.husk l.lender (stopTick s.now) [.reclaim n l.lender]).setX d 3)
            else do
              let (e, s) := s.mapStep e
              let _ ← s.splitTo n { s.unlent e j false with gen := e.gen + 1 }
              goes (((s.finishReclaim n e j false).followMap e).setX d 0)

/-! own.q (R275). -/

/-- A word of an entry as OID `o` reads it. -/
def Entry.word (e : Entry) (o w : Nat) : Word :=
  let j := (e.lentBy o).getD (e.loans.length - 1)
  let l := e.loans[j]?
  let lf (f : Loan → Nat) : Nat := (l.map f).getD 0
  match w with
  | 0 => Machine.word (e.holder * 2 ^ 48 + lf Loan.lender * 2 ^ 32 + (e.offer.map Offer.target).getD 0 * 2 ^ 16 +
      e.gen.toNat * 2 ^ 8 + (if l.isSome then (j + 1) * 2 ^ 6 else 0) + lf (fun l => if l.due then 2 ^ 5 else 0) +
      (if e.offer.any Offer.clr then 2 ^ 4 else 0) + lf (fun l => if l.rc then 2 ^ 3 else 0) + e.state)
  | 1 => (l.map Loan.term).getD 0
  | 2 => (l.map fun l => l.grace.setWidth 64).getD 0
  | _ => (l.map fun l => if l.recalled then l.rdl else 0).getD 0

/-- own.q xd, xs1, w; a per-core counter reads its core's entry (R356). -/
def execOwnQ (w : BitVec 2) (d b : BitVec 5) (s : State) :=
  s.ownInstr 4 [.x d, .x b] fun s => do
    let n := s.xr b
    let r ← ownName n
    let r := if r.cls = cCounter then ⟨cCore, 0, r.lo / 16, r.lo / 16 + 1⟩ else r
    let v := ((s.pieces r).headD (Entry.dflt s.endowed r.cls r.aux r.lo r.hi)).word s.oid w.toNat
    goes ((s.mapTouch r).setX d v)

/-! Identities (R290, R291) and hooks (R288). -/

/-- Does some entry name the OID? -/
def State.oidNamed (s : State) (o : Nat) : Bool :=
  s.entries.any fun e => e.owner == o || (e.loans.any fun l => l.lender == o || l.borrower == o) ||
    e.offer.any fun f => f.target == o

/-- mint xd, xs1 (R290). -/
def execMint (d b : BitVec 5) (s : State) :=
  s.ownInstr 4 [.x d, .x b] fun s => do
    let n := s.xr b
    let r ← ownName n
    if r.cls ≠ cOid || !s.usesOne s.oid cOid r.lo then fault Cause.OWN_NOT_HELD n
    else
      let t := s.mapTouch r
      let free (o : Nat) : Bool := decide (1 < o) && o != 0xFFFF && !s.oidLive o && !s.oidNamed o
      match ((List.range 256).map fun i => 256 * r.lo + i).find? free with
      | none => goes (t.setX d 0)
      | some o => goes (({ t with oids := Table.put t.oids o { sponsor := s.oid, idle := some s.now } }).setX d (word o))

/-- retire (R291): it never retires as an instruction. Its one step follows the last at each entry that it changes (R276). -/
def execRetire (s : State) :=
  s.ownInstr 4 [] fun s =>
    if s.me.wait == .done then .error (.wait s .done)
    else if s.oid = 1 then fault Cause.OWN_BAD_OID 1
    else .error (.wait ((s.landCtx s.cur s.ctx).retireOid s.oid 0 s.me.pts) .done)

/-- own.hook kind, cs (R288). -/
def execOwnHook (k : BitVec 3) (a : BitVec 4) (s : State) :=
  s.ownInstr 4 [.c a] fun s =>
    let h := s.cr a
    let s := s.voidHooks
    let mine (o kind : Nat) : Bool := o == s.oid && kind == k.toNat
    let rest := s.hooks.filter fun x => !mine x.oid x.kind
    if h = 0 then goes { s with hooks := rest, notices := s.notices.filter fun x => !mine x.oid x.kind }
    else match s.core.livePod h with
      | some (_, p) =>
        if s.core.podExported p then
          goes { s with hooks := rest ++ [{ oid := s.oid, kind := k.toNat, core := s.cur, handle := h }] }
        else fault Cause.OWN_HOOK_INVALID (h.setWidth 64)
      | none => fault Cause.OWN_HOOK_INVALID (h.setWidth 64)

end Sys2Proof.Machine
end

