-- ==== Sys2Proof/Machine/Husk.lean ====
section
/-! DEFINITION. The husk (R343 to R347): what a save writes, and what a resume restores. Where R343 names what a
section holds and not where in it, the place is the model's own (DESIGN CHOICE, log 10). -/

namespace Sys2Proof.Machine

/-- An image with fields at byte offsets. -/
def fields (l : List (Nat × Nat)) : Nat := l.foldl (fun v p => v + at' p.1 p.2) 0

/-! Latch records (R345). -/

def CtxSt.code : CtxSt → Nat
  | .free => 0 | .live => 1 | .ended => 2
def CtxSt.ofCode : Nat → CtxSt
  | 0 => .free | 1 => .live | _ => .ended

/-- The latch record of a context; registers whose dirty bit is clear are zero. -/
def Ctx.latch (x : Ctx) : Nat :=
  if x.st = .free then 0
  else
    let d (i v : Nat) : Nat := if x.dirty.getLsbD i then v else 0
    let tf := (if x.tstep then 2 else 0) + if x.tin then 1 else 0
    fields ((List.range 32).map fun i => (8 * i, if i = 0 then (if x.st = .ended then x.endv.toNat else 0)
        else d (bitX i) (Table.get 0 x.x i).toNat)) +
      fields ((List.range 8).map fun i => (256 + 16 * i, d (bitM i) (Table.get 0 x.m i).toNat)) +
      fields ((List.range 16).map fun i => (384 + 2 * i, d (bitH i) (Table.get 0 x.h i).toNat)) +
      fields ((List.range 16).map fun i => (416 + 2 * i, d (bitC i) (Table.get 0 x.c i).toNat)) +
      fields [(448, x.pc.toNat), (456, x.trapvec.toNat), (464, x.epc.toNat), (472, x.tval.toNat), (480, x.stacklim.toNat),
        (488, x.pts.toNat), (496, x.dirty.toNat), (509, x.cause.toNat), (510, x.fpflags.toNat + 32 * x.istat.toNat),
        (511, x.rrb.toNat + 16 * tf + 64 * x.st.code)]

/-- The entries of a register file in an image that are not zero. -/
def regTable {w : Nat} (img off size n : Nat) : Table (BitVec w) :=
  ((List.range n).map fun i => (i, BitVec.ofNat w (fieldOf img (off + size * i) size))).filter fun p => p.2 != 0

/-- A context from its latch record; its PTS becomes Max(saved PTS, KPTS) (R347), and registers whose dirty bit is clear
read zero (R37). -/
def Ctx.ofLatch (img : Nat) (kpts : Word) : Ctx :=
  let st := CtxSt.ofCode (fieldOf img 511 1 / 64)
  if st = .free then { Ctx.empty with pts := kpts }
  else
    let f (off : Nat) : Word := word (fieldOf img off 8)
    let e := fieldOf img 511 1
    let dirty : BitVec 104 := BitVec.ofNat 104 (fieldOf img 496 13)
    { Ctx.empty with
      st := st, pc := f 448, x := (regTable img 0 8 32).filter fun p => p.1 != 0 && dirty.getLsbD (bitX p.1)
      m := (regTable img 256 16 8).filter fun p => dirty.getLsbD (bitM p.1)
      h := (regTable img 384 2 16).filter fun p => dirty.getLsbD (bitH p.1)
      c := (regTable img 416 2 16).filter fun p => dirty.getLsbD (bitC p.1), rrb := BitVec.ofNat 4 e, trapvec := f 456, epc := f 464,
      cause := BitVec.ofNat 8 (fieldOf img 509 1), tval := f 472, tstep := e / 32 % 2 == 1, tin := e / 16 % 2 == 1,
      stacklim := f 480, fpflags := BitVec.ofNat 5 (fieldOf img 510 1), istat := BitVec.ofNat 3 (fieldOf img 510 1 / 32),
      dirty := dirty, endv := if st = .ended then f 0 else 0, pts := later (f 488) kpts, ifence := later (f 488) kpts }

/-! The other sections. -/

/-- The marks of the contexts on a barrier, 33 bits: PEND, APH, DROPPED. -/
def Core.marks (c : Core) (b : Nat) : Nat :=
  (List.range 11).foldl (fun v j =>
    let x := c.ctxAt j
    v + (if x.isPend b then 2 ^ j else 0) + (if x.isAph b then 2 ^ (11 + j) else 0) + if x.isDropped b then 2 ^ (22 + j) else 0) 0

def Core.barImage (c : Core) (b : Nat) : Nat :=
  let v := c.barAt b
  fields [(0, v.exp.toNat), (1, v.arr.toNat), (2, v.drops.toNat), (3, b2n v.phase), (4, v.bexp.toNat), (8, v.barr.toNat),
    (12, v.link.toNat), (14, c.marks b)]

/-- Barrier `b` restored, with its timestamp. What links it now stands on the core, since a stopped member stays a member
(R389). -/
def Core.barRestore (c : Core) (b img : Nat) (ts : BitVec 64) : Core :=
  let old := c.barAt b
  let f (off n : Nat) : Nat := fieldOf img off n
  let v : Barrier :=
    { exp := BitVec.ofNat 8 (f 0 1), arr := BitVec.ofNat 8 (f 1 1), drops := BitVec.ofNat 8 (f 2 1), phase := f 3 1 % 2 == 1,
      bexp := BitVec.ofNat 32 (f 4 4), barr := BitVec.ofNat 32 (f 8 4), link := if old.mem = 0 then BitVec.ofNat 16 (f 12 2) else old.link,
      mem := old.mem, want := old.want, ts := later ts old.ts }
  let m := f 14 5
  let c := if v = Barrier.zero then { c with bars := Table.erase c.bars b } else c.setBar b v
  (List.range 11).foldl (fun (c : Core) j =>
    if m / 2 ^ j % 2 + m / 2 ^ (11 + j) % 2 + m / 2 ^ (22 + j) % 2 = 0 then c
    else c.setCtx j { c.ctxAt j with
      pend := putBit (c.ctxAt j).pend b (m / 2 ^ j % 2 == 1), aph := putBit (c.ctxAt j).aph b (m / 2 ^ (11 + j) % 2 == 1),
      dropped := putBit (c.ctxAt j).dropped b (m / 2 ^ (22 + j) % 2 == 1) }) c

/-- The core registers that R343 names. -/
def Core.regImage (c : Core) : Nat :=
  fields ((List.range 16).map fun i => (8 * i, (Table.get 0 c.cnt i).toNat)) +
    fields ((List.range 16).map fun i => (128 + 8 * i, (Table.get 0 c.evsel i).toNat)) +
    fields [(256, c.tmax.toNat), (264, c.jcount.toNat), (268, c.amask.toNat),
      (270, b2n c.gleft + 2 * b2n c.gformed + 4 * b2n c.gattached), (271, b2n c.mxsat + 2 * b2n c.mxnarrow),
      (273, (Table.get (⟨15, []⟩ : BBuf) c.bbufs 0).ty), (274, (Table.get (⟨15, []⟩ : BBuf) c.bbufs 1).ty)]

/-- A future entry. -/
def Core.futImage (c : Core) (i : Nat) : Nat :=
  let f := c.fut i
  fields [(0, f.status.toNat), (8, f.gen.toNat + 512 * b2n f.used), (10, f.poster)]
/-- A future entry of an image. The status word holds bits 47:0 of TVAL, and what was saved gives the others. -/
def futOf (img : Nat) (saved pts : Word) : Future :=
  let st := fieldOf img 0 8
  let g := fieldOf img 8 2
  let bit (i : Nat) : Bool := st / 2 ^ i % 2 == 1
  { used := g / 512 % 2 == 1, gen := BitVec.ofNat 9 g, complete := bit 8, cancelled := bit 9, narrow := bit 10,
    pqfull := bit 11, cause := BitVec.ofNat 8 st, tval := word (st / 2 ^ 16 + saved.toNat / 2 ^ 48 * 2 ^ 48), poster := fieldOf img 10 1,
    pts := if bit 8 then pts else 0 }

/-- A ring entry; `rank` is the card's place in the post order of the core. -/
def Card.image (k : Card) (rank : Nat) : Nat :=
  let b := b2n k.running + 2 * b2n k.finished + 4 * b2n k.cancelled + 8 * b2n k.narrow + 16 * b2n k.began + 32 * b2n k.fault.isSome
  k.bytes.toNat + fields [(64, k.cursor), (72, 1 + 2 * b), (73, k.slot), (74, k.poster), (75, ((k.fault.map fun f => f.1.toNat).getD 0)),
    (76, k.lens.length), (78, rank), (80, (k.fault.map fun f => f.2.toNat).getD 0), (88, k.owed)] +
    at' 96 k.record.toNat + fields (k.lens.zipIdx.map fun (v, i) => (128 + 2 * i, v))
def cardOf (img serial : Nat) (pts : Word) : Option Card :=
  let b := fieldOf img 72 1
  let bit (i : Nat) : Bool := b / 2 ^ i % 2 == 1
  if bit 0 then some
    { bytes := BitVec.ofNat 512 (fieldOf img 0 64), slot := fieldOf img 73 1, poster := fieldOf img 74 1,
      seq := serial + fieldOf img 78 2, record := BitVec.ofNat 256 (fieldOf img 96 32),
      lens := (List.range (fieldOf img 76 2)).map fun i => fieldOf img (128 + 2 * i) 2, running := bit 1, cursor := fieldOf img 64 8,
      owed := fieldOf img 88 8, finished := bit 2, cancelled := bit 3, narrow := bit 4, began := bit 5,
      fault := if bit 6 then some (BitVec.ofNat 8 (fieldOf img 75 1), word (fieldOf img 80 8)) else none, pts := pts, ext := none }
  else none
/-- The rings: matrix entries 0 to 7, then copy entries 8 to 23. -/
def Core.ringImages (c : Core) : List Nat :=
  let rank (k : Card) : Nat := c.cards.countP fun j => decide (j.seq < k.seq)
  let im (l : List Card) : List Nat := l.map fun k => k.image (rank k)
  (im c.mxRing ++ List.replicate 8 0).take 8 ++ (im c.cpRing ++ List.replicate 16 0).take 16

/-- Pod slots and the apply queue. -/
def Core.podImage (c : Core) : Nat :=
  fields ((List.range 64).map fun i =>
      let p := c.slotAt i
      (4 * i, p.gen.toNat + 1024 * b2n p.used + 2048 * p.row)) +
    fields (c.applyQ.zipIdx.map fun (q, i) =>
      let a := q.apply
      (256 + 48 * i, a.handle.toNat + at' 2 (1 + 2 * b2n (!a.data.isEmpty)) + at' 3 ((a.data.getD 0 0).toNat % 256) +
        fields [(4, a.stacklim.toNat), (12, a.trapvec.toNat), (20, (a.data.getD 1 0).toNat), (28, (a.data.getD 2 0).toNat),
          (36, (a.data.getD 3 0).toNat)]))
def podsOf (img : Nat) : Table PodSlot :=
  (List.range 64).map fun i =>
    let v := fieldOf img (4 * i) 4
    (i, { used := v / 1024 % 2 == 1, gen := BitVec.ofNat 10 v, row := v / 2048 % 64 })
def applyOf (img : Nat) : Option Apply :=
  let fl := fieldOf img 2 1
  let f (off : Nat) : Word := word (fieldOf img off 8)
  if fl % 2 = 1 then some
    { handle := BitVec.ofNat 16 img, stacklim := f 4, trapvec := f 12,
      data := if fl / 2 % 2 = 1 then [word (fieldOf img 3 1), f 20, f 28, f 36] else [] }
  else none

/-- The attachments: name, version, and mode, 1 for read-only and 3 for read-write. -/
def Core.attachImage (c : Core) : Nat :=
  fields (c.attach.zipIdx.map fun (t, i) => (16 * i, fields [(0, t.name.toNat), (8, t.version.toNat), (12, 1 + 2 * b2n t.rw)]))
/-- An attachment of an image, with the rows and the entry that it had. -/
def attachOf (img : Nat) (rows : Nat × Nat × Option Nat) : Option Attach :=
  let mode := fieldOf img 12 1
  if mode % 2 = 1 then some
    { name := word (fieldOf img 0 8), rw := mode / 2 % 2 == 1, version := BitVec.ofNat 32 (fieldOf img 8 4), void := false,
      base := rows.1, count := rows.2.1, seg := rows.2.2 }
  else none

/-- A packet in transit, with its destination, in one flit of 64 bytes: the FLAGS word of a pod message leaves room
for both cores (R225). -/
def packetImage (dst : Nat) : Packet → Nat
  | .bar b src ctx fn n => fields [(0, 1), (1, b), (2, src), (4, ctx), (5, fn), (6, dst), (8, n.toNat), (56, 1)]
  | .inbox src m => fields ((List.range 8).map fun i => (8 * i, (m.words.getD i 0).toNat)) + fields [(60, src), (62, dst)]
  | .fwd src bs pc => fields [(0, leVal bs), (20, src), (22, dst), (24, pc.toNat), (32, bs.length), (56, 2)]
  | .handover _ _ => 0
def packetOf (img : Nat) (pts : Word) : Option (Nat × Packet) :=
  let f (off n : Nat) : Nat := fieldOf img off n
  if f 56 4 / 2 ^ 17 % 2 = 1 then
    some (f 62 2, .inbox (f 60 2) ⟨true, (List.range 8).map fun i => word (if i = 7 then f 56 4 else f (8 * i) 8), 0, pts⟩)
  else if f 56 4 = 1 then some (f 6 2, .bar (f 1 1) (f 2 2) (f 4 1) (f 5 1) (word (f 8 8)))
  else if f 56 4 = 2 then some (f 22 2, .fwd (f 20 2) (leOf (f 32 1) (f 0 20)) (word (f 24 8)))
  else none

/-! The rows (R346). -/

/-- Rows of the pool image: register rows of dirty registers, and the live rows below them that are no rows of a live
named segment and lie in no ROWS entry of HOLDER. -/
def State.imageRows (s : State) (k holder : Nat) : List Nat :=
  let c := s.coreAt k
  let seg (r : Nat) : Bool := s.segs.any fun g => g.core == k && g.live && g.inPool && g.base ≤ r && r < g.base + g.count
  let own (r : Nat) : Bool := (s.rowsEntries k).any fun e => e.holder == holder && e.lo ≤ r && r < e.hi
  let low := (List.range c.regBase).filter fun r => c.written.getLsbD r && !seg r && !own r
  let regs := (List.range c.nctx).flatMap fun j =>
    if (c.ctxAt j).st = .free then [] else
      ((List.range 32).filter fun p => (c.ctxAt j).dirty.getLsbD (bitV p)).map fun p => c.ctxBase j + p
  low ++ regs
/-- ROWS entries of HOLDER: name and GEN. -/
def State.rowsDep (s : State) (k holder : Nat) : List (Word × BitVec 8) :=
  ((s.rowsEntries k).filter fun e => e.holder == holder).map fun e => (e.name, e.gen)
/-- The class of a husk at `base` (R346). -/
def State.huskClass (s : State) (k holder base : Nat) : Nat :=
  if isExternal base then 2
  else if (s.imageRows k holder).all (fun r => (s.coreAt k).regBase ≤ r) && (s.rowsDep k holder).length ≤ 4 then 0 else 1

/-! The save. -/

/-- The header (R344), with STATE WRITING. -/
def State.huskHeader (s : State) (k : Nat) (st : Stop) : Nat :=
  let c := s.coreAt k
  fields [(0, 0x4B535548), (4, 1), (7, s.huskClass k st.holder st.base), (8, k), (10, st.holder), (12, st.cause.toNat),
    (16, c.ktick.toNat), (24, c.partw.toNat), (32, c.decla.toNat), (40, c.declb.toNat), (48, c.wid.toNat), (56, c.deadline.toNat),
    (64, c.flags.toNat), (72, c.loopRet.toNat), (80, c.ctarget.toNat), (88, c.domain.toNat), (90, c.prof.toNat), (92, b2n c.task)] +
    at' 128 ((s.imageRows k st.holder).foldl (fun v r => v + 2 ^ r) 0) +
    fields (((s.rowsDep k st.holder).take 4).zipIdx.map fun (d, i) => (320 + 16 * i, d.1.toNat + at' 8 d.2.toNat))

/-- The blocks of a section. -/
def blocks (off n img : Nat) : List (Nat × List Byte) :=
  (List.range (n / 128)).map fun i => (off + 128 * i, leOf 128 (img / 2 ^ (1024 * i)))

/-- The sections of the state of a core, but for the header and the router packets: offset, size and contents (R343). -/
def Core.sections (c : Core) : List (Nat × Nat × Nat) :=
  let each (n size : Nat) (f : Nat → Nat) : Nat := fields ((List.range n).map fun i => (size * i, f i))
  (List.range 11).map (fun j => (0x200 + 512 * j, 512, (c.ctxAt j).latch)) ++
  [(0x1800, 1536, each 48 32 c.barImage), (0x1E00, 512, c.regImage), (0x2000, 1024, each 64 16 c.futImage),
   (0x2400, 6144, each 24 256 fun i => c.ringImages.getD i 0), (0x3C00, 1024, c.podImage),
   (0x4000, 256, each 4 64 fun i => fields ((List.range 8).map fun j =>
      (8 * j, (((c.inbox[i]?).map fun (m : Msg) => m.words.getD j 0).getD 0).toNat))),
   (0x4100, 256, c.attachImage)]

/-- Everything that a save writes, in blocks of 128 bytes by husk offset (R343). A section that holds nothing is not
written (R342), and of a context that is FREE only the STATE is (R345). -/
def State.huskBlocks (s : State) (k : Nat) (st : Stop) : List (Nat × List Byte) :=
  let c := s.coreAt k
  let bb (i : Nat) : List (Nat × List Byte) :=
    let b := Table.get (⟨15, []⟩ : BBuf) c.bbufs i
    if b.ty = 15 then [] else (List.range 128).map fun j => (0x8000 + 0x4000 * i + 128 * j, b.data.bytes (128 * j) 128)
  blocks 0 512 (s.huskHeader k st) ++
    (c.sections.flatMap fun x => if x.2.2 ≠ 0 then blocks x.1 x.2.1 x.2.2 else if x.2.1 = 512 && x.1 < 0x1800 then [(x.1 + 511, [0])] else []) ++
    bb 0 ++ bb 1 ++ (s.imageRows k st.holder).map fun r => (0x10000 + 128 * r, leOf 128 (c.row r))

/-- What the sequencer keeps beside the bytes of a husk. DESIGN CHOICE, log 10. -/
def Core.note (c : Core) (k packets : Nat) : HuskNote :=
  { core := k, tick := c.ktick, sects := (c.sections.filter fun x => x.2.2 != 0).map Prod.fst, msgs := c.inbox.map Msg.gang
    packets := packets, podMsg := c.podMsg, installed := c.installed, gfollowed := c.gfollowed, gangId := c.gangId
    taskNo := c.taskNo
    ctxs := (List.range 11).map fun j => ((c.ctxAt j).detached, (c.ctxAt j).wait == .gang, (c.ctxAt j).bans)
    bars := (List.range 48).map fun b => (c.barAt b).ts
    atts := c.attach.map fun t => (t.base, t.count, t.seg)
    futs := (List.range 64).map fun i => (c.fut i).tval
    queued := c.applyQ, image := c.image }
/-- The note of the husk that its core and STOPTICK name; of a husk that no save wrote, every section counts. -/
def State.noteOf (s : State) (k : Nat) (tick : Word) (installed : Bool) : HuskNote :=
  (s.husks.find? fun n => n.core == k && n.tick == tick).getD
    { core := k, tick := tick, sects := Core.empty.sections.map Prod.fst, msgs := [], packets := 0, podMsg := false
      installed := installed, gfollowed := false, gangId := 0, taskNo := 0, ctxs := [], bars := [], atts := [], futs := [], queued := [], image := false }

/-- Bytes of the husk of core `k`'s stop written at their home. -/
def State.huskWrite (s : State) (k base off : Nat) (bs : List Byte) : State :=
  (s.physWrite ⟨k, 0, false, none⟩ (base + off) bs (s.coreAt k).kptsNow).2

/-! The resume (R347). -/

/-- A recorded attachment as it stands now: restored where its segment is still RESIDENT on the core at its version, and void
otherwise (R244). -/
def State.attachCheck (s : State) (k : Nat) (t : Attach) : Attach :=
  { t with void := !(s.attachedSeg t).any fun g => g.core == k && g.st == .resident && g.ver == t.version }

/-- Is row `r` a register row whose dirty bit a latch record of the husk at `base` holds (R37, R345)? `c` is a core of the
partition of the husk. -/
def State.latchedRow (s : State) (c : Core) (base r : Nat) : Bool :=
  (List.range c.nctx).any fun j =>
    let off := base + 0x200 + 512 * j
    decide (c.ctxBase j ≤ r) && decide (r < c.ctxBase j + 32) && s.mem.readLE (off + 511) 1 / 64 != 0 &&
      s.mem.readLE (off + 496) 13 / 2 ^ bitV (r - c.ctxBase j) % 2 == 1

/-- The rows of a resume: those of the image as they were saved, a register row only with its dirty bit; every other row
that is no segment's and no ROWS entry's reads zero, and so does every register row that the image does not hold (R37). `d`
is a core of the partition of the husk. -/
def State.restoreRows (s : State) (k base : Nat) (rowmap : Nat) (d : Core) : State :=
  let c := s.coreAt k
  let regs := d.regBase
  let keep := (List.range regs).filter fun r =>
    (s.segs.any fun g => g.core == k && g.inPool && g.base ≤ r && r < g.base + g.count) ||
      (s.rowsEntries k).any fun e => e.lo ≤ r && r < e.hi
  let c := { c with
    pool := c.pool.filter fun p => keep.contains (p.1 / 128)
    written := (List.range 1536).foldl (fun w r => if keep.contains r then w else clearBit w r) c.written
    wbuf := [] }
  let rows := (List.range 1536).filter fun r => rowmap / 2 ^ r % 2 == 1 && (decide (r < regs) || s.latchedRow d base r)
  s.setCoreAt k (rows.foldl (fun (c : Core) r =>
    { c with pool := c.pool.putBytes (128 * r) (s.mem.bytes (base + 0x10000 + 128 * r) 128), written := setBit c.written r }) c)

/-- The state of a core that a husk at `base` restores. -/
def State.restore (s : State) (k base : Nat) : State :=
  let s := if isExternal base then s.outsideWrites else s
  let f (off n : Nat) : Nat := s.mem.readLE (base + off) n
  let w (off : Nat) : Word := word (f off 8)
  let note := s.noteOf k (w 16) (f 92 1 % 2 == 1)
  let s := s.restoreRows k base (f 128 192) { Core.empty with partw := w 24 }
  let f (off n : Nat) : Nat :=
    let sect := (Core.empty.sections.filter fun x => x.1 ≤ off && off < x.1 + x.2.1).map Prod.fst
    if sect.all note.sects.contains then f off n else 0
  let c := s.coreAt k
  let kpts := c.kptsNow
  let reg := f 0x1E00 512
  let bit (off i : Nat) : Bool := fieldOf reg off 1 / 2 ^ i % 2 == 1
  let buf (i : Nat) : BBuf := ⟨fieldOf reg (273 + i) 1,
    Memory.putBytes [] 0 (s.mem.bytes (base + 0x8000 + 0x4000 * i) 0x4000)⟩
  let bbufs : Table BBuf := ([0, 1].filter fun i => fieldOf reg (273 + i) 1 != 15).map fun i => (i, buf i)
  let cards (lo n : Nat) : List Card := (List.range n).filterMap fun i => cardOf (f (0x2400 + 256 * (lo + i)) 256) s.serial kpts
  let msgs : List Msg := note.msgs.zipIdx.map fun (g, i) =>
    ⟨f (0x4000 + 64 * i + 56) 8 / 2 ^ 17 % 2 == 1, (List.range 8).map fun j => word (f (0x4000 + 64 * i + 8 * j) 8), g, kpts⟩
  let dom := f 88 2 % 4096
  let rowsOf (i : Nat) : Nat × Nat × Option Nat := (note.atts[i]?).getD
    (((s.liveSeg dom (word (f (0x4100 + 16 * i) 8))).map fun g => (g.base, g.count, some g.no)).getD (0, 0, none))
  let ctx (j : Nat) : Ctx :=
    let x := Ctx.ofLatch (f (0x200 + 512 * j) 512) kpts
    let (det, gang, bans) := note.ctxs.getD j (false, false, none)
    { x with detached := det, wait := if gang then .gang else .none, bans := bans }
  let c := { c with
    ctxs := (List.range 11).map fun j => (j, ctx j)
    wid := w 48, partw := w 24, decla := w 32, declb := w 40, domain := BitVec.ofNat 12 dom, prof := BitVec.ofNat 16 (f 90 2),
    deadline := w 56, flags := w 64, ctarget := w 80, loopRet := w 72, task := f 92 1 % 2 == 1
    podMsg := note.podMsg, installed := note.installed, taskNo := note.taskNo, gangId := note.gangId, mxsat := bit 271 0, mxnarrow := bit 271 1
    cnt := regTable reg 0 8 16, evsel := regTable reg 128 8 16, tmax := word (fieldOf reg 256 8)
    jcount := BitVec.ofNat 32 (fieldOf reg 264 4), amask := BitVec.ofNat 16 (fieldOf reg 268 2)
    gleft := bit 270 0, gformed := bit 270 1, gattached := bit 270 2, gfollowed := note.gfollowed, image := note.image, uncounted := true
    futs := (List.range 64).map fun i => (i, futOf (f (0x2000 + 16 * i) 16) (note.futs.getD i 0) kpts)
    mxRing := cards 0 8, cpRing := cards 8 16, bbufs := bbufs
    pods := podsOf (f 0x3C00 256), inbox := msgs, past := [], touched := []
    attach := ((List.range 16).filterMap fun i => attachOf (f (0x4100 + 16 * i) 16) (rowsOf i)).map (s.attachCheck k) }
  let c := { c with applyQ := (List.range 16).filterMap fun i => (applyOf (f (0x3D00 + 48 * i) 48)).map fun a =>
    match note.queued[i]? with
    | some q => ⟨a, q.cap, q.own⟩
    | none => ⟨a, c.capOf (c.slotAt (a.handle.toNat % 64)), true⟩ }
  let c := (List.range 48).foldl (fun (c : Core) b => c.barRestore b (f (0x1800 + 32 * b) 32) (note.bars.getD b 0)) c
  { s.setCoreAt k c with
    serial := s.serial + 24
    barq := s.barq ++ (List.range note.packets).filterMap fun i => packetOf (f (0x4200 + 64 * i) 64) kpts }

end Sys2Proof.Machine
end

