-- ==== Sys2Proof/Machine/Keeper.lean ====
section
/-! DEFINITION. The keeper: kread and kwrite (R293, R338), and the events of the synchronised stop, the husk and the
resume (R339 to R350). An event that is not due leaves the state as it is. -/

namespace Sys2Proof.Machine

/-! Keeper access. -/

/-- A status register of context `j` of core `k` as keeper `o` reads it. -/
def State.keeperRead (s : State) (o k j i : Nat) : Option Word :=
  let c := s.coreAt k
  match i with
  | 0x100 => some (c.kcause.setWidth 64)
  | 0x101 => some c.kepc
  | 0x102 => some c.ktval
  | 0x103 => some c.ktick
  | 0x104 => some c.khusk
  | 0x105 => some c.hstatReg
  | 0x106 => some (if c.stop.isSome then 1 else 0)
  | 0x107 => some c.kresume
  | 0x108 => some c.waddr
  | 0x109 => some c.wctl
  | 0x10A => some c.kptsNow
  | _ => if 0x100 ≤ i then none else s.readSR o k j i

/-- Does the husk at `base` belong to core `k` as it stands (R347)? -/
def State.huskOk (s : State) (k base : Nat) : Bool :=
  let f (off n : Nat) : Nat := s.mem.readLE (base + off) n
  f 0 4 == 0x4B535548 && f 4 2 == 1 && f 6 1 == 1 && f 8 2 == k && f 10 2 == s.holderOf k &&
  (List.range 4).all fun i =>
    let nm := word (f (320 + 16 * i) 8)
    nm == 0 || match Res.ofName nm with
      | some r => match s.entryFor r with
        | some e => e.holder == s.holderOf k && !e.ended && e.gen.toNat == f (328 + 16 * i) 8
        | none => false
      | none => false

/-- A kwrite of KRESUME by OID `o` (R347): the value 0, or the checks of a husk and the start of its resume. DEDUCED,
log 69. -/
def State.writeResume (s : State) (o k : Nat) (v : Word) : Except Trap State :=
  let c := s.coreAt k
  if !c.stopped || c.stop.isSome then .error (Cause.HUSK_INVALID, v)
  else if v = 0 then .ok ((s.updCoreAt k fun c => { c with kresume := 0 }).restart k)
  else
    let held := match Res.ofName v with
      | some r => r.cls == cMem && s.heldWhole o r
      | none => false
    if !held then .error (Cause.EXTENT_NOT_HELD, v)
    else match huskBase v with
      | none => .error (Cause.HUSK_INVALID, v)
      | some base =>
        let s := if isExternal base then s.outsideWrites else s
        if s.huskOk k base then
          .ok ((s.huskWrite k base 6 [3]).updCoreAt k fun c => { c with hstat := .resuming, kresume := v, resumeAt := s.now })
        else .error (Cause.HUSK_INVALID, v)

/-- A kwrite by OID `o` of a register of context `j` of core `k` (R38, R338); the fault where it changes nothing. -/
def State.keeperWrite (s : State) (o k j i : Nat) (v : Word) : Except Trap State :=
  let upd (f : Core → Core) : Except Trap State := .ok (s.updCoreAt k f)
  if i = 0x010 || (0x040 ≤ i && i ≤ 0x05F) then
    match s.writeSR o k j i v with
    | some s => .ok s
    | none => .error (Cause.SR_ACCESS, word i)
  else match i with
    | 0x104 => upd fun c => { c with khusk := v, khuskBy := o }
    | 0x106 =>
      let c := s.coreAt k
      if v ≠ 1 then .ok s
      else if c.khusk = 0 then .error (Cause.HUSK_INVALID, 0)
      else .ok (s.beginStop k Cause.STOP_KEEPER c.khusk c.khuskBy (stopTick s.now) [])
    | 0x107 => s.writeResume o k v
    | 0x108 => upd fun c => { c with waddr := v }
    | 0x109 => upd fun c => { c with wctl := v &&& 0xFFFF0003 }
    | _ => .error (Cause.SR_ACCESS, word i)

/-- Core-scope status registers (R38, R338). -/
def coreScope (i : Nat) : Bool :=
  i == 0 || (0x002 ≤ i && i ≤ 0x005) || i == 0x022 || (0x030 ≤ i && i ≤ 0x034) || (0x040 ≤ i && i ≤ 0x060) ||
  (0x100 ≤ i && i ≤ 0x10A)

/-- Is the OID a keeper of the core (R274)? -/
def State.isKeeper (s : State) (o k : Nat) : Bool := (s.coreEntry k).keepers.contains o

/-- The core that a kread or kwrite names, of which the executing OID is a keeper. -/
def State.keptCore (s : State) (n : Word) : Run Nat := do
  let r ← ownName n
  if r.cls ≠ cCore then fault Cause.OWN_BAD_NAME n
  else if !s.isKeeper s.oid r.lo then fault Cause.OWN_NOT_KEEPER n
  else .ok r.lo

/-- RESERVED_FIELD where a core-scope register is named with a context (R293); TVAL holds the first word. -/
def State.keeperInstr (s : State) (i : BitVec 10) (x : BitVec 4) (w : BitVec 32) (us : List Use) (body : State → Run Done) :
    Host.Outcome State Fault Refusal :=
  if x ≠ 0 && coreScope i.toNat then .next (s.takeTrap s.me.pc Cause.RESERVED_FIELD (w.setWidth 64))
  else s.ownInstr 12 us body

/-- kread xd, xs1, index, ctx (R293). -/
def execKread (d a : BitVec 5) (i : BitVec 10) (x : BitVec 4) (s : State) :=
  s.keeperInstr i x (packR 10 0 a d 51 2) [.x d, .x a] fun s => do
    let k ← s.keptCore (s.xr a)
    match s.keeperRead s.oid k x.toNat i.toNat with
    | some v => goes (s.setX d v)
    | none => fault Cause.SR_ACCESS (i.setWidth 64)

/-- kwrite xs2, xs1, index, ctx (R293). -/
def execKwrite (a v : BitVec 5) (i : BitVec 10) (x : BitVec 4) (s : State) :=
  s.keeperInstr i x (packR 11 v a 0 51 2) [.x a, .x v] fun s => do
    let k ← s.keptCore (s.xr a)
    let wr (s : State) : Run State := liftTrap (s.keeperWrite s.oid k x.toNat i.toNat (s.xr v))
    if i.toNat / 16 = 4 || i.toNat / 16 = 5 then do
      let s ← wr (s.countFirst k (i.toNat % 16) (i.toNat / 16 == 4))
      .ok (.wrote s)
    else andGoes (wr s)

/-- A keeper's write as an event: it changes nothing where it would fault. DEDUCED, log 88. -/
def State.keeperEvent (s : State) (o k j i : Nat) (v : Word) : Host.Outcome State Fault Refusal :=
  if !(coreExists k && s.oidLive o && s.isKeeper o k) then .next s
  else match s.keeperWrite o k j i v with
    | .ok t => .next t
    | .error _ => .next s

/-- KSTOP_WRITE (R338). -/
def execKstopWrite (k : Nat) (v : Word) (o : Nat) (s : State) := s.keeperEvent o k 0 0x106 v
/-- KRESUME_WRITE (R347). -/
def execKresumeWrite (k : Nat) (v : Word) (o : Nat) (s : State) := s.keeperEvent o k 0 0x107 v
/-- EVENT_SELECT_WRITE (R357). -/
def execEventSelectWrite (k i : Nat) (v : Word) (o : Nat) (s : State) := s.keeperEvent o k 0 (0x050 + i % 16) v
/-- COUNTER_WRITE (R130). -/
def execCounterWrite (k i : Nat) (v : Word) (o : Nat) (s : State) := s.keeperEvent o k 0 (0x040 + i % 16) v
/-- TFLAGS_WRITE (R130): a write of TFLAGS by a LIVE context. -/
def execTflagsWrite (k j : Nat) (v : Word) (s : State) : Host.Outcome State Fault Refusal :=
  if coreExists k && ((s.coreAt k).ctxAt j).st == .live && (s.coreAt k).hstat == .running then
    match s.writeSR (s.holderOf k) k j 0x014 v with
    | some t => .next t
    | none => .next s
  else .next s

/-! The synchronised stop. -/

/-- The stop of a core, where it has one. -/
def State.stopOf (s : State) (k : Nat) : Option Stop := (s.coreAt k).stop
def State.setStop (s : State) (k : Nat) (st : Option Stop) : State := s.updCoreAt k fun c => { c with stop := st }

/-- The gang members of a core that are in no stop with this tick (R351). -/
def State.gangApart (s : State) (k tick : Nat) : Bool :=
  (s.coreAt k).gformed && !(s.coreAt k).gleft && (s.gang k).any fun m =>
    !(s.coreAt m).gleft && (match s.stopOf m with
      | some st => st.tick != tick
      | none => true)

/-- STOP_TICK (R339): the core stops issuing. A deadline abort due by then is made first (R349); a gang of which some
member is not in the stop set detaches (R351). -/
def execStopTick (k : Nat) (s : State) : Host.Outcome State Fault Refusal :=
  match s.stopOf k with
  | none => .next s
  | some st =>
    if st.ticked || decide (s.now < st.tick) || (s.coreAt k).hstat != .running then .next s
    else
      let s := if (s.coreAt k).abortSet && s.pastDeadlineAt k st.tick then s.deadlineAbort k else s
      let s := if s.gangApart k st.tick then s.detachAll (s.gangLeader k) false else s
      let s := ctxNums.foldl (fun s j => s.parkShape k j) s
      .next (s.updCoreAt k fun c => { c with
        kcause := st.cause, kepc := (c.ctxAt 0).pc, ktick := word st.tick, hstat := .stopping,
        stop := some { st with ticked := true, holder := s.holderOf k } })

/-- A context at the end of quiescing (R340): what it waited for is abandoned, but a gang.join that has counted, a map
instruction whose step was taken, and a barrier event on its way stand. -/
def Ctx.quiesce (x : Ctx) : Ctx :=
  let x := { x with loading := 0, storing := false, extOut := false, ext := none }
  match x.wait with
  | .gang => x
  | .done => { x with wait := .none, pc := x.pc + 4 }
  | _ => { x with wait := .none }

/-- The accepts of a core's contexts are abandoned in every stop that they wait for. -/
def State.dropAccepts (s : State) (k : Nat) : State :=
  let mine (e : StopEnd) : Bool := match e with
    | .accept (some (m, _)) _ => m == k
    | _ => false
  (s.cores.filter fun p => p.2.stop.any fun st => st.ends.any mine).foldl (fun s p =>
    s.updCoreAt p.1 fun c => { c with stop := c.stop.map fun st => { st with ends := st.ends.filter fun e => !mine e } }) s

/-- QUIESCE_END (R340): every step that had begun has been made, since a transition of the model is one. -/
def execQuiesceEnd (k : Nat) (s : State) : Host.Outcome State Fault Refusal :=
  match s.stopOf k with
  | none => .next s
  | some st =>
    if !st.ticked || st.quiet then .next s
    else
      let s := (s.landCore k).updCoreAt k fun c => { c with
        ctxs := c.ctxs.map fun p => (p.1, p.2.quiesce), stop := some { st with quiet := true } }
      .next (s.dropAccepts k)

/-- The husk region of a stop (R342): KHUSK for the causes that carry none of their own. -/
def Core.stopRegion (c : Core) (st : Stop) : Word × Nat :=
  if st.region = 0 && (st.cause == Cause.STOP_TERM || st.cause == Cause.STOP_KEEPER || st.cause == Cause.POWER_EMERGENCY) then
    (c.khusk, c.khuskBy)
  else (st.region, st.namer)

/-- A task whose record the core has not taken counts as running (R321): it ends faulted too, and its record goes. -/
def State.dropRecords (s : State) (k : Nat) : State :=
  let c := s.coreAt k
  ((c.inbox.filter fun m => !m.kind).foldl (fun s m =>
    s.commitAt k (m.words.getD 4 0) (m.words.getD 1 0) .faulted 8 (later m.pts c.kptsNow)) s).updCoreAt k fun c => { c with inbox := c.inbox.filter Msg.kind }

/-- A stop that writes no husk (R342): the task ends as by R335, but with KCAUSE the stop cause. -/
def State.voidStop (s : State) (k : Nat) (st : Stop) : State :=
  let msg := (s.coreAt k).podMsg
  let s := s.dropRecords k
  let s := if (s.coreAt k).task || msg then (s.commit k .faulted 8).endTask k (!msg) false else s
  s.updCoreAt k fun c => { c with
    kcause := st.cause, hstat := .void, hclass := 0, hblocks := 0, stop := some { st with flushed := true, finished := true } }

/-- The stop taken off a core when nothing waits for its end. -/
def State.endStop (s : State) (k : Nat) : State :=
  match s.stopOf k with
  | some st => if st.finished && st.ends.isEmpty then s.setStop k none else s
  | none => s

/-- Flits in the save buffer of the router of a core's cluster (R341). -/
def State.staged (s : State) (k : Nat) : Nat :=
  s.cores.foldl (fun n p => if clusterOf p.1 = clusterOf k then n + (p.2.stop.map fun st => st.saved.length).getD 0 else n) 0

/-- The token at the router of a core's cluster: those of the core's packets that have not been delivered go to the save
buffer of 32 flits as far as there is room, and the token waits while some stay behind (R341). DEDUCED, log 69: the
router of the sender's cluster stages them. -/
def State.stageFlits (s : State) (k : Nat) (st : Stop) : State :=
  let mine := s.barq.filter fun p => p.2.from k
  let fit := mine.take (32 - s.staged k)
  let s := { s with
    barq := fit.foldl (fun q p => q.erase p) s.barq
    husks := s.husks.map fun (n : HuskNote) =>
      if n.core == k && n.tick == (s.coreAt k).ktick then { n with packets := n.packets + fit.length } else n }
  s.setStop k (some { st with saved := st.saved ++ fit, flushed := fit.length == mine.length })

/-- FLUSH_TOKEN (R341): when every core of the stop set has quiesced, the token collects the core's packets, and its save
begins. A core that still resumes has nothing to quiesce: it is in the set when it runs (R295). DEDUCED, log 69. -/
def execFlushToken (k : Nat) (s : State) : Host.Outcome State Fault Refusal :=
  match s.stopOf k with
  | none => .next s
  | some st =>
    let set := s.cores.all fun p => p.2.hstat == .resuming || p.2.stop.all fun t => t.tick != st.tick || t.quiet || t.finished
    if !st.quiet || st.flushed || st.finished || !set then .next s
    else if (s.coreAt k).hstat == .writing then .next (s.stageFlits k st)
    else
      let (region, namer) := if st.noHusk then (0, 0) else (s.coreAt k).stopRegion st
      let lost := ({ s with barq := s.barq.filter fun p => !p.2.from k } : State)
      match huskBase region with
      | some base =>
        if s.huskHeld namer region && !isPeer base then
          let st := { st with base := base }
          let st := { st with todo := s.huskBlocks k st }
          let s := s.huskWrite k base 6 [0]
          let cls := s.huskClass k st.holder base
          let note := (s.coreAt k).note k 0
          let s := { s with husks := note :: s.husks.filter fun n => !(n.core == note.core && n.tick == note.tick) }
          .next ((s.updCoreAt k fun c => { c with hstat := .writing, hclass := cls, hblocks := 0 }).stageFlits k st)
        else .next ((lost.voidStop k st).endStop k)
      | none => .next ((lost.voidStop k st).endStop k)

/-- SAVE_BUFFER_DRAIN (R341): one flit of the save buffer joins the husk; two of them are one block (R342). -/
def execSaveBufferDrain (k : Nat) (s : State) : Host.Outcome State Fault Refusal :=
  match s.stopOf k with
  | none => .next s
  | some st => match st.saved with
    | [] => .next s
    | (dst, p) :: rest =>
      if st.finished then .next s
      else .next ((s.huskWrite k st.base (0x4200 + 64 * st.drained) (leOf 64 (packetImage dst p))).updCoreAt k fun c => { c with
        hblocks := c.hblocks + (1 - st.drained % 2), stop := some { st with saved := rest, drained := st.drained + 1 } })

/-- HUSK_SAVE_STEP (R342): one block of the husk is written. -/
def execHuskSaveStep (k : Nat) (s : State) : Host.Outcome State Fault Refusal :=
  match s.stopOf k with
  | none => .next s
  | some st => match st.todo with
    | [] => .next s
    | (off, bs) :: rest =>
      if st.finished then .next s
      else .next ((s.huskWrite k st.base off bs).updCoreAt k fun c => { c with
        hblocks := c.hblocks + 1, stop := some { st with todo := rest } })

/-- HUSK_VALID (R342). -/
def execHuskValid (k : Nat) (s : State) : Host.Outcome State Fault Refusal :=
  match s.stopOf k with
  | none => .next s
  | some st =>
    if !st.flushed || st.finished || !st.todo.isEmpty || !st.saved.isEmpty then .next s
    else
      let s := s.huskWrite k st.base 6 [1]
      .next ((s.updCoreAt k fun c => { c with hstat := .valid, stop := some { st with finished := true } }).endStop k)

/-- Does the context still wait in its accept? -/
def State.acceptWaits (s : State) : Option (Nat × Nat) → Bool
  | none => true
  | some (k, j) => ((s.coreAt k).ctxAt j).st == .live && ((s.coreAt k).ctxAt j).wait == .other

/-- The end of an accept (R280): the offer is taken, and the core starts its resident loop under its new holder. -/
def State.acceptEnd (s : State) (k : Nat) (who : Option (Nat × Nat)) (nm : Word) : State :=
  match (Res.ofName nm).bind s.offerAt with
  | none => s
  | some (e, o) =>
    if !s.acceptWaits who then s
    else
      match who with
      | none => (s.takeOffer e o).restart k
      | some (m, j) =>
        let (e, s) := s.mapStepOf m j e
        (((s.takeOffer e o).restart k).followMapOf m j e).updCtx m j fun x => { x with wait := .done }

/-- Do cards of the former holder still touch a core that an accept waits for (R280)? -/
def State.acceptTouched (s : State) (st : Stop) : Bool :=
  st.ends.any fun e => match e with
    | .accept _ nm => match Res.ofName nm with
      | some r => (s.offerAt r).any fun p => s.touching p.1.holder r
      | none => false
    | _ => false

/-- ACCEPT_STOP_END (R280): when the husk is written and those cards have completed. -/
def execAcceptStopEnd (k : Nat) (s : State) : Host.Outcome State Fault Refusal :=
  match s.stopOf k with
  | none => .next s
  | some st =>
    if !st.finished || !st.ends.any StopEnd.isAccept || s.acceptTouched st then .next s
    else
      let s := s.setStop k (some { st with ends := st.ends.filter fun e => !e.isAccept })
      let s := st.ends.foldl (fun s e => match e with
        | .accept who nm => s.acceptEnd k who nm
        | _ => s) s
      .next (s.endStop k)

/-- The reclaim of every loan to OID `o` (R350): a core that another OID holds under one is stopped first. -/
def State.reclaimFrom (s : State) (o : Nat) : State :=
  (s.entries.filter fun e => e.loans.any fun l => l.borrower == o).foldl (fun s e =>
    match e.loans.findIdx? fun l => l.borrower == o with
    | none => s
    | some j =>
      match e.loans[j]? with
      | none => s
      | some l =>
        if e.cls = cCore && !(s.coreAt e.lo).stopped then
          s.beginStop e.lo Cause.STOP_RECLAIM l.husk l.lender (stopTick s.now) [.reclaim e.name l.lender]
        else s.finishReclaim e.name e j true) s

/-- What ends with a stop but an accept (R285, R291, R350). -/
def State.stopEnd (s : State) : StopEnd → State
  | .accept _ _ => s
  | .reclaim nm lender =>
    match (Res.ofName nm).bind s.entryFor with
    | some e => match e.lentBy lender with
      | some j => s.finishReclaim nm e j true
      | none => s
    | none => s
  | .clear nm =>
    match (Res.ofName nm).bind s.entryFor with
    | some e => s.clearEntry e
    | none => s
  | .flr o =>
    if s.cores.any fun p => p.2.stop.any fun st => st.ends.contains (.flr o) then s else s.reclaimFrom o

/-- RECLAIM_STOP_END (R285). -/
def execReclaimStopEnd (k : Nat) (s : State) : Host.Outcome State Fault Refusal :=
  match s.stopOf k with
  | none => .next s
  | some st =>
    let mine (e : StopEnd) : Bool := match e with
      | .accept _ _ => false
      | _ => true
    if !st.finished || !st.ends.any mine then .next s
    else
      let s := s.setStop k (some { st with ends := st.ends.filter fun e => !mine e })
      let s := (st.ends.filter mine).foldl State.stopEnd s
      .next (s.endStop k)

/-- POWER_EMERGENCY (R349): every compute core that is not DEFUNCT stops. -/
def execPowerEmergency (s : State) : Host.Outcome State Fault Refusal :=
  .next ((List.range 8192).foldl (fun s k =>
    let e := s.coreEntry k
    if e.holder = 0xFFFF then s
    else
      let (region, namer) := match e.loans.getLast? with
        | some l => (l.husk, l.lender)
        | none => (0, 0)
      s.beginStop k Cause.POWER_EMERGENCY region namer (stopTick s.now) []) s)

/-- A function-level reset at one core of OID `o` (R350): a save under way ends at its block boundary, and no other
save begins. -/
def State.flrCore (s : State) (o k : Nat) : State :=
  let c := s.coreAt k
  if c.stopped && c.stop.isNone then s
  else if c.hstat == .writing then
    match c.stop with
    | none => s
    | some st => (s.huskWrite k st.base 6 [2]).updCoreAt k fun c => { c with
        hstat := .void, stop := some { st with finished := true, todo := [], saved := [], ends := st.ends ++ [.flr o] } }
  else
    let s := s.beginStop k Cause.STOP_FLR 0 0 (stopTick s.now) [.flr o]
    s.updCoreAt k fun c => { c with stop := c.stop.map fun st => { st with
      cause := if st.ticked then st.cause else Cause.STOP_FLR, noHusk := true } }

/-- FUNCTION_LEVEL_RESET (R350). -/
def execFunctionLevelReset (f : Nat) (s : State) : Host.Outcome State Fault Refusal :=
  let o := (s.funcAt f).oid.toNat
  if o = 0 || !s.oidLive o then .next s
  else
    let held := (s.entries.filter fun e => e.cls == cCore && e.holder == o).map Entry.lo
    let held := if s.endowed && o == 1 then (List.range 8200).filter fun k => s.holderOf k == 1 else held
    let s := held.foldl (fun s k => s.flrCore o k) s
    .next (if held.any fun k => (s.stopOf k).any fun st => st.ends.contains (.flr o) then s else s.reclaimFrom o)

/-- RESUME_COMPLETE (R347): the husk has been restored; packets held for the core are delivered, and those it had sent
go on. -/
def execResumeComplete (k : Nat) (s : State) : Host.Outcome State Fault Refusal :=
  if (s.coreAt k).hstat != .resuming then .next s
  else match huskBase (s.coreAt k).kresume with
    | none => .next s
    | some base =>
      let s := s.restore k base
      .next (s.updCoreAt k fun c => { c.takeHeld with hstat := .running })

end Sys2Proof.Machine
end

