-- ==== Sys2Proof/Machine/Timed.lean ====
section
/-! DEFINITION. The passing of time, and the events that fall due by it: at cores (R27, R222, R225, R249, R289, R318),
in the map (R277, R284, R292), at segments (R232), counters (R358 to R362), buckets (R316) and the power manager
(R319). An event that is not due leaves the state as it is. -/

namespace Sys2Proof.Machine

/-! Events at a core. -/

/-- Is the deadline abort of a core's task due (R27)? -/
def State.abortDue (s : State) (k : Nat) : Bool :=
  let c := s.coreAt k
  c.active && c.abortSet && s.pastDeadline k

/-- DEADLINE_ABORT (R27). -/
def execDeadlineAbort (k : Nat) (s : State) : Host.Outcome State Fault Refusal :=
  .next (if s.abortDue k then s.deadlineAbort k else s)

/-- POD_MESSAGE_DELIVER (R225): the oldest pod message on its way to the core enters its inbox; a core with no install state
loses it (R227). -/
def execPodMessageDeliver (k : Nat) (s : State) : Host.Outcome State Fault Refusal :=
  let c := s.coreAt k
  if !c.active || decide (4 ≤ c.inbox.length) then .next s
  else
    let pick (p : Nat × Packet) : Option Msg := match p.2 with
      | .inbox _ m => if p.1 = k then some m else none
      | _ => none
    match s.barq.find? fun p => (pick p).isSome with
    | none => .next s
    | some p => match pick p with
      | none => .next s
      | some m =>
        let s := { s with barq := s.barq.erase p }
        .next (if c.installed then s.updCoreAt k fun c => { c with inbox := c.inbox ++ [m] } else s)

/-- APPLY_QUEUE_START (R222). -/
def execApplyQueueStart (k : Nat) (s : State) : Host.Outcome State Fault Refusal :=
  .next (if (s.coreAt k).active then s.startQueued k else s)

/-- How an attempt to deliver a notice ends (R288, R289): none where it must wait. -/
def State.deliver (s : State) (n : Notice) : Option State :=
  match s.hooks.find? fun h => h.oid == n.oid && h.kind == n.kind with
  | none => some s
  | some h =>
    if !(s.coreAt h.core).active then none
    else
      let x := (s.coreAt h.core).ctxAt 0
      match s.spawnApply h.core ⟨h.handle, x.stacklim, x.trapvec, n.data⟩ false 0 with
      | (.bad _, _) => some { s with hooks := s.hooks.filter fun g => !(g.oid == n.oid && g.kind == n.kind) }
      | (.full, _) => none
      | (_, s) => some s

/-- NOTICE_DELIVER: of the notices that can be delivered, the oldest (R289). -/
def execNoticeDeliver (s : State) : Host.Outcome State Fault Refusal :=
  match s.notices.find? fun n => (s.deliver n).isSome with
  | none => .next s
  | some n => match ({ s with notices := s.notices.erase n } : State).deliver n with
    | some s => .next s
    | none => .next s

/-- The logical clocks of a core's LIVE contexts and running cards rise by 1. -/
def Core.tickPts (c : Core) : Core :=
  if c.stopped then c
  else
    let up (k : Card) : Card := if k.running then { k with pts := k.pts + 1 } else k
    { c with
      ctxs := c.ctxs.map fun p => if Ctx.st p.2 = .live then (p.1, { p.2 with pts := p.2.pts + 1 }) else p
      mxRing := c.mxRing.map up, cpRing := c.cpRing.map up }

/-- Is a multiple of 64 ticks reached for which the clocks have not risen? -/
def State.ptsDue (s : State) : Bool := decide (s.pts64 < s.now / 64)

/-- PTS_ADVANCE: at every core of the device (R249). -/
def execPtsAdvance (s : State) : Host.Outcome State Fault Refusal :=
  .next (if s.ptsDue then
      { s with
        pts64 := s.pts64 + 1
        cores := ((List.range 8200).filter coreExists).foldl (fun t k =>
          Table.put t k (Core.tickPts (Table.get Core.empty t k))) s.cores }
    else s)

/-- GLOBAL_LOAD_RETURN (R105). -/
def execGlobalLoadReturn (k j : Nat) (s : State) : Host.Outcome State Fault Refusal :=
  .next (if coreExists k then s.updCtx k j fun x => { x with loading := 0 } else s)

/-- GLOBAL_STORE_RETURN: the context's global stores have returned, its external ones from their homes (R249, R163,
R255). -/
def execGlobalStoreReturn (k j : Nat) (s : State) : Host.Outcome State Fault Refusal :=
  .next (if coreExists k then (s.landCtx k j).updCtx k j fun x => { x with storing := false, extOut := false } else s)

/-- A forwarded barrier event takes effect at the holding member (R170): its context gets the answer, or sleeps. -/
def State.linkedEvent (s : State) (b src j : Nat) (fn : BarFn) (n : Word) : State :=
  if ((s.coreAt src).ctxAt j).bans ≠ some .sent then s
  else
    match s.barEvent src j b fn n with
    | (s, some a) => s.updCtx src j fun x => { x with bans := some a }
    | (s, none) => s.updCtx src j fun x => { x with bans := none, wait := .bar b false }

/-- LINKED_BARRIER_EVENT: the oldest forwarded event whose holding member is not stopped. -/
def execLinkedBarrierEvent (s : State) : Host.Outcome State Fault Refusal :=
  let ready (p : Nat × Packet) : Bool := match p.2 with
    | .bar b src _ _ _ => (s.coreAt (s.barHolder src b)).active && !s.linkPending src b
    | _ => false
  match s.barq.find? ready with
  | none => .next s
  | some p => match p.2 with
    | .bar b src j fn n => .next (({ s with barq := s.barq.erase p } : State).linkedEvent b src j (BarFn.ofCode fn) n)
    | _ => .next s

/-- Does a context sleep in bar.wait, fwait, join or ibx.take (R318)? -/
def Core.sleeps (c : Core) (j : Nat) : Bool :=
  match (c.ctxAt j).wait with
  | .bar _ woken => !woken
  | .fut _ res => res.isNone
  | .join k _ => k != 0 && (c.ctxAt k).st == .live
  | .inbox => j == 0 && c.inbox.isEmpty
  | _ => false

/-- Does every LIVE context of the core sleep? -/
def Core.idles (c : Core) : Bool := c.liveCtxs.all c.sleeps

/-- CLOCK_GATE (R318). -/
def execClockGate (k : Nat) (s : State) : Host.Outcome State Fault Refusal :=
  let c := s.coreAt k
  .next (if coreExists k && c.active && c.idles then s.updCoreAt k fun c => { c with gated := true } else s)

/-- A core leaves gating when one of its contexts becomes ready (R318). -/
def State.ungate (s : State) : State :=
  { s with cores := s.cores.map fun (p : Nat × Core) => if p.2.gated && !p.2.idles then (p.1, { p.2 with gated := false }) else p }

/-! Events in the map and at segments. -/

/-- The entry of a name, and its loan at a level. -/
def State.loanAt (s : State) (nm : Word) (j : Nat) : Option (Entry × Loan) :=
  match s.entries.find? fun e => e.name == nm with
  | some e => e.loans[j]?.map fun l => (e, l)
  | none => none

/-- Loans `j` to top become DUE, and the holder's use ends (R284): a core stops at the deadline's own tick (R339). -/
def State.endUse (s : State) (e : Entry) (j : Nat) (l : Loan) (tick : Nat) : State :=
  let s := s.putEntry { e with loans := e.loans.mapIdx fun i m => if j ≤ i then { m with due := true } else m }
  if e.cls = cCore then s.beginStop e.lo Cause.STOP_TERM l.husk l.lender tick [] else s

def Loan.termDue (l : Loan) (now : Nat) : Bool := !l.due && decide (l.term.toNat ≤ now)
def Loan.graceDue (l : Loan) (now : Nat) : Bool := !l.due && l.recalled && decide (l.rdl.toNat ≤ now)
def Loan.nearDue (l : Loan) (now : Nat) : Bool := !l.due && !l.near && decide (l.term.toNat ≤ now + 65536)

/-- LOAN_TERM_EXPIRY (R284). -/
def execLoanTermExpiry (nm : Word) (j : Nat) (s : State) : Host.Outcome State Fault Refusal :=
  match s.loanAt nm j with
  | some (e, l) => .next (if l.termDue s.now then s.endUse e j l l.term.toNat else s)
  | none => .next s

/-- GRACE_DEADLINE_EXPIRY (R284). -/
def execGraceDeadlineExpiry (nm : Word) (j : Nat) (s : State) : Host.Outcome State Fault Refusal :=
  match s.loanAt nm j with
  | some (e, l) => .next (if l.graceDue s.now then s.endUse e j l l.rdl.toNat else s)
  | none => .next s

/-- TERM_NEAR (R277). -/
def execTermNear (nm : Word) (j : Nat) (s : State) : Host.Outcome State Fault Refusal :=
  match s.loanAt nm j with
  | some (e, l) =>
    if l.nearDue s.now then
      let s := s.putEntry { e with loans := e.loans.set j { l with near := true } }
      .next (s.notify ⟨l.borrower, 2, nm, noticeData 2 nm (word l.lender) l.term⟩)
    else .next s
  | none => .next s

/-- Has OID `o` a core, a queued launch record, or a task in a pool (R292)? DEDUCED, log 73. -/
def State.oidBusy (s : State) (o : Nat) : Bool :=
  s.holdsCore o ||
  (s.qslots.any fun q => q.2.enable && !q.2.completion && q.2.head != q.2.tail && s.holdsOne o cQueue q.2.queue.toNat) ||
  (s.spawns.any fun q => q.2.any fun r => s.domHolder r.domain == o) ||
  (s.slots.any fun l => decide (l.2.next < l.2.total) && s.domHolder l.2.domain == o) ||
  s.pool.any fun n => match s.slots.find? fun l => l.1 == n.slot with
    | some (_, l) => s.domHolder l.domain == o
    | none => false

/-- Is the idle time of a live OID over (R292)? -/
def State.idleDue (s : State) (o : Nat) (i : Oid) : Bool :=
  match i.idle with
  | some t => decide (t + 16777216 ≤ s.now) && !s.oidBusy o
  | none => false

/-- OID_IDLE_RETIRE (R292). -/
def execOidIdleRetire (o : Nat) (s : State) : Host.Outcome State Fault Refusal :=
  match s.oids.find? fun p => p.1 == o with
  | some (_, i) => .next (if o ≠ 1 && s.idleDue o i then s.retireOid o 1 0 else s)
  | none => .next s

/-- Is the term of a TERM segment reached (R232)? -/
def Seg.termDue (g : Seg) (now : Nat) : Bool := g.live && g.cls == 3 && decide (g.term.toNat ≤ now)

/-- SEG_TERM_END (R232). -/
def execSegTermEnd (dom : Nat) (nm : Word) (s : State) : Host.Outcome State Fault Refusal :=
  match s.liveSeg dom nm with
  | some g => .next (if g.termDue s.now then s.dropSeg g else s)
  | none => .next s

/-! Counters. -/

/-- COUNTER_SNAPSHOT (R362). -/
def execCounterSnapshot (s : State) : Host.Outcome State Fault Refusal :=
  .next (if s.snaps < s.now / 2 ^ 20 then
      { s with snaps := s.snaps + 1, shared := s.shared.map fun (p : Nat × Shared) => (p.1, { p.2 with snap := p.2.count }) }
    else s)

/-- Event codes of which the model does not follow the events, and so adds free amounts (R358). DESIGN CHOICE, log 87. -/
def freeEvents : List Nat := [4, 5, 17, 18]

/-- COUNTER_WRAP (R360): an addition of events that carries a counter past its end. -/
def execCounterWrap (k i amt : Nat) (s : State) : Host.Outcome State Fault Refusal :=
  let c := s.coreAt k
  let sel := Table.get 0 c.evsel i
  if coreExists k && decide (i < 16) && c.active && c.counts && !selShared sel && freeEvents.contains (selEvent sel) &&
      (decide (selEvent sel < 17) || s.holderOf k == 1) && decide (amt < 2 ^ 48) &&
      decide (2 ^ 48 ≤ (Table.get 0 c.cnt i).toNat + amt) then .next (s.addCounter k i (selEvent sel) amt)
  else .next s

/-! Buckets (R316). -/

/-- The enabled bucket that applies to a domain. -/
def State.bucketOf (s : State) (dom : Nat) : Option (Nat × Bucket) :=
  s.buckets.find? fun p => p.2.enable && p.2.dom.toNat == dom

/-- Engines that run a card of a task of the domain. -/
def State.enginesOf (s : State) (dom : Nat) : Nat :=
  s.cores.foldl (fun n p =>
    let b (l : List Card) : Nat := b2n (l.any Card.running)
    if p.2.domain.toNat = dom && s.coreOn p.1 then n + b p.2.mxRing + b p.2.cpRing else n) 0

/-- BUCKET_CHARGE: of the engine ticks that a bucket owes, up to `ticks` are taken. -/
def execBucketCharge (b ticks : Nat) (s : State) : Host.Outcome State Fault Refusal :=
  match s.buckets.find? fun p => p.1 == b with
  | none => .next s
  | some (_, x) =>
    let n := Nat.min ticks x.due
    let v := max (-(2 ^ 31 : Int)) (x.level.toInt - (n : Int))
    .next (if n = 0 then s else
      { s with buckets := Table.put s.buckets b { x with due := x.due - n, level := BitVec.ofInt 64 (if x.level.toInt < -(2 ^ 31) then x.level.toInt else v) } }.ctlMark
        (bucketBlock b) 32 0)

/-- A refill. -/
def Bucket.refill (b : Bucket) : Bucket :=
  { b with level := BitVec.ofInt 64 (min (b.depth.toNat : Int) (b.level.toInt + (b.rate.toNat : Int))) }

/-- BUCKET_REFILL (R316). DEDUCED, log 71. -/
def execBucketRefill (s : State) : Host.Outcome State Fault Refusal :=
  .next (if s.refills < s.now / 1024 then
      s.buckets.foldl (fun s p => s.ctlMark (bucketBlock p.1) 32 0)
        { s with refills := s.refills + 1, buckets := s.buckets.map fun p => (p.1, Bucket.refill p.2) }
    else s)

/-! Power (R319, R320). -/

/-- A laggard core. -/
def State.laggard (s : State) (k : Nat) : Bool :=
  let c := s.coreAt k
  c.bars.any fun p =>
    p.2.mem != 0 &&
    (let ph := (s.barAt (s.barHolder k p.1) p.1).phase
     (s.barMembers k p.1).any (fun m => (s.coreAt m).liveCtxs.any fun j => ((s.coreAt m).ctxAt j).sleepsOn p.1) &&
     c.liveCtxs.any fun j =>
       let x := c.ctxAt j
       !(x.isPend p.1 && x.isAph p.1 == ph))

/-- Every core at the nominal step. -/
def State.unboost (s : State) : State := { s with cores := s.cores.map fun (p : Nat × Core) => (p.1, { p.2 with clk := 600 }) }

/-- The laggards in ascending order, each raised one step while the estimate allows it. -/
def State.boost (s : State) : List Nat → State
  | [] => s
  | k :: ks =>
    let w := Config.power s.n
    let s := { s with n := s.n + 1 }
    if 1800 < w || 960 ≤ (s.coreAt k).clk then s.boost ks
    else (s.updCoreAt k fun c => { c with clk := c.clk + 120 }).boost ks

/-- POWER_ESTIMATE. DESIGN CHOICE, log 72. -/
def execPowerEstimate (s : State) : Host.Outcome State Fault Refusal :=
  if s.now / 1024 ≤ s.powers then .next s
  else
    let w := Config.power s.n
    let w600 := Config.power (s.n + 1)
    let s := { s with n := s.n + 2, powers := s.powers + 1 }
    if 1800 < w then
      let s := s.unboost
      .next (if 1800 < w600 then { s with alarm := true } else if w600 < 1710 then { s with alarm := false } else s)
    else
      let s := if w < 1710 then { s with alarm := false } else s
      .next (s.boost ((s.cores.map fun p => p.1).filter fun k => decide (k < 8192) && s.laggard k))

/-! The passing of time. -/

/-- Ticks of a core since the end of its last cycle, 600 times, after `dt` more: the cycles that end in them are the
quotient by 600 (R2). -/
def Core.after (c : Core) (dt : Nat) : Nat := c.frac + dt * c.clk
/-- What the counters of a core add in `dt` ticks and `cyc` cycles. A shared counter does not count the ticks of each core.
`part` tells the amounts of the two parts of a time apart (R366). -/
def State.countTime (s : State) (k dt cyc part : Nat) : State :=
  if (s.coreAt k).evsel.isEmpty && s.shared.isEmpty then s
  else
    let s := (s.countBut k 2 dt (fun _ => false) fun _ => true).count k 1 cyc
    freeEvents.foldl (fun s ev => s.count k ev (if cyc = 0 then 0 else Config.counted s.n k (ev + 32 * part))) s
/-- `dt` ticks on every counter, and the cycles of each core: a shared counter of ticks counts each once. -/
def State.countTicks (s : State) (dt : Nat) (cyc : Nat → Nat) (part : Nat) : State :=
  let s := s.cores.foldl (fun s p => s.countTime p.1 dt (cyc p.1) part) s
  (s.shared.filter fun p => p.2.ev.toNat == 2).foldl (fun s p => s.addShared (p.1 / 16) (p.1 % 16) 2 dt) s

/-- Is a counter in the cycle of a write to it or to its select? -/
def State.inWrite (s : State) : Bool := s.cores.any (fun p => !p.2.evcyc.isEmpty) || s.shared.any fun p => p.2.cyc.isSome
/-- The selects of the cycle under way. -/
def State.oldSelects (s : State) : State :=
  { s with
    cores := s.cores.map fun (p : Nat × Core) => (p.1, { p.2 with evsel := p.2.evcyc.foldl (fun t q => Table.put t q.1 q.2) p.2.evsel })
    shared := s.shared.map fun (p : Nat × Shared) => (p.1, { p.2 with ev := p.2.cyc.getD p.2.ev }) }
/-- The selects are those of `t`, and the cycle of the writes is over unless it still goes on (`on`). -/
def State.newSelects (s t : State) (on : Bool) : State :=
  { s with
    cores := s.cores.map fun (p : Nat × Core) =>
      (p.1, { p.2 with evsel := (t.coreAt p.1).evsel, evcyc := if on then p.2.evcyc else [] })
    shared := s.shared.map fun (p : Nat × Shared) =>
      (p.1, { p.2 with ev := (Table.get Shared.zero t.shared p.1).ev, cyc := if on then p.2.cyc else none }) }
/-- The counters in `dt` ticks: the first cycle of each core, and the first tick, are those of a write (R366). -/
def State.countElapsed (s : State) (dt : Nat) : State :=
  let cyc (k : Nat) : Nat := (s.coreAt k).after dt / 600
  let t :=
    if !s.inWrite then s.countTicks dt cyc 0
    else ((s.oldSelects.countTicks (min 1 dt) (fun k => min 1 (cyc k)) 1).newSelects s (dt == 0)).countTicks
      (dt - 1) (fun k => cyc k - 1) 0
  { t with cores := t.cores.map fun (p : Nat × Core) => (p.1, { p.2 with frac := (s.coreAt p.1).after dt % 600 }) }

/-- The idle times of OIDs begin and end (R292). -/
def State.idleTimes (s : State) : State :=
  { s with oids := s.oids.map fun (p : Nat × Oid) =>
      if s.oidBusy p.1 then (p.1, { p.2 with idle := none })
      else if p.2.idle.isNone then (p.1, { p.2 with idle := some s.now }) else p }

/-- A core that is no longer a laggard returns to the nominal step (R319). -/
def State.slowDown (s : State) : State :=
  { s with cores := s.cores.map fun (p : Nat × Core) =>
      if p.2.clk ≠ 600 && !s.laggard p.1 then (p.1, { p.2 with clk := 600 }) else p }
/-- `dt` ticks pass: idle times begin and end with what has been done by now, a core that is no longer a laggard goes at the
nominal step, buckets owe, and counters count. A carry stands at the end of the time in which it was made. -/
def State.elapse (s : State) (dt : Nat) : State :=
  let s := s.idleTimes.slowDown
  let s := { s with
    fabric := s.fabric + word dt
    buckets := s.buckets.map fun (p : Nat × Bucket) =>
      if (s.bucketOf p.2.dom.toNat).map Prod.fst = some p.1 then
        (p.1, { p.2 with due := p.2.due + dt * s.enginesOf p.2.dom.toNat }) else p }
  s.countElapsed dt

end Sys2Proof.Machine
end

