-- ==== Sys2Proof/Machine/Sched.lean ====
section
/-! DEFINITION. The launch unit, the task pools and the completion tree (R9 to R15, R26 to R30, R299 to R317, R374 to
R376, R386 to R388): the events between a launch record and its completion record. An event that is not enabled
leaves the state as it is. -/

namespace Sys2Proof.Machine

/-- The launch unit as an agent of a domain. -/
def unitAg (dom : Nat) : Ag := Ag.outside dom

/-- Where a virtual address of a domain takes an agent of the I/O die, which has no scratchpad (R97, R302, R325); none where
the address does not translate. -/
def State.unitPlace (s : State) (dom : Nat) (acc : Acc) (a : Nat) : Option (Place × State) :=
  match s.translate (unitAg dom) acc a with
  | .error _ => none
  | .ok (p, s) => match s.extAnswer (acc == .write) p a with
    | (none, s) => some (p, s)
    | (some _, _) => none

/-- A read by an agent of the I/O die from time `pts` on, with its own time; none where its translation fails. -/
def State.unitReadAt (s : State) (dom a n : Nat) (pts : BitVec 64) : Option (List Byte × BitVec 64 × State) :=
  match s.unitPlace dom .read a with
  | none => none
  | some (p, s) => match s.readAt (unitAg dom) p a n pts with
    | .ok r => some r
    | .error _ => none
/-- The same where nothing comes before it. -/
def State.unitRead (s : State) (dom a n : Nat) : Option (List Byte × BitVec 64 × State) := s.unitReadAt dom a n 0

/-- A write by one. -/
def State.unitWriteAt (s : State) (dom a : Nat) (bs : List Byte) (pts : BitVec 64) : Option (BitVec 64 × State) :=
  match s.unitPlace dom .write a with
  | none => none
  | some (p, s) => match s.writeAt (unitAg dom) p a (bs.map some) pts with
    | .ok (t, s, _) => some (t, s)
    | .error _ => none
def State.unitWrite (s : State) (dom a : Nat) (bs : List Byte) (pts : BitVec 64) : Option State :=
  (s.unitWriteAt dom a bs pts).map Prod.snd

def State.launchAt (s : State) (i : Nat) : Option Launch := (s.slots.find? fun p => p.1 == i).map Prod.snd
def State.setLaunch (s : State) (i : Nat) (l : Launch) : State := { s with slots := Table.put s.slots i l }

/-! Admission (R299 to R302, R11, R42). -/

/-- The words of a launch record. -/
structure LaunchRec where
  bytes : List Byte
deriving DecidableEq, Repr

/-- `n` bytes at an offset of the record. -/
def LaunchRec.f (r : LaunchRec) (off n : Nat) : Nat := leVal ((r.bytes.drop off).take n)
def LaunchRec.flags (r : LaunchRec) : Nat := r.f 80 8
/-- A field of LFLAGS (R300). -/
def LaunchRec.flag (r : LaunchRec) (lo n : Nat) : Nat := r.flags / 2 ^ lo % 2 ^ n
def LaunchRec.gsize (r : LaunchRec) : Nat := r.flag 12 3
def LaunchRec.group (r : LaunchRec) : Nat := r.flag 44 4
def LaunchRec.fpcount (r : LaunchRec) : Nat := r.flag 28 3
def LaunchRec.dom (r : LaunchRec) : Nat := r.flag 16 12
def LaunchRec.widths (r : LaunchRec) : List Nat := (List.range 6).map fun j => r.f 40 8 / 2 ^ (7 * j) % 128
def LaunchRec.counts (r : LaunchRec) : List Nat := (List.range 6).map fun j => r.f (48 + 4 * j) 4
/-- The task count, the product of the counts. -/
def LaunchRec.total (r : LaunchRec) : Nat := r.counts.foldl (· * ·) 1

/-- Check 1. DEDUCED, log 70. -/
def LaunchRec.badField (r : LaunchRec) : Bool :=
  r.f 40 8 / 2 ^ 42 != 0 || r.f 74 2 != 0 || r.f 96 32 != 0 || r.flag 48 16 != 0 || r.flag 40 4 != 0 || r.flag 31 1 != 0 ||
  r.flag 10 2 != 0 || decide (6 < r.group) || decide (4 < r.fpcount) || decide (4 < r.gsize) ||  
  r.f 8 8 % 8 != 0 || r.f 88 8 % 8 != 0 || (r.fpcount == 0 && r.f 88 8 != 0)

/-- Check 4. -/
def LaunchRec.badCounts (r : LaunchRec) : Bool :=
  decide (64 < r.widths.sum) || (r.widths.zip r.counts).any fun p => decide (2 ^ p.1 < p.2) || (p.1 == 0 && p.2 != 1)

/-- The bound entry of a record, with its object. -/
def State.entryPoint (s : State) (r : LaunchRec) : Option (Obj × EntryPt) :=
  (s.objs.filter fun o => o.dom == r.dom).findSome? fun o => (o.entries.find? fun e => e.addr.toNat == r.f 0 8).map fun e => (o, e)

/-- Check 5 (R11, R42). -/
def LaunchRec.badPart (r : LaunchRec) (e : EntryPt) : Bool :=
  let p := r.f 24 8
  let c : Core := { Core.empty with partw := word p, decla := e.decla, declb := e.declb }
  let d := e.declb.toNat
  p / 2 ^ 10 != 0 || p % 16 == 0 || decide (11 < p % 16) || decide (1536 ≤ 32 * c.nctx + c.acc + c.podRows) ||
  decide (p % 16 < d % 16) || decide (p / 16 % 4 < d / 16 % 4) || decide (p / 64 % 16 < d / 64 % 16) ||
  decide (c.rowsS < c.rowsDecl)

/-- A footprint entry (R301): base, length, stride. -/
abbrev Foot := Word × Nat × Word
/-- The range that an entry names for the task at a spawn position. -/
def Foot.at (f : Foot) (i : Nat) : Nat × Nat :=
  let a := (word (f.1.toNat % 2 ^ 57) + word i * f.2.2).toNat
  (a, a + f.2.1)
def Foot.wr (f : Foot) : Bool := f.1.getLsbD 62

/-- Does the entry break R301 for `total` tasks? The ranges of all tasks lie between those of the first and the last. -/
def Foot.bad (f : Foot) (rest total : Nat) : Bool :=
  let base := f.1.toNat
  let bad (i : Nat) : Bool :=
    let a : Int := ((base % 2 ^ 57 : Nat) : Int) + (i : Int) * f.2.2.toInt
    decide (a < 2 ^ 32) || decide (2 ^ 57 < a + (f.2.1 : Int))
  base / 2 ^ 57 % 32 != 0 || f.2.1 == 0 || rest != 0 || base / 2 ^ 62 == 0 || (total != 0 && (bad 0 || bad (total - 1)))

/-- The footprint entries of a record from entry `i` on; none where one is bad or cannot be read. -/
def State.footprints (s : State) (r : LaunchRec) : Nat → Nat → Option (List Foot × State)
  | _, 0 => some ([], s)
  | i, n + 1 =>
    let a := r.f 88 8 + 24 * i
    match s.unitRead r.dom a 8 with
    | none => none
    | some (b0, _, s) => match s.unitRead r.dom (a + 8) 8 with
      | none => none
      | some (b1, _, s) => match s.unitRead r.dom (a + 16) 8 with
        | none => none
        | some (b2, _, s) =>
          let f : Foot := (word (leVal b0), leVal (b1.take 4), word (leVal b2))
          if f.bad (leVal (b1.drop 4)) r.total then none
          else match s.footprints r (i + 1) n with
            | some (fs, s) => some (f :: fs, s)
            | none => none

/-- Where a record comes from: a queue, or a task.spawn. -/
inductive Origin where
  | queue (q : Nat)
  | spawn (r : Spawn)
deriving DecidableEq, Repr

/-- Check 2: the domain is in use by a holder that also holds the queue, or it is the spawner's. -/
def State.badDomain (s : State) (r : LaunchRec) : Origin → Bool
  | .queue q => !s.usesOne (s.domHolder r.dom) cQueue q || s.domHolder r.dom == 0
  | .spawn p => p.domain != r.dom || !s.usesOne (s.domHolder r.dom) cDomain r.dom

/-- The checks of R302: the number of the first that fails, 0 for none, with the entry and the footprints. -/
def State.checkLaunch (s : State) (r : LaunchRec) (o : Origin) : Nat × Option (Obj × EntryPt) × List Foot × State :=
  if r.badField then (1, none, [], s)
  else if s.badDomain r o then (2, none, [], s)
  else match s.entryPoint r with
    | none => (3, none, [], s)
    | some e =>
      if r.badCounts then (4, some e, [], s)
      else if r.badPart e.2 then (5, some e, [], s)
      else if r.gsize ≠ 0 && r.total % 2 ^ r.gsize != 0 then (6, some e, [], s)
      else match s.footprints r 0 r.fpcount with
        | none => (7, some e, [], s)
        | some (fs, s) => (0, some e, fs, s)

/-- CORE of the log entries of the launch unit. DESIGN CHOICE, log 16. -/
def unitCore : Nat := 0xFFFF

/-- The entries of the launch record and of the argument block (R387). -/
def State.logLaunch (s : State) (slot : Nat) (r : LaunchRec) : State :=
  let put (s : State) (kind a : Nat) (v : Nat) : State := match s.launchAt slot with
    | some l => s.logAppend slot l kind 0 unitCore (word a) v
    | none => s
  let s := (List.range 8).foldl (fun s i => put s 0 (16 * i) (r.f (16 * i) 16)) s
  (List.range 16).foldl (fun s i =>
    let a := r.f 8 8 + 16 * i
    match s.unitRead r.dom a 8 with
    | none => s
    | some (x, _, s) => match s.unitRead r.dom (a + 8) 8 with
      | none => s
      | some (y, _, s) => put s 1 a (leVal (x ++ y))) s

/-- A record takes a free launch slot (R304): which one is a free choice, log 3. -/
def State.admitRecord (s : State) (bytes : List Byte) (o : Origin) (pts : BitVec 64) : State :=
  let r : LaunchRec := ⟨bytes⟩
  let free := (List.range 256).filter fun i => (s.launchAt i).isNone
  let (v, s) := s.free
  let slot := free.getD (v.toNat % free.length) 0
  let (inv, e, fs, s) := s.checkLaunch r o
  let d := s.domainAt r.dom
  let rec? := inv == 0 && r.flag 15 1 == 1
  let prio := match o with
    | .queue _ => r.flag 0 8
    | .spawn p => Nat.min (r.flag 0 8) p.prio
  let done := inv ≠ 0 || r.total == 0
  let l : Launch :=
    { entry := word (r.f 0 8), args := word (r.f 8 8), deadline := word (r.f 16 8), partw := word (r.f 24 8),
      seghint := word (r.f 32 8), widths := r.widths, counts := r.counts, cq := r.f 72 2, tag := BitVec.ofNat 32 (r.f 76 4),
      lflags := word r.flags, prio := prio, fps := fs, domain := r.dom
      decla := (e.map fun e => e.2.decla).getD 0, declb := (e.map fun e => e.2.declb).getD 0
      prof := (e.map fun e => e.1.prof).getD 0, scratch := (e.map fun e => e.1.scratch).getD 0
      scratchLen := (e.map fun e => e.1.scratchLen).getD 0
      total := if inv = 0 then r.total else 0, next := 0, dies := [], last := [], status := if inv = 0 then 0 else 1
      invcode := inv, completed := 0, late := 0, faulted := 0, flags := 0, seq := s.serial
      logMode := if rec? then d.logMode.toNat % 3 else 0, logNo := d.logNo, logBase := d.logBase, logLen := d.logLen.toNat % 2 ^ 32, logSeq := []
      pts := pts, cpts := 0, doneAt := if done then some s.serial else none, wrote := none }
  let s := { s.setLaunch slot l with serial := s.serial + 1 }
  if l.logMode = 1 then s.logLaunch slot r else s

/-! The fetcher (R374) and the spawn queues (R304). -/

/-- Is a launch slot free? -/
def State.slotFree (s : State) : Bool := decide (s.slots.length < 256)
/-- Is the bucket of a domain EMPTY (R316)? -/
def State.bucketEmpty (s : State) (dom : Nat) : Bool := match s.bucketOf dom with
  | some (_, b) => b.empty
  | none => false

/-- May the fetcher fetch from a slot (R374, R284)? -/
def State.fetchable (s : State) (i : Nat) : Bool :=
  let q := s.qslotAt i
  let d := q.dom.toNat
  q.enable && !q.stopped && !q.completion && q.head != q.tail && !s.bucketEmpty d && !(s.entryOf cQueue q.queue.toNat).ended &&
  !(s.entryOf cDomain d).ended && (s.domainAt d).pstate != 2 && s.slotFree

/-- LAUNCH_FETCH: the slots are served in round robin. The fetcher reads TAIL, then the record, then advances HEAD (R374). -/
def execLaunchFetch (i : Nat) (s : State) : Host.Outcome State Fault Refusal :=
  let order := ((List.range 1024).map fun k => (s.qnext + k) % 1024)
  if s.endowed && order.find? s.fetchable == some i then
    let q := s.qslotAt i
    let (seen, s) := ({ s with qnext := (i + 1) % 1024 } : State).stampReads [slotBlock i / 128] 0
    match s.unitReadAt q.dom.toNat (q.ring.toNat + 128 * (q.head.toNat % 2 ^ q.logn.toNat)) 128 seen with
    | none => .next (s.stepQslot i { q with stopped := true, err := true } seen)
    | some (bs, pts, s) =>
      .next ((s.admitRecord bs (.queue q.queue.toNat) pts).stepQslot i { q with head := q.head + 1 } pts)
  else .next s

/-- SPAWN_ADMIT. -/
def execSpawnAdmit (die : Nat) (s : State) : Host.Outcome State Fault Refusal :=
  match s.spawnQ die with
  | [] => .next s
  | r :: rest =>
    if s.slotFree then .next (({ s with spawns := Table.put s.spawns die rest } : State).admitRecord r.bytes (.spawn r) r.pts) else .next s

/-! Expansion (R10, R304, R305). -/

def Launch.flag (l : Launch) (lo n : Nat) : Nat := l.lflags.toNat / 2 ^ lo % 2 ^ n
def Launch.gsize (l : Launch) : Nat := l.flag 12 3
def Launch.tolerant (l : Launch) : Bool := l.flag 9 1 == 1
/-- The group at level GROUP of a spawn position (R12). -/
def Launch.groupOf (l : Launch) (pos : Nat) : Nat := pos / (l.counts.take (l.flag 44 4)).foldl (· * ·) 1
/-- Cores of a die where a named segment of a domain is resident. -/
def State.hintCore (s : State) (l : Launch) : Option Nat :=
  if l.seghint = 0 then none
  else match s.liveSeg l.domain l.seghint with
    | some g => if g.st == .resident then some g.core else none
    | none => none
/-- What goes whole to one die: the launch, the gang, or the group. -/
def Launch.dieKey (l : Launch) (pos : Nat) : Nat :=
  if !l.fps.isEmpty then 0 else if l.gsize ≠ 0 then pos / 2 ^ l.gsize else l.groupOf pos

/-- Entry `i` of a launch's log that is a dispatch, from entry `j` on. -/
def State.dispatchEntry (s : State) (l : Launch) : Nat → Nat → Nat → Option Nat
  | 0, _, _ => none
  | fuel + 1, j, i => match s.logRead l j with
    | none => none
    | some e =>
      if e % 256 = 2 then if i = 0 then some e else s.dispatchEntry l fuel (j + 1) (i - 1)
      else s.dispatchEntry l fuel (j + 1) i
/-- Spawn position and core of the `i`-th logged dispatch (R387); their places in the value are the model's own. DESIGN
CHOICE, log 16. -/
def State.loggedDispatch (s : State) (l : Launch) (i : Nat) : Option (Nat × Nat) :=
  (s.dispatchEntry l (l.logLen / 32 + 1) 0 i).map fun e => (e / 2 ^ 128 % 2 ^ 64, e / 2 ^ 192 % 2 ^ 64)
/-- The core on which a spawn position was dispatched. -/
def State.loggedCore (s : State) (l : Launch) (pos : Nat) : Option Nat :=
  (List.range (l.logLen / 32)).findSome? fun i => match s.loggedDispatch l i with
    | some (p, k) => if p = pos then some k else none
    | none => none

def nodesOf (s : State) (die : Nat) : List PoolNode := s.pool.filter fun n => n.die == die
def poolSize : Nat := 4096

/-- The die of a launch's next task (R305, R388). -/
def State.dieFor (s : State) (l : Launch) : Nat :=
  let logged := if l.logMode = 2 then s.loggedCore l l.next else none
  match logged with
  | some k => dieOf k % 8
  | none =>
    match l.dies.find? fun p => p.1 == l.dieKey l.next with
    | some (_, d) => d
    | none =>
      let mask := l.flag 32 8
      let dies := (List.range 8).filter fun d => mask == 0 || mask / 2 ^ d % 2 == 1
      match (s.hintCore l).filter fun k => dies.contains (dieOf k) with
      | some k => dieOf k
      | none => dies.foldl (fun b d => if (nodesOf s d).length < (nodesOf s b).length then d else b) (dies.headD 0)

/-- Do two tasks of a launch conflict (R306)? -/
def Launch.conflict (l : Launch) (i j : Nat) : Bool :=
  l.fps.any fun a => l.fps.any fun b =>
    let x := Foot.at a i
    let y := Foot.at b j
    (Foot.wr a || Foot.wr b) && decide (x.1 < y.2) && decide (y.1 < x.2)

/-- How far a die's pool has come in what it does in this tick (R307): 0 nothing yet or only retirements and discards, 3 an
admission, 4 a dispatch. -/
def State.poolPhase (s : State) (die : Nat) : Nat :=
  let p := Table.get (0, 0) s.pools die
  if p.1 = s.now then p.2 else 0
/-- The pool has come to a phase of this tick. -/
def State.poolAt (s : State) (die phase : Nat) : State := { s with pools := Table.put s.pools die (s.now, phase) }

/-- The launch of least arrival number. -/
def leastLaunch : List (Nat × Launch) → Option (Nat × Launch)
  | [] => none
  | x :: xs => some (xs.foldl (fun b y => if y.2.seq < b.2.seq then y else b) x)
/-- The launch whose turn it is to expand toward a die: of those that have a task for it the next in round robin (R304). -/
def State.expandNext (s : State) (die : Nat) : Option (Nat × Launch) :=
  let act := s.slots.filter fun p => decide (p.2.next < p.2.total) && s.dieFor p.2 == die
  match leastLaunch (act.filter fun p => decide (Table.get 0 s.expandRr die ≤ p.2.seq)) with
  | some p => some p
  | none => leastLaunch act

/-- TASK_EXPAND: one task of the launch whose turn it is enters the die's pool, at most one in a tick. -/
def execTaskExpand (die : Nat) (s : State) : Host.Outcome State Fault Refusal :=
  match s.expandNext die with
  | none => .next s
  | some (slot, l) =>
    if poolSize ≤ (nodesOf s die).length || 3 ≤ s.poolPhase die then .next s
    else
      let before := (nodesOf s die).filter fun n => n.slot == slot && l.conflict n.pos l.next
      let n : PoolNode :=
        { id := s.serial, die := die, slot := slot, pos := l.next, st := if before.isEmpty then .ready else .waiting,
          edges := before.map PoolNode.id, readyAt := s.now, core := 0, ended := none, pts := l.pts }
      .next (({ s with
        pool := s.pool ++ [n], serial := s.serial + 1, expandRr := Table.put s.expandRr die (l.seq + 1) }.setLaunch slot
          { l with next := l.next + 1, dies := Table.put l.dies (l.dieKey l.next) die }).poolAt die 3)

/-! Retirement and discards (R26, R306, R307). -/

/-- Nodes of the same gang; a node alone where there is none. -/
def State.gangNodes (s : State) (n : PoolNode) : List PoolNode :=
  match s.launchAt n.slot with
  | some l =>
    if l.gsize = 0 then [n]
    else s.pool.filter fun m => m.slot == n.slot && m.die == n.die && m.pos / 2 ^ l.gsize == n.pos / 2 ^ l.gsize
  | none => [n]

/-- A node that has not been dispatched is discarded with an outcome and a flag; a gang is discarded whole (R312,
R321). A drain for it ends (R313). DEDUCED, log 77. -/
def State.discard (s : State) (n : PoolNode) (o : Outc) (flag : Word) : State :=
  let gone := (s.gangNodes n).filter fun m => m.st != .dispatched && m.ended.isNone
  { s with
    words := s.words ++ gone.map fun m => TreeWord.of m.slot (dieNode m.die) o flag m.pts s.now
    pool := s.pool.map fun m => if gone.any fun g => g.id == m.id then { m with ended := some false } else m
    drains := s.drains.filter fun d => !gone.any fun g => g.id == d.2.2 }

/-- An edge removed. -/
def PoolNode.unedge (m n : PoolNode) (now : Nat) : PoolNode :=
  let m := { m with edges := m.edges.filter fun e => e != n.id, pts := later m.pts n.pts }
  if m.edges.isEmpty && m.st == .waiting then { m with st := .ready, readyAt := now } else m

/-- NODE_RETIRE: once its pool has begun to admit or to dispatch, a retirement is one of the next tick (R307). -/
def execNodeRetire (id : Nat) (s : State) : Host.Outcome State Fault Refusal :=
  match s.pool.find? fun n => n.id == id with
  | none => .next s
  | some n => match n.ended with
    | none => .next s
    | some ok =>
      if s.poolPhase n.die ≠ 0 then .next s
      else
      let s := { s with pool := s.pool.filter fun m => m.id != id }
      let l := s.launchAt n.slot
      let s := match l with
        | some l => if l.fps.isEmpty then s else s.setLaunch n.slot { l with pts := later l.pts n.pts }
        | none => s
      let succ (m : PoolNode) : Bool := m.slot == n.slot && m.edges.contains id && m.ended.isNone
      if ok || (l.map Launch.tolerant).getD false then
        .next { s with pool := s.pool.map fun m => if succ m then m.unedge n s.now else m }
      else .next ((s.pool.filter succ).foldl (fun s m => s.discard m .late 16) s)

/-- Is a READY node late (R26)? -/
def State.nodeLate (s : State) (n : PoolNode) : Bool :=
  n.st == .ready && n.ended.isNone && match s.launchAt n.slot with
    | some l => l.deadline != 0 && decide (l.deadline.toNat ≤ s.now)
    | none => false

/-- DEADLINE_DISCARD. -/
def execDeadlineDiscard (id : Nat) (s : State) : Host.Outcome State Fault Refusal :=
  match s.pool.find? fun n => n.id == id with
  | none => .next s
  | some n => .next (if s.nodeLate n then s.discard n .late 4 else s)

/-! Dispatch (R308 to R314). -/

/-- May a core run a task of the launch, drains apart (R310)? -/
def State.canRun (s : State) (l : Launch) (k : Nat) : Bool :=
  coreExists k && s.usesOne (s.holderOf k) cDomain l.domain && (s.coreAt k).active && !(s.coreEntry k).ended &&
  s.holderOf k != 0xFFFF && (!isFirmware k || l.prof.toNat % 4 == 0)
/-- Is the core's cluster drained, and not for this gang (R313)? -/
def State.drained (s : State) (ns : List PoolNode) (k : Nat) : Bool :=
  s.drains.any fun d => d.2.1 == clusterOf k && !ns.any fun n => n.id == d.2.2
def State.eligible (s : State) (l : Launch) (ns : List PoolNode) (k : Nat) : Bool := s.canRun l k && !s.drained ns k
/-- An idle core (R310): context 0 sleeps in ibx.take, and the inbox holds no KIND 0 record. -/
def State.idleCore (s : State) (k : Nat) : Bool :=
  let c := s.coreAt k
  (c.ctxAt 0).st == .live && (c.ctxAt 0).wait == .inbox && !c.task && !c.podMsg && c.inbox.all Msg.kind &&
    decide (c.inbox.length < 4)

/-- The nodes of a READY unit of the pool: a node, or a gang with every member READY (R312), by GPOS. -/
def State.readyUnit (s : State) (n : PoolNode) : Option (List PoolNode) :=
  match s.launchAt n.slot with
  | none => none
  | some l =>
    let ns := (s.gangNodes n).filter fun m => m.st == .ready && m.ended.isNone
    if l.gsize = 0 then if n.st == .ready && n.ended.isNone then some [n] else none
    else if n.pos % 2 ^ l.gsize = 0 && ns.length == 2 ^ l.gsize then
      some ((List.range (2 ^ l.gsize)).filterMap fun i => ns.find? fun m => m.pos == n.pos + i)
    else none
/-- When a unit became READY. -/
def unitReady (ns : List PoolNode) : Nat := ns.foldl (fun t n => max t n.readyAt) 0
/-- Its effective priority (R308). -/
def State.unitPrio (s : State) (l : Launch) (ns : List PoolNode) : Nat := Nat.min 255 (l.prio + (s.now - unitReady ns) / 2 ^ 18)

/-- The cores for a unit of a launch; none where it cannot be placed now (R311, R312). -/
def State.placeUnit (s : State) (die : Nat) (l : Launch) (ns : List PoolNode) : Option (List Nat) :=
  let ok (k : Nat) : Bool := s.idleCore k && s.eligible l ns k
  let cores := (List.range 1024).map fun i => 1024 * die + i
  match ns with
  | [n] =>
    if l.gsize ≠ 0 then none
    else match (s.hintCore l).filter fun k => dieOf k == die && decide (s.now < n.readyAt + 16384) with
      | some k => if ok k then some [k] else none
      | none =>
        let near := match l.last.find? fun p => p.1 == l.groupOf n.pos with
          | some (_, c) => cores.find? fun k => clusterOf k == c && ok k
          | none => none
        match near with
        | some k => some [k]
        | none => (cores.find? ok).map fun k => [k]
  | _ =>
    let z := 2 ^ l.gsize
    ((List.range (1024 / z)).find? fun i => (List.range z).all fun j => ok (1024 * die + z * i + j)).map fun i =>
      (List.range z).map fun j => 1024 * die + z * i + j

/-- The task record of a node (R13, R15, R310). -/
def Launch.record (l : Launch) (n : PoolNode) (k : Nat) : Msg :=
  let ct := dieOf k * 2 ^ 22 + clusterOf k % 64 * 2 ^ 16 + n.slot
  let fl := l.prof.toNat * 2 ^ 32 + l.flag 9 1 * 2 ^ 16 + l.flag 8 1 * 2 ^ 15 + l.gsize * 2 ^ 12 +
    (if l.gsize = 0 then 0 else n.pos % 2 ^ l.gsize) * 2 ^ 8 + l.prio
  { kind := false, words := [l.entry, word (l.wid n.pos), l.args, l.deadline, word ct, l.seghint, l.partw, word fl]
    gang := if l.gsize = 0 then 0 else l.seq * 2 ^ 64 + n.pos / 2 ^ l.gsize + 1, pts := n.pts }

/-- A node's record enters the inbox of a core. -/
def State.sendNode (s : State) (n : PoolNode) (k : Nat) : State :=
  match s.launchAt n.slot with
  | none => s
  | some l =>
    let s := s.setLaunch n.slot { l with last := Table.put l.last (l.groupOf n.pos) (clusterOf k) }
    let s := s.updCoreAt k fun c => { c with inbox := c.inbox ++ [l.record n k] }
    let s := { s with
      pool := s.pool.map fun (m : PoolNode) => if m.id = n.id then { m with st := .dispatched, core := k } else m
      drains := s.drains.filter fun (d : Nat × Nat × Nat) => d.2.2 != n.id }
    match s.launchAt n.slot with
    | some l => if l.logMode = 1 then s.logAppend n.slot l 2 0 unitCore 0 (n.pos + 2 ^ 64 * k) else s
    | none => s

/-- The number of the next logged dispatch that is still to be made, from number `i` on: one whose task has been discarded
before its turn is made no more (R26, R388). -/
def State.nextDispatch (s : State) (slot : Nat) (l : Launch) : Nat → Nat → Nat
  | 0, i => i
  | fuel + 1, i => match s.loggedDispatch l i with
    | none => i
    | some (p, _) =>
      if decide (p < l.next) && !(s.pool.any fun n => n.slot == slot && n.pos == p && n.st != .dispatched && n.ended.isNone) then
        s.nextDispatch slot l fuel (i + 1)
      else i

/-- What a pool does with a unit at its turn: nothing where it cannot act. In replay a unit waits for its logged turn and
core, and is discarded where the core can no longer take it (R388). -/
def State.tryUnit (s : State) (die : Nat) (n : PoolNode) : Option State :=
  match s.launchAt n.slot, s.readyUnit n with
  | some l, some ns =>
    if s.bucketEmpty l.domain || (s.entryOf cDomain l.domain).ended then none
    else if ns.any s.nodeLate then some (s.discard n .late 4)
    else if l.logMode = 2 then
      let base := s.nextDispatch n.slot l (l.logLen / 32) (Table.get 0 l.logSeq unitCore)
      let turn := (List.range ns.length).map fun i => s.loggedDispatch l (base + i)
      let cores := turn.filterMap fun t => t.map Prod.snd
      if turn.map (fun t => t.map Prod.fst) != ns.map (fun m => some m.pos) then none
      else
        let s' := s.setLaunch n.slot { l with logSeq := Table.put l.logSeq unitCore (base + ns.length) }
        if cores.any fun k => !coreExists k || s.holderOf k == 0xFFFF || !s.usesOne (s.holderOf k) cDomain l.domain then
          some (s'.discard n .faulted 32)
        else if cores.all fun k => (s.coreAt k).active && s.idleCore k && !s.drained ns k then
          some ((ns.zip cores).foldl (fun s p => s.sendNode p.1 p.2) s')
        else none
    else match s.placeUnit die l ns with
      | some ks => some ((ns.zip ks).foldl (fun s p => s.sendNode p.1 p.2) s)
      | none => none
  | _, _ => none

/-- The units of a die in the order of dispatch (R308): effective priority, then admission. -/
def State.unitOrder (s : State) (die : Nat) : List PoolNode :=
  let rank (n : PoolNode) : Nat := match s.launchAt n.slot, s.readyUnit n with
    | some l, some ns => s.unitPrio l ns
    | _, _ => 0
  let ins (l : List PoolNode) (n : PoolNode) : List PoolNode :=
    l.takeWhile (fun m => decide (rank n ≤ rank m)) ++ n :: l.dropWhile fun m => decide (rank n ≤ rank m)
  ((nodesOf s die).filter fun n => (s.readyUnit n).isSome).foldl ins []

/-- TASK_DISPATCH: the first unit in order that can be placed; work that cannot is passed by (R312). -/
def execTaskDispatch (die : Nat) (s : State) : Host.Outcome State Fault Refusal :=
  match (s.unitOrder die).findSome? fun n => s.tryUnit die n with
  | some t => .next (t.poolAt die 4)
  | none => .next s

/-- The cluster that a die's pool drains now, and the node of the gang that it drains it for (R313). -/
def State.drainFor (s : State) (die : Nat) : Option (Nat × Nat) :=
  if s.drains.any fun d => d.1 == die then none
  else
    let due (n : PoolNode) : Option (PoolNode × Launch) := match s.launchAt n.slot, s.readyUnit n with
      | some l, some ns => if l.gsize ≠ 0 && decide (unitReady ns + 2 ^ 20 ≤ s.now) then some (n, l) else none
      | _, _ => none
    match (s.unitOrder die).findSome? due with
    | none => none
    | some (n, l) =>
      let z := 2 ^ l.gsize
      let run (c : Nat) : Bool := (List.range (16 / z)).any fun i => (List.range z).all fun j => s.canRun l (16 * c + z * i + j)
      let busy (c : Nat) : Nat := (List.range 16).countP fun i =>
        (s.coreAt (16 * c + i)).task && (s.coreAt (16 * c + i)).deadline == 0
      let cs := ((List.range 64).map fun i => 64 * die + i).filter run
      match cs with
      | [] => none
      | c :: rest => some (rest.foldl (fun b c => if busy c < busy b then c else b) c, n.id)

/-- GANG_DRAIN (R313). -/
def execGangDrain (die : Nat) (s : State) : Host.Outcome State Fault Refusal :=
  .next (match s.drainFor die with
    | some d => { s with drains := Table.put s.drains die d }
    | none => s)

/-! The completion tree (R317, R303, R375, R376). -/

/-- What lasts as long as a launch ends with its completion: its range units and segments (R25, R232). DEDUCED, log
75. -/
def State.launchCompletes (s : State) (seq : Nat) : State :=
  let s := s.endLaunchSegs seq
  { s with ranges := s.ranges.map fun (p : Nat × Range) =>
      if p.2.used && p.2.launch == some seq then (p.1, { p.2 with used := false, gen := p.2.gen + 1 }) else p }

/-- TREE_PROPAGATE: the words at a node go to the node above; at the root they are counted. -/
def execTreePropagate (slot node : Nat) (s : State) : Host.Outcome State Fault Refusal :=
  let mine (w : TreeWord) : Bool := w.slot == slot && w.node == node
  let ws := s.words.filter mine
  if ws.isEmpty then .next s
  else
    let sum : TreeWord :=
      { slot := slot, node := dieNode (node / 64), completed := (ws.map TreeWord.completed).sum, late := (ws.map TreeWord.late).sum,
        faulted := (ws.map TreeWord.faulted).sum, flags := ws.foldl (fun f w => f ||| w.flags) 0,
        pts := ws.foldl (fun t w => later t w.pts) 0, since := s.now }
    let s := { s with words := s.words.filter fun w => !mine w }
    if node < 1024 then .next { s with words := s.words ++ [sum] }
    else match s.launchAt slot with
      | none => .next s
      | some l =>
        let l := { l with
          completed := l.completed + sum.completed, late := l.late + sum.late, faulted := l.faulted + sum.faulted,
          flags := l.flags ||| sum.flags, cpts := later l.cpts sum.pts }
        if l.completed + l.late + l.faulted = l.total then
          .next (({ s with serial := s.serial + 1 }.setLaunch slot { l with doneAt := some s.serial }).launchCompletes l.seq)
        else .next (s.setLaunch slot l)

/-- Vectors of a function (R369). -/
def vecCount (f : Nat) : Nat := if f = 0 then 2048 else 64
/-- Does a function have the vector? -/
def hasVec (f vec : Nat) : Bool := decide (f < 64) && decide (vec < vecCount f)
/-- Is a function visible: in stage 1 function 0 alone is (R381)? -/
def State.visible (s : State) (f : Nat) : Bool := f == 0 || (decide (f < 64) && s.stage != 1)
def State.vecAt (s : State) (f vec : Nat) : Vec := Table.get Vec.zero s.vecs (2048 * f + vec)
def State.setVec (s : State) (f vec : Nat) (v : Vec) : State := { s with vecs := Table.put s.vecs (2048 * f + vec) v }

/-- A vector signalled (R376); a number that the function has no vector for signals nothing. DESIGN CHOICE, log 105. -/
def State.msix (s : State) (f vec : Nat) : State :=
  let v := s.vecAt f vec
  if !hasVec f vec then s
  else if v.masked then s.setVec f vec { v with pending := true }
  else { s with sent := s.sent ++ [.msix f vec] }
/-- A vector as the host leaves it: a message that waited for the mask to go is sent (R376). -/
def State.storeVec (s : State) (f vec : Nat) (v : Vec) : State :=
  if v.pending && !v.masked then { s.setVec f vec { v with pending := false } with sent := s.sent ++ [.msix f vec] }
  else s.setVec f vec v

/-- The signal of a completion slot (R376). -/
def State.signal (s : State) (i : Nat) : State :=
  let q := s.qslotAt i
  (s.setQslot i { q with p := 0 }).msix q.func.toNat q.vec.toNat

/-- The 64 bytes of a completion record (R303). -/
def Launch.completion (l : Launch) (now : Nat) : List Byte :=
  leOf 4 l.tag.toNat ++ leOf 2 l.status ++ leOf 2 l.invcode ++ leOf 8 l.completed ++ leOf 8 l.late ++ leOf 8 l.faulted ++
    leOf 8 l.flags.toNat ++ leOf 8 now ++ leOf 16 0

/-- The launch slot is free again (R304). -/
def State.freeLaunch (s : State) (slot : Nat) : State :=
  { s with
    slots := Table.erase s.slots slot
    pool := s.pool.filter fun n => n.slot != slot
    words := s.words.filter fun w => w.slot != slot }

/-- Has a slot written as many records as THRESH since its last signal (R376)? -/
def QSlot.countMet (q : QSlot) : Bool := q.thresh != 0 && decide (q.thresh.toNat ≤ q.p)

/-- TAIL advances past a record that has been written, FULL is set when the ring has come to 2^LOGN records, and the launch
slot is free (R304, R375, R376). -/
def State.recordTail (s : State) (slot : Nat) (w : Written) : State :=
  let q := s.qslotAt w.slot
  let q := { q with tail := q.tail + 1, p := q.p + 1, t0 := if q.p = 0 then w.tick else q.t0 }
  let q := { q with full := decide ((q.tail - q.head).toNat = 2 ^ q.logn.toNat) }
  let s := (s.stepQslot w.slot q w.pts).freeLaunch slot
  if q.countMet then s.signal w.slot else s

/-- The next step of a launch's completion record: its write, or, once it is written, the advance of TAIL; none where it is
held: records of one queue are written in the order in which their launches completed, and one that finds no enabled slot,
no room or no translation waits (R375). DESIGN CHOICE, log 74. -/
def State.writeRecord (s : State) (slot : Nat) : Option State :=
  (s.launchAt slot).bind fun l => match l.wrote with
  | some w => some (s.recordTail slot w)
  | none => l.doneAt.bind fun t =>
    let s := s.landExt fun w => w.launch == some l.seq
    let first := s.slots.all fun p => p.2.cq != l.cq || match p.2.doneAt with
      | some u => decide (t ≤ u)
      | none => true
    if l.cq = 0xFFFF then some (s.freeLaunch slot)
    else if !first then none
    else (s.qslots.find? fun p => p.2.enable && p.2.completion && p.2.queue.toNat == l.cq).bind fun (i, q) =>
      if (q.tail - q.head).toNat = 2 ^ q.logn.toNat then
        if q.full then none else some (s.stepQslot i { q with full := true } 0)
      else
        (s.unitWriteAt q.dom.toNat (q.ring.toNat + 64 * (q.tail.toNat % 2 ^ q.logn.toNat)) (l.completion s.now) l.cpts).map
          fun r => r.2.setLaunch slot { l with wrote := some ⟨i, s.now, r.1⟩ }

/-- COMPLETION_RECORD_WRITE: the record, and in a later step TAIL. -/
def execCompletionRecordWrite (slot : Nat) (s : State) : Host.Outcome State Fault Refusal := .next ((s.writeRecord slot).getD s)

/-- Must a slot signal: records as many as THRESH, or the holdoff over (R376)? -/
def QSlot.holdoffDue (q : QSlot) (now : Nat) : Bool :=
  q.completion && decide (0 < q.p) && (q.countMet || decide (q.t0 + q.holdoff.toNat ≤ now))

/-- MSIX_HOLDOFF_EXPIRY. -/
def execMsixHoldoffExpiry (i : Nat) (s : State) : Host.Outcome State Fault Refusal :=
  .next (if (s.qslotAt i).holdoffDue s.now then s.signal i else s)

/-- MSIX_UNMASK: the host unmasks a vector that a function has (R369). -/
def execMsixUnmask (f vec : Nat) (s : State) : Host.Outcome State Fault Refusal :=
  .next (if s.visible f && hasVec f vec then s.storeVec f vec { s.vecAt f vec with masked := false } else s)

end Sys2Proof.Machine
end

