-- ==== Sys2Proof/Machine/Loader.lean ====
section
/-! DEFINITION. The loader of code objects (R94 to R98). -/

namespace Sys2Proof.Machine

/-- Bytes of a domain read 64 at a time, each after the last, and the time of the last. -/
def State.unitBytes (s : State) (dom : Nat) (pts : BitVec 64) : Nat → Nat → Nat → Option (List Byte × BitVec 64 × State)
  | 0, _, _ => some ([], pts, s)
  | fuel + 1, a, n =>
    if n = 0 then some ([], pts, s)
    else
      let k := Nat.min n (64 - a % 64)
      match s.unitReadAt dom a k pts with
      | none => none
      | some (bs, t, s) => match s.unitBytes dom t fuel (a + k) (n - k) with
        | some (rest, t, s) => some (bs ++ rest, t, s)
        | none => none

/-- An object as it stands in memory. -/
structure ObjImage where
  base : Nat
  b : List Byte
deriving DecidableEq, Repr

namespace ObjImage
variable (o : ObjImage)
/-- `n` bytes at an offset. -/
def raw (off n : Nat) : List Byte := (o.b.drop off).take n
def f (off n : Nat) : Nat := leVal (o.raw off n)
/-- Offset and size, or count, of a part (R95). -/
def text : Nat × Nat := (o.f 24 4, o.f 28 4)
def data : Nat × Nat := (o.f 32 4, o.f 36 4)
def scratch : Nat × Nat := (o.f 40 4, o.f 44 4)
def strs : Nat × Nat := (o.f 64 4, o.f 68 4)
def entries : List Nat := (List.range (o.f 20 4)).map fun i => o.f 16 4 + 32 * i
def syms : List Nat := (List.range (o.f 52 4)).map fun i => o.f 48 4 + 32 * i
def relocs : List Nat := (List.range (o.f 60 4)).map fun i => o.f 56 4 + 16 * i
def inside (p : Nat × Nat) (unit : Nat) : Bool := decide (p.1 + unit * p.2 ≤ o.b.length)
def zeros (off n : Nat) : Bool := (o.raw off n).all fun x => x == 0
/-- The section of a symbol: offset in the object, size. -/
def partOf (s : Nat) : Option (Nat × Nat) := match s with
  | 1 => some o.text | 2 => some o.data | 3 => some o.scratch | _ => none
/-- A name: the bytes of the string table up to a zero. PRESUMED, log 41. -/
def name (off : Nat) : List Byte := ((o.raw o.strs.1 o.strs.2).drop off).takeWhile fun x => x != 0

/-- OBJECT_INVALID (R96), translation faults apart. So are an object that does not begin at a multiple of 256, a
relocation kind above 1, and an offset of an entry, a symbol, a name or a relocation that leaves its own section or string
table and not the object, whose fate the spec does not state. DESIGN CHOICE, log 99. -/
def invalid : Bool :=
  o.base % 256 != 0 || decide (o.b.length < 256) || o.f 0 4 != 0x4F4B5745 || o.f 4 2 != 1 || !o.zeros 6 2 || !o.zeros 10 6 ||
  !o.zeros 120 136 || o.raw 72 48 != sha384 (o.b.drop 256) ||
  !o.inside o.text 1 || !o.inside o.data 1 || !o.inside o.scratch 1 || !o.inside o.strs 1 ||
  !o.inside (o.f 16 4, o.f 20 4) 32 || !o.inside (o.f 48 4, o.f 52 4) 32 || !o.inside (o.f 56 4, o.f 60 4) 16 ||
  (o.entries.any fun e =>
    decide (o.strs.2 ≤ o.f e 4) || decide (o.text.2 ≤ o.f (e + 4) 4) || !o.zeros (e + 24) 8 ||
    o.f (e + 8) 8 / 2 ^ 43 != 0 || o.f (e + 16) 8 / 2 ^ 25 != 0 ||
    decide (128 * (o.f (e + 12) 4 % 2 ^ 11 - o.f (e + 16) 8 / 2 ^ 14 % 2 ^ 11) < o.scratch.2)) ||
  (o.syms.any fun e =>
    decide (o.strs.2 ≤ o.f e 4) || decide (4 < o.f (e + 4) 1) || decide (2 < o.f (e + 5) 1) || !o.zeros (e + 6) 2 ||
    match o.partOf (o.f (e + 4) 1) with
    | some p => decide (p.2 < o.f (e + 8) 8 + o.f (e + 16) 8)
    | none => false) ||
  o.relocs.any fun e =>
    let v := o.f e 8
    decide ((if v < 2 ^ 63 then o.text.2 else o.data.2) < v % 2 ^ 63 + 8) || decide (o.f 52 4 ≤ o.f (e + 8) 4) ||
      decide (1 < o.f (e + 12) 4)

/-- The value of a defined symbol: the address of a place of .text or .data, a scratchpad address, or the value itself. A
place is an offset from the start of its section. DESIGN CHOICE, log 99. -/
def value (e : Nat) : Nat := match o.f (e + 4) 1 with
  | 1 => o.base + o.text.1 + o.f (e + 8) 8
  | 2 => o.base + o.data.1 + o.f (e + 8) 8
  | _ => o.f (e + 8) 8
/-- A symbol with its body, as it stands before relocations are patched. DESIGN CHOICE, log 99. -/
def sym (e : Nat) : Sym :=
  { name := o.name (o.f e 4), weak := o.f (e + 5) 1 == 2, value := word (o.value e), size := o.f (e + 16) 8
    body := match o.partOf (o.f (e + 4) 1) with
      | some p => o.raw (p.1 + o.f (e + 8) 8) (o.f (e + 16) 8)
      | none => []
    hash := word (o.f (e + 24) 8) }
end ObjImage

/-- Does the domain's definition of a name, if there is one, clash with a new one (R98)? -/
def clash (t : List Sym) (s : Sym) : Bool := match t.find? fun x => x.name == s.name with
  | some x => !x.weak && !s.weak && !(x.size == s.size && x.body == s.body && x.hash == s.hash)
  | none => false
/-- The domain's symbols with a new definition: a strong one replaces a weak one, and else the first stays (R98). -/
def define (t : List Sym) (s : Sym) : List Sym := match t.find? fun x => x.name == s.name with
  | some x => if x.weak && !s.weak then t.map fun y => if y.name == s.name then s else y else t
  | none => t ++ [s]

/-- What a relocation's symbol stands for, given the domain's definitions. -/
def ObjImage.target (o : ObjImage) (t : List Sym) (e : Nat) : Option Nat :=
  if o.f (e + 4) 1 ≠ 0 && o.f (e + 5) 1 == 0 then some (o.value e)
  else (t.find? fun x => x.name == o.name (o.f e 4)).map fun x => x.value.toNat

/-- Offset in .text of the instruction that holds a byte, by the lengths of the instructions from `i` on; data words among them
are taken as instructions. PRESUMED, log 41. -/
def ObjImage.holding (o : ObjImage) (at_ : Nat) : Nat → Nat → Nat
  | 0, i => i
  | fuel + 1, i =>
    let n := match o.f (o.text.1 + i) 1 % 4 with
      | 0 => 4 | 3 => 20 | _ => 12
    if at_ < i + n then i else o.holding at_ fuel (i + n)

/-- The place of a relocation and the value that patches it (R95). In .data a kind 1 is measured from the patched place
itself. DESIGN CHOICE, log 99. -/
def ObjImage.patch (o : ObjImage) (t : List Sym) (r : Nat) : Option (Nat × Nat) :=
  let v := o.f r 8
  let off := v % 2 ^ 63
  let inText := decide (v < 2 ^ 63)
  let place := o.base + (if inText then o.text.1 else o.data.1) + off
  let from_ := if inText then o.base + o.text.1 + o.holding off (o.text.2 / 4 + 1) 0 else place
  (o.target t (o.f 48 4 + 32 * o.f (r + 8) 4)).map fun x =>
    (place, if o.f (r + 12) 4 = 0 then x % 2 ^ 64 else (x + 2 ^ 64 - from_) % 2 ^ 64)

/-- The patches written in place, and the time of the last; none where a translation fails. -/
def State.patchAll (s : State) (dom : Nat) (pts : BitVec 64) : List (Nat × Nat) → Option (BitVec 64 × State)
  | [] => some (pts, s)
  | (a, v) :: ps =>
    let lo := Nat.min 8 (64 - a % 64)
    match s.unitWriteAt dom a ((leOf 8 v).take lo) pts with
    | none => none
    | some (t, s) =>
      if lo = 8 then s.patchAll dom t ps
      else match s.unitWriteAt dom (a + lo) ((leOf 8 v).drop lo) t with
        | none => none
        | some (t, s) => s.patchAll dom t ps

/-- A load (R96): its status, the time of its last step, and the state where it binds the object. Of several causes the first of OBJECT_INVALID,
PROFILE_UNKNOWN, SYMBOL_CONFLICT and SYMBOL_UNRESOLVED is reported. PRESUMED, log 41. OBJ and SIZE are read here, at
the end of the load, so that a store to OBJ while it is in progress counts. DESIGN CHOICE, log 99. -/
def State.load96 (s : State) (dom : Nat) : Nat × BitVec 64 × State :=
  let d := s.domainAt dom
  let n := d.ldSize.toNat
  let base := d.ldObj.toNat
  let (begin, s) := s.stampReads [loadBlock dom / 128] 0
  match s.unitBytes dom begin (n / 64 + 2) base n with
  | none => (4, begin, s)
  | some (bs, pts, t) =>
    let o : ObjImage := ⟨base, bs⟩
    if o.invalid then (4, begin, s)
    else if o.f 8 2 / 16 ≠ 0 then (3, begin, s)
    else
      let old := Table.get [] t.syms dom
      let new := (o.syms.filter fun e => o.f (e + 4) 1 != 0 && o.f (e + 5) 1 != 0).map o.sym
      if new.any (clash old) then (1, begin, s)
      else
        let tab := new.foldl define old
        let ps := o.relocs.map (o.patch tab)
        if ps.any Option.isNone then (2, begin, s)
        else match t.patchAll dom pts (ps.filterMap id) with
          | none => (4, begin, s)
          | some (done, t) =>
            let obj : Obj :=
              { dom := dom, base := word base, size := n, prof := BitVec.ofNat 16 (o.f 8 2)
                entries := o.entries.map fun e =>
                  ⟨word (base + o.text.1 + o.f (e + 4) 4), word (o.f (e + 8) 8), word (o.f (e + 16) 8)⟩
                scratch := word (base + o.scratch.1), scratchLen := o.scratch.2 }
            (0, done, { t with objs := obj :: t.objs, syms := Table.put t.syms dom tab })

/-- LOAD_COMPLETE (R97). -/
def execLoadComplete (dom : Nat) (s : State) : Host.Outcome State Fault Refusal :=
  if (s.domainAt dom).ldStatus ≠ 0xFFFF then .next s
  else
    let (st, done, t) := s.load96 dom
    let d := t.domainAt dom
    .next ((t.setDomain dom { d with ldStatus := BitVec.ofNat 16 st, ldSeq := d.ldSeq + 1 }).ctlMark (loadBlock dom) 32 done)

end Sys2Proof.Machine
end

