-- ==== Sys2Proof/Machine/HostLink.lean ====
section
/-! DEFINITION. The host link, the peer links and the control space as events (R322, R331, R371 to R380), bring-up and
attestation (R381 to R385). An event that is not honoured leaves the state as it is. -/

namespace Sys2Proof.Machine

/-! Stores to the control space, as events: a store that is refused changes nothing. -/

/-- A store of bytes by a live OID `o`; nobody is OID 0 (R3). -/
def State.ctlEvent (s : State) (o pa : Nat) (bs : List Byte) : Host.Outcome State Fault Refusal :=
  if o = 0 || !s.oidLive o then .next s
  else match s.ctlWrite o pa bs with
    | some t => .next t
    | none => .next s

/-- TAILW_WRITE (R372). -/
def execTailwWrite (i : Nat) (v : BitVec 32) (o : Nat) (s : State) := s.ctlEvent o (slotBlock i + 32) (leOf 4 v.toNat)
/-- QUEUE_SLOT_ENABLE_WRITE (R374). -/
def execQueueSlotEnableWrite (i : Nat) (v : BitVec 8) (o : Nat) (s : State) := s.ctlEvent o (slotBlock i + 9) [v]
/-- TGEN_WRITE (R329). -/
def execTgenWrite (d o : Nat) (s : State) := s.ctlEvent o (domBlock d + 24) (leOf 2 0)
/-- PASID_WRITE (R331); OID 0 stands for the host's teardown, which stores 0. -/
def execPasidWrite (d : Nat) (v : BitVec 20) (o : Nat) (s : State) : Host.Outcome State Fault Refusal :=
  if o = 0 then
    .next (if v = 0 && decide (d < 4096) then (s.setDomain d ((s.domainAt d).storePasid 0 s.now)).outMark (domBlock d) 64 else s)
  else s.ctlEvent o (domBlock d + 8) (leOf 4 v.toNat)
/-- TOFF_WRITE (R355). -/
def execToffWrite (d : Nat) (v : Word) (o : Nat) (s : State) := s.ctlEvent o (domBlock d + 16) (leOf 8 v.toNat)
/-- LOAD_REQUEST (R97). -/
def execLoadRequest (d : Nat) (v : Word) (o : Nat) (s : State) := s.ctlEvent o (loadBlock d + 8) (leOf 8 v.toNat)
/-- ATTEST_NONCE_WRITE (R384). -/
def execAttestNonceWrite (v : BitVec 384) (o : Nat) (s : State) := s.ctlEvent o 0xF0000B0000 (leOf 48 v.toNat)
/-- CONTROL_SPACE_WRITE (R322). -/
def execControlSpaceWrite (pa : Nat) (bs : List Byte) (o : Nat) (s : State) := s.ctlEvent o pa bs

/-! PASIDs (R331). -/

/-- Does an access wait for a translation of the host in a domain? -/
def ExtWait.hostOf (d : Nat) (e : ExtWait) : Bool := !e.peer && e.dom == d && e.answer.isNone

/-- What waits for a translation of the host: a context of a core, or a card by its engine and its place in the post order. -/
inductive AtsWaiter where
  | ctx (core k : Nat)
  | card (core : Nat) (eng : Bool) (seq : Nat)
deriving DecidableEq, Repr
/-- All that wait for it in a domain. -/
def State.atsWaiters (s : State) (d : Nat) : List AtsWaiter :=
  s.cores.flatMap fun p =>
    ((p.2.ctxs.filter fun x => x.2.ext.any (ExtWait.hostOf d)).map fun x => .ctx p.1 x.1) ++
    ((p.2.cards.filter fun c => c.ext.any (ExtWait.hostOf d)).map fun c => .card p.1 c.eng c.seq)

/-- The answer to what waits: the cause of a fault, or 0. -/
def answered (c : BitVec 8) (e : Option ExtWait) : Option ExtWait := e.map fun e => { e with answer := some c }
def State.atsAnswer (s : State) (c : BitVec 8) : AtsWaiter → State
  | .ctx k j => s.updCtx k j fun x => { x with ext := answered c x.ext }
  | .card k eng id => s.updCard k eng id fun x => { x with ext := answered c x.ext }
/-- Which of them the host answers next is a free choice. DESIGN CHOICE, log 3. -/
def State.atsPick (s : State) (d : Nat) : Option AtsWaiter × State :=
  match s.atsWaiters d with
  | [] => (none, s)
  | [w] => (some w, s)
  | ws => (ws[(Config.freeWord s.n).toNat % ws.length]?, { s with n := s.n + 1 })
/-- A response answers what the host picks. -/
def State.atsRespond (s : State) (d : Nat) (c : BitVec 8) : State :=
  match s.atsPick d with
  | (some w, s) => s.atsAnswer c w
  | (none, s) => s

/-- ATS_RESPONSE: whether the host can translate the address is a free choice, log 3. A response that belongs to a PASID
which has retired is dropped and counted. -/
def execAtsResponse (d : Nat) (s : State) : Host.Outcome State Fault Refusal :=
  let b := s.domainAt d
  let old := b.atsOld != 0 && (b.atsOut == 0 || Config.freeBool s.n)
  let s := if b.atsOld ≠ 0 then { s with n := s.n + 1 } else s
  if old then .next (s.stepDomain d { b with atsOld := b.atsOld - 1, dropped := b.dropped + 1 })
  else if b.atsOut = 0 then .next s
  else if b.pstate = 1 then
    let ok := Config.freeBool s.n
    let s := { s with n := s.n + 1 }.setDomain d { b with atsOut := b.atsOut - 1 }
    .next (s.atsRespond d (if ok then 0 else Cause.PAGE_ABSENT))
  else .next ((s.stepDomain d { b with atsOut := b.atsOut - 1, dropped := b.dropped + 1 }).atsRespond d Cause.PASID_RETIRED)

def Domain.retireDue (b : Domain) (now : Nat) : Bool := b.pstate == 2 && (b.atsOut == 0 || decide (b.retireAt + 6000 ≤ now))

/-- PASID_RETIRE_END: what still waits for the host faults, and the responses still to come are late ones. -/
def execPasidRetireEnd (d : Nat) (s : State) : Host.Outcome State Fault Refusal :=
  let b := s.domainAt d
  .next (if b.retireDue s.now then
      ((s.atsWaiters d).foldl (State.atsAnswer · Cause.PASID_RETIRED) s).stepDomain d
        { b with pstate := 0, pasid := 0, atsOut := 0, atsOld := b.atsOld + b.atsOut }
    else s)

/-! Doorbells and the mailbox (R371, R373). -/

/-- The OID bound to a function (R352); none where it is unbound. -/
def State.bound (s : State) (f : Nat) : Option Nat :=
  let o := (s.funcAt f).oid.toNat
  if o = 0 || !s.oidLive o then none else some o

/-- A doorbell write by a function. -/
def State.doorbell (s : State) (f page : Nat) (v : BitVec 32) (completion : Bool) : State :=
  match s.qslots.find? fun p => p.2.enable && p.2.func.toNat == f && p.2.fidx.toNat == page, s.bound f with
  | some (i, q), some o =>
    if q.completion == completion && f < 64 && page < 64 && s.holdsOne o cQueue q.queue.toNat then
      (s.ring i v).outMark (slotBlock i) 64
    else s
  | _, _ => s

/-- LAUNCH_DOORBELL. -/
def execLaunchDoorbell (f page : Nat) (v : BitVec 32) (s : State) : Host.Outcome State Fault Refusal :=
  .next (s.doorbell f page v false)
/-- COMPLETION_DOORBELL. -/
def execCompletionDoorbell (f page : Nat) (v : BitVec 32) (s : State) : Host.Outcome State Fault Refusal :=
  .next (s.doorbell f page v true)

/-- A host write to the mailbox page, which sets MBPEND after its bytes; one that leaves the page changes nothing. -/
def State.mailboxWrite (s : State) (off : Nat) (bs : List Byte) : State :=
  if 4096 < off + bs.length || bs.isEmpty then s
  else
    let s := { s with mailbox := s.mailbox.putBytes off bs }.outMark (mailBlock + off) bs.length
    if touches off bs.length 0xFF8 1 then { s with mbpend := true }.outMark pendBlock 8 else s
/-- MAILBOX_DOORBELL. -/
def execMailboxDoorbell (off : Nat) (bs : List Byte) (s : State) : Host.Outcome State Fault Refusal := .next (s.mailboxWrite off bs)

/-! The device memory window (R377, R383). -/

/-- Size of the window of a function (R370). -/
def windowSize (f : Nat) : Nat := if f = 0 then 2 ^ 36 else 2 ^ 30

/-- Where an access to the window of a function lands: domain and virtual address. -/
def State.window (s : State) (f off n : Nat) : Option (Nat × Nat) :=
  let e := s.funcAt f
  match s.bound f with
  | none => none
  | some o =>
    if 64 ≤ f || windowSize f < off + n || s.domHolder e.wdom.toNat != o then none
    else some (e.wdom.toNat, e.wva.toNat + off)

/-- Does the boot ROM map the window onto the image (R383)? -/
def State.romWindow (s : State) (f off n : Nat) : Bool := s.recovery && f == 0 && decide (off + n ≤ 2 ^ 24)

/-- The bytes of a range, a line of it at a time (R256). DESIGN CHOICE, log 47. -/
def State.lineReads (s : State) (dom : Nat) : List (Nat × Nat) → Option (List Byte × State)
  | [] => some ([], s)
  | (a, n) :: ps => match s.unitReadAt dom a n s.outPts with
    | none => none
    | some (bs, t, s) => match ({ s with outPts := t } : State).lineReads dom ps with
      | some (rest, s) => some (bs ++ rest, s)
      | none => none
/-- A write of a range, a line at a time. -/
def State.lineWrites (s : State) (dom : Nat) : List (Nat × Nat) → List Byte → Option State
  | [], _ => some s
  | (a, n) :: ps, bs => match s.unitWriteAt dom a (bs.take n) s.outPts with
    | none => none
    | some (t, s) => ({ s with outPts := t } : State).lineWrites dom ps (bs.drop n)

/-- Something sent out of the device. DESIGN CHOICE, log 89. -/
def State.send (s : State) (x : Sent) : State := { s with sent := s.sent ++ [x] }

/-- A write of device physical memory by an outside agent, in the order in which it is delivered (R256). -/
def State.outWrite (s : State) (pa : Nat) (bs : List Byte) : State :=
  let r := s.physWrite (Ag.outside 0) pa bs s.outPts
  { r.2 with outPts := r.1 }

/-- HOST_WINDOW_READ. -/
def execHostWindowRead (f off n : Nat) (s : State) : Host.Outcome State Fault Refusal :=
  if s.romWindow f off n then
    let r := s.physRead (Ag.outside 0) off n s.outPts
    .next ({ r.2.2 with outPts := r.2.1 }.send (.readData r.1))
  else match s.window f off n with
    | none => .next (s.send .unsupported)
    | some (dom, a) => match s.lineReads dom (lineParts (n + 1) a n) with
      | some (bs, s) => .next (s.send (.readData bs))
      | none => .next (s.send .unsupported)

/-- HOST_WINDOW_WRITE: a write that cannot be translated as a whole is discarded. DESIGN CHOICE, log 76. -/
def execHostWindowWrite (f off : Nat) (bs : List Byte) (s : State) : Host.Outcome State Fault Refusal :=
  let n := bs.length
  if s.romWindow f off n then .next (s.outWrite off bs)
  else match s.window f off n with
    | none => .next s
    | some (dom, a) => match s.lineWrites dom (lineParts (n + 1) a n) bs with
      | some s => .next s
      | none => .next s

/-- HOST_WINDOW_ATOMIC. -/
def execHostWindowAtomic (_f _off : Nat) (s : State) : Host.Outcome State Fault Refusal := .next (s.send .unsupported)

/-! The BARs (R370): the host's accesses to them apart from those that are rows of the opcode table. -/

/-- What a read of a doorbell page returns (R373). -/
def State.pageIndex (s : State) (f page : Nat) : BitVec 32 :=
  match s.qslots.find? fun p => p.2.enable && p.2.func.toNat == f && p.2.fidx.toNat == page with
  | some (_, q) => if q.completion then q.tail else q.head
  | none => 0

/-- The 16 bytes of an entry of an MSI-X table: address, data, and the mask in bit 0 of the vector control. PRESUMED, log
82. -/
def Vec.image (v : Vec) : Nat := v.addr.toNat + at' 8 v.data.toNat + at' 12 (b2n v.masked)
/-- First byte of the pending bits of a function. -/
def pendingAt (f : Nat) : Nat := if f = 0 then 0x8000 else 0x2000

/-- A byte of BAR 0 or BAR 4 of a function; what is not assigned reads zero. -/
def State.barByte (s : State) (f bar off : Nat) : Byte :=
  if bar = 0 then
    if off < 2 ^ 18 && off % 4096 < 4 then BitVec.ofNat 8 (fieldOf (s.pageIndex f (off / 4096)).toNat (off % 4096) 1) else 0
  else if bar ≠ 4 then 0
  else if off < 16 * vecCount f then BitVec.ofNat 8 (fieldOf (s.vecAt f (off / 16)).image (off % 16) 1)
  else if pendingAt f ≤ off && off < pendingAt f + vecCount f / 8 then
    BitVec.ofNat 8 ((List.range 8).foldl (fun v i => v + if (s.vecAt f (8 * (off - pendingAt f) + i)).pending then 2 ^ i else 0) 0)
  else if f = 0 && 0x10000 ≤ off && off < 0x11000 then (s.mailbox.bytes (off - 0x10000) 1).headD 0
  else 0

/-- A host read of a BAR; BAR 2 is the window, and a read of a doorbell page or of the mailbox is a step on what it shows in the
control space. A function that is not visible does not answer. -/
def State.barRead (s : State) (f bar off n : Nat) : Host.Outcome State Fault Refusal :=
  if !s.visible f then .next (s.send .unsupported)
  else if bar = 2 then execHostWindowRead f off n s
  else
    let ls := match s.qslots.find? fun p => p.2.enable && p.2.func.toNat == f && p.2.fidx.toNat == off / 4096 with
      | some (i, _) => if bar = 0 then [slotBlock i / 128] else []
      | none => []
    let ls := if bar = 4 && f = 0 && 0x10000 ≤ off && off < 0x11000 then [(mailBlock + off - 0x10000) / 128] else ls
    let r := s.stampReads ls s.outPts
    let s := { r.2 with outPts := r.1 }
    .next (s.send (.readData ((List.range n).map fun i => s.barByte f bar (off + i))))

/-- Bytes of the MSI-X table of a function written: the entries that they touch. -/
def State.tableWrite (s : State) (f off : Nat) (bs : List Byte) : State :=
  (List.range (vecCount f)).foldl (fun s i =>
    if touches off bs.length (16 * i) 16 then
      let v := s.vecAt f i
      let img := (List.range 16).foldl (fun w j =>
        if off ≤ 16 * i + j then match bs[16 * i + j - off]? with
          | some b => overlay w j 1 b.toNat
          | none => w
        else w) v.image
      s.storeVec f i { v with
        addr := BitVec.ofNat 64 (fieldOf img 0 8), data := BitVec.ofNat 32 (fieldOf img 8 4), masked := fieldOf img 12 1 % 2 == 1 }
    else s) s

/-- A host write of a BAR: a doorbell is 32 bits at offset 0 of its page (R373); pending bits are read only, and what is not
assigned ignores it. -/
def State.barWrite (s : State) (f bar off : Nat) (bs : List Byte) : Host.Outcome State Fault Refusal :=
  if !s.visible f then .next s
  else if bar = 2 then execHostWindowWrite f off bs s
  else if bar = 0 then
    if bs.length = 4 && off % 4096 = 0 then
      let v := BitVec.ofNat 32 (leVal bs)
      .next ((s.doorbell f (off / 4096) v false).doorbell f (off / 4096) v true)
    else .next s
  else if bar = 4 then
    if f = 0 && 0x10000 ≤ off then .next (s.mailboxWrite (off - 0x10000) bs) else .next (s.tableWrite f off bs)
  else .next s

/-! Requests of peers (R380). -/

/-- The OID with whose rights the requests of a port act. -/
def State.portOid (s : State) (port : Nat) : Option Nat :=
  if 12 ≤ port || !s.endowed || (s.entryOf cLink port).ended then none else some (s.entryOf cLink port).holder

def isCtl (pa : Nat) : Bool := decide (ctlBase ≤ pa) && decide (pa < ctlEnd)

/-- A read by a peer, in the order in which its requests are delivered (R256); none where it is refused. -/
def State.peerRead (s : State) (port pa n : Nat) : Option (List Byte × State) :=
  match s.portOid port with
  | none => none
  | some o =>
    if isCtl pa then (s.ctlRead o pa n).map fun bs =>
      let r := s.stampReads [pa / 128, (pa + n - 1) / 128].eraseDups s.outPts
      (bs, { r.2 with outPts := r.1 })
    else if s.extentOk o pa (pa + n) then
      let r := s.physRead (Ag.outside 0) pa n s.outPts
      some (r.1, { r.2.2 with outPts := r.2.1 })
    else none

/-- A write by a peer; none where it is refused. -/
def State.peerWrite (s : State) (port pa : Nat) (bs : List Byte) : Option State :=
  match s.portOid port with
  | none => none
  | some o =>
    if isCtl pa then (s.ctlStep o pa bs s.outPts).map fun r => { r.2 with outPts := r.1 }
    else if s.extentOk o pa (pa + bs.length) then some (s.outWrite pa bs)
    else none

/-- PEER_READ_REQUEST. -/
def execPeerReadRequest (port pa n : Nat) (s : State) : Host.Outcome State Fault Refusal :=
  match s.peerRead port pa n with
  | some (bs, s) => .next (s.send (.peerData port bs))
  | none => .next (s.send (.peerError port))

/-- PEER_WRITE_REQUEST. -/
def execPeerWriteRequest (port pa : Nat) (bs : List Byte) (s : State) : Host.Outcome State Fault Refusal :=
  match s.peerWrite port pa bs with
  | some s => .next s
  | none => .next (s.send (.peerError port))

/-- PEER_ATOMIC_REQUEST: an atomic of R157 at its home here, one step with the time of its write, and the old value as the
answer. -/
def execPeerAtomicRequest (port pa : Nat) (op : AmoOp) (w : Bool) (v e : Word) (s : State) : Host.Outcome State Fault Refusal :=
  let n := if w then 8 else 4
  if pa % n ≠ 0 then .next (s.send (.peerError port))
  else match s.peerRead port pa n with
    | none => .next (s.send (.peerError port))
    | some (bs, s') =>
      let old := leVal bs
      match (amoNew op (8 * n) old (v.toNat % 2 ^ (8 * n)) (e.toNat % 2 ^ (8 * n))).1 with
      | none => .next (s'.send (.peerData port bs))
      | some x => match s.peerWrite port pa (leOf n x) with
        | some t => .next (t.send (.peerData port bs))
        | none => .next (s.send (.peerError port))

/-- Is an access of a peer 60,000 ticks without an answer? -/
def Ctx.peerLate (x : Ctx) (now : Nat) : Bool := match x.ext with
  | some e => e.peer && e.answer.isNone && decide (e.since + 60000 ≤ now)
  | none => false

/-- PEER_TIMEOUT. -/
def execPeerTimeout (k j : Nat) (s : State) : Host.Outcome State Fault Refusal :=
  .next (if ((s.coreAt k).ctxAt j).peerLate s.now then
      s.updCtx k j fun x => { x with ext := x.ext.map fun e => { e with answer := some Cause.PAGE_ABSENT } }
    else s)

/-! Bring-up (R381 to R383, R385). -/

/-- The digest of the image in HBM, and whether it is accepted (R382). DESIGN CHOICE, log 78. -/
def imageDigest (m : Memory) : List Byte := sha384 (m.bytes 0 24 ++ m.bytes 256 (m.readLE 8 8))
def imageOk (m : Memory) : Bool :=
  m.readLE 0 4 == 0x4D495747 && decide (m.readLE 8 8 ≤ 16776960) && decide (m.readLE 16 8 < 256 + m.readLE 8 8) &&
  imageSigned (imageDigest m) (m.bytes 24 96)

/-- The verdict on the image: stage 4, or recovery. -/
def State.verify (s : State) : State :=
  if imageOk s.mem then { s with stage := 4, recovery := false, digest := imageDigest s.mem }
  else { s with stage := 3, recovery := true, mbpend := false }.ctlMark pendBlock 8 0

/-- DEVICE_RESET: stages 1 to 3. What lies outside the device stays. -/
def execDeviceReset (s : State) : Host.Outcome State Fault Refusal :=
  let m : Memory := s.mem.filter fun p => isExternal p.1
  let t := { State.reset with n := s.n, agenda := s.agenda, sent := s.sent, mem := m.putBytes 0 (Config.flash.take (2 ^ 24)) }
  .next t.verify

/-- SELF_TEST_END: the endowment, and the entry of the image on core 8.0.0; where that core has failed, the device stays in
recovery. -/
def execSelfTestEnd (failed : List Nat) (s : State) : Host.Outcome State Fault Refusal :=
  if s.stage ≠ 4 then .next s
  else
    let bad (s : State) (k : Nat) : State :=
      if coreExists k then s.putEntry { Entry.dflt true cCore 0 k (k + 1) with owner := 0xFFFF } else s
    if failed.contains 8192 then .next (failed.foldl bad { s with stage := 3, recovery := true })
    else
      let s := failed.foldl bad { s with endowed := true, stage := 5 }
      .next ((s.updCoreAt 8192 fun c => { c with image := true }).updCtx 8192 0 fun x => { x with pc := word (s.mem.readLE 16 8) })

/-- RECOVERY_IMAGE_CHECK; a device whose core 8.0.0 is DEFUNCT stays as it is (R385). -/
def execRecoveryImageCheck (s : State) : Host.Outcome State Fault Refusal :=
  .next (if s.holderOf 8192 != 0xFFFF && s.recovery && s.stage == 3 && s.mbpend then s.verify else s)

/-- ATTEST_REPORT_DONE (R384). -/
def execAttestReportDone (s : State) : Host.Outcome State Fault Refusal :=
  if !s.attesting then .next s
  else
    let dead := s.entries.countP fun e => e.cls == cCore && e.holder == 0xFFFF
    let body := s.attest.bytes 0 48 ++ s.digest.take 48 ++ leOf 8 s.now ++ leOf 2 dead ++ leOf 54 0
    let rep := body ++ deviceSign s.n (sha384 body)
    .next ({ s with n := s.n + 1, attest := s.attest.putBytes 0x100 rep, attesting := false }.ctlMark 0xF0000B0000 512 0)

end Sys2Proof.Machine
end

