-- ==== Sys2Proof/Machine/Fetch.lean ====
section
/-! DEFINITION. Fetching and decoding the next instruction of a context (R79, R84, R85, R123, R162), and what a word
that is no instruction does (R84). -/

namespace Sys2Proof.Machine

/-- UNDECODABLE_WORD: the executing context takes the fault of its next instruction, which has no other effect. -/
def execUndecodableWord (cause : BitVec 8) (tval : Word) (s : State) : Host.Outcome State Fault Refusal :=
  .next (s.takeTrap s.me.pc cause tval)

/-! Bytes. -/

/-- Does the executing context run the verified image, and not a resident loop, a task or a pod message (R381)? -/
def State.runsImage (s : State) : Bool := s.cur == 8192 && s.ctx == 0 && s.core.image && !s.core.task && !s.core.podMsg
/-- Does the executing core fetch by device physical address? The firmware's core does, in the 16 MiB of the image,
while it runs no task (R381). PRESUMED, log 17. -/
def State.rawFetch (s : State) (a : Nat) : Bool := s.runsImage && decide (a < 2 ^ 24)

/-- The line of the executing core's domain that holds address `a`, read and put into the instruction buffer. DESIGN
CHOICE, log 49. -/
def State.fillLine (s : State) (a : Nat) : Run (List Byte × State) :=
  let place : Run State := do
    let (p, s) ← s.accCheck .fetch false (word a) 1 1
    match p with
    | .phys pa =>
      let s ← s.extGate false p (word a)
      let d := s.core.domain.toNat
      let r := s.fillRead s.ag (pa / 128 * 128) (s.joinWalks s.me.pts)
      let s := r.2.2.sealWalks r.2.1
      let (bs, s) ← if p.host then liftTrap (s.hostLog s.cur s.ctx 128 (word (a / 128 * 128)) r.1) else .ok (r.1, s)
      .ok (s.updCore fun c =>
        { c with ibuf := (⟨d, a / 128, bs, r.2.1⟩ :: c.ibuf.filter fun l => !(l.dom == d && l.va == a / 128)).take 64 })
    | _ => fault Cause.FETCH_FAULT (word a)
  match place with
  | .error (.trap c t) => if c = Cause.REPLAY_DIVERGE then fault c t else fault Cause.FETCH_FAULT (word a)
  | .error e => .error e
  | .ok s => .ok ((s.core.ibuf.headD ⟨0, 0, [], 0⟩).data, s)

/-- The 128-byte line around address `a`, where `a` is the first byte of it that is needed: from the instruction buffer,
which may have lost the line, unless it is older than the context's last fence.imem, or from memory (R6, R162). -/
def State.fetchLine (s : State) (a : Nat) : Run (List Byte × State) :=
  if s.rawFetch a then
    let r := s.fillRead s.ag (a / 128 * 128) s.me.pts
    .ok (r.1, r.2.2)
  else if a < 2 ^ 32 then fault Cause.FETCH_FAULT (word a)
  else match s.core.ibuf.find? fun l => l.dom == s.core.domain.toNat && l.va == a / 128 &&
      decide (s.me.ifence.toNat ≤ l.ts.toNat) with
    | none => s.fillLine a
    | some l =>
      let kept := Config.freeBool s.n
      let s := { s with n := s.n + 1 }
      if kept then .ok (l.data, s) else s.fillLine a

/-- Bytes that are fetched of the instruction that starts here: a word of ones needs no more than itself (R84). -/
def fetchLen (bs : List Byte) : Nat :=
  let w := leNat 4 bs
  if w = 2 ^ 32 - 1 then 4 else lenBytes (BitVec.ofNat 2 w)

/-- The bytes of the executing context's next instruction, or FETCH_FAULT with the lowest byte address that failed
(R79, R123). -/
def State.fetch (s : State) : Run (List Byte × State) :=
  let a := s.me.pc.toNat
  if a % 4 ≠ 0 then fault Cause.FETCH_FAULT s.me.pc
  else do
    let (line, s) ← s.fetchLine a
    let here := line.drop (a % 128)
    let n := fetchLen here
    if n ≤ here.length then .ok (here.take n, s)
    else do
      let (more, s) ← s.fetchLine (a / 128 * 128 + 128)
      .ok (here ++ more.take (n - here.length), s)

/-! Decoding. -/

/-- Majors of profile vector.1 (R85). -/
def vectorMajor (m : Nat) : Bool := (decide (0x20 ≤ m) && decide (m ≤ 0x29)) || m == 0x2C
/-- Is it post.mx, function 0 of major 0x2E? -/
def isPostMx (r : Raw) : Bool := r.major.toNat == 0x2E && r.fD == 0
/-- The PROF bit that the major or the function selected needs (R85). -/
def profBit (r : Raw) : Option Nat :=
  let m := r.major.toNat
  if vectorMajor m then some 0
  else if isPostMx r then some 1
  else if m = 0x30 then some 2
  else if m = 0x31 then some 3
  else none

/-- PROF of the installed task; a core without an install runs vendor code, which no task record binds. DEDUCED,
log 11. -/
def Core.profOf (c : Core) : BitVec 16 := if c.limited then c.prof else BitVec.allOnes 16

/-- What R84 finds wrong before it looks at the function code: steps 1 to 4, and the firmware cores of R85. -/
def earlyFault (fw : Bool) (prof : BitVec 16) (r : Raw) : Option (BitVec 8) :=
  if r.x0 = 0 then some Cause.ILL_ZERO
  else if r.x0 = 0xFFFFFFFF then some Cause.ILL_ONES
  else if fw && vectorMajor r.major.toNat then some Cause.UNDEF_MAJOR
  else if fw && isPostMx r then some Cause.UNDEF_FN
  else match profBit r with
    | some b => if prof.getLsbD b then none else some Cause.PROFILE_UNDECLARED
    | none => none

/-- The cause of a decoding error. -/
def errCause : DecodeErr → BitVec 8
  | .illZero => Cause.ILL_ZERO
  | .illOnes => Cause.ILL_ONES
  | .undefMajor => Cause.UNDEF_MAJOR
  | .undefFn => Cause.UNDEF_FN
  | .litNotAllowed => Cause.LIT_NOT_ALLOWED
  | .reservedField => Cause.RESERVED_FIELD
  | .truncated => Cause.FETCH_FAULT

/-- The instruction in fetched bytes as a core decodes it (R84). -/
noncomputable def decodeFor (fw : Bool) (prof : BitVec 16) (bs : List Byte) : Instr :=
  let r := rawOf bs
  match earlyFault fw prof r with
  | some c => .undecodableWord c (r.x0.setWidth 64)
  | none => match decodeBytes bs with
    | .ok (i, _) => i
    | .error e => .undecodableWord (errCause e) (r.x0.setWidth 64)

/-- The two instructions of the resident loop: ibx.take, and a branch back to it from the loop return address
(R172). DESIGN CHOICE, log 12. -/
noncomputable def State.loopInstr (s : State) : Option Instr :=
  if s.ctx ≠ 0 || s.core.task || s.core.podMsg || s.runsImage then none
  else if s.me.pc = loopStart then some .ibxTake
  else if s.me.pc = loopStart + 4 then some (.b (BitVec.allOnes 24))
  else none

/-- The next instruction of the executing context, its bytes, and the state that its fetch leaves. -/
noncomputable def State.nextInstr (s : State) : Run (Instr × List Byte × State) :=
  match s.loopInstr with
  | some i => .ok (i, [], s)
  | none => match s.fetch with
    | .error e => .error e
    | .ok (bs, s) => .ok (decodeFor (isFirmware s.cur) s.core.profOf bs, bs, s)

end Sys2Proof.Machine
end

