-- ==== Sys2Proof/Machine/Dispatch.lean ====
section
/-! DEFINITION. One arm for each instruction of the opcode table: its meaning. -/

namespace Sys2Proof.Machine

def exec (i : Instr) (s : State) : Host.Outcome State Fault Refusal :=
  match i with
  | .deviceReset => Sys2Proof.Machine.execDeviceReset s
  | .selfTestEnd x1 => Sys2Proof.Machine.execSelfTestEnd x1 s
  | .recoveryImageCheck => Sys2Proof.Machine.execRecoveryImageCheck s
  | .mailboxDoorbell x1 x2 => Sys2Proof.Machine.execMailboxDoorbell x1 x2 s
  | .launchDoorbell x1 x2 x3 => Sys2Proof.Machine.execLaunchDoorbell x1 x2 x3 s
  | .completionDoorbell x1 x2 x3 => Sys2Proof.Machine.execCompletionDoorbell x1 x2 x3 s
  | .tailwWrite x1 x2 x3 => Sys2Proof.Machine.execTailwWrite x1 x2 x3 s
  | .queueSlotEnableWrite x1 x2 x3 => Sys2Proof.Machine.execQueueSlotEnableWrite x1 x2 x3 s
  | .launchFetch x1 => Sys2Proof.Machine.execLaunchFetch x1 s
  | .spawnAdmit x1 => Sys2Proof.Machine.execSpawnAdmit x1 s
  | .taskExpand x1 => Sys2Proof.Machine.execTaskExpand x1 s
  | .nodeRetire x1 => Sys2Proof.Machine.execNodeRetire x1 s
  | .deadlineDiscard x1 => Sys2Proof.Machine.execDeadlineDiscard x1 s
  | .taskDispatch x1 => Sys2Proof.Machine.execTaskDispatch x1 s
  | .gangDrain x1 => Sys2Proof.Machine.execGangDrain x1 s
  | .treePropagate x1 x2 => Sys2Proof.Machine.execTreePropagate x1 x2 s
  | .completionRecordWrite x1 => Sys2Proof.Machine.execCompletionRecordWrite x1 s
  | .msixHoldoffExpiry x1 => Sys2Proof.Machine.execMsixHoldoffExpiry x1 s
  | .msixUnmask x1 x2 => Sys2Proof.Machine.execMsixUnmask x1 x2 s
  | .deadlineAbort x1 => Sys2Proof.Machine.execDeadlineAbort x1 s
  | .podMessageDeliver x1 => Sys2Proof.Machine.execPodMessageDeliver x1 s
  | .applyQueueStart x1 => Sys2Proof.Machine.execApplyQueueStart x1 s
  | .noticeDeliver => Sys2Proof.Machine.execNoticeDeliver s
  | .cardStart x1 x2 x3 => Sys2Proof.Machine.execCardStart x1 x2 x3 s
  | .matrixUnitStep x1 => Sys2Proof.Machine.execMatrixUnitStep x1 s
  | .copyUnitWrite x1 x2 => Sys2Proof.Machine.execCopyUnitWrite x1 x2 s
  | .cardComplete x1 x2 x3 => Sys2Proof.Machine.execCardComplete x1 x2 x3 s
  | .writeBufferDrain x1 x2 => Sys2Proof.Machine.execWriteBufferDrain x1 x2 s
  | .engineBankForce x1 x2 x3 => Sys2Proof.Machine.execEngineBankForce x1 x2 x3 s
  | .ptsAdvance => Sys2Proof.Machine.execPtsAdvance s
  | .globalLoadReturn x1 x2 => Sys2Proof.Machine.execGlobalLoadReturn x1 x2 s
  | .globalStoreReturn x1 x2 => Sys2Proof.Machine.execGlobalStoreReturn x1 x2 s
  | .linkedBarrierEvent => Sys2Proof.Machine.execLinkedBarrierEvent s
  | .powerEstimate => Sys2Proof.Machine.execPowerEstimate s
  | .clockGate x1 => Sys2Proof.Machine.execClockGate x1 s
  | .bucketCharge x1 x2 => Sys2Proof.Machine.execBucketCharge x1 x2 s
  | .bucketRefill => Sys2Proof.Machine.execBucketRefill s
  | .counterSnapshot => Sys2Proof.Machine.execCounterSnapshot s
  | .counterWrap x1 x2 x3 => Sys2Proof.Machine.execCounterWrap x1 x2 x3 s
  | .loanTermExpiry x1 x2 => Sys2Proof.Machine.execLoanTermExpiry x1 x2 s
  | .graceDeadlineExpiry x1 x2 => Sys2Proof.Machine.execGraceDeadlineExpiry x1 x2 s
  | .termNear x1 x2 => Sys2Proof.Machine.execTermNear x1 x2 s
  | .oidIdleRetire x1 => Sys2Proof.Machine.execOidIdleRetire x1 s
  | .segTermEnd x1 x2 => Sys2Proof.Machine.execSegTermEnd x1 x2 s
  | .stopTick x1 => Sys2Proof.Machine.execStopTick x1 s
  | .quiesceEnd x1 => Sys2Proof.Machine.execQuiesceEnd x1 s
  | .flushToken x1 => Sys2Proof.Machine.execFlushToken x1 s
  | .saveBufferDrain x1 => Sys2Proof.Machine.execSaveBufferDrain x1 s
  | .huskSaveStep x1 => Sys2Proof.Machine.execHuskSaveStep x1 s
  | .huskValid x1 => Sys2Proof.Machine.execHuskValid x1 s
  | .acceptStopEnd x1 => Sys2Proof.Machine.execAcceptStopEnd x1 s
  | .reclaimStopEnd x1 => Sys2Proof.Machine.execReclaimStopEnd x1 s
  | .powerEmergency => Sys2Proof.Machine.execPowerEmergency s
  | .functionLevelReset x1 => Sys2Proof.Machine.execFunctionLevelReset x1 s
  | .kstopWrite x1 x2 x3 => Sys2Proof.Machine.execKstopWrite x1 x2 x3 s
  | .kresumeWrite x1 x2 x3 => Sys2Proof.Machine.execKresumeWrite x1 x2 x3 s
  | .eventSelectWrite x1 x2 x3 x4 => Sys2Proof.Machine.execEventSelectWrite x1 x2 x3 x4 s
  | .counterWrite x1 x2 x3 x4 => Sys2Proof.Machine.execCounterWrite x1 x2 x3 x4 s
  | .tflagsWrite x1 x2 x3 => Sys2Proof.Machine.execTflagsWrite x1 x2 x3 s
  | .tgenWrite x1 x2 => Sys2Proof.Machine.execTgenWrite x1 x2 s
  | .pasidWrite x1 x2 x3 => Sys2Proof.Machine.execPasidWrite x1 x2 x3 s
  | .toffWrite x1 x2 x3 => Sys2Proof.Machine.execToffWrite x1 x2 x3 s
  | .atsResponse x1 => Sys2Proof.Machine.execAtsResponse x1 s
  | .pasidRetireEnd x1 => Sys2Proof.Machine.execPasidRetireEnd x1 s
  | .loadRequest x1 x2 x3 => Sys2Proof.Machine.execLoadRequest x1 x2 x3 s
  | .loadComplete x1 => Sys2Proof.Machine.execLoadComplete x1 s
  | .attestNonceWrite x1 x2 => Sys2Proof.Machine.execAttestNonceWrite x1 x2 s
  | .attestReportDone => Sys2Proof.Machine.execAttestReportDone s
  | .controlSpaceWrite x1 x2 x3 => Sys2Proof.Machine.execControlSpaceWrite x1 x2 x3 s
  | .hostWindowRead x1 x2 x3 => Sys2Proof.Machine.execHostWindowRead x1 x2 x3 s
  | .hostWindowWrite x1 x2 x3 => Sys2Proof.Machine.execHostWindowWrite x1 x2 x3 s
  | .hostWindowAtomic x1 x2 => Sys2Proof.Machine.execHostWindowAtomic x1 x2 s
  | .peerReadRequest x1 x2 x3 => Sys2Proof.Machine.execPeerReadRequest x1 x2 x3 s
  | .peerWriteRequest x1 x2 x3 => Sys2Proof.Machine.execPeerWriteRequest x1 x2 x3 s
  | .peerAtomicRequest x1 x2 x3 x4 x5 x6 => Sys2Proof.Machine.execPeerAtomicRequest x1 x2 x3 x4 x5 x6 s
  | .peerTimeout x1 x2 => Sys2Proof.Machine.execPeerTimeout x1 x2 s
  | .add x1 x2 x3 => Sys2Proof.Machine.execAdd x1 x2 x3 s
  | .sub x1 x2 x3 => Sys2Proof.Machine.execSub x1 x2 x3 s
  | .andX x1 x2 x3 => Sys2Proof.Machine.execAndX x1 x2 x3 s
  | .orX x1 x2 x3 => Sys2Proof.Machine.execOrX x1 x2 x3 s
  | .xorX x1 x2 x3 => Sys2Proof.Machine.execXorX x1 x2 x3 s
  | .andn x1 x2 x3 => Sys2Proof.Machine.execAndn x1 x2 x3 s
  | .orn x1 x2 x3 => Sys2Proof.Machine.execOrn x1 x2 x3 s
  | .brev x1 x2 => Sys2Proof.Machine.execBrev x1 x2 s
  | .sll x1 x2 x3 => Sys2Proof.Machine.execSll x1 x2 x3 s
  | .srl x1 x2 x3 => Sys2Proof.Machine.execSrl x1 x2 x3 s
  | .sra x1 x2 x3 => Sys2Proof.Machine.execSra x1 x2 x3 s
  | .rol x1 x2 x3 => Sys2Proof.Machine.execRol x1 x2 x3 s
  | .ror x1 x2 x3 => Sys2Proof.Machine.execRor x1 x2 x3 s
  | .slt x1 x2 x3 => Sys2Proof.Machine.execSlt x1 x2 x3 s
  | .sltu x1 x2 x3 => Sys2Proof.Machine.execSltu x1 x2 x3 s
  | .minX x1 x2 x3 => Sys2Proof.Machine.execMinX x1 x2 x3 s
  | .maxX x1 x2 x3 => Sys2Proof.Machine.execMaxX x1 x2 x3 s
  | .minu x1 x2 x3 => Sys2Proof.Machine.execMinu x1 x2 x3 s
  | .maxu x1 x2 x3 => Sys2Proof.Machine.execMaxu x1 x2 x3 s
  | .mul x1 x2 x3 => Sys2Proof.Machine.execMul x1 x2 x3 s
  | .mulh x1 x2 x3 => Sys2Proof.Machine.execMulh x1 x2 x3 s
  | .mulhu x1 x2 x3 => Sys2Proof.Machine.execMulhu x1 x2 x3 s
  | .div x1 x2 x3 => Sys2Proof.Machine.execDiv x1 x2 x3 s
  | .divu x1 x2 x3 => Sys2Proof.Machine.execDivu x1 x2 x3 s
  | .rem x1 x2 x3 => Sys2Proof.Machine.execRem x1 x2 x3 s
  | .remu x1 x2 x3 => Sys2Proof.Machine.execRemu x1 x2 x3 s
  | .clz x1 x2 => Sys2Proof.Machine.execClz x1 x2 s
  | .ctz x1 x2 => Sys2Proof.Machine.execCtz x1 x2 s
  | .popc x1 x2 => Sys2Proof.Machine.execPopc x1 x2 s
  | .bswap x1 x2 => Sys2Proof.Machine.execBswap x1 x2 s
  | .sext x1 x2 x3 => Sys2Proof.Machine.execSext x1 x2 x3 s
  | .zext x1 x2 x3 => Sys2Proof.Machine.execZext x1 x2 x3 s
  | .addi x1 x2 x3 => Sys2Proof.Machine.execAddi x1 x2 x3 s
  | .addiLit x1 x2 x3 => Sys2Proof.Machine.execAddiLit x1 x2 x3 s
  | .andi x1 x2 x3 => Sys2Proof.Machine.execAndi x1 x2 x3 s
  | .andiLit x1 x2 x3 => Sys2Proof.Machine.execAndiLit x1 x2 x3 s
  | .ori x1 x2 x3 => Sys2Proof.Machine.execOri x1 x2 x3 s
  | .oriLit x1 x2 x3 => Sys2Proof.Machine.execOriLit x1 x2 x3 s
  | .xori x1 x2 x3 => Sys2Proof.Machine.execXori x1 x2 x3 s
  | .xoriLit x1 x2 x3 => Sys2Proof.Machine.execXoriLit x1 x2 x3 s
  | .slti x1 x2 x3 => Sys2Proof.Machine.execSlti x1 x2 x3 s
  | .sltiLit x1 x2 x3 => Sys2Proof.Machine.execSltiLit x1 x2 x3 s
  | .sltiu x1 x2 x3 => Sys2Proof.Machine.execSltiu x1 x2 x3 s
  | .sltiuLit x1 x2 x3 => Sys2Proof.Machine.execSltiuLit x1 x2 x3 s
  | .slli x1 x2 x3 => Sys2Proof.Machine.execSlli x1 x2 x3 s
  | .srli x1 x2 x3 => Sys2Proof.Machine.execSrli x1 x2 x3 s
  | .srai x1 x2 x3 => Sys2Proof.Machine.execSrai x1 x2 x3 s
  | .rori x1 x2 x3 => Sys2Proof.Machine.execRori x1 x2 x3 s
  | .lui x1 x2 => Sys2Proof.Machine.execLui x1 x2 s
  | .pcadd x1 x2 => Sys2Proof.Machine.execPcadd x1 x2 s
  | .pcaddLit x1 x2 => Sys2Proof.Machine.execPcaddLit x1 x2 s
  | .li x1 x2 => Sys2Proof.Machine.execLi x1 x2 s
  | .lea x1 x2 x3 x4 x5 => Sys2Proof.Machine.execLea x1 x2 x3 x4 x5 s
  | .leaLit x1 x2 x3 x4 x5 => Sys2Proof.Machine.execLeaLit x1 x2 x3 x4 x5 s
  | .bfx x1 x2 x3 x4 => Sys2Proof.Machine.execBfx x1 x2 x3 x4 s
  | .bfxu x1 x2 x3 x4 => Sys2Proof.Machine.execBfxu x1 x2 x3 x4 s
  | .bfi x1 x2 x3 x4 => Sys2Proof.Machine.execBfi x1 x2 x3 x4 s
  | .csel x1 x2 x3 x4 => Sys2Proof.Machine.execCsel x1 x2 x3 x4 s
  | .mad x1 x2 x3 x4 => Sys2Proof.Machine.execMad x1 x2 x3 x4 s
  | .wfield x1 x2 x3 => Sys2Proof.Machine.execWfield x1 x2 x3 s
  | .fadd x1 x2 x3 => Sys2Proof.Machine.execFadd x1 x2 x3 s
  | .faddExt x1 x2 x3 x4 => Sys2Proof.Machine.execFaddExt x1 x2 x3 x4 s
  | .fsub x1 x2 x3 => Sys2Proof.Machine.execFsub x1 x2 x3 s
  | .fsubExt x1 x2 x3 x4 => Sys2Proof.Machine.execFsubExt x1 x2 x3 x4 s
  | .fmul x1 x2 x3 => Sys2Proof.Machine.execFmul x1 x2 x3 s
  | .fmulExt x1 x2 x3 x4 => Sys2Proof.Machine.execFmulExt x1 x2 x3 x4 s
  | .fdiv x1 x2 x3 => Sys2Proof.Machine.execFdiv x1 x2 x3 s
  | .fdivExt x1 x2 x3 x4 => Sys2Proof.Machine.execFdivExt x1 x2 x3 x4 s
  | .fsqrt x1 x2 => Sys2Proof.Machine.execFsqrt x1 x2 s
  | .fsqrtExt x1 x2 x3 => Sys2Proof.Machine.execFsqrtExt x1 x2 x3 s
  | .fmin x1 x2 x3 => Sys2Proof.Machine.execFmin x1 x2 x3 s
  | .fmax x1 x2 x3 => Sys2Proof.Machine.execFmax x1 x2 x3 s
  | .fmadd x1 x2 x3 x4 x5 => Sys2Proof.Machine.execFmadd x1 x2 x3 x4 x5 s
  | .feq x1 x2 x3 => Sys2Proof.Machine.execFeq x1 x2 x3 s
  | .flt x1 x2 x3 => Sys2Proof.Machine.execFlt x1 x2 x3 s
  | .fle x1 x2 x3 => Sys2Proof.Machine.execFle x1 x2 x3 s
  | .fclass x1 x2 => Sys2Proof.Machine.execFclass x1 x2 s
  | .fcvti x1 x2 x3 => Sys2Proof.Machine.execFcvti x1 x2 x3 s
  | .fcvtf x1 x2 x3 => Sys2Proof.Machine.execFcvtf x1 x2 x3 s
  | .ld x1 x2 x3 x4 => Sys2Proof.Machine.execLd x1 x2 x3 x4 s
  | .ldLit x1 x2 x3 x4 => Sys2Proof.Machine.execLdLit x1 x2 x3 x4 s
  | .ldP x1 x2 x3 x4 => Sys2Proof.Machine.execLdP x1 x2 x3 x4 s
  | .st x1 x2 x3 x4 => Sys2Proof.Machine.execSt x1 x2 x3 x4 s
  | .stLit x1 x2 x3 x4 => Sys2Proof.Machine.execStLit x1 x2 x3 x4 s
  | .stP x1 x2 x3 x4 => Sys2Proof.Machine.execStP x1 x2 x3 x4 s
  | .ldx x1 x2 x3 x4 x5 x6 => Sys2Proof.Machine.execLdx x1 x2 x3 x4 x5 x6 s
  | .ldxLit x1 x2 x3 x4 x5 x6 => Sys2Proof.Machine.execLdxLit x1 x2 x3 x4 x5 x6 s
  | .stx x1 x2 x3 x4 x5 x6 => Sys2Proof.Machine.execStx x1 x2 x3 x4 x5 x6 s
  | .stxLit x1 x2 x3 x4 x5 x6 => Sys2Proof.Machine.execStxLit x1 x2 x3 x4 x5 x6 s
  | .amoAdd x1 x2 x3 x4 x5 => Sys2Proof.Machine.execAmoAdd x1 x2 x3 x4 x5 s
  | .amoAnd x1 x2 x3 x4 x5 => Sys2Proof.Machine.execAmoAnd x1 x2 x3 x4 x5 s
  | .amoOr x1 x2 x3 x4 x5 => Sys2Proof.Machine.execAmoOr x1 x2 x3 x4 x5 s
  | .amoXor x1 x2 x3 x4 x5 => Sys2Proof.Machine.execAmoXor x1 x2 x3 x4 x5 s
  | .amoMin x1 x2 x3 x4 x5 => Sys2Proof.Machine.execAmoMin x1 x2 x3 x4 x5 s
  | .amoMax x1 x2 x3 x4 x5 => Sys2Proof.Machine.execAmoMax x1 x2 x3 x4 x5 s
  | .amoMinu x1 x2 x3 x4 x5 => Sys2Proof.Machine.execAmoMinu x1 x2 x3 x4 x5 s
  | .amoMaxu x1 x2 x3 x4 x5 => Sys2Proof.Machine.execAmoMaxu x1 x2 x3 x4 x5 s
  | .amoSwap x1 x2 x3 x4 x5 => Sys2Proof.Machine.execAmoSwap x1 x2 x3 x4 x5 s
  | .amoFadd x1 x2 x3 x4 => Sys2Proof.Machine.execAmoFadd x1 x2 x3 x4 s
  | .amoCas x1 x2 x3 x4 x5 x6 => Sys2Proof.Machine.execAmoCas x1 x2 x3 x4 x5 x6 s
  | .fenceImem => Sys2Proof.Machine.execFenceImem s
  | .fenceExt => Sys2Proof.Machine.execFenceExt s
  | .discard x1 x2 => Sys2Proof.Machine.execDiscard x1 x2 s
  | .dpref x1 x2 => Sys2Proof.Machine.execDpref x1 x2 s
  | .ipref x1 => Sys2Proof.Machine.execIpref x1 s
  | .beq x1 x2 x3 => Sys2Proof.Machine.execBeq x1 x2 x3 s
  | .beqExt x1 x2 x3 => Sys2Proof.Machine.execBeqExt x1 x2 x3 s
  | .beqLit x1 x2 x3 => Sys2Proof.Machine.execBeqLit x1 x2 x3 s
  | .bne x1 x2 x3 => Sys2Proof.Machine.execBne x1 x2 x3 s
  | .bneExt x1 x2 x3 => Sys2Proof.Machine.execBneExt x1 x2 x3 s
  | .bneLit x1 x2 x3 => Sys2Proof.Machine.execBneLit x1 x2 x3 s
  | .blt x1 x2 x3 => Sys2Proof.Machine.execBlt x1 x2 x3 s
  | .bltExt x1 x2 x3 => Sys2Proof.Machine.execBltExt x1 x2 x3 s
  | .bltLit x1 x2 x3 => Sys2Proof.Machine.execBltLit x1 x2 x3 s
  | .bge x1 x2 x3 => Sys2Proof.Machine.execBge x1 x2 x3 s
  | .bgeExt x1 x2 x3 => Sys2Proof.Machine.execBgeExt x1 x2 x3 s
  | .bgeLit x1 x2 x3 => Sys2Proof.Machine.execBgeLit x1 x2 x3 s
  | .bltu x1 x2 x3 => Sys2Proof.Machine.execBltu x1 x2 x3 s
  | .bltuExt x1 x2 x3 => Sys2Proof.Machine.execBltuExt x1 x2 x3 s
  | .bltuLit x1 x2 x3 => Sys2Proof.Machine.execBltuLit x1 x2 x3 s
  | .bgeu x1 x2 x3 => Sys2Proof.Machine.execBgeu x1 x2 x3 s
  | .bgeuExt x1 x2 x3 => Sys2Proof.Machine.execBgeuExt x1 x2 x3 s
  | .bgeuLit x1 x2 x3 => Sys2Proof.Machine.execBgeuLit x1 x2 x3 s
  | .b x1 => Sys2Proof.Machine.execB x1 s
  | .bLit x1 => Sys2Proof.Machine.execBLit x1 s
  | .bl x1 => Sys2Proof.Machine.execBl x1 s
  | .blLit x1 => Sys2Proof.Machine.execBlLit x1 s
  | .br x1 => Sys2Proof.Machine.execBr x1 s
  | .blr x1 x2 => Sys2Proof.Machine.execBlr x1 x2 s
  | .ret => Sys2Proof.Machine.execRet s
  | .loop x1 x2 x3 => Sys2Proof.Machine.execLoop x1 x2 x3 s
  | .start x1 x2 x3 => Sys2Proof.Machine.execStart x1 x2 x3 s
  | .join x1 x2 => Sys2Proof.Machine.execJoin x1 x2 s
  | .endc x1 => Sys2Proof.Machine.execEndc x1 s
  | .yield => Sys2Proof.Machine.execYield s
  | .trap x1 x2 => Sys2Proof.Machine.execTrap x1 x2 s
  | .brk => Sys2Proof.Machine.execBrk s
  | .tret => Sys2Proof.Machine.execTret s
  | .rdsr x1 x2 => Sys2Proof.Machine.execRdsr x1 x2 s
  | .wrsr x1 x2 => Sys2Proof.Machine.execWrsr x1 x2 s
  | .rdtime x1 => Sys2Proof.Machine.execRdtime x1 s
  | .vld x1 x2 x3 x4 x5 => Sys2Proof.Machine.execVld x1 x2 x3 x4 x5 s
  | .vldLit x1 x2 x3 x4 x5 => Sys2Proof.Machine.execVldLit x1 x2 x3 x4 x5 s
  | .vldP x1 x2 x3 x4 x5 => Sys2Proof.Machine.execVldP x1 x2 x3 x4 x5 s
  | .vldPLit x1 x2 x3 x4 x5 => Sys2Proof.Machine.execVldPLit x1 x2 x3 x4 x5 s
  | .vlds x1 x2 x3 x4 x5 x6 => Sys2Proof.Machine.execVlds x1 x2 x3 x4 x5 x6 s
  | .vldsLit x1 x2 x3 x4 x5 x6 => Sys2Proof.Machine.execVldsLit x1 x2 x3 x4 x5 x6 s
  | .vldx x1 x2 x3 x4 x5 x6 x7 => Sys2Proof.Machine.execVldx x1 x2 x3 x4 x5 x6 x7 s
  | .vldxLit x1 x2 x3 x4 x5 x6 x7 => Sys2Proof.Machine.execVldxLit x1 x2 x3 x4 x5 x6 x7 s
  | .vldb x1 x2 x3 x4 x5 => Sys2Proof.Machine.execVldb x1 x2 x3 x4 x5 s
  | .vldbLit x1 x2 x3 x4 x5 => Sys2Proof.Machine.execVldbLit x1 x2 x3 x4 x5 s
  | .vst x1 x2 x3 x4 x5 => Sys2Proof.Machine.execVst x1 x2 x3 x4 x5 s
  | .vstLit x1 x2 x3 x4 x5 => Sys2Proof.Machine.execVstLit x1 x2 x3 x4 x5 s
  | .vstP x1 x2 x3 x4 x5 => Sys2Proof.Machine.execVstP x1 x2 x3 x4 x5 s
  | .vstPLit x1 x2 x3 x4 x5 => Sys2Proof.Machine.execVstPLit x1 x2 x3 x4 x5 s
  | .vsts x1 x2 x3 x4 x5 x6 => Sys2Proof.Machine.execVsts x1 x2 x3 x4 x5 x6 s
  | .vstsLit x1 x2 x3 x4 x5 x6 => Sys2Proof.Machine.execVstsLit x1 x2 x3 x4 x5 x6 s
  | .vstx x1 x2 x3 x4 x5 x6 x7 => Sys2Proof.Machine.execVstx x1 x2 x3 x4 x5 x6 x7 s
  | .vstxLit x1 x2 x3 x4 x5 x6 x7 => Sys2Proof.Machine.execVstxLit x1 x2 x3 x4 x5 x6 x7 s
  | .vadd x1 x2 x3 x4 x5 => Sys2Proof.Machine.execVadd x1 x2 x3 x4 x5 s
  | .vaddExt x1 x2 x3 x4 x5 x6 => Sys2Proof.Machine.execVaddExt x1 x2 x3 x4 x5 x6 s
  | .vsub x1 x2 x3 x4 x5 => Sys2Proof.Machine.execVsub x1 x2 x3 x4 x5 s
  | .vsubExt x1 x2 x3 x4 x5 x6 => Sys2Proof.Machine.execVsubExt x1 x2 x3 x4 x5 x6 s
  | .vmul x1 x2 x3 x4 x5 => Sys2Proof.Machine.execVmul x1 x2 x3 x4 x5 s
  | .vmulExt x1 x2 x3 x4 x5 x6 => Sys2Proof.Machine.execVmulExt x1 x2 x3 x4 x5 x6 s
  | .vmin x1 x2 x3 x4 x5 => Sys2Proof.Machine.execVmin x1 x2 x3 x4 x5 s
  | .vminExt x1 x2 x3 x4 x5 => Sys2Proof.Machine.execVminExt x1 x2 x3 x4 x5 s
  | .vmax x1 x2 x3 x4 x5 => Sys2Proof.Machine.execVmax x1 x2 x3 x4 x5 s
  | .vmaxExt x1 x2 x3 x4 x5 => Sys2Proof.Machine.execVmaxExt x1 x2 x3 x4 x5 s
  | .vand x1 x2 x3 x4 x5 => Sys2Proof.Machine.execVand x1 x2 x3 x4 x5 s
  | .vandExt x1 x2 x3 x4 x5 => Sys2Proof.Machine.execVandExt x1 x2 x3 x4 x5 s
  | .vor x1 x2 x3 x4 x5 => Sys2Proof.Machine.execVor x1 x2 x3 x4 x5 s
  | .vorExt x1 x2 x3 x4 x5 => Sys2Proof.Machine.execVorExt x1 x2 x3 x4 x5 s
  | .vxor x1 x2 x3 x4 x5 => Sys2Proof.Machine.execVxor x1 x2 x3 x4 x5 s
  | .vxorExt x1 x2 x3 x4 x5 => Sys2Proof.Machine.execVxorExt x1 x2 x3 x4 x5 s
  | .vandn x1 x2 x3 x4 x5 => Sys2Proof.Machine.execVandn x1 x2 x3 x4 x5 s
  | .vandnExt x1 x2 x3 x4 x5 => Sys2Proof.Machine.execVandnExt x1 x2 x3 x4 x5 s
  | .vshl x1 x2 x3 x4 x5 => Sys2Proof.Machine.execVshl x1 x2 x3 x4 x5 s
  | .vshlExt x1 x2 x3 x4 x5 => Sys2Proof.Machine.execVshlExt x1 x2 x3 x4 x5 s
  | .vshr x1 x2 x3 x4 x5 => Sys2Proof.Machine.execVshr x1 x2 x3 x4 x5 s
  | .vshrExt x1 x2 x3 x4 x5 => Sys2Proof.Machine.execVshrExt x1 x2 x3 x4 x5 s
  | .vsra x1 x2 x3 x4 x5 => Sys2Proof.Machine.execVsra x1 x2 x3 x4 x5 s
  | .vsraExt x1 x2 x3 x4 x5 => Sys2Proof.Machine.execVsraExt x1 x2 x3 x4 x5 s
  | .vabs x1 x2 x3 x4 => Sys2Proof.Machine.execVabs x1 x2 x3 x4 s
  | .vabsExt x1 x2 x3 x4 => Sys2Proof.Machine.execVabsExt x1 x2 x3 x4 s
  | .vneg x1 x2 x3 x4 => Sys2Proof.Machine.execVneg x1 x2 x3 x4 s
  | .vnegExt x1 x2 x3 x4 => Sys2Proof.Machine.execVnegExt x1 x2 x3 x4 s
  | .vmov x1 x2 x3 x4 => Sys2Proof.Machine.execVmov x1 x2 x3 x4 s
  | .vmovExt x1 x2 x3 x4 => Sys2Proof.Machine.execVmovExt x1 x2 x3 x4 s
  | .vsel x1 x2 x3 x4 x5 => Sys2Proof.Machine.execVsel x1 x2 x3 x4 x5 s
  | .vselExt x1 x2 x3 x4 x5 => Sys2Proof.Machine.execVselExt x1 x2 x3 x4 x5 s
  | .vminu x1 x2 x3 x4 x5 => Sys2Proof.Machine.execVminu x1 x2 x3 x4 x5 s
  | .vminuExt x1 x2 x3 x4 x5 => Sys2Proof.Machine.execVminuExt x1 x2 x3 x4 x5 s
  | .vmaxu x1 x2 x3 x4 x5 => Sys2Proof.Machine.execVmaxu x1 x2 x3 x4 x5 s
  | .vmaxuExt x1 x2 x3 x4 x5 => Sys2Proof.Machine.execVmaxuExt x1 x2 x3 x4 x5 s
  | .vmulh x1 x2 x3 x4 x5 => Sys2Proof.Machine.execVmulh x1 x2 x3 x4 x5 s
  | .vmulhExt x1 x2 x3 x4 x5 => Sys2Proof.Machine.execVmulhExt x1 x2 x3 x4 x5 s
  | .vmulhu x1 x2 x3 x4 x5 => Sys2Proof.Machine.execVmulhu x1 x2 x3 x4 x5 s
  | .vmulhuExt x1 x2 x3 x4 x5 => Sys2Proof.Machine.execVmulhuExt x1 x2 x3 x4 x5 s
  | .vavg x1 x2 x3 x4 x5 => Sys2Proof.Machine.execVavg x1 x2 x3 x4 x5 s
  | .vavgExt x1 x2 x3 x4 x5 => Sys2Proof.Machine.execVavgExt x1 x2 x3 x4 x5 s
  | .vadds x1 x2 x3 x4 x5 => Sys2Proof.Machine.execVadds x1 x2 x3 x4 x5 s
  | .vaddsExt x1 x2 x3 x4 x5 => Sys2Proof.Machine.execVaddsExt x1 x2 x3 x4 x5 s
  | .vsubs x1 x2 x3 x4 x5 => Sys2Proof.Machine.execVsubs x1 x2 x3 x4 x5 s
  | .vsubsExt x1 x2 x3 x4 x5 => Sys2Proof.Machine.execVsubsExt x1 x2 x3 x4 x5 s
  | .vaddsu x1 x2 x3 x4 x5 => Sys2Proof.Machine.execVaddsu x1 x2 x3 x4 x5 s
  | .vaddsuExt x1 x2 x3 x4 x5 => Sys2Proof.Machine.execVaddsuExt x1 x2 x3 x4 x5 s
  | .vsubsu x1 x2 x3 x4 x5 => Sys2Proof.Machine.execVsubsu x1 x2 x3 x4 x5 s
  | .vsubsuExt x1 x2 x3 x4 x5 => Sys2Proof.Machine.execVsubsuExt x1 x2 x3 x4 x5 s
  | .vcmpEq x1 x2 x3 x4 x5 => Sys2Proof.Machine.execVcmpEq x1 x2 x3 x4 x5 s
  | .vcmpEqExt x1 x2 x3 x4 x5 => Sys2Proof.Machine.execVcmpEqExt x1 x2 x3 x4 x5 s
  | .vcmpNe x1 x2 x3 x4 x5 => Sys2Proof.Machine.execVcmpNe x1 x2 x3 x4 x5 s
  | .vcmpNeExt x1 x2 x3 x4 x5 => Sys2Proof.Machine.execVcmpNeExt x1 x2 x3 x4 x5 s
  | .vcmpLt x1 x2 x3 x4 x5 => Sys2Proof.Machine.execVcmpLt x1 x2 x3 x4 x5 s
  | .vcmpLtExt x1 x2 x3 x4 x5 => Sys2Proof.Machine.execVcmpLtExt x1 x2 x3 x4 x5 s
  | .vcmpLe x1 x2 x3 x4 x5 => Sys2Proof.Machine.execVcmpLe x1 x2 x3 x4 x5 s
  | .vcmpLeExt x1 x2 x3 x4 x5 => Sys2Proof.Machine.execVcmpLeExt x1 x2 x3 x4 x5 s
  | .vcmpLtu x1 x2 x3 x4 x5 => Sys2Proof.Machine.execVcmpLtu x1 x2 x3 x4 x5 s
  | .vcmpLtuExt x1 x2 x3 x4 x5 => Sys2Proof.Machine.execVcmpLtuExt x1 x2 x3 x4 x5 s
  | .vcmpLeu x1 x2 x3 x4 x5 => Sys2Proof.Machine.execVcmpLeu x1 x2 x3 x4 x5 s
  | .vcmpLeuExt x1 x2 x3 x4 x5 => Sys2Proof.Machine.execVcmpLeuExt x1 x2 x3 x4 x5 s
  | .vclass x1 x2 x3 x4 => Sys2Proof.Machine.execVclass x1 x2 x3 x4 s
  | .vclassExt x1 x2 x3 x4 => Sys2Proof.Machine.execVclassExt x1 x2 x3 x4 s
  | .vfma x1 x2 x3 x4 x5 => Sys2Proof.Machine.execVfma x1 x2 x3 x4 x5 s
  | .vfmaExt x1 x2 x3 x4 x5 x6 => Sys2Proof.Machine.execVfmaExt x1 x2 x3 x4 x5 x6 s
  | .vfms x1 x2 x3 x4 x5 => Sys2Proof.Machine.execVfms x1 x2 x3 x4 x5 s
  | .vfmsExt x1 x2 x3 x4 x5 x6 => Sys2Proof.Machine.execVfmsExt x1 x2 x3 x4 x5 x6 s
  | .vfnma x1 x2 x3 x4 x5 => Sys2Proof.Machine.execVfnma x1 x2 x3 x4 x5 s
  | .vfnmaExt x1 x2 x3 x4 x5 x6 => Sys2Proof.Machine.execVfnmaExt x1 x2 x3 x4 x5 x6 s
  | .vfnms x1 x2 x3 x4 x5 => Sys2Proof.Machine.execVfnms x1 x2 x3 x4 x5 s
  | .vfnmsExt x1 x2 x3 x4 x5 x6 => Sys2Proof.Machine.execVfnmsExt x1 x2 x3 x4 x5 x6 s
  | .vdot4 x1 x2 x3 x4 x5 => Sys2Proof.Machine.execVdot4 x1 x2 x3 x4 x5 s
  | .vdot4Ext x1 x2 x3 x4 x5 => Sys2Proof.Machine.execVdot4Ext x1 x2 x3 x4 x5 s
  | .vdot2 x1 x2 x3 x4 x5 => Sys2Proof.Machine.execVdot2 x1 x2 x3 x4 x5 s
  | .vdot2Ext x1 x2 x3 x4 x5 x6 => Sys2Proof.Machine.execVdot2Ext x1 x2 x3 x4 x5 x6 s
  | .vexp2 x1 x2 x3 x4 => Sys2Proof.Machine.execVexp2 x1 x2 x3 x4 s
  | .vexp2Ext x1 x2 x3 x4 => Sys2Proof.Machine.execVexp2Ext x1 x2 x3 x4 s
  | .vlog2 x1 x2 x3 x4 => Sys2Proof.Machine.execVlog2 x1 x2 x3 x4 s
  | .vlog2Ext x1 x2 x3 x4 => Sys2Proof.Machine.execVlog2Ext x1 x2 x3 x4 s
  | .vrcp x1 x2 x3 x4 => Sys2Proof.Machine.execVrcp x1 x2 x3 x4 s
  | .vrcpExt x1 x2 x3 x4 => Sys2Proof.Machine.execVrcpExt x1 x2 x3 x4 s
  | .vrsqrt x1 x2 x3 x4 => Sys2Proof.Machine.execVrsqrt x1 x2 x3 x4 s
  | .vrsqrtExt x1 x2 x3 x4 => Sys2Proof.Machine.execVrsqrtExt x1 x2 x3 x4 s
  | .vsqrt x1 x2 x3 x4 => Sys2Proof.Machine.execVsqrt x1 x2 x3 x4 s
  | .vsqrtExt x1 x2 x3 x4 => Sys2Proof.Machine.execVsqrtExt x1 x2 x3 x4 s
  | .vtanh x1 x2 x3 x4 => Sys2Proof.Machine.execVtanh x1 x2 x3 x4 s
  | .vtanhExt x1 x2 x3 x4 => Sys2Proof.Machine.execVtanhExt x1 x2 x3 x4 s
  | .vsigm x1 x2 x3 x4 => Sys2Proof.Machine.execVsigm x1 x2 x3 x4 s
  | .vsigmExt x1 x2 x3 x4 => Sys2Proof.Machine.execVsigmExt x1 x2 x3 x4 s
  | .vdiv x1 x2 x3 x4 x5 => Sys2Proof.Machine.execVdiv x1 x2 x3 x4 x5 s
  | .vdivExt x1 x2 x3 x4 x5 => Sys2Proof.Machine.execVdivExt x1 x2 x3 x4 x5 s
  | .vcvt x1 x2 x3 x4 x5 x6 x7 => Sys2Proof.Machine.execVcvt x1 x2 x3 x4 x5 x6 x7 s
  | .vpackgx x1 x2 x3 x4 => Sys2Proof.Machine.execVpackgx x1 x2 x3 x4 s
  | .vunpackgx x1 x2 x3 x4 x5 => Sys2Proof.Machine.execVunpackgx x1 x2 x3 x4 x5 s
  | .vperm x1 x2 x3 x4 x5 => Sys2Proof.Machine.execVperm x1 x2 x3 x4 x5 s
  | .vpermExt x1 x2 x3 x4 x5 => Sys2Proof.Machine.execVpermExt x1 x2 x3 x4 x5 s
  | .vslideup x1 x2 x3 x4 x5 => Sys2Proof.Machine.execVslideup x1 x2 x3 x4 x5 s
  | .vslideupExt x1 x2 x3 x4 x5 => Sys2Proof.Machine.execVslideupExt x1 x2 x3 x4 x5 s
  | .vslidedn x1 x2 x3 x4 x5 => Sys2Proof.Machine.execVslidedn x1 x2 x3 x4 x5 s
  | .vslidednExt x1 x2 x3 x4 x5 => Sys2Proof.Machine.execVslidednExt x1 x2 x3 x4 x5 s
  | .vbcast x1 x2 x3 x4 => Sys2Proof.Machine.execVbcast x1 x2 x3 x4 s
  | .vbcastExt x1 x2 x3 x4 => Sys2Proof.Machine.execVbcastExt x1 x2 x3 x4 s
  | .vext x1 x2 x3 x4 => Sys2Proof.Machine.execVext x1 x2 x3 x4 s
  | .vextExt x1 x2 x3 x4 => Sys2Proof.Machine.execVextExt x1 x2 x3 x4 s
  | .vins x1 x2 x3 x4 x5 => Sys2Proof.Machine.execVins x1 x2 x3 x4 x5 s
  | .vinsExt x1 x2 x3 x4 x5 => Sys2Proof.Machine.execVinsExt x1 x2 x3 x4 x5 s
  | .vzip x1 x2 x3 x4 x5 => Sys2Proof.Machine.execVzip x1 x2 x3 x4 x5 s
  | .vzipExt x1 x2 x3 x4 x5 => Sys2Proof.Machine.execVzipExt x1 x2 x3 x4 x5 s
  | .vunzip x1 x2 x3 x4 => Sys2Proof.Machine.execVunzip x1 x2 x3 x4 s
  | .vunzipExt x1 x2 x3 x4 => Sys2Proof.Machine.execVunzipExt x1 x2 x3 x4 s
  | .vrev x1 x2 x3 x4 => Sys2Proof.Machine.execVrev x1 x2 x3 x4 s
  | .vrevExt x1 x2 x3 x4 => Sys2Proof.Machine.execVrevExt x1 x2 x3 x4 s
  | .vscanAdd x1 x2 x3 x4 => Sys2Proof.Machine.execVscanAdd x1 x2 x3 x4 s
  | .vscanAddExt x1 x2 x3 x4 x5 => Sys2Proof.Machine.execVscanAddExt x1 x2 x3 x4 x5 s
  | .vscanMax x1 x2 x3 x4 => Sys2Proof.Machine.execVscanMax x1 x2 x3 x4 s
  | .vscanMaxExt x1 x2 x3 x4 x5 => Sys2Proof.Machine.execVscanMaxExt x1 x2 x3 x4 x5 s
  | .vkeep2 x1 x2 x3 x4 => Sys2Proof.Machine.execVkeep2 x1 x2 x3 x4 s
  | .vkeep2Ext x1 x2 x3 x4 => Sys2Proof.Machine.execVkeep2Ext x1 x2 x3 x4 s
  | .vredAdd x1 x2 x3 x4 => Sys2Proof.Machine.execVredAdd x1 x2 x3 x4 s
  | .vredAddExt x1 x2 x3 x4 x5 => Sys2Proof.Machine.execVredAddExt x1 x2 x3 x4 x5 s
  | .vredMax x1 x2 x3 x4 => Sys2Proof.Machine.execVredMax x1 x2 x3 x4 s
  | .vredMaxExt x1 x2 x3 x4 => Sys2Proof.Machine.execVredMaxExt x1 x2 x3 x4 s
  | .vredMin x1 x2 x3 x4 => Sys2Proof.Machine.execVredMin x1 x2 x3 x4 s
  | .vredMinExt x1 x2 x3 x4 => Sys2Proof.Machine.execVredMinExt x1 x2 x3 x4 s
  | .mand x1 x2 x3 => Sys2Proof.Machine.execMand x1 x2 x3 s
  | .mor x1 x2 x3 => Sys2Proof.Machine.execMor x1 x2 x3 s
  | .mxor x1 x2 x3 => Sys2Proof.Machine.execMxor x1 x2 x3 s
  | .mandn x1 x2 x3 => Sys2Proof.Machine.execMandn x1 x2 x3 s
  | .mnot x1 x2 => Sys2Proof.Machine.execMnot x1 x2 s
  | .mpopc x1 x2 => Sys2Proof.Machine.execMpopc x1 x2 s
  | .mfirst x1 x2 => Sys2Proof.Machine.execMfirst x1 x2 s
  | .mfromx x1 x2 x3 => Sys2Proof.Machine.execMfromx x1 x2 x3 s
  | .mtox x1 x2 x3 => Sys2Proof.Machine.execMtox x1 x2 x3 s
  | .mlanes x1 x2 => Sys2Proof.Machine.execMlanes x1 x2 s
  | .sadd x1 x2 x3 x4 => Sys2Proof.Machine.execSadd x1 x2 x3 x4 s
  | .ssub x1 x2 x3 x4 => Sys2Proof.Machine.execSsub x1 x2 x3 x4 s
  | .smul x1 x2 x3 x4 => Sys2Proof.Machine.execSmul x1 x2 x3 x4 s
  | .sfma x1 x2 x3 x4 => Sys2Proof.Machine.execSfma x1 x2 x3 x4 s
  | .smin x1 x2 x3 => Sys2Proof.Machine.execSmin x1 x2 x3 s
  | .smax x1 x2 x3 => Sys2Proof.Machine.execSmax x1 x2 x3 s
  | .scvt x1 x2 x3 => Sys2Proof.Machine.execScvt x1 x2 x3 s
  | .scopy x1 x2 => Sys2Proof.Machine.execScopy x1 x2 s
  | .sexp2 x1 x2 => Sys2Proof.Machine.execSexp2 x1 x2 s
  | .srsum x1 x2 x3 => Sys2Proof.Machine.execSrsum x1 x2 x3 s
  | .srmax x1 x2 => Sys2Proof.Machine.execSrmax x1 x2 s
  | .sbcast x1 x2 => Sys2Proof.Machine.execSbcast x1 x2 s
  | .shpCheck x1 x2 x3 x4 => Sys2Proof.Machine.execShpCheck x1 x2 x3 x4 s
  | .postMx x1 x2 => Sys2Proof.Machine.execPostMx x1 x2 s
  | .postCp x1 x2 => Sys2Proof.Machine.execPostCp x1 x2 s
  | .fwait x1 x2 => Sys2Proof.Machine.execFwait x1 x2 s
  | .ftest x1 x2 => Sys2Proof.Machine.execFtest x1 x2 s
  | .fcancel x1 => Sys2Proof.Machine.execFcancel x1 s
  | .fwaitany x1 x2 => Sys2Proof.Machine.execFwaitany x1 x2 s
  | .fmovx x1 x2 => Sys2Proof.Machine.execFmovx x1 x2 s
  | .xmovf x1 x2 => Sys2Proof.Machine.execXmovf x1 x2 s
  | .fenceCards => Sys2Proof.Machine.execFenceCards s
  | .barInit x1 x2 => Sys2Proof.Machine.execBarInit x1 x2 s
  | .barInitImm x1 x2 => Sys2Proof.Machine.execBarInitImm x1 x2 s
  | .barArrive x1 => Sys2Proof.Machine.execBarArrive x1 s
  | .barDrop x1 => Sys2Proof.Machine.execBarDrop x1 s
  | .barWait x1 => Sys2Proof.Machine.execBarWait x1 s
  | .barExpect x1 x2 => Sys2Proof.Machine.execBarExpect x1 x2 s
  | .barExpectImm x1 x2 => Sys2Proof.Machine.execBarExpectImm x1 x2 s
  | .barTest x1 x2 => Sys2Proof.Machine.execBarTest x1 x2 s
  | .barLink x1 x2 => Sys2Proof.Machine.execBarLink x1 x2 s
  | .pcap x1 x2 x3 x4 => Sys2Proof.Machine.execPcap x1 x2 x3 x4 s
  | .pcapr x1 x2 x3 x4 x5 x6 => Sys2Proof.Machine.execPcapr x1 x2 x3 x4 x5 x6 s
  | .pcall x1 x2 => Sys2Proof.Machine.execPcall x1 x2 s
  | .pspawn x1 x2 x3 => Sys2Proof.Machine.execPspawn x1 x2 x3 s
  | .psend x1 x2 x3 => Sys2Proof.Machine.execPsend x1 x2 x3 s
  | .pdup x1 x2 => Sys2Proof.Machine.execPdup x1 x2 s
  | .prel x1 => Sys2Proof.Machine.execPrel x1 s
  | .pget x1 x2 => Sys2Proof.Machine.execPget x1 x2 s
  | .pexport x1 x2 => Sys2Proof.Machine.execPexport x1 x2 s
  | .pimport x1 x2 => Sys2Proof.Machine.execPimport x1 x2 s
  | .segMake x1 x2 x3 x4 x5 x6 => Sys2Proof.Machine.execSegMake x1 x2 x3 x4 x5 x6 s
  | .segAttach x1 x2 x3 => Sys2Proof.Machine.execSegAttach x1 x2 x3 s
  | .segDetach x1 => Sys2Proof.Machine.execSegDetach x1 s
  | .segPublish x1 x2 => Sys2Proof.Machine.execSegPublish x1 x2 s
  | .segEvict x1 x2 => Sys2Proof.Machine.execSegEvict x1 x2 s
  | .segDrop x1 x2 => Sys2Proof.Machine.execSegDrop x1 x2 s
  | .segQuery x1 x2 => Sys2Proof.Machine.execSegQuery x1 x2 s
  | .ibxTake => Sys2Proof.Machine.execIbxTake s
  | .taskEnd x1 x2 => Sys2Proof.Machine.execTaskEnd x1 x2 s
  | .taskSpawn x1 x2 => Sys2Proof.Machine.execTaskSpawn x1 x2 s
  | .taskSpawnExt x1 x2 x3 => Sys2Proof.Machine.execTaskSpawnExt x1 x2 x3 s
  | .taskSpawnLit x1 x2 x3 => Sys2Proof.Machine.execTaskSpawnLit x1 x2 x3 s
  | .rngOpen x1 x2 x3 x4 => Sys2Proof.Machine.execRngOpen x1 x2 x3 x4 s
  | .rngTake x1 x2 => Sys2Proof.Machine.execRngTake x1 x2 s
  | .rngClose x1 => Sys2Proof.Machine.execRngClose x1 s
  | .gangLead => Sys2Proof.Machine.execGangLead s
  | .gangFollow => Sys2Proof.Machine.execGangFollow s
  | .gangJoin x1 => Sys2Proof.Machine.execGangJoin x1 s
  | .gangLeave => Sys2Proof.Machine.execGangLeave s
  | .give x1 x2 => Sys2Proof.Machine.execGive x1 x2 s
  | .giveExt x1 x2 x3 x4 => Sys2Proof.Machine.execGiveExt x1 x2 x3 x4 s
  | .accept x1 => Sys2Proof.Machine.execAccept x1 s
  | .decline x1 => Sys2Proof.Machine.execDecline x1 s
  | .lend x1 x2 x3 x4 x5 x6 x7 => Sys2Proof.Machine.execLend x1 x2 x3 x4 x5 x6 x7 s
  | .lendLit x1 x2 x3 x4 x5 x6 x7 => Sys2Proof.Machine.execLendLit x1 x2 x3 x4 x5 x6 x7 s
  | .recall x1 x2 => Sys2Proof.Machine.execRecall x1 x2 s
  | .reclaim x1 x2 => Sys2Proof.Machine.execReclaim x1 x2 s
  | .ownQ x1 x2 x3 => Sys2Proof.Machine.execOwnQ x1 x2 x3 s
  | .mint x1 x2 => Sys2Proof.Machine.execMint x1 x2 s
  | .retire => Sys2Proof.Machine.execRetire s
  | .ownHook x1 x2 => Sys2Proof.Machine.execOwnHook x1 x2 s
  | .kread x1 x2 x3 x4 => Sys2Proof.Machine.execKread x1 x2 x3 x4 s
  | .kwrite x1 x2 x3 x4 => Sys2Proof.Machine.execKwrite x1 x2 x3 x4 s
  | .undecodableWord x1 x2 => Sys2Proof.Machine.execUndecodableWord x1 x2 s
  | .resumeComplete x1 => Sys2Proof.Machine.execResumeComplete x1 s

end Sys2Proof.Machine
end

