-- ==== Sys2Proof/Machine/Issue.lean ====
section
/-! DEFINITION. Issue (R20), gangs in lockstep (R22 to R24), and the turns of the device: an agenda, then what falls due
by the time, then the free schedule (R248). -/

namespace Sys2Proof.Machine

/-! Gangs. -/

/-- Does context 0 of the core take forwarded instructions (R22)? -/
def Core.follows (c : Core) : Bool := c.gsize != 0 && c.gpos != 0 && c.gattached
/-- Does it lead a gang? -/
def Core.leads (c : Core) : Bool := c.gsize != 0 && c.gpos == 0 && c.gattached
/-- The attached followers of the gang that core `k` leads. -/
def State.attachedTo (s : State) (k : Nat) : List Nat :=
  if (s.coreAt k).leads then (s.followers k).filter fun m => (s.coreAt m).follows else []

/-- Is it a gang forward? -/
def Packet.isFwd (p : Packet) : Bool := match p with
  | .fwd _ _ _ => true
  | _ => false

/-- Has a forward of core `k` not been executed by an attached follower yet? The members issue together, log 18. -/
def State.forwarding (s : State) (k : Nat) : Bool :=
  s.barq.any fun p => p.2.isFwd && p.2.from k && (s.coreAt p.1).follows

/-- The forward that waits for core `k`: bytes, and the PC at which the leader went on. -/
def State.forwardTo (s : State) (k : Nat) : Option (List Byte × Word) :=
  s.barq.findSome? fun p => match p.2 with
    | .fwd _ bs pc => if p.1 = k then some (bs, pc) else none
    | _ => none
/-- Forwards to core `k` taken away. -/
def State.dropForwards (s : State) (k : Nat) : State :=
  { s with barq := s.barq.filter fun p => !(p.1 == k && p.2.isFwd) }

/-- A follower detaches from its leader, and goes on by itself (R23). -/
def State.gangDetach (s : State) (m : Nat) : State :=
  (s.unmask m).updCoreAt m fun c => { c with gattached := false }

/-- Do the bytes write TFLAGS in context 0 of core `k`, and so may set IN without an exception: a wrsr whose source is
declared (R43), while no single-stepping follows it (R130)? No other exception of a wrsr of TFLAGS is there. -/
noncomputable def State.writesTflags (s : State) (k : Nat) (bs : List Byte) : Bool :=
  let c := s.coreAt k
  match decodeFor (isFirmware k) c.profOf bs with
  | .wrsr i a => i == 0x014 && (declFault c (c.ctxAt 0) [.x a]).isNone && !(c.ctxAt 0).tstep
  | _ => false
/-- Has context 0 of core `k` taken an exception in the instruction between the two states? Every exception that an
instruction takes counts as a fault for R23, one that retires into it (R127, R185) too: DESIGN CHOICE, log 95. -/
noncomputable def State.trapped (s : State) (k : Nat) (bs : List Byte) (t : State) : Bool :=
  !((s.coreAt k).ctxAt 0).tin && ((t.coreAt k).ctxAt 0).tin && !s.writesTflags k bs

/-- What a leader's instruction does to its gang: a fault detaches every follower, which then executes the instruction
itself; else it is forwarded to those that were attached and still are (R22, R23). -/
noncomputable def State.afterLeader (s : State) (k : Nat) (bs : List Byte) (t : State) : State :=
  let fs := s.attachedTo k
  if fs.isEmpty then t
  else if s.trapped k bs t then t.detachAll k false
  else
    let pc := ((t.coreAt k).ctxAt 0).pc
    { t with barq := t.barq ++ (fs.filter fun m => (t.coreAt m).follows).map fun m => (m, Packet.fwd k bs pc) }

/-- What a forwarded instruction does to its follower: a fault, or another branch outcome than the leader's, detaches
it (R23). -/
noncomputable def State.afterFollower (s : State) (k : Nat) (bs : List Byte) (pc : Word) (t : State) : State :=
  let t := t.dropForwards k
  let y := (t.coreAt k).ctxAt 0
  if (t.coreAt k).follows && (s.trapped k bs t || y.pc != pc) then t.gangDetach k else t

/-! One context. -/

/-- Has the context gone past its instruction, or past a step of it? -/
def Ctx.went (x : Ctx) : Bool := x.wait == .none
/-- Has its instruction ended? -/
def Ctx.over (x : Ctx) : Bool := x.wait == .none && x.shape.isNone

/-- An attempt of the executing context at its next instruction, with the instruction's bytes; the state of an
attempt that could not fetch yet. A shape-form instruction whose next step cannot be fetched keeps the steps that it has
taken (R74, R334). -/
noncomputable def State.attempt (s : State) : Except State (List Byte × Host.Outcome State Fault Refusal) :=
  match s.nextInstr with
  | .ok (i, bs, t) => .ok (bs, exec i t)
  | .error (.trap c v) => .ok ([], exec (.undecodableWord c v) ((s.walkFault c v).parkShape s.cur s.ctx))
  | .error (.wait t _) => .error t

/-- Context `j` of core `k` attempts its next instruction: the outcome, and whether it went. -/
noncomputable def State.issueCtx (s : State) (k j : Nat) : Host.Outcome State Fault Refusal × Bool :=
  let s := { s with cur := k, ctx := j }
  if j = 0 && (s.coreAt k).follows then
    match s.forwardTo k with
    | none => (.next s, false)
    | some (bs, pc) => match exec (decodeFor (isFirmware k) s.core.profOf bs) s with
      | .next t =>
        let y := (t.coreAt k).ctxAt 0
        (.next (if y.over then s.afterFollower k bs pc t else t), y.went)
      | o => (o, false)
  else if j = 0 && (s.forwarding k || decide (maxFlits < s.outbound k + (s.attachedTo k).length)) then (.next s, false)
  else
    let s := if j = 0 then s.dropForwards k else s
    match s.attempt with
    | .error t => (.next t, false)
    | .ok (bs, .next t) =>
      let y := (t.coreAt k).ctxAt j
      (.next (if j = 0 && y.over then s.afterLeader k bs t else t), y.went)
    | .ok (_, o) => (o, false)

/-! One core. -/

/-- May the core issue (R27, R339, R381)? -/
def State.canIssue (s : State) (k : Nat) : Bool :=
  let c := s.coreAt k
  coreExists k && s.stage == 5 && s.coreOn k && s.holderOf k != 0xFFFF &&
    c.stop.all fun st => !st.ticked && decide (s.now < st.tick)

/-- The contexts after the one that issued last (R20). DEDUCED, log 91. -/
def Core.order (c : Core) : List Nat := (List.range 11).map fun i => (c.last + 1 + i) % 11

/-- The first of some contexts that is ready issues; where none does, the core's counters stand still if they did before
(R361). -/
noncomputable def State.issueFrom (s : State) (k : Nat) (still : Bool) : List Nat → Host.Outcome State Fault Refusal
  | [] => .next (s.updCoreAt k fun c => { c with uncounted := still })
  | j :: js =>
    if ((s.coreAt k).ctxAt j).st ≠ .live then s.issueFrom k still js
    else match s.issueCtx k j with
      | (.next t, true) => .next (t.updCoreAt k fun c => { c with last := j })
      | (.next t, false) => t.issueFrom k still js
      | (o, _) => o

/-- An issue slot of core `k`. A gated core whose contexts all sleep stays gated (R318). -/
noncomputable def State.issueCore (s : State) (k : Nat) : Host.Outcome State Fault Refusal :=
  let c := s.coreAt k
  if !s.canIssue k || (c.gated && c.liveCtxs.all c.sleeps) then .next s
  else if s.abortDue k then .next (s.deadlineAbort k)
  else (s.updCoreAt k fun c => { c with gated := false, uncounted := false }).issueFrom k c.uncounted c.order

/-! Turns. -/

/-- Rows of the opcode table that happen to the device, and not in a context. -/
def isEvent : Instr → Bool
  | .undecodableWord _ _ => false
  | i => (encode i).isNone

/-- The timed events of the map and of segments with their ticks, those of the past apart that have been made (R277,
R284, R292, R232). -/
noncomputable def State.mapTicks (s : State) : List (Nat × Instr) :=
  (s.entries.flatMap fun e => (List.range e.loans.length).flatMap fun j =>
    match s.loanAt e.name j with
    | none => []
    | some (_, l) =>
      if l.due then []
      else [(l.term.toNat, .loanTermExpiry e.name j)] ++
        (if l.recalled then [(l.rdl.toNat, .graceDeadlineExpiry e.name j)] else []) ++
        (if l.near then [] else [(l.term.toNat - 65536, .termNear e.name j)])) ++
  ((s.segs.filter fun g => g.live && g.cls == 3).map fun g => (g.term.toNat, .segTermEnd g.dom g.name)) ++
  s.oids.filterMap fun p => match p.2.idle with
    | some t => if p.1 = 1 || s.oidBusy p.1 then none else some (t + 16777216, .oidIdleRetire p.1)
    | none => none

/-- The first of some timed events in the order of their ticks; of one tick the first that is listed. -/
def firstTick {α : Type} : List (Nat × α) → Option (Nat × α)
  | [] => none
  | x :: xs => match firstTick xs with
    | some y => if y.1 < x.1 then some y else some x
    | none => some x

/-- What the time that has passed makes due in the map, in the order of the ticks (R276). -/
noncomputable def State.mapDue (s : State) : Option Instr :=
  match firstTick s.mapTicks with
  | some (t, i) => if t ≤ s.now then some i else none
  | none => none

/-! The bounds of a stop and of a resume (R348). -/

/-- Cycles beyond 64 ticks of a tile row that the core's matrix engine is in. -/
def State.rowExtra (s : State) (k : Nat) : Nat :=
  let co := s.coreAt k
  co.mxRing.foldl (fun n c => if c.running then max n (c.mxCycles (co.bbuf c.bsel) (s.alarm || c.narrow) - 64) else n) 0

/-- The tick by which a core's husk is VALID: of class 0 (R348), and of a core with no task of any class (R295). -/
def State.stopBound (s : State) (k : Nat) : Option Nat :=
  match s.stopOf k with
  | none => none
  | some st =>
    let c := s.coreAt k
    let cls := if c.hstat == .writing then c.hclass else match huskBase (c.stopRegion st).1 with
      | some base => s.huskClass k st.holder base
      | none => 0
    if !st.ticked || st.finished || (cls ≠ 0 && (c.task || c.podMsg)) then none else some (st.tick + 256 + s.rowExtra k)
/-- Ticks that a resume of a class takes at most. -/
def resumeTicks : Nat → Nat
  | 0 => 256
  | 1 => 120000
  | _ => 7200000
/-- The tick by which a resume ends. -/
def State.resumeBound (s : State) (k : Nat) : Option Nat :=
  let c := s.coreAt k
  if c.hstat != .resuming then none
  else
    let cls := match huskBase c.kresume with
      | some base => s.mem.readLE (base + 7) 1
      | none => 0
    some (c.resumeAt + resumeTicks cls)
/-- Is a bound reached? -/
def reached (now : Nat) (t : Option Nat) : Bool := t.any fun t => decide (t ≤ now)

/-- The next event of the stop of a core of which some core has reached its bound: each is enabled when it is named. -/
noncomputable def State.stopDue (s : State) (k : Nat) : Option Instr :=
  match s.stopOf k with
  | none => none
  | some st =>
    let set := s.cores.filter fun p => p.2.stop.any fun t => t.tick == st.tick
    let late := reached s.now (s.stopBound k)
    if st.ticked && !st.quiet && set.any (fun p => reached s.now (s.stopBound p.1)) then some (.quiesceEnd k)
    else if !late then none
    else if !st.flushed then
      if !(st.quiet && set.all fun p => p.2.stop.all fun t => t.quiet || t.finished) then none
      else if (s.coreAt k).hstat != .writing || s.staged k < 32 then some (.flushToken k)
      else (s.cores.find? fun p => clusterOf p.1 == clusterOf k && p.2.stop.any fun t => !t.saved.isEmpty && !t.finished).map
        fun p => .saveBufferDrain p.1
    else if !st.saved.isEmpty then some (.saveBufferDrain k)
    else if !st.todo.isEmpty then some (.huskSaveStep k)
    else some (.huskValid k)

/-- What waits for the end of a stop comes with it (R280, R285). -/
noncomputable def State.endDue (s : State) (k : Nat) : Option Instr :=
  match s.stopOf k with
  | none => none
  | some st =>
    if !st.finished then none
    else if st.ends.any StopEnd.isAccept && !s.acceptTouched st then some (.acceptStopEnd k)
    else if st.ends.any fun e => !e.isAccept then some (.reclaimStopEnd k)
    else none

/-- What a core does by itself as soon as it can: its stop, the start of a queued apply where a helper is FREE, and its
clock gating (R222, R318, R348). -/
noncomputable def State.selfDue (s : State) (k : Nat) : Option Instr :=
  match s.endDue k with
  | some i => some i
  | none => match s.stopDue k with
    | some i => some i
    | none =>
      let c := s.coreAt k
      if reached s.now (s.resumeBound k) then some (.resumeComplete k)
      else if c.active && !c.applyQ.isEmpty && !c.freeHelpers.isEmpty then some (.applyQueueStart k)
      else if c.active && !c.gated && c.idles then some (.clockGate k)
      else none

/-- At cores (R27, R339, R380). -/
noncomputable def State.coreDue (s : State) : Option Instr :=
  match s.cores.find? fun p => p.2.active && p.2.stop.any fun st => !st.ticked && decide (st.tick ≤ s.now) with
  | some p => some (.stopTick p.1)
  | none => match s.cores.find? fun p => s.abortDue p.1 with
    | some p => some (.deadlineAbort p.1)
    | none => match s.cores.findSome? fun p => (p.2.ctxs.find? fun x => x.2.peerLate s.now).map fun x => (p.1, x.1) with
      | some (k, j) => some (.peerTimeout k j)
      | none => s.cores.findSome? fun p => s.selfDue p.1

/-- A drained run that the gang it waits for can take (R314); a partial sum that a node has kept for 64 ticks (R317); and a
completion record that can be written (R303, R317). -/
noncomputable def State.treeDue (s : State) : Option Instr :=
  match s.drains.find? fun d => match s.pool.find? fun n => n.id == d.2.2 with
    | some n => (s.tryUnit d.1 n).isSome
    | none => false with
  | some d => some (.taskDispatch d.1)
  | none => match s.words.find? fun w => decide (w.since + 64 ≤ s.now) with
    | some w => some (.treePropagate w.slot w.node)
    | none => (s.slots.find? fun p => (s.writeRecord p.1).isSome).map fun p => .completionRecordWrite p.1

/-- In the launch unit and at the host link: each pool retires before it discards (R307, R313, R331, R376). -/
noncomputable def State.unitDue (s : State) : Option Instr :=
  match s.pool.find? fun n => n.ended.isSome && s.poolPhase n.die == 0 with
  | some n => some (.nodeRetire n.id)
  | none => match s.pool.find? fun n => s.nodeLate n && s.poolPhase n.die == 0 with
    | some n => some (.deadlineDiscard n.id)
    | none => match (List.range 8).find? fun d => (s.drainFor d).isSome with
      | some d => some (.gangDrain d)
      | none => match s.qslots.find? fun q => q.2.holdoffDue s.now with
        | some q => some (.msixHoldoffExpiry q.1)
        | none => match s.domains.find? fun d => d.2.retireDue s.now with
          | some d => some (.pasidRetireEnd d.1)
          | none => s.treeDue

/-- At multiples of the time, and of the ticks that buckets owe (R249, R316, R319, R362). -/
noncomputable def State.clockDue (s : State) : Option Instr :=
  match s.buckets.find? fun b => b.2.due != 0 with
  | some b => some (.bucketCharge b.1 b.2.due)
  | none =>
    if s.ptsDue then some .ptsAdvance
    else if s.refills < s.now / 1024 then some .bucketRefill
    else if s.powers < s.now / 1024 then some .powerEstimate
    else if s.snaps < s.now / 2 ^ 20 then some .counterSnapshot
    else none

/-- The event that is due now, and so comes before any other agent moves. -/
noncomputable def State.due (s : State) : Option Instr :=
  match s.mapDue with
  | some i => some i
  | none => match s.coreDue with
    | some i => some i
    | none => match s.unitDue with
      | some i => some i
      | none => s.clockDue

/-- Ticks at which something falls due; of those that lie ahead, the time does not pass the next. Events are made at every
multiple of 64, which all the other periods are multiples of. -/
noncomputable def State.ticksAhead (s : State) : List Nat :=
  [64 * (s.now / 64 + 1)] ++ s.mapTicks.map Prod.fst ++
  (s.cores.flatMap fun p =>
    (p.2.stop.map fun st => st.tick).toList ++ (s.stopBound p.1).toList ++ (s.resumeBound p.1).toList ++
    (if p.2.abortSet then [p.2.deadline.toNat] else []) ++
    p.2.ctxs.filterMap fun x => x.2.ext.map fun e => e.since + 60000) ++
  (s.pool.flatMap fun n => (if n.ended.isSome || s.nodeLate n then [s.now + 1] else []) ++ [n.readyAt + 2 ^ 20]) ++
  (s.slots.map fun l => l.2.deadline.toNat) ++ (s.words.map fun w => w.since + 64) ++
  (s.qslots.map fun q => q.2.t0 + q.2.holdoff.toNat) ++
  s.domains.map fun d => d.2.retireAt + 6000

/-- `dt` ticks, or as many as there are to the next tick at which something falls due. -/
noncomputable def State.clampTicks (s : State) (dt : Nat) : Nat :=
  s.ticksAhead.foldl (fun dt t => if s.now < t then min dt (t - s.now) else dt) dt

/-- A turn: the issue slot of a core, an event, or an act of the host at the link. An instruction that is no event is not made out of its context.
DESIGN CHOICE, log 2. -/
noncomputable def State.turn (s : State) : Turn → Host.Outcome State Fault Refusal
  | .issue k => s.issueCore k
  | .event i => if isEvent i then exec i s else .next s
  | .hostRead f bar off n => s.barRead f bar off n
  | .hostWrite f bar off bs => s.barWrite f bar off bs
  | .atomicOps on => .next { s with atomicOps := on }

/-- Time passes at the end of a turn, but never past a tick at which something falls due, and not at all while something is.
DEDUCED, log 90. -/
noncomputable def State.pass (s : State) : State :=
  let s := s.ungate.voidHooks.postOvf.landExt fun _ => false
  { s.elapse (if s.due.isSome then 0 else s.clampTicks (Config.elapsed s.n)) with n := s.n + 1, walked := [], walkTs := 0 }

/-- The state after a turn, with the time that it took. -/
noncomputable def passed : Host.Outcome State Fault Refusal → Host.Outcome State Fault Refusal
  | .next s => .next s.pass
  | o => o

/-- The first turn of the agenda, or the event that is due, or a turn of the free schedule; an event that is due takes
no time. -/
noncomputable def State.move (s : State) : Host.Outcome State Fault Refusal :=
  match s.agenda with
  | t :: ts => passed ({ s with agenda := ts }.turn t)
  | [] => match s.due with
    | some i => exec i s
    | none => passed (s.turn (Config.schedule s.n))

/-! An instruction placed where the next step fetches it. -/

/-- Where the instruction is placed: first byte, the same in the virtual and in the physical memory. -/
def codeAt : Nat := 2 ^ 32
/-- The L0 and L1 tables of the domain that runs it. -/
def rootAt : Nat := 2 ^ 33
def tableAt : Nat := 2 ^ 33 + 2 ^ 16

/-- HBM with the bytes of the instruction, and the page tables of a leaf of 16 GiB from address 0 on, readable, writable
and executable, in extent 1 (R323, R324). -/
def placeCode (m : Memory) (w : Nat) : Memory :=
  ((m.writeLE codeAt 20 w).writeLE rootAt 16 (1 + tableAt * 2 ^ 16)).writeLE tableAt 16 (0x1F + 2 ^ 68)

/-- A core that runs a task of all declarations and profiles, context 0 at the instruction and next in turn. -/
def Core.placed (c : Core) : Core :=
  { c with
    ctxs := Table.put c.ctxs 0 { c.ctxAt 0 with
      st := .live, pc := word codeAt, wait := .none, ext := none, bans := none, shape := none, loading := 0, storing := false }
    last := 10, partw := 0x22B, decla := 32 + 32 * 2 ^ 6 + 8 * 2 ^ 12 + 16 * 2 ^ 16 + 16 * 2 ^ 21 + 48 * 2 ^ 26 + 1024 * 2 ^ 32,
    declb := 15 * 2 ^ 10 + 64 * 2 ^ 14, prof := 0xF, domain := 0, deadline := 0, task := true, podMsg := false,
    installed := true, gattached := false, hstat := .running, stop := none, gated := false, ibuf := [] }

/-- The device with the instruction of bits `w` placed for core 0.0.0, whose issue slot comes next: stage 5, the core, the
domain and the memory of the instruction held by OID 1, no stale translation or copy. DESIGN CHOICE, log 19. -/
def State.placeInstr (s : State) (nbits w : Nat) : State :=
  let d := s.domainAt 0
  let t := s.setCoreAt 0 (s.coreAt 0).placed
  { t with
    agenda := [.issue 0], stage := 5, recovery := false, endowed := true
    mem := placeCode s.mem (w % 2 ^ nbits)
    domains := Table.put s.domains 0 { d with root := word rootAt, enable := true }
    entries := s.entries.filter fun e => !(e.meets cCore 0 0 1 || e.meets cDomain 0 0 1 || e.meets cMem 0 0 (2 ^ 34))
    tlb := s.tlb.filter fun t => t.cluster != 0 || t.dom != 0
    walks := s.walks.filter fun x => x.die != 0 || x.dom != 0
    copies := s.copies.filter fun x => x.cluster != 0 || x.line != codeAt / 128 }

end Sys2Proof.Machine
end

