-- ==== Sys2Proof/Machine/Step.lean ====
section
/-! DEFINITION. One step of the device, and an instruction placed where the next step fetches it. -/

namespace Sys2Proof.Machine

/-- One step: the first turn of the agenda, the event that is due, or a turn of the free schedule. -/
noncomputable def step (s : State) : Host.Outcome State Fault Refusal := s.move

/-- The device with an instruction of the opcode table placed where the next step fetches it: in the memory of a task
on core 0.0.0, whose turn it is. -/
def State.withFetchWord (s : State) (nbits w : Nat) : State := s.placeInstr nbits w

end Sys2Proof.Machine
end

