-- ==== Sys2Proof/Safety.lean ====
section
/-! DEFINITION. The terms in which claims about the machine are written: when an instruction may issue, what it means
that it retires, and the form that memory keeps. Every instruction and event of this device answers a next state, so
a run is safe in the sense that no step stops it (R334, R335); what claims bound is what a step may change. -/

namespace Sys2Proof.Machine

/-- The registers and barriers that an instruction names are not being loaded (R105) and are declared (R43), so that
the instruction means its own effect. -/
def State.ready (s : State) (us : List Use) : Prop := us.any (Use.loading s.me) = false ∧ declFault s.core s.me us = none

/-- The instruction of `len` bytes has the effect `t` and retires: the context goes on at the next instruction, and
traps first where TFLAGS.STEP was set at issue (R40, R130). -/
def Retires (i : Instr) (s : State) (len : Nat) (t : State) : Prop :=
  exec i s = .next (t.retire s.me.tstep (s.nextPc len))

/-- The instruction has the effect `t` and retires, and its context goes on at `pc`. -/
def RetiresTo (i : Instr) (s : State) (t : State) (pc : Word) : Prop := exec i s = .next (t.retire s.me.tstep pc)

/-- The instruction takes the exception of a cause with its TVAL, and its context has EPC at the instruction (R334). Where
it is a translation that fails, the lines of the walk have been read (R325). -/
def Traps (i : Instr) (s : State) (cause : BitVec 8) (tval : Word) : Prop :=
  exec i s = .next ((s.walkFault cause tval).takeTrap s.me.pc cause tval)

/-- The three lengths of a conditional branch: where the comparison holds they go on at PC plus four times the signed
offset, or plus the literal; where it does not, at the next instruction (R119). -/
def Branches (i j k : Instr) (s : State) (o : BitVec 11) (e : BitVec 32) (l : Word) (holds : Prop) : Prop :=
  (holds → RetiresTo i s s (s.me.pc + BitVec.ofInt 64 (4 * o.toInt)) ∧
    RetiresTo j s s (s.me.pc + BitVec.ofInt 64 (4 * e.toInt)) ∧ RetiresTo k s s (s.me.pc + l)) ∧
  (¬holds → Retires i s 4 s ∧ Retires j s 12 s ∧ Retires k s 20 s)

/-- A floating-point result in X[d], with its flags in FPFLAGS (R50, R113). -/
def State.fpResult (s : State) (d : BitVec 5) (r : Nat × FFlags) : State := (s.setX d (word r.1)).setFp r.2

/-- Device physical memory, and the pool of every core, have their canonical form. -/
def State.canonical (s : State) : Prop := s.mem.wf = true ∧ ∀ k, (s.coreAt k).pool.wf = true

/-- A handler can run in the executing context: an exception is taken there and does not end the task (R334). -/
def State.handled (s : State) : Prop := s.me.tin = false ∧ s.me.trapvec ≠ 0

/-- The task of the executing core is not under record or replay (R386). -/
def State.unlogged (s : State) : Prop := ∀ p, s.taskLaunch s.cur = some p → p.2.logMode = 0

/-! Accesses to the scratchpad. -/

/-- An access of `n` bytes at `a` of the executing core's scratchpad that meets every check of R116 and R66 and waits for
nothing: it reads, writes, or both, and `stk` says that its base register is x2. -/
def State.padOk (s : State) (rd wr stk : Bool) (a : Word) (n : Nat) : Prop :=
  a.toNat % n = 0 ∧ (stk = true → s.me.stacklim.toNat ≤ a.toNat) ∧ a.toNat < 2 ^ 18 ∧
  (∀ r ∈ rowsOf a.toNat n, s.rowCheck s.cur (if wr then .write else .read) r = none) ∧
  s.core.watched rd wr a.toNat n = false ∧ s.core.cardStall wr a.toNat n = false

/-- What an access leaves as it is of its own core, but the x and v registers, the bytes that it writes, and logical
times: the other registers of its context, every other context, and the core-scope registers. -/
def State.keepsOwn (s t : State) : Prop :=
  t.cur = s.cur ∧ t.ctx = s.ctx ∧ (∀ n, t.mr n = s.mr n) ∧ (∀ n, t.hr n = s.hr n) ∧ (∀ n, t.cr n = s.cr n) ∧
  t.me.pc = s.me.pc ∧ t.me.rrb = s.me.rrb ∧ t.me.trapvec = s.me.trapvec ∧ t.me.epc = s.me.epc ∧ t.me.cause = s.me.cause ∧
  t.me.tval = s.me.tval ∧ t.me.tstep = s.me.tstep ∧ t.me.tin = s.me.tin ∧ t.me.stacklim = s.me.stacklim ∧
  t.me.istat = s.me.istat ∧ t.core.partw = s.core.partw ∧ t.core.decla = s.core.decla ∧ t.core.declb = s.core.declb ∧
  t.core.flags = s.core.flags ∧ t.core.mxsat = s.core.mxsat ∧ t.core.kcause = s.core.kcause ∧
  ∀ j, j ≠ s.ctx → t.core.ctxAt j = s.core.ctxAt j

/-- What an access to the scratchpad leaves as it is: that, every other core, and every byte of device memory. -/
def State.keeps (s t : State) : Prop :=
  s.keepsOwn t ∧ (∀ k, k ≠ s.cur → t.coreAt k = s.coreAt k) ∧ ∀ b, t.mem.read b = s.mem.read b

/-- A scratchpad load: it retires with `v` in X[d], in the loads with update after that the base register `u` holds
`w`, and changes nothing else: no byte of any pool. -/
def PadLoads (i : Instr) (s : State) (len : Nat) (d : BitVec 5) (v : Word) (upd : Option (BitVec 5 × Word)) : Prop :=
  ∃ t, Retires i s len t ∧ (∀ n, t.xr n = if n = 0 then 0 else match upd with
      | some (u, w) => if n = u then w else if n = d then v else s.xr n
      | none => if n = d then v else s.xr n) ∧
    t.me.fpflags = s.me.fpflags ∧ s.keeps t ∧ ∀ b, t.core.pool.read b = s.core.pool.read b

/-- A scratchpad store of `n` bytes: it retires with the low bytes of `v` at `a` and every other byte of the pool as
before, and changes nothing else but a base register `u` that takes `w`. -/
def PadStores (i : Instr) (s : State) (len : Nat) (a : Word) (n : Nat) (v : Word) (upd : Option (BitVec 5 × Word)) : Prop :=
  ∃ t, Retires i s len t ∧ (∀ r, t.xr r = if r = 0 then 0 else match upd with
      | some (u, w) => if r = u then w else s.xr r
      | none => s.xr r) ∧
    t.me.fpflags = s.me.fpflags ∧ s.keeps t ∧ t.core.pool.readLE a.toNat n = v.toNat % 256 ^ n ∧
    ∀ b, ¬(a.toNat ≤ b ∧ b < a.toNat + n) → t.core.pool.read b = s.core.pool.read b

/-- An atomic on the scratchpad: the old value `o` of the `n` bytes goes to X[d] as `f o`, and `g o` takes its place
where there is one; the flags `fl o` are set, and nothing else changes. -/
def PadAtomic (i : Instr) (s : State) (len : Nat) (d : BitVec 5) (a : Word) (n : Nat) (f : Nat → Word) (g : Nat → Option Nat)
    (fl : Nat → FFlags) : Prop :=
  let o := s.core.pool.readLE a.toNat n
  ∃ t, Retires i s len t ∧ (∀ r, t.xr r = if r = 0 then 0 else if r = d then f o else s.xr r) ∧
    t.me.fpflags = s.me.fpflags ||| fl o ∧ s.keeps t ∧ t.core.pool.readLE a.toNat n = ((g o).getD o) % 256 ^ n ∧
    ∀ b, ¬(a.toNat ≤ b ∧ b < a.toNat + n) → t.core.pool.read b = s.core.pool.read b

/-- Lane `j` of `w` bits of a row. -/
def laneOf (w v j : Nat) : Nat := v / 2 ^ (w * j) % 2 ^ w

/-- A vector load whose lanes that take part all lie in the scratchpad, at `addr`: each of them takes the bytes at its
address, every other lane keeps its value (R88), and of the pool only the register's row changes. -/
def PadVLoads (i : Instr) (s : State) (len : Nat) (t : Type4) (k : BitVec 3) (d : BitVec 5) (addr : Nat → Word)
    (upd : Option (BitVec 5 × Word)) : Prop :=
  ∃ u, Retires i s len u ∧
    (∀ j, j < 1024 / t.bits → laneOf t.bits (u.vr d) j =
      if s.act k j then s.core.pool.readLE (addr j).toNat (elemBytes t) else laneOf t.bits (s.vr d) j) ∧
    (∀ r, u.xr r = if r = 0 then 0 else match upd with
      | some (b, w) => if r = b then w else s.xr r
      | none => s.xr r) ∧
    u.me.fpflags = s.me.fpflags ∧ s.keeps u ∧
    ∀ b, b / 128 ≠ s.vrow d → u.core.pool.read b = s.core.pool.read b

/-- A vector store whose lanes that take part all lie in the scratchpad: the bytes of a lane that no higher lane names
hold its value, and a byte that no lane names is as before (R137). -/
def PadVStores (i : Instr) (s : State) (len : Nat) (t : Type4) (k : BitVec 3) (d : BitVec 5) (addr : Nat → Word)
    (upd : Option (BitVec 5 × Word)) : Prop :=
  let z := elemBytes t
  let on (j : Nat) : Prop := j < 1024 / t.bits ∧ s.act k j = true
  ∃ u, Retires i s len u ∧
    (∀ j, on j → (∀ m, on m → j < m → (addr m).toNat + z ≤ (addr j).toNat ∨ (addr j).toNat + z ≤ (addr m).toNat) →
      u.core.pool.readLE (addr j).toNat z = laneOf t.bits (s.vr d) j) ∧
    (∀ r, u.xr r = if r = 0 then 0 else match upd with
      | some (b, w) => if r = b then w else s.xr r
      | none => s.xr r) ∧
    u.me.fpflags = s.me.fpflags ∧ s.keeps u ∧
    ∀ b, (∀ j, on j → ¬((addr j).toNat ≤ b ∧ b < (addr j).toNat + z)) → u.core.pool.read b = s.core.pool.read b

/-- Every lane that takes part makes an access that meets the checks and waits for nothing. -/
def State.lanesOk (s : State) (rd wr stk : Bool) (t : Type4) (k : BitVec 3) (addr : Nat → Word) : Prop :=
  ∀ j, j < 1024 / t.bits → s.act k j = true → s.padOk rd wr stk (addr j) (elemBytes t)

/-! Accesses to device memory at global addresses. -/

/-- An access of `n` bytes at the global address `a` that meets every check of R116, translates to `pa` in device memory
(R325), and waits for nothing. -/
def State.farOk (s : State) (rd wr stk : Bool) (a : Word) (n pa : Nat) : Prop :=
  a.toNat % n = 0 ∧ (stk = true → s.me.stacklim.toNat ≤ a.toNat) ∧ 2 ^ 32 ≤ a.toNat ∧ isExternal pa = false ∧
  (∃ u, s.translate s.ag (if wr then .write else .read) a.toNat = .ok (.phys pa, u)) ∧ s.me.ext = none ∧
  s.me.storing = false ∧ s.core.watched rd wr a.toNat n = false ∧ s.core.cardStall wr a.toNat n = false

/-- What an access to device memory leaves as it is: that of its own core, and every other core but its counters, which
may count lookups of the shared caches (R358). -/
def State.keepsFar (s t : State) : Prop :=
  s.keepsOwn t ∧ ∀ k, k ≠ s.cur → { t.coreAt k with cnt := (s.coreAt k).cnt } = s.coreAt k

/-- Bytes that a read of `n` bytes at `pa` by the executing context may give: those at their home, or those of a copy of
the line in its cluster cache (R249). -/
def State.farBytes (s : State) (pa n : Nat) (bs : List Byte) : Prop :=
  bs = s.mem.bytes pa n ∨
  ∃ c ∈ s.copies, c.cluster = clusterOf s.cur ∧ c.line = pa / 128 ∧ bs = (c.data.drop (pa % 128)).take n

/-- A load from device memory of bytes that `good` admits: it retires with the number that they make, extended by `f`, in X[d],
and in the loads with update after that the base register `u` holds `w`; no byte of memory or of the pool changes. -/
def MemLoads (i : Instr) (s : State) (len : Nat) (d : BitVec 5) (good : List Byte → Prop) (f : Nat → Word)
    (upd : Option (BitVec 5 × Word)) : Prop :=
  ∃ t bs, good bs ∧ Retires i s len t ∧ (∀ r, t.xr r = if r = 0 then 0 else match upd with
      | some (u, w) => if r = u then w else if r = d then f (leVal bs) else s.xr r
      | none => if r = d then f (leVal bs) else s.xr r) ∧
    t.me.fpflags = s.me.fpflags ∧ s.keepsFar t ∧ (∀ b, t.core.pool.read b = s.core.pool.read b) ∧
    ∀ b, t.mem.read b = s.mem.read b

/-- A load of `n` bytes of device memory at `pa`. -/
def FarLoads (i : Instr) (s : State) (len : Nat) (d : BitVec 5) (pa n : Nat) (f : Nat → Word) (upd : Option (BitVec 5 × Word)) :
    Prop := MemLoads i s len d (s.farBytes pa n) f upd

/-- A store of `n` bytes to device memory at `pa`: it retires with the low bytes of `v` there, and every other byte of
device memory, and every byte of the pool, is as before. -/
def FarStores (i : Instr) (s : State) (len pa n : Nat) (v : Word) (upd : Option (BitVec 5 × Word)) : Prop :=
  ∃ t, Retires i s len t ∧ (∀ r, t.xr r = if r = 0 then 0 else match upd with
      | some (u, w) => if r = u then w else s.xr r
      | none => s.xr r) ∧
    t.me.fpflags = s.me.fpflags ∧ s.keepsFar t ∧ t.mem.readLE pa n = v.toNat % 256 ^ n ∧
    (∀ b, ¬(pa ≤ b ∧ b < pa + n) → t.mem.read b = s.mem.read b) ∧ ∀ b, t.core.pool.read b = s.core.pool.read b

/-- An atomic on device memory: the old value `o` of the `n` bytes at `pa` at their home goes to X[d] as `f o`, and `g o`
takes its place where there is one; the flags `fl o` are set, and nothing else changes. -/
def FarAtomic (i : Instr) (s : State) (len : Nat) (d : BitVec 5) (pa n : Nat) (f : Nat → Word) (g : Nat → Option Nat)
    (fl : Nat → FFlags) : Prop :=
  let o := s.mem.readLE pa n
  ∃ t, Retires i s len t ∧ (∀ r, t.xr r = if r = 0 then 0 else if r = d then f o else s.xr r) ∧
    t.me.fpflags = s.me.fpflags ||| fl o ∧ s.keepsFar t ∧ t.mem.readLE pa n = ((g o).getD o) % 256 ^ n ∧
    (∀ b, ¬(pa ≤ b ∧ b < pa + n) → t.mem.read b = s.mem.read b) ∧ ∀ b, t.core.pool.read b = s.core.pool.read b

/-! Accesses to the decoded images of format pages. -/

/-- First byte of the block behind byte `o` of the image of a format page (R326). -/
def blockAt (f : GxT) (pa o : Nat) : Nat := pa + o / 64 * f.blockBytes

/-- An access of `n` bytes at the global address `a` that meets every check of R116, translates to byte `o` of the image of a
format page whose packed blocks stand from `pa` on (R325, R326), lies in one block, and waits for nothing. -/
def State.imgOk (s : State) (rd wr stk : Bool) (a : Word) (n : Nat) (f : GxT) (pa o : Nat) : Prop :=
  a.toNat % n = 0 ∧ (stk = true → s.me.stacklim.toNat ≤ a.toNat) ∧ 2 ^ 32 ≤ a.toNat ∧ isExternal (blockAt f pa o) = false ∧
  o % 64 + n ≤ 64 ∧ (∃ u, s.translate s.ag (if wr then .write else .read) a.toNat = .ok (.fmt f pa o, u)) ∧ s.me.ext = none ∧
  s.me.storing = false ∧ s.core.watched rd wr a.toNat n = false ∧ s.core.cardStall wr a.toNat n = false

/-- Bytes that a read of `n` bytes of an image at `o` may give: they are decoded from the block behind them (R118). -/
def State.imgBytes (s : State) (f : GxT) (pa o n : Nat) (bs : List Byte) : Prop :=
  ∃ b, s.farBytes (blockAt f pa o) f.blockBytes b ∧ bs = ((blockImage f (leVal b)).drop (o % 64)).take n

/-- A packed block whose image has the bytes `new` in place of the old ones: every element of which some byte is new is stored,
and the block is encoded anew (R58, R139). -/
def imgStore (f : GxT) (old : Nat) (new : Nat → Option Byte) : Nat × FFlags :=
  gxStore f old (((List.range 16).filter fun i => (List.range 4).any fun j => (new (4 * i + j)).isSome).map fun i =>
    (i, leVal ((List.range 4).map fun j => (new (4 * i + j)).getD ((blockImage f old).getD (4 * i + j) 0))))

/-- A store of the low `n` bytes of `v` at byte `o` of an image: the block is encoded anew with the flags of that conversion
(R57, R58), and every other byte of device memory, and every byte of the pool, is as before. -/
def ImgStores (i : Instr) (s : State) (len : Nat) (f : GxT) (pa o n : Nat) (v : Word) (upd : Option (BitVec 5 × Word)) : Prop :=
  let q := blockAt f pa o
  let r := imgStore f (s.mem.readLE q f.blockBytes) fun b =>
    if o % 64 ≤ b ∧ b < o % 64 + n then some (BitVec.ofNat 8 (v.toNat / 256 ^ (b - o % 64))) else none
  ∃ t, Retires i s len t ∧ (∀ r, t.xr r = if r = 0 then 0 else match upd with
      | some (u, w) => if r = u then w else s.xr r
      | none => s.xr r) ∧
    t.me.fpflags = s.me.fpflags ||| r.2 ∧ s.keepsFar t ∧ t.mem.readLE q f.blockBytes = r.1 % 256 ^ f.blockBytes ∧
    (∀ b, ¬(q ≤ b ∧ b < q + f.blockBytes) → t.mem.read b = s.mem.read b) ∧ ∀ b, t.core.pool.read b = s.core.pool.read b

/-! Accesses to the external windows. -/

/-- An access of `n` bytes at the global address `a` that meets every check of R116, translates to `pa` in an external window,
is answered where it must be (R331, R380), and waits for nothing. -/
def State.extOk (s : State) (rd wr stk : Bool) (a : Word) (n pa : Nat) : Prop :=
  a.toNat % n = 0 ∧ (stk = true → s.me.stacklim.toNat ≤ a.toNat) ∧ 2 ^ 32 ≤ a.toNat ∧ isExternal pa = true ∧
  (∃ u, s.translate s.ag (if wr then .write else .read) a.toNat = .ok (.phys pa, u)) ∧
  ((∃ p d x, s.me.ext = some ⟨p, d, a, x, some 0⟩) ∨ (s.me.ext = none ∧ isHost pa = false ∧ isPeer pa = false)) ∧
  s.me.storing = false ∧ s.core.watched rd wr a.toNat n = false ∧ s.core.cardStall wr a.toNat n = false

/-- A byte of the device itself that no external write on its way names keeps its value. -/
def State.keepsInside (s t : State) : Prop :=
  ∀ b, isExternal b = false → (∀ w ∈ s.extw, ¬(w.pa ≤ b ∧ b < w.pa + w.bs.length)) → t.mem.read b = s.mem.read b

/-- A load of `n` bytes at `pa` of an external window: it retires with the number that stands there after it in X[d]; no byte of
the pool changes, and of memory only what outside agents, and external writes on their way, have written. -/
def ExtLoads (i : Instr) (s : State) (len : Nat) (d : BitVec 5) (pa n : Nat) (f : Nat → Word) (upd : Option (BitVec 5 × Word)) :
    Prop :=
  ∃ t, Retires i s len t ∧ (∀ r, t.xr r = if r = 0 then 0 else match upd with
      | some (u, w) => if r = u then w else if r = d then f (t.mem.readLE pa n) else s.xr r
      | none => if r = d then f (t.mem.readLE pa n) else s.xr r) ∧
    t.me.fpflags = s.me.fpflags ∧ s.keepsFar t ∧ (∀ b, t.core.pool.read b = s.core.pool.read b) ∧ s.keepsInside t

/-- A store of `n` bytes at `pa` of an external window: it retires with its bytes on their way to their home, as the last of the
writes on their way, and its context's access outstanding (R163, R255); no byte of memory or of the pool changes. -/
def ExtStores (i : Instr) (s : State) (len pa n : Nat) (v : Word) (upd : Option (BitVec 5 × Word)) : Prop :=
  ∃ t, Retires i s len t ∧ (∀ r, t.xr r = if r = 0 then 0 else match upd with
      | some (u, w) => if r = u then w else s.xr r
      | none => s.xr r) ∧
    t.me.fpflags = s.me.fpflags ∧ s.keepsFar t ∧ t.me.extOut = true ∧
    t.extw = s.extw ++ [⟨s.cur, s.ctx, (s.taskLaunch s.cur).map fun p => p.2.seq, pa, leOf n v.toNat⟩] ∧
    (∀ b, t.mem.read b = s.mem.read b) ∧ ∀ b, t.core.pool.read b = s.core.pool.read b

/-- An atomic at `pa` of an external window: of some value `o` that stands there, `f o` goes to X[d], and `g o` takes its place
where there is one; the flags `fl o` are set. -/
def ExtAtomic (i : Instr) (s : State) (len : Nat) (d : BitVec 5) (pa n : Nat) (f : Nat → Word) (g : Nat → Option Nat)
    (fl : Nat → FFlags) : Prop :=
  ∃ t o, o < 256 ^ n ∧ Retires i s len t ∧ (∀ r, t.xr r = if r = 0 then 0 else if r = d then f o else s.xr r) ∧
    t.me.fpflags = s.me.fpflags ||| fl o ∧ s.keepsFar t ∧ t.mem.readLE pa n = ((g o).getD o) % 256 ^ n ∧
    (∀ b, t.core.pool.read b = s.core.pool.read b) ∧ s.keepsInside t

/-- A scalar load: in the scratchpad, in device memory, in the image of a format page, and in an external window. -/
def Loads (i : Instr) (s : State) (len : Nat) (t : IntT) (d : BitVec 5) (stk : Bool) (a : Word)
    (upd : Option (BitVec 5 × Word)) : Prop :=
  (s.padOk true false stk a t.size → PadLoads i s len d (t.ext (s.core.pool.readLE a.toNat t.size)) upd) ∧
  (∀ pa, s.farOk true false stk a t.size pa → FarLoads i s len d pa t.size t.ext upd) ∧
  (∀ f pa o, s.imgOk true false stk a t.size f pa o → MemLoads i s len d (s.imgBytes f pa o t.size) t.ext upd) ∧
  (s.unlogged → ∀ pa, s.extOk true false stk a t.size pa → ExtLoads i s len d pa t.size t.ext upd)
/-- A scalar store. -/
def Stores (i : Instr) (s : State) (len : Nat) (stk : Bool) (a : Word) (n : Nat) (v : Word) (upd : Option (BitVec 5 × Word)) :
    Prop :=
  (s.padOk false true stk a n → PadStores i s len a n v upd) ∧
  (∀ pa, s.farOk false true stk a n pa → FarStores i s len pa n v upd) ∧
  (∀ f pa o, s.imgOk true true stk a n f pa o → ImgStores i s len f pa o n v upd) ∧
  ∀ pa, s.extOk false true stk a n pa → ExtStores i s len pa n v upd
/-- An atomic. -/
def Atomic (i : Instr) (s : State) (len : Nat) (d : BitVec 5) (stk : Bool) (a : Word) (n : Nat) (f : Nat → Word)
    (g : Nat → Option Nat) (fl : Nat → FFlags) : Prop :=
  (s.padOk true true stk a n → PadAtomic i s len d a n f g fl) ∧
  (∀ pa, s.farOk true true stk a n pa → FarAtomic i s len d pa n f g fl) ∧
  ∀ pa, s.extOk true true stk a n pa → isHost pa = false ∨ s.atomicOps = true → ExtAtomic i s len d pa n f g fl

/-- The lanes of a vector access whose addresses translate, one by one, as `pa` tells, to device memory, the lanes of one
aligned span of 128 bytes side by side, and which wait for nothing. -/
def State.farLanes (s : State) (wr stk : Bool) (z : Nat) (ls : List Lane) (pa : Word → Nat) : Prop :=
  (∃ u, s.lanesCheck (if wr then .write else .read) stk z ls = .ok (ls.map fun l => (Place.phys (pa l.a), l), u)) ∧
  s.me.storing = false ∧
  (∀ l ∈ ls, isExternal (pa l.a) = false ∧ s.core.watched (!wr) wr l.a.toNat z = false ∧ s.core.cardStall wr l.a.toNat z = false) ∧
  ∀ l ∈ ls, ∀ m ∈ ls, l.a.toNat / 128 = m.a.toNat / 128 → pa l.a + m.a.toNat = pa m.a + l.a.toNat

/-- A vector load whose lanes that take part all lie in device memory: each of them takes bytes that its read may give, every
other lane keeps its value (R88), and of the pool only the register's row changes. -/
def FarVLoads (i : Instr) (s : State) (len : Nat) (t : Type4) (k : BitVec 3) (d : BitVec 5) (at' : Nat → Nat)
    (upd : Option (BitVec 5 × Word)) : Prop :=
  ∃ u, Retires i s len u ∧
    (∀ j, j < 1024 / t.bits → if s.act k j then ∃ bs, s.farBytes (at' j) (elemBytes t) bs ∧ laneOf t.bits (u.vr d) j = leVal bs
      else laneOf t.bits (u.vr d) j = laneOf t.bits (s.vr d) j) ∧
    (∀ r, u.xr r = if r = 0 then 0 else match upd with
      | some (b, w) => if r = b then w else s.xr r
      | none => s.xr r) ∧
    u.me.fpflags = s.me.fpflags ∧ s.keepsFar u ∧ (∀ b, b / 128 ≠ s.vrow d → u.core.pool.read b = s.core.pool.read b) ∧
    ∀ b, u.mem.read b = s.mem.read b

/-- A vector store whose lanes that take part all lie in device memory: the bytes of a lane that no higher lane names hold its
value, and a byte that no lane names is as before (R137). -/
def FarVStores (i : Instr) (s : State) (len : Nat) (t : Type4) (k : BitVec 3) (d : BitVec 5) (at' : Nat → Nat)
    (upd : Option (BitVec 5 × Word)) : Prop :=
  let z := elemBytes t
  let on (j : Nat) : Prop := j < 1024 / t.bits ∧ s.act k j = true
  ∃ u, Retires i s len u ∧
    (∀ j, on j → (∀ m, on m → j < m → at' m + z ≤ at' j ∨ at' j + z ≤ at' m) →
      u.mem.readLE (at' j) z = laneOf t.bits (s.vr d) j) ∧
    (∀ r, u.xr r = if r = 0 then 0 else match upd with
      | some (b, w) => if r = b then w else s.xr r
      | none => s.xr r) ∧
    u.me.fpflags = s.me.fpflags ∧ s.keepsFar u ∧ (∀ b, u.core.pool.read b = s.core.pool.read b) ∧
    ∀ b, (∀ j, on j → ¬(at' j ≤ b ∧ b < at' j + z)) → u.mem.read b = s.mem.read b

/-! Vector accesses whose lanes lie in several of these. -/

/-- The place `n` bytes further on. -/
def Place.plus (p : Place) (n : Nat) : Place :=
  match p with
  | .pool o => .pool (o + n)
  | .phys pa => .phys (pa + n)
  | .ctl pa => .ctl (pa + n)
  | .fmt f pa o => .fmt f pa (o + n)
/-- A place of `z` bytes in the scratchpad, in device memory or in one block of a format page. -/
def Place.near (p : Place) (z : Nat) : Prop :=
  match p with
  | .pool _ => True
  | .phys pa => isExternal pa = false
  | .ctl _ => False
  | .fmt f pa o => isExternal (blockAt f pa o) = false ∧ o % 64 + z ≤ 64
/-- Bytes that a read of `n` bytes at such a place may give. -/
def State.nearBytes (s : State) (p : Place) (n : Nat) (bs : List Byte) : Prop :=
  match p with
  | .pool o => bs = s.core.pool.bytes o n
  | .phys pa => s.farBytes pa n bs
  | .ctl _ => False
  | .fmt f pa o => s.imgBytes f pa o n bs

/-- The lanes of a vector access, each at a near place as `pl` tells, the lanes of one aligned span of 128 bytes side by side,
and which wait for nothing. -/
def State.nearLanes (s : State) (rd wr stk : Bool) (z : Nat) (ls : List Lane) (pl : Word → Place) : Prop :=
  (∃ u, s.lanesCheck (if wr then .write else .read) stk z ls = .ok (ls.map fun l => (pl l.a, l), u)) ∧
  s.me.storing = false ∧
  (∀ l ∈ ls, (pl l.a).near z ∧ s.core.watched rd wr l.a.toNat z = false ∧ s.core.cardStall wr l.a.toNat z = false) ∧
  ∀ l ∈ ls, ∀ m ∈ ls, l.a.toNat / 128 = m.a.toNat / 128 → l.a.toNat ≤ m.a.toNat →
    pl m.a = (pl l.a).plus (m.a.toNat - l.a.toNat)

/-- A vector load of such lanes: each lane that takes part takes bytes that its read may give, every other lane keeps its value
(R88), and of the pool only the register's row changes. -/
def NearVLoads (i : Instr) (s : State) (len : Nat) (t : Type4) (k : BitVec 3) (d : BitVec 5) (pl : Nat → Place)
    (upd : Option (BitVec 5 × Word)) : Prop :=
  ∃ u, Retires i s len u ∧
    (∀ j, j < 1024 / t.bits → if s.act k j then ∃ bs, s.nearBytes (pl j) (elemBytes t) bs ∧ laneOf t.bits (u.vr d) j = leVal bs
      else laneOf t.bits (u.vr d) j = laneOf t.bits (s.vr d) j) ∧
    (∀ r, u.xr r = if r = 0 then 0 else match upd with
      | some (b, w) => if r = b then w else s.xr r
      | none => s.xr r) ∧
    u.me.fpflags = s.me.fpflags ∧ s.keepsFar u ∧ (∀ b, b / 128 ≠ s.vrow d → u.core.pool.read b = s.core.pool.read b) ∧
    ∀ b, u.mem.read b = s.mem.read b

/-- Does a place hold byte `b` of the pool, or of device memory, among its `z` bytes? -/
def Place.inPool (p : Place) (z b : Nat) : Prop := ∃ o, p = .pool o ∧ o ≤ b ∧ b < o + z
def Place.inMem (p : Place) (z b : Nat) : Prop := ∃ pa, p = .phys pa ∧ pa ≤ b ∧ b < pa + z

/-- A vector store whose lanes lie in the scratchpad or in device memory: the bytes of a lane that no higher lane names hold its
value, and a byte that no lane names is as before (R137). -/
def MixVStores (i : Instr) (s : State) (len : Nat) (t : Type4) (k : BitVec 3) (d : BitVec 5) (pl : Nat → Place)
    (upd : Option (BitVec 5 × Word)) : Prop :=
  let z := elemBytes t
  let on (j : Nat) : Prop := j < 1024 / t.bits ∧ s.act k j = true
  let later (j : Nat) (named : Place → Nat → Nat → Prop) (b : Nat) : Prop := ∃ m, on m ∧ j < m ∧ named (pl m) z b
  ∃ u, Retires i s len u ∧
    (∀ j o, on j → pl j = .pool o → (∀ b, o ≤ b → b < o + z → ¬later j Place.inPool b) →
      u.core.pool.readLE o z = laneOf t.bits (s.vr d) j) ∧
    (∀ j pa, on j → pl j = .phys pa → (∀ b, pa ≤ b → b < pa + z → ¬later j Place.inMem b) →
      u.mem.readLE pa z = laneOf t.bits (s.vr d) j) ∧
    (∀ r, u.xr r = if r = 0 then 0 else match upd with
      | some (b, w) => if r = b then w else s.xr r
      | none => s.xr r) ∧
    u.me.fpflags = s.me.fpflags ∧ s.keepsFar u ∧
    (∀ b, (∀ j, on j → ¬(pl j).inPool z b) → u.core.pool.read b = s.core.pool.read b) ∧
    ∀ b, (∀ j, on j → ¬(pl j).inMem z b) → u.mem.read b = s.mem.read b

/-- A vector store whose lanes all lie in one block of a format page: the block is encoded anew once, with the bytes of every
lane, of which a higher one replaces a lower one, and no flag is set (R134, R139). -/
def ImgVStores (i : Instr) (s : State) (len : Nat) (t : Type4) (k : BitVec 3) (d : BitVec 5) (f : GxT) (q : Nat)
    (pos : Nat → Nat) (upd : Option (BitVec 5 × Word)) : Prop :=
  let z := elemBytes t
  let at' (b : Nat) : Option Nat := (List.range (1024 / t.bits)).reverse.find? fun j =>
    s.act k j && decide (pos j ≤ b) && decide (b < pos j + z)
  let r := imgStore f (s.mem.readLE q f.blockBytes) fun b =>
    (at' b).map fun j => BitVec.ofNat 8 (laneOf t.bits (s.vr d) j / 256 ^ (b - pos j))
  ∃ u, Retires i s len u ∧ u.mem.readLE q f.blockBytes = r.1 % 256 ^ f.blockBytes ∧
    (∀ r, u.xr r = if r = 0 then 0 else match upd with
      | some (b, w) => if r = b then w else s.xr r
      | none => s.xr r) ∧
    u.me.fpflags = s.me.fpflags ∧ s.keepsFar u ∧ (∀ b, u.core.pool.read b = s.core.pool.read b) ∧
    ∀ b, ¬(q ≤ b ∧ b < q + f.blockBytes) → u.mem.read b = s.mem.read b

/-- A vector load of lanes at `addr`: in the scratchpad, in device memory, and with lanes in either and in format pages. -/
def VLoads (i : Instr) (s : State) (len : Nat) (t : Type4) (k : BitVec 3) (d : BitVec 5) (stk : Bool) (addr : Nat → Word)
    (upd : Option (BitVec 5 × Word)) : Prop :=
  let ls : List Lane := (s.actives t k).map fun j => ⟨addr j, []⟩
  (s.lanesOk true false stk t k addr → PadVLoads i s len t k d addr upd) ∧
  (∀ pa, s.farLanes false stk (elemBytes t) ls pa → FarVLoads i s len t k d (fun j => pa (addr j)) upd) ∧
  ∀ pl, s.nearLanes true false stk (elemBytes t) ls pl → NearVLoads i s len t k d (fun j => pl (addr j)) upd
/-- A vector store; its lanes in format pages all lie in one block. -/
def VStores (i : Instr) (s : State) (len : Nat) (t : Type4) (k : BitVec 3) (d : BitVec 5) (stk : Bool) (addr : Nat → Word)
    (upd : Option (BitVec 5 × Word)) : Prop :=
  let ls : List Lane := (s.actives t k).map fun j => ⟨addr j, leOf (elemBytes t) ((lanes t.bits (s.vr d)).getD j 0)⟩
  (s.lanesOk false true stk t k addr → PadVStores i s len t k d addr upd) ∧
  (∀ pa, s.farLanes true stk (elemBytes t) ls pa → FarVStores i s len t k d (fun j => pa (addr j)) upd) ∧
  (∀ pl, s.nearLanes false true stk (elemBytes t) ls pl → (∀ l ∈ ls, blockKey (pl l.a) = none) →
    MixVStores i s len t k d (fun j => pl (addr j)) upd) ∧
  ∀ pl f q, ls ≠ [] → s.nearLanes true true stk (elemBytes t) ls pl → (∀ l ∈ ls, blockKey (pl l.a) = some (f, q)) →
    ImgVStores i s len t k d f q (fun j => lanePos (pl (addr j), ⟨addr j, []⟩)) upd

/-- discard of `i` rows that may be written and wait for nothing (R164): every row reads zero and its generation is one higher,
and every other byte is as before. -/
def DiscardRows (s : State) (a n : BitVec 5) (i : Nat) : Prop :=
  let base := (s.xr a).toNat
  base % 128 = 0 → (∀ j, j < i → s.padOk false true false (s.xr a + word (128 * j)) 128) →
    ∃ t, Retires (.discard a n) s 4 t ∧
      (∀ r, t.core.pool.read r = if base ≤ r ∧ r < base + 128 * i then 0 else s.core.pool.read r) ∧
      (∀ j, j < i → Table.get 0 t.core.rowGen (base / 128 + j) = Table.get 0 s.core.rowGen (base / 128 + j) + 1) ∧
      (∀ r, t.xr r = s.xr r) ∧ s.keeps t

/-- Does a place of one line of 128 bytes hold byte `b` of device memory, in a format page among the packed blocks behind
it (R164, R326)? -/
def Place.lineHas (p : Place) (b : Nat) : Prop :=
  match p with
  | .phys pa => pa ≤ b ∧ b < pa + 128
  | .fmt f pa o => blockAt f pa o ≤ b ∧ b < blockAt f pa o + 2 * f.blockBytes
  | _ => False
/-- Is a place in device memory, or in a format page? -/
def Place.device : Place → Prop
  | .phys pa => isExternal pa = false
  | .fmt f pa o => isExternal (blockAt f pa o) = false
  | _ => False

/-- discard of `i` lines at global addresses that translate for a write and wait for nothing (R164): every byte of them is zero,
and every other byte of device memory, and every byte of the pool, is as before. -/
def DiscardLines (s : State) (a n : BitVec 5) (i : Nat) : Prop :=
  let ls := linesOf (s.xr a) (128 * i)
  ∀ pl : Word → Place, (s.xr a).toNat % 128 = 0 → 2 ^ 32 ≤ (s.xr a).toNat → s.me.storing = false →
    (∃ u, s.discardCheck ls = .ok (ls.map fun l => (pl l, l), u)) →
    (∀ l ∈ ls, (pl l).device ∧ s.core.watched false true l.toNat 128 = false ∧ s.core.cardStall true l.toNat 128 = false) →
    ∃ t, Retires (.discard a n) s 4 t ∧ (∀ b, (∃ l ∈ ls, (pl l).lineHas b) → t.mem.read b = 0) ∧
      (∀ b, (∀ l ∈ ls, ¬(pl l).lineHas b) → t.mem.read b = s.mem.read b) ∧
      (∀ b, t.core.pool.read b = s.core.pool.read b) ∧ (∀ r, t.xr r = s.xr r) ∧ t.me.fpflags = s.me.fpflags ∧ s.keepsFar t

end Sys2Proof.Machine

namespace Sys2Proof
open Machine

/-! Functions of the lanes of a vector type: by its format with FPFLAGS for a floating-point type, by its width for any
other. -/

/-- Two lanes, with no flag for integers. -/
def LaneT.floatOr (y : LaneT) (ff : Fmt → Nat → Nat → Nat × FFlags) (fi : Nat → Nat → Nat → Nat) (x z : Nat) : Nat × Flags :=
  match y.fmt with
  | some f => ((ff f x z).1, ⟨(ff f x z).2, 0⟩)
  | none => (fi y.bits x z, Flags.none)
/-- Two lanes, a quotient for integers with its ISTAT bits. -/
def LaneT.floatOr2 (y : LaneT) (ff : Fmt → Nat → Nat → Nat × FFlags) (fi : Nat → Nat → Nat → Nat × Nat × BitVec 3) (x z : Nat) :
    Nat × Flags :=
  match y.fmt with
  | some f => ((ff f x z).1, ⟨(ff f x z).2, 0⟩)
  | none => ((fi y.bits x z).1, ⟨0, (fi y.bits x z).2.2⟩)
/-- One lane. -/
def LaneT.floatOr1 (y : LaneT) (ff : Fmt → Nat → Nat × FFlags) (fi : Nat → Nat → Nat) (x : Nat) : Nat × Flags :=
  match y.fmt with
  | some f => ((ff f x).1, ⟨(ff f x).2, 0⟩)
  | none => (fi y.bits x, Flags.none)
/-- The exact result of two lanes as signed or unsigned integers, clamped to the range of the type; SAT where it clamps
(R140). -/
def LaneT.saturated (y : LaneT) (signed : Bool) (f : Int → Int → Int) (x z : Nat) : Nat × Flags :=
  let r := f (intVal y.bits signed x) (intVal y.bits signed z)
  let lo := intMin y.bits signed
  let hi := intMax y.bits signed
  if r < lo then (wrap y.bits lo, ⟨0, iSAT⟩) else if hi < r then (wrap y.bits hi, ⟨0, iSAT⟩) else (wrap y.bits r, Flags.none)
/-- ±(x × z) ± d, rounded once, or modulo 2^w (R142). -/
def LaneT.fma (y : LaneT) (r : Rnd) (negP negD : Bool) (d x z : Nat) : Nat × Flags :=
  match y.fmt with
  | some f => ((f.fma r x z d negP negD).1, ⟨(f.fma r x z d negP negD).2, 0⟩)
  | none => (wrap y.bits ((if negP then -1 else 1) * ((x : Int) * z) + (if negD then -1 else 1) * d), Flags.none)
/-- d plus the products of some lanes (R63, R143). -/
def LaneT.dot (y : LaneT) (r : Rnd) (d : Nat) (xs zs : List Nat) : Nat × Flags :=
  match y.fmt with
  | some f => dotFlt f r d xs zs
  | none => dotInt y.bits d xs zs
/-- A lane in an x register: sign-extended for the i types (R147). -/
def LaneT.laneToX (y : LaneT) (v : Nat) : Word := if y.isI then BitVec.ofInt 64 (sgn y.bits v) else BitVec.ofNat 64 v

end Sys2Proof

namespace Sys2Proof.Machine

/-- The short and the extended form of an instruction on two vector sources: every lane of V[a] that takes part is
written by `f`, or `g` in the extended form. -/
def LaneOps (i j : Instr) (s : State) (k : BitVec 2) (q : BitVec 3) (y : LaneT) (a b c : BitVec 5) (f g : Nat → Nat → Nat × Flags) :
    Prop :=
  (s.ready [.v a, .v b, .v c, .m (k.setWidth 3)] → Retires i s 4
    (s.vwrite y.bits (k.setWidth 3) a (lanes y.bits (s.vr b)) (lanes y.bits (s.vr c)) fun _ _ x z => f x z)) ∧
  (s.ready [.v a, .v b, .v c, .m q] → Retires j s 12
    (s.vwrite y.bits q a (lanes y.bits (s.vr b)) (lanes y.bits (s.vr c)) fun _ _ x z => g x z))

/-- The same on one source, with the effect on a state that differs from `s` in what the instruction may take: `f` has
the number of the lane and the lane. -/
def LaneOps1At (u : State) (i j : Instr) (s : State) (k : BitVec 2) (q : BitVec 3) (y : LaneT) (a b : BitVec 5)
    (f : Nat → Nat → Nat × Flags) : Prop :=
  (s.ready [.v a, .v b, .m (k.setWidth 3)] → Retires i s 4
    (u.vwrite y.bits (k.setWidth 3) a (lanes y.bits (s.vr b)) (lanes y.bits (s.vr b)) fun l _ x _ => f l x)) ∧
  (s.ready [.v a, .v b, .m q] → Retires j s 12
    (u.vwrite y.bits q a (lanes y.bits (s.vr b)) (lanes y.bits (s.vr b)) fun l _ x _ => f l x))
def LaneOps1 (i j : Instr) (s : State) (k : BitVec 2) (q : BitVec 3) (y : LaneT) (a b : BitVec 5) (f : Nat → Nat → Nat × Flags) :
    Prop := LaneOps1At s i j s k q y a b f

/-- The effect of a compare of lanes of two rows into M[a] (R141). -/
def State.compared (s : State) (k a : BitVec 3) (w : Nat) (f : Nat → Nat → Bool × FFlags) (x z : Nat) : State :=
  let r (i : Nat) : Bool × FFlags := if s.act k i then f (laneOf w x i) (laneOf w z i) else (s.act a i, 0)
  (s.setM a (BitVec.ofNat 128 (((List.range (1024 / w)).map fun i => if (r i).1 then 2 ^ i else 0).sum))).setFp
    ((List.range (1024 / w)).foldr (fun i fl => (r i).2 ||| fl) 0)

/-- The `n` lanes of V[v] that lie in its `j`-th lane of 32 bits (R143). -/
def State.parts (s : State) (y : LaneT) (n : Nat) (v : BitVec 5) (j : Nat) : List Nat :=
  (List.range n).map fun i => s.vr v / 2 ^ (32 * j + y.bits * i) % 2 ^ y.bits

/-- V[a] with `f i` in each lane `i` that takes part. -/
def State.permuted (s : State) (k : BitVec 3) (y : LaneT) (a : BitVec 5) (f : Nat → Nat) : State :=
  s.setV a (ofLanes y.bits ((List.range (1024 / y.bits)).map fun i => if s.act k i then f i else laneOf y.bits (s.vr a) i))

/-- The reduction of the lanes of V[b] that take part in lane 0 of V[a] (R62, R149). -/
def State.reduced (s : State) (k : BitVec 3) (y : LaneT) (o : RedOp) (a b : BitVec 5) : State :=
  let xs := (List.range (1024 / y.bits)).map fun i => if s.act k i then laneOf y.bits (s.vr b) i else o.ident (LaneT.elemT y)
  let r := tree (o.ap (LaneT.elemT y)) 7 xs
  (s.setV a (r.1 % 2 ^ y.bits + s.vr a / 2 ^ y.bits * 2 ^ y.bits)).setFp r.2

/-- The scan of the lanes of V[b] that take part in those lanes of V[a] (R147). -/
def State.scanned (s : State) (k : BitVec 3) (y : LaneT) (o : RedOp) (a b : BitVec 5) : State :=
  let xs := (List.range (1024 / y.bits)).map fun i => if s.act k i then laneOf y.bits (s.vr b) i else o.ident (LaneT.elemT y)
  let r := scanLanes o (LaneT.elemT y) xs
  (s.permuted k y a fun i => r.1.getD i 0).setFp r.2

/-! Shape-form instructions. -/

/-- Where a shape-form instruction stands when it makes its next step: `run` is the progress that its context keeps, or it
begins at CURSOR of records that pass every stage of R75; `u` is the state with the records read (R74). -/
def State.shapeAt (s : State) (ops : List Opnd) (ok : Type4 → Bool) (types red : Bool) (u : State) (run : ShapeRun) (d : Rec) :
    Prop :=
  (s.me.shape = some run ∧ u = s) ∨
  (s.me.shape = none ∧ run.check = false ∧ s.validate ops ok types red = .ok (.good run.recs, u) ∧ d.cursor < d.count ∧
    run.cur = if d.gx then d.cursor / 16 * 16 else d.cursor)

/-- What a shape-form instruction does: a step that is not the last leaves its context to go on with the next; the last one
sets CURSOR to 0, and the instruction retires; a record that fails a stage faults with that stage's cause and TVAL; records
of which one has no elements, and a CURSOR that is not below the count, set CURSOR to 0 (R74, R75). -/
def ShapeForm (i : Instr) (s : State) (us : List Use) (ops : List Opnd) (ok : Type4 → Bool) (types red : Bool)
    (step : State → ShapeRun → ShStep) : Prop :=
  s.ready us →
  (∀ (u v w : State) (run : ShapeRun) (d : Rec) (rest : List Rec), recsOf run.recs = d :: rest →
    s.shapeAt ops ok types red u run d →
    (run.cur + (step u run).n < d.count → u.poolReady (step u run).accs = .ok v → (step u run).act v = .ok w →
      exec i s = .next ((w.updMe fun c => { c with shape := some { run with cur := run.cur + (step u run).n } }).setWait .none)) ∧
    (d.count ≤ run.cur + (step u run).n → u.poolReady ((step u run).accs ++ [(true, d.addr + 24, 4)]) = .ok v →
      (step u run).act v = .ok w → ∀ x, w.setCursor d.addr 0 = .ok x →
        Retires i s 12 (x.updMe fun c => { c with shape := none }))) ∧
  (s.me.shape = none → ∀ u,
    (∀ j e, s.validate ops ok types red = .ok (.bad j e, u) → Traps i s e.1 e.2) ∧
    (∀ o rest v w, ops = o :: rest → s.validate ops ok types red = .ok (.empty, u) →
      u.poolReady [(true, o.2.1 + 24, 4)] = .ok v → v.setCursor o.2.1 0 = .ok w → Retires i s 12 w) ∧
    (∀ raw d rest v w, s.validate ops ok types red = .ok (.good raw, u) → recsOf raw = d :: rest → d.count ≤ d.cursor →
      u.poolReady [(true, d.addr + 24, 4)] = .ok v → v.setCursor d.addr 0 = .ok w → Retires i s 12 w))

/-! Barriers. -/

/-- TryComplete on the fields of a barrier (R168). -/
def Barrier.tried (v : Barrier) : Barrier :=
  if v.arr = v.exp ∧ v.barr = v.bexp then
    { v with phase := !v.phase, exp := v.exp - v.drops, arr := 0, drops := 0, barr := 0, bexp := 0 }
  else v

/-- PEND, APH and DROPPED of a context on a barrier (R166). -/
def Ctx.marks (x : Ctx) (b : Nat) : Bool × Bool × Bool := (x.isPend b, x.isAph b, x.isDropped b)

/-- A barrier function of the executing context retires with the fields `w` of barrier `b`, but for the timestamp of the
event, and the marks `marks j` of each context `j` of its core there; every other barrier of the core keeps its fields. -/
def BarMakes (i : Instr) (s : State) (len b : Nat) (w : Barrier) (marks : Nat → Bool × Bool × Bool) : Prop :=
  ∃ t, Retires i s len t ∧ { t.barAt s.cur b with ts := w.ts } = w ∧ (∀ c, c ≠ b → t.barAt s.cur c = s.barAt s.cur c) ∧
    ∀ j, (t.core.ctxAt j).marks b = marks j

/-- LINKED_BARRIER_EVENT makes the oldest event, of context `j` of core `src`, at the core that holds barrier `b`: the fields
there become `w`, but for the timestamp of the event, and the context has the answer `a`, its wait as `wait` gives, and the
marks `marks`. -/
def LinkedMakes (s : State) (src j b : Nat) (w : Barrier) (marks : Bool × Bool × Bool) (a : Option BarAns) (wait : Wait) : Prop :=
  ∃ t, exec .linkedBarrierEvent s = .next t ∧ { t.barAt (s.barHolder src b) b with ts := w.ts } = w ∧
    ((t.coreAt src).ctxAt j).marks b = marks ∧ ((t.coreAt src).ctxAt j).bans = a ∧ ((t.coreAt src).ctxAt j).wait = wait

/-- A barrier function of a context whose event is not made at once (R170): it waits while its link is pending, while its holder
does not run, and while 32 packets of its core are on their way; else it sends the event `fn` with `n` to the holder and waits;
with the answer it retires with `r`, or faults. -/
def BarSends (i : Instr) (s : State) (len b : Nat) (fn : BarFn) (n : Word) (r : Word → State → State) : Prop :=
  let h := s.barHolder s.cur b
  let waits : Prop := exec i s = .next (s.setWait .other)
  (∀ c v, s.me.bans = some (.bad c v) → Traps i s c v) ∧
  (∀ v, s.me.bans = some (.ok v) → Retires i s len (r v (s.updMe fun x => { x with bans := none }))) ∧
  (s.me.bans = some .sent → waits) ∧
  (s.me.bans = none → (s.barAt s.cur b).want ≠ 0 → waits) ∧
  (s.me.bans = none → (s.barAt s.cur b).want = 0 → h ≠ s.cur →
    ((s.coreAt h).hstat ≠ .running ∨ 32 ≤ s.outbound s.cur → waits) ∧
    ((s.coreAt h).hstat = .running → s.outbound s.cur < 32 → exec i s =
      .next ((({ s with barq := s.barq ++ [(h, .bar b s.cur s.ctx fn.code n)] } : State).updMe fun x =>
        { x with bans := some .sent }).setWait .other)))

/-! Instructions on registers alone. -/

/-- A register. -/
inductive Dest where
  | x (n : BitVec 5)
  | v (n : BitVec 5)
  | m (n : BitVec 3)
deriving DecidableEq, Repr

/-- The one register that an instruction on registers writes: the integer and scalar floating-point groups, the vector
arithmetic, permutes, reductions, compares and mask instructions (R107 to R114, R140 to R150). -/
def dest : Instr → Option Dest
  | .add d _ _ | .sub d _ _ | .andX d _ _ | .orX d _ _ | .xorX d _ _ | .andn d _ _ | .orn d _ _ | .brev d _ |
    .sll d _ _ | .srl d _ _ | .sra d _ _ | .rol d _ _ | .ror d _ _ | .slt d _ _ | .sltu d _ _ | .minX d _ _ |
    .maxX d _ _ | .minu d _ _ | .maxu d _ _ | .mul d _ _ | .mulh d _ _ | .mulhu d _ _ | .div d _ _ | .divu d _ _ |
    .rem d _ _ | .remu d _ _ | .clz d _ | .ctz d _ | .popc d _ | .bswap d _ | .sext d _ _ | .zext d _ _ |
    .addi d _ _ | .addiLit d _ _ | .andi d _ _ | .andiLit d _ _ | .ori d _ _ | .oriLit d _ _ | .xori d _ _ |
    .xoriLit d _ _ | .slti d _ _ | .sltiLit d _ _ | .sltiu d _ _ | .sltiuLit d _ _ | .slli d _ _ | .srli d _ _ |
    .srai d _ _ | .rori d _ _ | .lui d _ | .pcadd d _ | .pcaddLit d _ | .li d _ | .lea d _ _ _ _ | .leaLit d _ _ _ _ |
    .bfx d _ _ _ | .bfxu d _ _ _ | .bfi d _ _ _ | .csel d _ _ _ | .mad d _ _ _ | .wfield d _ _ | .fadd d _ _ |
    .faddExt d _ _ _ | .fsub d _ _ | .fsubExt d _ _ _ | .fmul d _ _ | .fmulExt d _ _ _ | .fdiv d _ _ |
    .fdivExt d _ _ _ | .fsqrt d _ | .fsqrtExt d _ _ | .fmin d _ _ | .fmax d _ _ | .fmadd d _ _ _ _ | .feq d _ _ |
    .flt d _ _ | .fle d _ _ | .fclass d _ | .fcvti d _ _ | .fcvtf d _ _ | .mpopc d _ | .mfirst d _ | .mtox _ d _ |
    .vext _ d _ _ | .vextExt _ d _ _ => some (.x d)
  | .vadd _ _ d _ _ | .vaddExt _ _ _ d _ _ | .vsub _ _ d _ _ | .vsubExt _ _ _ d _ _ | .vmul _ _ d _ _ |
    .vmulExt _ _ _ d _ _ | .vmin _ _ d _ _ | .vminExt _ _ d _ _ | .vmax _ _ d _ _ | .vmaxExt _ _ d _ _ |
    .vand _ _ d _ _ | .vandExt _ _ d _ _ | .vor _ _ d _ _ | .vorExt _ _ d _ _ | .vxor _ _ d _ _ | .vxorExt _ _ d _ _ |
    .vandn _ _ d _ _ | .vandnExt _ _ d _ _ | .vshl _ _ d _ _ | .vshlExt _ _ d _ _ | .vshr _ _ d _ _ |
    .vshrExt _ _ d _ _ | .vsra _ _ d _ _ | .vsraExt _ _ d _ _ | .vabs _ _ d _ | .vabsExt _ _ d _ | .vneg _ _ d _ |
    .vnegExt _ _ d _ | .vmov _ _ d _ | .vmovExt _ _ d _ | .vsel _ _ d _ _ | .vselExt _ _ d _ _ | .vminu _ _ d _ _ |
    .vminuExt _ _ d _ _ | .vmaxu _ _ d _ _ | .vmaxuExt _ _ d _ _ | .vmulh _ _ d _ _ | .vmulhExt _ _ d _ _ |
    .vmulhu _ _ d _ _ | .vmulhuExt _ _ d _ _ | .vavg _ _ d _ _ | .vavgExt _ _ d _ _ | .vadds _ _ d _ _ |
    .vaddsExt _ _ d _ _ | .vsubs _ _ d _ _ | .vsubsExt _ _ d _ _ | .vaddsu _ _ d _ _ | .vaddsuExt _ _ d _ _ |
    .vsubsu _ _ d _ _ | .vsubsuExt _ _ d _ _ | .vclass _ _ d _ | .vclassExt _ _ d _ | .vfma _ _ d _ _ |
    .vfmaExt _ _ _ d _ _ | .vfms _ _ d _ _ | .vfmsExt _ _ _ d _ _ | .vfnma _ _ d _ _ | .vfnmaExt _ _ _ d _ _ |
    .vfnms _ _ d _ _ | .vfnmsExt _ _ _ d _ _ | .vdot4 _ _ d _ _ | .vdot4Ext _ _ d _ _ | .vdot2 _ _ d _ _ |
    .vdot2Ext _ _ _ d _ _ | .vexp2 _ _ d _ | .vexp2Ext _ _ d _ | .vlog2 _ _ d _ | .vlog2Ext _ _ d _ | .vrcp _ _ d _ |
    .vrcpExt _ _ d _ | .vrsqrt _ _ d _ | .vrsqrtExt _ _ d _ | .vsqrt _ _ d _ | .vsqrtExt _ _ d _ | .vtanh _ _ d _ |
    .vtanhExt _ _ d _ | .vsigm _ _ d _ | .vsigmExt _ _ d _ | .vdiv _ _ d _ _ | .vdivExt _ _ d _ _ |
    .vcvt _ _ _ _ _ d _ | .vpackgx _ _ d _ | .vunpackgx _ _ _ d _ | .vperm _ _ d _ _ | .vpermExt _ _ d _ _ |
    .vslideup _ _ d _ _ | .vslideupExt _ _ d _ _ | .vslidedn _ _ d _ _ | .vslidednExt _ _ d _ _ | .vbcast _ _ d _ |
    .vbcastExt _ _ d _ | .vins _ _ d _ _ | .vinsExt _ _ d _ _ | .vzip _ _ d _ _ | .vzipExt _ _ d _ _ |
    .vunzip _ _ d _ | .vunzipExt _ _ d _ | .vrev _ _ d _ | .vrevExt _ _ d _ | .vscanAdd _ _ d _ |
    .vscanAddExt _ _ _ d _ | .vscanMax _ _ d _ | .vscanMaxExt _ _ _ d _ | .vredAdd _ _ d _ | .vredAddExt _ _ _ d _ |
    .vredMax _ _ d _ | .vredMaxExt _ _ d _ | .vredMin _ _ d _ | .vredMinExt _ _ d _ => some (.v d)
  | .vcmpEq _ _ _ _ d | .vcmpEqExt _ _ _ _ d | .vcmpNe _ _ _ _ d | .vcmpNeExt _ _ _ _ d | .vcmpLt _ _ _ _ d |
    .vcmpLtExt _ _ _ _ d | .vcmpLe _ _ _ _ d | .vcmpLeExt _ _ _ _ d | .vcmpLtu _ _ _ _ d | .vcmpLtuExt _ _ _ _ d |
    .vcmpLeu _ _ _ _ d | .vcmpLeuExt _ _ _ _ d | .mand d _ _ | .mor d _ _ | .mxor d _ _ | .mandn d _ _ | .mnot d _ |
    .mfromx _ d _ | .mlanes d _ => some (.m d)
  | _ => none

end Sys2Proof.Machine
end

