-- ==== Sys2Proof/Certificates/Slice0/Obligations.lean ====
section
/-! DEFINITION. What is claimed of the machine: the obligations, each a proposition. -/

open Sys2Proof Sys2Proof.Machine


/-- O1 (R107, R106, R40, R43, R105). For every state whose named registers are readable and declared, each INTR
instruction of three registers retires with X[A] set to the value of R107 and nothing else of its effect: the next
state is the old one with X[A] written (a write to x0 is discarded by setX), the pc at the next instruction, and the
single-step trap only where TFLAGS.STEP was set. -/
def Obligations.IntegerRegisterResults : Prop :=
  ∀ (d a c : BitVec 5) (s : State), s.ready [.x d, .x a, .x c] →
    Retires (.add d a c) s 4 (s.setX d (s.xr a + s.xr c)) ∧
    Retires (.sub d a c) s 4 (s.setX d (s.xr a - s.xr c)) ∧
    Retires (.andX d a c) s 4 (s.setX d (s.xr a &&& s.xr c)) ∧
    Retires (.orX d a c) s 4 (s.setX d (s.xr a ||| s.xr c)) ∧
    Retires (.xorX d a c) s 4 (s.setX d (s.xr a ^^^ s.xr c)) ∧
    Retires (.andn d a c) s 4 (s.setX d (s.xr a &&& ~~~(s.xr c))) ∧
    Retires (.orn d a c) s 4 (s.setX d (s.xr a ||| ~~~(s.xr c))) ∧
    Retires (.sll d a c) s 4 (s.setX d (s.xr a <<< ((s.xr c).toNat % 64))) ∧
    Retires (.srl d a c) s 4 (s.setX d (s.xr a >>> ((s.xr c).toNat % 64))) ∧
    Retires (.sra d a c) s 4 (s.setX d ((s.xr a).sshiftRight ((s.xr c).toNat % 64))) ∧
    Retires (.rol d a c) s 4 (s.setX d ((s.xr a).rotateLeft ((s.xr c).toNat % 64))) ∧
    Retires (.ror d a c) s 4 (s.setX d ((s.xr a).rotateRight ((s.xr c).toNat % 64))) ∧
    Retires (.slt d a c) s 4 (s.setX d (if (s.xr a).toInt < (s.xr c).toInt then 1 else 0)) ∧
    Retires (.sltu d a c) s 4 (s.setX d (if (s.xr a).toNat < (s.xr c).toNat then 1 else 0)) ∧
    Retires (.minX d a c) s 4 (s.setX d (if (s.xr a).toInt < (s.xr c).toInt then s.xr a else s.xr c)) ∧
    Retires (.maxX d a c) s 4 (s.setX d (if (s.xr a).toInt < (s.xr c).toInt then s.xr c else s.xr a)) ∧
    Retires (.minu d a c) s 4 (s.setX d (if (s.xr a).toNat < (s.xr c).toNat then s.xr a else s.xr c)) ∧
    Retires (.maxu d a c) s 4 (s.setX d (if (s.xr a).toNat < (s.xr c).toNat then s.xr c else s.xr a)) ∧
    Retires (.mul d a c) s 4 (s.setX d (s.xr a * s.xr c)) ∧
    Retires (.mulh d a c) s 4 (s.setX d (BitVec.ofInt 64 ((s.xr a).toInt * (s.xr c).toInt / 2 ^ 64))) ∧
    Retires (.mulhu d a c) s 4 (s.setX d (BitVec.ofNat 64 ((s.xr a).toNat * (s.xr c).toNat / 2 ^ 64)))

/-- O2 (R107, R106). For every state whose named registers are readable and declared, brev, clz, ctz, popc, bswap, sext
and zext retire with X[A] written and nothing else of their effect: bit i moved to bit 63 - i; the counts of leading
zeros, trailing zeros and ones; the bytes reversed; the low 8, 16 or 32 bits sign- or zero-extended. -/
def Obligations.IntegerUnaryResults : Prop :=
  ∀ (d a : BitVec 5) (w : ExtW) (s : State), s.ready [.x d, .x a] →
    Retires (.brev d a) s 4 (s.setX d ((s.xr a).reverse)) ∧
    Retires (.clz d a) s 4 (s.setX d (word (clzFrom (s.xr a) 64))) ∧
    Retires (.ctz d a) s 4 (s.setX d (word (clzFrom (s.xr a).reverse 64))) ∧
    Retires (.popc d a) s 4 (s.setX d (word (popcTo (s.xr a) 64))) ∧
    Retires (.bswap d a) s 4 (s.setX d (bytesRev (s.xr a))) ∧
    Retires (.sext d a w) s 4 (s.setX d (((s.xr a).extractLsb' 0 (extBits w)).signExtend 64)) ∧
    Retires (.zext d a w) s 4 (s.setX d (((s.xr a).extractLsb' 0 (extBits w)).setWidth 64))

/-- O3 (R107, R112). For every value the count that clz writes is at most 64, the bits above its place are zero, and where
it is below 64 the bit just below them is one; byte i of what bswap writes is byte 7 - i of the source; and the number
that popc writes is the number of places below 64 whose bit is one (R107). Bit i of what bfi and wfield write is,
inside the field, the bit of the source at i - pos, and outside it the old bit; bits of the field above 63 are lost
and a width of 0 changes nothing (R112). -/
def Obligations.BitsAndBytesMoved : Prop :=
  (∀ x : Word, (clzFrom x 64 ≤ 64 ∧ (∀ i, 64 ≤ i + clzFrom x 64 → i < 64 → x.getLsbD i = false) ∧
      (clzFrom x 64 < 64 → x.getLsbD (63 - clzFrom x 64) = true)) ∧
    (∀ i, i < 8 → (bytesRev x).extractLsb' (8 * i) 8 = x.extractLsb' (8 * (7 - i)) 8) ∧
    popcTo x 64 = ((List.range 64).filter fun i => x.getLsbD i).length) ∧
  ∀ (old v : Word) (p w i : Nat), p < 64 → i < 64 →
    (insertField old v p w).getLsbD i = if p ≤ i ∧ i < p + w then v.getLsbD (i - p) else old.getLsbD i

/-- O4 (R107, R47, R40). For every state whose named registers are readable and declared, div, divu, rem and remu retire
with X[A] written and the ISTAT flags set that the division of R47 gives, and nothing else of their effect. -/
def Obligations.DivisionResults : Prop :=
  ∀ (d a c : BitVec 5) (s : State), s.ready [.x d, .x a, .x c] →
    Retires (.div d a c) s 4 ((s.setX d (word (intDiv 64 true (s.xr a).toNat (s.xr c).toNat).1)).setIst (intDiv 64 true (s.xr a).toNat (s.xr c).toNat).2.2) ∧
    Retires (.divu d a c) s 4 ((s.setX d (word (intDiv 64 false (s.xr a).toNat (s.xr c).toNat).1)).setIst (intDiv 64 false (s.xr a).toNat (s.xr c).toNat).2.2) ∧
    Retires (.rem d a c) s 4 ((s.setX d (word (intDiv 64 true (s.xr a).toNat (s.xr c).toNat).2.1)).setIst (intDiv 64 true (s.xr a).toNat (s.xr c).toNat).2.2) ∧
    Retires (.remu d a c) s 4 ((s.setX d (word (intDiv 64 false (s.xr a).toNat (s.xr c).toNat).2.1)).setIst (intDiv 64 false (s.xr a).toNat (s.xr c).toNat).2.2)

/-- O5 (R108). For every state whose named registers are readable and declared, addi, andi, ori, xori, slti and sltiu
retire with X[A] written from X[B] and the immediate, sign-extended from 14 bits in the short form (4 bytes) and the
64-bit literal in the long form (12 bytes), and nothing else of their effect. -/
def Obligations.ImmediateResults : Prop :=
  ∀ (d a : BitVec 5) (i : BitVec 14) (l : Word) (s : State), s.ready [.x d, .x a] →
    Retires (.addi d a i) s 4 (s.setX d (s.xr a + i.signExtend 64)) ∧
    Retires (.addiLit d a l) s 12 (s.setX d (s.xr a + l)) ∧
    Retires (.andi d a i) s 4 (s.setX d (s.xr a &&& i.signExtend 64)) ∧
    Retires (.andiLit d a l) s 12 (s.setX d (s.xr a &&& l)) ∧
    Retires (.ori d a i) s 4 (s.setX d (s.xr a ||| i.signExtend 64)) ∧
    Retires (.oriLit d a l) s 12 (s.setX d (s.xr a ||| l)) ∧
    Retires (.xori d a i) s 4 (s.setX d (s.xr a ^^^ i.signExtend 64)) ∧
    Retires (.xoriLit d a l) s 12 (s.setX d (s.xr a ^^^ l)) ∧
    Retires (.slti d a i) s 4 (s.setX d (if (s.xr a).toInt < (i.signExtend 64 : Word).toInt then 1 else 0)) ∧
    Retires (.sltiLit d a l) s 12 (s.setX d (if (s.xr a).toInt < (l).toInt then 1 else 0)) ∧
    Retires (.sltiu d a i) s 4 (s.setX d (if (s.xr a).toNat < (i.signExtend 64 : Word).toNat then 1 else 0)) ∧
    Retires (.sltiuLit d a l) s 12 (s.setX d (if (s.xr a).toNat < (l).toNat then 1 else 0))

/-- O6 (R109, R110, R111). For every state whose named registers are readable and declared, slli, srli, srai and rori
shift or rotate X[B] by the amount of the instruction; lui, pcadd and li write their constants, with PC the address of
the instruction itself; lea writes X[B] + (X[C] << s) + k modulo 2^64; each retires with nothing else of its effect. -/
def Obligations.ShiftAndConstantResults : Prop :=
  ∀ (d a c sh : BitVec 5) (h : BitVec 6) (i : BitVec 19) (k : BitVec 32) (l : Word) (s : State),
    (s.ready [.x d, .x a] →
      Retires (.slli d a h) s 4 (s.setX d (s.xr a <<< h.toNat)) ∧
      Retires (.srli d a h) s 4 (s.setX d (s.xr a >>> h.toNat)) ∧
      Retires (.srai d a h) s 4 (s.setX d ((s.xr a).sshiftRight h.toNat)) ∧
      Retires (.rori d a h) s 4 (s.setX d ((s.xr a).rotateRight h.toNat))) ∧
    (s.ready [.x d] →
      Retires (.lui d i) s 4 (s.setX d ((i ++ 0#13).signExtend 64)) ∧
      Retires (.pcadd d i) s 4 (s.setX d (s.me.pc + (i ++ 0#13).signExtend 64)) ∧
      Retires (.pcaddLit d l) s 12 (s.setX d (s.me.pc + l)) ∧
      Retires (.li d l) s 12 (s.setX d l)) ∧
    (s.ready [.x d, .x a, .x c] →
      Retires (.lea d a c sh k) s 12 (s.setX d (s.xr a + (s.xr c <<< sh.toNat) + k.signExtend 64)) ∧
      Retires (.leaLit d a c sh l) s 20 (s.setX d (s.xr a + (s.xr c <<< sh.toNat) + l)))

/-- O7 (R112). For every state whose named registers are readable and declared, bfx, bfxu, bfi, csel, mad and wfield
retire with X[A] as R112 gives it: the field of X[B] sign- or zero-extended; the field of X[A] replaced from the low
bits of X[B], with positions read at run time for wfield; X[B] or X[C] by X[E]; X[B] times X[C] plus X[E]. Nothing
else of their effect. -/
def Obligations.BitFieldResults : Prop :=
  ∀ (d a c e : BitVec 5) (p : BitVec 6) (w : BitVec 7) (s : State),
    (s.ready [.x d, .x a] →
      Retires (.bfx d a p w) s 12 (s.setX d (((s.xr a).extractLsb' p.toNat w.toNat).signExtend 64)) ∧
      Retires (.bfxu d a p w) s 12 (s.setX d ((s.xr a >>> p.toNat) &&& BitVec.ofNat 64 (2 ^ w.toNat - 1))) ∧
      Retires (.bfi d a p w) s 12 (s.setX d (insertField (s.xr d) (s.xr a) p.toNat w.toNat))) ∧
    (s.ready [.x d, .x a, .x c, .x e] →
      Retires (.csel d a c e) s 12 (s.setX d (if s.xr e ≠ 0 then s.xr a else s.xr c)) ∧
      Retires (.mad d a c e) s 12 (s.setX d (s.xr a * s.xr c + s.xr e))) ∧
    (s.ready [.x d, .x a, .x c] →
      Retires (.wfield d a c) s 12
        (s.setX d (insertField (s.xr d) (s.xr a) ((s.xr c).extractLsb' 0 6).toNat ((s.xr c).extractLsb' 8 7).toNat)))

/-- O8 (R47). At every width from 1 to 64 bits and for all operands of that width: a zero divisor gives quotient 0, the
dividend as remainder and the flag DZ; the most negative number divided by -1 as signed gives itself, remainder 0 and
the flag OV; otherwise the quotient truncates toward zero, the remainder takes the sign of the dividend, and no flag
is set (R47). -/
def Obligations.DivisionCorners : Prop :=
  ∀ (w x y : Nat), 1 ≤ w → w ≤ 64 → x < 2 ^ w → y < 2 ^ w →
    (∀ g : Bool, y = 0 → intDiv w g x y = (0, x, iDZ)) ∧
    (y ≠ 0 → intDiv w false x y = (x / y, x % y, 0)) ∧
    (y ≠ 0 → ¬(x = 2 ^ (w - 1) ∧ y = 2 ^ w - 1) →
      intDiv w true x y = (wrap w ((sgn w x).tdiv (sgn w y)), wrap w ((sgn w x).tmod (sgn w y)), 0)) ∧
    (x = 2 ^ (w - 1) → y = 2 ^ w - 1 → intDiv w true x y = (x, 0, iOV))

/-- O9 (R113, R114, R50, R51). For every state whose named registers are readable and declared, each FPS instruction
retires with its result in X[A] and its flags in FPFLAGS, and nothing else of its effect: the short form rounds to
nearest even, the long form by its mode; compares write 1 or 0; fclass sets no flag; the conversions write 64 bits. -/
def Obligations.ScalarFloatResults : Prop :=
  ∀ (d a c e : BitVec 5) (r : Rnd) (s : State),
    (s.ready [.x d, .x a, .x c] →
      Retires (.fadd d a c) s 4 (s.fpResult d (Fmt.f32.add .rne (s.fr a) (s.fr c))) ∧
      Retires (.faddExt d a c r) s 12 (s.fpResult d (Fmt.f32.add r (s.fr a) (s.fr c))) ∧
      Retires (.fsub d a c) s 4 (s.fpResult d (Fmt.f32.sub .rne (s.fr a) (s.fr c))) ∧
      Retires (.fsubExt d a c r) s 12 (s.fpResult d (Fmt.f32.sub r (s.fr a) (s.fr c))) ∧
      Retires (.fmul d a c) s 4 (s.fpResult d (Fmt.f32.mul .rne (s.fr a) (s.fr c))) ∧
      Retires (.fmulExt d a c r) s 12 (s.fpResult d (Fmt.f32.mul r (s.fr a) (s.fr c))) ∧
      Retires (.fdiv d a c) s 4 (s.fpResult d (Fmt.f32.div .rne (s.fr a) (s.fr c))) ∧
      Retires (.fdivExt d a c r) s 12 (s.fpResult d (Fmt.f32.div r (s.fr a) (s.fr c))) ∧
      Retires (.fmin d a c) s 4 (s.fpResult d (Fmt.f32.minmax false (s.fr a) (s.fr c))) ∧
      Retires (.fmax d a c) s 4 (s.fpResult d (Fmt.f32.minmax true (s.fr a) (s.fr c))) ∧
      Retires (.feq d a c) s 4 (s.fpResult d (if (Fmt.f32.cmp .eq (s.fr a) (s.fr c)).1 then 1 else 0, (Fmt.f32.cmp .eq (s.fr a) (s.fr c)).2)) ∧
      Retires (.flt d a c) s 4 (s.fpResult d (if (Fmt.f32.cmp .lt (s.fr a) (s.fr c)).1 then 1 else 0, (Fmt.f32.cmp .lt (s.fr a) (s.fr c)).2)) ∧
      Retires (.fle d a c) s 4 (s.fpResult d (if (Fmt.f32.cmp .le (s.fr a) (s.fr c)).1 then 1 else 0, (Fmt.f32.cmp .le (s.fr a) (s.fr c)).2))) ∧
    (s.ready [.x d, .x a] →
      Retires (.fsqrt d a) s 4 (s.fpResult d (Fmt.f32.sqrt .rne (s.fr a))) ∧
      Retires (.fsqrtExt d a r) s 12 (s.fpResult d (Fmt.f32.sqrt r (s.fr a))) ∧
      Retires (.fclass d a) s 4 (s.fpResult d (Fmt.f32.fclass (s.fr a), 0)) ∧
      Retires (.fcvti d a r) s 4 (s.fpResult d ((Fmt.f32.decode (s.fr a)).toInt r 64 true)) ∧
      Retires (.fcvtf d a r) s 4 (s.fpResult d (Fmt.f32.ofVal r (FVal.ofInt (s.xr a).toInt)))) ∧
    (s.ready [.x d, .x a, .x c, .x e] →
      Retires (.fmadd d a c e r) s 12 (s.fpResult d (Fmt.f32.fma r (s.fr a) (s.fr c) (s.fr e) false false)))

/-- O10 (R119, R120). For every state whose named registers are readable and declared, each conditional branch in its
three lengths goes on at PC plus four times its signed offset, or plus its literal, where its comparison of X[A] and
X[B] holds, and at the next instruction where it does not; nothing else changes. blt and bge compare as signed, bltu
and bgeu as unsigned numbers. -/
def Obligations.BranchResults : Prop :=
  ∀ (a b : BitVec 5) (o : BitVec 11) (e : BitVec 32) (l : Word) (s : State), s.ready [.x a, .x b] →
    Branches (.beq o a b) (.beqExt e a b) (.beqLit l a b) s o e l (s.xr a = s.xr b) ∧
    Branches (.bne o a b) (.bneExt e a b) (.bneLit l a b) s o e l (s.xr a ≠ s.xr b) ∧
    Branches (.blt o a b) (.bltExt e a b) (.bltLit l a b) s o e l ((s.xr a).toInt < (s.xr b).toInt) ∧
    Branches (.bge o a b) (.bgeExt e a b) (.bgeLit l a b) s o e l ((s.xr b).toInt ≤ (s.xr a).toInt) ∧
    Branches (.bltu o a b) (.bltuExt e a b) (.bltuLit l a b) s o e l ((s.xr a).toNat < (s.xr b).toNat) ∧
    Branches (.bgeu o a b) (.bgeuExt e a b) (.bgeuLit l a b) s o e l ((s.xr b).toNat ≤ (s.xr a).toNat)

/-- O11 (R120, R121, R122, R36, R80, R132). b goes on at PC plus four times its signed offset or plus its literal; bl the
same with the address of the next instruction in x1; br at X[B]; blr at X[B], read before the link is written to X[A];
ret at x1; loop takes 1 from X[A], adds 1 to RRB modulo 16 in its .rot form whether or not it branches, and goes on at
its target while the new X[A] is not 0; with A = 0 it faults with RESERVED_FIELD and word 0 in TVAL. Named registers
are readable and declared, and x1 is readable. That bl and ret take x1 without holding it to the declarations is the
model's choice (log 98). -/
def Obligations.JumpResults : Prop :=
  ∀ (d a : BitVec 5) (o : BitVec 24) (f : BitVec 18) (l : Word) (s : State),
    RetiresTo (.b o) s s (s.me.pc + BitVec.ofInt 64 (4 * o.toInt)) ∧
    RetiresTo (.bLit l) s s (s.me.pc + l) ∧
    ((Use.x 1).loading s.me = false →
      RetiresTo (.bl o) s (s.setX 1 (s.me.pc + 4)) (s.me.pc + BitVec.ofInt 64 (4 * o.toInt)) ∧
      RetiresTo (.blLit l) s (s.setX 1 (s.me.pc + 12)) (s.me.pc + l) ∧
      RetiresTo .ret s s (s.xr 1)) ∧
    Traps (.loop 0 false f) s Cause.RESERVED_FIELD ((packL f false 0 28 0).setWidth 64) ∧
    Traps (.loop 0 true f) s Cause.RESERVED_FIELD ((packL f true 0 28 0).setWidth 64) ∧
    (s.ready [.x a] →
      RetiresTo (.br a) s s (s.xr a) ∧
      (a ≠ 0 → let t := s.setX a (s.xr a - 1)
       let u := t.updMe fun x => { x with rrb := x.rrb + 1 }
       (s.xr a ≠ 1 → RetiresTo (.loop a false f) s t (s.me.pc + BitVec.ofInt 64 (4 * f.toInt)) ∧
         RetiresTo (.loop a true f) s u (s.me.pc + BitVec.ofInt 64 (4 * f.toInt))) ∧
       (s.xr a = 1 → Retires (.loop a false f) s 4 t ∧ Retires (.loop a true f) s 4 u))) ∧
    (s.ready [.x d, .x a] → RetiresTo (.blr d a) s (s.setX d (s.me.pc + 4)) (s.xr a))

/-- O12 (R18, R19, R124, R222, R17). A join that follows the logical time of the helper is the model's choice (log 80,
from R249 and R258). start writes 0 where no helper is FREE, and otherwise makes the lowest FREE helper LIVE at X[B]
with x4 = X[C] and writes its number; a helper that an entry of the apply queue takes is not FREE for it. join of an
ENDED helper that is not detached and for which no other context waits makes it FREE, follows its logical time, writes
its end value, and makes every other join that waits on it a join of a FREE helper. join of 0, of the own context, of
a number that no context of the core has, of a FREE or a detached helper, and a join that waited on a helper since
joined by another, fault with CTX_JOIN_INVALID and the number in TVAL; join of a LIVE helper that is not detached
waits and has no other effect. endc in a helper keeps X[A] as the end value and makes the context ENDED, or FREE where
it is detached; in context 0 it faults with CTX_ROLE. yield retires with no effect. -/
def Obligations.ContextResults : Prop :=
  ∀ (d a c : BitVec 5) (k : Nat) (s : State),
    Retires .yield s 4 s ∧
    (s.ready [.x d, .x a, .x c] →
      (s.core.freeHelper = none → Retires (.start d a c) s 4 (s.setX d 0)) ∧
      (s.core.freeHelper = some k →
        Retires (.start d a c) s 4 ((s.updCore fun co =>
          co.startHelper k (s.xr a) s.me.stacklim s.me.trapvec false [s.xr c] s.me.pts).setX d (word k)))) ∧
    (s.ready [.x d, .x a] → (s.xr a).toNat = k → k ≠ 0 → k ≠ s.ctx → k < s.core.nctx →
      (s.core.ctxAt k).st = .ended → (s.core.ctxAt k).detached = false → (∀ q, s.earlierJoin k q = false) → (∀ q, s.me.wait ≠ .join 0 q) →
      Retires (.join d a) s 4
        ((((s.failJoins k).updCore fun co => co.setCtx k (s.core.ctxAt k).fresh).updMe fun x =>
          { x with pts := later x.pts (s.core.ctxAt k).pts }).setX d (s.core.ctxAt k).endv)) ∧
    (s.ready [.x d, .x a] → (s.xr a).toNat = k →
      (k = 0 ∨ k = s.ctx ∨ s.core.nctx ≤ k ∨ (s.core.ctxAt k).st = .free ∨ (s.core.ctxAt k).detached = true ∨
        (∃ q, s.me.wait = .join 0 q) → Traps (.join d a) s Cause.CTX_JOIN_INVALID (s.xr a)) ∧
      (k ≠ 0 → k ≠ s.ctx → k < s.core.nctx → (s.core.ctxAt k).st = .live → (s.core.ctxAt k).detached = false →
        s.me.wait = .none → ∃ q n, exec (.join d a) s = .next (({ s with serial := n } : State).setWait (.join k q)))) ∧
    (s.ready [.x a] →
      (s.ctx = 0 → Traps (.endc a) s Cause.CTX_ROLE 0) ∧
      (s.ctx ≠ 0 → exec (.endc a) s = .next ((s.updMe fun x =>
        if x.detached then x.fresh
        else { x with st := .ended, endv := s.xr a, wait := .none, pc := s.me.pc + 4 }).count s.cur 3 1)))

/-- O13 (R18, R37, R40). A helper that start or an apply makes LIVE is at the given pc with x4 holding the argument, every
other x register, mask and handle zero, RRB, EPC, CAUSE, TVAL, TFLAGS 0, and the STACKLIM and TRAPVEC given; no other
context changes; every byte of its 32 register rows reads 0, and every byte of the pool outside them is unchanged
(R18). FPFLAGS and ISTAT stand as they were, as only wrsr and the start of a task clear their bits (R40); that R18
does not count them among the registers that read zero is the model's choice (log 94). -/
def Obligations.StartedHelper : Prop :=
  ∀ (c : Core) (k j : Nat) (pc sl tv v : Word) (p : BitVec 64) (n : BitVec 5) (m : BitVec 3) (h : BitVec 4) (r : Nat),
    let t := c.startHelper k pc sl tv false [v] p
    let x := t.ctxAt k
    x.st = .live ∧ x.pc = pc ∧ x.stacklim = sl ∧ x.trapvec = tv ∧ x.getX 4 = v ∧ (n ≠ 4 → x.getX n = 0) ∧
      (m ≠ 0 → x.getM m = 0) ∧ x.getH h = 0 ∧ x.getC h = 0 ∧ x.rrb = 0 ∧ x.epc = 0 ∧ x.cause = 0 ∧ x.tval = 0 ∧
      x.tstep = false ∧ x.tin = false ∧ x.fpflags = (c.ctxAt k).fpflags ∧ x.istat = (c.ctxAt k).istat ∧ x.wait = .none ∧
      (j ≠ k → t.ctxAt j = c.ctxAt j) ∧
      (c.pool.wf = true → t.pool.read r =
        if 128 * c.ctxBase k ≤ r ∧ r < 128 * (c.ctxBase k + 32) then 0 else c.pool.read r)

/-- O14 (R127, R130, R334, R335). With TFLAGS.IN clear and TRAPVEC nonzero, trap n sets CAUSE to 0xB0 + n, TVAL to X[B]
and EPC to the next instruction, and brk sets CAUSE to 0x90, TVAL to 0 and EPC to its own address; in both TFLAGS.IN
is set, the context goes on at TRAPVEC, and no other context of the core changes. With TFLAGS.IN set the outcome is
DOUBLE_FAULT: KCAUSE 0xA3. That trap n takes its own exception and no other where TFLAGS.STEP is set is the model's
choice (log 51). -/
def Obligations.TrapAndBreak : Prop :=
  ∀ (n : BitVec 4) (a : BitVec 5) (s : State), s.ready [.x a] →
    (s.me.tin = false → s.me.trapvec ≠ 0 →
      (∃ t, exec (.trap n a) s = .next t ∧ t.me.pc = s.me.trapvec ∧ t.me.cause = 0xB0 + n.setWidth 8 ∧
        t.me.tval = s.xr a ∧ t.me.epc = s.me.pc + 4 ∧ t.me.tin = true ∧ ∀ j, j ≠ s.ctx → t.core.ctxAt j = s.core.ctxAt j) ∧
      (∃ t, exec .brk s = .next t ∧ t.me.pc = s.me.trapvec ∧ t.me.cause = 0x90 ∧ t.me.tval = 0 ∧ t.me.epc = s.me.pc ∧
        t.me.tin = true ∧ ∀ j, j ≠ s.ctx → t.core.ctxAt j = s.core.ctxAt j)) ∧
    (s.me.tin = true →
      (∃ t, exec (.trap n a) s = .next t ∧ (t.coreAt s.cur).kcause = 0xA3) ∧
      (∃ t, exec .brk s = .next t ∧ (t.coreAt s.cur).kcause = 0xA3))

/-- O15 (R128). With TFLAGS.IN set, tret goes on at EPC with TFLAGS.IN clear, and leaves CAUSE, TVAL and EPC as they are;
with TFLAGS.IN clear it faults with TRET_IDLE (0x0D) and TVAL 0, and enters the handler as any fault does. -/
def Obligations.TrapReturn : Prop :=
  ∀ s : State,
    (s.me.tin = true → s.me.tstep = false → ∃ t, exec .tret s = .next t ∧ t.me.pc = s.me.epc ∧ t.me.tin = false ∧
      t.me.cause = s.me.cause ∧ t.me.tval = s.me.tval ∧ t.me.epc = s.me.epc) ∧
    (s.me.tin = true → RetiresTo .tret s (s.updMe fun x => { x with tin := false }) s.me.epc) ∧
    (s.me.tin = false → Traps .tret s 0x0D 0)

/-- O16 (R334, R325, R358). An instruction that takes an exception in a context with TFLAGS.IN clear and TRAPVEC nonzero
leaves EPC at the instruction, CAUSE and TVAL written, TFLAGS.IN set and the context at TRAPVEC; every x, m, h and c
register, RRB, TFLAGS.STEP, STACKLIM, FPFLAGS, ISTAT and TRAPVEC are as before, and so are PARTW, DECLA, DECLB, WID,
DOMAIN, FLAGS, MXSTAT, the event selects, the barriers, futures and cards of the core, KCAUSE, every other context,
every other core, every byte of every pool and every byte of device memory (R334); only counters of the event codes of
R358 may count the reads of a page walk that fails (R325), and where the exception is not of a translation the
counters are as before too. -/
def Obligations.TrapEntry : Prop :=
  ∀ (i : Instr) (s t : State) (cause : BitVec 8) (tval : Word), Traps i s cause tval → exec i s = .next t →
    s.me.tin = false → s.me.trapvec ≠ 0 →
      t.me.pc = s.me.trapvec ∧ t.me.epc = s.me.pc ∧ t.me.cause = cause ∧ t.me.tval = tval ∧ t.me.tin = true ∧
      (∀ n, t.xr n = s.xr n) ∧ (∀ n, t.mr n = s.mr n) ∧ (∀ n, t.hr n = s.hr n) ∧ (∀ n, t.cr n = s.cr n) ∧
      t.me.rrb = s.me.rrb ∧ t.me.tstep = s.me.tstep ∧ t.me.stacklim = s.me.stacklim ∧ t.me.fpflags = s.me.fpflags ∧
      t.me.istat = s.me.istat ∧ t.me.trapvec = s.me.trapvec ∧ t.core.partw = s.core.partw ∧ t.core.decla = s.core.decla ∧
      t.core.kcause = s.core.kcause ∧ t.core.declb = s.core.declb ∧ t.core.wid = s.core.wid ∧ t.core.domain = s.core.domain ∧
      t.core.flags = s.core.flags ∧ t.core.mxsat = s.core.mxsat ∧ t.core.mxnarrow = s.core.mxnarrow ∧
      t.core.evsel = s.core.evsel ∧ t.core.bars = s.core.bars ∧ t.core.futs = s.core.futs ∧ t.core.cards = s.core.cards ∧
      (walkCause cause = false → t.core.cnt = s.core.cnt) ∧ (∀ j, j ≠ s.ctx → t.core.ctxAt j = s.core.ctxAt j) ∧
      (∀ k, k ≠ s.cur → { t.coreAt k with cnt := (s.coreAt k).cnt } = s.coreAt k) ∧ (∀ k r, (t.coreAt k).pool.read r = (s.coreAt k).pool.read r) ∧
      ∀ r, t.mem.read r = s.mem.read r

/-- O17 (R335, R29, R30). A fault in a context with TFLAGS.IN set or TRAPVEC 0 (shown on brk) writes KCAUSE 0xA3, KEPC the
pc of the faulting instruction, and KTVAL with its cause in bits 7:0, the CAUSE register in bits 15:8 (0 where TRAPVEC
is 0) and the context in bits 19:16; the task is gone, its helpers are FREE, no card and no waiting apply of it is
left, and of the others only where a pod message ends; its status word is committed as faulted with flag 8 (R335). -/
def Obligations.DoubleFaultEnds : Prop :=
  ∀ (s : State), s.me.tin = true ∨ s.me.trapvec = 0 → s.ctx < 16 →
    ∃ t, exec .brk s = .next t ∧ (t.coreAt s.cur).kcause = 0xA3 ∧ (t.coreAt s.cur).kepc = s.me.pc ∧
      (t.coreAt s.cur).ktval.toNat = 0x90 + 256 * (if s.me.trapvec = 0 then 0 else s.me.cause.toNat) + 65536 * s.ctx ∧
      (t.coreAt s.cur).task = false ∧ (t.coreAt s.cur).podMsg = false ∧ (t.coreAt s.cur).cards = [] ∧
      (t.coreAt s.cur).applyQ = (if s.core.podMsg then s.core.applyQ.filter fun a => !a.own else []) ∧ (∀ j, j ≠ 0 → ((t.coreAt s.cur).ctxAt j).st = .free) ∧
      t = ((s.commit s.cur .faulted 8).endTask s.cur (!s.core.podMsg) false).updCoreAt s.cur fun c =>
        { c with kcause := 0xA3, kepc := s.me.pc, ktval := (t.coreAt s.cur).ktval }

/-- O18 (R38, R129, R40, R178). For every readable status register rdsr retires with its value in X[A] and nothing else of
its effect: CORE, CTX, WID, PARTW, DECLA, DECLB, the trap registers, TFLAGS, STACKLIM, FPFLAGS, ISTAT, MXSTAT, RRB,
HOLDER, KEEPER, TERM, DOMAIN, GEN, GANG, the counters and the event selects; an index that the occupant cannot read
faults with SR_ACCESS and the index in TVAL. -/
def Obligations.StatusRegisterReads : Prop :=
  ∀ (d : BitVec 5) (n : BitVec 4) (i : BitVec 10) (s : State), s.ready [.x d] →
      Retires (.rdsr d 0x000) s 4 (s.setX d (word s.cur)) ∧
      Retires (.rdsr d 0x001) s 4 (s.setX d (word s.ctx)) ∧
      Retires (.rdsr d 0x002) s 4 (s.setX d (s.core.wid)) ∧
      Retires (.rdsr d 0x003) s 4 (s.setX d (s.core.partw)) ∧
      Retires (.rdsr d 0x004) s 4 (s.setX d (s.core.decla)) ∧
      Retires (.rdsr d 0x005) s 4 (s.setX d (s.core.declb)) ∧
      Retires (.rdsr d 0x010) s 4 (s.setX d (s.me.trapvec)) ∧
      Retires (.rdsr d 0x011) s 4 (s.setX d (s.me.epc)) ∧
      Retires (.rdsr d 0x012) s 4 (s.setX d (s.me.cause.setWidth 64)) ∧
      Retires (.rdsr d 0x013) s 4 (s.setX d (s.me.tval)) ∧
      Retires (.rdsr d 0x014) s 4 (s.setX d ((if s.me.tstep then 2 else 0) + if s.me.tin then 1 else 0)) ∧
      Retires (.rdsr d 0x015) s 4 (s.setX d (s.me.stacklim)) ∧
      Retires (.rdsr d 0x020) s 4 (s.setX d (s.me.fpflags.setWidth 64)) ∧
      Retires (.rdsr d 0x021) s 4 (s.setX d (s.me.istat.setWidth 64)) ∧
      Retires (.rdsr d 0x022) s 4 (s.setX d ((if s.core.mxRing = [] then 0 else 4) + (if s.core.mxsat then 2 else 0) + if s.core.mxnarrow then 1 else 0)) ∧
      Retires (.rdsr d 0x023) s 4 (s.setX d (s.me.rrb.setWidth 64)) ∧
      Retires (.rdsr d 0x030) s 4 (s.setX d (word (s.coreEntry s.cur).holder)) ∧
      Retires (.rdsr d 0x031) s 4 (s.setX d (word (s.coreEntry s.cur).keeper)) ∧
      Retires (.rdsr d 0x032) s 4 (s.setX d ((s.coreEntry s.cur).termReg)) ∧
      Retires (.rdsr d 0x033) s 4 (s.setX d (s.core.domain.setWidth 64)) ∧
      Retires (.rdsr d 0x034) s 4 (s.setX d ((s.coreEntry s.cur).gen.setWidth 64)) ∧
      Retires (.rdsr d 0x060) s 4 (s.setX d (s.core.gangReg)) ∧
      Retires (.rdsr d (0x040 + n.setWidth 10)) s 4 (s.setX d (s.readCnt (s.holderOf s.cur) s.cur n.toNat)) ∧
      Retires (.rdsr d (0x050 + n.setWidth 10)) s 4 (s.setX d (Table.get 0 s.core.evsel n.toNat)) ∧
      (s.readSR (s.holderOf s.cur) s.cur s.ctx i.toNat = none → Traps (.rdsr d i) s Cause.SR_ACCESS (i.setWidth 64))

/-- O19 (R129, R38, R39, R40, R360, R363, R366). For every status register that the occupant can write, wrsr retires with
exactly the bits of X[A] that R129 lists in the register, the other bits ignored, and nothing else of its effect; a
write of a counter or of an event select takes effect after the instruction has counted itself on every other counter,
and under the selects that stood before it, which rests on R366, R360 and R363 and is the model's choice (log 87);
every other index, to which R38 and R39 give no occupant write access, faults with SR_ACCESS and the index in TVAL. -/
def Obligations.StatusRegisterWrites : Prop :=
  ∀ (a : BitVec 5) (n : BitVec 4) (s : State), s.ready [.x a] →
      Retires (.wrsr 0x010 a) s 4 (s.updMe fun x => { x with trapvec := s.xr a }) ∧
      Retires (.wrsr 0x011 a) s 4 (s.updMe fun x => { x with epc := s.xr a }) ∧
      Retires (.wrsr 0x012 a) s 4 (s.updMe fun x => { x with cause := (s.xr a).setWidth 8 }) ∧
      Retires (.wrsr 0x013 a) s 4 (s.updMe fun x => { x with tval := s.xr a }) ∧
      Retires (.wrsr 0x014 a) s 4 (s.updMe fun x => { x with tstep := (s.xr a).getLsbD 1, tin := (s.xr a).getLsbD 0 }) ∧
      Retires (.wrsr 0x015 a) s 4 (s.updMe fun x => { x with stacklim := s.xr a }) ∧
      Retires (.wrsr 0x020 a) s 4 (s.updMe fun x => { x with fpflags := (s.xr a).setWidth 5 }) ∧
      Retires (.wrsr 0x021 a) s 4 (s.updMe fun x => { x with istat := (s.xr a).setWidth 3 }) ∧
      Retires (.wrsr 0x022 a) s 4 (s.updCore fun c => { c with mxsat := (s.xr a).getLsbD 1 }) ∧
      Retires (.wrsr 0x023 a) s 4 (s.updMe fun x => { x with rrb := (s.xr a).setWidth 4 }) ∧
      (let u := s.countFirst s.cur n.toNat true
       exec (.wrsr (0x040 + n.setWidth 10) a) s = .next
        (((u.writeCnt (u.holderOf u.cur) u.cur n.toNat (u.xr a)).goOn (s.nextPc 4)).stepTrap s.me.tstep (s.nextPc 4))) ∧
      (let u := s.countFirst s.cur n.toNat false
       exec (.wrsr (0x050 + n.setWidth 10) a) s = .next
        (((u.writeSel (u.holderOf u.cur) u.cur n.toNat (u.xr a)).goOn (s.nextPc 4)).stepTrap s.me.tstep (s.nextPc 4))) ∧
      ∀ i : BitVec 10, ¬(0x10 ≤ i.toNat ∧ i.toNat ≤ 0x15) → ¬(0x20 ≤ i.toNat ∧ i.toNat ≤ 0x23) → i.toNat / 16 ≠ 4 →
        i.toNat / 16 ≠ 5 → Traps (.wrsr i a) s Cause.SR_ACCESS (i.setWidth 64)

/-- O20 (R131, R355). For every state whose destination is readable and declared, rdtime writes the fabric time less the
TOFF of the domain, or the highest value that the core has read where that is later, and keeps the value written as
the highest; nothing else of its effect. -/
def Obligations.TimeReads : Prop :=
  ∀ (d : BitVec 5) (s : State), s.ready [.x d] →
    ∃ v : Word, v.toNat = max (s.fabric - (s.domainAt s.core.domain.toNat).toff).toNat s.core.tmax.toNat ∧
      Retires (.rdtime d) s 4 ((s.updCore fun c => { c with tmax := v }).setX d v)

/-- O21 (R31, R106). In every state x0 reads 0 and m0 reads all ones, and a write to x0 or m0 changes nothing at all
(R31): add to x0 moves the context on and does nothing else. -/
def Obligations.HardwiredRegisters : Prop :=
  ∀ (s : State) (v : Word) (w : BitVec 128) (a c : BitVec 5),
    s.xr 0 = 0 ∧ s.mr 0 = BitVec.allOnes 128 ∧ s.me.setX 0 v = s.me ∧ s.me.setM 0 w = s.me ∧
    (s.ready [.x 0, .x a, .x c] → Retires (.add 0 a c) s 4 (s.setMe s.me))

/-- O22 (R115, R116, R117, R132, R156, R66, R4, R325, R249, R118, R255, R331). For every state whose named registers are
readable and declared, and every address that meets the checks of R116 and R66 and waits for nothing, in the
scratchpad or at a global address that translates to device memory, to a format page or to an external window, where
the host or peer has answered (R325, R331): ld at X[B] + disp or X[B] + literal, the indexed forms at X[B] + (X[C] <<
s) + disp, and ld.p at X[B] retire with the bytes at the address, little-endian and extended by the width, in X[A]:
the bytes of the row, or of device memory those at their home or of a copy in the cluster cache (R249), of a format
page the bytes of the image of such a block (R118), of an external window those that stand there then (R255; logs 6
and 83: what outside agents write and answer is free); ld.p then adds its displacement to X[B]; no byte of any pool or
of device memory (but of external writes on their way), no flag and no other register changes, but logical times and
counters of events. ld.p with A = B faults with RESERVED_FIELD and word 0 in TVAL. -/
def Obligations.ScratchpadLoads : Prop :=
  ∀ (t : IntT) (o : BitVec 11) (e : BitVec 32) (l : Word) (sh : BitVec 3) (d b c : BitVec 5) (s : State),
    let a1 := s.xr b + o.signExtend 64
    let a2 := s.xr b + l
    let x := s.xr b + (s.xr c <<< sh.toNat)
    Traps (.ldP t o b b) s Cause.RESERVED_FIELD ((packS o t.width b b 17 0).setWidth 64) ∧
    (s.ready [.x d, .x b] →
      Loads (.ld t o b d) s 4 t d (b == 2) a1 none ∧
      Loads (.ldLit t l b d) s 12 t d (b == 2) a2 none ∧
      (b ≠ d → Loads (.ldP t o b d) s 4 t d (b == 2) (s.xr b) (some (b, a1)))) ∧
    (s.ready [.x d, .x b, .x c] →
      Loads (.ldx t sh e d b c) s 12 t d (b == 2) (x + e.signExtend 64) none ∧
      Loads (.ldxLit t sh l d b c) s 20 t d (b == 2) (x + l) none)

/-- O23 (R115, R116, R117, R156, R66, R4, R325, R249, R118, R58, R255, R331). For every state of canonical memory whose
named registers are readable and declared, and every address that meets the checks of R116 and R66 and waits for
nothing, in the scratchpad or at a global address that translates to device memory, to a format page or to an external
window, where the host or peer has answered (R325, R331): st at X[B] + disp or X[B] + literal, the indexed forms, and
st.p at X[B] retire with the low bytes of X[A] at the address, little-endian: in the row, in device memory at the
home, in a format page in the image of its block, which is encoded anew with the flags of the conversion (R58), or in
an external window on their way to their home (R255, log 96); every other byte of the pool and of device memory, every
other flag and every other register is as before, but logical times and counters of events; st.p then adds its
displacement to X[B], and stores the old base where A = B. -/
def Obligations.ScratchpadStores : Prop :=
  ∀ (w : BitVec 2) (o : BitVec 11) (e : BitVec 32) (l : Word) (sh : BitVec 3) (r b c : BitVec 5) (s : State),
    let z := 2 ^ w.toNat
    let a1 := s.xr b + o.signExtend 64
    let a2 := s.xr b + l
    let x := s.xr b + (s.xr c <<< sh.toNat)
    s.canonical →
    (s.ready [.x r, .x b] →
      Stores (.st w o b r) s 4 (b == 2) a1 z (s.xr r) none ∧
      Stores (.stLit w l b r) s 12 (b == 2) a2 z (s.xr r) none ∧
      Stores (.stP w o b r) s 4 (b == 2) (s.xr b) z (s.xr r) (some (b, a1))) ∧
    (s.ready [.x r, .x b, .x c] →
      Stores (.stx w sh e r b c) s 12 (b == 2) (x + e.signExtend 64) z (s.xr r) none ∧
      Stores (.stxLit w sh l r b c) s 20 (b == 2) (x + l) z (s.xr r) none)

/-- O24 (R116, R66, R325). A load or store whose address is not a multiple of its width faults with MISALIGNED; an aligned
one with base x2 below STACKLIM with STACK_LIMIT; else one in the null window with NULL_WINDOW, one at a scratchpad
row that is not below S and ROWS and lies in no attached segment with ROW_UNDECLARED, and one at a global address of a
domain without translation, in a context that awaits no translation of a PASID, with PAGE_ABSENT; TVAL is the address
(shown on ld and st). -/
def Obligations.AccessChecks : Prop :=
  ∀ (t : IntT) (w : BitVec 2) (o : BitVec 11) (b r : BitVec 5) (s : State), s.ready [.x r, .x b] →
    let a := s.xr b + o.signExtend 64
    let low := b = 2 ∧ a.toNat < s.me.stacklim.toNat
    let both (c : BitVec 8) (z : Nat → Prop) : Prop :=
      (z t.size → Traps (.ld t o b r) s c a) ∧ (z (2 ^ w.toNat) → Traps (.st w o b r) s c a)
    both Cause.MISALIGNED (fun z => a.toNat % z ≠ 0) ∧
    both Cause.STACK_LIMIT (fun z => a.toNat % z = 0 ∧ low) ∧
    both Cause.NULL_WINDOW (fun z => a.toNat % z = 0 ∧ ¬low ∧ 2 ^ 18 ≤ a.toNat ∧ a.toNat < 2 ^ 32) ∧
    both Cause.ROW_UNDECLARED (fun z => a.toNat % z = 0 ∧ ¬low ∧ a.toNat < 2 ^ 18 ∧
      (s.core.rowsS ≤ a.toNat / 128 ∨ (s.core.installed = true ∧ s.core.rowsDecl ≤ a.toNat / 128)) ∧
      s.core.attachOf (a.toNat / 128) = none) ∧
    both Cause.PAGE_ABSENT (fun z => s.me.ext = none ∧ a.toNat % z = 0 ∧ ¬low ∧ 2 ^ 32 ≤ a.toNat ∧
      (2 ^ 57 ≤ a.toNat ∨ (s.domainAt s.core.domain.toNat).enable = false))

/-- O25 (R157, R158, R159, R66, R325, R249, R255, R331). For every state of canonical memory without record or replay
whose named registers are readable and declared, and every address that meets the checks and waits for nothing, in the
scratchpad or at a global address that translates to device memory, or to an external window where the host or peer
has answered and of the host supports atomics (R325, R331): each atomic retires, at every scope, with the old value in
X[A] (sign-extended, but zero-extended for minu, maxu and fadd), and with the new value that R157 gives at the
address; amo.cas writes only where the bit patterns are equal; amo.fadd sets the flags of its addition; every other
byte of the pool and of device memory (but of external writes on their way) and every other register is as before, but
logical times and counters of events; at an external home nothing falls between read and write (log 48). At a format
page it faults with FORMAT_ATOMIC and its address. -/
def Obligations.ScratchpadAtomics : Prop :=
  ∀ (p : Scope) (w : Bool) (d a c e : BitVec 5) (s : State), s.canonical → s.unlogged →
    let n := if w then 64 else 32
    let z := n / 8
    let x := (s.xr c).toNat % 2 ^ n
    let y := (s.xr e).toNat % 2 ^ n
    let sx (o : Nat) : Word := BitVec.ofInt 64 (sgn n o)
    let zx (o : Nat) : Word := BitVec.ofNat 64 o
    (s.ready [.x d, .x a, .x c] →
      Atomic (.amoAdd p w d a c) s 4 d (a == 2) (s.xr a) z (sx) (fun o => some ((o + x) % 2 ^ n)) (fun _ => 0) ∧
      Atomic (.amoAnd p w d a c) s 4 d (a == 2) (s.xr a) z (sx) (fun o => some (o &&& x)) (fun _ => 0) ∧
      Atomic (.amoOr p w d a c) s 4 d (a == 2) (s.xr a) z (sx) (fun o => some (o ||| x)) (fun _ => 0) ∧
      Atomic (.amoXor p w d a c) s 4 d (a == 2) (s.xr a) z (sx) (fun o => some (o ^^^ x)) (fun _ => 0) ∧
      Atomic (.amoMin p w d a c) s 4 d (a == 2) (s.xr a) z (sx) (fun o => some (if sgn n o ≤ sgn n x then o else x)) (fun _ => 0) ∧
      Atomic (.amoMax p w d a c) s 4 d (a == 2) (s.xr a) z (sx) (fun o => some (if sgn n o ≤ sgn n x then x else o)) (fun _ => 0) ∧
      Atomic (.amoMinu p w d a c) s 4 d (a == 2) (s.xr a) z (zx) (fun o => some (min o x)) (fun _ => 0) ∧
      Atomic (.amoMaxu p w d a c) s 4 d (a == 2) (s.xr a) z (zx) (fun o => some (max o x)) (fun _ => 0) ∧
      Atomic (.amoSwap p w d a c) s 4 d (a == 2) (s.xr a) z (sx) (fun _ => some x) (fun _ => 0)) ∧
    (s.ready [.x d, .x a, .x c] →
      Atomic (.amoFadd p d a c) s 4 d (a == 2) (s.xr a) 4 zx
        (fun o => some (Fmt.f32.add .rne o ((s.xr c).toNat % 2 ^ 32)).1)
        (fun o => (Fmt.f32.add .rne o ((s.xr c).toNat % 2 ^ 32)).2)) ∧
    (s.ready [.x d, .x a, .x c, .x e] →
      Atomic (.amoCas p w d a c e) s 12 d (a == 2) (s.xr a) z (sx) (fun o => if o = y then some x else none) (fun _ => 0)) ∧
    (s.ready [.x d, .x a, .x c] → ∀ f pa o u, (s.xr a).toNat % z = 0 → (a = 2 → s.me.stacklim.toNat ≤ (s.xr a).toNat) →
      2 ^ 32 ≤ (s.xr a).toNat → s.me.ext = none → s.translate s.ag .write (s.xr a).toNat = .ok (.fmt f pa o, u) →
      ∀ i ∈ [Instr.amoAdd p w d a c, .amoAnd p w d a c, .amoOr p w d a c, .amoXor p w d a c, .amoMin p w d a c,
          .amoMax p w d a c, .amoMinu p w d a c, .amoMaxu p w d a c, .amoSwap p w d a c],
        Traps i s Cause.FORMAT_ATOMIC (s.xr a))

/-- O26 (R161, R162, R163, R164, R165, R259, R325, R326). fence.imem of a context with a global or external store
outstanding waits, and of one with none retires with the instruction buffer empty, and no later fetch of the context
takes an older copy; fence.ext of one with no external access and no load outstanding retires with no effect; a
prefetch of an address below 2^32 retires with no effect, and any other retires with no change of a register or of a
byte of memory; discard of length 0 retires with no effect, at an address that is no multiple of 128 faults with
MISALIGNED, and, where memory is canonical, of one scratchpad row that may be written retires with the row reading
zero and its generation one higher, every other byte as before; the same of up to 512 rows; and of up to 512 lines at
global addresses that translate for a write, to device memory or to format pages, and wait for nothing, with zeros in
every line (of a format page in the packed blocks behind it), every other byte as before; a length that is no multiple
of 128 faults with MISALIGNED and the end, and one above 65,536 or a range across the end of the scratchpad or of the
null window with DISCARD_RANGE and the length. -/
def Obligations.MemoryControl : Prop :=
  ∀ (lv : Bool) (a n : BitVec 5) (s : State),
    (s.me.storing = true ∨ s.me.extOut = true → exec .fenceImem s = .next (s.setWait .other)) ∧
    (s.me.storing = false → s.me.extOut = false → Retires .fenceImem s 4 ((s.updMe fun x => { x with ifence := x.pts }).updCore fun c => { c with ibuf := [] })) ∧
    (s.me.extOut = false → s.me.loading = 0 → Retires .fenceExt s 4 s) ∧
    (s.ready [.x a] →
      ((s.xr a).toNat < 2 ^ 32 → Retires (.dpref lv a) s 4 s ∧ Retires (.ipref a) s 4 s) ∧
      (∃ t, Retires (.dpref lv a) s 4 t ∧ t.me = s.me ∧ t.mem = s.mem ∧ ∀ k, (t.coreAt k).pool = (s.coreAt k).pool) ∧
      ∃ t, Retires (.ipref a) s 4 t ∧ t.me = s.me ∧ t.mem = s.mem ∧ ∀ k, (t.coreAt k).pool = (s.coreAt k).pool) ∧
    (s.ready [.x a, .x n] →
      (s.xr n = 0 → Retires (.discard a n) s 4 s) ∧
      (s.xr n ≠ 0 → (s.xr a).toNat % 128 ≠ 0 → Traps (.discard a n) s Cause.MISALIGNED (s.xr a)) ∧
      (s.canonical → s.xr n = 128 → s.padOk false true false (s.xr a) 128 →
        ∃ t, Retires (.discard a n) s 4 t ∧
          (∀ r, t.core.pool.read r =
            if (s.xr a).toNat ≤ r ∧ r < (s.xr a).toNat + 128 then 0 else s.core.pool.read r) ∧
          Table.get 0 t.core.rowGen ((s.xr a).toNat / 128) = Table.get 0 s.core.rowGen ((s.xr a).toNat / 128) + 1 ∧
          (∀ r, t.xr r = s.xr r) ∧ s.keeps t) ∧
      (let len := (s.xr n).toNat
       let e := (s.xr a).toNat + len
       s.xr n ≠ 0 → (s.xr a).toNat % 128 = 0 →
        (len % 128 ≠ 0 → Traps (.discard a n) s Cause.MISALIGNED (s.xr a + s.xr n)) ∧
        (len % 128 = 0 → 65536 < len ∨ ((s.xr a).toNat < 2 ^ 18 ∧ 2 ^ 18 < e) ∨ ((s.xr a).toNat < 2 ^ 32 ∧ 2 ^ 32 < e) →
          Traps (.discard a n) s Cause.DISCARD_RANGE (s.xr n))) ∧
      ∀ i, 0 < i → i ≤ 512 → s.xr n = word (128 * i) → s.canonical → DiscardRows s a n i ∧ DiscardLines s a n i)

/-- O27 (R136, R137, R88, R66, R138, R325, R249, R139, R118). For every state of canonical memory whose named registers
are readable and declared, where the lanes that take part make accesses that meet the checks of R137 and wait for
nothing, each in the scratchpad or at a global address that translates to device memory or to a format page (R325):
each of the ten vector loads retires; lane i takes the element at its address (consecutive from the base, at the
stride X[C], at the index lane shifted, or one address for all), of device memory the bytes at their home or of a copy
in the cluster cache (R249), of a format page those of the image of such a block (R139); a lane that the mask shuts
out keeps its value, the forms with update add their displacement to X[B], and no byte of a pool outside the register
row, no byte of device memory and no other register changes, but logical times and counters of events. -/
def Obligations.ScratchpadVectorLoads : Prop :=
  ∀ (t : Type4) (k sh : BitVec 3) (e : BitVec 32) (l : Word) (a b c : BitVec 5) (s : State), t.lane = true → s.canonical →
    let z := elemBytes t
    let x : Word := e.signExtend 64
    (s.ready [.v a, .x b, .m k] →
      VLoads (.vld t k e a b) s 12 t k a (b == 2) (fun j => (s.xr b + x) + word (j * z)) (none) ∧
      VLoads (.vldLit t k l a b) s 20 t k a (b == 2) (fun j => (s.xr b + l) + word (j * z)) (none) ∧
      VLoads (.vldP t k e a b) s 12 t k a (b == 2) (fun j => s.xr b + word (j * z)) (some (b, s.xr b + x)) ∧
      VLoads (.vldPLit t k l a b) s 20 t k a (b == 2) (fun j => s.xr b + word (j * z)) (some (b, s.xr b + l)) ∧
      VLoads (.vldb t k e a b) s 12 t k a (b == 2) (fun _ => s.xr b + x) (none) ∧
      VLoads (.vldbLit t k l a b) s 20 t k a (b == 2) (fun _ => s.xr b + l) (none)) ∧
    (s.ready [.v a, .x b, .x c, .m k] →
      VLoads (.vlds t k e a b c) s 12 t k a (b == 2) (fun j => (s.xr b + x) + word j * s.xr c) (none) ∧
      VLoads (.vldsLit t k l a b c) s 20 t k a (b == 2) (fun j => (s.xr b + l) + word j * s.xr c) (none)) ∧
    (s.ready [.v a, .x b, .v c, .m k] →
      VLoads (.vldx t k sh e a b c) s 12 t k a (b == 2) (fun j => (s.xr b + x) + (word (laneOf t.bits (s.vr c) j) <<< sh.toNat)) (none) ∧
      VLoads (.vldxLit t k sh l a b c) s 20 t k a (b == 2) (fun j => (s.xr b + l) + (word (laneOf t.bits (s.vr c) j) <<< sh.toNat)) (none))

/-- O28 (R136, R137, R88, R66, R138, R325, R249, R139, R58, R134). For every state of canonical memory whose named
registers are readable and declared, where the lanes that take part make accesses that meet the checks of R137 and
wait for nothing, each in the scratchpad or at a global address that translates to device memory, or all in one block
of a format page (R325): each of the eight vector stores retires; the bytes of a lane that no higher lane names hold
the element of that lane, the block is encoded anew once from the stored lanes and its other elements, with no flag
(R58, R134, R139), the forms with update add their displacement to X[B], and every byte that no lane names, every
other byte of device memory and every other register is as before, but logical times and counters of events. -/
def Obligations.ScratchpadVectorStores : Prop :=
  ∀ (t : Type4) (k sh : BitVec 3) (e : BitVec 32) (l : Word) (a b c : BitVec 5) (s : State), t.lane = true → s.canonical →
    let z := elemBytes t
    let x : Word := e.signExtend 64
    (s.ready [.v a, .x b, .m k] →
      VStores (.vst t k e a b) s 12 t k a (b == 2) (fun j => (s.xr b + x) + word (j * z)) (none) ∧
      VStores (.vstLit t k l a b) s 20 t k a (b == 2) (fun j => (s.xr b + l) + word (j * z)) (none) ∧
      VStores (.vstP t k e a b) s 12 t k a (b == 2) (fun j => s.xr b + word (j * z)) (some (b, s.xr b + x)) ∧
      VStores (.vstPLit t k l a b) s 20 t k a (b == 2) (fun j => s.xr b + word (j * z)) (some (b, s.xr b + l))) ∧
    (s.ready [.v a, .x b, .x c, .m k] →
      VStores (.vsts t k e a b c) s 12 t k a (b == 2) (fun j => (s.xr b + x) + word j * s.xr c) (none) ∧
      VStores (.vstsLit t k l a b c) s 20 t k a (b == 2) (fun j => (s.xr b + l) + word j * s.xr c) (none)) ∧
    (s.ready [.v a, .x b, .v c, .m k] →
      VStores (.vstx t k sh e a b c) s 12 t k a (b == 2) (fun j => (s.xr b + x) + (word (laneOf t.bits (s.vr c) j) <<< sh.toNat)) (none) ∧
      VStores (.vstxLit t k sh l a b c) s 20 t k a (b == 2) (fun j => (s.xr b + l) + (word (laneOf t.bits (s.vr c) j) <<< sh.toNat)) (none))

/-- O29 (R140, R134, R88, R144, R47, R48). For every state whose named registers are readable and declared, each
instruction of the VALU templates with two sources and vdiv, short and extended, retires with every lane of V[A] that
its mask lets take part written from the same lanes of V[B] and V[C] as R140 says at the lane type (IEEE 754 for
floating-point types, modulo 2^w or saturated for integers, the high half, the average rounded up, the quotient of
R47), its flags set, and nothing else of its effect. -/
def Obligations.VectorArithmeticResults : Prop :=
  ∀ (k : BitVec 2) (q : BitVec 3) (y : LaneT) (r : Rnd) (a b c : BitVec 5) (s : State),
    LaneOps (.vadd k y a b c) (.vaddExt q y r a b c) s k q y a b c (y.floatOr (fun f => f.add .rne) (fun w x z => (x + z) % 2 ^ w)) (y.floatOr (fun f => f.add r) (fun w x z => (x + z) % 2 ^ w)) ∧
    LaneOps (.vsub k y a b c) (.vsubExt q y r a b c) s k q y a b c (y.floatOr (fun f => f.sub .rne) (fun w x z => (x + 2 ^ w - z) % 2 ^ w)) (y.floatOr (fun f => f.sub r) (fun w x z => (x + 2 ^ w - z) % 2 ^ w)) ∧
    LaneOps (.vmul k y a b c) (.vmulExt q y r a b c) s k q y a b c (y.floatOr (fun f => f.mul .rne) (fun w x z => x * z % 2 ^ w)) (y.floatOr (fun f => f.mul r) (fun w x z => x * z % 2 ^ w)) ∧
    LaneOps (.vmin k y a b c) (.vminExt q y a b c) s k q y a b c (y.floatOr (fun f => f.minmax false) (fun w x z => if sgn w x ≤ sgn w z then x else z)) (y.floatOr (fun f => f.minmax false) (fun w x z => if sgn w x ≤ sgn w z then x else z)) ∧
    LaneOps (.vmax k y a b c) (.vmaxExt q y a b c) s k q y a b c (y.floatOr (fun f => f.minmax true) (fun w x z => if sgn w x ≤ sgn w z then z else x)) (y.floatOr (fun f => f.minmax true) (fun w x z => if sgn w x ≤ sgn w z then z else x)) ∧
    LaneOps (.vand k y a b c) (.vandExt q y a b c) s k q y a b c (fun x z => (x &&& z, Flags.none)) (fun x z => (x &&& z, Flags.none)) ∧
    LaneOps (.vor k y a b c) (.vorExt q y a b c) s k q y a b c (fun x z => (x ||| z, Flags.none)) (fun x z => (x ||| z, Flags.none)) ∧
    LaneOps (.vxor k y a b c) (.vxorExt q y a b c) s k q y a b c (fun x z => (x ^^^ z, Flags.none)) (fun x z => (x ^^^ z, Flags.none)) ∧
    LaneOps (.vandn k y a b c) (.vandnExt q y a b c) s k q y a b c (fun x z => (x - (x &&& z), Flags.none)) (fun x z => (x - (x &&& z), Flags.none)) ∧
    LaneOps (.vshl k y a b c) (.vshlExt q y a b c) s k q y a b c (fun x z => (x * 2 ^ (z % y.bits) % 2 ^ y.bits, Flags.none)) (fun x z => (x * 2 ^ (z % y.bits) % 2 ^ y.bits, Flags.none)) ∧
    LaneOps (.vshr k y a b c) (.vshrExt q y a b c) s k q y a b c (fun x z => (x / 2 ^ (z % y.bits), Flags.none)) (fun x z => (x / 2 ^ (z % y.bits), Flags.none)) ∧
    LaneOps (.vsra k y a b c) (.vsraExt q y a b c) s k q y a b c (fun x z => (wrap y.bits (sgn y.bits x / 2 ^ (z % y.bits)), Flags.none)) (fun x z => (wrap y.bits (sgn y.bits x / 2 ^ (z % y.bits)), Flags.none)) ∧
    LaneOps (.vminu k y a b c) (.vminuExt q y a b c) s k q y a b c (fun x z => (min x z, Flags.none)) (fun x z => (min x z, Flags.none)) ∧
    LaneOps (.vmaxu k y a b c) (.vmaxuExt q y a b c) s k q y a b c (fun x z => (max x z, Flags.none)) (fun x z => (max x z, Flags.none)) ∧
    LaneOps (.vmulh k y a b c) (.vmulhExt q y a b c) s k q y a b c (fun x z => (wrap y.bits (sgn y.bits x * sgn y.bits z / 2 ^ y.bits), Flags.none)) (fun x z => (wrap y.bits (sgn y.bits x * sgn y.bits z / 2 ^ y.bits), Flags.none)) ∧
    LaneOps (.vmulhu k y a b c) (.vmulhuExt q y a b c) s k q y a b c (fun x z => (x * z / 2 ^ y.bits, Flags.none)) (fun x z => (x * z / 2 ^ y.bits, Flags.none)) ∧
    LaneOps (.vavg k y a b c) (.vavgExt q y a b c) s k q y a b c (fun x z => (wrap y.bits ((sgn y.bits x + sgn y.bits z + 1) / 2), Flags.none)) (fun x z => (wrap y.bits ((sgn y.bits x + sgn y.bits z + 1) / 2), Flags.none)) ∧
    LaneOps (.vadds k y a b c) (.vaddsExt q y a b c) s k q y a b c (y.saturated true (fun x z => x + z)) (y.saturated true (fun x z => x + z)) ∧
    LaneOps (.vsubs k y a b c) (.vsubsExt q y a b c) s k q y a b c (y.saturated true (fun x z => x - z)) (y.saturated true (fun x z => x - z)) ∧
    LaneOps (.vaddsu k y a b c) (.vaddsuExt q y a b c) s k q y a b c (y.saturated false (fun x z => x + z)) (y.saturated false (fun x z => x + z)) ∧
    LaneOps (.vsubsu k y a b c) (.vsubsuExt q y a b c) s k q y a b c (y.saturated false (fun x z => x - z)) (y.saturated false (fun x z => x - z)) ∧
    LaneOps (.vdiv k y a b c) (.vdivExt q y a b c) s k q y a b c (y.floatOr2 (fun f => f.div .rne) (fun w x z => intDiv w true x z)) (y.floatOr2 (fun f => f.div .rne) (fun w x z => intDiv w true x z))

/-- O30 (R140, R144, R54, R88, R141). For every state whose named registers are readable and declared, vabs, vneg, vmov,
vclass and the special functions, short and extended, retire with every lane of V[A] that takes part written from the
same lane of V[B], and vsel with every lane from V[B] where its mask bit is 1 and from V[C] where it is 0; vexp2,
vlog2, vtanh and vsigm are correctly rounded, but where the model's enclosure of the real value does not decide the
rounding the value is free and taken from the counter of the model: that is the model's choice (log 53), since R54
leaves no value open; flags are set, and nothing else is changed. -/
def Obligations.VectorUnaryResults : Prop :=
  ∀ (k : BitVec 2) (q : BitVec 3) (y : LaneT) (a b c : BitVec 5) (s : State),
    LaneOps1 (.vabs k y a b) (.vabsExt q y a b) s k q y a b (fun _ => y.floatOr1 (fun f => f.abs) (fun w x => wrap w (sgn w x).natAbs)) ∧
    LaneOps1 (.vneg k y a b) (.vnegExt q y a b) s k q y a b (fun _ => y.floatOr1 (fun f => f.neg) (fun w x => wrap w (-sgn w x))) ∧
    LaneOps1 (.vmov k y a b) (.vmovExt q y a b) s k q y a b (fun _ x => (x, Flags.none)) ∧
    LaneOps1 (.vclass k y a b) (.vclassExt q y a b) s k q y a b (fun _ => y.floatOr1 (fun f x => (f.fclass x, 0)) (fun _ _ => 0)) ∧
    LaneOps1 (.vrcp k y a b) (.vrcpExt q y a b) s k q y a b (fun _ => y.floatOr1 (fun f => f.rcp) (fun _ _ => 0)) ∧
    LaneOps1 (.vrsqrt k y a b) (.vrsqrtExt q y a b) s k q y a b (fun _ => y.floatOr1 (fun f => f.rsqrt) (fun _ _ => 0)) ∧
    LaneOps1 (.vsqrt k y a b) (.vsqrtExt q y a b) s k q y a b (fun _ => y.floatOr1 (fun f => f.sqrt .rne) (fun _ _ => 0)) ∧
    LaneOps1At { s with n := s.n + 64 } (.vexp2 k y a b) (.vexp2Ext q y a b) s k q y a b (fun i => y.floatOr1 (fun f => f.exp2 (s.n + i)) (fun _ _ => 0)) ∧
    LaneOps1At { s with n := s.n + 64 } (.vlog2 k y a b) (.vlog2Ext q y a b) s k q y a b (fun i => y.floatOr1 (fun f => f.log2 (s.n + i)) (fun _ _ => 0)) ∧
    LaneOps1At { s with n := s.n + 64 } (.vtanh k y a b) (.vtanhExt q y a b) s k q y a b (fun i => y.floatOr1 (fun f => f.tanh (s.n + i)) (fun _ _ => 0)) ∧
    LaneOps1At { s with n := s.n + 64 } (.vsigm k y a b) (.vsigmExt q y a b) s k q y a b (fun i => y.floatOr1 (fun f => f.sigm (s.n + i)) (fun _ _ => 0)) ∧
    (s.ready [.v a, .v b, .v c, .m (k.setWidth 3)] → Retires (.vsel k y a b c) s 4 (s.vwrite y.bits 0 a (lanes y.bits (s.vr b))
      (lanes y.bits (s.vr c)) fun i _ x z => (if s.act (k.setWidth 3) i then x else z, Flags.none))) ∧
    (s.ready [.v a, .v b, .v c, .m q] → Retires (.vselExt q y a b c) s 12 (s.vwrite y.bits 0 a (lanes y.bits (s.vr b))
      (lanes y.bits (s.vr c)) fun i _ x z => (if s.act q i then x else z, Flags.none)))

/-- O31 (R141, R114, R88). For every state whose named registers are readable and declared, each vcmp, short and extended,
retires with bit i of M[A] the comparison of lane i of V[B] and V[C] where the mask lets the lane take part, its old
bit where not, and 0 above the last lane; floating-point types compare by R114 with its flags, integers as signed, and
as unsigned in ltu and leu; nothing else is changed. -/
def Obligations.VectorCompareResults : Prop :=
  ∀ (k : BitVec 2) (q : BitVec 3) (y : LaneT) (b c : BitVec 5) (a : BitVec 3) (s : State),
    (s.ready [.m a, .v b, .v c, .m (k.setWidth 3)] → Retires (.vcmpEq k y b c a) s 4 (s.compared (k.setWidth 3) a y.bits (fun x z => match y.fmt with | some f => f.cmp .eq x z | none => (decide (intVal y.bits true x = intVal y.bits true z), 0)) (s.vr b) (s.vr c))) ∧
    (s.ready [.m a, .v b, .v c, .m q] → Retires (.vcmpEqExt q y b c a) s 12 (s.compared q a y.bits (fun x z => match y.fmt with | some f => f.cmp .eq x z | none => (decide (intVal y.bits true x = intVal y.bits true z), 0)) (s.vr b) (s.vr c))) ∧
    (s.ready [.m a, .v b, .v c, .m (k.setWidth 3)] → Retires (.vcmpNe k y b c a) s 4 (s.compared (k.setWidth 3) a y.bits (fun x z => match y.fmt with | some f => f.cmp .ne x z | none => (decide (intVal y.bits true x ≠ intVal y.bits true z), 0)) (s.vr b) (s.vr c))) ∧
    (s.ready [.m a, .v b, .v c, .m q] → Retires (.vcmpNeExt q y b c a) s 12 (s.compared q a y.bits (fun x z => match y.fmt with | some f => f.cmp .ne x z | none => (decide (intVal y.bits true x ≠ intVal y.bits true z), 0)) (s.vr b) (s.vr c))) ∧
    (s.ready [.m a, .v b, .v c, .m (k.setWidth 3)] → Retires (.vcmpLt k y b c a) s 4 (s.compared (k.setWidth 3) a y.bits (fun x z => match y.fmt with | some f => f.cmp .lt x z | none => (decide (intVal y.bits true x < intVal y.bits true z), 0)) (s.vr b) (s.vr c))) ∧
    (s.ready [.m a, .v b, .v c, .m q] → Retires (.vcmpLtExt q y b c a) s 12 (s.compared q a y.bits (fun x z => match y.fmt with | some f => f.cmp .lt x z | none => (decide (intVal y.bits true x < intVal y.bits true z), 0)) (s.vr b) (s.vr c))) ∧
    (s.ready [.m a, .v b, .v c, .m (k.setWidth 3)] → Retires (.vcmpLe k y b c a) s 4 (s.compared (k.setWidth 3) a y.bits (fun x z => match y.fmt with | some f => f.cmp .le x z | none => (decide (intVal y.bits true x ≤ intVal y.bits true z), 0)) (s.vr b) (s.vr c))) ∧
    (s.ready [.m a, .v b, .v c, .m q] → Retires (.vcmpLeExt q y b c a) s 12 (s.compared q a y.bits (fun x z => match y.fmt with | some f => f.cmp .le x z | none => (decide (intVal y.bits true x ≤ intVal y.bits true z), 0)) (s.vr b) (s.vr c))) ∧
    (s.ready [.m a, .v b, .v c, .m (k.setWidth 3)] → Retires (.vcmpLtu k y b c a) s 4 (s.compared (k.setWidth 3) a y.bits (fun x z => match y.fmt with | some f => f.cmp .lt x z | none => (decide (intVal y.bits false x < intVal y.bits false z), 0)) (s.vr b) (s.vr c))) ∧
    (s.ready [.m a, .v b, .v c, .m q] → Retires (.vcmpLtuExt q y b c a) s 12 (s.compared q a y.bits (fun x z => match y.fmt with | some f => f.cmp .lt x z | none => (decide (intVal y.bits false x < intVal y.bits false z), 0)) (s.vr b) (s.vr c))) ∧
    (s.ready [.m a, .v b, .v c, .m (k.setWidth 3)] → Retires (.vcmpLeu k y b c a) s 4 (s.compared (k.setWidth 3) a y.bits (fun x z => match y.fmt with | some f => f.cmp .le x z | none => (decide (intVal y.bits false x ≤ intVal y.bits false z), 0)) (s.vr b) (s.vr c))) ∧
    (s.ready [.m a, .v b, .v c, .m q] → Retires (.vcmpLeuExt q y b c a) s 12 (s.compared q a y.bits (fun x z => match y.fmt with | some f => f.cmp .le x z | none => (decide (intVal y.bits false x ≤ intVal y.bits false z), 0)) (s.vr b) (s.vr c)))

/-- O32 (R142, R143, R63, R88). For every state whose named registers are readable and declared, vfma, vfms, vfnma and
vfnms, short and extended, retire with each lane of V[A] that takes part as plus or minus the product of the lanes of
V[B] and V[C], plus or minus its old value, rounded once, or modulo 2^w; vdot4 and vdot2 with each lane of 32 bits as
its old value plus the products of the 4 or 2 lanes that lie in it, saturated for integers with ISTAT.SAT, and rounded
once for floating-point types; nothing else is changed. The sign of an exact zero sum in vdot2, and NV for infinities
of both signs beside a quiet NaN, are the model's choice (log 54), as R63 gives neither. -/
def Obligations.MultiplyAddResults : Prop :=
  ∀ (k : BitVec 2) (q : BitVec 3) (y : LaneT) (r : Rnd) (a b c : BitVec 5) (s : State),
    (s.ready [.v a, .v b, .v c, .m (k.setWidth 3)] → Retires (.vfma k y a b c) s 4 (s.vwrite y.bits (k.setWidth 3) a (lanes y.bits (s.vr b)) (lanes y.bits (s.vr c)) fun _ => y.fma .rne false false)) ∧
    (s.ready [.v a, .v b, .v c, .m q] → Retires (.vfmaExt q y r a b c) s 12 (s.vwrite y.bits q a (lanes y.bits (s.vr b)) (lanes y.bits (s.vr c)) fun _ => y.fma r false false)) ∧
    (s.ready [.v a, .v b, .v c, .m (k.setWidth 3)] → Retires (.vfms k y a b c) s 4 (s.vwrite y.bits (k.setWidth 3) a (lanes y.bits (s.vr b)) (lanes y.bits (s.vr c)) fun _ => y.fma .rne false true)) ∧
    (s.ready [.v a, .v b, .v c, .m q] → Retires (.vfmsExt q y r a b c) s 12 (s.vwrite y.bits q a (lanes y.bits (s.vr b)) (lanes y.bits (s.vr c)) fun _ => y.fma r false true)) ∧
    (s.ready [.v a, .v b, .v c, .m (k.setWidth 3)] → Retires (.vfnma k y a b c) s 4 (s.vwrite y.bits (k.setWidth 3) a (lanes y.bits (s.vr b)) (lanes y.bits (s.vr c)) fun _ => y.fma .rne true false)) ∧
    (s.ready [.v a, .v b, .v c, .m q] → Retires (.vfnmaExt q y r a b c) s 12 (s.vwrite y.bits q a (lanes y.bits (s.vr b)) (lanes y.bits (s.vr c)) fun _ => y.fma r true false)) ∧
    (s.ready [.v a, .v b, .v c, .m (k.setWidth 3)] → Retires (.vfnms k y a b c) s 4 (s.vwrite y.bits (k.setWidth 3) a (lanes y.bits (s.vr b)) (lanes y.bits (s.vr c)) fun _ => y.fma .rne true true)) ∧
    (s.ready [.v a, .v b, .v c, .m q] → Retires (.vfnmsExt q y r a b c) s 12 (s.vwrite y.bits q a (lanes y.bits (s.vr b)) (lanes y.bits (s.vr c)) fun _ => y.fma r true true)) ∧
    (s.ready [.v a, .v b, .v c, .m (k.setWidth 3)] → Retires (.vdot4 k y a b c) s 4 (s.vwrite 32 (k.setWidth 3) a (lanes 32 (s.vr b)) (lanes 32 (s.vr c)) fun j d _ _ =>
      y.dot .rne d (s.parts y 4 b j) (s.parts y 4 c j))) ∧
    (s.ready [.v a, .v b, .v c, .m q] → Retires (.vdot4Ext q y a b c) s 12 (s.vwrite 32 q a (lanes 32 (s.vr b)) (lanes 32 (s.vr c)) fun j d _ _ =>
      y.dot .rne d (s.parts y 4 b j) (s.parts y 4 c j))) ∧
    (s.ready [.v a, .v b, .v c, .m (k.setWidth 3)] → Retires (.vdot2 k y a b c) s 4 (s.vwrite 32 (k.setWidth 3) a (lanes 32 (s.vr b)) (lanes 32 (s.vr c)) fun j d _ _ =>
      y.dot .rne d (s.parts y 2 b j) (s.parts y 2 c j))) ∧
    (s.ready [.v a, .v b, .v c, .m q] → Retires (.vdot2Ext q y r a b c) s 12 (s.vwrite 32 q a (lanes 32 (s.vr b)) (lanes 32 (s.vr c)) fun j d _ _ =>
      y.dot r d (s.parts y 2 b j) (s.parts y 2 c j)))

/-- O33 (R145, R146, R53, R56, R57). For every state whose named registers are readable and declared, vcvt retires with
the lanes that it has converted (part of the source where it is the wider set, part of the destination where that is)
under its mask; vpackgx with the 32 elements of V[B] encoded as two blocks at its byte offset of V[A], the other bytes
kept; vunpackgx with the elements of the two blocks there in the 32 lanes of V[A]; flags are set, and nothing else is
changed. -/
def Obligations.ConversionResults : Prop :=
  ∀ (td ts : Type4) (part : BitVec 3) (r : Rnd) (k : BitVec 3) (a b : BitVec 5) (g : GxT) (off : BitVec 7) (s : State),
    (s.ready [.v a, .v b, .m k] →
      (let ns := 1024 / ts.bits
       let nd := 1024 / td.bits
       let from_ (i : Nat) : Option Nat :=
         if nd ≤ ns then some (i + part.toNat * nd)
         else if part.toNat * ns ≤ i ∧ i < part.toNat * ns + ns then some (i - part.toNat * ns) else none
       let f (x : Nat) : Nat × Flags := match ts.elem, td.elem with
         | some p, some q => convert p q r x
         | _, _ => (x, Flags.none)
       let new (i : Nat) : Nat × Flags := match from_ i with
         | some j => if s.act k i then f (laneOf ts.bits (s.vr b) j) else (laneOf td.bits (s.vr a) i, Flags.none)
         | none => (laneOf td.bits (s.vr a) i, Flags.none)
       ts.lane = true → td.lane = true → cvtPartOk td ts part = true →
       Retires (.vcvt td ts part r k a b) s 12
         ((s.setV a (ofLanes td.bits ((List.range nd).map fun i => (new i).1))).setFlags
           ((List.range nd).foldr (fun i fl => (new i).2.or fl) Flags.none))) ∧
      (let z := 8 * g.blockBytes
       let v := s.vr b / 2 ^ (8 * off.toNat)
       let xs := (Block.unpack g.b (v % 2 ^ z)).toF32 g.b ++ (Block.unpack g.b (v / 2 ^ z % 2 ^ z)).toF32 g.b
       Retires (.vunpackgx g off k a b) s 12 (s.vwrite 32 k a xs xs fun _ _ x _ => (x, Flags.none)))) ∧
    (s.ready [.v a, .v b] →
      let xs := (lanes 32 (s.vr b)).map Fmt.f32.decode
      let p := gxEncode g.b (xs.take 16)
      let q := gxEncode g.b (xs.drop 16)
      let z := 8 * g.blockBytes
      let o := 8 * off.toNat
      let old := s.vr a
      Retires (.vpackgx g off a b) s 12
        ((s.setV a (old % 2 ^ o + (p.1.pack g.b + q.1.pack g.b * 2 ^ z) * 2 ^ o + old / 2 ^ (o + 2 * z) * 2 ^ (o + 2 * z))).setFp
          (p.2 ||| q.2)))

/-- O34 (R147, R88). For every state whose named registers are readable and declared, each permutation, short and
extended, retires with lane i of V[A], where the mask lets it take part, as R147 gives it (n lanes): lane V[C][i] mod
n for vperm, i - X[C] or its old value for vslideup, i + X[C] or 0 for vslidedn, X[B] for vbcast, X[B] in lane X[C]
mod n for vins, the low halves in turn for vzip, even lanes then odd lanes for vunzip, lane n - 1 - i for vrev; vext
writes lane X[C] mod n to X[A], sign-extended for the i types; nothing else is changed. -/
def Obligations.PermutationResults : Prop :=
  ∀ (k : BitVec 2) (q : BitVec 3) (y : LaneT) (a b c : BitVec 5) (s : State),
    let n := 1024 / y.bits
    (s.ready [.v a, .v b, .v c, .m (k.setWidth 3)] → Retires (.vperm k y a b c) s 4 (s.permuted (k.setWidth 3) y a fun i => laneOf y.bits (s.vr b) (laneOf y.bits (s.vr c) i % n))) ∧
    (s.ready [.v a, .v b, .v c, .m q] → Retires (.vpermExt q y a b c) s 12 (s.permuted q y a fun i => laneOf y.bits (s.vr b) (laneOf y.bits (s.vr c) i % n))) ∧
    (s.ready [.v a, .v b, .x c, .m (k.setWidth 3)] → Retires (.vslideup k y a b c) s 4 (s.permuted (k.setWidth 3) y a fun i => if (s.xr c).toNat ≤ i then laneOf y.bits (s.vr b) (i - (s.xr c).toNat) else laneOf y.bits (s.vr a) i)) ∧
    (s.ready [.v a, .v b, .x c, .m q] → Retires (.vslideupExt q y a b c) s 12 (s.permuted q y a fun i => if (s.xr c).toNat ≤ i then laneOf y.bits (s.vr b) (i - (s.xr c).toNat) else laneOf y.bits (s.vr a) i)) ∧
    (s.ready [.v a, .v b, .x c, .m (k.setWidth 3)] → Retires (.vslidedn k y a b c) s 4 (s.permuted (k.setWidth 3) y a fun i => if i + (s.xr c).toNat < n then laneOf y.bits (s.vr b) (i + (s.xr c).toNat) else 0)) ∧
    (s.ready [.v a, .v b, .x c, .m q] → Retires (.vslidednExt q y a b c) s 12 (s.permuted q y a fun i => if i + (s.xr c).toNat < n then laneOf y.bits (s.vr b) (i + (s.xr c).toNat) else 0)) ∧
    (s.ready [.v a, .x b, .m (k.setWidth 3)] → Retires (.vbcast k y a b) s 4 (s.permuted (k.setWidth 3) y a fun _ => (s.xr b).toNat % 2 ^ y.bits)) ∧
    (s.ready [.v a, .x b, .m q] → Retires (.vbcastExt q y a b) s 12 (s.permuted q y a fun _ => (s.xr b).toNat % 2 ^ y.bits)) ∧
    (s.ready [.v a, .x b, .x c, .m (k.setWidth 3)] → Retires (.vins k y a b c) s 4 (s.permuted (k.setWidth 3) y a fun i => if i = (s.xr c).toNat % n then (s.xr b).toNat % 2 ^ y.bits else laneOf y.bits (s.vr a) i)) ∧
    (s.ready [.v a, .x b, .x c, .m q] → Retires (.vinsExt q y a b c) s 12 (s.permuted q y a fun i => if i = (s.xr c).toNat % n then (s.xr b).toNat % 2 ^ y.bits else laneOf y.bits (s.vr a) i)) ∧
    (s.ready [.v a, .v b, .v c, .m (k.setWidth 3)] → Retires (.vzip k y a b c) s 4 (s.permuted (k.setWidth 3) y a fun i => if i % 2 = 0 then laneOf y.bits (s.vr b) (i / 2) else laneOf y.bits (s.vr c) (i / 2))) ∧
    (s.ready [.v a, .v b, .v c, .m q] → Retires (.vzipExt q y a b c) s 12 (s.permuted q y a fun i => if i % 2 = 0 then laneOf y.bits (s.vr b) (i / 2) else laneOf y.bits (s.vr c) (i / 2))) ∧
    (s.ready [.v a, .v b, .m (k.setWidth 3)] → Retires (.vunzip k y a b) s 4 (s.permuted (k.setWidth 3) y a fun i => if i < n / 2 then laneOf y.bits (s.vr b) (2 * i) else laneOf y.bits (s.vr b) (2 * (i - n / 2) + 1))) ∧
    (s.ready [.v a, .v b, .m q] → Retires (.vunzipExt q y a b) s 12 (s.permuted q y a fun i => if i < n / 2 then laneOf y.bits (s.vr b) (2 * i) else laneOf y.bits (s.vr b) (2 * (i - n / 2) + 1))) ∧
    (s.ready [.v a, .v b, .m (k.setWidth 3)] → Retires (.vrev k y a b) s 4 (s.permuted (k.setWidth 3) y a fun i => laneOf y.bits (s.vr b) (n - 1 - i))) ∧
    (s.ready [.v a, .v b, .m q] → Retires (.vrevExt q y a b) s 12 (s.permuted q y a fun i => laneOf y.bits (s.vr b) (n - 1 - i))) ∧
    (s.ready [.x a, .v b, .x c] → Retires (.vext y a b c) s 4 (s.setX a (y.laneToX (laneOf y.bits (s.vr b) ((s.xr c).toNat % n))))) ∧
    (s.ready [.x a, .v b, .x c] → Retires (.vextExt y a b c) s 12 (s.setX a (y.laneToX (laneOf y.bits (s.vr b) ((s.xr c).toNat % n)))))

/-- O35 (R62, R147, R148, R149, R88). For every state whose named registers are readable and declared, vred puts the tree
reduction of the lanes that take part, the identity standing for the others, into lane 0 of V[A] and keeps the other
lanes; vscan gives lane i the running value up to it, in the lanes that take part; vkeep2 puts the two kept lanes of
every group of four into the low half of V[A], zero above, and their places into M[C]; flags are set, and nothing else
is changed. R62, R147, R148 and R149 give the functions. -/
def Obligations.ReductionResults : Prop :=
  ∀ (k : BitVec 2) (q e : BitVec 3) (y : LaneT) (r : Rnd) (a b : BitVec 5) (s : State),
    (s.ready [.v a, .v b, .m (k.setWidth 3)] → Retires (.vredAdd k y a b) s 4 (s.reduced (k.setWidth 3) y (.add .rne) a b)) ∧
    (s.ready [.v a, .v b, .m q] → Retires (.vredAddExt q y r a b) s 12 (s.reduced q y (.add r) a b)) ∧
    (s.ready [.v a, .v b, .m (k.setWidth 3)] → Retires (.vredMax k y a b) s 4 (s.reduced (k.setWidth 3) y .max a b)) ∧
    (s.ready [.v a, .v b, .m q] → Retires (.vredMaxExt q y a b) s 12 (s.reduced q y .max a b)) ∧
    (s.ready [.v a, .v b, .m (k.setWidth 3)] → Retires (.vredMin k y a b) s 4 (s.reduced (k.setWidth 3) y .min a b)) ∧
    (s.ready [.v a, .v b, .m q] → Retires (.vredMinExt q y a b) s 12 (s.reduced q y .min a b)) ∧
    (s.ready [.v a, .v b, .m (k.setWidth 3)] → Retires (.vscanAdd k y a b) s 4 (s.scanned (k.setWidth 3) y (.add .rne) a b)) ∧
    (s.ready [.v a, .v b, .m q] → Retires (.vscanAddExt q y r a b) s 12 (s.scanned q y (.add r) a b)) ∧
    (s.ready [.v a, .v b, .m (k.setWidth 3)] → Retires (.vscanMax k y a b) s 4 (s.scanned (k.setWidth 3) y .max a b)) ∧
    (s.ready [.v a, .v b, .m q] → Retires (.vscanMaxExt q y r a b) s 12 (s.scanned q y .max a b)) ∧
    (s.ready [.v a, .v b, .m e] → Retires (.vkeep2 y a b e) s 4 ((s.setV a (ofLanes y.bits (keepLanes y (lanes y.bits (s.vr b))).1)).setM e (BitVec.ofNat 128 (keepLanes y (lanes y.bits (s.vr b))).2))) ∧
    (s.ready [.v a, .v b, .m e] → Retires (.vkeep2Ext y a b e) s 12 ((s.setV a (ofLanes y.bits (keepLanes y (lanes y.bits (s.vr b))).1)).setM e (BitVec.ofNat 128 (keepLanes y (lanes y.bits (s.vr b))).2)))

/-- O36 (R148). Of four lanes the two places that vkeep2 keeps are different, below 4 and in ascending order, and no place
left out has a larger magnitude than a place kept; where it has the same, it lies after it (R148). -/
def Obligations.KeepTwoPlaces : Prop :=
  ∀ (w x y z : Nat),
    let g := [w, x, y, z]
    let p := keepTwo g
    p.1 < p.2 ∧ p.2 < 4 ∧ ∀ i, i < 4 → i ≠ p.1 → i ≠ p.2 → ∀ j, j = p.1 ∨ j = p.2 →
      g.getD i 0 < g.getD j 0 ∨ (g.getD i 0 = g.getD j 0 ∧ j < i)

/-- O37 (R150, R31). For every state whose named registers are readable and declared, mand, mor, mxor, mandn and mnot
write M[A] bit by bit; mpopc writes the number of one bits and mfirst the place of the lowest, 128 where there is
none, to X[A]; mfromx and mtox move one half of a mask from or to an x register; mlanes sets the low X[B] bits, all
for 128 and above; nothing else is changed. -/
def Obligations.MaskResults : Prop :=
  ∀ (a b c : BitVec 3) (d : BitVec 5) (s : State),
    (s.ready [.m a, .m b, .m c] →
      Retires (.mand a b c) s 4 (s.setM a (s.mr b &&& s.mr c)) ∧ Retires (.mor a b c) s 4 (s.setM a (s.mr b ||| s.mr c)) ∧
      Retires (.mxor a b c) s 4 (s.setM a (s.mr b ^^^ s.mr c)) ∧ Retires (.mandn a b c) s 4 (s.setM a (s.mr b &&& ~~~(s.mr c)))) ∧
    (s.ready [.m a, .m b] → Retires (.mnot a b) s 4 (s.setM a (~~~(s.mr b)))) ∧
    (s.ready [.x d, .m b] →
      Retires (.mpopc d b) s 4 (s.setX d (word ((List.range 128).countP fun i => (s.mr b).getLsbD i))) ∧
      (∀ i, i < 128 → (s.mr b).getLsbD i = true → (∀ j, j < i → (s.mr b).getLsbD j = false) →
        Retires (.mfirst d b) s 4 (s.setX d (word i))) ∧
      (s.mr b = 0 → Retires (.mfirst d b) s 4 (s.setX d 128)) ∧
      Retires (.mtox false d b) s 4 (s.setX d ((s.mr b).extractLsb' 0 64)) ∧
      Retires (.mtox true d b) s 4 (s.setX d ((s.mr b).extractLsb' 64 64))) ∧
    (s.ready [.m a, .x d] →
      Retires (.mfromx false a d) s 4 (s.setM a ((s.mr a).extractLsb' 64 64 ++ s.xr d)) ∧
      Retires (.mfromx true a d) s 4 (s.setM a (s.xr d ++ (s.mr a).extractLsb' 0 64)) ∧
      (∃ m : BitVec 128, (∀ i, i < 128 → m.getLsbD i = decide (i < (s.xr d).toNat)) ∧ Retires (.mlanes a d) s 4 (s.setM a m)))

/-- O38 (R88, R134, R35, R40). A masked write of lanes of 8, 16, 32 or 64 bits of V[d] in a state of canonical memory
gives lane i the low bits of its function where the mask lets it take part, and leaves it as it was where not; it
changes no byte of the pool outside the row of V[d], no x, mask or handle register and no byte of device memory; the
flags of the lanes that take part are set, and no flag is cleared (R88, R134, R40). -/
def Obligations.VectorWriteLanes : Prop :=
  ∀ (w : Nat) (k : BitVec 3) (d : BitVec 5) (as cs : List Nat) (f : Nat → Nat → Nat → Nat → Nat × Flags) (s : State),
    w = 8 ∨ w = 16 ∨ w = 32 ∨ w = 64 → s.canonical → as.length = 1024 / w → cs.length = 1024 / w →
    let t := s.vwrite w k d as cs f
    (∀ i, i < 1024 / w → laneOf w (t.vr d) i =
      if s.act k i then (f i (laneOf w (s.vr d) i) (as.getD i 0) (cs.getD i 0)).1 % 2 ^ w else laneOf w (s.vr d) i) ∧
    (∀ b, b / 128 ≠ s.vrow d → t.core.pool.read b = s.core.pool.read b) ∧
    (∀ n, t.xr n = s.xr n) ∧ (∀ n, t.mr n = s.mr n) ∧ (∀ n, t.hr n = s.hr n) ∧ (∀ n, t.cr n = s.cr n) ∧ t.mem = s.mem ∧
    (∀ b, t.me.fpflags.getLsbD b = (s.me.fpflags.getLsbD b ||
      (List.range (1024 / w)).any fun i => s.act k i &&
        (f i (laneOf w (s.vr d) i) (as.getD i 0) (cs.getD i 0)).2.fp.getLsbD b)) ∧
    ∀ b, t.me.istat.getLsbD b = (s.me.istat.getLsbD b ||
      (List.range (1024 / w)).any fun i => s.act k i &&
        (f i (laneOf w (s.vr d) i) (as.getD i 0) (cs.getD i 0)).2.ist.getLsbD b)

/-- O39 (R72, R74, R75, R151, R152, R153, R154). For every state whose x registers are readable and declared: sadd, ssub,
smul, sfma, smin, smax, scvt, scopy, sexp2, srsum, srmax and sbcast begin at CURSOR of their destination record, or go
on where their context stands; a step whose accesses are ready has its effect on the destination and, where elements
remain, leaves the context to go on with the next; the last step also writes CURSOR 0, and the instruction retires. A
record that fails a stage faults with that stage; a CURSOR at or above the element count writes CURSOR 0 and retires,
and so do records without elements, which is the model's choice (log 56). Choices of the model are also that sexp2
takes a free value where its enclosure does not decide the rounding (log 53), what stage 9 names in TVAL and of BCAST
in a reduction (log 97), and the canonical NaN of srsum of one element (log 54). shp.check writes the failure of stage
1 at once, and else takes one step for each record and each length table; the step that ends the check writes the
failure, or 0, and it retires. -/
def Obligations.ShapeFormSteps : Prop :=
  ∀ (r : Rnd) (a b c e : BitVec 5) (s : State),
    ShapeForm (.sadd r a b c) s [.x a, .x b, .x c] (ops3 a b c s) Type4.lane true false (ShOp.step .add r 0) ∧
    ShapeForm (.ssub r a b c) s [.x a, .x b, .x c] (ops3 a b c s) Type4.lane true false (ShOp.step .sub r 0) ∧
    ShapeForm (.smul r a b c) s [.x a, .x b, .x c] (ops3 a b c s) Type4.lane true false (ShOp.step .mul r 0) ∧
    ShapeForm (.sfma r a b c) s [.x a, .x b, .x c] (ops3 a b c s) Type4.lane true false (ShOp.step .fma r 0) ∧
    ShapeForm (.smin a b c) s [.x a, .x b, .x c] (ops3 a b c s) Type4.lane true false (ShOp.step .min .rne 0) ∧
    ShapeForm (.smax a b c) s [.x a, .x b, .x c] (ops3 a b c s) Type4.lane true false (ShOp.step .max .rne 0) ∧
    ShapeForm (.scvt r a b) s [.x a, .x b] (ops2 a b s) notB1 false false (ShOp.step .cvt r 0) ∧
    ShapeForm (.scopy a b) s [.x a, .x b] (ops2 a b s) notB1 true false (ShOp.step .copy .rne 0) ∧
    ShapeForm (.sexp2 a b) s [.x a, .x b] (ops2 a b s) isF true false (ShOp.step .exp2 .rne 0) ∧
    ShapeForm (.srsum r a b) s [.x a, .x b] (ops2 a b s) Type4.lane true true (RedOp.step (.add r)) ∧
    ShapeForm (.srmax a b) s [.x a, .x b] (ops2 a b s) Type4.lane true true (RedOp.step .max) ∧
    ShapeForm (.sbcast a b) s [.x a, .x b] ([(1, (s.xr a).toNat, true)]) Type4.lane true false (fun u => ShOp.step .bcast .rne (u.xr b).toNat u) ∧
    (s.ready [.x a, .x b, .x c, .x e] →
      let ops := [(1, (s.xr b).toNat, true)] ++ (if c = 0 then [] else [(2, (s.xr c).toNat, false)]) ++
        (if e = 0 then [] else [(3, (s.xr e).toNat, false)])
      let ended (t : State) : State := t.updMe fun x => { x with shape := none }
      (s.me.shape = none → ∀ q, s.opStage1 ops = some q →
        Retires (.shpCheck a b c e) s 12 ((ended s).setX a (checkWord ops q.1 q.2))) ∧
      ∀ run next u q, (s.me.shape = some run ∨ (s.me.shape = none ∧ s.opStage1 ops = none ∧ run = ⟨true, [], 0⟩)) →
        s.checkStep ops run = .ok (q, next, u) →
        (q = none → exec (.shpCheck a b c e) s = .next ((u.updMe fun x => { x with shape := some next }).setWait .none)) ∧
        (∀ j x, q = some (.bad j x) → Retires (.shpCheck a b c e) s 12 ((ended u).setX a (checkWord ops j x))) ∧
        (∀ o, q = some o → (∀ j x, o ≠ .bad j x) → Retires (.shpCheck a b c e) s 12 ((ended u).setX a 0)))

/-- O40 (R184, R181, R182, R183, R191, R208, R210). For every state whose named registers are readable and declared: a
misaligned address faults with MISALIGNED and an aligned one from 2^32 on with CARD_FORMAT; at a scratchpad address
that meets the checks and waits for nothing, a post faults with FUTURE_FULL where no future entry is free, waits where
the ring is full, and otherwise retires with the handle of the lowest free entry in H[A] and that entry in use for the
poster. A card that offends no rule is then at the end of the ring, with its 64 bytes and the record read with it, and
its entry is not complete; one that offends a rule completes at once with that cause and TVAL: CARD_FORMAT with the
lowest offending field, the fault of its record, or DECL_BARRIER; nothing is queued then, and the ring holds no card
that it did not hold, but for their times. The order in which offences are sought, and so which one is reported, is
the model's choice (log 44), as are MISALIGNED for a record address (log 45) and what roles and counts of entries
offend (logs 57, 102). -/
def Obligations.CardPosting : Prop :=
  ∀ (d : BitVec 4) (a : BitVec 5) (i : Nat) (eng : Bool) (s : State), s.ready [.h d, .x a] →
    let post : Instr := if eng then .postCp d a else .postMx d a
    let addr := (s.xr a).toNat
    let k := s.newCard i (BitVec.ofNat 512 (s.core.pool.readLE addr 64))
    let bad := s.cardBad s.cur eng k
    let posted (t : State) : Prop := Retires post s 4 t ∧ t.hr d = handleOf i (s.core.fut i) ∧ (t.core.fut i).used = true ∧
      (t.core.fut i).poster = s.ctx
    let queued (x : Card) : Prop := ∃ t z, posted t ∧ (t.core.fut i).complete = false ∧
      t.core.ring eng = s.core.ring eng ++ [z] ∧ { z with pts := 0 } = x
    let done (e : Trap) : Prop := ∃ t, posted t ∧ (t.core.fut i).complete = true ∧ (t.core.fut i).cause = e.1 ∧
      (t.core.fut i).tval = e.2 ∧ ∀ z ∈ t.core.ring eng, ∃ j ∈ s.core.ring eng, { z with pts := j.pts } = j
    let outcome (x : Card) (err : Option Trap) : Prop := (err = none → queued x) ∧ ∀ e, err = some e → done e
    (addr % 64 ≠ 0 → Traps post s Cause.MISALIGNED (s.xr a)) ∧
    (addr % 64 = 0 → 2 ^ 32 ≤ addr → Traps post s Cause.CARD_FORMAT (s.xr a)) ∧
    (s.padOk true false false (s.xr a) 64 →
      (s.core.freeEntry = none → Traps post s Cause.FUTURE_FULL 0) ∧
      (s.core.freeEntry = some i →
        (ringSize eng ≤ (s.core.ring eng).length → exec post s = .next (s.setWait .other)) ∧
        ((s.core.ring eng).length < ringSize eng →
          ((k.hasRec = false ∨ 0 ∈ bad) → outcome k ((formatErr bad).or (s.core.cardBar k))) ∧
          (k.hasRec = true → 0 ∉ bad → ∀ (b : List Byte) (u w : State) (x : Card) (e : Option Trap),
            s.ctxRead (.pool addr) (s.xr a) 64 = .ok (b, u) →
            u.readRecord k (if eng then .write else .read) = .ok (x, e, w) →
            outcome x ((firstOffence (formatErr bad) e).or (s.core.cardBar x))))))

/-- O41 (R185, R186, R187, R188, R183). For every state whose named registers are readable and declared: fwait on a
complete live entry frees it and writes the status, or in its trap form retires and then traps where CAUSE is not 0;
on one in flight it waits on the handle. ftest writes the status and frees nothing. fcancel completes a queued card,
marks a running one, and otherwise has no effect. fwaitany writes the lowest selected h register whose card is
complete, 16 for an empty mask. fmovx and xmovf move a handle with the core number. fence.cards retires where no card
of the context is in a ring. A handle that is not live faults with FUTURE_STALE. That the trap form of fwait takes its
own exception and no other where TFLAGS.STEP is set is the model's choice (log 51). -/
def Obligations.FutureResults : Prop :=
  ∀ (d a : BitVec 5) (h : BitVec 4) (i n : Nat) (f : Future) (c : Card) (s : State),
    let free := (s.updCore fun co => co.freeFut i).follow f.pts
    let stale (j : Instr) : Prop := s.core.liveFut (s.hr h) = none → Traps j s Cause.FUTURE_STALE ((s.hr h).setWidth 64)
    (s.ready [.x d, .h h] → (∀ g r, s.me.wait ≠ .fut g (some r)) →
      stale (.fwait d h) ∧ stale (.ftest d h) ∧
      (s.core.liveFut (s.hr h) = some (i, f) →
        (f.complete = false → exec (.fwait d h) s = .next (s.setWait (.fut (s.hr h) none))) ∧
        (f.complete = true → d ≠ 0 → Retires (.fwait d h) s 4 (free.setX d f.status)) ∧
        (f.complete = true → d = 0 → f.cause = 0 → Retires (.fwait d h) s 4 free) ∧
        (f.complete = true → d = 0 → f.cause ≠ 0 →
          exec (.fwait d h) s = .next ((free.retire false s.me.pc).takeTrap (s.me.pc + 4) f.cause f.tval)) ∧
        Retires (.ftest d h) s 4 ((if f.complete then s.follow f.pts else s).setX d f.status))) ∧
    (s.ready [.h h] → stale (.fcancel h) ∧
      (s.core.liveFut (s.hr h) = some (i, f) →
        (s.core.cards.find? (fun c => c.slot == i) = none → Retires (.fcancel h) s 4 s) ∧
        (s.core.cards.find? (fun c => c.slot == i) = some c →
          (c.running = true → Retires (.fcancel h) s 4 (s.updCard s.cur c.eng c.seq fun k => { k with cancelled := true })) ∧
          (c.running = false → Retires (.fcancel h) s 4 (s.completeCard s.cur { c with cancelled := true } 0 0 false))))) ∧
    (s.ready [.x d, .x a] →
      ((∀ m, m < 16 → (s.xr a).getLsbD m = false) → Retires (.fwaitany d a) s 4 (s.setX d 16)) ∧
      (n < 16 → (s.xr a).getLsbD n = true → s.core.liveFut (s.hr (BitVec.ofNat 4 n)) = some (i, f) → f.complete = true →
        (∀ m, m < 16 → (s.xr a).getLsbD m = true → (s.core.limited = true → m < s.core.handles) ∧
          ∃ j g, s.core.liveFut (s.hr (BitVec.ofNat 4 m)) = some (j, g) ∧ (m < n → g.complete = false)) →
        Retires (.fwaitany d a) s 4 ((s.follow f.pts).setX d (word n)))) ∧
    (s.ready [.x d, .h h] → Retires (.fmovx d h) s 4 (s.setX d (word (s.cur % 2 ^ 14 * 2 ^ 16 + (s.hr h).toNat)))) ∧
    (s.ready [.h h, .x a] →
      ((s.xr a).toNat / 2 ^ 16 = s.cur → Retires (.xmovf h a) s 4 (s.setH h ((s.xr a).setWidth 16))) ∧
      ((s.xr a).toNat / 2 ^ 16 ≠ s.cur → Traps (.xmovf h a) s Cause.FUTURE_FOREIGN (s.xr a))) ∧
    ((∀ k ∈ s.core.cards, k.poster ≠ s.ctx) →
      Retires .fenceCards s 4 (s.follow (s.core.doneTs fun f => f.poster == s.ctx)))

/-- O42 (R166, R167, R168, R170). For every state whose named registers are readable, whose barrier is declared, and
unlinked or linked with the executing core the holder of its fields, and whose context has no barrier event on its
way: bar.init, bar.arrive, bar.drop, bar.wait, bar.expect (both lengths) and bar.test act as R168 lays them down: the
new fields and marks, the completion of a phase, the sleep of bar.wait and the end of that sleep, the BAR_BUSY (a
sleeper on any member), BAR_OVER and BAR_BYTES_OVER cases with their TVAL; no other barrier of the core and no mark of
another of its contexts changes but where bar.init clears them. -/
def Obligations.BarrierResults : Prop :=
  ∀ (b : BitVec 6) (a d : BitVec 5) (n : BitVec 32) (s : State), s.ready [.b b] →
    let q := b.toNat
    let v := s.barAt s.cur q
    let x := s.me
    let old (j : Nat) := (s.core.ctxAt j).marks q
    let new (m : Bool × Bool × Bool) (j : Nat) := if j = s.ctx then m else old j
    let busy := x.isDropped q = true ∨ (x.isPend q = true ∧ x.isAph q = v.phase) ∨ v.arr = v.exp
    let asleep := ∃ k ∈ s.barMembers s.cur q, ∃ j, j < 11 ∧ ((s.coreAt k).ctxAt j).sleepsOn q = true
    let init (i : Instr) (len : Nat) (n : Word) : Prop :=
      (asleep → Traps i s Cause.BAR_BUSY (word q)) ∧
      (¬asleep → 255 < n.toNat → Traps i s Cause.BAR_OVER (n <<< 8 ||| word q)) ∧
      (¬asleep → n.toNat ≤ 255 → BarMakes i s len q { v with exp := n.setWidth 8, arr := 0, drops := 0, bexp := 0, barr := 0 }
        fun j => if j < 11 then (false, false, false) else old j)
    let expect (i : Instr) (len : Nat) (n : Word) : Prop :=
      (n.toNat < v.barr.toNat → Traps i s Cause.BAR_BYTES_OVER (n <<< 8 ||| word q)) ∧
      (v.barr.toNat ≤ n.toNat → BarMakes i s len q (Barrier.tried { v with bexp := n.setWidth 32 }) old)
    v.want = 0 → s.barHolder s.cur q = s.cur → x.bans = none →
      init (.barInitImm b n) 12 (n.setWidth 64) ∧ expect (.barExpectImm b n) 12 (n.setWidth 64) ∧
      (s.ready [.b b, .x a] → init (.barInit b a) 4 (s.xr a) ∧ expect (.barExpect b a) 4 (s.xr a)) ∧
      (busy → Traps (.barArrive b) s Cause.BAR_OVER (word q) ∧ Traps (.barDrop b) s Cause.BAR_OVER (word q)) ∧
      (¬busy → BarMakes (.barArrive b) s 4 q (Barrier.tried { v with arr := v.arr + 1 }) (new (true, v.phase, x.isDropped q)) ∧
        BarMakes (.barDrop b) s 4 q (Barrier.tried { v with arr := v.arr + 1, drops := v.drops + 1 }) (new (true, v.phase, true))) ∧
      (s.ready [.b b, .x d] → Retires (.barTest b d) s 4 ((s.barStamp s.cur s.ctx q).setX d
        (word (v.barr.toNat * 2 ^ 32 + v.exp.toNat * 2 ^ 24 + v.arr.toNat * 2 ^ 16 + (if x.isDropped q then 4 else 0) +
          (if x.isPend q then 2 else 0) + if v.phase then 1 else 0)))) ∧
      (x.wait = .bar q true → Retires (.barWait b) s 4 (s.barWoken q)) ∧
      (x.wait = .bar q false → exec (.barWait b) s = .next (s.setWait (.bar q false))) ∧
      ((∀ c w, x.wait ≠ .bar c w) →
        (x.isPend q = true → x.isAph q ≠ v.phase → BarMakes (.barWait b) s 4 q v (new (false, x.isAph q, x.isDropped q))) ∧
        (¬(x.isPend q = true ∧ x.isAph q ≠ v.phase) → v.arr = v.exp → v.barr = v.bexp →
          BarMakes (.barWait b) s 4 q v.tried (new (false, x.isAph q, x.isDropped q))) ∧
        (¬(x.isPend q = true ∧ x.isAph q ≠ v.phase) → ¬(v.arr = v.exp ∧ v.barr = v.bexp) →
          ∃ t, exec (.barWait b) s = .next t ∧ t.me.wait = .bar q false ∧ t.me.pc = x.pc ∧
            { t.barAt s.cur q with ts := v.ts } = v))

/-- O43 (R168, R170, R341). A barrier function of a context with no answer waits while a link of its barrier is pending on
the core, and sends its event to the holder of the fields where that is another core, which runs, and fewer than 32
packets of the core are on their way (else it waits); it waits for the answer, retires with it (bar.test writes it) or
takes its fault. The arrival that completes a phase of an unlinked barrier wakes every context of the core that sleeps
on it (each has its bar.wait left to return). bar.link with mask 0 on a core in no link retires and clears its pending
mask, which is the model's choice (log 93), as R170 is silent on a mask that is pending; a nonzero mask that omits the
executing core or has a bit above 15 faults with BAR_NOT_MEMBER and the mask in TVAL, and nothing changes; a mask that
no other mask of the cluster conflicts with, whose cores exist and have the same holder, is kept as the pending mask
of the core's own barrier where a member has not given it yet, and no other barrier of that number changes; a mask of
the core alone forms at once. -/
def Obligations.BarrierWakeAndLink : Prop :=
  ∀ (b : BitVec 6) (a d : BitVec 5) (n : BitVec 32) (j : Nat) (s : State), s.ready [.b b] →
    let q := b.toNat
    let v := s.barAt s.cur q
    let x := s.xr a
    let sends (i : Instr) (len : Nat) (fn : BarFn) (m : Word) : Prop := BarSends i s len q fn m fun _ t => t
    let mask : BitVec 16 := x.setWidth 16
    let peer (m : Nat) : Nat := s.cur / 16 * 16 + m
    let given (m : Nat) : BitVec 16 := if (s.barAt (peer m) q).mem = 0 then (s.barAt (peer m) q).want else (s.barAt (peer m) q).link
    sends (.barArrive b) 4 .arrive 0 ∧ sends (.barDrop b) 4 .drop 0 ∧
    sends (.barInitImm b n) 12 .init (n.setWidth 64) ∧ sends (.barExpectImm b n) 12 .expect (n.setWidth 64) ∧
    ((∀ c w, s.me.wait ≠ .bar c w) → sends (.barWait b) 4 .wait 0) ∧
    (s.ready [.b b, .x a] → sends (.barInit b a) 4 .init x ∧ sends (.barExpect b a) 4 .expect x) ∧
    (s.ready [.b b, .x d] → BarSends (.barTest b d) s 4 q .test 0 fun v t => t.setX d v) ∧
    (v.mem = 0 →
    (v.want = 0 → s.me.bans = none → s.me.isDropped q = false → ¬(s.me.isPend q = true ∧ s.me.isAph q = v.phase) →
      v.arr ≠ v.exp → v.arr + 1 = v.exp → v.barr = v.bexp → j < 11 → j ≠ s.ctx → (s.core.ctxAt j).sleepsOn q = true →
      ∃ t, Retires (.barArrive b) s 4 t ∧ (t.core.ctxAt j).wait = .bar q true) ∧
    (s.ready [.b b, .x a] →
      (x = 0 → ∃ t, Retires (.barLink b a) s 4 t ∧ t.barAt s.cur q = { v with want := 0 }) ∧
      (x ≠ 0 → (x.getLsbD (s.cur % 16) = false ∨ 2 ^ 16 ≤ x.toNat) → Traps (.barLink b a) s Cause.BAR_NOT_MEMBER x) ∧
      (∀ t, s.barLinkTo s.cur q x = some t → Retires (.barLink b a) s 4 t) ∧
      (x.toNat = 2 ^ (s.cur % 16) → coreExists s.cur = true → (v.want = 0 ∨ v.want = mask) →
        (∀ m, m < 16 → (given m).getLsbD (s.cur % 16) = false ∨ m = s.cur % 16) →
        ∃ t, Retires (.barLink b a) s 4 t ∧ t.barAt s.cur q = { v with link := mask, mem := mask, want := 0 }) ∧
      (x.toNat < 2 ^ 16 → x.getLsbD (s.cur % 16) = true →
        (∀ m, m < 16 → x.getLsbD m = true → coreExists (peer m) = true ∧ s.holderOf (peer m) = s.holderOf s.cur) →
        (∀ m, m < 16 → given m = 0 ∨ given m = mask ∨
          (m ≠ s.cur % 16 ∧ x.getLsbD m = false ∧ (given m).getLsbD (s.cur % 16) = false)) →
        (∃ m, m < 16 ∧ x.getLsbD m = true ∧ m ≠ s.cur % 16 ∧ (s.barAt (peer m) q).want ≠ mask) →
        ∃ t, Retires (.barLink b a) s 4 t ∧ t.barAt s.cur q = { v with want := mask } ∧
          ∀ k, k ≠ s.cur → t.barAt k q = s.barAt k q)))

/-- O44 (R216, R219, R215). For every state of canonical memory whose named registers are readable and declared and whose
captured registers are not being loaded: where a slot number and a run of free rows exist, pcap, pcapr.rows and
pcapr.seg retire with the slot's generation and number in C[A], and the slot holds the entry, the captured x registers
at their places and zero at the others, XMASK, VMASK, RKIND, the reference, COUNT 1, QHOLD 0 and not EXPORTED, the
captured v rows after it, and no byte of the pool outside its rows changes; else they fault with POD_STORE_FULL. A
reference that fails faults with its cause. That captured x20 to x27, v14 and v15 are not held to the declarations is
the model's choice (log 98). -/
def Obligations.PodCaptures : Prop :=
  ∀ (g : Bool) (d : BitVec 4) (b e : BitVec 5) (xm : BitVec 8) (vm : BitVec 2) (i row : Nat) (s : State), s.canonical →
    (∀ k, k < 8 → xm.getLsbD k = true → s.me.loading.getLsbD (bitX (20 + k)) = false) →
    (∀ j, j < 2 → vm.getLsbD j = true → s.me.loading.getLsbD (bitV (14 + j)) = false) →
    let c := s.core
    let n := if vm = 0 then 1 else 3
    let x (k : Nat) := (s.xr (BitVec.ofNat 5 (20 + k))).toNat
    let makes (q : Instr) (r : PodRef) : Prop :=
      (c.freeSlot = none ∨ c.freeRun n = none → Traps q s Cause.POD_STORE_FULL 0) ∧
      (c.freeSlot = some i → c.freeRun n = some row → ∃ (t : State), Retires q s 12 t ∧
        t.cr d = BitVec.ofNat 16 ((c.slotAt i).gen.toNat * 64 + i) ∧ t.core.slotAt i = { c.slotAt i with used := true, row := row } ∧
        (let p := t.core.slotAt i
         let f := t.core.podFld p
         f 0 8 = (s.xr b).toNat ∧ (∀ k, k < 8 → f (8 + 8 * k) 8 = if xm.getLsbD k then x k else 0) ∧ f 72 16 = r.bytes % 2 ^ 128 ∧
         t.core.podXmask p = xm.toNat ∧ t.core.podVmask p = vm.toNat ∧ t.core.podRkind p = r.kind % 4 ∧ t.core.podCount p = 1 ∧
         t.core.podQhold p = 0 ∧ t.core.podExported p = false) ∧
        (∀ j, j < 2 → vm.getLsbD j = true → t.core.row (c.podBase + row + 1 + j) = s.vr (BitVec.ofNat 5 (14 + j))) ∧
        (∀ a, a / 128 < c.podBase + row ∨ c.podBase + row + n ≤ a / 128 → t.core.pool.read a = c.pool.read a))
    (s.ready [.c d, .x b] → makes (.pcap d b xm vm) ⟨0, 0⟩) ∧
    (s.ready [.c d, .x b, .x e] →
      let ref := if g then s.segRef (s.xr e) else s.rowsRef (s.xr e)
      (∀ r, ref = .ok r → r.kind < 4 → r.bytes < 2 ^ 128 → makes (.pcapr g d b xm vm e) r) ∧
      (∀ v t, ref = .error (.trap v t) → Traps (.pcapr g d b xm vm e) s v t))

/-- O45 (R220, R221, R222, R223, R224, R225). For every state whose named registers are readable and declared: pcall on a
pod that passes the check lands its captures, sets x1 to the next instruction and goes on at the entry, its .once form
also releasing the pod; pspawn writes the helper it starts, 16 where it queues the apply with the captures of the slot
and 0 where the queue is full; psend of a portable pod to a running core of the same holder with room writes 1 and
sends the record (the sender having fewer than 32 packets on their way), else 0. That the record is on its way until a
step of its own, with the inbox and what is on its way judged for FULL, and the bound of 32, is the model's choice
(log 62), and so is that pcall does not check x1 against the declarations (log 98); pdup, prel, pget, pexport and
pimport act on COUNT, EXPORTED and the handle. A handle that is not live faults with POD_STALE and the handle in TVAL,
a dangling one with POD_DANGLING. -/
def Obligations.PodResults : Prop :=
  ∀ (o : Bool) (d a : BitVec 5) (h g : BitVec 4) (i k : Nat) (p : PodSlot) (b : PodBad) (s : State),
    let v := s.cr h
    let tval : Word := v.setWidth 64
    let c := s.core
    let rel (t : State) : State := if o then t.updCore fun c => c.releasePod i else t
    (s.ready [.c h] → (Use.x 1).loading s.me = false →
      (s.podCheck s.cur v = .ok (i, p) → RetiresTo (.pcall o h) s
        (rel ((s.updCore fun c => c.land s.ctx p).setX 1 (s.nextPc 4))) (word (c.podFld p 0 8))) ∧
      (s.podCheck s.cur v = .error b → Traps (.pcall o h) s b.cause tval)) ∧
    (s.ready [.x d, .c h] →
      (s.podCheck s.cur v = .error b → Traps (.pspawn o d h) s b.cause tval) ∧
      (s.podCheck s.cur v = .ok (i, p) → c.freeHelper = some k →
        Retires (.pspawn o d h) s 4 ((let u := (c.startHelper k (word (c.podFld p 0 8)) s.me.stacklim s.me.trapvec true [] s.me.pts).land k p
          (s.setCore (if o then u.releasePod i else u)).setX d (word k))) ∧
      (s.podCheck s.cur v = .ok (i, p) → c.freeHelper = none → 16 ≤ c.applyQ.length →
        Retires (.pspawn o d h) s 4 (s.setX d 0)) ∧
      (s.podCheck s.cur v = .ok (i, p) → c.freeHelper = none → c.applyQ.length < 16 →
        ∃ (t : State), Retires (.pspawn o d h) s 4 (t.setX d 16) ∧ t.core.applyQ = c.applyQ ++
            [⟨⟨v, s.me.stacklim, s.me.trapvec, []⟩, (c.podSet p 91 1 (c.podQhold p + 1)).capOf p, c.task || c.podMsg⟩] ∧
          t.me = s.me) ∧
      Retires (.pget d h) s 4 (s.setX d tval) ∧
      (c.livePod v = none → Traps (.pexport d h) s Cause.POD_STALE tval) ∧
      (c.livePod v = some (i, p) →
        (c.podExported p = true → Retires (.pexport d h) s 4 (s.setX d (word (s.cur * 2 ^ 16 + v.toNat)))) ∧
        (c.podExported p = false → c.podCount p = 255 → Traps (.pexport d h) s Cause.POD_REFCOUNT tval) ∧
        (c.podExported p = false → c.podCount p ≠ 255 → Retires (.pexport d h) s 4 ((s.updCore fun c =>
          (c.podSet p 90 1 (c.podCount p + 1)).podSet p 89 1 (c.podKinds p + 16)).setX d (word (s.cur * 2 ^ 16 + v.toNat)))))) ∧
    (s.ready [.x d, .c h, .x a] →
      (c.livePod v = none → Traps (.psend d h a) s Cause.POD_STALE tval) ∧
      (c.livePod v = some (i, p) → c.podVmask p = 0 → c.podRkind p = 0 →
        (List.range 8).countP (fun j => c.podXmask p / 2 ^ j % 2 == 1) ≤ 6 → (s.xr a).toNat = k → coreExists k = true →
        s.holderOf k = s.holderOf s.cur → (s.coreAt k).installed = true →
        ((s.coreAt k).inbox.length + s.transit k < 4 → (s.coreAt k).hstat = .running → s.outbound s.cur < 32 →
          Retires (.psend d h a) s 4 (({ s with barq := s.barq ++ [(k, Packet.inbox s.cur
            { kind := true, words := c.podRecord p, gang := 0, pts := s.me.pts })] }).setX d 1)) ∧
        (4 ≤ (s.coreAt k).inbox.length + s.transit k → Retires (.psend d h a) s 4 (s.setX d 0)))) ∧
    (s.ready [.c g, .c h] →
      (c.livePod v = none → Traps (.pdup g h) s Cause.POD_STALE tval) ∧
      (c.livePod v = some (i, p) → c.podCount p = 255 → Traps (.pdup g h) s Cause.POD_REFCOUNT tval) ∧
      (c.livePod v = some (i, p) → c.podCount p ≠ 255 →
        Retires (.pdup g h) s 4 ((s.updCore fun c => c.podSet p 90 1 (c.podCount p + 1)).setC g v))) ∧
    (s.ready [.c h] → (c.livePod v = none → Traps (.prel h) s Cause.POD_STALE tval) ∧
      (c.livePod v = some (i, p) → Retires (.prel h) s 4 (s.updCore fun c => c.releasePod i))) ∧
    (s.ready [.c g, .x a] →
      let w := (s.xr a).setWidth 16
      ((s.xr a).toNat / 2 ^ 16 ≠ s.cur → Traps (.pimport g a) s Cause.POD_FOREIGN (s.xr a)) ∧
      ((s.xr a).toNat / 2 ^ 16 = s.cur → c.livePod w = some (i, p) →
        (c.podExported p = true → Retires (.pimport g a) s 4 (s.setC g w)) ∧
        (c.podExported p = false → Traps (.pimport g a) s Cause.POD_STALE (w.setWidth 64)))))

/-- O46 (R239, R240, R241, R242, R243, R236, R237). For every state whose named registers are readable and declared:
seg.make that meets every check allocates the highest free run of rows, lists a new entry in MAKING with a read-write
attachment to it, and writes its scratchpad address; a bad argument faults with SEG_ARG. seg.attach answers an
attachment that is held, attaches a resident segment of the core, and faults for an unknown, unpublished, evicted or
exclusive one. seg.detach, seg.publish, seg.evict, seg.drop and seg.query write the status and version that R241 to
R243 give, and leave the entry as R236 and R237 say; a void attachment goes and no other of its name does. Which
attachment seg.detach takes where the context holds two of one name is the model's choice (log 63). -/
def Obligations.SegmentResults : Prop :=
  ∀ (cls m : BitVec 2) (cnt : BitVec 11) (d a b e : BitVec 5) (g : Seg) (u : Attach) (base : Nat) (ps : List Place) (s v : State),
    let n := cnt.toNat
    let dom := s.core.domain.toNat
    (s.ready ([.x d, .x a, .x b] ++ if cls = 3 then [.x e] else []) →
      (s.xr a = 0 ∨ n = 0 ∨ 1504 < n ∨ (s.xr b).toNat % 128 ≠ 0 ∨ (s.xr b).toNat < 2 ^ 32 →
        Traps (.segMake cls cnt d a b e) s Cause.SEG_ARG (s.xr a)) ∧
      (s.xr a ≠ 0 → n ≠ 0 → n ≤ 1504 → (s.xr b).toNat % 128 = 0 → 2 ^ 32 ≤ (s.xr b).toNat →
        (cls = 3 → s.now < (s.xr e).toNat) → s.homePlaces .write (s.xr b).toNat (List.range n) = .ok (ps, v) →
        (∀ q ∈ ps, q.formatted = false) → v.liveSeg dom (s.xr a) = none → v.core.attach.length < v.core.segsDecl →
        v.dirCount (dieOf v.cur) < 8192 → v.findRows v.cur v.core.rowsDecl n v.core.rowsS = some base →
        ∃ (t : State) (g : Seg), Retires (.segMake cls cnt d a b e) s 12 (t.setX d (word (128 * base))) ∧ t.segs = v.segs ++ [g] ∧
          g.name = s.xr a ∧ g.dom = dom ∧ g.core = v.cur ∧ g.base = base ∧ g.count = n ∧ g.ver = 0 ∧ g.st = .making ∧
          g.home = s.xr b ∧ g.cls = cls.toNat ∧ g.wr = true ∧ g.ro = 0 ∧
          g.no = v.serial ∧ t.serial = v.serial + 1 ∧ ⟨s.xr a, true, 0, false, base, n, some g.no⟩ ∈ (t.coreAt v.cur).attach)) ∧
    (s.ready [.x d, .x b] →
      let now := (s.core.attach.find? fun t => t.name == s.xr b && !t.void)
      let live := s.liveSeg dom (s.xr b)
      let writer := (s.core.attach.find? fun t => t.name == s.xr b && !t.void && t.rw)
      let q := s.segStep g 0
      let h : Seg := { g with ts := q.1 }
      (now = some u → (u.rw = m.getLsbD 0 → Retires (.segAttach m d b) s 4 (s.setX d (word (128 * u.base)))) ∧
        (u.rw ≠ m.getLsbD 0 → Traps (.segAttach m d b) s Cause.SEG_EXCLUSIVE (s.xr b))) ∧
      (now = none → live = none → Traps (.segAttach m d b) s Cause.SEG_UNKNOWN (s.xr b)) ∧
      (now = none → live = some g →
        (g.st = .making → (∀ t ∈ s.core.attach, t.name ≠ s.xr b) → Traps (.segAttach m d b) s Cause.SEG_UNPUBLISHED (s.xr b)) ∧
        (g.st = .evicted → (∀ t ∈ s.core.attach, t.name ≠ s.xr b) → m.getLsbD 1 = false →
          Traps (.segAttach m d b) s Cause.SEG_ATTACH_MISS (s.xr b)) ∧
        (g.st = .resident → g.core = s.cur → (∀ t ∈ s.core.attach, t.name ≠ s.xr b) → s.core.attach.length < s.core.segsDecl →
          (if m.getLsbD 0 then g.held = false else g.wr = false) →
          ∃ (t : State), Retires (.segAttach m d b) s 4 (t.setX d (word (128 * g.base))) ∧
            ⟨g.name, m.getLsbD 0, g.ver, false, g.base, g.count, some g.no⟩ ∈ t.core.attach)) ∧
      (writer = some u → s.core.segBusy u = false → s.attachedSeg u = some g →
        (g.live = true → ∃ (t : State), Retires (.segPublish d b) s 4 (t.setX d ((g.ver + 1).setWidth 64)) ∧
          ∀ x ∈ t.segs, x.same g = true → x.st = .resident ∧ x.ver = g.ver + 1 ∧ x.wr = false ∧ x.ro = g.ro + 1)) ∧
      (live = none → let z := s.nameStep dom (s.xr b)
        Retires (.segEvict d b) s 4 (z.setX d 4) ∧ Retires (.segDrop d b) s 4 (z.setX d 4) ∧ Retires (.segQuery d b) s 4 (z.setX d 0)) ∧
      (live = some g →
        Retires (.segQuery d b) s 4 ((q.2.updSeg g h).setX d g.query) ∧
        Retires (.segDrop d b) s 4 (((q.2.updSeg g h).dropSeg h).setX d (if g.held then 1 else 0)) ∧
        (g.st = .making → Retires (.segEvict d b) s 4 ((q.2.updSeg g h).setX d 3)) ∧
        (g.st = .evicted → Retires (.segEvict d b) s 4 ((q.2.updSeg g h).setX d 2)) ∧
        (g.st = .resident → g.held = true →
          Retires (.segEvict d b) s 4 (((q.2.updSeg g h).updSeg h { h with evp := true }).setX d 1)) ∧
        (g.st = .resident → g.held = false → (q.2.updSeg g h).evictSeg h = .ok v →
          let ts := v.segs.foldl (fun ts x => if x.same h then later ts x.ts else ts) v.me.pts
          Retires (.segEvict d b) s 4 ((v.updMe fun x => { x with pts := ts }).setX d 0)) ∧
        (g.st = .resident → g.held = false → ∀ f, (q.2.updSeg g h).evictSeg h = .error f →
          Retires (.segEvict d b) s 4 ((q.2.updSeg g h).setX d 5)))) ∧
    (s.ready [.x b] → s.core.attach.find? (fun t => t.name == s.xr b) = some u →
      (u.void = true ∨ u.rw = false ∨ s.core.segBusy u = false) →
      (u.void = true → ∃ (t : State), Retires (.segDetach b) s 4 t ∧ t.core.attach = s.core.attach.erase u) ∧
      (s.attachedSeg u = none → Retires (.segDetach b) s 4 (s.detach s.cur u)) ∧
      (s.attachedSeg u = some g →
        Retires (.segDetach b) s 4 (((s.segStep g (if u.rw then s.core.kptsNow else 0)).2).detach s.cur u)))

/-- O47 (R172, R226, R173, R174, R175, R176, R25, R177, R24, R23, R16). ibx.take in context 0 of a core with no task takes
the oldest record: a pod message starts at its entry, a task record without an image is installed, and the context
goes on at the entry; with no record it waits, and elsewhere it faults with CTX_ROLE. task.end in context 0 with
nothing left to wait for commits the status word and ends the task. task.spawn appends the record to the die's queue
and writes 1, or 0 where it is full. rng.open, rng.take and rng.close act on the range unit as R25, R175 and R176 say;
rng.open with T, m or P out of range faults with RNG_INVALID and the first such value, in the order that R175 names
them. gang instructions of a core in no gang retire with no effect; in context 0 of a gang each forms, follows, joins
and leaves; in another context they fault with GANG_ROLE. The model's choices are GANG_ROLE outside context 0 also on
a core in no gang (log 50), gang.lead where the gang is formed and gang.join where it is not (log 18), and flag 8 of
the fault form of task.end (log 100). -/
def Obligations.TaskResults : Prop :=
  ∀ (f y : Bool) (d a b c : BitVec 5) (k32 : BitVec 32) (l : Word) (i : Nat) (r : Range) (m : Msg) (q : List Msg) (s : State),
    let co := s.core
    let w (j : Nat) : Word := m.words.getD j 0
    let taken := (s.updCore fun c => { c with inbox := q }).follow m.pts
    let die := dieOf s.cur
    let room := (s.spawnQ die).length < 16
    let spawns (j : Instr) (len : Nat) (at' : Word) : Prop := s.padOk true false false at' 128 →
      ∃ (t : State) (p : BitVec 64), (room → Retires j s len (({ t with spawns := Table.put s.spawns die (s.spawnQ die ++
          [(⟨co.pool.bytes at'.toNat 128, co.flags.toNat % 256, co.domain.toNat, s.cur, p⟩ : Spawn)]) }).setX d 1)) ∧
        (¬room → Retires j s len (t.setX d 0)) ∧ t.core.pool = co.pool ∧ (∀ n, t.xr n = s.xr n) ∧ t.spawns = s.spawns
    let role (j : Instr) : Prop := Traps j s Cause.GANG_ROLE (word (co.gpos * 16 + s.ctx))
    let gang (P : Instr → Prop) : Prop := P .gangLead ∧ P .gangFollow ∧ P (.gangJoin y) ∧ P .gangLeave
    -- ibx.take
    (s.ctx ≠ 0 ∨ co.task = true ∨ co.podMsg = true → Traps .ibxTake s Cause.CTX_ROLE (word s.ctx)) ∧
    (s.ctx = 0 → co.task = false → co.podMsg = false →
      (co.inbox = [] → exec .ibxTake s = .next (s.setWait .inbox)) ∧
      (co.inbox = m :: q →
        (m.kind = true → exec .ibxTake s = .next ((taken.startMessage w (s.me.pc + 4)).count s.cur 3 1)) ∧
        (m.kind = false → (s.block ((w 4).toNat % 256)).scratchLen = 0 →
          exec .ibxTake s = .next ((taken.install w m.gang (s.block ((w 4).toNat % 256)) (s.me.pc + 4) []).count s.cur 3 1)))) ∧
    -- task.end
    (s.ready [.x a] →
      (s.ctx ≠ 0 ∨ (co.task = false ∧ co.podMsg = false) → Traps (.taskEnd f a) s Cause.CTX_ROLE (word s.ctx)) ∧
      (s.ctx = 0 → co.task = true ∨ co.podMsg = true → co.endWaits = false →
        ¬(s.pastDeadline s.cur = true ∧ co.abortSet = true) →
        exec (.taskEnd f a) s = .next (((s.commit s.cur (if f then .faulted else .completed)
          ((s.xr a &&& ~~~(0xFF : Word)) ||| (if f then 8 else 0) ||| if !f && s.pastDeadline s.cur then 1 else 0)).endTask
            s.cur false false).count s.cur 3 1)) ∧
      (s.ctx = 0 → s.pastDeadline s.cur = true → co.abortSet = true →
        exec (.taskEnd f a) s = .next ((s.deadlineAbort s.cur).count s.cur 3 1))) ∧
    -- task.spawn
    (s.ready [.x d, .x b] → s.unlogged →
      spawns (.taskSpawn d b) 4 (s.xr b) ∧ spawns (.taskSpawnExt d b k32) 12 (s.xr b + k32.signExtend 64) ∧
      spawns (.taskSpawnLit d b l) 20 (s.xr b + l)) ∧
    -- range units
    (s.ready [.x d, .x a, .x b, .x c] →
      (2 ^ 40 ≤ (s.xr a).toNat → Traps (.rngOpen d a b c) s Cause.RNG_INVALID (s.xr a)) ∧
      ((s.xr a).toNat < 2 ^ 40 → 2 ^ 24 ≤ (s.xr b).toNat → Traps (.rngOpen d a b c) s Cause.RNG_INVALID (s.xr b)) ∧
      ((s.xr a).toNat < 2 ^ 40 → (s.xr b).toNat < 2 ^ 24 → s.xr c = 0 ∨ 2 ^ 16 ≤ (s.xr c).toNat →
        Traps (.rngOpen d a b c) s Cause.RNG_INVALID (s.xr c))) ∧
    (s.ready [.x d, .x a, .x b, .x c] → (s.xr a).toNat < 2 ^ 40 → (s.xr b).toNat < 2 ^ 24 → s.xr c ≠ 0 → (s.xr c).toNat < 2 ^ 16 →
      ((∀ u, u < 64 → (s.rangeAt (die * 64 + u)).used = true) → Retires (.rngOpen d a b c) s 12 (s.setX d 0)) ∧
      ((∃ u, u < 64 ∧ (s.rangeAt (die * 64 + u)).used = false) → ∃ (t : State) (u : Nat), u < 64 ∧ (s.rangeAt (die * 64 + u)).used = false ∧
        t.rangeAt (die * 64 + u) = ⟨true, (s.xr a).toNat, max (s.xr b).toNat 1, (s.xr c).toNat, (s.xr a).toNat,
          (s.rangeAt (die * 64 + u)).gen + 1, s.launchSeq s.cur⟩ ∧
        Retires (.rngOpen d a b c) s 12 (t.setX d (word (((s.rangeAt (die * 64 + u)).gen + 1).toNat * 2 ^ 16 + die * 2 ^ 8 + 2 ^ 7 + u))))) ∧
    (s.ready [.x d, .x a] → s.unlogged →
      (s.rangeOf (s.xr a) = none → Traps (.rngTake d a) s Cause.RNG_INVALID (s.xr a)) ∧
      (s.rangeOf (s.xr a) = some (i, r) → let r' : Range := { r with rem := r.rem - r.chunk.2 }
        Retires (.rngTake d a) s 4 (({ s with ranges := Table.put s.ranges i r' }).setX d (word (r.chunk.1 * 2 ^ 24 + r.chunk.2))))) ∧
    (s.ready [.x a] →
      (s.rangeOf (s.xr a) = none → Traps (.rngClose a) s Cause.RNG_INVALID (s.xr a)) ∧
      (s.rangeOf (s.xr a) = some (i, r) →
        Retires (.rngClose a) s 4 { s with ranges := Table.put s.ranges i { r with used := false, gen := r.gen + 1 } })) ∧
    -- gangs
    (s.ctx ≠ 0 → gang role) ∧
    (s.ctx = 0 → co.gsize = 0 ∨ co.gleft = true → gang fun j => Retires j s 4 s) ∧
    (s.ctx = 0 → co.gsize ≠ 0 → co.gleft = false →
      (co.gpos ≠ 0 → role .gangLead) ∧ (co.gpos = 0 → role .gangFollow) ∧
      (co.gformed = true → (co.gpos = 0 → Retires .gangLead s 4 s) ∧ (co.gpos ≠ 0 → Retires .gangFollow s 4 s ∧
        (co.gattached = true → Retires (.gangJoin y) s 4 s))) ∧
      (co.gformed = false → Retires (.gangJoin y) s 4 (s.updCore fun c => { c with jcount := c.jcount + 1 })) ∧
      (co.gformed = false → co.gpos = 0 →
        (∀ n ∈ s.gangPlaces s.cur, n = s.cur ∨ (s.gangMate s.cur n = true ∧ (s.coreAt n).gfollowed = true)) →
        ∃ (t : State), Retires .gangLead s 4 t ∧ ∀ n ∈ s.followers s.cur, (t.coreAt n).gformed = true ∧ (t.coreAt n).gattached = true ∧
          ((t.coreAt n).ctxAt 0).pc = s.me.pc + 4 ∧ (t.coreAt n).jcount = 0) ∧
      (co.gformed = true → co.gpos = 0 → s.me.wait ≠ .gang → (∀ n ∈ s.followers s.cur, (s.coreAt n).gattached = true) →
        ∃ (t : State), Retires (.gangJoin y) s 4 t ∧ t.core.jcount = co.jcount + 1 ∧
          ∀ n ∈ s.followers s.cur, (t.coreAt n).jcount = (s.coreAt n).jcount + 1) ∧
      (co.gpos = 0 → Retires .gangLeave s 4 (s.detachAll s.cur true)) ∧
      (co.gpos ≠ 0 → Retires .gangLeave s 4
        ((s.unmask s.cur).updCore fun c => { c with gattached := false, gleft := true })))

/-- O48 (R271, R279, R280, R281, R282, R283, R285, R275, R290, R291, R288, R293). For every state whose named registers
are readable and declared and whose context has no store outstanding, and a name that R271 makes valid: an offer by
give or lend that passes every check is made and its target notified, one by give of OID 1 as a loan; a give to the
lender of the top loan returns the entry; an offer to an OID that the executing one sponsors and that holds no core is
taken at once; the failing checks of give and lend in their order; accept takes the offer made to the executing OID,
decline removes it; recall and reclaim write the status of R283 and R285, and reclaim of a running core begins its
stop; own.q writes the word asked for; mint writes the lowest free OID of the block, or 0; retire ends the OID and
does not retire as an instruction; own.hook replaces or removes the hook, of the hooks that are not void; kread and
kwrite of a kept core read and write as R293 says, and fault with RESERVED_FIELD where a core-scope register is named
with a context; a name that is not valid faults with OWN_BAD_NAME, and accept, decline and reclaim of a name in an
entry in DEFUNCT with OWN_NOT_HELD. The model's choices (log 68) are status 2 of recall and reclaim where the pieces
of a name differ, which of two loans of one lender they mean, and that a second own.hook of a kind replaces the first. -/
def Obligations.OwnershipResults : Prop :=
  ∀ (rc clr : Bool) (w : BitVec 2) (kd : BitVec 3) (h x : BitVec 4) (n10 : BitVec 10) (d a b c e : BitVec 5) (gr : BitVec 32) (r : Res)
    (en : Entry) (of : Offer) (j : Nat) (ln : Loan) (slot : Nat × PodSlot) (v : Word) (s u : State),
    s.me.storing = false →
    let nm := s.xr b
    let t := s.xr c
    let st := s.mapStep en
    let plain := s.entryBusy r = false
    let defunct := s.defunct r = true
    let noOffer (z : Entry) : Prop := z.offer = none ∧ s.pendingTo t.toNat < 256 ∧
      ¬(s.oids.any (fun p => p.1 == t.toNat && p.2.sponsor == s.oid) = true ∧ s.holdsCore t.toNat = false)
    let tells (z : State) (term : Word) : State := z.notify ⟨t.toNat, 0, nm, noticeData 0 nm (word z.oid) term⟩
    -- a name that is not valid
    (Res.ofName nm = none →
      (s.ready [.x b, .x c] → Traps (.give b c) s Cause.OWN_BAD_NAME nm) ∧
      (s.ready [.x b] → (s.me.wait ≠ .done → Traps (.accept b) s Cause.OWN_BAD_NAME nm) ∧ Traps (.decline b) s Cause.OWN_BAD_NAME nm) ∧
      (s.ready [.x d, .x b] → Traps (.ownQ w d b) s Cause.OWN_BAD_NAME nm ∧ Traps (.recall d b) s Cause.OWN_BAD_NAME nm ∧
        Traps (.mint d b) s Cause.OWN_BAD_NAME nm)) ∧
    (Res.ofName nm = some r →
      -- offers
      (plain → s.badTarget t = false → s.heldEntry nm r = .ok en → noOffer en →
        (let o : Offer := ⟨t.toNat, false, false, 0, 0, false, 0, [(r.lo, r.hi)]⟩
         en.loans = [] → s.oid ≠ 1 → r.cls ≠ cCore → st.2.splitTo nm { st.1 with offer := some o } = .ok u →
          s.ready [.x b, .x c] → Retires (.give b c) s 4 (tells u 0)) ∧
        (let o : Offer := ⟨t.toNat, true, false, BitVec.allOnes 64, 2 ^ 20, true, 0, [(r.lo, r.hi)]⟩
         s.oid = 1 → en.loans.length < 3 → (∀ l, en.loans.getLast? = some l → t.toNat ≠ l.lender) → r.cls ≠ cCore →
          st.2.splitTo nm { st.1 with offer := some o } = .ok u →
          s.ready [.x b, .x c] → Retires (.give b c) s 4 (tells u (BitVec.allOnes 64))) ∧
        (let o : Offer := ⟨t.toNat, true, clr, BitVec.allOnes 64, 2 ^ 20, true, s.xr e, [(r.lo, r.hi)]⟩
         s.oid = 1 → en.loans.length < 3 → (∀ l, en.loans.getLast? = some l → t.toNat ≠ l.lender) → e ≠ 0 →
          s.huskHeld s.oid (s.xr e) = true → st.2.splitTo nm { st.1 with offer := some o } = .ok u →
          s.ready [.x b, .x c, .x e] → Retires (.giveExt clr b c e) s 12 (tells u (BitVec.allOnes 64))) ∧
        (let o : Offer := ⟨t.toNat, false, clr, 0, 0, false, s.xr e, [(r.lo, r.hi)]⟩
         en.loans = [] → s.oid ≠ 1 → e ≠ 0 → s.huskHeld s.oid (s.xr e) = true →
          st.2.splitTo nm { st.1 with offer := some o } = .ok u →
          s.ready [.x b, .x c, .x e] → Retires (.giveExt clr b c e) s 12 (tells u 0)) ∧
        (let o : Offer := ⟨t.toNat, true, clr, s.xr e, gr, rc, s.xr a, [(r.lo, r.hi)]⟩
         a ≠ 0 → en.loans.length < 3 → (∀ l, en.loans.getLast? = some l → l.term.ult (s.xr e) = false ∧ l.grace.ult gr = false) →
          s.now < (s.xr e).toNat → s.huskHeld s.oid (s.xr a) = true →
          st.2.splitTo nm { st.1 with offer := some o } = .ok u → s.ready [.x a, .x b, .x c, .x e] →
            Retires (.lend rc clr a b c e gr) s 12 (tells u (s.xr e)) ∧ Retires (.lendLit rc clr a b c e gr) s 20 (tells u (s.xr e)))) ∧
      (s.ready [.x b, .x c] → plain →
        (s.badTarget t = true → Traps (.give b c) s Cause.OWN_BAD_OID t) ∧
        (s.badTarget t = false → (∀ g v, s.heldEntry nm r = .error (.trap g v) → Traps (.give b c) s g v) ∧
          (s.heldEntry nm r = .ok en →
            (∀ l, en.loans.getLast? = some l →
              (t.toNat = l.lender → st.2.splitTo nm (st.2.unlent st.1 (en.loans.length - 1) true) = .ok u →
                Retires (.give b c) s 4 (st.2.voluntaryReturn st.1)) ∧
              (t.toNat ≠ l.lender → s.oid ≠ 1 → Traps (.give b c) s Cause.OWN_NOT_HELD nm)) ∧
            (en.loans = [] → s.oid ≠ 1 → (en.offer ≠ none → Traps (.give b c) s Cause.OFFER_FULL nm) ∧
              (en.offer = none → r.cls = cCore → Traps (.give b c) s Cause.OWN_NO_HUSK nm) ∧
              (let o : Offer := ⟨t.toNat, false, false, 0, 0, false, 0, [(r.lo, r.hi)]⟩
               en.offer = none → s.pendingTo t.toNat < 256 → r.cls ≠ cCore → st.2.splitTo nm { st.1 with offer := some o } = .ok u →
                u.oids.any (fun p => p.1 == t.toNat && p.2.sponsor == u.oid) = true → u.holdsCore t.toNat = false →
                u.touching u.oid r = false →
                Retires (.give b c) s 4 ((u.takeOffer { st.1 with offer := some o } o).followMap st.1)))))) ∧
      (s.ready [.x a, .x b, .x c, .x e] → plain → s.badTarget t = false → s.heldEntry nm r = .ok en →
        (3 ≤ en.loans.length → Traps (.lend rc clr a b c e gr) s Cause.OWN_DEPTH nm) ∧
        (en.loans.length < 3 → (s.xr e).toNat ≤ s.now → Traps (.lend rc clr a b c e gr) s Cause.OWN_BAD_TERM (s.xr e))) ∧
      (s.ready [.x b] → s.me.wait ≠ .done → defunct →
        Traps (.accept b) s Cause.OWN_NOT_HELD nm ∧ Traps (.decline b) s Cause.OWN_NOT_HELD nm) ∧
      (s.ready [.x b] → s.me.wait ≠ .done → ¬defunct → plain →
        (s.offerAt r = none → Traps (.accept b) s Cause.OWN_NO_OFFER nm ∧ Traps (.decline b) s Cause.OWN_NO_OFFER nm) ∧
        (s.offerAt r = some (en, of) →
          (of.target ≠ s.oid → Traps (.accept b) s Cause.OWN_NO_OFFER nm) ∧
          (of.target = s.oid → s.touching en.holder r = false → (r.cls = cCore → (s.coreAt r.lo).stopped = true) →
            st.2.splitCheck nm r.cls ((st.2.takeOffer st.1 of).followMap st.1) = .ok u → Retires (.accept b) s 4 u) ∧
          (of.target = s.oid ∨ en.holder = s.oid → st.2.splitTo nm { st.1 with offer := none, recalling := false } = .ok u →
            Retires (.decline b) s 4 u))) ∧
      (s.ready [.x b] → s.me.wait = .done → Retires (.accept b) s 4 s) ∧
      -- loans
      (s.ready [.x d, .x b] → r.cls = cCounter → Traps (.recall d b) s Cause.OWN_NOT_HELD nm ∧ Traps (.reclaim d b) s Cause.OWN_NOT_HELD nm) ∧
      (s.ready [.x d, .x b] → defunct → Traps (.reclaim d b) s Cause.OWN_NOT_HELD nm) ∧
      (s.ready [.x d, .x b] → r.cls ≠ cCounter → plain →
        (s.entryFor r = none → Retires (.recall d b) s 4 ((s.mapTouch r).setX d 2) ∧ (¬defunct → Retires (.reclaim d b) s 4 ((s.mapTouch r).setX d 2))) ∧
        (s.entryFor r = some en → en.lentBy s.oid = none →
          Retires (.recall d b) s 4 ((s.mapTouch r).setX d 2) ∧ (¬defunct → Retires (.reclaim d b) s 4 ((s.mapTouch r).setX d 2))) ∧
        (s.entryFor r = some en → en.lentBy s.oid = some j → en.loans[j]? = some ln →
          (ln.recalled = true ∨ ln.due = true → Retires (.recall d b) s 4 ((s.mapTouch r).setX d 1)) ∧
          (ln.recalled = false → ln.due = false → ln.rc = false → Retires (.recall d b) s 4 ((s.mapTouch r).setX d 3)) ∧
          (ln.recalled = false → ln.due = false → ln.rc = true →
            st.2.splitTo nm { st.1 with loans := en.loans.set j { ln with recalled := true, rdl := s.fabric + ln.grace.setWidth 64 }, recalling := true } = .ok u →
            Retires (.recall d b) s 4 ((u.notify ⟨ln.borrower, 1, nm,
              noticeData 1 nm (word u.oid) (s.fabric + ln.grace.setWidth 64)⟩).setX d 0)) ∧
          (¬defunct → ln.due = false → s.oidLive ln.borrower = true → Retires (.reclaim d b) s 4 ((s.mapTouch r).setX d 1)) ∧
          (¬defunct → ln.due = true ∨ s.oidLive ln.borrower = false →
            (r.cls = cCore → (s.coreAt r.lo).stopped = false → Retires (.reclaim d b) s 4 (((s.mapTouch r).beginStop r.lo Cause.STOP_RECLAIM
              ln.husk ln.lender (stopTick s.now) [.reclaim nm ln.lender]).setX d 3)) ∧
            ((r.cls = cCore → (s.coreAt r.lo).stopped = true) →
              st.2.splitTo nm { st.2.unlent st.1 j false with gen := st.1.gen + 1 } = .ok u →
              Retires (.reclaim d b) s 4 (((st.2.finishReclaim nm st.1 j false).followMap st.1).setX d 0))))) ∧
      -- queries and identities
      (s.ready [.x d, .x b] →
        (let y : Res := if r.cls = cCounter then ⟨cCore, 0, r.lo / 16, r.lo / 16 + 1⟩ else r
         Retires (.ownQ w d b) s 4 ((s.mapTouch y).setX d
          (((s.pieces y).headD (Entry.dflt s.endowed y.cls y.aux y.lo y.hi)).word s.oid w.toNat))) ∧
        (r.cls ≠ cOid → Traps (.mint d b) s Cause.OWN_NOT_HELD nm) ∧
        (let free (i : Nat) : Prop := 1 < i ∧ i ≠ 0xFFFF ∧ s.oidLive i = false ∧ s.oidNamed i = false
         let z := s.mapTouch r
         r.cls = cOid → s.usesOne s.oid cOid r.lo = true →
          ((∀ i, i / 256 = r.lo → ¬free i) → Retires (.mint d b) s 4 (z.setX d 0)) ∧
          (j / 256 = r.lo → free j → (∀ i, i < j → 256 * r.lo ≤ i → ¬free i) →
            Retires (.mint d b) s 4 (({ z with oids := Table.put z.oids j ⟨s.oid, some s.now⟩ }).setX d (word j))))) ∧
      -- keeper access
      (x = 0 ∨ coreScope n10.toNat = false → r.cls = cCore → s.isKeeper s.oid r.lo = true →
        (s.ready [.x d, .x b] →
          (s.keeperRead s.oid r.lo x.toNat n10.toNat = some v → Retires (.kread d b n10 x) s 12 (s.setX d v)) ∧
          (s.keeperRead s.oid r.lo x.toNat n10.toNat = none → Traps (.kread d b n10 x) s Cause.SR_ACCESS (n10.setWidth 64))) ∧
        (s.ready [.x b, .x c] → let z := s.countFirst r.lo (n10.toNat % 16) (n10.toNat / 16 == 4)
          (n10.toNat / 16 ≠ 4 ∧ n10.toNat / 16 ≠ 5 → s.keeperWrite s.oid r.lo x.toNat n10.toNat t = .ok u →
            Retires (.kwrite b c n10 x) s 12 u) ∧
          (n10.toNat / 16 = 4 ∨ n10.toNat / 16 = 5 → z.keeperWrite z.oid r.lo x.toNat n10.toNat (z.xr c) = .ok u →
            exec (.kwrite b c n10 x) s = .next ((u.goOn (s.nextPc 12)).stepTrap s.me.tstep (s.nextPc 12)))))) ∧
    (x ≠ 0 → coreScope n10.toNat = true →
      Traps (.kread d b n10 x) s Cause.RESERVED_FIELD ((packR 10 0 b d 51 2).setWidth 64) ∧
      Traps (.kwrite b c n10 x) s Cause.RESERVED_FIELD ((packR 11 c b 0 51 2).setWidth 64)) ∧
    -- retire and hooks
    (s.me.wait ≠ .done → (s.oid = 1 → Traps .retire s Cause.OWN_BAD_OID 1) ∧
      (s.oid ≠ 1 → exec .retire s = .next (((s.landCtx s.cur s.ctx).retireOid s.oid 0 s.me.pts).setWait .done))) ∧
    (s.ready [.c h] →
      let z := s.voidHooks
      let rest := z.hooks.filter fun q => !(q.oid == z.oid && q.kind == kd.toNat)
      (s.cr h = 0 → Retires (.ownHook kd h) s 4
        { z with hooks := rest, notices := z.notices.filter fun q => !(q.oid == z.oid && q.kind == kd.toNat) }) ∧
      (s.cr h ≠ 0 → s.core.livePod (s.cr h) = some slot → s.core.podExported slot.2 = true →
        Retires (.ownHook kd h) s 4 { z with hooks := rest ++ [⟨z.oid, kd.toNat, s.cur, s.cr h⟩] }) ∧
      (s.cr h ≠ 0 → s.core.livePod (s.cr h) = none → Traps (.ownHook kd h) s Cause.OWN_HOOK_INVALID ((s.cr h).setWidth 64)))

/-- O49 (R322, R329, R331, R355, R97, R384, R371, R372, R373, R374). By an OID that holds the resource of the block: a
store to TGEN advances it by 1; PASID moves as R331 says when OID 1 (or a teardown of the host) stores it; TOFF takes
its value; a store to SIZE requests a load unless one is in progress; OID 1 writes the nonce, which starts the report,
and ENABLE of a queue slot, which clears STOPPED; a store to TAILW writes the tail of a launch slot within its ring,
and one outside it sets ERR. A control-space store that is honoured is made, one that is refused changes nothing. A
doorbell of a function whose OID holds the queue rings the slot that serves its page. A mailbox write sets MBPEND
where it writes 0xFF8. The model's choices are OID 0 as the host's teardown of a PASID, a refused store as a whole
without effect, and TAILW acting whether or not ENABLE is set (logs 79 and 88). -/
def Obligations.ControlSpaceEvents : Prop :=
  ∀ (d i o f page off pa : Nat) (v : Word) (w : BitVec 32) (b : BitVec 8) (pas : BitVec 20) (nonce : BitVec 384)
    (bs : List Byte) (q : QSlot) (s : State),
    let dom := s.domainAt d
    let slot := s.qslotAt i
    (d < 4096 → o ≠ 0 → s.oidLive o = true → s.usesOne o cDomain d = true →
      (∃ t, exec (.tgenWrite d o) s = .next t ∧ t.domainAt d = { dom with tgen := dom.tgen + 1 }) ∧
      (o = 1 → ∃ t, exec (.pasidWrite d pas o) s = .next t ∧ t.domainAt d =
        (if dom.pstate = 0 ∧ pas ≠ 0 then { dom with pasid := pas, pstate := 1 }
         else if dom.pstate = 1 ∧ pas = 0 then { dom with pstate := 2, retireAt := s.now } else dom)) ∧
      (o ≠ 1 → o ≠ 0 → ∃ t, exec (.pasidWrite d pas o) s = .next t ∧ t.domainAt d = dom) ∧
      (∃ t, exec (.toffWrite d v o) s = .next t ∧ t.domainAt d = { dom with toff := v }) ∧
      (∃ t, exec (.loadRequest d v o) s = .next t ∧
        t.domainAt d = if dom.ldStatus = 0xFFFF then dom else { dom with ldSize := v, ldStatus := 0xFFFF })) ∧
    (d < 4096 → dom.pstate = 1 → exec (.pasidWrite d 0 0) s =
      .next ((s.setDomain d { dom with pstate := 2, retireAt := s.now }).outMark (domBlock d) 64)) ∧
    (s.attesting = false → s.attest.wf = true → ∃ t, exec (.attestNonceWrite nonce 1) s = .next t ∧ t.attesting = true ∧
      t.attest.readLE 0 48 = nonce.toNat) ∧
    (o ≠ 1 → exec (.attestNonceWrite nonce o) s = .next s) ∧
    (i < 1024 → (∃ t, exec (.queueSlotEnableWrite i b 1) s = .next t ∧ (t.qslotAt i).enable = decide (128 ≤ b.toNat) ∧
      (t.qslotAt i).stopped = false)) ∧
    (i < 1024 → o ≠ 0 → s.oidLive o = true → s.holdsOne o cQueue slot.queue.toNat = true → ∃ t, exec (.tailwWrite i w o) s = .next t ∧
      (slot.completion = false → (w - slot.head).toNat ≤ 2 ^ slot.logn.toNat → (t.qslotAt i).tail = w ∧ (t.qslotAt i).head = slot.head) ∧
      (slot.completion = false → 2 ^ slot.logn.toNat < (w - slot.head).toNat →
        (t.qslotAt i).tail = slot.tail ∧ (t.qslotAt i).err = true)) ∧
    (∀ t, o ≠ 0 → s.oidLive o = true → s.ctlWrite o pa bs = some t → exec (.controlSpaceWrite pa bs o) s = .next t) ∧
    (s.ctlWrite o pa bs = none → exec (.controlSpaceWrite pa bs o) s = .next s) ∧
    (s.qslots.find? (fun p => p.2.enable && p.2.func.toNat == f && p.2.fidx.toNat == page) = some (i, q) → s.bound f = some o →
      f < 64 → page < 64 → s.holdsOne o cQueue q.queue.toNat = true → s.qslotAt i = q →
      (q.completion = false → (w - q.head).toNat ≤ 2 ^ q.logn.toNat →
        exec (.launchDoorbell f page w) s = .next ((s.setQslot i { q with tail := w }).outMark (slotBlock i) 64)) ∧
      (q.completion = true → (q.tail - w).toNat ≤ 2 ^ q.logn.toNat → ∃ t, exec (.completionDoorbell f page w) s = .next t ∧
        (t.qslotAt i).head = w)) ∧
    (off + bs.length ≤ 4096 → bs ≠ [] → ∃ t, exec (.mailboxDoorbell off bs) s = .next t ∧ t.mailbox = s.mailbox.putBytes off bs ∧
      t.mbpend = (s.mbpend || (decide (off ≤ 0xFF8) && decide (0xFF8 < off + bs.length)))) ∧
    exec (.mailboxDoorbell off []) s = .next s

/-- O50 (R381, R382, R385, R384, R377, R380, R331, R96, R97, R376, R370, R373). DEVICE_RESET leaves the state after reset
but for what lies outside the device, with the image of the flash in memory, and verifies it: stage 4 with its digest,
or recovery. SELF_TEST_END enters the image on core 8.0.0 at stage 5, or stays in recovery where that core has failed.
RECOVERY_IMAGE_CHECK verifies again. A window read that translates answers its bytes, one that does not answers
unsupported, and so does every window atomic; a window write that translates is made. Peer requests that the port's
holder may make are made and answered; others answer an error. ATS_RESPONSE answers one access that waits in the
domain, of a context or of a card: with PASID_RETIRED where the PASID is RETIRING, and else with the translation or
with PAGE_ABSENT as the host answers; PEER_TIMEOUT answers PAGE_ABSENT; a response to a request of a PASID that has
retired is dropped and counted; PASID_RETIRE_END ends RETIRING, and what still waited has faulted; LOAD_COMPLETE
writes the status and advances SEQ; MSIX_UNMASK unmasks a vector of a visible function and sends what pends; a read of
a doorbell page and of an MSI-X table entry answers what it holds. The model's choices are which access a response
answers (log 3), what DEVICE_RESET keeps (log 89), the layout of a table entry and its mask at reset (log 82), and a
window request that fails as a whole (log 76). -/
def Obligations.HostEvents : Prop :=
  ∀ (f off n a d port pa k j vec i : Nat) (bs : List Byte) (op : AmoOp) (w : Bool) (v e : Word) (failed : List Nat) (s t u : State),
    let flash := Memory.putBytes (s.mem.filter fun p => isExternal p.1) 0 (Config.flash.take (2 ^ 24))
    let dom := s.domainAt d
    exec .deviceReset s = .next ({ State.reset with n := s.n, agenda := s.agenda, sent := s.sent, mem := flash } : State).verify ∧
    (imageOk s.mem = true → s.verify.stage = 4 ∧ s.verify.recovery = false ∧ s.verify.digest = imageDigest s.mem) ∧
    (imageOk s.mem = false → s.verify.stage = 3 ∧ s.verify.recovery = true) ∧
    (s.stage = 4 → 8192 ∉ failed → ∃ t, exec (.selfTestEnd failed) s = .next t ∧ t.stage = 5 ∧ t.endowed = true ∧
      ((t.coreAt 8192).ctxAt 0).pc = word (s.mem.readLE 16 8)) ∧
    (s.stage = 4 → 8192 ∈ failed → ∃ t, exec (.selfTestEnd failed) s = .next t ∧ t.stage = 3 ∧ t.recovery = true) ∧
    (s.holderOf 8192 ≠ 0xFFFF → s.recovery = true → s.stage = 3 → s.mbpend = true → exec .recoveryImageCheck s = .next s.verify) ∧
    (s.attesting = true → ∃ t, exec .attestReportDone s = .next t ∧ t.attesting = false) ∧
    (s.romWindow f off n = false → s.window f off n = some (d, a) → s.lineReads d (lineParts (n + 1) a n) = some (bs, t) →
      exec (.hostWindowRead f off n) s = .next (t.send (.readData bs))) ∧
    (s.romWindow f off n = false → s.window f off n = none → exec (.hostWindowRead f off n) s = .next (s.send .unsupported)) ∧
    (n = bs.length → s.romWindow f off n = false → s.window f off n = some (d, a) →
      s.lineWrites d (lineParts (n + 1) a n) bs = some t → exec (.hostWindowWrite f off bs) s = .next t) ∧
    exec (.hostWindowAtomic f off) s = .next (s.send .unsupported) ∧
    (s.peerRead port pa n = some (bs, t) → exec (.peerReadRequest port pa n) s = .next (t.send (.peerData port bs))) ∧
    (s.peerRead port pa n = none → exec (.peerReadRequest port pa n) s = .next (s.send (.peerError port))) ∧
    (s.peerWrite port pa bs = some t → exec (.peerWriteRequest port pa bs) s = .next t) ∧
    (s.peerWrite port pa bs = none → exec (.peerWriteRequest port pa bs) s = .next (s.send (.peerError port))) ∧
    (let z := if w then 8 else 4
     pa % z = 0 → s.peerRead port pa z = some (bs, t) →
      ∀ x, (amoNew op (8 * z) (leVal bs) (v.toNat % 2 ^ (8 * z)) (e.toNat % 2 ^ (8 * z))).1 = some x →
        s.peerWrite port pa (leOf z x) = some u →
        exec (.peerAtomicRequest port pa op w v e) s = .next (u.send (.peerData port bs))) ∧
    (((s.coreAt k).ctxAt j).peerLate s.now = true → ∃ t, exec (.peerTimeout k j) s = .next t ∧
      ((t.coreAt k).ctxAt j).ext.all (fun x => x.answer == some Cause.PAGE_ABSENT) = true) ∧
    (dom.atsOld = 0 → dom.atsOut ≠ 0 → ∃ t, exec (.atsResponse d) s = .next t ∧ (t.domainAt d).atsOut = dom.atsOut - 1 ∧
      (t.domainAt d).dropped = (if dom.pstate = 1 then dom.dropped else dom.dropped + 1) ∧
      (s.atsWaiters d ≠ [] → ∃ x ∈ s.atsWaiters d, ∃ (z : State) (c : BitVec 8), t = z.atsAnswer c x ∧ z.cores = s.cores ∧
        (dom.pstate = 1 → c = 0 ∨ c = Cause.PAGE_ABSENT) ∧ (dom.pstate ≠ 1 → c = Cause.PASID_RETIRED)) ∧
      (s.atsWaiters d = [] → t.cores = s.cores)) ∧
    (∀ (c : BitVec 8) x, ((s.coreAt k).ctxAt j).ext = some x → (((s.atsAnswer c (.ctx k j)).coreAt k).ctxAt j).ext = some { x with answer := some c }) ∧
    (∀ (c : BitVec 8) (g : Bool) (q : Card) x, q ∈ (s.coreAt k).ring g → q.seq = i → q.ext = some x →
      { q with ext := some { x with answer := some c } } ∈ ((s.atsAnswer c (.card k g i)).coreAt k).ring g) ∧
    (dom.atsOld ≠ 0 → dom.atsOut = 0 → ∃ t, exec (.atsResponse d) s = .next t ∧
      t.domainAt d = { dom with atsOld := dom.atsOld - 1, dropped := dom.dropped + 1 } ∧ t.cores = s.cores) ∧
    (dom.pstate = 2 → (dom.atsOut = 0 ∨ dom.retireAt + 6000 ≤ s.now) → ∃ t, exec (.pasidRetireEnd d) s = .next t ∧
      t.domainAt d = { dom with pstate := 0, pasid := 0, atsOut := 0, atsOld := dom.atsOld + dom.atsOut } ∧
      (∀ c y x, ((t.coreAt c).ctxAt y).ext = some x → x.peer = false → x.dom = d → x.answer ≠ none) ∧
      ∀ c (q : Card) x, q ∈ (t.coreAt c).ring q.eng → q.ext = some x → x.peer = false → x.dom = d → x.answer ≠ none) ∧
    (dom.ldStatus = 0xFFFF → ∃ t st, exec (.loadComplete d) s = .next t ∧ (s.load96 d).1 = st ∧
      (t.domainAt d).ldStatus = BitVec.ofNat 16 st ∧ (t.domainAt d).ldSeq = ((s.load96 d).2.2.domainAt d).ldSeq + 1) ∧
    ((s.qslotAt i).holdoffDue s.now = true → exec (.msixHoldoffExpiry i) s = .next (s.signal i)) ∧
    (s.visible f = true → hasVec f vec = true →
      (∃ t, exec (.msixUnmask f vec) s = .next t ∧ t.vecAt f vec = { s.vecAt f vec with masked := false, pending := false } ∧
        t.sent = s.sent ++ if (s.vecAt f vec).pending then [.msix f vec] else []) ∧
      s.barRead f 4 (16 * vec) 16 = .next (s.send (.readData (leOf 16 (s.vecAt f vec).image)))) ∧
    (s.visible f = true → off < 64 → ∃ (z : State), s.barRead f 0 (4096 * off) 4 = .next (z.send (.readData (leOf 4 (s.pageIndex f off).toNat))) ∧
      z.cores = s.cores ∧ z.qslots = s.qslots ∧ z.mem = s.mem)

/-- O51 (R374, R302, R304, R305, R306, R307, R26, R310, R308, R313, R317, R375). LAUNCH_FETCH of the slot whose turn it is
reads its record, admits it and advances HEAD, or stops the slot with ERR where the ring does not translate.
SPAWN_ADMIT admits the oldest spawned record. TASK_EXPAND puts the next task of the launch whose turn it is into the
pool of its die, where the pool has room and has admitted none in the tick. NODE_RETIRE removes an ended node and its
edges, or discards its successors where it failed, before the pool of its die admits or dispatches in the tick.
DEADLINE_DISCARD discards a late node. TASK_DISPATCH sends the first unit in order that can be placed: a READY node
that is not late goes to the core that R311 gives. GANG_DRAIN begins a drain. TREE_PROPAGATE moves the words of a node
up, and counts them at the root. COMPLETION_RECORD_WRITE lands the external writes of the launch and writes its
record; as a later step it advances TAIL, sets FULL where the ring is then full, frees its slot, and signals where
THRESH is met; a record that finds the ring full is held, and a launch that names no queue has none. That the external
writes land first is the model's choice (log 96), and so is the order of the records of a queue and that the slot is
freed with TAIL (log 74). -/
def Obligations.LaunchEvents : Prop :=
  ∀ (i die id slot node cl : Nat) (bs : List Byte) (pts : BitVec 64) (r : Spawn) (rest : List Spawn) (n : PoolNode)
    (ns : List PoolNode) (l : Launch) (s u : State),
    let q := s.qslotAt i
    let v := ({ s with qnext := (i + 1) % 1024 } : State).stampReads [slotBlock i / 128] 0
    let ring := q.ring.toNat + 128 * (q.head.toNat % 2 ^ q.logn.toNat)
    (s.endowed = true → ((List.range 1024).map fun k => (s.qnext + k) % 1024).find? s.fetchable = some i →
      (v.2.unitReadAt q.dom.toNat ring 128 v.1 = none →
        exec (.launchFetch i) s = .next (v.2.stepQslot i { q with stopped := true, err := true } v.1)) ∧
      (v.2.unitReadAt q.dom.toNat ring 128 v.1 = some (bs, pts, u) →
        exec (.launchFetch i) s = .next ((u.admitRecord bs (.queue q.queue.toNat) pts).stepQslot i { q with head := q.head + 1 } pts))) ∧
    (s.spawnQ die = r :: rest → s.slotFree = true → exec (.spawnAdmit die) s =
      .next (({ s with spawns := Table.put s.spawns die rest } : State).admitRecord r.bytes (.spawn r) r.pts)) ∧
    (s.slots = [(slot, l)] → l.next < l.total → s.dieFor l = die → s.expandNext die = some (slot, l)) ∧
    (s.expandNext die = some (slot, l) → (nodesOf s die).length < poolSize → s.poolPhase die < 3 →
      ∃ t m, exec (.taskExpand die) s = .next t ∧ t.pool = s.pool ++ [m] ∧ m.die = die ∧ m.slot = slot ∧ m.pos = l.next ∧
        m.ended = none ∧ (m.edges = [] → m.st = .ready) ∧ (m.edges ≠ [] → m.st = .waiting) ∧
        (t.launchAt slot).map Launch.next = some (l.next + 1)) ∧
    (s.pool.find? (fun m => m.id == id) = some n →
      (n.ended = some true → s.poolPhase n.die = 0 → ∃ t, exec (.nodeRetire id) s = .next t ∧ ∀ m ∈ t.pool, m.id ≠ id ∧
        (m.slot = n.slot → m.ended = none → id ∉ m.edges)) ∧
      (n.ended = some false → s.poolPhase n.die = 0 → ∃ t, exec (.nodeRetire id) s = .next t ∧ ∀ m ∈ t.pool, m.id ≠ id ∧
        (m.slot = n.slot → m.st ≠ .dispatched → m.ended = none → id ∉ m.edges)) ∧
      (s.nodeLate n = true → exec (.deadlineDiscard id) s = .next (s.discard n .late 4))) ∧
    (∀ t, (s.unitOrder die).findSome? (fun n => s.tryUnit die n) = some t →
      exec (.taskDispatch die) s = .next (t.poolAt die 4)) ∧
    (∀ k, s.unitOrder die = [n] → s.launchAt n.slot = some l → s.readyUnit n = some [n] → l.logMode ≠ 2 →
      s.bucketEmpty l.domain = false → (s.entryOf cDomain l.domain).ended = false → s.nodeLate n = false →
      s.placeUnit die l [n] = some [k] → exec (.taskDispatch die) s = .next ((s.sendNode n k).poolAt die 4)) ∧
    (∀ d, s.drainFor die = some d → exec (.gangDrain die) s = .next { s with drains := Table.put s.drains die d }) ∧
    (s.drains = [] → s.unitOrder die = [n] → s.launchAt n.slot = some l → l.gsize ≠ 0 → s.readyUnit n = some ns →
      unitReady ns + 2 ^ 20 ≤ s.now → (∃ c, c < 64 ∧ ∀ k, k < 16 → s.canRun l (16 * (64 * die + c) + k) = true) → 2 ^ l.gsize ≤ 16 →
      ∃ t c, exec (.gangDrain die) s = .next t ∧ t.drains = [(die, c, n.id)] ∧ 64 * die ≤ c ∧ c < 64 * die + 64) ∧
    (let mine (w : TreeWord) : Bool := w.slot == slot && w.node == node
     (∃ w ∈ s.words, mine w = true) → node < 1024 → ∃ t w, exec (.treePropagate slot node) s = .next t ∧
      t.words = (s.words.filter fun w => !mine w) ++ [w] ∧ w.slot = slot ∧ w.node = dieNode (node / 64) ∧
      w.completed = ((s.words.filter mine).map TreeWord.completed).sum ∧ w.late = ((s.words.filter mine).map TreeWord.late).sum ∧
      w.faulted = ((s.words.filter mine).map TreeWord.faulted).sum) ∧
    (let mine (w : TreeWord) : Bool := w.slot == slot && w.node == node
     (∃ w ∈ s.words, mine w = true) → 1024 ≤ node → s.launchAt slot = some l → ∃ t m, exec (.treePropagate slot node) s = .next t ∧
      t.launchAt slot = some m ∧ t.words = (s.words.filter fun w => !mine w) ∧
      m.completed = l.completed + ((s.words.filter mine).map TreeWord.completed).sum ∧
      (m.completed + m.late + m.faulted = m.total → m.doneAt = some s.serial)) ∧
    (∀ done, s.launchAt slot = some l → l.doneAt = some done → l.wrote = none → l.cq = 0xFFFF →
      exec (.completionRecordWrite slot) s = .next ((s.landExt fun w => w.launch == some l.seq).freeLaunch slot)) ∧
    (∀ done qs, s.launchAt slot = some l → l.doneAt = some done → l.wrote = none → l.cq ≠ 0xFFFF →
      let z := s.landExt fun w => w.launch == some l.seq
      z.slots = [(slot, l)] → z.qslots.find? (fun p => p.2.enable && p.2.completion && p.2.queue.toNat == l.cq) = some (cl, qs) →
      (qs.tail - qs.head).toNat ≠ 2 ^ qs.logn.toNat →
      z.unitWriteAt qs.dom.toNat (qs.ring.toNat + 64 * (qs.tail.toNat % 2 ^ qs.logn.toNat)) (l.completion z.now) l.cpts = some (pts, u) →
      exec (.completionRecordWrite slot) s = .next (u.setLaunch slot { l with wrote := some ⟨cl, z.now, pts⟩ })) ∧
    (∀ w, s.launchAt slot = some l → l.wrote = some w →
      let qs := s.qslotAt w.slot
      let x : QSlot := { qs with tail := qs.tail + 1, p := qs.p + 1, t0 := if qs.p = 0 then w.tick else qs.t0
                                 full := decide ((qs.tail + 1 - qs.head).toNat = 2 ^ qs.logn.toNat) }
      let t := (s.stepQslot w.slot x w.pts).freeLaunch slot
      (qs.thresh = 0 ∨ x.p < qs.thresh.toNat → exec (.completionRecordWrite slot) s = .next t) ∧
      (qs.thresh ≠ 0 → qs.thresh.toNat ≤ x.p → exec (.completionRecordWrite slot) s = .next (t.signal w.slot))) ∧
    (∀ done qs, s.launchAt slot = some l → l.doneAt = some done → l.wrote = none → l.cq ≠ 0xFFFF →
      let z := s.landExt fun w => w.launch == some l.seq
      z.slots = [(slot, l)] → z.qslots.find? (fun p => p.2.enable && p.2.completion && p.2.queue.toNat == l.cq) = some (cl, qs) →
      (qs.tail - qs.head).toNat = 2 ^ qs.logn.toNat → qs.full = false →
      exec (.completionRecordWrite slot) s = .next (z.stepQslot cl { qs with full := true } 0))

/-- O52 (R27, R225, R222, R289, R189, R202, R206, R191, R68, R69, R249, R170). DEADLINE_ABORT ends a task past its
deadline; POD_MESSAGE_DELIVER puts the oldest message for the core into its inbox, and a core without install state
loses it; APPLY_QUEUE_START starts the oldest apply; NOTICE_DELIVER discards a notice without a hook, and delivers one
to a live hook as an apply of its pod with the data words in x4 to x7; CARD_START starts a card that may begin; a unit
of a card is made by MATRIX_UNIT_STEP and COPY_UNIT_WRITE; CARD_COMPLETE completes a finished, cancelled or faulted
card, and applies the pod of one that has neither fault nor cancel; the write buffer drains; an engine that is denied
a bank waits; returns end the waits of loads and stores; PTS_ADVANCE raises the clocks; a forwarded barrier event has
its effect on the fields at their holder and on the marks of its context, which gets the answer or sleeps, and one of
a context that no longer awaits it has none; a core whose contexts sleep is gated; an undecodable word takes its fault
at its own pc; a TFLAGS write by a live context writes both flags. The model's choices are that ENGINE_BANK_FORCE
counts one wait for each event (log 59), that a pod message is a packet on its way until its delivery (log 62), that a
barrier event of a linked barrier is a later step (log 86), and the time at which a queued apply starts (log 85). -/
def Obligations.CoreEvents : Prop :=
  ∀ (k j id bank : Nat) (eng : Bool) (m : Msg) (src : Nat) (rest : List (Nat × Packet)) (c : Card) (fn : BarFn) (b : Nat) (n : Word)
    (nt : Notice) (cause : BitVec 8) (tval v : Word) (s : State),
    let co := s.coreAt k
    (s.abortDue k = true → exec (.deadlineAbort k) s = .next (s.deadlineAbort k)) ∧
    (co.active = true → co.inbox.length < 4 → s.barq = (k, .inbox src m) :: rest → ∃ t, exec (.podMessageDeliver k) s = .next t ∧
      (t.coreAt k).inbox = (if co.installed then co.inbox ++ [m] else co.inbox) ∧ t.barq = rest) ∧
    (co.active = true → exec (.applyQueueStart k) s = .next (s.startQueued k)) ∧
    (∀ a q h hs, co.applyQ = a :: q → co.freeHelpers = h :: hs → (s.startQueued k).coreAt k =
      { (((co.startHelper h a.cap.entry a.apply.stacklim a.apply.trapvec true a.apply.data co.kptsNow).landCap h a.cap).unhold
        a.apply.handle) with applyQ := q }) ∧
    (s.notices = [nt] → (∀ h ∈ s.hooks, ¬(h.oid = nt.oid ∧ h.kind = nt.kind)) →
      exec .noticeDeliver s = .next { s with notices := [] }) ∧
    (∀ h i p, s.notices = [nt] → s.hooks.find? (fun h => h.oid == nt.oid && h.kind == nt.kind) = some h →
      let c := s.coreAt h.core
      c.active = true → s.podCheck h.core h.handle = .ok (i, p) →
      (∀ q, c.freeHelper = some q → exec .noticeDeliver s = .next (({ s with notices := [] } : State).setCoreAt h.core
        ((c.startHelper q (word (c.podFld p 0 8)) (c.ctxAt 0).stacklim (c.ctxAt 0).trapvec true nt.data 0).land q p))) ∧
      (c.freeHelper = none → 16 ≤ c.applyQ.length → exec .noticeDeliver s = .next s)) ∧
    ((co.ring eng).find? (fun c => c.seq == id) = some c → s.coreOn k = true → c.running = false → co.mayStart c = true →
      ∃ t, exec (.cardStart k eng id) s = .next t ∧ ∀ x ∈ (t.coreAt k).ring eng, x.seq = id → x.running = true) ∧
    (co.mxRing.filter Card.canStep = [c] → s.coreOn k = true → ∃ (u : State),
      exec (.matrixUnitStep k) s = .next (u.cardUnit k c (mxUnit k c) s.alarm) ∧ u.mem = s.mem ∧ (u.coreAt k).pool = co.pool) ∧
    (co.cpRing.find? (fun c => c.seq == id && c.canStep) = some c → s.coreOn k = true →
      exec (.copyUnitWrite k id) s = .next (s.cardUnit k c (cpUnit k c) false)) ∧
    ((co.ring eng).find? (fun c => c.seq == id && c.running && (c.finished || c.cancelled || c.fault.isSome)) = some c →
      s.coreOn k = true →
      (∀ e, c.fault = some e → exec (.cardComplete k eng id) s = .next (s.completeCard k c e.1 e.2 false)) ∧
      (c.fault = none → c.cancelled = true ∨ c.pod = 0 →
        exec (.cardComplete k eng id) s = .next (s.completeCard k c 0 0 false)) ∧
      (∀ r u, c.fault = none → c.cancelled = false → c.pod ≠ 0 →
        s.spawnApply k ⟨c.pod, (co.ctxAt 0).stacklim, (co.ctxAt 0).trapvec, []⟩ true c.pts = (r, u) →
        exec (.cardComplete k eng id) s = .next (match r with
          | .bad b => u.completeCard k c b.cause (c.pod.setWidth 64) false
          | .full => u.completeCard k c 0 0 true
          | _ => u.completeCard k c 0 0 false))) ∧
    (coreExists k = true → ∃ t, exec (.writeBufferDrain k bank) s = .next t ∧ (t.coreAt k).pool = co.pool ∧
      ∀ i, (t.coreAt k).wbuf.getD i [] = if i = bank then (co.wbuf.getD i []).drop 1 else co.wbuf.getD i []) ∧
    (let key := (if eng then 3 else 0) + bank % 3
     s.coreOn k = true → co.ring eng ≠ [] →
      (Table.get 0 co.engWait key < 16 → ∃ t, exec (.engineBankForce k eng bank) s = .next t ∧
        Table.get 0 (t.coreAt k).engWait key = Table.get 0 co.engWait key + 1) ∧
      (16 ≤ Table.get 0 co.engWait key → ∃ t, exec (.engineBankForce k eng bank) s = .next t ∧
        Table.get 0 (t.coreAt k).engWait key = 0)) ∧
    (coreExists k = true → ∃ t, exec (.globalLoadReturn k j) s = .next t ∧ ((t.coreAt k).ctxAt j).loading = 0) ∧
    (coreExists k = true → ∃ t, exec (.globalStoreReturn k j) s = .next t ∧ ((t.coreAt k).ctxAt j).storing = false ∧
      ((t.coreAt k).ctxAt j).extOut = false) ∧
    (s.ptsDue = true → ∃ t, exec .ptsAdvance s = .next t ∧ t.pts64 = s.pts64 + 1 ∧
      ∀ i, i < 8200 → coreExists i = true → t.coreAt i = (s.coreAt i).tickPts) ∧
    (s.barq = (k, .bar b src j fn.code n) :: rest → (s.coreAt (s.barHolder src b)).active = true → s.linkPending src b = false →
      exec .linkedBarrierEvent s = .next (({ s with barq := rest } : State).linkedEvent b src j fn n) ∧
      let hold := s.barHolder src b
      let v := s.barAt hold b
      let x := (s.coreAt src).ctxAt j
      let pend := x.isPend b
      let drop := x.isDropped b
      let kept := (pend, x.isAph b, drop)
      let busy := drop = true ∨ (pend = true ∧ x.isAph b = v.phase) ∨ v.arr = v.exp
      let asleep := ∃ m ∈ s.barMembers src b, ∃ i, i < 11 ∧ ((s.coreAt m).ctxAt i).sleepsOn b = true
      let makes (w : Barrier) (m : Bool × Bool × Bool) (a : Word) : Prop := LinkedMakes s src j b w m (some (.ok a)) x.wait
      let fails (c : BitVec 8) (tv : Word) : Prop := LinkedMakes s src j b v kept (some (.bad c tv)) x.wait
      let nb := n <<< 8 ||| word b
      (x.bans ≠ some .sent → exec .linkedBarrierEvent s = .next { s with barq := rest }) ∧
      (j < 11 → src ∈ s.barMembers src b → x.bans = some .sent → x.wait = .other → match fn with
        | .init => (asleep → fails Cause.BAR_BUSY (word b)) ∧ (¬asleep → 255 < n.toNat → fails Cause.BAR_OVER nb) ∧
          (¬asleep → n.toNat ≤ 255 →
            makes { v with exp := n.setWidth 8, arr := 0, drops := 0, bexp := 0, barr := 0 } (false, false, false) 0)
        | .arrive => (busy → fails Cause.BAR_OVER (word b)) ∧
          (¬busy → makes (Barrier.tried { v with arr := v.arr + 1 }) (true, v.phase, drop) 0)
        | .drop => (busy → fails Cause.BAR_OVER (word b)) ∧
          (¬busy → makes (Barrier.tried { v with arr := v.arr + 1, drops := v.drops + 1 }) (true, v.phase, true) 0)
        | .wait => (pend = true → x.isAph b ≠ v.phase → makes v (false, x.isAph b, drop) 0) ∧
          (¬(pend = true ∧ x.isAph b ≠ v.phase) → v.arr = v.exp ∧ v.barr = v.bexp →
            makes v.tried (false, x.isAph b, drop) 0) ∧
          (¬(pend = true ∧ x.isAph b ≠ v.phase) → ¬(v.arr = v.exp ∧ v.barr = v.bexp) →
            LinkedMakes s src j b v kept none (.bar b false))
        | .expect => (n.toNat < v.barr.toNat → fails Cause.BAR_BYTES_OVER nb) ∧
          (v.barr.toNat ≤ n.toNat → makes (Barrier.tried { v with bexp := n.setWidth 32 }) kept 0)
        | .test => makes v kept (word (v.barr.toNat * 2 ^ 32 + v.exp.toNat * 2 ^ 24 + v.arr.toNat * 2 ^ 16 +
            (if drop then 4 else 0) + (if pend then 2 else 0) + if v.phase then 1 else 0)))) ∧
    (coreExists k = true → co.active = true → co.idles = true → ∃ t, exec (.clockGate k) s = .next t ∧ (t.coreAt k).gated = true) ∧
    exec (.undecodableWord cause tval) s = .next (s.takeTrap s.me.pc cause tval) ∧
    (coreExists k = true → (co.ctxAt j).st = .live → co.hstat = .running → ∃ t, exec (.tflagsWrite k j v) s = .next t ∧
      ((t.coreAt k).ctxAt j).tin = v.getLsbD 0 ∧ ((t.coreAt k).ctxAt j).tstep = v.getLsbD 1)

/-- O53 (R338, R339, R340, R341, R342, R347, R349, R350, R280, R285). STOP_TICK at the tick records cause, EPC of context
0 and tick, and stops the core; QUIESCE_END ends every outstanding wait of its contexts; FLUSH_TOKEN, when every core
of the stop set has quiesced, begins the save in a region that its namer holds, with the core's packets in the save
buffer as far as there is room, or ends the stop VOID where there is no such region; SAVE_BUFFER_DRAIN writes a packet
into the husk; HUSK_SAVE_STEP writes a block; HUSK_VALID ends the save; ACCEPT_STOP_END, where no card of the former
holder touches the core, and RECLAIM_STOP_END finish what waits for the stop; a power emergency begins a stop of every
core that is not DEFUNCT; a function-level reset of an OID without cores reclaims its loans; a keeper's writes of
KSTOP, KRESUME, event selects and counters are made; RESUME_COMPLETE restores the core and it runs: the partition
word, the declarations and the task registers of the husk, the rows of its image, and of each LIVE context the pc, the
trap registers, the registers with a dirty bit, and as PTS the later of the saved one and the highest of the core.
Which router stages the packets, and what a reset of an OID without cores does, is the model's choice (log 69). -/
def Obligations.StopEvents : Prop :=
  ∀ (k o i f : Nat) (v nm : Word) (st : Stop) (s t : State),
    let co := s.coreAt k
    (co.stop = some st → st.ticked = false → st.tick ≤ s.now → co.hstat = .running → co.abortSet = false → co.gformed = false →
      ∃ t, exec (.stopTick k) s = .next t ∧ (t.coreAt k).hstat = .stopping ∧ (t.coreAt k).kcause = st.cause ∧
        (t.coreAt k).kepc = (co.ctxAt 0).pc ∧ (t.coreAt k).ktick = word st.tick ∧ (t.coreAt k).stop = some { st with ticked := true, holder := s.holderOf k }) ∧
    (co.stop = some st → st.ticked = true → st.quiet = false → ∃ t, exec (.quiesceEnd k) s = .next t ∧
      (∀ p ∈ (t.coreAt k).ctxs, p.2.loading = 0 ∧ p.2.storing = false ∧ p.2.extOut = false ∧ p.2.ext = none ∧
        (p.2.wait = .none ∨ p.2.wait = .gang)) ∧ ((t.coreAt k).stop.map Stop.quiet) = some true) ∧
    (co.stop = some st → st.quiet = true → st.flushed = false → st.finished = false →
      (∀ p ∈ s.cores, ∀ y, p.2.stop = some y → p.2.hstat = .resuming ∨ y.tick ≠ st.tick ∨ y.quiet = true ∨ y.finished = true) →
      let rg := if st.noHusk then (0, 0) else co.stopRegion st
      let sent := s.barq.filter fun p => p.2.from k
      (co.hstat = .writing → exec (.flushToken k) s = .next (s.stageFlits k st)) ∧
      (co.hstat ≠ .writing → (∀ base, huskBase rg.1 = some base → s.huskHeld rg.2 rg.1 = false ∨ isPeer base = true) →
        ∃ t, exec (.flushToken k) s = .next t ∧ (t.coreAt k).hstat = .void ∧ (t.coreAt k).kcause = st.cause) ∧
      (co.hstat ≠ .writing → ∀ base, huskBase rg.1 = some base → s.huskHeld rg.2 rg.1 = true → isPeer base = false →
        ∃ t w n, exec (.flushToken k) s = .next t ∧ (t.coreAt k).hstat = .writing ∧ (t.coreAt k).hblocks = 0 ∧
          (t.coreAt k).stop = some w ∧ w.base = base ∧ w.drained = st.drained ∧ w.todo = s.huskBlocks k { st with base := base } ∧
          n ≤ 32 ∧ w.saved = st.saved ++ sent.take n ∧
          (s.staged k = 0 → sent.length ≤ 32 → w.saved = st.saved ++ sent ∧ w.flushed = true))) ∧
    (∀ d p rest, co.stop = some st → st.saved = (d, p) :: rest → st.finished = false →
      ∃ t, exec (.saveBufferDrain k) s = .next t ∧ (t.coreAt k).stop = some { st with saved := rest, drained := st.drained + 1 } ∧
        t.mem = (s.huskWrite k st.base (0x4200 + 64 * st.drained) (leOf 64 (packetImage d p))).mem) ∧
    (∀ off bs rest, co.stop = some st → st.todo = (off, bs) :: rest → st.finished = false →
      ∃ t, exec (.huskSaveStep k) s = .next t ∧ (t.coreAt k).stop = some { st with todo := rest } ∧
        (t.coreAt k).hblocks = ((s.huskWrite k st.base off bs).coreAt k).hblocks + 1 ∧ t.mem = (s.huskWrite k st.base off bs).mem) ∧
    (co.stop = some st → st.flushed = true → st.finished = false → st.todo = [] → st.saved = [] →
      ∃ t, exec (.huskValid k) s = .next t ∧ (t.coreAt k).hstat = .valid ∧
        (st.ends = [] → (t.coreAt k).stop = none) ∧ (st.ends ≠ [] → (t.coreAt k).stop = some { st with finished := true })) ∧
    (∀ who, co.stop = some st → st.finished = true → st.ends = [.accept who nm] → s.acceptTouched st = false →
      exec (.acceptStopEnd k) s = .next (((s.setStop k (some { st with ends := [] })).acceptEnd k who nm).endStop k)) ∧
    (∀ l, co.stop = some st → st.finished = true → st.ends = [.reclaim nm l] →
      exec (.reclaimStopEnd k) s = .next (((s.setStop k (some { st with ends := [] })).stopEnd (.reclaim nm l)).endStop k)) ∧
    (k < 8192 → (s.coreEntry k).holder ≠ 0xFFFF → co.stopped = false → co.stop = none → (s.coreEntry k).loans = [] →
      ∃ t w, exec .powerEmergency s = .next t ∧ (t.coreAt k).stop = some w ∧ w.cause = Cause.POWER_EMERGENCY ∧
        w.tick = stopTick s.now ∧ w.ticked = false) ∧
    ((s.funcAt f).oid.toNat = o → o ≠ 0 → o ≠ 1 → s.oidLive o = true → (∀ e ∈ s.entries, e.cls = cCore → e.holder ≠ o) →
      exec (.functionLevelReset f) s = .next (s.reclaimFrom o)) ∧
    (coreExists k = true → s.oidLive o = true → s.isKeeper o k = true →
      (s.keeperWrite o k 0 0x106 v = .ok t → exec (.kstopWrite k v o) s = .next t) ∧
      (s.keeperWrite o k 0 0x107 v = .ok t → exec (.kresumeWrite k v o) s = .next t) ∧
      (i < 16 → s.keeperWrite o k 0 (0x050 + i) v = .ok t → exec (.eventSelectWrite k i v o) s = .next t) ∧
      (i < 16 → s.keeperWrite o k 0 (0x040 + i) v = .ok t → exec (.counterWrite k i v o) s = .next t) ∧
      (co.khusk ≠ 0 → s.keeperWrite o k 0 0x106 1 =
        .ok (s.beginStop k Cause.STOP_KEEPER co.khusk co.khuskBy (stopTick s.now) []))) ∧
    (∀ base, co.hstat = .resuming → huskBase co.kresume = some base →
      let t := (s.restore k base).updCoreAt k fun c => { c.takeHeld with hstat := .running }
      let m (off n : Nat) : Nat := s.mem.readLE (base + off) n
      exec (.resumeComplete k) s = .next t ∧ (t.coreAt k).hstat = .running ∧ (t.coreAt k).held = [] ∧
      (isExternal base = false → s.canonical →
        (t.coreAt k).partw = word (m 24 8) ∧ (t.coreAt k).decla = word (m 32 8) ∧ (t.coreAt k).declb = word (m 40 8) ∧
        (t.coreAt k).wid = word (m 48 8) ∧ (t.coreAt k).deadline = word (m 56 8) ∧ (t.coreAt k).flags = word (m 64 8) ∧
        (t.coreAt k).loopRet = word (m 72 8) ∧ (t.coreAt k).ctarget = word (m 80 8) ∧
        (∀ r i, r < ({ Core.empty with partw := word (m 24 8) } : Core).regBase → i < 128 → m 128 192 / 2 ^ r % 2 = 1 →
          (t.coreAt k).pool.read (128 * r + i) = s.mem.read (base + 0x10000 + 128 * r + i)) ∧
        ∀ j (n : BitVec 5), j < 11 → let q := 0x200 + 512 * j
          let x := (t.coreAt k).ctxAt j
          q ∈ (s.noteOf k (word (m 16 8)) (m 92 1 % 2 == 1)).sects → m (q + 511) 1 / 64 = 1 →
            x.st = .live ∧ x.pc = word (m (q + 448) 8) ∧ x.trapvec = word (m (q + 456) 8) ∧ x.epc = word (m (q + 464) 8) ∧
            x.tval = word (m (q + 472) 8) ∧ x.stacklim = word (m (q + 480) 8) ∧ x.pts = later (word (m (q + 488) 8)) co.kptsNow ∧
            x.getX n = if n ≠ 0 ∧ (BitVec.ofNat 104 (m (q + 496) 13)).getLsbD (bitX n.toNat) then word (m (q + 8 * n.toNat) 8) else 0))

/-- O54 (R284, R277, R292, R232, R316, R362, R360, R319). A loan whose term or grace deadline is reached becomes due with
every loan above it, and so ends the use of its borrower; TERM_NEAR is sent once; an OID idle for 2^24 ticks retires;
a TERM segment ends at its term. A bucket is charged for the ticks it owes, never below -2^31, and refilled by RATE up
to DEPTH; the shared counters are copied to their snapshots; a counter that wraps adds the events modulo 2^48. A power
estimate above 1,800 W returns every core to the nominal step and raises the alarm where the estimate at that step is
above it too. The model's choices are that a bucket is refilled whether or not it is enabled (log 71), and that the
alarm rests on a second estimate at the nominal step (log 72). -/
def Obligations.TimedEvents : Prop :=
  ∀ (j o b ticks k i amt d : Nat) (nm seg : Word) (e : Entry) (l : Loan) (x : Bucket) (g : Seg) (id : Oid) (s : State),
    (s.loanAt nm j = some (e, l) → l.due = false →
      (l.term.toNat ≤ s.now → exec (.loanTermExpiry nm j) s = .next (s.endUse e j l l.term.toNat)) ∧
      (l.recalled = true → l.rdl.toNat ≤ s.now → exec (.graceDeadlineExpiry nm j) s = .next (s.endUse e j l l.rdl.toNat)) ∧
      (l.near = false → l.term.toNat ≤ s.now + 65536 → exec (.termNear nm j) s =
        .next ((s.putEntry { e with loans := e.loans.set j { l with near := true } }).notify
          ⟨l.borrower, 2, nm, noticeData 2 nm (word l.lender) l.term⟩)) ∧
      (e.cls ≠ cCore → s.endUse e j l l.term.toNat =
        s.putEntry { e with loans := e.loans.mapIdx fun i m => if j ≤ i then { m with due := true } else m })) ∧
    (s.oids.find? (fun p => p.1 == o) = some (o, id) → o ≠ 1 → s.idleDue o id = true →
      exec (.oidIdleRetire o) s = .next (s.retireOid o 1 0)) ∧
    (s.liveSeg d seg = some g → g.cls = 3 → g.term.toNat ≤ s.now → exec (.segTermEnd d seg) s = .next (s.dropSeg g)) ∧
    (s.buckets.find? (fun p => p.1 == b) = some (b, x) → x.due ≠ 0 → ticks ≠ 0 → -(2 ^ 31 : Int) ≤ x.level.toInt →
      let n := min ticks x.due
      exec (.bucketCharge b ticks) s = .next (({ s with buckets := Table.put s.buckets b { x with
        due := x.due - n, level := BitVec.ofInt 64 (max (-(2 ^ 31 : Int)) (x.level.toInt - (n : Int))) } } : State).ctlMark (bucketBlock b) 32 0)) ∧
    (s.refills < s.now / 1024 → ∃ t, exec .bucketRefill s = .next t ∧ t.refills = s.refills + 1 ∧
      ∀ p ∈ s.buckets, (p.1, { p.2 with
        level := BitVec.ofInt 64 (min (p.2.depth.toNat : Int) (p.2.level.toInt + (p.2.rate.toNat : Int))) }) ∈ t.buckets) ∧
    (s.snaps < s.now / 2 ^ 20 → ∃ t, exec .counterSnapshot s = .next t ∧ t.snaps = s.snaps + 1 ∧
      ∀ p ∈ s.shared, (p.1, { p.2 with snap := p.2.count }) ∈ t.shared) ∧
    (let co := s.coreAt k
     let sel := Table.get 0 co.evsel i
     coreExists k = true → i < 16 → co.active = true → co.counts = true → selShared sel = false → selEvent sel ∈ freeEvents →
      selEvent sel < 17 → amt < 2 ^ 48 → 2 ^ 48 ≤ (Table.get 0 co.cnt i).toNat + amt →
      ∃ t, exec (.counterWrap k i amt) s = .next t ∧ (Table.get 0 (t.coreAt k).cnt i).toNat = (Table.get 0 co.cnt i).toNat + amt - 2 ^ 48) ∧
    (s.powers < s.now / 1024 → ∃ t, exec .powerEstimate s = .next t ∧ t.powers = s.powers + 1 ∧
      (1800 < Config.power s.n → (∀ p ∈ t.cores, p.2.clk = 600) ∧ (1800 < Config.power (s.n + 1) → t.alarm = true)) ∧
      (Config.power s.n < 1710 → t.alarm = false))

/-- O55 (R107, R113, R140, R141, R149, R150, R50, R334). Whatever an instruction of the integer, scalar floating-point,
vector arithmetic, permute, reduction, compare and mask groups does from a state of canonical memory where an
exception is handled (it retires, waits or takes an exception): every x, v and m register but its one destination,
every h and c register, RRB, TRAPVEC, TFLAGS.STEP and STACKLIM are as before; EPC, CAUSE and TVAL too unless it takes
an exception; no FPFLAGS or ISTAT bit is cleared; the declared and core-scope registers, barriers, futures and cards,
every other context and core, every byte of the pool outside the destination row and every byte of device memory are
as before. -/
def Obligations.RegisterFrame : Prop :=
  ∀ (i : Instr) (d : Dest) (s t : State), dest i = some d → s.canonical → s.handled → exec i s = .next t →
    (∀ n, d ≠ .x n → t.xr n = s.xr n) ∧ (∀ n, d ≠ .v n → t.vr n = s.vr n) ∧ (∀ n, d ≠ .m n → t.mr n = s.mr n) ∧
    (∀ n, t.hr n = s.hr n) ∧ (∀ n, t.cr n = s.cr n) ∧ t.me.rrb = s.me.rrb ∧ t.me.trapvec = s.me.trapvec ∧
    t.me.tstep = s.me.tstep ∧ t.me.stacklim = s.me.stacklim ∧
    (t.me.tin = false → t.me.epc = s.me.epc ∧ t.me.cause = s.me.cause ∧ t.me.tval = s.me.tval) ∧
    s.me.fpflags &&& t.me.fpflags = s.me.fpflags ∧ s.me.istat &&& t.me.istat = s.me.istat ∧
    t.core.partw = s.core.partw ∧ t.core.decla = s.core.decla ∧ t.core.declb = s.core.declb ∧ t.core.wid = s.core.wid ∧
    t.core.flags = s.core.flags ∧ t.core.mxsat = s.core.mxsat ∧ t.core.kcause = s.core.kcause ∧ t.core.bars = s.core.bars ∧
    t.core.futs = s.core.futs ∧ t.core.cards = s.core.cards ∧
    (∀ j, j ≠ s.ctx → t.core.ctxAt j = s.core.ctxAt j) ∧ (∀ k, k ≠ s.cur → t.coreAt k = s.coreAt k) ∧
    (∀ b, (∀ n, d = .v n → b / 128 ≠ s.vrow n) → t.core.pool.read b = s.core.pool.read b) ∧
    ∀ b, t.mem.read b = s.mem.read b

/-- O56 (R381, R385, R322, R18). After reset the device is at stage 1 of the bring-up and fabric time is 0; nothing is
endowed, so that every core, domain and byte of HBM is FREE; translation is off in every domain and the other fields
of its block read 0; memory and every pool have their canonical form and read 0; every core is running, with KCAUSE 0,
and core 0's context 0 is LIVE with every other FREE. That every x and m register reads 0 (m0 apart) is the model's
choice (log 1). -/
def Obligations.ResetState : Prop :=
  State.reset.stage = 1 ∧ State.reset.fabric = 0 ∧ State.reset.endowed = false ∧ State.reset.canonical ∧
    (∀ k, State.reset.holderOf k = 0) ∧ (∀ d, State.reset.domHolder d = 0) ∧
    (∀ a b, a < b → b ≤ hbmEnd → ∀ e ∈ State.reset.pieces ⟨cMem, 0, a, b⟩, e.holder = 0) ∧
    (∀ d, (State.reset.domainAt d).enable = false ∧ (State.reset.domainAt d).root = 0 ∧ (State.reset.domainAt d).pasid = 0 ∧
      (State.reset.domainAt d).pstate = 0 ∧ (State.reset.domainAt d).toff = 0 ∧ (State.reset.domainAt d).tgen = 0 ∧
      (State.reset.domainAt d).dropped = 0) ∧
    (∀ a, State.reset.mem.read a = 0) ∧
    (∀ k, let c := State.reset.coreAt k
      c.hstat = .running ∧ c.kcause = 0 ∧ c.task = false ∧ c.inbox = [] ∧ c.cards = [] ∧ (∀ a, c.pool.read a = 0) ∧
      ∀ j, (c.ctxAt j).st = (if j = 0 then .live else .free) ∧ (∀ n, (c.ctxAt j).getX n = 0) ∧ (c.ctxAt j).tin = false ∧
        (∀ n, n ≠ 0 → (c.ctxAt j).getM n = 0) ∧ (c.ctxAt j).rrb = 0 ∧ (c.ctxAt j).fpflags = 0 ∧ (c.ctxAt j).istat = 0)

/-- O57 (R20, R84, R85, R79, R123). At the issue turn of a core that may issue, that is in no gang and whose first LIVE
context in turn is j: where its fetch gives bytes that decode to an instruction that the core's profile and kind
allow, the step is exec of that instruction in that context, which then has issued last, and time passes; where they
do not decode, the step is the fault of R84 with word 0 in TVAL. A turn of an event is exec of that event, and a turn
of the host is its access to a BAR or its setting of the AtomicOp bit; an event that is due comes before the free
schedule and takes no time. The order of the turns, what is due and how time passes are the model's choices (logs 2,
90 and 91). -/
def Obligations.StepRunsDecoded : Prop :=
  (∀ (s t u : State) (k j : Nat) (rest : List Turn) (pre post : List Nat) (bs more : List Byte) (i : Instr),
    s.agenda = .issue k :: rest →
    let s0 : State := { s with agenda := rest }
    s0.canIssue k = true → ((s.coreAt k).gated && (s.coreAt k).liveCtxs.all (s.coreAt k).sleeps) = false →
    s0.abortDue k = false → (s.coreAt k).gsize = 0 → s.barq = [] →
    (s.coreAt k).order = pre ++ j :: post → (∀ m ∈ pre, ((s.coreAt k).ctxAt m).st ≠ .live) → ((s.coreAt k).ctxAt j).st = .live →
    let s1 : State := { s0.updCoreAt k fun c => { c with gated := false, uncounted := false } with cur := k, ctx := j }
    s1.loopInstr = none → s1.fetch = .ok (bs, t) →
    ((earlyFault (isFirmware t.cur) t.core.profOf (rawOf bs) = none → decodeBytes bs = .ok (i, more) → exec i t = .next u →
        ((u.coreAt k).ctxAt j).went = true → step s = .next ((u.updCoreAt k fun c => { c with last := j }).pass)) ∧
      (∀ e, earlyFault (isFirmware t.cur) t.core.profOf (rawOf bs) = none → decodeBytes bs = .error e →
        t.takeTrap t.me.pc (errCause e) ((rawOf bs).x0.setWidth 64) = u → ((u.coreAt k).ctxAt j).went = true →
        step s = .next ((u.updCoreAt k fun c => { c with last := j }).pass)) ∧
      (∀ e, earlyFault (isFirmware t.cur) t.core.profOf (rawOf bs) = some e →
        t.takeTrap t.me.pc e ((rawOf bs).x0.setWidth 64) = u → ((u.coreAt k).ctxAt j).went = true →
        step s = .next ((u.updCoreAt k fun c => { c with last := j }).pass)))) ∧
  (∀ (s u : State) (i : Instr) (rest : List Turn),
    (s.agenda = .event i :: rest → isEvent i = true → exec i { s with agenda := rest } = .next u → step s = .next u.pass) ∧
    (∀ f bar off n, s.agenda = .hostRead f bar off n :: rest →
      ({ s with agenda := rest } : State).barRead f bar off n = .next u → step s = .next u.pass) ∧
    (∀ f bar off bs, s.agenda = .hostWrite f bar off bs :: rest →
      ({ s with agenda := rest } : State).barWrite f bar off bs = .next u → step s = .next u.pass) ∧
    (∀ on, s.agenda = .atomicOps on :: rest → step s = .next ({ s with agenda := rest, atomicOps := on } : State).pass) ∧
    (s.agenda = [] → s.due = some i → step s = exec i s) ∧
    (s.agenda = [] → s.due = none → Config.schedule s.n = .event i → isEvent i = true → exec i s = .next u → step s = .next u.pass))

/-- O58 (R80, R84, R109, R107, R108, R140, R122, R167, R113). The words that the spec writes out decode to the
instructions that it names: slli x5, x6, 12; add x5, x6, x7; addi x4, x4, -1; vadd.f32 v4, v5, v7, m2; loop.rot x8;
bar.init 3, x0; bar.wait 3; fadd with rounding toward zero. The examples of R84 are refused: the zero word, MAJOR 0x00
and 0x0F, an unassigned function, a literal on add, a condition 6. -/
def Obligations.DecodeWords : Prop :=
  let d (n w : Nat) : Except DecodeErr Instr := (decodeBytes (leBytes n w)).map Prod.fst
  d 4 0x0030C520 = .ok (.slli 5 6 12) ∧ d 4 0x001CC504 = .ok (.add 5 6 7) ∧ d 4 0xFFFC8408 = .ok (.addi 4 4 0x3FFF) ∧
  d 4 0x801CA488 = .ok (.vadd 2 .f32 4 5 7) ∧ d 4 0xFFFF6870 = .ok (.loop 8 true (BitVec.ofInt 18 (-3))) ∧
  d 4 0x0C0000BC = .ok (.barInit 3 0) ∧ d 4 0x0D8000BC = .ok (.barWait 3) ∧
  d 12 (0x001CC53A + 0x00040000 * 2 ^ 32) = .ok (.faddExt 5 6 7 .rz) ∧
  d 4 0 = .error .illZero ∧ d 4 0x400 = .error .undefMajor ∧ d 4 0x3C = .error .undefMajor ∧
  d 4 0x10000004 = .error .undefFn ∧ d 12 0x001CC505 = .error .litNotAllowed ∧ d 4 0x00180060 = .error .reservedField

/-- O59 (R79, R80, R81, R82, R83). For every well-formed instruction that has an encoding, with every operand at every
value, the bytes of its encoding followed by any bytes decode to the instruction and leave those bytes (R79 to R83):
no bit of an encoding is dropped. -/
def Obligations.EncodeDecodes : Prop :=
  ∀ (i : Instr) (w : Words) (rest : List (BitVec 8)), WellFormed i = true → encode i = some w →
    decodeBytes (w.bytes ++ rest) = .ok (i, rest)

/-- O60 (R246, R34). For every state whose device memory and pools are in canonical form (addresses strictly rising, no
entry that an unlisted address reads as), a step that answers a next state leaves them in that form, so that equal
memories stay equal data. -/
def Obligations.CanonicalKept : Prop :=
  ∀ s t : State, s.canonical → Sys2Proof.Machine.step s = .next t → t.canonical
end

