-- ==== Sys2Proof/Laws/Fields.lean ====
section
/-! SUPPORT. The fields of encoded words: each field of the decoder reads back what the encoder placed there. -/

namespace Sys2Proof.Laws

set_option linter.all false

@[simp] theorem len_packR (fn : BitVec 9) (c b a : BitVec 5) (maj : BitVec 6) (len : BitVec 2) (x1 x2 : BitVec 32) (l : BitVec 64) : (Raw.mk (packR fn c b a maj len) x1 x2 l).len = len := by
  apply BitVec.eq_of_getLsbD_eq; intro j hj
  simp only [Raw.len, packR, BitVec.getLsbD_extractLsb', BitVec.getLsbD_append, BitVec.getLsbD_setWidth, hj, decide_true, Bool.true_and]
  repeat' split
  all_goals first | omega | (congr 1; omega)

@[simp] theorem major_packR (fn : BitVec 9) (c b a : BitVec 5) (maj : BitVec 6) (len : BitVec 2) (x1 x2 : BitVec 32) (l : BitVec 64) : (Raw.mk (packR fn c b a maj len) x1 x2 l).major = maj := by
  apply BitVec.eq_of_getLsbD_eq; intro j hj
  simp only [Raw.major, packR, BitVec.getLsbD_extractLsb', BitVec.getLsbD_append, BitVec.getLsbD_setWidth, hj, decide_true, Bool.true_and]
  repeat' split
  all_goals first | omega | (congr 1; omega)

@[simp] theorem fA_packR (fn : BitVec 9) (c b a : BitVec 5) (maj : BitVec 6) (len : BitVec 2) (x1 x2 : BitVec 32) (l : BitVec 64) : (Raw.mk (packR fn c b a maj len) x1 x2 l).fA = a := by
  apply BitVec.eq_of_getLsbD_eq; intro j hj
  simp only [Raw.fA, packR, BitVec.getLsbD_extractLsb', BitVec.getLsbD_append, BitVec.getLsbD_setWidth, hj, decide_true, Bool.true_and]
  repeat' split
  all_goals first | omega | (congr 1; omega)

@[simp] theorem fB_packR (fn : BitVec 9) (c b a : BitVec 5) (maj : BitVec 6) (len : BitVec 2) (x1 x2 : BitVec 32) (l : BitVec 64) : (Raw.mk (packR fn c b a maj len) x1 x2 l).fB = b := by
  apply BitVec.eq_of_getLsbD_eq; intro j hj
  simp only [Raw.fB, packR, BitVec.getLsbD_extractLsb', BitVec.getLsbD_append, BitVec.getLsbD_setWidth, hj, decide_true, Bool.true_and]
  repeat' split
  all_goals first | omega | (congr 1; omega)

@[simp] theorem fC_packR (fn : BitVec 9) (c b a : BitVec 5) (maj : BitVec 6) (len : BitVec 2) (x1 x2 : BitVec 32) (l : BitVec 64) : (Raw.mk (packR fn c b a maj len) x1 x2 l).fC = c := by
  apply BitVec.eq_of_getLsbD_eq; intro j hj
  simp only [Raw.fC, packR, BitVec.getLsbD_extractLsb', BitVec.getLsbD_append, BitVec.getLsbD_setWidth, hj, decide_true, Bool.true_and]
  repeat' split
  all_goals first | omega | (congr 1; omega)

@[simp] theorem fD_packR (fn : BitVec 9) (c b a : BitVec 5) (maj : BitVec 6) (len : BitVec 2) (x1 x2 : BitVec 32) (l : BitVec 64) : (Raw.mk (packR fn c b a maj len) x1 x2 l).fD = fn := by
  apply BitVec.eq_of_getLsbD_eq; intro j hj
  simp only [Raw.fD, packR, BitVec.getLsbD_extractLsb', BitVec.getLsbD_append, BitVec.getLsbD_setWidth, hj, decide_true, Bool.true_and]
  repeat' split
  all_goals first | omega | (congr 1; omega)

@[simp] theorem len_packI (i : BitVec 14) (b a : BitVec 5) (maj : BitVec 6) (len : BitVec 2) (x1 x2 : BitVec 32) (l : BitVec 64) : (Raw.mk (packI i b a maj len) x1 x2 l).len = len := by
  apply BitVec.eq_of_getLsbD_eq; intro j hj
  simp only [Raw.len, packI, BitVec.getLsbD_extractLsb', BitVec.getLsbD_append, BitVec.getLsbD_setWidth, hj, decide_true, Bool.true_and]
  repeat' split
  all_goals first | omega | (congr 1; omega)

@[simp] theorem major_packI (i : BitVec 14) (b a : BitVec 5) (maj : BitVec 6) (len : BitVec 2) (x1 x2 : BitVec 32) (l : BitVec 64) : (Raw.mk (packI i b a maj len) x1 x2 l).major = maj := by
  apply BitVec.eq_of_getLsbD_eq; intro j hj
  simp only [Raw.major, packI, BitVec.getLsbD_extractLsb', BitVec.getLsbD_append, BitVec.getLsbD_setWidth, hj, decide_true, Bool.true_and]
  repeat' split
  all_goals first | omega | (congr 1; omega)

@[simp] theorem fA_packI (i : BitVec 14) (b a : BitVec 5) (maj : BitVec 6) (len : BitVec 2) (x1 x2 : BitVec 32) (l : BitVec 64) : (Raw.mk (packI i b a maj len) x1 x2 l).fA = a := by
  apply BitVec.eq_of_getLsbD_eq; intro j hj
  simp only [Raw.fA, packI, BitVec.getLsbD_extractLsb', BitVec.getLsbD_append, BitVec.getLsbD_setWidth, hj, decide_true, Bool.true_and]
  repeat' split
  all_goals first | omega | (congr 1; omega)

@[simp] theorem fB_packI (i : BitVec 14) (b a : BitVec 5) (maj : BitVec 6) (len : BitVec 2) (x1 x2 : BitVec 32) (l : BitVec 64) : (Raw.mk (packI i b a maj len) x1 x2 l).fB = b := by
  apply BitVec.eq_of_getLsbD_eq; intro j hj
  simp only [Raw.fB, packI, BitVec.getLsbD_extractLsb', BitVec.getLsbD_append, BitVec.getLsbD_setWidth, hj, decide_true, Bool.true_and]
  repeat' split
  all_goals first | omega | (congr 1; omega)

@[simp] theorem imm14_packI (i : BitVec 14) (b a : BitVec 5) (maj : BitVec 6) (len : BitVec 2) (x1 x2 : BitVec 32) (l : BitVec 64) : (Raw.mk (packI i b a maj len) x1 x2 l).imm14 = i := by
  apply BitVec.eq_of_getLsbD_eq; intro j hj
  simp only [Raw.imm14, packI, BitVec.getLsbD_extractLsb', BitVec.getLsbD_append, BitVec.getLsbD_setWidth, hj, decide_true, Bool.true_and]
  repeat' split
  all_goals first | omega | (congr 1; omega)

@[simp] theorem len_packS (o : BitVec 11) (w : BitVec 3) (b a : BitVec 5) (maj : BitVec 6) (len : BitVec 2) (x1 x2 : BitVec 32) (l : BitVec 64) : (Raw.mk (packS o w b a maj len) x1 x2 l).len = len := by
  apply BitVec.eq_of_getLsbD_eq; intro j hj
  simp only [Raw.len, packS, BitVec.getLsbD_extractLsb', BitVec.getLsbD_append, BitVec.getLsbD_setWidth, hj, decide_true, Bool.true_and]
  repeat' split
  all_goals first | omega | (congr 1; omega)

@[simp] theorem major_packS (o : BitVec 11) (w : BitVec 3) (b a : BitVec 5) (maj : BitVec 6) (len : BitVec 2) (x1 x2 : BitVec 32) (l : BitVec 64) : (Raw.mk (packS o w b a maj len) x1 x2 l).major = maj := by
  apply BitVec.eq_of_getLsbD_eq; intro j hj
  simp only [Raw.major, packS, BitVec.getLsbD_extractLsb', BitVec.getLsbD_append, BitVec.getLsbD_setWidth, hj, decide_true, Bool.true_and]
  repeat' split
  all_goals first | omega | (congr 1; omega)

@[simp] theorem fA_packS (o : BitVec 11) (w : BitVec 3) (b a : BitVec 5) (maj : BitVec 6) (len : BitVec 2) (x1 x2 : BitVec 32) (l : BitVec 64) : (Raw.mk (packS o w b a maj len) x1 x2 l).fA = a := by
  apply BitVec.eq_of_getLsbD_eq; intro j hj
  simp only [Raw.fA, packS, BitVec.getLsbD_extractLsb', BitVec.getLsbD_append, BitVec.getLsbD_setWidth, hj, decide_true, Bool.true_and]
  repeat' split
  all_goals first | omega | (congr 1; omega)

@[simp] theorem fB_packS (o : BitVec 11) (w : BitVec 3) (b a : BitVec 5) (maj : BitVec 6) (len : BitVec 2) (x1 x2 : BitVec 32) (l : BitVec 64) : (Raw.mk (packS o w b a maj len) x1 x2 l).fB = b := by
  apply BitVec.eq_of_getLsbD_eq; intro j hj
  simp only [Raw.fB, packS, BitVec.getLsbD_extractLsb', BitVec.getLsbD_append, BitVec.getLsbD_setWidth, hj, decide_true, Bool.true_and]
  repeat' split
  all_goals first | omega | (congr 1; omega)

@[simp] theorem disp11_packS (o : BitVec 11) (w : BitVec 3) (b a : BitVec 5) (maj : BitVec 6) (len : BitVec 2) (x1 x2 : BitVec 32) (l : BitVec 64) : (Raw.mk (packS o w b a maj len) x1 x2 l).disp11 = o := by
  apply BitVec.eq_of_getLsbD_eq; intro j hj
  simp only [Raw.disp11, packS, BitVec.getLsbD_extractLsb', BitVec.getLsbD_append, BitVec.getLsbD_setWidth, hj, decide_true, Bool.true_and]
  repeat' split
  all_goals first | omega | (congr 1; omega)

@[simp] theorem w3_packS (o : BitVec 11) (w : BitVec 3) (b a : BitVec 5) (maj : BitVec 6) (len : BitVec 2) (x1 x2 : BitVec 32) (l : BitVec 64) : (Raw.mk (packS o w b a maj len) x1 x2 l).w3 = w := by
  apply BitVec.eq_of_getLsbD_eq; intro j hj
  simp only [Raw.w3, packS, BitVec.getLsbD_extractLsb', BitVec.getLsbD_append, BitVec.getLsbD_setWidth, hj, decide_true, Bool.true_and]
  repeat' split
  all_goals first | omega | (congr 1; omega)

@[simp] theorem c3_packS (o : BitVec 11) (w : BitVec 3) (b a : BitVec 5) (maj : BitVec 6) (len : BitVec 2) (x1 x2 : BitVec 32) (l : BitVec 64) : (Raw.mk (packS o w b a maj len) x1 x2 l).c3 = w := by
  apply BitVec.eq_of_getLsbD_eq; intro j hj
  simp only [Raw.c3, packS, BitVec.getLsbD_extractLsb', BitVec.getLsbD_append, BitVec.getLsbD_setWidth, hj, decide_true, Bool.true_and]
  repeat' split
  all_goals first | omega | (congr 1; omega)

@[simp] theorem len_packSh (k : BitVec 2) (h : BitVec 6) (b a : BitVec 5) (maj : BitVec 6) (len : BitVec 2) (x1 x2 : BitVec 32) (l : BitVec 64) : (Raw.mk (packSh k h b a maj len) x1 x2 l).len = len := by
  apply BitVec.eq_of_getLsbD_eq; intro j hj
  simp only [Raw.len, packSh, BitVec.getLsbD_extractLsb', BitVec.getLsbD_append, BitVec.getLsbD_setWidth, hj, decide_true, Bool.true_and]
  repeat' split
  all_goals first | omega | (congr 1; omega)

@[simp] theorem major_packSh (k : BitVec 2) (h : BitVec 6) (b a : BitVec 5) (maj : BitVec 6) (len : BitVec 2) (x1 x2 : BitVec 32) (l : BitVec 64) : (Raw.mk (packSh k h b a maj len) x1 x2 l).major = maj := by
  apply BitVec.eq_of_getLsbD_eq; intro j hj
  simp only [Raw.major, packSh, BitVec.getLsbD_extractLsb', BitVec.getLsbD_append, BitVec.getLsbD_setWidth, hj, decide_true, Bool.true_and]
  repeat' split
  all_goals first | omega | (congr 1; omega)

@[simp] theorem fA_packSh (k : BitVec 2) (h : BitVec 6) (b a : BitVec 5) (maj : BitVec 6) (len : BitVec 2) (x1 x2 : BitVec 32) (l : BitVec 64) : (Raw.mk (packSh k h b a maj len) x1 x2 l).fA = a := by
  apply BitVec.eq_of_getLsbD_eq; intro j hj
  simp only [Raw.fA, packSh, BitVec.getLsbD_extractLsb', BitVec.getLsbD_append, BitVec.getLsbD_setWidth, hj, decide_true, Bool.true_and]
  repeat' split
  all_goals first | omega | (congr 1; omega)

@[simp] theorem fB_packSh (k : BitVec 2) (h : BitVec 6) (b a : BitVec 5) (maj : BitVec 6) (len : BitVec 2) (x1 x2 : BitVec 32) (l : BitVec 64) : (Raw.mk (packSh k h b a maj len) x1 x2 l).fB = b := by
  apply BitVec.eq_of_getLsbD_eq; intro j hj
  simp only [Raw.fB, packSh, BitVec.getLsbD_extractLsb', BitVec.getLsbD_append, BitVec.getLsbD_setWidth, hj, decide_true, Bool.true_and]
  repeat' split
  all_goals first | omega | (congr 1; omega)

@[simp] theorem hi6_packSh (k : BitVec 2) (h : BitVec 6) (b a : BitVec 5) (maj : BitVec 6) (len : BitVec 2) (x1 x2 : BitVec 32) (l : BitVec 64) : (Raw.mk (packSh k h b a maj len) x1 x2 l).hi6 = 0 := by
  apply BitVec.eq_of_getLsbD_eq; intro j hj
  simp only [Raw.hi6, packSh, BitVec.getLsbD_extractLsb', BitVec.getLsbD_append, BitVec.getLsbD_setWidth, hj, decide_true, Bool.true_and]
  repeat' split
  all_goals first | omega | (congr 1; omega)

@[simp] theorem shamt_packSh (k : BitVec 2) (h : BitVec 6) (b a : BitVec 5) (maj : BitVec 6) (len : BitVec 2) (x1 x2 : BitVec 32) (l : BitVec 64) : (Raw.mk (packSh k h b a maj len) x1 x2 l).shamt = h := by
  apply BitVec.eq_of_getLsbD_eq; intro j hj
  simp only [Raw.shamt, packSh, BitVec.getLsbD_extractLsb', BitVec.getLsbD_append, BitVec.getLsbD_setWidth, hj, decide_true, Bool.true_and]
  repeat' split
  all_goals first | omega | (congr 1; omega)

@[simp] theorem shKind_packSh (k : BitVec 2) (h : BitVec 6) (b a : BitVec 5) (maj : BitVec 6) (len : BitVec 2) (x1 x2 : BitVec 32) (l : BitVec 64) : (Raw.mk (packSh k h b a maj len) x1 x2 l).shKind = k := by
  apply BitVec.eq_of_getLsbD_eq; intro j hj
  simp only [Raw.shKind, packSh, BitVec.getLsbD_extractLsb', BitVec.getLsbD_append, BitVec.getLsbD_setWidth, hj, decide_true, Bool.true_and]
  repeat' split
  all_goals first | omega | (congr 1; omega)

@[simp] theorem len_packU (i : BitVec 19) (a : BitVec 5) (maj : BitVec 6) (len : BitVec 2) (x1 x2 : BitVec 32) (l : BitVec 64) : (Raw.mk (packU i a maj len) x1 x2 l).len = len := by
  apply BitVec.eq_of_getLsbD_eq; intro j hj
  simp only [Raw.len, packU, BitVec.getLsbD_extractLsb', BitVec.getLsbD_append, BitVec.getLsbD_setWidth, hj, decide_true, Bool.true_and]
  repeat' split
  all_goals first | omega | (congr 1; omega)

@[simp] theorem major_packU (i : BitVec 19) (a : BitVec 5) (maj : BitVec 6) (len : BitVec 2) (x1 x2 : BitVec 32) (l : BitVec 64) : (Raw.mk (packU i a maj len) x1 x2 l).major = maj := by
  apply BitVec.eq_of_getLsbD_eq; intro j hj
  simp only [Raw.major, packU, BitVec.getLsbD_extractLsb', BitVec.getLsbD_append, BitVec.getLsbD_setWidth, hj, decide_true, Bool.true_and]
  repeat' split
  all_goals first | omega | (congr 1; omega)

@[simp] theorem fA_packU (i : BitVec 19) (a : BitVec 5) (maj : BitVec 6) (len : BitVec 2) (x1 x2 : BitVec 32) (l : BitVec 64) : (Raw.mk (packU i a maj len) x1 x2 l).fA = a := by
  apply BitVec.eq_of_getLsbD_eq; intro j hj
  simp only [Raw.fA, packU, BitVec.getLsbD_extractLsb', BitVec.getLsbD_append, BitVec.getLsbD_setWidth, hj, decide_true, Bool.true_and]
  repeat' split
  all_goals first | omega | (congr 1; omega)

@[simp] theorem imm19_packU (i : BitVec 19) (a : BitVec 5) (maj : BitVec 6) (len : BitVec 2) (x1 x2 : BitVec 32) (l : BitVec 64) : (Raw.mk (packU i a maj len) x1 x2 l).imm19 = i := by
  apply BitVec.eq_of_getLsbD_eq; intro j hj
  simp only [Raw.imm19, packU, BitVec.getLsbD_extractLsb', BitVec.getLsbD_append, BitVec.getLsbD_setWidth, hj, decide_true, Bool.true_and]
  repeat' split
  all_goals first | omega | (congr 1; omega)

@[simp] theorem len_packJ (o : BitVec 24) (maj : BitVec 6) (len : BitVec 2) (x1 x2 : BitVec 32) (l : BitVec 64) : (Raw.mk (packJ o maj len) x1 x2 l).len = len := by
  apply BitVec.eq_of_getLsbD_eq; intro j hj
  simp only [Raw.len, packJ, BitVec.getLsbD_extractLsb', BitVec.getLsbD_append, BitVec.getLsbD_setWidth, hj, decide_true, Bool.true_and]
  repeat' split
  all_goals first | omega | (congr 1; omega)

@[simp] theorem major_packJ (o : BitVec 24) (maj : BitVec 6) (len : BitVec 2) (x1 x2 : BitVec 32) (l : BitVec 64) : (Raw.mk (packJ o maj len) x1 x2 l).major = maj := by
  apply BitVec.eq_of_getLsbD_eq; intro j hj
  simp only [Raw.major, packJ, BitVec.getLsbD_extractLsb', BitVec.getLsbD_append, BitVec.getLsbD_setWidth, hj, decide_true, Bool.true_and]
  repeat' split
  all_goals first | omega | (congr 1; omega)

@[simp] theorem off24_packJ (o : BitVec 24) (maj : BitVec 6) (len : BitVec 2) (x1 x2 : BitVec 32) (l : BitVec 64) : (Raw.mk (packJ o maj len) x1 x2 l).off24 = o := by
  apply BitVec.eq_of_getLsbD_eq; intro j hj
  simp only [Raw.off24, packJ, BitVec.getLsbD_extractLsb', BitVec.getLsbD_append, BitVec.getLsbD_setWidth, hj, decide_true, Bool.true_and]
  repeat' split
  all_goals first | omega | (congr 1; omega)

@[simp] theorem len_packL (o : BitVec 18) (r : Bool) (a : BitVec 5) (maj : BitVec 6) (len : BitVec 2) (x1 x2 : BitVec 32) (l : BitVec 64) : (Raw.mk (packL o r a maj len) x1 x2 l).len = len := by
  apply BitVec.eq_of_getLsbD_eq; intro j hj
  simp only [Raw.len, packL, BitVec.getLsbD_extractLsb', BitVec.getLsbD_append, BitVec.getLsbD_setWidth, hj, decide_true, Bool.true_and]
  repeat' split
  all_goals first | omega | (congr 1; omega)

@[simp] theorem major_packL (o : BitVec 18) (r : Bool) (a : BitVec 5) (maj : BitVec 6) (len : BitVec 2) (x1 x2 : BitVec 32) (l : BitVec 64) : (Raw.mk (packL o r a maj len) x1 x2 l).major = maj := by
  apply BitVec.eq_of_getLsbD_eq; intro j hj
  simp only [Raw.major, packL, BitVec.getLsbD_extractLsb', BitVec.getLsbD_append, BitVec.getLsbD_setWidth, hj, decide_true, Bool.true_and]
  repeat' split
  all_goals first | omega | (congr 1; omega)

@[simp] theorem fA_packL (o : BitVec 18) (r : Bool) (a : BitVec 5) (maj : BitVec 6) (len : BitVec 2) (x1 x2 : BitVec 32) (l : BitVec 64) : (Raw.mk (packL o r a maj len) x1 x2 l).fA = a := by
  apply BitVec.eq_of_getLsbD_eq; intro j hj
  simp only [Raw.fA, packL, BitVec.getLsbD_extractLsb', BitVec.getLsbD_append, BitVec.getLsbD_setWidth, hj, decide_true, Bool.true_and]
  repeat' split
  all_goals first | omega | (congr 1; omega)

@[simp] theorem off18_packL (o : BitVec 18) (r : Bool) (a : BitVec 5) (maj : BitVec 6) (len : BitVec 2) (x1 x2 : BitVec 32) (l : BitVec 64) : (Raw.mk (packL o r a maj len) x1 x2 l).off18 = o := by
  apply BitVec.eq_of_getLsbD_eq; intro j hj
  simp only [Raw.off18, packL, BitVec.getLsbD_extractLsb', BitVec.getLsbD_append, BitVec.getLsbD_setWidth, hj, decide_true, Bool.true_and]
  repeat' split
  all_goals first | omega | (congr 1; omega)

@[simp] theorem rot_packL (o : BitVec 18) (r : Bool) (a : BitVec 5) (maj : BitVec 6) (len : BitVec 2) (x1 x2 : BitVec 32) (l : BitVec 64) : (Raw.mk (packL o r a maj len) x1 x2 l).rot = r := by
  simp only [Raw.rot, packL, BitVec.getLsbD_append]
  simp [BitVec.getLsbD_ofBool]

@[simp] theorem len_packV (m : BitVec 2) (t : BitVec 3) (fn : BitVec 4) (c b a : BitVec 5) (maj : BitVec 6) (len : BitVec 2) (x1 x2 : BitVec 32) (l : BitVec 64) : (Raw.mk (packV m t fn c b a maj len) x1 x2 l).len = len := by
  apply BitVec.eq_of_getLsbD_eq; intro j hj
  simp only [Raw.len, packV, BitVec.getLsbD_extractLsb', BitVec.getLsbD_append, BitVec.getLsbD_setWidth, hj, decide_true, Bool.true_and]
  repeat' split
  all_goals first | omega | (congr 1; omega)

@[simp] theorem major_packV (m : BitVec 2) (t : BitVec 3) (fn : BitVec 4) (c b a : BitVec 5) (maj : BitVec 6) (len : BitVec 2) (x1 x2 : BitVec 32) (l : BitVec 64) : (Raw.mk (packV m t fn c b a maj len) x1 x2 l).major = maj := by
  apply BitVec.eq_of_getLsbD_eq; intro j hj
  simp only [Raw.major, packV, BitVec.getLsbD_extractLsb', BitVec.getLsbD_append, BitVec.getLsbD_setWidth, hj, decide_true, Bool.true_and]
  repeat' split
  all_goals first | omega | (congr 1; omega)

@[simp] theorem fA_packV (m : BitVec 2) (t : BitVec 3) (fn : BitVec 4) (c b a : BitVec 5) (maj : BitVec 6) (len : BitVec 2) (x1 x2 : BitVec 32) (l : BitVec 64) : (Raw.mk (packV m t fn c b a maj len) x1 x2 l).fA = a := by
  apply BitVec.eq_of_getLsbD_eq; intro j hj
  simp only [Raw.fA, packV, BitVec.getLsbD_extractLsb', BitVec.getLsbD_append, BitVec.getLsbD_setWidth, hj, decide_true, Bool.true_and]
  repeat' split
  all_goals first | omega | (congr 1; omega)

@[simp] theorem fB_packV (m : BitVec 2) (t : BitVec 3) (fn : BitVec 4) (c b a : BitVec 5) (maj : BitVec 6) (len : BitVec 2) (x1 x2 : BitVec 32) (l : BitVec 64) : (Raw.mk (packV m t fn c b a maj len) x1 x2 l).fB = b := by
  apply BitVec.eq_of_getLsbD_eq; intro j hj
  simp only [Raw.fB, packV, BitVec.getLsbD_extractLsb', BitVec.getLsbD_append, BitVec.getLsbD_setWidth, hj, decide_true, Bool.true_and]
  repeat' split
  all_goals first | omega | (congr 1; omega)

@[simp] theorem fC_packV (m : BitVec 2) (t : BitVec 3) (fn : BitVec 4) (c b a : BitVec 5) (maj : BitVec 6) (len : BitVec 2) (x1 x2 : BitVec 32) (l : BitVec 64) : (Raw.mk (packV m t fn c b a maj len) x1 x2 l).fC = c := by
  apply BitVec.eq_of_getLsbD_eq; intro j hj
  simp only [Raw.fC, packV, BitVec.getLsbD_extractLsb', BitVec.getLsbD_append, BitVec.getLsbD_setWidth, hj, decide_true, Bool.true_and]
  repeat' split
  all_goals first | omega | (congr 1; omega)

@[simp] theorem amoOp_packV (m : BitVec 2) (t : BitVec 3) (fn : BitVec 4) (c b a : BitVec 5) (maj : BitVec 6) (len : BitVec 2) (x1 x2 : BitVec 32) (l : BitVec 64) : (Raw.mk (packV m t fn c b a maj len) x1 x2 l).amoOp = fn := by
  apply BitVec.eq_of_getLsbD_eq; intro j hj
  simp only [Raw.amoOp, packV, BitVec.getLsbD_extractLsb', BitVec.getLsbD_append, BitVec.getLsbD_setWidth, hj, decide_true, Bool.true_and]
  repeat' split
  all_goals first | omega | (congr 1; omega)

@[simp] theorem m2_packV (m : BitVec 2) (t : BitVec 3) (fn : BitVec 4) (c b a : BitVec 5) (maj : BitVec 6) (len : BitVec 2) (x1 x2 : BitVec 32) (l : BitVec 64) : (Raw.mk (packV m t fn c b a maj len) x1 x2 l).m2 = m := by
  apply BitVec.eq_of_getLsbD_eq; intro j hj
  simp only [Raw.m2, packV, BitVec.getLsbD_extractLsb', BitVec.getLsbD_append, BitVec.getLsbD_setWidth, hj, decide_true, Bool.true_and]
  repeat' split
  all_goals first | omega | (congr 1; omega)

@[simp] theorem t3_packV (m : BitVec 2) (t : BitVec 3) (fn : BitVec 4) (c b a : BitVec 5) (maj : BitVec 6) (len : BitVec 2) (x1 x2 : BitVec 32) (l : BitVec 64) : (Raw.mk (packV m t fn c b a maj len) x1 x2 l).t3 = t := by
  apply BitVec.eq_of_getLsbD_eq; intro j hj
  simp only [Raw.t3, packV, BitVec.getLsbD_extractLsb', BitVec.getLsbD_append, BitVec.getLsbD_setWidth, hj, decide_true, Bool.true_and]
  repeat' split
  all_goals first | omega | (congr 1; omega)

@[simp] theorem fn4_packV (m : BitVec 2) (t : BitVec 3) (fn : BitVec 4) (c b a : BitVec 5) (maj : BitVec 6) (len : BitVec 2) (x1 x2 : BitVec 32) (l : BitVec 64) : (Raw.mk (packV m t fn c b a maj len) x1 x2 l).fn4 = fn := by
  apply BitVec.eq_of_getLsbD_eq; intro j hj
  simp only [Raw.fn4, packV, BitVec.getLsbD_extractLsb', BitVec.getLsbD_append, BitVec.getLsbD_setWidth, hj, decide_true, Bool.true_and]
  repeat' split
  all_goals first | omega | (congr 1; omega)

@[simp] theorem len_packA (p : BitVec 3) (w : Bool) (op : BitVec 4) (c b a : BitVec 5) (maj : BitVec 6) (len : BitVec 2) (x1 x2 : BitVec 32) (l : BitVec 64) : (Raw.mk (packA p w op c b a maj len) x1 x2 l).len = len := by
  apply BitVec.eq_of_getLsbD_eq; intro j hj
  simp only [Raw.len, packA, BitVec.getLsbD_extractLsb', BitVec.getLsbD_append, BitVec.getLsbD_setWidth, hj, decide_true, Bool.true_and]
  repeat' split
  all_goals first | omega | (congr 1; omega)

@[simp] theorem major_packA (p : BitVec 3) (w : Bool) (op : BitVec 4) (c b a : BitVec 5) (maj : BitVec 6) (len : BitVec 2) (x1 x2 : BitVec 32) (l : BitVec 64) : (Raw.mk (packA p w op c b a maj len) x1 x2 l).major = maj := by
  apply BitVec.eq_of_getLsbD_eq; intro j hj
  simp only [Raw.major, packA, BitVec.getLsbD_extractLsb', BitVec.getLsbD_append, BitVec.getLsbD_setWidth, hj, decide_true, Bool.true_and]
  repeat' split
  all_goals first | omega | (congr 1; omega)

@[simp] theorem fA_packA (p : BitVec 3) (w : Bool) (op : BitVec 4) (c b a : BitVec 5) (maj : BitVec 6) (len : BitVec 2) (x1 x2 : BitVec 32) (l : BitVec 64) : (Raw.mk (packA p w op c b a maj len) x1 x2 l).fA = a := by
  apply BitVec.eq_of_getLsbD_eq; intro j hj
  simp only [Raw.fA, packA, BitVec.getLsbD_extractLsb', BitVec.getLsbD_append, BitVec.getLsbD_setWidth, hj, decide_true, Bool.true_and]
  repeat' split
  all_goals first | omega | (congr 1; omega)

@[simp] theorem fB_packA (p : BitVec 3) (w : Bool) (op : BitVec 4) (c b a : BitVec 5) (maj : BitVec 6) (len : BitVec 2) (x1 x2 : BitVec 32) (l : BitVec 64) : (Raw.mk (packA p w op c b a maj len) x1 x2 l).fB = b := by
  apply BitVec.eq_of_getLsbD_eq; intro j hj
  simp only [Raw.fB, packA, BitVec.getLsbD_extractLsb', BitVec.getLsbD_append, BitVec.getLsbD_setWidth, hj, decide_true, Bool.true_and]
  repeat' split
  all_goals first | omega | (congr 1; omega)

@[simp] theorem fC_packA (p : BitVec 3) (w : Bool) (op : BitVec 4) (c b a : BitVec 5) (maj : BitVec 6) (len : BitVec 2) (x1 x2 : BitVec 32) (l : BitVec 64) : (Raw.mk (packA p w op c b a maj len) x1 x2 l).fC = c := by
  apply BitVec.eq_of_getLsbD_eq; intro j hj
  simp only [Raw.fC, packA, BitVec.getLsbD_extractLsb', BitVec.getLsbD_append, BitVec.getLsbD_setWidth, hj, decide_true, Bool.true_and]
  repeat' split
  all_goals first | omega | (congr 1; omega)

@[simp] theorem amoP_packA (p : BitVec 3) (w : Bool) (op : BitVec 4) (c b a : BitVec 5) (maj : BitVec 6) (len : BitVec 2) (x1 x2 : BitVec 32) (l : BitVec 64) : (Raw.mk (packA p w op c b a maj len) x1 x2 l).amoP = p := by
  apply BitVec.eq_of_getLsbD_eq; intro j hj
  simp only [Raw.amoP, packA, BitVec.getLsbD_extractLsb', BitVec.getLsbD_append, BitVec.getLsbD_setWidth, hj, decide_true, Bool.true_and]
  repeat' split
  all_goals first | omega | (congr 1; omega)

@[simp] theorem amoOp_packA (p : BitVec 3) (w : Bool) (op : BitVec 4) (c b a : BitVec 5) (maj : BitVec 6) (len : BitVec 2) (x1 x2 : BitVec 32) (l : BitVec 64) : (Raw.mk (packA p w op c b a maj len) x1 x2 l).amoOp = op := by
  apply BitVec.eq_of_getLsbD_eq; intro j hj
  simp only [Raw.amoOp, packA, BitVec.getLsbD_extractLsb', BitVec.getLsbD_append, BitVec.getLsbD_setWidth, hj, decide_true, Bool.true_and]
  repeat' split
  all_goals first | omega | (congr 1; omega)

@[simp] theorem fn4_packA (p : BitVec 3) (w : Bool) (op : BitVec 4) (c b a : BitVec 5) (maj : BitVec 6) (len : BitVec 2) (x1 x2 : BitVec 32) (l : BitVec 64) : (Raw.mk (packA p w op c b a maj len) x1 x2 l).fn4 = op := by
  apply BitVec.eq_of_getLsbD_eq; intro j hj
  simp only [Raw.fn4, packA, BitVec.getLsbD_extractLsb', BitVec.getLsbD_append, BitVec.getLsbD_setWidth, hj, decide_true, Bool.true_and]
  repeat' split
  all_goals first | omega | (congr 1; omega)

@[simp] theorem top_packA (p : BitVec 3) (w : Bool) (op : BitVec 4) (c b a : BitVec 5) (maj : BitVec 6) (len : BitVec 2) (x1 x2 : BitVec 32) (l : BitVec 64) : (Raw.mk (packA p w op c b a maj len) x1 x2 l).top = false := by
  simp only [Raw.top, packA, BitVec.getLsbD_append]
  simp [BitVec.getLsbD_ofBool]

@[simp] theorem amoW_packA (p : BitVec 3) (w : Bool) (op : BitVec 4) (c b a : BitVec 5) (maj : BitVec 6) (len : BitVec 2) (x1 x2 : BitVec 32) (l : BitVec 64) : (Raw.mk (packA p w op c b a maj len) x1 x2 l).amoW = w := by
  simp only [Raw.amoW, packA, BitVec.getLsbD_append]
  simp [BitVec.getLsbD_ofBool]

@[simp] theorem len_packB (x : BitVec 6) (fn : BitVec 3) (c b a : BitVec 5) (maj : BitVec 6) (len : BitVec 2) (x1 x2 : BitVec 32) (l : BitVec 64) : (Raw.mk (packB x fn c b a maj len) x1 x2 l).len = len := by
  apply BitVec.eq_of_getLsbD_eq; intro j hj
  simp only [Raw.len, packB, BitVec.getLsbD_extractLsb', BitVec.getLsbD_append, BitVec.getLsbD_setWidth, hj, decide_true, Bool.true_and]
  repeat' split
  all_goals first | omega | (congr 1; omega)

@[simp] theorem major_packB (x : BitVec 6) (fn : BitVec 3) (c b a : BitVec 5) (maj : BitVec 6) (len : BitVec 2) (x1 x2 : BitVec 32) (l : BitVec 64) : (Raw.mk (packB x fn c b a maj len) x1 x2 l).major = maj := by
  apply BitVec.eq_of_getLsbD_eq; intro j hj
  simp only [Raw.major, packB, BitVec.getLsbD_extractLsb', BitVec.getLsbD_append, BitVec.getLsbD_setWidth, hj, decide_true, Bool.true_and]
  repeat' split
  all_goals first | omega | (congr 1; omega)

@[simp] theorem fA_packB (x : BitVec 6) (fn : BitVec 3) (c b a : BitVec 5) (maj : BitVec 6) (len : BitVec 2) (x1 x2 : BitVec 32) (l : BitVec 64) : (Raw.mk (packB x fn c b a maj len) x1 x2 l).fA = a := by
  apply BitVec.eq_of_getLsbD_eq; intro j hj
  simp only [Raw.fA, packB, BitVec.getLsbD_extractLsb', BitVec.getLsbD_append, BitVec.getLsbD_setWidth, hj, decide_true, Bool.true_and]
  repeat' split
  all_goals first | omega | (congr 1; omega)

@[simp] theorem fB_packB (x : BitVec 6) (fn : BitVec 3) (c b a : BitVec 5) (maj : BitVec 6) (len : BitVec 2) (x1 x2 : BitVec 32) (l : BitVec 64) : (Raw.mk (packB x fn c b a maj len) x1 x2 l).fB = b := by
  apply BitVec.eq_of_getLsbD_eq; intro j hj
  simp only [Raw.fB, packB, BitVec.getLsbD_extractLsb', BitVec.getLsbD_append, BitVec.getLsbD_setWidth, hj, decide_true, Bool.true_and]
  repeat' split
  all_goals first | omega | (congr 1; omega)

@[simp] theorem fC_packB (x : BitVec 6) (fn : BitVec 3) (c b a : BitVec 5) (maj : BitVec 6) (len : BitVec 2) (x1 x2 : BitVec 32) (l : BitVec 64) : (Raw.mk (packB x fn c b a maj len) x1 x2 l).fC = c := by
  apply BitVec.eq_of_getLsbD_eq; intro j hj
  simp only [Raw.fC, packB, BitVec.getLsbD_extractLsb', BitVec.getLsbD_append, BitVec.getLsbD_setWidth, hj, decide_true, Bool.true_and]
  repeat' split
  all_goals first | omega | (congr 1; omega)

@[simp] theorem hi6_packB (x : BitVec 6) (fn : BitVec 3) (c b a : BitVec 5) (maj : BitVec 6) (len : BitVec 2) (x1 x2 : BitVec 32) (l : BitVec 64) : (Raw.mk (packB x fn c b a maj len) x1 x2 l).hi6 = x := by
  apply BitVec.eq_of_getLsbD_eq; intro j hj
  simp only [Raw.hi6, packB, BitVec.getLsbD_extractLsb', BitVec.getLsbD_append, BitVec.getLsbD_setWidth, hj, decide_true, Bool.true_and]
  repeat' split
  all_goals first | omega | (congr 1; omega)

@[simp] theorem barFn_packB (x : BitVec 6) (fn : BitVec 3) (c b a : BitVec 5) (maj : BitVec 6) (len : BitVec 2) (x1 x2 : BitVec 32) (l : BitVec 64) : (Raw.mk (packB x fn c b a maj len) x1 x2 l).barFn = fn := by
  apply BitVec.eq_of_getLsbD_eq; intro j hj
  simp only [Raw.barFn, packB, BitVec.getLsbD_extractLsb', BitVec.getLsbD_append, BitVec.getLsbD_setWidth, hj, decide_true, Bool.true_and]
  repeat' split
  all_goals first | omega | (congr 1; omega)

@[simp] theorem len_packSr (fn : BitVec 9) (i : BitVec 10) (a : BitVec 5) (maj : BitVec 6) (len : BitVec 2) (x1 x2 : BitVec 32) (l : BitVec 64) : (Raw.mk (packSr fn i a maj len) x1 x2 l).len = len := by
  apply BitVec.eq_of_getLsbD_eq; intro j hj
  simp only [Raw.len, packSr, BitVec.getLsbD_extractLsb', BitVec.getLsbD_append, BitVec.getLsbD_setWidth, hj, decide_true, Bool.true_and]
  repeat' split
  all_goals first | omega | (congr 1; omega)

@[simp] theorem major_packSr (fn : BitVec 9) (i : BitVec 10) (a : BitVec 5) (maj : BitVec 6) (len : BitVec 2) (x1 x2 : BitVec 32) (l : BitVec 64) : (Raw.mk (packSr fn i a maj len) x1 x2 l).major = maj := by
  apply BitVec.eq_of_getLsbD_eq; intro j hj
  simp only [Raw.major, packSr, BitVec.getLsbD_extractLsb', BitVec.getLsbD_append, BitVec.getLsbD_setWidth, hj, decide_true, Bool.true_and]
  repeat' split
  all_goals first | omega | (congr 1; omega)

@[simp] theorem fA_packSr (fn : BitVec 9) (i : BitVec 10) (a : BitVec 5) (maj : BitVec 6) (len : BitVec 2) (x1 x2 : BitVec 32) (l : BitVec 64) : (Raw.mk (packSr fn i a maj len) x1 x2 l).fA = a := by
  apply BitVec.eq_of_getLsbD_eq; intro j hj
  simp only [Raw.fA, packSr, BitVec.getLsbD_extractLsb', BitVec.getLsbD_append, BitVec.getLsbD_setWidth, hj, decide_true, Bool.true_and]
  repeat' split
  all_goals first | omega | (congr 1; omega)

@[simp] theorem fD_packSr (fn : BitVec 9) (i : BitVec 10) (a : BitVec 5) (maj : BitVec 6) (len : BitVec 2) (x1 x2 : BitVec 32) (l : BitVec 64) : (Raw.mk (packSr fn i a maj len) x1 x2 l).fD = fn := by
  apply BitVec.eq_of_getLsbD_eq; intro j hj
  simp only [Raw.fD, packSr, BitVec.getLsbD_extractLsb', BitVec.getLsbD_append, BitVec.getLsbD_setWidth, hj, decide_true, Bool.true_and]
  repeat' split
  all_goals first | omega | (congr 1; omega)

@[simp] theorem srIdx_packSr (fn : BitVec 9) (i : BitVec 10) (a : BitVec 5) (maj : BitVec 6) (len : BitVec 2) (x1 x2 : BitVec 32) (l : BitVec 64) : (Raw.mk (packSr fn i a maj len) x1 x2 l).srIdx = i := by
  apply BitVec.eq_of_getLsbD_eq; intro j hj
  simp only [Raw.srIdx, packSr, BitVec.getLsbD_extractLsb', BitVec.getLsbD_append, BitVec.getLsbD_setWidth, hj, decide_true, Bool.true_and]
  repeat' split
  all_goals first | omega | (congr 1; omega)

@[simp] theorem eE_packE (g : BitVec 15) (m : BitVec 3) (t : BitVec 4) (f e : BitVec 5) (x0 x2 : BitVec 32) (l : BitVec 64) : (Raw.mk x0 (packE g m t f e) x2 l).eE = e := by
  apply BitVec.eq_of_getLsbD_eq; intro j hj
  simp only [Raw.eE, packE, BitVec.getLsbD_extractLsb', BitVec.getLsbD_append, BitVec.getLsbD_setWidth, hj, decide_true, Bool.true_and]
  repeat' split
  all_goals first | omega | (congr 1; omega)

@[simp] theorem eF_packE (g : BitVec 15) (m : BitVec 3) (t : BitVec 4) (f e : BitVec 5) (x0 x2 : BitVec 32) (l : BitVec 64) : (Raw.mk x0 (packE g m t f e) x2 l).eF = f := by
  apply BitVec.eq_of_getLsbD_eq; intro j hj
  simp only [Raw.eF, packE, BitVec.getLsbD_extractLsb', BitVec.getLsbD_append, BitVec.getLsbD_setWidth, hj, decide_true, Bool.true_and]
  repeat' split
  all_goals first | omega | (congr 1; omega)

@[simp] theorem eT_packE (g : BitVec 15) (m : BitVec 3) (t : BitVec 4) (f e : BitVec 5) (x0 x2 : BitVec 32) (l : BitVec 64) : (Raw.mk x0 (packE g m t f e) x2 l).eT = t := by
  apply BitVec.eq_of_getLsbD_eq; intro j hj
  simp only [Raw.eT, packE, BitVec.getLsbD_extractLsb', BitVec.getLsbD_append, BitVec.getLsbD_setWidth, hj, decide_true, Bool.true_and]
  repeat' split
  all_goals first | omega | (congr 1; omega)

@[simp] theorem eM_packE (g : BitVec 15) (m : BitVec 3) (t : BitVec 4) (f e : BitVec 5) (x0 x2 : BitVec 32) (l : BitVec 64) : (Raw.mk x0 (packE g m t f e) x2 l).eM = m := by
  apply BitVec.eq_of_getLsbD_eq; intro j hj
  simp only [Raw.eM, packE, BitVec.getLsbD_extractLsb', BitVec.getLsbD_append, BitVec.getLsbD_setWidth, hj, decide_true, Bool.true_and]
  repeat' split
  all_goals first | omega | (congr 1; omega)

@[simp] theorem eG_packE (g : BitVec 15) (m : BitVec 3) (t : BitVec 4) (f e : BitVec 5) (x0 x2 : BitVec 32) (l : BitVec 64) : (Raw.mk x0 (packE g m t f e) x2 l).eG = g := by
  apply BitVec.eq_of_getLsbD_eq; intro j hj
  simp only [Raw.eG, packE, BitVec.getLsbD_extractLsb', BitVec.getLsbD_append, BitVec.getLsbD_setWidth, hj, decide_true, Bool.true_and]
  repeat' split
  all_goals first | omega | (congr 1; omega)

@[simp] theorem gRnd_code (r m : BitVec 3) (t : BitVec 4) (f e : BitVec 5) (x0 x2 : BitVec 32) (l : BitVec 64) : (Raw.mk x0 (packE (r.setWidth 15) m t f e) x2 l).gRnd = r := by
  apply BitVec.eq_of_getLsbD_eq; intro j hj
  simp only [Raw.gRnd, packE, BitVec.getLsbD_extractLsb', BitVec.getLsbD_append, BitVec.getLsbD_setWidth, hj, decide_true, Bool.true_and]
  repeat' split
  all_goals first | omega | (congr 1; omega) | (rw [decide_eq_true (by omega), Bool.true_and]; congr 1; omega)

@[simp] theorem gRest_code (r m : BitVec 3) (t : BitVec 4) (f e : BitVec 5) (x0 x2 : BitVec 32) (l : BitVec 64) : (Raw.mk x0 (packE (r.setWidth 15) m t f e) x2 l).gRest = 0 := by
  apply BitVec.eq_of_getLsbD_eq; intro j hj
  simp only [Raw.gRest, packE, BitVec.getLsbD_extractLsb', BitVec.getLsbD_append, BitVec.getLsbD_setWidth, hj, decide_true, Bool.true_and]
  repeat' split
  all_goals first | omega | (simp; done) | (simp; intros; apply BitVec.getLsbD_of_ge; omega) | (simp; omega)

@[simp] theorem gRnd_cvt (p r m : BitVec 3) (t : BitVec 4) (f e : BitVec 5) (x0 x2 : BitVec 32) (l : BitVec 64) : (Raw.mk x0 (packE (packCvt p r) m t f e) x2 l).gRnd = r := by
  apply BitVec.eq_of_getLsbD_eq; intro j hj
  simp only [Raw.gRnd, packE, packCvt, BitVec.getLsbD_extractLsb', BitVec.getLsbD_append, BitVec.getLsbD_setWidth, hj, decide_true, Bool.true_and]
  repeat' split
  all_goals first | omega | (congr 1; omega) | (rw [decide_eq_true (by omega), Bool.true_and]; congr 1; omega)

@[simp] theorem gPart_cvt (p r m : BitVec 3) (t : BitVec 4) (f e : BitVec 5) (x0 x2 : BitVec 32) (l : BitVec 64) : (Raw.mk x0 (packE (packCvt p r) m t f e) x2 l).gPart = p := by
  apply BitVec.eq_of_getLsbD_eq; intro j hj
  simp only [Raw.gPart, packE, packCvt, BitVec.getLsbD_extractLsb', BitVec.getLsbD_append, BitVec.getLsbD_setWidth, hj, decide_true, Bool.true_and]
  repeat' split
  all_goals first | omega | (congr 1; omega) | (rw [decide_eq_true (by omega), Bool.true_and]; congr 1; omega)

@[simp] theorem gHi_cvt (p r m : BitVec 3) (t : BitVec 4) (f e : BitVec 5) (x0 x2 : BitVec 32) (l : BitVec 64) : (Raw.mk x0 (packE (packCvt p r) m t f e) x2 l).gHi = 0 := by
  apply BitVec.eq_of_getLsbD_eq; intro j hj
  simp only [Raw.gHi, packE, packCvt, BitVec.getLsbD_extractLsb', BitVec.getLsbD_append, BitVec.getLsbD_setWidth, hj, decide_true, Bool.true_and]
  repeat' split
  all_goals first | omega | (simp; done) | (simp; intros; apply BitVec.getLsbD_of_ge; omega) | (simp; omega)

@[simp] theorem gCls_cls (c : BitVec 2) (m : BitVec 3) (t : BitVec 4) (f e : BitVec 5) (x0 x2 : BitVec 32) (l : BitVec 64) : (Raw.mk x0 (packE (packCls c) m t f e) x2 l).gCls = c := by
  apply BitVec.eq_of_getLsbD_eq; intro j hj
  simp only [Raw.gCls, packE, packCls, BitVec.getLsbD_extractLsb', BitVec.getLsbD_append, BitVec.getLsbD_setWidth, hj, decide_true, Bool.true_and]
  repeat' split
  all_goals first | omega | (congr 1; omega) | (rw [decide_eq_true (by omega), Bool.true_and]; congr 1; omega)

@[simp] theorem gAbove_cls (c : BitVec 2) (m : BitVec 3) (t : BitVec 4) (f e : BitVec 5) (x0 x2 : BitVec 32) (l : BitVec 64) : (Raw.mk x0 (packE (packCls c) m t f e) x2 l).gAbove = 0 := by
  apply BitVec.eq_of_getLsbD_eq; intro j hj
  simp only [Raw.gAbove, packE, packCls, BitVec.getLsbD_extractLsb', BitVec.getLsbD_append, BitVec.getLsbD_setWidth, hj, decide_true, Bool.true_and]
  repeat' split
  all_goals first | omega | (simp; done) | (simp; intros; apply BitVec.getLsbD_of_ge; omega) | (simp; omega)

@[simp] theorem g0_lend (rc c : Bool) (m : BitVec 3) (t : BitVec 4) (f e : BitVec 5) (x0 x2 : BitVec 32) (l : BitVec 64) : (Raw.mk x0 (packE (packLend rc c) m t f e) x2 l).g0 = c := by
  simp only [Raw.g0, packE, packLend, BitVec.getLsbD_append]
  simp [BitVec.getLsbD_ofBool]

@[simp] theorem g1_lend (rc c : Bool) (m : BitVec 3) (t : BitVec 4) (f e : BitVec 5) (x0 x2 : BitVec 32) (l : BitVec 64) : (Raw.mk x0 (packE (packLend rc c) m t f e) x2 l).g1 = rc := by
  simp only [Raw.g1, packE, packLend, BitVec.getLsbD_append]
  simp [BitVec.getLsbD_ofBool]

@[simp] theorem gAbove_lend (rc c : Bool) (m : BitVec 3) (t : BitVec 4) (f e : BitVec 5) (x0 x2 : BitVec 32) (l : BitVec 64) : (Raw.mk x0 (packE (packLend rc c) m t f e) x2 l).gAbove = 0 := by
  cases rc <;> cases c <;>
  (apply BitVec.eq_of_getLsbD_eq; intro j hj
   simp only [Raw.gAbove, packE, packLend, BitVec.getLsbD_extractLsb', BitVec.getLsbD_append, hj, decide_true, Bool.true_and]
   repeat' split
   all_goals first | omega | (simp; done) | (simp; intros; apply BitVec.getLsbD_of_ge; omega) | (simp; omega))

@[simp] theorem g0_bit (b : Bool) (m : BitVec 3) (t : BitVec 4) (f e : BitVec 5) (x0 x2 : BitVec 32) (l : BitVec 64) : (Raw.mk x0 (packE (bit15 b) m t f e) x2 l).g0 = b := by
  cases b <;> (simp only [Raw.g0, packE, bit15, BitVec.getLsbD_append]; simp)

@[simp] theorem gTop_bit (b : Bool) (m : BitVec 3) (t : BitVec 4) (f e : BitVec 5) (x0 x2 : BitVec 32) (l : BitVec 64) : (Raw.mk x0 (packE (bit15 b) m t f e) x2 l).gTop = 0 := by
  cases b <;>
  (apply BitVec.eq_of_getLsbD_eq; intro j hj
   simp only [Raw.gTop, packE, bit15, BitVec.getLsbD_extractLsb', BitVec.getLsbD_append, hj, decide_true, Bool.true_and]
   repeat' split
   all_goals first | omega | (simp; done) | (simp; intros; apply BitVec.getLsbD_of_ge; omega) | (simp; omega))

@[simp] theorem gRest_zero (m : BitVec 3) (t : BitVec 4) (f e : BitVec 5) (x0 x2 : BitVec 32) (l : BitVec 64) : (Raw.mk x0 (packE 0 m t f e) x2 l).gRest = 0 := by
  apply BitVec.eq_of_getLsbD_eq; intro j hj
  simp only [Raw.gRest, packE, BitVec.getLsbD_extractLsb', BitVec.getLsbD_append, BitVec.getLsbD_setWidth, hj, decide_true, Bool.true_and]
  repeat' split
  all_goals first | omega | (simp; done) | (simp; intros; apply BitVec.getLsbD_of_ge; omega) | (simp; omega)

@[simp] theorem bfPos_bf (w : BitVec 7) (p : BitVec 6) (x0 x1 : BitVec 32) (l : BitVec 64) : (Raw.mk x0 x1 (packBf w p) l).bfPos = p := by
  apply BitVec.eq_of_getLsbD_eq; intro j hj
  simp only [Raw.bfPos, packBf, BitVec.getLsbD_extractLsb', BitVec.getLsbD_append, BitVec.getLsbD_setWidth, hj, decide_true, Bool.true_and]
  repeat' split
  all_goals first | omega | (congr 1; omega) | (rw [decide_eq_true (by omega), Bool.true_and]; congr 1; omega)

@[simp] theorem bfWidth_bf (w : BitVec 7) (p : BitVec 6) (x0 x1 : BitVec 32) (l : BitVec 64) : (Raw.mk x0 x1 (packBf w p) l).bfWidth = w := by
  apply BitVec.eq_of_getLsbD_eq; intro j hj
  simp only [Raw.bfWidth, packBf, BitVec.getLsbD_extractLsb', BitVec.getLsbD_append, BitVec.getLsbD_setWidth, hj, decide_true, Bool.true_and]
  repeat' split
  all_goals first | omega | (congr 1; omega) | (rw [decide_eq_true (by omega), Bool.true_and]; congr 1; omega)

@[simp] theorem bfRest_bf (w : BitVec 7) (p : BitVec 6) (x0 x1 : BitVec 32) (l : BitVec 64) : (Raw.mk x0 x1 (packBf w p) l).bfRest = 0 := by
  apply BitVec.eq_of_getLsbD_eq; intro j hj
  simp only [Raw.bfRest, packBf, BitVec.getLsbD_extractLsb', BitVec.getLsbD_append, BitVec.getLsbD_setWidth, hj, decide_true, Bool.true_and]
  repeat' split
  all_goals first | omega | (simp; done) | (simp; intros; apply BitVec.getLsbD_of_ge; omega) | (simp; omega)

@[simp] theorem vmask_pod (v : BitVec 2) (x : BitVec 8) (x0 x1 : BitVec 32) (l : BitVec 64) : (Raw.mk x0 x1 (packPod v x) l).vmask = v := by
  apply BitVec.eq_of_getLsbD_eq; intro j hj
  simp only [Raw.vmask, packPod, BitVec.getLsbD_extractLsb', BitVec.getLsbD_append, BitVec.getLsbD_setWidth, hj, decide_true, Bool.true_and]
  repeat' split
  all_goals first | omega | (congr 1; omega) | (rw [decide_eq_true (by omega), Bool.true_and]; congr 1; omega)

@[simp] theorem xmask_pod (v : BitVec 2) (x : BitVec 8) (x0 x1 : BitVec 32) (l : BitVec 64) : (Raw.mk x0 x1 (packPod v x) l).xmask = x := by
  apply BitVec.eq_of_getLsbD_eq; intro j hj
  simp only [Raw.xmask, packPod, BitVec.getLsbD_extractLsb', BitVec.getLsbD_append, BitVec.getLsbD_setWidth, hj, decide_true, Bool.true_and]
  repeat' split
  all_goals first | omega | (congr 1; omega) | (rw [decide_eq_true (by omega), Bool.true_and]; congr 1; omega)

@[simp] theorem podRest_pod (v : BitVec 2) (x : BitVec 8) (x0 x1 : BitVec 32) (l : BitVec 64) : (Raw.mk x0 x1 (packPod v x) l).podRest = 0 := by
  apply BitVec.eq_of_getLsbD_eq; intro j hj
  simp only [Raw.podRest, packPod, BitVec.getLsbD_extractLsb', BitVec.getLsbD_append, BitVec.getLsbD_setWidth, hj, decide_true, Bool.true_and]
  repeat' split
  all_goals first | omega | (simp; done) | (simp; intros; apply BitVec.getLsbD_of_ge; omega) | (simp; omega)

@[simp] theorem krIdx_kr (x : BitVec 4) (i : BitVec 10) (x0 x1 : BitVec 32) (l : BitVec 64) : (Raw.mk x0 x1 (packKr x i) l).krIdx = i := by
  apply BitVec.eq_of_getLsbD_eq; intro j hj
  simp only [Raw.krIdx, packKr, BitVec.getLsbD_extractLsb', BitVec.getLsbD_append, BitVec.getLsbD_setWidth, hj, decide_true, Bool.true_and]
  repeat' split
  all_goals first | omega | (congr 1; omega) | (rw [decide_eq_true (by omega), Bool.true_and]; congr 1; omega)

@[simp] theorem krCtx_kr (x : BitVec 4) (i : BitVec 10) (x0 x1 : BitVec 32) (l : BitVec 64) : (Raw.mk x0 x1 (packKr x i) l).krCtx = x := by
  apply BitVec.eq_of_getLsbD_eq; intro j hj
  simp only [Raw.krCtx, packKr, BitVec.getLsbD_extractLsb', BitVec.getLsbD_append, BitVec.getLsbD_setWidth, hj, decide_true, Bool.true_and]
  repeat' split
  all_goals first | omega | (congr 1; omega) | (rw [decide_eq_true (by omega), Bool.true_and]; congr 1; omega)

@[simp] theorem krRest_kr (x : BitVec 4) (i : BitVec 10) (x0 x1 : BitVec 32) (l : BitVec 64) : (Raw.mk x0 x1 (packKr x i) l).krRest = 0 := by
  apply BitVec.eq_of_getLsbD_eq; intro j hj
  simp only [Raw.krRest, packKr, BitVec.getLsbD_extractLsb', BitVec.getLsbD_append, BitVec.getLsbD_setWidth, hj, decide_true, Bool.true_and]
  repeat' split
  all_goals first | omega | (simp; done) | (simp; intros; apply BitVec.getLsbD_of_ge; omega) | (simp; omega)

@[simp] theorem cnt11_w (c : BitVec 11) (x0 x1 : BitVec 32) (l : BitVec 64) : (Raw.mk x0 x1 (c.setWidth 32) l).cnt11 = c := by
  apply BitVec.eq_of_getLsbD_eq; intro j hj
  simp only [Raw.cnt11, BitVec.getLsbD_extractLsb', BitVec.getLsbD_append, BitVec.getLsbD_setWidth, hj, decide_true, Bool.true_and]
  repeat' split
  all_goals first | omega | (congr 1; omega) | (rw [decide_eq_true (by omega), Bool.true_and]; congr 1; omega)

@[simp] theorem cntRest_w (c : BitVec 11) (x0 x1 : BitVec 32) (l : BitVec 64) : (Raw.mk x0 x1 (c.setWidth 32) l).cntRest = 0 := by
  apply BitVec.eq_of_getLsbD_eq; intro j hj
  simp only [Raw.cntRest, BitVec.getLsbD_extractLsb', BitVec.getLsbD_append, BitVec.getLsbD_setWidth, hj, decide_true, Bool.true_and]
  repeat' split
  all_goals first | omega | (simp; done) | (simp; intros; apply BitVec.getLsbD_of_ge; omega) | (simp; omega)

@[simp] theorem off7_w (c : BitVec 7) (x0 x1 : BitVec 32) (l : BitVec 64) : (Raw.mk x0 x1 (c.setWidth 32) l).off7 = c := by
  apply BitVec.eq_of_getLsbD_eq; intro j hj
  simp only [Raw.off7, BitVec.getLsbD_extractLsb', BitVec.getLsbD_append, BitVec.getLsbD_setWidth, hj, decide_true, Bool.true_and]
  repeat' split
  all_goals first | omega | (congr 1; omega) | (rw [decide_eq_true (by omega), Bool.true_and]; congr 1; omega)

@[simp] theorem offRest_w (c : BitVec 7) (x0 x1 : BitVec 32) (l : BitVec 64) : (Raw.mk x0 x1 (c.setWidth 32) l).offRest = 0 := by
  apply BitVec.eq_of_getLsbD_eq; intro j hj
  simp only [Raw.offRest, BitVec.getLsbD_extractLsb', BitVec.getLsbD_append, BitVec.getLsbD_setWidth, hj, decide_true, Bool.true_and]
  repeat' split
  all_goals first | omega | (simp; done) | (simp; intros; apply BitVec.getLsbD_of_ge; omega) | (simp; omega)

@[simp] theorem a3_packR_w (q : BitVec 3) (c b : BitVec 5) (fn : BitVec 9) (maj : BitVec 6) (len : BitVec 2) (x1 x2 : BitVec 32) (l : BitVec 64) : (Raw.mk (packR fn c b (q.setWidth 5) maj len) x1 x2 l).a3 = q := by
  apply BitVec.eq_of_getLsbD_eq; intro j hj
  simp only [Raw.a3, packR, BitVec.getLsbD_extractLsb', BitVec.getLsbD_append, BitVec.getLsbD_setWidth, hj, decide_true, Bool.true_and]
  repeat' split
  all_goals first | omega | (congr 1; omega) | (rw [decide_eq_true (by omega), Bool.true_and]; congr 1; omega)

@[simp] theorem a3ok_packR_w (q : BitVec 3) (c b : BitVec 5) (fn : BitVec 9) (maj : BitVec 6) (len : BitVec 2) (x1 x2 : BitVec 32) (l : BitVec 64) : (Raw.mk (packR fn c b (q.setWidth 5) maj len) x1 x2 l).a3ok = true := by
  simp only [Raw.a3ok, packR, beq_iff_eq]
  apply BitVec.eq_of_getLsbD_eq; intro j hj
  simp only [BitVec.getLsbD_zero, BitVec.getLsbD_extractLsb', BitVec.getLsbD_append, BitVec.getLsbD_setWidth, hj, decide_true, Bool.true_and]
  repeat' split
  all_goals first | omega | (simp; done) | (simp; intros; apply BitVec.getLsbD_of_ge; omega) | (simp; omega)

@[simp] theorem a3_packV_w (q : BitVec 3) (c b : BitVec 5) (m : BitVec 2) (t : BitVec 3) (fn : BitVec 4) (maj : BitVec 6) (len : BitVec 2) (x1 x2 : BitVec 32) (l : BitVec 64) : (Raw.mk (packV m t fn c b (q.setWidth 5) maj len) x1 x2 l).a3 = q := by
  apply BitVec.eq_of_getLsbD_eq; intro j hj
  simp only [Raw.a3, packV, BitVec.getLsbD_extractLsb', BitVec.getLsbD_append, BitVec.getLsbD_setWidth, hj, decide_true, Bool.true_and]
  repeat' split
  all_goals first | omega | (congr 1; omega) | (rw [decide_eq_true (by omega), Bool.true_and]; congr 1; omega)

@[simp] theorem a3ok_packV_w (q : BitVec 3) (c b : BitVec 5) (m : BitVec 2) (t : BitVec 3) (fn : BitVec 4) (maj : BitVec 6) (len : BitVec 2) (x1 x2 : BitVec 32) (l : BitVec 64) : (Raw.mk (packV m t fn c b (q.setWidth 5) maj len) x1 x2 l).a3ok = true := by
  simp only [Raw.a3ok, packV, beq_iff_eq]
  apply BitVec.eq_of_getLsbD_eq; intro j hj
  simp only [BitVec.getLsbD_zero, BitVec.getLsbD_extractLsb', BitVec.getLsbD_append, BitVec.getLsbD_setWidth, hj, decide_true, Bool.true_and]
  repeat' split
  all_goals first | omega | (simp; done) | (simp; intros; apply BitVec.getLsbD_of_ge; omega) | (simp; omega)

@[simp] theorem b3_packR_w (q : BitVec 3) (c a : BitVec 5) (fn : BitVec 9) (maj : BitVec 6) (len : BitVec 2) (x1 x2 : BitVec 32) (l : BitVec 64) : (Raw.mk (packR fn c (q.setWidth 5) a maj len) x1 x2 l).b3 = q := by
  apply BitVec.eq_of_getLsbD_eq; intro j hj
  simp only [Raw.b3, packR, BitVec.getLsbD_extractLsb', BitVec.getLsbD_append, BitVec.getLsbD_setWidth, hj, decide_true, Bool.true_and]
  repeat' split
  all_goals first | omega | (congr 1; omega) | (rw [decide_eq_true (by omega), Bool.true_and]; congr 1; omega)

@[simp] theorem b3ok_packR_w (q : BitVec 3) (c a : BitVec 5) (fn : BitVec 9) (maj : BitVec 6) (len : BitVec 2) (x1 x2 : BitVec 32) (l : BitVec 64) : (Raw.mk (packR fn c (q.setWidth 5) a maj len) x1 x2 l).b3ok = true := by
  simp only [Raw.b3ok, packR, beq_iff_eq]
  apply BitVec.eq_of_getLsbD_eq; intro j hj
  simp only [BitVec.getLsbD_zero, BitVec.getLsbD_extractLsb', BitVec.getLsbD_append, BitVec.getLsbD_setWidth, hj, decide_true, Bool.true_and]
  repeat' split
  all_goals first | omega | (simp; done) | (simp; intros; apply BitVec.getLsbD_of_ge; omega) | (simp; omega)

@[simp] theorem c3_packR_w (q : BitVec 3) (b a : BitVec 5) (fn : BitVec 9) (maj : BitVec 6) (len : BitVec 2) (x1 x2 : BitVec 32) (l : BitVec 64) : (Raw.mk (packR fn (q.setWidth 5) b a maj len) x1 x2 l).c3 = q := by
  apply BitVec.eq_of_getLsbD_eq; intro j hj
  simp only [Raw.c3, packR, BitVec.getLsbD_extractLsb', BitVec.getLsbD_append, BitVec.getLsbD_setWidth, hj, decide_true, Bool.true_and]
  repeat' split
  all_goals first | omega | (congr 1; omega) | (rw [decide_eq_true (by omega), Bool.true_and]; congr 1; omega)

@[simp] theorem c3ok_packR_w (q : BitVec 3) (b a : BitVec 5) (fn : BitVec 9) (maj : BitVec 6) (len : BitVec 2) (x1 x2 : BitVec 32) (l : BitVec 64) : (Raw.mk (packR fn (q.setWidth 5) b a maj len) x1 x2 l).c3ok = true := by
  simp only [Raw.c3ok, packR, beq_iff_eq]
  apply BitVec.eq_of_getLsbD_eq; intro j hj
  simp only [BitVec.getLsbD_zero, BitVec.getLsbD_extractLsb', BitVec.getLsbD_append, BitVec.getLsbD_setWidth, hj, decide_true, Bool.true_and]
  repeat' split
  all_goals first | omega | (simp; done) | (simp; intros; apply BitVec.getLsbD_of_ge; omega) | (simp; omega)

@[simp] theorem c3_packV_w (q : BitVec 3) (b a : BitVec 5) (m : BitVec 2) (t : BitVec 3) (fn : BitVec 4) (maj : BitVec 6) (len : BitVec 2) (x1 x2 : BitVec 32) (l : BitVec 64) : (Raw.mk (packV m t fn (q.setWidth 5) b a maj len) x1 x2 l).c3 = q := by
  apply BitVec.eq_of_getLsbD_eq; intro j hj
  simp only [Raw.c3, packV, BitVec.getLsbD_extractLsb', BitVec.getLsbD_append, BitVec.getLsbD_setWidth, hj, decide_true, Bool.true_and]
  repeat' split
  all_goals first | omega | (congr 1; omega) | (rw [decide_eq_true (by omega), Bool.true_and]; congr 1; omega)

@[simp] theorem c3ok_packV_w (q : BitVec 3) (b a : BitVec 5) (m : BitVec 2) (t : BitVec 3) (fn : BitVec 4) (maj : BitVec 6) (len : BitVec 2) (x1 x2 : BitVec 32) (l : BitVec 64) : (Raw.mk (packV m t fn (q.setWidth 5) b a maj len) x1 x2 l).c3ok = true := by
  simp only [Raw.c3ok, packV, beq_iff_eq]
  apply BitVec.eq_of_getLsbD_eq; intro j hj
  simp only [BitVec.getLsbD_zero, BitVec.getLsbD_extractLsb', BitVec.getLsbD_append, BitVec.getLsbD_setWidth, hj, decide_true, Bool.true_and]
  repeat' split
  all_goals first | omega | (simp; done) | (simp; intros; apply BitVec.getLsbD_of_ge; omega) | (simp; omega)

@[simp] theorem a4_packR_w (q : BitVec 4) (c b : BitVec 5) (fn : BitVec 9) (maj : BitVec 6) (len : BitVec 2) (x1 x2 : BitVec 32) (l : BitVec 64) : (Raw.mk (packR fn c b (q.setWidth 5) maj len) x1 x2 l).a4 = q := by
  apply BitVec.eq_of_getLsbD_eq; intro j hj
  simp only [Raw.a4, packR, BitVec.getLsbD_extractLsb', BitVec.getLsbD_append, BitVec.getLsbD_setWidth, hj, decide_true, Bool.true_and]
  repeat' split
  all_goals first | omega | (congr 1; omega) | (rw [decide_eq_true (by omega), Bool.true_and]; congr 1; omega)

@[simp] theorem a4ok_packR_w (q : BitVec 4) (c b : BitVec 5) (fn : BitVec 9) (maj : BitVec 6) (len : BitVec 2) (x1 x2 : BitVec 32) (l : BitVec 64) : (Raw.mk (packR fn c b (q.setWidth 5) maj len) x1 x2 l).a4ok = true := by
  simp only [Raw.a4ok, packR, BitVec.getLsbD_append, BitVec.getLsbD_setWidth]
  simp

@[simp] theorem b4_packR_w (q : BitVec 4) (c a : BitVec 5) (fn : BitVec 9) (maj : BitVec 6) (len : BitVec 2) (x1 x2 : BitVec 32) (l : BitVec 64) : (Raw.mk (packR fn c (q.setWidth 5) a maj len) x1 x2 l).b4 = q := by
  apply BitVec.eq_of_getLsbD_eq; intro j hj
  simp only [Raw.b4, packR, BitVec.getLsbD_extractLsb', BitVec.getLsbD_append, BitVec.getLsbD_setWidth, hj, decide_true, Bool.true_and]
  repeat' split
  all_goals first | omega | (congr 1; omega) | (rw [decide_eq_true (by omega), Bool.true_and]; congr 1; omega)

@[simp] theorem b4ok_packR_w (q : BitVec 4) (c a : BitVec 5) (fn : BitVec 9) (maj : BitVec 6) (len : BitVec 2) (x1 x2 : BitVec 32) (l : BitVec 64) : (Raw.mk (packR fn c (q.setWidth 5) a maj len) x1 x2 l).b4ok = true := by
  simp only [Raw.b4ok, packR, BitVec.getLsbD_append, BitVec.getLsbD_setWidth]
  simp

@[simp] theorem wd_packS_w (o : BitVec 11) (w : BitVec 2) (b a : BitVec 5) (maj : BitVec 6) (len : BitVec 2) (x1 x2 : BitVec 32) (l : BitVec 64) : (Raw.mk (packS o (w.setWidth 3) b a maj len) x1 x2 l).wd = w := by
  apply BitVec.eq_of_getLsbD_eq; intro j hj
  simp only [Raw.wd, packS, BitVec.getLsbD_extractLsb', BitVec.getLsbD_append, BitVec.getLsbD_setWidth, hj, decide_true, Bool.true_and]
  repeat' split
  all_goals first | omega | (congr 1; omega) | (rw [decide_eq_true (by omega), Bool.true_and]; congr 1; omega)


end Sys2Proof.Laws
end

