-- ==== Sys2Proof/Laws/Memory.lean ====
section
/-! SUPPORT. Tables and memory: reads after writes, and the canonical form, which every operation keeps. -/

namespace Sys2Proof

variable {α : Type}

/-- A read at the key just written gives the value written. -/
@[simp] theorem Table.get_put_same (d : α) (t : Table α) (k : Nat) (v : α) : Table.get d (Table.put t k v) k = v := by
  induction t with
  | nil => simp [Table.put, Table.get]
  | cons p t ih =>
    obtain ⟨j, w⟩ := p
    simp only [Table.put]
    split
    · simp [Table.get]
    · split
      · simp [Table.get]
      · next h1 h2 => simp [Table.get, h1, h2, ih]

/-- A read at any other key is unchanged. -/
theorem Table.get_put_ne (d : α) (t : Table α) {k j : Nat} (v : α) (h : j ≠ k) :
    Table.get d (Table.put t k v) j = Table.get d t j := by
  induction t with
  | nil =>
    simp only [Table.put, Table.get, h, if_false]
    split <;> rfl
  | cons p t ih =>
    obtain ⟨i, w⟩ := p
    simp only [Table.put]
    split
    · simp only [Table.get, h, if_false]
      split
      · next hk hj => rw [if_pos (by omega)]
      · rfl
    · split
      · next h1 h2 => subst h2; simp [Table.get, h]
      · simp only [Table.get, ih]

/-- Every key of a table is above a bound. -/
def Table.above (lo : Nat) (t : Table α) : Prop := ∀ p ∈ t, lo < p.1

/-- A table is sorted when its head is below the sorted rest. -/
theorem Table.sorted_cons (j : Nat) (w : α) (t : Table α) :
    Table.sorted ((j, w) :: t) = true ↔ Table.above j t ∧ Table.sorted t = true := by
  induction t generalizing j w with
  | nil => simp [Table.sorted, Table.above]
  | cons p t ih =>
    obtain ⟨k, v⟩ := p
    simp only [Table.sorted, Bool.and_eq_true, decide_eq_true_eq]
    constructor
    · rintro ⟨h1, h2⟩
      refine ⟨?_, h2⟩
      have := ((ih k v).1 h2).1
      intro p hp
      rcases List.mem_cons.1 hp with rfl | hp
      · exact h1
      · exact Nat.lt_trans h1 (this p hp)
    · rintro ⟨h1, h2⟩
      exact ⟨h1 (k, v) (by simp), h2⟩

/-- Writing keeps a bound on the keys that the new key meets. -/
theorem Table.above_put {lo : Nat} {t : Table α} {k : Nat} {v : α} (h : Table.above lo t) (hk : lo < k) :
    Table.above lo (Table.put t k v) := by
  induction t with
  | nil => intro p hp; simp [Table.put] at hp; subst hp; exact hk
  | cons p t ih =>
    obtain ⟨j, w⟩ := p
    simp only [Table.put]
    have hj := h (j, w) (by simp)
    have ht : Table.above lo t := fun q hq => h q (by simp [hq])
    split
    · intro q hq
      rcases List.mem_cons.1 hq with rfl | hq
      · exact hk
      · exact h q hq
    · split
      · intro q hq
        rcases List.mem_cons.1 hq with rfl | hq
        · exact hk
        · exact ht q hq
      · intro q hq
        rcases List.mem_cons.1 hq with rfl | hq
        · exact hj
        · exact ih ht q hq

/-- Writing keeps a table sorted. -/
theorem Table.sorted_put {t : Table α} (k : Nat) (v : α) (h : Table.sorted t = true) :
    Table.sorted (Table.put t k v) = true := by
  induction t with
  | nil => rfl
  | cons p t ih =>
    obtain ⟨j, w⟩ := p
    have hs := (Table.sorted_cons j w t).1 h
    simp only [Table.put]
    split
    · next hk =>
      refine (Table.sorted_cons _ _ _).2 ⟨?_, h⟩
      intro q hq
      rcases List.mem_cons.1 hq with rfl | hq
      · exact hk
      · exact Nat.lt_trans hk (hs.1 q hq)
    · split
      · next h2 => subst h2; exact (Table.sorted_cons _ _ _).2 hs
      · exact (Table.sorted_cons _ _ _).2 ⟨Table.above_put hs.1 (by omega), ih hs.2⟩

/-- A key below every key of a table reads the default. -/
theorem Table.get_above (d : α) {t : Table α} {k : Nat} (h : Table.above k t) : Table.get d t k = d := by
  cases t with
  | nil => rfl
  | cons p t => obtain ⟨j, w⟩ := p; have := h (j, w) (by simp); simp [Table.get, this]

/-- The keys of a table without one of them are among its keys. -/
theorem Table.mem_erase {t : Table α} {k : Nat} {p : Nat × α} (h : p ∈ Table.erase t k) : p ∈ t := by
  induction t with
  | nil => exact h
  | cons q t ih =>
    obtain ⟨j, w⟩ := q
    simp only [Table.erase] at h
    split at h
    · exact List.mem_cons_of_mem _ h
    · rcases List.mem_cons.1 h with h | h
      · exact h ▸ List.mem_cons_self
      · exact List.mem_cons_of_mem _ (ih h)

/-- Taking a key out keeps a table sorted. -/
theorem Table.sorted_erase {t : Table α} (k : Nat) (h : Table.sorted t = true) : Table.sorted (Table.erase t k) = true := by
  induction t with
  | nil => rfl
  | cons p t ih =>
    obtain ⟨j, w⟩ := p
    have hs := (Table.sorted_cons j w t).1 h
    simp only [Table.erase]
    split
    · exact hs.2
    · exact (Table.sorted_cons _ _ _).2 ⟨fun q hq => hs.1 q (Table.mem_erase hq), ih hs.2⟩

/-- A key taken out of a sorted table reads the default. -/
theorem Table.get_erase_same (d : α) {t : Table α} (k : Nat) (h : Table.sorted t = true) :
    Table.get d (Table.erase t k) k = d := by
  induction t with
  | nil => rfl
  | cons p t ih =>
    obtain ⟨j, w⟩ := p
    have hs := (Table.sorted_cons j w t).1 h
    simp only [Table.erase]
    split
    · next hk => subst hk; exact Table.get_above d hs.1
    · next hk => simp only [Table.get, hk, if_false, ih hs.2]; split <;> rfl

/-- Any other key reads as before. -/
theorem Table.get_erase_ne (d : α) {t : Table α} {k j : Nat} (h : Table.sorted t = true) (hj : j ≠ k) :
    Table.get d (Table.erase t k) j = Table.get d t j := by
  induction t with
  | nil => rfl
  | cons p t ih =>
    obtain ⟨i, w⟩ := p
    have hs := (Table.sorted_cons i w t).1 h
    simp only [Table.erase]
    split
    · next hk =>
      subst hk
      simp only [Table.get, hj, if_false]
      split
      · next hlt => exact Table.get_above d fun q hq => Nat.lt_trans hlt (hs.1 q hq)
      · rfl
    · simp only [Table.get, ih hs.2]

/-- Dropping entries keeps a table sorted. -/
theorem Table.sorted_filter {t : Table α} (f : Nat × α → Bool) (h : Table.sorted t = true) :
    Table.sorted (List.filter f t) = true := by
  induction t with
  | nil => rfl
  | cons p t ih =>
    obtain ⟨j, w⟩ := p
    have hs := (Table.sorted_cons j w t).1 h
    rw [List.filter_cons]
    split
    · exact (Table.sorted_cons _ _ _).2 ⟨fun q hq => hs.1 q (List.mem_filter.1 hq).1, ih hs.2⟩
    · exact ih hs.2

/-! Memory. -/

/-- The canonical form as two facts. -/
theorem Memory.wf_iff (m : Memory) : m.wf = true ↔ Table.sorted m = true ∧ ∀ p ∈ m, p.2 ≠ 0 := by
  simp [Memory.wf]

/-- An entry of a written table is the new one or an old one. -/
theorem Table.mem_put {t : Table α} {k : Nat} {v : α} {p : Nat × α} (h : p ∈ Table.put t k v) : p = (k, v) ∨ p ∈ t := by
  induction t with
  | nil => simpa [Table.put] using h
  | cons q t ih =>
    obtain ⟨j, w⟩ := q
    simp only [Table.put] at h
    split at h
    · rcases List.mem_cons.1 h with h | h
      · exact .inl h
      · exact .inr h
    · split at h
      · rcases List.mem_cons.1 h with h | h
        · exact .inl h
        · exact .inr (List.mem_cons_of_mem _ h)
      · rcases List.mem_cons.1 h with h | h
        · exact .inr (h ▸ List.mem_cons_self)
        · exact (ih h).imp id (List.mem_cons_of_mem _)

/-- A write keeps the canonical form. -/
theorem Memory.wf_write {m : Memory} (a : Nat) (b : Byte) (h : m.wf = true) : (m.write a b).wf = true := by
  rw [Memory.wf_iff] at *
  unfold Memory.write
  split
  · exact ⟨Table.sorted_erase a h.1, fun p hp => h.2 p (Table.mem_erase hp)⟩
  · next hb =>
    refine ⟨Table.sorted_put a b h.1, fun p hp => ?_⟩
    rcases Table.mem_put hp with rfl | hp
    · exact hb
    · exact h.2 p hp

/-- A read after a write of the same address gives the byte written. -/
theorem Memory.read_write_same {m : Memory} (a : Nat) (b : Byte) (h : m.wf = true) : (m.write a b).read a = b := by
  rw [Memory.wf_iff] at h
  unfold Memory.write Memory.read
  split
  · next hb => rw [Table.get_erase_same _ _ h.1, hb]
  · simp

/-- A read of any other address gives what it gave before. -/
theorem Memory.read_write_ne {m : Memory} {a c : Nat} (b : Byte) (h : m.wf = true) (hc : c ≠ a) :
    (m.write a b).read c = m.read c := by
  rw [Memory.wf_iff] at h
  unfold Memory.write Memory.read
  split
  · exact Table.get_erase_ne _ h.1 hc
  · exact Table.get_put_ne _ _ _ hc

/-- A number written keeps the canonical form. -/
theorem Memory.wf_writeLE {m : Memory} (a n v : Nat) (h : m.wf = true) : (m.writeLE a n v).wf = true := by
  induction n generalizing m a v with
  | zero => exact h
  | succ n ih => exact ih _ _ (Memory.wf_write a _ h)

/-- Bytes written keep the canonical form. -/
theorem Memory.wf_putBytes {m : Memory} (a : Nat) (bs : List Byte) (h : m.wf = true) : (m.putBytes a bs).wf = true := by
  induction bs generalizing m a with
  | nil => exact h
  | cons b bs ih => exact ih _ (Memory.wf_write a b h)

/-- A range cleared keeps the canonical form. -/
theorem Memory.wf_clear {m : Memory} (lo hi : Nat) (h : m.wf = true) : Memory.wf (Table.clear m lo hi) = true := by
  rw [Memory.wf_iff] at *
  exact ⟨Table.sorted_filter _ h.1, fun p hp => h.2 p (List.mem_filter.1 hp).1⟩

/-- Addresses outside a written number read as before. -/
theorem Memory.read_writeLE_out {m : Memory} {a n v c : Nat} (h : m.wf = true) (hc : c < a ∨ a + n ≤ c) :
    (m.writeLE a n v).read c = m.read c := by
  induction n generalizing m a v with
  | zero => rfl
  | succ n ih =>
    rw [Memory.writeLE, ih (Memory.wf_write a _ h) (by omega), Memory.read_write_ne _ h (by omega)]

/-- Addresses outside written bytes read as before. -/
theorem Memory.read_putBytes_out {m : Memory} {a c : Nat} {bs : List Byte} (h : m.wf = true) (hc : c < a ∨ a + bs.length ≤ c) :
    (m.putBytes a bs).read c = m.read c := by
  induction bs generalizing m a with
  | nil => rfl
  | cons b bs ih =>
    simp only [List.length_cons] at hc
    rw [Memory.putBytes, ih (Memory.wf_write a _ h) (by omega), Memory.read_write_ne _ h (by omega)]

/-- A number reads by its bytes only. -/
theorem Memory.readLE_congr {m k : Memory} {a n : Nat} (h : ∀ c, a ≤ c → c < a + n → m.read c = k.read c) :
    m.readLE a n = k.readLE a n := by
  induction n generalizing a with
  | zero => rfl
  | succ n ih =>
    rw [Memory.readLE, Memory.readLE, h a (Nat.le_refl _) (by omega), ih fun c h1 h2 => h c (by omega) (by omega)]

/-- A number read back after it was written. -/
theorem Memory.readLE_writeLE {m : Memory} (a n v : Nat) (h : m.wf = true) :
    (m.writeLE a n v).readLE a n = v % 2 ^ (8 * n) := by
  induction n generalizing m a v with
  | zero => simp [Memory.readLE, Nat.mod_one]
  | succ n ih =>
    rw [Memory.writeLE, Memory.readLE, ih _ _ (Memory.wf_write a _ h),
      Memory.read_writeLE_out (Memory.wf_write a _ h) (by omega), Memory.read_write_same _ _ h]
    rw [BitVec.toNat_ofNat, show 8 * (n + 1) = 8 + 8 * n by omega, Nat.pow_add, Nat.mod_mul]

/-- A number elsewhere reads as before. -/
theorem Memory.readLE_writeLE_out {m : Memory} {a n v b k : Nat} (h : m.wf = true) (hd : b + k ≤ a ∨ a + n ≤ b) :
    (m.writeLE a n v).readLE b k = m.readLE b k :=
  Memory.readLE_congr fun _ _ _ => Memory.read_writeLE_out h (by omega)

end Sys2Proof
end

