-- ==== Sys2Proof/Laws/State.lean ====
section
/-! SUPPORT. What the updates of a context, a core and the device leave as it is, field by field, and what they
change. -/

set_option linter.all false

namespace Sys2Proof.Machine

/-! State.setCoreAt. -/

@[simp] theorem State.setCoreAt_cur (s : State) (k : Nat) (c : Core) : (s.setCoreAt k c).cur = s.cur := rfl
@[simp] theorem State.setCoreAt_ctx (s : State) (k : Nat) (c : Core) : (s.setCoreAt k c).ctx = s.ctx := rfl
@[simp] theorem State.setCoreAt_agenda (s : State) (k : Nat) (c : Core) : (s.setCoreAt k c).agenda = s.agenda := rfl
@[simp] theorem State.setCoreAt_n (s : State) (k : Nat) (c : Core) : (s.setCoreAt k c).n = s.n := rfl
@[simp] theorem State.setCoreAt_fabric (s : State) (k : Nat) (c : Core) : (s.setCoreAt k c).fabric = s.fabric := rfl
@[simp] theorem State.setCoreAt_pts64 (s : State) (k : Nat) (c : Core) : (s.setCoreAt k c).pts64 = s.pts64 := rfl
@[simp] theorem State.setCoreAt_refills (s : State) (k : Nat) (c : Core) : (s.setCoreAt k c).refills = s.refills := rfl
@[simp] theorem State.setCoreAt_powers (s : State) (k : Nat) (c : Core) : (s.setCoreAt k c).powers = s.powers := rfl
@[simp] theorem State.setCoreAt_snaps (s : State) (k : Nat) (c : Core) : (s.setCoreAt k c).snaps = s.snaps := rfl
@[simp] theorem State.setCoreAt_mem (s : State) (k : Nat) (c : Core) : (s.setCoreAt k c).mem = s.mem := rfl
@[simp] theorem State.setCoreAt_lines (s : State) (k : Nat) (c : Core) : (s.setCoreAt k c).lines = s.lines := rfl
@[simp] theorem State.setCoreAt_copies (s : State) (k : Nat) (c : Core) : (s.setCoreAt k c).copies = s.copies := rfl
@[simp] theorem State.setCoreAt_tlb (s : State) (k : Nat) (c : Core) : (s.setCoreAt k c).tlb = s.tlb := rfl
@[simp] theorem State.setCoreAt_walks (s : State) (k : Nat) (c : Core) : (s.setCoreAt k c).walks = s.walks := rfl
@[simp] theorem State.setCoreAt_walked (s : State) (k : Nat) (c : Core) : (s.setCoreAt k c).walked = s.walked := rfl
@[simp] theorem State.setCoreAt_walkTs (s : State) (k : Nat) (c : Core) : (s.setCoreAt k c).walkTs = s.walkTs := rfl
@[simp] theorem State.setCoreAt_cmp (s : State) (k : Nat) (c : Core) : (s.setCoreAt k c).cmp = s.cmp := rfl
@[simp] theorem State.setCoreAt_csize (s : State) (k : Nat) (c : Core) : (s.setCoreAt k c).csize = s.csize := rfl
@[simp] theorem State.setCoreAt_cmeta (s : State) (k : Nat) (c : Core) : (s.setCoreAt k c).cmeta = s.cmeta := rfl
@[simp] theorem State.setCoreAt_endowed (s : State) (k : Nat) (c : Core) : (s.setCoreAt k c).endowed = s.endowed := rfl
@[simp] theorem State.setCoreAt_entries (s : State) (k : Nat) (c : Core) : (s.setCoreAt k c).entries = s.entries := rfl
@[simp] theorem State.setCoreAt_oids (s : State) (k : Nat) (c : Core) : (s.setCoreAt k c).oids = s.oids := rfl
@[simp] theorem State.setCoreAt_notices (s : State) (k : Nat) (c : Core) : (s.setCoreAt k c).notices = s.notices := rfl
@[simp] theorem State.setCoreAt_ovf (s : State) (k : Nat) (c : Core) : (s.setCoreAt k c).ovf = s.ovf := rfl
@[simp] theorem State.setCoreAt_hooks (s : State) (k : Nat) (c : Core) : (s.setCoreAt k c).hooks = s.hooks := rfl
@[simp] theorem State.setCoreAt_domains (s : State) (k : Nat) (c : Core) : (s.setCoreAt k c).domains = s.domains := rfl
@[simp] theorem State.setCoreAt_shared (s : State) (k : Nat) (c : Core) : (s.setCoreAt k c).shared = s.shared := rfl
@[simp] theorem State.setCoreAt_buckets (s : State) (k : Nat) (c : Core) : (s.setCoreAt k c).buckets = s.buckets := rfl
@[simp] theorem State.setCoreAt_qslots (s : State) (k : Nat) (c : Core) : (s.setCoreAt k c).qslots = s.qslots := rfl
@[simp] theorem State.setCoreAt_qnext (s : State) (k : Nat) (c : Core) : (s.setCoreAt k c).qnext = s.qnext := rfl
@[simp] theorem State.setCoreAt_funcs (s : State) (k : Nat) (c : Core) : (s.setCoreAt k c).funcs = s.funcs := rfl
@[simp] theorem State.setCoreAt_vecs (s : State) (k : Nat) (c : Core) : (s.setCoreAt k c).vecs = s.vecs := rfl
@[simp] theorem State.setCoreAt_sent (s : State) (k : Nat) (c : Core) : (s.setCoreAt k c).sent = s.sent := rfl
@[simp] theorem State.setCoreAt_atomicOps (s : State) (k : Nat) (c : Core) : (s.setCoreAt k c).atomicOps = s.atomicOps := rfl
@[simp] theorem State.setCoreAt_mbpend (s : State) (k : Nat) (c : Core) : (s.setCoreAt k c).mbpend = s.mbpend := rfl
@[simp] theorem State.setCoreAt_mailbox (s : State) (k : Nat) (c : Core) : (s.setCoreAt k c).mailbox = s.mailbox := rfl
@[simp] theorem State.setCoreAt_attest (s : State) (k : Nat) (c : Core) : (s.setCoreAt k c).attest = s.attest := rfl
@[simp] theorem State.setCoreAt_attesting (s : State) (k : Nat) (c : Core) : (s.setCoreAt k c).attesting = s.attesting := rfl
@[simp] theorem State.setCoreAt_digest (s : State) (k : Nat) (c : Core) : (s.setCoreAt k c).digest = s.digest := rfl
@[simp] theorem State.setCoreAt_stage (s : State) (k : Nat) (c : Core) : (s.setCoreAt k c).stage = s.stage := rfl
@[simp] theorem State.setCoreAt_recovery (s : State) (k : Nat) (c : Core) : (s.setCoreAt k c).recovery = s.recovery := rfl
@[simp] theorem State.setCoreAt_alarm (s : State) (k : Nat) (c : Core) : (s.setCoreAt k c).alarm = s.alarm := rfl
@[simp] theorem State.setCoreAt_outPts (s : State) (k : Nat) (c : Core) : (s.setCoreAt k c).outPts = s.outPts := rfl
@[simp] theorem State.setCoreAt_extw (s : State) (k : Nat) (c : Core) : (s.setCoreAt k c).extw = s.extw := rfl
@[simp] theorem State.setCoreAt_logs (s : State) (k : Nat) (c : Core) : (s.setCoreAt k c).logs = s.logs := rfl
@[simp] theorem State.setCoreAt_ranges (s : State) (k : Nat) (c : Core) : (s.setCoreAt k c).ranges = s.ranges := rfl
@[simp] theorem State.setCoreAt_objs (s : State) (k : Nat) (c : Core) : (s.setCoreAt k c).objs = s.objs := rfl
@[simp] theorem State.setCoreAt_syms (s : State) (k : Nat) (c : Core) : (s.setCoreAt k c).syms = s.syms := rfl
@[simp] theorem State.setCoreAt_barq (s : State) (k : Nat) (c : Core) : (s.setCoreAt k c).barq = s.barq := rfl
@[simp] theorem State.setCoreAt_words (s : State) (k : Nat) (c : Core) : (s.setCoreAt k c).words = s.words := rfl
@[simp] theorem State.setCoreAt_segs (s : State) (k : Nat) (c : Core) : (s.setCoreAt k c).segs = s.segs := rfl
@[simp] theorem State.setCoreAt_names (s : State) (k : Nat) (c : Core) : (s.setCoreAt k c).names = s.names := rfl
@[simp] theorem State.setCoreAt_husks (s : State) (k : Nat) (c : Core) : (s.setCoreAt k c).husks = s.husks := rfl
@[simp] theorem State.setCoreAt_slots (s : State) (k : Nat) (c : Core) : (s.setCoreAt k c).slots = s.slots := rfl
@[simp] theorem State.setCoreAt_pool (s : State) (k : Nat) (c : Core) : (s.setCoreAt k c).pool = s.pool := rfl
@[simp] theorem State.setCoreAt_spawns (s : State) (k : Nat) (c : Core) : (s.setCoreAt k c).spawns = s.spawns := rfl
@[simp] theorem State.setCoreAt_drains (s : State) (k : Nat) (c : Core) : (s.setCoreAt k c).drains = s.drains := rfl
@[simp] theorem State.setCoreAt_expandRr (s : State) (k : Nat) (c : Core) : (s.setCoreAt k c).expandRr = s.expandRr := rfl
@[simp] theorem State.setCoreAt_pools (s : State) (k : Nat) (c : Core) : (s.setCoreAt k c).pools = s.pools := rfl
@[simp] theorem State.setCoreAt_serial (s : State) (k : Nat) (c : Core) : (s.setCoreAt k c).serial = s.serial := rfl

/-! State.updCoreAt. -/

@[simp] theorem State.updCoreAt_cur (s : State) (k : Nat) (f : Core → Core) : (s.updCoreAt k f).cur = s.cur := rfl
@[simp] theorem State.updCoreAt_ctx (s : State) (k : Nat) (f : Core → Core) : (s.updCoreAt k f).ctx = s.ctx := rfl
@[simp] theorem State.updCoreAt_agenda (s : State) (k : Nat) (f : Core → Core) : (s.updCoreAt k f).agenda = s.agenda := rfl
@[simp] theorem State.updCoreAt_n (s : State) (k : Nat) (f : Core → Core) : (s.updCoreAt k f).n = s.n := rfl
@[simp] theorem State.updCoreAt_fabric (s : State) (k : Nat) (f : Core → Core) : (s.updCoreAt k f).fabric = s.fabric := rfl
@[simp] theorem State.updCoreAt_pts64 (s : State) (k : Nat) (f : Core → Core) : (s.updCoreAt k f).pts64 = s.pts64 := rfl
@[simp] theorem State.updCoreAt_refills (s : State) (k : Nat) (f : Core → Core) : (s.updCoreAt k f).refills = s.refills := rfl
@[simp] theorem State.updCoreAt_powers (s : State) (k : Nat) (f : Core → Core) : (s.updCoreAt k f).powers = s.powers := rfl
@[simp] theorem State.updCoreAt_snaps (s : State) (k : Nat) (f : Core → Core) : (s.updCoreAt k f).snaps = s.snaps := rfl
@[simp] theorem State.updCoreAt_mem (s : State) (k : Nat) (f : Core → Core) : (s.updCoreAt k f).mem = s.mem := rfl
@[simp] theorem State.updCoreAt_lines (s : State) (k : Nat) (f : Core → Core) : (s.updCoreAt k f).lines = s.lines := rfl
@[simp] theorem State.updCoreAt_copies (s : State) (k : Nat) (f : Core → Core) : (s.updCoreAt k f).copies = s.copies := rfl
@[simp] theorem State.updCoreAt_tlb (s : State) (k : Nat) (f : Core → Core) : (s.updCoreAt k f).tlb = s.tlb := rfl
@[simp] theorem State.updCoreAt_walks (s : State) (k : Nat) (f : Core → Core) : (s.updCoreAt k f).walks = s.walks := rfl
@[simp] theorem State.updCoreAt_walked (s : State) (k : Nat) (f : Core → Core) : (s.updCoreAt k f).walked = s.walked := rfl
@[simp] theorem State.updCoreAt_walkTs (s : State) (k : Nat) (f : Core → Core) : (s.updCoreAt k f).walkTs = s.walkTs := rfl
@[simp] theorem State.updCoreAt_cmp (s : State) (k : Nat) (f : Core → Core) : (s.updCoreAt k f).cmp = s.cmp := rfl
@[simp] theorem State.updCoreAt_csize (s : State) (k : Nat) (f : Core → Core) : (s.updCoreAt k f).csize = s.csize := rfl
@[simp] theorem State.updCoreAt_cmeta (s : State) (k : Nat) (f : Core → Core) : (s.updCoreAt k f).cmeta = s.cmeta := rfl
@[simp] theorem State.updCoreAt_endowed (s : State) (k : Nat) (f : Core → Core) : (s.updCoreAt k f).endowed = s.endowed := rfl
@[simp] theorem State.updCoreAt_entries (s : State) (k : Nat) (f : Core → Core) : (s.updCoreAt k f).entries = s.entries := rfl
@[simp] theorem State.updCoreAt_oids (s : State) (k : Nat) (f : Core → Core) : (s.updCoreAt k f).oids = s.oids := rfl
@[simp] theorem State.updCoreAt_notices (s : State) (k : Nat) (f : Core → Core) : (s.updCoreAt k f).notices = s.notices := rfl
@[simp] theorem State.updCoreAt_ovf (s : State) (k : Nat) (f : Core → Core) : (s.updCoreAt k f).ovf = s.ovf := rfl
@[simp] theorem State.updCoreAt_hooks (s : State) (k : Nat) (f : Core → Core) : (s.updCoreAt k f).hooks = s.hooks := rfl
@[simp] theorem State.updCoreAt_domains (s : State) (k : Nat) (f : Core → Core) : (s.updCoreAt k f).domains = s.domains := rfl
@[simp] theorem State.updCoreAt_shared (s : State) (k : Nat) (f : Core → Core) : (s.updCoreAt k f).shared = s.shared := rfl
@[simp] theorem State.updCoreAt_buckets (s : State) (k : Nat) (f : Core → Core) : (s.updCoreAt k f).buckets = s.buckets := rfl
@[simp] theorem State.updCoreAt_qslots (s : State) (k : Nat) (f : Core → Core) : (s.updCoreAt k f).qslots = s.qslots := rfl
@[simp] theorem State.updCoreAt_qnext (s : State) (k : Nat) (f : Core → Core) : (s.updCoreAt k f).qnext = s.qnext := rfl
@[simp] theorem State.updCoreAt_funcs (s : State) (k : Nat) (f : Core → Core) : (s.updCoreAt k f).funcs = s.funcs := rfl
@[simp] theorem State.updCoreAt_vecs (s : State) (k : Nat) (f : Core → Core) : (s.updCoreAt k f).vecs = s.vecs := rfl
@[simp] theorem State.updCoreAt_sent (s : State) (k : Nat) (f : Core → Core) : (s.updCoreAt k f).sent = s.sent := rfl
@[simp] theorem State.updCoreAt_atomicOps (s : State) (k : Nat) (f : Core → Core) : (s.updCoreAt k f).atomicOps = s.atomicOps := rfl
@[simp] theorem State.updCoreAt_mbpend (s : State) (k : Nat) (f : Core → Core) : (s.updCoreAt k f).mbpend = s.mbpend := rfl
@[simp] theorem State.updCoreAt_mailbox (s : State) (k : Nat) (f : Core → Core) : (s.updCoreAt k f).mailbox = s.mailbox := rfl
@[simp] theorem State.updCoreAt_attest (s : State) (k : Nat) (f : Core → Core) : (s.updCoreAt k f).attest = s.attest := rfl
@[simp] theorem State.updCoreAt_attesting (s : State) (k : Nat) (f : Core → Core) : (s.updCoreAt k f).attesting = s.attesting := rfl
@[simp] theorem State.updCoreAt_digest (s : State) (k : Nat) (f : Core → Core) : (s.updCoreAt k f).digest = s.digest := rfl
@[simp] theorem State.updCoreAt_stage (s : State) (k : Nat) (f : Core → Core) : (s.updCoreAt k f).stage = s.stage := rfl
@[simp] theorem State.updCoreAt_recovery (s : State) (k : Nat) (f : Core → Core) : (s.updCoreAt k f).recovery = s.recovery := rfl
@[simp] theorem State.updCoreAt_alarm (s : State) (k : Nat) (f : Core → Core) : (s.updCoreAt k f).alarm = s.alarm := rfl
@[simp] theorem State.updCoreAt_outPts (s : State) (k : Nat) (f : Core → Core) : (s.updCoreAt k f).outPts = s.outPts := rfl
@[simp] theorem State.updCoreAt_extw (s : State) (k : Nat) (f : Core → Core) : (s.updCoreAt k f).extw = s.extw := rfl
@[simp] theorem State.updCoreAt_logs (s : State) (k : Nat) (f : Core → Core) : (s.updCoreAt k f).logs = s.logs := rfl
@[simp] theorem State.updCoreAt_ranges (s : State) (k : Nat) (f : Core → Core) : (s.updCoreAt k f).ranges = s.ranges := rfl
@[simp] theorem State.updCoreAt_objs (s : State) (k : Nat) (f : Core → Core) : (s.updCoreAt k f).objs = s.objs := rfl
@[simp] theorem State.updCoreAt_syms (s : State) (k : Nat) (f : Core → Core) : (s.updCoreAt k f).syms = s.syms := rfl
@[simp] theorem State.updCoreAt_barq (s : State) (k : Nat) (f : Core → Core) : (s.updCoreAt k f).barq = s.barq := rfl
@[simp] theorem State.updCoreAt_words (s : State) (k : Nat) (f : Core → Core) : (s.updCoreAt k f).words = s.words := rfl
@[simp] theorem State.updCoreAt_segs (s : State) (k : Nat) (f : Core → Core) : (s.updCoreAt k f).segs = s.segs := rfl
@[simp] theorem State.updCoreAt_names (s : State) (k : Nat) (f : Core → Core) : (s.updCoreAt k f).names = s.names := rfl
@[simp] theorem State.updCoreAt_husks (s : State) (k : Nat) (f : Core → Core) : (s.updCoreAt k f).husks = s.husks := rfl
@[simp] theorem State.updCoreAt_slots (s : State) (k : Nat) (f : Core → Core) : (s.updCoreAt k f).slots = s.slots := rfl
@[simp] theorem State.updCoreAt_pool (s : State) (k : Nat) (f : Core → Core) : (s.updCoreAt k f).pool = s.pool := rfl
@[simp] theorem State.updCoreAt_spawns (s : State) (k : Nat) (f : Core → Core) : (s.updCoreAt k f).spawns = s.spawns := rfl
@[simp] theorem State.updCoreAt_drains (s : State) (k : Nat) (f : Core → Core) : (s.updCoreAt k f).drains = s.drains := rfl
@[simp] theorem State.updCoreAt_expandRr (s : State) (k : Nat) (f : Core → Core) : (s.updCoreAt k f).expandRr = s.expandRr := rfl
@[simp] theorem State.updCoreAt_pools (s : State) (k : Nat) (f : Core → Core) : (s.updCoreAt k f).pools = s.pools := rfl
@[simp] theorem State.updCoreAt_serial (s : State) (k : Nat) (f : Core → Core) : (s.updCoreAt k f).serial = s.serial := rfl

/-! State.setCore. -/

@[simp] theorem State.setCore_cur (s : State) (c : Core) : (s.setCore c).cur = s.cur := rfl
@[simp] theorem State.setCore_ctx (s : State) (c : Core) : (s.setCore c).ctx = s.ctx := rfl
@[simp] theorem State.setCore_agenda (s : State) (c : Core) : (s.setCore c).agenda = s.agenda := rfl
@[simp] theorem State.setCore_n (s : State) (c : Core) : (s.setCore c).n = s.n := rfl
@[simp] theorem State.setCore_fabric (s : State) (c : Core) : (s.setCore c).fabric = s.fabric := rfl
@[simp] theorem State.setCore_pts64 (s : State) (c : Core) : (s.setCore c).pts64 = s.pts64 := rfl
@[simp] theorem State.setCore_refills (s : State) (c : Core) : (s.setCore c).refills = s.refills := rfl
@[simp] theorem State.setCore_powers (s : State) (c : Core) : (s.setCore c).powers = s.powers := rfl
@[simp] theorem State.setCore_snaps (s : State) (c : Core) : (s.setCore c).snaps = s.snaps := rfl
@[simp] theorem State.setCore_mem (s : State) (c : Core) : (s.setCore c).mem = s.mem := rfl
@[simp] theorem State.setCore_lines (s : State) (c : Core) : (s.setCore c).lines = s.lines := rfl
@[simp] theorem State.setCore_copies (s : State) (c : Core) : (s.setCore c).copies = s.copies := rfl
@[simp] theorem State.setCore_tlb (s : State) (c : Core) : (s.setCore c).tlb = s.tlb := rfl
@[simp] theorem State.setCore_walks (s : State) (c : Core) : (s.setCore c).walks = s.walks := rfl
@[simp] theorem State.setCore_walked (s : State) (c : Core) : (s.setCore c).walked = s.walked := rfl
@[simp] theorem State.setCore_walkTs (s : State) (c : Core) : (s.setCore c).walkTs = s.walkTs := rfl
@[simp] theorem State.setCore_cmp (s : State) (c : Core) : (s.setCore c).cmp = s.cmp := rfl
@[simp] theorem State.setCore_csize (s : State) (c : Core) : (s.setCore c).csize = s.csize := rfl
@[simp] theorem State.setCore_cmeta (s : State) (c : Core) : (s.setCore c).cmeta = s.cmeta := rfl
@[simp] theorem State.setCore_endowed (s : State) (c : Core) : (s.setCore c).endowed = s.endowed := rfl
@[simp] theorem State.setCore_entries (s : State) (c : Core) : (s.setCore c).entries = s.entries := rfl
@[simp] theorem State.setCore_oids (s : State) (c : Core) : (s.setCore c).oids = s.oids := rfl
@[simp] theorem State.setCore_notices (s : State) (c : Core) : (s.setCore c).notices = s.notices := rfl
@[simp] theorem State.setCore_ovf (s : State) (c : Core) : (s.setCore c).ovf = s.ovf := rfl
@[simp] theorem State.setCore_hooks (s : State) (c : Core) : (s.setCore c).hooks = s.hooks := rfl
@[simp] theorem State.setCore_domains (s : State) (c : Core) : (s.setCore c).domains = s.domains := rfl
@[simp] theorem State.setCore_shared (s : State) (c : Core) : (s.setCore c).shared = s.shared := rfl
@[simp] theorem State.setCore_buckets (s : State) (c : Core) : (s.setCore c).buckets = s.buckets := rfl
@[simp] theorem State.setCore_qslots (s : State) (c : Core) : (s.setCore c).qslots = s.qslots := rfl
@[simp] theorem State.setCore_qnext (s : State) (c : Core) : (s.setCore c).qnext = s.qnext := rfl
@[simp] theorem State.setCore_funcs (s : State) (c : Core) : (s.setCore c).funcs = s.funcs := rfl
@[simp] theorem State.setCore_vecs (s : State) (c : Core) : (s.setCore c).vecs = s.vecs := rfl
@[simp] theorem State.setCore_sent (s : State) (c : Core) : (s.setCore c).sent = s.sent := rfl
@[simp] theorem State.setCore_atomicOps (s : State) (c : Core) : (s.setCore c).atomicOps = s.atomicOps := rfl
@[simp] theorem State.setCore_mbpend (s : State) (c : Core) : (s.setCore c).mbpend = s.mbpend := rfl
@[simp] theorem State.setCore_mailbox (s : State) (c : Core) : (s.setCore c).mailbox = s.mailbox := rfl
@[simp] theorem State.setCore_attest (s : State) (c : Core) : (s.setCore c).attest = s.attest := rfl
@[simp] theorem State.setCore_attesting (s : State) (c : Core) : (s.setCore c).attesting = s.attesting := rfl
@[simp] theorem State.setCore_digest (s : State) (c : Core) : (s.setCore c).digest = s.digest := rfl
@[simp] theorem State.setCore_stage (s : State) (c : Core) : (s.setCore c).stage = s.stage := rfl
@[simp] theorem State.setCore_recovery (s : State) (c : Core) : (s.setCore c).recovery = s.recovery := rfl
@[simp] theorem State.setCore_alarm (s : State) (c : Core) : (s.setCore c).alarm = s.alarm := rfl
@[simp] theorem State.setCore_outPts (s : State) (c : Core) : (s.setCore c).outPts = s.outPts := rfl
@[simp] theorem State.setCore_extw (s : State) (c : Core) : (s.setCore c).extw = s.extw := rfl
@[simp] theorem State.setCore_logs (s : State) (c : Core) : (s.setCore c).logs = s.logs := rfl
@[simp] theorem State.setCore_ranges (s : State) (c : Core) : (s.setCore c).ranges = s.ranges := rfl
@[simp] theorem State.setCore_objs (s : State) (c : Core) : (s.setCore c).objs = s.objs := rfl
@[simp] theorem State.setCore_syms (s : State) (c : Core) : (s.setCore c).syms = s.syms := rfl
@[simp] theorem State.setCore_barq (s : State) (c : Core) : (s.setCore c).barq = s.barq := rfl
@[simp] theorem State.setCore_words (s : State) (c : Core) : (s.setCore c).words = s.words := rfl
@[simp] theorem State.setCore_segs (s : State) (c : Core) : (s.setCore c).segs = s.segs := rfl
@[simp] theorem State.setCore_names (s : State) (c : Core) : (s.setCore c).names = s.names := rfl
@[simp] theorem State.setCore_husks (s : State) (c : Core) : (s.setCore c).husks = s.husks := rfl
@[simp] theorem State.setCore_slots (s : State) (c : Core) : (s.setCore c).slots = s.slots := rfl
@[simp] theorem State.setCore_pool (s : State) (c : Core) : (s.setCore c).pool = s.pool := rfl
@[simp] theorem State.setCore_spawns (s : State) (c : Core) : (s.setCore c).spawns = s.spawns := rfl
@[simp] theorem State.setCore_drains (s : State) (c : Core) : (s.setCore c).drains = s.drains := rfl
@[simp] theorem State.setCore_expandRr (s : State) (c : Core) : (s.setCore c).expandRr = s.expandRr := rfl
@[simp] theorem State.setCore_pools (s : State) (c : Core) : (s.setCore c).pools = s.pools := rfl
@[simp] theorem State.setCore_serial (s : State) (c : Core) : (s.setCore c).serial = s.serial := rfl

/-! State.updCore. -/

@[simp] theorem State.updCore_cur (s : State) (f : Core → Core) : (s.updCore f).cur = s.cur := rfl
@[simp] theorem State.updCore_ctx (s : State) (f : Core → Core) : (s.updCore f).ctx = s.ctx := rfl
@[simp] theorem State.updCore_agenda (s : State) (f : Core → Core) : (s.updCore f).agenda = s.agenda := rfl
@[simp] theorem State.updCore_n (s : State) (f : Core → Core) : (s.updCore f).n = s.n := rfl
@[simp] theorem State.updCore_fabric (s : State) (f : Core → Core) : (s.updCore f).fabric = s.fabric := rfl
@[simp] theorem State.updCore_pts64 (s : State) (f : Core → Core) : (s.updCore f).pts64 = s.pts64 := rfl
@[simp] theorem State.updCore_refills (s : State) (f : Core → Core) : (s.updCore f).refills = s.refills := rfl
@[simp] theorem State.updCore_powers (s : State) (f : Core → Core) : (s.updCore f).powers = s.powers := rfl
@[simp] theorem State.updCore_snaps (s : State) (f : Core → Core) : (s.updCore f).snaps = s.snaps := rfl
@[simp] theorem State.updCore_mem (s : State) (f : Core → Core) : (s.updCore f).mem = s.mem := rfl
@[simp] theorem State.updCore_lines (s : State) (f : Core → Core) : (s.updCore f).lines = s.lines := rfl
@[simp] theorem State.updCore_copies (s : State) (f : Core → Core) : (s.updCore f).copies = s.copies := rfl
@[simp] theorem State.updCore_tlb (s : State) (f : Core → Core) : (s.updCore f).tlb = s.tlb := rfl
@[simp] theorem State.updCore_walks (s : State) (f : Core → Core) : (s.updCore f).walks = s.walks := rfl
@[simp] theorem State.updCore_walked (s : State) (f : Core → Core) : (s.updCore f).walked = s.walked := rfl
@[simp] theorem State.updCore_walkTs (s : State) (f : Core → Core) : (s.updCore f).walkTs = s.walkTs := rfl
@[simp] theorem State.updCore_cmp (s : State) (f : Core → Core) : (s.updCore f).cmp = s.cmp := rfl
@[simp] theorem State.updCore_csize (s : State) (f : Core → Core) : (s.updCore f).csize = s.csize := rfl
@[simp] theorem State.updCore_cmeta (s : State) (f : Core → Core) : (s.updCore f).cmeta = s.cmeta := rfl
@[simp] theorem State.updCore_endowed (s : State) (f : Core → Core) : (s.updCore f).endowed = s.endowed := rfl
@[simp] theorem State.updCore_entries (s : State) (f : Core → Core) : (s.updCore f).entries = s.entries := rfl
@[simp] theorem State.updCore_oids (s : State) (f : Core → Core) : (s.updCore f).oids = s.oids := rfl
@[simp] theorem State.updCore_notices (s : State) (f : Core → Core) : (s.updCore f).notices = s.notices := rfl
@[simp] theorem State.updCore_ovf (s : State) (f : Core → Core) : (s.updCore f).ovf = s.ovf := rfl
@[simp] theorem State.updCore_hooks (s : State) (f : Core → Core) : (s.updCore f).hooks = s.hooks := rfl
@[simp] theorem State.updCore_domains (s : State) (f : Core → Core) : (s.updCore f).domains = s.domains := rfl
@[simp] theorem State.updCore_shared (s : State) (f : Core → Core) : (s.updCore f).shared = s.shared := rfl
@[simp] theorem State.updCore_buckets (s : State) (f : Core → Core) : (s.updCore f).buckets = s.buckets := rfl
@[simp] theorem State.updCore_qslots (s : State) (f : Core → Core) : (s.updCore f).qslots = s.qslots := rfl
@[simp] theorem State.updCore_qnext (s : State) (f : Core → Core) : (s.updCore f).qnext = s.qnext := rfl
@[simp] theorem State.updCore_funcs (s : State) (f : Core → Core) : (s.updCore f).funcs = s.funcs := rfl
@[simp] theorem State.updCore_vecs (s : State) (f : Core → Core) : (s.updCore f).vecs = s.vecs := rfl
@[simp] theorem State.updCore_sent (s : State) (f : Core → Core) : (s.updCore f).sent = s.sent := rfl
@[simp] theorem State.updCore_atomicOps (s : State) (f : Core → Core) : (s.updCore f).atomicOps = s.atomicOps := rfl
@[simp] theorem State.updCore_mbpend (s : State) (f : Core → Core) : (s.updCore f).mbpend = s.mbpend := rfl
@[simp] theorem State.updCore_mailbox (s : State) (f : Core → Core) : (s.updCore f).mailbox = s.mailbox := rfl
@[simp] theorem State.updCore_attest (s : State) (f : Core → Core) : (s.updCore f).attest = s.attest := rfl
@[simp] theorem State.updCore_attesting (s : State) (f : Core → Core) : (s.updCore f).attesting = s.attesting := rfl
@[simp] theorem State.updCore_digest (s : State) (f : Core → Core) : (s.updCore f).digest = s.digest := rfl
@[simp] theorem State.updCore_stage (s : State) (f : Core → Core) : (s.updCore f).stage = s.stage := rfl
@[simp] theorem State.updCore_recovery (s : State) (f : Core → Core) : (s.updCore f).recovery = s.recovery := rfl
@[simp] theorem State.updCore_alarm (s : State) (f : Core → Core) : (s.updCore f).alarm = s.alarm := rfl
@[simp] theorem State.updCore_outPts (s : State) (f : Core → Core) : (s.updCore f).outPts = s.outPts := rfl
@[simp] theorem State.updCore_extw (s : State) (f : Core → Core) : (s.updCore f).extw = s.extw := rfl
@[simp] theorem State.updCore_logs (s : State) (f : Core → Core) : (s.updCore f).logs = s.logs := rfl
@[simp] theorem State.updCore_ranges (s : State) (f : Core → Core) : (s.updCore f).ranges = s.ranges := rfl
@[simp] theorem State.updCore_objs (s : State) (f : Core → Core) : (s.updCore f).objs = s.objs := rfl
@[simp] theorem State.updCore_syms (s : State) (f : Core → Core) : (s.updCore f).syms = s.syms := rfl
@[simp] theorem State.updCore_barq (s : State) (f : Core → Core) : (s.updCore f).barq = s.barq := rfl
@[simp] theorem State.updCore_words (s : State) (f : Core → Core) : (s.updCore f).words = s.words := rfl
@[simp] theorem State.updCore_segs (s : State) (f : Core → Core) : (s.updCore f).segs = s.segs := rfl
@[simp] theorem State.updCore_names (s : State) (f : Core → Core) : (s.updCore f).names = s.names := rfl
@[simp] theorem State.updCore_husks (s : State) (f : Core → Core) : (s.updCore f).husks = s.husks := rfl
@[simp] theorem State.updCore_slots (s : State) (f : Core → Core) : (s.updCore f).slots = s.slots := rfl
@[simp] theorem State.updCore_pool (s : State) (f : Core → Core) : (s.updCore f).pool = s.pool := rfl
@[simp] theorem State.updCore_spawns (s : State) (f : Core → Core) : (s.updCore f).spawns = s.spawns := rfl
@[simp] theorem State.updCore_drains (s : State) (f : Core → Core) : (s.updCore f).drains = s.drains := rfl
@[simp] theorem State.updCore_expandRr (s : State) (f : Core → Core) : (s.updCore f).expandRr = s.expandRr := rfl
@[simp] theorem State.updCore_pools (s : State) (f : Core → Core) : (s.updCore f).pools = s.pools := rfl
@[simp] theorem State.updCore_serial (s : State) (f : Core → Core) : (s.updCore f).serial = s.serial := rfl

/-! State.setMe. -/

@[simp] theorem State.setMe_cur (s : State) (x : Ctx) : (s.setMe x).cur = s.cur := rfl
@[simp] theorem State.setMe_ctx (s : State) (x : Ctx) : (s.setMe x).ctx = s.ctx := rfl
@[simp] theorem State.setMe_agenda (s : State) (x : Ctx) : (s.setMe x).agenda = s.agenda := rfl
@[simp] theorem State.setMe_n (s : State) (x : Ctx) : (s.setMe x).n = s.n := rfl
@[simp] theorem State.setMe_fabric (s : State) (x : Ctx) : (s.setMe x).fabric = s.fabric := rfl
@[simp] theorem State.setMe_pts64 (s : State) (x : Ctx) : (s.setMe x).pts64 = s.pts64 := rfl
@[simp] theorem State.setMe_refills (s : State) (x : Ctx) : (s.setMe x).refills = s.refills := rfl
@[simp] theorem State.setMe_powers (s : State) (x : Ctx) : (s.setMe x).powers = s.powers := rfl
@[simp] theorem State.setMe_snaps (s : State) (x : Ctx) : (s.setMe x).snaps = s.snaps := rfl
@[simp] theorem State.setMe_mem (s : State) (x : Ctx) : (s.setMe x).mem = s.mem := rfl
@[simp] theorem State.setMe_lines (s : State) (x : Ctx) : (s.setMe x).lines = s.lines := rfl
@[simp] theorem State.setMe_copies (s : State) (x : Ctx) : (s.setMe x).copies = s.copies := rfl
@[simp] theorem State.setMe_tlb (s : State) (x : Ctx) : (s.setMe x).tlb = s.tlb := rfl
@[simp] theorem State.setMe_walks (s : State) (x : Ctx) : (s.setMe x).walks = s.walks := rfl
@[simp] theorem State.setMe_walked (s : State) (x : Ctx) : (s.setMe x).walked = s.walked := rfl
@[simp] theorem State.setMe_walkTs (s : State) (x : Ctx) : (s.setMe x).walkTs = s.walkTs := rfl
@[simp] theorem State.setMe_cmp (s : State) (x : Ctx) : (s.setMe x).cmp = s.cmp := rfl
@[simp] theorem State.setMe_csize (s : State) (x : Ctx) : (s.setMe x).csize = s.csize := rfl
@[simp] theorem State.setMe_cmeta (s : State) (x : Ctx) : (s.setMe x).cmeta = s.cmeta := rfl
@[simp] theorem State.setMe_endowed (s : State) (x : Ctx) : (s.setMe x).endowed = s.endowed := rfl
@[simp] theorem State.setMe_entries (s : State) (x : Ctx) : (s.setMe x).entries = s.entries := rfl
@[simp] theorem State.setMe_oids (s : State) (x : Ctx) : (s.setMe x).oids = s.oids := rfl
@[simp] theorem State.setMe_notices (s : State) (x : Ctx) : (s.setMe x).notices = s.notices := rfl
@[simp] theorem State.setMe_ovf (s : State) (x : Ctx) : (s.setMe x).ovf = s.ovf := rfl
@[simp] theorem State.setMe_hooks (s : State) (x : Ctx) : (s.setMe x).hooks = s.hooks := rfl
@[simp] theorem State.setMe_domains (s : State) (x : Ctx) : (s.setMe x).domains = s.domains := rfl
@[simp] theorem State.setMe_shared (s : State) (x : Ctx) : (s.setMe x).shared = s.shared := rfl
@[simp] theorem State.setMe_buckets (s : State) (x : Ctx) : (s.setMe x).buckets = s.buckets := rfl
@[simp] theorem State.setMe_qslots (s : State) (x : Ctx) : (s.setMe x).qslots = s.qslots := rfl
@[simp] theorem State.setMe_qnext (s : State) (x : Ctx) : (s.setMe x).qnext = s.qnext := rfl
@[simp] theorem State.setMe_funcs (s : State) (x : Ctx) : (s.setMe x).funcs = s.funcs := rfl
@[simp] theorem State.setMe_vecs (s : State) (x : Ctx) : (s.setMe x).vecs = s.vecs := rfl
@[simp] theorem State.setMe_sent (s : State) (x : Ctx) : (s.setMe x).sent = s.sent := rfl
@[simp] theorem State.setMe_atomicOps (s : State) (x : Ctx) : (s.setMe x).atomicOps = s.atomicOps := rfl
@[simp] theorem State.setMe_mbpend (s : State) (x : Ctx) : (s.setMe x).mbpend = s.mbpend := rfl
@[simp] theorem State.setMe_mailbox (s : State) (x : Ctx) : (s.setMe x).mailbox = s.mailbox := rfl
@[simp] theorem State.setMe_attest (s : State) (x : Ctx) : (s.setMe x).attest = s.attest := rfl
@[simp] theorem State.setMe_attesting (s : State) (x : Ctx) : (s.setMe x).attesting = s.attesting := rfl
@[simp] theorem State.setMe_digest (s : State) (x : Ctx) : (s.setMe x).digest = s.digest := rfl
@[simp] theorem State.setMe_stage (s : State) (x : Ctx) : (s.setMe x).stage = s.stage := rfl
@[simp] theorem State.setMe_recovery (s : State) (x : Ctx) : (s.setMe x).recovery = s.recovery := rfl
@[simp] theorem State.setMe_alarm (s : State) (x : Ctx) : (s.setMe x).alarm = s.alarm := rfl
@[simp] theorem State.setMe_outPts (s : State) (x : Ctx) : (s.setMe x).outPts = s.outPts := rfl
@[simp] theorem State.setMe_extw (s : State) (x : Ctx) : (s.setMe x).extw = s.extw := rfl
@[simp] theorem State.setMe_logs (s : State) (x : Ctx) : (s.setMe x).logs = s.logs := rfl
@[simp] theorem State.setMe_ranges (s : State) (x : Ctx) : (s.setMe x).ranges = s.ranges := rfl
@[simp] theorem State.setMe_objs (s : State) (x : Ctx) : (s.setMe x).objs = s.objs := rfl
@[simp] theorem State.setMe_syms (s : State) (x : Ctx) : (s.setMe x).syms = s.syms := rfl
@[simp] theorem State.setMe_barq (s : State) (x : Ctx) : (s.setMe x).barq = s.barq := rfl
@[simp] theorem State.setMe_words (s : State) (x : Ctx) : (s.setMe x).words = s.words := rfl
@[simp] theorem State.setMe_segs (s : State) (x : Ctx) : (s.setMe x).segs = s.segs := rfl
@[simp] theorem State.setMe_names (s : State) (x : Ctx) : (s.setMe x).names = s.names := rfl
@[simp] theorem State.setMe_husks (s : State) (x : Ctx) : (s.setMe x).husks = s.husks := rfl
@[simp] theorem State.setMe_slots (s : State) (x : Ctx) : (s.setMe x).slots = s.slots := rfl
@[simp] theorem State.setMe_pool (s : State) (x : Ctx) : (s.setMe x).pool = s.pool := rfl
@[simp] theorem State.setMe_spawns (s : State) (x : Ctx) : (s.setMe x).spawns = s.spawns := rfl
@[simp] theorem State.setMe_drains (s : State) (x : Ctx) : (s.setMe x).drains = s.drains := rfl
@[simp] theorem State.setMe_expandRr (s : State) (x : Ctx) : (s.setMe x).expandRr = s.expandRr := rfl
@[simp] theorem State.setMe_pools (s : State) (x : Ctx) : (s.setMe x).pools = s.pools := rfl
@[simp] theorem State.setMe_serial (s : State) (x : Ctx) : (s.setMe x).serial = s.serial := rfl

/-! State.updMe. -/

@[simp] theorem State.updMe_cur (s : State) (f : Ctx → Ctx) : (s.updMe f).cur = s.cur := rfl
@[simp] theorem State.updMe_ctx (s : State) (f : Ctx → Ctx) : (s.updMe f).ctx = s.ctx := rfl
@[simp] theorem State.updMe_agenda (s : State) (f : Ctx → Ctx) : (s.updMe f).agenda = s.agenda := rfl
@[simp] theorem State.updMe_n (s : State) (f : Ctx → Ctx) : (s.updMe f).n = s.n := rfl
@[simp] theorem State.updMe_fabric (s : State) (f : Ctx → Ctx) : (s.updMe f).fabric = s.fabric := rfl
@[simp] theorem State.updMe_pts64 (s : State) (f : Ctx → Ctx) : (s.updMe f).pts64 = s.pts64 := rfl
@[simp] theorem State.updMe_refills (s : State) (f : Ctx → Ctx) : (s.updMe f).refills = s.refills := rfl
@[simp] theorem State.updMe_powers (s : State) (f : Ctx → Ctx) : (s.updMe f).powers = s.powers := rfl
@[simp] theorem State.updMe_snaps (s : State) (f : Ctx → Ctx) : (s.updMe f).snaps = s.snaps := rfl
@[simp] theorem State.updMe_mem (s : State) (f : Ctx → Ctx) : (s.updMe f).mem = s.mem := rfl
@[simp] theorem State.updMe_lines (s : State) (f : Ctx → Ctx) : (s.updMe f).lines = s.lines := rfl
@[simp] theorem State.updMe_copies (s : State) (f : Ctx → Ctx) : (s.updMe f).copies = s.copies := rfl
@[simp] theorem State.updMe_tlb (s : State) (f : Ctx → Ctx) : (s.updMe f).tlb = s.tlb := rfl
@[simp] theorem State.updMe_walks (s : State) (f : Ctx → Ctx) : (s.updMe f).walks = s.walks := rfl
@[simp] theorem State.updMe_walked (s : State) (f : Ctx → Ctx) : (s.updMe f).walked = s.walked := rfl
@[simp] theorem State.updMe_walkTs (s : State) (f : Ctx → Ctx) : (s.updMe f).walkTs = s.walkTs := rfl
@[simp] theorem State.updMe_cmp (s : State) (f : Ctx → Ctx) : (s.updMe f).cmp = s.cmp := rfl
@[simp] theorem State.updMe_csize (s : State) (f : Ctx → Ctx) : (s.updMe f).csize = s.csize := rfl
@[simp] theorem State.updMe_cmeta (s : State) (f : Ctx → Ctx) : (s.updMe f).cmeta = s.cmeta := rfl
@[simp] theorem State.updMe_endowed (s : State) (f : Ctx → Ctx) : (s.updMe f).endowed = s.endowed := rfl
@[simp] theorem State.updMe_entries (s : State) (f : Ctx → Ctx) : (s.updMe f).entries = s.entries := rfl
@[simp] theorem State.updMe_oids (s : State) (f : Ctx → Ctx) : (s.updMe f).oids = s.oids := rfl
@[simp] theorem State.updMe_notices (s : State) (f : Ctx → Ctx) : (s.updMe f).notices = s.notices := rfl
@[simp] theorem State.updMe_ovf (s : State) (f : Ctx → Ctx) : (s.updMe f).ovf = s.ovf := rfl
@[simp] theorem State.updMe_hooks (s : State) (f : Ctx → Ctx) : (s.updMe f).hooks = s.hooks := rfl
@[simp] theorem State.updMe_domains (s : State) (f : Ctx → Ctx) : (s.updMe f).domains = s.domains := rfl
@[simp] theorem State.updMe_shared (s : State) (f : Ctx → Ctx) : (s.updMe f).shared = s.shared := rfl
@[simp] theorem State.updMe_buckets (s : State) (f : Ctx → Ctx) : (s.updMe f).buckets = s.buckets := rfl
@[simp] theorem State.updMe_qslots (s : State) (f : Ctx → Ctx) : (s.updMe f).qslots = s.qslots := rfl
@[simp] theorem State.updMe_qnext (s : State) (f : Ctx → Ctx) : (s.updMe f).qnext = s.qnext := rfl
@[simp] theorem State.updMe_funcs (s : State) (f : Ctx → Ctx) : (s.updMe f).funcs = s.funcs := rfl
@[simp] theorem State.updMe_vecs (s : State) (f : Ctx → Ctx) : (s.updMe f).vecs = s.vecs := rfl
@[simp] theorem State.updMe_sent (s : State) (f : Ctx → Ctx) : (s.updMe f).sent = s.sent := rfl
@[simp] theorem State.updMe_atomicOps (s : State) (f : Ctx → Ctx) : (s.updMe f).atomicOps = s.atomicOps := rfl
@[simp] theorem State.updMe_mbpend (s : State) (f : Ctx → Ctx) : (s.updMe f).mbpend = s.mbpend := rfl
@[simp] theorem State.updMe_mailbox (s : State) (f : Ctx → Ctx) : (s.updMe f).mailbox = s.mailbox := rfl
@[simp] theorem State.updMe_attest (s : State) (f : Ctx → Ctx) : (s.updMe f).attest = s.attest := rfl
@[simp] theorem State.updMe_attesting (s : State) (f : Ctx → Ctx) : (s.updMe f).attesting = s.attesting := rfl
@[simp] theorem State.updMe_digest (s : State) (f : Ctx → Ctx) : (s.updMe f).digest = s.digest := rfl
@[simp] theorem State.updMe_stage (s : State) (f : Ctx → Ctx) : (s.updMe f).stage = s.stage := rfl
@[simp] theorem State.updMe_recovery (s : State) (f : Ctx → Ctx) : (s.updMe f).recovery = s.recovery := rfl
@[simp] theorem State.updMe_alarm (s : State) (f : Ctx → Ctx) : (s.updMe f).alarm = s.alarm := rfl
@[simp] theorem State.updMe_outPts (s : State) (f : Ctx → Ctx) : (s.updMe f).outPts = s.outPts := rfl
@[simp] theorem State.updMe_extw (s : State) (f : Ctx → Ctx) : (s.updMe f).extw = s.extw := rfl
@[simp] theorem State.updMe_logs (s : State) (f : Ctx → Ctx) : (s.updMe f).logs = s.logs := rfl
@[simp] theorem State.updMe_ranges (s : State) (f : Ctx → Ctx) : (s.updMe f).ranges = s.ranges := rfl
@[simp] theorem State.updMe_objs (s : State) (f : Ctx → Ctx) : (s.updMe f).objs = s.objs := rfl
@[simp] theorem State.updMe_syms (s : State) (f : Ctx → Ctx) : (s.updMe f).syms = s.syms := rfl
@[simp] theorem State.updMe_barq (s : State) (f : Ctx → Ctx) : (s.updMe f).barq = s.barq := rfl
@[simp] theorem State.updMe_words (s : State) (f : Ctx → Ctx) : (s.updMe f).words = s.words := rfl
@[simp] theorem State.updMe_segs (s : State) (f : Ctx → Ctx) : (s.updMe f).segs = s.segs := rfl
@[simp] theorem State.updMe_names (s : State) (f : Ctx → Ctx) : (s.updMe f).names = s.names := rfl
@[simp] theorem State.updMe_husks (s : State) (f : Ctx → Ctx) : (s.updMe f).husks = s.husks := rfl
@[simp] theorem State.updMe_slots (s : State) (f : Ctx → Ctx) : (s.updMe f).slots = s.slots := rfl
@[simp] theorem State.updMe_pool (s : State) (f : Ctx → Ctx) : (s.updMe f).pool = s.pool := rfl
@[simp] theorem State.updMe_spawns (s : State) (f : Ctx → Ctx) : (s.updMe f).spawns = s.spawns := rfl
@[simp] theorem State.updMe_drains (s : State) (f : Ctx → Ctx) : (s.updMe f).drains = s.drains := rfl
@[simp] theorem State.updMe_expandRr (s : State) (f : Ctx → Ctx) : (s.updMe f).expandRr = s.expandRr := rfl
@[simp] theorem State.updMe_pools (s : State) (f : Ctx → Ctx) : (s.updMe f).pools = s.pools := rfl
@[simp] theorem State.updMe_serial (s : State) (f : Ctx → Ctx) : (s.updMe f).serial = s.serial := rfl

/-! State.setX. -/

@[simp] theorem State.setX_cur (s : State) (n : BitVec 5) (v : Word) : (s.setX n v).cur = s.cur := rfl
@[simp] theorem State.setX_ctx (s : State) (n : BitVec 5) (v : Word) : (s.setX n v).ctx = s.ctx := rfl
@[simp] theorem State.setX_agenda (s : State) (n : BitVec 5) (v : Word) : (s.setX n v).agenda = s.agenda := rfl
@[simp] theorem State.setX_n (s : State) (n : BitVec 5) (v : Word) : (s.setX n v).n = s.n := rfl
@[simp] theorem State.setX_fabric (s : State) (n : BitVec 5) (v : Word) : (s.setX n v).fabric = s.fabric := rfl
@[simp] theorem State.setX_pts64 (s : State) (n : BitVec 5) (v : Word) : (s.setX n v).pts64 = s.pts64 := rfl
@[simp] theorem State.setX_refills (s : State) (n : BitVec 5) (v : Word) : (s.setX n v).refills = s.refills := rfl
@[simp] theorem State.setX_powers (s : State) (n : BitVec 5) (v : Word) : (s.setX n v).powers = s.powers := rfl
@[simp] theorem State.setX_snaps (s : State) (n : BitVec 5) (v : Word) : (s.setX n v).snaps = s.snaps := rfl
@[simp] theorem State.setX_mem (s : State) (n : BitVec 5) (v : Word) : (s.setX n v).mem = s.mem := rfl
@[simp] theorem State.setX_lines (s : State) (n : BitVec 5) (v : Word) : (s.setX n v).lines = s.lines := rfl
@[simp] theorem State.setX_copies (s : State) (n : BitVec 5) (v : Word) : (s.setX n v).copies = s.copies := rfl
@[simp] theorem State.setX_tlb (s : State) (n : BitVec 5) (v : Word) : (s.setX n v).tlb = s.tlb := rfl
@[simp] theorem State.setX_walks (s : State) (n : BitVec 5) (v : Word) : (s.setX n v).walks = s.walks := rfl
@[simp] theorem State.setX_walked (s : State) (n : BitVec 5) (v : Word) : (s.setX n v).walked = s.walked := rfl
@[simp] theorem State.setX_walkTs (s : State) (n : BitVec 5) (v : Word) : (s.setX n v).walkTs = s.walkTs := rfl
@[simp] theorem State.setX_cmp (s : State) (n : BitVec 5) (v : Word) : (s.setX n v).cmp = s.cmp := rfl
@[simp] theorem State.setX_csize (s : State) (n : BitVec 5) (v : Word) : (s.setX n v).csize = s.csize := rfl
@[simp] theorem State.setX_cmeta (s : State) (n : BitVec 5) (v : Word) : (s.setX n v).cmeta = s.cmeta := rfl
@[simp] theorem State.setX_endowed (s : State) (n : BitVec 5) (v : Word) : (s.setX n v).endowed = s.endowed := rfl
@[simp] theorem State.setX_entries (s : State) (n : BitVec 5) (v : Word) : (s.setX n v).entries = s.entries := rfl
@[simp] theorem State.setX_oids (s : State) (n : BitVec 5) (v : Word) : (s.setX n v).oids = s.oids := rfl
@[simp] theorem State.setX_notices (s : State) (n : BitVec 5) (v : Word) : (s.setX n v).notices = s.notices := rfl
@[simp] theorem State.setX_ovf (s : State) (n : BitVec 5) (v : Word) : (s.setX n v).ovf = s.ovf := rfl
@[simp] theorem State.setX_hooks (s : State) (n : BitVec 5) (v : Word) : (s.setX n v).hooks = s.hooks := rfl
@[simp] theorem State.setX_domains (s : State) (n : BitVec 5) (v : Word) : (s.setX n v).domains = s.domains := rfl
@[simp] theorem State.setX_shared (s : State) (n : BitVec 5) (v : Word) : (s.setX n v).shared = s.shared := rfl
@[simp] theorem State.setX_buckets (s : State) (n : BitVec 5) (v : Word) : (s.setX n v).buckets = s.buckets := rfl
@[simp] theorem State.setX_qslots (s : State) (n : BitVec 5) (v : Word) : (s.setX n v).qslots = s.qslots := rfl
@[simp] theorem State.setX_qnext (s : State) (n : BitVec 5) (v : Word) : (s.setX n v).qnext = s.qnext := rfl
@[simp] theorem State.setX_funcs (s : State) (n : BitVec 5) (v : Word) : (s.setX n v).funcs = s.funcs := rfl
@[simp] theorem State.setX_vecs (s : State) (n : BitVec 5) (v : Word) : (s.setX n v).vecs = s.vecs := rfl
@[simp] theorem State.setX_sent (s : State) (n : BitVec 5) (v : Word) : (s.setX n v).sent = s.sent := rfl
@[simp] theorem State.setX_atomicOps (s : State) (n : BitVec 5) (v : Word) : (s.setX n v).atomicOps = s.atomicOps := rfl
@[simp] theorem State.setX_mbpend (s : State) (n : BitVec 5) (v : Word) : (s.setX n v).mbpend = s.mbpend := rfl
@[simp] theorem State.setX_mailbox (s : State) (n : BitVec 5) (v : Word) : (s.setX n v).mailbox = s.mailbox := rfl
@[simp] theorem State.setX_attest (s : State) (n : BitVec 5) (v : Word) : (s.setX n v).attest = s.attest := rfl
@[simp] theorem State.setX_attesting (s : State) (n : BitVec 5) (v : Word) : (s.setX n v).attesting = s.attesting := rfl
@[simp] theorem State.setX_digest (s : State) (n : BitVec 5) (v : Word) : (s.setX n v).digest = s.digest := rfl
@[simp] theorem State.setX_stage (s : State) (n : BitVec 5) (v : Word) : (s.setX n v).stage = s.stage := rfl
@[simp] theorem State.setX_recovery (s : State) (n : BitVec 5) (v : Word) : (s.setX n v).recovery = s.recovery := rfl
@[simp] theorem State.setX_alarm (s : State) (n : BitVec 5) (v : Word) : (s.setX n v).alarm = s.alarm := rfl
@[simp] theorem State.setX_outPts (s : State) (n : BitVec 5) (v : Word) : (s.setX n v).outPts = s.outPts := rfl
@[simp] theorem State.setX_extw (s : State) (n : BitVec 5) (v : Word) : (s.setX n v).extw = s.extw := rfl
@[simp] theorem State.setX_logs (s : State) (n : BitVec 5) (v : Word) : (s.setX n v).logs = s.logs := rfl
@[simp] theorem State.setX_ranges (s : State) (n : BitVec 5) (v : Word) : (s.setX n v).ranges = s.ranges := rfl
@[simp] theorem State.setX_objs (s : State) (n : BitVec 5) (v : Word) : (s.setX n v).objs = s.objs := rfl
@[simp] theorem State.setX_syms (s : State) (n : BitVec 5) (v : Word) : (s.setX n v).syms = s.syms := rfl
@[simp] theorem State.setX_barq (s : State) (n : BitVec 5) (v : Word) : (s.setX n v).barq = s.barq := rfl
@[simp] theorem State.setX_words (s : State) (n : BitVec 5) (v : Word) : (s.setX n v).words = s.words := rfl
@[simp] theorem State.setX_segs (s : State) (n : BitVec 5) (v : Word) : (s.setX n v).segs = s.segs := rfl
@[simp] theorem State.setX_names (s : State) (n : BitVec 5) (v : Word) : (s.setX n v).names = s.names := rfl
@[simp] theorem State.setX_husks (s : State) (n : BitVec 5) (v : Word) : (s.setX n v).husks = s.husks := rfl
@[simp] theorem State.setX_slots (s : State) (n : BitVec 5) (v : Word) : (s.setX n v).slots = s.slots := rfl
@[simp] theorem State.setX_pool (s : State) (n : BitVec 5) (v : Word) : (s.setX n v).pool = s.pool := rfl
@[simp] theorem State.setX_spawns (s : State) (n : BitVec 5) (v : Word) : (s.setX n v).spawns = s.spawns := rfl
@[simp] theorem State.setX_drains (s : State) (n : BitVec 5) (v : Word) : (s.setX n v).drains = s.drains := rfl
@[simp] theorem State.setX_expandRr (s : State) (n : BitVec 5) (v : Word) : (s.setX n v).expandRr = s.expandRr := rfl
@[simp] theorem State.setX_pools (s : State) (n : BitVec 5) (v : Word) : (s.setX n v).pools = s.pools := rfl
@[simp] theorem State.setX_serial (s : State) (n : BitVec 5) (v : Word) : (s.setX n v).serial = s.serial := rfl

/-! State.setM. -/

@[simp] theorem State.setM_cur (s : State) (n : BitVec 3) (v : BitVec 128) : (s.setM n v).cur = s.cur := rfl
@[simp] theorem State.setM_ctx (s : State) (n : BitVec 3) (v : BitVec 128) : (s.setM n v).ctx = s.ctx := rfl
@[simp] theorem State.setM_agenda (s : State) (n : BitVec 3) (v : BitVec 128) : (s.setM n v).agenda = s.agenda := rfl
@[simp] theorem State.setM_n (s : State) (n : BitVec 3) (v : BitVec 128) : (s.setM n v).n = s.n := rfl
@[simp] theorem State.setM_fabric (s : State) (n : BitVec 3) (v : BitVec 128) : (s.setM n v).fabric = s.fabric := rfl
@[simp] theorem State.setM_pts64 (s : State) (n : BitVec 3) (v : BitVec 128) : (s.setM n v).pts64 = s.pts64 := rfl
@[simp] theorem State.setM_refills (s : State) (n : BitVec 3) (v : BitVec 128) : (s.setM n v).refills = s.refills := rfl
@[simp] theorem State.setM_powers (s : State) (n : BitVec 3) (v : BitVec 128) : (s.setM n v).powers = s.powers := rfl
@[simp] theorem State.setM_snaps (s : State) (n : BitVec 3) (v : BitVec 128) : (s.setM n v).snaps = s.snaps := rfl
@[simp] theorem State.setM_mem (s : State) (n : BitVec 3) (v : BitVec 128) : (s.setM n v).mem = s.mem := rfl
@[simp] theorem State.setM_lines (s : State) (n : BitVec 3) (v : BitVec 128) : (s.setM n v).lines = s.lines := rfl
@[simp] theorem State.setM_copies (s : State) (n : BitVec 3) (v : BitVec 128) : (s.setM n v).copies = s.copies := rfl
@[simp] theorem State.setM_tlb (s : State) (n : BitVec 3) (v : BitVec 128) : (s.setM n v).tlb = s.tlb := rfl
@[simp] theorem State.setM_walks (s : State) (n : BitVec 3) (v : BitVec 128) : (s.setM n v).walks = s.walks := rfl
@[simp] theorem State.setM_walked (s : State) (n : BitVec 3) (v : BitVec 128) : (s.setM n v).walked = s.walked := rfl
@[simp] theorem State.setM_walkTs (s : State) (n : BitVec 3) (v : BitVec 128) : (s.setM n v).walkTs = s.walkTs := rfl
@[simp] theorem State.setM_cmp (s : State) (n : BitVec 3) (v : BitVec 128) : (s.setM n v).cmp = s.cmp := rfl
@[simp] theorem State.setM_csize (s : State) (n : BitVec 3) (v : BitVec 128) : (s.setM n v).csize = s.csize := rfl
@[simp] theorem State.setM_cmeta (s : State) (n : BitVec 3) (v : BitVec 128) : (s.setM n v).cmeta = s.cmeta := rfl
@[simp] theorem State.setM_endowed (s : State) (n : BitVec 3) (v : BitVec 128) : (s.setM n v).endowed = s.endowed := rfl
@[simp] theorem State.setM_entries (s : State) (n : BitVec 3) (v : BitVec 128) : (s.setM n v).entries = s.entries := rfl
@[simp] theorem State.setM_oids (s : State) (n : BitVec 3) (v : BitVec 128) : (s.setM n v).oids = s.oids := rfl
@[simp] theorem State.setM_notices (s : State) (n : BitVec 3) (v : BitVec 128) : (s.setM n v).notices = s.notices := rfl
@[simp] theorem State.setM_ovf (s : State) (n : BitVec 3) (v : BitVec 128) : (s.setM n v).ovf = s.ovf := rfl
@[simp] theorem State.setM_hooks (s : State) (n : BitVec 3) (v : BitVec 128) : (s.setM n v).hooks = s.hooks := rfl
@[simp] theorem State.setM_domains (s : State) (n : BitVec 3) (v : BitVec 128) : (s.setM n v).domains = s.domains := rfl
@[simp] theorem State.setM_shared (s : State) (n : BitVec 3) (v : BitVec 128) : (s.setM n v).shared = s.shared := rfl
@[simp] theorem State.setM_buckets (s : State) (n : BitVec 3) (v : BitVec 128) : (s.setM n v).buckets = s.buckets := rfl
@[simp] theorem State.setM_qslots (s : State) (n : BitVec 3) (v : BitVec 128) : (s.setM n v).qslots = s.qslots := rfl
@[simp] theorem State.setM_qnext (s : State) (n : BitVec 3) (v : BitVec 128) : (s.setM n v).qnext = s.qnext := rfl
@[simp] theorem State.setM_funcs (s : State) (n : BitVec 3) (v : BitVec 128) : (s.setM n v).funcs = s.funcs := rfl
@[simp] theorem State.setM_vecs (s : State) (n : BitVec 3) (v : BitVec 128) : (s.setM n v).vecs = s.vecs := rfl
@[simp] theorem State.setM_sent (s : State) (n : BitVec 3) (v : BitVec 128) : (s.setM n v).sent = s.sent := rfl
@[simp] theorem State.setM_atomicOps (s : State) (n : BitVec 3) (v : BitVec 128) : (s.setM n v).atomicOps = s.atomicOps := rfl
@[simp] theorem State.setM_mbpend (s : State) (n : BitVec 3) (v : BitVec 128) : (s.setM n v).mbpend = s.mbpend := rfl
@[simp] theorem State.setM_mailbox (s : State) (n : BitVec 3) (v : BitVec 128) : (s.setM n v).mailbox = s.mailbox := rfl
@[simp] theorem State.setM_attest (s : State) (n : BitVec 3) (v : BitVec 128) : (s.setM n v).attest = s.attest := rfl
@[simp] theorem State.setM_attesting (s : State) (n : BitVec 3) (v : BitVec 128) : (s.setM n v).attesting = s.attesting := rfl
@[simp] theorem State.setM_digest (s : State) (n : BitVec 3) (v : BitVec 128) : (s.setM n v).digest = s.digest := rfl
@[simp] theorem State.setM_stage (s : State) (n : BitVec 3) (v : BitVec 128) : (s.setM n v).stage = s.stage := rfl
@[simp] theorem State.setM_recovery (s : State) (n : BitVec 3) (v : BitVec 128) : (s.setM n v).recovery = s.recovery := rfl
@[simp] theorem State.setM_alarm (s : State) (n : BitVec 3) (v : BitVec 128) : (s.setM n v).alarm = s.alarm := rfl
@[simp] theorem State.setM_outPts (s : State) (n : BitVec 3) (v : BitVec 128) : (s.setM n v).outPts = s.outPts := rfl
@[simp] theorem State.setM_extw (s : State) (n : BitVec 3) (v : BitVec 128) : (s.setM n v).extw = s.extw := rfl
@[simp] theorem State.setM_logs (s : State) (n : BitVec 3) (v : BitVec 128) : (s.setM n v).logs = s.logs := rfl
@[simp] theorem State.setM_ranges (s : State) (n : BitVec 3) (v : BitVec 128) : (s.setM n v).ranges = s.ranges := rfl
@[simp] theorem State.setM_objs (s : State) (n : BitVec 3) (v : BitVec 128) : (s.setM n v).objs = s.objs := rfl
@[simp] theorem State.setM_syms (s : State) (n : BitVec 3) (v : BitVec 128) : (s.setM n v).syms = s.syms := rfl
@[simp] theorem State.setM_barq (s : State) (n : BitVec 3) (v : BitVec 128) : (s.setM n v).barq = s.barq := rfl
@[simp] theorem State.setM_words (s : State) (n : BitVec 3) (v : BitVec 128) : (s.setM n v).words = s.words := rfl
@[simp] theorem State.setM_segs (s : State) (n : BitVec 3) (v : BitVec 128) : (s.setM n v).segs = s.segs := rfl
@[simp] theorem State.setM_names (s : State) (n : BitVec 3) (v : BitVec 128) : (s.setM n v).names = s.names := rfl
@[simp] theorem State.setM_husks (s : State) (n : BitVec 3) (v : BitVec 128) : (s.setM n v).husks = s.husks := rfl
@[simp] theorem State.setM_slots (s : State) (n : BitVec 3) (v : BitVec 128) : (s.setM n v).slots = s.slots := rfl
@[simp] theorem State.setM_pool (s : State) (n : BitVec 3) (v : BitVec 128) : (s.setM n v).pool = s.pool := rfl
@[simp] theorem State.setM_spawns (s : State) (n : BitVec 3) (v : BitVec 128) : (s.setM n v).spawns = s.spawns := rfl
@[simp] theorem State.setM_drains (s : State) (n : BitVec 3) (v : BitVec 128) : (s.setM n v).drains = s.drains := rfl
@[simp] theorem State.setM_expandRr (s : State) (n : BitVec 3) (v : BitVec 128) : (s.setM n v).expandRr = s.expandRr := rfl
@[simp] theorem State.setM_pools (s : State) (n : BitVec 3) (v : BitVec 128) : (s.setM n v).pools = s.pools := rfl
@[simp] theorem State.setM_serial (s : State) (n : BitVec 3) (v : BitVec 128) : (s.setM n v).serial = s.serial := rfl

/-! State.setH. -/

@[simp] theorem State.setH_cur (s : State) (n : BitVec 4) (v : BitVec 16) : (s.setH n v).cur = s.cur := rfl
@[simp] theorem State.setH_ctx (s : State) (n : BitVec 4) (v : BitVec 16) : (s.setH n v).ctx = s.ctx := rfl
@[simp] theorem State.setH_agenda (s : State) (n : BitVec 4) (v : BitVec 16) : (s.setH n v).agenda = s.agenda := rfl
@[simp] theorem State.setH_n (s : State) (n : BitVec 4) (v : BitVec 16) : (s.setH n v).n = s.n := rfl
@[simp] theorem State.setH_fabric (s : State) (n : BitVec 4) (v : BitVec 16) : (s.setH n v).fabric = s.fabric := rfl
@[simp] theorem State.setH_pts64 (s : State) (n : BitVec 4) (v : BitVec 16) : (s.setH n v).pts64 = s.pts64 := rfl
@[simp] theorem State.setH_refills (s : State) (n : BitVec 4) (v : BitVec 16) : (s.setH n v).refills = s.refills := rfl
@[simp] theorem State.setH_powers (s : State) (n : BitVec 4) (v : BitVec 16) : (s.setH n v).powers = s.powers := rfl
@[simp] theorem State.setH_snaps (s : State) (n : BitVec 4) (v : BitVec 16) : (s.setH n v).snaps = s.snaps := rfl
@[simp] theorem State.setH_mem (s : State) (n : BitVec 4) (v : BitVec 16) : (s.setH n v).mem = s.mem := rfl
@[simp] theorem State.setH_lines (s : State) (n : BitVec 4) (v : BitVec 16) : (s.setH n v).lines = s.lines := rfl
@[simp] theorem State.setH_copies (s : State) (n : BitVec 4) (v : BitVec 16) : (s.setH n v).copies = s.copies := rfl
@[simp] theorem State.setH_tlb (s : State) (n : BitVec 4) (v : BitVec 16) : (s.setH n v).tlb = s.tlb := rfl
@[simp] theorem State.setH_walks (s : State) (n : BitVec 4) (v : BitVec 16) : (s.setH n v).walks = s.walks := rfl
@[simp] theorem State.setH_walked (s : State) (n : BitVec 4) (v : BitVec 16) : (s.setH n v).walked = s.walked := rfl
@[simp] theorem State.setH_walkTs (s : State) (n : BitVec 4) (v : BitVec 16) : (s.setH n v).walkTs = s.walkTs := rfl
@[simp] theorem State.setH_cmp (s : State) (n : BitVec 4) (v : BitVec 16) : (s.setH n v).cmp = s.cmp := rfl
@[simp] theorem State.setH_csize (s : State) (n : BitVec 4) (v : BitVec 16) : (s.setH n v).csize = s.csize := rfl
@[simp] theorem State.setH_cmeta (s : State) (n : BitVec 4) (v : BitVec 16) : (s.setH n v).cmeta = s.cmeta := rfl
@[simp] theorem State.setH_endowed (s : State) (n : BitVec 4) (v : BitVec 16) : (s.setH n v).endowed = s.endowed := rfl
@[simp] theorem State.setH_entries (s : State) (n : BitVec 4) (v : BitVec 16) : (s.setH n v).entries = s.entries := rfl
@[simp] theorem State.setH_oids (s : State) (n : BitVec 4) (v : BitVec 16) : (s.setH n v).oids = s.oids := rfl
@[simp] theorem State.setH_notices (s : State) (n : BitVec 4) (v : BitVec 16) : (s.setH n v).notices = s.notices := rfl
@[simp] theorem State.setH_ovf (s : State) (n : BitVec 4) (v : BitVec 16) : (s.setH n v).ovf = s.ovf := rfl
@[simp] theorem State.setH_hooks (s : State) (n : BitVec 4) (v : BitVec 16) : (s.setH n v).hooks = s.hooks := rfl
@[simp] theorem State.setH_domains (s : State) (n : BitVec 4) (v : BitVec 16) : (s.setH n v).domains = s.domains := rfl
@[simp] theorem State.setH_shared (s : State) (n : BitVec 4) (v : BitVec 16) : (s.setH n v).shared = s.shared := rfl
@[simp] theorem State.setH_buckets (s : State) (n : BitVec 4) (v : BitVec 16) : (s.setH n v).buckets = s.buckets := rfl
@[simp] theorem State.setH_qslots (s : State) (n : BitVec 4) (v : BitVec 16) : (s.setH n v).qslots = s.qslots := rfl
@[simp] theorem State.setH_qnext (s : State) (n : BitVec 4) (v : BitVec 16) : (s.setH n v).qnext = s.qnext := rfl
@[simp] theorem State.setH_funcs (s : State) (n : BitVec 4) (v : BitVec 16) : (s.setH n v).funcs = s.funcs := rfl
@[simp] theorem State.setH_vecs (s : State) (n : BitVec 4) (v : BitVec 16) : (s.setH n v).vecs = s.vecs := rfl
@[simp] theorem State.setH_sent (s : State) (n : BitVec 4) (v : BitVec 16) : (s.setH n v).sent = s.sent := rfl
@[simp] theorem State.setH_atomicOps (s : State) (n : BitVec 4) (v : BitVec 16) : (s.setH n v).atomicOps = s.atomicOps := rfl
@[simp] theorem State.setH_mbpend (s : State) (n : BitVec 4) (v : BitVec 16) : (s.setH n v).mbpend = s.mbpend := rfl
@[simp] theorem State.setH_mailbox (s : State) (n : BitVec 4) (v : BitVec 16) : (s.setH n v).mailbox = s.mailbox := rfl
@[simp] theorem State.setH_attest (s : State) (n : BitVec 4) (v : BitVec 16) : (s.setH n v).attest = s.attest := rfl
@[simp] theorem State.setH_attesting (s : State) (n : BitVec 4) (v : BitVec 16) : (s.setH n v).attesting = s.attesting := rfl
@[simp] theorem State.setH_digest (s : State) (n : BitVec 4) (v : BitVec 16) : (s.setH n v).digest = s.digest := rfl
@[simp] theorem State.setH_stage (s : State) (n : BitVec 4) (v : BitVec 16) : (s.setH n v).stage = s.stage := rfl
@[simp] theorem State.setH_recovery (s : State) (n : BitVec 4) (v : BitVec 16) : (s.setH n v).recovery = s.recovery := rfl
@[simp] theorem State.setH_alarm (s : State) (n : BitVec 4) (v : BitVec 16) : (s.setH n v).alarm = s.alarm := rfl
@[simp] theorem State.setH_outPts (s : State) (n : BitVec 4) (v : BitVec 16) : (s.setH n v).outPts = s.outPts := rfl
@[simp] theorem State.setH_extw (s : State) (n : BitVec 4) (v : BitVec 16) : (s.setH n v).extw = s.extw := rfl
@[simp] theorem State.setH_logs (s : State) (n : BitVec 4) (v : BitVec 16) : (s.setH n v).logs = s.logs := rfl
@[simp] theorem State.setH_ranges (s : State) (n : BitVec 4) (v : BitVec 16) : (s.setH n v).ranges = s.ranges := rfl
@[simp] theorem State.setH_objs (s : State) (n : BitVec 4) (v : BitVec 16) : (s.setH n v).objs = s.objs := rfl
@[simp] theorem State.setH_syms (s : State) (n : BitVec 4) (v : BitVec 16) : (s.setH n v).syms = s.syms := rfl
@[simp] theorem State.setH_barq (s : State) (n : BitVec 4) (v : BitVec 16) : (s.setH n v).barq = s.barq := rfl
@[simp] theorem State.setH_words (s : State) (n : BitVec 4) (v : BitVec 16) : (s.setH n v).words = s.words := rfl
@[simp] theorem State.setH_segs (s : State) (n : BitVec 4) (v : BitVec 16) : (s.setH n v).segs = s.segs := rfl
@[simp] theorem State.setH_names (s : State) (n : BitVec 4) (v : BitVec 16) : (s.setH n v).names = s.names := rfl
@[simp] theorem State.setH_husks (s : State) (n : BitVec 4) (v : BitVec 16) : (s.setH n v).husks = s.husks := rfl
@[simp] theorem State.setH_slots (s : State) (n : BitVec 4) (v : BitVec 16) : (s.setH n v).slots = s.slots := rfl
@[simp] theorem State.setH_pool (s : State) (n : BitVec 4) (v : BitVec 16) : (s.setH n v).pool = s.pool := rfl
@[simp] theorem State.setH_spawns (s : State) (n : BitVec 4) (v : BitVec 16) : (s.setH n v).spawns = s.spawns := rfl
@[simp] theorem State.setH_drains (s : State) (n : BitVec 4) (v : BitVec 16) : (s.setH n v).drains = s.drains := rfl
@[simp] theorem State.setH_expandRr (s : State) (n : BitVec 4) (v : BitVec 16) : (s.setH n v).expandRr = s.expandRr := rfl
@[simp] theorem State.setH_pools (s : State) (n : BitVec 4) (v : BitVec 16) : (s.setH n v).pools = s.pools := rfl
@[simp] theorem State.setH_serial (s : State) (n : BitVec 4) (v : BitVec 16) : (s.setH n v).serial = s.serial := rfl

/-! State.setC. -/

@[simp] theorem State.setC_cur (s : State) (n : BitVec 4) (v : BitVec 16) : (s.setC n v).cur = s.cur := rfl
@[simp] theorem State.setC_ctx (s : State) (n : BitVec 4) (v : BitVec 16) : (s.setC n v).ctx = s.ctx := rfl
@[simp] theorem State.setC_agenda (s : State) (n : BitVec 4) (v : BitVec 16) : (s.setC n v).agenda = s.agenda := rfl
@[simp] theorem State.setC_n (s : State) (n : BitVec 4) (v : BitVec 16) : (s.setC n v).n = s.n := rfl
@[simp] theorem State.setC_fabric (s : State) (n : BitVec 4) (v : BitVec 16) : (s.setC n v).fabric = s.fabric := rfl
@[simp] theorem State.setC_pts64 (s : State) (n : BitVec 4) (v : BitVec 16) : (s.setC n v).pts64 = s.pts64 := rfl
@[simp] theorem State.setC_refills (s : State) (n : BitVec 4) (v : BitVec 16) : (s.setC n v).refills = s.refills := rfl
@[simp] theorem State.setC_powers (s : State) (n : BitVec 4) (v : BitVec 16) : (s.setC n v).powers = s.powers := rfl
@[simp] theorem State.setC_snaps (s : State) (n : BitVec 4) (v : BitVec 16) : (s.setC n v).snaps = s.snaps := rfl
@[simp] theorem State.setC_mem (s : State) (n : BitVec 4) (v : BitVec 16) : (s.setC n v).mem = s.mem := rfl
@[simp] theorem State.setC_lines (s : State) (n : BitVec 4) (v : BitVec 16) : (s.setC n v).lines = s.lines := rfl
@[simp] theorem State.setC_copies (s : State) (n : BitVec 4) (v : BitVec 16) : (s.setC n v).copies = s.copies := rfl
@[simp] theorem State.setC_tlb (s : State) (n : BitVec 4) (v : BitVec 16) : (s.setC n v).tlb = s.tlb := rfl
@[simp] theorem State.setC_walks (s : State) (n : BitVec 4) (v : BitVec 16) : (s.setC n v).walks = s.walks := rfl
@[simp] theorem State.setC_walked (s : State) (n : BitVec 4) (v : BitVec 16) : (s.setC n v).walked = s.walked := rfl
@[simp] theorem State.setC_walkTs (s : State) (n : BitVec 4) (v : BitVec 16) : (s.setC n v).walkTs = s.walkTs := rfl
@[simp] theorem State.setC_cmp (s : State) (n : BitVec 4) (v : BitVec 16) : (s.setC n v).cmp = s.cmp := rfl
@[simp] theorem State.setC_csize (s : State) (n : BitVec 4) (v : BitVec 16) : (s.setC n v).csize = s.csize := rfl
@[simp] theorem State.setC_cmeta (s : State) (n : BitVec 4) (v : BitVec 16) : (s.setC n v).cmeta = s.cmeta := rfl
@[simp] theorem State.setC_endowed (s : State) (n : BitVec 4) (v : BitVec 16) : (s.setC n v).endowed = s.endowed := rfl
@[simp] theorem State.setC_entries (s : State) (n : BitVec 4) (v : BitVec 16) : (s.setC n v).entries = s.entries := rfl
@[simp] theorem State.setC_oids (s : State) (n : BitVec 4) (v : BitVec 16) : (s.setC n v).oids = s.oids := rfl
@[simp] theorem State.setC_notices (s : State) (n : BitVec 4) (v : BitVec 16) : (s.setC n v).notices = s.notices := rfl
@[simp] theorem State.setC_ovf (s : State) (n : BitVec 4) (v : BitVec 16) : (s.setC n v).ovf = s.ovf := rfl
@[simp] theorem State.setC_hooks (s : State) (n : BitVec 4) (v : BitVec 16) : (s.setC n v).hooks = s.hooks := rfl
@[simp] theorem State.setC_domains (s : State) (n : BitVec 4) (v : BitVec 16) : (s.setC n v).domains = s.domains := rfl
@[simp] theorem State.setC_shared (s : State) (n : BitVec 4) (v : BitVec 16) : (s.setC n v).shared = s.shared := rfl
@[simp] theorem State.setC_buckets (s : State) (n : BitVec 4) (v : BitVec 16) : (s.setC n v).buckets = s.buckets := rfl
@[simp] theorem State.setC_qslots (s : State) (n : BitVec 4) (v : BitVec 16) : (s.setC n v).qslots = s.qslots := rfl
@[simp] theorem State.setC_qnext (s : State) (n : BitVec 4) (v : BitVec 16) : (s.setC n v).qnext = s.qnext := rfl
@[simp] theorem State.setC_funcs (s : State) (n : BitVec 4) (v : BitVec 16) : (s.setC n v).funcs = s.funcs := rfl
@[simp] theorem State.setC_vecs (s : State) (n : BitVec 4) (v : BitVec 16) : (s.setC n v).vecs = s.vecs := rfl
@[simp] theorem State.setC_sent (s : State) (n : BitVec 4) (v : BitVec 16) : (s.setC n v).sent = s.sent := rfl
@[simp] theorem State.setC_atomicOps (s : State) (n : BitVec 4) (v : BitVec 16) : (s.setC n v).atomicOps = s.atomicOps := rfl
@[simp] theorem State.setC_mbpend (s : State) (n : BitVec 4) (v : BitVec 16) : (s.setC n v).mbpend = s.mbpend := rfl
@[simp] theorem State.setC_mailbox (s : State) (n : BitVec 4) (v : BitVec 16) : (s.setC n v).mailbox = s.mailbox := rfl
@[simp] theorem State.setC_attest (s : State) (n : BitVec 4) (v : BitVec 16) : (s.setC n v).attest = s.attest := rfl
@[simp] theorem State.setC_attesting (s : State) (n : BitVec 4) (v : BitVec 16) : (s.setC n v).attesting = s.attesting := rfl
@[simp] theorem State.setC_digest (s : State) (n : BitVec 4) (v : BitVec 16) : (s.setC n v).digest = s.digest := rfl
@[simp] theorem State.setC_stage (s : State) (n : BitVec 4) (v : BitVec 16) : (s.setC n v).stage = s.stage := rfl
@[simp] theorem State.setC_recovery (s : State) (n : BitVec 4) (v : BitVec 16) : (s.setC n v).recovery = s.recovery := rfl
@[simp] theorem State.setC_alarm (s : State) (n : BitVec 4) (v : BitVec 16) : (s.setC n v).alarm = s.alarm := rfl
@[simp] theorem State.setC_outPts (s : State) (n : BitVec 4) (v : BitVec 16) : (s.setC n v).outPts = s.outPts := rfl
@[simp] theorem State.setC_extw (s : State) (n : BitVec 4) (v : BitVec 16) : (s.setC n v).extw = s.extw := rfl
@[simp] theorem State.setC_logs (s : State) (n : BitVec 4) (v : BitVec 16) : (s.setC n v).logs = s.logs := rfl
@[simp] theorem State.setC_ranges (s : State) (n : BitVec 4) (v : BitVec 16) : (s.setC n v).ranges = s.ranges := rfl
@[simp] theorem State.setC_objs (s : State) (n : BitVec 4) (v : BitVec 16) : (s.setC n v).objs = s.objs := rfl
@[simp] theorem State.setC_syms (s : State) (n : BitVec 4) (v : BitVec 16) : (s.setC n v).syms = s.syms := rfl
@[simp] theorem State.setC_barq (s : State) (n : BitVec 4) (v : BitVec 16) : (s.setC n v).barq = s.barq := rfl
@[simp] theorem State.setC_words (s : State) (n : BitVec 4) (v : BitVec 16) : (s.setC n v).words = s.words := rfl
@[simp] theorem State.setC_segs (s : State) (n : BitVec 4) (v : BitVec 16) : (s.setC n v).segs = s.segs := rfl
@[simp] theorem State.setC_names (s : State) (n : BitVec 4) (v : BitVec 16) : (s.setC n v).names = s.names := rfl
@[simp] theorem State.setC_husks (s : State) (n : BitVec 4) (v : BitVec 16) : (s.setC n v).husks = s.husks := rfl
@[simp] theorem State.setC_slots (s : State) (n : BitVec 4) (v : BitVec 16) : (s.setC n v).slots = s.slots := rfl
@[simp] theorem State.setC_pool (s : State) (n : BitVec 4) (v : BitVec 16) : (s.setC n v).pool = s.pool := rfl
@[simp] theorem State.setC_spawns (s : State) (n : BitVec 4) (v : BitVec 16) : (s.setC n v).spawns = s.spawns := rfl
@[simp] theorem State.setC_drains (s : State) (n : BitVec 4) (v : BitVec 16) : (s.setC n v).drains = s.drains := rfl
@[simp] theorem State.setC_expandRr (s : State) (n : BitVec 4) (v : BitVec 16) : (s.setC n v).expandRr = s.expandRr := rfl
@[simp] theorem State.setC_pools (s : State) (n : BitVec 4) (v : BitVec 16) : (s.setC n v).pools = s.pools := rfl
@[simp] theorem State.setC_serial (s : State) (n : BitVec 4) (v : BitVec 16) : (s.setC n v).serial = s.serial := rfl

/-! State.setV. -/

@[simp] theorem State.setV_cur (s : State) (n : BitVec 5) (v : Nat) : (s.setV n v).cur = s.cur := rfl
@[simp] theorem State.setV_ctx (s : State) (n : BitVec 5) (v : Nat) : (s.setV n v).ctx = s.ctx := rfl
@[simp] theorem State.setV_agenda (s : State) (n : BitVec 5) (v : Nat) : (s.setV n v).agenda = s.agenda := rfl
@[simp] theorem State.setV_n (s : State) (n : BitVec 5) (v : Nat) : (s.setV n v).n = s.n := rfl
@[simp] theorem State.setV_fabric (s : State) (n : BitVec 5) (v : Nat) : (s.setV n v).fabric = s.fabric := rfl
@[simp] theorem State.setV_pts64 (s : State) (n : BitVec 5) (v : Nat) : (s.setV n v).pts64 = s.pts64 := rfl
@[simp] theorem State.setV_refills (s : State) (n : BitVec 5) (v : Nat) : (s.setV n v).refills = s.refills := rfl
@[simp] theorem State.setV_powers (s : State) (n : BitVec 5) (v : Nat) : (s.setV n v).powers = s.powers := rfl
@[simp] theorem State.setV_snaps (s : State) (n : BitVec 5) (v : Nat) : (s.setV n v).snaps = s.snaps := rfl
@[simp] theorem State.setV_mem (s : State) (n : BitVec 5) (v : Nat) : (s.setV n v).mem = s.mem := rfl
@[simp] theorem State.setV_lines (s : State) (n : BitVec 5) (v : Nat) : (s.setV n v).lines = s.lines := rfl
@[simp] theorem State.setV_copies (s : State) (n : BitVec 5) (v : Nat) : (s.setV n v).copies = s.copies := rfl
@[simp] theorem State.setV_tlb (s : State) (n : BitVec 5) (v : Nat) : (s.setV n v).tlb = s.tlb := rfl
@[simp] theorem State.setV_walks (s : State) (n : BitVec 5) (v : Nat) : (s.setV n v).walks = s.walks := rfl
@[simp] theorem State.setV_walked (s : State) (n : BitVec 5) (v : Nat) : (s.setV n v).walked = s.walked := rfl
@[simp] theorem State.setV_walkTs (s : State) (n : BitVec 5) (v : Nat) : (s.setV n v).walkTs = s.walkTs := rfl
@[simp] theorem State.setV_cmp (s : State) (n : BitVec 5) (v : Nat) : (s.setV n v).cmp = s.cmp := rfl
@[simp] theorem State.setV_csize (s : State) (n : BitVec 5) (v : Nat) : (s.setV n v).csize = s.csize := rfl
@[simp] theorem State.setV_cmeta (s : State) (n : BitVec 5) (v : Nat) : (s.setV n v).cmeta = s.cmeta := rfl
@[simp] theorem State.setV_endowed (s : State) (n : BitVec 5) (v : Nat) : (s.setV n v).endowed = s.endowed := rfl
@[simp] theorem State.setV_entries (s : State) (n : BitVec 5) (v : Nat) : (s.setV n v).entries = s.entries := rfl
@[simp] theorem State.setV_oids (s : State) (n : BitVec 5) (v : Nat) : (s.setV n v).oids = s.oids := rfl
@[simp] theorem State.setV_notices (s : State) (n : BitVec 5) (v : Nat) : (s.setV n v).notices = s.notices := rfl
@[simp] theorem State.setV_ovf (s : State) (n : BitVec 5) (v : Nat) : (s.setV n v).ovf = s.ovf := rfl
@[simp] theorem State.setV_hooks (s : State) (n : BitVec 5) (v : Nat) : (s.setV n v).hooks = s.hooks := rfl
@[simp] theorem State.setV_domains (s : State) (n : BitVec 5) (v : Nat) : (s.setV n v).domains = s.domains := rfl
@[simp] theorem State.setV_shared (s : State) (n : BitVec 5) (v : Nat) : (s.setV n v).shared = s.shared := rfl
@[simp] theorem State.setV_buckets (s : State) (n : BitVec 5) (v : Nat) : (s.setV n v).buckets = s.buckets := rfl
@[simp] theorem State.setV_qslots (s : State) (n : BitVec 5) (v : Nat) : (s.setV n v).qslots = s.qslots := rfl
@[simp] theorem State.setV_qnext (s : State) (n : BitVec 5) (v : Nat) : (s.setV n v).qnext = s.qnext := rfl
@[simp] theorem State.setV_funcs (s : State) (n : BitVec 5) (v : Nat) : (s.setV n v).funcs = s.funcs := rfl
@[simp] theorem State.setV_vecs (s : State) (n : BitVec 5) (v : Nat) : (s.setV n v).vecs = s.vecs := rfl
@[simp] theorem State.setV_sent (s : State) (n : BitVec 5) (v : Nat) : (s.setV n v).sent = s.sent := rfl
@[simp] theorem State.setV_atomicOps (s : State) (n : BitVec 5) (v : Nat) : (s.setV n v).atomicOps = s.atomicOps := rfl
@[simp] theorem State.setV_mbpend (s : State) (n : BitVec 5) (v : Nat) : (s.setV n v).mbpend = s.mbpend := rfl
@[simp] theorem State.setV_mailbox (s : State) (n : BitVec 5) (v : Nat) : (s.setV n v).mailbox = s.mailbox := rfl
@[simp] theorem State.setV_attest (s : State) (n : BitVec 5) (v : Nat) : (s.setV n v).attest = s.attest := rfl
@[simp] theorem State.setV_attesting (s : State) (n : BitVec 5) (v : Nat) : (s.setV n v).attesting = s.attesting := rfl
@[simp] theorem State.setV_digest (s : State) (n : BitVec 5) (v : Nat) : (s.setV n v).digest = s.digest := rfl
@[simp] theorem State.setV_stage (s : State) (n : BitVec 5) (v : Nat) : (s.setV n v).stage = s.stage := rfl
@[simp] theorem State.setV_recovery (s : State) (n : BitVec 5) (v : Nat) : (s.setV n v).recovery = s.recovery := rfl
@[simp] theorem State.setV_alarm (s : State) (n : BitVec 5) (v : Nat) : (s.setV n v).alarm = s.alarm := rfl
@[simp] theorem State.setV_outPts (s : State) (n : BitVec 5) (v : Nat) : (s.setV n v).outPts = s.outPts := rfl
@[simp] theorem State.setV_extw (s : State) (n : BitVec 5) (v : Nat) : (s.setV n v).extw = s.extw := rfl
@[simp] theorem State.setV_logs (s : State) (n : BitVec 5) (v : Nat) : (s.setV n v).logs = s.logs := rfl
@[simp] theorem State.setV_ranges (s : State) (n : BitVec 5) (v : Nat) : (s.setV n v).ranges = s.ranges := rfl
@[simp] theorem State.setV_objs (s : State) (n : BitVec 5) (v : Nat) : (s.setV n v).objs = s.objs := rfl
@[simp] theorem State.setV_syms (s : State) (n : BitVec 5) (v : Nat) : (s.setV n v).syms = s.syms := rfl
@[simp] theorem State.setV_barq (s : State) (n : BitVec 5) (v : Nat) : (s.setV n v).barq = s.barq := rfl
@[simp] theorem State.setV_words (s : State) (n : BitVec 5) (v : Nat) : (s.setV n v).words = s.words := rfl
@[simp] theorem State.setV_segs (s : State) (n : BitVec 5) (v : Nat) : (s.setV n v).segs = s.segs := rfl
@[simp] theorem State.setV_names (s : State) (n : BitVec 5) (v : Nat) : (s.setV n v).names = s.names := rfl
@[simp] theorem State.setV_husks (s : State) (n : BitVec 5) (v : Nat) : (s.setV n v).husks = s.husks := rfl
@[simp] theorem State.setV_slots (s : State) (n : BitVec 5) (v : Nat) : (s.setV n v).slots = s.slots := rfl
@[simp] theorem State.setV_pool (s : State) (n : BitVec 5) (v : Nat) : (s.setV n v).pool = s.pool := rfl
@[simp] theorem State.setV_spawns (s : State) (n : BitVec 5) (v : Nat) : (s.setV n v).spawns = s.spawns := rfl
@[simp] theorem State.setV_drains (s : State) (n : BitVec 5) (v : Nat) : (s.setV n v).drains = s.drains := rfl
@[simp] theorem State.setV_expandRr (s : State) (n : BitVec 5) (v : Nat) : (s.setV n v).expandRr = s.expandRr := rfl
@[simp] theorem State.setV_pools (s : State) (n : BitVec 5) (v : Nat) : (s.setV n v).pools = s.pools := rfl
@[simp] theorem State.setV_serial (s : State) (n : BitVec 5) (v : Nat) : (s.setV n v).serial = s.serial := rfl

/-! State.setFlags. -/

@[simp] theorem State.setFlags_cur (s : State) (f : Flags) : (s.setFlags f).cur = s.cur := rfl
@[simp] theorem State.setFlags_ctx (s : State) (f : Flags) : (s.setFlags f).ctx = s.ctx := rfl
@[simp] theorem State.setFlags_agenda (s : State) (f : Flags) : (s.setFlags f).agenda = s.agenda := rfl
@[simp] theorem State.setFlags_n (s : State) (f : Flags) : (s.setFlags f).n = s.n := rfl
@[simp] theorem State.setFlags_fabric (s : State) (f : Flags) : (s.setFlags f).fabric = s.fabric := rfl
@[simp] theorem State.setFlags_pts64 (s : State) (f : Flags) : (s.setFlags f).pts64 = s.pts64 := rfl
@[simp] theorem State.setFlags_refills (s : State) (f : Flags) : (s.setFlags f).refills = s.refills := rfl
@[simp] theorem State.setFlags_powers (s : State) (f : Flags) : (s.setFlags f).powers = s.powers := rfl
@[simp] theorem State.setFlags_snaps (s : State) (f : Flags) : (s.setFlags f).snaps = s.snaps := rfl
@[simp] theorem State.setFlags_mem (s : State) (f : Flags) : (s.setFlags f).mem = s.mem := rfl
@[simp] theorem State.setFlags_lines (s : State) (f : Flags) : (s.setFlags f).lines = s.lines := rfl
@[simp] theorem State.setFlags_copies (s : State) (f : Flags) : (s.setFlags f).copies = s.copies := rfl
@[simp] theorem State.setFlags_tlb (s : State) (f : Flags) : (s.setFlags f).tlb = s.tlb := rfl
@[simp] theorem State.setFlags_walks (s : State) (f : Flags) : (s.setFlags f).walks = s.walks := rfl
@[simp] theorem State.setFlags_walked (s : State) (f : Flags) : (s.setFlags f).walked = s.walked := rfl
@[simp] theorem State.setFlags_walkTs (s : State) (f : Flags) : (s.setFlags f).walkTs = s.walkTs := rfl
@[simp] theorem State.setFlags_cmp (s : State) (f : Flags) : (s.setFlags f).cmp = s.cmp := rfl
@[simp] theorem State.setFlags_csize (s : State) (f : Flags) : (s.setFlags f).csize = s.csize := rfl
@[simp] theorem State.setFlags_cmeta (s : State) (f : Flags) : (s.setFlags f).cmeta = s.cmeta := rfl
@[simp] theorem State.setFlags_endowed (s : State) (f : Flags) : (s.setFlags f).endowed = s.endowed := rfl
@[simp] theorem State.setFlags_entries (s : State) (f : Flags) : (s.setFlags f).entries = s.entries := rfl
@[simp] theorem State.setFlags_oids (s : State) (f : Flags) : (s.setFlags f).oids = s.oids := rfl
@[simp] theorem State.setFlags_notices (s : State) (f : Flags) : (s.setFlags f).notices = s.notices := rfl
@[simp] theorem State.setFlags_ovf (s : State) (f : Flags) : (s.setFlags f).ovf = s.ovf := rfl
@[simp] theorem State.setFlags_hooks (s : State) (f : Flags) : (s.setFlags f).hooks = s.hooks := rfl
@[simp] theorem State.setFlags_domains (s : State) (f : Flags) : (s.setFlags f).domains = s.domains := rfl
@[simp] theorem State.setFlags_shared (s : State) (f : Flags) : (s.setFlags f).shared = s.shared := rfl
@[simp] theorem State.setFlags_buckets (s : State) (f : Flags) : (s.setFlags f).buckets = s.buckets := rfl
@[simp] theorem State.setFlags_qslots (s : State) (f : Flags) : (s.setFlags f).qslots = s.qslots := rfl
@[simp] theorem State.setFlags_qnext (s : State) (f : Flags) : (s.setFlags f).qnext = s.qnext := rfl
@[simp] theorem State.setFlags_funcs (s : State) (f : Flags) : (s.setFlags f).funcs = s.funcs := rfl
@[simp] theorem State.setFlags_vecs (s : State) (f : Flags) : (s.setFlags f).vecs = s.vecs := rfl
@[simp] theorem State.setFlags_sent (s : State) (f : Flags) : (s.setFlags f).sent = s.sent := rfl
@[simp] theorem State.setFlags_atomicOps (s : State) (f : Flags) : (s.setFlags f).atomicOps = s.atomicOps := rfl
@[simp] theorem State.setFlags_mbpend (s : State) (f : Flags) : (s.setFlags f).mbpend = s.mbpend := rfl
@[simp] theorem State.setFlags_mailbox (s : State) (f : Flags) : (s.setFlags f).mailbox = s.mailbox := rfl
@[simp] theorem State.setFlags_attest (s : State) (f : Flags) : (s.setFlags f).attest = s.attest := rfl
@[simp] theorem State.setFlags_attesting (s : State) (f : Flags) : (s.setFlags f).attesting = s.attesting := rfl
@[simp] theorem State.setFlags_digest (s : State) (f : Flags) : (s.setFlags f).digest = s.digest := rfl
@[simp] theorem State.setFlags_stage (s : State) (f : Flags) : (s.setFlags f).stage = s.stage := rfl
@[simp] theorem State.setFlags_recovery (s : State) (f : Flags) : (s.setFlags f).recovery = s.recovery := rfl
@[simp] theorem State.setFlags_alarm (s : State) (f : Flags) : (s.setFlags f).alarm = s.alarm := rfl
@[simp] theorem State.setFlags_outPts (s : State) (f : Flags) : (s.setFlags f).outPts = s.outPts := rfl
@[simp] theorem State.setFlags_extw (s : State) (f : Flags) : (s.setFlags f).extw = s.extw := rfl
@[simp] theorem State.setFlags_logs (s : State) (f : Flags) : (s.setFlags f).logs = s.logs := rfl
@[simp] theorem State.setFlags_ranges (s : State) (f : Flags) : (s.setFlags f).ranges = s.ranges := rfl
@[simp] theorem State.setFlags_objs (s : State) (f : Flags) : (s.setFlags f).objs = s.objs := rfl
@[simp] theorem State.setFlags_syms (s : State) (f : Flags) : (s.setFlags f).syms = s.syms := rfl
@[simp] theorem State.setFlags_barq (s : State) (f : Flags) : (s.setFlags f).barq = s.barq := rfl
@[simp] theorem State.setFlags_words (s : State) (f : Flags) : (s.setFlags f).words = s.words := rfl
@[simp] theorem State.setFlags_segs (s : State) (f : Flags) : (s.setFlags f).segs = s.segs := rfl
@[simp] theorem State.setFlags_names (s : State) (f : Flags) : (s.setFlags f).names = s.names := rfl
@[simp] theorem State.setFlags_husks (s : State) (f : Flags) : (s.setFlags f).husks = s.husks := rfl
@[simp] theorem State.setFlags_slots (s : State) (f : Flags) : (s.setFlags f).slots = s.slots := rfl
@[simp] theorem State.setFlags_pool (s : State) (f : Flags) : (s.setFlags f).pool = s.pool := rfl
@[simp] theorem State.setFlags_spawns (s : State) (f : Flags) : (s.setFlags f).spawns = s.spawns := rfl
@[simp] theorem State.setFlags_drains (s : State) (f : Flags) : (s.setFlags f).drains = s.drains := rfl
@[simp] theorem State.setFlags_expandRr (s : State) (f : Flags) : (s.setFlags f).expandRr = s.expandRr := rfl
@[simp] theorem State.setFlags_pools (s : State) (f : Flags) : (s.setFlags f).pools = s.pools := rfl
@[simp] theorem State.setFlags_serial (s : State) (f : Flags) : (s.setFlags f).serial = s.serial := rfl

/-! State.setWait. -/

@[simp] theorem State.setWait_cur (s : State) (w : Wait) : (s.setWait w).cur = s.cur := rfl
@[simp] theorem State.setWait_ctx (s : State) (w : Wait) : (s.setWait w).ctx = s.ctx := rfl
@[simp] theorem State.setWait_agenda (s : State) (w : Wait) : (s.setWait w).agenda = s.agenda := rfl
@[simp] theorem State.setWait_n (s : State) (w : Wait) : (s.setWait w).n = s.n := rfl
@[simp] theorem State.setWait_fabric (s : State) (w : Wait) : (s.setWait w).fabric = s.fabric := rfl
@[simp] theorem State.setWait_pts64 (s : State) (w : Wait) : (s.setWait w).pts64 = s.pts64 := rfl
@[simp] theorem State.setWait_refills (s : State) (w : Wait) : (s.setWait w).refills = s.refills := rfl
@[simp] theorem State.setWait_powers (s : State) (w : Wait) : (s.setWait w).powers = s.powers := rfl
@[simp] theorem State.setWait_snaps (s : State) (w : Wait) : (s.setWait w).snaps = s.snaps := rfl
@[simp] theorem State.setWait_mem (s : State) (w : Wait) : (s.setWait w).mem = s.mem := rfl
@[simp] theorem State.setWait_lines (s : State) (w : Wait) : (s.setWait w).lines = s.lines := rfl
@[simp] theorem State.setWait_copies (s : State) (w : Wait) : (s.setWait w).copies = s.copies := rfl
@[simp] theorem State.setWait_tlb (s : State) (w : Wait) : (s.setWait w).tlb = s.tlb := rfl
@[simp] theorem State.setWait_walks (s : State) (w : Wait) : (s.setWait w).walks = s.walks := rfl
@[simp] theorem State.setWait_walked (s : State) (w : Wait) : (s.setWait w).walked = s.walked := rfl
@[simp] theorem State.setWait_walkTs (s : State) (w : Wait) : (s.setWait w).walkTs = s.walkTs := rfl
@[simp] theorem State.setWait_cmp (s : State) (w : Wait) : (s.setWait w).cmp = s.cmp := rfl
@[simp] theorem State.setWait_csize (s : State) (w : Wait) : (s.setWait w).csize = s.csize := rfl
@[simp] theorem State.setWait_cmeta (s : State) (w : Wait) : (s.setWait w).cmeta = s.cmeta := rfl
@[simp] theorem State.setWait_endowed (s : State) (w : Wait) : (s.setWait w).endowed = s.endowed := rfl
@[simp] theorem State.setWait_entries (s : State) (w : Wait) : (s.setWait w).entries = s.entries := rfl
@[simp] theorem State.setWait_oids (s : State) (w : Wait) : (s.setWait w).oids = s.oids := rfl
@[simp] theorem State.setWait_notices (s : State) (w : Wait) : (s.setWait w).notices = s.notices := rfl
@[simp] theorem State.setWait_ovf (s : State) (w : Wait) : (s.setWait w).ovf = s.ovf := rfl
@[simp] theorem State.setWait_hooks (s : State) (w : Wait) : (s.setWait w).hooks = s.hooks := rfl
@[simp] theorem State.setWait_domains (s : State) (w : Wait) : (s.setWait w).domains = s.domains := rfl
@[simp] theorem State.setWait_shared (s : State) (w : Wait) : (s.setWait w).shared = s.shared := rfl
@[simp] theorem State.setWait_buckets (s : State) (w : Wait) : (s.setWait w).buckets = s.buckets := rfl
@[simp] theorem State.setWait_qslots (s : State) (w : Wait) : (s.setWait w).qslots = s.qslots := rfl
@[simp] theorem State.setWait_qnext (s : State) (w : Wait) : (s.setWait w).qnext = s.qnext := rfl
@[simp] theorem State.setWait_funcs (s : State) (w : Wait) : (s.setWait w).funcs = s.funcs := rfl
@[simp] theorem State.setWait_vecs (s : State) (w : Wait) : (s.setWait w).vecs = s.vecs := rfl
@[simp] theorem State.setWait_sent (s : State) (w : Wait) : (s.setWait w).sent = s.sent := rfl
@[simp] theorem State.setWait_atomicOps (s : State) (w : Wait) : (s.setWait w).atomicOps = s.atomicOps := rfl
@[simp] theorem State.setWait_mbpend (s : State) (w : Wait) : (s.setWait w).mbpend = s.mbpend := rfl
@[simp] theorem State.setWait_mailbox (s : State) (w : Wait) : (s.setWait w).mailbox = s.mailbox := rfl
@[simp] theorem State.setWait_attest (s : State) (w : Wait) : (s.setWait w).attest = s.attest := rfl
@[simp] theorem State.setWait_attesting (s : State) (w : Wait) : (s.setWait w).attesting = s.attesting := rfl
@[simp] theorem State.setWait_digest (s : State) (w : Wait) : (s.setWait w).digest = s.digest := rfl
@[simp] theorem State.setWait_stage (s : State) (w : Wait) : (s.setWait w).stage = s.stage := rfl
@[simp] theorem State.setWait_recovery (s : State) (w : Wait) : (s.setWait w).recovery = s.recovery := rfl
@[simp] theorem State.setWait_alarm (s : State) (w : Wait) : (s.setWait w).alarm = s.alarm := rfl
@[simp] theorem State.setWait_outPts (s : State) (w : Wait) : (s.setWait w).outPts = s.outPts := rfl
@[simp] theorem State.setWait_extw (s : State) (w : Wait) : (s.setWait w).extw = s.extw := rfl
@[simp] theorem State.setWait_logs (s : State) (w : Wait) : (s.setWait w).logs = s.logs := rfl
@[simp] theorem State.setWait_ranges (s : State) (w : Wait) : (s.setWait w).ranges = s.ranges := rfl
@[simp] theorem State.setWait_objs (s : State) (w : Wait) : (s.setWait w).objs = s.objs := rfl
@[simp] theorem State.setWait_syms (s : State) (w : Wait) : (s.setWait w).syms = s.syms := rfl
@[simp] theorem State.setWait_barq (s : State) (w : Wait) : (s.setWait w).barq = s.barq := rfl
@[simp] theorem State.setWait_words (s : State) (w : Wait) : (s.setWait w).words = s.words := rfl
@[simp] theorem State.setWait_segs (s : State) (w : Wait) : (s.setWait w).segs = s.segs := rfl
@[simp] theorem State.setWait_names (s : State) (w : Wait) : (s.setWait w).names = s.names := rfl
@[simp] theorem State.setWait_husks (s : State) (w : Wait) : (s.setWait w).husks = s.husks := rfl
@[simp] theorem State.setWait_slots (s : State) (w : Wait) : (s.setWait w).slots = s.slots := rfl
@[simp] theorem State.setWait_pool (s : State) (w : Wait) : (s.setWait w).pool = s.pool := rfl
@[simp] theorem State.setWait_spawns (s : State) (w : Wait) : (s.setWait w).spawns = s.spawns := rfl
@[simp] theorem State.setWait_drains (s : State) (w : Wait) : (s.setWait w).drains = s.drains := rfl
@[simp] theorem State.setWait_expandRr (s : State) (w : Wait) : (s.setWait w).expandRr = s.expandRr := rfl
@[simp] theorem State.setWait_pools (s : State) (w : Wait) : (s.setWait w).pools = s.pools := rfl
@[simp] theorem State.setWait_serial (s : State) (w : Wait) : (s.setWait w).serial = s.serial := rfl

/-! Core.setCtx. -/

@[simp] theorem Core.setCtx_last (c : Core) (k : Nat) (x : Ctx) : (c.setCtx k x).last = c.last := rfl
@[simp] theorem Core.setCtx_pool (c : Core) (k : Nat) (x : Ctx) : (c.setCtx k x).pool = c.pool := rfl
@[simp] theorem Core.setCtx_rowGen (c : Core) (k : Nat) (x : Ctx) : (c.setCtx k x).rowGen = c.rowGen := rfl
@[simp] theorem Core.setCtx_written (c : Core) (k : Nat) (x : Ctx) : (c.setCtx k x).written = c.written := rfl
@[simp] theorem Core.setCtx_wid (c : Core) (k : Nat) (x : Ctx) : (c.setCtx k x).wid = c.wid := rfl
@[simp] theorem Core.setCtx_partw (c : Core) (k : Nat) (x : Ctx) : (c.setCtx k x).partw = c.partw := rfl
@[simp] theorem Core.setCtx_decla (c : Core) (k : Nat) (x : Ctx) : (c.setCtx k x).decla = c.decla := rfl
@[simp] theorem Core.setCtx_declb (c : Core) (k : Nat) (x : Ctx) : (c.setCtx k x).declb = c.declb := rfl
@[simp] theorem Core.setCtx_domain (c : Core) (k : Nat) (x : Ctx) : (c.setCtx k x).domain = c.domain := rfl
@[simp] theorem Core.setCtx_prof (c : Core) (k : Nat) (x : Ctx) : (c.setCtx k x).prof = c.prof := rfl
@[simp] theorem Core.setCtx_deadline (c : Core) (k : Nat) (x : Ctx) : (c.setCtx k x).deadline = c.deadline := rfl
@[simp] theorem Core.setCtx_flags (c : Core) (k : Nat) (x : Ctx) : (c.setCtx k x).flags = c.flags := rfl
@[simp] theorem Core.setCtx_ctarget (c : Core) (k : Nat) (x : Ctx) : (c.setCtx k x).ctarget = c.ctarget := rfl
@[simp] theorem Core.setCtx_task (c : Core) (k : Nat) (x : Ctx) : (c.setCtx k x).task = c.task := rfl
@[simp] theorem Core.setCtx_podMsg (c : Core) (k : Nat) (x : Ctx) : (c.setCtx k x).podMsg = c.podMsg := rfl
@[simp] theorem Core.setCtx_installed (c : Core) (k : Nat) (x : Ctx) : (c.setCtx k x).installed = c.installed := rfl
@[simp] theorem Core.setCtx_taskNo (c : Core) (k : Nat) (x : Ctx) : (c.setCtx k x).taskNo = c.taskNo := rfl
@[simp] theorem Core.setCtx_gangId (c : Core) (k : Nat) (x : Ctx) : (c.setCtx k x).gangId = c.gangId := rfl
@[simp] theorem Core.setCtx_loopRet (c : Core) (k : Nat) (x : Ctx) : (c.setCtx k x).loopRet = c.loopRet := rfl
@[simp] theorem Core.setCtx_mxsat (c : Core) (k : Nat) (x : Ctx) : (c.setCtx k x).mxsat = c.mxsat := rfl
@[simp] theorem Core.setCtx_mxnarrow (c : Core) (k : Nat) (x : Ctx) : (c.setCtx k x).mxnarrow = c.mxnarrow := rfl
@[simp] theorem Core.setCtx_cnt (c : Core) (k : Nat) (x : Ctx) : (c.setCtx k x).cnt = c.cnt := rfl
@[simp] theorem Core.setCtx_evsel (c : Core) (k : Nat) (x : Ctx) : (c.setCtx k x).evsel = c.evsel := rfl
@[simp] theorem Core.setCtx_evcyc (c : Core) (k : Nat) (x : Ctx) : (c.setCtx k x).evcyc = c.evcyc := rfl
@[simp] theorem Core.setCtx_uncounted (c : Core) (k : Nat) (x : Ctx) : (c.setCtx k x).uncounted = c.uncounted := rfl
@[simp] theorem Core.setCtx_jcount (c : Core) (k : Nat) (x : Ctx) : (c.setCtx k x).jcount = c.jcount := rfl
@[simp] theorem Core.setCtx_amask (c : Core) (k : Nat) (x : Ctx) : (c.setCtx k x).amask = c.amask := rfl
@[simp] theorem Core.setCtx_gleft (c : Core) (k : Nat) (x : Ctx) : (c.setCtx k x).gleft = c.gleft := rfl
@[simp] theorem Core.setCtx_gformed (c : Core) (k : Nat) (x : Ctx) : (c.setCtx k x).gformed = c.gformed := rfl
@[simp] theorem Core.setCtx_gattached (c : Core) (k : Nat) (x : Ctx) : (c.setCtx k x).gattached = c.gattached := rfl
@[simp] theorem Core.setCtx_gfollowed (c : Core) (k : Nat) (x : Ctx) : (c.setCtx k x).gfollowed = c.gfollowed := rfl
@[simp] theorem Core.setCtx_bars (c : Core) (k : Nat) (x : Ctx) : (c.setCtx k x).bars = c.bars := rfl
@[simp] theorem Core.setCtx_attach (c : Core) (k : Nat) (x : Ctx) : (c.setCtx k x).attach = c.attach := rfl
@[simp] theorem Core.setCtx_futs (c : Core) (k : Nat) (x : Ctx) : (c.setCtx k x).futs = c.futs := rfl
@[simp] theorem Core.setCtx_mxRing (c : Core) (k : Nat) (x : Ctx) : (c.setCtx k x).mxRing = c.mxRing := rfl
@[simp] theorem Core.setCtx_cpRing (c : Core) (k : Nat) (x : Ctx) : (c.setCtx k x).cpRing = c.cpRing := rfl
@[simp] theorem Core.setCtx_bbufs (c : Core) (k : Nat) (x : Ctx) : (c.setCtx k x).bbufs = c.bbufs := rfl
@[simp] theorem Core.setCtx_pods (c : Core) (k : Nat) (x : Ctx) : (c.setCtx k x).pods = c.pods := rfl
@[simp] theorem Core.setCtx_applyQ (c : Core) (k : Nat) (x : Ctx) : (c.setCtx k x).applyQ = c.applyQ := rfl
@[simp] theorem Core.setCtx_inbox (c : Core) (k : Nat) (x : Ctx) : (c.setCtx k x).inbox = c.inbox := rfl
@[simp] theorem Core.setCtx_tmax (c : Core) (k : Nat) (x : Ctx) : (c.setCtx k x).tmax = c.tmax := rfl
@[simp] theorem Core.setCtx_kcause (c : Core) (k : Nat) (x : Ctx) : (c.setCtx k x).kcause = c.kcause := rfl
@[simp] theorem Core.setCtx_kepc (c : Core) (k : Nat) (x : Ctx) : (c.setCtx k x).kepc = c.kepc := rfl
@[simp] theorem Core.setCtx_ktval (c : Core) (k : Nat) (x : Ctx) : (c.setCtx k x).ktval = c.ktval := rfl
@[simp] theorem Core.setCtx_ktick (c : Core) (k : Nat) (x : Ctx) : (c.setCtx k x).ktick = c.ktick := rfl
@[simp] theorem Core.setCtx_khusk (c : Core) (k : Nat) (x : Ctx) : (c.setCtx k x).khusk = c.khusk := rfl
@[simp] theorem Core.setCtx_khuskBy (c : Core) (k : Nat) (x : Ctx) : (c.setCtx k x).khuskBy = c.khuskBy := rfl
@[simp] theorem Core.setCtx_kresume (c : Core) (k : Nat) (x : Ctx) : (c.setCtx k x).kresume = c.kresume := rfl
@[simp] theorem Core.setCtx_waddr (c : Core) (k : Nat) (x : Ctx) : (c.setCtx k x).waddr = c.waddr := rfl
@[simp] theorem Core.setCtx_wctl (c : Core) (k : Nat) (x : Ctx) : (c.setCtx k x).wctl = c.wctl := rfl
@[simp] theorem Core.setCtx_kpts (c : Core) (k : Nat) (x : Ctx) : (c.setCtx k x).kpts = c.kpts := rfl
@[simp] theorem Core.setCtx_past (c : Core) (k : Nat) (x : Ctx) : (c.setCtx k x).past = c.past := rfl
@[simp] theorem Core.setCtx_touched (c : Core) (k : Nat) (x : Ctx) : (c.setCtx k x).touched = c.touched := rfl
@[simp] theorem Core.setCtx_hstat (c : Core) (k : Nat) (x : Ctx) : (c.setCtx k x).hstat = c.hstat := rfl
@[simp] theorem Core.setCtx_hclass (c : Core) (k : Nat) (x : Ctx) : (c.setCtx k x).hclass = c.hclass := rfl
@[simp] theorem Core.setCtx_hblocks (c : Core) (k : Nat) (x : Ctx) : (c.setCtx k x).hblocks = c.hblocks := rfl
@[simp] theorem Core.setCtx_stop (c : Core) (k : Nat) (x : Ctx) : (c.setCtx k x).stop = c.stop := rfl
@[simp] theorem Core.setCtx_held (c : Core) (k : Nat) (x : Ctx) : (c.setCtx k x).held = c.held := rfl
@[simp] theorem Core.setCtx_resumeAt (c : Core) (k : Nat) (x : Ctx) : (c.setCtx k x).resumeAt = c.resumeAt := rfl
@[simp] theorem Core.setCtx_clk (c : Core) (k : Nat) (x : Ctx) : (c.setCtx k x).clk = c.clk := rfl
@[simp] theorem Core.setCtx_frac (c : Core) (k : Nat) (x : Ctx) : (c.setCtx k x).frac = c.frac := rfl
@[simp] theorem Core.setCtx_gated (c : Core) (k : Nat) (x : Ctx) : (c.setCtx k x).gated = c.gated := rfl
@[simp] theorem Core.setCtx_image (c : Core) (k : Nat) (x : Ctx) : (c.setCtx k x).image = c.image := rfl
@[simp] theorem Core.setCtx_ibuf (c : Core) (k : Nat) (x : Ctx) : (c.setCtx k x).ibuf = c.ibuf := rfl
@[simp] theorem Core.setCtx_wbuf (c : Core) (k : Nat) (x : Ctx) : (c.setCtx k x).wbuf = c.wbuf := rfl
@[simp] theorem Core.setCtx_engWait (c : Core) (k : Nat) (x : Ctx) : (c.setCtx k x).engWait = c.engWait := rfl

/-! Core.setRow. -/

@[simp] theorem Core.setRow_ctxs (c : Core) (r v : Nat) : (c.setRow r v).ctxs = c.ctxs := rfl
@[simp] theorem Core.setRow_last (c : Core) (r v : Nat) : (c.setRow r v).last = c.last := rfl
@[simp] theorem Core.setRow_rowGen (c : Core) (r v : Nat) : (c.setRow r v).rowGen = c.rowGen := rfl
@[simp] theorem Core.setRow_wid (c : Core) (r v : Nat) : (c.setRow r v).wid = c.wid := rfl
@[simp] theorem Core.setRow_partw (c : Core) (r v : Nat) : (c.setRow r v).partw = c.partw := rfl
@[simp] theorem Core.setRow_decla (c : Core) (r v : Nat) : (c.setRow r v).decla = c.decla := rfl
@[simp] theorem Core.setRow_declb (c : Core) (r v : Nat) : (c.setRow r v).declb = c.declb := rfl
@[simp] theorem Core.setRow_domain (c : Core) (r v : Nat) : (c.setRow r v).domain = c.domain := rfl
@[simp] theorem Core.setRow_prof (c : Core) (r v : Nat) : (c.setRow r v).prof = c.prof := rfl
@[simp] theorem Core.setRow_deadline (c : Core) (r v : Nat) : (c.setRow r v).deadline = c.deadline := rfl
@[simp] theorem Core.setRow_flags (c : Core) (r v : Nat) : (c.setRow r v).flags = c.flags := rfl
@[simp] theorem Core.setRow_ctarget (c : Core) (r v : Nat) : (c.setRow r v).ctarget = c.ctarget := rfl
@[simp] theorem Core.setRow_task (c : Core) (r v : Nat) : (c.setRow r v).task = c.task := rfl
@[simp] theorem Core.setRow_podMsg (c : Core) (r v : Nat) : (c.setRow r v).podMsg = c.podMsg := rfl
@[simp] theorem Core.setRow_installed (c : Core) (r v : Nat) : (c.setRow r v).installed = c.installed := rfl
@[simp] theorem Core.setRow_taskNo (c : Core) (r v : Nat) : (c.setRow r v).taskNo = c.taskNo := rfl
@[simp] theorem Core.setRow_gangId (c : Core) (r v : Nat) : (c.setRow r v).gangId = c.gangId := rfl
@[simp] theorem Core.setRow_loopRet (c : Core) (r v : Nat) : (c.setRow r v).loopRet = c.loopRet := rfl
@[simp] theorem Core.setRow_mxsat (c : Core) (r v : Nat) : (c.setRow r v).mxsat = c.mxsat := rfl
@[simp] theorem Core.setRow_mxnarrow (c : Core) (r v : Nat) : (c.setRow r v).mxnarrow = c.mxnarrow := rfl
@[simp] theorem Core.setRow_cnt (c : Core) (r v : Nat) : (c.setRow r v).cnt = c.cnt := rfl
@[simp] theorem Core.setRow_evsel (c : Core) (r v : Nat) : (c.setRow r v).evsel = c.evsel := rfl
@[simp] theorem Core.setRow_evcyc (c : Core) (r v : Nat) : (c.setRow r v).evcyc = c.evcyc := rfl
@[simp] theorem Core.setRow_uncounted (c : Core) (r v : Nat) : (c.setRow r v).uncounted = c.uncounted := rfl
@[simp] theorem Core.setRow_jcount (c : Core) (r v : Nat) : (c.setRow r v).jcount = c.jcount := rfl
@[simp] theorem Core.setRow_amask (c : Core) (r v : Nat) : (c.setRow r v).amask = c.amask := rfl
@[simp] theorem Core.setRow_gleft (c : Core) (r v : Nat) : (c.setRow r v).gleft = c.gleft := rfl
@[simp] theorem Core.setRow_gformed (c : Core) (r v : Nat) : (c.setRow r v).gformed = c.gformed := rfl
@[simp] theorem Core.setRow_gattached (c : Core) (r v : Nat) : (c.setRow r v).gattached = c.gattached := rfl
@[simp] theorem Core.setRow_gfollowed (c : Core) (r v : Nat) : (c.setRow r v).gfollowed = c.gfollowed := rfl
@[simp] theorem Core.setRow_bars (c : Core) (r v : Nat) : (c.setRow r v).bars = c.bars := rfl
@[simp] theorem Core.setRow_attach (c : Core) (r v : Nat) : (c.setRow r v).attach = c.attach := rfl
@[simp] theorem Core.setRow_futs (c : Core) (r v : Nat) : (c.setRow r v).futs = c.futs := rfl
@[simp] theorem Core.setRow_mxRing (c : Core) (r v : Nat) : (c.setRow r v).mxRing = c.mxRing := rfl
@[simp] theorem Core.setRow_cpRing (c : Core) (r v : Nat) : (c.setRow r v).cpRing = c.cpRing := rfl
@[simp] theorem Core.setRow_bbufs (c : Core) (r v : Nat) : (c.setRow r v).bbufs = c.bbufs := rfl
@[simp] theorem Core.setRow_pods (c : Core) (r v : Nat) : (c.setRow r v).pods = c.pods := rfl
@[simp] theorem Core.setRow_applyQ (c : Core) (r v : Nat) : (c.setRow r v).applyQ = c.applyQ := rfl
@[simp] theorem Core.setRow_inbox (c : Core) (r v : Nat) : (c.setRow r v).inbox = c.inbox := rfl
@[simp] theorem Core.setRow_tmax (c : Core) (r v : Nat) : (c.setRow r v).tmax = c.tmax := rfl
@[simp] theorem Core.setRow_kcause (c : Core) (r v : Nat) : (c.setRow r v).kcause = c.kcause := rfl
@[simp] theorem Core.setRow_kepc (c : Core) (r v : Nat) : (c.setRow r v).kepc = c.kepc := rfl
@[simp] theorem Core.setRow_ktval (c : Core) (r v : Nat) : (c.setRow r v).ktval = c.ktval := rfl
@[simp] theorem Core.setRow_ktick (c : Core) (r v : Nat) : (c.setRow r v).ktick = c.ktick := rfl
@[simp] theorem Core.setRow_khusk (c : Core) (r v : Nat) : (c.setRow r v).khusk = c.khusk := rfl
@[simp] theorem Core.setRow_khuskBy (c : Core) (r v : Nat) : (c.setRow r v).khuskBy = c.khuskBy := rfl
@[simp] theorem Core.setRow_kresume (c : Core) (r v : Nat) : (c.setRow r v).kresume = c.kresume := rfl
@[simp] theorem Core.setRow_waddr (c : Core) (r v : Nat) : (c.setRow r v).waddr = c.waddr := rfl
@[simp] theorem Core.setRow_wctl (c : Core) (r v : Nat) : (c.setRow r v).wctl = c.wctl := rfl
@[simp] theorem Core.setRow_kpts (c : Core) (r v : Nat) : (c.setRow r v).kpts = c.kpts := rfl
@[simp] theorem Core.setRow_past (c : Core) (r v : Nat) : (c.setRow r v).past = c.past := rfl
@[simp] theorem Core.setRow_touched (c : Core) (r v : Nat) : (c.setRow r v).touched = c.touched := rfl
@[simp] theorem Core.setRow_hstat (c : Core) (r v : Nat) : (c.setRow r v).hstat = c.hstat := rfl
@[simp] theorem Core.setRow_hclass (c : Core) (r v : Nat) : (c.setRow r v).hclass = c.hclass := rfl
@[simp] theorem Core.setRow_hblocks (c : Core) (r v : Nat) : (c.setRow r v).hblocks = c.hblocks := rfl
@[simp] theorem Core.setRow_stop (c : Core) (r v : Nat) : (c.setRow r v).stop = c.stop := rfl
@[simp] theorem Core.setRow_held (c : Core) (r v : Nat) : (c.setRow r v).held = c.held := rfl
@[simp] theorem Core.setRow_resumeAt (c : Core) (r v : Nat) : (c.setRow r v).resumeAt = c.resumeAt := rfl
@[simp] theorem Core.setRow_clk (c : Core) (r v : Nat) : (c.setRow r v).clk = c.clk := rfl
@[simp] theorem Core.setRow_frac (c : Core) (r v : Nat) : (c.setRow r v).frac = c.frac := rfl
@[simp] theorem Core.setRow_gated (c : Core) (r v : Nat) : (c.setRow r v).gated = c.gated := rfl
@[simp] theorem Core.setRow_image (c : Core) (r v : Nat) : (c.setRow r v).image = c.image := rfl
@[simp] theorem Core.setRow_ibuf (c : Core) (r v : Nat) : (c.setRow r v).ibuf = c.ibuf := rfl
@[simp] theorem Core.setRow_engWait (c : Core) (r v : Nat) : (c.setRow r v).engWait = c.engWait := rfl

/-! Ctx.setX. -/

@[simp] theorem Ctx.setX_st (c : Ctx) (n : BitVec 5) (v : Word) : (c.setX n v).st = c.st := by unfold Ctx.setX; split <;> rfl
@[simp] theorem Ctx.setX_detached (c : Ctx) (n : BitVec 5) (v : Word) : (c.setX n v).detached = c.detached := by unfold Ctx.setX; split <;> rfl
@[simp] theorem Ctx.setX_pc (c : Ctx) (n : BitVec 5) (v : Word) : (c.setX n v).pc = c.pc := by unfold Ctx.setX; split <;> rfl
@[simp] theorem Ctx.setX_m (c : Ctx) (n : BitVec 5) (v : Word) : (c.setX n v).m = c.m := by unfold Ctx.setX; split <;> rfl
@[simp] theorem Ctx.setX_h (c : Ctx) (n : BitVec 5) (v : Word) : (c.setX n v).h = c.h := by unfold Ctx.setX; split <;> rfl
@[simp] theorem Ctx.setX_c (c : Ctx) (n : BitVec 5) (v : Word) : (c.setX n v).c = c.c := by unfold Ctx.setX; split <;> rfl
@[simp] theorem Ctx.setX_rrb (c : Ctx) (n : BitVec 5) (v : Word) : (c.setX n v).rrb = c.rrb := by unfold Ctx.setX; split <;> rfl
@[simp] theorem Ctx.setX_trapvec (c : Ctx) (n : BitVec 5) (v : Word) : (c.setX n v).trapvec = c.trapvec := by unfold Ctx.setX; split <;> rfl
@[simp] theorem Ctx.setX_epc (c : Ctx) (n : BitVec 5) (v : Word) : (c.setX n v).epc = c.epc := by unfold Ctx.setX; split <;> rfl
@[simp] theorem Ctx.setX_cause (c : Ctx) (n : BitVec 5) (v : Word) : (c.setX n v).cause = c.cause := by unfold Ctx.setX; split <;> rfl
@[simp] theorem Ctx.setX_tval (c : Ctx) (n : BitVec 5) (v : Word) : (c.setX n v).tval = c.tval := by unfold Ctx.setX; split <;> rfl
@[simp] theorem Ctx.setX_tstep (c : Ctx) (n : BitVec 5) (v : Word) : (c.setX n v).tstep = c.tstep := by unfold Ctx.setX; split <;> rfl
@[simp] theorem Ctx.setX_tin (c : Ctx) (n : BitVec 5) (v : Word) : (c.setX n v).tin = c.tin := by unfold Ctx.setX; split <;> rfl
@[simp] theorem Ctx.setX_stacklim (c : Ctx) (n : BitVec 5) (v : Word) : (c.setX n v).stacklim = c.stacklim := by unfold Ctx.setX; split <;> rfl
@[simp] theorem Ctx.setX_fpflags (c : Ctx) (n : BitVec 5) (v : Word) : (c.setX n v).fpflags = c.fpflags := by unfold Ctx.setX; split <;> rfl
@[simp] theorem Ctx.setX_istat (c : Ctx) (n : BitVec 5) (v : Word) : (c.setX n v).istat = c.istat := by unfold Ctx.setX; split <;> rfl
@[simp] theorem Ctx.setX_endv (c : Ctx) (n : BitVec 5) (v : Word) : (c.setX n v).endv = c.endv := by unfold Ctx.setX; split <;> rfl
@[simp] theorem Ctx.setX_wait (c : Ctx) (n : BitVec 5) (v : Word) : (c.setX n v).wait = c.wait := by unfold Ctx.setX; split <;> rfl
@[simp] theorem Ctx.setX_pts (c : Ctx) (n : BitVec 5) (v : Word) : (c.setX n v).pts = c.pts := by unfold Ctx.setX; split <;> rfl
@[simp] theorem Ctx.setX_pend (c : Ctx) (n : BitVec 5) (v : Word) : (c.setX n v).pend = c.pend := by unfold Ctx.setX; split <;> rfl
@[simp] theorem Ctx.setX_aph (c : Ctx) (n : BitVec 5) (v : Word) : (c.setX n v).aph = c.aph := by unfold Ctx.setX; split <;> rfl
@[simp] theorem Ctx.setX_dropped (c : Ctx) (n : BitVec 5) (v : Word) : (c.setX n v).dropped = c.dropped := by unfold Ctx.setX; split <;> rfl
@[simp] theorem Ctx.setX_loading (c : Ctx) (n : BitVec 5) (v : Word) : (c.setX n v).loading = c.loading := by unfold Ctx.setX; split <;> rfl
@[simp] theorem Ctx.setX_storing (c : Ctx) (n : BitVec 5) (v : Word) : (c.setX n v).storing = c.storing := by unfold Ctx.setX; split <;> rfl
@[simp] theorem Ctx.setX_extOut (c : Ctx) (n : BitVec 5) (v : Word) : (c.setX n v).extOut = c.extOut := by unfold Ctx.setX; split <;> rfl
@[simp] theorem Ctx.setX_ext (c : Ctx) (n : BitVec 5) (v : Word) : (c.setX n v).ext = c.ext := by unfold Ctx.setX; split <;> rfl
@[simp] theorem Ctx.setX_ifence (c : Ctx) (n : BitVec 5) (v : Word) : (c.setX n v).ifence = c.ifence := by unfold Ctx.setX; split <;> rfl
@[simp] theorem Ctx.setX_bans (c : Ctx) (n : BitVec 5) (v : Word) : (c.setX n v).bans = c.bans := by unfold Ctx.setX; split <;> rfl
@[simp] theorem Ctx.setX_shape (c : Ctx) (n : BitVec 5) (v : Word) : (c.setX n v).shape = c.shape := by unfold Ctx.setX; split <;> rfl

/-! Ctx.setM. -/

@[simp] theorem Ctx.setM_st (c : Ctx) (n : BitVec 3) (v : BitVec 128) : (c.setM n v).st = c.st := by unfold Ctx.setM; split <;> rfl
@[simp] theorem Ctx.setM_detached (c : Ctx) (n : BitVec 3) (v : BitVec 128) : (c.setM n v).detached = c.detached := by unfold Ctx.setM; split <;> rfl
@[simp] theorem Ctx.setM_pc (c : Ctx) (n : BitVec 3) (v : BitVec 128) : (c.setM n v).pc = c.pc := by unfold Ctx.setM; split <;> rfl
@[simp] theorem Ctx.setM_x (c : Ctx) (n : BitVec 3) (v : BitVec 128) : (c.setM n v).x = c.x := by unfold Ctx.setM; split <;> rfl
@[simp] theorem Ctx.setM_h (c : Ctx) (n : BitVec 3) (v : BitVec 128) : (c.setM n v).h = c.h := by unfold Ctx.setM; split <;> rfl
@[simp] theorem Ctx.setM_c (c : Ctx) (n : BitVec 3) (v : BitVec 128) : (c.setM n v).c = c.c := by unfold Ctx.setM; split <;> rfl
@[simp] theorem Ctx.setM_rrb (c : Ctx) (n : BitVec 3) (v : BitVec 128) : (c.setM n v).rrb = c.rrb := by unfold Ctx.setM; split <;> rfl
@[simp] theorem Ctx.setM_trapvec (c : Ctx) (n : BitVec 3) (v : BitVec 128) : (c.setM n v).trapvec = c.trapvec := by unfold Ctx.setM; split <;> rfl
@[simp] theorem Ctx.setM_epc (c : Ctx) (n : BitVec 3) (v : BitVec 128) : (c.setM n v).epc = c.epc := by unfold Ctx.setM; split <;> rfl
@[simp] theorem Ctx.setM_cause (c : Ctx) (n : BitVec 3) (v : BitVec 128) : (c.setM n v).cause = c.cause := by unfold Ctx.setM; split <;> rfl
@[simp] theorem Ctx.setM_tval (c : Ctx) (n : BitVec 3) (v : BitVec 128) : (c.setM n v).tval = c.tval := by unfold Ctx.setM; split <;> rfl
@[simp] theorem Ctx.setM_tstep (c : Ctx) (n : BitVec 3) (v : BitVec 128) : (c.setM n v).tstep = c.tstep := by unfold Ctx.setM; split <;> rfl
@[simp] theorem Ctx.setM_tin (c : Ctx) (n : BitVec 3) (v : BitVec 128) : (c.setM n v).tin = c.tin := by unfold Ctx.setM; split <;> rfl
@[simp] theorem Ctx.setM_stacklim (c : Ctx) (n : BitVec 3) (v : BitVec 128) : (c.setM n v).stacklim = c.stacklim := by unfold Ctx.setM; split <;> rfl
@[simp] theorem Ctx.setM_fpflags (c : Ctx) (n : BitVec 3) (v : BitVec 128) : (c.setM n v).fpflags = c.fpflags := by unfold Ctx.setM; split <;> rfl
@[simp] theorem Ctx.setM_istat (c : Ctx) (n : BitVec 3) (v : BitVec 128) : (c.setM n v).istat = c.istat := by unfold Ctx.setM; split <;> rfl
@[simp] theorem Ctx.setM_endv (c : Ctx) (n : BitVec 3) (v : BitVec 128) : (c.setM n v).endv = c.endv := by unfold Ctx.setM; split <;> rfl
@[simp] theorem Ctx.setM_wait (c : Ctx) (n : BitVec 3) (v : BitVec 128) : (c.setM n v).wait = c.wait := by unfold Ctx.setM; split <;> rfl
@[simp] theorem Ctx.setM_pts (c : Ctx) (n : BitVec 3) (v : BitVec 128) : (c.setM n v).pts = c.pts := by unfold Ctx.setM; split <;> rfl
@[simp] theorem Ctx.setM_pend (c : Ctx) (n : BitVec 3) (v : BitVec 128) : (c.setM n v).pend = c.pend := by unfold Ctx.setM; split <;> rfl
@[simp] theorem Ctx.setM_aph (c : Ctx) (n : BitVec 3) (v : BitVec 128) : (c.setM n v).aph = c.aph := by unfold Ctx.setM; split <;> rfl
@[simp] theorem Ctx.setM_dropped (c : Ctx) (n : BitVec 3) (v : BitVec 128) : (c.setM n v).dropped = c.dropped := by unfold Ctx.setM; split <;> rfl
@[simp] theorem Ctx.setM_loading (c : Ctx) (n : BitVec 3) (v : BitVec 128) : (c.setM n v).loading = c.loading := by unfold Ctx.setM; split <;> rfl
@[simp] theorem Ctx.setM_storing (c : Ctx) (n : BitVec 3) (v : BitVec 128) : (c.setM n v).storing = c.storing := by unfold Ctx.setM; split <;> rfl
@[simp] theorem Ctx.setM_extOut (c : Ctx) (n : BitVec 3) (v : BitVec 128) : (c.setM n v).extOut = c.extOut := by unfold Ctx.setM; split <;> rfl
@[simp] theorem Ctx.setM_ext (c : Ctx) (n : BitVec 3) (v : BitVec 128) : (c.setM n v).ext = c.ext := by unfold Ctx.setM; split <;> rfl
@[simp] theorem Ctx.setM_ifence (c : Ctx) (n : BitVec 3) (v : BitVec 128) : (c.setM n v).ifence = c.ifence := by unfold Ctx.setM; split <;> rfl
@[simp] theorem Ctx.setM_bans (c : Ctx) (n : BitVec 3) (v : BitVec 128) : (c.setM n v).bans = c.bans := by unfold Ctx.setM; split <;> rfl
@[simp] theorem Ctx.setM_shape (c : Ctx) (n : BitVec 3) (v : BitVec 128) : (c.setM n v).shape = c.shape := by unfold Ctx.setM; split <;> rfl

/-! Ctx.setH. -/

@[simp] theorem Ctx.setH_st (c : Ctx) (n : BitVec 4) (v : BitVec 16) : (c.setH n v).st = c.st := rfl
@[simp] theorem Ctx.setH_detached (c : Ctx) (n : BitVec 4) (v : BitVec 16) : (c.setH n v).detached = c.detached := rfl
@[simp] theorem Ctx.setH_pc (c : Ctx) (n : BitVec 4) (v : BitVec 16) : (c.setH n v).pc = c.pc := rfl
@[simp] theorem Ctx.setH_x (c : Ctx) (n : BitVec 4) (v : BitVec 16) : (c.setH n v).x = c.x := rfl
@[simp] theorem Ctx.setH_m (c : Ctx) (n : BitVec 4) (v : BitVec 16) : (c.setH n v).m = c.m := rfl
@[simp] theorem Ctx.setH_c (c : Ctx) (n : BitVec 4) (v : BitVec 16) : (c.setH n v).c = c.c := rfl
@[simp] theorem Ctx.setH_rrb (c : Ctx) (n : BitVec 4) (v : BitVec 16) : (c.setH n v).rrb = c.rrb := rfl
@[simp] theorem Ctx.setH_trapvec (c : Ctx) (n : BitVec 4) (v : BitVec 16) : (c.setH n v).trapvec = c.trapvec := rfl
@[simp] theorem Ctx.setH_epc (c : Ctx) (n : BitVec 4) (v : BitVec 16) : (c.setH n v).epc = c.epc := rfl
@[simp] theorem Ctx.setH_cause (c : Ctx) (n : BitVec 4) (v : BitVec 16) : (c.setH n v).cause = c.cause := rfl
@[simp] theorem Ctx.setH_tval (c : Ctx) (n : BitVec 4) (v : BitVec 16) : (c.setH n v).tval = c.tval := rfl
@[simp] theorem Ctx.setH_tstep (c : Ctx) (n : BitVec 4) (v : BitVec 16) : (c.setH n v).tstep = c.tstep := rfl
@[simp] theorem Ctx.setH_tin (c : Ctx) (n : BitVec 4) (v : BitVec 16) : (c.setH n v).tin = c.tin := rfl
@[simp] theorem Ctx.setH_stacklim (c : Ctx) (n : BitVec 4) (v : BitVec 16) : (c.setH n v).stacklim = c.stacklim := rfl
@[simp] theorem Ctx.setH_fpflags (c : Ctx) (n : BitVec 4) (v : BitVec 16) : (c.setH n v).fpflags = c.fpflags := rfl
@[simp] theorem Ctx.setH_istat (c : Ctx) (n : BitVec 4) (v : BitVec 16) : (c.setH n v).istat = c.istat := rfl
@[simp] theorem Ctx.setH_endv (c : Ctx) (n : BitVec 4) (v : BitVec 16) : (c.setH n v).endv = c.endv := rfl
@[simp] theorem Ctx.setH_wait (c : Ctx) (n : BitVec 4) (v : BitVec 16) : (c.setH n v).wait = c.wait := rfl
@[simp] theorem Ctx.setH_pts (c : Ctx) (n : BitVec 4) (v : BitVec 16) : (c.setH n v).pts = c.pts := rfl
@[simp] theorem Ctx.setH_pend (c : Ctx) (n : BitVec 4) (v : BitVec 16) : (c.setH n v).pend = c.pend := rfl
@[simp] theorem Ctx.setH_aph (c : Ctx) (n : BitVec 4) (v : BitVec 16) : (c.setH n v).aph = c.aph := rfl
@[simp] theorem Ctx.setH_dropped (c : Ctx) (n : BitVec 4) (v : BitVec 16) : (c.setH n v).dropped = c.dropped := rfl
@[simp] theorem Ctx.setH_loading (c : Ctx) (n : BitVec 4) (v : BitVec 16) : (c.setH n v).loading = c.loading := rfl
@[simp] theorem Ctx.setH_storing (c : Ctx) (n : BitVec 4) (v : BitVec 16) : (c.setH n v).storing = c.storing := rfl
@[simp] theorem Ctx.setH_extOut (c : Ctx) (n : BitVec 4) (v : BitVec 16) : (c.setH n v).extOut = c.extOut := rfl
@[simp] theorem Ctx.setH_ext (c : Ctx) (n : BitVec 4) (v : BitVec 16) : (c.setH n v).ext = c.ext := rfl
@[simp] theorem Ctx.setH_ifence (c : Ctx) (n : BitVec 4) (v : BitVec 16) : (c.setH n v).ifence = c.ifence := rfl
@[simp] theorem Ctx.setH_bans (c : Ctx) (n : BitVec 4) (v : BitVec 16) : (c.setH n v).bans = c.bans := rfl
@[simp] theorem Ctx.setH_shape (c : Ctx) (n : BitVec 4) (v : BitVec 16) : (c.setH n v).shape = c.shape := rfl

/-! Ctx.setC. -/

@[simp] theorem Ctx.setC_st (c : Ctx) (n : BitVec 4) (v : BitVec 16) : (c.setC n v).st = c.st := rfl
@[simp] theorem Ctx.setC_detached (c : Ctx) (n : BitVec 4) (v : BitVec 16) : (c.setC n v).detached = c.detached := rfl
@[simp] theorem Ctx.setC_pc (c : Ctx) (n : BitVec 4) (v : BitVec 16) : (c.setC n v).pc = c.pc := rfl
@[simp] theorem Ctx.setC_x (c : Ctx) (n : BitVec 4) (v : BitVec 16) : (c.setC n v).x = c.x := rfl
@[simp] theorem Ctx.setC_m (c : Ctx) (n : BitVec 4) (v : BitVec 16) : (c.setC n v).m = c.m := rfl
@[simp] theorem Ctx.setC_h (c : Ctx) (n : BitVec 4) (v : BitVec 16) : (c.setC n v).h = c.h := rfl
@[simp] theorem Ctx.setC_rrb (c : Ctx) (n : BitVec 4) (v : BitVec 16) : (c.setC n v).rrb = c.rrb := rfl
@[simp] theorem Ctx.setC_trapvec (c : Ctx) (n : BitVec 4) (v : BitVec 16) : (c.setC n v).trapvec = c.trapvec := rfl
@[simp] theorem Ctx.setC_epc (c : Ctx) (n : BitVec 4) (v : BitVec 16) : (c.setC n v).epc = c.epc := rfl
@[simp] theorem Ctx.setC_cause (c : Ctx) (n : BitVec 4) (v : BitVec 16) : (c.setC n v).cause = c.cause := rfl
@[simp] theorem Ctx.setC_tval (c : Ctx) (n : BitVec 4) (v : BitVec 16) : (c.setC n v).tval = c.tval := rfl
@[simp] theorem Ctx.setC_tstep (c : Ctx) (n : BitVec 4) (v : BitVec 16) : (c.setC n v).tstep = c.tstep := rfl
@[simp] theorem Ctx.setC_tin (c : Ctx) (n : BitVec 4) (v : BitVec 16) : (c.setC n v).tin = c.tin := rfl
@[simp] theorem Ctx.setC_stacklim (c : Ctx) (n : BitVec 4) (v : BitVec 16) : (c.setC n v).stacklim = c.stacklim := rfl
@[simp] theorem Ctx.setC_fpflags (c : Ctx) (n : BitVec 4) (v : BitVec 16) : (c.setC n v).fpflags = c.fpflags := rfl
@[simp] theorem Ctx.setC_istat (c : Ctx) (n : BitVec 4) (v : BitVec 16) : (c.setC n v).istat = c.istat := rfl
@[simp] theorem Ctx.setC_endv (c : Ctx) (n : BitVec 4) (v : BitVec 16) : (c.setC n v).endv = c.endv := rfl
@[simp] theorem Ctx.setC_wait (c : Ctx) (n : BitVec 4) (v : BitVec 16) : (c.setC n v).wait = c.wait := rfl
@[simp] theorem Ctx.setC_pts (c : Ctx) (n : BitVec 4) (v : BitVec 16) : (c.setC n v).pts = c.pts := rfl
@[simp] theorem Ctx.setC_pend (c : Ctx) (n : BitVec 4) (v : BitVec 16) : (c.setC n v).pend = c.pend := rfl
@[simp] theorem Ctx.setC_aph (c : Ctx) (n : BitVec 4) (v : BitVec 16) : (c.setC n v).aph = c.aph := rfl
@[simp] theorem Ctx.setC_dropped (c : Ctx) (n : BitVec 4) (v : BitVec 16) : (c.setC n v).dropped = c.dropped := rfl
@[simp] theorem Ctx.setC_loading (c : Ctx) (n : BitVec 4) (v : BitVec 16) : (c.setC n v).loading = c.loading := rfl
@[simp] theorem Ctx.setC_storing (c : Ctx) (n : BitVec 4) (v : BitVec 16) : (c.setC n v).storing = c.storing := rfl
@[simp] theorem Ctx.setC_extOut (c : Ctx) (n : BitVec 4) (v : BitVec 16) : (c.setC n v).extOut = c.extOut := rfl
@[simp] theorem Ctx.setC_ext (c : Ctx) (n : BitVec 4) (v : BitVec 16) : (c.setC n v).ext = c.ext := rfl
@[simp] theorem Ctx.setC_ifence (c : Ctx) (n : BitVec 4) (v : BitVec 16) : (c.setC n v).ifence = c.ifence := rfl
@[simp] theorem Ctx.setC_bans (c : Ctx) (n : BitVec 4) (v : BitVec 16) : (c.setC n v).bans = c.bans := rfl
@[simp] theorem Ctx.setC_shape (c : Ctx) (n : BitVec 4) (v : BitVec 16) : (c.setC n v).shape = c.shape := rfl

/-! What they change. -/

@[simp] theorem State.coreAt_setCoreAt_same (s : State) (k : Nat) (c : Core) : (s.setCoreAt k c).coreAt k = c :=
  Table.get_put_same _ _ _ _
theorem State.coreAt_setCoreAt_ne (s : State) {k j : Nat} (c : Core) (h : j ≠ k) : (s.setCoreAt k c).coreAt j = s.coreAt j :=
  Table.get_put_ne _ _ _ h
@[simp] theorem State.core_setCore (s : State) (c : Core) : (s.setCore c).core = c := State.coreAt_setCoreAt_same s s.cur c
@[simp] theorem State.core_updCore (s : State) (f : Core → Core) : (s.updCore f).core = f s.core := State.core_setCore s _
@[simp] theorem Core.ctxAt_setCtx_same (c : Core) (k : Nat) (x : Ctx) : (c.setCtx k x).ctxAt k = x := Table.get_put_same _ _ _ _
theorem Core.ctxAt_setCtx_ne (c : Core) {k j : Nat} (x : Ctx) (h : j ≠ k) : (c.setCtx k x).ctxAt j = c.ctxAt j :=
  Table.get_put_ne _ _ _ h
@[simp] theorem State.core_setMe (s : State) (x : Ctx) : (s.setMe x).core = s.core.setCtx s.ctx x := State.core_setCore s _
@[simp] theorem State.me_setMe (s : State) (x : Ctx) : (s.setMe x).me = x := by
  show (s.setMe x).core.ctxAt s.ctx = x
  rw [State.core_setMe, Core.ctxAt_setCtx_same]
@[simp] theorem State.me_updMe (s : State) (f : Ctx → Ctx) : (s.updMe f).me = f s.me := State.me_setMe s _
@[simp] theorem State.core_updMe (s : State) (f : Ctx → Ctx) : (s.updMe f).core = s.core.setCtx s.ctx (f s.me) := State.core_setMe s _
@[simp] theorem State.me_setX (s : State) (n : BitVec 5) (v : Word) : (s.setX n v).me = s.me.setX n v := State.me_updMe s _
@[simp] theorem State.me_setM (s : State) (n : BitVec 3) (v : BitVec 128) : (s.setM n v).me = s.me.setM n v := State.me_updMe s _
@[simp] theorem State.me_setH (s : State) (n : BitVec 4) (v : BitVec 16) : (s.setH n v).me = s.me.setH n v := State.me_updMe s _
@[simp] theorem State.me_setC (s : State) (n : BitVec 4) (v : BitVec 16) : (s.setC n v).me = s.me.setC n v := State.me_updMe s _

/-- x0 reads 0 (R31). -/
@[simp] theorem Ctx.getX_zero (c : Ctx) : c.getX 0 = 0 := rfl
/-- A write to x0 is discarded (R31). -/
@[simp] theorem Ctx.setX_zero (c : Ctx) (v : Word) : c.setX 0 v = c := rfl
/-- An x register reads back what was written to it. -/
theorem Ctx.getX_setX_same (c : Ctx) {n : BitVec 5} (v : Word) (h : n ≠ 0) : (c.setX n v).getX n = v := by
  rw [Ctx.getX, if_neg h, Ctx.setX, if_neg h]; exact Table.get_put_same _ _ _ _
/-- Every other x register is unchanged. -/
theorem Ctx.getX_setX_ne (c : Ctx) {n j : BitVec 5} (v : Word) (h : j ≠ n) : (c.setX n v).getX j = c.getX j := by
  unfold Ctx.getX Ctx.setX
  split
  · rfl
  · split
    · rfl
    · exact Table.get_put_ne _ _ _ fun e => h (BitVec.eq_of_toNat_eq e)
theorem Ctx.getM_setM_same (c : Ctx) {n : BitVec 3} (v : BitVec 128) (h : n ≠ 0) : (c.setM n v).getM n = v := by
  rw [Ctx.getM, if_neg h, Ctx.setM, if_neg h]; exact Table.get_put_same _ _ _ _
theorem Ctx.getM_setM_ne (c : Ctx) {n j : BitVec 3} (v : BitVec 128) (h : j ≠ n) : (c.setM n v).getM j = c.getM j := by
  unfold Ctx.getM Ctx.setM
  split
  · rfl
  · split
    · rfl
    · exact Table.get_put_ne _ _ _ fun e => h (BitVec.eq_of_toNat_eq e)
@[simp] theorem Ctx.getH_setH_same (c : Ctx) (n : BitVec 4) (v : BitVec 16) : (c.setH n v).getH n = v := Table.get_put_same _ _ _ _
theorem Ctx.getH_setH_ne (c : Ctx) {n j : BitVec 4} (v : BitVec 16) (h : j ≠ n) : (c.setH n v).getH j = c.getH j :=
  Table.get_put_ne _ _ _ fun e => h (BitVec.eq_of_toNat_eq e)
@[simp] theorem Ctx.getC_setC_same (c : Ctx) (n : BitVec 4) (v : BitVec 16) : (c.setC n v).getC n = v := Table.get_put_same _ _ _ _
theorem Ctx.getC_setC_ne (c : Ctx) {n j : BitVec 4} (v : BitVec 16) (h : j ≠ n) : (c.setC n v).getC j = c.getC j :=
  Table.get_put_ne _ _ _ fun e => h (BitVec.eq_of_toNat_eq e)

theorem State.xr_setX_same (s : State) {n : BitVec 5} (v : Word) (h : n ≠ 0) : (s.setX n v).xr n = v := by
  rw [State.xr, State.me_setX]; exact Ctx.getX_setX_same _ v h
theorem State.xr_setX_ne (s : State) {n j : BitVec 5} (v : Word) (h : j ≠ n) : (s.setX n v).xr j = s.xr j := by
  rw [State.xr, State.me_setX]; exact Ctx.getX_setX_ne _ v h

/-! Rows of the pool. -/

/-- A row reads back the low 1,024 bits written to it. -/
theorem Core.row_setRow_same (c : Core) (r v : Nat) (h : c.pool.wf = true) : (c.setRow r v).row r = v % 2 ^ 1024 :=
  Memory.readLE_writeLE _ 128 v h
/-- Every other row is unchanged. -/
theorem Core.row_setRow_ne (c : Core) {r q : Nat} (v : Nat) (h : c.pool.wf = true) (hq : q ≠ r) :
    (c.setRow r v).row q = c.row q :=
  Memory.readLE_writeLE_out h (by omega)
/-- A row write keeps the canonical form of the pool. -/
theorem Core.wf_setRow (c : Core) (r v : Nat) (h : c.pool.wf = true) : (c.setRow r v).pool.wf = true :=
  Memory.wf_writeLE _ _ _ h

end Sys2Proof.Machine
end

