-- ==== Sys2Proof/Laws/Ops.lean ====
section
/-! SUPPORT. What the shared operations answer: the form that every instruction has, its end, taking an exception. -/

namespace Sys2Proof.Machine

variable {s t : State} {us : List Use} {len : Nat} {body : State → Run Done}

/-- An instruction whose registers are ready means its body. -/
theorem instr_ready (h : s.ready us) : s.instr len us body = s.finish len (body s) := by
  simp [State.instr, h.1, h.2]

/-- An instruction that names no register means its body. -/
theorem instr_nil : s.instr len [] body = s.finish len (body s) := by
  apply instr_ready
  constructor
  · rfl
  · simp [declFault]

@[simp] theorem finish_goes : s.finish len (goes t) = .next (t.retire s.me.tstep (s.nextPc len)) := rfl
@[simp] theorem finish_next : s.finish len (.ok (.next t)) = .next (t.retire s.me.tstep (s.nextPc len)) := rfl
@[simp] theorem finish_jump (pc : Word) : s.finish len (.ok (.jump t pc)) = .next (t.retire s.me.tstep pc) := rfl
@[simp] theorem finish_own : s.finish len (.ok (.own t)) = .next (t.count s.cur 3 1) := rfl
/-- A fault that no translation gives leaves the state of before it. -/
@[simp] theorem walkFault_other {c : BitVec 8} {v : Word} (h : walkCause c = false) : s.walkFault c v = s := by
  simp [State.walkFault, h]
@[simp] theorem finish_fault (c : BitVec 8) (v : Word) :
    s.finish len (fault c v) = .next ((s.walkFault c v).takeTrap s.me.pc c v) := rfl
@[simp] theorem finish_wrote : s.finish len (.ok (.wrote t)) = .next ((t.goOn (s.nextPc len)).stepTrap s.me.tstep (s.nextPc len)) := rfl
@[simp] theorem finish_wait (w : Wait) : s.finish len (.error (.wait t w)) = .next (t.setWait w) := rfl
@[simp] theorem finish_waiting : s.finish len (waiting t) = .next (t.setWait .other) := rfl
@[simp] theorem finish_trapNext (c : BitVec 8) (v : Word) :
    s.finish len (.ok (.trapNext t c v)) = .next ((t.retire false s.me.pc).takeTrap (s.nextPc len) c v) := rfl

/-- Every instruction answers a next state. -/
theorem finish_answers (r : Run Done) : ∃ t, s.finish len r = .next t := by
  rcases r with (_ | _) | (_ | _ | _ | _ | _ | _) <;> exact ⟨_, rfl⟩

/-- The form that every instruction has answers a next state, whatever its body. -/
theorem instr_answers : ∃ t, s.instr len us body = .next t := by
  unfold State.instr
  split
  · exact ⟨_, rfl⟩
  · split
    · exact ⟨_, rfl⟩
    · exact finish_answers _

/-- Taking an exception where a handler can run: only the registers of the exception change, and the context goes on
at TRAPVEC (R334). -/
theorem takeTrap_handled {epc : Word} {c : BitVec 8} {v : Word} (h1 : s.me.tin = false) (h2 : s.me.trapvec ≠ 0) :
    s.takeTrap epc c v = s.setMe { s.me with
      pc := s.me.trapvec, epc := epc, cause := c, tval := v, tin := true, wait := .none, ext := none, bans := none,
      shape := none } := by
  unfold State.takeTrap
  rw [if_neg (by simpa [h1] using h2)]

/-- Where no handler can run, taking an exception is DOUBLE_FAULT (R335). -/
theorem takeTrap_unhandled {epc : Word} {c : BitVec 8} {v : Word} (h : s.me.tin = true ∨ s.me.trapvec = 0) :
    s.takeTrap epc c v = s.doubleFault s.cur s.ctx s.me.pc c := by
  rcases h with h | h <;> simp [State.takeTrap, h]

/-- An instruction that retires without single-stepping changes its context's pc and wait, and what counts it. -/
theorem retire_false {pc : Word} :
    s.retire false pc = (s.updMe fun x => { x with pc := pc, wait := .none }).count s.cur 3 1 := rfl

end Sys2Proof.Machine
end

