-- ==== Sys2Proof/Laws/PerInstr.lean ====
section
/-! SUPPORT. For every instruction, the words of the encoder decode to the instruction: one lemma for each
constructor. -/

set_option linter.all false

namespace Sys2Proof.Laws

/-! The codes of the operand types. -/

@[simp] theorem extW_code (w : ExtW) : ExtW.ofCode w.code = some w := by cases w <;> rfl
@[simp] theorem rnd_code (r : Rnd) : Rnd.ofCode r.code = some r := by cases r <;> rfl
@[simp] theorem rnd_code5 (r : Rnd) : Rnd.ofCode5 (r.code.setWidth 5) = some r := by cases r <;> rfl
theorem intT_width {w : IntT} (h : (w != .n64) = true) : IntT.ofWidth w.width = some w := by cases w <;> first | rfl | (exact absurd h (by decide))
@[simp] theorem intT_type4 (w : IntT) : IntT.ofType4 w.type4 = some w := by cases w <;> rfl
@[simp] theorem st_code (w : BitVec 2) : stType4 (stCode w) = some w := by revert w; decide
@[simp] theorem lane_code3 (y : LaneT) : LaneT.ofCode3 y.code3 = y := by cases y <;> rfl
theorem lane_code4 {y : LaneT} {p : LaneT → Bool} (h : extType y p = true) : LaneT.ofCode4 y.code4 p = some y := by
  cases y <;> simp_all [LaneT.ofCode4, LaneT.code4, LaneT.code3, LaneT.ofCode3, extType]
theorem type4_lane {t : Type4} (h : t.lane = true) : Type4.ofLane t.code = some t := by cases t <;> simp_all [Type4.lane, Type4.ofLane, Type4.code]
theorem type4_lane5 {t : Type4} (h : t.lane = true) : Type4.ofLane ((t.code.setWidth 5).setWidth 4) = some t := by
  cases t <;> simp_all [Type4.lane, Type4.ofLane, Type4.code]
@[simp] theorem type4_bit4 (t : Type4) : (t.code.setWidth 5)[4] = false := by cases t <;> rfl
@[simp] theorem gx_code (g : GxT) : GxT.ofCode g.code = some g := by cases g <;> rfl
@[simp] theorem scope_code (p : Scope) : Scope.ofCode p.code = some p := by cases p <;> rfl
theorem sh6_w {s : BitVec 3} (h : (s != 7) = true) : sh6 (s.setWidth 5) = true := by revert s; decide
@[simp] theorem w3_5 (s : BitVec 3) : ((s.setWidth 5).setWidth 3 : BitVec 3) = s := by revert s; decide
@[simp] theorem w2_5 (s : BitVec 2) : ((s.setWidth 5).setWidth 2 : BitVec 2) = s := by revert s; decide
@[simp] theorem w4_5 (s : BitVec 4) : ((s.setWidth 5).setWidth 4 : BitVec 4) = s := by revert s; decide
@[simp] theorem w4_bit (s : BitVec 4) : (s.setWidth 5)[4] = false := by revert s; decide
@[simp] theorem w2_bit (s : BitVec 2) : (s.setWidth 3)[2] = false := by revert s; decide
@[simp] theorem c4ok_w (s : BitVec 2) : c4ok (s.setWidth 5) = true := by revert s; decide
@[simp] theorem small32_w (g : BitVec 32) : small32 (g.setWidth 64) = true := by
  simp only [small32, beq_iff_eq]
  apply BitVec.eq_of_getLsbD_eq; intro j hj
  simp
@[simp] theorem w32_64 (g : BitVec 32) : ((g.setWidth 64).setWidth 32 : BitVec 32) = g := by
  apply BitVec.eq_of_getLsbD_eq; intro j hj
  simp
@[simp] theorem bit5_one (b : Bool) : (bit5 b == 1#5) = b := by cases b <;> rfl
@[simp] theorem bit5_zero (b : Bool) : (bit5 b = 0#5) = (b = false) := by cases b <;> simp [bit5]
@[simp] theorem bit5_eq (b : Bool) : (bit5 b = 1#5) = (b = true) := by cases b <;> simp [bit5]

/-! The major opcode chooses the table. -/

theorem decodeRaw_decIntr {r : Raw} (h : r.major = 1#6) : decodeRaw r = decIntr r := by
  have h0 : r.x0 ≠ 0 := fun e => by rw [Raw.major, e] at h; exact absurd h (by decide)
  have h1 : r.x0 ≠ 0xFFFFFFFF := fun e => by rw [Raw.major, e] at h; exact absurd h (by decide)
  rw [decodeRaw, if_neg h0, if_neg h1, h]; rfl

theorem decodeRaw_decAddi {r : Raw} (h : r.major = 2#6) : decodeRaw r = decAddi r := by
  have h0 : r.x0 ≠ 0 := fun e => by rw [Raw.major, e] at h; exact absurd h (by decide)
  have h1 : r.x0 ≠ 0xFFFFFFFF := fun e => by rw [Raw.major, e] at h; exact absurd h (by decide)
  rw [decodeRaw, if_neg h0, if_neg h1, h]; rfl

theorem decodeRaw_decAndi {r : Raw} (h : r.major = 3#6) : decodeRaw r = decAndi r := by
  have h0 : r.x0 ≠ 0 := fun e => by rw [Raw.major, e] at h; exact absurd h (by decide)
  have h1 : r.x0 ≠ 0xFFFFFFFF := fun e => by rw [Raw.major, e] at h; exact absurd h (by decide)
  rw [decodeRaw, if_neg h0, if_neg h1, h]; rfl

theorem decodeRaw_decOri {r : Raw} (h : r.major = 4#6) : decodeRaw r = decOri r := by
  have h0 : r.x0 ≠ 0 := fun e => by rw [Raw.major, e] at h; exact absurd h (by decide)
  have h1 : r.x0 ≠ 0xFFFFFFFF := fun e => by rw [Raw.major, e] at h; exact absurd h (by decide)
  rw [decodeRaw, if_neg h0, if_neg h1, h]; rfl

theorem decodeRaw_decXori {r : Raw} (h : r.major = 5#6) : decodeRaw r = decXori r := by
  have h0 : r.x0 ≠ 0 := fun e => by rw [Raw.major, e] at h; exact absurd h (by decide)
  have h1 : r.x0 ≠ 0xFFFFFFFF := fun e => by rw [Raw.major, e] at h; exact absurd h (by decide)
  rw [decodeRaw, if_neg h0, if_neg h1, h]; rfl

theorem decodeRaw_decSlti {r : Raw} (h : r.major = 6#6) : decodeRaw r = decSlti r := by
  have h0 : r.x0 ≠ 0 := fun e => by rw [Raw.major, e] at h; exact absurd h (by decide)
  have h1 : r.x0 ≠ 0xFFFFFFFF := fun e => by rw [Raw.major, e] at h; exact absurd h (by decide)
  rw [decodeRaw, if_neg h0, if_neg h1, h]; rfl

theorem decodeRaw_decSltiu {r : Raw} (h : r.major = 7#6) : decodeRaw r = decSltiu r := by
  have h0 : r.x0 ≠ 0 := fun e => by rw [Raw.major, e] at h; exact absurd h (by decide)
  have h1 : r.x0 ≠ 0xFFFFFFFF := fun e => by rw [Raw.major, e] at h; exact absurd h (by decide)
  rw [decodeRaw, if_neg h0, if_neg h1, h]; rfl

theorem decodeRaw_decShifti {r : Raw} (h : r.major = 8#6) : decodeRaw r = decShifti r := by
  have h0 : r.x0 ≠ 0 := fun e => by rw [Raw.major, e] at h; exact absurd h (by decide)
  have h1 : r.x0 ≠ 0xFFFFFFFF := fun e => by rw [Raw.major, e] at h; exact absurd h (by decide)
  rw [decodeRaw, if_neg h0, if_neg h1, h]; rfl

theorem decodeRaw_decLui {r : Raw} (h : r.major = 9#6) : decodeRaw r = decLui r := by
  have h0 : r.x0 ≠ 0 := fun e => by rw [Raw.major, e] at h; exact absurd h (by decide)
  have h1 : r.x0 ≠ 0xFFFFFFFF := fun e => by rw [Raw.major, e] at h; exact absurd h (by decide)
  rw [decodeRaw, if_neg h0, if_neg h1, h]; rfl

theorem decodeRaw_decPcadd {r : Raw} (h : r.major = 10#6) : decodeRaw r = decPcadd r := by
  have h0 : r.x0 ≠ 0 := fun e => by rw [Raw.major, e] at h; exact absurd h (by decide)
  have h1 : r.x0 ≠ 0xFFFFFFFF := fun e => by rw [Raw.major, e] at h; exact absurd h (by decide)
  rw [decodeRaw, if_neg h0, if_neg h1, h]; rfl

theorem decodeRaw_decLi {r : Raw} (h : r.major = 11#6) : decodeRaw r = decLi r := by
  have h0 : r.x0 ≠ 0 := fun e => by rw [Raw.major, e] at h; exact absurd h (by decide)
  have h1 : r.x0 ≠ 0xFFFFFFFF := fun e => by rw [Raw.major, e] at h; exact absurd h (by decide)
  rw [decodeRaw, if_neg h0, if_neg h1, h]; rfl

theorem decodeRaw_decLea {r : Raw} (h : r.major = 12#6) : decodeRaw r = decLea r := by
  have h0 : r.x0 ≠ 0 := fun e => by rw [Raw.major, e] at h; exact absurd h (by decide)
  have h1 : r.x0 ≠ 0xFFFFFFFF := fun e => by rw [Raw.major, e] at h; exact absurd h (by decide)
  rw [decodeRaw, if_neg h0, if_neg h1, h]; rfl

theorem decodeRaw_decBits {r : Raw} (h : r.major = 13#6) : decodeRaw r = decBits r := by
  have h0 : r.x0 ≠ 0 := fun e => by rw [Raw.major, e] at h; exact absurd h (by decide)
  have h1 : r.x0 ≠ 0xFFFFFFFF := fun e => by rw [Raw.major, e] at h; exact absurd h (by decide)
  rw [decodeRaw, if_neg h0, if_neg h1, h]; rfl

theorem decodeRaw_decFps {r : Raw} (h : r.major = 14#6) : decodeRaw r = decFps r := by
  have h0 : r.x0 ≠ 0 := fun e => by rw [Raw.major, e] at h; exact absurd h (by decide)
  have h1 : r.x0 ≠ 0xFFFFFFFF := fun e => by rw [Raw.major, e] at h; exact absurd h (by decide)
  rw [decodeRaw, if_neg h0, if_neg h1, h]; rfl

theorem decodeRaw_decLd {r : Raw} (h : r.major = 16#6) : decodeRaw r = decLd r := by
  have h0 : r.x0 ≠ 0 := fun e => by rw [Raw.major, e] at h; exact absurd h (by decide)
  have h1 : r.x0 ≠ 0xFFFFFFFF := fun e => by rw [Raw.major, e] at h; exact absurd h (by decide)
  rw [decodeRaw, if_neg h0, if_neg h1, h]; rfl

theorem decodeRaw_decLdP {r : Raw} (h : r.major = 17#6) : decodeRaw r = decLdP r := by
  have h0 : r.x0 ≠ 0 := fun e => by rw [Raw.major, e] at h; exact absurd h (by decide)
  have h1 : r.x0 ≠ 0xFFFFFFFF := fun e => by rw [Raw.major, e] at h; exact absurd h (by decide)
  rw [decodeRaw, if_neg h0, if_neg h1, h]; rfl

theorem decodeRaw_decSt {r : Raw} (h : r.major = 18#6) : decodeRaw r = decSt r := by
  have h0 : r.x0 ≠ 0 := fun e => by rw [Raw.major, e] at h; exact absurd h (by decide)
  have h1 : r.x0 ≠ 0xFFFFFFFF := fun e => by rw [Raw.major, e] at h; exact absurd h (by decide)
  rw [decodeRaw, if_neg h0, if_neg h1, h]; rfl

theorem decodeRaw_decStP {r : Raw} (h : r.major = 19#6) : decodeRaw r = decStP r := by
  have h0 : r.x0 ≠ 0 := fun e => by rw [Raw.major, e] at h; exact absurd h (by decide)
  have h1 : r.x0 ≠ 0xFFFFFFFF := fun e => by rw [Raw.major, e] at h; exact absurd h (by decide)
  rw [decodeRaw, if_neg h0, if_neg h1, h]; rfl

theorem decodeRaw_decIndexed {r : Raw} (h : r.major = 20#6) : decodeRaw r = decIndexed r := by
  have h0 : r.x0 ≠ 0 := fun e => by rw [Raw.major, e] at h; exact absurd h (by decide)
  have h1 : r.x0 ≠ 0xFFFFFFFF := fun e => by rw [Raw.major, e] at h; exact absurd h (by decide)
  rw [decodeRaw, if_neg h0, if_neg h1, h]; rfl

theorem decodeRaw_decAmo {r : Raw} (h : r.major = 21#6) : decodeRaw r = decAmo r := by
  have h0 : r.x0 ≠ 0 := fun e => by rw [Raw.major, e] at h; exact absurd h (by decide)
  have h1 : r.x0 ≠ 0xFFFFFFFF := fun e => by rw [Raw.major, e] at h; exact absurd h (by decide)
  rw [decodeRaw, if_neg h0, if_neg h1, h]; rfl

theorem decodeRaw_decMemctl {r : Raw} (h : r.major = 22#6) : decodeRaw r = decMemctl r := by
  have h0 : r.x0 ≠ 0 := fun e => by rw [Raw.major, e] at h; exact absurd h (by decide)
  have h1 : r.x0 ≠ 0xFFFFFFFF := fun e => by rw [Raw.major, e] at h; exact absurd h (by decide)
  rw [decodeRaw, if_neg h0, if_neg h1, h]; rfl

theorem decodeRaw_decBc {r : Raw} (h : r.major = 24#6) : decodeRaw r = decBc r := by
  have h0 : r.x0 ≠ 0 := fun e => by rw [Raw.major, e] at h; exact absurd h (by decide)
  have h1 : r.x0 ≠ 0xFFFFFFFF := fun e => by rw [Raw.major, e] at h; exact absurd h (by decide)
  rw [decodeRaw, if_neg h0, if_neg h1, h]; rfl

theorem decodeRaw_decB {r : Raw} (h : r.major = 25#6) : decodeRaw r = decB r := by
  have h0 : r.x0 ≠ 0 := fun e => by rw [Raw.major, e] at h; exact absurd h (by decide)
  have h1 : r.x0 ≠ 0xFFFFFFFF := fun e => by rw [Raw.major, e] at h; exact absurd h (by decide)
  rw [decodeRaw, if_neg h0, if_neg h1, h]; rfl

theorem decodeRaw_decBl {r : Raw} (h : r.major = 26#6) : decodeRaw r = decBl r := by
  have h0 : r.x0 ≠ 0 := fun e => by rw [Raw.major, e] at h; exact absurd h (by decide)
  have h1 : r.x0 ≠ 0xFFFFFFFF := fun e => by rw [Raw.major, e] at h; exact absurd h (by decide)
  rw [decodeRaw, if_neg h0, if_neg h1, h]; rfl

theorem decodeRaw_decJump {r : Raw} (h : r.major = 27#6) : decodeRaw r = decJump r := by
  have h0 : r.x0 ≠ 0 := fun e => by rw [Raw.major, e] at h; exact absurd h (by decide)
  have h1 : r.x0 ≠ 0xFFFFFFFF := fun e => by rw [Raw.major, e] at h; exact absurd h (by decide)
  rw [decodeRaw, if_neg h0, if_neg h1, h]; rfl

theorem decodeRaw_decLoop {r : Raw} (h : r.major = 28#6) : decodeRaw r = decLoop r := by
  have h0 : r.x0 ≠ 0 := fun e => by rw [Raw.major, e] at h; exact absurd h (by decide)
  have h1 : r.x0 ≠ 0xFFFFFFFF := fun e => by rw [Raw.major, e] at h; exact absurd h (by decide)
  rw [decodeRaw, if_neg h0, if_neg h1, h]; rfl

theorem decodeRaw_decContext {r : Raw} (h : r.major = 30#6) : decodeRaw r = decContext r := by
  have h0 : r.x0 ≠ 0 := fun e => by rw [Raw.major, e] at h; exact absurd h (by decide)
  have h1 : r.x0 ≠ 0xFFFFFFFF := fun e => by rw [Raw.major, e] at h; exact absurd h (by decide)
  rw [decodeRaw, if_neg h0, if_neg h1, h]; rfl

theorem decodeRaw_decSystem {r : Raw} (h : r.major = 31#6) : decodeRaw r = decSystem r := by
  have h0 : r.x0 ≠ 0 := fun e => by rw [Raw.major, e] at h; exact absurd h (by decide)
  have h1 : r.x0 ≠ 0xFFFFFFFF := fun e => by rw [Raw.major, e] at h; exact absurd h (by decide)
  rw [decodeRaw, if_neg h0, if_neg h1, h]; rfl

theorem decodeRaw_decVload {r : Raw} (h : r.major = 32#6) : decodeRaw r = decVload r := by
  have h0 : r.x0 ≠ 0 := fun e => by rw [Raw.major, e] at h; exact absurd h (by decide)
  have h1 : r.x0 ≠ 0xFFFFFFFF := fun e => by rw [Raw.major, e] at h; exact absurd h (by decide)
  rw [decodeRaw, if_neg h0, if_neg h1, h]; rfl

theorem decodeRaw_decVstore {r : Raw} (h : r.major = 33#6) : decodeRaw r = decVstore r := by
  have h0 : r.x0 ≠ 0 := fun e => by rw [Raw.major, e] at h; exact absurd h (by decide)
  have h1 : r.x0 ≠ 0xFFFFFFFF := fun e => by rw [Raw.major, e] at h; exact absurd h (by decide)
  rw [decodeRaw, if_neg h0, if_neg h1, h]; rfl

theorem decodeRaw_decValuA {r : Raw} (h : r.major = 34#6) : decodeRaw r = decValuA r := by
  have h0 : r.x0 ≠ 0 := fun e => by rw [Raw.major, e] at h; exact absurd h (by decide)
  have h1 : r.x0 ≠ 0xFFFFFFFF := fun e => by rw [Raw.major, e] at h; exact absurd h (by decide)
  rw [decodeRaw, if_neg h0, if_neg h1, h]; rfl

theorem decodeRaw_decValuB {r : Raw} (h : r.major = 35#6) : decodeRaw r = decValuB r := by
  have h0 : r.x0 ≠ 0 := fun e => by rw [Raw.major, e] at h; exact absurd h (by decide)
  have h1 : r.x0 ≠ 0xFFFFFFFF := fun e => by rw [Raw.major, e] at h; exact absurd h (by decide)
  rw [decodeRaw, if_neg h0, if_neg h1, h]; rfl

theorem decodeRaw_decVfma {r : Raw} (h : r.major = 36#6) : decodeRaw r = decVfma r := by
  have h0 : r.x0 ≠ 0 := fun e => by rw [Raw.major, e] at h; exact absurd h (by decide)
  have h1 : r.x0 ≠ 0xFFFFFFFF := fun e => by rw [Raw.major, e] at h; exact absurd h (by decide)
  rw [decodeRaw, if_neg h0, if_neg h1, h]; rfl

theorem decodeRaw_decVspec {r : Raw} (h : r.major = 37#6) : decodeRaw r = decVspec r := by
  have h0 : r.x0 ≠ 0 := fun e => by rw [Raw.major, e] at h; exact absurd h (by decide)
  have h1 : r.x0 ≠ 0xFFFFFFFF := fun e => by rw [Raw.major, e] at h; exact absurd h (by decide)
  rw [decodeRaw, if_neg h0, if_neg h1, h]; rfl

theorem decodeRaw_decVcvt {r : Raw} (h : r.major = 38#6) : decodeRaw r = decVcvt r := by
  have h0 : r.x0 ≠ 0 := fun e => by rw [Raw.major, e] at h; exact absurd h (by decide)
  have h1 : r.x0 ≠ 0xFFFFFFFF := fun e => by rw [Raw.major, e] at h; exact absurd h (by decide)
  rw [decodeRaw, if_neg h0, if_neg h1, h]; rfl

theorem decodeRaw_decVperm {r : Raw} (h : r.major = 39#6) : decodeRaw r = decVperm r := by
  have h0 : r.x0 ≠ 0 := fun e => by rw [Raw.major, e] at h; exact absurd h (by decide)
  have h1 : r.x0 ≠ 0xFFFFFFFF := fun e => by rw [Raw.major, e] at h; exact absurd h (by decide)
  rw [decodeRaw, if_neg h0, if_neg h1, h]; rfl

theorem decodeRaw_decVred {r : Raw} (h : r.major = 40#6) : decodeRaw r = decVred r := by
  have h0 : r.x0 ≠ 0 := fun e => by rw [Raw.major, e] at h; exact absurd h (by decide)
  have h1 : r.x0 ≠ 0xFFFFFFFF := fun e => by rw [Raw.major, e] at h; exact absurd h (by decide)
  rw [decodeRaw, if_neg h0, if_neg h1, h]; rfl

theorem decodeRaw_decMask {r : Raw} (h : r.major = 41#6) : decodeRaw r = decMask r := by
  have h0 : r.x0 ≠ 0 := fun e => by rw [Raw.major, e] at h; exact absurd h (by decide)
  have h1 : r.x0 ≠ 0xFFFFFFFF := fun e => by rw [Raw.major, e] at h; exact absurd h (by decide)
  rw [decodeRaw, if_neg h0, if_neg h1, h]; rfl

theorem decodeRaw_decShape {r : Raw} (h : r.major = 44#6) : decodeRaw r = decShape r := by
  have h0 : r.x0 ≠ 0 := fun e => by rw [Raw.major, e] at h; exact absurd h (by decide)
  have h1 : r.x0 ≠ 0xFFFFFFFF := fun e => by rw [Raw.major, e] at h; exact absurd h (by decide)
  rw [decodeRaw, if_neg h0, if_neg h1, h]; rfl

theorem decodeRaw_decEngine {r : Raw} (h : r.major = 46#6) : decodeRaw r = decEngine r := by
  have h0 : r.x0 ≠ 0 := fun e => by rw [Raw.major, e] at h; exact absurd h (by decide)
  have h1 : r.x0 ≠ 0xFFFFFFFF := fun e => by rw [Raw.major, e] at h; exact absurd h (by decide)
  rw [decodeRaw, if_neg h0, if_neg h1, h]; rfl

theorem decodeRaw_decBarrier {r : Raw} (h : r.major = 47#6) : decodeRaw r = decBarrier r := by
  have h0 : r.x0 ≠ 0 := fun e => by rw [Raw.major, e] at h; exact absurd h (by decide)
  have h1 : r.x0 ≠ 0xFFFFFFFF := fun e => by rw [Raw.major, e] at h; exact absurd h (by decide)
  rw [decodeRaw, if_neg h0, if_neg h1, h]; rfl

theorem decodeRaw_decPod {r : Raw} (h : r.major = 48#6) : decodeRaw r = decPod r := by
  have h0 : r.x0 ≠ 0 := fun e => by rw [Raw.major, e] at h; exact absurd h (by decide)
  have h1 : r.x0 ≠ 0xFFFFFFFF := fun e => by rw [Raw.major, e] at h; exact absurd h (by decide)
  rw [decodeRaw, if_neg h0, if_neg h1, h]; rfl

theorem decodeRaw_decSeg {r : Raw} (h : r.major = 49#6) : decodeRaw r = decSeg r := by
  have h0 : r.x0 ≠ 0 := fun e => by rw [Raw.major, e] at h; exact absurd h (by decide)
  have h1 : r.x0 ≠ 0xFFFFFFFF := fun e => by rw [Raw.major, e] at h; exact absurd h (by decide)
  rw [decodeRaw, if_neg h0, if_neg h1, h]; rfl

theorem decodeRaw_decTask {r : Raw} (h : r.major = 50#6) : decodeRaw r = decTask r := by
  have h0 : r.x0 ≠ 0 := fun e => by rw [Raw.major, e] at h; exact absurd h (by decide)
  have h1 : r.x0 ≠ 0xFFFFFFFF := fun e => by rw [Raw.major, e] at h; exact absurd h (by decide)
  rw [decodeRaw, if_neg h0, if_neg h1, h]; rfl

theorem decodeRaw_decOwn {r : Raw} (h : r.major = 51#6) : decodeRaw r = decOwn r := by
  have h0 : r.x0 ≠ 0 := fun e => by rw [Raw.major, e] at h; exact absurd h (by decide)
  have h1 : r.x0 ≠ 0xFFFFFFFF := fun e => by rw [Raw.major, e] at h; exact absurd h (by decide)
  rw [decodeRaw, if_neg h0, if_neg h1, h]; rfl

/-- The words that the encoder gives the instruction decode to it. -/
def RoundTrip.Statement (i : Instr) : Prop := ∀ w, WellFormed i = true → encode i = some w → decodeRaw w.raw = .ok i


theorem RoundTrip.deviceReset  : RoundTrip.Statement .deviceReset := fun _ _ h => nomatch h

theorem RoundTrip.selfTestEnd (failed : List Nat) : RoundTrip.Statement (.selfTestEnd failed) := fun _ _ h => nomatch h

theorem RoundTrip.recoveryImageCheck  : RoundTrip.Statement .recoveryImageCheck := fun _ _ h => nomatch h

theorem RoundTrip.mailboxDoorbell (off : Nat) (bs : List (BitVec 8)) : RoundTrip.Statement (.mailboxDoorbell off bs) := fun _ _ h => nomatch h

theorem RoundTrip.launchDoorbell (f page : Nat) (v : BitVec 32) : RoundTrip.Statement (.launchDoorbell f page v) := fun _ _ h => nomatch h

theorem RoundTrip.completionDoorbell (f page : Nat) (v : BitVec 32) : RoundTrip.Statement (.completionDoorbell f page v) := fun _ _ h => nomatch h

theorem RoundTrip.tailwWrite (slot : Nat) (v : BitVec 32) (oid : Nat) : RoundTrip.Statement (.tailwWrite slot v oid) := fun _ _ h => nomatch h

theorem RoundTrip.queueSlotEnableWrite (slot : Nat) (v : BitVec 8) (oid : Nat) : RoundTrip.Statement (.queueSlotEnableWrite slot v oid) := fun _ _ h => nomatch h

theorem RoundTrip.launchFetch (slot : Nat) : RoundTrip.Statement (.launchFetch slot) := fun _ _ h => nomatch h

theorem RoundTrip.spawnAdmit (die : Nat) : RoundTrip.Statement (.spawnAdmit die) := fun _ _ h => nomatch h

theorem RoundTrip.taskExpand (die : Nat) : RoundTrip.Statement (.taskExpand die) := fun _ _ h => nomatch h

theorem RoundTrip.nodeRetire (id : Nat) : RoundTrip.Statement (.nodeRetire id) := fun _ _ h => nomatch h

theorem RoundTrip.deadlineDiscard (id : Nat) : RoundTrip.Statement (.deadlineDiscard id) := fun _ _ h => nomatch h

theorem RoundTrip.taskDispatch (die : Nat) : RoundTrip.Statement (.taskDispatch die) := fun _ _ h => nomatch h

theorem RoundTrip.gangDrain (die : Nat) : RoundTrip.Statement (.gangDrain die) := fun _ _ h => nomatch h

theorem RoundTrip.treePropagate (slot node : Nat) : RoundTrip.Statement (.treePropagate slot node) := fun _ _ h => nomatch h

theorem RoundTrip.completionRecordWrite (slot : Nat) : RoundTrip.Statement (.completionRecordWrite slot) := fun _ _ h => nomatch h

theorem RoundTrip.msixHoldoffExpiry (slot : Nat) : RoundTrip.Statement (.msixHoldoffExpiry slot) := fun _ _ h => nomatch h

theorem RoundTrip.msixUnmask (f vec : Nat) : RoundTrip.Statement (.msixUnmask f vec) := fun _ _ h => nomatch h

theorem RoundTrip.deadlineAbort (core : Nat) : RoundTrip.Statement (.deadlineAbort core) := fun _ _ h => nomatch h

theorem RoundTrip.podMessageDeliver (core : Nat) : RoundTrip.Statement (.podMessageDeliver core) := fun _ _ h => nomatch h

theorem RoundTrip.applyQueueStart (core : Nat) : RoundTrip.Statement (.applyQueueStart core) := fun _ _ h => nomatch h

theorem RoundTrip.noticeDeliver  : RoundTrip.Statement .noticeDeliver := fun _ _ h => nomatch h

theorem RoundTrip.cardStart (core : Nat) (eng : Bool) (id : Nat) : RoundTrip.Statement (.cardStart core eng id) := fun _ _ h => nomatch h

theorem RoundTrip.matrixUnitStep (core : Nat) : RoundTrip.Statement (.matrixUnitStep core) := fun _ _ h => nomatch h

theorem RoundTrip.copyUnitWrite (core id : Nat) : RoundTrip.Statement (.copyUnitWrite core id) := fun _ _ h => nomatch h

theorem RoundTrip.cardComplete (core : Nat) (eng : Bool) (id : Nat) : RoundTrip.Statement (.cardComplete core eng id) := fun _ _ h => nomatch h

theorem RoundTrip.writeBufferDrain (core bank : Nat) : RoundTrip.Statement (.writeBufferDrain core bank) := fun _ _ h => nomatch h

theorem RoundTrip.engineBankForce (core : Nat) (eng : Bool) (bank : Nat) : RoundTrip.Statement (.engineBankForce core eng bank) := fun _ _ h => nomatch h

theorem RoundTrip.ptsAdvance  : RoundTrip.Statement .ptsAdvance := fun _ _ h => nomatch h

theorem RoundTrip.globalLoadReturn (core ctx : Nat) : RoundTrip.Statement (.globalLoadReturn core ctx) := fun _ _ h => nomatch h

theorem RoundTrip.globalStoreReturn (core ctx : Nat) : RoundTrip.Statement (.globalStoreReturn core ctx) := fun _ _ h => nomatch h

theorem RoundTrip.linkedBarrierEvent  : RoundTrip.Statement .linkedBarrierEvent := fun _ _ h => nomatch h

theorem RoundTrip.powerEstimate  : RoundTrip.Statement .powerEstimate := fun _ _ h => nomatch h

theorem RoundTrip.clockGate (core : Nat) : RoundTrip.Statement (.clockGate core) := fun _ _ h => nomatch h

theorem RoundTrip.bucketCharge (b ticks : Nat) : RoundTrip.Statement (.bucketCharge b ticks) := fun _ _ h => nomatch h

theorem RoundTrip.bucketRefill  : RoundTrip.Statement .bucketRefill := fun _ _ h => nomatch h

theorem RoundTrip.counterSnapshot  : RoundTrip.Statement .counterSnapshot := fun _ _ h => nomatch h

theorem RoundTrip.counterWrap (core i amount : Nat) : RoundTrip.Statement (.counterWrap core i amount) := fun _ _ h => nomatch h

theorem RoundTrip.loanTermExpiry (name : BitVec 64) (level : Nat) : RoundTrip.Statement (.loanTermExpiry name level) := fun _ _ h => nomatch h

theorem RoundTrip.graceDeadlineExpiry (name : BitVec 64) (level : Nat) : RoundTrip.Statement (.graceDeadlineExpiry name level) := fun _ _ h => nomatch h

theorem RoundTrip.termNear (name : BitVec 64) (level : Nat) : RoundTrip.Statement (.termNear name level) := fun _ _ h => nomatch h

theorem RoundTrip.oidIdleRetire (oid : Nat) : RoundTrip.Statement (.oidIdleRetire oid) := fun _ _ h => nomatch h

theorem RoundTrip.segTermEnd (dom : Nat) (name : BitVec 64) : RoundTrip.Statement (.segTermEnd dom name) := fun _ _ h => nomatch h

theorem RoundTrip.stopTick (core : Nat) : RoundTrip.Statement (.stopTick core) := fun _ _ h => nomatch h

theorem RoundTrip.quiesceEnd (core : Nat) : RoundTrip.Statement (.quiesceEnd core) := fun _ _ h => nomatch h

theorem RoundTrip.flushToken (core : Nat) : RoundTrip.Statement (.flushToken core) := fun _ _ h => nomatch h

theorem RoundTrip.saveBufferDrain (core : Nat) : RoundTrip.Statement (.saveBufferDrain core) := fun _ _ h => nomatch h

theorem RoundTrip.huskSaveStep (core : Nat) : RoundTrip.Statement (.huskSaveStep core) := fun _ _ h => nomatch h

theorem RoundTrip.huskValid (core : Nat) : RoundTrip.Statement (.huskValid core) := fun _ _ h => nomatch h

theorem RoundTrip.acceptStopEnd (core : Nat) : RoundTrip.Statement (.acceptStopEnd core) := fun _ _ h => nomatch h

theorem RoundTrip.reclaimStopEnd (core : Nat) : RoundTrip.Statement (.reclaimStopEnd core) := fun _ _ h => nomatch h

theorem RoundTrip.powerEmergency  : RoundTrip.Statement .powerEmergency := fun _ _ h => nomatch h

theorem RoundTrip.functionLevelReset (f : Nat) : RoundTrip.Statement (.functionLevelReset f) := fun _ _ h => nomatch h

theorem RoundTrip.kstopWrite (core : Nat) (v : BitVec 64) (oid : Nat) : RoundTrip.Statement (.kstopWrite core v oid) := fun _ _ h => nomatch h

theorem RoundTrip.kresumeWrite (core : Nat) (v : BitVec 64) (oid : Nat) : RoundTrip.Statement (.kresumeWrite core v oid) := fun _ _ h => nomatch h

theorem RoundTrip.eventSelectWrite (core i : Nat) (v : BitVec 64) (oid : Nat) : RoundTrip.Statement (.eventSelectWrite core i v oid) := fun _ _ h => nomatch h

theorem RoundTrip.counterWrite (core i : Nat) (v : BitVec 64) (oid : Nat) : RoundTrip.Statement (.counterWrite core i v oid) := fun _ _ h => nomatch h

theorem RoundTrip.tflagsWrite (core ctx : Nat) (v : BitVec 64) : RoundTrip.Statement (.tflagsWrite core ctx v) := fun _ _ h => nomatch h

theorem RoundTrip.tgenWrite (dom oid : Nat) : RoundTrip.Statement (.tgenWrite dom oid) := fun _ _ h => nomatch h

theorem RoundTrip.pasidWrite (dom : Nat) (v : BitVec 20) (oid : Nat) : RoundTrip.Statement (.pasidWrite dom v oid) := fun _ _ h => nomatch h

theorem RoundTrip.toffWrite (dom : Nat) (v : BitVec 64) (oid : Nat) : RoundTrip.Statement (.toffWrite dom v oid) := fun _ _ h => nomatch h

theorem RoundTrip.atsResponse (dom : Nat) : RoundTrip.Statement (.atsResponse dom) := fun _ _ h => nomatch h

theorem RoundTrip.pasidRetireEnd (dom : Nat) : RoundTrip.Statement (.pasidRetireEnd dom) := fun _ _ h => nomatch h

theorem RoundTrip.loadRequest (dom : Nat) (v : BitVec 64) (oid : Nat) : RoundTrip.Statement (.loadRequest dom v oid) := fun _ _ h => nomatch h

theorem RoundTrip.loadComplete (dom : Nat) : RoundTrip.Statement (.loadComplete dom) := fun _ _ h => nomatch h

theorem RoundTrip.attestNonceWrite (v : BitVec 384) (oid : Nat) : RoundTrip.Statement (.attestNonceWrite v oid) := fun _ _ h => nomatch h

theorem RoundTrip.attestReportDone  : RoundTrip.Statement .attestReportDone := fun _ _ h => nomatch h

theorem RoundTrip.controlSpaceWrite (pa : Nat) (bs : List (BitVec 8)) (oid : Nat) : RoundTrip.Statement (.controlSpaceWrite pa bs oid) := fun _ _ h => nomatch h

theorem RoundTrip.hostWindowRead (f off len : Nat) : RoundTrip.Statement (.hostWindowRead f off len) := fun _ _ h => nomatch h

theorem RoundTrip.hostWindowWrite (f off : Nat) (bs : List (BitVec 8)) : RoundTrip.Statement (.hostWindowWrite f off bs) := fun _ _ h => nomatch h

theorem RoundTrip.hostWindowAtomic (f off : Nat) : RoundTrip.Statement (.hostWindowAtomic f off) := fun _ _ h => nomatch h

theorem RoundTrip.peerReadRequest (port pa len : Nat) : RoundTrip.Statement (.peerReadRequest port pa len) := fun _ _ h => nomatch h

theorem RoundTrip.peerWriteRequest (port pa : Nat) (bs : List (BitVec 8)) : RoundTrip.Statement (.peerWriteRequest port pa bs) := fun _ _ h => nomatch h

theorem RoundTrip.peerAtomicRequest (port pa : Nat) (op : AmoOp) (w : Bool) (v e : BitVec 64) : RoundTrip.Statement (.peerAtomicRequest port pa op w v e) := fun _ _ h => nomatch h

theorem RoundTrip.peerTimeout (core ctx : Nat) : RoundTrip.Statement (.peerTimeout core ctx) := fun _ _ h => nomatch h

theorem RoundTrip.add (d s t : BitVec 5) : RoundTrip.Statement (.add d s t) := by
  intro ws hw he
  obtain rfl : Words.short (packR 0 t s d 1 0) = ws := Option.some.inj he
  change decodeRaw ⟨(packR 0 t s d 1 0), 0, 0, 0⟩ = _
  rw [decodeRaw_decIntr (by simp), decIntr]
  simp [noLit, ck, Raw.imm32, ofOpt, ofOpt2, ofCvt, ofGx, hook5, ctx10]

theorem RoundTrip.sub (d s t : BitVec 5) : RoundTrip.Statement (.sub d s t) := by
  intro ws hw he
  obtain rfl : Words.short (packR 1 t s d 1 0) = ws := Option.some.inj he
  change decodeRaw ⟨(packR 1 t s d 1 0), 0, 0, 0⟩ = _
  rw [decodeRaw_decIntr (by simp), decIntr]
  simp [noLit, ck, Raw.imm32, ofOpt, ofOpt2, ofCvt, ofGx, hook5, ctx10]

theorem RoundTrip.andX (d s t : BitVec 5) : RoundTrip.Statement (.andX d s t) := by
  intro ws hw he
  obtain rfl : Words.short (packR 2 t s d 1 0) = ws := Option.some.inj he
  change decodeRaw ⟨(packR 2 t s d 1 0), 0, 0, 0⟩ = _
  rw [decodeRaw_decIntr (by simp), decIntr]
  simp [noLit, ck, Raw.imm32, ofOpt, ofOpt2, ofCvt, ofGx, hook5, ctx10]

theorem RoundTrip.orX (d s t : BitVec 5) : RoundTrip.Statement (.orX d s t) := by
  intro ws hw he
  obtain rfl : Words.short (packR 3 t s d 1 0) = ws := Option.some.inj he
  change decodeRaw ⟨(packR 3 t s d 1 0), 0, 0, 0⟩ = _
  rw [decodeRaw_decIntr (by simp), decIntr]
  simp [noLit, ck, Raw.imm32, ofOpt, ofOpt2, ofCvt, ofGx, hook5, ctx10]

theorem RoundTrip.xorX (d s t : BitVec 5) : RoundTrip.Statement (.xorX d s t) := by
  intro ws hw he
  obtain rfl : Words.short (packR 4 t s d 1 0) = ws := Option.some.inj he
  change decodeRaw ⟨(packR 4 t s d 1 0), 0, 0, 0⟩ = _
  rw [decodeRaw_decIntr (by simp), decIntr]
  simp [noLit, ck, Raw.imm32, ofOpt, ofOpt2, ofCvt, ofGx, hook5, ctx10]

theorem RoundTrip.andn (d s t : BitVec 5) : RoundTrip.Statement (.andn d s t) := by
  intro ws hw he
  obtain rfl : Words.short (packR 5 t s d 1 0) = ws := Option.some.inj he
  change decodeRaw ⟨(packR 5 t s d 1 0), 0, 0, 0⟩ = _
  rw [decodeRaw_decIntr (by simp), decIntr]
  simp [noLit, ck, Raw.imm32, ofOpt, ofOpt2, ofCvt, ofGx, hook5, ctx10]

theorem RoundTrip.orn (d s t : BitVec 5) : RoundTrip.Statement (.orn d s t) := by
  intro ws hw he
  obtain rfl : Words.short (packR 6 t s d 1 0) = ws := Option.some.inj he
  change decodeRaw ⟨(packR 6 t s d 1 0), 0, 0, 0⟩ = _
  rw [decodeRaw_decIntr (by simp), decIntr]
  simp [noLit, ck, Raw.imm32, ofOpt, ofOpt2, ofCvt, ofGx, hook5, ctx10]

theorem RoundTrip.brev (d s : BitVec 5) : RoundTrip.Statement (.brev d s) := by
  intro ws hw he
  obtain rfl : Words.short (packR 7 0 s d 1 0) = ws := Option.some.inj he
  change decodeRaw ⟨(packR 7 0 s d 1 0), 0, 0, 0⟩ = _
  rw [decodeRaw_decIntr (by simp), decIntr]
  simp [noLit, ck, Raw.imm32, ofOpt, ofOpt2, ofCvt, ofGx, hook5, ctx10]

theorem RoundTrip.sll (d s t : BitVec 5) : RoundTrip.Statement (.sll d s t) := by
  intro ws hw he
  obtain rfl : Words.short (packR 8 t s d 1 0) = ws := Option.some.inj he
  change decodeRaw ⟨(packR 8 t s d 1 0), 0, 0, 0⟩ = _
  rw [decodeRaw_decIntr (by simp), decIntr]
  simp [noLit, ck, Raw.imm32, ofOpt, ofOpt2, ofCvt, ofGx, hook5, ctx10]

theorem RoundTrip.srl (d s t : BitVec 5) : RoundTrip.Statement (.srl d s t) := by
  intro ws hw he
  obtain rfl : Words.short (packR 9 t s d 1 0) = ws := Option.some.inj he
  change decodeRaw ⟨(packR 9 t s d 1 0), 0, 0, 0⟩ = _
  rw [decodeRaw_decIntr (by simp), decIntr]
  simp [noLit, ck, Raw.imm32, ofOpt, ofOpt2, ofCvt, ofGx, hook5, ctx10]

theorem RoundTrip.sra (d s t : BitVec 5) : RoundTrip.Statement (.sra d s t) := by
  intro ws hw he
  obtain rfl : Words.short (packR 10 t s d 1 0) = ws := Option.some.inj he
  change decodeRaw ⟨(packR 10 t s d 1 0), 0, 0, 0⟩ = _
  rw [decodeRaw_decIntr (by simp), decIntr]
  simp [noLit, ck, Raw.imm32, ofOpt, ofOpt2, ofCvt, ofGx, hook5, ctx10]

theorem RoundTrip.rol (d s t : BitVec 5) : RoundTrip.Statement (.rol d s t) := by
  intro ws hw he
  obtain rfl : Words.short (packR 11 t s d 1 0) = ws := Option.some.inj he
  change decodeRaw ⟨(packR 11 t s d 1 0), 0, 0, 0⟩ = _
  rw [decodeRaw_decIntr (by simp), decIntr]
  simp [noLit, ck, Raw.imm32, ofOpt, ofOpt2, ofCvt, ofGx, hook5, ctx10]

theorem RoundTrip.ror (d s t : BitVec 5) : RoundTrip.Statement (.ror d s t) := by
  intro ws hw he
  obtain rfl : Words.short (packR 12 t s d 1 0) = ws := Option.some.inj he
  change decodeRaw ⟨(packR 12 t s d 1 0), 0, 0, 0⟩ = _
  rw [decodeRaw_decIntr (by simp), decIntr]
  simp [noLit, ck, Raw.imm32, ofOpt, ofOpt2, ofCvt, ofGx, hook5, ctx10]

theorem RoundTrip.slt (d s t : BitVec 5) : RoundTrip.Statement (.slt d s t) := by
  intro ws hw he
  obtain rfl : Words.short (packR 13 t s d 1 0) = ws := Option.some.inj he
  change decodeRaw ⟨(packR 13 t s d 1 0), 0, 0, 0⟩ = _
  rw [decodeRaw_decIntr (by simp), decIntr]
  simp [noLit, ck, Raw.imm32, ofOpt, ofOpt2, ofCvt, ofGx, hook5, ctx10]

theorem RoundTrip.sltu (d s t : BitVec 5) : RoundTrip.Statement (.sltu d s t) := by
  intro ws hw he
  obtain rfl : Words.short (packR 14 t s d 1 0) = ws := Option.some.inj he
  change decodeRaw ⟨(packR 14 t s d 1 0), 0, 0, 0⟩ = _
  rw [decodeRaw_decIntr (by simp), decIntr]
  simp [noLit, ck, Raw.imm32, ofOpt, ofOpt2, ofCvt, ofGx, hook5, ctx10]

theorem RoundTrip.minX (d s t : BitVec 5) : RoundTrip.Statement (.minX d s t) := by
  intro ws hw he
  obtain rfl : Words.short (packR 15 t s d 1 0) = ws := Option.some.inj he
  change decodeRaw ⟨(packR 15 t s d 1 0), 0, 0, 0⟩ = _
  rw [decodeRaw_decIntr (by simp), decIntr]
  simp [noLit, ck, Raw.imm32, ofOpt, ofOpt2, ofCvt, ofGx, hook5, ctx10]

theorem RoundTrip.maxX (d s t : BitVec 5) : RoundTrip.Statement (.maxX d s t) := by
  intro ws hw he
  obtain rfl : Words.short (packR 16 t s d 1 0) = ws := Option.some.inj he
  change decodeRaw ⟨(packR 16 t s d 1 0), 0, 0, 0⟩ = _
  rw [decodeRaw_decIntr (by simp), decIntr]
  simp [noLit, ck, Raw.imm32, ofOpt, ofOpt2, ofCvt, ofGx, hook5, ctx10]

theorem RoundTrip.minu (d s t : BitVec 5) : RoundTrip.Statement (.minu d s t) := by
  intro ws hw he
  obtain rfl : Words.short (packR 17 t s d 1 0) = ws := Option.some.inj he
  change decodeRaw ⟨(packR 17 t s d 1 0), 0, 0, 0⟩ = _
  rw [decodeRaw_decIntr (by simp), decIntr]
  simp [noLit, ck, Raw.imm32, ofOpt, ofOpt2, ofCvt, ofGx, hook5, ctx10]

theorem RoundTrip.maxu (d s t : BitVec 5) : RoundTrip.Statement (.maxu d s t) := by
  intro ws hw he
  obtain rfl : Words.short (packR 18 t s d 1 0) = ws := Option.some.inj he
  change decodeRaw ⟨(packR 18 t s d 1 0), 0, 0, 0⟩ = _
  rw [decodeRaw_decIntr (by simp), decIntr]
  simp [noLit, ck, Raw.imm32, ofOpt, ofOpt2, ofCvt, ofGx, hook5, ctx10]

theorem RoundTrip.mul (d s t : BitVec 5) : RoundTrip.Statement (.mul d s t) := by
  intro ws hw he
  obtain rfl : Words.short (packR 19 t s d 1 0) = ws := Option.some.inj he
  change decodeRaw ⟨(packR 19 t s d 1 0), 0, 0, 0⟩ = _
  rw [decodeRaw_decIntr (by simp), decIntr]
  simp [noLit, ck, Raw.imm32, ofOpt, ofOpt2, ofCvt, ofGx, hook5, ctx10]

theorem RoundTrip.mulh (d s t : BitVec 5) : RoundTrip.Statement (.mulh d s t) := by
  intro ws hw he
  obtain rfl : Words.short (packR 20 t s d 1 0) = ws := Option.some.inj he
  change decodeRaw ⟨(packR 20 t s d 1 0), 0, 0, 0⟩ = _
  rw [decodeRaw_decIntr (by simp), decIntr]
  simp [noLit, ck, Raw.imm32, ofOpt, ofOpt2, ofCvt, ofGx, hook5, ctx10]

theorem RoundTrip.mulhu (d s t : BitVec 5) : RoundTrip.Statement (.mulhu d s t) := by
  intro ws hw he
  obtain rfl : Words.short (packR 21 t s d 1 0) = ws := Option.some.inj he
  change decodeRaw ⟨(packR 21 t s d 1 0), 0, 0, 0⟩ = _
  rw [decodeRaw_decIntr (by simp), decIntr]
  simp [noLit, ck, Raw.imm32, ofOpt, ofOpt2, ofCvt, ofGx, hook5, ctx10]

theorem RoundTrip.div (d s t : BitVec 5) : RoundTrip.Statement (.div d s t) := by
  intro ws hw he
  obtain rfl : Words.short (packR 22 t s d 1 0) = ws := Option.some.inj he
  change decodeRaw ⟨(packR 22 t s d 1 0), 0, 0, 0⟩ = _
  rw [decodeRaw_decIntr (by simp), decIntr]
  simp [noLit, ck, Raw.imm32, ofOpt, ofOpt2, ofCvt, ofGx, hook5, ctx10]

theorem RoundTrip.divu (d s t : BitVec 5) : RoundTrip.Statement (.divu d s t) := by
  intro ws hw he
  obtain rfl : Words.short (packR 23 t s d 1 0) = ws := Option.some.inj he
  change decodeRaw ⟨(packR 23 t s d 1 0), 0, 0, 0⟩ = _
  rw [decodeRaw_decIntr (by simp), decIntr]
  simp [noLit, ck, Raw.imm32, ofOpt, ofOpt2, ofCvt, ofGx, hook5, ctx10]

theorem RoundTrip.rem (d s t : BitVec 5) : RoundTrip.Statement (.rem d s t) := by
  intro ws hw he
  obtain rfl : Words.short (packR 24 t s d 1 0) = ws := Option.some.inj he
  change decodeRaw ⟨(packR 24 t s d 1 0), 0, 0, 0⟩ = _
  rw [decodeRaw_decIntr (by simp), decIntr]
  simp [noLit, ck, Raw.imm32, ofOpt, ofOpt2, ofCvt, ofGx, hook5, ctx10]

theorem RoundTrip.remu (d s t : BitVec 5) : RoundTrip.Statement (.remu d s t) := by
  intro ws hw he
  obtain rfl : Words.short (packR 25 t s d 1 0) = ws := Option.some.inj he
  change decodeRaw ⟨(packR 25 t s d 1 0), 0, 0, 0⟩ = _
  rw [decodeRaw_decIntr (by simp), decIntr]
  simp [noLit, ck, Raw.imm32, ofOpt, ofOpt2, ofCvt, ofGx, hook5, ctx10]

theorem RoundTrip.clz (d s : BitVec 5) : RoundTrip.Statement (.clz d s) := by
  intro ws hw he
  obtain rfl : Words.short (packR 26 0 s d 1 0) = ws := Option.some.inj he
  change decodeRaw ⟨(packR 26 0 s d 1 0), 0, 0, 0⟩ = _
  rw [decodeRaw_decIntr (by simp), decIntr]
  simp [noLit, ck, Raw.imm32, ofOpt, ofOpt2, ofCvt, ofGx, hook5, ctx10]

theorem RoundTrip.ctz (d s : BitVec 5) : RoundTrip.Statement (.ctz d s) := by
  intro ws hw he
  obtain rfl : Words.short (packR 27 0 s d 1 0) = ws := Option.some.inj he
  change decodeRaw ⟨(packR 27 0 s d 1 0), 0, 0, 0⟩ = _
  rw [decodeRaw_decIntr (by simp), decIntr]
  simp [noLit, ck, Raw.imm32, ofOpt, ofOpt2, ofCvt, ofGx, hook5, ctx10]

theorem RoundTrip.popc (d s : BitVec 5) : RoundTrip.Statement (.popc d s) := by
  intro ws hw he
  obtain rfl : Words.short (packR 28 0 s d 1 0) = ws := Option.some.inj he
  change decodeRaw ⟨(packR 28 0 s d 1 0), 0, 0, 0⟩ = _
  rw [decodeRaw_decIntr (by simp), decIntr]
  simp [noLit, ck, Raw.imm32, ofOpt, ofOpt2, ofCvt, ofGx, hook5, ctx10]

theorem RoundTrip.bswap (d s : BitVec 5) : RoundTrip.Statement (.bswap d s) := by
  intro ws hw he
  obtain rfl : Words.short (packR 29 0 s d 1 0) = ws := Option.some.inj he
  change decodeRaw ⟨(packR 29 0 s d 1 0), 0, 0, 0⟩ = _
  rw [decodeRaw_decIntr (by simp), decIntr]
  simp [noLit, ck, Raw.imm32, ofOpt, ofOpt2, ofCvt, ofGx, hook5, ctx10]

theorem RoundTrip.sext (d s : BitVec 5) (w : ExtW) : RoundTrip.Statement (.sext d s w) := by
  intro ws hw he
  obtain rfl : Words.short (packR 30 w.code s d 1 0) = ws := Option.some.inj he
  change decodeRaw ⟨(packR 30 w.code s d 1 0), 0, 0, 0⟩ = _
  rw [decodeRaw_decIntr (by simp), decIntr]
  simp [noLit, ck, Raw.imm32, ofOpt, ofOpt2, ofCvt, ofGx, hook5, ctx10]

theorem RoundTrip.zext (d s : BitVec 5) (w : ExtW) : RoundTrip.Statement (.zext d s w) := by
  intro ws hw he
  obtain rfl : Words.short (packR 31 w.code s d 1 0) = ws := Option.some.inj he
  change decodeRaw ⟨(packR 31 w.code s d 1 0), 0, 0, 0⟩ = _
  rw [decodeRaw_decIntr (by simp), decIntr]
  simp [noLit, ck, Raw.imm32, ofOpt, ofOpt2, ofCvt, ofGx, hook5, ctx10]

theorem RoundTrip.addi (d s : BitVec 5) (i : BitVec 14) : RoundTrip.Statement (.addi d s i) := by
  intro ws hw he
  obtain rfl : Words.short (packI i s d 2 0) = ws := Option.some.inj he
  change decodeRaw ⟨(packI i s d 2 0), 0, 0, 0⟩ = _
  rw [decodeRaw_decAddi (by simp), decAddi]
  simp [noLit, ck, Raw.imm32, ofOpt, ofOpt2, ofCvt, ofGx, hook5, ctx10]

theorem RoundTrip.addiLit (d s : BitVec 5) (l : BitVec 64) : RoundTrip.Statement (.addiLit d s l) := by
  intro ws hw he
  obtain rfl : Words.shortLit (packI 0 s d 2 1) l = ws := Option.some.inj he
  change decodeRaw ⟨(packI 0 s d 2 1), 0, 0, l⟩ = _
  rw [decodeRaw_decAddi (by simp), decAddi]
  simp [noLit, ck, Raw.imm32, ofOpt, ofOpt2, ofCvt, ofGx, hook5, ctx10]

theorem RoundTrip.andi (d s : BitVec 5) (i : BitVec 14) : RoundTrip.Statement (.andi d s i) := by
  intro ws hw he
  obtain rfl : Words.short (packI i s d 3 0) = ws := Option.some.inj he
  change decodeRaw ⟨(packI i s d 3 0), 0, 0, 0⟩ = _
  rw [decodeRaw_decAndi (by simp), decAndi]
  simp [noLit, ck, Raw.imm32, ofOpt, ofOpt2, ofCvt, ofGx, hook5, ctx10]

theorem RoundTrip.andiLit (d s : BitVec 5) (l : BitVec 64) : RoundTrip.Statement (.andiLit d s l) := by
  intro ws hw he
  obtain rfl : Words.shortLit (packI 0 s d 3 1) l = ws := Option.some.inj he
  change decodeRaw ⟨(packI 0 s d 3 1), 0, 0, l⟩ = _
  rw [decodeRaw_decAndi (by simp), decAndi]
  simp [noLit, ck, Raw.imm32, ofOpt, ofOpt2, ofCvt, ofGx, hook5, ctx10]

theorem RoundTrip.ori (d s : BitVec 5) (i : BitVec 14) : RoundTrip.Statement (.ori d s i) := by
  intro ws hw he
  obtain rfl : Words.short (packI i s d 4 0) = ws := Option.some.inj he
  change decodeRaw ⟨(packI i s d 4 0), 0, 0, 0⟩ = _
  rw [decodeRaw_decOri (by simp), decOri]
  simp [noLit, ck, Raw.imm32, ofOpt, ofOpt2, ofCvt, ofGx, hook5, ctx10]

theorem RoundTrip.oriLit (d s : BitVec 5) (l : BitVec 64) : RoundTrip.Statement (.oriLit d s l) := by
  intro ws hw he
  obtain rfl : Words.shortLit (packI 0 s d 4 1) l = ws := Option.some.inj he
  change decodeRaw ⟨(packI 0 s d 4 1), 0, 0, l⟩ = _
  rw [decodeRaw_decOri (by simp), decOri]
  simp [noLit, ck, Raw.imm32, ofOpt, ofOpt2, ofCvt, ofGx, hook5, ctx10]

theorem RoundTrip.xori (d s : BitVec 5) (i : BitVec 14) : RoundTrip.Statement (.xori d s i) := by
  intro ws hw he
  obtain rfl : Words.short (packI i s d 5 0) = ws := Option.some.inj he
  change decodeRaw ⟨(packI i s d 5 0), 0, 0, 0⟩ = _
  rw [decodeRaw_decXori (by simp), decXori]
  simp [noLit, ck, Raw.imm32, ofOpt, ofOpt2, ofCvt, ofGx, hook5, ctx10]

theorem RoundTrip.xoriLit (d s : BitVec 5) (l : BitVec 64) : RoundTrip.Statement (.xoriLit d s l) := by
  intro ws hw he
  obtain rfl : Words.shortLit (packI 0 s d 5 1) l = ws := Option.some.inj he
  change decodeRaw ⟨(packI 0 s d 5 1), 0, 0, l⟩ = _
  rw [decodeRaw_decXori (by simp), decXori]
  simp [noLit, ck, Raw.imm32, ofOpt, ofOpt2, ofCvt, ofGx, hook5, ctx10]

theorem RoundTrip.slti (d s : BitVec 5) (i : BitVec 14) : RoundTrip.Statement (.slti d s i) := by
  intro ws hw he
  obtain rfl : Words.short (packI i s d 6 0) = ws := Option.some.inj he
  change decodeRaw ⟨(packI i s d 6 0), 0, 0, 0⟩ = _
  rw [decodeRaw_decSlti (by simp), decSlti]
  simp [noLit, ck, Raw.imm32, ofOpt, ofOpt2, ofCvt, ofGx, hook5, ctx10]

theorem RoundTrip.sltiLit (d s : BitVec 5) (l : BitVec 64) : RoundTrip.Statement (.sltiLit d s l) := by
  intro ws hw he
  obtain rfl : Words.shortLit (packI 0 s d 6 1) l = ws := Option.some.inj he
  change decodeRaw ⟨(packI 0 s d 6 1), 0, 0, l⟩ = _
  rw [decodeRaw_decSlti (by simp), decSlti]
  simp [noLit, ck, Raw.imm32, ofOpt, ofOpt2, ofCvt, ofGx, hook5, ctx10]

theorem RoundTrip.sltiu (d s : BitVec 5) (i : BitVec 14) : RoundTrip.Statement (.sltiu d s i) := by
  intro ws hw he
  obtain rfl : Words.short (packI i s d 7 0) = ws := Option.some.inj he
  change decodeRaw ⟨(packI i s d 7 0), 0, 0, 0⟩ = _
  rw [decodeRaw_decSltiu (by simp), decSltiu]
  simp [noLit, ck, Raw.imm32, ofOpt, ofOpt2, ofCvt, ofGx, hook5, ctx10]

theorem RoundTrip.sltiuLit (d s : BitVec 5) (l : BitVec 64) : RoundTrip.Statement (.sltiuLit d s l) := by
  intro ws hw he
  obtain rfl : Words.shortLit (packI 0 s d 7 1) l = ws := Option.some.inj he
  change decodeRaw ⟨(packI 0 s d 7 1), 0, 0, l⟩ = _
  rw [decodeRaw_decSltiu (by simp), decSltiu]
  simp [noLit, ck, Raw.imm32, ofOpt, ofOpt2, ofCvt, ofGx, hook5, ctx10]

theorem RoundTrip.slli (d s : BitVec 5) (h : BitVec 6) : RoundTrip.Statement (.slli d s h) := by
  intro ws hw he
  obtain rfl : Words.short (packSh 0 h s d 8 0) = ws := Option.some.inj he
  change decodeRaw ⟨(packSh 0 h s d 8 0), 0, 0, 0⟩ = _
  rw [decodeRaw_decShifti (by simp), decShifti]
  simp [noLit, ck, Raw.imm32, ofOpt, ofOpt2, ofCvt, ofGx, hook5, ctx10]

theorem RoundTrip.srli (d s : BitVec 5) (h : BitVec 6) : RoundTrip.Statement (.srli d s h) := by
  intro ws hw he
  obtain rfl : Words.short (packSh 1 h s d 8 0) = ws := Option.some.inj he
  change decodeRaw ⟨(packSh 1 h s d 8 0), 0, 0, 0⟩ = _
  rw [decodeRaw_decShifti (by simp), decShifti]
  simp [noLit, ck, Raw.imm32, ofOpt, ofOpt2, ofCvt, ofGx, hook5, ctx10]

theorem RoundTrip.srai (d s : BitVec 5) (h : BitVec 6) : RoundTrip.Statement (.srai d s h) := by
  intro ws hw he
  obtain rfl : Words.short (packSh 2 h s d 8 0) = ws := Option.some.inj he
  change decodeRaw ⟨(packSh 2 h s d 8 0), 0, 0, 0⟩ = _
  rw [decodeRaw_decShifti (by simp), decShifti]
  simp [noLit, ck, Raw.imm32, ofOpt, ofOpt2, ofCvt, ofGx, hook5, ctx10]

theorem RoundTrip.rori (d s : BitVec 5) (h : BitVec 6) : RoundTrip.Statement (.rori d s h) := by
  intro ws hw he
  obtain rfl : Words.short (packSh 3 h s d 8 0) = ws := Option.some.inj he
  change decodeRaw ⟨(packSh 3 h s d 8 0), 0, 0, 0⟩ = _
  rw [decodeRaw_decShifti (by simp), decShifti]
  simp [noLit, ck, Raw.imm32, ofOpt, ofOpt2, ofCvt, ofGx, hook5, ctx10]

theorem RoundTrip.lui (d : BitVec 5) (i : BitVec 19) : RoundTrip.Statement (.lui d i) := by
  intro ws hw he
  obtain rfl : Words.short (packU i d 9 0) = ws := Option.some.inj he
  change decodeRaw ⟨(packU i d 9 0), 0, 0, 0⟩ = _
  rw [decodeRaw_decLui (by simp), decLui]
  simp [noLit, ck, Raw.imm32, ofOpt, ofOpt2, ofCvt, ofGx, hook5, ctx10]

theorem RoundTrip.pcadd (d : BitVec 5) (i : BitVec 19) : RoundTrip.Statement (.pcadd d i) := by
  intro ws hw he
  obtain rfl : Words.short (packU i d 10 0) = ws := Option.some.inj he
  change decodeRaw ⟨(packU i d 10 0), 0, 0, 0⟩ = _
  rw [decodeRaw_decPcadd (by simp), decPcadd]
  simp [noLit, ck, Raw.imm32, ofOpt, ofOpt2, ofCvt, ofGx, hook5, ctx10]

theorem RoundTrip.pcaddLit (d : BitVec 5) (l : BitVec 64) : RoundTrip.Statement (.pcaddLit d l) := by
  intro ws hw he
  obtain rfl : Words.shortLit (packU 0 d 10 1) l = ws := Option.some.inj he
  change decodeRaw ⟨(packU 0 d 10 1), 0, 0, l⟩ = _
  rw [decodeRaw_decPcadd (by simp), decPcadd]
  simp [noLit, ck, Raw.imm32, ofOpt, ofOpt2, ofCvt, ofGx, hook5, ctx10]

theorem RoundTrip.li (d : BitVec 5) (l : BitVec 64) : RoundTrip.Statement (.li d l) := by
  intro ws hw he
  obtain rfl : Words.shortLit (packU 0 d 11 1) l = ws := Option.some.inj he
  change decodeRaw ⟨(packU 0 d 11 1), 0, 0, l⟩ = _
  rw [decodeRaw_decLi (by simp), decLi]
  simp [noLit, ck, Raw.imm32, ofOpt, ofOpt2, ofCvt, ofGx, hook5, ctx10]

theorem RoundTrip.lea (d b c sh : BitVec 5) (i : BitVec 32) : RoundTrip.Statement (.lea d b c sh i) := by
  intro ws hw he
  obtain rfl : Words.ext (packR 0 c b d 12 2) (packE 0 0 0 sh 0) i = ws := Option.some.inj he
  change decodeRaw ⟨(packR 0 c b d 12 2), (packE 0 0 0 sh 0), i, 0⟩ = _
  rw [decodeRaw_decLea (by simp), decLea]
  simp [noLit, ck, Raw.imm32, ofOpt, ofOpt2, ofCvt, ofGx, hook5, ctx10]

theorem RoundTrip.leaLit (d b c sh : BitVec 5) (l : BitVec 64) : RoundTrip.Statement (.leaLit d b c sh l) := by
  intro ws hw he
  obtain rfl : Words.extLit (packR 0 c b d 12 3) (packE 0 0 0 sh 0) 0 l = ws := Option.some.inj he
  change decodeRaw ⟨(packR 0 c b d 12 3), (packE 0 0 0 sh 0), 0, l⟩ = _
  rw [decodeRaw_decLea (by simp), decLea]
  simp [noLit, ck, Raw.imm32, ofOpt, ofOpt2, ofCvt, ofGx, hook5, ctx10]

theorem RoundTrip.bfx (d s : BitVec 5) (p : BitVec 6) (w : BitVec 7) : RoundTrip.Statement (.bfx d s p w) := by
  intro ws hw he
  change (bfOk p w) = true at hw
  obtain rfl : Words.ext (packR 0 0 s d 13 2) (packE 0 0 0 0 0) (packBf w p) = ws := Option.some.inj he
  change decodeRaw ⟨(packR 0 0 s d 13 2), (packE 0 0 0 0 0), (packBf w p), 0⟩ = _
  rw [decodeRaw_decBits (by simp), decBits]
  simp [noLit, ck, Raw.imm32, ofOpt, ofOpt2, ofCvt, ofGx, hook5, ctx10, hw]

theorem RoundTrip.bfxu (d s : BitVec 5) (p : BitVec 6) (w : BitVec 7) : RoundTrip.Statement (.bfxu d s p w) := by
  intro ws hw he
  change (bfOk p w) = true at hw
  obtain rfl : Words.ext (packR 1 0 s d 13 2) (packE 0 0 0 0 0) (packBf w p) = ws := Option.some.inj he
  change decodeRaw ⟨(packR 1 0 s d 13 2), (packE 0 0 0 0 0), (packBf w p), 0⟩ = _
  rw [decodeRaw_decBits (by simp), decBits]
  simp [noLit, ck, Raw.imm32, ofOpt, ofOpt2, ofCvt, ofGx, hook5, ctx10, hw]

theorem RoundTrip.bfi (d s : BitVec 5) (p : BitVec 6) (w : BitVec 7) : RoundTrip.Statement (.bfi d s p w) := by
  intro ws hw he
  change (bfOk p w) = true at hw
  obtain rfl : Words.ext (packR 2 0 s d 13 2) (packE 0 0 0 0 0) (packBf w p) = ws := Option.some.inj he
  change decodeRaw ⟨(packR 2 0 s d 13 2), (packE 0 0 0 0 0), (packBf w p), 0⟩ = _
  rw [decodeRaw_decBits (by simp), decBits]
  simp [noLit, ck, Raw.imm32, ofOpt, ofOpt2, ofCvt, ofGx, hook5, ctx10, hw]

theorem RoundTrip.csel (d s t e : BitVec 5) : RoundTrip.Statement (.csel d s t e) := by
  intro ws hw he
  obtain rfl : Words.ext (packR 3 t s d 13 2) (packE 0 0 0 0 e) (0) = ws := Option.some.inj he
  change decodeRaw ⟨(packR 3 t s d 13 2), (packE 0 0 0 0 e), (0), 0⟩ = _
  rw [decodeRaw_decBits (by simp), decBits]
  simp [noLit, ck, Raw.imm32, ofOpt, ofOpt2, ofCvt, ofGx, hook5, ctx10]

theorem RoundTrip.mad (d s t e : BitVec 5) : RoundTrip.Statement (.mad d s t e) := by
  intro ws hw he
  obtain rfl : Words.ext (packR 4 t s d 13 2) (packE 0 0 0 0 e) (0) = ws := Option.some.inj he
  change decodeRaw ⟨(packR 4 t s d 13 2), (packE 0 0 0 0 e), (0), 0⟩ = _
  rw [decodeRaw_decBits (by simp), decBits]
  simp [noLit, ck, Raw.imm32, ofOpt, ofOpt2, ofCvt, ofGx, hook5, ctx10]

theorem RoundTrip.wfield (d s t : BitVec 5) : RoundTrip.Statement (.wfield d s t) := by
  intro ws hw he
  obtain rfl : Words.ext (packR 5 t s d 13 2) (packE 0 0 0 0 0) (0) = ws := Option.some.inj he
  change decodeRaw ⟨(packR 5 t s d 13 2), (packE 0 0 0 0 0), (0), 0⟩ = _
  rw [decodeRaw_decBits (by simp), decBits]
  simp [noLit, ck, Raw.imm32, ofOpt, ofOpt2, ofCvt, ofGx, hook5, ctx10]

theorem RoundTrip.fadd (d s t : BitVec 5) : RoundTrip.Statement (.fadd d s t) := by
  intro ws hw he
  obtain rfl : Words.short (packR 0 t s d 14 0) = ws := Option.some.inj he
  change decodeRaw ⟨(packR 0 t s d 14 0), 0, 0, 0⟩ = _
  rw [decodeRaw_decFps (by simp), decFps]
  simp [noLit, ck, Raw.imm32, ofOpt, ofOpt2, ofCvt, ofGx, hook5, ctx10]

theorem RoundTrip.faddExt (d s t : BitVec 5) (r : Rnd) : RoundTrip.Statement (.faddExt d s t r) := by
  intro ws hw he
  obtain rfl : Words.ext (packR 0 t s d 14 2) (packE (r.code.setWidth 15) 0 0 0 0) 0 = ws := Option.some.inj he
  change decodeRaw ⟨(packR 0 t s d 14 2), (packE (r.code.setWidth 15) 0 0 0 0), 0, 0⟩ = _
  rw [decodeRaw_decFps (by simp), decFps]
  simp [noLit, ck, Raw.imm32, ofOpt, ofOpt2, ofCvt, ofGx, hook5, ctx10]

theorem RoundTrip.fsub (d s t : BitVec 5) : RoundTrip.Statement (.fsub d s t) := by
  intro ws hw he
  obtain rfl : Words.short (packR 1 t s d 14 0) = ws := Option.some.inj he
  change decodeRaw ⟨(packR 1 t s d 14 0), 0, 0, 0⟩ = _
  rw [decodeRaw_decFps (by simp), decFps]
  simp [noLit, ck, Raw.imm32, ofOpt, ofOpt2, ofCvt, ofGx, hook5, ctx10]

theorem RoundTrip.fsubExt (d s t : BitVec 5) (r : Rnd) : RoundTrip.Statement (.fsubExt d s t r) := by
  intro ws hw he
  obtain rfl : Words.ext (packR 1 t s d 14 2) (packE (r.code.setWidth 15) 0 0 0 0) 0 = ws := Option.some.inj he
  change decodeRaw ⟨(packR 1 t s d 14 2), (packE (r.code.setWidth 15) 0 0 0 0), 0, 0⟩ = _
  rw [decodeRaw_decFps (by simp), decFps]
  simp [noLit, ck, Raw.imm32, ofOpt, ofOpt2, ofCvt, ofGx, hook5, ctx10]

theorem RoundTrip.fmul (d s t : BitVec 5) : RoundTrip.Statement (.fmul d s t) := by
  intro ws hw he
  obtain rfl : Words.short (packR 2 t s d 14 0) = ws := Option.some.inj he
  change decodeRaw ⟨(packR 2 t s d 14 0), 0, 0, 0⟩ = _
  rw [decodeRaw_decFps (by simp), decFps]
  simp [noLit, ck, Raw.imm32, ofOpt, ofOpt2, ofCvt, ofGx, hook5, ctx10]

theorem RoundTrip.fmulExt (d s t : BitVec 5) (r : Rnd) : RoundTrip.Statement (.fmulExt d s t r) := by
  intro ws hw he
  obtain rfl : Words.ext (packR 2 t s d 14 2) (packE (r.code.setWidth 15) 0 0 0 0) 0 = ws := Option.some.inj he
  change decodeRaw ⟨(packR 2 t s d 14 2), (packE (r.code.setWidth 15) 0 0 0 0), 0, 0⟩ = _
  rw [decodeRaw_decFps (by simp), decFps]
  simp [noLit, ck, Raw.imm32, ofOpt, ofOpt2, ofCvt, ofGx, hook5, ctx10]

theorem RoundTrip.fdiv (d s t : BitVec 5) : RoundTrip.Statement (.fdiv d s t) := by
  intro ws hw he
  obtain rfl : Words.short (packR 3 t s d 14 0) = ws := Option.some.inj he
  change decodeRaw ⟨(packR 3 t s d 14 0), 0, 0, 0⟩ = _
  rw [decodeRaw_decFps (by simp), decFps]
  simp [noLit, ck, Raw.imm32, ofOpt, ofOpt2, ofCvt, ofGx, hook5, ctx10]

theorem RoundTrip.fdivExt (d s t : BitVec 5) (r : Rnd) : RoundTrip.Statement (.fdivExt d s t r) := by
  intro ws hw he
  obtain rfl : Words.ext (packR 3 t s d 14 2) (packE (r.code.setWidth 15) 0 0 0 0) 0 = ws := Option.some.inj he
  change decodeRaw ⟨(packR 3 t s d 14 2), (packE (r.code.setWidth 15) 0 0 0 0), 0, 0⟩ = _
  rw [decodeRaw_decFps (by simp), decFps]
  simp [noLit, ck, Raw.imm32, ofOpt, ofOpt2, ofCvt, ofGx, hook5, ctx10]

theorem RoundTrip.fsqrt (d s : BitVec 5) : RoundTrip.Statement (.fsqrt d s) := by
  intro ws hw he
  obtain rfl : Words.short (packR 4 0 s d 14 0) = ws := Option.some.inj he
  change decodeRaw ⟨(packR 4 0 s d 14 0), 0, 0, 0⟩ = _
  rw [decodeRaw_decFps (by simp), decFps]
  simp [noLit, ck, Raw.imm32, ofOpt, ofOpt2, ofCvt, ofGx, hook5, ctx10]

theorem RoundTrip.fsqrtExt (d s : BitVec 5) (r : Rnd) : RoundTrip.Statement (.fsqrtExt d s r) := by
  intro ws hw he
  obtain rfl : Words.ext (packR 4 0 s d 14 2) (packE (r.code.setWidth 15) 0 0 0 0) 0 = ws := Option.some.inj he
  change decodeRaw ⟨(packR 4 0 s d 14 2), (packE (r.code.setWidth 15) 0 0 0 0), 0, 0⟩ = _
  rw [decodeRaw_decFps (by simp), decFps]
  simp [noLit, ck, Raw.imm32, ofOpt, ofOpt2, ofCvt, ofGx, hook5, ctx10]

theorem RoundTrip.fmin (d s t : BitVec 5) : RoundTrip.Statement (.fmin d s t) := by
  intro ws hw he
  obtain rfl : Words.short (packR 5 t s d 14 0) = ws := Option.some.inj he
  change decodeRaw ⟨(packR 5 t s d 14 0), 0, 0, 0⟩ = _
  rw [decodeRaw_decFps (by simp), decFps]
  simp [noLit, ck, Raw.imm32, ofOpt, ofOpt2, ofCvt, ofGx, hook5, ctx10]

theorem RoundTrip.fmax (d s t : BitVec 5) : RoundTrip.Statement (.fmax d s t) := by
  intro ws hw he
  obtain rfl : Words.short (packR 6 t s d 14 0) = ws := Option.some.inj he
  change decodeRaw ⟨(packR 6 t s d 14 0), 0, 0, 0⟩ = _
  rw [decodeRaw_decFps (by simp), decFps]
  simp [noLit, ck, Raw.imm32, ofOpt, ofOpt2, ofCvt, ofGx, hook5, ctx10]

theorem RoundTrip.fmadd (d s t e : BitVec 5) (r : Rnd) : RoundTrip.Statement (.fmadd d s t e r) := by
  intro ws hw he
  obtain rfl : Words.ext (packR 7 t s d 14 2) (packE (r.code.setWidth 15) 0 0 0 e) (0) = ws := Option.some.inj he
  change decodeRaw ⟨(packR 7 t s d 14 2), (packE (r.code.setWidth 15) 0 0 0 e), (0), 0⟩ = _
  rw [decodeRaw_decFps (by simp), decFps]
  simp [noLit, ck, Raw.imm32, ofOpt, ofOpt2, ofCvt, ofGx, hook5, ctx10]

theorem RoundTrip.feq (d s t : BitVec 5) : RoundTrip.Statement (.feq d s t) := by
  intro ws hw he
  obtain rfl : Words.short (packR 8 t s d 14 0) = ws := Option.some.inj he
  change decodeRaw ⟨(packR 8 t s d 14 0), 0, 0, 0⟩ = _
  rw [decodeRaw_decFps (by simp), decFps]
  simp [noLit, ck, Raw.imm32, ofOpt, ofOpt2, ofCvt, ofGx, hook5, ctx10]

theorem RoundTrip.flt (d s t : BitVec 5) : RoundTrip.Statement (.flt d s t) := by
  intro ws hw he
  obtain rfl : Words.short (packR 9 t s d 14 0) = ws := Option.some.inj he
  change decodeRaw ⟨(packR 9 t s d 14 0), 0, 0, 0⟩ = _
  rw [decodeRaw_decFps (by simp), decFps]
  simp [noLit, ck, Raw.imm32, ofOpt, ofOpt2, ofCvt, ofGx, hook5, ctx10]

theorem RoundTrip.fle (d s t : BitVec 5) : RoundTrip.Statement (.fle d s t) := by
  intro ws hw he
  obtain rfl : Words.short (packR 10 t s d 14 0) = ws := Option.some.inj he
  change decodeRaw ⟨(packR 10 t s d 14 0), 0, 0, 0⟩ = _
  rw [decodeRaw_decFps (by simp), decFps]
  simp [noLit, ck, Raw.imm32, ofOpt, ofOpt2, ofCvt, ofGx, hook5, ctx10]

theorem RoundTrip.fclass (d s : BitVec 5) : RoundTrip.Statement (.fclass d s) := by
  intro ws hw he
  obtain rfl : Words.short (packR 11 0 s d 14 0) = ws := Option.some.inj he
  change decodeRaw ⟨(packR 11 0 s d 14 0), 0, 0, 0⟩ = _
  rw [decodeRaw_decFps (by simp), decFps]
  simp [noLit, ck, Raw.imm32, ofOpt, ofOpt2, ofCvt, ofGx, hook5, ctx10]

theorem RoundTrip.fcvti (d s : BitVec 5) (r : Rnd) : RoundTrip.Statement (.fcvti d s r) := by
  intro ws hw he
  obtain rfl : Words.short (packR 12 (r.code.setWidth 5) s d 14 0) = ws := Option.some.inj he
  change decodeRaw ⟨(packR 12 (r.code.setWidth 5) s d 14 0), 0, 0, 0⟩ = _
  rw [decodeRaw_decFps (by simp), decFps]
  simp [noLit, ck, Raw.imm32, ofOpt, ofOpt2, ofCvt, ofGx, hook5, ctx10]

theorem RoundTrip.fcvtf (d s : BitVec 5) (r : Rnd) : RoundTrip.Statement (.fcvtf d s r) := by
  intro ws hw he
  obtain rfl : Words.short (packR 13 (r.code.setWidth 5) s d 14 0) = ws := Option.some.inj he
  change decodeRaw ⟨(packR 13 (r.code.setWidth 5) s d 14 0), 0, 0, 0⟩ = _
  rw [decodeRaw_decFps (by simp), decFps]
  simp [noLit, ck, Raw.imm32, ofOpt, ofOpt2, ofCvt, ofGx, hook5, ctx10]

theorem RoundTrip.ld (w : IntT) (o : BitVec 11) (b d : BitVec 5) : RoundTrip.Statement (.ld w o b d) := by
  intro ws hw he
  change (w != .n64) = true at hw
  obtain rfl : Words.short (packS o w.width b d 16 0) = ws := Option.some.inj he
  change decodeRaw ⟨(packS o w.width b d 16 0), 0, 0, 0⟩ = _
  rw [decodeRaw_decLd (by simp), decLd]
  simp [noLit, ck, Raw.imm32, ofOpt, ofOpt2, ofCvt, ofGx, hook5, ctx10, hw, intT_width hw]

theorem RoundTrip.ldLit (w : IntT) (l : BitVec 64) (b d : BitVec 5) : RoundTrip.Statement (.ldLit w l b d) := by
  intro ws hw he
  change (w != .n64) = true at hw
  obtain rfl : Words.shortLit (packS 0 w.width b d 16 1) l = ws := Option.some.inj he
  change decodeRaw ⟨(packS 0 w.width b d 16 1), 0, 0, l⟩ = _
  rw [decodeRaw_decLd (by simp), decLd]
  simp [noLit, ck, Raw.imm32, ofOpt, ofOpt2, ofCvt, ofGx, hook5, ctx10, hw, intT_width hw]

theorem RoundTrip.ldP (w : IntT) (o : BitVec 11) (b d : BitVec 5) : RoundTrip.Statement (.ldP w o b d) := by
  intro ws hw he
  change (w != .n64) = true at hw
  obtain rfl : Words.short (packS o w.width b d 17 0) = ws := Option.some.inj he
  change decodeRaw ⟨(packS o w.width b d 17 0), 0, 0, 0⟩ = _
  rw [decodeRaw_decLdP (by simp), decLdP]
  simp [noLit, ck, Raw.imm32, ofOpt, ofOpt2, ofCvt, ofGx, hook5, ctx10, hw, intT_width hw]

theorem RoundTrip.st (w : BitVec 2) (o : BitVec 11) (b v : BitVec 5) : RoundTrip.Statement (.st w o b v) := by
  intro ws hw he
  obtain rfl : Words.short (packS o (w.setWidth 3) b v 18 0) = ws := Option.some.inj he
  change decodeRaw ⟨(packS o (w.setWidth 3) b v 18 0), 0, 0, 0⟩ = _
  rw [decodeRaw_decSt (by simp), decSt]
  simp [noLit, ck, Raw.imm32, ofOpt, ofOpt2, ofCvt, ofGx, hook5, ctx10]

theorem RoundTrip.stLit (w : BitVec 2) (l : BitVec 64) (b v : BitVec 5) : RoundTrip.Statement (.stLit w l b v) := by
  intro ws hw he
  obtain rfl : Words.shortLit (packS 0 (w.setWidth 3) b v 18 1) l = ws := Option.some.inj he
  change decodeRaw ⟨(packS 0 (w.setWidth 3) b v 18 1), 0, 0, l⟩ = _
  rw [decodeRaw_decSt (by simp), decSt]
  simp [noLit, ck, Raw.imm32, ofOpt, ofOpt2, ofCvt, ofGx, hook5, ctx10]

theorem RoundTrip.stP (w : BitVec 2) (o : BitVec 11) (b v : BitVec 5) : RoundTrip.Statement (.stP w o b v) := by
  intro ws hw he
  obtain rfl : Words.short (packS o (w.setWidth 3) b v 19 0) = ws := Option.some.inj he
  change decodeRaw ⟨(packS o (w.setWidth 3) b v 19 0), 0, 0, 0⟩ = _
  rw [decodeRaw_decStP (by simp), decStP]
  simp [noLit, ck, Raw.imm32, ofOpt, ofOpt2, ofCvt, ofGx, hook5, ctx10]

theorem RoundTrip.ldx (w : IntT) (sh : BitVec 3) (i : BitVec 32) (d b c : BitVec 5) : RoundTrip.Statement (.ldx w sh i d b c) := by
  intro ws hw he
  change (sh != 7) = true at hw
  obtain rfl : Words.ext (packR 0 c b d 20 2) (packE 0 0 (w.type4) (sh.setWidth 5) 0) i = ws := Option.some.inj he
  change decodeRaw ⟨(packR 0 c b d 20 2), (packE 0 0 (w.type4) (sh.setWidth 5) 0), i, 0⟩ = _
  rw [decodeRaw_decIndexed (by simp), decIndexed]
  simp [noLit, ck, Raw.imm32, ofOpt, ofOpt2, ofCvt, ofGx, hook5, ctx10, hw, sh6_w hw]

theorem RoundTrip.ldxLit (w : IntT) (sh : BitVec 3) (l : BitVec 64) (d b c : BitVec 5) : RoundTrip.Statement (.ldxLit w sh l d b c) := by
  intro ws hw he
  change (sh != 7) = true at hw
  obtain rfl : Words.extLit (packR 0 c b d 20 3) (packE 0 0 (w.type4) (sh.setWidth 5) 0) 0 l = ws := Option.some.inj he
  change decodeRaw ⟨(packR 0 c b d 20 3), (packE 0 0 (w.type4) (sh.setWidth 5) 0), 0, l⟩ = _
  rw [decodeRaw_decIndexed (by simp), decIndexed]
  simp [noLit, ck, Raw.imm32, ofOpt, ofOpt2, ofCvt, ofGx, hook5, ctx10, hw, sh6_w hw]

theorem RoundTrip.stx (w : BitVec 2) (sh : BitVec 3) (i : BitVec 32) (v b c : BitVec 5) : RoundTrip.Statement (.stx w sh i v b c) := by
  intro ws hw he
  change (sh != 7) = true at hw
  obtain rfl : Words.ext (packR 1 c b v 20 2) (packE 0 0 (stCode w) (sh.setWidth 5) 0) i = ws := Option.some.inj he
  change decodeRaw ⟨(packR 1 c b v 20 2), (packE 0 0 (stCode w) (sh.setWidth 5) 0), i, 0⟩ = _
  rw [decodeRaw_decIndexed (by simp), decIndexed]
  simp [noLit, ck, Raw.imm32, ofOpt, ofOpt2, ofCvt, ofGx, hook5, ctx10, hw, sh6_w hw]

theorem RoundTrip.stxLit (w : BitVec 2) (sh : BitVec 3) (l : BitVec 64) (v b c : BitVec 5) : RoundTrip.Statement (.stxLit w sh l v b c) := by
  intro ws hw he
  change (sh != 7) = true at hw
  obtain rfl : Words.extLit (packR 1 c b v 20 3) (packE 0 0 (stCode w) (sh.setWidth 5) 0) 0 l = ws := Option.some.inj he
  change decodeRaw ⟨(packR 1 c b v 20 3), (packE 0 0 (stCode w) (sh.setWidth 5) 0), 0, l⟩ = _
  rw [decodeRaw_decIndexed (by simp), decIndexed]
  simp [noLit, ck, Raw.imm32, ofOpt, ofOpt2, ofCvt, ofGx, hook5, ctx10, hw, sh6_w hw]

theorem RoundTrip.amoAdd (p : Scope) (w : Bool) (d a v : BitVec 5) : RoundTrip.Statement (.amoAdd p w d a v) := by
  intro ws hw he
  obtain rfl : Words.short (packA p.code w 0 v a d 21 0) = ws := Option.some.inj he
  change decodeRaw ⟨(packA p.code w 0 v a d 21 0), 0, 0, 0⟩ = _
  rw [decodeRaw_decAmo (by simp), decAmo]
  simp [noLit, ck, Raw.imm32, ofOpt, ofOpt2, ofCvt, ofGx, hook5, ctx10]

theorem RoundTrip.amoAnd (p : Scope) (w : Bool) (d a v : BitVec 5) : RoundTrip.Statement (.amoAnd p w d a v) := by
  intro ws hw he
  obtain rfl : Words.short (packA p.code w 1 v a d 21 0) = ws := Option.some.inj he
  change decodeRaw ⟨(packA p.code w 1 v a d 21 0), 0, 0, 0⟩ = _
  rw [decodeRaw_decAmo (by simp), decAmo]
  simp [noLit, ck, Raw.imm32, ofOpt, ofOpt2, ofCvt, ofGx, hook5, ctx10]

theorem RoundTrip.amoOr (p : Scope) (w : Bool) (d a v : BitVec 5) : RoundTrip.Statement (.amoOr p w d a v) := by
  intro ws hw he
  obtain rfl : Words.short (packA p.code w 2 v a d 21 0) = ws := Option.some.inj he
  change decodeRaw ⟨(packA p.code w 2 v a d 21 0), 0, 0, 0⟩ = _
  rw [decodeRaw_decAmo (by simp), decAmo]
  simp [noLit, ck, Raw.imm32, ofOpt, ofOpt2, ofCvt, ofGx, hook5, ctx10]

theorem RoundTrip.amoXor (p : Scope) (w : Bool) (d a v : BitVec 5) : RoundTrip.Statement (.amoXor p w d a v) := by
  intro ws hw he
  obtain rfl : Words.short (packA p.code w 3 v a d 21 0) = ws := Option.some.inj he
  change decodeRaw ⟨(packA p.code w 3 v a d 21 0), 0, 0, 0⟩ = _
  rw [decodeRaw_decAmo (by simp), decAmo]
  simp [noLit, ck, Raw.imm32, ofOpt, ofOpt2, ofCvt, ofGx, hook5, ctx10]

theorem RoundTrip.amoMin (p : Scope) (w : Bool) (d a v : BitVec 5) : RoundTrip.Statement (.amoMin p w d a v) := by
  intro ws hw he
  obtain rfl : Words.short (packA p.code w 4 v a d 21 0) = ws := Option.some.inj he
  change decodeRaw ⟨(packA p.code w 4 v a d 21 0), 0, 0, 0⟩ = _
  rw [decodeRaw_decAmo (by simp), decAmo]
  simp [noLit, ck, Raw.imm32, ofOpt, ofOpt2, ofCvt, ofGx, hook5, ctx10]

theorem RoundTrip.amoMax (p : Scope) (w : Bool) (d a v : BitVec 5) : RoundTrip.Statement (.amoMax p w d a v) := by
  intro ws hw he
  obtain rfl : Words.short (packA p.code w 5 v a d 21 0) = ws := Option.some.inj he
  change decodeRaw ⟨(packA p.code w 5 v a d 21 0), 0, 0, 0⟩ = _
  rw [decodeRaw_decAmo (by simp), decAmo]
  simp [noLit, ck, Raw.imm32, ofOpt, ofOpt2, ofCvt, ofGx, hook5, ctx10]

theorem RoundTrip.amoMinu (p : Scope) (w : Bool) (d a v : BitVec 5) : RoundTrip.Statement (.amoMinu p w d a v) := by
  intro ws hw he
  obtain rfl : Words.short (packA p.code w 6 v a d 21 0) = ws := Option.some.inj he
  change decodeRaw ⟨(packA p.code w 6 v a d 21 0), 0, 0, 0⟩ = _
  rw [decodeRaw_decAmo (by simp), decAmo]
  simp [noLit, ck, Raw.imm32, ofOpt, ofOpt2, ofCvt, ofGx, hook5, ctx10]

theorem RoundTrip.amoMaxu (p : Scope) (w : Bool) (d a v : BitVec 5) : RoundTrip.Statement (.amoMaxu p w d a v) := by
  intro ws hw he
  obtain rfl : Words.short (packA p.code w 7 v a d 21 0) = ws := Option.some.inj he
  change decodeRaw ⟨(packA p.code w 7 v a d 21 0), 0, 0, 0⟩ = _
  rw [decodeRaw_decAmo (by simp), decAmo]
  simp [noLit, ck, Raw.imm32, ofOpt, ofOpt2, ofCvt, ofGx, hook5, ctx10]

theorem RoundTrip.amoSwap (p : Scope) (w : Bool) (d a v : BitVec 5) : RoundTrip.Statement (.amoSwap p w d a v) := by
  intro ws hw he
  obtain rfl : Words.short (packA p.code w 8 v a d 21 0) = ws := Option.some.inj he
  change decodeRaw ⟨(packA p.code w 8 v a d 21 0), 0, 0, 0⟩ = _
  rw [decodeRaw_decAmo (by simp), decAmo]
  simp [noLit, ck, Raw.imm32, ofOpt, ofOpt2, ofCvt, ofGx, hook5, ctx10]

theorem RoundTrip.amoFadd (p : Scope) (d a v : BitVec 5) : RoundTrip.Statement (.amoFadd p d a v) := by
  intro ws hw he
  obtain rfl : Words.short (packA p.code false 9 v a d 21 0) = ws := Option.some.inj he
  change decodeRaw ⟨(packA p.code false 9 v a d 21 0), 0, 0, 0⟩ = _
  rw [decodeRaw_decAmo (by simp), decAmo]
  simp [noLit, ck, Raw.imm32, ofOpt, ofOpt2, ofCvt, ofGx, hook5, ctx10]

theorem RoundTrip.amoCas (p : Scope) (w : Bool) (d a v e : BitVec 5) : RoundTrip.Statement (.amoCas p w d a v e) := by
  intro ws hw he
  obtain rfl : Words.ext (packA p.code w 10 v a d 21 2) (packE 0 0 0 0 e) 0 = ws := Option.some.inj he
  change decodeRaw ⟨(packA p.code w 10 v a d 21 2), (packE 0 0 0 0 e), 0, 0⟩ = _
  rw [decodeRaw_decAmo (by simp), decAmo]
  simp [noLit, ck, Raw.imm32, ofOpt, ofOpt2, ofCvt, ofGx, hook5, ctx10]

theorem RoundTrip.fenceImem  : RoundTrip.Statement .fenceImem := by
  intro ws hw he
  obtain rfl : Words.short (packR 0 0 0 0 22 0) = ws := Option.some.inj he
  change decodeRaw ⟨(packR 0 0 0 0 22 0), 0, 0, 0⟩ = _
  rw [decodeRaw_decMemctl (by simp), decMemctl]
  simp [noLit, ck, Raw.imm32, ofOpt, ofOpt2, ofCvt, ofGx, hook5, ctx10]

theorem RoundTrip.fenceExt  : RoundTrip.Statement .fenceExt := by
  intro ws hw he
  obtain rfl : Words.short (packR 1 0 0 0 22 0) = ws := Option.some.inj he
  change decodeRaw ⟨(packR 1 0 0 0 22 0), 0, 0, 0⟩ = _
  rw [decodeRaw_decMemctl (by simp), decMemctl]
  simp [noLit, ck, Raw.imm32, ofOpt, ofOpt2, ofCvt, ofGx, hook5, ctx10]

theorem RoundTrip.discard (s t : BitVec 5) : RoundTrip.Statement (.discard s t) := by
  intro ws hw he
  obtain rfl : Words.short (packR 2 t s 0 22 0) = ws := Option.some.inj he
  change decodeRaw ⟨(packR 2 t s 0 22 0), 0, 0, 0⟩ = _
  rw [decodeRaw_decMemctl (by simp), decMemctl]
  simp [noLit, ck, Raw.imm32, ofOpt, ofOpt2, ofCvt, ofGx, hook5, ctx10]

theorem RoundTrip.dpref (l : Bool) (s : BitVec 5) : RoundTrip.Statement (.dpref l s) := by
  intro ws hw he
  obtain rfl : Words.short (packR 3 (bit5 l) s 0 22 0) = ws := Option.some.inj he
  change decodeRaw ⟨(packR 3 (bit5 l) s 0 22 0), 0, 0, 0⟩ = _
  rw [decodeRaw_decMemctl (by simp), decMemctl]
  simp [noLit, ck, Raw.imm32, ofOpt, ofOpt2, ofCvt, ofGx, hook5, ctx10]

theorem RoundTrip.ipref (s : BitVec 5) : RoundTrip.Statement (.ipref s) := by
  intro ws hw he
  obtain rfl : Words.short (packR 4 0 s 0 22 0) = ws := Option.some.inj he
  change decodeRaw ⟨(packR 4 0 s 0 22 0), 0, 0, 0⟩ = _
  rw [decodeRaw_decMemctl (by simp), decMemctl]
  simp [noLit, ck, Raw.imm32, ofOpt, ofOpt2, ofCvt, ofGx, hook5, ctx10]

theorem RoundTrip.beq (o : BitVec 11) (s t : BitVec 5) : RoundTrip.Statement (.beq o s t) := by
  intro ws hw he
  obtain rfl : Words.short (packS o 0 t s 24 0) = ws := Option.some.inj he
  change decodeRaw ⟨(packS o 0 t s 24 0), 0, 0, 0⟩ = _
  rw [decodeRaw_decBc (by simp), decBc]
  simp [noLit, ck, Raw.imm32, ofOpt, ofOpt2, ofCvt, ofGx, hook5, ctx10]

theorem RoundTrip.beqExt (o : BitVec 32) (s t : BitVec 5) : RoundTrip.Statement (.beqExt o s t) := by
  intro ws hw he
  obtain rfl : Words.ext (packS 0 0 t s 24 2) (packE 0 0 0 0 0) o = ws := Option.some.inj he
  change decodeRaw ⟨(packS 0 0 t s 24 2), (packE 0 0 0 0 0), o, 0⟩ = _
  rw [decodeRaw_decBc (by simp), decBc]
  simp [noLit, ck, Raw.imm32, ofOpt, ofOpt2, ofCvt, ofGx, hook5, ctx10]

theorem RoundTrip.beqLit (l : BitVec 64) (s t : BitVec 5) : RoundTrip.Statement (.beqLit l s t) := by
  intro ws hw he
  change (mul4 l) = true at hw
  obtain rfl : Words.extLit (packS 0 0 t s 24 3) (packE 0 0 0 0 0) 0 l = ws := Option.some.inj he
  change decodeRaw ⟨(packS 0 0 t s 24 3), (packE 0 0 0 0 0), 0, l⟩ = _
  rw [decodeRaw_decBc (by simp), decBc]
  simp [noLit, ck, Raw.imm32, ofOpt, ofOpt2, ofCvt, ofGx, hook5, ctx10, hw]

theorem RoundTrip.bne (o : BitVec 11) (s t : BitVec 5) : RoundTrip.Statement (.bne o s t) := by
  intro ws hw he
  obtain rfl : Words.short (packS o 1 t s 24 0) = ws := Option.some.inj he
  change decodeRaw ⟨(packS o 1 t s 24 0), 0, 0, 0⟩ = _
  rw [decodeRaw_decBc (by simp), decBc]
  simp [noLit, ck, Raw.imm32, ofOpt, ofOpt2, ofCvt, ofGx, hook5, ctx10]

theorem RoundTrip.bneExt (o : BitVec 32) (s t : BitVec 5) : RoundTrip.Statement (.bneExt o s t) := by
  intro ws hw he
  obtain rfl : Words.ext (packS 0 1 t s 24 2) (packE 0 0 0 0 0) o = ws := Option.some.inj he
  change decodeRaw ⟨(packS 0 1 t s 24 2), (packE 0 0 0 0 0), o, 0⟩ = _
  rw [decodeRaw_decBc (by simp), decBc]
  simp [noLit, ck, Raw.imm32, ofOpt, ofOpt2, ofCvt, ofGx, hook5, ctx10]

theorem RoundTrip.bneLit (l : BitVec 64) (s t : BitVec 5) : RoundTrip.Statement (.bneLit l s t) := by
  intro ws hw he
  change (mul4 l) = true at hw
  obtain rfl : Words.extLit (packS 0 1 t s 24 3) (packE 0 0 0 0 0) 0 l = ws := Option.some.inj he
  change decodeRaw ⟨(packS 0 1 t s 24 3), (packE 0 0 0 0 0), 0, l⟩ = _
  rw [decodeRaw_decBc (by simp), decBc]
  simp [noLit, ck, Raw.imm32, ofOpt, ofOpt2, ofCvt, ofGx, hook5, ctx10, hw]

theorem RoundTrip.blt (o : BitVec 11) (s t : BitVec 5) : RoundTrip.Statement (.blt o s t) := by
  intro ws hw he
  obtain rfl : Words.short (packS o 2 t s 24 0) = ws := Option.some.inj he
  change decodeRaw ⟨(packS o 2 t s 24 0), 0, 0, 0⟩ = _
  rw [decodeRaw_decBc (by simp), decBc]
  simp [noLit, ck, Raw.imm32, ofOpt, ofOpt2, ofCvt, ofGx, hook5, ctx10]

theorem RoundTrip.bltExt (o : BitVec 32) (s t : BitVec 5) : RoundTrip.Statement (.bltExt o s t) := by
  intro ws hw he
  obtain rfl : Words.ext (packS 0 2 t s 24 2) (packE 0 0 0 0 0) o = ws := Option.some.inj he
  change decodeRaw ⟨(packS 0 2 t s 24 2), (packE 0 0 0 0 0), o, 0⟩ = _
  rw [decodeRaw_decBc (by simp), decBc]
  simp [noLit, ck, Raw.imm32, ofOpt, ofOpt2, ofCvt, ofGx, hook5, ctx10]

theorem RoundTrip.bltLit (l : BitVec 64) (s t : BitVec 5) : RoundTrip.Statement (.bltLit l s t) := by
  intro ws hw he
  change (mul4 l) = true at hw
  obtain rfl : Words.extLit (packS 0 2 t s 24 3) (packE 0 0 0 0 0) 0 l = ws := Option.some.inj he
  change decodeRaw ⟨(packS 0 2 t s 24 3), (packE 0 0 0 0 0), 0, l⟩ = _
  rw [decodeRaw_decBc (by simp), decBc]
  simp [noLit, ck, Raw.imm32, ofOpt, ofOpt2, ofCvt, ofGx, hook5, ctx10, hw]

theorem RoundTrip.bge (o : BitVec 11) (s t : BitVec 5) : RoundTrip.Statement (.bge o s t) := by
  intro ws hw he
  obtain rfl : Words.short (packS o 3 t s 24 0) = ws := Option.some.inj he
  change decodeRaw ⟨(packS o 3 t s 24 0), 0, 0, 0⟩ = _
  rw [decodeRaw_decBc (by simp), decBc]
  simp [noLit, ck, Raw.imm32, ofOpt, ofOpt2, ofCvt, ofGx, hook5, ctx10]

theorem RoundTrip.bgeExt (o : BitVec 32) (s t : BitVec 5) : RoundTrip.Statement (.bgeExt o s t) := by
  intro ws hw he
  obtain rfl : Words.ext (packS 0 3 t s 24 2) (packE 0 0 0 0 0) o = ws := Option.some.inj he
  change decodeRaw ⟨(packS 0 3 t s 24 2), (packE 0 0 0 0 0), o, 0⟩ = _
  rw [decodeRaw_decBc (by simp), decBc]
  simp [noLit, ck, Raw.imm32, ofOpt, ofOpt2, ofCvt, ofGx, hook5, ctx10]

theorem RoundTrip.bgeLit (l : BitVec 64) (s t : BitVec 5) : RoundTrip.Statement (.bgeLit l s t) := by
  intro ws hw he
  change (mul4 l) = true at hw
  obtain rfl : Words.extLit (packS 0 3 t s 24 3) (packE 0 0 0 0 0) 0 l = ws := Option.some.inj he
  change decodeRaw ⟨(packS 0 3 t s 24 3), (packE 0 0 0 0 0), 0, l⟩ = _
  rw [decodeRaw_decBc (by simp), decBc]
  simp [noLit, ck, Raw.imm32, ofOpt, ofOpt2, ofCvt, ofGx, hook5, ctx10, hw]

theorem RoundTrip.bltu (o : BitVec 11) (s t : BitVec 5) : RoundTrip.Statement (.bltu o s t) := by
  intro ws hw he
  obtain rfl : Words.short (packS o 4 t s 24 0) = ws := Option.some.inj he
  change decodeRaw ⟨(packS o 4 t s 24 0), 0, 0, 0⟩ = _
  rw [decodeRaw_decBc (by simp), decBc]
  simp [noLit, ck, Raw.imm32, ofOpt, ofOpt2, ofCvt, ofGx, hook5, ctx10]

theorem RoundTrip.bltuExt (o : BitVec 32) (s t : BitVec 5) : RoundTrip.Statement (.bltuExt o s t) := by
  intro ws hw he
  obtain rfl : Words.ext (packS 0 4 t s 24 2) (packE 0 0 0 0 0) o = ws := Option.some.inj he
  change decodeRaw ⟨(packS 0 4 t s 24 2), (packE 0 0 0 0 0), o, 0⟩ = _
  rw [decodeRaw_decBc (by simp), decBc]
  simp [noLit, ck, Raw.imm32, ofOpt, ofOpt2, ofCvt, ofGx, hook5, ctx10]

theorem RoundTrip.bltuLit (l : BitVec 64) (s t : BitVec 5) : RoundTrip.Statement (.bltuLit l s t) := by
  intro ws hw he
  change (mul4 l) = true at hw
  obtain rfl : Words.extLit (packS 0 4 t s 24 3) (packE 0 0 0 0 0) 0 l = ws := Option.some.inj he
  change decodeRaw ⟨(packS 0 4 t s 24 3), (packE 0 0 0 0 0), 0, l⟩ = _
  rw [decodeRaw_decBc (by simp), decBc]
  simp [noLit, ck, Raw.imm32, ofOpt, ofOpt2, ofCvt, ofGx, hook5, ctx10, hw]

theorem RoundTrip.bgeu (o : BitVec 11) (s t : BitVec 5) : RoundTrip.Statement (.bgeu o s t) := by
  intro ws hw he
  obtain rfl : Words.short (packS o 5 t s 24 0) = ws := Option.some.inj he
  change decodeRaw ⟨(packS o 5 t s 24 0), 0, 0, 0⟩ = _
  rw [decodeRaw_decBc (by simp), decBc]
  simp [noLit, ck, Raw.imm32, ofOpt, ofOpt2, ofCvt, ofGx, hook5, ctx10]

theorem RoundTrip.bgeuExt (o : BitVec 32) (s t : BitVec 5) : RoundTrip.Statement (.bgeuExt o s t) := by
  intro ws hw he
  obtain rfl : Words.ext (packS 0 5 t s 24 2) (packE 0 0 0 0 0) o = ws := Option.some.inj he
  change decodeRaw ⟨(packS 0 5 t s 24 2), (packE 0 0 0 0 0), o, 0⟩ = _
  rw [decodeRaw_decBc (by simp), decBc]
  simp [noLit, ck, Raw.imm32, ofOpt, ofOpt2, ofCvt, ofGx, hook5, ctx10]

theorem RoundTrip.bgeuLit (l : BitVec 64) (s t : BitVec 5) : RoundTrip.Statement (.bgeuLit l s t) := by
  intro ws hw he
  change (mul4 l) = true at hw
  obtain rfl : Words.extLit (packS 0 5 t s 24 3) (packE 0 0 0 0 0) 0 l = ws := Option.some.inj he
  change decodeRaw ⟨(packS 0 5 t s 24 3), (packE 0 0 0 0 0), 0, l⟩ = _
  rw [decodeRaw_decBc (by simp), decBc]
  simp [noLit, ck, Raw.imm32, ofOpt, ofOpt2, ofCvt, ofGx, hook5, ctx10, hw]

theorem RoundTrip.b (o : BitVec 24) : RoundTrip.Statement (.b o) := by
  intro ws hw he
  obtain rfl : Words.short (packJ o 25 0) = ws := Option.some.inj he
  change decodeRaw ⟨(packJ o 25 0), 0, 0, 0⟩ = _
  rw [decodeRaw_decB (by simp), decB]
  simp [noLit, ck, Raw.imm32, ofOpt, ofOpt2, ofCvt, ofGx, hook5, ctx10]

theorem RoundTrip.bLit (l : BitVec 64) : RoundTrip.Statement (.bLit l) := by
  intro ws hw he
  change (mul4 l) = true at hw
  obtain rfl : Words.shortLit (packJ 0 25 1) l = ws := Option.some.inj he
  change decodeRaw ⟨(packJ 0 25 1), 0, 0, l⟩ = _
  rw [decodeRaw_decB (by simp), decB]
  simp [noLit, ck, Raw.imm32, ofOpt, ofOpt2, ofCvt, ofGx, hook5, ctx10, hw]

theorem RoundTrip.bl (o : BitVec 24) : RoundTrip.Statement (.bl o) := by
  intro ws hw he
  obtain rfl : Words.short (packJ o 26 0) = ws := Option.some.inj he
  change decodeRaw ⟨(packJ o 26 0), 0, 0, 0⟩ = _
  rw [decodeRaw_decBl (by simp), decBl]
  simp [noLit, ck, Raw.imm32, ofOpt, ofOpt2, ofCvt, ofGx, hook5, ctx10]

theorem RoundTrip.blLit (l : BitVec 64) : RoundTrip.Statement (.blLit l) := by
  intro ws hw he
  change (mul4 l) = true at hw
  obtain rfl : Words.shortLit (packJ 0 26 1) l = ws := Option.some.inj he
  change decodeRaw ⟨(packJ 0 26 1), 0, 0, l⟩ = _
  rw [decodeRaw_decBl (by simp), decBl]
  simp [noLit, ck, Raw.imm32, ofOpt, ofOpt2, ofCvt, ofGx, hook5, ctx10, hw]

theorem RoundTrip.br (s : BitVec 5) : RoundTrip.Statement (.br s) := by
  intro ws hw he
  obtain rfl : Words.short (packR 0 0 s 0 27 0) = ws := Option.some.inj he
  change decodeRaw ⟨(packR 0 0 s 0 27 0), 0, 0, 0⟩ = _
  rw [decodeRaw_decJump (by simp), decJump]
  simp [noLit, ck, Raw.imm32, ofOpt, ofOpt2, ofCvt, ofGx, hook5, ctx10]

theorem RoundTrip.blr (d s : BitVec 5) : RoundTrip.Statement (.blr d s) := by
  intro ws hw he
  obtain rfl : Words.short (packR 1 0 s d 27 0) = ws := Option.some.inj he
  change decodeRaw ⟨(packR 1 0 s d 27 0), 0, 0, 0⟩ = _
  rw [decodeRaw_decJump (by simp), decJump]
  simp [noLit, ck, Raw.imm32, ofOpt, ofOpt2, ofCvt, ofGx, hook5, ctx10]

theorem RoundTrip.ret  : RoundTrip.Statement .ret := by
  intro ws hw he
  obtain rfl : Words.short (packR 2 0 0 0 27 0) = ws := Option.some.inj he
  change decodeRaw ⟨(packR 2 0 0 0 27 0), 0, 0, 0⟩ = _
  rw [decodeRaw_decJump (by simp), decJump]
  simp [noLit, ck, Raw.imm32, ofOpt, ofOpt2, ofCvt, ofGx, hook5, ctx10]

theorem RoundTrip.loop (c : BitVec 5) (r : Bool) (o : BitVec 18) : RoundTrip.Statement (.loop c r o) := by
  intro ws hw he
  obtain rfl : Words.short (packL o r c 28 0) = ws := Option.some.inj he
  change decodeRaw ⟨(packL o r c 28 0), 0, 0, 0⟩ = _
  rw [decodeRaw_decLoop (by simp), decLoop]
  simp [noLit, ck, Raw.imm32, ofOpt, ofOpt2, ofCvt, ofGx, hook5, ctx10]

theorem RoundTrip.start (d s t : BitVec 5) : RoundTrip.Statement (.start d s t) := by
  intro ws hw he
  obtain rfl : Words.short (packR 0 t s d 30 0) = ws := Option.some.inj he
  change decodeRaw ⟨(packR 0 t s d 30 0), 0, 0, 0⟩ = _
  rw [decodeRaw_decContext (by simp), decContext]
  simp [noLit, ck, Raw.imm32, ofOpt, ofOpt2, ofCvt, ofGx, hook5, ctx10]

theorem RoundTrip.join (d s : BitVec 5) : RoundTrip.Statement (.join d s) := by
  intro ws hw he
  obtain rfl : Words.short (packR 1 0 s d 30 0) = ws := Option.some.inj he
  change decodeRaw ⟨(packR 1 0 s d 30 0), 0, 0, 0⟩ = _
  rw [decodeRaw_decContext (by simp), decContext]
  simp [noLit, ck, Raw.imm32, ofOpt, ofOpt2, ofCvt, ofGx, hook5, ctx10]

theorem RoundTrip.endc (s : BitVec 5) : RoundTrip.Statement (.endc s) := by
  intro ws hw he
  obtain rfl : Words.short (packR 2 0 s 0 30 0) = ws := Option.some.inj he
  change decodeRaw ⟨(packR 2 0 s 0 30 0), 0, 0, 0⟩ = _
  rw [decodeRaw_decContext (by simp), decContext]
  simp [noLit, ck, Raw.imm32, ofOpt, ofOpt2, ofCvt, ofGx, hook5, ctx10]

theorem RoundTrip.yield  : RoundTrip.Statement .yield := by
  intro ws hw he
  obtain rfl : Words.short (packR 3 0 0 0 30 0) = ws := Option.some.inj he
  change decodeRaw ⟨(packR 3 0 0 0 30 0), 0, 0, 0⟩ = _
  rw [decodeRaw_decContext (by simp), decContext]
  simp [noLit, ck, Raw.imm32, ofOpt, ofOpt2, ofCvt, ofGx, hook5, ctx10]

theorem RoundTrip.trap (n : BitVec 4) (s : BitVec 5) : RoundTrip.Statement (.trap n s) := by
  intro ws hw he
  obtain rfl : Words.short (packR 0 (n.setWidth 5) s 0 31 0) = ws := Option.some.inj he
  change decodeRaw ⟨(packR 0 (n.setWidth 5) s 0 31 0), 0, 0, 0⟩ = _
  rw [decodeRaw_decSystem (by simp), decSystem]
  simp [noLit, ck, Raw.imm32, ofOpt, ofOpt2, ofCvt, ofGx, hook5, ctx10]

theorem RoundTrip.brk  : RoundTrip.Statement .brk := by
  intro ws hw he
  obtain rfl : Words.short (packR 1 0 0 0 31 0) = ws := Option.some.inj he
  change decodeRaw ⟨(packR 1 0 0 0 31 0), 0, 0, 0⟩ = _
  rw [decodeRaw_decSystem (by simp), decSystem]
  simp [noLit, ck, Raw.imm32, ofOpt, ofOpt2, ofCvt, ofGx, hook5, ctx10]

theorem RoundTrip.tret  : RoundTrip.Statement .tret := by
  intro ws hw he
  obtain rfl : Words.short (packR 2 0 0 0 31 0) = ws := Option.some.inj he
  change decodeRaw ⟨(packR 2 0 0 0 31 0), 0, 0, 0⟩ = _
  rw [decodeRaw_decSystem (by simp), decSystem]
  simp [noLit, ck, Raw.imm32, ofOpt, ofOpt2, ofCvt, ofGx, hook5, ctx10]

theorem RoundTrip.rdsr (d : BitVec 5) (i : BitVec 10) : RoundTrip.Statement (.rdsr d i) := by
  intro ws hw he
  obtain rfl : Words.short (packSr 3 i d 31 0) = ws := Option.some.inj he
  change decodeRaw ⟨(packSr 3 i d 31 0), 0, 0, 0⟩ = _
  rw [decodeRaw_decSystem (by simp), decSystem]
  simp [noLit, ck, Raw.imm32, ofOpt, ofOpt2, ofCvt, ofGx, hook5, ctx10]

theorem RoundTrip.wrsr (i : BitVec 10) (s : BitVec 5) : RoundTrip.Statement (.wrsr i s) := by
  intro ws hw he
  obtain rfl : Words.short (packSr 4 i s 31 0) = ws := Option.some.inj he
  change decodeRaw ⟨(packSr 4 i s 31 0), 0, 0, 0⟩ = _
  rw [decodeRaw_decSystem (by simp), decSystem]
  simp [noLit, ck, Raw.imm32, ofOpt, ofOpt2, ofCvt, ofGx, hook5, ctx10]

theorem RoundTrip.rdtime (d : BitVec 5) : RoundTrip.Statement (.rdtime d) := by
  intro ws hw he
  obtain rfl : Words.short (packR 5 0 0 d 31 0) = ws := Option.some.inj he
  change decodeRaw ⟨(packR 5 0 0 d 31 0), 0, 0, 0⟩ = _
  rw [decodeRaw_decSystem (by simp), decSystem]
  simp [noLit, ck, Raw.imm32, ofOpt, ofOpt2, ofCvt, ofGx, hook5, ctx10]

theorem RoundTrip.vld (t : Type4) (k : BitVec 3) (i : BitVec 32) (a b : BitVec 5) : RoundTrip.Statement (.vld t k i a b) := by
  intro ws hw he
  change (t.lane) = true at hw
  obtain rfl : Words.ext (packR 0 0 b a 32 2) (packE 0 k t.code 0 0) i = ws := Option.some.inj he
  change decodeRaw ⟨(packR 0 0 b a 32 2), (packE 0 k t.code 0 0), i, 0⟩ = _
  rw [decodeRaw_decVload (by simp), decVload]
  simp [noLit, ck, Raw.imm32, ofOpt, ofOpt2, ofCvt, ofGx, hook5, ctx10, hw, type4_lane hw, type4_lane5 hw]

theorem RoundTrip.vldLit (t : Type4) (k : BitVec 3) (l : BitVec 64) (a b : BitVec 5) : RoundTrip.Statement (.vldLit t k l a b) := by
  intro ws hw he
  change (t.lane) = true at hw
  obtain rfl : Words.extLit (packR 0 0 b a 32 3) (packE 0 k t.code 0 0) 0 l = ws := Option.some.inj he
  change decodeRaw ⟨(packR 0 0 b a 32 3), (packE 0 k t.code 0 0), 0, l⟩ = _
  rw [decodeRaw_decVload (by simp), decVload]
  simp [noLit, ck, Raw.imm32, ofOpt, ofOpt2, ofCvt, ofGx, hook5, ctx10, hw, type4_lane hw, type4_lane5 hw]

theorem RoundTrip.vldP (t : Type4) (k : BitVec 3) (i : BitVec 32) (a b : BitVec 5) : RoundTrip.Statement (.vldP t k i a b) := by
  intro ws hw he
  change (t.lane) = true at hw
  obtain rfl : Words.ext (packR 1 0 b a 32 2) (packE 0 k t.code 0 0) i = ws := Option.some.inj he
  change decodeRaw ⟨(packR 1 0 b a 32 2), (packE 0 k t.code 0 0), i, 0⟩ = _
  rw [decodeRaw_decVload (by simp), decVload]
  simp [noLit, ck, Raw.imm32, ofOpt, ofOpt2, ofCvt, ofGx, hook5, ctx10, hw, type4_lane hw, type4_lane5 hw]

theorem RoundTrip.vldPLit (t : Type4) (k : BitVec 3) (l : BitVec 64) (a b : BitVec 5) : RoundTrip.Statement (.vldPLit t k l a b) := by
  intro ws hw he
  change (t.lane) = true at hw
  obtain rfl : Words.extLit (packR 1 0 b a 32 3) (packE 0 k t.code 0 0) 0 l = ws := Option.some.inj he
  change decodeRaw ⟨(packR 1 0 b a 32 3), (packE 0 k t.code 0 0), 0, l⟩ = _
  rw [decodeRaw_decVload (by simp), decVload]
  simp [noLit, ck, Raw.imm32, ofOpt, ofOpt2, ofCvt, ofGx, hook5, ctx10, hw, type4_lane hw, type4_lane5 hw]

theorem RoundTrip.vlds (t : Type4) (k : BitVec 3) (i : BitVec 32) (a b c : BitVec 5) : RoundTrip.Statement (.vlds t k i a b c) := by
  intro ws hw he
  change (t.lane) = true at hw
  obtain rfl : Words.ext (packR 2 c b a 32 2) (packE 0 k t.code 0 0) i = ws := Option.some.inj he
  change decodeRaw ⟨(packR 2 c b a 32 2), (packE 0 k t.code 0 0), i, 0⟩ = _
  rw [decodeRaw_decVload (by simp), decVload]
  simp [noLit, ck, Raw.imm32, ofOpt, ofOpt2, ofCvt, ofGx, hook5, ctx10, hw, type4_lane hw, type4_lane5 hw]

theorem RoundTrip.vldsLit (t : Type4) (k : BitVec 3) (l : BitVec 64) (a b c : BitVec 5) : RoundTrip.Statement (.vldsLit t k l a b c) := by
  intro ws hw he
  change (t.lane) = true at hw
  obtain rfl : Words.extLit (packR 2 c b a 32 3) (packE 0 k t.code 0 0) 0 l = ws := Option.some.inj he
  change decodeRaw ⟨(packR 2 c b a 32 3), (packE 0 k t.code 0 0), 0, l⟩ = _
  rw [decodeRaw_decVload (by simp), decVload]
  simp [noLit, ck, Raw.imm32, ofOpt, ofOpt2, ofCvt, ofGx, hook5, ctx10, hw, type4_lane hw, type4_lane5 hw]

theorem RoundTrip.vldx (t : Type4) (k sh : BitVec 3) (i : BitVec 32) (a b c : BitVec 5) : RoundTrip.Statement (.vldx t k sh i a b c) := by
  intro ws hw he
  change (sh != 7 && t.lane) = true at hw
  simp only [Bool.and_eq_true] at hw
  obtain ⟨hw0, hw1⟩ := hw
  obtain rfl : Words.ext (packR 3 c b a 32 2) (packE 0 k t.code (sh.setWidth 5) 0) i = ws := Option.some.inj he
  change decodeRaw ⟨(packR 3 c b a 32 2), (packE 0 k t.code (sh.setWidth 5) 0), i, 0⟩ = _
  rw [decodeRaw_decVload (by simp), decVload]
  simp [noLit, ck, Raw.imm32, ofOpt, ofOpt2, ofCvt, ofGx, hook5, ctx10, hw0, sh6_w hw0, hw1, type4_lane hw1, type4_lane5 hw1]

theorem RoundTrip.vldxLit (t : Type4) (k sh : BitVec 3) (l : BitVec 64) (a b c : BitVec 5) : RoundTrip.Statement (.vldxLit t k sh l a b c) := by
  intro ws hw he
  change (sh != 7 && t.lane) = true at hw
  simp only [Bool.and_eq_true] at hw
  obtain ⟨hw0, hw1⟩ := hw
  obtain rfl : Words.extLit (packR 3 c b a 32 3) (packE 0 k t.code (sh.setWidth 5) 0) 0 l = ws := Option.some.inj he
  change decodeRaw ⟨(packR 3 c b a 32 3), (packE 0 k t.code (sh.setWidth 5) 0), 0, l⟩ = _
  rw [decodeRaw_decVload (by simp), decVload]
  simp [noLit, ck, Raw.imm32, ofOpt, ofOpt2, ofCvt, ofGx, hook5, ctx10, hw0, sh6_w hw0, hw1, type4_lane hw1, type4_lane5 hw1]

theorem RoundTrip.vldb (t : Type4) (k : BitVec 3) (i : BitVec 32) (a b : BitVec 5) : RoundTrip.Statement (.vldb t k i a b) := by
  intro ws hw he
  change (t.lane) = true at hw
  obtain rfl : Words.ext (packR 4 0 b a 32 2) (packE 0 k t.code 0 0) i = ws := Option.some.inj he
  change decodeRaw ⟨(packR 4 0 b a 32 2), (packE 0 k t.code 0 0), i, 0⟩ = _
  rw [decodeRaw_decVload (by simp), decVload]
  simp [noLit, ck, Raw.imm32, ofOpt, ofOpt2, ofCvt, ofGx, hook5, ctx10, hw, type4_lane hw, type4_lane5 hw]

theorem RoundTrip.vldbLit (t : Type4) (k : BitVec 3) (l : BitVec 64) (a b : BitVec 5) : RoundTrip.Statement (.vldbLit t k l a b) := by
  intro ws hw he
  change (t.lane) = true at hw
  obtain rfl : Words.extLit (packR 4 0 b a 32 3) (packE 0 k t.code 0 0) 0 l = ws := Option.some.inj he
  change decodeRaw ⟨(packR 4 0 b a 32 3), (packE 0 k t.code 0 0), 0, l⟩ = _
  rw [decodeRaw_decVload (by simp), decVload]
  simp [noLit, ck, Raw.imm32, ofOpt, ofOpt2, ofCvt, ofGx, hook5, ctx10, hw, type4_lane hw, type4_lane5 hw]

theorem RoundTrip.vst (t : Type4) (k : BitVec 3) (i : BitVec 32) (a b : BitVec 5) : RoundTrip.Statement (.vst t k i a b) := by
  intro ws hw he
  change (t.lane) = true at hw
  obtain rfl : Words.ext (packR 0 0 b a 33 2) (packE 0 k t.code 0 0) i = ws := Option.some.inj he
  change decodeRaw ⟨(packR 0 0 b a 33 2), (packE 0 k t.code 0 0), i, 0⟩ = _
  rw [decodeRaw_decVstore (by simp), decVstore]
  simp [noLit, ck, Raw.imm32, ofOpt, ofOpt2, ofCvt, ofGx, hook5, ctx10, hw, type4_lane hw, type4_lane5 hw]

theorem RoundTrip.vstLit (t : Type4) (k : BitVec 3) (l : BitVec 64) (a b : BitVec 5) : RoundTrip.Statement (.vstLit t k l a b) := by
  intro ws hw he
  change (t.lane) = true at hw
  obtain rfl : Words.extLit (packR 0 0 b a 33 3) (packE 0 k t.code 0 0) 0 l = ws := Option.some.inj he
  change decodeRaw ⟨(packR 0 0 b a 33 3), (packE 0 k t.code 0 0), 0, l⟩ = _
  rw [decodeRaw_decVstore (by simp), decVstore]
  simp [noLit, ck, Raw.imm32, ofOpt, ofOpt2, ofCvt, ofGx, hook5, ctx10, hw, type4_lane hw, type4_lane5 hw]

theorem RoundTrip.vstP (t : Type4) (k : BitVec 3) (i : BitVec 32) (a b : BitVec 5) : RoundTrip.Statement (.vstP t k i a b) := by
  intro ws hw he
  change (t.lane) = true at hw
  obtain rfl : Words.ext (packR 1 0 b a 33 2) (packE 0 k t.code 0 0) i = ws := Option.some.inj he
  change decodeRaw ⟨(packR 1 0 b a 33 2), (packE 0 k t.code 0 0), i, 0⟩ = _
  rw [decodeRaw_decVstore (by simp), decVstore]
  simp [noLit, ck, Raw.imm32, ofOpt, ofOpt2, ofCvt, ofGx, hook5, ctx10, hw, type4_lane hw, type4_lane5 hw]

theorem RoundTrip.vstPLit (t : Type4) (k : BitVec 3) (l : BitVec 64) (a b : BitVec 5) : RoundTrip.Statement (.vstPLit t k l a b) := by
  intro ws hw he
  change (t.lane) = true at hw
  obtain rfl : Words.extLit (packR 1 0 b a 33 3) (packE 0 k t.code 0 0) 0 l = ws := Option.some.inj he
  change decodeRaw ⟨(packR 1 0 b a 33 3), (packE 0 k t.code 0 0), 0, l⟩ = _
  rw [decodeRaw_decVstore (by simp), decVstore]
  simp [noLit, ck, Raw.imm32, ofOpt, ofOpt2, ofCvt, ofGx, hook5, ctx10, hw, type4_lane hw, type4_lane5 hw]

theorem RoundTrip.vsts (t : Type4) (k : BitVec 3) (i : BitVec 32) (a b c : BitVec 5) : RoundTrip.Statement (.vsts t k i a b c) := by
  intro ws hw he
  change (t.lane) = true at hw
  obtain rfl : Words.ext (packR 2 c b a 33 2) (packE 0 k t.code 0 0) i = ws := Option.some.inj he
  change decodeRaw ⟨(packR 2 c b a 33 2), (packE 0 k t.code 0 0), i, 0⟩ = _
  rw [decodeRaw_decVstore (by simp), decVstore]
  simp [noLit, ck, Raw.imm32, ofOpt, ofOpt2, ofCvt, ofGx, hook5, ctx10, hw, type4_lane hw, type4_lane5 hw]

theorem RoundTrip.vstsLit (t : Type4) (k : BitVec 3) (l : BitVec 64) (a b c : BitVec 5) : RoundTrip.Statement (.vstsLit t k l a b c) := by
  intro ws hw he
  change (t.lane) = true at hw
  obtain rfl : Words.extLit (packR 2 c b a 33 3) (packE 0 k t.code 0 0) 0 l = ws := Option.some.inj he
  change decodeRaw ⟨(packR 2 c b a 33 3), (packE 0 k t.code 0 0), 0, l⟩ = _
  rw [decodeRaw_decVstore (by simp), decVstore]
  simp [noLit, ck, Raw.imm32, ofOpt, ofOpt2, ofCvt, ofGx, hook5, ctx10, hw, type4_lane hw, type4_lane5 hw]

theorem RoundTrip.vstx (t : Type4) (k sh : BitVec 3) (i : BitVec 32) (a b c : BitVec 5) : RoundTrip.Statement (.vstx t k sh i a b c) := by
  intro ws hw he
  change (sh != 7 && t.lane) = true at hw
  simp only [Bool.and_eq_true] at hw
  obtain ⟨hw0, hw1⟩ := hw
  obtain rfl : Words.ext (packR 3 c b a 33 2) (packE 0 k t.code (sh.setWidth 5) 0) i = ws := Option.some.inj he
  change decodeRaw ⟨(packR 3 c b a 33 2), (packE 0 k t.code (sh.setWidth 5) 0), i, 0⟩ = _
  rw [decodeRaw_decVstore (by simp), decVstore]
  simp [noLit, ck, Raw.imm32, ofOpt, ofOpt2, ofCvt, ofGx, hook5, ctx10, hw0, sh6_w hw0, hw1, type4_lane hw1, type4_lane5 hw1]

theorem RoundTrip.vstxLit (t : Type4) (k sh : BitVec 3) (l : BitVec 64) (a b c : BitVec 5) : RoundTrip.Statement (.vstxLit t k sh l a b c) := by
  intro ws hw he
  change (sh != 7 && t.lane) = true at hw
  simp only [Bool.and_eq_true] at hw
  obtain ⟨hw0, hw1⟩ := hw
  obtain rfl : Words.extLit (packR 3 c b a 33 3) (packE 0 k t.code (sh.setWidth 5) 0) 0 l = ws := Option.some.inj he
  change decodeRaw ⟨(packR 3 c b a 33 3), (packE 0 k t.code (sh.setWidth 5) 0), 0, l⟩ = _
  rw [decodeRaw_decVstore (by simp), decVstore]
  simp [noLit, ck, Raw.imm32, ofOpt, ofOpt2, ofCvt, ofGx, hook5, ctx10, hw0, sh6_w hw0, hw1, type4_lane hw1, type4_lane5 hw1]

theorem RoundTrip.vadd (k : BitVec 2) (y : LaneT) (a b c : BitVec 5) : RoundTrip.Statement (.vadd k y a b c) := by
  intro ws hw he
  change (y.FI) = true at hw
  obtain rfl : Words.short (packV k y.code3 0 c b a 34 0) = ws := Option.some.inj he
  change decodeRaw ⟨(packV k y.code3 0 c b a 34 0), 0, 0, 0⟩ = _
  rw [decodeRaw_decValuA (by simp), decValuA]
  simp [noLit, ck, Raw.imm32, ofOpt, ofOpt2, ofCvt, ofGx, hook5, ctx10, hw]

theorem RoundTrip.vaddExt (k : BitVec 3) (y : LaneT) (r : Rnd) (a b c : BitVec 5) : RoundTrip.Statement (.vaddExt k y r a b c) := by
  intro ws hw he
  change (extType y LaneT.FI && modeOk y r) = true at hw
  simp only [Bool.and_eq_true] at hw
  obtain ⟨hw0, hw1⟩ := hw
  obtain rfl : Words.ext (packV 0 0 0 c b a 34 2) (packE (r.code.setWidth 15) k y.code4 0 0) 0 = ws := Option.some.inj he
  change decodeRaw ⟨(packV 0 0 0 c b a 34 2), (packE (r.code.setWidth 15) k y.code4 0 0), 0, 0⟩ = _
  rw [decodeRaw_decValuA (by simp), decValuA]
  simp [noLit, ck, Raw.imm32, ofOpt, ofOpt2, ofCvt, ofGx, hook5, ctx10, hw0, lane_code4 hw0, hw1]

theorem RoundTrip.vsub (k : BitVec 2) (y : LaneT) (a b c : BitVec 5) : RoundTrip.Statement (.vsub k y a b c) := by
  intro ws hw he
  change (y.FI) = true at hw
  obtain rfl : Words.short (packV k y.code3 1 c b a 34 0) = ws := Option.some.inj he
  change decodeRaw ⟨(packV k y.code3 1 c b a 34 0), 0, 0, 0⟩ = _
  rw [decodeRaw_decValuA (by simp), decValuA]
  simp [noLit, ck, Raw.imm32, ofOpt, ofOpt2, ofCvt, ofGx, hook5, ctx10, hw]

theorem RoundTrip.vsubExt (k : BitVec 3) (y : LaneT) (r : Rnd) (a b c : BitVec 5) : RoundTrip.Statement (.vsubExt k y r a b c) := by
  intro ws hw he
  change (extType y LaneT.FI && modeOk y r) = true at hw
  simp only [Bool.and_eq_true] at hw
  obtain ⟨hw0, hw1⟩ := hw
  obtain rfl : Words.ext (packV 0 0 1 c b a 34 2) (packE (r.code.setWidth 15) k y.code4 0 0) 0 = ws := Option.some.inj he
  change decodeRaw ⟨(packV 0 0 1 c b a 34 2), (packE (r.code.setWidth 15) k y.code4 0 0), 0, 0⟩ = _
  rw [decodeRaw_decValuA (by simp), decValuA]
  simp [noLit, ck, Raw.imm32, ofOpt, ofOpt2, ofCvt, ofGx, hook5, ctx10, hw0, lane_code4 hw0, hw1]

theorem RoundTrip.vmul (k : BitVec 2) (y : LaneT) (a b c : BitVec 5) : RoundTrip.Statement (.vmul k y a b c) := by
  intro ws hw he
  change (y.FI) = true at hw
  obtain rfl : Words.short (packV k y.code3 2 c b a 34 0) = ws := Option.some.inj he
  change decodeRaw ⟨(packV k y.code3 2 c b a 34 0), 0, 0, 0⟩ = _
  rw [decodeRaw_decValuA (by simp), decValuA]
  simp [noLit, ck, Raw.imm32, ofOpt, ofOpt2, ofCvt, ofGx, hook5, ctx10, hw]

theorem RoundTrip.vmulExt (k : BitVec 3) (y : LaneT) (r : Rnd) (a b c : BitVec 5) : RoundTrip.Statement (.vmulExt k y r a b c) := by
  intro ws hw he
  change (extType y LaneT.FI && modeOk y r) = true at hw
  simp only [Bool.and_eq_true] at hw
  obtain ⟨hw0, hw1⟩ := hw
  obtain rfl : Words.ext (packV 0 0 2 c b a 34 2) (packE (r.code.setWidth 15) k y.code4 0 0) 0 = ws := Option.some.inj he
  change decodeRaw ⟨(packV 0 0 2 c b a 34 2), (packE (r.code.setWidth 15) k y.code4 0 0), 0, 0⟩ = _
  rw [decodeRaw_decValuA (by simp), decValuA]
  simp [noLit, ck, Raw.imm32, ofOpt, ofOpt2, ofCvt, ofGx, hook5, ctx10, hw0, lane_code4 hw0, hw1]

theorem RoundTrip.vmin (k : BitVec 2) (y : LaneT) (a b c : BitVec 5) : RoundTrip.Statement (.vmin k y a b c) := by
  intro ws hw he
  change (y.FI) = true at hw
  obtain rfl : Words.short (packV k y.code3 3 c b a 34 0) = ws := Option.some.inj he
  change decodeRaw ⟨(packV k y.code3 3 c b a 34 0), 0, 0, 0⟩ = _
  rw [decodeRaw_decValuA (by simp), decValuA]
  simp [noLit, ck, Raw.imm32, ofOpt, ofOpt2, ofCvt, ofGx, hook5, ctx10, hw]

theorem RoundTrip.vminExt (k : BitVec 3) (y : LaneT) (a b c : BitVec 5) : RoundTrip.Statement (.vminExt k y a b c) := by
  intro ws hw he
  change (extType y LaneT.FI) = true at hw
  obtain rfl : Words.ext (packV 0 0 3 c b a 34 2) (packE 0 k y.code4 0 0) 0 = ws := Option.some.inj he
  change decodeRaw ⟨(packV 0 0 3 c b a 34 2), (packE 0 k y.code4 0 0), 0, 0⟩ = _
  rw [decodeRaw_decValuA (by simp), decValuA]
  simp [noLit, ck, Raw.imm32, ofOpt, ofOpt2, ofCvt, ofGx, hook5, ctx10, hw, lane_code4 hw]

theorem RoundTrip.vmax (k : BitVec 2) (y : LaneT) (a b c : BitVec 5) : RoundTrip.Statement (.vmax k y a b c) := by
  intro ws hw he
  change (y.FI) = true at hw
  obtain rfl : Words.short (packV k y.code3 4 c b a 34 0) = ws := Option.some.inj he
  change decodeRaw ⟨(packV k y.code3 4 c b a 34 0), 0, 0, 0⟩ = _
  rw [decodeRaw_decValuA (by simp), decValuA]
  simp [noLit, ck, Raw.imm32, ofOpt, ofOpt2, ofCvt, ofGx, hook5, ctx10, hw]

theorem RoundTrip.vmaxExt (k : BitVec 3) (y : LaneT) (a b c : BitVec 5) : RoundTrip.Statement (.vmaxExt k y a b c) := by
  intro ws hw he
  change (extType y LaneT.FI) = true at hw
  obtain rfl : Words.ext (packV 0 0 4 c b a 34 2) (packE 0 k y.code4 0 0) 0 = ws := Option.some.inj he
  change decodeRaw ⟨(packV 0 0 4 c b a 34 2), (packE 0 k y.code4 0 0), 0, 0⟩ = _
  rw [decodeRaw_decValuA (by simp), decValuA]
  simp [noLit, ck, Raw.imm32, ofOpt, ofOpt2, ofCvt, ofGx, hook5, ctx10, hw, lane_code4 hw]

theorem RoundTrip.vand (k : BitVec 2) (y : LaneT) (a b c : BitVec 5) : RoundTrip.Statement (.vand k y a b c) := by
  intro ws hw he
  change (y.IB) = true at hw
  obtain rfl : Words.short (packV k y.code3 5 c b a 34 0) = ws := Option.some.inj he
  change decodeRaw ⟨(packV k y.code3 5 c b a 34 0), 0, 0, 0⟩ = _
  rw [decodeRaw_decValuA (by simp), decValuA]
  simp [noLit, ck, Raw.imm32, ofOpt, ofOpt2, ofCvt, ofGx, hook5, ctx10, hw]

theorem RoundTrip.vandExt (k : BitVec 3) (y : LaneT) (a b c : BitVec 5) : RoundTrip.Statement (.vandExt k y a b c) := by
  intro ws hw he
  change (extType y LaneT.IB) = true at hw
  obtain rfl : Words.ext (packV 0 0 5 c b a 34 2) (packE 0 k y.code4 0 0) 0 = ws := Option.some.inj he
  change decodeRaw ⟨(packV 0 0 5 c b a 34 2), (packE 0 k y.code4 0 0), 0, 0⟩ = _
  rw [decodeRaw_decValuA (by simp), decValuA]
  simp [noLit, ck, Raw.imm32, ofOpt, ofOpt2, ofCvt, ofGx, hook5, ctx10, hw, lane_code4 hw]

theorem RoundTrip.vor (k : BitVec 2) (y : LaneT) (a b c : BitVec 5) : RoundTrip.Statement (.vor k y a b c) := by
  intro ws hw he
  change (y.IB) = true at hw
  obtain rfl : Words.short (packV k y.code3 6 c b a 34 0) = ws := Option.some.inj he
  change decodeRaw ⟨(packV k y.code3 6 c b a 34 0), 0, 0, 0⟩ = _
  rw [decodeRaw_decValuA (by simp), decValuA]
  simp [noLit, ck, Raw.imm32, ofOpt, ofOpt2, ofCvt, ofGx, hook5, ctx10, hw]

theorem RoundTrip.vorExt (k : BitVec 3) (y : LaneT) (a b c : BitVec 5) : RoundTrip.Statement (.vorExt k y a b c) := by
  intro ws hw he
  change (extType y LaneT.IB) = true at hw
  obtain rfl : Words.ext (packV 0 0 6 c b a 34 2) (packE 0 k y.code4 0 0) 0 = ws := Option.some.inj he
  change decodeRaw ⟨(packV 0 0 6 c b a 34 2), (packE 0 k y.code4 0 0), 0, 0⟩ = _
  rw [decodeRaw_decValuA (by simp), decValuA]
  simp [noLit, ck, Raw.imm32, ofOpt, ofOpt2, ofCvt, ofGx, hook5, ctx10, hw, lane_code4 hw]

theorem RoundTrip.vxor (k : BitVec 2) (y : LaneT) (a b c : BitVec 5) : RoundTrip.Statement (.vxor k y a b c) := by
  intro ws hw he
  change (y.IB) = true at hw
  obtain rfl : Words.short (packV k y.code3 7 c b a 34 0) = ws := Option.some.inj he
  change decodeRaw ⟨(packV k y.code3 7 c b a 34 0), 0, 0, 0⟩ = _
  rw [decodeRaw_decValuA (by simp), decValuA]
  simp [noLit, ck, Raw.imm32, ofOpt, ofOpt2, ofCvt, ofGx, hook5, ctx10, hw]

theorem RoundTrip.vxorExt (k : BitVec 3) (y : LaneT) (a b c : BitVec 5) : RoundTrip.Statement (.vxorExt k y a b c) := by
  intro ws hw he
  change (extType y LaneT.IB) = true at hw
  obtain rfl : Words.ext (packV 0 0 7 c b a 34 2) (packE 0 k y.code4 0 0) 0 = ws := Option.some.inj he
  change decodeRaw ⟨(packV 0 0 7 c b a 34 2), (packE 0 k y.code4 0 0), 0, 0⟩ = _
  rw [decodeRaw_decValuA (by simp), decValuA]
  simp [noLit, ck, Raw.imm32, ofOpt, ofOpt2, ofCvt, ofGx, hook5, ctx10, hw, lane_code4 hw]

theorem RoundTrip.vandn (k : BitVec 2) (y : LaneT) (a b c : BitVec 5) : RoundTrip.Statement (.vandn k y a b c) := by
  intro ws hw he
  change (y.IB) = true at hw
  obtain rfl : Words.short (packV k y.code3 8 c b a 34 0) = ws := Option.some.inj he
  change decodeRaw ⟨(packV k y.code3 8 c b a 34 0), 0, 0, 0⟩ = _
  rw [decodeRaw_decValuA (by simp), decValuA]
  simp [noLit, ck, Raw.imm32, ofOpt, ofOpt2, ofCvt, ofGx, hook5, ctx10, hw]

theorem RoundTrip.vandnExt (k : BitVec 3) (y : LaneT) (a b c : BitVec 5) : RoundTrip.Statement (.vandnExt k y a b c) := by
  intro ws hw he
  change (extType y LaneT.IB) = true at hw
  obtain rfl : Words.ext (packV 0 0 8 c b a 34 2) (packE 0 k y.code4 0 0) 0 = ws := Option.some.inj he
  change decodeRaw ⟨(packV 0 0 8 c b a 34 2), (packE 0 k y.code4 0 0), 0, 0⟩ = _
  rw [decodeRaw_decValuA (by simp), decValuA]
  simp [noLit, ck, Raw.imm32, ofOpt, ofOpt2, ofCvt, ofGx, hook5, ctx10, hw, lane_code4 hw]

theorem RoundTrip.vshl (k : BitVec 2) (y : LaneT) (a b c : BitVec 5) : RoundTrip.Statement (.vshl k y a b c) := by
  intro ws hw he
  change (y.I) = true at hw
  obtain rfl : Words.short (packV k y.code3 9 c b a 34 0) = ws := Option.some.inj he
  change decodeRaw ⟨(packV k y.code3 9 c b a 34 0), 0, 0, 0⟩ = _
  rw [decodeRaw_decValuA (by simp), decValuA]
  simp [noLit, ck, Raw.imm32, ofOpt, ofOpt2, ofCvt, ofGx, hook5, ctx10, hw]

theorem RoundTrip.vshlExt (k : BitVec 3) (y : LaneT) (a b c : BitVec 5) : RoundTrip.Statement (.vshlExt k y a b c) := by
  intro ws hw he
  change (extType y LaneT.I) = true at hw
  obtain rfl : Words.ext (packV 0 0 9 c b a 34 2) (packE 0 k y.code4 0 0) 0 = ws := Option.some.inj he
  change decodeRaw ⟨(packV 0 0 9 c b a 34 2), (packE 0 k y.code4 0 0), 0, 0⟩ = _
  rw [decodeRaw_decValuA (by simp), decValuA]
  simp [noLit, ck, Raw.imm32, ofOpt, ofOpt2, ofCvt, ofGx, hook5, ctx10, hw, lane_code4 hw]

theorem RoundTrip.vshr (k : BitVec 2) (y : LaneT) (a b c : BitVec 5) : RoundTrip.Statement (.vshr k y a b c) := by
  intro ws hw he
  change (y.I) = true at hw
  obtain rfl : Words.short (packV k y.code3 10 c b a 34 0) = ws := Option.some.inj he
  change decodeRaw ⟨(packV k y.code3 10 c b a 34 0), 0, 0, 0⟩ = _
  rw [decodeRaw_decValuA (by simp), decValuA]
  simp [noLit, ck, Raw.imm32, ofOpt, ofOpt2, ofCvt, ofGx, hook5, ctx10, hw]

theorem RoundTrip.vshrExt (k : BitVec 3) (y : LaneT) (a b c : BitVec 5) : RoundTrip.Statement (.vshrExt k y a b c) := by
  intro ws hw he
  change (extType y LaneT.I) = true at hw
  obtain rfl : Words.ext (packV 0 0 10 c b a 34 2) (packE 0 k y.code4 0 0) 0 = ws := Option.some.inj he
  change decodeRaw ⟨(packV 0 0 10 c b a 34 2), (packE 0 k y.code4 0 0), 0, 0⟩ = _
  rw [decodeRaw_decValuA (by simp), decValuA]
  simp [noLit, ck, Raw.imm32, ofOpt, ofOpt2, ofCvt, ofGx, hook5, ctx10, hw, lane_code4 hw]

theorem RoundTrip.vsra (k : BitVec 2) (y : LaneT) (a b c : BitVec 5) : RoundTrip.Statement (.vsra k y a b c) := by
  intro ws hw he
  change (y.I) = true at hw
  obtain rfl : Words.short (packV k y.code3 11 c b a 34 0) = ws := Option.some.inj he
  change decodeRaw ⟨(packV k y.code3 11 c b a 34 0), 0, 0, 0⟩ = _
  rw [decodeRaw_decValuA (by simp), decValuA]
  simp [noLit, ck, Raw.imm32, ofOpt, ofOpt2, ofCvt, ofGx, hook5, ctx10, hw]

theorem RoundTrip.vsraExt (k : BitVec 3) (y : LaneT) (a b c : BitVec 5) : RoundTrip.Statement (.vsraExt k y a b c) := by
  intro ws hw he
  change (extType y LaneT.I) = true at hw
  obtain rfl : Words.ext (packV 0 0 11 c b a 34 2) (packE 0 k y.code4 0 0) 0 = ws := Option.some.inj he
  change decodeRaw ⟨(packV 0 0 11 c b a 34 2), (packE 0 k y.code4 0 0), 0, 0⟩ = _
  rw [decodeRaw_decValuA (by simp), decValuA]
  simp [noLit, ck, Raw.imm32, ofOpt, ofOpt2, ofCvt, ofGx, hook5, ctx10, hw, lane_code4 hw]

theorem RoundTrip.vabs (k : BitVec 2) (y : LaneT) (a b : BitVec 5) : RoundTrip.Statement (.vabs k y a b) := by
  intro ws hw he
  change (y.FI) = true at hw
  obtain rfl : Words.short (packV k y.code3 12 0 b a 34 0) = ws := Option.some.inj he
  change decodeRaw ⟨(packV k y.code3 12 0 b a 34 0), 0, 0, 0⟩ = _
  rw [decodeRaw_decValuA (by simp), decValuA]
  simp [noLit, ck, Raw.imm32, ofOpt, ofOpt2, ofCvt, ofGx, hook5, ctx10, hw]

theorem RoundTrip.vabsExt (k : BitVec 3) (y : LaneT) (a b : BitVec 5) : RoundTrip.Statement (.vabsExt k y a b) := by
  intro ws hw he
  change (extType y LaneT.FI) = true at hw
  obtain rfl : Words.ext (packV 0 0 12 0 b a 34 2) (packE 0 k y.code4 0 0) 0 = ws := Option.some.inj he
  change decodeRaw ⟨(packV 0 0 12 0 b a 34 2), (packE 0 k y.code4 0 0), 0, 0⟩ = _
  rw [decodeRaw_decValuA (by simp), decValuA]
  simp [noLit, ck, Raw.imm32, ofOpt, ofOpt2, ofCvt, ofGx, hook5, ctx10, hw, lane_code4 hw]

theorem RoundTrip.vneg (k : BitVec 2) (y : LaneT) (a b : BitVec 5) : RoundTrip.Statement (.vneg k y a b) := by
  intro ws hw he
  change (y.FI) = true at hw
  obtain rfl : Words.short (packV k y.code3 13 0 b a 34 0) = ws := Option.some.inj he
  change decodeRaw ⟨(packV k y.code3 13 0 b a 34 0), 0, 0, 0⟩ = _
  rw [decodeRaw_decValuA (by simp), decValuA]
  simp [noLit, ck, Raw.imm32, ofOpt, ofOpt2, ofCvt, ofGx, hook5, ctx10, hw]

theorem RoundTrip.vnegExt (k : BitVec 3) (y : LaneT) (a b : BitVec 5) : RoundTrip.Statement (.vnegExt k y a b) := by
  intro ws hw he
  change (extType y LaneT.FI) = true at hw
  obtain rfl : Words.ext (packV 0 0 13 0 b a 34 2) (packE 0 k y.code4 0 0) 0 = ws := Option.some.inj he
  change decodeRaw ⟨(packV 0 0 13 0 b a 34 2), (packE 0 k y.code4 0 0), 0, 0⟩ = _
  rw [decodeRaw_decValuA (by simp), decValuA]
  simp [noLit, ck, Raw.imm32, ofOpt, ofOpt2, ofCvt, ofGx, hook5, ctx10, hw, lane_code4 hw]

theorem RoundTrip.vmov (k : BitVec 2) (y : LaneT) (a b : BitVec 5) : RoundTrip.Statement (.vmov k y a b) := by
  intro ws hw he
  change (y.any) = true at hw
  obtain rfl : Words.short (packV k y.code3 14 0 b a 34 0) = ws := Option.some.inj he
  change decodeRaw ⟨(packV k y.code3 14 0 b a 34 0), 0, 0, 0⟩ = _
  rw [decodeRaw_decValuA (by simp), decValuA]
  simp [noLit, ck, Raw.imm32, ofOpt, ofOpt2, ofCvt, ofGx, hook5, ctx10, hw]

theorem RoundTrip.vmovExt (k : BitVec 3) (y : LaneT) (a b : BitVec 5) : RoundTrip.Statement (.vmovExt k y a b) := by
  intro ws hw he
  change (extType y LaneT.any) = true at hw
  obtain rfl : Words.ext (packV 0 0 14 0 b a 34 2) (packE 0 k y.code4 0 0) 0 = ws := Option.some.inj he
  change decodeRaw ⟨(packV 0 0 14 0 b a 34 2), (packE 0 k y.code4 0 0), 0, 0⟩ = _
  rw [decodeRaw_decValuA (by simp), decValuA]
  simp [noLit, ck, Raw.imm32, ofOpt, ofOpt2, ofCvt, ofGx, hook5, ctx10, hw, lane_code4 hw]

theorem RoundTrip.vsel (k : BitVec 2) (y : LaneT) (a b c : BitVec 5) : RoundTrip.Statement (.vsel k y a b c) := by
  intro ws hw he
  change (y.any) = true at hw
  obtain rfl : Words.short (packV k y.code3 15 c b a 34 0) = ws := Option.some.inj he
  change decodeRaw ⟨(packV k y.code3 15 c b a 34 0), 0, 0, 0⟩ = _
  rw [decodeRaw_decValuA (by simp), decValuA]
  simp [noLit, ck, Raw.imm32, ofOpt, ofOpt2, ofCvt, ofGx, hook5, ctx10, hw]

theorem RoundTrip.vselExt (k : BitVec 3) (y : LaneT) (a b c : BitVec 5) : RoundTrip.Statement (.vselExt k y a b c) := by
  intro ws hw he
  change (extType y LaneT.any) = true at hw
  obtain rfl : Words.ext (packV 0 0 15 c b a 34 2) (packE 0 k y.code4 0 0) 0 = ws := Option.some.inj he
  change decodeRaw ⟨(packV 0 0 15 c b a 34 2), (packE 0 k y.code4 0 0), 0, 0⟩ = _
  rw [decodeRaw_decValuA (by simp), decValuA]
  simp [noLit, ck, Raw.imm32, ofOpt, ofOpt2, ofCvt, ofGx, hook5, ctx10, hw, lane_code4 hw]

theorem RoundTrip.vminu (k : BitVec 2) (y : LaneT) (a b c : BitVec 5) : RoundTrip.Statement (.vminu k y a b c) := by
  intro ws hw he
  change (y.I) = true at hw
  obtain rfl : Words.short (packV k y.code3 0 c b a 35 0) = ws := Option.some.inj he
  change decodeRaw ⟨(packV k y.code3 0 c b a 35 0), 0, 0, 0⟩ = _
  rw [decodeRaw_decValuB (by simp), decValuB]
  simp [noLit, ck, Raw.imm32, ofOpt, ofOpt2, ofCvt, ofGx, hook5, ctx10, hw]

theorem RoundTrip.vminuExt (k : BitVec 3) (y : LaneT) (a b c : BitVec 5) : RoundTrip.Statement (.vminuExt k y a b c) := by
  intro ws hw he
  change (extType y LaneT.I) = true at hw
  obtain rfl : Words.ext (packV 0 0 0 c b a 35 2) (packE 0 k y.code4 0 0) 0 = ws := Option.some.inj he
  change decodeRaw ⟨(packV 0 0 0 c b a 35 2), (packE 0 k y.code4 0 0), 0, 0⟩ = _
  rw [decodeRaw_decValuB (by simp), decValuB]
  simp [noLit, ck, Raw.imm32, ofOpt, ofOpt2, ofCvt, ofGx, hook5, ctx10, hw, lane_code4 hw]

theorem RoundTrip.vmaxu (k : BitVec 2) (y : LaneT) (a b c : BitVec 5) : RoundTrip.Statement (.vmaxu k y a b c) := by
  intro ws hw he
  change (y.I) = true at hw
  obtain rfl : Words.short (packV k y.code3 1 c b a 35 0) = ws := Option.some.inj he
  change decodeRaw ⟨(packV k y.code3 1 c b a 35 0), 0, 0, 0⟩ = _
  rw [decodeRaw_decValuB (by simp), decValuB]
  simp [noLit, ck, Raw.imm32, ofOpt, ofOpt2, ofCvt, ofGx, hook5, ctx10, hw]

theorem RoundTrip.vmaxuExt (k : BitVec 3) (y : LaneT) (a b c : BitVec 5) : RoundTrip.Statement (.vmaxuExt k y a b c) := by
  intro ws hw he
  change (extType y LaneT.I) = true at hw
  obtain rfl : Words.ext (packV 0 0 1 c b a 35 2) (packE 0 k y.code4 0 0) 0 = ws := Option.some.inj he
  change decodeRaw ⟨(packV 0 0 1 c b a 35 2), (packE 0 k y.code4 0 0), 0, 0⟩ = _
  rw [decodeRaw_decValuB (by simp), decValuB]
  simp [noLit, ck, Raw.imm32, ofOpt, ofOpt2, ofCvt, ofGx, hook5, ctx10, hw, lane_code4 hw]

theorem RoundTrip.vmulh (k : BitVec 2) (y : LaneT) (a b c : BitVec 5) : RoundTrip.Statement (.vmulh k y a b c) := by
  intro ws hw he
  change (y.I) = true at hw
  obtain rfl : Words.short (packV k y.code3 2 c b a 35 0) = ws := Option.some.inj he
  change decodeRaw ⟨(packV k y.code3 2 c b a 35 0), 0, 0, 0⟩ = _
  rw [decodeRaw_decValuB (by simp), decValuB]
  simp [noLit, ck, Raw.imm32, ofOpt, ofOpt2, ofCvt, ofGx, hook5, ctx10, hw]

theorem RoundTrip.vmulhExt (k : BitVec 3) (y : LaneT) (a b c : BitVec 5) : RoundTrip.Statement (.vmulhExt k y a b c) := by
  intro ws hw he
  change (extType y LaneT.I) = true at hw
  obtain rfl : Words.ext (packV 0 0 2 c b a 35 2) (packE 0 k y.code4 0 0) 0 = ws := Option.some.inj he
  change decodeRaw ⟨(packV 0 0 2 c b a 35 2), (packE 0 k y.code4 0 0), 0, 0⟩ = _
  rw [decodeRaw_decValuB (by simp), decValuB]
  simp [noLit, ck, Raw.imm32, ofOpt, ofOpt2, ofCvt, ofGx, hook5, ctx10, hw, lane_code4 hw]

theorem RoundTrip.vmulhu (k : BitVec 2) (y : LaneT) (a b c : BitVec 5) : RoundTrip.Statement (.vmulhu k y a b c) := by
  intro ws hw he
  change (y.I) = true at hw
  obtain rfl : Words.short (packV k y.code3 3 c b a 35 0) = ws := Option.some.inj he
  change decodeRaw ⟨(packV k y.code3 3 c b a 35 0), 0, 0, 0⟩ = _
  rw [decodeRaw_decValuB (by simp), decValuB]
  simp [noLit, ck, Raw.imm32, ofOpt, ofOpt2, ofCvt, ofGx, hook5, ctx10, hw]

theorem RoundTrip.vmulhuExt (k : BitVec 3) (y : LaneT) (a b c : BitVec 5) : RoundTrip.Statement (.vmulhuExt k y a b c) := by
  intro ws hw he
  change (extType y LaneT.I) = true at hw
  obtain rfl : Words.ext (packV 0 0 3 c b a 35 2) (packE 0 k y.code4 0 0) 0 = ws := Option.some.inj he
  change decodeRaw ⟨(packV 0 0 3 c b a 35 2), (packE 0 k y.code4 0 0), 0, 0⟩ = _
  rw [decodeRaw_decValuB (by simp), decValuB]
  simp [noLit, ck, Raw.imm32, ofOpt, ofOpt2, ofCvt, ofGx, hook5, ctx10, hw, lane_code4 hw]

theorem RoundTrip.vavg (k : BitVec 2) (y : LaneT) (a b c : BitVec 5) : RoundTrip.Statement (.vavg k y a b c) := by
  intro ws hw he
  change (y.I) = true at hw
  obtain rfl : Words.short (packV k y.code3 4 c b a 35 0) = ws := Option.some.inj he
  change decodeRaw ⟨(packV k y.code3 4 c b a 35 0), 0, 0, 0⟩ = _
  rw [decodeRaw_decValuB (by simp), decValuB]
  simp [noLit, ck, Raw.imm32, ofOpt, ofOpt2, ofCvt, ofGx, hook5, ctx10, hw]

theorem RoundTrip.vavgExt (k : BitVec 3) (y : LaneT) (a b c : BitVec 5) : RoundTrip.Statement (.vavgExt k y a b c) := by
  intro ws hw he
  change (extType y LaneT.I) = true at hw
  obtain rfl : Words.ext (packV 0 0 4 c b a 35 2) (packE 0 k y.code4 0 0) 0 = ws := Option.some.inj he
  change decodeRaw ⟨(packV 0 0 4 c b a 35 2), (packE 0 k y.code4 0 0), 0, 0⟩ = _
  rw [decodeRaw_decValuB (by simp), decValuB]
  simp [noLit, ck, Raw.imm32, ofOpt, ofOpt2, ofCvt, ofGx, hook5, ctx10, hw, lane_code4 hw]

theorem RoundTrip.vadds (k : BitVec 2) (y : LaneT) (a b c : BitVec 5) : RoundTrip.Statement (.vadds k y a b c) := by
  intro ws hw he
  change (y.I) = true at hw
  obtain rfl : Words.short (packV k y.code3 5 c b a 35 0) = ws := Option.some.inj he
  change decodeRaw ⟨(packV k y.code3 5 c b a 35 0), 0, 0, 0⟩ = _
  rw [decodeRaw_decValuB (by simp), decValuB]
  simp [noLit, ck, Raw.imm32, ofOpt, ofOpt2, ofCvt, ofGx, hook5, ctx10, hw]

theorem RoundTrip.vaddsExt (k : BitVec 3) (y : LaneT) (a b c : BitVec 5) : RoundTrip.Statement (.vaddsExt k y a b c) := by
  intro ws hw he
  change (extType y LaneT.I) = true at hw
  obtain rfl : Words.ext (packV 0 0 5 c b a 35 2) (packE 0 k y.code4 0 0) 0 = ws := Option.some.inj he
  change decodeRaw ⟨(packV 0 0 5 c b a 35 2), (packE 0 k y.code4 0 0), 0, 0⟩ = _
  rw [decodeRaw_decValuB (by simp), decValuB]
  simp [noLit, ck, Raw.imm32, ofOpt, ofOpt2, ofCvt, ofGx, hook5, ctx10, hw, lane_code4 hw]

theorem RoundTrip.vsubs (k : BitVec 2) (y : LaneT) (a b c : BitVec 5) : RoundTrip.Statement (.vsubs k y a b c) := by
  intro ws hw he
  change (y.I) = true at hw
  obtain rfl : Words.short (packV k y.code3 6 c b a 35 0) = ws := Option.some.inj he
  change decodeRaw ⟨(packV k y.code3 6 c b a 35 0), 0, 0, 0⟩ = _
  rw [decodeRaw_decValuB (by simp), decValuB]
  simp [noLit, ck, Raw.imm32, ofOpt, ofOpt2, ofCvt, ofGx, hook5, ctx10, hw]

theorem RoundTrip.vsubsExt (k : BitVec 3) (y : LaneT) (a b c : BitVec 5) : RoundTrip.Statement (.vsubsExt k y a b c) := by
  intro ws hw he
  change (extType y LaneT.I) = true at hw
  obtain rfl : Words.ext (packV 0 0 6 c b a 35 2) (packE 0 k y.code4 0 0) 0 = ws := Option.some.inj he
  change decodeRaw ⟨(packV 0 0 6 c b a 35 2), (packE 0 k y.code4 0 0), 0, 0⟩ = _
  rw [decodeRaw_decValuB (by simp), decValuB]
  simp [noLit, ck, Raw.imm32, ofOpt, ofOpt2, ofCvt, ofGx, hook5, ctx10, hw, lane_code4 hw]

theorem RoundTrip.vaddsu (k : BitVec 2) (y : LaneT) (a b c : BitVec 5) : RoundTrip.Statement (.vaddsu k y a b c) := by
  intro ws hw he
  change (y.I) = true at hw
  obtain rfl : Words.short (packV k y.code3 7 c b a 35 0) = ws := Option.some.inj he
  change decodeRaw ⟨(packV k y.code3 7 c b a 35 0), 0, 0, 0⟩ = _
  rw [decodeRaw_decValuB (by simp), decValuB]
  simp [noLit, ck, Raw.imm32, ofOpt, ofOpt2, ofCvt, ofGx, hook5, ctx10, hw]

theorem RoundTrip.vaddsuExt (k : BitVec 3) (y : LaneT) (a b c : BitVec 5) : RoundTrip.Statement (.vaddsuExt k y a b c) := by
  intro ws hw he
  change (extType y LaneT.I) = true at hw
  obtain rfl : Words.ext (packV 0 0 7 c b a 35 2) (packE 0 k y.code4 0 0) 0 = ws := Option.some.inj he
  change decodeRaw ⟨(packV 0 0 7 c b a 35 2), (packE 0 k y.code4 0 0), 0, 0⟩ = _
  rw [decodeRaw_decValuB (by simp), decValuB]
  simp [noLit, ck, Raw.imm32, ofOpt, ofOpt2, ofCvt, ofGx, hook5, ctx10, hw, lane_code4 hw]

theorem RoundTrip.vsubsu (k : BitVec 2) (y : LaneT) (a b c : BitVec 5) : RoundTrip.Statement (.vsubsu k y a b c) := by
  intro ws hw he
  change (y.I) = true at hw
  obtain rfl : Words.short (packV k y.code3 8 c b a 35 0) = ws := Option.some.inj he
  change decodeRaw ⟨(packV k y.code3 8 c b a 35 0), 0, 0, 0⟩ = _
  rw [decodeRaw_decValuB (by simp), decValuB]
  simp [noLit, ck, Raw.imm32, ofOpt, ofOpt2, ofCvt, ofGx, hook5, ctx10, hw]

theorem RoundTrip.vsubsuExt (k : BitVec 3) (y : LaneT) (a b c : BitVec 5) : RoundTrip.Statement (.vsubsuExt k y a b c) := by
  intro ws hw he
  change (extType y LaneT.I) = true at hw
  obtain rfl : Words.ext (packV 0 0 8 c b a 35 2) (packE 0 k y.code4 0 0) 0 = ws := Option.some.inj he
  change decodeRaw ⟨(packV 0 0 8 c b a 35 2), (packE 0 k y.code4 0 0), 0, 0⟩ = _
  rw [decodeRaw_decValuB (by simp), decValuB]
  simp [noLit, ck, Raw.imm32, ofOpt, ofOpt2, ofCvt, ofGx, hook5, ctx10, hw, lane_code4 hw]

theorem RoundTrip.vcmpEq (k : BitVec 2) (y : LaneT) (b c : BitVec 5) (a : BitVec 3) : RoundTrip.Statement (.vcmpEq k y b c a) := by
  intro ws hw he
  change (y.FI) = true at hw
  obtain rfl : Words.short (packV k y.code3 9 c b (a.setWidth 5) 35 0) = ws := Option.some.inj he
  change decodeRaw ⟨(packV k y.code3 9 c b (a.setWidth 5) 35 0), 0, 0, 0⟩ = _
  rw [decodeRaw_decValuB (by simp), decValuB]
  simp [noLit, ck, Raw.imm32, ofOpt, ofOpt2, ofCvt, ofGx, hook5, ctx10, hw]

theorem RoundTrip.vcmpEqExt (k : BitVec 3) (y : LaneT) (b c : BitVec 5) (a : BitVec 3) : RoundTrip.Statement (.vcmpEqExt k y b c a) := by
  intro ws hw he
  change (extType y LaneT.FI) = true at hw
  obtain rfl : Words.ext (packV 0 0 9 c b (a.setWidth 5) 35 2) (packE 0 k y.code4 0 0) 0 = ws := Option.some.inj he
  change decodeRaw ⟨(packV 0 0 9 c b (a.setWidth 5) 35 2), (packE 0 k y.code4 0 0), 0, 0⟩ = _
  rw [decodeRaw_decValuB (by simp), decValuB]
  simp [noLit, ck, Raw.imm32, ofOpt, ofOpt2, ofCvt, ofGx, hook5, ctx10, hw, lane_code4 hw]

theorem RoundTrip.vcmpNe (k : BitVec 2) (y : LaneT) (b c : BitVec 5) (a : BitVec 3) : RoundTrip.Statement (.vcmpNe k y b c a) := by
  intro ws hw he
  change (y.FI) = true at hw
  obtain rfl : Words.short (packV k y.code3 10 c b (a.setWidth 5) 35 0) = ws := Option.some.inj he
  change decodeRaw ⟨(packV k y.code3 10 c b (a.setWidth 5) 35 0), 0, 0, 0⟩ = _
  rw [decodeRaw_decValuB (by simp), decValuB]
  simp [noLit, ck, Raw.imm32, ofOpt, ofOpt2, ofCvt, ofGx, hook5, ctx10, hw]

theorem RoundTrip.vcmpNeExt (k : BitVec 3) (y : LaneT) (b c : BitVec 5) (a : BitVec 3) : RoundTrip.Statement (.vcmpNeExt k y b c a) := by
  intro ws hw he
  change (extType y LaneT.FI) = true at hw
  obtain rfl : Words.ext (packV 0 0 10 c b (a.setWidth 5) 35 2) (packE 0 k y.code4 0 0) 0 = ws := Option.some.inj he
  change decodeRaw ⟨(packV 0 0 10 c b (a.setWidth 5) 35 2), (packE 0 k y.code4 0 0), 0, 0⟩ = _
  rw [decodeRaw_decValuB (by simp), decValuB]
  simp [noLit, ck, Raw.imm32, ofOpt, ofOpt2, ofCvt, ofGx, hook5, ctx10, hw, lane_code4 hw]

theorem RoundTrip.vcmpLt (k : BitVec 2) (y : LaneT) (b c : BitVec 5) (a : BitVec 3) : RoundTrip.Statement (.vcmpLt k y b c a) := by
  intro ws hw he
  change (y.FI) = true at hw
  obtain rfl : Words.short (packV k y.code3 11 c b (a.setWidth 5) 35 0) = ws := Option.some.inj he
  change decodeRaw ⟨(packV k y.code3 11 c b (a.setWidth 5) 35 0), 0, 0, 0⟩ = _
  rw [decodeRaw_decValuB (by simp), decValuB]
  simp [noLit, ck, Raw.imm32, ofOpt, ofOpt2, ofCvt, ofGx, hook5, ctx10, hw]

theorem RoundTrip.vcmpLtExt (k : BitVec 3) (y : LaneT) (b c : BitVec 5) (a : BitVec 3) : RoundTrip.Statement (.vcmpLtExt k y b c a) := by
  intro ws hw he
  change (extType y LaneT.FI) = true at hw
  obtain rfl : Words.ext (packV 0 0 11 c b (a.setWidth 5) 35 2) (packE 0 k y.code4 0 0) 0 = ws := Option.some.inj he
  change decodeRaw ⟨(packV 0 0 11 c b (a.setWidth 5) 35 2), (packE 0 k y.code4 0 0), 0, 0⟩ = _
  rw [decodeRaw_decValuB (by simp), decValuB]
  simp [noLit, ck, Raw.imm32, ofOpt, ofOpt2, ofCvt, ofGx, hook5, ctx10, hw, lane_code4 hw]

theorem RoundTrip.vcmpLe (k : BitVec 2) (y : LaneT) (b c : BitVec 5) (a : BitVec 3) : RoundTrip.Statement (.vcmpLe k y b c a) := by
  intro ws hw he
  change (y.FI) = true at hw
  obtain rfl : Words.short (packV k y.code3 12 c b (a.setWidth 5) 35 0) = ws := Option.some.inj he
  change decodeRaw ⟨(packV k y.code3 12 c b (a.setWidth 5) 35 0), 0, 0, 0⟩ = _
  rw [decodeRaw_decValuB (by simp), decValuB]
  simp [noLit, ck, Raw.imm32, ofOpt, ofOpt2, ofCvt, ofGx, hook5, ctx10, hw]

theorem RoundTrip.vcmpLeExt (k : BitVec 3) (y : LaneT) (b c : BitVec 5) (a : BitVec 3) : RoundTrip.Statement (.vcmpLeExt k y b c a) := by
  intro ws hw he
  change (extType y LaneT.FI) = true at hw
  obtain rfl : Words.ext (packV 0 0 12 c b (a.setWidth 5) 35 2) (packE 0 k y.code4 0 0) 0 = ws := Option.some.inj he
  change decodeRaw ⟨(packV 0 0 12 c b (a.setWidth 5) 35 2), (packE 0 k y.code4 0 0), 0, 0⟩ = _
  rw [decodeRaw_decValuB (by simp), decValuB]
  simp [noLit, ck, Raw.imm32, ofOpt, ofOpt2, ofCvt, ofGx, hook5, ctx10, hw, lane_code4 hw]

theorem RoundTrip.vcmpLtu (k : BitVec 2) (y : LaneT) (b c : BitVec 5) (a : BitVec 3) : RoundTrip.Statement (.vcmpLtu k y b c a) := by
  intro ws hw he
  change (y.I) = true at hw
  obtain rfl : Words.short (packV k y.code3 13 c b (a.setWidth 5) 35 0) = ws := Option.some.inj he
  change decodeRaw ⟨(packV k y.code3 13 c b (a.setWidth 5) 35 0), 0, 0, 0⟩ = _
  rw [decodeRaw_decValuB (by simp), decValuB]
  simp [noLit, ck, Raw.imm32, ofOpt, ofOpt2, ofCvt, ofGx, hook5, ctx10, hw]

theorem RoundTrip.vcmpLtuExt (k : BitVec 3) (y : LaneT) (b c : BitVec 5) (a : BitVec 3) : RoundTrip.Statement (.vcmpLtuExt k y b c a) := by
  intro ws hw he
  change (extType y LaneT.I) = true at hw
  obtain rfl : Words.ext (packV 0 0 13 c b (a.setWidth 5) 35 2) (packE 0 k y.code4 0 0) 0 = ws := Option.some.inj he
  change decodeRaw ⟨(packV 0 0 13 c b (a.setWidth 5) 35 2), (packE 0 k y.code4 0 0), 0, 0⟩ = _
  rw [decodeRaw_decValuB (by simp), decValuB]
  simp [noLit, ck, Raw.imm32, ofOpt, ofOpt2, ofCvt, ofGx, hook5, ctx10, hw, lane_code4 hw]

theorem RoundTrip.vcmpLeu (k : BitVec 2) (y : LaneT) (b c : BitVec 5) (a : BitVec 3) : RoundTrip.Statement (.vcmpLeu k y b c a) := by
  intro ws hw he
  change (y.I) = true at hw
  obtain rfl : Words.short (packV k y.code3 14 c b (a.setWidth 5) 35 0) = ws := Option.some.inj he
  change decodeRaw ⟨(packV k y.code3 14 c b (a.setWidth 5) 35 0), 0, 0, 0⟩ = _
  rw [decodeRaw_decValuB (by simp), decValuB]
  simp [noLit, ck, Raw.imm32, ofOpt, ofOpt2, ofCvt, ofGx, hook5, ctx10, hw]

theorem RoundTrip.vcmpLeuExt (k : BitVec 3) (y : LaneT) (b c : BitVec 5) (a : BitVec 3) : RoundTrip.Statement (.vcmpLeuExt k y b c a) := by
  intro ws hw he
  change (extType y LaneT.I) = true at hw
  obtain rfl : Words.ext (packV 0 0 14 c b (a.setWidth 5) 35 2) (packE 0 k y.code4 0 0) 0 = ws := Option.some.inj he
  change decodeRaw ⟨(packV 0 0 14 c b (a.setWidth 5) 35 2), (packE 0 k y.code4 0 0), 0, 0⟩ = _
  rw [decodeRaw_decValuB (by simp), decValuB]
  simp [noLit, ck, Raw.imm32, ofOpt, ofOpt2, ofCvt, ofGx, hook5, ctx10, hw, lane_code4 hw]

theorem RoundTrip.vclass (k : BitVec 2) (y : LaneT) (a b : BitVec 5) : RoundTrip.Statement (.vclass k y a b) := by
  intro ws hw he
  change (y.F) = true at hw
  obtain rfl : Words.short (packV k y.code3 15 0 b a 35 0) = ws := Option.some.inj he
  change decodeRaw ⟨(packV k y.code3 15 0 b a 35 0), 0, 0, 0⟩ = _
  rw [decodeRaw_decValuB (by simp), decValuB]
  simp [noLit, ck, Raw.imm32, ofOpt, ofOpt2, ofCvt, ofGx, hook5, ctx10, hw]

theorem RoundTrip.vclassExt (k : BitVec 3) (y : LaneT) (a b : BitVec 5) : RoundTrip.Statement (.vclassExt k y a b) := by
  intro ws hw he
  change (extType y LaneT.F) = true at hw
  obtain rfl : Words.ext (packV 0 0 15 0 b a 35 2) (packE 0 k y.code4 0 0) 0 = ws := Option.some.inj he
  change decodeRaw ⟨(packV 0 0 15 0 b a 35 2), (packE 0 k y.code4 0 0), 0, 0⟩ = _
  rw [decodeRaw_decValuB (by simp), decValuB]
  simp [noLit, ck, Raw.imm32, ofOpt, ofOpt2, ofCvt, ofGx, hook5, ctx10, hw, lane_code4 hw]

theorem RoundTrip.vfma (k : BitVec 2) (y : LaneT) (a b c : BitVec 5) : RoundTrip.Statement (.vfma k y a b c) := by
  intro ws hw he
  change (y.FI) = true at hw
  obtain rfl : Words.short (packV k y.code3 0 c b a 36 0) = ws := Option.some.inj he
  change decodeRaw ⟨(packV k y.code3 0 c b a 36 0), 0, 0, 0⟩ = _
  rw [decodeRaw_decVfma (by simp), decVfma]
  simp [noLit, ck, Raw.imm32, ofOpt, ofOpt2, ofCvt, ofGx, hook5, ctx10, hw]

theorem RoundTrip.vfmaExt (k : BitVec 3) (y : LaneT) (r : Rnd) (a b c : BitVec 5) : RoundTrip.Statement (.vfmaExt k y r a b c) := by
  intro ws hw he
  change (extType y LaneT.FI && modeOk y r) = true at hw
  simp only [Bool.and_eq_true] at hw
  obtain ⟨hw0, hw1⟩ := hw
  obtain rfl : Words.ext (packV 0 0 0 c b a 36 2) (packE (r.code.setWidth 15) k y.code4 0 0) 0 = ws := Option.some.inj he
  change decodeRaw ⟨(packV 0 0 0 c b a 36 2), (packE (r.code.setWidth 15) k y.code4 0 0), 0, 0⟩ = _
  rw [decodeRaw_decVfma (by simp), decVfma]
  simp [noLit, ck, Raw.imm32, ofOpt, ofOpt2, ofCvt, ofGx, hook5, ctx10, hw0, lane_code4 hw0, hw1]

theorem RoundTrip.vfms (k : BitVec 2) (y : LaneT) (a b c : BitVec 5) : RoundTrip.Statement (.vfms k y a b c) := by
  intro ws hw he
  change (y.FI) = true at hw
  obtain rfl : Words.short (packV k y.code3 1 c b a 36 0) = ws := Option.some.inj he
  change decodeRaw ⟨(packV k y.code3 1 c b a 36 0), 0, 0, 0⟩ = _
  rw [decodeRaw_decVfma (by simp), decVfma]
  simp [noLit, ck, Raw.imm32, ofOpt, ofOpt2, ofCvt, ofGx, hook5, ctx10, hw]

theorem RoundTrip.vfmsExt (k : BitVec 3) (y : LaneT) (r : Rnd) (a b c : BitVec 5) : RoundTrip.Statement (.vfmsExt k y r a b c) := by
  intro ws hw he
  change (extType y LaneT.FI && modeOk y r) = true at hw
  simp only [Bool.and_eq_true] at hw
  obtain ⟨hw0, hw1⟩ := hw
  obtain rfl : Words.ext (packV 0 0 1 c b a 36 2) (packE (r.code.setWidth 15) k y.code4 0 0) 0 = ws := Option.some.inj he
  change decodeRaw ⟨(packV 0 0 1 c b a 36 2), (packE (r.code.setWidth 15) k y.code4 0 0), 0, 0⟩ = _
  rw [decodeRaw_decVfma (by simp), decVfma]
  simp [noLit, ck, Raw.imm32, ofOpt, ofOpt2, ofCvt, ofGx, hook5, ctx10, hw0, lane_code4 hw0, hw1]

theorem RoundTrip.vfnma (k : BitVec 2) (y : LaneT) (a b c : BitVec 5) : RoundTrip.Statement (.vfnma k y a b c) := by
  intro ws hw he
  change (y.FI) = true at hw
  obtain rfl : Words.short (packV k y.code3 2 c b a 36 0) = ws := Option.some.inj he
  change decodeRaw ⟨(packV k y.code3 2 c b a 36 0), 0, 0, 0⟩ = _
  rw [decodeRaw_decVfma (by simp), decVfma]
  simp [noLit, ck, Raw.imm32, ofOpt, ofOpt2, ofCvt, ofGx, hook5, ctx10, hw]

theorem RoundTrip.vfnmaExt (k : BitVec 3) (y : LaneT) (r : Rnd) (a b c : BitVec 5) : RoundTrip.Statement (.vfnmaExt k y r a b c) := by
  intro ws hw he
  change (extType y LaneT.FI && modeOk y r) = true at hw
  simp only [Bool.and_eq_true] at hw
  obtain ⟨hw0, hw1⟩ := hw
  obtain rfl : Words.ext (packV 0 0 2 c b a 36 2) (packE (r.code.setWidth 15) k y.code4 0 0) 0 = ws := Option.some.inj he
  change decodeRaw ⟨(packV 0 0 2 c b a 36 2), (packE (r.code.setWidth 15) k y.code4 0 0), 0, 0⟩ = _
  rw [decodeRaw_decVfma (by simp), decVfma]
  simp [noLit, ck, Raw.imm32, ofOpt, ofOpt2, ofCvt, ofGx, hook5, ctx10, hw0, lane_code4 hw0, hw1]

theorem RoundTrip.vfnms (k : BitVec 2) (y : LaneT) (a b c : BitVec 5) : RoundTrip.Statement (.vfnms k y a b c) := by
  intro ws hw he
  change (y.FI) = true at hw
  obtain rfl : Words.short (packV k y.code3 3 c b a 36 0) = ws := Option.some.inj he
  change decodeRaw ⟨(packV k y.code3 3 c b a 36 0), 0, 0, 0⟩ = _
  rw [decodeRaw_decVfma (by simp), decVfma]
  simp [noLit, ck, Raw.imm32, ofOpt, ofOpt2, ofCvt, ofGx, hook5, ctx10, hw]

theorem RoundTrip.vfnmsExt (k : BitVec 3) (y : LaneT) (r : Rnd) (a b c : BitVec 5) : RoundTrip.Statement (.vfnmsExt k y r a b c) := by
  intro ws hw he
  change (extType y LaneT.FI && modeOk y r) = true at hw
  simp only [Bool.and_eq_true] at hw
  obtain ⟨hw0, hw1⟩ := hw
  obtain rfl : Words.ext (packV 0 0 3 c b a 36 2) (packE (r.code.setWidth 15) k y.code4 0 0) 0 = ws := Option.some.inj he
  change decodeRaw ⟨(packV 0 0 3 c b a 36 2), (packE (r.code.setWidth 15) k y.code4 0 0), 0, 0⟩ = _
  rw [decodeRaw_decVfma (by simp), decVfma]
  simp [noLit, ck, Raw.imm32, ofOpt, ofOpt2, ofCvt, ofGx, hook5, ctx10, hw0, lane_code4 hw0, hw1]

theorem RoundTrip.vdot4 (k : BitVec 2) (y : LaneT) (a b c : BitVec 5) : RoundTrip.Statement (.vdot4 k y a b c) := by
  intro ws hw he
  change (y.dot4) = true at hw
  obtain rfl : Words.short (packV k y.code3 4 c b a 36 0) = ws := Option.some.inj he
  change decodeRaw ⟨(packV k y.code3 4 c b a 36 0), 0, 0, 0⟩ = _
  rw [decodeRaw_decVfma (by simp), decVfma]
  simp [noLit, ck, Raw.imm32, ofOpt, ofOpt2, ofCvt, ofGx, hook5, ctx10, hw]

theorem RoundTrip.vdot4Ext (k : BitVec 3) (y : LaneT) (a b c : BitVec 5) : RoundTrip.Statement (.vdot4Ext k y a b c) := by
  intro ws hw he
  change (extType y LaneT.dot4) = true at hw
  obtain rfl : Words.ext (packV 0 0 4 c b a 36 2) (packE 0 k y.code4 0 0) 0 = ws := Option.some.inj he
  change decodeRaw ⟨(packV 0 0 4 c b a 36 2), (packE 0 k y.code4 0 0), 0, 0⟩ = _
  rw [decodeRaw_decVfma (by simp), decVfma]
  simp [noLit, ck, Raw.imm32, ofOpt, ofOpt2, ofCvt, ofGx, hook5, ctx10, hw, lane_code4 hw]

theorem RoundTrip.vdot2 (k : BitVec 2) (y : LaneT) (a b c : BitVec 5) : RoundTrip.Statement (.vdot2 k y a b c) := by
  intro ws hw he
  change (y.dot2) = true at hw
  obtain rfl : Words.short (packV k y.code3 5 c b a 36 0) = ws := Option.some.inj he
  change decodeRaw ⟨(packV k y.code3 5 c b a 36 0), 0, 0, 0⟩ = _
  rw [decodeRaw_decVfma (by simp), decVfma]
  simp [noLit, ck, Raw.imm32, ofOpt, ofOpt2, ofCvt, ofGx, hook5, ctx10, hw]

theorem RoundTrip.vdot2Ext (k : BitVec 3) (y : LaneT) (r : Rnd) (a b c : BitVec 5) : RoundTrip.Statement (.vdot2Ext k y r a b c) := by
  intro ws hw he
  change (extType y LaneT.dot2 && modeOk y r) = true at hw
  simp only [Bool.and_eq_true] at hw
  obtain ⟨hw0, hw1⟩ := hw
  obtain rfl : Words.ext (packV 0 0 5 c b a 36 2) (packE (r.code.setWidth 15) k y.code4 0 0) 0 = ws := Option.some.inj he
  change decodeRaw ⟨(packV 0 0 5 c b a 36 2), (packE (r.code.setWidth 15) k y.code4 0 0), 0, 0⟩ = _
  rw [decodeRaw_decVfma (by simp), decVfma]
  simp [noLit, ck, Raw.imm32, ofOpt, ofOpt2, ofCvt, ofGx, hook5, ctx10, hw0, lane_code4 hw0, hw1]

theorem RoundTrip.vexp2 (k : BitVec 2) (y : LaneT) (a b : BitVec 5) : RoundTrip.Statement (.vexp2 k y a b) := by
  intro ws hw he
  change (y.F) = true at hw
  obtain rfl : Words.short (packV k y.code3 0 0 b a 37 0) = ws := Option.some.inj he
  change decodeRaw ⟨(packV k y.code3 0 0 b a 37 0), 0, 0, 0⟩ = _
  rw [decodeRaw_decVspec (by simp), decVspec]
  simp [noLit, ck, Raw.imm32, ofOpt, ofOpt2, ofCvt, ofGx, hook5, ctx10, hw]

theorem RoundTrip.vexp2Ext (k : BitVec 3) (y : LaneT) (a b : BitVec 5) : RoundTrip.Statement (.vexp2Ext k y a b) := by
  intro ws hw he
  change (extType y LaneT.F) = true at hw
  obtain rfl : Words.ext (packV 0 0 0 0 b a 37 2) (packE 0 k y.code4 0 0) 0 = ws := Option.some.inj he
  change decodeRaw ⟨(packV 0 0 0 0 b a 37 2), (packE 0 k y.code4 0 0), 0, 0⟩ = _
  rw [decodeRaw_decVspec (by simp), decVspec]
  simp [noLit, ck, Raw.imm32, ofOpt, ofOpt2, ofCvt, ofGx, hook5, ctx10, hw, lane_code4 hw]

theorem RoundTrip.vlog2 (k : BitVec 2) (y : LaneT) (a b : BitVec 5) : RoundTrip.Statement (.vlog2 k y a b) := by
  intro ws hw he
  change (y.F) = true at hw
  obtain rfl : Words.short (packV k y.code3 1 0 b a 37 0) = ws := Option.some.inj he
  change decodeRaw ⟨(packV k y.code3 1 0 b a 37 0), 0, 0, 0⟩ = _
  rw [decodeRaw_decVspec (by simp), decVspec]
  simp [noLit, ck, Raw.imm32, ofOpt, ofOpt2, ofCvt, ofGx, hook5, ctx10, hw]

theorem RoundTrip.vlog2Ext (k : BitVec 3) (y : LaneT) (a b : BitVec 5) : RoundTrip.Statement (.vlog2Ext k y a b) := by
  intro ws hw he
  change (extType y LaneT.F) = true at hw
  obtain rfl : Words.ext (packV 0 0 1 0 b a 37 2) (packE 0 k y.code4 0 0) 0 = ws := Option.some.inj he
  change decodeRaw ⟨(packV 0 0 1 0 b a 37 2), (packE 0 k y.code4 0 0), 0, 0⟩ = _
  rw [decodeRaw_decVspec (by simp), decVspec]
  simp [noLit, ck, Raw.imm32, ofOpt, ofOpt2, ofCvt, ofGx, hook5, ctx10, hw, lane_code4 hw]

theorem RoundTrip.vrcp (k : BitVec 2) (y : LaneT) (a b : BitVec 5) : RoundTrip.Statement (.vrcp k y a b) := by
  intro ws hw he
  change (y.F) = true at hw
  obtain rfl : Words.short (packV k y.code3 2 0 b a 37 0) = ws := Option.some.inj he
  change decodeRaw ⟨(packV k y.code3 2 0 b a 37 0), 0, 0, 0⟩ = _
  rw [decodeRaw_decVspec (by simp), decVspec]
  simp [noLit, ck, Raw.imm32, ofOpt, ofOpt2, ofCvt, ofGx, hook5, ctx10, hw]

theorem RoundTrip.vrcpExt (k : BitVec 3) (y : LaneT) (a b : BitVec 5) : RoundTrip.Statement (.vrcpExt k y a b) := by
  intro ws hw he
  change (extType y LaneT.F) = true at hw
  obtain rfl : Words.ext (packV 0 0 2 0 b a 37 2) (packE 0 k y.code4 0 0) 0 = ws := Option.some.inj he
  change decodeRaw ⟨(packV 0 0 2 0 b a 37 2), (packE 0 k y.code4 0 0), 0, 0⟩ = _
  rw [decodeRaw_decVspec (by simp), decVspec]
  simp [noLit, ck, Raw.imm32, ofOpt, ofOpt2, ofCvt, ofGx, hook5, ctx10, hw, lane_code4 hw]

theorem RoundTrip.vrsqrt (k : BitVec 2) (y : LaneT) (a b : BitVec 5) : RoundTrip.Statement (.vrsqrt k y a b) := by
  intro ws hw he
  change (y.F) = true at hw
  obtain rfl : Words.short (packV k y.code3 3 0 b a 37 0) = ws := Option.some.inj he
  change decodeRaw ⟨(packV k y.code3 3 0 b a 37 0), 0, 0, 0⟩ = _
  rw [decodeRaw_decVspec (by simp), decVspec]
  simp [noLit, ck, Raw.imm32, ofOpt, ofOpt2, ofCvt, ofGx, hook5, ctx10, hw]

theorem RoundTrip.vrsqrtExt (k : BitVec 3) (y : LaneT) (a b : BitVec 5) : RoundTrip.Statement (.vrsqrtExt k y a b) := by
  intro ws hw he
  change (extType y LaneT.F) = true at hw
  obtain rfl : Words.ext (packV 0 0 3 0 b a 37 2) (packE 0 k y.code4 0 0) 0 = ws := Option.some.inj he
  change decodeRaw ⟨(packV 0 0 3 0 b a 37 2), (packE 0 k y.code4 0 0), 0, 0⟩ = _
  rw [decodeRaw_decVspec (by simp), decVspec]
  simp [noLit, ck, Raw.imm32, ofOpt, ofOpt2, ofCvt, ofGx, hook5, ctx10, hw, lane_code4 hw]

theorem RoundTrip.vsqrt (k : BitVec 2) (y : LaneT) (a b : BitVec 5) : RoundTrip.Statement (.vsqrt k y a b) := by
  intro ws hw he
  change (y.F) = true at hw
  obtain rfl : Words.short (packV k y.code3 4 0 b a 37 0) = ws := Option.some.inj he
  change decodeRaw ⟨(packV k y.code3 4 0 b a 37 0), 0, 0, 0⟩ = _
  rw [decodeRaw_decVspec (by simp), decVspec]
  simp [noLit, ck, Raw.imm32, ofOpt, ofOpt2, ofCvt, ofGx, hook5, ctx10, hw]

theorem RoundTrip.vsqrtExt (k : BitVec 3) (y : LaneT) (a b : BitVec 5) : RoundTrip.Statement (.vsqrtExt k y a b) := by
  intro ws hw he
  change (extType y LaneT.F) = true at hw
  obtain rfl : Words.ext (packV 0 0 4 0 b a 37 2) (packE 0 k y.code4 0 0) 0 = ws := Option.some.inj he
  change decodeRaw ⟨(packV 0 0 4 0 b a 37 2), (packE 0 k y.code4 0 0), 0, 0⟩ = _
  rw [decodeRaw_decVspec (by simp), decVspec]
  simp [noLit, ck, Raw.imm32, ofOpt, ofOpt2, ofCvt, ofGx, hook5, ctx10, hw, lane_code4 hw]

theorem RoundTrip.vtanh (k : BitVec 2) (y : LaneT) (a b : BitVec 5) : RoundTrip.Statement (.vtanh k y a b) := by
  intro ws hw he
  change (y.F) = true at hw
  obtain rfl : Words.short (packV k y.code3 5 0 b a 37 0) = ws := Option.some.inj he
  change decodeRaw ⟨(packV k y.code3 5 0 b a 37 0), 0, 0, 0⟩ = _
  rw [decodeRaw_decVspec (by simp), decVspec]
  simp [noLit, ck, Raw.imm32, ofOpt, ofOpt2, ofCvt, ofGx, hook5, ctx10, hw]

theorem RoundTrip.vtanhExt (k : BitVec 3) (y : LaneT) (a b : BitVec 5) : RoundTrip.Statement (.vtanhExt k y a b) := by
  intro ws hw he
  change (extType y LaneT.F) = true at hw
  obtain rfl : Words.ext (packV 0 0 5 0 b a 37 2) (packE 0 k y.code4 0 0) 0 = ws := Option.some.inj he
  change decodeRaw ⟨(packV 0 0 5 0 b a 37 2), (packE 0 k y.code4 0 0), 0, 0⟩ = _
  rw [decodeRaw_decVspec (by simp), decVspec]
  simp [noLit, ck, Raw.imm32, ofOpt, ofOpt2, ofCvt, ofGx, hook5, ctx10, hw, lane_code4 hw]

theorem RoundTrip.vsigm (k : BitVec 2) (y : LaneT) (a b : BitVec 5) : RoundTrip.Statement (.vsigm k y a b) := by
  intro ws hw he
  change (y.F) = true at hw
  obtain rfl : Words.short (packV k y.code3 6 0 b a 37 0) = ws := Option.some.inj he
  change decodeRaw ⟨(packV k y.code3 6 0 b a 37 0), 0, 0, 0⟩ = _
  rw [decodeRaw_decVspec (by simp), decVspec]
  simp [noLit, ck, Raw.imm32, ofOpt, ofOpt2, ofCvt, ofGx, hook5, ctx10, hw]

theorem RoundTrip.vsigmExt (k : BitVec 3) (y : LaneT) (a b : BitVec 5) : RoundTrip.Statement (.vsigmExt k y a b) := by
  intro ws hw he
  change (extType y LaneT.F) = true at hw
  obtain rfl : Words.ext (packV 0 0 6 0 b a 37 2) (packE 0 k y.code4 0 0) 0 = ws := Option.some.inj he
  change decodeRaw ⟨(packV 0 0 6 0 b a 37 2), (packE 0 k y.code4 0 0), 0, 0⟩ = _
  rw [decodeRaw_decVspec (by simp), decVspec]
  simp [noLit, ck, Raw.imm32, ofOpt, ofOpt2, ofCvt, ofGx, hook5, ctx10, hw, lane_code4 hw]

theorem RoundTrip.vdiv (k : BitVec 2) (y : LaneT) (a b c : BitVec 5) : RoundTrip.Statement (.vdiv k y a b c) := by
  intro ws hw he
  change (y.FI) = true at hw
  obtain rfl : Words.short (packV k y.code3 7 c b a 37 0) = ws := Option.some.inj he
  change decodeRaw ⟨(packV k y.code3 7 c b a 37 0), 0, 0, 0⟩ = _
  rw [decodeRaw_decVspec (by simp), decVspec]
  simp [noLit, ck, Raw.imm32, ofOpt, ofOpt2, ofCvt, ofGx, hook5, ctx10, hw]

theorem RoundTrip.vdivExt (k : BitVec 3) (y : LaneT) (a b c : BitVec 5) : RoundTrip.Statement (.vdivExt k y a b c) := by
  intro ws hw he
  change (extType y LaneT.FI) = true at hw
  obtain rfl : Words.ext (packV 0 0 7 c b a 37 2) (packE 0 k y.code4 0 0) 0 = ws := Option.some.inj he
  change decodeRaw ⟨(packV 0 0 7 c b a 37 2), (packE 0 k y.code4 0 0), 0, 0⟩ = _
  rw [decodeRaw_decVspec (by simp), decVspec]
  simp [noLit, ck, Raw.imm32, ofOpt, ofOpt2, ofCvt, ofGx, hook5, ctx10, hw, lane_code4 hw]

theorem RoundTrip.vcvt (td ts : Type4) (part : BitVec 3) (r : Rnd) (k : BitVec 3) (a b : BitVec 5) : RoundTrip.Statement (.vcvt td ts part r k a b) := by
  intro ws hw he
  change (td.lane && ts.lane && cvtPartOk td ts part) = true at hw
  simp only [Bool.and_eq_true] at hw
  obtain ⟨⟨hw0, hw1⟩, hw2⟩ := hw
  obtain rfl : Words.ext (packR 0 0 b a 38 2) (packE (packCvt part r.code) k td.code (ts.code.setWidth 5) 0) (0) = ws := Option.some.inj he
  change decodeRaw ⟨(packR 0 0 b a 38 2), (packE (packCvt part r.code) k td.code (ts.code.setWidth 5) 0), (0), 0⟩ = _
  rw [decodeRaw_decVcvt (by simp), decVcvt]
  simp [noLit, ck, Raw.imm32, ofOpt, ofOpt2, ofCvt, ofGx, hook5, ctx10, hw0, type4_lane hw0, type4_lane5 hw0, hw1, type4_lane hw1, type4_lane5 hw1, hw2]

theorem RoundTrip.vpackgx (g : GxT) (off : BitVec 7) (a b : BitVec 5) : RoundTrip.Statement (.vpackgx g off a b) := by
  intro ws hw he
  change (gxOffOk g off) = true at hw
  obtain rfl : Words.ext (packR 1 0 b a 38 2) (packE 0 0 g.code 0 0) (off.setWidth 32) = ws := Option.some.inj he
  change decodeRaw ⟨(packR 1 0 b a 38 2), (packE 0 0 g.code 0 0), (off.setWidth 32), 0⟩ = _
  rw [decodeRaw_decVcvt (by simp), decVcvt]
  simp [noLit, ck, Raw.imm32, ofOpt, ofOpt2, ofCvt, ofGx, hook5, ctx10, hw]

theorem RoundTrip.vunpackgx (g : GxT) (off : BitVec 7) (k : BitVec 3) (a b : BitVec 5) : RoundTrip.Statement (.vunpackgx g off k a b) := by
  intro ws hw he
  change (gxOffOk g off) = true at hw
  obtain rfl : Words.ext (packR 2 0 b a 38 2) (packE 0 k g.code 0 0) (off.setWidth 32) = ws := Option.some.inj he
  change decodeRaw ⟨(packR 2 0 b a 38 2), (packE 0 k g.code 0 0), (off.setWidth 32), 0⟩ = _
  rw [decodeRaw_decVcvt (by simp), decVcvt]
  simp [noLit, ck, Raw.imm32, ofOpt, ofOpt2, ofCvt, ofGx, hook5, ctx10, hw]

theorem RoundTrip.vperm (k : BitVec 2) (y : LaneT) (a b c : BitVec 5) : RoundTrip.Statement (.vperm k y a b c) := by
  intro ws hw he
  change (y.any) = true at hw
  obtain rfl : Words.short (packV k y.code3 0 c b a 39 0) = ws := Option.some.inj he
  change decodeRaw ⟨(packV k y.code3 0 c b a 39 0), 0, 0, 0⟩ = _
  rw [decodeRaw_decVperm (by simp), decVperm]
  simp [noLit, ck, Raw.imm32, ofOpt, ofOpt2, ofCvt, ofGx, hook5, ctx10, hw]

theorem RoundTrip.vpermExt (k : BitVec 3) (y : LaneT) (a b c : BitVec 5) : RoundTrip.Statement (.vpermExt k y a b c) := by
  intro ws hw he
  change (extType y LaneT.any) = true at hw
  obtain rfl : Words.ext (packV 0 0 0 c b a 39 2) (packE 0 k y.code4 0 0) 0 = ws := Option.some.inj he
  change decodeRaw ⟨(packV 0 0 0 c b a 39 2), (packE 0 k y.code4 0 0), 0, 0⟩ = _
  rw [decodeRaw_decVperm (by simp), decVperm]
  simp [noLit, ck, Raw.imm32, ofOpt, ofOpt2, ofCvt, ofGx, hook5, ctx10, hw, lane_code4 hw]

theorem RoundTrip.vslideup (k : BitVec 2) (y : LaneT) (a b c : BitVec 5) : RoundTrip.Statement (.vslideup k y a b c) := by
  intro ws hw he
  change (y.any) = true at hw
  obtain rfl : Words.short (packV k y.code3 1 c b a 39 0) = ws := Option.some.inj he
  change decodeRaw ⟨(packV k y.code3 1 c b a 39 0), 0, 0, 0⟩ = _
  rw [decodeRaw_decVperm (by simp), decVperm]
  simp [noLit, ck, Raw.imm32, ofOpt, ofOpt2, ofCvt, ofGx, hook5, ctx10, hw]

theorem RoundTrip.vslideupExt (k : BitVec 3) (y : LaneT) (a b c : BitVec 5) : RoundTrip.Statement (.vslideupExt k y a b c) := by
  intro ws hw he
  change (extType y LaneT.any) = true at hw
  obtain rfl : Words.ext (packV 0 0 1 c b a 39 2) (packE 0 k y.code4 0 0) 0 = ws := Option.some.inj he
  change decodeRaw ⟨(packV 0 0 1 c b a 39 2), (packE 0 k y.code4 0 0), 0, 0⟩ = _
  rw [decodeRaw_decVperm (by simp), decVperm]
  simp [noLit, ck, Raw.imm32, ofOpt, ofOpt2, ofCvt, ofGx, hook5, ctx10, hw, lane_code4 hw]

theorem RoundTrip.vslidedn (k : BitVec 2) (y : LaneT) (a b c : BitVec 5) : RoundTrip.Statement (.vslidedn k y a b c) := by
  intro ws hw he
  change (y.any) = true at hw
  obtain rfl : Words.short (packV k y.code3 2 c b a 39 0) = ws := Option.some.inj he
  change decodeRaw ⟨(packV k y.code3 2 c b a 39 0), 0, 0, 0⟩ = _
  rw [decodeRaw_decVperm (by simp), decVperm]
  simp [noLit, ck, Raw.imm32, ofOpt, ofOpt2, ofCvt, ofGx, hook5, ctx10, hw]

theorem RoundTrip.vslidednExt (k : BitVec 3) (y : LaneT) (a b c : BitVec 5) : RoundTrip.Statement (.vslidednExt k y a b c) := by
  intro ws hw he
  change (extType y LaneT.any) = true at hw
  obtain rfl : Words.ext (packV 0 0 2 c b a 39 2) (packE 0 k y.code4 0 0) 0 = ws := Option.some.inj he
  change decodeRaw ⟨(packV 0 0 2 c b a 39 2), (packE 0 k y.code4 0 0), 0, 0⟩ = _
  rw [decodeRaw_decVperm (by simp), decVperm]
  simp [noLit, ck, Raw.imm32, ofOpt, ofOpt2, ofCvt, ofGx, hook5, ctx10, hw, lane_code4 hw]

theorem RoundTrip.vbcast (k : BitVec 2) (y : LaneT) (a b : BitVec 5) : RoundTrip.Statement (.vbcast k y a b) := by
  intro ws hw he
  change (y.any) = true at hw
  obtain rfl : Words.short (packV k y.code3 3 0 b a 39 0) = ws := Option.some.inj he
  change decodeRaw ⟨(packV k y.code3 3 0 b a 39 0), 0, 0, 0⟩ = _
  rw [decodeRaw_decVperm (by simp), decVperm]
  simp [noLit, ck, Raw.imm32, ofOpt, ofOpt2, ofCvt, ofGx, hook5, ctx10, hw]

theorem RoundTrip.vbcastExt (k : BitVec 3) (y : LaneT) (a b : BitVec 5) : RoundTrip.Statement (.vbcastExt k y a b) := by
  intro ws hw he
  change (extType y LaneT.any) = true at hw
  obtain rfl : Words.ext (packV 0 0 3 0 b a 39 2) (packE 0 k y.code4 0 0) 0 = ws := Option.some.inj he
  change decodeRaw ⟨(packV 0 0 3 0 b a 39 2), (packE 0 k y.code4 0 0), 0, 0⟩ = _
  rw [decodeRaw_decVperm (by simp), decVperm]
  simp [noLit, ck, Raw.imm32, ofOpt, ofOpt2, ofCvt, ofGx, hook5, ctx10, hw, lane_code4 hw]

theorem RoundTrip.vext (y : LaneT) (a b c : BitVec 5) : RoundTrip.Statement (.vext y a b c) := by
  intro ws hw he
  change (y.any) = true at hw
  obtain rfl : Words.short (packV 0 y.code3 4 c b a 39 0) = ws := Option.some.inj he
  change decodeRaw ⟨(packV 0 y.code3 4 c b a 39 0), 0, 0, 0⟩ = _
  rw [decodeRaw_decVperm (by simp), decVperm]
  simp [noLit, ck, Raw.imm32, ofOpt, ofOpt2, ofCvt, ofGx, hook5, ctx10, hw]

theorem RoundTrip.vextExt (y : LaneT) (a b c : BitVec 5) : RoundTrip.Statement (.vextExt y a b c) := by
  intro ws hw he
  change (extType y LaneT.any) = true at hw
  obtain rfl : Words.ext (packV 0 0 4 c b a 39 2) (packE 0 0 y.code4 0 0) 0 = ws := Option.some.inj he
  change decodeRaw ⟨(packV 0 0 4 c b a 39 2), (packE 0 0 y.code4 0 0), 0, 0⟩ = _
  rw [decodeRaw_decVperm (by simp), decVperm]
  simp [noLit, ck, Raw.imm32, ofOpt, ofOpt2, ofCvt, ofGx, hook5, ctx10, hw, lane_code4 hw]

theorem RoundTrip.vins (k : BitVec 2) (y : LaneT) (a b c : BitVec 5) : RoundTrip.Statement (.vins k y a b c) := by
  intro ws hw he
  change (y.any) = true at hw
  obtain rfl : Words.short (packV k y.code3 5 c b a 39 0) = ws := Option.some.inj he
  change decodeRaw ⟨(packV k y.code3 5 c b a 39 0), 0, 0, 0⟩ = _
  rw [decodeRaw_decVperm (by simp), decVperm]
  simp [noLit, ck, Raw.imm32, ofOpt, ofOpt2, ofCvt, ofGx, hook5, ctx10, hw]

theorem RoundTrip.vinsExt (k : BitVec 3) (y : LaneT) (a b c : BitVec 5) : RoundTrip.Statement (.vinsExt k y a b c) := by
  intro ws hw he
  change (extType y LaneT.any) = true at hw
  obtain rfl : Words.ext (packV 0 0 5 c b a 39 2) (packE 0 k y.code4 0 0) 0 = ws := Option.some.inj he
  change decodeRaw ⟨(packV 0 0 5 c b a 39 2), (packE 0 k y.code4 0 0), 0, 0⟩ = _
  rw [decodeRaw_decVperm (by simp), decVperm]
  simp [noLit, ck, Raw.imm32, ofOpt, ofOpt2, ofCvt, ofGx, hook5, ctx10, hw, lane_code4 hw]

theorem RoundTrip.vzip (k : BitVec 2) (y : LaneT) (a b c : BitVec 5) : RoundTrip.Statement (.vzip k y a b c) := by
  intro ws hw he
  change (y.any) = true at hw
  obtain rfl : Words.short (packV k y.code3 6 c b a 39 0) = ws := Option.some.inj he
  change decodeRaw ⟨(packV k y.code3 6 c b a 39 0), 0, 0, 0⟩ = _
  rw [decodeRaw_decVperm (by simp), decVperm]
  simp [noLit, ck, Raw.imm32, ofOpt, ofOpt2, ofCvt, ofGx, hook5, ctx10, hw]

theorem RoundTrip.vzipExt (k : BitVec 3) (y : LaneT) (a b c : BitVec 5) : RoundTrip.Statement (.vzipExt k y a b c) := by
  intro ws hw he
  change (extType y LaneT.any) = true at hw
  obtain rfl : Words.ext (packV 0 0 6 c b a 39 2) (packE 0 k y.code4 0 0) 0 = ws := Option.some.inj he
  change decodeRaw ⟨(packV 0 0 6 c b a 39 2), (packE 0 k y.code4 0 0), 0, 0⟩ = _
  rw [decodeRaw_decVperm (by simp), decVperm]
  simp [noLit, ck, Raw.imm32, ofOpt, ofOpt2, ofCvt, ofGx, hook5, ctx10, hw, lane_code4 hw]

theorem RoundTrip.vunzip (k : BitVec 2) (y : LaneT) (a b : BitVec 5) : RoundTrip.Statement (.vunzip k y a b) := by
  intro ws hw he
  change (y.any) = true at hw
  obtain rfl : Words.short (packV k y.code3 7 0 b a 39 0) = ws := Option.some.inj he
  change decodeRaw ⟨(packV k y.code3 7 0 b a 39 0), 0, 0, 0⟩ = _
  rw [decodeRaw_decVperm (by simp), decVperm]
  simp [noLit, ck, Raw.imm32, ofOpt, ofOpt2, ofCvt, ofGx, hook5, ctx10, hw]

theorem RoundTrip.vunzipExt (k : BitVec 3) (y : LaneT) (a b : BitVec 5) : RoundTrip.Statement (.vunzipExt k y a b) := by
  intro ws hw he
  change (extType y LaneT.any) = true at hw
  obtain rfl : Words.ext (packV 0 0 7 0 b a 39 2) (packE 0 k y.code4 0 0) 0 = ws := Option.some.inj he
  change decodeRaw ⟨(packV 0 0 7 0 b a 39 2), (packE 0 k y.code4 0 0), 0, 0⟩ = _
  rw [decodeRaw_decVperm (by simp), decVperm]
  simp [noLit, ck, Raw.imm32, ofOpt, ofOpt2, ofCvt, ofGx, hook5, ctx10, hw, lane_code4 hw]

theorem RoundTrip.vrev (k : BitVec 2) (y : LaneT) (a b : BitVec 5) : RoundTrip.Statement (.vrev k y a b) := by
  intro ws hw he
  change (y.any) = true at hw
  obtain rfl : Words.short (packV k y.code3 8 0 b a 39 0) = ws := Option.some.inj he
  change decodeRaw ⟨(packV k y.code3 8 0 b a 39 0), 0, 0, 0⟩ = _
  rw [decodeRaw_decVperm (by simp), decVperm]
  simp [noLit, ck, Raw.imm32, ofOpt, ofOpt2, ofCvt, ofGx, hook5, ctx10, hw]

theorem RoundTrip.vrevExt (k : BitVec 3) (y : LaneT) (a b : BitVec 5) : RoundTrip.Statement (.vrevExt k y a b) := by
  intro ws hw he
  change (extType y LaneT.any) = true at hw
  obtain rfl : Words.ext (packV 0 0 8 0 b a 39 2) (packE 0 k y.code4 0 0) 0 = ws := Option.some.inj he
  change decodeRaw ⟨(packV 0 0 8 0 b a 39 2), (packE 0 k y.code4 0 0), 0, 0⟩ = _
  rw [decodeRaw_decVperm (by simp), decVperm]
  simp [noLit, ck, Raw.imm32, ofOpt, ofOpt2, ofCvt, ofGx, hook5, ctx10, hw, lane_code4 hw]

theorem RoundTrip.vscanAdd (k : BitVec 2) (y : LaneT) (a b : BitVec 5) : RoundTrip.Statement (.vscanAdd k y a b) := by
  intro ws hw he
  change (y.FI) = true at hw
  obtain rfl : Words.short (packV k y.code3 9 0 b a 39 0) = ws := Option.some.inj he
  change decodeRaw ⟨(packV k y.code3 9 0 b a 39 0), 0, 0, 0⟩ = _
  rw [decodeRaw_decVperm (by simp), decVperm]
  simp [noLit, ck, Raw.imm32, ofOpt, ofOpt2, ofCvt, ofGx, hook5, ctx10, hw]

theorem RoundTrip.vscanAddExt (k : BitVec 3) (y : LaneT) (r : Rnd) (a b : BitVec 5) : RoundTrip.Statement (.vscanAddExt k y r a b) := by
  intro ws hw he
  change (extType y LaneT.FI) = true at hw
  obtain rfl : Words.ext (packV 0 0 9 0 b a 39 2) (packE (r.code.setWidth 15) k y.code4 0 0) 0 = ws := Option.some.inj he
  change decodeRaw ⟨(packV 0 0 9 0 b a 39 2), (packE (r.code.setWidth 15) k y.code4 0 0), 0, 0⟩ = _
  rw [decodeRaw_decVperm (by simp), decVperm]
  simp [noLit, ck, Raw.imm32, ofOpt, ofOpt2, ofCvt, ofGx, hook5, ctx10, hw, lane_code4 hw]

theorem RoundTrip.vscanMax (k : BitVec 2) (y : LaneT) (a b : BitVec 5) : RoundTrip.Statement (.vscanMax k y a b) := by
  intro ws hw he
  change (y.FI) = true at hw
  obtain rfl : Words.short (packV k y.code3 10 0 b a 39 0) = ws := Option.some.inj he
  change decodeRaw ⟨(packV k y.code3 10 0 b a 39 0), 0, 0, 0⟩ = _
  rw [decodeRaw_decVperm (by simp), decVperm]
  simp [noLit, ck, Raw.imm32, ofOpt, ofOpt2, ofCvt, ofGx, hook5, ctx10, hw]

theorem RoundTrip.vscanMaxExt (k : BitVec 3) (y : LaneT) (r : Rnd) (a b : BitVec 5) : RoundTrip.Statement (.vscanMaxExt k y r a b) := by
  intro ws hw he
  change (extType y LaneT.FI) = true at hw
  obtain rfl : Words.ext (packV 0 0 10 0 b a 39 2) (packE (r.code.setWidth 15) k y.code4 0 0) 0 = ws := Option.some.inj he
  change decodeRaw ⟨(packV 0 0 10 0 b a 39 2), (packE (r.code.setWidth 15) k y.code4 0 0), 0, 0⟩ = _
  rw [decodeRaw_decVperm (by simp), decVperm]
  simp [noLit, ck, Raw.imm32, ofOpt, ofOpt2, ofCvt, ofGx, hook5, ctx10, hw, lane_code4 hw]

theorem RoundTrip.vkeep2 (y : LaneT) (a b : BitVec 5) (c : BitVec 3) : RoundTrip.Statement (.vkeep2 y a b c) := by
  intro ws hw he
  change (y.keep) = true at hw
  obtain rfl : Words.short (packV 0 y.code3 11 (c.setWidth 5) b a 39 0) = ws := Option.some.inj he
  change decodeRaw ⟨(packV 0 y.code3 11 (c.setWidth 5) b a 39 0), 0, 0, 0⟩ = _
  rw [decodeRaw_decVperm (by simp), decVperm]
  simp [noLit, ck, Raw.imm32, ofOpt, ofOpt2, ofCvt, ofGx, hook5, ctx10, hw]

theorem RoundTrip.vkeep2Ext (y : LaneT) (a b : BitVec 5) (c : BitVec 3) : RoundTrip.Statement (.vkeep2Ext y a b c) := by
  intro ws hw he
  change (extType y LaneT.keep) = true at hw
  obtain rfl : Words.ext (packV 0 0 11 (c.setWidth 5) b a 39 2) (packE 0 0 y.code4 0 0) 0 = ws := Option.some.inj he
  change decodeRaw ⟨(packV 0 0 11 (c.setWidth 5) b a 39 2), (packE 0 0 y.code4 0 0), 0, 0⟩ = _
  rw [decodeRaw_decVperm (by simp), decVperm]
  simp [noLit, ck, Raw.imm32, ofOpt, ofOpt2, ofCvt, ofGx, hook5, ctx10, hw, lane_code4 hw]

theorem RoundTrip.vredAdd (k : BitVec 2) (y : LaneT) (a b : BitVec 5) : RoundTrip.Statement (.vredAdd k y a b) := by
  intro ws hw he
  change (y.FI) = true at hw
  obtain rfl : Words.short (packV k y.code3 0 0 b a 40 0) = ws := Option.some.inj he
  change decodeRaw ⟨(packV k y.code3 0 0 b a 40 0), 0, 0, 0⟩ = _
  rw [decodeRaw_decVred (by simp), decVred]
  simp [noLit, ck, Raw.imm32, ofOpt, ofOpt2, ofCvt, ofGx, hook5, ctx10, hw]

theorem RoundTrip.vredAddExt (k : BitVec 3) (y : LaneT) (r : Rnd) (a b : BitVec 5) : RoundTrip.Statement (.vredAddExt k y r a b) := by
  intro ws hw he
  change (extType y LaneT.FI) = true at hw
  obtain rfl : Words.ext (packV 0 0 0 0 b a 40 2) (packE (r.code.setWidth 15) k y.code4 0 0) 0 = ws := Option.some.inj he
  change decodeRaw ⟨(packV 0 0 0 0 b a 40 2), (packE (r.code.setWidth 15) k y.code4 0 0), 0, 0⟩ = _
  rw [decodeRaw_decVred (by simp), decVred]
  simp [noLit, ck, Raw.imm32, ofOpt, ofOpt2, ofCvt, ofGx, hook5, ctx10, hw, lane_code4 hw]

theorem RoundTrip.vredMax (k : BitVec 2) (y : LaneT) (a b : BitVec 5) : RoundTrip.Statement (.vredMax k y a b) := by
  intro ws hw he
  change (y.FI) = true at hw
  obtain rfl : Words.short (packV k y.code3 1 0 b a 40 0) = ws := Option.some.inj he
  change decodeRaw ⟨(packV k y.code3 1 0 b a 40 0), 0, 0, 0⟩ = _
  rw [decodeRaw_decVred (by simp), decVred]
  simp [noLit, ck, Raw.imm32, ofOpt, ofOpt2, ofCvt, ofGx, hook5, ctx10, hw]

theorem RoundTrip.vredMaxExt (k : BitVec 3) (y : LaneT) (a b : BitVec 5) : RoundTrip.Statement (.vredMaxExt k y a b) := by
  intro ws hw he
  change (extType y LaneT.FI) = true at hw
  obtain rfl : Words.ext (packV 0 0 1 0 b a 40 2) (packE 0 k y.code4 0 0) 0 = ws := Option.some.inj he
  change decodeRaw ⟨(packV 0 0 1 0 b a 40 2), (packE 0 k y.code4 0 0), 0, 0⟩ = _
  rw [decodeRaw_decVred (by simp), decVred]
  simp [noLit, ck, Raw.imm32, ofOpt, ofOpt2, ofCvt, ofGx, hook5, ctx10, hw, lane_code4 hw]

theorem RoundTrip.vredMin (k : BitVec 2) (y : LaneT) (a b : BitVec 5) : RoundTrip.Statement (.vredMin k y a b) := by
  intro ws hw he
  change (y.FI) = true at hw
  obtain rfl : Words.short (packV k y.code3 2 0 b a 40 0) = ws := Option.some.inj he
  change decodeRaw ⟨(packV k y.code3 2 0 b a 40 0), 0, 0, 0⟩ = _
  rw [decodeRaw_decVred (by simp), decVred]
  simp [noLit, ck, Raw.imm32, ofOpt, ofOpt2, ofCvt, ofGx, hook5, ctx10, hw]

theorem RoundTrip.vredMinExt (k : BitVec 3) (y : LaneT) (a b : BitVec 5) : RoundTrip.Statement (.vredMinExt k y a b) := by
  intro ws hw he
  change (extType y LaneT.FI) = true at hw
  obtain rfl : Words.ext (packV 0 0 2 0 b a 40 2) (packE 0 k y.code4 0 0) 0 = ws := Option.some.inj he
  change decodeRaw ⟨(packV 0 0 2 0 b a 40 2), (packE 0 k y.code4 0 0), 0, 0⟩ = _
  rw [decodeRaw_decVred (by simp), decVred]
  simp [noLit, ck, Raw.imm32, ofOpt, ofOpt2, ofCvt, ofGx, hook5, ctx10, hw, lane_code4 hw]

theorem RoundTrip.mand (a b c : BitVec 3) : RoundTrip.Statement (.mand a b c) := by
  intro ws hw he
  obtain rfl : Words.short (packR 0 (c.setWidth 5) (b.setWidth 5) (a.setWidth 5) 41 0) = ws := Option.some.inj he
  change decodeRaw ⟨(packR 0 (c.setWidth 5) (b.setWidth 5) (a.setWidth 5) 41 0), 0, 0, 0⟩ = _
  rw [decodeRaw_decMask (by simp), decMask]
  simp [noLit, ck, Raw.imm32, ofOpt, ofOpt2, ofCvt, ofGx, hook5, ctx10]

theorem RoundTrip.mor (a b c : BitVec 3) : RoundTrip.Statement (.mor a b c) := by
  intro ws hw he
  obtain rfl : Words.short (packR 1 (c.setWidth 5) (b.setWidth 5) (a.setWidth 5) 41 0) = ws := Option.some.inj he
  change decodeRaw ⟨(packR 1 (c.setWidth 5) (b.setWidth 5) (a.setWidth 5) 41 0), 0, 0, 0⟩ = _
  rw [decodeRaw_decMask (by simp), decMask]
  simp [noLit, ck, Raw.imm32, ofOpt, ofOpt2, ofCvt, ofGx, hook5, ctx10]

theorem RoundTrip.mxor (a b c : BitVec 3) : RoundTrip.Statement (.mxor a b c) := by
  intro ws hw he
  obtain rfl : Words.short (packR 2 (c.setWidth 5) (b.setWidth 5) (a.setWidth 5) 41 0) = ws := Option.some.inj he
  change decodeRaw ⟨(packR 2 (c.setWidth 5) (b.setWidth 5) (a.setWidth 5) 41 0), 0, 0, 0⟩ = _
  rw [decodeRaw_decMask (by simp), decMask]
  simp [noLit, ck, Raw.imm32, ofOpt, ofOpt2, ofCvt, ofGx, hook5, ctx10]

theorem RoundTrip.mandn (a b c : BitVec 3) : RoundTrip.Statement (.mandn a b c) := by
  intro ws hw he
  obtain rfl : Words.short (packR 3 (c.setWidth 5) (b.setWidth 5) (a.setWidth 5) 41 0) = ws := Option.some.inj he
  change decodeRaw ⟨(packR 3 (c.setWidth 5) (b.setWidth 5) (a.setWidth 5) 41 0), 0, 0, 0⟩ = _
  rw [decodeRaw_decMask (by simp), decMask]
  simp [noLit, ck, Raw.imm32, ofOpt, ofOpt2, ofCvt, ofGx, hook5, ctx10]

theorem RoundTrip.mnot (a b : BitVec 3) : RoundTrip.Statement (.mnot a b) := by
  intro ws hw he
  obtain rfl : Words.short (packR 4 0 (b.setWidth 5) (a.setWidth 5) 41 0) = ws := Option.some.inj he
  change decodeRaw ⟨(packR 4 0 (b.setWidth 5) (a.setWidth 5) 41 0), 0, 0, 0⟩ = _
  rw [decodeRaw_decMask (by simp), decMask]
  simp [noLit, ck, Raw.imm32, ofOpt, ofOpt2, ofCvt, ofGx, hook5, ctx10]

theorem RoundTrip.mpopc (a : BitVec 5) (b : BitVec 3) : RoundTrip.Statement (.mpopc a b) := by
  intro ws hw he
  obtain rfl : Words.short (packR 5 0 (b.setWidth 5) a 41 0) = ws := Option.some.inj he
  change decodeRaw ⟨(packR 5 0 (b.setWidth 5) a 41 0), 0, 0, 0⟩ = _
  rw [decodeRaw_decMask (by simp), decMask]
  simp [noLit, ck, Raw.imm32, ofOpt, ofOpt2, ofCvt, ofGx, hook5, ctx10]

theorem RoundTrip.mfirst (a : BitVec 5) (b : BitVec 3) : RoundTrip.Statement (.mfirst a b) := by
  intro ws hw he
  obtain rfl : Words.short (packR 6 0 (b.setWidth 5) a 41 0) = ws := Option.some.inj he
  change decodeRaw ⟨(packR 6 0 (b.setWidth 5) a 41 0), 0, 0, 0⟩ = _
  rw [decodeRaw_decMask (by simp), decMask]
  simp [noLit, ck, Raw.imm32, ofOpt, ofOpt2, ofCvt, ofGx, hook5, ctx10]

theorem RoundTrip.mfromx (h : Bool) (a : BitVec 3) (b : BitVec 5) : RoundTrip.Statement (.mfromx h a b) := by
  intro ws hw he
  obtain rfl : Words.short (packR 7 (bit5 h) b (a.setWidth 5) 41 0) = ws := Option.some.inj he
  change decodeRaw ⟨(packR 7 (bit5 h) b (a.setWidth 5) 41 0), 0, 0, 0⟩ = _
  rw [decodeRaw_decMask (by simp), decMask]
  simp [noLit, ck, Raw.imm32, ofOpt, ofOpt2, ofCvt, ofGx, hook5, ctx10]

theorem RoundTrip.mtox (h : Bool) (a : BitVec 5) (b : BitVec 3) : RoundTrip.Statement (.mtox h a b) := by
  intro ws hw he
  obtain rfl : Words.short (packR 8 (bit5 h) (b.setWidth 5) a 41 0) = ws := Option.some.inj he
  change decodeRaw ⟨(packR 8 (bit5 h) (b.setWidth 5) a 41 0), 0, 0, 0⟩ = _
  rw [decodeRaw_decMask (by simp), decMask]
  simp [noLit, ck, Raw.imm32, ofOpt, ofOpt2, ofCvt, ofGx, hook5, ctx10]

theorem RoundTrip.mlanes (a : BitVec 3) (b : BitVec 5) : RoundTrip.Statement (.mlanes a b) := by
  intro ws hw he
  obtain rfl : Words.short (packR 9 0 b (a.setWidth 5) 41 0) = ws := Option.some.inj he
  change decodeRaw ⟨(packR 9 0 b (a.setWidth 5) 41 0), 0, 0, 0⟩ = _
  rw [decodeRaw_decMask (by simp), decMask]
  simp [noLit, ck, Raw.imm32, ofOpt, ofOpt2, ofCvt, ofGx, hook5, ctx10]

theorem RoundTrip.sadd (r : Rnd) (a b c : BitVec 5) : RoundTrip.Statement (.sadd r a b c) := by
  intro ws hw he
  obtain rfl : Words.ext (packR 0 c b a 44 2) (packE (r.code.setWidth 15) 0 0 0 0) (0) = ws := Option.some.inj he
  change decodeRaw ⟨(packR 0 c b a 44 2), (packE (r.code.setWidth 15) 0 0 0 0), (0), 0⟩ = _
  rw [decodeRaw_decShape (by simp), decShape]
  simp [noLit, ck, Raw.imm32, ofOpt, ofOpt2, ofCvt, ofGx, hook5, ctx10]

theorem RoundTrip.ssub (r : Rnd) (a b c : BitVec 5) : RoundTrip.Statement (.ssub r a b c) := by
  intro ws hw he
  obtain rfl : Words.ext (packR 1 c b a 44 2) (packE (r.code.setWidth 15) 0 0 0 0) (0) = ws := Option.some.inj he
  change decodeRaw ⟨(packR 1 c b a 44 2), (packE (r.code.setWidth 15) 0 0 0 0), (0), 0⟩ = _
  rw [decodeRaw_decShape (by simp), decShape]
  simp [noLit, ck, Raw.imm32, ofOpt, ofOpt2, ofCvt, ofGx, hook5, ctx10]

theorem RoundTrip.smul (r : Rnd) (a b c : BitVec 5) : RoundTrip.Statement (.smul r a b c) := by
  intro ws hw he
  obtain rfl : Words.ext (packR 2 c b a 44 2) (packE (r.code.setWidth 15) 0 0 0 0) (0) = ws := Option.some.inj he
  change decodeRaw ⟨(packR 2 c b a 44 2), (packE (r.code.setWidth 15) 0 0 0 0), (0), 0⟩ = _
  rw [decodeRaw_decShape (by simp), decShape]
  simp [noLit, ck, Raw.imm32, ofOpt, ofOpt2, ofCvt, ofGx, hook5, ctx10]

theorem RoundTrip.sfma (r : Rnd) (a b c : BitVec 5) : RoundTrip.Statement (.sfma r a b c) := by
  intro ws hw he
  obtain rfl : Words.ext (packR 3 c b a 44 2) (packE (r.code.setWidth 15) 0 0 0 0) (0) = ws := Option.some.inj he
  change decodeRaw ⟨(packR 3 c b a 44 2), (packE (r.code.setWidth 15) 0 0 0 0), (0), 0⟩ = _
  rw [decodeRaw_decShape (by simp), decShape]
  simp [noLit, ck, Raw.imm32, ofOpt, ofOpt2, ofCvt, ofGx, hook5, ctx10]

theorem RoundTrip.smin (a b c : BitVec 5) : RoundTrip.Statement (.smin a b c) := by
  intro ws hw he
  obtain rfl : Words.ext (packR 4 c b a 44 2) (packE 0 0 0 0 0) (0) = ws := Option.some.inj he
  change decodeRaw ⟨(packR 4 c b a 44 2), (packE 0 0 0 0 0), (0), 0⟩ = _
  rw [decodeRaw_decShape (by simp), decShape]
  simp [noLit, ck, Raw.imm32, ofOpt, ofOpt2, ofCvt, ofGx, hook5, ctx10]

theorem RoundTrip.smax (a b c : BitVec 5) : RoundTrip.Statement (.smax a b c) := by
  intro ws hw he
  obtain rfl : Words.ext (packR 5 c b a 44 2) (packE 0 0 0 0 0) (0) = ws := Option.some.inj he
  change decodeRaw ⟨(packR 5 c b a 44 2), (packE 0 0 0 0 0), (0), 0⟩ = _
  rw [decodeRaw_decShape (by simp), decShape]
  simp [noLit, ck, Raw.imm32, ofOpt, ofOpt2, ofCvt, ofGx, hook5, ctx10]

theorem RoundTrip.scvt (r : Rnd) (a b : BitVec 5) : RoundTrip.Statement (.scvt r a b) := by
  intro ws hw he
  obtain rfl : Words.ext (packR 6 0 b a 44 2) (packE (r.code.setWidth 15) 0 0 0 0) (0) = ws := Option.some.inj he
  change decodeRaw ⟨(packR 6 0 b a 44 2), (packE (r.code.setWidth 15) 0 0 0 0), (0), 0⟩ = _
  rw [decodeRaw_decShape (by simp), decShape]
  simp [noLit, ck, Raw.imm32, ofOpt, ofOpt2, ofCvt, ofGx, hook5, ctx10]

theorem RoundTrip.scopy (a b : BitVec 5) : RoundTrip.Statement (.scopy a b) := by
  intro ws hw he
  obtain rfl : Words.ext (packR 7 0 b a 44 2) (packE 0 0 0 0 0) (0) = ws := Option.some.inj he
  change decodeRaw ⟨(packR 7 0 b a 44 2), (packE 0 0 0 0 0), (0), 0⟩ = _
  rw [decodeRaw_decShape (by simp), decShape]
  simp [noLit, ck, Raw.imm32, ofOpt, ofOpt2, ofCvt, ofGx, hook5, ctx10]

theorem RoundTrip.sexp2 (a b : BitVec 5) : RoundTrip.Statement (.sexp2 a b) := by
  intro ws hw he
  obtain rfl : Words.ext (packR 8 0 b a 44 2) (packE 0 0 0 0 0) (0) = ws := Option.some.inj he
  change decodeRaw ⟨(packR 8 0 b a 44 2), (packE 0 0 0 0 0), (0), 0⟩ = _
  rw [decodeRaw_decShape (by simp), decShape]
  simp [noLit, ck, Raw.imm32, ofOpt, ofOpt2, ofCvt, ofGx, hook5, ctx10]

theorem RoundTrip.srsum (r : Rnd) (a b : BitVec 5) : RoundTrip.Statement (.srsum r a b) := by
  intro ws hw he
  obtain rfl : Words.ext (packR 9 0 b a 44 2) (packE (r.code.setWidth 15) 0 0 0 0) (0) = ws := Option.some.inj he
  change decodeRaw ⟨(packR 9 0 b a 44 2), (packE (r.code.setWidth 15) 0 0 0 0), (0), 0⟩ = _
  rw [decodeRaw_decShape (by simp), decShape]
  simp [noLit, ck, Raw.imm32, ofOpt, ofOpt2, ofCvt, ofGx, hook5, ctx10]

theorem RoundTrip.srmax (a b : BitVec 5) : RoundTrip.Statement (.srmax a b) := by
  intro ws hw he
  obtain rfl : Words.ext (packR 10 0 b a 44 2) (packE 0 0 0 0 0) (0) = ws := Option.some.inj he
  change decodeRaw ⟨(packR 10 0 b a 44 2), (packE 0 0 0 0 0), (0), 0⟩ = _
  rw [decodeRaw_decShape (by simp), decShape]
  simp [noLit, ck, Raw.imm32, ofOpt, ofOpt2, ofCvt, ofGx, hook5, ctx10]

theorem RoundTrip.sbcast (a b : BitVec 5) : RoundTrip.Statement (.sbcast a b) := by
  intro ws hw he
  obtain rfl : Words.ext (packR 11 0 b a 44 2) (packE 0 0 0 0 0) (0) = ws := Option.some.inj he
  change decodeRaw ⟨(packR 11 0 b a 44 2), (packE 0 0 0 0 0), (0), 0⟩ = _
  rw [decodeRaw_decShape (by simp), decShape]
  simp [noLit, ck, Raw.imm32, ofOpt, ofOpt2, ofCvt, ofGx, hook5, ctx10]

theorem RoundTrip.shpCheck (a b c e : BitVec 5) : RoundTrip.Statement (.shpCheck a b c e) := by
  intro ws hw he
  obtain rfl : Words.ext (packR 12 c b a 44 2) (packE 0 0 0 0 e) (0) = ws := Option.some.inj he
  change decodeRaw ⟨(packR 12 c b a 44 2), (packE 0 0 0 0 e), (0), 0⟩ = _
  rw [decodeRaw_decShape (by simp), decShape]
  simp [noLit, ck, Raw.imm32, ofOpt, ofOpt2, ofCvt, ofGx, hook5, ctx10]

theorem RoundTrip.postMx (d : BitVec 4) (s : BitVec 5) : RoundTrip.Statement (.postMx d s) := by
  intro ws hw he
  obtain rfl : Words.short (packR 0 0 s (d.setWidth 5) 46 0) = ws := Option.some.inj he
  change decodeRaw ⟨(packR 0 0 s (d.setWidth 5) 46 0), 0, 0, 0⟩ = _
  rw [decodeRaw_decEngine (by simp), decEngine]
  simp [noLit, ck, Raw.imm32, ofOpt, ofOpt2, ofCvt, ofGx, hook5, ctx10]

theorem RoundTrip.postCp (d : BitVec 4) (s : BitVec 5) : RoundTrip.Statement (.postCp d s) := by
  intro ws hw he
  obtain rfl : Words.short (packR 1 0 s (d.setWidth 5) 46 0) = ws := Option.some.inj he
  change decodeRaw ⟨(packR 1 0 s (d.setWidth 5) 46 0), 0, 0, 0⟩ = _
  rw [decodeRaw_decEngine (by simp), decEngine]
  simp [noLit, ck, Raw.imm32, ofOpt, ofOpt2, ofCvt, ofGx, hook5, ctx10]

theorem RoundTrip.fwait (d : BitVec 5) (s : BitVec 4) : RoundTrip.Statement (.fwait d s) := by
  intro ws hw he
  obtain rfl : Words.short (packR 2 0 (s.setWidth 5) d 46 0) = ws := Option.some.inj he
  change decodeRaw ⟨(packR 2 0 (s.setWidth 5) d 46 0), 0, 0, 0⟩ = _
  rw [decodeRaw_decEngine (by simp), decEngine]
  simp [noLit, ck, Raw.imm32, ofOpt, ofOpt2, ofCvt, ofGx, hook5, ctx10]

theorem RoundTrip.ftest (d : BitVec 5) (s : BitVec 4) : RoundTrip.Statement (.ftest d s) := by
  intro ws hw he
  obtain rfl : Words.short (packR 3 0 (s.setWidth 5) d 46 0) = ws := Option.some.inj he
  change decodeRaw ⟨(packR 3 0 (s.setWidth 5) d 46 0), 0, 0, 0⟩ = _
  rw [decodeRaw_decEngine (by simp), decEngine]
  simp [noLit, ck, Raw.imm32, ofOpt, ofOpt2, ofCvt, ofGx, hook5, ctx10]

theorem RoundTrip.fcancel (s : BitVec 4) : RoundTrip.Statement (.fcancel s) := by
  intro ws hw he
  obtain rfl : Words.short (packR 4 0 (s.setWidth 5) 0 46 0) = ws := Option.some.inj he
  change decodeRaw ⟨(packR 4 0 (s.setWidth 5) 0 46 0), 0, 0, 0⟩ = _
  rw [decodeRaw_decEngine (by simp), decEngine]
  simp [noLit, ck, Raw.imm32, ofOpt, ofOpt2, ofCvt, ofGx, hook5, ctx10]

theorem RoundTrip.fwaitany (d s : BitVec 5) : RoundTrip.Statement (.fwaitany d s) := by
  intro ws hw he
  obtain rfl : Words.short (packR 5 0 s d 46 0) = ws := Option.some.inj he
  change decodeRaw ⟨(packR 5 0 s d 46 0), 0, 0, 0⟩ = _
  rw [decodeRaw_decEngine (by simp), decEngine]
  simp [noLit, ck, Raw.imm32, ofOpt, ofOpt2, ofCvt, ofGx, hook5, ctx10]

theorem RoundTrip.fmovx (d : BitVec 5) (s : BitVec 4) : RoundTrip.Statement (.fmovx d s) := by
  intro ws hw he
  obtain rfl : Words.short (packR 6 0 (s.setWidth 5) d 46 0) = ws := Option.some.inj he
  change decodeRaw ⟨(packR 6 0 (s.setWidth 5) d 46 0), 0, 0, 0⟩ = _
  rw [decodeRaw_decEngine (by simp), decEngine]
  simp [noLit, ck, Raw.imm32, ofOpt, ofOpt2, ofCvt, ofGx, hook5, ctx10]

theorem RoundTrip.xmovf (d : BitVec 4) (s : BitVec 5) : RoundTrip.Statement (.xmovf d s) := by
  intro ws hw he
  obtain rfl : Words.short (packR 7 0 s (d.setWidth 5) 46 0) = ws := Option.some.inj he
  change decodeRaw ⟨(packR 7 0 s (d.setWidth 5) 46 0), 0, 0, 0⟩ = _
  rw [decodeRaw_decEngine (by simp), decEngine]
  simp [noLit, ck, Raw.imm32, ofOpt, ofOpt2, ofCvt, ofGx, hook5, ctx10]

theorem RoundTrip.fenceCards  : RoundTrip.Statement .fenceCards := by
  intro ws hw he
  obtain rfl : Words.short (packR 8 0 0 0 46 0) = ws := Option.some.inj he
  change decodeRaw ⟨(packR 8 0 0 0 46 0), 0, 0, 0⟩ = _
  rw [decodeRaw_decEngine (by simp), decEngine]
  simp [noLit, ck, Raw.imm32, ofOpt, ofOpt2, ofCvt, ofGx, hook5, ctx10]

theorem RoundTrip.barInit (b : BitVec 6) (s : BitVec 5) : RoundTrip.Statement (.barInit b s) := by
  intro ws hw he
  obtain rfl : Words.short (packB b 0 0 s 0 47 0) = ws := Option.some.inj he
  change decodeRaw ⟨(packB b 0 0 s 0 47 0), 0, 0, 0⟩ = _
  rw [decodeRaw_decBarrier (by simp), decBarrier]
  simp [noLit, ck, Raw.imm32, ofOpt, ofOpt2, ofCvt, ofGx, hook5, ctx10]

theorem RoundTrip.barInitImm (b : BitVec 6) (n : BitVec 32) : RoundTrip.Statement (.barInitImm b n) := by
  intro ws hw he
  obtain rfl : Words.ext (packB b 0 0 0 0 47 2) 0 n = ws := Option.some.inj he
  change decodeRaw ⟨(packB b 0 0 0 0 47 2), 0, n, 0⟩ = _
  rw [decodeRaw_decBarrier (by simp), decBarrier]
  simp [noLit, ck, Raw.imm32, ofOpt, ofOpt2, ofCvt, ofGx, hook5, ctx10]

theorem RoundTrip.barArrive (b : BitVec 6) : RoundTrip.Statement (.barArrive b) := by
  intro ws hw he
  obtain rfl : Words.short (packB b 1 0 0 0 47 0) = ws := Option.some.inj he
  change decodeRaw ⟨(packB b 1 0 0 0 47 0), 0, 0, 0⟩ = _
  rw [decodeRaw_decBarrier (by simp), decBarrier]
  simp [noLit, ck, Raw.imm32, ofOpt, ofOpt2, ofCvt, ofGx, hook5, ctx10]

theorem RoundTrip.barDrop (b : BitVec 6) : RoundTrip.Statement (.barDrop b) := by
  intro ws hw he
  obtain rfl : Words.short (packB b 2 0 0 0 47 0) = ws := Option.some.inj he
  change decodeRaw ⟨(packB b 2 0 0 0 47 0), 0, 0, 0⟩ = _
  rw [decodeRaw_decBarrier (by simp), decBarrier]
  simp [noLit, ck, Raw.imm32, ofOpt, ofOpt2, ofCvt, ofGx, hook5, ctx10]

theorem RoundTrip.barWait (b : BitVec 6) : RoundTrip.Statement (.barWait b) := by
  intro ws hw he
  obtain rfl : Words.short (packB b 3 0 0 0 47 0) = ws := Option.some.inj he
  change decodeRaw ⟨(packB b 3 0 0 0 47 0), 0, 0, 0⟩ = _
  rw [decodeRaw_decBarrier (by simp), decBarrier]
  simp [noLit, ck, Raw.imm32, ofOpt, ofOpt2, ofCvt, ofGx, hook5, ctx10]

theorem RoundTrip.barExpect (b : BitVec 6) (s : BitVec 5) : RoundTrip.Statement (.barExpect b s) := by
  intro ws hw he
  obtain rfl : Words.short (packB b 4 0 s 0 47 0) = ws := Option.some.inj he
  change decodeRaw ⟨(packB b 4 0 s 0 47 0), 0, 0, 0⟩ = _
  rw [decodeRaw_decBarrier (by simp), decBarrier]
  simp [noLit, ck, Raw.imm32, ofOpt, ofOpt2, ofCvt, ofGx, hook5, ctx10]

theorem RoundTrip.barExpectImm (b : BitVec 6) (n : BitVec 32) : RoundTrip.Statement (.barExpectImm b n) := by
  intro ws hw he
  obtain rfl : Words.ext (packB b 4 0 0 0 47 2) 0 n = ws := Option.some.inj he
  change decodeRaw ⟨(packB b 4 0 0 0 47 2), 0, n, 0⟩ = _
  rw [decodeRaw_decBarrier (by simp), decBarrier]
  simp [noLit, ck, Raw.imm32, ofOpt, ofOpt2, ofCvt, ofGx, hook5, ctx10]

theorem RoundTrip.barTest (b : BitVec 6) (d : BitVec 5) : RoundTrip.Statement (.barTest b d) := by
  intro ws hw he
  obtain rfl : Words.short (packB b 5 0 0 d 47 0) = ws := Option.some.inj he
  change decodeRaw ⟨(packB b 5 0 0 d 47 0), 0, 0, 0⟩ = _
  rw [decodeRaw_decBarrier (by simp), decBarrier]
  simp [noLit, ck, Raw.imm32, ofOpt, ofOpt2, ofCvt, ofGx, hook5, ctx10]

theorem RoundTrip.barLink (b : BitVec 6) (s : BitVec 5) : RoundTrip.Statement (.barLink b s) := by
  intro ws hw he
  obtain rfl : Words.short (packB b 6 0 s 0 47 0) = ws := Option.some.inj he
  change decodeRaw ⟨(packB b 6 0 s 0 47 0), 0, 0, 0⟩ = _
  rw [decodeRaw_decBarrier (by simp), decBarrier]
  simp [noLit, ck, Raw.imm32, ofOpt, ofOpt2, ofCvt, ofGx, hook5, ctx10]

theorem RoundTrip.pcap (d : BitVec 4) (s : BitVec 5) (xm : BitVec 8) (vm : BitVec 2) : RoundTrip.Statement (.pcap d s xm vm) := by
  intro ws hw he
  obtain rfl : Words.ext (packR 0 0 s (d.setWidth 5) 48 2) (packE 0 0 0 0 0) (packPod vm xm) = ws := Option.some.inj he
  change decodeRaw ⟨(packR 0 0 s (d.setWidth 5) 48 2), (packE 0 0 0 0 0), (packPod vm xm), 0⟩ = _
  rw [decodeRaw_decPod (by simp), decPod]
  simp [noLit, ck, Raw.imm32, ofOpt, ofOpt2, ofCvt, ofGx, hook5, ctx10]

theorem RoundTrip.pcapr (g : Bool) (d : BitVec 4) (s : BitVec 5) (xm : BitVec 8) (vm : BitVec 2) (e : BitVec 5) : RoundTrip.Statement (.pcapr g d s xm vm e) := by
  intro ws hw he
  obtain rfl : Words.ext (packR 1 0 s (d.setWidth 5) 48 2) (packE (bit15 g) 0 0 0 e) (packPod vm xm) = ws := Option.some.inj he
  change decodeRaw ⟨(packR 1 0 s (d.setWidth 5) 48 2), (packE (bit15 g) 0 0 0 e), (packPod vm xm), 0⟩ = _
  rw [decodeRaw_decPod (by simp), decPod]
  simp [noLit, ck, Raw.imm32, ofOpt, ofOpt2, ofCvt, ofGx, hook5, ctx10]

theorem RoundTrip.pcall (o : Bool) (s : BitVec 4) : RoundTrip.Statement (.pcall o s) := by
  intro ws hw he
  obtain rfl : Words.short (packR 2 (bit5 o) (s.setWidth 5) 0 48 0) = ws := Option.some.inj he
  change decodeRaw ⟨(packR 2 (bit5 o) (s.setWidth 5) 0 48 0), 0, 0, 0⟩ = _
  rw [decodeRaw_decPod (by simp), decPod]
  simp [noLit, ck, Raw.imm32, ofOpt, ofOpt2, ofCvt, ofGx, hook5, ctx10]

theorem RoundTrip.pspawn (o : Bool) (d : BitVec 5) (s : BitVec 4) : RoundTrip.Statement (.pspawn o d s) := by
  intro ws hw he
  obtain rfl : Words.short (packR 3 (bit5 o) (s.setWidth 5) d 48 0) = ws := Option.some.inj he
  change decodeRaw ⟨(packR 3 (bit5 o) (s.setWidth 5) d 48 0), 0, 0, 0⟩ = _
  rw [decodeRaw_decPod (by simp), decPod]
  simp [noLit, ck, Raw.imm32, ofOpt, ofOpt2, ofCvt, ofGx, hook5, ctx10]

theorem RoundTrip.psend (d : BitVec 5) (s : BitVec 4) (t : BitVec 5) : RoundTrip.Statement (.psend d s t) := by
  intro ws hw he
  obtain rfl : Words.short (packR 4 t (s.setWidth 5) d 48 0) = ws := Option.some.inj he
  change decodeRaw ⟨(packR 4 t (s.setWidth 5) d 48 0), 0, 0, 0⟩ = _
  rw [decodeRaw_decPod (by simp), decPod]
  simp [noLit, ck, Raw.imm32, ofOpt, ofOpt2, ofCvt, ofGx, hook5, ctx10]

theorem RoundTrip.pdup (d s : BitVec 4) : RoundTrip.Statement (.pdup d s) := by
  intro ws hw he
  obtain rfl : Words.short (packR 5 0 (s.setWidth 5) (d.setWidth 5) 48 0) = ws := Option.some.inj he
  change decodeRaw ⟨(packR 5 0 (s.setWidth 5) (d.setWidth 5) 48 0), 0, 0, 0⟩ = _
  rw [decodeRaw_decPod (by simp), decPod]
  simp [noLit, ck, Raw.imm32, ofOpt, ofOpt2, ofCvt, ofGx, hook5, ctx10]

theorem RoundTrip.prel (s : BitVec 4) : RoundTrip.Statement (.prel s) := by
  intro ws hw he
  obtain rfl : Words.short (packR 6 0 (s.setWidth 5) 0 48 0) = ws := Option.some.inj he
  change decodeRaw ⟨(packR 6 0 (s.setWidth 5) 0 48 0), 0, 0, 0⟩ = _
  rw [decodeRaw_decPod (by simp), decPod]
  simp [noLit, ck, Raw.imm32, ofOpt, ofOpt2, ofCvt, ofGx, hook5, ctx10]

theorem RoundTrip.pget (d : BitVec 5) (s : BitVec 4) : RoundTrip.Statement (.pget d s) := by
  intro ws hw he
  obtain rfl : Words.short (packR 7 0 (s.setWidth 5) d 48 0) = ws := Option.some.inj he
  change decodeRaw ⟨(packR 7 0 (s.setWidth 5) d 48 0), 0, 0, 0⟩ = _
  rw [decodeRaw_decPod (by simp), decPod]
  simp [noLit, ck, Raw.imm32, ofOpt, ofOpt2, ofCvt, ofGx, hook5, ctx10]

theorem RoundTrip.pexport (d : BitVec 5) (s : BitVec 4) : RoundTrip.Statement (.pexport d s) := by
  intro ws hw he
  obtain rfl : Words.short (packR 8 0 (s.setWidth 5) d 48 0) = ws := Option.some.inj he
  change decodeRaw ⟨(packR 8 0 (s.setWidth 5) d 48 0), 0, 0, 0⟩ = _
  rw [decodeRaw_decPod (by simp), decPod]
  simp [noLit, ck, Raw.imm32, ofOpt, ofOpt2, ofCvt, ofGx, hook5, ctx10]

theorem RoundTrip.pimport (d : BitVec 4) (s : BitVec 5) : RoundTrip.Statement (.pimport d s) := by
  intro ws hw he
  obtain rfl : Words.short (packR 9 0 s (d.setWidth 5) 48 0) = ws := Option.some.inj he
  change decodeRaw ⟨(packR 9 0 s (d.setWidth 5) 48 0), 0, 0, 0⟩ = _
  rw [decodeRaw_decPod (by simp), decPod]
  simp [noLit, ck, Raw.imm32, ofOpt, ofOpt2, ofCvt, ofGx, hook5, ctx10]

theorem RoundTrip.segMake (cls : BitVec 2) (cnt : BitVec 11) (d s t e : BitVec 5) : RoundTrip.Statement (.segMake cls cnt d s t e) := by
  intro ws hw he
  change ((cls == 3 || e == 0)) = true at hw
  simp only [Bool.or_eq_true, beq_iff_eq] at hw
  obtain rfl : Words.ext (packR 0 t s d 49 2) (packE (packCls cls) 0 0 0 e) (cnt.setWidth 32) = ws := Option.some.inj he
  change decodeRaw ⟨(packR 0 t s d 49 2), (packE (packCls cls) 0 0 0 e), (cnt.setWidth 32), 0⟩ = _
  rw [decodeRaw_decSeg (by simp), decSeg]
  simp [noLit, ck, Raw.imm32, ofOpt, ofOpt2, ofCvt, ofGx, hook5, ctx10]
  exact fun h => hw.resolve_left h

theorem RoundTrip.segAttach (m : BitVec 2) (d s : BitVec 5) : RoundTrip.Statement (.segAttach m d s) := by
  intro ws hw he
  obtain rfl : Words.short (packR 1 (m.setWidth 5) s d 49 0) = ws := Option.some.inj he
  change decodeRaw ⟨(packR 1 (m.setWidth 5) s d 49 0), 0, 0, 0⟩ = _
  rw [decodeRaw_decSeg (by simp), decSeg]
  simp [noLit, ck, Raw.imm32, ofOpt, ofOpt2, ofCvt, ofGx, hook5, ctx10]

theorem RoundTrip.segDetach (s : BitVec 5) : RoundTrip.Statement (.segDetach s) := by
  intro ws hw he
  obtain rfl : Words.short (packR 2 0 s 0 49 0) = ws := Option.some.inj he
  change decodeRaw ⟨(packR 2 0 s 0 49 0), 0, 0, 0⟩ = _
  rw [decodeRaw_decSeg (by simp), decSeg]
  simp [noLit, ck, Raw.imm32, ofOpt, ofOpt2, ofCvt, ofGx, hook5, ctx10]

theorem RoundTrip.segPublish (d s : BitVec 5) : RoundTrip.Statement (.segPublish d s) := by
  intro ws hw he
  obtain rfl : Words.short (packR 3 0 s d 49 0) = ws := Option.some.inj he
  change decodeRaw ⟨(packR 3 0 s d 49 0), 0, 0, 0⟩ = _
  rw [decodeRaw_decSeg (by simp), decSeg]
  simp [noLit, ck, Raw.imm32, ofOpt, ofOpt2, ofCvt, ofGx, hook5, ctx10]

theorem RoundTrip.segEvict (d s : BitVec 5) : RoundTrip.Statement (.segEvict d s) := by
  intro ws hw he
  obtain rfl : Words.short (packR 4 0 s d 49 0) = ws := Option.some.inj he
  change decodeRaw ⟨(packR 4 0 s d 49 0), 0, 0, 0⟩ = _
  rw [decodeRaw_decSeg (by simp), decSeg]
  simp [noLit, ck, Raw.imm32, ofOpt, ofOpt2, ofCvt, ofGx, hook5, ctx10]

theorem RoundTrip.segDrop (d s : BitVec 5) : RoundTrip.Statement (.segDrop d s) := by
  intro ws hw he
  obtain rfl : Words.short (packR 5 0 s d 49 0) = ws := Option.some.inj he
  change decodeRaw ⟨(packR 5 0 s d 49 0), 0, 0, 0⟩ = _
  rw [decodeRaw_decSeg (by simp), decSeg]
  simp [noLit, ck, Raw.imm32, ofOpt, ofOpt2, ofCvt, ofGx, hook5, ctx10]

theorem RoundTrip.segQuery (d s : BitVec 5) : RoundTrip.Statement (.segQuery d s) := by
  intro ws hw he
  obtain rfl : Words.short (packR 6 0 s d 49 0) = ws := Option.some.inj he
  change decodeRaw ⟨(packR 6 0 s d 49 0), 0, 0, 0⟩ = _
  rw [decodeRaw_decSeg (by simp), decSeg]
  simp [noLit, ck, Raw.imm32, ofOpt, ofOpt2, ofCvt, ofGx, hook5, ctx10]

theorem RoundTrip.ibxTake  : RoundTrip.Statement .ibxTake := by
  intro ws hw he
  obtain rfl : Words.short (packR 0 0 0 0 50 0) = ws := Option.some.inj he
  change decodeRaw ⟨(packR 0 0 0 0 50 0), 0, 0, 0⟩ = _
  rw [decodeRaw_decTask (by simp), decTask]
  simp [noLit, ck, Raw.imm32, ofOpt, ofOpt2, ofCvt, ofGx, hook5, ctx10]

theorem RoundTrip.taskEnd (f : Bool) (s : BitVec 5) : RoundTrip.Statement (.taskEnd f s) := by
  intro ws hw he
  obtain rfl : Words.short (packR 1 (bit5 f) s 0 50 0) = ws := Option.some.inj he
  change decodeRaw ⟨(packR 1 (bit5 f) s 0 50 0), 0, 0, 0⟩ = _
  rw [decodeRaw_decTask (by simp), decTask]
  simp [noLit, ck, Raw.imm32, ofOpt, ofOpt2, ofCvt, ofGx, hook5, ctx10]

theorem RoundTrip.taskSpawn (d s : BitVec 5) : RoundTrip.Statement (.taskSpawn d s) := by
  intro ws hw he
  obtain rfl : Words.short (packR 2 0 s d 50 0) = ws := Option.some.inj he
  change decodeRaw ⟨(packR 2 0 s d 50 0), 0, 0, 0⟩ = _
  rw [decodeRaw_decTask (by simp), decTask]
  simp [noLit, ck, Raw.imm32, ofOpt, ofOpt2, ofCvt, ofGx, hook5, ctx10]

theorem RoundTrip.taskSpawnExt (d s : BitVec 5) (i : BitVec 32) : RoundTrip.Statement (.taskSpawnExt d s i) := by
  intro ws hw he
  obtain rfl : Words.ext (packR 2 0 s d 50 2) (packE 0 0 0 0 0) i = ws := Option.some.inj he
  change decodeRaw ⟨(packR 2 0 s d 50 2), (packE 0 0 0 0 0), i, 0⟩ = _
  rw [decodeRaw_decTask (by simp), decTask]
  simp [noLit, ck, Raw.imm32, ofOpt, ofOpt2, ofCvt, ofGx, hook5, ctx10]

theorem RoundTrip.taskSpawnLit (d s : BitVec 5) (l : BitVec 64) : RoundTrip.Statement (.taskSpawnLit d s l) := by
  intro ws hw he
  obtain rfl : Words.extLit (packR 2 0 s d 50 3) (packE 0 0 0 0 0) 0 l = ws := Option.some.inj he
  change decodeRaw ⟨(packR 2 0 s d 50 3), (packE 0 0 0 0 0), 0, l⟩ = _
  rw [decodeRaw_decTask (by simp), decTask]
  simp [noLit, ck, Raw.imm32, ofOpt, ofOpt2, ofCvt, ofGx, hook5, ctx10]

theorem RoundTrip.rngOpen (d s t e : BitVec 5) : RoundTrip.Statement (.rngOpen d s t e) := by
  intro ws hw he
  obtain rfl : Words.ext (packR 3 t s d 50 2) (packE 0 0 0 0 e) (0) = ws := Option.some.inj he
  change decodeRaw ⟨(packR 3 t s d 50 2), (packE 0 0 0 0 e), (0), 0⟩ = _
  rw [decodeRaw_decTask (by simp), decTask]
  simp [noLit, ck, Raw.imm32, ofOpt, ofOpt2, ofCvt, ofGx, hook5, ctx10]

theorem RoundTrip.rngTake (d s : BitVec 5) : RoundTrip.Statement (.rngTake d s) := by
  intro ws hw he
  obtain rfl : Words.short (packR 4 0 s d 50 0) = ws := Option.some.inj he
  change decodeRaw ⟨(packR 4 0 s d 50 0), 0, 0, 0⟩ = _
  rw [decodeRaw_decTask (by simp), decTask]
  simp [noLit, ck, Raw.imm32, ofOpt, ofOpt2, ofCvt, ofGx, hook5, ctx10]

theorem RoundTrip.rngClose (s : BitVec 5) : RoundTrip.Statement (.rngClose s) := by
  intro ws hw he
  obtain rfl : Words.short (packR 5 0 s 0 50 0) = ws := Option.some.inj he
  change decodeRaw ⟨(packR 5 0 s 0 50 0), 0, 0, 0⟩ = _
  rw [decodeRaw_decTask (by simp), decTask]
  simp [noLit, ck, Raw.imm32, ofOpt, ofOpt2, ofCvt, ofGx, hook5, ctx10]

theorem RoundTrip.gangLead  : RoundTrip.Statement .gangLead := by
  intro ws hw he
  obtain rfl : Words.short (packR 6 0 0 0 50 0) = ws := Option.some.inj he
  change decodeRaw ⟨(packR 6 0 0 0 50 0), 0, 0, 0⟩ = _
  rw [decodeRaw_decTask (by simp), decTask]
  simp [noLit, ck, Raw.imm32, ofOpt, ofOpt2, ofCvt, ofGx, hook5, ctx10]

theorem RoundTrip.gangFollow  : RoundTrip.Statement .gangFollow := by
  intro ws hw he
  obtain rfl : Words.short (packR 7 0 0 0 50 0) = ws := Option.some.inj he
  change decodeRaw ⟨(packR 7 0 0 0 50 0), 0, 0, 0⟩ = _
  rw [decodeRaw_decTask (by simp), decTask]
  simp [noLit, ck, Raw.imm32, ofOpt, ofOpt2, ofCvt, ofGx, hook5, ctx10]

theorem RoundTrip.gangJoin (y : Bool) : RoundTrip.Statement (.gangJoin y) := by
  intro ws hw he
  obtain rfl : Words.short (packR 8 (bit5 y) 0 0 50 0) = ws := Option.some.inj he
  change decodeRaw ⟨(packR 8 (bit5 y) 0 0 50 0), 0, 0, 0⟩ = _
  rw [decodeRaw_decTask (by simp), decTask]
  simp [noLit, ck, Raw.imm32, ofOpt, ofOpt2, ofCvt, ofGx, hook5, ctx10]

theorem RoundTrip.gangLeave  : RoundTrip.Statement .gangLeave := by
  intro ws hw he
  obtain rfl : Words.short (packR 9 0 0 0 50 0) = ws := Option.some.inj he
  change decodeRaw ⟨(packR 9 0 0 0 50 0), 0, 0, 0⟩ = _
  rw [decodeRaw_decTask (by simp), decTask]
  simp [noLit, ck, Raw.imm32, ofOpt, ofOpt2, ofCvt, ofGx, hook5, ctx10]

theorem RoundTrip.give (s t : BitVec 5) : RoundTrip.Statement (.give s t) := by
  intro ws hw he
  obtain rfl : Words.short (packR 0 t s 0 51 0) = ws := Option.some.inj he
  change decodeRaw ⟨(packR 0 t s 0 51 0), 0, 0, 0⟩ = _
  rw [decodeRaw_decOwn (by simp), decOwn]
  simp [noLit, ck, Raw.imm32, ofOpt, ofOpt2, ofCvt, ofGx, hook5, ctx10]

theorem RoundTrip.giveExt (clr : Bool) (s t e : BitVec 5) : RoundTrip.Statement (.giveExt clr s t e) := by
  intro ws hw he
  obtain rfl : Words.ext (packR 0 t s 0 51 2) (packE (bit15 clr) 0 0 0 e) 0 = ws := Option.some.inj he
  change decodeRaw ⟨(packR 0 t s 0 51 2), (packE (bit15 clr) 0 0 0 e), 0, 0⟩ = _
  rw [decodeRaw_decOwn (by simp), decOwn]
  simp [noLit, ck, Raw.imm32, ofOpt, ofOpt2, ofCvt, ofGx, hook5, ctx10]

theorem RoundTrip.accept (s : BitVec 5) : RoundTrip.Statement (.accept s) := by
  intro ws hw he
  obtain rfl : Words.short (packR 1 0 s 0 51 0) = ws := Option.some.inj he
  change decodeRaw ⟨(packR 1 0 s 0 51 0), 0, 0, 0⟩ = _
  rw [decodeRaw_decOwn (by simp), decOwn]
  simp [noLit, ck, Raw.imm32, ofOpt, ofOpt2, ofCvt, ofGx, hook5, ctx10]

theorem RoundTrip.decline (s : BitVec 5) : RoundTrip.Statement (.decline s) := by
  intro ws hw he
  obtain rfl : Words.short (packR 2 0 s 0 51 0) = ws := Option.some.inj he
  change decodeRaw ⟨(packR 2 0 s 0 51 0), 0, 0, 0⟩ = _
  rw [decodeRaw_decOwn (by simp), decOwn]
  simp [noLit, ck, Raw.imm32, ofOpt, ofOpt2, ofCvt, ofGx, hook5, ctx10]

theorem RoundTrip.lend (rc clr : Bool) (h s t e : BitVec 5) (g : BitVec 32) : RoundTrip.Statement (.lend rc clr h s t e g) := by
  intro ws hw he
  obtain rfl : Words.ext (packR 3 t s h 51 2) (packE (packLend rc clr) 0 0 0 e) g = ws := Option.some.inj he
  change decodeRaw ⟨(packR 3 t s h 51 2), (packE (packLend rc clr) 0 0 0 e), g, 0⟩ = _
  rw [decodeRaw_decOwn (by simp), decOwn]
  simp [noLit, ck, Raw.imm32, ofOpt, ofOpt2, ofCvt, ofGx, hook5, ctx10]

theorem RoundTrip.lendLit (rc clr : Bool) (h s t e : BitVec 5) (g : BitVec 32) : RoundTrip.Statement (.lendLit rc clr h s t e g) := by
  intro ws hw he
  obtain rfl : Words.extLit (packR 3 t s h 51 3) (packE (packLend rc clr) 0 0 0 e) 0 (g.setWidth 64) = ws := Option.some.inj he
  change decodeRaw ⟨(packR 3 t s h 51 3), (packE (packLend rc clr) 0 0 0 e), 0, (g.setWidth 64)⟩ = _
  rw [decodeRaw_decOwn (by simp), decOwn]
  simp [noLit, ck, Raw.imm32, ofOpt, ofOpt2, ofCvt, ofGx, hook5, ctx10]

theorem RoundTrip.recall (d s : BitVec 5) : RoundTrip.Statement (.recall d s) := by
  intro ws hw he
  obtain rfl : Words.short (packR 4 0 s d 51 0) = ws := Option.some.inj he
  change decodeRaw ⟨(packR 4 0 s d 51 0), 0, 0, 0⟩ = _
  rw [decodeRaw_decOwn (by simp), decOwn]
  simp [noLit, ck, Raw.imm32, ofOpt, ofOpt2, ofCvt, ofGx, hook5, ctx10]

theorem RoundTrip.reclaim (d s : BitVec 5) : RoundTrip.Statement (.reclaim d s) := by
  intro ws hw he
  obtain rfl : Words.short (packR 5 0 s d 51 0) = ws := Option.some.inj he
  change decodeRaw ⟨(packR 5 0 s d 51 0), 0, 0, 0⟩ = _
  rw [decodeRaw_decOwn (by simp), decOwn]
  simp [noLit, ck, Raw.imm32, ofOpt, ofOpt2, ofCvt, ofGx, hook5, ctx10]

theorem RoundTrip.ownQ (w : BitVec 2) (d s : BitVec 5) : RoundTrip.Statement (.ownQ w d s) := by
  intro ws hw he
  obtain rfl : Words.short (packR 6 (w.setWidth 5) s d 51 0) = ws := Option.some.inj he
  change decodeRaw ⟨(packR 6 (w.setWidth 5) s d 51 0), 0, 0, 0⟩ = _
  rw [decodeRaw_decOwn (by simp), decOwn]
  simp [noLit, ck, Raw.imm32, ofOpt, ofOpt2, ofCvt, ofGx, hook5, ctx10]

theorem RoundTrip.mint (d s : BitVec 5) : RoundTrip.Statement (.mint d s) := by
  intro ws hw he
  obtain rfl : Words.short (packR 7 0 s d 51 0) = ws := Option.some.inj he
  change decodeRaw ⟨(packR 7 0 s d 51 0), 0, 0, 0⟩ = _
  rw [decodeRaw_decOwn (by simp), decOwn]
  simp [noLit, ck, Raw.imm32, ofOpt, ofOpt2, ofCvt, ofGx, hook5, ctx10]

theorem RoundTrip.retire  : RoundTrip.Statement .retire := by
  intro ws hw he
  obtain rfl : Words.short (packR 8 0 0 0 51 0) = ws := Option.some.inj he
  change decodeRaw ⟨(packR 8 0 0 0 51 0), 0, 0, 0⟩ = _
  rw [decodeRaw_decOwn (by simp), decOwn]
  simp [noLit, ck, Raw.imm32, ofOpt, ofOpt2, ofCvt, ofGx, hook5, ctx10]

theorem RoundTrip.ownHook (k : BitVec 3) (s : BitVec 4) : RoundTrip.Statement (.ownHook k s) := by
  intro ws hw he
  change (decide (k.toNat ≤ 5)) = true at hw
  rw [decide_eq_true_eq] at hw
  obtain rfl : Words.short (packR 9 (k.setWidth 5) (s.setWidth 5) 0 51 0) = ws := Option.some.inj he
  change decodeRaw ⟨(packR 9 (k.setWidth 5) (s.setWidth 5) 0 51 0), 0, 0, 0⟩ = _
  rw [decodeRaw_decOwn (by simp), decOwn]
  simp [noLit, ck, Raw.imm32, ofOpt, ofOpt2, ofCvt, ofGx, hook5, ctx10, hw]

theorem RoundTrip.kread (d s : BitVec 5) (i : BitVec 10) (x : BitVec 4) : RoundTrip.Statement (.kread d s i x) := by
  intro ws hw he
  change (decide (x.toNat ≤ 10)) = true at hw
  rw [decide_eq_true_eq] at hw
  obtain rfl : Words.ext (packR 10 0 s d 51 2) (packE 0 0 0 0 0) (packKr x i) = ws := Option.some.inj he
  change decodeRaw ⟨(packR 10 0 s d 51 2), (packE 0 0 0 0 0), (packKr x i), 0⟩ = _
  rw [decodeRaw_decOwn (by simp), decOwn]
  simp [noLit, ck, Raw.imm32, ofOpt, ofOpt2, ofCvt, ofGx, hook5, ctx10, hw]

theorem RoundTrip.kwrite (s v : BitVec 5) (i : BitVec 10) (x : BitVec 4) : RoundTrip.Statement (.kwrite s v i x) := by
  intro ws hw he
  change (decide (x.toNat ≤ 10)) = true at hw
  rw [decide_eq_true_eq] at hw
  obtain rfl : Words.ext (packR 11 v s 0 51 2) (packE 0 0 0 0 0) (packKr x i) = ws := Option.some.inj he
  change decodeRaw ⟨(packR 11 v s 0 51 2), (packE 0 0 0 0 0), (packKr x i), 0⟩ = _
  rw [decodeRaw_decOwn (by simp), decOwn]
  simp [noLit, ck, Raw.imm32, ofOpt, ofOpt2, ofCvt, ofGx, hook5, ctx10, hw]

theorem RoundTrip.undecodableWord (cause : BitVec 8) (tval : BitVec 64) : RoundTrip.Statement (.undecodableWord cause tval) := fun _ _ h => nomatch h

theorem RoundTrip.resumeComplete (core : Nat) : RoundTrip.Statement (.resumeComplete core) := fun _ _ h => nomatch h

end Sys2Proof.Laws
end

