-- ==== Sys2Proof/Tests/Slice0.lean ====
section
/-! SUPPORT. Tests: the words of the encodings, terms that have no encoding, single steps checked against the worked
examples of the spec, and for each obligation a state that meets its hypotheses. -/

namespace Sys2Proof.Tests
open Sys2Proof Sys2Proof.Machine

set_option maxRecDepth 100000
set_option Elab.async false

/-- The decoder reads these 32-bit words, in memory order, as the instruction, and nothing is left. -/
abbrev reads (ws : List Nat) (i : Instr) : Prop :=
  (match decodeBytes (ws.flatMap (leBytes 4)) with
   | .ok (j, []) => decide (j = i)
   | _ => false) = true

/-- R107: each word of the group, its fields as the table and R80 to R83 place them; the first word bit by bit. -/
theorem test_words_intr :
    reads [0b000000000_00111_00110_00101_000001_00] (.add 5 6 7) ∧
    reads [0x9cc504] (.sub 5 6 7) ∧
    reads [0x11cc504] (.andX 5 6 7) ∧
    reads [0x19cc504] (.orX 5 6 7) ∧
    reads [0x21cc504] (.xorX 5 6 7) ∧
    reads [0x29cc504] (.andn 5 6 7) ∧
    reads [0x31cc504] (.orn 5 6 7) ∧
    reads [0x380c504] (.brev 5 6) ∧
    reads [0x41cc504] (.sll 5 6 7) ∧
    reads [0x49cc504] (.srl 5 6 7) ∧
    reads [0x51cc504] (.sra 5 6 7) ∧
    reads [0x59cc504] (.rol 5 6 7) ∧
    reads [0x61cc504] (.ror 5 6 7) ∧
    reads [0x69cc504] (.slt 5 6 7) ∧
    reads [0x71cc504] (.sltu 5 6 7) ∧
    reads [0x79cc504] (.minX 5 6 7) ∧
    reads [0x81cc504] (.maxX 5 6 7) ∧
    reads [0x89cc504] (.minu 5 6 7) ∧
    reads [0x91cc504] (.maxu 5 6 7) ∧
    reads [0x99cc504] (.mul 5 6 7) ∧
    reads [0xa1cc504] (.mulh 5 6 7) ∧
    reads [0xa9cc504] (.mulhu 5 6 7) ∧
    reads [0xb1cc504] (.div 5 6 7) ∧
    reads [0xb9cc504] (.divu 5 6 7) ∧
    reads [0xc1cc504] (.rem 5 6 7) ∧
    reads [0xc9cc504] (.remu 5 6 7) ∧
    reads [0xd00c504] (.clz 5 6) ∧
    reads [0xd80c504] (.ctz 5 6) ∧
    reads [0xe00c504] (.popc 5 6) ∧
    reads [0xe80c504] (.bswap 5 6) ∧
    reads [0xf08c504] (.sext 5 6 .w32) ∧
    reads [0xf88c504] (.zext 5 6 .w32) := by
  decide

/-- R108: each word of the group, its fields as the table and R80 to R83 place them; the first word bit by bit. -/
theorem test_words_imm :
    reads [0b100000000_00011_00110_00101_000010_00] (.addi 5 6 8195) ∧
    reads [0xc509, 0x76543210, 0xfedcba98] (.addiLit 5 6 18364758544493064720) ∧
    reads [0x800cc50c] (.andi 5 6 8195) ∧
    reads [0xc50d, 0x76543210, 0xfedcba98] (.andiLit 5 6 18364758544493064720) ∧
    reads [0x800cc510] (.ori 5 6 8195) ∧
    reads [0xc511, 0x76543210, 0xfedcba98] (.oriLit 5 6 18364758544493064720) ∧
    reads [0x800cc514] (.xori 5 6 8195) ∧
    reads [0xc515, 0x76543210, 0xfedcba98] (.xoriLit 5 6 18364758544493064720) ∧
    reads [0x800cc518] (.slti 5 6 8195) ∧
    reads [0xc519, 0x76543210, 0xfedcba98] (.sltiLit 5 6 18364758544493064720) ∧
    reads [0x800cc51c] (.sltiu 5 6 8195) ∧
    reads [0xc51d, 0x76543210, 0xfedcba98] (.sltiuLit 5 6 18364758544493064720) := by
  decide

/-- R109: each word of the group, its fields as the table and R80 to R83 place them; the first word bit by bit. -/
theorem test_words_shifti :
    reads [0b000000001_00011_00110_00101_001000_00] (.slli 5 6 35) ∧
    reads [0x18cc520] (.srli 5 6 35) ∧
    reads [0x28cc520] (.srai 5 6 35) ∧
    reads [0x38cc520] (.rori 5 6 35) := by
  decide

/-- R110: each word of the group, its fields as the table and R80 to R83 place them; the first word bit by bit. -/
theorem test_words_upper :
    reads [0b100000000_00000_00011_00101_001001_00] (.lui 5 262147) ∧
    reads [0x80006528] (.pcadd 5 262147) ∧
    reads [0x529, 0x76543210, 0xfedcba98] (.pcaddLit 5 18364758544493064720) ∧
    reads [0x52d, 0x76543210, 0xfedcba98] (.li 5 18364758544493064720) := by
  decide

/-- R111, R112: each word of the group, its fields as the table and R80 to R83 place them; the first word bit by bit. -/
theorem test_words_bitx :
    reads [0b000000000_00111_00110_00101_001100_10, 0x60, 0x80000123] (.lea 5 6 7 3 2147483939) ∧
    reads [0x1cc533, 0x60, 0, 0x76543210, 0xfedcba98] (.leaLit 5 6 7 3 18364758544493064720) ∧
    reads [0xc536, 0, 0x43c] (.bfx 5 6 60 4) ∧
    reads [0x80c536, 0, 0x43c] (.bfxu 5 6 60 4) ∧
    reads [0x100c536, 0, 0x43c] (.bfi 5 6 60 4) ∧
    reads [0x19cc536, 9, 0] (.csel 5 6 7 9) ∧
    reads [0x21cc536, 9, 0] (.mad 5 6 7 9) ∧
    reads [0x29cc536, 0, 0] (.wfield 5 6 7) := by
  decide

/-- R113: each word of the group, its fields as the table and R80 to R83 place them; the first word bit by bit. -/
theorem test_words_fps :
    reads [0b000000000_00111_00110_00101_001110_00] (.fadd 5 6 7) ∧
    reads [0x1cc53a, 0x80000, 0] (.faddExt 5 6 7 .rup) ∧
    reads [0x9cc538] (.fsub 5 6 7) ∧
    reads [0x9cc53a, 0x80000, 0] (.fsubExt 5 6 7 .rup) ∧
    reads [0x11cc538] (.fmul 5 6 7) ∧
    reads [0x11cc53a, 0x80000, 0] (.fmulExt 5 6 7 .rup) ∧
    reads [0x19cc538] (.fdiv 5 6 7) ∧
    reads [0x19cc53a, 0x80000, 0] (.fdivExt 5 6 7 .rup) ∧
    reads [0x200c538] (.fsqrt 5 6) ∧
    reads [0x200c53a, 0x20000, 0] (.fsqrtExt 5 6 .rna) ∧
    reads [0x29cc538] (.fmin 5 6 7) ∧
    reads [0x31cc538] (.fmax 5 6 7) ∧
    reads [0x39cc53a, 0x40009, 0] (.fmadd 5 6 7 9 .rz) ∧
    reads [0x41cc538] (.feq 5 6 7) ∧
    reads [0x49cc538] (.flt 5 6 7) ∧
    reads [0x51cc538] (.fle 5 6 7) ∧
    reads [0x580c538] (.fclass 5 6) ∧
    reads [0x60cc538] (.fcvti 5 6 .rdn) ∧
    reads [0x68cc538] (.fcvtf 5 6 .rdn) := by
  decide

/-- R115, R117: each word of the group, its fields as the table and R80 to R83 place them; the first word bit by bit. -/
theorem test_words_load :
    reads [0b100000000_11101_00110_00101_010000_00] (.ld .n32 1027 6 5) ∧
    reads [0xcc541, 0x76543210, 0xfedcba98] (.ldLit .n16 18364758544493064720 6 5) ∧
    reads [0x8074c544] (.ldP .n32 1027 6 5) := by
  decide

/-- R115, R117: each word of the group, its fields as the table and R80 to R83 place them; the first word bit by bit. -/
theorem test_words_store :
    reads [0b100000000_11010_00110_00101_010010_00] (.st 2 1027 6 5) ∧
    reads [0xcc549, 0x76543210, 0xfedcba98] (.stLit 3 18364758544493064720 6 5) ∧
    reads [0x8068c54c] (.stP 2 1027 6 5) := by
  decide

/-- R156: each word of the group, its fields as the table and R80 to R83 place them; the first word bit by bit. -/
theorem test_words_indexed :
    reads [0b000000000_00111_00110_00101_010100_10, 0x28c0, 0x80000123] (.ldx .n64 6 2147483939 5 6 7) ∧
    reads [0x1cc553, 0xc60, 0, 0x76543210, 0xfedcba98] (.ldxLit .i8 3 18364758544493064720 5 6 7) ∧
    reads [0x9cc552, 0x14c0, 0x80000123] (.stx 2 6 2147483939 5 6 7) ∧
    reads [0x9cc553, 0x1860, 0, 0x76543210, 0xfedcba98] (.stxLit 3 3 18364758544493064720 5 6 7) := by
  decide

/-- R157: each word of the group, its fields as the table and R80 to R83 place them; the first word bit by bit. -/
theorem test_words_amo :
    reads [0b001110000_00111_00110_00101_010101_00] (.amoAdd .dev true 5 6 7) ∧
    reads [0x389cc554] (.amoAnd .dev true 5 6 7) ∧
    reads [0x391cc554] (.amoOr .dev true 5 6 7) ∧
    reads [0x399cc554] (.amoXor .dev true 5 6 7) ∧
    reads [0x3a1cc554] (.amoMin .dev true 5 6 7) ∧
    reads [0x3a9cc554] (.amoMax .dev true 5 6 7) ∧
    reads [0x3b1cc554] (.amoMinu .dev true 5 6 7) ∧
    reads [0x3b9cc554] (.amoMaxu .dev true 5 6 7) ∧
    reads [0x3c1cc554] (.amoSwap .dev true 5 6 7) ∧
    reads [0x349cc554] (.amoFadd .dev 5 6 7) ∧
    reads [0x4d1cc556, 9, 0] (.amoCas .sys true 5 6 7 9) := by
  decide

/-- R161: each word of the group, its fields as the table and R80 to R83 place them; the first word bit by bit. -/
theorem test_words_memctl :
    reads [0b000000000_00000_00000_00000_010110_00] (.fenceImem) ∧
    reads [0x800058] (.fenceExt) ∧
    reads [0x11cc058] (.discard 6 7) ∧
    reads [0x184c058] (.dpref true 6) ∧
    reads [0x200c058] (.ipref 6) := by
  decide

/-- R119: each word of the group, its fields as the table and R80 to R83 place them; the first word bit by bit. -/
theorem test_words_bc :
    reads [0b100000000_11000_00110_00101_011000_00] (.beq 1027 5 6) ∧
    reads [0xc562, 0, 0x80000123] (.beqExt 2147483939 5 6) ∧
    reads [0xc563, 0, 0, 0x76543210, 0xfedcba98] (.beqLit 18364758544493064720 5 6) ∧
    reads [0x8064c560] (.bne 1027 5 6) ∧
    reads [0x4c562, 0, 0x80000123] (.bneExt 2147483939 5 6) ∧
    reads [0x4c563, 0, 0, 0x76543210, 0xfedcba98] (.bneLit 18364758544493064720 5 6) ∧
    reads [0x8068c560] (.blt 1027 5 6) ∧
    reads [0x8c562, 0, 0x80000123] (.bltExt 2147483939 5 6) ∧
    reads [0x8c563, 0, 0, 0x76543210, 0xfedcba98] (.bltLit 18364758544493064720 5 6) ∧
    reads [0x806cc560] (.bge 1027 5 6) ∧
    reads [0xcc562, 0, 0x80000123] (.bgeExt 2147483939 5 6) ∧
    reads [0xcc563, 0, 0, 0x76543210, 0xfedcba98] (.bgeLit 18364758544493064720 5 6) ∧
    reads [0x8070c560] (.bltu 1027 5 6) ∧
    reads [0x10c562, 0, 0x80000123] (.bltuExt 2147483939 5 6) ∧
    reads [0x10c563, 0, 0, 0x76543210, 0xfedcba98] (.bltuLit 18364758544493064720 5 6) ∧
    reads [0x8074c560] (.bgeu 1027 5 6) ∧
    reads [0x14c562, 0, 0x80000123] (.bgeuExt 2147483939 5 6) ∧
    reads [0x14c563, 0, 0, 0x76543210, 0xfedcba98] (.bgeuLit 18364758544493064720 5 6) := by
  decide

/-- R120, R121: each word of the group, its fields as the table and R80 to R83 place them; the first word bit by bit. -/
theorem test_words_jump :
    reads [0b100000000_00000_00000_00011_011001_00] (.b 8388611) ∧
    reads [0x65, 0x76543210, 0xfedcba98] (.bLit 18364758544493064720) ∧
    reads [0x80000368] (.bl 8388611) ∧
    reads [0x69, 0x76543210, 0xfedcba98] (.blLit 18364758544493064720) ∧
    reads [0xc06c] (.br 6) ∧
    reads [0x80c56c] (.blr 5 6) ∧
    reads [0x100006c] (.ret) := by
  decide

/-- R122: each word of the group, its fields as the table and R80 to R83 place them; the first word bit by bit. -/
theorem test_words_loop :
    reads [0b100000000_00000_00111_00101_011100_00] (.loop 5 true 131075) := by
  decide

/-- R123: each word of the group, its fields as the table and R80 to R83 place them; the first word bit by bit. -/
theorem test_words_context :
    reads [0b000000000_00111_00110_00101_011110_00] (.start 5 6 7) ∧
    reads [0x80c578] (.join 5 6) ∧
    reads [0x100c078] (.endc 6) ∧
    reads [0x1800078] (.yield) := by
  decide

/-- R126: each word of the group, its fields as the table and R80 to R83 place them; the first word bit by bit. -/
theorem test_words_system :
    reads [0b000000000_01011_00110_00000_011111_00] (.trap 11 6) ∧
    reads [0x80007c] (.brk) ∧
    reads [0x100007c] (.tret) ∧
    reads [0x1a8657c] (.rdsr 5 323) ∧
    reads [0x204257c] (.wrsr 33 5) ∧
    reads [0x280057c] (.rdtime 5) := by
  decide

/-- R136: each word of the group, its fields as the table and R80 to R83 place them; the first word bit by bit. -/
theorem test_words_vload :
    reads [0b000000000_00000_00110_00101_100000_10, 0x1a000, 0x80000123] (.vld .n16 6 2147483939 5 6) ∧
    reads [0xc583, 0x1a000, 0, 0x76543210, 0xfedcba98] (.vldLit .n16 6 18364758544493064720 5 6) ∧
    reads [0x80c582, 0x1a000, 0x80000123] (.vldP .n16 6 2147483939 5 6) ∧
    reads [0x80c583, 0x1a000, 0, 0x76543210, 0xfedcba98] (.vldPLit .n16 6 18364758544493064720 5 6) ∧
    reads [0x11cc582, 0x1a000, 0x80000123] (.vlds .n16 6 2147483939 5 6 7) ∧
    reads [0x11cc583, 0x1a000, 0, 0x76543210, 0xfedcba98] (.vldsLit .n16 6 18364758544493064720 5 6 7) ∧
    reads [0x19cc582, 0x1a060, 0x80000123] (.vldx .n16 6 3 2147483939 5 6 7) ∧
    reads [0x19cc583, 0x1a060, 0, 0x76543210, 0xfedcba98] (.vldxLit .n16 6 3 18364758544493064720 5 6 7) ∧
    reads [0x200c582, 0x1a000, 0x80000123] (.vldb .n16 6 2147483939 5 6) ∧
    reads [0x200c583, 0x1a000, 0, 0x76543210, 0xfedcba98] (.vldbLit .n16 6 18364758544493064720 5 6) := by
  decide

/-- R136: each word of the group, its fields as the table and R80 to R83 place them; the first word bit by bit. -/
theorem test_words_vstore :
    reads [0b000000000_00000_00110_00101_100001_10, 0x19800, 0x80000123] (.vst .i64 6 2147483939 5 6) ∧
    reads [0xc587, 0x19800, 0, 0x76543210, 0xfedcba98] (.vstLit .i64 6 18364758544493064720 5 6) ∧
    reads [0x80c586, 0x19800, 0x80000123] (.vstP .i64 6 2147483939 5 6) ∧
    reads [0x80c587, 0x19800, 0, 0x76543210, 0xfedcba98] (.vstPLit .i64 6 18364758544493064720 5 6) ∧
    reads [0x11cc586, 0x19800, 0x80000123] (.vsts .i64 6 2147483939 5 6 7) ∧
    reads [0x11cc587, 0x19800, 0, 0x76543210, 0xfedcba98] (.vstsLit .i64 6 18364758544493064720 5 6 7) ∧
    reads [0x19cc586, 0x19860, 0x80000123] (.vstx .i64 6 3 2147483939 5 6 7) ∧
    reads [0x19cc587, 0x19860, 0, 0x76543210, 0xfedcba98] (.vstxLit .i64 6 3 18364758544493064720 5 6 7) := by
  decide

/-- R140: each word of the group, its fields as the table and R80 to R83 place them; the first word bit by bit. -/
theorem test_words_valuA :
    reads [0b100100000_00111_00110_00101_100010_00] (.vadd 2 .bf16 5 6 7) ∧
    reads [0x1cc58a, 0x58800, 0] (.vaddExt 6 .bf16 .rz 5 6 7) ∧
    reads [0x909cc588] (.vsub 2 .bf16 5 6 7) ∧
    reads [0x9cc58a, 0x58800, 0] (.vsubExt 6 .bf16 .rz 5 6 7) ∧
    reads [0x911cc588] (.vmul 2 .bf16 5 6 7) ∧
    reads [0x11cc58a, 0x58800, 0] (.vmulExt 6 .bf16 .rz 5 6 7) ∧
    reads [0xa99cc588] (.vmin 2 .i32 5 6 7) ∧
    reads [0x19cc58a, 0x19400, 0] (.vminExt 6 .i32 5 6 7) ∧
    reads [0xaa1cc588] (.vmax 2 .i32 5 6 7) ∧
    reads [0x21cc58a, 0x19400, 0] (.vmaxExt 6 .i32 5 6 7) ∧
    reads [0xb29cc588] (.vand 2 .i64 5 6 7) ∧
    reads [0x29cc58a, 0x19800, 0] (.vandExt 6 .i64 5 6 7) ∧
    reads [0xb31cc588] (.vor 2 .i64 5 6 7) ∧
    reads [0x31cc58a, 0x19800, 0] (.vorExt 6 .i64 5 6 7) ∧
    reads [0xb39cc588] (.vxor 2 .i64 5 6 7) ∧
    reads [0x39cc58a, 0x19800, 0] (.vxorExt 6 .i64 5 6 7) ∧
    reads [0xb41cc588] (.vandn 2 .i64 5 6 7) ∧
    reads [0x41cc58a, 0x19800, 0] (.vandnExt 6 .i64 5 6 7) ∧
    reads [0xa49cc588] (.vshl 2 .i16 5 6 7) ∧
    reads [0x49cc58a, 0x19000, 0] (.vshlExt 6 .i16 5 6 7) ∧
    reads [0xa51cc588] (.vshr 2 .i16 5 6 7) ∧
    reads [0x51cc58a, 0x19000, 0] (.vshrExt 6 .i16 5 6 7) ∧
    reads [0xa59cc588] (.vsra 2 .i16 5 6 7) ∧
    reads [0x59cc58a, 0x19000, 0] (.vsraExt 6 .i16 5 6 7) ∧
    reads [0xae00c588] (.vabs 2 .i32 5 6) ∧
    reads [0x600c58a, 0x19400, 0] (.vabsExt 6 .i32 5 6) ∧
    reads [0xae80c588] (.vneg 2 .i32 5 6) ∧
    reads [0x680c58a, 0x19400, 0] (.vnegExt 6 .i32 5 6) ∧
    reads [0xaf00c588] (.vmov 2 .i32 5 6) ∧
    reads [0x700c58a, 0x19400, 0] (.vmovExt 6 .i32 5 6) ∧
    reads [0xaf9cc588] (.vsel 2 .i32 5 6 7) ∧
    reads [0x79cc58a, 0x19400, 0] (.vselExt 6 .i32 5 6 7) := by
  decide

/-- R140, R141: each word of the group, its fields as the table and R80 to R83 place them; the first word bit by bit. -/
theorem test_words_valuB :
    reads [0b101000000_00111_00110_00101_100011_00] (.vminu 2 .i16 5 6 7) ∧
    reads [0x1cc58e, 0x19000, 0] (.vminuExt 6 .i16 5 6 7) ∧
    reads [0xa09cc58c] (.vmaxu 2 .i16 5 6 7) ∧
    reads [0x9cc58e, 0x19000, 0] (.vmaxuExt 6 .i16 5 6 7) ∧
    reads [0xa11cc58c] (.vmulh 2 .i16 5 6 7) ∧
    reads [0x11cc58e, 0x19000, 0] (.vmulhExt 6 .i16 5 6 7) ∧
    reads [0xa19cc58c] (.vmulhu 2 .i16 5 6 7) ∧
    reads [0x19cc58e, 0x19000, 0] (.vmulhuExt 6 .i16 5 6 7) ∧
    reads [0xa21cc58c] (.vavg 2 .i16 5 6 7) ∧
    reads [0x21cc58e, 0x19000, 0] (.vavgExt 6 .i16 5 6 7) ∧
    reads [0xa29cc58c] (.vadds 2 .i16 5 6 7) ∧
    reads [0x29cc58e, 0x19000, 0] (.vaddsExt 6 .i16 5 6 7) ∧
    reads [0xa31cc58c] (.vsubs 2 .i16 5 6 7) ∧
    reads [0x31cc58e, 0x19000, 0] (.vsubsExt 6 .i16 5 6 7) ∧
    reads [0xa39cc58c] (.vaddsu 2 .i16 5 6 7) ∧
    reads [0x39cc58e, 0x19000, 0] (.vaddsuExt 6 .i16 5 6 7) ∧
    reads [0xa41cc58c] (.vsubsu 2 .i16 5 6 7) ∧
    reads [0x41cc58e, 0x19000, 0] (.vsubsuExt 6 .i16 5 6 7) ∧
    reads [0xac9cc58c] (.vcmpEq 2 .i32 6 7 5) ∧
    reads [0x49cc58e, 0x19400, 0] (.vcmpEqExt 6 .i32 6 7 5) ∧
    reads [0xad1cc58c] (.vcmpNe 2 .i32 6 7 5) ∧
    reads [0x51cc58e, 0x19400, 0] (.vcmpNeExt 6 .i32 6 7 5) ∧
    reads [0xad9cc58c] (.vcmpLt 2 .i32 6 7 5) ∧
    reads [0x59cc58e, 0x19400, 0] (.vcmpLtExt 6 .i32 6 7 5) ∧
    reads [0xae1cc58c] (.vcmpLe 2 .i32 6 7 5) ∧
    reads [0x61cc58e, 0x19400, 0] (.vcmpLeExt 6 .i32 6 7 5) ∧
    reads [0xa69cc58c] (.vcmpLtu 2 .i16 6 7 5) ∧
    reads [0x69cc58e, 0x19000, 0] (.vcmpLtuExt 6 .i16 6 7 5) ∧
    reads [0xa71cc58c] (.vcmpLeu 2 .i16 6 7 5) ∧
    reads [0x71cc58e, 0x19000, 0] (.vcmpLeuExt 6 .i16 6 7 5) ∧
    reads [0x8f80c58c] (.vclass 2 .f16 5 6) ∧
    reads [0x780c58e, 0x18400, 0] (.vclassExt 6 .f16 5 6) := by
  decide

/-- R142, R143: each word of the group, its fields as the table and R80 to R83 place them; the first word bit by bit. -/
theorem test_words_vfma :
    reads [0b100100000_00111_00110_00101_100100_00] (.vfma 2 .bf16 5 6 7) ∧
    reads [0x1cc592, 0x58800, 0] (.vfmaExt 6 .bf16 .rz 5 6 7) ∧
    reads [0x909cc590] (.vfms 2 .bf16 5 6 7) ∧
    reads [0x9cc592, 0x58800, 0] (.vfmsExt 6 .bf16 .rz 5 6 7) ∧
    reads [0x911cc590] (.vfnma 2 .bf16 5 6 7) ∧
    reads [0x11cc592, 0x58800, 0] (.vfnmaExt 6 .bf16 .rz 5 6 7) ∧
    reads [0x919cc590] (.vfnms 2 .bf16 5 6 7) ∧
    reads [0x19cc592, 0x58800, 0] (.vfnmsExt 6 .bf16 .rz 5 6 7) ∧
    reads [0x9a1cc590] (.vdot4 2 .i8 5 6 7) ∧
    reads [0x21cc592, 0x18c00, 0] (.vdot4Ext 6 .i8 5 6 7) ∧
    reads [0x929cc590] (.vdot2 2 .bf16 5 6 7) ∧
    reads [0x29cc592, 0x58800, 0] (.vdot2Ext 6 .bf16 .rz 5 6 7) := by
  decide

/-- R144: each word of the group, its fields as the table and R80 to R83 place them; the first word bit by bit. -/
theorem test_words_vspec :
    reads [0b100010000_00000_00110_00101_100101_00] (.vexp2 2 .f16 5 6) ∧
    reads [0xc596, 0x18400, 0] (.vexp2Ext 6 .f16 5 6) ∧
    reads [0x8880c594] (.vlog2 2 .f16 5 6) ∧
    reads [0x80c596, 0x18400, 0] (.vlog2Ext 6 .f16 5 6) ∧
    reads [0x8900c594] (.vrcp 2 .f16 5 6) ∧
    reads [0x100c596, 0x18400, 0] (.vrcpExt 6 .f16 5 6) ∧
    reads [0x8980c594] (.vrsqrt 2 .f16 5 6) ∧
    reads [0x180c596, 0x18400, 0] (.vrsqrtExt 6 .f16 5 6) ∧
    reads [0x8a00c594] (.vsqrt 2 .f16 5 6) ∧
    reads [0x200c596, 0x18400, 0] (.vsqrtExt 6 .f16 5 6) ∧
    reads [0x8a80c594] (.vtanh 2 .f16 5 6) ∧
    reads [0x280c596, 0x18400, 0] (.vtanhExt 6 .f16 5 6) ∧
    reads [0x8b00c594] (.vsigm 2 .f16 5 6) ∧
    reads [0x300c596, 0x18400, 0] (.vsigmExt 6 .f16 5 6) ∧
    reads [0xab9cc594] (.vdiv 2 .i32 5 6 7) ∧
    reads [0x39cc596, 0x19400, 0] (.vdivExt 6 .i32 5 6 7) := by
  decide

/-- R145, R146: each word of the group, its fields as the table and R80 to R83 place them; the first word bit by bit. -/
theorem test_words_vcvt :
    reads [0b000000000_00000_00110_00101_100110_10, 0x179880, 0] (.vcvt .i64 .i16 1 .rdn 6 5 6) ∧
    reads [0x80c59a, 0x3000, 0x68] (.vpackgx .gx4 104 5 6) ∧
    reads [0x100c59a, 0x1b400, 0x5c] (.vunpackgx .gx7 92 6 5 6) := by
  decide

/-- R147, R148: each word of the group, its fields as the table and R80 to R83 place them; the first word bit by bit. -/
theorem test_words_vperm :
    reads [0b101010000_00111_00110_00101_100111_00] (.vperm 2 .i32 5 6 7) ∧
    reads [0x1cc59e, 0x19400, 0] (.vpermExt 6 .i32 5 6 7) ∧
    reads [0xa89cc59c] (.vslideup 2 .i32 5 6 7) ∧
    reads [0x9cc59e, 0x19400, 0] (.vslideupExt 6 .i32 5 6 7) ∧
    reads [0xa91cc59c] (.vslidedn 2 .i32 5 6 7) ∧
    reads [0x11cc59e, 0x19400, 0] (.vslidednExt 6 .i32 5 6 7) ∧
    reads [0xa980c59c] (.vbcast 2 .i32 5 6) ∧
    reads [0x180c59e, 0x19400, 0] (.vbcastExt 6 .i32 5 6) ∧
    reads [0x2a1cc59c] (.vext .i32 5 6 7) ∧
    reads [0x21cc59e, 0x1400, 0] (.vextExt .i32 5 6 7) ∧
    reads [0xaa9cc59c] (.vins 2 .i32 5 6 7) ∧
    reads [0x29cc59e, 0x19400, 0] (.vinsExt 6 .i32 5 6 7) ∧
    reads [0xab1cc59c] (.vzip 2 .i32 5 6 7) ∧
    reads [0x31cc59e, 0x19400, 0] (.vzipExt 6 .i32 5 6 7) ∧
    reads [0xab80c59c] (.vunzip 2 .i32 5 6) ∧
    reads [0x380c59e, 0x19400, 0] (.vunzipExt 6 .i32 5 6) ∧
    reads [0xac00c59c] (.vrev 2 .i32 5 6) ∧
    reads [0x400c59e, 0x19400, 0] (.vrevExt 6 .i32 5 6) ∧
    reads [0x9480c59c] (.vscanAdd 2 .bf16 5 6) ∧
    reads [0x480c59e, 0x58800, 0] (.vscanAddExt 6 .bf16 .rz 5 6) ∧
    reads [0x9500c59c] (.vscanMax 2 .bf16 5 6) ∧
    reads [0x500c59e, 0x58800, 0] (.vscanMaxExt 6 .bf16 .rz 5 6) ∧
    reads [0x2d9cc59c] (.vkeep2 .i32 5 6 7) ∧
    reads [0x59cc59e, 0x1400, 0] (.vkeep2Ext .i32 5 6 7) := by
  decide

/-- R149: each word of the group, its fields as the table and R80 to R83 place them; the first word bit by bit. -/
theorem test_words_vred :
    reads [0b100100000_00000_00110_00101_101000_00] (.vredAdd 2 .bf16 5 6) ∧
    reads [0xc5a2, 0x58800, 0] (.vredAddExt 6 .bf16 .rz 5 6) ∧
    reads [0xa880c5a0] (.vredMax 2 .i32 5 6) ∧
    reads [0x80c5a2, 0x19400, 0] (.vredMaxExt 6 .i32 5 6) ∧
    reads [0xa900c5a0] (.vredMin 2 .i32 5 6) ∧
    reads [0x100c5a2, 0x19400, 0] (.vredMinExt 6 .i32 5 6) := by
  decide

/-- R150: each word of the group, its fields as the table and R80 to R83 place them; the first word bit by bit. -/
theorem test_words_mask :
    reads [0b000000000_00111_00110_00101_101001_00] (.mand 5 6 7) ∧
    reads [0x9cc5a4] (.mor 5 6 7) ∧
    reads [0x11cc5a4] (.mxor 5 6 7) ∧
    reads [0x19cc5a4] (.mandn 5 6 7) ∧
    reads [0x200c5a4] (.mnot 5 6) ∧
    reads [0x280c5a4] (.mpopc 5 6) ∧
    reads [0x300c5a4] (.mfirst 5 6) ∧
    reads [0x384c5a4] (.mfromx true 5 6) ∧
    reads [0x404c5a4] (.mtox true 5 6) ∧
    reads [0x480c5a4] (.mlanes 5 6) := by
  decide

/-- R151: each word of the group, its fields as the table and R80 to R83 place them; the first word bit by bit. -/
theorem test_words_shape :
    reads [0b000000000_00111_00110_00101_101100_10, 0x80000, 0] (.sadd .rup 5 6 7) ∧
    reads [0x9cc5b2, 0x80000, 0] (.ssub .rup 5 6 7) ∧
    reads [0x11cc5b2, 0x80000, 0] (.smul .rup 5 6 7) ∧
    reads [0x19cc5b2, 0x80000, 0] (.sfma .rup 5 6 7) ∧
    reads [0x21cc5b2, 0, 0] (.smin 5 6 7) ∧
    reads [0x29cc5b2, 0, 0] (.smax 5 6 7) ∧
    reads [0x300c5b2, 0x80000, 0] (.scvt .rup 5 6) ∧
    reads [0x380c5b2, 0, 0] (.scopy 5 6) ∧
    reads [0x400c5b2, 0, 0] (.sexp2 5 6) ∧
    reads [0x480c5b2, 0x80000, 0] (.srsum .rup 5 6) ∧
    reads [0x500c5b2, 0, 0] (.srmax 5 6) ∧
    reads [0x580c5b2, 0, 0] (.sbcast 5 6) ∧
    reads [0x61cc5b2, 9, 0] (.shpCheck 5 6 7 9) := by
  decide

/-- R181: each word of the group, its fields as the table and R80 to R83 place them; the first word bit by bit. -/
theorem test_words_engine :
    reads [0b000000000_00000_00110_00101_101110_00] (.postMx 5 6) ∧
    reads [0x80c5b8] (.postCp 5 6) ∧
    reads [0x100c5b8] (.fwait 5 6) ∧
    reads [0x180c5b8] (.ftest 5 6) ∧
    reads [0x200c0b8] (.fcancel 6) ∧
    reads [0x280c5b8] (.fwaitany 5 6) ∧
    reads [0x300c5b8] (.fmovx 5 6) ∧
    reads [0x380c5b8] (.xmovf 5 6) ∧
    reads [0x40000b8] (.fenceCards) := by
  decide

/-- R167: each word of the group, its fields as the table and R80 to R83 place them; the first word bit by bit. -/
theorem test_words_barrier :
    reads [0b101111000_00000_00110_00000_101111_00] (.barInit 47 6) ∧
    reads [0xbc0000be, 0, 0x80000123] (.barInitImm 47 2147483939) ∧
    reads [0xbc8000bc] (.barArrive 47) ∧
    reads [0xbd0000bc] (.barDrop 47) ∧
    reads [0xbd8000bc] (.barWait 47) ∧
    reads [0xbe00c0bc] (.barExpect 47 6) ∧
    reads [0xbe0000be, 0, 0x80000123] (.barExpectImm 47 2147483939) ∧
    reads [0xbe8005bc] (.barTest 47 5) ∧
    reads [0xbf00c0bc] (.barLink 47 6) := by
  decide

/-- R218: each word of the group, its fields as the table and R80 to R83 place them; the first word bit by bit. -/
theorem test_words_pod :
    reads [0b000000000_00000_00110_00101_110000_10, 0, 0x281] (.pcap 5 6 129 2) ∧
    reads [0x80c5c2, 0x20009, 0x281] (.pcapr true 5 6 129 2 9) ∧
    reads [0x104c0c0] (.pcall true 6) ∧
    reads [0x184c5c0] (.pspawn true 5 6) ∧
    reads [0x21cc5c0] (.psend 5 6 7) ∧
    reads [0x280c5c0] (.pdup 5 6) ∧
    reads [0x300c0c0] (.prel 6) ∧
    reads [0x380c5c0] (.pget 5 6) ∧
    reads [0x400c5c0] (.pexport 5 6) ∧
    reads [0x480c5c0] (.pimport 5 6) := by
  decide

/-- R238: each word of the group, its fields as the table and R80 to R83 place them; the first word bit by bit. -/
theorem test_words_seg :
    reads [0b000000000_00111_00110_00101_110001_10, 0x60009, 0x5e0] (.segMake 3 1504 5 6 7 9) ∧
    reads [0x8cc5c4] (.segAttach 3 5 6) ∧
    reads [0x100c0c4] (.segDetach 6) ∧
    reads [0x180c5c4] (.segPublish 5 6) ∧
    reads [0x200c5c4] (.segEvict 5 6) ∧
    reads [0x280c5c4] (.segDrop 5 6) ∧
    reads [0x300c5c4] (.segQuery 5 6) := by
  decide

/-- R171: each word of the group, its fields as the table and R80 to R83 place them; the first word bit by bit. -/
theorem test_words_task :
    reads [0b000000000_00000_00000_00000_110010_00] (.ibxTake) ∧
    reads [0x84c0c8] (.taskEnd true 6) ∧
    reads [0x100c5c8] (.taskSpawn 5 6) ∧
    reads [0x100c5ca, 0, 0x80000123] (.taskSpawnExt 5 6 2147483939) ∧
    reads [0x100c5cb, 0, 0, 0x76543210, 0xfedcba98] (.taskSpawnLit 5 6 18364758544493064720) ∧
    reads [0x19cc5ca, 9, 0] (.rngOpen 5 6 7 9) ∧
    reads [0x200c5c8] (.rngTake 5 6) ∧
    reads [0x280c0c8] (.rngClose 6) ∧
    reads [0x30000c8] (.gangLead) ∧
    reads [0x38000c8] (.gangFollow) ∧
    reads [0x40400c8] (.gangJoin true) ∧
    reads [0x48000c8] (.gangLeave) := by
  decide

/-- R278: each word of the group, its fields as the table and R80 to R83 place them; the first word bit by bit. -/
theorem test_words_own :
    reads [0b000000000_00111_00110_00000_110011_00] (.give 6 7) ∧
    reads [0x1cc0ce, 0x20009, 0] (.giveExt true 6 7 9) ∧
    reads [0x80c0cc] (.accept 6) ∧
    reads [0x100c0cc] (.decline 6) ∧
    reads [0x19cc5ce, 0x40009, 0x80000123] (.lend true false 5 6 7 9 2147483939) ∧
    reads [0x19cc5cf, 0x20009, 0, 0x80000123, 0] (.lendLit false true 5 6 7 9 2147483939) ∧
    reads [0x200c5cc] (.recall 5 6) ∧
    reads [0x280c5cc] (.reclaim 5 6) ∧
    reads [0x30cc5cc] (.ownQ 3 5 6) ∧
    reads [0x380c5cc] (.mint 5 6) ∧
    reads [0x40000cc] (.retire) ∧
    reads [0x494c0cc] (.ownHook 5 6) ∧
    reads [0x500c5ce, 0, 0x2906] (.kread 5 6 262 10) ∧
    reads [0x59cc0ce, 0, 0x2906] (.kwrite 6 7 262 10) := by
  decide

/-- Worked encodings that the spec prints (R109, R112, R115, R119, R120, R122, R124, R126, R135, R136, R145, R151, R156,
R157, R164, R167, R171, R218, R238, R278). -/
theorem test_words_of_the_spec :
    reads [0x01189D40] (.ld .i64 8 4 29) ∧ reads [0x00A00F60] (.beq 5 15 0) ∧ reads [0xFFFFF068] (.bl 0xFFFFF0) ∧
    reads [0xFFFF4870] (.loop 8 false 0x3FFFD) ∧ reads [0x00316A78] (.start 10 11 12) ∧ reads [0x01823D7C] (.rdsr 29 0x011) ∧
    reads [0x00082090] (.vfma 0 .f32 0 1 2) ∧ reads [0x0594818C] (.vcmpLt 0 .f32 4 5 1) ∧
    reads [0x0080D182, 0, 0x80] (.vldP .f32 0 0x80 17 6) ∧ reads [0x0000439A, 0x00100400, 0] (.vcvt .f16 .f32 1 .rne 0 3 2) ∧
    reads [0x0481ACB2, 0, 0] (.srsum .rne 12 13) ∧ reads [0x001CC552, 0x1440, 0x10] (.ldx .i32 2 16 5 6 7) ∧
    reads [0x3818E554] (.amoAdd .dev true 5 7 6) ∧ reads [0x012D4058] (.discard 10 11) ∧ reads [0x0E0120BC] (.barExpect 3 9) ∧
    reads [0x008000C8] (.taskEnd false 0) ∧ reads [0x02012DC8] (.rngTake 13 9) := by
  decide

theorem test_words_of_the_spec_pods_segments_map :
    reads [0x0001A1C2, 0, 3] (.pcap 1 13 3 0) ∧ reads [0x010440C0] (.pcall true 2) ∧ reads [0x03802EC0] (.pget 14 1) ∧
    reads [0x022465C0] (.psend 5 3 9) ∧ reads [0x0081A2C2, 0x0002000C, 3] (.pcapr true 2 13 3 0 12) ∧
    reads [0x003585C6, 0x00040000, 2] (.segMake 2 2 5 12 13 0) ∧ reads [0x008985C4] (.segAttach 2 5 12) ∧
    reads [0x002D40CE, 0x0002000C, 0] (.giveExt true 10 11 12) ∧
    reads [0x01AD4ECE, 0x0004000C, 0x258] (.lend true false 14 10 11 12 600) ∧ reads [0x03014CCC] (.ownQ 0 12 10) ∧
    reads [0x048C40CC] (.ownHook 3 2) ∧ reads [0x050145CE, 0, 0x32] (.kread 5 10 0x32 0) ∧
    reads [0x059940CE, 0, 0x40] (.kwrite 10 6 0x40 0) := by
  decide

/-- The decoder refuses a word with this reason. -/
abbrev refuses (ws : List Nat) (e : DecodeErr) : Prop :=
  (match decodeBytes (ws.flatMap (leBytes 4)) with
   | .error f => decide (f = e)
   | _ => false) = true

/-- Words that R82 to R84 reject: a literal on li without its length, a literal on lea of the wrong length, code 15 of
TYPE4, an index shift of 7, a rounding mode of 5, a mode on a function without one, a context of 11 in kread, bit 14 of
its imm32, vpackgx past the register, a branch literal that is no multiple of 4, a literal on task.end. -/
theorem test_words_refused :
    refuses [0x0000052C] .reservedField ∧ refuses [0x0000C531, 0, 0] .reservedField ∧
    refuses [0x0000C582, 15 * 1024, 0] .reservedField ∧ refuses [0x001CC552, 0x14E0, 0] .reservedField ∧
    refuses [0x001CC53A, 0x000A0000, 0] .reservedField ∧ refuses [0x029CC53A, 0, 0] .reservedField ∧
    refuses [0x050145CE, 0, 0x2C32] .reservedField ∧ refuses [0x050145CE, 0, 0x4032] .reservedField ∧
    refuses [0x0080C59A, 12 * 1024, 105] .reservedField ∧ refuses [0x00000065, 2, 0] .reservedField ∧
    refuses [0x008000C9, 0, 0] .litNotAllowed ∧ refuses [0xFFFFFFFF] .illOnes := by
  decide

/-! Terms that have no encoding: one for each check of WellFormed. -/

theorem test_ill_formed_bit_fields :
    [Instr.bfx 1 2 0 0, .bfx 1 2 63 2, .bfx 1 2 0 65, .bfxu 1 2 0 0, .bfi 1 2 60 5].all (fun i => !WellFormed i) = true ∧
    [Instr.bfx 1 2 0 64, .bfxu 1 2 63 1, .bfi 1 2 60 4].all WellFormed = true := by decide

theorem test_ill_formed_widths_and_shifts :
    [Instr.ld .n64 0 1 2, .ldLit .n64 0 1 2, .ldP .n64 0 1 2, .ldx .i8 7 0 1 2 3, .ldxLit .i8 7 0 1 2 3, .stx 0 7 0 1 2 3,
      .stxLit 0 7 0 1 2 3].all (fun i => !WellFormed i) = true ∧
    [Instr.ld .i64 0 1 2, .ldx .n64 6 0 1 2 3, .stx 3 6 0 1 2 3].all WellFormed = true := by decide

theorem test_ill_formed_branch_literals :
    [Instr.beqLit 2 1 2, .bneLit 1 1 2, .bltLit 3 1 2, .bgeLit 2 1 2, .bltuLit 2 1 2, .bgeuLit 2 1 2, .bLit 2, .blLit 1].all
      (fun i => !WellFormed i) = true ∧ [Instr.beqLit 4 1 2, .bLit 0, .blLit 8].all WellFormed = true := by decide

theorem test_ill_formed_vector_accesses :
    [Instr.vld .b1 0 0 1 2, .vldLit .gx2 0 0 1 2, .vldP .gx4 0 0 1 2, .vldPLit .gx7 0 0 1 2, .vlds .b1 0 0 1 2 3,
      .vldsLit .b1 0 0 1 2 3, .vldx .b1 0 0 0 1 2 3, .vldx .i8 0 7 0 1 2 3, .vldxLit .b1 0 0 0 1 2 3, .vldxLit .i8 0 7 0 1 2 3,
      .vldb .b1 0 0 1 2, .vldbLit .b1 0 0 1 2, .vst .b1 0 0 1 2, .vstLit .b1 0 0 1 2, .vstP .b1 0 0 1 2, .vstPLit .b1 0 0 1 2,
      .vsts .b1 0 0 1 2 3, .vstsLit .b1 0 0 1 2 3, .vstx .b1 0 0 0 1 2 3, .vstx .i8 0 7 0 1 2 3, .vstxLit .b1 0 0 0 1 2 3,
      .vstxLit .i8 0 7 0 1 2 3].all (fun i => !WellFormed i) = true := by decide

theorem test_ill_formed_lane_types_short :
    [Instr.vadd 0 .b32 1 2 3, .vsub 0 .b32 1 2 3, .vmul 0 .b32 1 2 3, .vmin 0 .b32 1 2 3, .vmax 0 .b32 1 2 3, .vand 0 .f32 1 2 3,
      .vor 0 .f16 1 2 3, .vxor 0 .bf16 1 2 3, .vandn 0 .f32 1 2 3, .vshl 0 .b32 1 2 3, .vshr 0 .f32 1 2 3, .vsra 0 .f32 1 2 3,
      .vabs 0 .b32 1 2, .vneg 0 .b32 1 2, .vminu 0 .f32 1 2 3, .vmaxu 0 .f32 1 2 3, .vmulh 0 .f32 1 2 3, .vmulhu 0 .f32 1 2 3,
      .vavg 0 .f32 1 2 3, .vadds 0 .f32 1 2 3, .vsubs 0 .f32 1 2 3, .vaddsu 0 .f32 1 2 3, .vsubsu 0 .f32 1 2 3,
      .vcmpEq 0 .b32 1 2 3, .vcmpNe 0 .b32 1 2 3, .vcmpLt 0 .b32 1 2 3, .vcmpLe 0 .b32 1 2 3, .vcmpLtu 0 .f32 1 2 3,
      .vcmpLeu 0 .f32 1 2 3, .vclass 0 .i32 1 2, .vfma 0 .b32 1 2 3, .vfms 0 .b32 1 2 3, .vfnma 0 .b32 1 2 3, .vfnms 0 .b32 1 2 3,
      .vdot4 0 .i16 1 2 3, .vdot2 0 .f32 1 2 3, .vexp2 0 .i32 1 2, .vlog2 0 .i32 1 2, .vrcp 0 .i32 1 2, .vrsqrt 0 .i32 1 2,
      .vsqrt 0 .i32 1 2, .vtanh 0 .i32 1 2, .vsigm 0 .i32 1 2, .vdiv 0 .b32 1 2 3, .vscanAdd 0 .b32 1 2, .vscanMax 0 .b32 1 2,
      .vkeep2 .i64 1 2 3, .vkeep2 .b32 1 2 3, .vredAdd 0 .b32 1 2, .vredMax 0 .b32 1 2, .vredMin 0 .b32 1 2].all
      (fun i => !WellFormed i) = true := by decide

theorem test_ill_formed_lane_types_extended :
    [Instr.vaddExt 0 .b32 .rne 1 2 3, .vsubExt 0 .b32 .rne 1 2 3, .vmulExt 0 .b32 .rne 1 2 3, .vminExt 0 .b32 1 2 3,
      .vmaxExt 0 .b32 1 2 3, .vandExt 0 .b32 1 2 3, .vorExt 0 .f32 1 2 3, .vxorExt 0 .f32 1 2 3, .vandnExt 0 .f32 1 2 3,
      .vshlExt 0 .f32 1 2 3, .vshrExt 0 .f32 1 2 3, .vsraExt 0 .f32 1 2 3, .vabsExt 0 .b32 1 2, .vnegExt 0 .b32 1 2,
      .vmovExt 0 .b32 1 2, .vselExt 0 .b32 1 2 3, .vminuExt 0 .f32 1 2 3, .vmaxuExt 0 .f32 1 2 3, .vmulhExt 0 .f32 1 2 3,
      .vmulhuExt 0 .f32 1 2 3, .vavgExt 0 .f32 1 2 3, .vaddsExt 0 .f32 1 2 3, .vsubsExt 0 .f32 1 2 3, .vaddsuExt 0 .f32 1 2 3,
      .vsubsuExt 0 .f32 1 2 3, .vcmpEqExt 0 .b32 1 2 3, .vcmpNeExt 0 .b32 1 2 3, .vcmpLtExt 0 .b32 1 2 3, .vcmpLeExt 0 .b32 1 2 3,
      .vcmpLtuExt 0 .f32 1 2 3, .vcmpLeuExt 0 .f32 1 2 3, .vclassExt 0 .i32 1 2, .vfmaExt 0 .b32 .rne 1 2 3,
      .vfmsExt 0 .b32 .rne 1 2 3, .vfnmaExt 0 .b32 .rne 1 2 3, .vfnmsExt 0 .b32 .rne 1 2 3, .vdot4Ext 0 .i16 1 2 3,
      .vdot2Ext 0 .f32 .rne 1 2 3, .vexp2Ext 0 .i32 1 2, .vlog2Ext 0 .i32 1 2, .vrcpExt 0 .i32 1 2, .vrsqrtExt 0 .i32 1 2,
      .vsqrtExt 0 .i32 1 2, .vtanhExt 0 .i32 1 2, .vsigmExt 0 .i32 1 2, .vdivExt 0 .b32 1 2 3].all (fun i => !WellFormed i) = true ∧
    [Instr.vpermExt 0 .b32 1 2 3, .vslideupExt 0 .b32 1 2 3, .vslidednExt 0 .b32 1 2 3, .vbcastExt 0 .b32 1 2, .vextExt .b32 1 2 3,
      .vinsExt 0 .b32 1 2 3, .vzipExt 0 .b32 1 2 3, .vunzipExt 0 .b32 1 2, .vrevExt 0 .b32 1 2, .vscanAddExt 0 .b32 .rne 1 2,
      .vscanMaxExt 0 .b32 .rne 1 2, .vkeep2Ext .i64 1 2 3, .vredAddExt 0 .b32 .rne 1 2, .vredMaxExt 0 .b32 1 2,
      .vredMinExt 0 .b32 1 2].all (fun i => !WellFormed i) = true := by decide

theorem test_ill_formed_modes :
    [Instr.vaddExt 0 .i32 .rz 1 2 3, .vsubExt 0 .i8 .rna 1 2 3, .vmulExt 0 .i16 .rup 1 2 3, .vfmaExt 0 .i32 .rdn 1 2 3,
      .vfmsExt 0 .i32 .rz 1 2 3, .vfnmaExt 0 .i32 .rz 1 2 3, .vfnmsExt 0 .i64 .rz 1 2 3, .vdot2Ext 0 .i16 .rz 1 2 3].all
      (fun i => !WellFormed i) = true ∧ [Instr.vaddExt 0 .f32 .rz 1 2 3, .vdot2Ext 0 .f16 .rup 1 2 3].all WellFormed = true := by decide

theorem test_ill_formed_conversions_and_names :
    [Instr.vcvt .b1 .f32 0 .rne 0 1 2, .vcvt .f32 .gx2 0 .rne 0 1 2, .vcvt .f32 .f16 2 .rne 0 1 2, .vcvt .f32 .i32 1 .rne 0 1 2,
      .vpackgx .gx2 113 1 2, .vpackgx .gx7 93 1 2, .vunpackgx .gx4 105 0 1 2, .segMake 0 1 1 2 3 4, .ownHook 6 1, .kread 1 2 0 11,
      .kwrite 1 2 0 11].all (fun i => !WellFormed i) = true ∧
    [Instr.vcvt .i8 .i64 7 .rne 0 1 2, .vpackgx .gx2 112 1 2, .vunpackgx .gx7 92 0 1 2, .segMake 3 1 1 2 3 4, .ownHook 5 1,
      .kread 1 2 0 10].all WellFormed = true := by decide


/-! Single steps. The results are those of the spec's own examples, or worked by hand from its rules. -/

/-- The state after reset with some x registers of context 0 set. -/
def regs (l : List (BitVec 5 × Word)) : State := l.foldl (fun s p => s.setX p.1 p.2) State.reset

/-- The state that an instruction answers. -/
noncomputable def after (i : Instr) (s : State) : State :=
  match exec i s with
  | .next t => t
  | _ => s

/-- The two operands of the examples of R107. -/
def two (a c : Word) : State := regs [(6, a), (7, c)]

/-- R107: div -7 by 2 is -3, and -2^63 by -1 is itself with OV. -/
theorem test_div : (after (.div 5 6 7) (two (-7) 2)).xr 5 = -3 ∧
    (after (.div 5 6 7) (two (BitVec.intMin 64) (-1))).xr 5 = BitVec.intMin 64 ∧
    (after (.div 5 6 7) (two (BitVec.intMin 64) (-1))).me.istat = iOV := by decide +kernel

/-- R107: rem of -7 by 2 is -1, of 7 by -2 is 1. -/
theorem test_rem : (after (.rem 5 6 7) (two (-7) 2)).xr 5 = -1 ∧ (after (.rem 5 6 7) (two 7 (-2))).xr 5 = 1 := by decide +kernel

/-- R107: divu 7 by 0 is 0 with DZ, remu is 7. -/
theorem test_divu_zero : (after (.divu 5 6 7) (two 7 0)).xr 5 = 0 ∧ (after (.divu 5 6 7) (two 7 0)).me.istat = iDZ ∧
    (after (.remu 5 6 7) (two 7 0)).xr 5 = 7 := by decide +kernel

/-- R107: sll takes the amount modulo 64. -/
theorem test_sll : (after (.sll 5 6 7) (two 1 65)).xr 5 = 2 := by decide +kernel

/-- R106: an instruction that names x0 as its destination sets its flags and writes nothing. -/
theorem test_x0_discards : (after (.divu 0 6 7) (two 7 0)).xr 0 = 0 ∧ (after (.divu 0 6 7) (two 7 0)).me.istat = iDZ := by decide +kernel

/-- R110: lui x9, 0x12345, and lui with imm19 0x40000. -/
theorem test_lui : (after (.lui 9 0x12345) State.reset).xr 9 = 0x2468A000 ∧
    (after (.lui 9 0x40000) State.reset).xr 9 = 0xFFFFFFFF80000000 := by decide +kernel

/-- R114: fcvti.rz of 3.75 is 3 with NX; of 2^70 is 2^63 - 1 with NV. -/
theorem test_fcvti : (after (.fcvti 5 6 .rz) (regs [(6, 0x40700000)])).xr 5 = 3 ∧
    (after (.fcvti 5 6 .rz) (regs [(6, 0x40700000)])).me.fpflags = fNX ∧
    (after (.fcvti 5 6 .rz) (regs [(6, 0x62800000)])).xr 5 = 0x7FFFFFFFFFFFFFFF ∧
    (after (.fcvti 5 6 .rz) (regs [(6, 0x62800000)])).me.fpflags = fNV := by decide +kernel

/-- R114: fcvtf of 2^24 + 1 is 2^24 under .rne and 2^24 + 2 under .rup, with NX. -/
theorem test_fcvtf : (after (.fcvtf 5 6 .rne) (regs [(6, 0x1000001)])).xr 5 = 0x4B800000 ∧
    (after (.fcvtf 5 6 .rup) (regs [(6, 0x1000001)])).xr 5 = 0x4B800001 ∧
    (after (.fcvtf 5 6 .rup) (regs [(6, 0x1000001)])).me.fpflags = fNX := by decide +kernel

/-- R122: a counter that enters as 0 wraps and branches; one that enters as 1 falls through. -/
theorem test_loop : (after (.loop 8 true (BitVec.ofInt 18 (-3))) State.reset).xr 8 = BitVec.allOnes 64 ∧
    (after (.loop 8 true (BitVec.ofInt 18 (-3))) State.reset).me.pc = -12 ∧
    (after (.loop 8 true (BitVec.ofInt 18 (-3))) State.reset).me.rrb = 1 ∧
    (after (.loop 8 false (BitVec.ofInt 18 (-3))) (regs [(8, 1)])).me.pc = 4 := by decide +kernel

/-- R121: blr reads its target before it writes the link, also to the same register. -/
theorem test_blr : (after (.blr 6 6) (regs [(6, 0x100000000)])).me.pc = 0x100000000 ∧
    (after (.blr 6 6) (regs [(6, 0x100000000)])).xr 6 = 4 := by decide +kernel

/-- R4, R116, R117: st.p.16 puts the low byte first and then moves its base; ld.p.i8 extends the sign. -/
theorem test_store_load :
    let s := after (.stP 1 0x7FE 6 5) (regs [(5, 0x1280), (6, 256)])
    s.core.pool.read 256 = 0x80 ∧ s.core.pool.read 257 = 0x12 ∧ s.xr 6 = 254 ∧
      (after (.ldP .i8 3 7 5) (s.setX 7 256)).xr 5 = 0xFFFFFFFFFFFFFF80 ∧ (after (.ldP .i8 3 7 5) (s.setX 7 256)).xr 7 = 259 := by
  decide +kernel

/-- R116: a misaligned load with no handler ends in DOUBLE_FAULT, with its cause in KTVAL (R335). -/
theorem test_misaligned_without_handler :
    ((after (.ld .i32 0 6 5) (regs [(6, 2)])).coreAt 8192).kcause = 0xA3 ∧
    ((after (.ld .i32 0 6 5) (regs [(6, 2)])).coreAt 8192).ktval.toNat % 256 = Cause.MISALIGNED.toNat := by decide +kernel

/-- R334: a trap with a handler at 2^32 goes there, with EPC at the next instruction for trap (R127). -/
theorem test_trap :
    let s := after (.trap 3 6) ((regs [(6, 99)]).updMe fun c => { c with trapvec := 0x100000000 })
    s.me.pc = 0x100000000 ∧ s.me.cause = 0xB3 ∧ s.me.tval = 99 ∧ s.me.epc = 4 ∧ s.me.tin = true := by decide +kernel

/-- R40, R130: with TFLAGS.STEP set at issue, an instruction retires and then traps with STEP, EPC at the next one. -/
theorem test_single_step :
    let s := after (.addi 5 0 7) (State.reset.updMe fun c => { c with trapvec := 0x100000000, tstep := true })
    s.xr 5 = 7 ∧ s.me.cause = Cause.STEP ∧ s.me.epc = 4 ∧ s.me.pc = 0x100000000 := by decide +kernel

/-- R157, R158: amo.max.32 of -5 and 3 writes 3 and answers -5 extended; minu answers zero-extended. -/
theorem test_amo :
    let s := after (.st 2 0 6 7) (two 64 0xFFFFFFFB)
    (after (.amoMax .core false 5 6 8) (s.setX 8 3)).core.pool.read 64 = 3 ∧
    (after (.amoMax .core false 5 6 8) (s.setX 8 3)).xr 5 = 0xFFFFFFFFFFFFFFFB ∧
    (after (.amoMinu .core false 5 6 8) (s.setX 8 3)).xr 5 = 0xFFFFFFFB := by decide +kernel

/-- R140: vavg of i64 lanes 127 and 126 is 127; vadds clamps with SAT. The lanes are broadcast first (R147). -/
theorem test_vector_average :
    (after (.vavg 0 .i64 3 1 2) ((State.reset.setV 1 127).setV 2 126)).vr 3 = 127 := by decide +kernel
theorem test_vector_saturates :
    (after (.vadds 0 .i64 3 1 2) ((State.reset.setV 1 (2 ^ 63 - 1)).setV 2 1)).vr 3 = 2 ^ 63 - 1 ∧
    (after (.vadds 0 .i64 3 1 2) ((State.reset.setV 1 (2 ^ 63 - 1)).setV 2 1)).me.istat = iSAT := by decide +kernel

/-- R148: the worked example of vkeep2. -/
theorem test_vkeep2 :
    let s := State.reset.setV 1 (0x3F800000 + 0xC0400000 * 2 ^ 32 + 0x40400000 * 2 ^ 64 + 0x7FC00000 * 2 ^ 96 + 0x80000000 * 2 ^ 160)
    (after (.vkeep2 .f32 2 1 3) s).vr 2 % 2 ^ 128 = 0xC0400000 + 0x7FC00000 * 2 ^ 32 + 0x80000000 * 2 ^ 96 ∧
    (after (.vkeep2 .f32 2 1 3) s).mr 3 % 256 = 0x4D := by decide +kernel

/-- R57, R146: the worked block of GX4. -/
theorem test_vpackgx :
    let s := State.reset.setV 1 (0x40200000 + 0xBE99999A * 2 ^ 32 + 0x3F800000 * 2 ^ 64 + 0x3F200000 * 2 ^ 96 + 0x3E400000 * 2 ^ 128 +
      0x3D800000 * 2 ^ 160)
    (after (.vpackgx .gx4 0 3 1) s).vr 3 = 0x0461922AFC80 + 0xFF00 * 2 ^ 96 ∧ (after (.vpackgx .gx4 0 3 1) s).me.fpflags = fNX := by
  decide +kernel

/-- R150: mlanes with a count above 128 sets every bit, and the lowest one bit of an empty mask is at 128. -/
theorem test_masks : (after (.mlanes 1 6) (regs [(6, 129)])).mr 1 = BitVec.allOnes 128 ∧
    (after (.mfirst 5 2) State.reset).xr 5 = 128 := by decide +kernel

/-- R25: the first chunk of 1,000 with m = 16 and P = 4 is 125 at 0, and the second 110 at 125. -/
theorem test_range_chunks :
    let s : State := { regs [(5, 2 ^ 16 + 8 * 2 ^ 8 + 2 ^ 7)] with ranges := [(512, ⟨true, 1000, 16, 4, 1000, 1, none⟩)] }
    let t := after (.rngTake 9 5) s
    t.xr 9 = 125 ∧ (after (.rngTake 9 5) t).xr 9 = 125 * 2 ^ 24 + 110 := by decide +kernel

/-- R168: two parties of a barrier; the second arrival completes the phase. -/
theorem test_barrier :
    let s := after (.barInitImm 3 2) State.reset
    let t := after (.barArrive 3) s
    (t.barAt 8192 3).arr = 1 ∧ (t.barAt 8192 3).phase = false ∧
      ((after (.barArrive 3) { t with cores := [(8192, t.core.setCtx 1 { Ctx.empty with st := .live })], ctx := 1 }).barAt 8192 3).phase =
        true := by decide +kernel

/-- R215, R219, R220: a pod captured with x20 and called lands it and goes on at its entry. -/
theorem test_pod_call :
    let s := after (.pcap 1 6 1 0) ((regs [(6, 0x200000000), (20, 77)]).updCore fun c => { c with partw := 0x41 })
    (after (.pcall false 1) (s.setX 20 0)).xr 20 = 77 ∧ (after (.pcall false 1) (s.setX 20 0)).me.pc = 0x200000000 ∧
      (after (.pcall false 1) (s.setX 20 0)).xr 1 = 8 + 8 := by decide +kernel

/-- A step from the placed word runs it as the first instruction after reset: add x5, x6, x7 moves the pc on. -/
theorem test_first_step : (match step (State.reset.withFetchWord 32 0x001CC504) with
    | .next t => decide (((t.coreAt 0).ctxAt 0).pc = word (codeAt + 4))
    | _ => false) = true := by decide +kernel


/-! For each obligation a state and operands that meet its hypotheses, clause by clause where they differ. -/

/-- Registers at the ends of their ranges, and barrier 47, are readable and declared after reset. -/
abbrev ends : List Use := [.x 0, .x 31, .v 0, .v 31, .m 0, .m 7, .h 15, .c 15, .b 47]
/-- A context with a handler. -/
def handlerAt : State := State.reset.updMe fun c => { c with trapvec := 0x100000000 }
/-- A context in its handler. -/
def inHandler : State := State.reset.updMe fun c => { c with tin := true }

theorem canonical_one (k : Nat) (c : Core) (h : c.pool.wf = true) : ({ State.reset with cores := [(k, c)] } : State).canonical := by
  refine ⟨rfl, fun j => ?_⟩
  simp only [State.coreAt, Table.get]
  split
  · rfl
  · split
    · exact h
    · rfl
theorem canonical_reset : State.reset.canonical := ⟨rfl, fun _ => rfl⟩
theorem unlogged_of (s : State) (h : s.taskLaunch s.cur = none) : s.unlogged := by
  intro p hp
  rw [h] at hp
  cases hp
/-- What an answer holds. -/
theorem isOk_get {ε α : Type} {x : Except ε α} (d : α) (h : x.isOk = true) : x = .ok (x.toOption.getD d) := by
  cases x with
  | ok a => rfl
  | error e => simp [Except.isOk, Except.toBool] at h

theorem witness_IntegerRegisterResults : State.reset.ready [.x 31, .x 0, .x 31] := by unfold State.ready; decide
theorem witness_IntegerUnaryResults : State.reset.ready [.x 31, .x 0] := by unfold State.ready; decide
theorem witness_BitsAndBytesMoved : clzFrom 1 64 = 63 ∧ clzFrom (1 <<< 63) 64 = 0 ∧ 64 ≤ 63 + clzFrom 1 64 ∧ (7 < 8 ∧ 63 < 64 ∧ 0 < 64) := by
  decide
theorem witness_DivisionResults : State.reset.ready [.x 31, .x 0, .x 31] := by unfold State.ready; decide
theorem witness_ImmediateResults : State.reset.ready [.x 0, .x 31] := by unfold State.ready; decide
theorem witness_ShiftAndConstantResults : State.reset.ready [.x 31, .x 0] ∧ State.reset.ready [.x 31] ∧ State.reset.ready [.x 0, .x 31, .x 31] := by
  unfold State.ready; decide
theorem witness_BitFieldResults : State.reset.ready [.x 31, .x 0] ∧ State.reset.ready [.x 31, .x 1, .x 2, .x 31] ∧ State.reset.ready [.x 0, .x 31, .x 31] := by
  unfold State.ready; decide
/-- At one bit the most negative number is -1's own pattern; at 64 bits both kinds of operands exist. -/
theorem witness_DivisionCorners : (1 ≤ 1 ∧ 1 ≤ 64 ∧ 1 < 2 ^ 1 ∧ (1 = 2 ^ (1 - 1) ∧ 1 = 2 ^ 1 - 1)) ∧
    (2 ^ 63 < 2 ^ 64 ∧ 2 ^ 64 - 1 < 2 ^ 64 ∧ 2 ^ 63 = 2 ^ (64 - 1)) ∧ ¬(5 = 2 ^ (64 - 1) ∧ 3 = 2 ^ 64 - 1) ∧ 3 ≠ 0 := by decide
theorem witness_ScalarFloatResults : State.reset.ready [.x 31, .x 0, .x 31] ∧ State.reset.ready [.x 31, .x 0] ∧ State.reset.ready [.x 0, .x 1, .x 2, .x 31] := by
  unfold State.ready; decide
/-- A branch that is taken and one that is not, of each comparison. -/
theorem witness_BranchResults : (two 1 1).ready [.x 6, .x 7] ∧ (two 1 1).xr 6 = (two 1 1).xr 7 ∧ (two 1 (-1)).xr 6 ≠ (two 1 (-1)).xr 7 ∧
    ((two (-1) 0).xr 6).toInt < ((two (-1) 0).xr 7).toInt ∧ ¬((two (-1) 0).xr 6).toNat < ((two (-1) 0).xr 7).toNat := by
  unfold State.ready; decide
theorem witness_JumpResults : (Use.x 1).loading State.reset.me = false ∧ (regs [(31, 1)]).ready [.x 31] ∧ (regs [(31, 1)]).xr 31 = 1 ∧
    State.reset.ready [.x 31] ∧ State.reset.xr 31 ≠ 1 ∧ State.reset.ready [.x 31, .x 31] := by unfold State.ready; decide

/-- A core of two contexts, of which helper 1 has ended and x6 of context 0 names it. -/
def endedHelper : State := (regs [(6, 1)]).updCore fun c => { c.setCtx 1 { Ctx.empty with st := .ended } with partw := 2 }
theorem witness_ContextResults : State.reset.ready [.x 5, .x 6, .x 7] ∧ State.reset.core.freeHelper = none ∧
    (State.reset.updCore fun c => { c with partw := 11 }).core.applyQ = [] ∧
    (State.reset.updCore fun c => { c with partw := 11 }).core.freeHelper = some 1 ∧
    endedHelper.ready [.x 5, .x 6] ∧ (endedHelper.xr 6).toNat = 1 ∧ 1 ≠ endedHelper.ctx ∧ 1 < endedHelper.core.nctx ∧
    (endedHelper.core.ctxAt 1).st = .ended ∧ endedHelper.me.wait = .none ∧ (endedHelper.core.ctxAt 1).detached = false ∧ State.reset.ctx = 0 ∧
    ({ State.reset with ctx := 10 } : State).ctx ≠ 0 := by unfold State.ready; decide
theorem witness_ContextResults_join : ∀ q, endedHelper.earlierJoin 1 q = false := by
  intro q
  simp [State.earlierJoin, show endedHelper.core.liveCtxs = [0] by decide, show endedHelper.ctx = 0 by decide]
/-- A join of context 0, and one of a LIVE helper. -/
theorem witness_ContextResults_waits : State.reset.ready [.x 5, .x 6] ∧ (State.reset.xr 6).toNat = 0 ∧
    (let s := endedHelper.updCore fun c => c.setCtx 1 { Ctx.empty with st := .live }
     s.ready [.x 5, .x 6] ∧ (s.xr 6).toNat = 1 ∧ 1 ≠ s.ctx ∧ 1 < s.core.nctx ∧ (s.core.ctxAt 1).st = .live ∧
       (s.core.ctxAt 1).detached = false ∧ s.me.wait = .none) := by unfold State.ready; decide
theorem witness_StartedHelper : Core.empty.pool.wf = true ∧ (31 : BitVec 5) ≠ 4 ∧ (7 : BitVec 3) ≠ 0 ∧ (0 : Nat) ≠ 10 := by decide
theorem witness_TrapAndBreak : handlerAt.ready [.x 31] ∧ handlerAt.me.tin = false ∧ handlerAt.me.trapvec ≠ 0 ∧ inHandler.ready [.x 31] ∧
    inHandler.me.tin = true := by unfold State.ready; decide
theorem witness_TrapReturn : inHandler.me.tin = true ∧ inHandler.me.tstep = false ∧ State.reset.me.tin = false := by decide
theorem witness_TrapEntry : ∃ t, Traps .ibxTake { handlerAt with ctx := 1 } Cause.CTX_ROLE 1 ∨
    (Traps .tret handlerAt 0x0D 0 ∧ exec .tret handlerAt = .next t ∧ handlerAt.me.tin = false ∧ handlerAt.me.trapvec ≠ 0 ∧
      walkCause 0x0D = false) :=
  ⟨_, .inr ⟨rfl, rfl, by decide, by decide, by decide⟩⟩
theorem witness_DoubleFaultEnds : (inHandler.me.tin = true ∧ inHandler.ctx < 16) ∧ State.reset.me.trapvec = 0 := by decide
/-- Registers that an occupant reads, and one that it does not. -/
theorem witness_StatusRegisterReads : State.reset.ready [.x 31] ∧ State.reset.readSR 0 8192 0 0x100 = none ∧
    State.reset.readSR 0 8192 0 0x006 = none ∧ State.reset.readSR 0 8192 0 0x3FF = none := by unfold State.ready; decide +kernel
theorem witness_StatusRegisterWrites : State.reset.ready [.x 31] ∧ ∀ i ∈ ([0, 0x0F, 0x16, 0x1F, 0x24, 0x3F, 0x60, 0x3FF] : List (BitVec 10)),
    ¬(0x10 ≤ i.toNat ∧ i.toNat ≤ 0x15) ∧ ¬(0x20 ≤ i.toNat ∧ i.toNat ≤ 0x23) ∧ i.toNat / 16 ≠ 4 ∧ i.toNat / 16 ≠ 5 := by
  unfold State.ready; decide
theorem witness_TimeReads : State.reset.ready [.x 31] := by unfold State.ready; decide
theorem witness_HardwiredRegisters : State.reset.ready [.x 0, .x 31, .x 31] := by unfold State.ready; decide

/-- The last 8 bytes of the scratchpad after reset (R34), and the first. -/
theorem witness_ScratchpadLoads : (regs [(6, 192504)]).ready [.x 5, .x 6, .x 7] ∧ (5 : BitVec 5) ≠ 6 ∧
    (regs [(6, 192504)]).padOk true false false ((regs [(6, 192504)]).xr 6) 8 ∧ (regs [(2, 0)]).padOk true false true ((regs [(2, 0)]).xr 2) 8 := by
  unfold State.ready State.padOk; decide
theorem witness_ScratchpadStores : (regs [(6, 192504)]).canonical ∧ (regs [(6, 192504)]).ready [.x 5, .x 6, .x 7] ∧
    (regs [(6, 192504)]).padOk false true false ((regs [(6, 192504)]).xr 6) 8 :=
  ⟨canonical_one 8192 _ rfl, by unfold State.ready; decide, by unfold State.padOk; decide⟩
/-- Each check at a boundary address: 1, below STACKLIM, 2^18 and 2^32 - 8, the first byte past S, 2^32 and 2^57. -/
theorem witness_AccessChecks : State.reset.ready [.x 5, .x 6] ∧ (1 : Word).toNat % 8 ≠ 0 ∧
    (((regs [(2, 248)]).updMe fun c => { c with stacklim := 256 }).xr 2).toNat < (256 : Word).toNat ∧
    (2 ^ 18 ≤ (0x40000 : Word).toNat ∧ (0xFFFFFFF8 : Word).toNat < 2 ^ 32 ∧ (0xFFFFFFF8 : Word).toNat % 8 = 0) ∧
    (State.reset.core.rowsS ≤ 192512 / 128 ∧ 192512 % 8 = 0 ∧ State.reset.core.attachOf (192512 / 128) = none) ∧
    (2 ^ 32 ≤ (0x100000000 : Word).toNat ∧ (State.reset.domainAt 0).enable = false ∧ State.reset.me.ext = none) ∧ 2 ^ 57 ≤ (0x200000000000000 : Word).toNat := by
  unfold State.ready; decide
theorem witness_ScratchpadAtomics : (regs [(6, 192504)]).canonical ∧ (regs [(6, 192504)]).unlogged ∧
    (regs [(6, 192504)]).ready [.x 5, .x 6, .x 7, .x 8] ∧ (regs [(6, 192504)]).padOk true true false ((regs [(6, 192504)]).xr 6) 8 ∧
    (regs [(6, 192504)]).padOk true true false ((regs [(6, 192504)]).xr 6) 4 :=
  ⟨canonical_one 8192 _ rfl, unlogged_of _ (by decide), by unfold State.ready; decide, by unfold State.padOk; decide, by unfold State.padOk; decide⟩
/-- Core 0.0.0 runs a task in a domain that maps the first 16 GiB onto themselves (log 19); x6 and x2 are global addresses, x7 is
8, and V1 holds zeros. -/
def farTask : State := ((({ State.reset.withFetchWord 32 0 with cur := 0, agenda := [] } : State).setX 6 0x3FFFFFF00).setX 2 0x100000080).setX 7 8
theorem canonical_of (s : State) (h : s.mem.wf = true) (hc : ∀ p ∈ s.cores, p.2.pool.wf = true) : s.canonical := by
  refine ⟨h, fun k => ?_⟩
  show (Table.get Core.empty s.cores k).pool.wf = true
  revert hc
  generalize s.cores = t
  intro hc
  induction t with
  | nil => rfl
  | cons p t ih =>
    obtain ⟨j, v⟩ := p
    simp only [Table.get]
    split
    · rfl
    · split
      · exact hc (j, v) (by simp)
      · exact ih fun q hq => hc q (by simp [hq])
/-- A translation that ends at a physical byte. -/
def landsAt (x : Except Trap (Place × State)) (pa : Nat) : Bool :=
  match x with
  | .ok (.phys p, _) => p == pa
  | _ => false
theorem landsAt_ok {x : Except Trap (Place × State)} {pa : Nat} (h : landsAt x pa = true) : ∃ u, x = .ok (.phys pa, u) := by
  unfold landsAt at h
  split at h
  · rename_i p u
    exact ⟨u, by rw [beq_iff_eq.mp h]⟩
  · cases h
/-- The last line below 16 GiB, by base x6, and an address by base x2: each kind of access. -/
theorem witness_ScratchpadLoads_far : farTask.ready [.x 5, .x 6, .x 7] ∧ farTask.farOk true false false (farTask.xr 6) 8 0x3FFFFFF00 ∧
    farTask.farOk true false true (farTask.xr 2) 8 0x100000080 := by
  refine ⟨by unfold State.ready; decide +kernel, ⟨?_, ?_, ?_, ?_, landsAt_ok ?_, ?_⟩, ⟨?_, ?_, ?_, ?_, landsAt_ok ?_, ?_⟩⟩ <;> decide +kernel
theorem witness_ScratchpadStores_far : farTask.canonical ∧ farTask.unlogged ∧ farTask.farOk false true false (farTask.xr 6) 8 0x3FFFFFF00 ∧
    farTask.farOk true true false (farTask.xr 6) 4 0x3FFFFFF00 := by
  refine ⟨canonical_of _ (by decide +kernel) (by decide +kernel), unlogged_of _ (by decide +kernel), ⟨?_, ?_, ?_, ?_, landsAt_ok ?_, ?_⟩,
    ⟨?_, ?_, ?_, ?_, landsAt_ok ?_, ?_⟩⟩ <;> decide +kernel
/-- The checks of some lanes give these places. -/
def lanesLand (s : State) (acc : Acc) (ls : List Lane) (pa : Word → Nat) : Bool :=
  match s.lanesCheck acc false 8 ls with
  | .ok (ps, _) => ps == ls.map fun l => (Place.phys (pa l.a), l)
  | .error _ => false
theorem lanesLand_ok {s : State} {acc : Acc} {ls : List Lane} {pa : Word → Nat} (h : lanesLand s acc ls pa = true) :
    ∃ u, s.lanesCheck acc false 8 ls = .ok (ls.map fun l => (Place.phys (pa l.a), l), u) := by
  unfold lanesLand at h
  split at h
  · rename_i ps u e
    exact ⟨u, by rw [e, beq_iff_eq.mp h]⟩
  · cases h
/-- `farTask` with one lane in m1. -/
def farLane : State := farTask.setM 1 2
/-- The lane that takes part, under m1, in a sequential access of i64 at x6. -/
def farLs (bs : List Byte) : List Lane := (farLane.actives .i64 1).map fun j => ⟨farLane.xr 6 + word (j * 8), bs⟩
theorem witness_ScratchpadVectorLoads_far : farLane.canonical ∧ farLane.ready [.v 5, .x 6, .m 1] ∧ farLane.ready [.v 5, .x 6, .x 7, .m 1] ∧
    farLane.farLanes false false 8 (farLs []) BitVec.toNat := by
  refine ⟨canonical_of _ (by decide +kernel) (by decide +kernel), by unfold State.ready; decide +kernel, by unfold State.ready; decide +kernel,
    lanesLand_ok ?_, ?_, ?_, ?_⟩ <;> decide +kernel
theorem witness_ScratchpadVectorStores_far : farLane.canonical ∧ farLane.farLanes true false 8 (farLs (leOf 8 0)) BitVec.toNat := by
  refine ⟨canonical_of _ (by decide +kernel) (by decide +kernel), lanesLand_ok ?_, ?_, ?_, ?_⟩ <;> decide +kernel
/-- `farTask` with three more leaves of 16 GiB: at 0x400000000 a GX2 format page, at 0x800000000 CXL memory, at 0xC00000000 host
memory, with a PASID. -/
def pages : State :=
  let leaf (fmt tgt pa : Nat) : Nat := 0xF + tgt * 2 ^ 6 + fmt * 2 ^ 8 + pa * 2 ^ 16 + 2 ^ 68 * (xidOf pa).toNat
  let m := ((farTask.mem.writeLE (tableAt + 16) 16 (leaf 1 0 0x240000000)).writeLE (tableAt + 32) 16
    (leaf 0 2 0x200000000000)).writeLE (tableAt + 48) 16 (leaf 0 1 0x100000000000)
  { farTask with mem := m, domains := Table.put farTask.domains 0 { farTask.domainAt 0 with pstate := 1 } }
/-- x6 names a byte, and the host has answered for it where `ans` says so. -/
def pagesAt (a : Nat) (ans : Bool) : State :=
  (pages.setX 6 (word a)).updMe fun c => { c with ext := if ans then some ⟨false, 0, word a, 0, some 0⟩ else none }
/-- A translation that ends at a place. -/
def placedAt (x : Except Trap (Place × State)) (p : Place) : Bool :=
  match x with
  | .ok (q, _) => q == p
  | _ => false
theorem placedAt_ok {x : Except Trap (Place × State)} {p : Place} (h : placedAt x p = true) : ∃ u, x = .ok (p, u) := by
  unfold placedAt at h
  split at h
  · rename_i q u
    exact ⟨u, by rw [beq_iff_eq.mp h]⟩
  · cases h
/-- The last byte of a block of an image, for each kind of access. -/
theorem witness_ScratchpadLoads_image : (pagesAt 0x400000138 false).imgOk true false false 0x400000138 8 .gx2 0x240000000 0x138 ∧
    (pagesAt 0x400000138 false).imgOk true true false 0x400000138 8 .gx2 0x240000000 0x138 := by
  refine ⟨⟨?_, ?_, ?_, ?_, ?_, placedAt_ok ?_, ?_⟩, ⟨?_, ?_, ?_, ?_, ?_, placedAt_ok ?_, ?_⟩⟩ <;> decide +kernel
/-- CXL memory, which nobody answers for, and host memory for which the host has. -/
theorem witness_ScratchpadLoads_external : (pagesAt 0x800000100 false).unlogged ∧
    (pagesAt 0x800000100 false).extOk true false false 0x800000100 8 0x200000000100 ∧
    (pagesAt 0xC00000100 true).extOk true false false 0xC00000100 8 0x100000000100 := by
  refine ⟨unlogged_of _ (by decide +kernel), ⟨?_, ?_, ?_, ?_, placedAt_ok ?_, .inr ?_, ?_⟩,
    ⟨?_, ?_, ?_, ?_, placedAt_ok ?_, .inl ⟨false, 0, 0, ?_⟩, ?_⟩⟩ <;> decide +kernel
theorem witness_ScratchpadStores_external : (pagesAt 0xC00000100 true).extOk false true false 0xC00000100 8 0x100000000100 := by
  refine ⟨?_, ?_, ?_, ?_, placedAt_ok ?_, .inl ⟨false, 0, 0, ?_⟩, ?_⟩ <;> decide +kernel
theorem witness_ScratchpadAtomics_external : (pagesAt 0x800000100 false).extOk true true false 0x800000100 8 0x200000000100 ∧
    isHost 0x200000000100 = false := by
  refine ⟨⟨?_, ?_, ?_, ?_, placedAt_ok ?_, .inr ?_, ?_⟩, ?_⟩ <;> decide +kernel
/-- Lanes that the checks find at these places. -/
def lanesAt (s : State) (acc : Acc) (ls : List Lane) (pl : Word → Place) : Bool :=
  match s.lanesCheck acc false 8 ls with
  | .ok (ps, _) => ps == ls.map fun l => (pl l.a, l)
  | .error _ => false
theorem lanesAt_ok {s : State} {acc : Acc} {ls : List Lane} {pl : Word → Place} (h : lanesAt s acc ls pl = true) :
    ∃ u, s.lanesCheck acc false 8 ls = .ok (ls.map fun l => (pl l.a, l), u) := by
  unfold lanesAt at h
  split at h
  · rename_i ps u e
    exact ⟨u, by rw [e, beq_iff_eq.mp h]⟩
  · cases h
/-- A lane in row 0 and one in device memory; one at the end of a block of a format page. -/
def mixLs (bs : List Byte) : List Lane := [⟨0, bs⟩, ⟨0x100000080, bs⟩]
def imgLs (bs : List Byte) : List Lane := [⟨0x400000138, bs⟩]
def mixPl (a : Word) : Place := if a.toNat < 2 ^ 18 then .pool a.toNat else .phys a.toNat
def imgPl (a : Word) : Place := .fmt .gx2 0x240000000 (a.toNat - 0x400000000)
/-- Is a place near, or in the device? -/
def nearB (p : Place) (z : Nat) : Bool :=
  match p with
  | .pool _ => true
  | .phys pa => !isExternal pa
  | .ctl _ => false
  | .fmt f pa o => !isExternal (blockAt f pa o) && decide (o % 64 + z ≤ 64)
theorem near_of {p : Place} {z : Nat} (h : nearB p z = true) : p.near z := by
  cases p <;> simp_all [nearB, Place.near]
theorem device_of {p : Place} (h : nearB p 0 = true) (hp : ∀ o, p ≠ .pool o) : p.device := by
  cases p <;> simp_all [nearB, Place.device]
theorem nearLanes_of {s : State} {rd wr : Bool} {ls : List Lane} {pl : Word → Place}
    (h : lanesAt s (if wr then .write else .read) ls pl = true) (hs : s.me.storing = false)
    (hl : ∀ l ∈ ls, nearB (pl l.a) 8 = true ∧ s.core.watched rd wr l.a.toNat 8 = false ∧ s.core.cardStall wr l.a.toNat 8 = false)
    (hm : ∀ l ∈ ls, ∀ m ∈ ls, l.a.toNat / 128 = m.a.toNat / 128 → l.a.toNat ≤ m.a.toNat →
      pl m.a = (pl l.a).plus (m.a.toNat - l.a.toNat)) : s.nearLanes rd wr false 8 ls pl :=
  ⟨lanesAt_ok h, hs, fun l h => ⟨near_of (hl l h).1, (hl l h).2⟩, hm⟩
theorem witness_ScratchpadVectorLoads_mixed : pages.nearLanes true false false 8 (mixLs []) mixPl := by
  apply nearLanes_of <;> decide +kernel
theorem witness_ScratchpadVectorStores_mixed : pages.nearLanes false true false 8 (mixLs (leOf 8 0)) mixPl ∧
    (∀ l ∈ mixLs (leOf 8 0), blockKey (mixPl l.a) = none) := by
  refine ⟨nearLanes_of ?_ ?_ ?_ ?_, ?_⟩ <;> decide +kernel
theorem witness_ScratchpadVectorStores_image : imgLs (leOf 8 0) ≠ [] ∧ pages.nearLanes true true false 8 (imgLs (leOf 8 0)) imgPl ∧
    (∀ l ∈ imgLs (leOf 8 0), blockKey (imgPl l.a) = some (.gx2, blockAt .gx2 0x240000000 0x138)) := by
  refine ⟨?_, nearLanes_of ?_ ?_ ?_ ?_, ?_⟩ <;> decide +kernel
/-- Two rows that may be written, and a line of a format page. -/
theorem witness_MemoryControl_rows : (two 192256 256).canonical ∧ (two 192256 256).xr 7 = word (128 * 2) ∧ (192256 % 128 = 0) ∧
    (∀ j, j < 2 → (two 192256 256).padOk false true false ((two 192256 256).xr 6 + word (128 * j)) 128) := by
  refine ⟨canonical_one 8192 _ rfl, by decide, by decide, ?_⟩
  unfold State.padOk
  decide
def linesAt (s : State) (ls : List Word) (pl : Word → Place) : Bool :=
  match s.discardCheck ls with
  | .ok (ps, _) => ps == ls.map fun l => (pl l, l)
  | .error _ => false
theorem linesAt_ok {s : State} {ls : List Word} {pl : Word → Place} (h : linesAt s ls pl = true) :
    ∃ u, s.discardCheck ls = .ok (ls.map fun l => (pl l, l), u) := by
  unfold linesAt at h
  split at h
  · rename_i ps u e
    exact ⟨u, by rw [e, beq_iff_eq.mp h]⟩
  · cases h
theorem witness_MemoryControl_lines : pages.canonical ∧ pages.me.storing = false ∧ linesOf 0x400000100 128 = [0x400000100] ∧
    (∃ u, pages.discardCheck [0x400000100] = .ok ([0x400000100].map fun l => (imgPl l, l), u)) ∧
    (imgPl 0x400000100).device ∧ pages.core.watched false true 0x400000100 128 = false ∧ pages.core.cardStall true 0x400000100 128 = false := by
  refine ⟨canonical_of _ ?_ ?_, ?_, ?_, linesAt_ok ?_, device_of ?_ nofun, ?_, ?_⟩ <;> decide +kernel
theorem witness_MemoryControl : State.reset.me.storing = false ∧ State.reset.me.extOut = false ∧ State.reset.me.loading = 0 ∧
    State.reset.ready [.x 6] ∧ (State.reset.xr 6).toNat < 2 ^ 32 ∧ State.reset.ready [.x 6, .x 7] ∧ State.reset.xr 7 = 0 ∧
    (two 64 128).xr 7 ≠ 0 ∧ ((two 64 128).xr 6).toNat % 128 ≠ 0 ∧ (two 192384 128).xr 7 = 128 ∧
    (two 192384 128).padOk false true false ((two 192384 128).xr 6) 128 := by unfold State.ready State.padOk; decide
theorem witness_ScratchpadVectorLoads : Type4.i64.lane = true ∧ (regs [(6, 128)]).canonical ∧ (regs [(6, 128)]).ready [.v 5, .x 6, .m 7] ∧
    (regs [(6, 128)]).ready [.v 5, .x 6, .x 7, .m 7] ∧ (regs [(6, 128)]).ready [.v 5, .x 6, .v 7, .m 0] ∧
    (regs [(6, 128)]).lanesOk true false false .i64 0 (fun j => (regs [(6, 128)]).xr 6 + word (j * 8)) :=
  ⟨rfl, canonical_one 8192 _ rfl, by unfold State.ready; decide, by unfold State.ready; decide, by unfold State.ready; decide,
    by unfold State.lanesOk State.padOk; decide⟩
theorem witness_ScratchpadVectorStores : Type4.i64.lane = true ∧ (regs [(6, 128)]).canonical ∧ (regs [(6, 128)]).ready [.v 5, .x 6, .m 7] ∧
    (regs [(6, 128)]).ready [.v 5, .x 6, .x 7, .m 7] ∧ (regs [(6, 128)]).ready [.v 5, .x 6, .v 7, .m 0] ∧
    (regs [(6, 128)]).lanesOk false true false .i64 0 (fun j => (regs [(6, 128)]).xr 6 + word (j * 8)) ∧
    (regs [(6, 128)]).lanesOk false true false .i64 1 (fun _ => 3) :=
  ⟨rfl, canonical_one 8192 _ rfl, by unfold State.ready; decide, by unfold State.ready; decide, by unfold State.ready; decide,
    by unfold State.lanesOk State.padOk; decide, by unfold State.lanesOk State.padOk; decide⟩
theorem witness_VectorArithmeticResults : State.reset.ready [.v 31, .v 0, .v 31, .m 3] ∧ State.reset.ready [.v 31, .v 0, .v 31, .m 7] := by
  unfold State.ready; decide
theorem witness_VectorUnaryResults : State.reset.ready [.v 31, .v 0, .m 3] ∧ State.reset.ready [.v 31, .v 0, .v 31, .m 7] := by
  unfold State.ready; decide
theorem witness_VectorCompareResults : State.reset.ready [.m 7, .v 0, .v 31, .m 3] ∧ State.reset.ready [.m 0, .v 0, .v 31, .m 7] := by
  unfold State.ready; decide
theorem witness_MultiplyAddResults : State.reset.ready [.v 31, .v 0, .v 31, .m 3] ∧ State.reset.ready [.v 0, .v 0, .v 31, .m 7] := by
  unfold State.ready; decide
theorem witness_ConversionResults : State.reset.ready [.v 31, .v 0, .m 7] ∧ State.reset.ready [.v 31, .v 0] ∧ Type4.i8.lane = true ∧
    Type4.n64.lane = true ∧ cvtPartOk .i8 .n64 7 = true ∧ cvtPartOk .n64 .i8 7 = true := by unfold State.ready; decide
theorem witness_PermutationResults : State.reset.ready [.v 31, .v 0, .v 31, .m 3] ∧ State.reset.ready [.v 31, .x 31, .x 0, .m 7] ∧
    State.reset.ready [.x 31, .v 31, .x 0] ∧ State.reset.ready [.v 0, .v 31, .x 31, .m 7] := by unfold State.ready; decide
theorem witness_ReductionResults : State.reset.ready [.v 31, .v 0, .m 3] ∧ State.reset.ready [.v 31, .v 0, .m 7] := by
  unfold State.ready; decide
/-- Four magnitudes of which the first two places kept are the last two. -/
theorem witness_KeepTwoPlaces : keepTwo [0, 0, 1, 1] = (2, 3) ∧ keepTwo [0, 0, 0, 0] = (0, 1) ∧ 3 < 4 := by decide
theorem witness_MaskResults : State.reset.ready [.m 7, .m 0, .m 7] ∧ State.reset.ready [.x 31, .m 7] ∧ State.reset.ready [.m 7, .x 31] ∧
    State.reset.mr 7 = 0 ∧ ((State.reset.setM 7 (1 <<< 127)).mr 7).getLsbD 127 = true ∧
    (∀ j, j < 127 → ((State.reset.setM 7 (1 <<< 127)).mr 7).getLsbD j = false) := by unfold State.ready; decide
theorem witness_VectorWriteLanes : State.reset.canonical ∧ (List.replicate 128 0).length = 1024 / 8 ∧
    (List.replicate 16 0).length = 1024 / 64 := ⟨canonical_reset, rfl, rfl⟩


/-- A record of rank 1 of `n` elements of a type at `base`, with its CURSOR (R70). -/
def recAt (base ty n cur : Nat) : Nat := base + ty * 2 ^ 32 + 2 ^ 40 + n * 2 ^ 64 + cur * 2 ^ 192
/-- Records of 20 i64 elements at 0 (CURSOR `cur`) and 32, of none at 64, of one at 96, and of 20 f32 at 128 and 160; x8
holds an address that is not aligned. -/
def shapes (cur : Nat) : State :=
  (regs [(5, 0), (6, 32), (7, 64), (8, 4), (9, 96), (10, 128), (11, 160)]).updCore fun c =>
    { c with pool := (((((c.pool.writeLE 0 32 (recAt 256 6 20 cur)).writeLE 32 32 (recAt 512 6 20 0)).writeLE 64 32 (recAt 0 6 0 0)).writeLE
      96 32 (recAt 768 6 1 0)).writeLE 128 32 (recAt 896 0 20 0)).writeLE 160 32 (recAt 1024 0 20 0) }

/-- Does an instruction that begins here make a step, which is the last or not? -/
def shapeMakes (last : Bool) (s : State) (ops : List Opnd) (ok : Type4 → Bool) (types red : Bool)
    (step : State → ShapeRun → ShStep) : Bool :=
  match s.validate ops ok types red with
  | .ok (.good rs, u) => match recsOf rs with
    | d :: _ =>
      let run : ShapeRun := ⟨false, rs, d.cursor⟩
      decide (d.cursor < d.count) && !d.gx && (decide (d.count ≤ d.cursor + (step u run).n) == last) &&
        match u.poolReady ((step u run).accs ++ if last then [(true, d.addr + 24, 4)] else []) with
        | .ok v => match (step u run).act v with
          | .ok w => !last || (w.setCursor d.addr 0).isOk
          | _ => false
        | _ => false
    | _ => false
  | _ => false

theorem shape_step {s : State} {ops : List Opnd} {ok : Type4 → Bool} {types red : Bool} {step : State → ShapeRun → ShStep}
    (hn : s.me.shape = none) (h : shapeMakes false s ops ok types red step = true) :
    ∃ (u v w : State) (run : ShapeRun) (d : Rec) (rest : List Rec), recsOf run.recs = d :: rest ∧
      s.shapeAt ops ok types red u run d ∧ run.cur + (step u run).n < d.count ∧ u.poolReady (step u run).accs = .ok v ∧
      (step u run).act v = .ok w := by
  unfold shapeMakes at h
  split at h
  · rename_i rs u hv
    split at h
    · rename_i d rest hd
      simp only [Bool.and_eq_true, decide_eq_true_eq, beq_false, Bool.not_eq_true', decide_eq_false_iff_not, if_false,
        List.append_nil, Bool.false_eq_true] at h
      obtain ⟨⟨⟨h1, h2⟩, h3⟩, h4⟩ := h
      split at h4
      · rename_i v hp
        split at h4
        · rename_i w hw
          exact ⟨u, v, w, ⟨false, rs, d.cursor⟩, d, rest, hd, .inr ⟨hn, rfl, hv, h1, by simp [h2]⟩, by simpa using h3, hp, hw⟩
        · cases h4
      · cases h4
    · cases h
  · cases h

theorem shape_last {s : State} {ops : List Opnd} {ok : Type4 → Bool} {types red : Bool} {step : State → ShapeRun → ShStep}
    (hn : s.me.shape = none) (h : shapeMakes true s ops ok types red step = true) :
    ∃ (u v w x : State) (run : ShapeRun) (d : Rec) (rest : List Rec), recsOf run.recs = d :: rest ∧
      s.shapeAt ops ok types red u run d ∧ d.count ≤ run.cur + (step u run).n ∧
      u.poolReady ((step u run).accs ++ [(true, d.addr + 24, 4)]) = .ok v ∧ (step u run).act v = .ok w ∧
      w.setCursor d.addr 0 = .ok x := by
  unfold shapeMakes at h
  split at h
  · rename_i rs u hv
    split at h
    · rename_i d rest hd
      simp only [Bool.and_eq_true, decide_eq_true_eq, beq_true, Bool.not_eq_true', if_true, Bool.not_true, Bool.false_or] at h
      obtain ⟨⟨⟨h1, h2⟩, h3⟩, h4⟩ := h
      split at h4
      · rename_i v hp
        split at h4
        · rename_i w hw
          cases hx : w.setCursor d.addr 0 with
          | ok x => exact ⟨u, v, w, x, ⟨false, rs, d.cursor⟩, d, rest, hd, .inr ⟨hn, rfl, hv, h1, by simp [h2]⟩, h3, hp, hw, hx⟩
          | error e => rw [hx] at h4; cases h4
        · cases h4
      · cases h4
    · cases h
  · cases h

/-- A first step of 16 of the 20 elements, the last step of the 4 others, and of a reduction the one step. -/
theorem witness_ShapeFormSteps : (shapes 0).ready [.x 5, .x 6, .x 6] ∧ (shapes 0).me.shape = none ∧ (shapes 16).me.shape = none ∧
    shapeMakes false (shapes 0) (ops3 5 6 6 (shapes 0)) Type4.lane true false (ShOp.step .add .rne 0) = true ∧
    shapeMakes true (shapes 16) (ops3 5 6 6 (shapes 16)) Type4.lane true false (ShOp.step .fma .rne 0) = true ∧
    shapeMakes false (shapes 0) (ops2 5 6 (shapes 0)) notB1 true false (ShOp.step .copy .rne 0) = true ∧
    shapeMakes true (shapes 16) (ops2 5 6 (shapes 16)) notB1 true false (ShOp.step .copy .rne 0) = true ∧
    shapeMakes true (shapes 0) (ops2 9 6 (shapes 0)) Type4.lane true true (RedOp.step (.add .rne)) = true ∧
    shapeMakes true (shapes 0) (ops2 10 11 (shapes 0)) isF true false (ShOp.step .exp2 .rne 0) = true ∧
    shapeMakes false (shapes 0) [(1, ((shapes 0).xr 5).toNat, true)] Type4.lane true false
      (fun u => ShOp.step .bcast .rne (u.xr 6).toNat u) = true := by
  unfold State.ready; decide +kernel
/-- A misaligned record, records without elements, and records that pass. -/
theorem witness_ShapeFormSteps_checks : (shapes 0).validate (ops2 8 6 (shapes 0)) notB1 true false =
      .ok (.bad 1 (Cause.MISALIGNED, 4), shapes 0) ∧
    (match (shapes 0).validate (ops2 7 7 (shapes 0)) notB1 true false with
      | .ok (.empty, u) => match u.poolReady [(true, 64 + 24, 4)] with
        | .ok v => (v.setCursor 64 0).isOk
        | _ => false
      | _ => false) = true := by decide +kernel
/-- shp.check: a record that is not aligned, a first step that goes on, and the last step, which ends the check. -/
theorem witness_ShapeFormSteps_stepwise : (shapes 0).ready [.x 5, .x 5, .x 6, .x 0] ∧ (shapes 0).opStage1 (ops2 8 6 (shapes 0)) = some (1, (Cause.MISALIGNED, 4)) ∧
    (shapes 0).opStage1 (ops2 5 6 (shapes 0)) = none ∧
    (match (shapes 0).checkStep (ops2 5 6 (shapes 0)) ⟨true, [], 0⟩ with
      | .ok (none, run, u) => run.cur == 1 && match u.checkStep (ops2 5 6 (shapes 0)) run with
        | .ok (some (.good _), _, _) => true
        | _ => false
      | _ => false) = true := by unfold State.ready; decide +kernel

/-- A card that no ring holds. -/
def blankCard : Card :=
  { bytes := 0, slot := 0, poster := 0, seq := 0, record := 0, lens := [], running := false, cursor := 0, owed := 0, finished := false,
    cancelled := false, narrow := false, began := false, fault := none, pts := 0, ext := none }
/-- A card of each engine in the scratchpad, at 128 and 64 (x6, x7), and an address that is not aligned (x8). -/
def cards : State := (regs [(6, 128), (7, 64), (8, 65)]).updCore fun c => { c with pool := (c.pool.writeLE 64 1 0x80).writeLE 128 1 2 }
/-- The same with no future entry free. -/
def noFutures : State := cards.updCore fun c =>
  { c with futs := (List.range 64).map fun i => (i, { Future.zero with used := true }) }
/-- The card that a post at a byte makes for entry 0, and its offences. -/
def posted (s : State) (a : Nat) : Card := s.newCard 0 (BitVec.ofNat 512 (s.core.pool.readLE a 64))
def offences (s : State) (eng : Bool) (a : Nat) : List Nat := s.cardBad s.cur eng (posted s a)
/-- A fill of the scratchpad bytes 0 to 127 at 64, and at 128 a matrix card whose A record is at 192, planar and of one
row of sixteen f32; both offend no rule (R193, R194, R207). -/
def goodCards : State := cards.updCore fun c => { c with
  partw := 0x20
  pool := ((((((c.pool.writeLE 64 1 0x83).writeLE 96 16 (0x6 * 2 ^ 60 + 128 * 2 ^ 64)).writeLE 128 16 (192 * 2 ^ 64)).writeLE 144 16
    (0xA * 2 ^ 60 + 1024 + 4096 * 2 ^ 64 + 0x10 * 2 ^ 96)).writeLE 192 16
      (1024 + 0x0310 * 2 ^ 32 + 2 ^ 64 + 2 ^ 80 + 16 * 2 ^ 96))) }
theorem witness_CardPosting_good : goodCards.ready [.h 15, .x 6] ∧ goodCards.padOk true false false (goodCards.xr 6) 64 ∧
    goodCards.core.freeEntry = some 0 ∧ (posted goodCards 64).hasRec = false ∧
    (formatErr (offences goodCards true 64)).or (goodCards.core.cardBar (posted goodCards 64)) = none ∧
    (posted goodCards 128).hasRec = true ∧ 0 ∉ offences goodCards false 128 ∧
    (match goodCards.ctxRead (.pool 128) (goodCards.xr 6) 64 with
      | .ok (_, u) => match u.readRecord (posted goodCards 128) .read with
        | .ok (x, e, _) => (firstOffence (formatErr (offences goodCards false 128)) e).or (goodCards.core.cardBar x) == none
        | .error _ => false
      | .error _ => false) = true := by unfold State.ready State.padOk; decide +kernel
theorem witness_CardPosting : cards.ready [.h 15, .x 6] ∧ (cards.xr 8).toNat % 64 ≠ 0 ∧ (0x100000000 : Word).toNat % 64 = 0 ∧
    cards.padOk true false false (cards.xr 6) 64 ∧ cards.padOk true false false (cards.xr 7) 64 ∧ cards.core.freeEntry = some 0 ∧
    (cards.core.ring false).length < ringSize false ∧ (cards.core.ring true).length < ringSize true ∧
    ((posted cards 128).hasRec = false ∧ (posted cards 64).hasRec = false) ∧ offences cards true 128 = [0] := by
  unfold State.ready State.padOk; decide +kernel
theorem witness_CardPosting_full : noFutures.ready [.h 0, .x 6] ∧ noFutures.padOk true false false (noFutures.xr 6) 64 ∧
    noFutures.core.freeEntry = none ∧
    ringSize false ≤ ((cards.updCore fun c => { c with mxRing := List.replicate 8 blankCard }).core.ring false).length := by
  unfold State.ready State.padOk; decide +kernel
/-- The first handle of entry 63 in h0, that of entry 1 in h15 and one of no entry in h1; x6 selects h0 and h15, x7
none, x8 names a token of core 8192. Entry 1 is complete with `cause`, entry 63 as `done`. -/
def handles (done : Bool) (cause : BitVec 8) : State :=
  (((regs [(6, 0x8001), (8, 8192 * 0x10000)]).setH 0 0x803F).setH 15 0x8001).updCore fun c => { c with futs :=
    [(1, { Future.zero with used := true, complete := true, cause := cause }), (63, { Future.zero with used := true, complete := done })] }
/-- The same with the card of entry 63 in the copy ring. -/
def handlesWith (running : Bool) : State :=
  (handles false 0).updCore fun c => { c with cpRing := [{ blankCard with slot := 63, running := running }] }
theorem witness_FutureResults : (handles true 0).ready [.x 31, .h 0] ∧ (handles true 0).ready [.x 5, .x 6] ∧
    (∀ g r, (handles true 0).me.wait ≠ .fut g (some r)) ∧ (handles true 0).core.liveFut ((handles true 0).hr 1) = none ∧
    ((handles true 0).core.liveFut ((handles true 0).hr 0)).map Prod.fst = some 63 ∧
    ((handles true 0).core.liveFut ((handles true 0).hr 0)).map (fun p => p.2.complete) = some true ∧
    ((handles true 0).core.liveFut ((handles true 0).hr 0)).map (fun p => p.2.cause) = some 0 ∧
    ((handles false 5).core.liveFut ((handles false 5).hr 0)).map (fun p => p.2.complete) = some false ∧
    ((handles false 5).core.liveFut ((handles false 5).hr 15)).map (fun p => (p.2.complete, p.2.cause)) = some (true, 5) ∧
    ((handles false 0).core.cards.find? fun c => c.slot == 63) = none ∧
    ((handlesWith true).core.cards.find? fun c => c.slot == 63).map Card.running = some true ∧
    ((handlesWith false).core.cards.find? fun c => c.slot == 63).map Card.running = some false ∧
    (∀ k ∈ (handles true 0).core.cards, k.poster ≠ (handles true 0).ctx) := by
  unfold State.ready
  refine ⟨by decide, by decide, ?_, by decide, by decide, by decide, by decide, by decide, by decide, by decide, by decide, by decide, by decide⟩
  intro g r h
  rw [show (handles true 0).me.wait = .none by decide] at h
  cases h
theorem witness_FutureResults_any : (∀ m, m < 16 → ((handles false 0).xr 7).getLsbD m = false) ∧ ((handles false 0).xr 6).getLsbD 15 = true ∧
    ((handles false 0).core.liveFut ((handles false 0).hr 15)).map (fun p => p.2.complete) = some true ∧
    (handles false 0).core.limited = false ∧ (∀ m, m < 16 → ((handles false 0).xr 6).getLsbD m = true →
      ((handles false 0).core.liveFut ((handles false 0).hr (BitVec.ofNat 4 m))).any (fun p => m == 15 || !p.2.complete) = true) ∧
    ((handles false 0).xr 8).toNat / 2 ^ 16 = (handles false 0).cur ∧ ((handles false 0).xr 6).toNat / 2 ^ 16 ≠ (handles false 0).cur := by
  decide

/-- Barrier 47 with these fields. -/
def barred (v : Barrier) : State := (regs [(6, 255), (7, 256)]).updCore fun c => { c with bars := [(47, v)] }
/-- Three of four arrivals, and barrier 47 as another context sleeps on it, or as context 0 waits. -/
def three : Barrier := { Barrier.zero with exp := 4, arr := 3 }
def slept : State := (barred three).updCore fun c => { c.setCtx 10 { Ctx.empty with st := .live, wait := .bar 47 false } with partw := 11 }
def barWaits (w : Bool) : State := (barred three).setWait (.bar 47 w)
/-- Context 0 has a mark: it has arrived in the phase before this one, or in this one, or has dropped. -/
def marked (aph drop : Bool) : State := (barred three).updMe fun x =>
  { x with pend := setBit x.pend 47, aph := if aph then setBit x.aph 47 else x.aph, dropped := if drop then setBit x.dropped 47 else x.dropped }
theorem witness_BarrierResults : (barred three).ready [.b 47, .x 6] ∧ ((barred three).barAt 8192 47).mem = 0 ∧
    ((barred three).barAt 8192 47).want = 0 ∧ (barred three).me.bans = none ∧
    (slept.core.ctxAt 10).sleepsOn 47 = true ∧ ((barred three).core.liveCtxs = [0] ∧ ((barred three).core.ctxAt 0).sleepsOn 47 = false) ∧
    255 < ((barred three).xr 7).toNat ∧ ((barred three).xr 6).toNat ≤ 255 ∧
    (3 : Word).toNat < ((barred { three with barr := 4 }).barAt 8192 47).barr.toNat ∧
    ((barred { three with barr := 4 }).barAt 8192 47).barr.toNat ≤ (4 : Word).toNat ∧
    (marked false true).me.isDropped 47 = true ∧ ((marked false false).me.isPend 47 = true ∧ (marked false false).me.isAph 47 = false) ∧
    ((barred { three with arr := 4 }).barAt 8192 47).arr = ((barred { three with arr := 4 }).barAt 8192 47).exp ∧
    (barWaits true).me.wait = .bar 47 true ∧ (barWaits false).me.wait = .bar 47 false ∧
    ((marked true false).me.isAph 47 ≠ ((marked true false).barAt 8192 47).phase ∧ (marked true false).me.wait = .none) ∧
    ((barred Barrier.zero).barAt 8192 47).arr = ((barred Barrier.zero).barAt 8192 47).exp ∧
    ((barred Barrier.zero).barAt 8192 47).barr = ((barred Barrier.zero).barAt 8192 47).bexp := by
  unfold State.ready; decide
/-- Nobody sleeps on barrier 47, and context 0 may arrive. -/
theorem witness_BarrierResults_free : (¬∃ j, j < 11 ∧ ((barred three).core.ctxAt j).sleepsOn 47 = true) ∧
    (barred three).me.isDropped 47 = false ∧ (barred three).me.isPend 47 = false ∧
    ((barred three).barAt 8192 47).arr ≠ ((barred three).barAt 8192 47).exp := by
  decide

/-- Barrier 47 linked between cores 8192, which holds it, and 8193; core `k` executes. -/
def linkedBar (k : Nat) (a : Option BarAns) : State :=
  let c := { (barred { three with mem := 3, link := 3 }).core with hstat := .running }
  { barred three with
    cur := k, cores := [(8192, c), (8193, c.setCtx 0 { c.ctxAt 0 with bans := a, wait := if a.isNone then .none else .other })] }
theorem witness_BarrierResults_linked : (linkedBar 8192 none).ready [.b 47] ∧ ((linkedBar 8192 none).barAt 8192 47).want = 0 ∧
    (linkedBar 8192 none).barHolder 8192 47 = 8192 ∧ ((linkedBar 8192 none).barAt 8192 47).mem ≠ 0 ∧ (linkedBar 8192 none).me.bans = none := by
  unfold State.ready; decide
/-- The other member sends its event, awaits the answer, or has one; a core whose link is pending. -/
theorem witness_BarrierWakeAndLink_sends : (linkedBar 8193 none).ready [.b 47, .x 6] ∧ (linkedBar 8193 none).me.bans = none ∧
    ((linkedBar 8193 none).barAt 8193 47).want = 0 ∧ (linkedBar 8193 none).barHolder 8193 47 ≠ 8193 ∧
    ((linkedBar 8193 none).coreAt 8192).hstat = .running ∧ (linkedBar 8193 none).outbound 8193 < 32 ∧
    (∀ a ∈ [BarAns.sent, .ok 1, .bad 0x40 47], (linkedBar 8193 (some a)).me.bans = some a) ∧
    ((barred { three with want := 3 }).barAt 8192 47).want ≠ 0 := by unfold State.ready; decide
theorem witness_CoreEvents_linked :
    let s : State := { linkedBar 8192 (some .sent) with barq := [(8192, .bar 47 8193 0 BarFn.arrive.code 0)] }
    (s.coreAt (s.barHolder 8193 47)).active = true ∧ s.linkPending 8193 47 = false ∧ 8193 ∈ s.barMembers 8193 47 ∧
      ((s.coreAt 8193).ctxAt 0).bans = some .sent ∧ ((s.coreAt 8193).ctxAt 0).wait = .other := by decide

/-- A core of a device, to give the mask of core 8192 alone, of others, and none. -/
theorem witness_BarrierWakeAndLink : slept.ready [.b 47] ∧ (slept.barAt 8192 47).mem = 0 ∧ (slept.barAt 8192 47).want = 0 ∧ slept.me.bans = none ∧
    slept.me.isDropped 47 = false ∧ slept.me.isPend 47 = false ∧ (slept.barAt 8192 47).arr ≠ (slept.barAt 8192 47).exp ∧
    (slept.barAt 8192 47).arr + 1 = (slept.barAt 8192 47).exp ∧ (slept.barAt 8192 47).barr = (slept.barAt 8192 47).bexp ∧
    10 ≠ slept.ctx ∧ (slept.core.ctxAt 10).sleepsOn 47 = true ∧ (regs [(6, 1)]).ready [.b 47, .x 6] ∧ (regs [(6, 1)]).xr 5 = 0 ∧
    ((regs [(6, 2)]).xr 6 ≠ 0 ∧ ((regs [(6, 2)]).xr 6).getLsbD 0 = false) ∧ 2 ^ 16 ≤ ((regs [(6, 0x10001)]).xr 6).toNat ∧
    ((regs [(6, 3)]).barLinkTo 8192 47 3).isSome = true ∧ coreExists 8193 = true ∧ (regs [(6, 3)]).holderOf 8193 = (regs [(6, 3)]).holderOf 8192 ∧
    ((regs [(6, 3)]).barAt 8193 47).want ≠ 3 ∧ ((regs [(6, 3)]).barAt 8193 47).mem = 0 ∧
    (((regs [(6, 1)]).xr 6).toNat = 2 ^ (8192 % 16) ∧ coreExists 8192 = true) ∧ ((regs [(6, 1)]).barAt 8192 47).want = 0 ∧
    (∀ m, m < 16 → (((regs [(6, 1)]).barAt (8192 / 16 * 16 + m) 47).mem.getLsbD (8192 % 16) = false ∧
      ((regs [(6, 1)]).barAt (8192 / 16 * 16 + m) 47).want.getLsbD (8192 % 16) = false)) := by unfold State.ready; decide +kernel

/-- A core with a pod store of four rows, and its pod 63 in c0 with these kinds and COUNT; x6 names two rows, x7 none. -/
def podStore : State := ((regs [(6, 0x20001), (20, 7)]).setC 0 0x7F).updCore fun c => { c with partw := 0x41 }
def podOf (kinds count : Nat) : State := podStore.updCore fun c =>
  let c := { c with pods := [(63, ⟨true, 1, 3⟩)] }
  { c with pool := (c.pool.writeLE (128 * (c.podBase + 3) + 89) 1 kinds).writeLE (128 * (c.podBase + 3) + 90) 1 count }
/-- An attachment that pcapr.seg can name, in x8. -/
def podSeg : State := (podStore.setX 8 9).updCore fun c => { c with attach := [⟨9, true, 1, false, 100, 2, none⟩] }
theorem witness_PodCaptures : podStore.canonical ∧ State.reset.canonical := ⟨canonical_one 8192 _ rfl, canonical_reset⟩
theorem witness_PodCaptures_cases : podStore.me.loading = 0 ∧ podStore.ready [.c 15, .x 20, .x 6] ∧ podStore.core.freeSlot = some 0 ∧
    podStore.core.freeRun 3 = some 0 ∧ podStore.core.freeRun 1 = some 0 ∧ State.reset.core.freeRun 1 = none ∧
    (podStore.rowsRef (podStore.xr 6)).toOption.map PodRef.kind = some 1 ∧ (podSeg.segRef (podSeg.xr 8)).toOption.map PodRef.kind = some 2 ∧
    (match podStore.rowsRef (podStore.xr 7) with
      | .error (.trap c _) => c == Cause.POD_REF_INVALID
      | _ => false) = true := by unfold State.ready; decide +kernel
/-- A pod that passes the check and one whose reference dangles; a helper that is free, and none with room and without
room in the apply queue; COUNT 1 and 255, EXPORTED or not; a token of the core. -/
theorem witness_PodResults : (podOf 0 1).ready [.c 0, .c 15, .x 5, .x 6] ∧ (Use.x 1).loading (podOf 0 1).me = false ∧
    ((podOf 0 1).podCheck 8192 ((podOf 0 1).cr 0)).toOption.map Prod.fst = some 63 ∧
    ((podOf 8 1).podCheck 8192 ((podOf 8 1).cr 0)).isOk = false ∧ ((podOf 0 1).podCheck 8192 ((podOf 0 1).cr 1)).isOk = false ∧
    (podOf 0 1).core.freeHelper = none ∧
    ((podOf 0 1).updCore fun c => { c with partw := 0x4B }).core.freeHelper = some 1 ∧ (podOf 0 1).core.applyQ.length < 16 ∧
    16 ≤ ((podOf 0 1).updCore fun c => { c with applyQ := List.replicate 16 ⟨⟨0, 0, 0, []⟩, Cap.zero, true⟩ }).core.applyQ.length ∧
    (podOf 0 1).core.livePod 1 = none ∧ ((podOf 0 255).core.livePod 0x7F).map (fun p => (podOf 0 255).core.podCount p.2) = some 255 ∧
    ((podOf 0 1).core.livePod 0x7F).map (fun p => ((podOf 0 1).core.podExported p.2, (podOf 0 1).core.podVmask p.2, (podOf 0 1).core.podRkind p.2)) =
      some (false, 0, 0) ∧
    ((podOf 16 1).core.livePod 0x7F).map (fun p => (podOf 16 1).core.podExported p.2) = some true ∧
    (((podOf 0 1).setX 9 0x2000007F).xr 9).toNat / 2 ^ 16 = (podOf 0 1).cur ∧ ((podOf 0 1).xr 6).toNat / 2 ^ 16 ≠ (podOf 0 1).cur := by unfold State.ready; decide +kernel
/-- A core of the same holder that is installed and running, with room and without. -/
def podTarget (n : Nat) : State := ((podOf 0 1).setX 6 0).updCoreAt 0 fun c =>
  { c with installed := true, inbox := List.replicate n ⟨true, [], 0, 0⟩ }
theorem witness_PodResults_send : (podTarget 3).ready [.x 5, .c 0, .x 6] ∧ ((podTarget 3).xr 6).toNat = 0 ∧ coreExists 0 = true ∧
    (podTarget 3).holderOf 0 = (podTarget 3).holderOf (podTarget 3).cur ∧ ((podTarget 3).coreAt 0).installed = true ∧
    ((podTarget 3).coreAt 0).inbox.length + (podTarget 3).transit 0 < 4 ∧ ((podTarget 3).coreAt 0).hstat = .running ∧ (podTarget 3).outbound (podTarget 3).cur < 32 ∧
    4 ≤ ((podTarget 4).coreAt 0).inbox.length + (podTarget 4).transit 0 := by unfold State.ready; decide +kernel

/-- A task of all declarations on core 0.0.0, in a domain whose first 16 GiB are mapped (log 19). -/
def task : State := { State.reset.withFetchWord 32 0 with cur := 0, agenda := [] }
/-- x6 names segment 9, x7 a home, x8 is not aligned; rows from 512 on are undeclared. -/
def segTask (gs : List Seg) (as : List Attach) : State :=
  { ((((task.setX 6 9).setX 7 0x100000000).setX 8 0x100000001).updCore fun c =>
      { c with decla := word (c.decla.toNat - 512 * 2 ^ 32), attach := as }) with segs := gs }
def segOf (st : SegSt) (wr : Bool) : Seg :=
  { name := 9, dom := 0, core := 0, base := 900, count := 2, ver := 0, st := st, home := 0x100000000, cls := 2, term := 0, ro := 0, wr := wr,
    dirty := false, evp := false, drp := false, maker := none, launch := none, ts := 0, no := 7 }
def attOf (rw void : Bool) : Attach := ⟨9, rw, 0, void, 900, 2, if void then none else some 7⟩
/-- seg.make of `n` rows meets every check. -/
def segMakes (s : State) (n : Nat) : Bool :=
  match s.homePlaces .write (s.xr 7).toNat (List.range n) with
  | .ok (ps, v) => ps.all (fun q => !q.formatted) && (v.liveSeg 0 (s.xr 6)).isNone && decide (v.core.attach.length < v.core.segsDecl) &&
      decide (v.dirCount (dieOf v.cur) < 8192) && (v.findRows v.cur v.core.rowsDecl n v.core.rowsS).isSome
  | _ => false
theorem witness_SegmentResults_make : (segTask [] []).ready [.x 5, .x 6, .x 7] ∧ (segTask [] []).ready [.x 5, .x 6, .x 7, .x 8] ∧
    (segTask [] []).xr 5 = 0 ∧ ((segTask [] []).xr 8).toNat % 128 ≠ 0 ∧ ((segTask [] []).xr 7).toNat % 128 = 0 ∧
    2 ^ 32 ≤ ((segTask [] []).xr 7).toNat ∧ (segTask [] []).now < ((segTask [] []).xr 8).toNat ∧ segMakes (segTask [] []) 1 = true := by unfold State.ready; decide +kernel
theorem witness_SegmentResults_attach :
    (let s := segTask [segOf .resident true] [attOf true false]
     (s.core.attach.find? fun t => t.name == s.xr 6 && !t.void) = some (attOf true false) ∧
     (s.core.attach.find? fun t => t.name == s.xr 6 && !t.void && t.rw) = some (attOf true false) ∧ s.core.segBusy (attOf true false) = false ∧
     s.attachedSeg (attOf true false) = some (segOf .resident true) ∧ (segOf .resident true).live = true ∧
     (segOf .resident true).held = true) ∧
    (let s := segTask [] []
     (s.core.attach.find? fun t => t.name == s.xr 6 && !t.void) = none ∧ s.liveSeg 0 (s.xr 6) = none) ∧
    (∀ st ∈ [SegSt.making, .evicted, .resident], let s := segTask [segOf st false] []
      (s.core.attach.find? fun t => t.name == s.xr 6 && !t.void) = none ∧ s.liveSeg 0 (s.xr 6) = some (segOf st false) ∧
      (segOf st false).core = s.cur ∧ (∀ t ∈ s.core.attach, t.name ≠ s.xr 6) ∧ s.core.attach.length < s.core.segsDecl ∧
      (segOf st false).held = false ∧ (segOf st false).wr = false) ∧
    (let s := segTask [segOf .resident false] []
     let g := segOf .resident false
     let q := s.segStep g 0
     ((q.2.updSeg g { g with ts := q.1 }).evictSeg { g with ts := q.1 }).toOption.isSome = true) ∧
    (let s := segTask [] [attOf true true]
     (s.core.attach.find? fun t => t.name == s.xr 6) = some (attOf true true) ∧ (attOf true true).void = true ∧
     s.attachedSeg (attOf true true) = none) ∧
    (let s := segTask [segOf .resident false] [attOf false false]
     (s.core.attach.find? fun t => t.name == s.xr 6) = some (attOf false false) ∧ (attOf false false).rw = false ∧
     s.attachedSeg (attOf false false) = some (segOf .resident false)) := by decide +kernel

/-- Records that ibx.take finds: a pod message, and a task without an image. -/
def inboxOf (kind : Bool) : State := State.reset.updCore fun c => { c with inbox := [⟨kind, [0x100000000, 0, 0, 0, 255, 0, 1, 0], 0, 0⟩] }
/-- A task past its deadline, which is late or to be aborted. -/
def lateTask (abort : Bool) : State :=
  { (task.updCore fun c => { c with deadline := 1, flags := if abort then 0x8000 else 0 }) with fabric := 1 }
/-- A spawn queue of 16 records, and range units of die 0 that are all used. -/
def fullDie : State :=
  { task with spawns := [(0, List.replicate 16 ⟨[], 0, 0, 0, 0⟩)],
              ranges := (List.range 64).map fun u => (u, { Range.zero with used := true }) }
/-- x6 holds the handle of range unit 63 of die 0, with one item left. -/
def ranged : State := { task.setX 6 (0x10000 + 0x80 + 63) with ranges := [(63, ⟨true, 1, 1, 65535, 1, 1, none⟩)] }
theorem witness_TaskResults : task.ctx = 0 ∧ task.core.task = true ∧ ({ State.reset with ctx := 10 } : State).ctx ≠ 0 ∧
    State.reset.core.task = false ∧ State.reset.core.podMsg = false ∧ State.reset.core.inbox = [] ∧
    (inboxOf true).core.inbox.map Msg.kind = [true] ∧ (inboxOf false).core.inbox.map Msg.kind = [false] ∧
    ((inboxOf false).block 255).scratchLen = 0 ∧ task.ready [.x 31] ∧ task.core.endWaits = false ∧ task.pastDeadline task.cur = false ∧
    ((lateTask false).pastDeadline 0 = true ∧ (lateTask false).core.abortSet = false ∧ (lateTask false).core.endWaits = false) ∧
    ((lateTask true).pastDeadline 0 = true ∧ (lateTask true).core.abortSet = true) ∧ task.ready [.x 5, .x 2] ∧ task.taskLaunch task.cur = none ∧
    task.padOk true false false (task.xr 6) 128 ∧ (task.setX 2 130944).padOk true false false ((task.setX 2 130944).xr 2) 128 ∧
    (task.spawnQ (dieOf task.cur)).length < 16 ∧ ¬(fullDie.spawnQ (dieOf fullDie.cur)).length < 16 := by
  unfold State.ready State.padOk; decide +kernel
theorem witness_TaskResults_ranges : ranged.ready [.x 5, .x 6, .x 6, .x 6] ∧ ((2 ^ 40 - 1 : Nat) < 2 ^ 40 ∧ (65535 : Word) ≠ 0) ∧
    (∀ u, u < 64 → (fullDie.rangeAt (dieOf fullDie.cur * 64 + u)).used = true) ∧ (∃ u, u < 64 ∧ (ranged.rangeAt (dieOf ranged.cur * 64 + u)).used = false) ∧
    ranged.rangeOf (ranged.xr 6) = some (63, ⟨true, 1, 1, 65535, 1, 1, none⟩) ∧ ranged.rangeOf (ranged.xr 5) = none := by
  unfold State.ready; decide +kernel

/-- A gang of cores 0 and 1: position of the executing core, formed or not. -/
def ganged (pos : Nat) (formed : Bool) : State :=
  let c (p : Nat) : Core := { Core.empty with
    flags := word (0x1000 + 0x100 * p), gformed := formed, gattached := formed, gfollowed := !formed, task := true }
  { State.reset with cur := pos, cores := [(0, c 0), (1, c 1)] }
theorem witness_TaskResults_gangs : (ganged 0 true).core.gsize ≠ 0 ∧ (ganged 0 true).core.gleft = false ∧ (ganged 0 true).core.gpos = 0 ∧
    (ganged 1 true).core.gpos ≠ 0 ∧ (ganged 0 true).core.gformed = true ∧ (ganged 1 true).core.gattached = true ∧
    (ganged 0 false).core.gformed = false ∧ (ganged 0 false).followers 0 = [1] ∧
    (∀ n ∈ (ganged 0 false).gangPlaces 0, n = 0 ∨ ((ganged 0 false).gangMate 0 n = true ∧ ((ganged 0 false).coreAt n).gfollowed = true)) ∧
    (ganged 0 true).me.wait ≠ .gang ∧ (∀ n ∈ (ganged 0 true).followers 0, ((ganged 0 true).coreAt n).gattached = true) ∧
    task.core.gsize = 0 := by decide +kernel

/-- Core 0 and domain 7 are held by OID 2, whose sponsor is OID 1; OID 3 is live and sponsored by OID 1. x6 names domain 7, x7
is OID 3, x8 a tick, x9 a region of HBM that OID 2 holds, x10 no resource, x11 core 0, x12 OID block 1, x13 a counter. -/
def entryOf2 (cls i : Nat) (loans : List Loan) (offer : Option Offer) : Entry :=
  { cls := cls, aux := 0, lo := i, hi := i + 1, owner := 2, loans := loans, recalling := false, offer := offer, gen := 0, xid := 0, ts := 0 }
def owned (e : Entry) : State :=
  { regs [(6, 0x4000000000000007), (7, 3), (8, 0xFFFF), (9, 0x2000001000000000), (10, 0xF000000000000000), (12, 0x9000000000000001),
      (13, 0x6000000000000000)] with
    cur := 0, endowed := true, oids := [(2, ⟨1, none⟩), (3, ⟨1, none⟩)]
    cores := [(0, (regs [(6, 0x4000000000000007), (7, 3), (8, 0xFFFF), (9, 0x2000001000000000), (10, 0xF000000000000000), (12, 0x9000000000000001),
      (13, 0x6000000000000000)]).core)]
    entries := [entryOf2 cCore 0 [] none, { entryOf2 cMem 0 [] none with lo := 2 ^ 33, hi := 2 ^ 33 + 2 ^ 21, xid := 1 }, e,
      { entryOf2 cOid 1 [] none with lo := 1, hi := 2 }] }
/-- A domain that OID 2 holds, on no terms, offered, or lent by it. -/
def plain7 : Entry := entryOf2 cDomain 7 [] none
def offered (target : Nat) : Entry := entryOf2 cDomain 7 [] (some ⟨target, false, false, 0, 0, false, 0, [(7, 8)]⟩)
def lent (recalled due rc : Bool) : Entry := entryOf2 cDomain 7 [⟨2, 3, 5, 0, rc, recalled, 0, due, 0, false⟩] none
def res7 : Res := ⟨cDomain, 0, 7, 8⟩
theorem witness_OwnershipResults : (owned plain7).me.storing = false ∧ (owned plain7).me.wait ≠ .done ∧ Res.ofName ((owned plain7).xr 10) = none ∧
    (owned plain7).ready [.x 5, .x 6, .x 7, .x 8, .x 9, .x 10] ∧ Res.ofName ((owned plain7).xr 6) = some res7 ∧ (owned plain7).oid = 2 ∧
    (owned plain7).entryBusy res7 = false ∧ (owned plain7).badTarget ((owned plain7).xr 7) = false ∧
    ((owned plain7).heldEntry ((owned plain7).xr 6) res7).toOption = some plain7 ∧ plain7.offer = none ∧ plain7.loans = [] ∧
    (owned plain7).pendingTo 3 < 256 ∧ (owned plain7).defunct res7 = false ∧
    ¬((owned plain7).oids.any (fun p => p.1 == 3 && p.2.sponsor == (owned plain7).oid) = true ∧ (owned plain7).holdsCore 3 = false) ∧
    res7.cls ≠ cCore ∧ (owned plain7).huskHeld 2 ((owned plain7).xr 9) = true ∧ (owned plain7).now < ((owned plain7).xr 8).toNat ∧
    ((owned plain7).splitTo 0 (offered 3)).toOption.isSome = true := by unfold State.ready; decide +kernel
theorem witness_OwnershipResults_accept : (owned plain7).offerAt res7 = none ∧
    (owned (offered 2)).offerAt res7 = some (offered 2, ⟨2, false, false, 0, 0, false, 0, [(7, 8)]⟩) ∧
    (owned (offered 3)).offerAt res7 = some (offered 3, ⟨3, false, false, 0, 0, false, 0, [(7, 8)]⟩) ∧ (owned (offered 2)).touching 2 res7 = false ∧
    (offered 3).holder = (owned (offered 3)).oid ∧ ((owned plain7).setWait .done).me.wait = .done ∧
    ({ owned plain7 with entries := [{ entryOf2 cCore 0 [] none with owner := 0xFFFF }] } : State).defunct ⟨cCore, 0, 0, 1⟩ = true := by decide +kernel
/-- OID 1 gives a domain of its own; OID 2 gives to an OID that it sponsors, or back to its lender; a full stack of loans. -/
theorem witness_OwnershipResults_gives :
    (let s : State := { (task.setX 6 0x4000000000000007).setX 7 3 with oids := [(3, ⟨1, none⟩)] }
     let en := Entry.dflt true cDomain 0 7 8
     s.oid = 1 ∧ s.me.storing = false ∧ s.entryBusy res7 = false ∧ s.badTarget (s.xr 7) = false ∧ (s.heldEntry (s.xr 6) res7).toOption = some en ∧
       en.loans = [] ∧ en.offer = none ∧ s.pendingTo 3 < 256) ∧
    (let s : State := { owned plain7 with oids := [(2, ⟨1, none⟩), (3, ⟨2, none⟩)] }
     let o : Offer := ⟨3, false, false, 0, 0, false, 0, [(7, 8)]⟩
     (s.heldEntry (s.xr 6) res7).toOption = some plain7 ∧ s.oids.any (fun p => p.1 == 3 && p.2.sponsor == s.oid) = true ∧ s.holdsCore 3 = false ∧
       s.touching 2 res7 = false ∧ (s.splitTo 0 { plain7 with offer := some o }).toOption.isSome = true) ∧
    (let e : Entry := { entryOf2 cDomain 7 [⟨1, 2, 5, 0, true, false, 0, false, 0, false⟩] none with owner := 1 }
     let s := (owned e).setX 7 1
     (s.heldEntry (s.xr 6) res7).toOption = some e ∧ s.badTarget (s.xr 7) = false ∧ (s.xr 7).toNat = 1 ∧
       (s.splitTo 0 (s.unlent e 0 true)).toOption.isSome = true) ∧
    (owned plain7).badTarget 0 = true ∧ ((owned (entryOf2 cDomain 7 [⟨2, 3, 5, 0, true, false, 0, false, 0, false⟩] none)).heldEntry 7 res7).isOk = false ∧
    (let l : Loan := ⟨1, 2, 5, 0, true, false, 0, false, 0, false⟩
     ((owned (entryOf2 cDomain 7 [l, l, l] none)).heldEntry 7 res7).isOk = true) ∧
    (let s : State := { owned plain7 with oids := (List.range 256).map fun i => (256 + i, ⟨1, none⟩) }
     ∀ i ∈ List.range 256, s.oidLive (256 + i) = true) := by decide +kernel
/-- Core 0 lent by OID 2 to OID 3, due, running or stopped; core 1, which executes, is held by OID 2. -/
def coreLent (h : HState) : State :=
  let s := owned plain7
  { s with
    cur := 1, cores := [(0, { Core.empty with hstat := h }), (1, s.core)]
    entries := entryOf2 cCore 0 [⟨2, 3, 5, 0, false, false, 0, true, 0, false⟩] none :: entryOf2 cCore 1 [] none :: s.entries.drop 1 }
theorem witness_OwnershipResults_cores : (coreLent .running).ready [.x 5, .x 11] ∧ (coreLent .running).oid = 2 ∧ Res.ofName ((coreLent .running).xr 11) = some ⟨cCore, 0, 0, 1⟩ ∧
    ((coreLent .running).entryFor ⟨cCore, 0, 0, 1⟩).bind (fun e => e.lentBy 2) = some 0 ∧ (coreLent .running).entryBusy ⟨cCore, 0, 0, 1⟩ = false ∧
    ((coreLent .running).coreAt 0).stopped = false ∧ ((coreLent .valid).coreAt 0).stopped = true ∧
    ((owned plain7).entryFor res7).bind (fun e => e.lentBy 2) = none := by unfold State.ready; decide +kernel
theorem witness_OwnershipResults_loans : Res.ofName ((owned plain7).xr 13) = some ⟨cCounter, 0, 0, 1⟩ ∧
    (owned (lent false false true)).entryFor res7 = some (lent false false true) ∧ (lent false false true).lentBy 2 = some 0 ∧
    (lent false false true).loans[0]? = some ⟨2, 3, 5, 0, true, false, 0, false, 0, false⟩ ∧
    ((owned (lent false false true)).splitTo 0 { lent true false true with recalling := true }).toOption.isSome = true ∧
    (let s := owned (lent false true false)
     let st := s.mapStep (lent false true false)
     (st.2.splitTo (s.xr 6) { st.2.unlent st.1 0 false with gen := st.1.gen + 1 }).toOption.isSome = true) ∧ (owned (lent false false true)).oidLive 3 = true ∧
    (owned (lent true false true)).entryFor res7 = some (lent true false true) ∧
    (owned (lent false true false)).entryFor res7 = some (lent false true false) ∧
    (owned (lent false false false)).entryFor res7 = some (lent false false false) ∧
    ({ owned plain7 with entries := [{ entryOf2 cMem 0 [] none with lo := 64, hi := 128 }] } : State).entryFor ⟨cMem, 0, 0, 128⟩ = none := by
  decide +kernel
/-- OID block 1 has OID 256 free first; core 0 is kept by its holder; KCAUSE, CORE and no name beyond. -/
theorem witness_OwnershipResults_others : Res.ofName ((owned plain7).xr 12) = some ⟨cOid, 0, 1, 2⟩ ∧ (owned plain7).usesOne 2 cOid 1 = true ∧
    (256 / 256 = 1 ∧ 1 < 256 ∧ 256 < 0xFFFF ∧ (owned plain7).oidLive 256 = false ∧ (owned plain7).oidNamed 256 = false) ∧
    Res.ofName ((owned plain7).xr 11) = some ⟨cCore, 0, 0, 1⟩ ∧ (owned plain7).isKeeper 2 0 = true ∧
    ((owned plain7).keeperRead 2 0 0 0x100).isSome = true ∧ ((owned plain7).keeperRead 2 0 0 0x10B).isNone = true ∧ coreScope 0x010 = false ∧ coreScope 0x100 = true ∧
    ((owned plain7).keeperWrite 2 0 15 0x010 1).isOk = true ∧ (((owned plain7).countFirst 0 15 true).keeperWrite 2 0 0 0x04F 1).isOk = true ∧ task.oid = 1 ∧ (owned plain7).cr 0 = 0 ∧ (podOf 16 1).cr 0 ≠ 0 ∧
    ((podOf 16 1).core.livePod ((podOf 16 1).cr 0)).map (fun p => (podOf 16 1).core.podExported p.2) = some true ∧
    podStore.cr 0 ≠ 0 ∧ podStore.core.livePod (podStore.cr 0) = none := by decide +kernel

/-- OID 1 holds every domain and queue; domain 4095 is in use; slot 1023 is a launch slot and slot 0 a completion slot of function 63. -/
def hosted : State :=
  { State.reset with
    endowed := true, domains := [(4095, { Domain.zero with pstate := 1, pasid := 1 })]
    funcs := [(63, { Func.zero with oid := 1 })]
    qslots := [(0, { QSlot.zero with completion := true, enable := true, func := 63, fidx := 63, queue := 1, tail := 1 }),
      (1023, { QSlot.zero with enable := true, func := 63, fidx := 0, logn := 1 })] }
theorem witness_ControlSpaceEvents : hosted.oidLive 1 = true ∧ (owned plain7).oidLive 2 = true ∧ hosted.usesOne 1 cDomain 4095 = true ∧ (hosted.domainAt 4095).pstate = 1 ∧ (hosted.domainAt 0).pstate = 0 ∧
    ({ hosted with entries := [entryOf2 cDomain 4095 [] none] } : State).usesOne 2 cDomain 4095 = true ∧
    hosted.attesting = false ∧ hosted.attest.wf = true ∧ hosted.holdsOne 1 cQueue (hosted.qslotAt 1023).queue.toNat = true ∧ hosted.usesOne 1 cQueue (hosted.qslotAt 1023).queue.toNat = true ∧
    (hosted.qslotAt 1023).completion = false ∧ ((2 : BitVec 32) - (hosted.qslotAt 1023).head).toNat ≤ 2 ^ (hosted.qslotAt 1023).logn.toNat ∧
    2 ^ (hosted.qslotAt 1023).logn.toNat < ((3 : BitVec 32) - (hosted.qslotAt 1023).head).toNat ∧
    (hosted.ctlWrite 1 0xF000000000 [1]).isSome = true ∧ (hosted.ctlWrite 2 0xF000000000 [1]).isSome = false := by decide +kernel
theorem witness_ControlSpaceEvents_bells :
    (hosted.qslots.find? fun p => p.2.enable && p.2.func.toNat == 63 && p.2.fidx.toNat == 63).map Prod.fst = some 0 ∧
    (hosted.qslots.find? fun p => p.2.enable && p.2.func.toNat == 63 && p.2.fidx.toNat == 0).map Prod.fst = some 1023 ∧ hosted.bound 63 = some 1 ∧
    (hosted.qslotAt 0).completion = true ∧ ((hosted.qslotAt 0).tail - 1).toNat ≤ 2 ^ (hosted.qslotAt 0).logn.toNat := by decide +kernel

/-- A device with a window of function 0 into domain 0, where the first 16 GiB are mapped, and its port 0 bound. -/
def linked : State :=
  { task with funcs := [(0, { Func.zero with oid := 1, wva := 0x100000000 })], sent := [] }
/-- A context of core 0 whose peer has not answered for 60,000 ticks. -/
def lateRead : State := { State.reset.updCoreAt 0 fun c => c.setCtx 0 { Ctx.empty with ext := some ⟨true, 0, 0, 0, none⟩ } with fabric := 60000 }
theorem witness_HostEvents : ({ State.reset with stage := 4 } : State).stage = 4 ∧ 8192 ∉ [0, 8191] ∧
    (∃ s : State, s.recovery = true ∧ s.stage = 3 ∧ s.mbpend = true ∧ s.holderOf 8192 ≠ 0xFFFF) ∧ 8192 ∈ [8192] ∧ imageOk State.reset.mem = false ∧ linked.romWindow 0 0 8 = false ∧
    linked.window 0 0 8 = some (0, 0x100000000) ∧ (linked.lineReads 0 (lineParts 9 0x100000000 8)).isSome = true ∧
    (linked.lineWrites 0 (lineParts 3 0x100000000 2) [1, 2]).isSome = true ∧ linked.window 1 0 8 = none ∧
    (linked.peerRead 11 0x100000000 8).isSome = true ∧ (linked.peerWrite 0 0x100000000 [1]).isSome = true ∧ (linked.peerRead 0 0x5968300000 8).isSome = false ∧
    ((lateRead.coreAt 0).ctxAt 0).peerLate lateRead.now = true ∧ (hosted.domainAt 4095).atsOut = 0 ∧
    (({ Domain.zero with atsOut := 1 } : Domain).atsOld = 0 ∧ ({ Domain.zero with atsOld := 1 } : Domain).atsOut = 0) ∧
    ({ Domain.zero with pstate := 2 } : Domain).atsOut = 0 ∧ ({ Domain.zero with ldStatus := 0xFFFF } : Domain).ldStatus = 0xFFFF ∧
    (State.reset.visible 0 = true ∧ ({ State.reset with stage := 5 } : State).visible 63 = true ∧ hasVec 63 63 = true ∧ hasVec 0 2047 = true) := by
  refine ⟨by decide, by decide, ⟨{ State.reset with recovery := true, stage := 3, mbpend := true }, rfl, rfl, rfl, by decide +kernel⟩, by decide, ?_, ?_⟩ <;>
    decide +kernel
/-- A slot whose hold-off has passed; a peer's exchange of bytes that it reads and writes. -/
theorem witness_HostEvents_more : (({ State.reset with qslots := [(0, { QSlot.zero with enable := true, completion := true, p := 1 })], fabric := 0xFFFFFFFF } : State).qslotAt
      0).holdoffDue 0xFFFFFFFF = true ∧ 0x100000000 % 8 = 0 ∧ (amoNew .swap 64 0 1 0).1 = some 1 := by decide +kernel

/-- A context and a card that wait for the host in domain 7. -/
def atsWait : State :=
  { State.reset with
    domains := [(7, { Domain.zero with atsOut := 2, pstate := 1 })]
    cores := [(0, { Core.empty with
      ctxs := [(0, { Ctx.empty with ext := some ⟨false, 7, 0, 0, none⟩ })], mxRing := [{ blankCard with ext := some ⟨false, 7, 0, 0, none⟩ }] })] }
theorem witness_HostEvents_ats : (atsWait.domainAt 7).atsOld = 0 ∧ (atsWait.domainAt 7).atsOut ≠ 0 ∧
    atsWait.atsWaiters 7 = [.ctx 0 0, .card 0 false 0] ∧ ((atsWait.coreAt 0).ctxAt 0).ext = some ⟨false, 7, 0, 0, none⟩ ∧
    (∃ q ∈ (atsWait.coreAt 0).ring false, q.seq = 0 ∧ q.ext = some ⟨false, 7, 0, 0, none⟩) ∧
    State.reset.atsWaiters 7 = [] := by decide

/-- A launch of `total` tasks of gangs of `2 ^ g`, of which `next` have been expanded. -/
def launchOf (g total next : Nat) : Launch :=
  { entry := 0, args := 0, deadline := 5, partw := 1, seghint := 0, widths := [1, 0, 0, 0, 0, 0], counts := [2, 1, 1, 1, 1, 1], cq := 0xFFFF, tag := 0,
    lflags := word (0x1000 * g), prio := 0, fps := [], domain := 0, decla := 0, declb := 0, prof := 0, scratch := 0, scratchLen := 0, total := total,
    next := next, dies := [], last := [], status := 0, invcode := 0, completed := 0, late := 0, faulted := 0, flags := 0, seq := 1, logMode := 0,
    logBase := 0, logLen := 0, logNo := 0, logSeq := [], pts := 0, cpts := 0, doneAt := none, wrote := none }
def nodeOf (id pos : Nat) (ended : Option Bool) : PoolNode :=
  { id := id, die := 0, slot := 255, pos := pos, st := .ready, edges := [], readyAt := 0, core := 0, ended := ended, pts := 0 }
/-- A queue slot that the fetcher serves, whose ring its domain maps or not. -/
def fetching (dom : BitVec 16) : State :=
  { task with qnext := 1023, qslots := [(1023, { QSlot.zero with enable := true, ring := 0x100000000, tail := 1, dom := dom })] }
/-- Launch slot 255 holds a launch; its nodes stand in the pool of die 0, and core 0 idles. -/
def launched (l : Launch) (ns : List PoolNode) (now : Word) : State :=
  { task with
    slots := [(255, l)], pool := ns, fabric := now
    cores := [(0, { Core.empty with ctxs := [(0, { Ctx.empty with st := .live, wait := .inbox })] })] }
/-- The slot as the fetch reads it. -/
def slotRead (dom : BitVec 16) : BitVec 64 × State := ({ fetching dom with qnext := 0 } : State).stampReads [slotBlock 1023 / 128] 0
theorem witness_LaunchEvents : (fetching 0).endowed = true ∧
    ((List.range 1024).map fun k => ((fetching 0).qnext + k) % 1024).find? (fetching 0).fetchable = some 1023 ∧
    ((List.range 1024).map fun k => ((fetching 1).qnext + k) % 1024).find? (fetching 1).fetchable = some 1023 ∧
    ((slotRead 0).2.unitReadAt 0 0x100000000 128 (slotRead 0).1).isSome = true ∧ ((slotRead 1).2.unitReadAt 1 0x100000000 128 (slotRead 1).1).isSome = false ∧
    fullDie.spawnQ 0 ≠ [] ∧ fullDie.slotFree = true ∧ (launchOf 0 2 1).next < (launchOf 0 2 1).total ∧
    (launched (launchOf 0 2 1) [] 0).dieFor (launchOf 0 2 1) = 0 ∧
    (launched (launchOf 0 2 1) [] 0).expandNext 0 = some (255, launchOf 0 2 1) ∧ (launched (launchOf 0 2 1) [] 0).poolPhase 0 = 0 ∧ (nodesOf (launched (launchOf 0 2 1) [] 0) 0).length < poolSize ∧
    (launched (launchOf 0 2 2) [nodeOf 3 0 (some true)] 0).pool.find? (fun m => m.id == 3) = some (nodeOf 3 0 (some true)) ∧
    (launched (launchOf 0 2 2) [nodeOf 3 0 none] 5).nodeLate (nodeOf 3 0 none) = true ∧
    (((launched (launchOf 0 2 2) [nodeOf 3 0 none] 4).unitOrder 0).findSome? fun n =>
      (launched (launchOf 0 2 2) [nodeOf 3 0 none] 4).tryUnit 0 n).isSome = true := by
  decide +kernel
/-- An ended node that failed; a READY node of a launch without a log, whose domain has credit, and the core that it gets. -/
theorem witness_LaunchEvents_place :
    (let s := launched (launchOf 0 2 2) [nodeOf 3 0 (some false)] 0
     s.pool.find? (fun m => m.id == 3) = some (nodeOf 3 0 (some false)) ∧ s.poolPhase 0 = 0) ∧
    (let s := launched (launchOf 0 2 2) [nodeOf 3 0 none] 4
     s.unitOrder 0 = [nodeOf 3 0 none] ∧ s.launchAt 255 = some (launchOf 0 2 2) ∧ s.readyUnit (nodeOf 3 0 none) = some [nodeOf 3 0 none] ∧
     (launchOf 0 2 2).logMode ≠ 2 ∧ s.bucketEmpty 0 = false ∧ (s.entryOf cDomain 0).ended = false ∧ s.nodeLate (nodeOf 3 0 none) = false ∧
     s.placeUnit 0 (launchOf 0 2 2) [nodeOf 3 0 none] = some [0]) := by decide +kernel
/-- A gang that has waited for 2^20 ticks for cores. -/
def starved : State := launched (launchOf 1 2 2) [nodeOf 3 0 none, nodeOf 4 1 none] 0x100000
theorem witness_LaunchEvents_gang : starved.drains = [] ∧ starved.unitOrder 0 = [nodeOf 3 0 none] ∧ starved.launchAt 255 = some (launchOf 1 2 2) ∧
    (launchOf 1 2 2).gsize ≠ 0 ∧ (starved.readyUnit (nodeOf 3 0 none)).map unitReady = some 0 ∧ 0 + 2 ^ 20 ≤ starved.now ∧
    (∀ k, k < 16 → starved.canRun (launchOf 1 2 2) (16 * (64 * 0 + 1) + k) = true) ∧ 2 ^ (launchOf 1 2 2).gsize ≤ 16 ∧
    (starved.drainFor 0).isSome = true := by decide +kernel
/-- Words at a cluster and at the root; a launch whose tasks have all counted, without a queue and with one that has room. -/
def counted (node : Nat) : State := { launched (launchOf 0 2 2) [] 0 with words := [⟨255, node, 2, 0, 0, 0, 0, 0⟩] }
def doneLaunch (cq : Nat) : Launch := { launchOf 0 2 2 with doneAt := some 7, cq := cq }
def fullRing : State := { launched (doneLaunch 9) [] 0 with
  qslots := [(3, { QSlot.zero with enable := true, completion := true, queue := 9, ring := 0x100000000, tail := 1 })] }
def recording : State := { launched (doneLaunch 9) [] 0 with
  qslots := [(3, { QSlot.zero with enable := true, completion := true, queue := 9, ring := 0x100000000 })] }
theorem witness_LaunchEvents_end : (∃ w ∈ (counted 1023).words, (w.slot == 255 && w.node == 1023) = true) ∧
    (∃ w ∈ (counted 1024).words, (w.slot == 255 && w.node == 1024) = true) ∧ (counted 1024).launchAt 255 = some (launchOf 0 2 2) ∧
    (launched (doneLaunch 0xFFFF) [] 0).launchAt 255 = some (doneLaunch 0xFFFF) ∧ (doneLaunch 9).doneAt = some 7 ∧ (doneLaunch 9).cq ≠ 0xFFFF ∧
    recording.launchAt 255 = some (doneLaunch 9) ∧
    (recording.landExt fun w => w.launch == some 1).slots = [(255, doneLaunch 9)] ∧
    (recording.landExt fun w => w.launch == some 1).qslots = recording.qslots ∧
    (recording.qslots.find? fun p => p.2.enable && p.2.completion && p.2.queue.toNat == (doneLaunch 9).cq).map Prod.fst = some 3 ∧
    ((recording.qslotAt 3).tail - (recording.qslotAt 3).head).toNat ≠ 2 ^ (recording.qslotAt 3).logn.toNat ∧ (recording.qslotAt 3).thresh = 0 ∧
    ((recording.landExt fun w => w.launch == some 1).unitWriteAt 0 0x100000000 ((doneLaunch 9).completion recording.now) 0).isSome = true ∧
    ((fullRing.qslotAt 3).tail - (fullRing.qslotAt 3).head).toNat = 2 ^ (fullRing.qslotAt 3).logn.toNat ∧ (fullRing.qslotAt 3).full = false := by
  decide +kernel

/-- A launch whose record has been written, for a slot with THRESH 0, 1 and 2. -/
theorem witness_LaunchEvents_wrote : ∀ th ∈ [(0 : Nat), 1, 2],
    let l : Launch := { doneLaunch 9 with wrote := some ⟨3, 7, 0⟩ }
    let s : State := { launched l [] 0 with qslots := [(3, { QSlot.zero with enable := true, completion := true, queue := 9, thresh := BitVec.ofNat _ th })] }
    s.launchAt 255 = some l ∧ l.wrote = some ⟨3, 7, 0⟩ ∧ ((s.qslotAt 3).thresh = 0 ∨ (s.qslotAt 3).p + 1 < (s.qslotAt 3).thresh.toNat ∨
      (s.qslotAt 3).thresh.toNat ≤ (s.qslotAt 3).p + 1) := by decide +kernel

/-- Core 0 with a card that has not begun (seq 0), one that runs (seq 1), and cards of the copy engine that run (seq 2), have
finished (3), are cancelled (4) and have faulted (5). -/
def engines : State :=
  let c (n : Nat) (run : Bool) : Card := { blankCard with seq := n, running := run }
  State.reset.updCoreAt 0 fun co => { co with
    mxRing := [{ c 1 true with bytes := 4 }, { c 0 false with bytes := 2 }]
    cpRing := [c 2 true, { c 3 true with finished := true }, { c 4 true with cancelled := true }, { c 5 true with fault := some (4, 0) }] }
/-- A message and a barrier event on their way, an apply that a helper can take, and waits of the bank counter. -/
def busyCore (p : Packet) (w : Nat) : State :=
  { engines with barq := [(0, p)], cores := [(0, { (engines.coreAt 0) with
      partw := 11, applyQ := [⟨⟨0, 0, 0, []⟩, Cap.zero, true⟩], engWait := [(5, w)] })] }
theorem witness_CoreEvents_waits : (lateTask true).abortDue 0 = true ∧ ((busyCore (.inbox 1 ⟨true, [], 0, 0⟩) 0).coreAt 0).active = true ∧
    ((busyCore (.inbox 1 ⟨true, [], 0, 0⟩) 0).coreAt 0).inbox.length < 4 ∧ ((busyCore (.inbox 1 ⟨true, [], 0, 0⟩) 0).coreAt 0).applyQ ≠ [] ∧
    ((busyCore (.inbox 1 ⟨true, [], 0, 0⟩) 0).coreAt 0).freeHelpers ≠ [] ∧ (({ State.reset with notices := [⟨1, 0, 0, []⟩] } : State).hooks = []) := by
  decide +kernel
/-- A notice to a live hook: an EXPORTED pod of a core with a free helper, or without one and with a full apply queue. -/
def hooked (partw : Word) (n : Nat) : State :=
  { (podOf 16 1).updCore fun c => { c with partw := partw, applyQ := List.replicate n ⟨⟨0, 0, 0, []⟩, Cap.zero, true⟩ } with
    notices := [⟨1, 0, 0, []⟩], hooks := [⟨1, 0, 8192, 0x7F⟩] }
theorem witness_CoreEvents_notice : ((hooked 0x4B 0).hooks.find? fun h => h.oid == 1 && h.kind == 0) = some ⟨1, 0, 8192, 0x7F⟩ ∧
    ((hooked 0x4B 0).coreAt 8192).active = true ∧ ((hooked 0x4B 0).podCheck 8192 0x7F).isOk = true ∧
    ((hooked 0x4B 0).coreAt 8192).freeHelper = some 1 ∧ ((hooked 0x41 16).podCheck 8192 0x7F).isOk = true ∧
    ((hooked 0x41 16).coreAt 8192).freeHelper = none ∧ 16 ≤ ((hooked 0x41 16).coreAt 8192).applyQ.length := by decide +kernel
/-- A card that completes without a pod, by a cancel, and with a pod that a helper takes. -/
def podCard : Card := { blankCard with bytes := BitVec.ofNat 512 (0x7F * 2 ^ 16), finished := true, running := true }
theorem witness_CoreEvents_cards : engines.coreOn 0 = true ∧ (∀ c ∈ (engines.coreAt 0).cpRing, c.cancelled = true ∨ c.pod = 0) ∧
    (((engines.coreAt 0).ring false).find? fun c => c.seq == 0).map Card.running = some false ∧
    ((((engines.coreAt 0).ring false).find? fun c => c.seq == 0).map (engines.coreAt 0).mayStart) = some true ∧
    ((engines.coreAt 0).mxRing.filter Card.canStep).map Card.seq = [1] ∧
    ((engines.coreAt 0).cpRing.find? fun c => c.seq == 2 && c.canStep).map Card.seq = some 2 ∧
    (∀ n ∈ [3, 4, 5], (((engines.coreAt 0).ring true).find? fun c => c.seq == n && c.running && (c.finished || c.cancelled || c.fault.isSome)).map
      Card.seq = some n) ∧
    (Table.get 0 ((busyCore (.handover 0 Barrier.zero) 15).coreAt 0).engWait 5 < 16 ∧ 16 ≤ Table.get 0 ((busyCore (.handover 0 Barrier.zero) 16).coreAt 0).engWait 5) ∧
    ({ State.reset with fabric := 64 } : State).ptsDue = true ∧
    (((busyCore (.bar 47 1 10 BarFn.test.code 0) 0).coreAt ((busyCore (.bar 47 1 10 BarFn.test.code 0) 0).barHolder 1 47)).active = true ∧
      (busyCore (.bar 47 1 10 BarFn.test.code 0) 0).linkPending 1 47 = false) ∧
    ((barWaits false).core.active = true ∧ ∀ i ∈ (barWaits false).core.liveCtxs, (barWaits false).core.sleeps i = true) ∧
    (coreExists 0 = true ∧ ((engines.coreAt 0).ctxAt 0).st = .live ∧ (engines.coreAt 0).hstat = .running) ∧ (barWaits false).core.idles = true := by decide +kernel
theorem witness_CoreEvents_pod :
    (let s := (podOf 0 1).updCore fun c => { c with cpRing := [podCard] }
     s.coreOn 8192 = true ∧ podCard.pod ≠ 0 ∧ podCard.cancelled = false ∧ podCard.fault = none ∧
     (match s.spawnApply 8192 ⟨podCard.pod, 0, 0, []⟩ true podCard.pts with
      | (.queued, _) => true
      | _ => false) = true) := by decide +kernel

/-- A stop of core 0 that is due at tick 48, at each of its stages. -/
def stopOf (ticked quiet flushed finished : Bool) (todo : List (Nat × List Byte)) (saved : List (Nat × Packet)) (ends : List StopEnd) : Stop :=
  { cause := Cause.STOP_KEEPER, tick := 48, holder := 0, noHusk := false, ticked := ticked, quiet := quiet, flushed := flushed, region := 0, namer := 0, base := 2 ^ 33,
    todo := todo, saved := saved, drained := 0, finished := finished, ends := ends }
def stopping (st : Stop) (h : HState) : State :=
  { State.reset with cores := [(0, { Core.empty with stop := some st, hstat := h })], fabric := 48, endowed := true }
theorem witness_StopEvents :
    (let s := stopping (stopOf false false false false [] [] []) .running
     (s.coreAt 0).stop = some (stopOf false false false false [] [] []) ∧ 48 ≤ s.now ∧ (s.coreAt 0).hstat = .running ∧
     (s.coreAt 0).abortSet = false ∧ (s.coreAt 0).gformed = false) ∧
    (∀ st ∈ [stopOf true true true true [] [] [.accept none 0]], (stopping st .stopping).acceptTouched st = false) ∧
    (∀ st ∈ [stopOf true false false false [] [] [], stopOf true true false false [] [] [], stopOf true true true false [] [] [],
        stopOf true true true false [(0, [1])] [] [], stopOf true true true false [] [(0, .handover 0 Barrier.zero)] [],
        stopOf true true true true [] [] [.accept none 0], stopOf true true true true [] [] [.reclaim 0 1]],
      ((stopping st .stopping).coreAt 0).stop = some st ∧ (stopping st .stopping).cores = [(0, (stopping st .stopping).coreAt 0)] ∧
      huskBase (if st.noHusk then 0 else (((stopping st .stopping).coreAt 0).stopRegion st).1) = none) := by decide +kernel
/-- The region of a stop that OID 2 names and holds; the core has one packet on its way. -/
def savingStop : Stop := { stopOf true true false false [] [] [] with region := 0x2000001000000000, namer := 2 }
def saving : State := { (owned plain7).updCoreAt 0 fun c => { c with stop := some savingStop, hstat := .stopping } with
  barq := [(1, .bar 0 0 0 0 0)] }
theorem witness_StopEvents_save : (saving.coreAt 0).stop = some savingStop ∧
    (∀ p ∈ saving.cores, p.2.stop.all (fun y => y.tick != 48 || y.quiet || y.finished) = true) ∧
    huskBase ((saving.coreAt 0).stopRegion savingStop).1 = some (2 ^ 33) ∧
    saving.huskHeld ((saving.coreAt 0).stopRegion savingStop).2 ((saving.coreAt 0).stopRegion savingStop).1 = true ∧ isPeer (2 ^ 33) = false ∧
    saving.staged 0 = 0 ∧ (saving.barq.filter fun p => p.2.from 0).length = 1 := by decide +kernel
theorem witness_StopEvents_more : (State.reset.coreEntry 8191).holder ≠ 0xFFFF ∧ (State.reset.coreAt 8191).stopped = false ∧
    (State.reset.coreAt 8191).stop = none ∧ (State.reset.coreEntry 8191).loans = [] ∧
    (let s : State := { owned plain7 with funcs := [(63, { Func.zero with oid := 3 })] }
     (s.funcAt 63).oid.toNat = 3 ∧ s.oidLive 3 = true ∧ ∀ e ∈ s.entries, e.cls = cCore → e.holder ≠ 3) ∧
    coreExists 0 = true ∧ (owned plain7).oidLive 2 = true ∧ (owned plain7).isKeeper 2 0 = true ∧ ((owned plain7).keeperWrite 2 0 0 0x106 0).isOk = true ∧ ((owned plain7).keeperWrite 2 0 0 0x05F 1).isOk = true ∧
    ((owned plain7).keeperWrite 2 0 0 0x04F 1).isOk = true ∧
    (((owned plain7).updCoreAt 0 fun c => { c with khusk := 1 }).coreAt 0).khusk ≠ 0 ∧
    huskBase ((State.reset.updCoreAt 0 fun c => { c with hstat := .resuming, kresume := 0x2000001000000000 }).coreAt 0).kresume = some (2 ^ 33) := by
  decide +kernel
/-- A husk at 5 GiB of a core that resumes, with context 0 LIVE and row 0 in its image. -/
theorem witness_StopEvents_resume :
    (let s : State := { State.reset with mem := (State.reset.mem.writeLE (0x140000000 + 0x200 + 511) 1 0x40).writeLE (0x140000000 + 128) 1 1 }.updCoreAt
       0 fun c => { c with hstat := .resuming, kresume := 0x2000000A00000000 }
     (s.coreAt 0).hstat = .resuming ∧ huskBase (s.coreAt 0).kresume = some 0x140000000 ∧ isExternal 0x140000000 = false ∧
       0x200 ∈ (s.noteOf 0 0 false).sects ∧ s.mem.readLE (0x140000000 + 0x200 + 511) 1 / 64 = 1 ∧ s.mem.readLE (0x140000000 + 128) 192 % 2 = 1 ∧
       s.mem.wf = true ∧ ∀ p ∈ s.cores, p.2.pool.wf = true) := by decide +kernel
/-- Domain 7 lent by OID 2 until tick 5, or recalled with grace until tick 0; at tick 5. -/
def lentAt (e : Entry) : State := { owned e with fabric := 5, snaps := 0 }
theorem witness_TimedEvents : ((lentAt (lent true false true)).loanAt 0x4000000000000007 0).map Prod.fst = some (lent true false true) ∧
    (lent true false true).loans = [⟨2, 3, 5, 0, true, true, 0, false, 0, false⟩] ∧ (5 : Word).toNat ≤ (lentAt plain7).now ∧
    (0 : Word).toNat ≤ (lentAt plain7).now ∧ (lent true false true).cls ≠ cCore ∧
    ({ State.reset with oids := [(2, ⟨1, some 0⟩)], fabric := 0x1000000 } : State).idleDue 2 ⟨1, some 0⟩ = true ∧
    ({ segTask [{ segOf .resident true with cls := 3 }] [] with fabric := 0 } : State).liveSeg 0 9 = some { segOf .resident true with cls := 3 } ∧
    ({ Bucket.zero with due := 1 }.due ≠ 0 ∧ -(2 ^ 31 : Int) ≤ ({ Bucket.zero with level := BitVec.ofInt 64 (-2 ^ 31) }).level.toInt) ∧
    ({ State.reset with fabric := 1024 } : State).refills < ({ State.reset with fabric := 1024 } : State).now / 1024 ∧
    ({ State.reset with fabric := 0x100000 } : State).snaps < ({ State.reset with fabric := 0x100000 } : State).now / 2 ^ 20 ∧
    ({ State.reset with fabric := 1024 } : State).powers < 1024 / 1024 := by decide +kernel
/-- Counter 15 of core 0 counts events that the model does not follow, and stands before its wrap. -/
def wrapping : State := State.reset.updCoreAt 0 fun c => { c with cnt := [(15, BitVec.allOnes 48)], evsel := [(15, word (freeEvents.headD 0))] }
theorem witness_TimedEvents_wrap : coreExists 0 = true ∧ (wrapping.coreAt 0).active = true ∧ (wrapping.coreAt 0).counts = true ∧
    selShared (Table.get 0 (wrapping.coreAt 0).evsel 15) = false ∧ selEvent (Table.get 0 (wrapping.coreAt 0).evsel 15) ∈ freeEvents ∧
    selEvent (Table.get 0 (wrapping.coreAt 0).evsel 15) < 17 ∧ 2 ^ 48 ≤ (Table.get 0 (wrapping.coreAt 0).cnt 15).toNat + 1 := by decide +kernel

theorem witness_RegisterFrame : ∃ t, dest (.add 5 6 7) = some (.x 5) ∧ handlerAt.canonical ∧ handlerAt.handled ∧
    exec (.add 5 6 7) handlerAt = .next t :=
  ⟨_, rfl, canonical_one 8192 _ rfl, by unfold State.handled; decide, rfl⟩

/-- add x5, x6, x7 placed for core 0.0.0 (R84): what its issue slot finds. -/
def placed : State := State.reset.withFetchWord 32 0x001CC504
/-- The state in which it issues. -/
def issuing : State := { ({ placed with agenda := [] }.updCoreAt 0 fun c => { c with gated := false, uncounted := false }) with cur := 0, ctx := 0 }
theorem witness_StepRunsDecoded : placed.agenda = [.issue 0] ∧ ({ placed with agenda := [] } : State).canIssue 0 = true ∧ (placed.coreAt 0).gated = false ∧
    ({ placed with agenda := [] } : State).abortDue 0 = false ∧ (placed.coreAt 0).gsize = 0 ∧ placed.barq = [] ∧
    (placed.coreAt 0).order = [] ++ 0 :: [1, 2, 3, 4, 5, 6, 7, 8, 9, 10] ∧ ((placed.coreAt 0).ctxAt 0).st = .live ∧ issuing.loopInstr = none := by
  decide +kernel
/-- Its bytes are fetched and decode, and it goes. -/
noncomputable def fetched : Bool :=
  match issuing.fetch with
  | .ok (bs, t) => bs == [0x04, 0xC5, 0x1C, 0x00] && (earlyFault (isFirmware t.cur) t.core.profOf (rawOf bs)).isNone &&
      match decodeBytes bs with
      | .ok (i, _) => i == .add 5 6 7 && match exec i t with
        | .next u => ((u.coreAt 0).ctxAt 0).went
        | _ => false
      | _ => false
  | _ => false
theorem witness_StepRunsDecoded_fetch : fetched = true := by decide +kernel
theorem witness_StepRunsDecoded_host : ∃ t u, ({ State.reset with agenda := [] } : State).barRead 0 4 0 16 = .next t ∧
    ({ State.reset with agenda := [] } : State).barWrite 0 4 0x10FF8 [1] = .next u := ⟨_, _, rfl, rfl⟩
theorem witness_StepRunsDecoded_events : isEvent .ptsAdvance = true ∧ ({ State.reset with fabric := 64 } : State).due = some .ptsAdvance := by
  decide +kernel
/-- Words at the ends of their fields. -/
theorem witness_EncodeDecodes : WellFormed (.add 31 0 31) = true ∧ (encode (.add 31 0 31)).isSome = true ∧
    WellFormed (.addiLit 31 0 0xFFFFFFFFFFFFFFFF) = true ∧ (encode (.addiLit 31 0 0xFFFFFFFFFFFFFFFF)).isSome = true := by decide
theorem witness_CanonicalKept : ∃ t, ({ State.reset with fabric := 64 } : State).canonical ∧
    Sys2Proof.Machine.step { State.reset with fabric := 64 } = .next t :=
  ⟨_, ⟨rfl, fun _ => rfl⟩, rfl⟩

end Sys2Proof.Tests
end

section
/-! SUPPORT. What reads of a table give after its keys have been filtered or a range of them cleared. -/

namespace Sys2Proof

/-- A read after the keys that do not satisfy a predicate have been dropped. -/
theorem Table.get_filter_key {α : Type} (d : α) {t : Table α} (f : Nat → Bool) (k : Nat) (h : Table.sorted t = true) :
    Table.get d (List.filter (fun p => f p.1) t) k = if f k = true then Table.get d t k else d := by
  induction t with
  | nil => simp [Table.get]
  | cons p t ih =>
    obtain ⟨j, w⟩ := p
    obtain ⟨habove, hs⟩ := (Table.sorted_cons j w t).1 h
    rw [List.filter_cons]
    by_cases hj : f j = true
    · simp only [hj, if_true, Table.get, ih hs]
      by_cases hlt : k < j
      · simp [hlt]
      · by_cases heq : k = j
        · simp [heq, hj]
        · simp [hlt, heq]
    · rw [if_neg hj, ih hs]
      by_cases heq : k = j
      · simp [heq, hj]
      · have hbelow : k < j → Table.get d t k = d := fun hlt =>
          Table.get_above d fun q hq => Nat.lt_trans hlt (habove q hq)
        by_cases hlt : k < j
        · simp [Table.get, hlt, hbelow hlt]
        · simp [Table.get, hlt, heq]

/-- A cleared range reads 0, and every other byte reads as before (R246). -/
theorem Memory.read_clear {m : Memory} (lo hi a : Nat) (h : m.wf = true) :
    Memory.read (Table.clear m lo hi) a = if lo ≤ a ∧ a < hi then 0 else m.read a := by
  have hs := ((Memory.wf_iff m).1 h).1
  refine (Table.get_filter_key 0 (fun k => decide (k < lo) || decide (hi ≤ k)) a hs).trans ?_
  by_cases hin : lo ≤ a ∧ a < hi
  · rw [if_pos hin, if_neg (by simp; omega)]
  · rw [if_neg hin, if_pos (by simp; omega)]; rfl

end Sys2Proof
end

section
/-! SUPPORT. What the start of a helper makes of its core (R18). -/

namespace Sys2Proof.Machine

/-- Helper state before x4 is written: LIVE at `pc`, every register zero but the sticky flags and the marks on barriers. -/
def Ctx.started (x : Ctx) (pc sl tv : Word) (detached : Bool) (p : BitVec 64) : Ctx :=
  { x.fresh with st := .live, detached := detached, pc := pc, stacklim := sl, trapvec := tv, pts := later x.pts p }

variable (c : Core) (k : Nat) (pc sl tv v : Word) (dt : Bool) (xs : List Word) (p : BitVec 64)

/-- Started with one datum, the helper has it in x4. -/
theorem Core.ctxAt_startHelper_one :
    (c.startHelper k pc sl tv dt [v] p).ctxAt k = ((c.ctxAt k).started pc sl tv dt p).setX 4 v :=
  Core.ctxAt_setCtx_same _ _ _

/-- No other context changes. -/
theorem Core.ctxAt_startHelper_ne {j : Nat} (h : j ≠ k) : (c.startHelper k pc sl tv dt xs p).ctxAt j = c.ctxAt j :=
  Core.ctxAt_setCtx_ne _ _ h

/-- The 32 register rows of the helper read 0, and the rest of the pool as before. -/
theorem Core.read_startHelper (r : Nat) (h : c.pool.wf = true) : (c.startHelper k pc sl tv dt xs p).pool.read r =
    if 128 * c.ctxBase k ≤ r ∧ r < 128 * (c.ctxBase k + 32) then 0 else c.pool.read r :=
  Memory.read_clear _ _ r h

/-- Every x register of a started helper reads 0 until it is written. -/
theorem Ctx.getX_started (x : Ctx) (n : BitVec 5) : (x.started pc sl tv dt p).getX n = 0 := by
  unfold Ctx.getX
  split <;> rfl

/-- Every mask but m0 reads 0. -/
theorem Ctx.getM_started (x : Ctx) {n : BitVec 3} (h : n ≠ 0) : (x.started pc sl tv dt p).getM n = 0 := by
  rw [Ctx.getM, if_neg h]; rfl

/-- A write of an x register leaves the masks. -/
@[simp] theorem Ctx.getM_setX (x : Ctx) (n : BitVec 5) (m : BitVec 3) : (x.setX n v).getM m = x.getM m := by
  simp [Ctx.getM]

end Sys2Proof.Machine
end

section
open Sys2Proof Sys2Proof.Machine

/-- Settles O13: the helper is a fresh context with x4 written once, at its own place of the context table; the clear of
its rows reads through the sorted pool. -/
theorem startedHelper : Obligations.StartedHelper := by
  unfold Obligations.StartedHelper
  intro c k j pc sl tv v p n m h r
  dsimp only
  rw [Core.ctxAt_startHelper_one]
  refine ⟨rfl, rfl, rfl, rfl,
    Ctx.getX_setX_same _ v (by decide), fun hn => ?_, fun hm => ?_, ?_⟩
  · rw [Ctx.getX_setX_ne _ v hn, Ctx.getX_started]
  · rw [Ctx.getM_setX, Ctx.getM_started _ _ _ _ _ _ hm]
  · exact ⟨rfl, rfl, rfl, rfl, rfl, rfl, rfl, rfl, rfl, rfl, rfl, Core.ctxAt_startHelper_ne _ _ _ _ _ _ _ _,
      Core.read_startHelper _ _ _ _ _ _ _ _ r⟩
end

section
/-! SUPPORT. The marks of a context have a bit for each of the 48 barriers of a core, and none beyond (R166). -/

namespace Sys2Proof.Machine

/-- No context is pending on a barrier beyond the 48 of a core. -/
theorem Ctx.isPend_beyond (x : Ctx) {b : Nat} (h : 48 ≤ b) : x.isPend b = false := BitVec.getLsbD_of_ge _ _ h

/-- So a forwarded event on such a barrier leaves no context pending. -/
theorem not_linkedMakes_pend {s : State} {src j b : Nat} {w : Barrier} {aph drop : Bool} {a : Option BarAns} {wait : Wait}
    (h : 48 ≤ b) : ¬ LinkedMakes s src j b w (true, aph, drop) a wait := by
  rintro ⟨t, -, -, hmarks, -, -⟩
  have hpend : ((t.coreAt src).ctxAt j).isPend b = true := congrArg Prod.fst hmarks
  rw [Ctx.isPend_beyond _ h] at hpend
  exact Bool.false_ne_true hpend

/-- Context 0 of core 0 has forwarded a bar.arrive on barrier 48, which expects two arrivals, and awaits the answer. -/
def arriveBeyond : State :=
  { State.reset with
    barq := [(0, .bar 48 0 0 BarFn.arrive.code 0)]
    cores := [(0, { Core.empty with
      ctxs := [(0, { Ctx.empty with st := .live, bans := some .sent, wait := .other })]
      bars := [(48, { Barrier.zero with exp := 2 })] })] }

end Sys2Proof.Machine
end

section
open Sys2Proof Sys2Proof.Machine

/-- Refutes O52: its clause of a forwarded bar.arrive ranges over every barrier number, but a context has marks for
barriers 0 to 47 only (R166), so that no arrival on barrier 48 leaves its context pending. The clause lacks the bound
`b < 48`: a barrier function that names barrier 48 or above takes DECL_BARRIER (R43) and sends no event. -/
theorem not_coreEvents : ¬ Obligations.CoreEvents := by
  unfold Obligations.CoreEvents
  intro h
  obtain ⟨-, -, -, -, -, -, -, -, -, -, -, -, -, -, -, hbar, -, -, -⟩ :=
    h 0 0 0 0 false ⟨true, [], 0, 0⟩ 0 []
      ⟨0, 0, 0, 0, 0, [], false, 0, 0, false, false, false, false, none, 0, none⟩ .arrive 48 0 ⟨0, 0, 0, []⟩ 0 0 0 arriveBeyond
  obtain ⟨-, -, hmakes⟩ := hbar rfl (by decide) (by decide)
  obtain ⟨-, hmade⟩ := hmakes (by decide) (by decide) (by decide) (by decide)
  exact not_linkedMakes_pend (by decide) (hmade (by decide))
end

section
/-! SUPPORT. The instructions of contexts (R18, R19, R124): their meaning, and the three outcomes of a join. -/

namespace Sys2Proof.Machine

theorem exec_start (d a c : BitVec 5) (s : State) : exec (.start d a c) s = execStart d a c s := rfl
theorem exec_join (d a : BitVec 5) (s : State) : exec (.join d a) s = execJoin d a s := rfl
theorem exec_endc (a : BitVec 5) (s : State) : exec (.endc a) s = execEndc a s := rfl
theorem exec_yield (s : State) : exec .yield s = execYield s := rfl

variable {s : State} {d a c : BitVec 5} {k : Nat}

theorem start_retires_without_helper (hr : s.ready [.x d, .x a, .x c]) (hf : s.core.freeHelper = none) :
    Retires (.start d a c) s 4 (s.setX d 0) := by
  rw [Retires, exec_start, execStart, instr_ready hr]
  simp only [hf, finish_goes]

theorem start_retires_with_helper (hr : s.ready [.x d, .x a, .x c]) (hf : s.core.freeHelper = some k) :
    Retires (.start d a c) s 4 ((s.updCore fun co =>
      co.startHelper k (s.xr a) s.me.stacklim s.me.trapvec false [s.xr c] s.me.pts).setX d (word k)) := by
  rw [Retires, exec_start, execStart, instr_ready hr]
  simp only [hf, finish_goes]

/-- A join of what is no helper to be joined, or one whose helper another join has taken, faults (R19). -/
theorem join_traps (hr : s.ready [.x d, .x a]) (hk : (s.xr a).toNat = k)
    (hbad : k = 0 ∨ k = s.ctx ∨ s.core.nctx ≤ k ∨ (s.core.ctxAt k).st = .free ∨ (s.core.ctxAt k).detached = true ∨
      ∃ q, s.me.wait = .join 0 q) : Traps (.join d a) s Cause.CTX_JOIN_INVALID (s.xr a) := by
  subst hk
  rw [Traps, exec_join, execJoin, instr_ready hr, if_pos, finish_fault]
  rcases hbad with h | h | h | h | h | ⟨q, h⟩ <;> simp [h]

section
variable (hr : s.ready [.x d, .x a]) (hk : (s.xr a).toNat = k) (hk0 : k ≠ 0) (hme : k ≠ s.ctx) (hn : k < s.core.nctx)
  (hattached : (s.core.ctxAt k).detached = false)
include hr hk hk0 hme hn hattached

/-- A join of an ENDED helper for which no other context waits takes its end value, and makes it FREE (R18, R19). -/
theorem join_ended_retires (hended : (s.core.ctxAt k).st = .ended) (hfirst : ∀ q, s.earlierJoin k q = false)
    (hheld : ∀ q, s.me.wait ≠ .join 0 q) :
    Retires (.join d a) s 4 ((((s.failJoins k).updCore fun co => co.setCtx k (s.core.ctxAt k).fresh).updMe fun x =>
      { x with pts := later x.pts (s.core.ctxAt k).pts }).setX d (s.core.ctxAt k).endv) := by
  subst hk
  rw [Retires, exec_join, execJoin, instr_ready hr]
  simp only [hended, hattached, hfirst, hk0, hme, Nat.not_le.2 hn, decide_false]
  rw [if_neg, if_neg]
  · rfl
  · simp
  · -- the join has not lost its helper to another one
    cases hw : s.me.wait with
    | join i q =>
      have hi : i ≠ 0 := fun h => hheld q (by rw [hw, h])
      simp [hi]
    | _ => simp

/-- A join of a LIVE helper waits, and only the numbering of the joins advances (R19). -/
theorem join_live_waits (hlive : (s.core.ctxAt k).st = .live) (hw : s.me.wait = .none) :
    exec (.join d a) s = .next (({ s with serial := s.serial + 1 } : State).setWait (.join k s.serial)) := by
  subst hk
  rw [exec_join, execJoin, instr_ready hr]
  simp only [hlive, hattached, hw, hk0, hme, Nat.not_le.2 hn, decide_false]
  rfl
end

theorem endc_traps (hr : s.ready [.x a]) (h0 : s.ctx = 0) : Traps (.endc a) s Cause.CTX_ROLE 0 := by
  rw [Traps, exec_endc, execEndc, instr_ready hr, if_pos h0, finish_fault]

theorem endc_ends (hr : s.ready [.x a]) (h0 : s.ctx ≠ 0) : exec (.endc a) s = .next ((s.updMe fun x =>
    if x.detached then x.fresh
    else { x with st := .ended, endv := s.xr a, wait := .none, pc := s.me.pc + 4 }).count s.cur 3 1) := by
  rw [exec_endc, execEndc, instr_ready hr, if_neg h0, finish_own]
  rfl

end Sys2Proof.Machine
end

section
open Sys2Proof Sys2Proof.Machine

/-- Settles O12, instruction by instruction: start by whether a helper is FREE, join by the three outcomes of R19, endc
by the role of its context. -/
theorem contextResults : Obligations.ContextResults := by
  unfold Obligations.ContextResults
  intro d a c k s
  refine ⟨?_, fun hr => ⟨start_retires_without_helper hr, start_retires_with_helper hr⟩, ?_,
    fun hr hk => ⟨join_traps hr hk, ?_⟩, fun hr => ⟨endc_traps hr, endc_ends hr⟩⟩
  · rw [Retires, exec_yield, execYield, instr_nil, finish_goes]
  · intro hr hk hk0 hme hn hended hattached hfirst hheld
    exact join_ended_retires hr hk hk0 hme hn hattached hended hfirst hheld
  · intro hk0 hme hn hlive hattached hw
    exact ⟨s.serial, s.serial + 1, join_live_waits hr hk hk0 hme hn hattached hlive hw⟩
end

section
/-! SUPPORT. The issue of one context of a core that is in no gang (R20, R84). -/

namespace Sys2Proof.Machine

variable {s t u : State} {k j : Nat} {bs more : List Byte} {i : Instr} {fw : Bool} {prof : BitVec 16}

/-! What fetched bytes mean (R84, R85). -/

theorem decodeFor_ok (he : earlyFault fw prof (rawOf bs) = none) (hd : decodeBytes bs = .ok (i, more)) :
    decodeFor fw prof bs = i := by
  simp only [decodeFor, he, hd]

theorem decodeFor_error {e : DecodeErr} (he : earlyFault fw prof (rawOf bs) = none) (hd : decodeBytes bs = .error e) :
    decodeFor fw prof bs = .undecodableWord (errCause e) ((rawOf bs).x0.setWidth 64) := by
  simp only [decodeFor, he, hd]

theorem decodeFor_early {e : BitVec 8} (he : earlyFault fw prof (rawOf bs) = some e) :
    decodeFor fw prof bs = .undecodableWord e ((rawOf bs).x0.setWidth 64) := by
  simp only [decodeFor, he]

theorem exec_undecodableWord (cause : BitVec 8) (tval : Word) (s : State) :
    exec (.undecodableWord cause tval) s = .next (s.takeTrap s.me.pc cause tval) := rfl

/-- Outside the resident loop, an attempt runs what the fetched bytes mean in the state that the fetch leaves. -/
theorem attempt_of_fetch (hl : s.loopInstr = none) (hf : s.fetch = .ok (bs, t)) :
    s.attempt = .ok (bs, exec (decodeFor (isFirmware t.cur) t.core.profOf bs) t) := by
  simp only [State.attempt, State.nextInstr, hl, hf]

/-! A core in no gang. -/

theorem Core.follows_of_gsize_zero {c : Core} (h : c.gsize = 0) : c.follows = false := by simp [Core.follows, h]

theorem attachedTo_of_gsize_zero (h : (s.coreAt k).gsize = 0) : s.attachedTo k = [] := by
  simp [State.attachedTo, Core.leads, h]

theorem afterLeader_of_gsize_zero (h : (s.coreAt k).gsize = 0) : s.afterLeader k bs t = t := by
  simp [State.afterLeader, attachedTo_of_gsize_zero h]

theorem dropForwards_of_barq_nil (h : s.barq = []) : s.dropForwards k = s := by
  cases s
  simp only at h
  subst h
  rfl

/-- With no packet on its way and no gang, context `j` attempts its instruction, and goes where the attempt does. -/
theorem issueCtx_of_attempt (hg : (s.coreAt k).gsize = 0) (hq : s.barq = [])
    (ha : ({ s with cur := k, ctx := j } : State).attempt = .ok (bs, .next t)) :
    s.issueCtx k j = (.next t, ((t.coreAt k).ctxAt j).went) := by
  have hg' : (({ s with cur := k, ctx := j } : State).coreAt k).gsize = 0 := hg
  have hfwd : ({ s with cur := k, ctx := j } : State).forwarding k = false := by simp [State.forwarding, hq]
  have hroom : ¬ maxFlits < ({ s with cur := k, ctx := j } : State).outbound k := by simp [State.outbound, hq]
  have hdrop : ({ s with cur := k, ctx := j } : State).dropForwards k = { s with cur := k, ctx := j } :=
    dropForwards_of_barq_nil hq
  simp only [State.issueCtx, Core.follows_of_gsize_zero hg', hfwd, attachedTo_of_gsize_zero hg', hdrop,
    List.length_nil, Nat.add_zero, hroom, ite_self, ha, afterLeader_of_gsize_zero hg']
  simp

/-! The selection of R20. -/

/-- Contexts that are not LIVE are passed over. -/
theorem issueFrom_skip {still : Bool} {pre js : List Nat} (h : ∀ m ∈ pre, ((s.coreAt k).ctxAt m).st ≠ .live) :
    s.issueFrom k still (pre ++ js) = s.issueFrom k still js := by
  induction pre with
  | nil => rfl
  | cons m ms ih =>
    rw [List.cons_append, State.issueFrom, if_pos (h m (by simp))]
    exact ih fun n hn => h n (by simp [hn])

/-- A LIVE context that goes is the one that has issued last. -/
theorem issueFrom_went {still : Bool} {js : List Nat} (hl : ((s.coreAt k).ctxAt j).st = .live)
    (hi : s.issueCtx k j = (.next t, true)) :
    s.issueFrom k still (j :: js) = .next (t.updCoreAt k fun c => { c with last := j }) := by
  simp only [State.issueFrom, hl, hi, ne_eq, not_true_eq_false, if_false]

/-- The state in which a core that may issue selects a context. -/
def State.awake (s : State) (k : Nat) : State := s.updCoreAt k fun c => { c with gated := false, uncounted := false }

@[simp] theorem coreAt_awake : (s.awake k).coreAt k = { s.coreAt k with gated := false, uncounted := false } :=
  State.coreAt_setCoreAt_same _ _ _

/-- The issue slot of a core that may issue, whose first LIVE context in turn is `j`, and goes. -/
theorem issueCore_went {pre post : List Nat} (hcan : s.canIssue k = true)
    (hgate : ((s.coreAt k).gated && (s.coreAt k).liveCtxs.all (s.coreAt k).sleeps) = false) (habort : s.abortDue k = false)
    (horder : (s.coreAt k).order = pre ++ j :: post) (hpre : ∀ m ∈ pre, ((s.coreAt k).ctxAt m).st ≠ .live)
    (hlive : ((s.coreAt k).ctxAt j).st = .live) (hi : (s.awake k).issueCtx k j = (.next t, true)) :
    s.issueCore k = .next (t.updCoreAt k fun c => { c with last := j }) := by
  have hctx : ∀ m, ((s.awake k).coreAt k).ctxAt m = (s.coreAt k).ctxAt m := fun m => by rw [coreAt_awake]; rfl
  calc s.issueCore k = (s.awake k).issueFrom k (s.coreAt k).uncounted (s.coreAt k).order := by
        simp only [State.issueCore, hcan, hgate, habort, State.awake]; rfl
    _ = (s.awake k).issueFrom k (s.coreAt k).uncounted (j :: post) := by
        rw [horder]; exact issueFrom_skip fun m hm => by rw [hctx]; exact hpre m hm
    _ = .next (t.updCoreAt k fun c => { c with last := j }) := issueFrom_went (by rw [hctx]; exact hlive) hi

/-! The turns of the device. -/

theorem step_of_agenda {tn : Turn} {rest : List Turn} (h : s.agenda = tn :: rest) :
    step s = passed (({ s with agenda := rest } : State).turn tn) := by
  simp only [step, State.move, h]

theorem step_of_due (ha : s.agenda = []) (hd : s.due = some i) : step s = exec i s := by
  simp only [step, State.move, ha, hd]

theorem step_of_schedule (ha : s.agenda = []) (hd : s.due = none) : step s = passed (s.turn (Config.schedule s.n)) := by
  simp only [step, State.move, ha, hd]

theorem turn_event (h : isEvent i = true) : s.turn (.event i) = exec i s := by
  simp only [State.turn, h, if_true]

end Sys2Proof.Machine
end

section
open Sys2Proof Sys2Proof.Machine

/-- Settles O57. The contexts before `j` are passed over; in a core without a gang the attempt of `j` is exec of what its
bytes mean, which is the instruction or the fault of R84. Every other turn is one equation of the step. -/
theorem stepRunsDecoded : Obligations.StepRunsDecoded := by
  unfold Obligations.StepRunsDecoded
  refine ⟨?_, fun s u i rest => ⟨fun ha he hx => ?_, fun f bar off n ha hx => ?_, fun f bar off bs ha hx => ?_,
    fun on ha => ?_, step_of_due, fun ha hd hs he hx => ?_⟩⟩
  · intro s t u k j rest pre post bs more i ha s0 hcan hgate habort hg hq horder hpre hlive s1 hloop hfetch
    have hrun : exec (decodeFor (isFirmware t.cur) t.core.profOf bs) t = .next u → ((u.coreAt k).ctxAt j).went = true →
        step s = .next ((u.updCoreAt k fun c => { c with last := j }).pass) := fun hx hw => by
      have hatt : s1.attempt = .ok (bs, .next u) := by rw [attempt_of_fetch hloop hfetch, hx]
      have hi : (s0.awake k).issueCtx k j = (.next u, true) := by
        rw [issueCtx_of_attempt (s := s0.awake k) (by rw [coreAt_awake]; exact hg) hq hatt, hw]
      rw [step_of_agenda ha, State.turn, issueCore_went hcan hgate habort horder hpre hlive hi, passed]
    exact ⟨fun he hd hx => hrun (by rw [decodeFor_ok he hd, hx]),
      fun e he hd hx => hrun (by rw [decodeFor_error he hd, exec_undecodableWord, hx]),
      fun e he hx => hrun (by rw [decodeFor_early he, exec_undecodableWord, hx])⟩
  · rw [step_of_agenda ha, turn_event he, hx, passed]
  · rw [step_of_agenda ha, State.turn, hx, passed]
  · rw [step_of_agenda ha, State.turn, hx, passed]
  · rw [step_of_agenda ha, State.turn, passed]
  · rw [step_of_schedule ha hd, hs, turn_event he, hx, passed]
end

section
/-! SUPPORT. rdsr (R129): its two outcomes, and what the status registers of R38 read as where the value is composed. -/

namespace Sys2Proof.Machine

variable {s : State} {d : BitVec 5} {i : BitVec 10}

theorem exec_rdsr (d : BitVec 5) (i : BitVec 10) (s : State) : exec (.rdsr d i) s = execRdsr d i s := rfl

/-- A register that the occupant can read goes to X[d], and nothing else changes (R129). -/
theorem rdsr_retires {v : Word} (hr : s.ready [.x d])
    (hv : s.readSR (s.holderOf s.cur) s.cur s.ctx i.toNat = some v) : Retires (.rdsr d i) s 4 (s.setX d v) := by
  rw [Retires, exec_rdsr, execRdsr, instr_ready hr]
  simp only [hv, finish_goes]

/-- An index that the occupant cannot read faults with the index in TVAL (R39). -/
theorem rdsr_traps (hr : s.ready [.x d]) (hv : s.readSR (s.holderOf s.cur) s.cur s.ctx i.toNat = none) :
    Traps (.rdsr d i) s Cause.SR_ACCESS (i.setWidth 64) := by
  rw [Traps, exec_rdsr, execRdsr, instr_ready hr]
  simp only [hv, finish_fault]

variable (s) (o k j : Nat)

/-- The two bits of TFLAGS do not overlap (R40). -/
theorem readSR_tflags : s.readSR o k j 0x014 = some ((if ((s.coreAt k).ctxAt j).tstep then 2 else 0) +
    if ((s.coreAt k).ctxAt j).tin then 1 else 0) := by
  change some (_ ||| _) = _
  cases ((s.coreAt k).ctxAt j).tstep <;> cases ((s.coreAt k).ctxAt j).tin <;> rfl

/-- The three bits of MXSTAT do not overlap (R40). -/
theorem Core.mxstat_eq_add (c : Core) : c.mxstat =
    (if c.mxRing = [] then 0 else 4) + (if c.mxsat then 2 else 0) + if c.mxnarrow then 1 else 0 := by
  rw [Core.mxstat]
  simp only [List.isEmpty_iff]
  by_cases hring : c.mxRing = [] <;> cases c.mxsat <;> cases c.mxnarrow <;> simp [hring]

theorem readSR_mxstat : s.readSR o k j 0x022 = some ((if (s.coreAt k).mxRing = [] then 0 else 4) +
    (if (s.coreAt k).mxsat then 2 else 0) + if (s.coreAt k).mxnarrow then 1 else 0) :=
  congrArg some (Core.mxstat_eq_add _)

/-- The sixteen counters lie at 0x040 (R38). -/
theorem readSR_counter (n : BitVec 4) :
    s.readSR o k j (0x040 + n.setWidth 10 : BitVec 10).toNat = some (s.readCnt o k n.toNat) := by
  have hi : (0x040 + n.setWidth 10 : BitVec 10).toNat = 0x040 + n.toNat := by bv_omega
  have hn : n.toNat < 16 := n.isLt
  unfold State.readSR
  rw [hi, if_pos (by simp; omega), Nat.add_sub_cancel_left]

/-- The sixteen event selects lie at 0x050, past the counters (R38). -/
theorem readSR_eventSelect (n : BitVec 4) :
    s.readSR o k j (0x050 + n.setWidth 10 : BitVec 10).toNat = some (Table.get 0 (s.coreAt k).evsel n.toNat) := by
  have hi : (0x050 + n.setWidth 10 : BitVec 10).toNat = 0x050 + n.toNat := by bv_omega
  have hn : n.toNat < 16 := n.isLt
  unfold State.readSR
  rw [hi, if_neg (by simp; omega), if_pos (by simp; omega), Nat.add_sub_cancel_left]

end Sys2Proof.Machine
end

section
open Sys2Proof Sys2Proof.Machine

/-- Settles O18. A read retires with what the table of R38 gives, or faults where it gives nothing: most rows are the
field that they name, the flag registers and the two banks of sixteen have their own lemmas. -/
theorem statusRegisterReads : Obligations.StatusRegisterReads := by
  unfold Obligations.StatusRegisterReads
  intro d n i s hr
  have reads : ∀ {i : BitVec 10} {v : Word}, s.readSR (s.holderOf s.cur) s.cur s.ctx i.toNat = some v →
      Retires (.rdsr d i) s 4 (s.setX d v) := rdsr_retires hr
  exact ⟨reads rfl, reads rfl, reads rfl, reads rfl, reads rfl, reads rfl, -- CORE, CTX, WID, PARTW, DECLA, DECLB
    reads rfl, reads rfl, reads rfl, reads rfl, -- TRAPVEC, EPC, CAUSE, TVAL
    reads (readSR_tflags s _ _ _), reads rfl, -- TFLAGS, STACKLIM
    reads rfl, reads rfl, -- FPFLAGS, ISTAT
    reads (readSR_mxstat s _ _ _), reads rfl, -- MXSTAT, RRB
    reads rfl, reads rfl, reads rfl, reads rfl, reads rfl, -- HOLDER, KEEPER, TERM, DOMAIN, GEN
    reads rfl, -- GANG
    reads (readSR_counter s _ _ _ n), reads (readSR_eventSelect s _ _ _ n),
    rdsr_traps hr⟩
end

section
/-! SUPPORT. The register form of add (R107), and the hardwired registers as the device sees them (R31, R106). -/

namespace Sys2Proof.Machine

variable {s : State}

/-- m0 reads all ones (R31). -/
@[simp] theorem Ctx.getM_zero (c : Ctx) : c.getM 0 = BitVec.allOnes 128 := rfl
/-- A write to m0 is discarded (R31). -/
@[simp] theorem Ctx.setM_zero (c : Ctx) (w : BitVec 128) : c.setM 0 w = c := rfl

@[simp] theorem State.xr_zero : s.xr 0 = 0 := Ctx.getX_zero _
@[simp] theorem State.mr_zero : s.mr 0 = BitVec.allOnes 128 := Ctx.getM_zero _

/-- A write to x0 writes the executing context back as it stands (R106). -/
@[simp] theorem State.setX_zero (v : Word) : s.setX 0 v = s.setMe s.me :=
  congrArg s.setMe (Ctx.setX_zero _ v)

theorem exec_add (d a c : BitVec 5) (s : State) : exec (.add d a c) s = execAdd d a c s := rfl

/-- A register form of three operands retires with its result in X[d]. -/
theorem rrr_ready {d a c : BitVec 5} {f : Word → Word → Word} (hr : s.ready [.x d, .x a, .x c]) :
    s.rrr d a c f = .next ((s.setX d (f (s.xr a) (s.xr c))).retire s.me.tstep (s.nextPc 4)) := by
  rw [State.rrr, instr_ready hr, finish_goes]

theorem add_retires {d a c : BitVec 5} (hr : s.ready [.x d, .x a, .x c]) :
    Retires (.add d a c) s 4 (s.setX d (s.xr a + s.xr c)) := by
  rw [Retires, exec_add, execAdd, rrr_ready hr]

end Sys2Proof.Machine
end

section
open Sys2Proof Sys2Proof.Machine

/-- Settles O21. The reads and writes of x0 and m0 are those of the context; an add to x0 is the retiring of an add whose
write is discarded. -/
theorem hardwiredRegisters : Obligations.HardwiredRegisters := by
  unfold Obligations.HardwiredRegisters
  intro s v w a c
  refine ⟨State.xr_zero, State.mr_zero, Ctx.setX_zero _ v, Ctx.setM_zero _ w, fun hr => ?_⟩
  rw [← State.setX_zero (s.xr a + s.xr c)]
  exact add_retires hr
end

section
/-! SUPPORT. Two's complement (R46): the integer that a lane holds, and the lane of an integer. -/

namespace Sys2Proof.Machine

variable {w a c : Nat}

@[simp] theorem sgn_zero (w : Nat) : sgn w 0 = 0 := by simp [sgn]

/-- The pattern of the sign bit alone is the least value. -/
theorem sgn_signBit (hw : 1 ≤ w) : sgn w (2 ^ (w - 1)) = intMin w true := by
  have hhalf := Nat.two_pow_pred_add_two_pow_pred hw
  zify at hhalf
  simp only [sgn, intMin, if_neg (lt_irrefl _), if_true, ← hhalf]
  push_cast
  ring

/-- The pattern of all ones is -1. -/
theorem sgn_allOnes (hw : 1 ≤ w) : sgn w (2 ^ w - 1) = -1 := by
  have hhalf := Nat.two_pow_pred_add_two_pow_pred hw
  rw [sgn, if_neg (by omega), Nat.cast_sub Nat.one_le_two_pow]
  push_cast
  ring

/-- Different lanes hold different integers: the upper half of the lanes holds the numbers below 0. -/
theorem sgn_inj (ha : a < 2 ^ w) (hc : c < 2 ^ w) : sgn w a = sgn w c ↔ a = c := by
  refine ⟨fun h => ?_, congrArg _⟩
  zify at ha hc
  unfold sgn at h
  split at h <;> split at h <;> omega

/-- An integer that fits is its own lane. -/
theorem wrap_natCast (ha : a < 2 ^ w) : wrap w (a : Int) = a := by
  rw [wrap, Int.emod_eq_of_lt (Int.natCast_nonneg a) (mod_cast ha), Int.toNat_natCast]

end Sys2Proof.Machine
end

section
/-! SUPPORT. The cases of a division (R47). -/

namespace Sys2Proof.Machine

variable {w x y : Nat}

/-- A zero divisor, signed or not. -/
theorem intDiv_zero (w : Nat) (g : Bool) (x : Nat) : intDiv w g x 0 = (0, x, iDZ) := by
  cases g <;> simp [intDiv, intVal]

/-- An unsigned quotient and remainder fit their lanes. -/
theorem intDiv_unsigned (hx : x < 2 ^ w) (hy : y < 2 ^ w) (h0 : y ≠ 0) : intDiv w false x y = (x / y, x % y, 0) := by
  have hquot : wrap w ((x : Int) / y) = x / y := by
    rw [← Int.natCast_div, wrap_natCast (Nat.lt_of_le_of_lt (Nat.div_le_self x y) hx)]
  have hrem : wrap w ((x : Int).tmod y) = x % y := by
    rw [← Int.ofNat_tmod, wrap_natCast (Nat.lt_trans (Nat.mod_lt x (by omega)) hy)]
  simp [intDiv, intVal, h0, hquot, hrem]

/-- The most negative number by -1. -/
theorem intDiv_overflow (hw : 1 ≤ w) : intDiv w true (2 ^ (w - 1)) (2 ^ w - 1) = (2 ^ (w - 1), 0, iOV) := by
  simp [intDiv, intVal, sgn_signBit hw, sgn_allOnes hw]

/-- Every other signed division by a number other than 0. -/
theorem intDiv_signed (hw : 1 ≤ w) (hx : x < 2 ^ w) (hy : y < 2 ^ w) (h0 : y ≠ 0)
    (hcorner : ¬(x = 2 ^ (w - 1) ∧ y = 2 ^ w - 1)) :
    intDiv w true x y = (wrap w ((sgn w x).tdiv (sgn w y)), wrap w ((sgn w x).tmod (sgn w y)), 0) := by
  have hhalf := Nat.two_pow_pred_add_two_pow_pred hw
  have hzero : sgn w y = 0 ↔ y = 0 := by rw [← sgn_zero w, sgn_inj hy (by omega)]
  have hleast : sgn w x = intMin w true ↔ x = 2 ^ (w - 1) := by rw [← sgn_signBit hw, sgn_inj hx (by omega)]
  have hminus : sgn w y = -1 ↔ y = 2 ^ w - 1 := by rw [← sgn_allOnes hw, sgn_inj hy (by omega)]
  have hnot : ¬(sgn w x = intMin w true ∧ sgn w y = -1) := by rwa [hleast, hminus]
  simp [intDiv, intVal, hzero, h0, hnot]

end Sys2Proof.Machine
end

section
open Sys2Proof Sys2Proof.Machine

/-- Settles O8, case by case. That the two corners are the only signed ones rests on different lanes holding different
integers. -/
theorem divisionCorners : Obligations.DivisionCorners := by
  unfold Obligations.DivisionCorners
  intro w x y hw _ hx hy
  refine ⟨fun g h0 => ?_, intDiv_unsigned hx hy, intDiv_signed hw hx hy, fun hmin hminus => ?_⟩
  · rw [h0]; exact intDiv_zero w g x
  · rw [hmin, hminus]; exact intDiv_overflow hw
end

section
/-! SUPPORT. Writes of the executing context in a row, and masked writes of lanes that set no flag (R88, R134). -/

namespace Sys2Proof

/-- Of two writes at one key the second stands. -/
@[simp] theorem Table.put_put {α : Type} (t : Table α) (k : Nat) (v w : α) :
    Table.put (Table.put t k v) k w = Table.put t k w := by
  induction t with
  | nil => simp [Table.put]
  | cons p t ih =>
    obtain ⟨j, u⟩ := p
    by_cases hlt : k < j
    · simp [Table.put, hlt]
    · by_cases heq : k = j
      · simp [Table.put, heq]
      · simp [Table.put, hlt, heq, ih]

namespace Machine

@[simp] theorem Core.setCtx_setCtx (c : Core) (k : Nat) (x z : Ctx) : (c.setCtx k x).setCtx k z = c.setCtx k z := by
  simp [Core.setCtx]
@[simp] theorem State.setCoreAt_setCoreAt (s : State) (k : Nat) (c d : Core) :
    (s.setCoreAt k c).setCoreAt k d = s.setCoreAt k d := by
  simp [State.setCoreAt]
@[simp] theorem State.setMe_setMe (s : State) (x z : Ctx) : (s.setMe x).setMe z = s.setMe z := by
  calc (s.setMe x).setMe z = (s.setMe x).setCoreAt s.cur ((s.core.setCtx s.ctx x).setCtx s.ctx z) := by
        rw [← State.core_setMe]; rfl
    _ = s.setMe z := by rw [Core.setCtx_setCtx]; exact State.setCoreAt_setCoreAt s _ _ _
@[simp] theorem State.updMe_updMe (s : State) (f g : Ctx → Ctx) : (s.updMe f).updMe g = s.updMe fun x => g (f x) := by
  rw [State.updMe, State.me_updMe]; exact State.setMe_setMe s _ _

@[simp] theorem Flags.or_none (f : Flags) : f.or Flags.none = f := by simp [Flags.or, Flags.none]

/-- The empty set of flags leaves a state whose last write was of a V register. -/
@[simp] theorem State.setFlags_none_setV (s : State) (d : BitVec 5) (v : Nat) :
    (s.setV d v).setFlags Flags.none = s.setV d v := by
  simp [State.setV, State.setFlags, Flags.none]

variable {act : Nat → Bool}

/-- Lane `j` of the result of masked lanes depends on lane `j` of the sources alone. -/
theorem mapLanes_fst (f : Nat → Nat → Nat → Nat → Nat × Flags) {i : Nat} {os as cs : List Nat} (ha : as.length = os.length)
    (hc : cs.length = os.length) : (mapLanes act f i os as cs).1 = (List.range os.length).map fun j =>
      if act (i + j) then (f (i + j) (os.getD j 0) (as.getD j 0) (cs.getD j 0)).1 else os.getD j 0 := by
  induction os generalizing i as cs with
  | nil => simp [mapLanes]
  | cons o os ih =>
    obtain ⟨a, as, rfl⟩ := List.exists_cons_of_length_eq_add_one ha
    obtain ⟨c, cs, rfl⟩ := List.exists_cons_of_length_eq_add_one hc
    simp only [List.length_cons, Nat.add_right_cancel_iff] at ha hc
    simp only [mapLanes, ih ha hc, List.length_cons, List.range_succ_eq_map, List.map_cons, List.map_map]
    refine congrArg₂ List.cons ?_ (List.map_congr_left fun j _ => ?_)
    · simp only [Nat.add_zero, List.getD_cons_zero]; split <;> rfl
    · simp only [Function.comp_apply, List.getD_cons_succ, Nat.succ_eq_add_one, Nat.add_right_comm, Nat.add_assoc]

/-- Lanes whose function sets no flag set none together. -/
theorem mapLanes_snd_none (f : Nat → Nat → Nat → Nat → Nat) {i : Nat} {os as cs : List Nat} :
    (mapLanes act (fun i o a c => (f i o a c, Flags.none)) i os as cs).2 = Flags.none := by
  induction os generalizing i as cs with
  | nil => simp [mapLanes]
  | cons o os ih =>
    cases as with
    | nil => simp [mapLanes]
    | cons a as =>
      cases cs with
      | nil => simp [mapLanes]
      | cons c cs => simp only [mapLanes, ih, Flags.or_none]; split <;> rfl

@[simp] theorem length_lanes (w v : Nat) : (lanes w v).length = 1024 / w := by simp [lanes]

theorem getD_lanes {w v j : Nat} (h : j < 1024 / w) : (lanes w v).getD j 0 = laneOf w v j := by
  simp [lanes, laneOf, List.getD_eq_getElem?_getD, h]

/-- A masked write whose function sets no flag changes V[d] alone. -/
theorem vwrite_plain (s : State) {w : Nat} (k : BitVec 3) (d : BitVec 5) {as cs : List Nat}
    (f : Nat → Nat → Nat → Nat → Nat) (ha : as.length = 1024 / w) (hc : cs.length = 1024 / w) :
    s.vwrite w k d as cs (fun i o a c => (f i o a c, Flags.none)) = s.setV d (ofLanes w ((List.range (1024 / w)).map fun i =>
      if s.act k i then f i (laneOf w (s.vr d) i) (as.getD i 0) (cs.getD i 0) else laneOf w (s.vr d) i)) := by
  have hlanes : (mapLanes (s.act k) (fun i o a c => (f i o a c, Flags.none)) 0 (lanes w (s.vr d)) as cs).1 =
      (List.range (1024 / w)).map fun i =>
        if s.act k i then f i (laneOf w (s.vr d) i) (as.getD i 0) (cs.getD i 0) else laneOf w (s.vr d) i := by
    rw [mapLanes_fst _ (by simpa using ha) (by simpa using hc), length_lanes]
    refine List.map_congr_left fun i hi => ?_
    rw [Nat.zero_add, getD_lanes (List.mem_range.1 hi)]
  rw [State.vwrite, mapLanes_snd_none, hlanes, State.setFlags_none_setV]

/-- A masked write of the lanes `xs`, as they stand, is a permutation of R147 by them. -/
theorem vwrite_values (s : State) (k : BitVec 3) (y : LaneT) (d : BitVec 5) {xs : List Nat} (h : xs.length = 1024 / y.bits) :
    s.vwrite y.bits k d xs xs (fun _ _ x _ => (x, Flags.none)) = s.permuted k y d fun i => xs.getD i 0 :=
  vwrite_plain s k d (fun _ _ x _ => x) h h

end Machine
end Sys2Proof
end

section
/-! SUPPORT. Reductions, scans and vkeep2 (R62, R147 to R149): the lanes that they take, and what each form does. -/

namespace Sys2Proof.Machine

/-- Every lane takes part with its own value or with the identity. -/
theorem withIdent_eq_map (act : Nat → Bool) (e i : Nat) (xs : List Nat) :
    withIdent act e i xs = (List.range xs.length).map fun j => if act (i + j) then xs.getD j 0 else e := by
  induction xs generalizing i with
  | nil => rfl
  | cons x xs ih =>
    simp only [withIdent, ih, List.length_cons, List.range_succ_eq_map, List.map_cons, List.map_map]
    refine congrArg₂ List.cons rfl (List.map_congr_left fun j _ => ?_)
    simp only [Function.comp_apply, List.getD_cons_succ, Nat.succ_eq_add_one, Nat.add_right_comm, Nat.add_assoc]

theorem withIdent_lanes (act : Nat → Bool) (e w v : Nat) : withIdent act e 0 (lanes w v) =
    (List.range (1024 / w)).map fun i => if act i then laneOf w v i else e := by
  rw [withIdent_eq_map, length_lanes]
  refine List.map_congr_left fun i hi => ?_
  rw [Nat.zero_add, getD_lanes (List.mem_range.1 hi)]

theorem length_scanFrom (f : Nat → Nat → Nat × FFlags) (v : Nat) (xs : List Nat) : (scanFrom f v xs).1.length = xs.length := by
  induction xs generalizing v with
  | nil => rfl
  | cons x xs ih => simp [scanFrom, ih]

/-- A scan has a running value for each lane. -/
theorem length_scanLanes (o : RedOp) (t : ElemT) (xs : List Nat) : (scanLanes o t xs).1.length = xs.length := by
  cases xs with
  | nil => rfl
  | cons x xs => simp [scanLanes, length_scanFrom]

variable {s : State} {len : Nat} {k c : BitVec 3} {y : LaneT} {a b : BitVec 5}

theorem vredAt_ready (o : RedOp) (hr : s.ready [.v a, .v b, .m k]) :
    s.vredAt len k y o a b = .next ((s.reduced k y o a b).retire s.me.tstep (s.nextPc len)) := by
  rw [State.vredAt, instr_ready hr, finish_goes, withIdent_lanes]; rfl

theorem vscanAt_ready (o : RedOp) (hr : s.ready [.v a, .v b, .m k]) :
    s.vscanAt len k y o a b = .next ((s.scanned k y o a b).retire s.me.tstep (s.nextPc len)) := by
  rw [State.vscanAt, instr_ready hr, finish_goes, withIdent_lanes, vwrite_values s k y a (by simp [length_scanLanes])]; rfl

theorem keep2_ready (hr : s.ready [.v a, .v b, .m c]) : s.keep2 len y a b c =
    .next (((s.setV a (ofLanes y.bits (keepLanes y (lanes y.bits (s.vr b))).1)).setM c
      (BitVec.ofNat 128 (keepLanes y (lanes y.bits (s.vr b))).2)).retire s.me.tstep (s.nextPc len)) := by
  rw [State.keep2, instr_ready hr, finish_goes]

end Sys2Proof.Machine
end

section
open Sys2Proof Sys2Proof.Machine

/-- Settles O35. By definition each form of vred, of vscan and of vkeep2 is the shared operation at its own mask, operation
and length. -/
theorem reductionResults : Obligations.ReductionResults := by
  unfold Obligations.ReductionResults
  intro k q e y r a b s
  exact ⟨vredAt_ready (.add .rne), vredAt_ready (.add r), vredAt_ready .max, vredAt_ready .max, vredAt_ready .min, vredAt_ready .min,
    vscanAt_ready (.add .rne), vscanAt_ready (.add r), vscanAt_ready .max, vscanAt_ready .max, keep2_ready, keep2_ready⟩
end

section
/-! SUPPORT. Shape-form instructions (R72 to R75): their accesses to the scratchpad leave the x registers as they are, so
that the operands are the same after the stages of R75; what a step, the beginning and shp.check answer. -/

namespace Sys2Proof.Machine

variable {s t u v w x : State}

/-! What has been done before a computation can go on. -/

/-- A computation that goes on past its first part has had the result of it. -/
theorem Run.bind_eq_ok {α β : Type} {r : Run α} {f : α → Run β} {b : β} (h : (r >>= f) = .ok b) :
    ∃ a, r = .ok a ∧ f a = .ok b := by
  cases r with
  | error e => cases h
  | ok a => exact ⟨a, rfl, h⟩

/-! Reads of the scratchpad. -/

/-- The times of read steps are no part of a context. -/
@[simp] theorem State.me_stampReads (s : State) (ls : List Nat) (pts : BitVec 64) : (s.stampReads ls pts).2.me = s.me :=
  List.foldlRecOn (motive := fun t : State => t.me = s.me) ls _ rfl fun _ h _ _ => h

/-- Nor are the times of the lines that a core has touched. -/
@[simp] theorem State.me_touch (s : State) (a : Word) (n : Nat) (pts : BitVec 64) : (s.touch a n pts).me = s.me := by
  unfold State.touch
  split
  · rfl
  · rw [State.me, State.core_updCore]; rfl

/-- A read step of the scratchpad moves the context's time alone. -/
theorem ctxRead_pool_xr {a n : Nat} {p : Word} {bs : List Byte} (h : s.ctxRead (.pool a) p n = .ok (bs, u)) (r : BitVec 5) :
    u.xr r = s.xr r := by
  cases h
  simp only [State.xr, State.me_touch, State.me_updMe, State.sealWalks, State.me_stampReads]
  rfl

/-- An access to the scratchpad that waits for nothing changes nothing before its step (R116). -/
theorem accReady_pool {rd wr : Bool} {a n : Nat} {p : Word} (h : s.accReady rd wr (.pool a) p n = .ok u) : u = s := by
  unfold State.accReady State.partReady at h
  split at h
  · cases h
  · split at h
    · cases h
    · split at h <;> cases h
      rfl

theorem State.poolReady_cons (s : State) (l : Bool × Nat × Nat) (ls : List (Bool × Nat × Nat)) : s.poolReady (l :: ls) =
    ((if l.2.2 = 0 then .ok s else s.accReady (!l.1) l.1 (.pool l.2.1) (word l.2.1) l.2.2) >>= fun t => t.poolReady ls) := by
  by_cases h : l.2.2 = 0 <;> simp only [State.poolReady, h, if_true, if_false]

theorem State.poolReads_cons (s : State) (l : Nat × Nat) (ls : List (Nat × Nat)) : s.poolReads (l :: ls) =
    ((if l.2 = 0 then .ok ([], s) else s.ctxRead (.pool l.1) (word l.1) l.2) >>= fun p =>
      p.2.poolReads ls >>= fun q => .ok (p.1 :: q.1, q.2)) := by
  by_cases h : l.2 = 0 <;> simp only [State.poolReads, h, if_true, if_false]

theorem poolReady_eq {ls : List (Bool × Nat × Nat)} (h : s.poolReady ls = .ok u) : u = s := by
  induction ls generalizing s with
  | nil => cases h; rfl
  | cons l ls ih =>
    rw [State.poolReady_cons] at h
    obtain ⟨t, ht, hrest⟩ := Run.bind_eq_ok h
    rw [ih hrest]
    split at ht
    · cases ht; rfl
    · exact accReady_pool ht

theorem poolReads_xr {ls : List (Nat × Nat)} {bs : List (List Byte)} (h : s.poolReads ls = .ok (bs, u)) (r : BitVec 5) :
    u.xr r = s.xr r := by
  induction ls generalizing s bs with
  | nil => cases h; rfl
  | cons l ls ih =>
    rw [State.poolReads_cons] at h
    obtain ⟨⟨b, t⟩, ht, hrest⟩ := Run.bind_eq_ok h
    obtain ⟨⟨bs', t'⟩, ht', hend⟩ := Run.bind_eq_ok hrest
    cases hend
    rw [ih ht']
    split at ht
    · cases ht; rfl
    · exact ctxRead_pool_xr ht r

variable {ops : List Opnd} {ok : Type4 → Bool} {types red : Bool}

/-- The stages of R75 leave the x registers, whatever they find. -/
theorem validate_xr {c : Checked} (h : s.validate ops ok types red = .ok (c, u)) (r : BitVec 5) : u.xr r = s.xr r := by
  unfold State.validate at h
  split at h
  · cases h; rfl
  · obtain ⟨s₁, hready, h⟩ := Run.bind_eq_ok h
    obtain ⟨⟨bs, s₂⟩, hreads, h⟩ := Run.bind_eq_ok h
    have hrecs : s₂.xr r = s.xr r := by rw [poolReads_xr hreads, poolReady_eq hready]
    dsimp only at h
    split at h
    · cases h; exact hrecs
    · obtain ⟨s₃, hready', h⟩ := Run.bind_eq_ok h
      obtain ⟨⟨ts, s₄⟩, hreads', h⟩ := Run.bind_eq_ok h
      cases h
      rw [poolReads_xr hreads', poolReady_eq hready', hrecs]

/-! One step. -/

variable {run : ShapeRun} {d : Rec} {rest : List Rec} {st : ShStep} {began : Bool}

/-- After a step that leaves elements the context waits for nothing and keeps its progress (R72, R74). -/
theorem shapeGo_more (hd : recsOf run.recs = d :: rest) (hn : run.cur + st.n < d.count) (hready : u.poolReady st.accs = .ok v)
    (hact : st.act v = .ok w) : u.shapeGo run st began =
      .error (.wait (w.updMe fun c => { c with shape := some { run with cur := run.cur + st.n } }) .none) := by
  simp [State.shapeGo, hd, Nat.not_le.2 hn, hready, hact, bind, Except.bind]

/-- The last step ends with CURSOR 0 (R74). -/
theorem shapeGo_last (hd : recsOf run.recs = d :: rest) (hn : d.count ≤ run.cur + st.n)
    (hready : u.poolReady (st.accs ++ [(true, d.addr + 24, 4)]) = .ok v) (hact : st.act v = .ok w)
    (hcur : w.setCursor d.addr 0 = .ok x) : u.shapeGo run st began = goes (x.updMe fun c => { c with shape := none }) := by
  simp [State.shapeGo, hd, hn, hready, hact, hcur, bind, Except.bind]

/-! The instruction. -/

section
variable {us : List Use} {opsAt : State → List Opnd} {step : State → ShapeRun → ShStep}

/-- An instruction that stands at a step takes it, whether it has begun before or begins with it. -/
theorem shapeForm_at (hr : s.ready us) (hd : recsOf run.recs = d :: rest)
    (hat : s.shapeAt (opsAt s) ok types red u run d) : ∃ began,
      s.shapeForm us opsAt ok types red step = s.finish 12 (u.shapeGo run (step u run) began) := by
  rw [State.shapeForm, instr_ready hr]
  rcases hat with ⟨hs, rfl⟩ | ⟨hs, hcheck, hval, hlt, hcur⟩
  · exact ⟨true, by rw [hs]⟩
  · obtain ⟨check, recs, cur⟩ := run
    obtain rfl : check = false := hcheck
    obtain rfl : cur = _ := hcur
    refine ⟨false, ?_⟩
    simp [hs, hval, hd, Nat.not_le.2 hlt, bind, Except.bind]

variable (hr : s.ready us) (hs : s.me.shape = none)
include hr hs

/-- A record that fails a stage (R75). -/
theorem shapeForm_bad {j : Nat} {e : RecErr} (hval : s.validate (opsAt s) ok types red = .ok (.bad j e, u)) :
    s.shapeForm us opsAt ok types red step = .next ((s.walkFault e.1 e.2).takeTrap s.me.pc e.1 e.2) := by
  rw [State.shapeForm, instr_ready hr, ← finish_fault (len := 12)]
  simp [hs, hval, bind, Except.bind]

/-- Records without elements: CURSOR of the first operand becomes 0, whose address the stages have not moved. -/
theorem shapeForm_empty {o : Opnd} {more : List Opnd} (hops : opsAt u = o :: more)
    (hval : s.validate (opsAt s) ok types red = .ok (.empty, u)) (hready : u.poolReady [(true, o.2.1 + 24, 4)] = .ok v)
    (hcur : v.setCursor o.2.1 0 = .ok w) :
    s.shapeForm us opsAt ok types red step = .next (w.retire s.me.tstep (s.nextPc 12)) := by
  rw [State.shapeForm, instr_ready hr, ← finish_next]
  simp [hs, hval, hops, hready, hcur, andGoes, bind, Except.bind]

/-- A CURSOR at or above the element count becomes 0 (R74). -/
theorem shapeForm_done {raw : List (Nat × BitVec 256 × List Nat)}
    (hval : s.validate (opsAt s) ok types red = .ok (.good raw, u)) (hd : recsOf raw = d :: rest) (hle : d.count ≤ d.cursor)
    (hready : u.poolReady [(true, d.addr + 24, 4)] = .ok v) (hcur : v.setCursor d.addr 0 = .ok w) :
    s.shapeForm us opsAt ok types red step = .next (w.retire s.me.tstep (s.nextPc 12)) := by
  rw [State.shapeForm, instr_ready hr, ← finish_next]
  simp [hs, hval, hd, hle, hready, hcur, andGoes, bind, Except.bind]
end

/-- Every instruction of this form whose operands are a function of the x registers does what R72 to R75 say. -/
theorem shapeForm_steps {i : Instr} {us : List Use} {opsAt : State → List Opnd} {step : State → ShapeRun → ShStep}
    (hexec : exec i s = s.shapeForm us opsAt ok types red step)
    (hops : ∀ u : State, (∀ r, u.xr r = s.xr r) → opsAt u = opsAt s) :
    ShapeForm i s us (opsAt s) ok types red step := by
  intro hr
  refine ⟨fun u v w run d rest hd hat => ?_, fun hs u => ⟨fun j e hval => ?_, ?_, ?_⟩⟩
  · obtain ⟨began, hat⟩ := shapeForm_at (step := step) hr hd hat
    refine ⟨fun hn hready hact => ?_, fun hn hready hact x hcur => ?_⟩
    · rw [hexec, hat, shapeGo_more hd hn hready hact, finish_wait]
    · rw [Retires, hexec, hat, shapeGo_last hd hn hready hact hcur, finish_goes]
  · rw [Traps, hexec, shapeForm_bad hr hs hval]
  · intro o rest v w ho hval hready hcur
    rw [Retires, hexec, shapeForm_empty hr hs ((hops u (validate_xr hval)).trans ho) hval hready hcur]
  · intro raw d rest v w hval hd hle hready hcur
    rw [Retires, hexec, shapeForm_done hr hs hval hd hle hready hcur]

/-! The operands depend on the x registers alone. -/

theorem ops3_congr (a b c : BitVec 5) (h : ∀ r, u.xr r = s.xr r) : ops3 a b c u = ops3 a b c s := by
  simp only [ops3, h]
theorem ops2_congr (a b : BitVec 5) (h : ∀ r, u.xr r = s.xr r) : ops2 a b u = ops2 a b s := by
  simp only [ops2, h]

section
variable {i : Instr} {a b c : BitVec 5} {step : State → ShapeRun → ShStep}

/-- The instructions of three records (R151). -/
theorem shapeForm_ops3 (hexec : exec i s = s.shapeForm [.x a, .x b, .x c] (ops3 a b c) ok types red step) :
    ShapeForm i s [.x a, .x b, .x c] (ops3 a b c s) ok types red step :=
  shapeForm_steps hexec fun _ => ops3_congr a b c

/-- The instructions of two records (R151, R153). -/
theorem shapeForm_ops2 (hexec : exec i s = s.shapeForm [.x a, .x b] (ops2 a b) ok types red step) :
    ShapeForm i s [.x a, .x b] (ops2 a b s) ok types red step :=
  shapeForm_steps hexec fun _ => ops2_congr a b
end

/-! shp.check (R154). -/

/-- The operands of shp.check: C and E where they are not x0. -/
def checkOps (b c e : BitVec 5) (s : State) : List Opnd :=
  [(1, (s.xr b).toNat, true)] ++ (if c = 0 then [] else [(2, (s.xr c).toNat, false)]) ++
    (if e = 0 then [] else [(3, (s.xr e).toNat, false)])

/-- Where shp.check stands: in a run that it has begun, or at the first of its steps after stage 1. -/
def State.checkAt (s : State) (ops : List Opnd) (run : ShapeRun) : Prop :=
  s.me.shape = some run ∨ (s.me.shape = none ∧ s.opStage1 ops = none ∧ run = ⟨true, [], 0⟩)

/-- The word that tells what a check has found. -/
def Checked.checkWord (ops : List Opnd) : Checked → Word
  | .bad j e => Machine.checkWord ops j e
  | _ => 0

theorem Checked.checkWord_bad (ops : List Opnd) (j : Nat) (e : RecErr) :
    (Checked.bad j e).checkWord ops = Machine.checkWord ops j e := rfl
theorem Checked.checkWord_passes (ops : List Opnd) {o : Checked} (h : ∀ j e, o ≠ .bad j e) : o.checkWord ops = 0 := by
  cases o with
  | bad j e => exact absurd rfl (h j e)
  | empty => rfl
  | good recs => rfl

/-- A check that has ended keeps no progress. -/
def State.checkEnded (s : State) : State := s.updMe fun x => { x with shape := none }

theorem exec_shpCheck (a b c e : BitVec 5) (s : State) : exec (.shpCheck a b c e) s = execShpCheck a b c e s := rfl

section
variable {a b c e : BitVec 5} {next : ShapeRun} (hr : s.ready [.x a, .x b, .x c, .x e])
include hr

/-- What stage 1 finds is written at once. -/
theorem shpCheck_stage1 (hs : s.me.shape = none) {q : Nat × RecErr} (hq : s.opStage1 (checkOps b c e s) = some q) :
    Retires (.shpCheck a b c e) s 12 (s.checkEnded.setX a (checkWord (checkOps b c e s) q.1 q.2)) := by
  unfold checkOps at hq
  rw [Retires, exec_shpCheck, execShpCheck, instr_ready hr]
  simp only [hs, hq, finish_goes]
  rfl

/-- A step after which records or length tables remain. -/
theorem shpCheck_more (hat : s.checkAt (checkOps b c e s) run) (hstep : s.checkStep (checkOps b c e s) run = .ok (none, next, u)) :
    exec (.shpCheck a b c e) s = .next ((u.updMe fun x => { x with shape := some next }).setWait .none) := by
  unfold checkOps at hat hstep
  rw [exec_shpCheck, execShpCheck, instr_ready hr]
  rcases hat with hs | ⟨hs, h1, rfl⟩
  · simp only [hs, hstep, finish_wait]
  · simp only [hs, h1, hstep, finish_wait]

/-- The step that ends the check writes what it finds. -/
theorem shpCheck_ends {o : Checked} (hat : s.checkAt (checkOps b c e s) run)
    (hstep : s.checkStep (checkOps b c e s) run = .ok (some o, next, u)) :
    Retires (.shpCheck a b c e) s 12 (u.checkEnded.setX a (o.checkWord (checkOps b c e s))) := by
  unfold checkOps at hat hstep
  rw [Retires, exec_shpCheck, execShpCheck, instr_ready hr]
  rcases hat with hs | ⟨hs, h1, rfl⟩
  · simp only [hs, hstep, finish_goes]
    cases o <;> rfl
  · simp only [hs, h1, hstep, finish_goes]
    cases o <;> rfl
end

end Sys2Proof.Machine
end

section
open Sys2Proof Sys2Proof.Machine

/-- Settles O39. Each instruction is the shared form at its own operands and step, whose one idea is that the stages of R75
leave the x registers, so that CURSOR 0 goes to the record that was checked; shp.check has its own three outcomes. -/
theorem shapeFormSteps : Obligations.ShapeFormSteps := by
  unfold Obligations.ShapeFormSteps
  intro r a b c e s
  refine ⟨shapeForm_ops3 rfl, shapeForm_ops3 rfl, shapeForm_ops3 rfl, shapeForm_ops3 rfl, -- sadd, ssub, smul, sfma
    shapeForm_ops3 rfl, shapeForm_ops3 rfl, -- smin, smax
    shapeForm_ops2 rfl, shapeForm_ops2 rfl, shapeForm_ops2 rfl, -- scvt, scopy, sexp2
    shapeForm_ops2 rfl, shapeForm_ops2 rfl, -- srsum, srmax
    shapeForm_steps (opsAt := fun s => [(1, (s.xr a).toNat, true)]) rfl fun u h => by simp only [h], -- sbcast
    fun hr => ⟨fun hs q hq => shpCheck_stage1 hr hs hq, fun run next u q hat hstep => ⟨?_, ?_, ?_⟩⟩⟩
  · rintro rfl
    exact shpCheck_more hr hat hstep
  · rintro j x rfl
    have hends := shpCheck_ends hr hat hstep
    rwa [Checked.checkWord_bad] at hends
  · rintro o rfl hpasses
    have hends := shpCheck_ends hr hat hstep
    rwa [Checked.checkWord_passes _ hpasses] at hends
end

section
/-! SUPPORT. The bytes of an encoding (R79): reading them back gives its words, for every instruction. -/

namespace Sys2Proof

/-! Little-endian bytes (R4). -/

@[simp] theorem length_leBytes (n v : Nat) : (leBytes n v).length = n := by
  induction n generalizing v with
  | zero => rfl
  | succ n ih => simp [leBytes, ih]

/-- A number reads back from its own bytes, whatever follows them. -/
@[simp] theorem leNat_leBytes (n v : Nat) (rest : List (BitVec 8)) : leNat n (leBytes n v ++ rest) = v % 256 ^ n := by
  induction n generalizing v with
  | zero => simp [leNat, Nat.mod_one]
  | succ n ih =>
    rw [leBytes, List.cons_append, leNat, ih, BitVec.toNat_ofNat, Nat.pow_succ' (m := 256)]
    exact Nat.mod_mul.symm

@[simp] theorem drop_leBytes (n v : Nat) (rest : List (BitVec 8)) : (leBytes n v ++ rest).drop n = rest :=
  List.drop_left' (length_leBytes n v)

/-- The bytes after the first number are those after it in what follows. -/
theorem drop_add_leBytes (n k v : Nat) (rest : List (BitVec 8)) : (leBytes n v ++ rest).drop (n + k) = rest.drop k := by
  rw [← List.drop_drop, drop_leBytes]

/-- A word whose width is that many bytes reads back whole. -/
theorem ofNat_leNat_leBytes {n m : Nat} (h : 256 ^ n = 2 ^ m) (x : BitVec m) (rest : List (BitVec 8)) :
    BitVec.ofNat m (leNat n (leBytes n x.toNat ++ rest)) = x := by
  rw [leNat_leBytes, h, Nat.mod_eq_of_lt x.isLt, BitVec.ofNat_toNat, BitVec.setWidth_eq]

/-! The length of an encoding. -/

/-- The LEN of each form of words (R79). -/
def Words.form : Words → BitVec 2
  | .short _ => 0
  | .shortLit _ _ => 1
  | .ext _ _ _ => 2
  | .extLit _ _ _ _ => 3

@[simp] theorem length_bytes (w : Words) : w.bytes.length = lenBytes w.form := by
  cases w <;> simp [Words.bytes] <;> rfl

/-- Words whose word 0 announces their form read back from their bytes, whatever follows them. -/
theorem rawOf_bytes {w : Words} (h : w.raw.len = w.form) (rest : List (BitVec 8)) : rawOf (w.bytes ++ rest) = w.raw := by
  have h32 := @ofNat_leNat_leBytes 4 32 rfl
  have h64 := @ofNat_leNat_leBytes 8 64 rfl
  cases w with
  | short w0 =>
    change w0.extractLsb' 0 2 = 0#2 at h
    simp only [rawOf, Words.bytes, h32, h]
    rfl
  | shortLit w0 l =>
    change w0.extractLsb' 0 2 = 1#2 at h
    simp only [rawOf, Words.bytes, List.append_assoc, h32, h, drop_leBytes, h64]
    rfl
  | ext w0 w1 w2 =>
    change w0.extractLsb' 0 2 = 2#2 at h
    simp only [rawOf, Words.bytes, List.append_assoc, h32, h, drop_leBytes, drop_add_leBytes 4 4]
    rfl
  | extLit w0 w1 w2 l =>
    change w0.extractLsb' 0 2 = 3#2 at h
    simp only [rawOf, Words.bytes, List.append_assoc, h32, h, drop_leBytes, drop_add_leBytes 4 4,
      drop_add_leBytes 4 8, h64]
    rfl

/-- Where the words in the bytes decode, the bytes do, and what follows the announced length is left (R79). -/
theorem decodeBytes_of_decodeRaw {bs : List (BitVec 8)} {i : Instr} (h4 : 4 ≤ bs.length)
    (hlen : lenBytes (rawOf bs).len ≤ bs.length) (h : decodeRaw (rawOf bs) = .ok i) :
    decodeBytes bs = .ok (i, bs.drop (lenBytes (rawOf bs).len)) := by
  have h0 : (rawOf bs).x0 ≠ 0 := fun e => by rw [decodeRaw, if_pos e] at h; cases h
  have h1 : (rawOf bs).x0 ≠ 0xFFFFFFFF := fun e => by rw [decodeRaw, if_neg h0, if_pos e] at h; cases h
  simp only [decodeBytes, if_neg (Nat.not_lt.2 h4), if_neg h0, if_neg h1, if_neg (Nat.not_lt.2 hlen), h]

theorem four_le_lenBytes (len : BitVec 2) : 4 ≤ lenBytes len := by revert len; decide

end Sys2Proof

namespace Sys2Proof.Laws

/-- Every encoding announces its own length in word 0, whatever its format (R79, R80). -/
theorem len_raw_encode {i : Instr} {w : Words} (h : encode i = some w) : w.raw.len = w.form := by
  cases i
  all_goals cases h -- an event has no words; of every other instruction `h` names them
  all_goals simp only [Words.raw, Words.form, len_packR, len_packI, len_packS, len_packSh, len_packU, len_packJ, len_packL,
    len_packV, len_packA, len_packB, len_packSr]

/-- The case split over the instructions: the lemma of each constructor, in the order of Instr. -/
theorem roundTrip (i : Instr) : RoundTrip.Statement i :=
  i.casesOn (motive := RoundTrip.Statement)
    RoundTrip.deviceReset RoundTrip.selfTestEnd RoundTrip.recoveryImageCheck RoundTrip.mailboxDoorbell
    RoundTrip.launchDoorbell RoundTrip.completionDoorbell RoundTrip.tailwWrite RoundTrip.queueSlotEnableWrite
    RoundTrip.launchFetch RoundTrip.spawnAdmit RoundTrip.taskExpand RoundTrip.nodeRetire RoundTrip.deadlineDiscard
    RoundTrip.taskDispatch RoundTrip.gangDrain RoundTrip.treePropagate RoundTrip.completionRecordWrite
    RoundTrip.msixHoldoffExpiry RoundTrip.msixUnmask RoundTrip.deadlineAbort RoundTrip.podMessageDeliver
    RoundTrip.applyQueueStart RoundTrip.noticeDeliver RoundTrip.cardStart RoundTrip.matrixUnitStep
    RoundTrip.copyUnitWrite RoundTrip.cardComplete RoundTrip.writeBufferDrain RoundTrip.engineBankForce
    RoundTrip.ptsAdvance RoundTrip.globalLoadReturn RoundTrip.globalStoreReturn RoundTrip.linkedBarrierEvent
    RoundTrip.powerEstimate RoundTrip.clockGate RoundTrip.bucketCharge RoundTrip.bucketRefill RoundTrip.counterSnapshot
    RoundTrip.counterWrap RoundTrip.loanTermExpiry RoundTrip.graceDeadlineExpiry RoundTrip.termNear
    RoundTrip.oidIdleRetire RoundTrip.segTermEnd RoundTrip.stopTick RoundTrip.quiesceEnd RoundTrip.flushToken
    RoundTrip.saveBufferDrain RoundTrip.huskSaveStep RoundTrip.huskValid RoundTrip.acceptStopEnd
    RoundTrip.reclaimStopEnd RoundTrip.powerEmergency RoundTrip.functionLevelReset RoundTrip.kstopWrite
    RoundTrip.kresumeWrite RoundTrip.eventSelectWrite RoundTrip.counterWrite RoundTrip.tflagsWrite RoundTrip.tgenWrite
    RoundTrip.pasidWrite RoundTrip.toffWrite RoundTrip.atsResponse RoundTrip.pasidRetireEnd RoundTrip.loadRequest
    RoundTrip.loadComplete RoundTrip.attestNonceWrite RoundTrip.attestReportDone RoundTrip.controlSpaceWrite
    RoundTrip.hostWindowRead RoundTrip.hostWindowWrite RoundTrip.hostWindowAtomic RoundTrip.peerReadRequest
    RoundTrip.peerWriteRequest RoundTrip.peerAtomicRequest RoundTrip.peerTimeout RoundTrip.add RoundTrip.sub
    RoundTrip.andX RoundTrip.orX RoundTrip.xorX RoundTrip.andn RoundTrip.orn RoundTrip.brev RoundTrip.sll RoundTrip.srl
    RoundTrip.sra RoundTrip.rol RoundTrip.ror RoundTrip.slt RoundTrip.sltu RoundTrip.minX RoundTrip.maxX RoundTrip.minu
    RoundTrip.maxu RoundTrip.mul RoundTrip.mulh RoundTrip.mulhu RoundTrip.div RoundTrip.divu RoundTrip.rem
    RoundTrip.remu RoundTrip.clz RoundTrip.ctz RoundTrip.popc RoundTrip.bswap RoundTrip.sext RoundTrip.zext
    RoundTrip.addi RoundTrip.addiLit RoundTrip.andi RoundTrip.andiLit RoundTrip.ori RoundTrip.oriLit RoundTrip.xori
    RoundTrip.xoriLit RoundTrip.slti RoundTrip.sltiLit RoundTrip.sltiu RoundTrip.sltiuLit RoundTrip.slli RoundTrip.srli
    RoundTrip.srai RoundTrip.rori RoundTrip.lui RoundTrip.pcadd RoundTrip.pcaddLit RoundTrip.li RoundTrip.lea
    RoundTrip.leaLit RoundTrip.bfx RoundTrip.bfxu RoundTrip.bfi RoundTrip.csel RoundTrip.mad RoundTrip.wfield
    RoundTrip.fadd RoundTrip.faddExt RoundTrip.fsub RoundTrip.fsubExt RoundTrip.fmul RoundTrip.fmulExt RoundTrip.fdiv
    RoundTrip.fdivExt RoundTrip.fsqrt RoundTrip.fsqrtExt RoundTrip.fmin RoundTrip.fmax RoundTrip.fmadd RoundTrip.feq
    RoundTrip.flt RoundTrip.fle RoundTrip.fclass RoundTrip.fcvti RoundTrip.fcvtf RoundTrip.ld RoundTrip.ldLit
    RoundTrip.ldP RoundTrip.st RoundTrip.stLit RoundTrip.stP RoundTrip.ldx RoundTrip.ldxLit RoundTrip.stx
    RoundTrip.stxLit RoundTrip.amoAdd RoundTrip.amoAnd RoundTrip.amoOr RoundTrip.amoXor RoundTrip.amoMin
    RoundTrip.amoMax RoundTrip.amoMinu RoundTrip.amoMaxu RoundTrip.amoSwap RoundTrip.amoFadd RoundTrip.amoCas
    RoundTrip.fenceImem RoundTrip.fenceExt RoundTrip.discard RoundTrip.dpref RoundTrip.ipref RoundTrip.beq
    RoundTrip.beqExt RoundTrip.beqLit RoundTrip.bne RoundTrip.bneExt RoundTrip.bneLit RoundTrip.blt RoundTrip.bltExt
    RoundTrip.bltLit RoundTrip.bge RoundTrip.bgeExt RoundTrip.bgeLit RoundTrip.bltu RoundTrip.bltuExt RoundTrip.bltuLit
    RoundTrip.bgeu RoundTrip.bgeuExt RoundTrip.bgeuLit RoundTrip.b RoundTrip.bLit RoundTrip.bl RoundTrip.blLit
    RoundTrip.br RoundTrip.blr RoundTrip.ret RoundTrip.loop RoundTrip.start RoundTrip.join RoundTrip.endc
    RoundTrip.yield RoundTrip.trap RoundTrip.brk RoundTrip.tret RoundTrip.rdsr RoundTrip.wrsr RoundTrip.rdtime
    RoundTrip.vld RoundTrip.vldLit RoundTrip.vldP RoundTrip.vldPLit RoundTrip.vlds RoundTrip.vldsLit RoundTrip.vldx
    RoundTrip.vldxLit RoundTrip.vldb RoundTrip.vldbLit RoundTrip.vst RoundTrip.vstLit RoundTrip.vstP RoundTrip.vstPLit
    RoundTrip.vsts RoundTrip.vstsLit RoundTrip.vstx RoundTrip.vstxLit RoundTrip.vadd RoundTrip.vaddExt RoundTrip.vsub
    RoundTrip.vsubExt RoundTrip.vmul RoundTrip.vmulExt RoundTrip.vmin RoundTrip.vminExt RoundTrip.vmax RoundTrip.vmaxExt
    RoundTrip.vand RoundTrip.vandExt RoundTrip.vor RoundTrip.vorExt RoundTrip.vxor RoundTrip.vxorExt RoundTrip.vandn
    RoundTrip.vandnExt RoundTrip.vshl RoundTrip.vshlExt RoundTrip.vshr RoundTrip.vshrExt RoundTrip.vsra
    RoundTrip.vsraExt RoundTrip.vabs RoundTrip.vabsExt RoundTrip.vneg RoundTrip.vnegExt RoundTrip.vmov RoundTrip.vmovExt
    RoundTrip.vsel RoundTrip.vselExt RoundTrip.vminu RoundTrip.vminuExt RoundTrip.vmaxu RoundTrip.vmaxuExt
    RoundTrip.vmulh RoundTrip.vmulhExt RoundTrip.vmulhu RoundTrip.vmulhuExt RoundTrip.vavg RoundTrip.vavgExt
    RoundTrip.vadds RoundTrip.vaddsExt RoundTrip.vsubs RoundTrip.vsubsExt RoundTrip.vaddsu RoundTrip.vaddsuExt
    RoundTrip.vsubsu RoundTrip.vsubsuExt RoundTrip.vcmpEq RoundTrip.vcmpEqExt RoundTrip.vcmpNe RoundTrip.vcmpNeExt
    RoundTrip.vcmpLt RoundTrip.vcmpLtExt RoundTrip.vcmpLe RoundTrip.vcmpLeExt RoundTrip.vcmpLtu RoundTrip.vcmpLtuExt
    RoundTrip.vcmpLeu RoundTrip.vcmpLeuExt RoundTrip.vclass RoundTrip.vclassExt RoundTrip.vfma RoundTrip.vfmaExt
    RoundTrip.vfms RoundTrip.vfmsExt RoundTrip.vfnma RoundTrip.vfnmaExt RoundTrip.vfnms RoundTrip.vfnmsExt
    RoundTrip.vdot4 RoundTrip.vdot4Ext RoundTrip.vdot2 RoundTrip.vdot2Ext RoundTrip.vexp2 RoundTrip.vexp2Ext
    RoundTrip.vlog2 RoundTrip.vlog2Ext RoundTrip.vrcp RoundTrip.vrcpExt RoundTrip.vrsqrt RoundTrip.vrsqrtExt
    RoundTrip.vsqrt RoundTrip.vsqrtExt RoundTrip.vtanh RoundTrip.vtanhExt RoundTrip.vsigm RoundTrip.vsigmExt
    RoundTrip.vdiv RoundTrip.vdivExt RoundTrip.vcvt RoundTrip.vpackgx RoundTrip.vunpackgx RoundTrip.vperm
    RoundTrip.vpermExt RoundTrip.vslideup RoundTrip.vslideupExt RoundTrip.vslidedn RoundTrip.vslidednExt
    RoundTrip.vbcast RoundTrip.vbcastExt RoundTrip.vext RoundTrip.vextExt RoundTrip.vins RoundTrip.vinsExt
    RoundTrip.vzip RoundTrip.vzipExt RoundTrip.vunzip RoundTrip.vunzipExt RoundTrip.vrev RoundTrip.vrevExt
    RoundTrip.vscanAdd RoundTrip.vscanAddExt RoundTrip.vscanMax RoundTrip.vscanMaxExt RoundTrip.vkeep2
    RoundTrip.vkeep2Ext RoundTrip.vredAdd RoundTrip.vredAddExt RoundTrip.vredMax RoundTrip.vredMaxExt RoundTrip.vredMin
    RoundTrip.vredMinExt RoundTrip.mand RoundTrip.mor RoundTrip.mxor RoundTrip.mandn RoundTrip.mnot RoundTrip.mpopc
    RoundTrip.mfirst RoundTrip.mfromx RoundTrip.mtox RoundTrip.mlanes RoundTrip.sadd RoundTrip.ssub RoundTrip.smul
    RoundTrip.sfma RoundTrip.smin RoundTrip.smax RoundTrip.scvt RoundTrip.scopy RoundTrip.sexp2 RoundTrip.srsum
    RoundTrip.srmax RoundTrip.sbcast RoundTrip.shpCheck RoundTrip.postMx RoundTrip.postCp RoundTrip.fwait
    RoundTrip.ftest RoundTrip.fcancel RoundTrip.fwaitany RoundTrip.fmovx RoundTrip.xmovf RoundTrip.fenceCards
    RoundTrip.barInit RoundTrip.barInitImm RoundTrip.barArrive RoundTrip.barDrop RoundTrip.barWait RoundTrip.barExpect
    RoundTrip.barExpectImm RoundTrip.barTest RoundTrip.barLink RoundTrip.pcap RoundTrip.pcapr RoundTrip.pcall
    RoundTrip.pspawn RoundTrip.psend RoundTrip.pdup RoundTrip.prel RoundTrip.pget RoundTrip.pexport RoundTrip.pimport
    RoundTrip.segMake RoundTrip.segAttach RoundTrip.segDetach RoundTrip.segPublish RoundTrip.segEvict RoundTrip.segDrop
    RoundTrip.segQuery RoundTrip.ibxTake RoundTrip.taskEnd RoundTrip.taskSpawn RoundTrip.taskSpawnExt
    RoundTrip.taskSpawnLit RoundTrip.rngOpen RoundTrip.rngTake RoundTrip.rngClose RoundTrip.gangLead
    RoundTrip.gangFollow RoundTrip.gangJoin RoundTrip.gangLeave RoundTrip.give RoundTrip.giveExt RoundTrip.accept
    RoundTrip.decline RoundTrip.lend RoundTrip.lendLit RoundTrip.recall RoundTrip.reclaim RoundTrip.ownQ RoundTrip.mint
    RoundTrip.retire RoundTrip.ownHook RoundTrip.kread RoundTrip.kwrite RoundTrip.undecodableWord
    RoundTrip.resumeComplete

end Sys2Proof.Laws
end

section
open Sys2Proof Sys2Proof.Laws

/-- Settles O59. The bytes read back as the words, since word 0 announces their number; the words decode to the instruction
by its own lemma. -/
theorem encodeDecodes : Obligations.EncodeDecodes := by
  unfold Obligations.EncodeDecodes
  intro i w rest hwf henc
  have hform : w.raw.len = w.form := len_raw_encode henc
  have hraw : rawOf (w.bytes ++ rest) = w.raw := rawOf_bytes hform rest
  have hlen : (w.bytes ++ rest).length = lenBytes w.form + rest.length := by rw [List.length_append, length_bytes]
  have hfour : 4 ≤ lenBytes w.form := four_le_lenBytes w.form
  have hdecodes : decodeRaw (rawOf (w.bytes ++ rest)) = .ok i := hraw ▸ roundTrip i w hwf henc
  have hbytes := decodeBytes_of_decodeRaw (by omega) (by rw [hraw, hform]; omega) hdecodes
  rwa [hraw, hform, ← length_bytes, List.drop_left] at hbytes

/-- Settles O58. Each of the eight words and six refusals is a closed value of the decoder. -/
theorem decodeWords : Obligations.DecodeWords := by
  unfold Obligations.DecodeWords
  exact ⟨rfl, rfl, rfl, rfl, rfl, rfl, rfl, rfl, rfl, rfl, rfl, rfl, rfl, rfl⟩
end

section
/-! SUPPORT. What a masked write of lanes changes: the lanes of its row, and the flags of its lanes (R88, R134, R40). -/

namespace Sys2Proof.Machine

/-! Lanes of a row. -/

/-- A row of lanes reads back the low bits of each. -/
theorem laneOf_ofLanes (w : Nat) (xs : List Nat) (i : Nat) : laneOf w (ofLanes w xs) i = xs.getD i 0 % 2 ^ w := by
  induction xs generalizing i with
  | nil => simp [laneOf, ofLanes]
  | cons x xs ih =>
    have hx : x % 2 ^ w < 2 ^ w := Nat.mod_lt _ (by positivity)
    cases i with
    | zero => simp [laneOf, ofLanes]
    | succ i =>
      have hrest : (x % 2 ^ w + 2 ^ w * ofLanes w xs) / 2 ^ w = ofLanes w xs := by
        rw [Nat.add_mul_div_left _ _ (by positivity), Nat.div_eq_of_lt hx, Nat.zero_add]
      rw [List.getD_cons_succ, ← ih, laneOf, ofLanes, Nat.mul_succ, Nat.add_comm (w * i), Nat.pow_add, ← Nat.div_div_eq_div_mul,
        hrest, laneOf]

/-- Lanes fill their width and no more. -/
theorem ofLanes_lt (w : Nat) (xs : List Nat) : ofLanes w xs < 2 ^ (w * xs.length) := by
  induction xs with
  | nil => simp [ofLanes]
  | cons x xs ih =>
    have hx : x % 2 ^ w < 2 ^ w := Nat.mod_lt _ (by positivity)
    calc x % 2 ^ w + 2 ^ w * ofLanes w xs < 2 ^ w * (ofLanes w xs + 1) := by rw [Nat.mul_succ]; omega
      _ ≤ 2 ^ w * 2 ^ (w * xs.length) := Nat.mul_le_mul_left _ ih
      _ = 2 ^ (w * (x :: xs).length) := by rw [← Nat.pow_add, List.length_cons, Nat.mul_succ, Nat.add_comm]

/-- A property of flags that no empty set has and a union has where a part has it is, of all lanes together, that of a
lane that takes part. -/
theorem mapLanes_flag {p : Flags → Bool} (hnone : p Flags.none = false) (hor : ∀ x z, p (x.or z) = (p x || p z))
    {act : Nat → Bool} (f : Nat → Nat → Nat → Nat → Nat × Flags) {i : Nat} {os as cs : List Nat} (ha : as.length = os.length)
    (hc : cs.length = os.length) : p (mapLanes act f i os as cs).2 = (List.range os.length).any fun j =>
      act (i + j) && p (f (i + j) (os.getD j 0) (as.getD j 0) (cs.getD j 0)).2 := by
  induction os generalizing i as cs with
  | nil => simp [mapLanes, hnone]
  | cons o os ih =>
    obtain ⟨a, as, rfl⟩ := List.exists_cons_of_length_eq_add_one ha
    obtain ⟨c, cs, rfl⟩ := List.exists_cons_of_length_eq_add_one hc
    simp only [List.length_cons, Nat.add_right_cancel_iff] at ha hc
    have hhead : p (if act i then f i o a c else (o, Flags.none)).2 = (act i && p (f i o a c).2) := by
      split <;> simp [*]
    simp only [mapLanes, hor, hhead, ih ha hc, List.length_cons, List.range_succ_eq_map, List.any_cons, List.any_map,
      Function.comp_def, Nat.add_zero, List.getD_cons_zero, List.getD_cons_succ, Nat.succ_eq_add_one, Nat.add_right_comm,
      Nat.add_assoc]

/-! What a masked write gives the lanes and the flags. -/

section
variable {s : State} {w : Nat} {k : BitVec 3} {d : BitVec 5} {as cs : List Nat} {f : Nat → Nat → Nat → Nat → Nat × Flags}
  (ha : as.length = 1024 / w) (hc : cs.length = 1024 / w)
include ha hc

/-- Lane `i` of the row that a masked write writes; a row holds 1024 / w lanes whole. -/
theorem laneOf_vwritten {i : Nat} (hi : i < 1024 / w) :
    laneOf w (ofLanes w (mapLanes (s.act k) f 0 (lanes w (s.vr d)) as cs).1 % 2 ^ (w * (1024 / w))) i =
      if s.act k i then (f i (laneOf w (s.vr d) i) (as.getD i 0) (cs.getD i 0)).1 % 2 ^ w else laneOf w (s.vr d) i := by
  have hlanes := mapLanes_fst (act := s.act k) f (i := 0) (os := lanes w (s.vr d)) (by simpa using ha) (by simpa using hc)
  have hlen : (mapLanes (s.act k) f 0 (lanes w (s.vr d)) as cs).1.length = 1024 / w := by simp [hlanes]
  have hget := getD_lanes (v := s.vr d) hi
  rw [List.getD_eq_getElem?_getD] at hget
  rw [← hlen, Nat.mod_eq_of_lt (ofLanes_lt w _), laneOf_ofLanes, hlanes]
  simp only [List.getD_eq_getElem?_getD, length_lanes, List.getElem?_map, List.getElem?_range hi, Option.map_some, Option.getD_some,
    Nat.zero_add, hget]
  split
  · rfl
  · exact Nat.mod_mod _ _ -- laneOf is a residue already

/-- Such a property of the flags that a masked write sets. -/
theorem vwritten_flag (p : Flags → Bool) (hnone : p Flags.none = false) (hor : ∀ x z, p (x.or z) = (p x || p z)) :
    p (mapLanes (s.act k) f 0 (lanes w (s.vr d)) as cs).2 = (List.range (1024 / w)).any fun i =>
      s.act k i && p (f i (laneOf w (s.vr d) i) (as.getD i 0) (cs.getD i 0)).2 := by
  rw [mapLanes_flag hnone hor f (by simpa using ha) (by simpa using hc), length_lanes, Bool.eq_iff_iff,
    List.any_eq_true, List.any_eq_true]
  refine exists_congr fun i => and_congr_right fun hi => ?_
  rw [Nat.zero_add, getD_lanes (List.mem_range.1 hi)]
end

/-! The state after a write. -/

variable {s : State} {d : BitVec 5} {v : Nat} {f : Flags}

/-- Of the executing context a write of V[d] and flags changes the flags and the dirty bitmap. -/
theorem me_setFlags_setV : ((s.setV d v).setFlags f).me = { s.me with
    dirty := setBit s.me.dirty (bitV (s.me.phys d)), fpflags := s.me.fpflags ||| f.fp, istat := s.me.istat ||| f.ist } := by
  rw [State.setFlags, State.me_updMe, State.setV, State.me_updMe]
  have h : (s.updCore fun c => c.setRow (s.vrow d) v).me = s.me := by
    rw [State.me, State.core_updCore]; rfl
  rw [h]

/-- Of the pool it changes the row of V[d]. -/
theorem pool_setFlags_setV : ((s.setV d v).setFlags f).core.pool = (s.core.setRow (s.vrow d) v).pool := by
  rw [State.setFlags, State.core_updMe, State.setV, State.core_updMe, State.core_updCore]; rfl

/-- Every V register keeps its row. -/
theorem vrow_setFlags_setV (n : BitVec 5) : ((s.setV d v).setFlags f).vrow n = s.vrow n := by
  rw [State.vrow, me_setFlags_setV, State.setFlags, State.core_updMe, State.setV, State.core_updMe, State.core_updCore]; rfl

/-- V[d] reads back the low 1,024 bits written. -/
theorem vr_setFlags_setV (h : s.core.pool.wf = true) : ((s.setV d v).setFlags f).vr d = v % 2 ^ 1024 := by
  rw [State.vr, vrow_setFlags_setV, Core.row, pool_setFlags_setV]
  exact Core.row_setRow_same _ _ _ h

/-- A byte outside the row of V[d] reads as before. -/
theorem read_setFlags_setV (h : s.core.pool.wf = true) {b : Nat} (hb : b / 128 ≠ s.vrow d) :
    ((s.setV d v).setFlags f).core.pool.read b = s.core.pool.read b := by
  rw [pool_setFlags_setV]
  exact Memory.read_writeLE_out h (by omega)

end Sys2Proof.Machine
end

section
open Sys2Proof Sys2Proof.Machine

/-- Settles O38. The row written holds the lanes of mapLanes, which are 1,024 bits at each of the four widths, so lane i reads
back what mapLanes gives it; a flag is set together where a lane that takes part sets it. -/
theorem vectorWriteLanes : Obligations.VectorWriteLanes := by
  unfold Obligations.VectorWriteLanes
  intro w k d as cs f s hw hcan ha hc
  have hwf : s.core.pool.wf = true := hcan.2 s.cur
  have hfull : w * (1024 / w) = 1024 := by rcases hw with rfl | rfl | rfl | rfl <;> rfl
  refine ⟨fun i hi => ?_, fun b => read_setFlags_setV hwf, fun n => ?_, fun n => ?_, fun n => ?_, fun n => ?_, rfl, fun b => ?_,
    fun b => ?_⟩
  · rw [State.vwrite, vr_setFlags_setV hwf, ← hfull, laneOf_vwritten ha hc hi]
  · rw [State.xr, State.vwrite, me_setFlags_setV]; rfl
  · rw [State.mr, State.vwrite, me_setFlags_setV]; rfl
  · rw [State.hr, State.vwrite, me_setFlags_setV]; rfl
  · rw [State.cr, State.vwrite, me_setFlags_setV]; rfl
  · rw [State.vwrite, me_setFlags_setV, BitVec.getLsbD_or]
    exact congrArg _ (vwritten_flag ha hc (fun x => x.fp.getLsbD b) (by simp [Flags.none]) (by simp [Flags.or]))
  · rw [State.vwrite, me_setFlags_setV, BitVec.getLsbD_or]
    exact congrArg _ (vwritten_flag ha hc (fun x => x.ist.getLsbD b) (by simp [Flags.none]) (by simp [Flags.or]))
end

section
/-! SUPPORT. Instructions that always go on (R20, R105, R106): their results, and the comparisons of R107 and R119 as
statements about the numbers that registers hold. -/

namespace Sys2Proof.Machine

variable {s t : State} {us : List Use} {len : Nat} {i : Instr} {body : State → Run Done}

/-- An instruction whose registers are ready and whose body goes on with `t` has the effect `t` and retires. -/
theorem instr_retires (hexec : exec i s = s.instr len us body) (hr : s.ready us) (hbody : body s = goes t) :
    Retires i s len t := by
  rw [Retires, hexec, instr_ready hr, hbody, finish_goes]

/-- The same where its body names where the context goes on. -/
theorem instr_retiresTo {pc : Word} (hexec : exec i s = s.instr len us body) (hr : s.ready us) (hbody : body s = .ok (.jump t pc)) :
    RetiresTo i s t pc := by
  rw [RetiresTo, hexec, instr_ready hr, hbody, finish_jump]

/-- An instruction that names no register is ready. -/
theorem ready_nil : s.ready [] := ⟨rfl, by simp [declFault]⟩

theorem ofBool_slt (x y : Word) : ofBool (x.slt y) = if x.toInt < y.toInt then 1 else 0 := by
  simp only [ofBool, BitVec.slt_iff_toInt_lt]
theorem ofBool_ult (x y : Word) : ofBool (x.ult y) = if x.toNat < y.toNat then 1 else 0 := by
  simp only [ofBool, BitVec.ult_iff_toNat_lt]
theorem ite_slt {α : Type} (x y : Word) (a b : α) : (if x.slt y then a else b) = if x.toInt < y.toInt then a else b := by
  simp only [BitVec.slt_iff_toInt_lt]
theorem ite_ult {α : Type} (x y : Word) (a b : α) : (if x.ult y then a else b) = if x.toNat < y.toNat then a else b := by
  simp only [BitVec.ult_iff_toNat_lt]

variable {d a c : BitVec 5}

/-- A register form of three operands whose result at the registers' values is `v`. -/
theorem rrr_retires {f : Word → Word → Word} {v : Word} (hr : s.ready [.x d, .x a, .x c]) (hexec : exec i s = s.rrr d a c f)
    (hv : f (s.xr a) (s.xr c) = v) : Retires i s 4 (s.setX d v) :=
  instr_retires hexec hr (congrArg (fun v => goes (s.setX d v)) hv)

/-- An immediate form. -/
theorem rri_retires {f : Word → Word → Word} {k v : Word} (hr : s.ready [.x d, .x a]) (hexec : exec i s = s.rri len d a k f)
    (hv : f (s.xr a) k = v) : Retires i s len (s.setX d v) :=
  instr_retires hexec hr (congrArg (fun v => goes (s.setX d v)) hv)

end Sys2Proof.Machine
end

section
open Sys2Proof Sys2Proof.Machine

/-- Settles O1: every form is the register form of three operands at its own function; slt, sltu and the four of min and max
compare by the numbers that the registers hold. -/
theorem integerRegisterResults : Obligations.IntegerRegisterResults := by
  unfold Obligations.IntegerRegisterResults
  intro d a c s hr
  have form : ∀ {i : Instr} {v : Word} (f : Word → Word → Word), exec i s = s.rrr d a c f → f (s.xr a) (s.xr c) = v →
      Retires i s 4 (s.setX d v) := fun f hexec hv => rrr_retires hr hexec hv
  exact ⟨form (· + ·) rfl rfl, form (· - ·) rfl rfl,
    form (· &&& ·) rfl rfl, form (· ||| ·) rfl rfl, form (· ^^^ ·) rfl rfl,
    form (fun x y => x &&& ~~~y) rfl rfl, form (fun x y => x ||| ~~~y) rfl rfl,
    form (fun x y => x <<< sh6 y) rfl rfl, form (fun x y => x >>> sh6 y) rfl rfl,
    form (fun x y => x.sshiftRight (sh6 y)) rfl rfl,
    form (fun x y => x.rotateLeft (sh6 y)) rfl rfl, form (fun x y => x.rotateRight (sh6 y)) rfl rfl,
    form (fun x y => ofBool (x.slt y)) rfl (ofBool_slt _ _), form (fun x y => ofBool (x.ult y)) rfl (ofBool_ult _ _),
    form (fun x y => if x.slt y then x else y) rfl (ite_slt _ _ _ _),
    form (fun x y => if x.slt y then y else x) rfl (ite_slt _ _ _ _),
    form (fun x y => if x.ult y then x else y) rfl (ite_ult _ _ _ _),
    form (fun x y => if x.ult y then y else x) rfl (ite_ult _ _ _ _),
    form (· * ·) rfl rfl, form (fun x y => BitVec.ofInt 64 (x.toInt * y.toInt / 2 ^ 64)) rfl rfl,
    form (fun x y => word (x.toNat * y.toNat / 2 ^ 64)) rfl rfl⟩

/-- Settles O2: every form is the register form of two operands at its own function. -/
theorem integerUnaryResults : Obligations.IntegerUnaryResults := by
  unfold Obligations.IntegerUnaryResults
  intro d a w s hr
  have form : ∀ {i : Instr} (f : Word → Word), exec i s = s.rr d a f → Retires i s 4 (s.setX d (f (s.xr a))) :=
    fun f hexec => instr_retires hexec hr rfl
  exact ⟨form BitVec.reverse rfl, form (fun x => word (clzFrom x 64)) rfl, form (fun x => word (clzFrom x.reverse 64)) rfl,
    form (fun x => word (popcTo x 64)) rfl, form bytesRev rfl,
    form (fun x => (x.extractLsb' 0 (extBits w)).signExtend 64) rfl,
    form (fun x => (x.extractLsb' 0 (extBits w)).setWidth 64) rfl⟩

/-- Settles O4: each of the four is the division of R47, of which it keeps the quotient or the remainder. -/
theorem divisionResults : Obligations.DivisionResults := by
  unfold Obligations.DivisionResults
  intro d a c s hr
  have form : ∀ {i : Instr} (signed rem : Bool), exec i s = s.divide d a c signed rem →
      let r := intDiv 64 signed (s.xr a).toNat (s.xr c).toNat
      Retires i s 4 ((s.setX d (word (if rem then r.2.1 else r.1))).setIst r.2.2) :=
    fun signed rem hexec => instr_retires hexec hr rfl
  exact ⟨form true false rfl, form false false rfl, form true true rfl, form false true rfl⟩

/-- Settles O5: the short form of each takes the field sign-extended, the long form the literal. -/
theorem immediateResults : Obligations.ImmediateResults := by
  unfold Obligations.ImmediateResults
  intro d a i l s hr
  have form : ∀ {i : Instr} {len : Nat} {v : Word} (k : Word) (f : Word → Word → Word), exec i s = s.rri len d a k f →
      f (s.xr a) k = v → Retires i s len (s.setX d v) := fun k f hexec hv => rri_retires hr hexec hv
  exact ⟨form (sx i) (· + ·) rfl rfl, form l (· + ·) rfl rfl,
    form (sx i) (· &&& ·) rfl rfl, form l (· &&& ·) rfl rfl,
    form (sx i) (· ||| ·) rfl rfl, form l (· ||| ·) rfl rfl,
    form (sx i) (· ^^^ ·) rfl rfl, form l (· ^^^ ·) rfl rfl,
    form (sx i) (fun x k => ofBool (x.slt k)) rfl (ofBool_slt _ _), form l (fun x k => ofBool (x.slt k)) rfl (ofBool_slt _ _),
    form (sx i) (fun x k => ofBool (x.ult k)) rfl (ofBool_ult _ _), form l (fun x k => ofBool (x.ult k)) rfl (ofBool_ult _ _)⟩
end

section
/-! SUPPORT. The constants and fields of R110 and R112, and the scalar f32 forms of R113: their results. -/

namespace Sys2Proof.Machine

variable {s : State} {i : Instr} {len : Nat} {d a c b sh : BitVec 5}

/-- The constant of lui and pcadd is its field over 13 zero bits (R110). -/
theorem imm19_eq (i : BitVec 19) : imm19 i = (i ++ 0#13).signExtend 64 := by
  have hfield : ((i.setWidth 32 : BitVec 32) <<< 13) = i ++ 0#13 := by
    apply BitVec.eq_of_getElem_eq
    intro j hj
    rw [BitVec.getElem_append]
    by_cases h : j < 13
    · simp [h]
    · simp [h, BitVec.getLsbD_eq_getElem (x := i) (i := j - 13) (by omega)]
  rw [imm19, hfield]

/-- The position of wfield (R112). -/
theorem toNat_extract_position (x : Word) : x.toNat % 64 = (x.extractLsb' 0 6).toNat := by
  simp [BitVec.extractLsb'_toNat]
/-- The width of wfield (R112). -/
theorem toNat_extract_width (x : Word) : x.toNat / 256 % 128 = (x.extractLsb' 8 7).toNat := by
  simp [BitVec.extractLsb'_toNat, Nat.shiftRight_eq_div_pow]

theorem const_retires (f : State → Word) (hr : s.ready [.x d]) (hexec : exec i s = s.const len d f) :
    Retires i s len (s.setX d (f s)) := instr_retires hexec hr rfl

theorem lea_retires (k : Word) (hr : s.ready [.x d, .x b, .x c]) (hexec : exec i s = s.lea len d b c sh k) :
    Retires i s len (s.setX d (s.xr b + (s.xr c <<< sh.toNat) + k)) := instr_retires hexec hr rfl

/-- A scalar f32 form of two sources (R113). -/
theorem fp2_retires (f : Nat → Nat → Nat × FFlags) (hr : s.ready [.x d, .x a, .x c]) (hexec : exec i s = s.fp2 len d a c f) :
    Retires i s len (s.fpResult d (f (s.fr a) (s.fr c))) := instr_retires hexec hr rfl

/-- A scalar f32 form of one source (R113). -/
theorem fp1_retires (f : Nat → Nat × FFlags) (hr : s.ready [.x d, .x a]) (hexec : exec i s = s.fp1 len d a f) :
    Retires i s len (s.fpResult d (f (s.fr a))) := instr_retires hexec hr rfl

end Sys2Proof.Machine
end

section
open Sys2Proof Sys2Proof.Machine

/-- Settles O6: the shifts are register forms of two operands, the rest constants and the two forms of lea. -/
theorem shiftAndConstantResults : Obligations.ShiftAndConstantResults := by
  unfold Obligations.ShiftAndConstantResults
  intro d a c sh h i k l s
  refine ⟨fun hr => ?_, fun hr => ?_, fun hr => ⟨lea_retires (sx k) hr rfl, lea_retires l hr rfl⟩⟩
  · have shift : ∀ {i : Instr} (f : Word → Word), exec i s = s.rr d a f → Retires i s 4 (s.setX d (f (s.xr a))) :=
      fun f hexec => instr_retires hexec hr rfl
    exact ⟨shift (· <<< h.toNat) rfl, shift (· >>> h.toNat) rfl, shift (·.sshiftRight h.toNat) rfl,
      shift (·.rotateRight h.toNat) rfl⟩
  · rw [← imm19_eq]
    exact ⟨const_retires (fun _ => imm19 i) hr rfl, const_retires (fun s => s.pc + imm19 i) hr rfl,
      const_retires (fun s => s.pc + l) hr rfl, const_retires (fun _ => l) hr rfl⟩

/-- Settles O7: each form goes on with the value of R112; the fields of wfield are those of its two bit ranges. -/
theorem bitFieldResults : Obligations.BitFieldResults := by
  unfold Obligations.BitFieldResults
  intro d a c e p w s
  have form : ∀ {i : Instr} {us : List Use} (f : State → Word), s.ready us →
      exec i s = s.instr 12 us (fun s => goes (s.setX d (f s))) → Retires i s 12 (s.setX d (f s)) :=
    fun f hr hexec => instr_retires hexec hr rfl
  refine ⟨fun hr => ⟨form (fun s => sx ((s.xr a).extractLsb' p.toNat w.toNat)) hr rfl,
      form (fun s => (s.xr a >>> p.toNat) &&& lowMask w.toNat) hr rfl,
      form (fun s => insertField (s.xr d) (s.xr a) p.toNat w.toNat) hr rfl⟩,
    fun hr => ⟨form (fun s => if s.xr e ≠ 0 then s.xr a else s.xr c) hr rfl,
      form (fun s => s.xr a * s.xr c + s.xr e) hr rfl⟩, fun hr => ?_⟩
  rw [← toNat_extract_position, ← toNat_extract_width]
  exact form (fun s => insertField (s.xr d) (s.xr a) ((s.xr c).toNat % 64) ((s.xr c).toNat / 256 % 128)) hr rfl

/-- Settles O9: every form is that of two, one or three sources at its function of R113 and R114. -/
theorem scalarFloatResults : Obligations.ScalarFloatResults := by
  unfold Obligations.ScalarFloatResults
  intro d a c e r s
  refine ⟨fun hr => ⟨fp2_retires (Fmt.f32.add .rne) hr rfl, fp2_retires (Fmt.f32.add r) hr rfl,
      fp2_retires (Fmt.f32.sub .rne) hr rfl, fp2_retires (Fmt.f32.sub r) hr rfl,
      fp2_retires (Fmt.f32.mul .rne) hr rfl, fp2_retires (Fmt.f32.mul r) hr rfl,
      fp2_retires (Fmt.f32.div .rne) hr rfl, fp2_retires (Fmt.f32.div r) hr rfl,
      fp2_retires (Fmt.f32.minmax false) hr rfl, fp2_retires (Fmt.f32.minmax true) hr rfl,
      fp2_retires (fpTest .eq) hr rfl, fp2_retires (fpTest .lt) hr rfl, fp2_retires (fpTest .le) hr rfl⟩,
    fun hr => ⟨fp1_retires (Fmt.f32.sqrt .rne) hr rfl, fp1_retires (Fmt.f32.sqrt r) hr rfl,
      fp1_retires (fun x => (Fmt.f32.fclass x, 0)) hr rfl, fp1_retires (fun x => (Fmt.f32.decode x).toInt r 64 true) hr rfl, ?_⟩,
    fun hr => ?_⟩
  · exact instr_retires (i := .fcvtf d a r) (body := fun s => goes (s.fpResult d (Fmt.f32.ofVal r (FVal.ofInt (s.xr a).toInt)))) rfl hr rfl
  · exact instr_retires (i := .fmadd d a c e r)
      (body := fun s => goes (s.fpResult d (Fmt.f32.fma r (s.fr a) (s.fr c) (s.fr e) false false))) rfl hr rfl
end

section
/-! SUPPORT. Branches, jumps and the loop (R119 to R122): their targets, and the two ways of a conditional branch. -/

namespace Sys2Proof.Machine

variable {s : State} {i j k : Instr} {len : Nat} {a b : BitVec 5}

/-- A branch offset counts words (R120). -/
theorem off4_eq {n : Nat} (o : BitVec n) : off4 o = BitVec.ofInt 64 (4 * o.toInt) := by
  rw [off4, sx, BitVec.signExtend, BitVec.shiftLeft_eq_mul_twoPow, BitVec.ofInt_mul, BitVec.mul_comm]
  rfl

section
variable {off : Word} {f : Word → Word → Bool} (hr : s.ready [.x a, .x b]) (hexec : exec i s = s.branch len off a b f)
include hr hexec

theorem branch_taken (hf : f (s.xr a) (s.xr b) = true) : RetiresTo i s s (s.me.pc + off) :=
  instr_retiresTo hexec hr (if_pos hf)
theorem branch_not_taken (hf : f (s.xr a) (s.xr b) = false) : Retires i s len s :=
  instr_retires hexec hr (if_neg (by rw [hf]; decide))
end

/-- The three lengths of a conditional branch of one comparison (R119). -/
theorem branches_of_branch (f : Word → Word → Bool) {o : BitVec 11} {e : BitVec 32} {l : Word} {holds : Prop}
    (hr : s.ready [.x a, .x b]) (hf : f (s.xr a) (s.xr b) = true ↔ holds) (hi : exec i s = s.branch 4 (off4 o) a b f)
    (hj : exec j s = s.branch 12 (off4 e) a b f) (hk : exec k s = s.branch 20 l a b f) : Branches i j k s o e l holds := by
  rw [← hf]
  refine ⟨fun h => ?_, fun h => ?_⟩
  · rw [← off4_eq, ← off4_eq]
    exact ⟨branch_taken hr hi h, branch_taken hr hj h, branch_taken hr hk h⟩
  · have h := Bool.eq_false_of_not_eq_true h
    exact ⟨branch_not_taken hr hi h, branch_not_taken hr hj h, branch_not_taken hr hk h⟩

/-- A fault of reserved operands in word 0 is an exception of the instruction (R82, R84). -/
theorem traps_reserved {w : BitVec 32} (h : exec i s = s.reserved w) : Traps i s Cause.RESERVED_FIELD (w.setWidth 64) := by
  rw [Traps, h, walkFault_other (by decide)]; rfl

/-- The state in which the loop decides (R122): X[a] has lost 1, and .rot has turned the register ring. -/
def State.looped (s : State) (a : BitVec 5) (r : Bool) : State :=
  if r then (s.setX a (s.xr a - 1)).updMe fun x => { x with rrb := x.rrb + 1 } else s.setX a (s.xr a - 1)

/-- Of x0 aside, the loop goes on at its target while the count that is left is not 0 (R122). -/
theorem exec_loop {r : Bool} {o : BitVec 18} (h : a ≠ 0) : exec (.loop a r o) s = s.instr 4 [.x a] fun s =>
    if s.xr a - 1 ≠ 0 then .ok (.jump (s.looped a r) ((s.looped a r).pc + off4 o)) else goes (s.looped a r) := by
  change execLoop a r o s = _
  rw [execLoop, if_neg h]
  rfl

/-- The loop leaves the context where it stands. -/
theorem pc_looped (s : State) (a : BitVec 5) (r : Bool) : (s.looped a r).pc = s.me.pc := by
  cases r <;> simp [State.looped, State.pc]

theorem loop_again {r : Bool} {o : BitVec 18} (h : a ≠ 0) (hr : s.ready [.x a]) (h1 : s.xr a ≠ 1) :
    RetiresTo (.loop a r o) s (s.looped a r) (s.me.pc + BitVec.ofInt 64 (4 * o.toInt)) := by
  rw [← off4_eq, ← pc_looped s a r]
  exact instr_retiresTo (exec_loop h) hr (if_pos (by rwa [ne_eq, sub_eq_iff_eq_add, zero_add]))

theorem loop_ends {r : Bool} {o : BitVec 18} (h : a ≠ 0) (hr : s.ready [.x a]) (h1 : s.xr a = 1) :
    Retires (.loop a r o) s 4 (s.looped a r) :=
  instr_retires (exec_loop h) hr (if_neg (by rw [h1]; decide))

end Sys2Proof.Machine
end

section
open Sys2Proof Sys2Proof.Machine

/-- Settles O10: each branch is the shared form at its own comparison, in three lengths. -/
theorem branchResults : Obligations.BranchResults := by
  unfold Obligations.BranchResults
  intro a b o e l s hr
  refine ⟨branches_of_branch (fun x y => x == y) hr beq_iff_eq rfl rfl rfl,
    branches_of_branch (fun x y => x != y) hr bne_iff_ne rfl rfl rfl,
    branches_of_branch (fun x y => x.slt y) hr BitVec.slt_iff_toInt_lt rfl rfl rfl,
    branches_of_branch (fun x y => !x.slt y) hr ?_ rfl rfl rfl,
    branches_of_branch (fun x y => x.ult y) hr BitVec.ult_iff_toNat_lt rfl rfl rfl,
    branches_of_branch (fun x y => !x.ult y) hr ?_ rfl rfl rfl⟩
  · rw [Bool.not_eq_true', ← Bool.not_eq_true, BitVec.slt_iff_toInt_lt, Int.not_lt]
  · rw [Bool.not_eq_true', ← Bool.not_eq_true, BitVec.ult_iff_toNat_lt, Nat.not_lt]

/-- Settles O11. A jump names its target and at most one link; the loop has its two outcomes by the count that is left. -/
theorem jumpResults : Obligations.JumpResults := by
  unfold Obligations.JumpResults
  intro d a o f l s
  have jump : ∀ {i : Instr} (len : Nat) (t : State) (pc : Word), exec i s = s.instr len [] (fun _ => .ok (.jump t pc)) →
      RetiresTo i s t pc := fun len t pc hexec => instr_retiresTo hexec ready_nil rfl
  refine ⟨?_, jump 12 s (s.pc + l) rfl, fun h1 => ⟨?_, ?_, ?_⟩, traps_reserved rfl, traps_reserved rfl, fun hr => ⟨?_, fun ha => ?_⟩,
    fun hr => ?_⟩
  · rw [← off4_eq]; exact jump 4 s (s.pc + off4 o) rfl
  · rw [← off4_eq]
    exact instr_retiresTo (len := 4) (body := fun s => s.x1Ready fun s => .ok (.jump (s.setX 1 (s.nextPc 4)) (s.pc + off4 o)))
      rfl ready_nil (if_neg (by rw [h1]; decide))
  · exact instr_retiresTo (len := 12) (body := fun s => s.x1Ready fun s => .ok (.jump (s.setX 1 (s.nextPc 12)) (s.pc + l)))
      rfl ready_nil (if_neg (by rw [h1]; decide))
  · exact instr_retiresTo (len := 4) (body := fun s => s.x1Ready fun s => .ok (.jump s (s.xr 1)))
      rfl ready_nil (if_neg (by rw [h1]; decide))
  · exact instr_retiresTo (len := 4) (body := fun s => .ok (.jump s (s.xr a))) rfl hr rfl
  · exact ⟨fun h1 => ⟨loop_again ha hr h1, loop_again ha hr h1⟩, fun h1 => ⟨loop_ends ha hr h1, loop_ends ha hr h1⟩⟩
  · exact instr_retiresTo (len := 4) (body := fun s => .ok (.jump (s.setX d (s.nextPc 4)) (s.xr a))) rfl hr rfl
end

section
/-! SUPPORT. What counting leaves as it is (R358 to R363): of the cores only counters change, and no context, no memory. -/

namespace Sys2Proof.Machine

/-- `t` agrees with `s` on the cores but for the counters of those that `near` names, on device memory, on the external
writes on their way and on the launch slots. -/
structure State.Alike (near : Nat → Prop) (s t : State) : Prop where
  cur : t.cur = s.cur
  ctx : t.ctx = s.ctx
  mem : t.mem = s.mem
  extw : t.extw = s.extw
  slots : t.slots = s.slots
  counters : ∀ k, { t.coreAt k with cnt := (s.coreAt k).cnt } = s.coreAt k
  others : ∀ k, ¬near k → t.coreAt k = s.coreAt k

namespace State.Alike

variable {near : Nat → Prop} {s t u : State} {k : Nat}

/-- States of the same cores, contexts in turn, memory, external writes and launch slots. -/
theorem of_cores (cores : t.cores = s.cores) (cur : t.cur = s.cur) (ctx : t.ctx = s.ctx) (mem : t.mem = s.mem)
    (extw : t.extw = s.extw) (slots : t.slots = s.slots) : s.Alike near t := by
  have hcore : ∀ k, t.coreAt k = s.coreAt k := fun k => by rw [State.coreAt, cores]; rfl
  exact ⟨cur, ctx, mem, extw, slots, fun k => by rw [hcore], fun k _ => hcore k⟩

theorem refl (s : State) : s.Alike near s := of_cores rfl rfl rfl rfl rfl rfl

theorem trans (h : s.Alike near t) (h' : t.Alike near u) : s.Alike near u where
  cur := h'.cur.trans h.cur
  ctx := h'.ctx.trans h.ctx
  mem := h'.mem.trans h.mem
  extw := h'.extw.trans h.extw
  slots := h'.slots.trans h.slots
  counters k := by rw [← h.counters k, ← h'.counters k]
  others k hk := (h'.others k hk).trans (h.others k hk)

/-- A fold of operations that leave all this as it is. -/
theorem foldl {α : Type} {f : State → α → State} (hf : ∀ (s : State) (a : α), s.Alike near (f s a)) (l : List α) (s : State) :
    s.Alike near (l.foldl f s) :=
  List.foldlRecOn (motive := s.Alike near) l f (refl s) fun t h a _ => h.trans (hf t a)

/-- A core keeps everything but its counters. -/
theorem coreAt_eq (h : s.Alike near t) (k : Nat) : t.coreAt k = { s.coreAt k with cnt := (t.coreAt k).cnt } :=
  congrArg (fun c : Core => { c with cnt := (t.coreAt k).cnt }) (h.counters k)
theorem core_eq (h : s.Alike near t) : t.core = { s.core with cnt := t.core.cnt } := by
  rw [State.core, h.cur]; exact h.coreAt_eq s.cur
theorem ctxAt_eq (h : s.Alike near t) (j : Nat) : t.core.ctxAt j = s.core.ctxAt j := by rw [h.core_eq]; rfl
theorem me_eq (h : s.Alike near t) : t.me = s.me := by rw [State.me, h.ctx]; exact h.ctxAt_eq s.ctx
theorem xr_eq (h : s.Alike near t) (n : BitVec 5) : t.xr n = s.xr n := by rw [State.xr, h.me_eq]; rfl

theorem addCounter (hk : near k) (s : State) (i ev amt : Nat) : s.Alike near (s.addCounter k i ev amt) := by
  have hput : ∀ c, s.Alike near (s.setCoreAt k { s.coreAt k with cnt := c }) := fun c =>
    { cur := rfl, ctx := rfl, mem := rfl, extw := rfl, slots := rfl
      counters := fun j => by
        by_cases hj : j = k
        · subst hj; rw [State.coreAt_setCoreAt_same]
        · rw [State.coreAt_setCoreAt_ne _ _ hj]
      others := fun j hj => State.coreAt_setCoreAt_ne _ _ fun e => hj (e ▸ hk) }
  simp only [State.addCounter]
  split
  · exact hput _
  · exact (hput _).trans (of_cores rfl rfl rfl rfl rfl rfl)

theorem addShared (s : State) (die i ev amt : Nat) : s.Alike near (s.addShared die i ev amt) := by
  simp only [State.addShared]
  split <;> exact of_cores rfl rfl rfl rfl rfl rfl

/-- Events at a core count on its own counters and on shared ones. -/
theorem countBut (hk : near k) (s : State) (ev amt : Nat) (own sh : Nat → Bool) : s.Alike near (s.countBut k ev amt own sh) := by
  simp only [State.countBut]
  refine (foldl (fun s p => ?_) _ s).trans (foldl (fun s p => ?_) _ _)
  · exact addCounter hk s _ _ _
  · exact addShared s _ _ _ _

theorem count (hk : near k) (s : State) (ev amt : Nat) : s.Alike near (s.count k ev amt) := countBut hk s ev amt _ _

end State.Alike

variable {s : State}

/-- An instruction that retires without single-stepping leaves its context at `pc`, and counts (R358). -/
theorem retire_false_alike (s : State) (pc : Word) : (s.goOn pc).Alike (· = s.cur) (s.retire false pc) :=
  State.Alike.count (near := (· = s.cur)) rfl (s.goOn pc) 3 1

theorem me_retire_false (pc : Word) : (s.retire false pc).me = { s.me with pc := pc, wait := .none } := by
  rw [(retire_false_alike s pc).me_eq, State.goOn, State.me_updMe]

theorem ctxAt_retire_false (pc : Word) {j : Nat} (h : j ≠ s.ctx) : (s.retire false pc).core.ctxAt j = s.core.ctxAt j := by
  rw [(retire_false_alike s pc).ctxAt_eq, State.goOn, State.core_updMe, Core.ctxAt_setCtx_ne _ _ h]

/-- A handler that is entered has the exception's own registers, and no other context of the core changes (R334). -/
theorem takeTrap_enters {epc v : Word} {c : BitVec 8} (h : s.handled) :
    let t := s.takeTrap epc c v
    t.me.pc = s.me.trapvec ∧ t.me.cause = c ∧ t.me.tval = v ∧ t.me.epc = epc ∧ t.me.tin = true ∧
      ∀ j, j ≠ s.ctx → t.core.ctxAt j = s.core.ctxAt j := by
  simp only [takeTrap_handled h.1 h.2, State.me_setMe, State.core_setMe, true_and]
  exact fun j hj => Core.ctxAt_setCtx_ne _ _ hj

/-- A second exception is recorded in KCAUSE (R335). -/
theorem takeTrap_kcause {epc v : Word} {c : BitVec 8} (h : s.me.tin = true) :
    ((s.takeTrap epc c v).coreAt s.cur).kcause = Cause.DOUBLE_FAULT := by
  rw [takeTrap_unhandled (.inl h), State.doubleFault, State.updCoreAt, State.coreAt_setCoreAt_same]

theorem exec_trap {n : BitVec 4} {a : BitVec 5} (hr : s.ready [.x a]) :
    exec (.trap n a) s = .next ((s.retire false s.me.pc).takeTrap (s.me.pc + 4) (Cause.TRAP n) (s.xr a)) := by
  change execTrap n a s = _
  rw [execTrap, instr_ready hr, finish_trapNext]
  rfl

theorem exec_brk : exec .brk s = .next (s.takeTrap s.me.pc Cause.BREAK 0) := by
  change execBrk s = _
  rw [execBrk, instr_nil, finish_fault, walkFault_other (by decide)]

theorem exec_tret (h : s.me.tin = true) :
    exec .tret s = .next ((s.updMe fun x => { x with tin := false }).retire s.me.tstep s.me.epc) := by
  change execTret s = _
  rw [execTret, instr_nil, State.returnTrap, if_pos h, finish_jump]

theorem tret_traps (h : s.me.tin = false) : Traps .tret s Cause.TRET_IDLE 0 := by
  rw [Traps]
  change execTret s = _
  rw [execTret, instr_nil, State.returnTrap, if_neg (by rw [h]; decide), finish_fault]

end Sys2Proof.Machine
end

section
open Sys2Proof Sys2Proof.Machine

/-- Settles O14: trap n retires and is then taken with EPC past it, brk is a fault with EPC at itself. -/
theorem trapAndBreak : Obligations.TrapAndBreak := by
  unfold Obligations.TrapAndBreak
  intro n a s hr
  have hcur : (s.retire false s.me.pc).cur = s.cur := (retire_false_alike s s.me.pc).cur
  have hctx : (s.retire false s.me.pc).ctx = s.ctx := (retire_false_alike s s.me.pc).ctx
  refine ⟨fun hin hvec => ⟨⟨_, exec_trap hr, ?_⟩, ⟨_, exec_brk, takeTrap_enters ⟨hin, hvec⟩⟩⟩,
    fun hin => ⟨⟨_, exec_trap hr, ?_⟩, ⟨_, exec_brk, takeTrap_kcause hin⟩⟩⟩
  · have hh : (s.retire false s.me.pc).handled := by rw [State.handled, me_retire_false]; exact ⟨hin, hvec⟩
    obtain ⟨hpc, hcause, htval, hepc, htin, hothers⟩ := takeTrap_enters hh
    refine ⟨by rw [hpc, me_retire_false], hcause, htval, hepc, htin, fun j hj => ?_⟩
    rw [hothers j (by rwa [hctx]), ctxAt_retire_false _ hj]
  · rw [← hcur]
    exact takeTrap_kcause (by rw [me_retire_false]; exact hin)

/-- Settles O15: the return is a jump to EPC that clears TFLAGS.IN alone. -/
theorem trapReturn : Obligations.TrapReturn := by
  unfold Obligations.TrapReturn
  intro s
  refine ⟨fun hin hstep => ⟨_, exec_tret hin, ?_⟩, fun hin => exec_tret hin, tret_traps⟩
  rw [hstep]
  simp only [me_retire_false, State.me_updMe, and_self]
end

section
/-! SUPPORT. wrsr and rdtime (R129, R131): what each write does, and the larger of two times. -/

namespace Sys2Proof.Machine

variable {s t : State} {i : BitVec 10} {a : BitVec 5}

theorem later_toNat (x y : BitVec 64) : (later x y).toNat = max x.toNat y.toNat := by
  unfold later
  split <;> omega

/-- A register outside the counters and the event selects that the occupant can write takes the bits of X[a] (R129). -/
theorem wrsr_retires (hr : s.ready [.x a]) (hbank : i.toNat / 16 ≠ 4 ∧ i.toNat / 16 ≠ 5)
    (hw : s.writeSR (s.holderOf s.cur) s.cur s.ctx i.toNat (s.xr a) = some t) : Retires (.wrsr i a) s 4 t := by
  rw [Retires]
  change execWrsr i a s = _
  rw [execWrsr, instr_ready hr]
  simp only [hbank.1, hbank.2, decide_false, Bool.or_self, Bool.false_eq_true, if_false, hw, finish_goes]

/-- An index that the occupant cannot write faults with the index in TVAL (R39). -/
theorem wrsr_traps (hr : s.ready [.x a]) (hbank : i.toNat / 16 ≠ 4 ∧ i.toNat / 16 ≠ 5)
    (hw : s.writeSR (s.holderOf s.cur) s.cur s.ctx i.toNat (s.xr a) = none) : Traps (.wrsr i a) s Cause.SR_ACCESS (i.setWidth 64) := by
  rw [Traps]
  change execWrsr i a s = _
  rw [execWrsr, instr_ready hr]
  simp only [hbank.1, hbank.2, decide_false, Bool.or_self, Bool.false_eq_true, if_false, hw, finish_fault]

/-- A counter or an event select is written once the instruction has counted itself (R360, R366). -/
theorem wrsr_counts {u : State} (hr : s.ready [.x a]) (hbank : i.toNat / 16 = 4 ∨ i.toNat / 16 = 5)
    (hu : s.countFirst s.cur (i.toNat % 16) (i.toNat / 16 == 4) = u)
    (hw : u.writeSR (u.holderOf u.cur) u.cur u.ctx i.toNat (u.xr a) = some t) :
    exec (.wrsr i a) s = .next ((t.goOn (s.nextPc 4)).stepTrap s.me.tstep (s.nextPc 4)) := by
  change execWrsr i a s = _
  rw [execWrsr, instr_ready hr]
  simp only [Bool.or_eq_true, decide_eq_true_eq, hbank, if_true, hu, hw, finish_wrote, Option.getD_some]

/-- The sixteen counters lie at 0x040 (R38). -/
theorem writeSR_counter (s : State) (o k j : Nat) (n : BitVec 4) (v : Word) :
    s.writeSR o k j (0x040 + n.setWidth 10 : BitVec 10).toNat v = some (s.writeCnt o k n.toNat v) := by
  have hi : (0x040 + n.setWidth 10 : BitVec 10).toNat = 0x040 + n.toNat := by bv_omega
  have hn : n.toNat < 16 := n.isLt
  unfold State.writeSR
  rw [hi, if_pos (by simp; omega), Nat.add_sub_cancel_left]

/-- The sixteen event selects lie at 0x050, past the counters (R38). -/
theorem writeSR_eventSelect (s : State) (o k j : Nat) (n : BitVec 4) (v : Word) :
    s.writeSR o k j (0x050 + n.setWidth 10 : BitVec 10).toNat v = some (s.writeSel o k n.toNat v) := by
  have hi : (0x050 + n.setWidth 10 : BitVec 10).toNat = 0x050 + n.toNat := by bv_omega
  have hn : n.toNat < 16 := n.isLt
  unfold State.writeSR
  rw [hi, if_neg (by simp; omega), if_pos (by simp; omega), Nat.add_sub_cancel_left]

/-- No other index is the occupant's to write (R38, R39). -/
theorem writeSR_none (s : State) (o k j : Nat) {i : Nat} (v : Word) (hone : ¬(0x10 ≤ i ∧ i ≤ 0x15)) (htwo : ¬(0x20 ≤ i ∧ i ≤ 0x23))
    (hcnt : i / 16 ≠ 4) (hsel : i / 16 ≠ 5) : s.writeSR o k j i v = none := by
  unfold State.writeSR
  rw [if_neg (by simp; omega), if_neg (by simp; omega)]
  split
  iterate 10 next => omega
  rfl

end Sys2Proof.Machine
end

section
open Sys2Proof Sys2Proof.Machine

/-- Settles O19: the fields that wrsr writes are those of the executing context and core; the two banks of sixteen are
written after the instruction has counted itself. -/
theorem statusRegisterWrites : Obligations.StatusRegisterWrites := by
  unfold Obligations.StatusRegisterWrites
  intro a n s hr
  have writes : ∀ (i : BitVec 10) (t : State), i.toNat / 16 ≠ 4 ∧ i.toNat / 16 ≠ 5 →
      s.writeSR (s.holderOf s.cur) s.cur s.ctx i.toNat (s.xr a) = some t → Retires (.wrsr i a) s 4 t :=
    fun i t => wrsr_retires hr
  have hn : n.toNat < 16 := n.isLt
  have hcnt : (0x040 + n.setWidth 10 : BitVec 10).toNat = 0x040 + n.toNat := by bv_omega
  have hsel : (0x050 + n.setWidth 10 : BitVec 10).toNat = 0x050 + n.toNat := by bv_omega
  refine ⟨writes 0x010 _ (by decide) rfl, writes 0x011 _ (by decide) rfl, writes 0x012 _ (by decide) rfl, -- TRAPVEC, EPC, CAUSE
    writes 0x013 _ (by decide) rfl, writes 0x014 _ (by decide) rfl, writes 0x015 _ (by decide) rfl, -- TVAL, TFLAGS, STACKLIM
    writes 0x020 _ (by decide) rfl, writes 0x021 _ (by decide) rfl, -- FPFLAGS, ISTAT
    writes 0x022 _ (by decide) rfl, writes 0x023 _ (by decide) rfl, -- MXSTAT, RRB
    wrsr_counts hr (.inl (by omega)) ?_ (writeSR_counter _ _ _ _ n _),
    wrsr_counts hr (.inr (by omega)) ?_ (writeSR_eventSelect _ _ _ _ n _),
    fun i h1 h2 h4 h5 => wrsr_traps hr ⟨h4, h5⟩ (writeSR_none s _ _ _ _ h1 h2 h4 h5)⟩
  · rw [hcnt, show (0x040 + n.toNat) % 16 = n.toNat by omega, show (0x040 + n.toNat) / 16 = 4 by omega]; rfl
  · rw [hsel, show (0x050 + n.toNat) % 16 = n.toNat by omega, show (0x050 + n.toNat) / 16 = 5 by omega]; rfl

/-- Settles O20: the value is the later of the two times, which go on as numbers. -/
theorem timeReads : Obligations.TimeReads := by
  unfold Obligations.TimeReads
  intro d s hr
  exact ⟨later (s.fabric - (s.domainAt s.core.domain.toNat).toff) s.core.tmax, later_toNat _ _,
    instr_retires (len := 4) (i := .rdtime d) (body := fun s =>
      let t := later (s.fabric - (s.domainAt s.core.domain.toNat).toff) s.core.tmax
      goes ((s.updCore fun c => { c with tmax := t }).setX d t)) rfl hr rfl⟩
end

section
/-! SUPPORT. The checks of a scalar access (R116, R66): the fault that each gives, and how it comes to the instruction. -/

namespace Sys2Proof

/-- The width of a load is a power of two, from one byte to eight. -/
theorem IntT.size_dvd (t : IntT) : t.size ∣ 128 := by cases t <;> decide
theorem IntT.size_pos (t : IntT) : 0 < t.size := by cases t <;> decide

namespace Machine

variable {s : State} {acc : Acc} {stk : Bool} {a : Word} {n : Nat} {c : BitVec 8}

/-- So is the width of a store. -/
theorem stSize_dvd (w : BitVec 2) : 2 ^ w.toNat ∣ 128 := Nat.pow_dvd_pow 2 (n := 7) (by omega)

/-- An aligned access lies in one row (R4). -/
theorem rowsOf_aligned {a : Nat} (hn : 0 < n) (hd : n ∣ 128) (ha : a % n = 0) : rowsOf a n = [a / 128] := by
  have hle : a % 128 + n ≤ 128 := by
    obtain ⟨k, hk⟩ := hd
    have hmod : a % 128 % n = 0 := by rw [Nat.mod_mod_of_dvd a ⟨k, hk⟩, ha]
    have hlt : a % 128 / n < k := by rw [Nat.div_lt_iff_lt_mul hn, Nat.mul_comm k, ← hk]; omega
    calc a % 128 + n = n * (a % 128 / n + 1) := by rw [Nat.mul_succ, Nat.mul_div_cancel' (Nat.dvd_of_mod_eq_zero hmod)]
      _ ≤ n * k := Nat.mul_le_mul_left n hlt
      _ = 128 := hk.symm
  have hone : (a % 128 + n + 127) / 128 = 1 := by omega
  simp [rowsOf, hone]

theorem accCheck_misaligned (h : a.toNat % n ≠ 0) : s.accCheck acc stk a n n = fault Cause.MISALIGNED a := by
  rw [State.accCheck, if_pos h]

theorem accCheck_stackLimit (h : a.toNat % n = 0) (hs : stk = true ∧ a.toNat < s.me.stacklim.toNat) :
    s.accCheck acc stk a n n = fault Cause.STACK_LIMIT a := by
  rw [State.accCheck, if_neg (not_not.2 h), if_pos (by simpa using hs)]

/-- Past its first two checks an access that awaits no answer is held against the meaning of its address (R66). -/
theorem accCheck_place (h : a.toNat % n = 0) (hs : ¬(stk = true ∧ a.toNat < s.me.stacklim.toNat)) (hw : s.awaited a = none) :
    s.accCheck acc stk a n n = liftTrap (s.place s.ag acc a.toNat n) := by
  rw [State.accCheck, if_neg (not_not.2 h), if_neg (by simpa using hs), hw]

/-- No access below the global addresses awaits an answer. -/
theorem awaited_local (h : a.toNat < 2 ^ 32) : s.awaited a = none := by
  rw [State.awaited, Option.filter_eq_none_iff]
  intro e _
  rw [decide_eq_false (Nat.not_le.2 h), Bool.and_false]
  exact Bool.false_ne_true

theorem awaited_none (h : s.me.ext = none) : s.awaited a = none := by rw [State.awaited, h]; rfl

theorem place_nullWindow {g : Ag} (h : 2 ^ 18 ≤ a.toNat ∧ a.toNat < 2 ^ 32) :
    s.place g acc a.toNat n = .error (Cause.NULL_WINDOW, a) := by
  rw [State.place, if_neg (by omega), if_pos h.2, BitVec.ofNat_toNat, BitVec.setWidth_eq]

/-- A row that is not below S and ROWS and lies in no attached segment is undeclared (R66). -/
theorem rowCheck_undeclared {r : Nat} (h : s.core.rowsS ≤ r ∨ (s.core.installed = true ∧ s.core.rowsDecl ≤ r))
    (ha : s.core.attachOf r = none) : s.rowCheck s.cur acc r = some Cause.ROW_UNDECLARED := by
  have hout : ¬((decide (r < s.core.rowsS) && (!s.core.limited || decide (r < s.core.rowsDecl))) = true) := by
    simp only [Bool.and_eq_true, Bool.or_eq_true, decide_eq_true_eq, Bool.not_eq_true', Core.limited]
    rcases h with h | ⟨hl, h⟩
    · omega
    · simp [hl, Nat.not_lt.2 h]
  rw [State.rowCheck, show s.coreAt s.cur = s.core from rfl, if_neg hout, ha]

theorem place_undeclared (hn : 0 < n) (hd : n ∣ 128) (hal : a.toNat % n = 0) (hlow : a.toNat < 2 ^ 18)
    (h : s.core.rowsS ≤ a.toNat / 128 ∨ (s.core.installed = true ∧ s.core.rowsDecl ≤ a.toNat / 128))
    (ha : s.core.attachOf (a.toNat / 128) = none) : s.place s.ag acc a.toNat n = .error (Cause.ROW_UNDECLARED, a) := by
  have hrow : s.rowCheck s.ag.core acc (a.toNat / 128) = some Cause.ROW_UNDECLARED := rowCheck_undeclared h ha
  rw [State.place, if_pos hlow, rowsOf_aligned hn hd hal]
  simp only [List.findSome?_cons, hrow, BitVec.ofNat_toNat, BitVec.setWidth_eq]

/-- A domain without translation, and an address past the last, have no page (R322, R325). -/
theorem translate_absent (h : 2 ^ 57 ≤ a.toNat ∨ (s.domainAt s.core.domain.toNat).enable = false) :
    s.translate s.ag acc a.toNat = .error (Cause.PAGE_ABSENT, a) := by
  have hleaf : s.leafFor s.ag a.toNat = ⟨.error (Cause.PAGE_ABSENT, a), [], [], 0⟩ := by
    have hc : (decide (2 ^ 57 ≤ a.toNat) || !(s.domainAt s.ag.dom).enable) = true := by
      rcases h with h | h
      · rw [decide_eq_true h, Bool.true_or]
      · rw [show s.ag.dom = s.core.domain.toNat from rfl, h, Bool.not_false, Bool.or_true]
    rw [State.leafFor, if_pos hc, BitVec.ofNat_toNat, BitVec.setWidth_eq]
  rw [State.translate, hleaf]

theorem place_absent (hg : 2 ^ 32 ≤ a.toNat) (h : 2 ^ 57 ≤ a.toNat ∨ (s.domainAt s.core.domain.toNat).enable = false) :
    s.place s.ag acc a.toNat n = .error (Cause.PAGE_ABSENT, a) := by
  rw [State.place, if_neg (by omega), if_neg (by omega), translate_absent h]

variable {o : BitVec 11} {b r : BitVec 5} {tv : Word}

/-- A fault of the checks is that of the load. -/
theorem ld_traps {t : IntT} (hr : s.ready [.x r, .x b])
    (h : s.accCheck .read (b == 2) (s.xr b + o.signExtend 64) t.size t.size = fault c tv) : Traps (.ld t o b r) s c tv := by
  have hcheck : s.accCheck .read (b == 2) (s.xr b + sx o) t.size t.size = fault c tv := h
  have hload : s.loadX t (b == 2) (s.xr b + sx o) r = fault c tv := by
    rw [State.loadX, State.load, hcheck]; rfl
  rw [Traps]
  change s.ldAt 4 t (sx o) b r = _
  rw [State.ldAt, instr_ready hr, hload]
  exact finish_fault c tv

/-- A fault of the checks is that of the store. -/
theorem st_traps {w : BitVec 2} (hr : s.ready [.x r, .x b])
    (h : s.accCheck .write (b == 2) (s.xr b + o.signExtend 64) (2 ^ w.toNat) (2 ^ w.toNat) = fault c tv) :
    Traps (.st w o b r) s c tv := by
  have hcheck : s.accCheck .write (b == 2) (s.xr b + sx o) (stSize w) (stSize w) = fault c tv := h
  have hstore : s.store (b == 2) (s.xr b + sx o) (stSize w) (s.xr r).toNat = fault c tv := by
    rw [State.store, hcheck]; rfl
  rw [Traps]
  change s.stAt 4 w (sx o) b r = _
  rw [State.stAt, instr_ready hr, hstore]
  exact finish_fault c tv

end Machine
end Sys2Proof
end

section
open Sys2Proof Sys2Proof.Machine

/-- Settles O24: the five faults in the order of the checks, each of the checks alone and so the same for ld and st. -/
theorem accessChecks : Obligations.AccessChecks := by
  unfold Obligations.AccessChecks
  intro t w o b r s hr a low both
  -- what the checks find comes to both instructions
  have checks : ∀ (c : BitVec 8) (z : Nat → Prop), (∀ acc n, 0 < n → n ∣ 128 → z n → s.accCheck acc (b == 2) a n n = fault c a) →
      both c z := fun c z h =>
    ⟨fun hz => ld_traps hr (h .read t.size t.size_pos t.size_dvd hz),
      fun hz => st_traps hr (h .write (2 ^ w.toNat) (Nat.two_pow_pos _) (stSize_dvd w) hz)⟩
  have hstk : ∀ {p : Prop}, ((b == 2) = true ∧ p) ↔ (b = 2 ∧ p) := by simp
  clear_value both
  refine ⟨checks _ _ ?_, checks _ _ ?_, checks _ _ ?_, checks _ _ ?_, checks _ _ ?_⟩
  · intro acc n _ _ h
    exact accCheck_misaligned h
  · rintro acc n - - ⟨hal, hlow⟩
    exact accCheck_stackLimit hal (hstk.2 hlow)
  · rintro acc n - - ⟨hal, hlow, hlo, hhi⟩
    rw [accCheck_place hal (fun h => hlow (hstk.1 h)) (awaited_local hhi), place_nullWindow ⟨hlo, hhi⟩]; rfl
  · rintro acc n hn hd ⟨hal, hlow, hlo, hrow, hatt⟩
    rw [accCheck_place hal (fun h => hlow (hstk.1 h)) (awaited_local (by omega)), place_undeclared hn hd hal hlo hrow hatt]; rfl
  · rintro acc n - - ⟨hext, hal, hlow, hhi, habs⟩
    rw [accCheck_place hal (fun h => hlow (hstk.1 h)) (awaited_none hext), place_absent hhi habs]; rfl
end

section
/-! SUPPORT. The bits and bytes that the integer instructions count and move (R107, R112). -/

namespace Sys2Proof.Machine

/-- The count of zero bits from bit `n` down ends at the highest one below it. -/
theorem clzFrom_spec (x : Word) (n : Nat) : clzFrom x n ≤ n ∧ (∀ i, n ≤ i + clzFrom x n → i < n → x.getLsbD i = false) ∧
    (clzFrom x n < n → x.getLsbD (n - 1 - clzFrom x n) = true) := by
  induction n with
  | zero => exact ⟨Nat.le_refl 0, fun i _ hi => absurd hi (Nat.not_lt_zero i), fun h => absurd h (Nat.not_lt_zero _)⟩
  | succ n ih =>
    obtain ⟨hle, hzero, hone⟩ := ih
    by_cases hn : x.getLsbD n = true
    · have hc : clzFrom x (n + 1) = 0 := by rw [clzFrom, if_pos hn]
      rw [hc]
      exact ⟨Nat.zero_le _, fun i h hi => by omega, fun _ => hn⟩
    · have hc : clzFrom x (n + 1) = 1 + clzFrom x n := by rw [clzFrom, if_neg hn]
      rw [hc]
      refine ⟨by omega, fun i h hi => ?_, fun h => ?_⟩
      · by_cases hin : i = n
        · rw [hin]; exact Bool.eq_false_of_not_eq_true hn
        · exact hzero i (by omega) (by omega)
      · rw [show n + 1 - 1 - (1 + clzFrom x n) = n - 1 - clzFrom x n by omega]
        exact hone (by omega)

theorem popcTo_eq (x : Word) (n : Nat) : popcTo x n = ((List.range n).filter fun i => x.getLsbD i).length := by
  induction n with
  | zero => rfl
  | succ n ih =>
    rw [popcTo, ih, List.range_succ, List.filter_append, List.length_append, Nat.add_comm]
    cases h : x.getLsbD n <;> simp [h]

/-- Byte `i` of the number that some bytes make (R4). -/
theorem leVal_byte (bs : List Byte) (i : Nat) : leVal bs / 256 ^ i % 256 = (bs.getD i 0).toNat := by
  induction bs generalizing i with
  | nil => simp [leVal]
  | cons b bs ih =>
    have hb : b.toNat < 256 := b.isLt
    cases i with
    | zero => simp only [leVal, Nat.pow_zero, Nat.div_one, List.getD_cons_zero]; omega
    | succ i =>
      rw [leVal, Nat.pow_succ', ← Nat.div_div_eq_div_mul, show (b.toNat + 256 * leVal bs) / 256 = leVal bs by omega, ih,
        List.getD_cons_succ]

/-- Byte `i` of a number, of its first `n` bytes (R4). -/
theorem leOf_getD {n i : Nat} (v : Nat) (h : i < n) : (leOf n v).getD i 0 = BitVec.ofNat 8 (v / 256 ^ i) := by
  induction n generalizing v i with
  | zero => omega
  | succ n ih =>
    cases i with
    | zero => simp [leOf]
    | succ i => rw [leOf, List.getD_cons_succ, ih _ (by omega), Nat.pow_succ', Nat.div_div_eq_div_mul]

@[simp] theorem length_leOf (n v : Nat) : (leOf n v).length = n := by
  induction n generalizing v with
  | zero => rfl
  | succ n ih => rw [leOf, List.length_cons, ih]

/-- Byte `i` of a word (R4). -/
theorem extract_byte (x : Word) (i : Nat) : x.extractLsb' (8 * i) 8 = BitVec.ofNat 8 (x.toNat / 256 ^ i) := by
  rw [BitVec.extractLsb', Nat.shiftRight_eq_div_pow, Nat.pow_mul]

theorem bytesRev_byte (x : Word) {i : Nat} (h : i < 8) :
    (bytesRev x).extractLsb' (8 * i) 8 = x.extractLsb' (8 * (7 - i)) 8 := by
  apply BitVec.eq_of_toNat_eq
  have hword : (bytesRev x).toNat / 256 ^ i % 256 = leVal (leOf 8 x.toNat).reverse / 256 ^ i % 256 := by
    have hpow : 2 ^ 64 = 256 ^ i * (256 * 256 ^ (7 - i)) := by
      rw [← Nat.pow_succ', ← Nat.pow_add, show i + (7 - i).succ = 8 by omega]; rfl
    rw [bytesRev, word, BitVec.toNat_ofNat, hpow, Nat.mod_mul_right_div_self, Nat.mod_mul_right_mod]
  rw [extract_byte, extract_byte, BitVec.toNat_ofNat, show (2 ^ 8 : Nat) = 256 from rfl, hword, leVal_byte,
    List.getD_eq_getElem?_getD, List.getElem?_reverse (by simpa using h), length_leOf, ← List.getD_eq_getElem?_getD,
    leOf_getD _ (by omega), show 8 - 1 - i = 7 - i by omega]

/-- Bit `i` of a mask of low bits. -/
theorem getLsbD_lowMask (w i : Nat) : (lowMask w).getLsbD i = (decide (i < 64) && decide (i < w)) := by
  rw [lowMask, word, BitVec.getLsbD_ofNat, Nat.testBit_two_pow_sub_one]

theorem getLsbD_insertField (old v : Word) {p w i : Nat} (hi : i < 64) :
    (insertField old v p w).getLsbD i = if p ≤ i ∧ i < p + w then v.getLsbD (i - p) else old.getLsbD i := by
  simp only [insertField, BitVec.getLsbD_or, BitVec.getLsbD_and, BitVec.getLsbD_not, BitVec.getLsbD_shiftLeft, getLsbD_lowMask, hi,
    decide_true, Bool.true_and]
  by_cases hp : p ≤ i
  · by_cases hw : i < p + w
    · have h1 : i - p < w := by omega
      have h2 : i - p < 64 := by omega
      simp [hp, hw, h1, h2, Nat.not_lt.2 hp]
    · have h1 : ¬ i - p < w := by omega
      simp [hw, h1]
  · simp [hp, Nat.lt_of_not_le hp]

end Sys2Proof.Machine
end

section
open Sys2Proof Sys2Proof.Machine

/-- Settles O3, count by count and bit by bit: clz and popc by induction on the bits below, bswap by the bytes of a number,
the fields by the bits of their mask. -/
theorem bitsAndBytesMoved : Obligations.BitsAndBytesMoved := by
  unfold Obligations.BitsAndBytesMoved
  exact ⟨fun x => ⟨clzFrom_spec x 64, fun i => bytesRev_byte x, popcTo_eq x 64⟩,
    fun old v p w i _ hi => getLsbD_insertField old v hi⟩
end

section
/-! SUPPORT. The times of accesses (R249), the walks of translations and the lookups that they count (R325, R358): none of
them changes a core but its counters, nor memory. -/

namespace Sys2Proof.Machine

namespace State.Alike

variable {near : Nat → Prop} {s t u : State} {k : Nat} {g : Ag}

theorem setLine (s : State) (l : Nat) (x : LineTs) : s.Alike near (s.setLine l x) := of_cores rfl rfl rfl rfl rfl rfl

theorem stampReads (s : State) (ls : List Nat) (pts : BitVec 64) : s.Alike near (s.stampReads ls pts).2 :=
  foldl (fun s l => setLine s l _) ls s

theorem sealWalks (s : State) (pts : BitVec 64) : s.Alike near (s.sealWalks pts) := stampReads s _ pts

theorem dirtyRows (s : State) (k : Nat) (rows : List Nat) : s.Alike near (s.dirtyRows k rows) := of_cores rfl rfl rfl rfl rfl rfl

theorem lineSize (s : State) (wr cmp : Bool) (a : Nat) : s.Alike near (s.lineSize wr cmp a).2 := by
  simp only [State.lineSize]
  split
  · exact refl s
  · split
    · exact refl s
    · exact of_cores rfl rfl rfl rfl rfl rfl

theorem metaLook (s : State) (cmp : Bool) (a : Nat) : s.Alike near (s.metaLook cmp a).2 := by
  simp only [State.metaLook]
  split
  · exact refl s
  · exact of_cores rfl rfl rfl rfl rfl rfl

theorem cacheWalk (s : State) (g : Ag) (l : Leaf) (es : List (Nat × Pte)) (ts : BitVec 64) :
    s.Alike near (s.cacheWalk g l es ts) := by
  simp only [State.cacheWalk]
  split
  · exact refl s
  · exact of_cores rfl rfl rfl rfl rfl rfl

theorem noteCmp (s : State) (l : Leaf) : s.Alike near (s.noteCmp l) := by
  simp only [State.noteCmp]
  split
  · exact refl s
  · exact of_cores rfl rfl rfl rfl rfl rfl

section
variable (hall : ∀ k, near k)
include hall

theorem countNear (s : State) (req : Option Nat) (ev amt : Nat) (at' : Nat → Bool) (die : Nat) :
    s.Alike near (s.countNear req ev amt at' die) := by
  simp only [State.countNear]
  refine (foldl (fun s p => ?_) _ s).trans (foldl (fun s p => addShared s _ _ _ _) _ _)
  split
  · exact foldl (fun s q => addCounter (hall _) s _ _ _) _ s
  · exact refl s

theorem countL2 (s : State) (req : Option Nat) (wr : Bool) (a : Nat) : s.Alike near (s.countL2 req wr a) := by
  have hn : s.Alike near { s with n := s.n + 2 } := of_cores rfl rfl rfl rfl rfl rfl
  simp only [State.countL2]
  refine trans (trans (trans ?_ (countNear hall _ _ _ _ _ _)) (countNear hall _ _ _ _ _ _)) (countNear hall _ _ _ _ _ _)
  exact (hn.trans (lineSize _ _ _ _)).trans (metaLook _ _ _)

theorem lookHome (s : State) (g : Ag) (wr : Bool) (l : Nat) : s.Alike near (s.lookHome g wr l) := by
  unfold State.lookHome
  split
  · exact refl s
  · exact countL2 hall s _ _ _

theorem readWalk (s : State) (g : Ag) (w : Walked) (pts : BitVec 64) : s.Alike near (s.readWalk g w pts).2 :=
  ((foldl (fun s _ => countL2 hall s _ _ _) w.lines s).trans (stampReads _ _ _)).trans (of_cores rfl rfl rfl rfl rfl rfl)

theorem translate {acc : Acc} {a : Nat} {p : Place} (h : s.translate g acc a = .ok (p, u)) : s.Alike near u := by
  unfold State.translate at h
  dsimp only at h
  split at h
  · cases h
  · split at h
    · cases h
    · cases h
      exact ((readWalk hall s g _ 0).trans (cacheWalk _ _ _ _ _)).trans (noteCmp _ _)
end

section
variable (hreq : ∀ k, g.req = some k → near k)
include hreq

theorem countReq (s : State) (ev : Nat) : s.Alike near (s.countReq g ev) := by
  unfold State.countReq
  split
  · next k hk => exact count (hreq k hk) s ev 1
  · exact refl s

theorem widen (s : State) (l : Nat) : s.Alike near (s.widen g l) := by
  unfold State.widen
  split
  · exact refl s
  · dsimp only
    split
    · exact refl s
    · have hclear : s.Alike near { s.setLine l { s.lineAt l with lease := none } with n := s.n + 1 } :=
        of_cores rfl rfl rfl rfl rfl rfl
      split
      · exact hclear
      · exact hclear.trans (countReq hreq _ _)

/-- A write step counts at its own core, and where one of its lines is in HBM at every core. -/
theorem stampWrites {ls : List Nat} (hlook : ∀ l ∈ ls, 128 * l < hbmEnd → ∀ k, near k) (s : State) (pts : BitVec 64) :
    s.Alike near (s.stampWrites g ls pts).2 := by
  have hlooks : ∀ s : State, s.Alike near ((ls.filter fun l => decide (128 * l < hbmEnd)).foldl (fun s l => s.lookHome g true l) s) :=
    fun s => List.foldlRecOn (motive := s.Alike near) _ _ (refl s) fun t h l hl => by
      obtain ⟨hmem, hhbm⟩ := List.mem_filter.1 hl
      exact h.trans (lookHome (hlook l hmem (of_decide_eq_true hhbm)) t g true l)
  simp only [State.stampWrites]
  refine (((foldl (fun s l => widen hreq s l) ls s).trans (hlooks _)).trans ?_).trans (foldl (fun s l => setLine s l _) ls _)
  split
  · exact countReq hreq _ _
  · exact refl _
end

end State.Alike

end Sys2Proof.Machine
end

section
/-! SUPPORT. What an access leaves as it is (R116): of its core only the pool, times and counters change, of its context only
x registers, flags, times and what is outstanding. -/

namespace Sys2Proof.Machine

/-- The context `x`, with what an access may change taken from `y`. -/
def Ctx.accessedAs (x y : Ctx) : Ctx :=
  { x with x := y.x, dirty := y.dirty, loading := y.loading, fpflags := y.fpflags, pts := y.pts, storing := y.storing
           extOut := y.extOut, ext := y.ext }

/-- The core `c`, with what an access may change taken from `d`. -/
def Core.accessedAs (c d : Core) : Core :=
  { c with ctxs := d.ctxs, pool := d.pool, written := d.written, wbuf := d.wbuf, cnt := d.cnt, touched := d.touched }

/-- An access of the executing context leads from `s` to `t`: only what `accessedAs` names changes, and in other cores only the
counters of those that `near` names. -/
structure State.Accessed (near : Nat → Prop) (s t : State) : Prop where
  cur : t.cur = s.cur
  ctx : t.ctx = s.ctx
  me : t.me = s.me.accessedAs t.me
  ctxs : ∀ j, j ≠ s.ctx → t.core.ctxAt j = s.core.ctxAt j
  core : t.core = s.core.accessedAs t.core
  counters : ∀ k, k ≠ s.cur → { t.coreAt k with cnt := (s.coreAt k).cnt } = s.coreAt k
  others : ∀ k, k ≠ s.cur → ¬near k → t.coreAt k = s.coreAt k

namespace State.Accessed

variable {near : Nat → Prop} {s t u : State}

theorem trans (h : s.Accessed near t) (h' : t.Accessed near u) : s.Accessed near u where
  cur := h'.cur.trans h.cur
  ctx := h'.ctx.trans h.ctx
  me := (h'.me.trans (congrArg (Ctx.accessedAs · u.me) h.me :)).trans rfl
  ctxs j hj := (h'.ctxs j (by rwa [h.ctx])).trans (h.ctxs j hj)
  core := (h'.core.trans (congrArg (Core.accessedAs · u.core) h.core :)).trans rfl
  counters k hk := by rw [← h.counters k hk, ← h'.counters k (by rwa [h.cur])]
  others k hk hn := (h'.others k (by rwa [h.cur]) hn).trans (h.others k hk hn)

theorem of_alike (h : s.Alike near t) : s.Accessed near t where
  cur := h.cur
  ctx := h.ctx
  me := by rw [h.me_eq]; rfl
  ctxs j _ := h.ctxAt_eq j
  core := by rw [h.core_eq]; rfl
  counters k _ := h.counters k
  others k _ := h.others k

theorem of_cores (cores : t.cores = s.cores) (cur : t.cur = s.cur) (ctx : t.ctx = s.ctx) : s.Accessed near t := by
  have hcore : ∀ k, t.coreAt k = s.coreAt k := fun k => by rw [State.coreAt, cores]; rfl
  have hmine : t.core = s.core := by rw [State.core, cur]; exact hcore s.cur
  have hme : t.me = s.me := by rw [State.me, ctx, hmine]; rfl
  exact ⟨cur, ctx, by rw [hme]; rfl, fun j _ => by rw [hmine], by rw [hmine]; rfl, fun k _ => by rw [hcore], fun k _ _ => hcore k⟩

/-- Only the executing context changes, as `accessedAs` allows. -/
theorem updMe {f : Ctx → Ctx} (h : ∀ x, f x = x.accessedAs (f x)) (s : State) : s.Accessed near (s.updMe f) where
  cur := rfl
  ctx := rfl
  me := by rw [State.me_updMe]; exact h _
  ctxs j hj := by rw [State.core_updMe, Core.ctxAt_setCtx_ne _ _ hj]
  core := by rw [State.core_updMe]; rfl
  counters k hk := by rw [show (s.updMe f).coreAt k = s.coreAt k from State.coreAt_setCoreAt_ne _ _ hk]
  others k hk _ := State.coreAt_setCoreAt_ne _ _ hk

/-- Only the executing core changes, as `accessedAs` allows, and no context. -/
theorem updCore {f : Core → Core} (h : ∀ c, f c = c.accessedAs (f c)) (hc : ∀ c, (f c).ctxs = c.ctxs) (s : State) :
    s.Accessed near (s.updCore f) where
  cur := rfl
  ctx := rfl
  me := by
    have hme : (s.updCore f).me = s.me := by
      rw [State.me, State.core_updCore, Core.ctxAt, hc]; rfl
    rw [hme]; rfl
  ctxs j _ := by rw [State.core_updCore, Core.ctxAt, hc]; rfl
  core := by rw [State.core_updCore]; exact h _
  counters k hk := by rw [show (s.updCore f).coreAt k = s.coreAt k from State.coreAt_setCoreAt_ne _ _ hk]
  others k hk _ := State.coreAt_setCoreAt_ne _ _ hk

theorem setX (s : State) (r : BitVec 5) (v : Word) : s.Accessed near (s.setX r v) :=
  updMe (f := fun x => x.setX r v) (fun x => by unfold Ctx.setX; split <;> rfl) s

/-- What `accessedAs` does not name of the context stays the same, and of the core. -/
theorem own {α : Type} (h : s.Accessed near t) (f : Ctx → α) (hf : ∀ x y, f (Ctx.accessedAs x y) = f x := by exact fun _ _ => rfl) :
    f t.me = f s.me := by rw [h.me, hf]
theorem coreOwn {α : Type} (h : s.Accessed near t) (f : Core → α)
    (hf : ∀ c d, f (Core.accessedAs c d) = f c := by exact fun _ _ => rfl) : f t.core = f s.core := by rw [h.core, hf]

/-- An access keeps the other registers of its context, the other contexts and the core-scope registers. -/
theorem keepsOwn (h : s.Accessed near t) : s.keepsOwn t :=
  ⟨h.cur, h.ctx, fun n => h.own (Ctx.getM · n), fun n => h.own (Ctx.getH · n), fun n => h.own (Ctx.getC · n),
    h.own Ctx.pc, h.own Ctx.rrb, h.own Ctx.trapvec, h.own Ctx.epc, h.own Ctx.cause, h.own Ctx.tval, h.own Ctx.tstep, h.own Ctx.tin,
    h.own Ctx.stacklim, h.own Ctx.istat, h.coreOwn Core.partw, h.coreOwn Core.decla, h.coreOwn Core.declb, h.coreOwn Core.flags,
    h.coreOwn Core.mxsat, h.coreOwn Core.kcause, h.ctxs⟩

theorem keepsFar (h : s.Accessed near t) : s.keepsFar t := ⟨h.keepsOwn, h.counters⟩

/-- One that counts at its own core alone keeps every other core. -/
theorem keeps (h : s.Accessed (· = s.cur) t) (hm : t.mem = s.mem) : s.keeps t :=
  ⟨h.keepsOwn, fun k hk => h.others k hk hk, fun b => by rw [hm]⟩

end State.Accessed

/-- An access that has changed neither an x register nor a flag, and nothing in the pool, in memory, among the external
writes on their way or in the launch slots. -/
structure State.Quiet (near : Nat → Prop) (s t : State) : Prop extends State.Accessed near s t where
  x : t.me.x = s.me.x
  fpflags : t.me.fpflags = s.me.fpflags
  pool : t.core.pool = s.core.pool
  mem : t.mem = s.mem
  extw : t.extw = s.extw
  slots : t.slots = s.slots

namespace State.Quiet

variable {near : Nat → Prop} {s t u : State}

theorem of_alike (h : s.Alike near t) : s.Quiet near t where
  toAccessed := .of_alike h
  x := by rw [h.me_eq]
  fpflags := by rw [h.me_eq]
  pool := by rw [h.core_eq]
  mem := h.mem
  extw := h.extw
  slots := h.slots

theorem refl (s : State) : s.Quiet near s := of_alike (.refl s)

theorem trans (h : s.Quiet near t) (h' : t.Quiet near u) : s.Quiet near u where
  toAccessed := h.toAccessed.trans h'.toAccessed
  x := h'.x.trans h.x
  fpflags := h'.fpflags.trans h.fpflags
  pool := h'.pool.trans h.pool
  mem := h'.mem.trans h.mem
  extw := h'.extw.trans h.extw
  slots := h'.slots.trans h.slots

theorem updMe {f : Ctx → Ctx} (h : ∀ x, f x = x.accessedAs (f x)) (hx : ∀ x, (f x).x = x.x) (hf : ∀ x, (f x).fpflags = x.fpflags)
    (s : State) : s.Quiet near (s.updMe f) where
  toAccessed := .updMe h s
  x := by rw [State.me_updMe, hx]
  fpflags := by rw [State.me_updMe, hf]
  pool := by rw [State.core_updMe]; rfl
  mem := rfl
  extw := rfl
  slots := rfl

theorem updCore {f : Core → Core} (h : ∀ c, f c = c.accessedAs (f c)) (hc : ∀ c, (f c).ctxs = c.ctxs)
    (hp : ∀ c, (f c).pool = c.pool) (s : State) : s.Quiet near (s.updCore f) where
  toAccessed := .updCore h hc s
  x := by rw [State.me, State.core_updCore, Core.ctxAt, hc]; rfl
  fpflags := by rw [State.me, State.core_updCore, Core.ctxAt, hc]; rfl
  pool := by rw [State.core_updCore, hp]
  mem := rfl
  extw := rfl
  slots := rfl

theorem touch (s : State) (a : Word) (n : Nat) (p : BitVec 64) : s.Quiet near (s.touch a n p) := by
  unfold State.touch
  split
  · exact refl s
  · refine updCore ?_ ?_ ?_ s <;> exact fun _ => rfl

/-- The launch of the task stays the same. -/
theorem taskLaunch (h : s.Quiet near t) : t.taskLaunch t.cur = s.taskLaunch s.cur := by
  have htask : t.core.task = s.core.task := h.coreOwn Core.task
  have htarget : t.core.ctarget = s.core.ctarget := h.coreOwn Core.ctarget
  change (if t.core.task = true then t.slotLaunch (t.core.ctarget.toNat % 256) else none) = _
  rw [htask, htarget, State.slotLaunch, h.slots]
  rfl

theorem xr (h : s.Quiet near t) (r : BitVec 5) : t.xr r = s.xr r := by
  rw [State.xr, State.xr, Ctx.getX, Ctx.getX, h.x]

end State.Quiet

end Sys2Proof.Machine
end

section
/-! SUPPORT. The bytes of a store (R4): as one run, as they stand in memory, and in the image of a block (R58). -/

namespace Sys2Proof.Machine

/-- Bytes of a number put down one by one are the number written (R4). -/
theorem putBytes_leOf (m : Memory) (a n v : Nat) : m.putBytes a (leOf n v) = m.writeLE a n v := by
  induction n generalizing m a v with
  | zero => rfl
  | succ n ih => rw [leOf, Memory.putBytes, Memory.writeLE, ih]

theorem readLE_putBytes_leOf {m : Memory} (a n v : Nat) (h : m.wf = true) :
    (m.putBytes a (leOf n v)).readLE a n = v % 256 ^ n := by
  rw [putBytes_leOf, Memory.readLE_writeLE a n v h, Nat.pow_mul]

/-- A byte that a number put down does not cover reads as before. -/
theorem read_putBytes_leOf {m : Memory} {a n v b : Nat} (h : m.wf = true) (hb : ¬(a ≤ b ∧ b < a + n)) :
    (m.putBytes a (leOf n v)).read b = m.read b :=
  Memory.read_putBytes_out h (by rw [length_leOf]; omega)

/-- Bytes that are all given make one run. -/
theorem runs_map_some (a : Nat) {bs : List Byte} (h : bs ≠ []) : runs a (bs.map some) = [(a, bs)] := by
  induction bs generalizing a with
  | nil => exact absurd rfl h
  | cons b bs ih =>
    cases bs with
    | nil => rfl
    | cons c cs =>
      rw [List.map_cons, runs, ih (a + 1) (List.cons_ne_nil c cs)]
      exact if_pos rfl

theorem leOf_ne_nil {n : Nat} (h : 0 < n) (v : Nat) : leOf n v ≠ [] :=
  List.ne_nil_of_length_pos (by rwa [length_leOf])

/-- An image has 16 elements of 4 bytes (R118). -/
theorem length_blockImage (f : GxT) (blk : Nat) : (blockImage f blk).length = 64 := by
  have hfour : ∀ vs : List Nat, (vs.flatMap fun v => (List.range 4).map fun i => BitVec.ofNat 8 (v / 256 ^ i)).length = 4 * vs.length := by
    intro vs
    induction vs with
    | nil => rfl
    | cons v vs ih => rw [List.flatMap_cons, List.length_append, ih, List.length_map, List.length_range, List.length_cons]; omega
  rw [blockImage, hfour, Block.toF32, List.length_map, List.length_range]

/-- Four bytes of a list that has them. -/
theorem take_four_drop {l : List Byte} {k : Nat} (h : k + 4 ≤ l.length) :
    (l.drop k).take 4 = (List.range 4).map fun j => l.getD (k + j) 0 := by
  apply List.ext_getElem
  · simp; omega
  · intro j h1 h2
    simp only [List.length_map, List.length_range] at h2
    simp [List.getD_eq_getElem?_getD, List.getElem?_eq_getElem (show k + j < l.length by omega)]

/-- The bytes that a store of `n` bytes of `v` at byte `o` of an image gives. -/
def storedByte (o n v b : Nat) : Option Byte := if o ≤ b ∧ b < o + n then some (BitVec.ofNat 8 (v / 256 ^ (b - o))) else none

/-- They are those of the number, from `o` on. -/
theorem getD_leOf_some (o n v : Nat) {b : Nat} (h : o ≤ b) : ((leOf n v).map some).getD (b - o) none = storedByte o n v b := by
  unfold storedByte
  by_cases hb : b < o + n
  · have hlen : b - o < (leOf n v).length := by rw [length_leOf]; omega
    rw [if_pos ⟨h, hb⟩, ← leOf_getD v (show b - o < n by omega), List.getD_eq_getElem _ _ (by simpa using hlen), List.getElem_map,
      List.getD_eq_getElem _ _ hlen]
  · rw [if_neg (fun h => hb h.2), List.getD_eq_default _ _ (by simp; omega)]

theorem storedByte_below {o b : Nat} (n v : Nat) (h : ¬o ≤ b) : storedByte o n v b = none := if_neg fun h' => h h'.1

/-- The image with these bytes in place, as the model lays it out. -/
theorem getD_image {img : List Byte} (o n v : Nat) {b : Nat} (h : b < img.length) :
    (img.zipIdx.map fun (c, i) => if o ≤ i then (((leOf n v).map some).getD (i - o) none).getD c else c).getD b 0 =
      (storedByte o n v b).getD (img.getD b 0) := by
  rw [List.getD_eq_getElem _ _ (by simpa using h), List.getD_eq_getElem _ _ h]
  simp only [List.getElem_map, List.getElem_zipIdx, Nat.zero_add]
  by_cases ho : o ≤ b
  · rw [if_pos ho, getD_leOf_some o n v ho]
  · rw [if_neg ho, storedByte_below n v ho]; rfl

end Sys2Proof.Machine
end

section
/-! SUPPORT. Write steps of the executing context (R116, R249): in the pool, in device memory, in the image of a format page. -/

namespace Sys2Proof.Machine

/-- A write step that leads from `s` to `t`: flags `f` are set, and the pool and memory are `pool` and `mem`. -/
structure State.Wrote (near : Nat → Prop) (f : FFlags) (pool mem : Memory) (s t : State) : Prop extends State.Accessed near s t where
  x : t.me.x = s.me.x
  fpflags : t.me.fpflags = s.me.fpflags ||| f
  pool : t.core.pool = pool
  mem : t.mem = mem

variable {near : Nat → Prop} {s t u : State} {f : FFlags} {pool mem : Memory} {bs : List Byte} {a : Word} {o pa : Nat}

theorem State.Wrote.after_quiet (h : s.Quiet near t) (h' : t.Wrote near f pool mem u) : s.Wrote near f pool mem u where
  toAccessed := h.toAccessed.trans h'.toAccessed
  x := h'.x.trans h.x
  fpflags := by rw [h'.fpflags, h.fpflags]
  pool := h'.pool
  mem := h'.mem

theorem State.Wrote.then_quiet (h : s.Wrote near f pool mem t) (h' : t.Quiet near u) : s.Wrote near f pool mem u where
  toAccessed := h.toAccessed.trans h'.toAccessed
  x := h'.x.trans h.x
  fpflags := h'.fpflags.trans h.fpflags
  pool := h'.pool.trans h.pool
  mem := h'.mem.trans h.mem

/-- Runs that an instruction writes to the pool change the pool and what follows its writes alone (R68). -/
theorem setRuns_spec (c : Core) (rows : List Nat) (rs : List (Nat × List Byte)) :
    c.setRuns rows rs = c.accessedAs (c.setRuns rows rs) ∧ (c.setRuns rows rs).ctxs = c.ctxs ∧
      (c.setRuns rows rs).pool = rs.foldl (fun m r => m.putBytes r.1 r.2) c.pool := by
  refine List.foldlRecOn (motive := fun d : Core => d = c.accessedAs d ∧ d.ctxs = c.ctxs ∧
    d.pool = rs.foldl (fun m r => m.putBytes r.1 r.2) c.pool) rows _ ⟨rfl, rfl, rfl⟩ fun d ⟨hd, hc, hp⟩ r _ => ⟨?_, hc, hp⟩
  exact (congrArg (fun e : Core => { e with written := setBit d.written r, wbuf := wbufPush d.wbuf r }) hd).trans rfl

@[simp] theorem or_no_flag (f : FFlags) : f ||| 0 = f := BitVec.or_zero

/-- The requests of the executing context are those of its own core. -/
theorem req_ag (s : State) : ∀ k, s.ag.req = some k → k = s.cur := fun _ h => (Option.some.inj h).symm

/-- A write of bytes to the scratchpad: their rows take it, and no other core counts it (R68, R235). -/
theorem writePlace_pool (s : State) (a : Nat) (pts : BitVec 64) (h : bs ≠ []) :
    ∃ p u, s.writePlace s.ag (.pool o) a (bs.map some) pts = .ok (p, u, 0) ∧
      s.Wrote (· = s.cur) 0 (s.core.pool.putBytes o bs) s.mem u := by
  refine ⟨_, _, rfl, ?_⟩
  simp only [runs_map_some o h]
  generalize hrows : (List.flatMap (fun r : Nat × List Byte => rowsOf r.1 r.2.length) [(o, bs)]).eraseDups = rows
  have hstamp : s.Alike (· = s.cur) (s.stampWrites s.ag (rows.map (rowKey s.ag.core)) pts).2 :=
    .stampWrites (req_ag s) (fun l hl hlow => by
      obtain ⟨r, -, rfl⟩ := List.mem_map.1 hl
      simp only [rowKey, hbmEnd] at hlow
      omega) s pts
  generalize hs1 : (s.stampWrites s.ag (rows.map (rowKey s.ag.core)) pts).2 = s1 at hstamp ⊢
  have hset : s1.updCoreAt s.ag.core (fun c => c.setRuns rows [(o, bs)]) = s1.updCore fun c => c.setRuns rows [(o, bs)] := by
    rw [show s.ag.core = s1.cur from hstamp.cur.symm]; rfl
  have hme : (s1.updCore fun c => c.setRuns rows [(o, bs)]).me = s1.me := by
    rw [State.me, State.core_updCore, Core.ctxAt, (setRuns_spec _ _ _).2.1]; rfl
  rw [hset]
  have hwrite : s1.Wrote (· = s.cur) 0 (s1.core.pool.putBytes o bs) s1.mem (s1.updCore fun c => c.setRuns rows [(o, bs)]) :=
    { toAccessed := .updCore (fun c => (setRuns_spec c _ _).1) (fun c => (setRuns_spec c _ _).2.1) s1
      x := by rw [hme]
      fpflags := by rw [hme, or_no_flag]
      pool := by rw [State.core_updCore]; exact (setRuns_spec _ _ _).2.2
      mem := rfl }
  rw [← hstamp.mem, ← show s1.core.pool = s.core.pool by rw [hstamp.core_eq]]
  exact (hwrite.after_quiet (.of_alike hstamp)).then_quiet (.of_alike (.dirtyRows _ _ _))

/-- Device memory with other bytes. -/
theorem State.Wrote.setMem (h : s.Alike near t) (m : Memory) : s.Wrote near 0 s.core.pool m { t with mem := m } where
  toAccessed := (State.Accessed.of_alike h).trans (.of_cores rfl rfl rfl)
  x := (congrArg Ctx.x h.me_eq :)
  fpflags := by rw [or_no_flag]; exact (congrArg Ctx.fpflags h.me_eq :)
  pool := (congrArg Core.pool h.core_eq :)
  mem := rfl

/-- A write of bytes to device memory (R249). -/
theorem writePlace_phys (s : State) (a : Nat) (pts : BitVec 64) (h : bs ≠ []) (hext : isExternal pa = false) :
    ∃ p u, s.writePlace s.ag (.phys pa) a (bs.map some) pts = .ok (p, u, 0) ∧
      s.Wrote (fun _ => True) 0 s.core.pool (s.mem.putBytes pa bs) u := by
  have hstamp : ∀ ls, s.Alike (fun _ => True) (s.stampWrites s.ag ls pts).2 := fun ls =>
    .stampWrites (fun _ _ => trivial) (fun _ _ _ _ => trivial) s pts
  simp only [State.writePlace, hext, Bool.false_eq_true, if_false, runs_map_some pa h, List.foldl_cons, List.foldl_nil]
  refine ⟨_, _, rfl, ?_⟩
  rw [(hstamp _).mem]
  exact .setMem (hstamp _) _

/-- A block that is written as one range of device memory. -/
theorem spanWrite_block (s : State) (pts : BitVec 64) (hext : isExternal pa = false) :
    s.Wrote (fun _ => True) 0 s.core.pool (s.mem.putBytes pa bs) (s.spanWrite s.ag [(pa, bs)] pts).2 := by
  have hstamp : ∀ ls, s.Alike (fun _ => True) (s.stampWrites s.ag ls pts).2 := fun ls =>
    .stampWrites (fun _ _ => trivial) (fun _ _ _ _ => trivial) s pts
  simp only [State.spanWrite, hext, List.filter_cons, Bool.false_eq_true, if_false, List.filter_nil, List.isEmpty_nil, if_true,
    Bool.not_false, List.foldl_cons, List.foldl_nil]
  rw [(hstamp _).mem]
  exact .setMem (hstamp _) _

variable {g : GxT} {n v : Nat}

/-- The block that the model stores is that of the image with the new bytes (R58, R139). -/
theorem gxStore_eq_imgStore (old : Nat) :
    gxStore g old (((List.range 16).filter fun i => (List.range 4).any fun j =>
        o ≤ 4 * i + j && (((leOf n v).map some).getD (4 * i + j - o) none).isSome).map fun i =>
      (i, leVal ((((blockImage g old).zipIdx.map fun (b, i) =>
        if o ≤ i then (((leOf n v).map some).getD (i - o) none).getD b else b).drop (4 * i)).take 4))) =
      imgStore g old (storedByte o n v) := by
  have hsome : ∀ b, (decide (o ≤ b) && (((leOf n v).map some).getD (b - o) none).isSome) = (storedByte o n v b).isSome := by
    intro b
    by_cases hb : o ≤ b
    · rw [decide_eq_true hb, Bool.true_and, getD_leOf_some o n v hb]
    · rw [decide_eq_false hb, Bool.false_and, storedByte_below n v hb]; rfl
  simp only [hsome, imgStore]
  congr 1
  refine List.map_congr_left fun i hi => ?_
  have hi16 : i < 16 := List.mem_range.1 (List.mem_filter.1 hi).1
  have hlen := length_blockImage g old
  rw [take_four_drop (by simp only [List.length_map, List.length_zipIdx, hlen]; omega)]
  refine congrArg (fun l => (i, leVal l)) (List.map_congr_left fun j hj => ?_)
  have hj4 : j < 4 := List.mem_range.1 hj
  exact getD_image o n v (by omega)

/-- A store of bytes that lie in one block of a format page encodes it anew (R58, R139). -/
theorem writePlace_fmt (s : State) (a : Nat) (pts : BitVec 64) (hn : 0 < n) (hin : o % 64 + n ≤ 64)
    (hext : isExternal (blockAt g pa o) = false) :
    let q := blockAt g pa o
    let r := imgStore g (s.mem.readLE q g.blockBytes) (storedByte (o % 64) n v)
    ∃ p u, s.writePlace s.ag (.fmt g pa o) a ((leOf n v).map some) pts = .ok (p, u, r.2) ∧
      s.Wrote (fun _ => True) 0 s.core.pool (s.mem.putBytes q (leOf g.blockBytes r.1)) u := by
  intro q r
  have hone : (o % 64 + ((leOf n v).map some).length + 63) / 64 = 1 := by rw [List.length_map, length_leOf]; omega
  have htake : ((leOf n v).map some).take (64 - o % 64) = (leOf n v).map some :=
    List.take_of_length_le (by rw [List.length_map, length_leOf]; omega)
  -- the element of the first byte is stored
  have hels : ((List.range 16).filter fun i => (List.range 4).any fun j =>
      o % 64 ≤ 4 * i + j && (((leOf n v).map some).getD (4 * i + j - o % 64) none).isSome).isEmpty = false := by
    rw [List.isEmpty_eq_false_iff_exists_mem]
    refine ⟨o % 64 / 4, List.mem_filter.2 ⟨List.mem_range.2 (by omega), List.any_eq_true.2
      ⟨o % 64 % 4, List.mem_range.2 (by omega), ?_⟩⟩⟩
    rw [show 4 * (o % 64 / 4) + o % 64 % 4 = o % 64 by omega, getD_leOf_some _ _ _ (Nat.le_refl _), storedByte, if_pos ⟨Nat.le_refl _, by omega⟩]
    simp
  have hblock : s.fmtWrite s.ag g pa o ((leOf n v).map some) pts =
      ((s.spanWrite s.ag [(q, leOf g.blockBytes r.1)] pts).1, (s.spanWrite s.ag [(q, leOf g.blockBytes r.1)] pts).2, r.2) := by
    rw [State.fmtWrite, hone]
    simp only [List.range_one, List.foldl_cons, List.foldl_nil, if_true, List.drop_zero, htake, Nat.add_zero]
    rw [show pa + o / 64 * g.blockBytes = q from rfl]
    simp only [State.fmtBlock, hels, gxStore_eq_imgStore, Bool.false_eq_true, if_false]
    rw [BitVec.or_comm, or_no_flag]
  exact ⟨_, _, congrArg Except.ok hblock, spanWrite_block s pts hext⟩

/-- The end of a write step: the context takes its time and the flags of a conversion (R57, R249). -/
theorem ctxWrite_of_writePlace {p : Place} {bs : List (Option Byte)} {pts : BitVec 64} (hp : p.ext? = none)
    (hplace : s.writePlace s.ag p a.toNat bs (s.joinWalks s.me.pts) = .ok (pts, u, f)) (hw : s.Wrote near 0 pool mem u) :
    ∃ t, s.ctxWrite p a bs = .ok t ∧ s.Wrote near f pool mem t := by
  have hat : s.writeAt s.ag p a.toNat bs s.me.pts = .ok (pts, u.sealWalks pts, f) := by
    rw [State.writeAt, hplace]; rfl
  rw [State.ctxWrite, State.stepWrite, hp]
  simp only [hat, liftTrap, if_true]
  refine ⟨_, rfl, ?_⟩
  have hseal := hw.then_quiet (.of_alike (.sealWalks u pts))
  refine State.Wrote.then_quiet ?_ (.touch _ _ _ _)
  exact
    { toAccessed := hseal.toAccessed.trans (.updMe (f := fun c => { c with
        pts := pts, fpflags := c.fpflags ||| f, storing := c.storing || decide (2 ^ 32 ≤ a.toNat) }) (fun _ => rfl) _)
      x := by rw [State.me_updMe]; exact hseal.x
      fpflags := by rw [State.me_updMe, hseal.fpflags, or_no_flag]
      pool := by rw [State.core_updMe]; exact hseal.pool
      mem := hseal.mem }

end Sys2Proof.Machine
end

section
/-! SUPPORT. The four outcomes of a store that meets the checks and waits for nothing (R116, R66, R325, R331): in the
scratchpad, in device memory, in the image of a format page, in an external window. -/

namespace Sys2Proof.Machine

variable {near : Nat → Prop} {s t u : State} {f : FFlags} {pool mem : Memory} {a : Word} {n v pa o : Nat} {rd wr stk : Bool} {p : Place}

/-- The checks of an access that awaits no answer, or has it (R116, R331). -/
theorem accCheck_ok {acc : Acc} (hal : a.toNat % n = 0) (hstk : stk = true → s.me.stacklim.toNat ≤ a.toNat)
    (hans : s.awaited a = none ∨ ∃ p d x, s.awaited a = some ⟨p, d, a, x, some 0⟩) :
    s.accCheck acc stk a n n = liftTrap (s.place s.ag acc a.toNat n) := by
  have hlim : ¬(stk = true ∧ a.toNat < s.me.stacklim.toNat) := fun ⟨hs, hlt⟩ => Nat.not_lt.2 (hstk hs) hlt
  rcases hans with hnone | ⟨p, d, x, hsome⟩
  · exact accCheck_place hal hlim hnone
  · rw [State.accCheck, if_neg (not_not.2 hal), if_neg (by simpa using hlim), hsome]
    cases p
    · exact if_pos rfl
    · rfl

/-- An access that no watch, card or earlier store holds back comes to the answers that it needs (R190, R249, R337). -/
theorem accReady_gate (hwatch : s.core.watched rd wr a.toNat n = false) (hcard : s.core.cardStall wr a.toNat n = false)
    (hst : a.toNat < 2 ^ 32 ∨ s.me.storing = false) : s.accReady rd wr p a n = s.extGate (wr && !rd) p a := by
  have hstore : (decide (2 ^ 32 ≤ a.toNat) && s.me.storing) = false := by
    rcases hst with h | h
    · rw [decide_eq_false (Nat.not_le.2 h), Bool.false_and]
    · rw [h, Bool.and_false]
  rw [State.accReady, State.partReady, hwatch, hcard, hstore]
  rfl

/-- An access inside the device needs no answer. -/
theorem extGate_inside (hp : p.ext? = none) : s.extGate wr p a = .ok s := by
  cases p with
  | phys pa =>
    have hext : isExternal pa = false := by
      by_contra h
      simp [Place.ext?, Bool.eq_true_of_not_eq_false h] at hp
    simp [State.extGate, hext]
  | pool _ => rfl
  | ctl _ => rfl
  | fmt _ _ _ => rfl

/-- An access to an external window goes on where it has its answer, or needs none (R331, R380). -/
theorem extGate_answered (hext : isExternal pa = true) (hg : 2 ^ 32 ≤ a.toNat)
    (hans : (∃ p d x, s.me.ext = some ⟨p, d, a, x, some 0⟩) ∨ (s.me.ext = none ∧ isHost pa = false ∧ isPeer pa = false)) :
    ∃ t, s.extGate wr (.phys pa) a = .ok t ∧ s.Quiet near t := by
  rcases hans with ⟨p, d, x, hsome⟩ | ⟨hnone, hhost, hpeer⟩
  · have haw : s.awaited a = some ⟨p, d, a, x, some 0⟩ := by
      rw [State.awaited, hsome, Option.filter_some, if_pos (by simpa using hg)]
    refine ⟨_, ?_, .updMe (f := fun c => { c with ext := none }) (fun _ => rfl) (fun _ => rfl) (fun _ => rfl) s⟩
    simp only [State.extGate, hext, haw, Bool.not_true, Bool.false_eq_true, if_false, if_true]
  · refine ⟨s, ?_, .refl s⟩
    simp [State.extGate, hext, awaited_none hnone, hnone, hhost, hpeer]

/-- A store is its checks, what it waits for, and its write step. -/
theorem store_eq (hcheck : s.accCheck .write stk a n n = .ok (p, t)) (hready : t.accReady p.image true p a n = .ok u) :
    s.store stk a n v = u.ctxWrite p a ((leOf n v).map some) := by
  rw [State.store, hcheck]
  change (t.accReady p.image true p a n >>= _) = _
  rw [hready]
  rfl

/-- After a translation a watch, a card and an outstanding store hold an access back as before it. -/
theorem held_of_alike (h : s.Alike near t) : t.core.watched rd wr a.toNat n = s.core.watched rd wr a.toNat n ∧
    t.core.cardStall wr a.toNat n = s.core.cardStall wr a.toNat n ∧ t.me.storing = s.me.storing :=
  ⟨by rw [h.core_eq]; rfl, by rw [h.core_eq]; rfl, by rw [h.me_eq]⟩

/-- The checks of an access to a global address are those of its translation. -/
theorem place_global {acc : Acc} {g : Ag} (h : 2 ^ 32 ≤ a.toNat) : s.place g acc a.toNat n = s.translate g acc a.toNat := by
  rw [State.place, if_neg (by omega), if_neg (by omega)]

theorem store_pad (hn : 0 < n) (h : s.padOk false true stk a n) :
    ∃ t, s.store stk a n v = .ok t ∧ s.Wrote (· = s.cur) 0 (s.core.pool.putBytes a.toNat (leOf n v)) s.mem t := by
  obtain ⟨hal, hstk, hlow, hrows, hwatch, hcard⟩ := h
  have hplace : s.place s.ag .write a.toNat n = .ok (.pool a.toNat, s) := by
    have hnone : (rowsOf a.toNat n).findSome? (s.rowCheck s.ag.core .write) = none := List.findSome?_eq_none_iff.2 hrows
    rw [State.place, if_pos hlow, hnone]
  have hcheck : s.accCheck .write stk a n n = .ok (.pool a.toNat, s) := by
    rw [accCheck_ok hal hstk (.inl (awaited_local (by omega))), hplace]; rfl
  have hready : s.accReady false true (.pool a.toNat) a n = .ok s := by
    rw [accReady_gate hwatch hcard (.inl (by omega)), extGate_inside rfl]
  rw [store_eq hcheck hready]
  obtain ⟨p, u, hwr, hu⟩ := writePlace_pool (o := a.toNat) s a.toNat (s.joinWalks s.me.pts) (leOf_ne_nil hn v)
  exact ctxWrite_of_writePlace rfl hwr hu

/-- A store at a global address inside the device, by the write step at its place. -/
theorem store_inside (hal : a.toNat % n = 0) (hstk : stk = true → s.me.stacklim.toNat ≤ a.toNat) (hg : 2 ^ 32 ≤ a.toNat)
    (htr : s.translate s.ag .write a.toNat = .ok (p, t)) (hext : s.me.ext = none) (hst : s.me.storing = false)
    (hwatch : s.core.watched p.image true a.toNat n = false) (hcard : s.core.cardStall true a.toNat n = false) (hp : p.ext? = none)
    (hwrite : ∀ pts, ∃ q u, t.writePlace t.ag p a.toNat ((leOf n v).map some) pts = .ok (q, u, f) ∧
      t.Wrote (fun _ => True) 0 pool mem u) :
    ∃ u, s.store stk a n v = .ok u ∧ s.Wrote (fun _ => True) f pool mem u := by
  have hwalk : s.Alike (fun _ => True) t := .translate (fun _ => trivial) htr
  obtain ⟨hw, hc, hs⟩ := held_of_alike (rd := p.image) (wr := true) (a := a) (n := n) hwalk
  have hcheck : s.accCheck .write stk a n n = .ok (p, t) := by
    rw [accCheck_ok hal hstk (.inl (awaited_none hext)), place_global hg, htr]; rfl
  have hready : t.accReady p.image true p a n = .ok t := by
    rw [accReady_gate (hw.trans hwatch) (hc.trans hcard) (.inr (hs.trans hst)), extGate_inside hp]
  obtain ⟨q, w, hwr, hu⟩ := hwrite (t.joinWalks t.me.pts)
  obtain ⟨u, hu', hwrote⟩ := ctxWrite_of_writePlace hp hwr hu
  exact ⟨u, by rw [store_eq hcheck hready, hu'], hwrote.after_quiet (.of_alike hwalk)⟩

theorem store_far (hn : 0 < n) (h : s.farOk false true stk a n pa) :
    ∃ t, s.store stk a n v = .ok t ∧ s.Wrote (fun _ => True) 0 s.core.pool (s.mem.putBytes pa (leOf n v)) t := by
  obtain ⟨hal, hstk, hg, hin, ⟨t, htr⟩, hext, hst, hwatch, hcard⟩ := h
  have hwalk : s.Alike (fun _ => True) t := .translate (fun _ => trivial) htr
  refine store_inside hal hstk hg htr hext hst hwatch hcard (by simp [Place.ext?, hin]) fun pts => ?_
  rw [← show t.core.pool = s.core.pool by rw [hwalk.core_eq], ← hwalk.mem]
  exact writePlace_phys t a.toNat pts (leOf_ne_nil hn v) hin

theorem store_img {g : GxT} (hn : 0 < n) (h : s.imgOk true true stk a n g pa o) :
    let q := blockAt g pa o
    let r := imgStore g (s.mem.readLE q g.blockBytes) (storedByte (o % 64) n v)
    ∃ t, s.store stk a n v = .ok t ∧
      s.Wrote (fun _ => True) r.2 s.core.pool (s.mem.putBytes q (leOf g.blockBytes r.1)) t := by
  obtain ⟨hal, hstk, hg, hin, hblock, ⟨t, htr⟩, hext, hst, hwatch, hcard⟩ := h
  have hwalk : s.Alike (fun _ => True) t := .translate (fun _ => trivial) htr
  intro q r
  refine store_inside hal hstk hg htr hext hst hwatch hcard rfl fun pts => ?_
  have hwr := writePlace_fmt (v := v) t a.toNat pts hn hblock hin
  rwa [show t.core.pool = s.core.pool by rw [hwalk.core_eq], hwalk.mem] at hwr

/-- An external write of the executing context sets out for its home (R255). -/
theorem ctxWrite_external (s : State) (a : Word) (h : 0 < n) (hext : isExternal pa = true) :
    ∃ t, s.ctxWrite (.phys pa) a ((leOf n v).map some) = .ok t ∧ s.Wrote (fun _ => True) 0 s.core.pool s.mem t ∧
      t.me.extOut = true ∧
      t.extw = s.extw ++ [⟨s.cur, s.ctx, (s.taskLaunch s.cur).map fun p => p.2.seq, pa, leOf n v⟩] := by
  have hp : (Place.phys pa).ext? = some pa := by simp [Place.ext?, hext]
  rw [State.ctxWrite, State.stepWrite, hp]
  simp only [runs_map_some pa (leOf_ne_nil h v), List.map_cons, List.map_nil]
  refine ⟨_, rfl, ?_, by rw [State.me_updMe], ?_⟩
  · generalize hs1 : ({ s with extw := s.extw ++ [_] } : State) = s1
    have hfirst : s.Wrote (fun _ => True) 0 s.core.pool s.mem s1 := by
      subst hs1
      exact { toAccessed := .of_cores rfl rfl rfl, x := rfl, fpflags := (or_no_flag _).symm, pool := rfl, mem := rfl }
    have hwalks : s1.Quiet (fun _ => True) s1.followWalks :=
      .trans (.of_alike (.sealWalks s1 _)) (.updMe (f := fun c => { c with pts := s1.joinWalks s1.me.pts }) (fun _ => rfl) (fun _ => rfl) (fun _ => rfl) _)
    exact (hfirst.then_quiet hwalks).then_quiet
      (.updMe (f := fun c => { c with extOut := true }) (fun _ => rfl) (fun _ => rfl) (fun _ => rfl) _)
  · exact (State.Alike.sealWalks (near := fun _ => True) _ _).extw

/-- An access that meets its checks at an external place, and is answered there, comes to its step. -/
theorem extOk_ready (h : s.extOk rd wr stk a n pa) :
    ∃ t u, s.accCheck (if wr then .write else .read) stk a n n = .ok (.phys pa, t) ∧
      t.accReady rd wr (.phys pa) a n = .ok u ∧ s.Quiet (fun _ => True) u := by
  obtain ⟨hal, hstk, hg, hout, ⟨t, htr⟩, hans, hst, hwatch, hcard⟩ := h
  have hwalk : s.Alike (fun _ => True) t := .translate (fun _ => trivial) htr
  obtain ⟨hw, hc, hs⟩ := held_of_alike (rd := rd) (wr := wr) (a := a) (n := n) hwalk
  have hawait : s.awaited a = none ∨ ∃ p d x, s.awaited a = some ⟨p, d, a, x, some 0⟩ := by
    rcases hans with ⟨p, d, x, hsome⟩ | ⟨hnone, -, -⟩
    · exact .inr ⟨p, d, x, by rw [State.awaited, hsome, Option.filter_some, if_pos (by simpa using hg)]⟩
    · exact .inl (awaited_none hnone)
  obtain ⟨u, hgate, hquiet⟩ := extGate_answered (near := fun _ => True) (wr := wr && !rd) (s := t) hout hg (by rwa [hwalk.me_eq])
  refine ⟨t, u, ?_, ?_, (State.Quiet.of_alike hwalk).trans hquiet⟩
  · rw [accCheck_ok hal hstk hawait, place_global hg, htr]; rfl
  · rw [accReady_gate (hw.trans hwatch) (hc.trans hcard) (.inr (hs.trans hst))]; exact hgate

theorem store_external (hn : 0 < n) (h : s.extOk false true stk a n pa) :
    ∃ t, s.store stk a n v = .ok t ∧ s.Wrote (fun _ => True) 0 s.core.pool s.mem t ∧ t.me.extOut = true ∧
      t.extw = s.extw ++ [⟨s.cur, s.ctx, (s.taskLaunch s.cur).map fun p => p.2.seq, pa, leOf n v⟩] := by
  have hout : isExternal pa = true := h.2.2.2.1
  obtain ⟨t, u, hcheck, hready, hall⟩ := extOk_ready h
  obtain ⟨w, hwr, hwrote, hextOut, hextw⟩ := ctxWrite_external (n := n) (v := v) u a hn hout
  refine ⟨w, by rw [store_eq hcheck hready, hwr], ?_, hextOut, ?_⟩
  · rw [← hall.pool, ← hall.mem]; exact hwrote.after_quiet hall
  · rw [hextw, hall.extw, hall.taskLaunch, hall.cur, hall.ctx]

end Sys2Proof.Machine
end

section
/-! SUPPORT. The instructions of a store (R116, R117, R156): their effect is that of the store, and in st.p the base after it. -/

namespace Sys2Proof.Machine

variable {near : Nat → Prop} {s t : State} {f : FFlags} {pool mem : Memory} {a : Word} {n len : Nat} {stk : Bool} {v : Word}
  {upd : Option (BitVec 5 × Word)} {i : Instr}

/-- The state with the base register that a form with update writes (R117). -/
def State.withBase (s : State) (upd : Option (BitVec 5 × Word)) : State :=
  match upd with
  | some (b, w) => s.setX b w
  | none => s

theorem xr_withBase (hx : t.me.x = s.me.x) (r : BitVec 5) : (t.withBase upd).xr r = if r = 0 then 0 else match upd with
    | some (u, w) => if r = u then w else s.xr r
    | none => s.xr r := by
  have hkeep : ∀ r, t.xr r = s.xr r := fun r => by rw [State.xr, State.xr, Ctx.getX, Ctx.getX, hx]
  by_cases hr : r = 0
  · rw [if_pos hr, hr, State.xr_zero]
  · rw [if_neg hr]
    match upd with
    | none => exact hkeep r
    | some (u, w) =>
      change (t.setX u w).xr r = if r = u then w else s.xr r
      by_cases hu : r = u
      · rw [if_pos hu, hu, State.xr_setX_same _ _ (hu ▸ hr)]
      · rw [if_neg hu, State.xr_setX_ne _ _ hu, hkeep]

theorem accessed_withBase (t : State) : t.Accessed near (t.withBase upd) := by
  match upd with
  | none => exact .of_cores rfl rfl rfl
  | some (u, w) => exact .setX t u w

/-- The base register is no flag, no byte and no external write. -/
theorem withBase_spec (t : State) : (t.withBase upd).me.fpflags = t.me.fpflags ∧ (t.withBase upd).me.extOut = t.me.extOut ∧
    (t.withBase upd).core.pool = t.core.pool ∧ (t.withBase upd).mem = t.mem ∧ (t.withBase upd).extw = t.extw := by
  match upd with
  | none => exact ⟨rfl, rfl, rfl, rfl, rfl⟩
  | some (u, w) =>
    refine ⟨?_, ?_, ?_, rfl, rfl⟩
    · simp only [State.withBase, State.me_setX, Ctx.setX_fpflags]
    · simp only [State.withBase, State.me_setX, Ctx.setX_extOut]
    · simp only [State.withBase, State.setX, State.core_updMe]; rfl

/-- What a store has written stays where the base follows it. -/
theorem State.Wrote.withBase (h : s.Wrote near f pool mem t) : s.Accessed near (t.withBase upd) ∧
    (∀ r, (t.withBase upd).xr r = if r = 0 then 0 else match upd with
      | some (u, w) => if r = u then w else s.xr r
      | none => s.xr r) ∧
    (t.withBase upd).me.fpflags = s.me.fpflags ||| f ∧ (t.withBase upd).core.pool = pool ∧ (t.withBase upd).mem = mem := by
  obtain ⟨hfp, -, hpool, hmem, -⟩ := withBase_spec (upd := upd) t
  exact ⟨h.toAccessed.trans (accessed_withBase t), xr_withBase h.x, hfp.trans h.fpflags, hpool.trans h.pool, hmem.trans h.mem⟩

/-- An instruction whose effect is a store is a store at each of the four kinds of place. -/
theorem stores_of_store (hcan : s.canonical) (hn : 0 < n)
    (hexec : ∀ t, s.store stk a n v.toNat = .ok t → Retires i s len (t.withBase upd)) : Stores i s len stk a n v upd := by
  have hpoolwf : s.core.pool.wf = true := hcan.2 s.cur
  refine ⟨fun h => ?_, fun pa h => ?_, fun g pa o h => ?_, fun pa h => ?_⟩
  · obtain ⟨t, hst, hw⟩ := store_pad (v := v.toNat) hn h
    obtain ⟨hacc, hx, hfp, hpool, hmem⟩ := hw.withBase (upd := upd)
    refine ⟨_, hexec t hst, hx, hfp.trans (or_no_flag _), hacc.keeps hmem, ?_, fun b hb => ?_⟩
    · rw [hpool, readLE_putBytes_leOf _ _ _ hpoolwf]
    · rw [hpool, read_putBytes_leOf hpoolwf hb]
  · obtain ⟨t, hst, hw⟩ := store_far (v := v.toNat) hn h
    obtain ⟨hacc, hx, hfp, hpool, hmem⟩ := hw.withBase (upd := upd)
    refine ⟨_, hexec t hst, hx, hfp.trans (or_no_flag _), hacc.keepsFar, ?_, fun b hb => ?_, fun b => by rw [hpool]⟩
    · rw [hmem, readLE_putBytes_leOf _ _ _ hcan.1]
    · rw [hmem, read_putBytes_leOf hcan.1 hb]
  · obtain ⟨t, hst, hw⟩ := store_img (v := v.toNat) hn h
    obtain ⟨hacc, hx, hfp, hpool, hmem⟩ := hw.withBase (upd := upd)
    refine ⟨_, hexec t hst, hx, hfp, hacc.keepsFar, ?_, fun b hb => ?_, fun b => by rw [hpool]⟩
    · rw [hmem, readLE_putBytes_leOf _ _ _ hcan.1]; rfl
    · rw [hmem, read_putBytes_leOf hcan.1 hb]
  · obtain ⟨t, hst, hw, hout, hextw⟩ := store_external (v := v.toNat) hn h
    obtain ⟨hacc, hx, hfp, hpool, hmem⟩ := hw.withBase (upd := upd)
    obtain ⟨-, hout', -, -, hextw'⟩ := withBase_spec (upd := upd) t
    exact ⟨_, hexec t hst, hx, hfp.trans (or_no_flag _), hacc.keepsFar, hout'.trans hout, hextw'.trans hextw, fun b => by rw [hmem],
      fun b => by rw [hpool]⟩

variable {b c r : BitVec 5} {w : BitVec 2}

theorem stP_retires {o : BitVec 11} (hr : s.ready [.x r, .x b]) (hst : s.store (b == 2) (s.xr b) (2 ^ w.toNat) (s.xr r).toNat = .ok t) :
    Retires (.stP w o b r) s 4 (t.withBase (some (b, s.xr b + o.signExtend 64))) := by
  refine instr_retires (len := 4) (us := [.x r, .x b]) (body := fun s => do
    let base := s.xr b
    let s ← s.store (b == 2) base (stSize w) (s.xr r).toNat
    goes (s.setX b (base + sx o))) rfl hr ?_
  change (s.store (b == 2) (s.xr b) (2 ^ w.toNat) (s.xr r).toNat >>= _) = _
  rw [hst]
  rfl

end Sys2Proof.Machine
end

section
open Sys2Proof Sys2Proof.Machine

/-- Settles O23. The five instructions are one store each, at the address that their form gives; the store has its four
outcomes by the place that the address translates to. -/
theorem scratchpadStores : Obligations.ScratchpadStores := by
  unfold Obligations.ScratchpadStores
  intro w o e l sh r b c s z a1 a2 x hcan
  have hz : 0 < z := Nat.two_pow_pos _
  have plain : ∀ {i : Instr} {us : List Use} (len : Nat) (a : Word), s.ready us →
      exec i s = s.instr len us (fun _ => andGoes (s.store (b == 2) a z (s.xr r).toNat)) → Stores i s len (b == 2) a z (s.xr r) none :=
    fun len a hr hexec => stores_of_store hcan hz fun t hst => instr_retires hexec hr (by rw [hst]; rfl)
  exact ⟨fun hr => ⟨plain 4 a1 hr rfl, plain 12 a2 hr rfl, stores_of_store hcan hz fun t hst => stP_retires hr hst⟩,
    fun hr => ⟨plain 12 (x + e.signExtend 64) hr rfl, plain 20 (x + l) hr rfl⟩⟩
end

section
/-! SUPPORT. What an instruction on registers alone leaves unchanged (R50, R107, R140, R334). -/

namespace Sys2Proof.Machine

/-! The context. -/

/-- Of a context, what an instruction with destination `d` keeps even where it takes an exception: the other registers and
modes, and every sticky flag that is set. -/
structure Ctx.Kept (d : Dest) (x y : Ctx) : Prop where
  getX : ∀ n, d ≠ .x n → y.getX n = x.getX n
  getM : ∀ n, d ≠ .m n → y.getM n = x.getM n
  getH : ∀ n, y.getH n = x.getH n
  getC : ∀ n, y.getC n = x.getC n
  rrb : y.rrb = x.rrb
  trapvec : y.trapvec = x.trapvec
  tstep : y.tstep = x.tstep
  stacklim : y.stacklim = x.stacklim
  fpflags : x.fpflags &&& y.fpflags = x.fpflags
  istat : x.istat &&& y.istat = x.istat

/-- The registers of the exception that a context handles. -/
def Ctx.exc (x : Ctx) : Bool × Word × BitVec 8 × Word := (x.tin, x.epc, x.cause, x.tval)

theorem and_and_of_kept {w : Nat} {a b c : BitVec w} (h : a &&& b = a) (h' : b &&& c = b) : a &&& c = a := by
  rw [← h, BitVec.and_assoc, h']

theorem and_or_self {w : Nat} (a b : BitVec w) : a &&& (a ||| b) = a := by ext; simp +contextual

namespace Ctx.Kept

variable {d : Dest} {x y z : Ctx}

theorem refl (d : Dest) (x : Ctx) : x.Kept d x :=
  ⟨fun _ _ => rfl, fun _ _ => rfl, fun _ => rfl, fun _ => rfl, rfl, rfl, rfl, rfl, BitVec.and_self, BitVec.and_self⟩

theorem trans (h : x.Kept d y) (h' : y.Kept d z) : x.Kept d z where
  getX n hn := (h'.getX n hn).trans (h.getX n hn)
  getM n hn := (h'.getM n hn).trans (h.getM n hn)
  getH n := (h'.getH n).trans (h.getH n)
  getC n := (h'.getC n).trans (h.getC n)
  rrb := h'.rrb.trans h.rrb
  trapvec := h'.trapvec.trans h.trapvec
  tstep := h'.tstep.trans h.tstep
  stacklim := h'.stacklim.trans h.stacklim
  fpflags := and_and_of_kept h.fpflags h'.fpflags
  istat := and_and_of_kept h.istat h'.istat

/-- A write of an x register. -/
theorem setX (x : Ctx) (n : BitVec 5) (v : Word) : x.Kept (.x n) (x.setX n v) := by
  have hne : ∀ j, Dest.x n ≠ .x j → (x.setX n v).getX j = x.getX j := fun j hj =>
    Ctx.getX_setX_ne x v fun e => hj (e ▸ rfl)
  unfold Ctx.setX at hne ⊢
  split
  · exact refl _ x
  next h => exact { refl (.x n) x with getX := fun j hj => by simpa only [if_neg h] using hne j hj }

/-- A write of a mask register. -/
theorem setM (x : Ctx) (n : BitVec 3) (v : BitVec 128) : x.Kept (.m n) (x.setM n v) := by
  have hne : ∀ j, Dest.m n ≠ .m j → (x.setM n v).getM j = x.getM j := fun j hj =>
    Ctx.getM_setM_ne x v fun e => hj (e ▸ rfl)
  unfold Ctx.setM at hne ⊢
  split
  · exact refl _ x
  next h => exact { refl (.m n) x with getM := fun j hj => by simpa only [if_neg h] using hne j hj }

end Ctx.Kept

theorem Ctx.exc_setX (x : Ctx) (n : BitVec 5) (v : Word) : (x.setX n v).exc = x.exc := by
  unfold Ctx.setX; split <;> rfl
theorem Ctx.exc_setM (x : Ctx) (n : BitVec 3) (v : BitVec 128) : (x.setM n v).exc = x.exc := by
  unfold Ctx.setM; split <;> rfl

/-! The state. -/

/-- What an instruction with destination `d` leaves unchanged, whether it retires, waits or takes an exception. -/
structure State.Framed (d : Dest) (s t : State) : Prop where
  cur : t.cur = s.cur
  ctx : t.ctx = s.ctx
  me : s.me.Kept d t.me
  exc : t.me.tin = true ∨ t.me.exc = s.me.exc
  core : { t.core with
    ctxs := s.core.ctxs, pool := s.core.pool, written := s.core.written, wbuf := s.core.wbuf, cnt := s.core.cnt } = s.core
  ctxs : ∀ j, j ≠ s.ctx → t.core.ctxAt j = s.core.ctxAt j
  cores : ∀ k, k ≠ s.cur → t.coreAt k = s.coreAt k
  pool : ∀ b, (∀ n, d = .v n → b / 128 ≠ s.vrow n) → t.core.pool.read b = s.core.pool.read b
  mem : t.mem = s.mem

namespace State.Framed

variable {d : Dest} {s t u : State}

/-- Of the core, everything but its contexts, pool and counters stays. -/
theorem core_eq (h : s.Framed d t) : t.core = { s.core with
    ctxs := t.core.ctxs, pool := t.core.pool, written := t.core.written, wbuf := t.core.wbuf, cnt := t.core.cnt } :=
  congrArg (fun c : Core => { c with
    ctxs := t.core.ctxs, pool := t.core.pool, written := t.core.written, wbuf := t.core.wbuf, cnt := t.core.cnt }) h.core

/-- A vector register keeps its row. -/
theorem vrow_eq (h : s.Framed d t) (n : BitVec 5) : t.vrow n = s.vrow n := by
  rw [State.vrow, State.vrow, Ctx.phys, h.me.rrb, h.ctx, h.core_eq]; rfl

theorem trans (h : s.Framed d t) (h' : t.Framed d u) : s.Framed d u where
  cur := h'.cur.trans h.cur
  ctx := h'.ctx.trans h.ctx
  me := h.me.trans h'.me
  exc := h'.exc.elim .inl fun e => h.exc.imp (fun ht => (congrArg Prod.fst e).trans ht) e.trans
  core := by
    rw [← h.core, ← h'.core]
  ctxs j hj := (h'.ctxs j (by rwa [h.ctx])).trans (h.ctxs j hj)
  cores k hk := (h'.cores k (by rwa [h.cur])).trans (h.cores k hk)
  pool b hb := (h'.pool b fun n hn => by rw [h.vrow_eq]; exact hb n hn).trans (h.pool b hb)
  mem := h'.mem.trans h.mem

/-- An operation that changes nothing but counters. -/
theorem of_alike (h : s.Alike (· = s.cur) t) : s.Framed d t where
  cur := h.cur
  ctx := h.ctx
  me := h.me_eq ▸ Ctx.Kept.refl d t.me
  exc := .inr (congrArg Ctx.exc h.me_eq)
  core := by rw [h.core_eq]
  ctxs j _ := h.ctxAt_eq j
  cores k hk := h.others k hk
  pool b _ := by rw [h.core_eq]
  mem := h.mem

/-- A change of the context that keeps its registers and modes. -/
theorem updMe {f : Ctx → Ctx} (hf : s.me.Kept d (f s.me)) (he : (f s.me).tin = true ∨ (f s.me).exc = s.me.exc) :
    s.Framed d (s.updMe f) where
  cur := rfl
  ctx := rfl
  me := by rwa [State.me_updMe]
  exc := by rwa [State.me_updMe]
  core := by rw [State.core_updMe]; rfl
  ctxs j hj := by rw [State.core_updMe, Core.ctxAt_setCtx_ne _ _ hj]
  cores k hk := State.coreAt_setCoreAt_ne _ _ hk
  pool b _ := by rw [State.core_updMe]; rfl
  mem := rfl

theorem ctxAt_setRow (s : State) (n : BitVec 5) (v j : Nat) :
    (s.updCore fun c => c.setRow (s.vrow n) v).core.ctxAt j = s.core.ctxAt j := by
  rw [State.core_updCore]; rfl

theorem me_setRow (s : State) (n : BitVec 5) (v : Nat) : (s.updCore fun c => c.setRow (s.vrow n) v).me = s.me :=
  ctxAt_setRow s n v s.ctx

/-- A write of the row of the destination. -/
theorem setRow (hwf : s.core.pool.wf = true) (n : BitVec 5) (v : Nat) :
    s.Framed (.v n) (s.updCore fun c => c.setRow (s.vrow n) v) where
  cur := rfl
  ctx := rfl
  me := by rw [me_setRow]; exact .refl _ _
  exc := .inr (congrArg Ctx.exc (me_setRow s n v))
  core := by rw [State.core_updCore]; rfl
  ctxs j _ := ctxAt_setRow s n v j
  cores k hk := State.coreAt_setCoreAt_ne _ _ hk
  pool b hb := by
    rw [State.core_updCore]
    have hrow := hb n rfl
    exact Memory.read_writeLE_out hwf (by omega)
  mem := rfl

theorem setFlags (s : State) (f : Flags) : s.Framed d (s.setFlags f) :=
  updMe { Ctx.Kept.refl d s.me with fpflags := and_or_self _ _, istat := and_or_self _ _ } (.inr rfl)

theorem setWait (s : State) (w : Wait) : s.Framed d (s.setWait w) := updMe { Ctx.Kept.refl d s.me with } (.inr rfl)

theorem takeTrap (h : s.handled) (epc : Word) (c : BitVec 8) (v : Word) : s.Framed d (s.takeTrap epc c v) := by
  rw [takeTrap_handled h.1 h.2]
  exact updMe (f := fun x => { x with
    pc := x.trapvec, epc := epc, cause := c, tval := v, tin := true, wait := .none, ext := none, bans := none,
    shape := none }) { Ctx.Kept.refl d s.me with } (.inl rfl)

/-- An instruction that retires, and takes the exception of single-stepping where TFLAGS.STEP was set. -/
theorem retire (h : s.handled) (step : Bool) (pc : Word) : s.Framed d (s.retire step pc) := by
  have hgo : s.Framed d (s.goOn pc) := updMe { Ctx.Kept.refl d s.me with } (.inr rfl)
  have hfalse : s.Framed d (s.retire false pc) := hgo.trans (of_alike (retire_false_alike s pc))
  cases step with
  | false => exact hfalse
  | true =>
    have hfree : (s.retire false pc).Framed d (s.retire false pc).free.2 :=
      of_alike (.of_cores rfl rfl rfl rfl rfl rfl)
    have hme : (s.retire false pc).free.2.me = { s.me with pc := pc, wait := .none } := me_retire_false pc
    refine hfalse.trans (hfree.trans (takeTrap ?_ pc Cause.STEP (s.retire false pc).free.1))
    rw [State.handled, hme]
    exact h

end State.Framed

/-! Register rows. -/

theorem Ctx.phys_injective (x : Ctx) {n m : BitVec 5} (h : x.phys n = x.phys m) : n = m := by
  apply BitVec.eq_of_toNat_eq
  have := n.isLt
  have := m.isLt
  have := x.rrb.isLt
  unfold Ctx.phys at h
  split at h <;> split at h <;> omega

/-- A vector register that is not the destination. -/
theorem State.Framed.vr_eq {d : Dest} {s t : State} (h : s.Framed d t) {n : BitVec 5} (hn : d ≠ .v n) : t.vr n = s.vr n := by
  rw [State.vr, State.vr, h.vrow_eq, Core.row, Core.row]
  refine Memory.readLE_congr fun b hlo hhi => h.pool b fun m hm hrow => hn ?_
  have hphys : s.core.ctxBase s.ctx + s.me.phys n = s.core.ctxBase s.ctx + s.me.phys m := by
    rw [← State.vrow, ← State.vrow]; omega
  rw [hm, s.me.phys_injective (Nat.add_left_cancel hphys)]

/-! Instructions. -/

/-- A write of the register `d` alone, with sticky flags. -/
inductive State.Puts (s : State) : Dest → State → Prop where
  | x (n : BitVec 5) (v : Word) : s.Puts (.x n) (s.setX n v)
  | v (n : BitVec 5) (v : Nat) : s.Puts (.v n) (s.setV n v)
  | m (n : BitVec 3) (v : BitVec 128) : s.Puts (.m n) (s.setM n v)
  | flags {d : Dest} {t : State} (f : Flags) : s.Puts d t → s.Puts d (t.setFlags f)

variable {d : Dest} {s u : State}

theorem State.Puts.framed (h : s.Puts d u) (hwf : s.core.pool.wf = true) : s.Framed d u := by
  induction h with
  | x n v => exact .updMe (.setX _ n v) (.inr (Ctx.exc_setX _ n v))
  | m n v => exact .updMe (.setM _ n v) (.inr (Ctx.exc_setM _ n v))
  | v n v => exact (State.Framed.setRow hwf n v).trans (.updMe { Ctx.Kept.refl _ _ with } (.inr rfl))
  | flags f _ ih => exact ih.trans (.setFlags _ f)

theorem State.Puts.exc (h : s.Puts d u) : u.me.exc = s.me.exc := by
  induction h with
  | x n v => rw [State.me_setX, Ctx.exc_setX]
  | m n v => rw [State.me_setM, Ctx.exc_setM]
  | v n v =>
    rw [State.setV, State.me_updMe]
    change (s.updCore fun c => c.setRow (s.vrow n) v).me.exc = s.me.exc
    rw [State.Framed.me_setRow]
  | flags f _ ih => rw [State.setFlags, State.me_updMe]; exact ih

theorem State.Puts.handled (h : s.Puts d u) (hwf : s.core.pool.wf = true) (hs : s.handled) : u.handled :=
  ⟨(congrArg Prod.fst h.exc).trans hs.1, by rw [(h.framed hwf).me.trapvec]; exact hs.2⟩

/-- An outcome that keeps the frame of `d`, from a state of canonical memory where an exception is handled. -/
def Framing (d : Dest) (s : State) (o : Host.Outcome State Fault Refusal) : Prop :=
  s.core.pool.wf = true → s.handled → ∀ t, o = .next t → s.Framed d t

/-- An instruction whose body writes its destination waits, faults or retires. -/
theorem framing_instr {len : Nat} {us : List Use} {body : State → Run Done} (hbody : body s = goes u) (hu : s.Puts d u) :
    Framing d s (s.instr len us body) := by
  intro hwf hs t h
  rw [State.instr, hbody, finish_goes] at h
  split at h
  · cases h; exact .setWait s .other
  · split at h
    · cases h; exact .takeTrap hs _ _ _
    · cases h; exact (hu.framed hwf).trans (.retire (hu.handled hwf hs) _ _)

end Sys2Proof.Machine
end

section
/-! SUPPORT. The instructions on registers alone, by what they write. -/

namespace Sys2Proof.Machine

variable {d : Dest} {s : State}

/-- The free counter is no part of the frame. -/
theorem Framing.of_free {n : Nat} {o : Host.Outcome State Fault Refusal} (h : Framing d { s with n := n } o) : Framing d s o :=
  fun hwf hs t ho =>
    have hfree : s.Framed d { s with n := n } := .of_alike (.of_cores rfl rfl rfl rfl rfl rfl)
    hfree.trans (h hwf hs t ho)

section
variable {len : Nat} {us : List Use}

theorem framing_x {n : BitVec 5} {v : State → Word} : Framing (.x n) s (s.instr len us fun s => goes (s.setX n (v s))) :=
  framing_instr rfl (.x n (v s))

theorem framing_x_flags {n : BitVec 5} {v : State → Word} {f : State → Flags} :
    Framing (.x n) s (s.instr len us fun s => goes ((s.setX n (v s)).setFlags (f s))) :=
  framing_instr rfl (.flags (f s) (.x n (v s)))

theorem framing_v_flags {n : BitVec 5} {v : State → Nat} {f : State → Flags} :
    Framing (.v n) s (s.instr len us fun s => goes ((s.setV n (v s)).setFlags (f s))) :=
  framing_instr rfl (.flags (f s) (.v n (v s)))

theorem framing_v_flags_flags {n : BitVec 5} {v : State → Nat} {f g : State → Flags} :
    Framing (.v n) s (s.instr len us fun s => goes (((s.setV n (v s)).setFlags (f s)).setFlags (g s))) :=
  framing_instr rfl (.flags (g s) (.flags (f s) (.v n (v s))))

theorem framing_m {n : BitVec 3} {v : State → BitVec 128} :
    Framing (.m n) s (s.instr len us fun s => goes (s.setM n (v s))) :=
  framing_instr rfl (.m n (v s))

theorem framing_m_flags {n : BitVec 3} {v : State → BitVec 128} {f : State → Flags} :
    Framing (.m n) s (s.instr len us fun s => goes ((s.setM n (v s)).setFlags (f s))) :=
  framing_instr rfl (.flags (f s) (.m n (v s)))
end

/-! The forms that instructions share. -/

section
variable {len : Nat} {k : BitVec 3} {y : LaneT} {a b c : BitVec 5}

theorem framing_rrr {f : Word → Word → Word} : Framing (.x a) s (s.rrr a b c f) := framing_x
theorem framing_rr {f : Word → Word} : Framing (.x a) s (s.rr a b f) := framing_x
theorem framing_rri {v : Word} {f : Word → Word → Word} : Framing (.x a) s (s.rri len a b v f) := framing_x
theorem framing_const {f : State → Word} : Framing (.x a) s (s.const len a f) := framing_x
theorem framing_lea {sh : BitVec 5} {v : Word} : Framing (.x a) s (s.lea len a b c sh v) := framing_x
theorem framing_vext : Framing (.x a) s (s.vextAt len y a b c) := framing_x
theorem framing_divide {signed rem : Bool} : Framing (.x a) s (s.divide a b c signed rem) := framing_x_flags
theorem framing_fp1 {f : Nat → Nat × FFlags} : Framing (.x a) s (s.fp1 len a b f) := framing_x_flags
theorem framing_fp2 {f : Nat → Nat → Nat × FFlags} : Framing (.x a) s (s.fp2 len a b c f) := framing_x_flags

theorem framing_valu {f : Nat → Nat → Nat × Flags} : Framing (.v a) s (s.valu len k y a b c f) := framing_v_flags
theorem framing_valu1 {f : Nat → Nat → Nat × Flags} : Framing (.v a) s (s.valu1 len k y a b f) := framing_v_flags
theorem framing_vsel : Framing (.v a) s (s.vselAt len k y a b c) := framing_v_flags
theorem framing_vfma {r : Rnd} {p n : Bool} : Framing (.v a) s (s.vfmaAt len k y r p n a b c) := framing_v_flags
theorem framing_vdot {n : Nat} {r : Rnd} : Framing (.v a) s (s.vdotAt len n k y r a b c) := framing_v_flags
theorem framing_perm1 {f : List Nat → List Nat} : Framing (.v a) s (s.perm1 len k y a b f) := framing_v_flags
theorem framing_perm2 {f : List Nat → List Nat → List Nat} : Framing (.v a) s (s.perm2 len k y a b c f) := framing_v_flags
theorem framing_slideUp : Framing (.v a) s (s.slideUp len k y a b c) := framing_v_flags
theorem framing_slideDn : Framing (.v a) s (s.slideDn len k y a b c) := framing_v_flags
theorem framing_bcast : Framing (.v a) s (s.bcast len k y a b) := framing_v_flags
theorem framing_vins : Framing (.v a) s (s.vinsAt len k y a b c) := framing_v_flags
theorem framing_vred {o : RedOp} : Framing (.v a) s (s.vredAt len k y o a b) := framing_v_flags
theorem framing_vscan {o : RedOp} : Framing (.v a) s (s.vscanAt len k y o a b) := framing_v_flags_flags
/-- A special function takes free values first (R144). -/
theorem framing_spec1 {f : Fmt → Nat → Nat → Nat × FFlags} : Framing (.v a) s (s.spec1 len k y a b f) :=
  .of_free (n := s.n + 64) framing_valu1

theorem framing_mask3 {a b c : BitVec 3} {f : BitVec 128 → BitVec 128 → BitVec 128} : Framing (.m a) s (s.mask3 a b c f) :=
  framing_m
theorem framing_vcmp {a : BitVec 3} {p : Cmp} {uns : Bool} : Framing (.m a) s (s.vcmpAt len k y p uns b c a) := framing_m_flags
end

/-- Every instruction on registers alone writes its destination, and flags, in a body that always goes on. -/
theorem exec_framing {i : Instr} (h : dest i = some d) (s : State) : Framing d s (exec i s) := by
  cases i
  all_goals cases h
  all_goals delta exec -- the meaning of each, by its form
  -- a result in an x register
  case add | sub | andX | orX | xorX | andn | orn | sll | srl | sra | rol | ror | slt | sltu | minX | maxX | minu |
      maxu | mul | mulh | mulhu => exact framing_rrr
  case brev | clz | ctz | popc | bswap | sext | zext | slli | srli | srai | rori => exact framing_rr
  case addi | addiLit | andi | andiLit | ori | oriLit | xori | xoriLit | slti | sltiLit | sltiu | sltiuLit =>
    exact framing_rri
  case lui | pcadd | pcaddLit | li => exact framing_const
  case lea | leaLit => exact framing_lea
  case vext | vextExt => exact framing_vext
  case bfx | bfxu | bfi | csel | mad | wfield | mpopc | mfirst | mtox => exact framing_x
  case div | divu | rem | remu => exact framing_divide
  case fsqrt | fsqrtExt | fclass | fcvti => exact framing_fp1
  case fadd | faddExt | fsub | fsubExt | fmul | fmulExt | fdiv | fdivExt | fmin | fmax | feq | flt | fle =>
    exact framing_fp2
  case fmadd | fcvtf => exact framing_x_flags
  -- a result in a vector register
  case vadd | vaddExt | vsub | vsubExt | vmul | vmulExt | vmin | vminExt | vmax | vmaxExt | vand | vandExt | vor |
      vorExt | vxor | vxorExt | vandn | vandnExt | vshl | vshlExt | vshr | vshrExt | vsra | vsraExt | vminu |
      vminuExt | vmaxu | vmaxuExt | vmulh | vmulhExt | vmulhu | vmulhuExt | vavg | vavgExt | vadds | vaddsExt |
      vsubs | vsubsExt | vaddsu | vaddsuExt | vsubsu | vsubsuExt | vdiv | vdivExt => exact framing_valu
  case vabs | vabsExt | vneg | vnegExt | vmov | vmovExt | vclass | vclassExt | vrcp | vrcpExt | vrsqrt | vrsqrtExt |
      vsqrt | vsqrtExt => exact framing_valu1
  case vsel | vselExt => exact framing_vsel
  case vfma | vfmaExt | vfms | vfmsExt | vfnma | vfnmaExt | vfnms | vfnmsExt => exact framing_vfma
  case vdot4 | vdot4Ext | vdot2 | vdot2Ext => exact framing_vdot
  case vexp2 | vexp2Ext | vlog2 | vlog2Ext | vtanh | vtanhExt | vsigm | vsigmExt => exact framing_spec1
  case vperm | vpermExt | vzip | vzipExt => exact framing_perm2
  case vunzip | vunzipExt | vrev | vrevExt => exact framing_perm1
  case vslideup | vslideupExt => exact framing_slideUp
  case vslidedn | vslidednExt => exact framing_slideDn
  case vbcast | vbcastExt => exact framing_bcast
  case vins | vinsExt => exact framing_vins
  case vredAdd | vredAddExt | vredMax | vredMaxExt | vredMin | vredMinExt => exact framing_vred
  case vscanAdd | vscanAddExt | vscanMax | vscanMaxExt => exact framing_vscan
  case vcvt | vpackgx | vunpackgx => exact framing_v_flags
  -- a result in a mask register
  case mand | mor | mxor | mandn => exact framing_mask3
  case mnot | mfromx | mlanes => exact framing_m
  case vcmpEq | vcmpEqExt | vcmpNe | vcmpNeExt | vcmpLt | vcmpLtExt | vcmpLe | vcmpLeExt | vcmpLtu | vcmpLtuExt |
      vcmpLeu | vcmpLeuExt => exact framing_vcmp

end Sys2Proof.Machine
end

section
open Sys2Proof Sys2Proof.Machine

/-- Settles O55: whether the instruction waits, faults or retires, and whether or not it then single-steps, each stage
changes only the destination, sticky flags and the registers of the exception. -/
theorem registerFrame : Obligations.RegisterFrame := by
  unfold Obligations.RegisterFrame
  intro i d s t hd hcanon hs hexec
  have h : s.Framed d t := exec_framing hd s (hcanon.2 s.cur) hs t hexec
  have keep {α : Type} (g : Core → α) := congrArg g h.core_eq
  have hexc : t.me.tin = false → t.me.epc = s.me.epc ∧ t.me.cause = s.me.cause ∧ t.me.tval = s.me.tval := fun ht => by
    have he : t.me.exc = s.me.exc := h.exc.resolve_left (by rw [ht]; decide)
    simp only [Ctx.exc, Prod.mk.injEq] at he
    exact he.2
  exact ⟨h.me.getX, fun n => h.vr_eq, h.me.getM, h.me.getH, h.me.getC, h.me.rrb, h.me.trapvec, h.me.tstep, h.me.stacklim,
    hexc, h.me.fpflags, h.me.istat, keep Core.partw, keep Core.decla, keep Core.declb, keep Core.wid, keep Core.flags,
    keep Core.mxsat, keep Core.kcause, keep Core.bars, keep Core.futs, keep Core.cards, h.ctxs, h.cores, h.pool,
    fun b => by rw [h.mem]⟩

end

section
/-! SUPPORT. What memory a load from an external window leaves (R255): first the context's own writes to the bytes read take
effect, then those of outside agents. -/

namespace Sys2Proof.Machine

variable {s t u : State} {stk : Bool} {a : Word} {n pa b : Nat} {near : Nat → Prop}

/-- Outside agents write their own memory alone. -/
theorem read_outsideWrites (hwf : s.mem.wf = true) (hb : isExternal b = false) : s.outsideWrites.mem.read b = s.mem.read b := by
  refine (List.foldlRecOn (motive := fun m : Memory => m.wf = true ∧ m.read b = s.mem.read b) _
    (fun m (w : Nat × Byte) => m.write w.1 w.2) ⟨hwf, rfl⟩ fun m hm w hw => ?_).2
  have hout : isExternal w.1 = true := (List.mem_filter.1 hw).2
  have hne : b ≠ w.1 := fun e => by rw [e, hout] at hb; cases hb
  exact ⟨Memory.wf_write _ _ hm.1, (Memory.read_write_ne _ hm.1 hne).trans hm.2⟩

/-- A write that must take effect, and is to no peer, stands at its home. -/
theorem mem_landExt_one {must : ExtWrite → Bool} {w : ExtWrite} (hextw : s.extw = [w]) (hmust : must w = true)
    (hpeer : isPeer w.pa = false) : (s.landExt must).mem = s.mem.putBytes w.pa w.bs := by
  rw [State.landExt, hextw]
  simp [mustLand, hmust, hpeer]

/-- A read step at an external place changes memory by what outside agents write. -/
theorem readAt_external (s : State) (g : Ag) (a n : Nat) (pts : BitVec 64) (hext : isExternal pa = true) :
    ∃ bs p u, s.readAt g (.phys pa) a n pts = .ok (bs, p, u) ∧ u.mem = s.outsideWrites.mem := by
  refine ⟨_, _, _, rfl, (State.Alike.sealWalks (near := fun _ => True) _ _).mem.trans ?_⟩
  simp [State.blockRead, State.spanRead, hext]

/-- A read step of the context at an external place that is not the host's. -/
theorem ctxRead_external (s : State) (a : Word) (n : Nat) (hext : isExternal pa = true) (hhost : isHost pa = false) :
    ∃ bs u, s.ctxRead (.phys pa) a n = .ok (bs, u) ∧ u.mem = (s.landOwn s.cur s.ctx pa n).outsideWrites.mem := by
  have hp : (Place.phys pa).ext? = some pa := by simp [Place.ext?, hext]
  obtain ⟨bs, p, u, hread, hmem⟩ :=
    readAt_external (s.landOwn s.cur s.ctx pa n) (s.landOwn s.cur s.ctx pa n).ag a.toNat n (s.landOwn s.cur s.ctx pa n).me.pts hext
  refine ⟨bs, (u.updMe fun c => { c with pts := p }).touch a n p, ?_,
    (State.Quiet.touch (near := fun _ => True) _ a n p).mem.trans hmem⟩
  rw [State.ctxRead, hp]
  simp only [hread, liftTrap, Place.host, hhost]
  rfl

/-- A load from an external window that is not the host's. -/
theorem load_external (h : s.extOk true false stk a n pa) (hhost : isHost pa = false) :
    ∃ v t u, s.load stk a n = .ok (v, t) ∧ s.Quiet (fun _ => True) u ∧
      t.mem = (u.landOwn u.cur u.ctx pa n).outsideWrites.mem := by
  have hout : isExternal pa = true := h.2.2.2.1
  obtain ⟨t, u, hcheck, hready, hquiet⟩ := extOk_ready h
  rw [if_neg Bool.false_ne_true] at hcheck
  obtain ⟨bs, v, hread, hmem⟩ := ctxRead_external u a n hout hhost
  refine ⟨leVal bs, v, u, ?_, hquiet, hmem⟩
  simp only [State.load, hcheck, hready, hread, bind, Except.bind]

/-- What a short load leaves in memory, where TFLAGS.STEP is clear, is what its access leaves. -/
theorem ld_mem {y : IntT} {o : BitVec 11} {d c : BitVec 5} {v : Nat} (hr : s.ready [.x d, .x c]) (hstep : s.me.tstep = false)
    (hload : s.load (c == 2) (s.xr c + o.signExtend 64) y.size = .ok (v, u)) (hret : Retires (.ld y o c d) s 4 t) :
    t.mem = u.mem := by
  have hawait (x : State) : (x.awaitX d (s.xr c + sx o)).mem = x.mem := by
    unfold State.awaitX
    split <;> rfl
  have hexec : exec (.ld y o c d) s = .next (((u.setX d (y.ext v)).awaitX d (s.xr c + sx o)).retire false (s.nextPc 4)) := by
    change s.ldAt 4 y (sx o) c d = _
    have hbody : s.loadX y (c == 2) (s.xr c + sx o) d = .ok ((u.setX d (y.ext v)).awaitX d (s.xr c + sx o)) := by
      change (s.load (c == 2) (s.xr c + o.signExtend 64) y.size >>= _) = _
      rw [hload]; rfl
    rw [State.ldAt, instr_ready hr, hbody, ← hstep]; rfl
  rw [Retires, hexec, hstep] at hret
  injection hret with hret
  have hmem := congrArg State.mem hret
  rw [(retire_false_alike _ _).mem, (retire_false_alike _ _).mem] at hmem
  exact hmem.symm.trans (hawait _)

end Sys2Proof.Machine
end

section
/-! SUPPORT. A load in unsorted memory: its own write of 0 that takes effect uncovers a byte of the device. -/

namespace Sys2Proof.Machine

/-- Memory of a domain that maps 16 GiB from 0x800000000 on to CXL memory (R324, R328). -/
def cxlMem : Memory :=
  (State.reset.withFetchWord 32 0).mem.writeLE (tableAt + 32) 16
    (0xF + 2 * 2 ^ 6 + 0x200000000000 * 2 ^ 16 + 2 ^ 68 * (xidOf 0x200000000000).toNat)
/-- Core 0.0.0 runs a task in that domain and x6 names a byte of CXL memory, to which a write of 0 by the task is on its way.
Memory has two entries more, of which the second is out of order and so is not read. -/
def coveredTask : State :=
  let s : State := { State.reset.withFetchWord 32 0 with
    cur := 0, agenda := [], mem := cxlMem ++ [(0x200000000100, 1), (2 ^ 34, 7)]
    extw := [⟨0, 0, none, 0x200000000100, [0]⟩] }
  { s with domains := Table.put s.domains 0 { s.domainAt 0 with pstate := 1 } }.setX 6 0x800000100

/-- A translation that ends at a physical byte. -/
def endsAt (x : Except Trap (Place × State)) (pa : Nat) : Bool :=
  match x with
  | .ok (.phys p, _) => p == pa
  | _ => false

theorem exists_of_endsAt {x : Except Trap (Place × State)} {pa : Nat} (h : endsAt x pa = true) : ∃ u, x = .ok (.phys pa, u) := by
  unfold endsAt at h
  split at h
  · next p u => exact ⟨u, by rw [beq_iff_eq.mp h]⟩
  · cases h

theorem coveredTask_ready : coveredTask.ready [.x 5, .x 6] := by unfold State.ready; decide +kernel

theorem coveredTask_unlogged : coveredTask.unlogged := by
  have hnone : coveredTask.taskLaunch coveredTask.cur = none := by decide +kernel
  intro p hp
  rw [hnone] at hp
  cases hp

theorem coveredTask_extOk : coveredTask.extOk true false false 0x800000100 8 0x200000000100 := by
  refine ⟨?_, ?_, ?_, ?_, exists_of_endsAt ?_, .inr ?_, ?_⟩ <;> decide +kernel

/-- The byte reads 0 before the write takes effect. -/
theorem coveredTask_before : coveredTask.mem.read (2 ^ 34) = 0 := by decide +kernel

/-- What memory is after it: in canonical form, with 7 at the byte. -/
theorem coveredTask_after : let m := coveredTask.mem.putBytes 0x200000000100 [0]
    m.wf = true ∧ m.read (2 ^ 34) = 7 := by decide +kernel

end Sys2Proof.Machine
end

section
open Sys2Proof Sys2Proof.Machine

/-- Refutes O22: unlike O23 it does not suppose canonical memory. Where the entry of an external byte stands before that of a
lower address, which it covers, an earlier write of 0 to the external byte, which must take effect before the load, takes
the entry away, and a byte of device memory that no write names reads 7 after the load instead of 0. -/
theorem not_scratchpadLoads : ¬ Obligations.ScratchpadLoads := by
  unfold Obligations.ScratchpadLoads
  intro h
  have hx : coveredTask.xr 6 + (0 : BitVec 11).signExtend 64 = 0x800000100 := by decide +kernel
  have hb : isExternal (2 ^ 34) = false := by decide
  -- what is claimed of a short load of 8 bytes at x6
  obtain ⟨-, hloads, -⟩ := h .i64 0 0 0 0 5 6 0 coveredTask
  obtain ⟨⟨-, -, -, hext⟩, -⟩ := hloads coveredTask_ready
  have hok : coveredTask.extOk true false false (coveredTask.xr 6 + (0 : BitVec 11).signExtend 64) 8 0x200000000100 :=
    hx ▸ coveredTask_extOk
  obtain ⟨t, hret, -, -, -, -, hinside⟩ := hext coveredTask_unlogged _ hok
  have hkept : t.mem.read (2 ^ 34) = 0 := by
    rw [hinside _ hb (by decide +kernel)]
    exact coveredTask_before
  -- what the load does
  obtain ⟨v, w, u, hload, hquiet, hmem⟩ := load_external hok (by decide)
  have hland : (u.landOwn u.cur u.ctx 0x200000000100 8).mem = coveredTask.mem.putBytes 0x200000000100 [0] := by
    rw [State.landOwn, mem_landExt_one hquiet.extw (by rw [hquiet.cur, hquiet.ctx]; decide +kernel) (by decide), hquiet.mem]
  obtain ⟨hwf, hseven⟩ := coveredTask_after
  have hdone : t.mem.read (2 ^ 34) = 7 := by
    rw [ld_mem (y := .i64) (c := 6) coveredTask_ready (by decide +kernel) hload hret, hmem,
      read_outsideWrites (by rw [hland]; exact hwf) hb, hland]
    exact hseven
  exact absurd (hkept.symm.trans hdone) (by decide)

end

section
/-! SUPPORT. Cores, contexts and barriers after an update at one place, and after a fold of such updates. -/

namespace Sys2Proof.Machine

/-- A fold of steps that act on a view of the state, each at its places by one idempotent function. -/
theorem foldl_view {σ α β : Type} {f : σ → α → σ} {v : σ → β} {w : β → β} (p : α → Prop) [DecidablePred p]
    (hw : ∀ b, w (w b) = w b) (h : ∀ s a, v (f s a) = if p a then w (v s) else v s) (l : List α) (s : σ) :
    v (l.foldl f s) = if ∃ a ∈ l, p a then w (v s) else v s := by
  induction l generalizing s with
  | nil => simp
  | cons a l ih =>
    rw [List.foldl_cons, ih, h]
    by_cases ha : p a <;> by_cases hl : ∃ x ∈ l, p x <;> simp [ha, hl, hw]

/-- A fold of steps that leave a view as it is. -/
theorem foldl_view_same {σ α β : Type} {f : σ → α → σ} {v : σ → β} (h : ∀ s a, v (f s a) = v s) (l : List α) (s : σ) :
    v (l.foldl f s) = v s :=
  List.foldlRecOn (motive := fun t => v t = v s) l f rfl fun t ht a _ => (h t a).trans ht

variable (s : State) (k m j i b c : Nat)

theorem coreAt_updCoreAt (f : Core → Core) : (s.updCoreAt k f).coreAt m = if m = k then f (s.coreAt m) else s.coreAt m := by
  by_cases h : m = k
  · rw [if_pos h, h]; exact State.coreAt_setCoreAt_same s k _
  · rw [if_neg h]; exact State.coreAt_setCoreAt_ne s _ h

@[simp] theorem barAt_setBar (v : Barrier) : (s.setBar k b v).barAt m c = if m = k ∧ c = b then v else s.barAt m c := by
  rw [State.barAt, State.setBar, coreAt_updCoreAt]
  by_cases hm : m = k
  · by_cases hc : c = b
    · rw [if_pos hm, if_pos ⟨hm, hc⟩, hc]; exact Table.get_put_same _ _ _ _
    · rw [if_pos hm, if_neg fun h => hc h.2]; exact Table.get_put_ne _ _ _ hc
  · rw [if_neg hm, if_neg fun h => hm h.1]; rfl

@[simp] theorem ctxAt_setBar (v : Barrier) : ((s.setBar k b v).coreAt m).ctxAt j = (s.coreAt m).ctxAt j := by
  rw [State.setBar, coreAt_updCoreAt]
  split <;> rfl

@[simp] theorem ctxAt_updCtx (f : Ctx → Ctx) : ((s.updCtx k i f).coreAt m).ctxAt j =
    if m = k ∧ j = i then f ((s.coreAt m).ctxAt j) else (s.coreAt m).ctxAt j := by
  rw [State.updCtx, coreAt_updCoreAt]
  by_cases hm : m = k
  · by_cases hj : j = i
    · rw [if_pos hm, if_pos ⟨hm, hj⟩, hj, Core.ctxAt_setCtx_same]
    · rw [if_pos hm, if_neg fun h => hj h.2, Core.ctxAt_setCtx_ne _ _ hj]
  · rw [if_neg hm, if_neg fun h => hm h.1]

@[simp] theorem barAt_updCtx (f : Ctx → Ctx) : (s.updCtx k i f).barAt m c = s.barAt m c := by
  rw [State.barAt, State.updCtx, coreAt_updCoreAt]
  split <;> rfl

@[simp] theorem cur_setBar (v : Barrier) : (s.setBar k b v).cur = s.cur := rfl
@[simp] theorem cur_updCtx (f : Ctx → Ctx) : (s.updCtx k i f).cur = s.cur := rfl

/-! The marks of a context on a barrier (R166). -/

theorem getLsbD_setBit {w : Nat} (x : BitVec w) {n : Nat} (h : n < w) : (setBit x n).getLsbD n = true := by
  rw [setBit, BitVec.getLsbD_or, BitVec.getLsbD_ofNat, Nat.testBit_two_pow_self, decide_eq_true h, Bool.and_self, Bool.or_true]

@[simp] theorem getLsbD_clearBit {w : Nat} (x : BitVec w) (n : Nat) : (clearBit x n).getLsbD n = false := by
  rw [clearBit, BitVec.getLsbD_and, BitVec.getLsbD_not, BitVec.getLsbD_ofNat, Nat.testBit_two_pow_self]
  cases decide (n < w) <;> simp

theorem getLsbD_putBit {w : Nat} (x : BitVec w) {n : Nat} (v : Bool) (h : n < w) : (putBit x n v).getLsbD n = v := by
  cases v
  · exact getLsbD_clearBit x n
  · exact getLsbD_setBit x h

end Sys2Proof.Machine
end

section
/-! SUPPORT. What the shared operations on barriers change (R168): the waking of sleepers, TryComplete, the marks that an init
clears, and the timestamp of an event. -/

namespace Sys2Proof.Machine

/-- The context after a wake of those that sleep on `b`. -/
def Ctx.woken (x : Ctx) (b : Nat) : Ctx := if x.sleepsOn b then { x with wait := .bar b true } else x

variable (s : State) (k m j b c : Nat) (x : Ctx)

theorem Ctx.sleepsOn_woken : (x.woken b).sleepsOn b = false := by
  unfold Ctx.woken
  split
  · simp [Ctx.sleepsOn]
  · next h => simpa using h

theorem Ctx.woken_woken : (x.woken b).woken b = x.woken b := by
  rw [Ctx.woken, if_neg (by rw [Ctx.sleepsOn_woken]; exact Bool.false_ne_true)]

theorem Ctx.wait_woken (h : x.sleepsOn b = true) : (x.woken b).wait = .bar b true := by rw [Ctx.woken, if_pos h]

@[simp] theorem Ctx.marks_woken : (x.woken b).marks c = x.marks c := by
  unfold Ctx.woken
  split <;> rfl

theorem Core.mem_liveCtxs {d : Core} : j ∈ d.liveCtxs ↔ j < 11 ∧ (d.ctxAt j).st = .live := by
  simp [Core.liveCtxs, ctxNums]

/-- A context that is not LIVE does not sleep. -/
theorem Ctx.live_of_sleepsOn {x : Ctx} {b : Nat} (h : x.sleepsOn b = true) : x.st = .live := by
  simp only [Ctx.sleepsOn, Bool.and_eq_true, beq_iff_eq] at h
  exact h.1

/-- A wake reaches every sleeper of every member, and nothing else (R168). -/
theorem ctxAt_wakeBar : ((s.wakeBar k b).coreAt m).ctxAt j =
    if m ∈ s.barMembers k b ∧ j < 11 then ((s.coreAt m).ctxAt j).woken b else (s.coreAt m).ctxAt j := by
  have hinner : ∀ (s : State) (a : Nat),
      ((((s.coreAt a).liveCtxs.foldl (fun s j => s.updCtx a j fun x => if x.sleepsOn b then { x with wait := .bar b true } else x)
        s).coreAt m).ctxAt j) =
      if a = m ∧ j < 11 then ((s.coreAt m).ctxAt j).woken b else (s.coreAt m).ctxAt j := by
    intro s a
    have h := foldl_view (v := fun s : State => (s.coreAt m).ctxAt j) (w := fun x => x.woken b) (fun i => m = a ∧ j = i)
      (fun x => x.woken_woken b) (fun s i => ctxAt_updCtx s a m j i fun x => x.woken b) (s.coreAt a).liveCtxs s
    refine h.trans ?_
    by_cases ha : a = m
    · subst ha
      by_cases hl : j ∈ (s.coreAt a).liveCtxs
      · rw [if_pos ⟨j, hl, rfl, rfl⟩, if_pos ⟨rfl, ((Core.mem_liveCtxs j).1 hl).1⟩]
      · rw [if_neg (by rintro ⟨i, hi, -, rfl⟩; exact hl hi)]
        split
        · next hj =>
          -- it is not LIVE, and so does not sleep
          rw [Ctx.woken, if_neg fun hs => hl ((Core.mem_liveCtxs j).2 ⟨hj.2, Ctx.live_of_sleepsOn hs⟩)]
        · rfl
    · rw [if_neg (by rintro ⟨i, -, e, -⟩; exact ha e.symm), if_neg fun h => ha h.1]
  refine (foldl_view (v := fun s : State => (s.coreAt m).ctxAt j) (w := fun x => x.woken b) (fun a => a = m ∧ j < 11)
    (fun x => x.woken_woken b) hinner (s.barMembers k b) s).trans ?_
  simp only [← and_assoc, exists_eq_right, exists_and_right]

@[simp] theorem barAt_wakeBar : (s.wakeBar k b).barAt m c = s.barAt m c :=
  foldl_view_same (v := fun s : State => s.barAt m c) (fun s a => foldl_view_same (v := fun s : State => s.barAt m c)
    (fun s i => barAt_updCtx s a m i c _) _ s) _ s

@[simp] theorem cur_wakeBar : (s.wakeBar k b).cur = s.cur :=
  foldl_view_same (v := State.cur) (fun s a => foldl_view_same (v := State.cur) (fun s i => cur_updCtx s a i _) _ s) _ s

/-! TryComplete. -/

theorem barAt_tryComplete : (s.tryComplete k b).barAt m c = if m = k ∧ c = b then (s.barAt k b).tried else s.barAt m c := by
  simp only [State.tryComplete, Barrier.tried]
  by_cases h : (s.barAt k b).arr = (s.barAt k b).exp ∧ (s.barAt k b).barr = (s.barAt k b).bexp
  · rw [if_pos (by simpa using h), if_pos h, barAt_wakeBar, barAt_setBar]
  · rw [if_neg (by simpa using h), if_neg h]
    split
    · next e => rw [e.1, e.2]
    · rfl

theorem barMembers_congr {s t : State} {k b : Nat} (h : (t.barAt k b).mem = (s.barAt k b).mem) : t.barMembers k b = s.barMembers k b := by
  rw [State.barMembers, State.barMembers, h]

/-- A phase that completes wakes the sleepers of every member. -/
theorem ctxAt_tryComplete_done (h : (s.barAt k b).arr = (s.barAt k b).exp ∧ (s.barAt k b).barr = (s.barAt k b).bexp) :
    ((s.tryComplete k b).coreAt m).ctxAt j =
      if m ∈ s.barMembers k b ∧ j < 11 then ((s.coreAt m).ctxAt j).woken b else (s.coreAt m).ctxAt j := by
  simp only [State.tryComplete]
  rw [if_pos (by simpa using h), ctxAt_wakeBar, barMembers_congr (s := s) (by rw [barAt_setBar, if_pos ⟨rfl, rfl⟩]), ctxAt_setBar]

/-- No mark changes. -/
@[simp] theorem marks_tryComplete : (((s.tryComplete k b).coreAt m).ctxAt j).marks c = ((s.coreAt m).ctxAt j).marks c := by
  by_cases h : (s.barAt k b).arr = (s.barAt k b).exp ∧ (s.barAt k b).barr = (s.barAt k b).bexp
  · rw [ctxAt_tryComplete_done s k m j b h]
    split
    · exact Ctx.marks_woken b c _
    · rfl
  · simp only [State.tryComplete]
    rw [if_neg (by simpa using h)]

@[simp] theorem cur_tryComplete : (s.tryComplete k b).cur = s.cur := by
  simp only [State.tryComplete]
  split
  · rw [cur_wakeBar]; rfl
  · rfl

/-! The marks that an init clears. -/

/-- The context without marks on `b`. -/
def Ctx.unmarked (x : Ctx) (b : Nat) : Ctx :=
  if x.pend.getLsbD b || x.aph.getLsbD b || x.dropped.getLsbD b then
    { x with pend := clearBit x.pend b, aph := clearBit x.aph b, dropped := clearBit x.dropped b }
  else x

/-- The marks on `b` cleared in context `i` of core `m`, and in contexts 0 to 10 of some cores, as an init does it. -/
def State.clearMark (s : State) (b m i : Nat) : State :=
  if ((s.coreAt m).ctxAt i).pend.getLsbD b || ((s.coreAt m).ctxAt i).aph.getLsbD b || ((s.coreAt m).ctxAt i).dropped.getLsbD b then
    s.updCtx m i fun x => { x with pend := clearBit x.pend b, aph := clearBit x.aph b, dropped := clearBit x.dropped b }
  else s
def State.clearMarks (s : State) (b : Nat) (ms : List Nat) : State :=
  ms.foldl (fun s m => ctxNums.foldl (fun s i => s.clearMark b m i) s) s

@[simp] theorem Ctx.marks_unmarked : (x.unmarked b).marks b = (false, false, false) := by
  unfold Ctx.unmarked
  split
  · simp [Ctx.marks, Ctx.isPend, Ctx.isAph, Ctx.isDropped]
  · next h => simpa [Ctx.marks, Ctx.isPend, Ctx.isAph, Ctx.isDropped, and_assoc] using h

theorem Ctx.unmarked_unmarked : (x.unmarked b).unmarked b = x.unmarked b := by
  have h := x.marks_unmarked b
  simp only [Ctx.marks, Ctx.isPend, Ctx.isAph, Ctx.isDropped, Prod.mk.injEq] at h
  obtain ⟨hpend, haph, hdrop⟩ := h
  rw [Ctx.unmarked, if_neg (by rw [hpend, haph, hdrop]; decide)]

theorem ctxAt_clearMark (a i : Nat) : ((s.clearMark b a i).coreAt m).ctxAt j =
    if m = a ∧ j = i then ((s.coreAt m).ctxAt j).unmarked b else (s.coreAt m).ctxAt j := by
  unfold State.clearMark
  by_cases h : m = a ∧ j = i
  · obtain ⟨rfl, rfl⟩ := h
    rw [if_pos (show m = m ∧ j = j from ⟨rfl, rfl⟩), Ctx.unmarked]
    split
    · exact (ctxAt_updCtx s m m j j _).trans (if_pos ⟨rfl, rfl⟩)
    · rfl
  · rw [if_neg h]
    split
    · exact (ctxAt_updCtx s a m j i _).trans (if_neg h)
    · rfl

theorem ctxAt_clearMarks (ms : List Nat) : ((s.clearMarks b ms).coreAt m).ctxAt j =
    if m ∈ ms ∧ j < 11 then ((s.coreAt m).ctxAt j).unmarked b else (s.coreAt m).ctxAt j := by
  refine (foldl_view (v := fun s : State => (s.coreAt m).ctxAt j) (w := fun x => x.unmarked b) (fun a => a = m ∧ j < 11)
    (fun x => x.unmarked_unmarked b) (fun s a => ?_) ms s).trans ?_
  · refine (foldl_view (v := fun s : State => (s.coreAt m).ctxAt j) (w := fun x => x.unmarked b) (fun i => m = a ∧ j = i)
      (fun x => x.unmarked_unmarked b) (fun s i => ctxAt_clearMark s m j b a i) ctxNums s).trans ?_
    have hex : (∃ i ∈ ctxNums, m = a ∧ j = i) ↔ (a = m ∧ j < 11) := by
      constructor
      · rintro ⟨i, hi, rfl, rfl⟩
        exact ⟨rfl, List.mem_range.1 hi⟩
      · rintro ⟨rfl, hj⟩
        exact ⟨j, List.mem_range.2 hj, rfl, rfl⟩
    simp only [hex]
  · simp only [← and_assoc, exists_eq_right, exists_and_right]

@[simp] theorem barAt_clearMarks (ms : List Nat) : (s.clearMarks b ms).barAt m c = s.barAt m c :=
  foldl_view_same (v := fun s : State => s.barAt m c) (fun s a => foldl_view_same (v := fun s : State => s.barAt m c)
    (fun s i => by unfold State.clearMark; split <;> simp only [barAt_updCtx]) _ s) _ s

@[simp] theorem cur_clearMarks (ms : List Nat) : (s.clearMarks b ms).cur = s.cur :=
  foldl_view_same (v := State.cur) (fun s a => foldl_view_same (v := State.cur)
    (fun s i => by unfold State.clearMark; split <;> rfl) _ s) _ s

/-! The timestamp of an event (R170). -/

/-- The time of an event of context `j` of core `k` at barrier `b`. -/
def State.barTime (s : State) (k j b : Nat) : BitVec 64 := later ((s.coreAt k).ctxAt j).pts (s.barAt (s.barHolder k b) b).ts

theorem barAt_barStamp : (s.barStamp k j b).barAt m c =
    if m = s.barHolder k b ∧ c = b then { s.barAt (s.barHolder k b) b with ts := s.barTime k j b } else s.barAt m c := by
  rw [State.barStamp, barAt_updCtx, barAt_setBar]; rfl

theorem ctxAt_barStamp (i : Nat) : ((s.barStamp k j b).coreAt m).ctxAt i =
    if m = k ∧ i = j then { (s.coreAt m).ctxAt i with pts := s.barTime k j b } else (s.coreAt m).ctxAt i := by
  rw [State.barStamp, ctxAt_updCtx, ctxAt_setBar]; rfl

@[simp] theorem marks_barStamp (i : Nat) : (((s.barStamp k j b).coreAt m).ctxAt i).marks c = ((s.coreAt m).ctxAt i).marks c := by
  rw [ctxAt_barStamp]
  split <;> rfl

@[simp] theorem sleepsOn_barStamp (i : Nat) : (((s.barStamp k j b).coreAt m).ctxAt i).sleepsOn c = ((s.coreAt m).ctxAt i).sleepsOn c := by
  rw [ctxAt_barStamp]
  split <;> rfl

@[simp] theorem barMembers_barStamp : (s.barStamp k j b).barMembers m c = s.barMembers m c := by
  refine barMembers_congr ?_
  rw [barAt_barStamp]
  split
  · next h => rw [h.1, h.2]
  · rfl

@[simp] theorem barHolder_barStamp : (s.barStamp k j b).barHolder m c = s.barHolder m c := by
  rw [State.barHolder, barMembers_barStamp]; rfl

@[simp] theorem cur_barStamp : (s.barStamp k j b).cur = s.cur := rfl

end Sys2Proof.Machine
end

section
/-! SUPPORT. The event of each barrier function at the core that holds the fields (R168): what it makes of them and of the marks
of its context, or the fault that it is answered with. -/

namespace Sys2Proof.Machine

/-- TryComplete does not look at the timestamp. -/
theorem Barrier.tried_ts (v : Barrier) (t : BitVec 64) : ({ v with ts := t } : Barrier).tried = { v.tried with ts := t } := by
  unfold Barrier.tried
  split <;> rfl

@[simp] theorem Barrier.ts_tried (v : Barrier) : v.tried.ts = v.ts := by
  unfold Barrier.tried
  split <;> rfl

/-- An arrival of context `j` of core `k` that goes past the expected ones, or is its second one in the phase (R168). -/
def State.barBusy (s : State) (k j b : Nat) : Prop :=
  let x := (s.coreAt k).ctxAt j
  let v := s.barAt (s.barHolder k b) b
  x.isDropped b = true ∨ (x.isPend b = true ∧ x.isAph b = v.phase) ∨ v.arr = v.exp

/-- The phase in which the context has arrived is over (R168). -/
def State.barPassed (s : State) (k j b : Nat) : Prop :=
  let x := (s.coreAt k).ctxAt j
  x.isPend b = true ∧ x.isAph b ≠ (s.barAt (s.barHolder k b) b).phase

/-- The marks of an arrival, of a drop where `d`. -/
def State.markBar (s : State) (k j b : Nat) (d ph : Bool) : State :=
  s.updCtx k j fun x =>
    { x with pend := setBit x.pend b, aph := putBit x.aph b ph, dropped := if d then setBit x.dropped b else x.dropped }
/-- The end of a wait: the context is pending no more. -/
def State.unpend (s : State) (k j b : Nat) : State := s.updCtx k j fun x => { x with pend := clearBit x.pend b }

/-- An event of context `j` of core `k` that is made: the fields at the holding core become `w` with the timestamp of the event,
no other barrier changes, and the marks on `b` become `marks`. -/
structure State.BarMade (s : State) (k j b : Nat) (w : Barrier) (marks : Nat → Nat → Bool × Bool × Bool) (t : State) : Prop where
  cur : t.cur = s.cur
  bars : ∀ m c, t.barAt m c = if m = s.barHolder k b ∧ c = b then { w with ts := s.barTime k j b } else s.barAt m c
  marks : ∀ m i, ((t.coreAt m).ctxAt i).marks b = marks m i

variable {s : State} {k j b : Nat} {n : Word}

@[simp] theorem barAt_markBar (d ph : Bool) (m c : Nat) : (s.markBar k j b d ph).barAt m c = s.barAt m c := barAt_updCtx s k m j c _
@[simp] theorem barAt_unpend (m c : Nat) : (s.unpend k j b).barAt m c = s.barAt m c := barAt_updCtx s k m j c _

/-- The marks on `b` of the context that arrives, and of every other one. -/
theorem marks_markBar (hb : b < 48) (d ph : Bool) (m i : Nat) : (((s.markBar k j b d ph).coreAt m).ctxAt i).marks b =
    if m = k ∧ i = j then (true, ph, d || ((s.coreAt m).ctxAt i).isDropped b) else ((s.coreAt m).ctxAt i).marks b := by
  rw [State.markBar, ctxAt_updCtx]
  split
  · simp only [Ctx.marks, Ctx.isPend, Ctx.isAph, Ctx.isDropped, getLsbD_setBit _ hb, getLsbD_putBit _ _ hb]
    cases d
    · rfl
    · exact congrArg (fun v => (true, ph, v)) (getLsbD_setBit _ hb)
  · rfl

theorem marks_unpend (m i : Nat) : (((s.unpend k j b).coreAt m).ctxAt i).marks b =
    if m = k ∧ i = j then (false, ((s.coreAt m).ctxAt i).isAph b, ((s.coreAt m).ctxAt i).isDropped b)
    else ((s.coreAt m).ctxAt i).marks b := by
  rw [State.unpend, ctxAt_updCtx]
  split
  · simp only [Ctx.marks, Ctx.isPend, getLsbD_clearBit]; rfl
  · rfl

section
variable (s k j b)

/-- The timestamp leaves the fields and marks that an event looks at. -/
theorem barAt_barStamp_holder : (s.barStamp k j b).barAt (s.barHolder k b) b =
    { s.barAt (s.barHolder k b) b with ts := s.barTime k j b } := by
  rw [barAt_barStamp, if_pos ⟨rfl, rfl⟩]

theorem isPend_barStamp (m i c : Nat) : (((s.barStamp k j b).coreAt m).ctxAt i).isPend c = ((s.coreAt m).ctxAt i).isPend c :=
  congrArg Prod.fst (marks_barStamp s k m j b c i)
theorem isAph_barStamp (m i c : Nat) : (((s.barStamp k j b).coreAt m).ctxAt i).isAph c = ((s.coreAt m).ctxAt i).isAph c :=
  congrArg (fun p => p.2.1) (marks_barStamp s k m j b c i)
theorem isDropped_barStamp (m i c : Nat) :
    (((s.barStamp k j b).coreAt m).ctxAt i).isDropped c = ((s.coreAt m).ctxAt i).isDropped c :=
  congrArg (fun p => p.2.2) (marks_barStamp s k m j b c i)

theorem barBusy_barStamp : (s.barStamp k j b).barBusy k j b ↔ s.barBusy k j b := by
  simp only [State.barBusy, barHolder_barStamp, barAt_barStamp_holder, isPend_barStamp, isAph_barStamp, isDropped_barStamp]

theorem barPassed_barStamp : (s.barStamp k j b).barPassed k j b ↔ s.barPassed k j b := by
  simp only [State.barPassed, barHolder_barStamp, barAt_barStamp_holder, isPend_barStamp, isAph_barStamp]
end

/-! Init. -/

/-- A context of a member sleeps on the barrier. -/
def State.barAsleep (s : State) (k b : Nat) : Prop := ∃ m ∈ s.barMembers k b, ∃ i, i < 11 ∧ ((s.coreAt m).ctxAt i).sleepsOn b = true

theorem barAsleep_iff : ((s.barMembers k b).any fun m => (s.coreAt m).liveCtxs.any fun i => ((s.coreAt m).ctxAt i).sleepsOn b) = true ↔
    s.barAsleep k b := by
  simp only [List.any_eq_true, Core.mem_liveCtxs, State.barAsleep]
  constructor
  · rintro ⟨m, hm, i, ⟨hi, -⟩, hs⟩
    exact ⟨m, hm, i, hi, hs⟩
  · rintro ⟨m, hm, i, hi, hs⟩
    exact ⟨m, hm, i, ⟨hi, Ctx.live_of_sleepsOn hs⟩, hs⟩

theorem barAsleep_barStamp : (s.barStamp k j b).barAsleep k b ↔ s.barAsleep k b := by
  simp only [State.barAsleep, barMembers_barStamp, sleepsOn_barStamp]

theorem barEvent_init_asleep (hs : s.barAsleep k b) :
    s.barEvent k j b .init n = (s.barStamp k j b, some (.bad Cause.BAR_BUSY (word b))) :=
  if_pos (barAsleep_iff.2 (barAsleep_barStamp.2 hs))

theorem barEvent_init_over (hs : ¬s.barAsleep k b) (hn : 255 < n.toNat) :
    s.barEvent k j b .init n = (s.barStamp k j b, some (.bad Cause.BAR_OVER (n <<< 8 ||| word b))) :=
  (if_neg fun h => hs (barAsleep_barStamp.1 (barAsleep_iff.1 h))).trans (if_pos hn)

theorem barEvent_init_made (hs : ¬s.barAsleep k b) (hn : n.toNat ≤ 255) : ∃ t, s.barEvent k j b .init n = (t, some (.ok 0)) ∧
    s.BarMade k j b { s.barAt (s.barHolder k b) b with exp := n.setWidth 8, arr := 0, drops := 0, bexp := 0, barr := 0 }
      (fun m i => if m ∈ s.barMembers k b ∧ i < 11 then (false, false, false) else ((s.coreAt m).ctxAt i).marks b) t := by
  let v : Barrier := { s.barAt (s.barHolder k b) b with
    exp := n.setWidth 8, arr := 0, drops := 0, bexp := 0, barr := 0, ts := s.barTime k j b }
  let u := (s.barStamp k j b).setBar (s.barHolder k b) b v
  have hmembers : u.barMembers k b = s.barMembers k b := by
    refine barMembers_congr ?_
    rw [barAt_setBar]
    split
    · next e => exact congrArg (fun m => (s.barAt m b).mem) e.1.symm
    · next hne => rw [barAt_barStamp, if_neg hne]
  refine ⟨u.clearMarks b (s.barMembers k b), ?_, ?_, fun m c => ?_, fun m i => ?_⟩
  · rw [← hmembers]
    refine ((if_neg fun h => hs (barAsleep_barStamp.1 (barAsleep_iff.1 h))).trans (if_neg (by omega))).trans ?_
    rw [barHolder_barStamp, barAt_barStamp_holder]
    rfl
  · exact cur_clearMarks u b _
  · rw [barAt_clearMarks, barAt_setBar]
    split
    · rfl
    · next hne => rw [barAt_barStamp, if_neg hne]
  · rw [ctxAt_clearMarks, ctxAt_setBar]
    split
    · rw [Ctx.marks_unmarked]
    · rw [marks_barStamp]

/-! The functions that try to complete the phase. -/

/-- Fields `w` written, then marks, as `g` makes them, and then TryComplete. -/
theorem barMade_tryComplete {w : Barrier} {g : State → State} (hg : ∀ s m c, (g s).barAt m c = s.barAt m c)
    (hcur : ∀ s, (g s).cur = s.cur) {marks : Nat → Nat → Bool × Bool × Bool}
    (hm : ∀ u : State, (∀ m i, ((u.coreAt m).ctxAt i).marks b = ((s.coreAt m).ctxAt i).marks b) →
      ∀ m i, (((g u).coreAt m).ctxAt i).marks b = marks m i) :
    s.BarMade k j b w.tried marks
      ((g ((s.barStamp k j b).setBar (s.barHolder k b) b { w with ts := s.barTime k j b })).tryComplete (s.barHolder k b) b) where
  cur := by rw [cur_tryComplete, hcur]; rfl
  bars m c := by
    rw [barAt_tryComplete, hg, hg, barAt_setBar, barAt_setBar, if_pos (⟨rfl, rfl⟩ : s.barHolder k b = s.barHolder k b ∧ b = b),
      Barrier.tried_ts]
    split
    · rfl
    · next hne => rw [barAt_barStamp, if_neg hne]
  marks m i := by
    rw [marks_tryComplete]
    exact hm _ (fun m i => by rw [ctxAt_setBar, marks_barStamp]) m i

theorem barBusy_iff : (((s.coreAt k).ctxAt j).isDropped b || (((s.coreAt k).ctxAt j).isPend b &&
    ((s.coreAt k).ctxAt j).isAph b == (s.barAt (s.barHolder k b) b).phase) ||
    (s.barAt (s.barHolder k b) b).arr == (s.barAt (s.barHolder k b) b).exp) = true ↔ s.barBusy k j b := by
  simp [State.barBusy, or_assoc]

theorem barEvent_arrive_busy (h : s.barBusy k j b) :
    s.barEvent k j b .arrive n = (s.barStamp k j b, some (.bad Cause.BAR_OVER (word b))) :=
  if_pos (barBusy_iff.2 (barBusy_barStamp s k j b |>.2 h))
theorem barEvent_drop_busy (h : s.barBusy k j b) :
    s.barEvent k j b .drop n = (s.barStamp k j b, some (.bad Cause.BAR_OVER (word b))) :=
  if_pos (barBusy_iff.2 (barBusy_barStamp s k j b |>.2 h))

/-- The state that an arrival leaves, which writes the fields `w`. -/
def State.arrived (s : State) (k j b : Nat) (d : Bool) (w : Barrier) : State :=
  (((s.barStamp k j b).setBar (s.barHolder k b) b { w with ts := s.barTime k j b }).markBar k j b d w.phase).tryComplete
    (s.barHolder k b) b

theorem barEvent_arrive (h : ¬s.barBusy k j b) : let v := s.barAt (s.barHolder k b) b
    s.barEvent k j b .arrive n = (s.arrived k j b false { v with arr := v.arr + 1 }, some (.ok 0)) := by
  refine (if_neg fun h' => h (barBusy_barStamp s k j b |>.1 (barBusy_iff.1 h'))).trans ?_
  rw [barHolder_barStamp, barAt_barStamp_holder]
  rfl
theorem barEvent_drop (h : ¬s.barBusy k j b) : let v := s.barAt (s.barHolder k b) b
    s.barEvent k j b .drop n = (s.arrived k j b true { v with arr := v.arr + 1, drops := v.drops + 1 }, some (.ok 0)) := by
  refine (if_neg fun h' => h (barBusy_barStamp s k j b |>.1 (barBusy_iff.1 h'))).trans ?_
  rw [barHolder_barStamp, barAt_barStamp_holder]
  rfl

theorem barMade_arrived (hb : b < 48) (d : Bool) (w : Barrier) : s.BarMade k j b w.tried
    (fun m i => if m = k ∧ i = j then (true, w.phase, d || ((s.coreAt m).ctxAt i).isDropped b) else ((s.coreAt m).ctxAt i).marks b)
    (s.arrived k j b d w) := by
  refine barMade_tryComplete (g := fun u => u.markBar k j b d w.phase) (fun u m c => barAt_markBar d w.phase m c) (fun _ => rfl)
    fun u hu m i => ?_
  have hdropped : ((u.coreAt m).ctxAt i).isDropped b = ((s.coreAt m).ctxAt i).isDropped b := congrArg (fun p => p.2.2) (hu m i)
  rw [marks_markBar hb, hu, hdropped]

theorem barEvent_expect_over (h : n.toNat < (s.barAt (s.barHolder k b) b).barr.toNat) :
    s.barEvent k j b .expect n = (s.barStamp k j b, some (.bad Cause.BAR_BYTES_OVER (n <<< 8 ||| word b))) := by
  refine if_pos ?_
  rw [barHolder_barStamp, barAt_barStamp_holder]
  exact h

theorem barEvent_expect_made (h : (s.barAt (s.barHolder k b) b).barr.toNat ≤ n.toNat) :
    ∃ t, s.barEvent k j b .expect n = (t, some (.ok 0)) ∧
      s.BarMade k j b (Barrier.tried { s.barAt (s.barHolder k b) b with bexp := n.setWidth 32 })
        (fun m i => ((s.coreAt m).ctxAt i).marks b) t := by
  refine ⟨_, ?_, barMade_tryComplete (g := id) (fun _ _ _ => rfl) (fun _ => rfl) fun u hu => hu⟩
  have hv := barAt_barStamp_holder s k j b
  refine (if_neg ?_).trans ?_
  · rw [barHolder_barStamp, hv]
    exact Nat.not_lt.2 h
  · rw [barHolder_barStamp, hv]
    rfl

/-! Wait. -/

theorem barPassed_iff : (((s.coreAt k).ctxAt j).isPend b && ((s.coreAt k).ctxAt j).isAph b != (s.barAt (s.barHolder k b) b).phase) = true ↔
    s.barPassed k j b := by
  simp [State.barPassed]

/-- The marks once a wait has ended. -/
def State.waited (s : State) (k j b m i : Nat) : Bool × Bool × Bool :=
  if m = k ∧ i = j then (false, ((s.coreAt m).ctxAt i).isAph b, ((s.coreAt m).ctxAt i).isDropped b)
  else ((s.coreAt m).ctxAt i).marks b

/-- Marks that agree with those of `s` but for the end of the wait. -/
theorem marks_unpend_eq_waited {u : State} (hu : ∀ m i, ((u.coreAt m).ctxAt i).marks b = ((s.coreAt m).ctxAt i).marks b) (m i : Nat) :
    (((u.unpend k j b).coreAt m).ctxAt i).marks b = s.waited k j b m i := by
  rw [marks_unpend, hu, State.waited, show ((u.coreAt m).ctxAt i).isAph b = _ from congrArg (fun p => p.2.1) (hu m i),
    show ((u.coreAt m).ctxAt i).isDropped b = _ from congrArg (fun p => p.2.2) (hu m i)]
  rfl

theorem barEvent_wait_passed (h : s.barPassed k j b) : ∃ t, s.barEvent k j b .wait n = (t, some (.ok 0)) ∧
    s.BarMade k j b (s.barAt (s.barHolder k b) b) (s.waited k j b) t := by
  refine ⟨(s.barStamp k j b).unpend k j b, if_pos (barPassed_iff.2 (barPassed_barStamp s k j b |>.2 h)), rfl, fun m c => ?_,
    marks_unpend_eq_waited fun m i => marks_barStamp s k m j b b i⟩
  rw [barAt_unpend, barAt_barStamp]

theorem barEvent_wait_completes (h : ¬s.barPassed k j b) (hv : let v := s.barAt (s.barHolder k b) b; v.arr = v.exp ∧ v.barr = v.bexp) :
    ∃ t, s.barEvent k j b .wait n = (t, some (.ok 0)) ∧
      s.BarMade k j b (s.barAt (s.barHolder k b) b).tried (s.waited k j b) t := by
  have hfields := barAt_barStamp_holder s k j b
  have hphase : (((s.barStamp k j b).tryComplete (s.barHolder k b) b).barAt (s.barHolder k b) b).phase =
      !(s.barAt (s.barHolder k b) b).phase := by
    rw [barAt_tryComplete, if_pos ⟨rfl, rfl⟩, hfields, Barrier.tried_ts, Barrier.tried, if_pos hv]
  refine ⟨((s.barStamp k j b).tryComplete (s.barHolder k b) b).unpend k j b, ?_, ?_, fun m c => ?_, ?_⟩
  · refine (if_neg fun h' => h (barPassed_barStamp s k j b |>.1 (barPassed_iff.1 h'))).trans ?_
    rw [barHolder_barStamp, hphase, hfields]
    exact if_pos (bne_iff_ne.2 (Bool.not_ne_self _))
  · exact cur_tryComplete _ _ _
  · rw [barAt_unpend, barAt_tryComplete, hfields, Barrier.tried_ts]
    split
    · rfl
    · next hne => rw [barAt_barStamp, if_neg hne]
  · exact marks_unpend_eq_waited fun m i => by rw [marks_tryComplete, marks_barStamp]

theorem barEvent_wait_sleeps (h : ¬s.barPassed k j b) (hv : let v := s.barAt (s.barHolder k b) b; ¬(v.arr = v.exp ∧ v.barr = v.bexp)) :
    s.barEvent k j b .wait n = (s.barStamp k j b, none) := by
  have hsame : (s.barStamp k j b).tryComplete (s.barHolder k b) b = s.barStamp k j b := by
    simp only [State.tryComplete, barAt_barStamp_holder]
    exact if_neg (by simpa using hv)
  refine (if_neg fun h' => h (barPassed_barStamp s k j b |>.1 (barPassed_iff.1 h'))).trans ?_
  rw [barHolder_barStamp, hsame]
  exact if_neg (by simp)

/-! Test. -/

theorem barEvent_test : let x := (s.coreAt k).ctxAt j; let v := s.barAt (s.barHolder k b) b
    s.barEvent k j b .test n = (s.barStamp k j b, some (.ok (word (v.barr.toNat * 2 ^ 32 + v.exp.toNat * 2 ^ 24 +
      v.arr.toNat * 2 ^ 16 + (if x.isDropped b then 4 else 0) + (if x.isPend b then 2 else 0) + if v.phase then 1 else 0)))) := by
  simp only [State.barEvent, barHolder_barStamp, barAt_barStamp_holder, isPend_barStamp, isDropped_barStamp]

end Sys2Proof.Machine
end

section
/-! SUPPORT. The barrier instructions (R167, R170) by what their event answers: made here, refused, or forwarded. -/

namespace Sys2Proof.Machine

variable {s t : State} {i : Instr} {b : BitVec 6} {q len : Nat} {us : List Use} {fn : BarFn} {n w : Word} {c : BitVec 8}

/-- The form of a barrier function: its event, with the answer to which it goes on by `r`. -/
def State.barInstr (s : State) (len : Nat) (us : List Use) (b : BitVec 6) (fn : BarFn) (f : State → Word) (r : Word → State → State) :
    Host.Outcome State Fault Refusal :=
  s.instr len ([.b b] ++ us) fun s => do
    let (v, s) ← s.barDo b.toNat fn (f s)
    goes (r v s)

theorem exec_barInit (b : BitVec 6) (a : BitVec 5) (s : State) :
    exec (.barInit b a) s = s.barInstr 4 [.x a] b .init (fun s => s.xr a) fun _ t => t := rfl
theorem exec_barInitImm (b : BitVec 6) (n : BitVec 32) (s : State) :
    exec (.barInitImm b n) s = s.barInstr 12 [] b .init (fun _ => n.setWidth 64) fun _ t => t := rfl
theorem exec_barExpect (b : BitVec 6) (a : BitVec 5) (s : State) :
    exec (.barExpect b a) s = s.barInstr 4 [.x a] b .expect (fun s => s.xr a) fun _ t => t := rfl
theorem exec_barExpectImm (b : BitVec 6) (n : BitVec 32) (s : State) :
    exec (.barExpectImm b n) s = s.barInstr 12 [] b .expect (fun _ => n.setWidth 64) fun _ t => t := rfl
theorem exec_barArrive (b : BitVec 6) (s : State) : exec (.barArrive b) s = s.barInstr 4 [] b .arrive (fun _ => 0) fun _ t => t := rfl
theorem exec_barDrop (b : BitVec 6) (s : State) : exec (.barDrop b) s = s.barInstr 4 [] b .drop (fun _ => 0) fun _ t => t := rfl
theorem exec_barTest (b : BitVec 6) (d : BitVec 5) (s : State) :
    exec (.barTest b d) s = s.barInstr 4 [.x d] b .test (fun _ => 0) fun v t => t.setX d v := rfl
/-- A bar.wait that does not sleep yet is its event. -/
theorem exec_barWait {b : BitVec 6} {s : State} (h : ∀ c w, s.me.wait ≠ .bar c w) :
    exec (.barWait b) s = s.barInstr 4 [] b .wait (fun _ => 0) fun _ t => t := by
  change execBarWait b s = _
  simp only [execBarWait, State.barInstr, State.instr, List.append_nil]
  cases hw : s.me.wait with
  | bar c w => exact absurd hw (h c w)
  | _ => rfl

/-- A barrier that is declared is one of the 48 of its core (R43). -/
theorem barrier_lt_of_ready (h : s.ready [.b b]) : b.toNat < 48 := by
  by_contra hlt
  have hge : 48 ≤ b.toNat := Nat.le_of_not_lt hlt
  have hnone := h.2
  by_cases hl : s.core.limited = true <;> simp [declFault, hl, Use.fault, hge] at hnone

/-- A link mask has a member. -/
theorem maskCores_ne_nil {k : Nat} {m : BitVec 16} (h : m ≠ 0) : maskCores k m ≠ [] := by
  obtain ⟨i, hi, hbit⟩ : ∃ i, i < 16 ∧ m.getLsbD i = true := by
    by_contra hno
    refine h (BitVec.eq_of_getLsbD_eq fun i hi => ?_)
    change m.getLsbD i = (0#16).getLsbD i
    rw [BitVec.getLsbD_zero]
    exact Bool.eq_false_of_not_eq_true fun hb => hno ⟨i, hi, hb⟩
  have hmem : k / 16 * 16 + i ∈ maskCores k m := List.mem_map_of_mem (List.mem_filter.2 ⟨List.mem_range.2 hi, hbit⟩)
  exact List.ne_nil_of_mem hmem

/-- The core that holds the fields of its own barrier is one of its members. -/
theorem mem_barMembers_of_holder {k : Nat} (h : s.barHolder k q = k) : k ∈ s.barMembers k q := by
  have hne : s.barMembers k q ≠ [] := by
    rw [State.barMembers]
    split
    · exact List.cons_ne_nil _ _
    · next hm => exact maskCores_ne_nil hm
  obtain ⟨m, ms, hms⟩ := List.exists_cons_of_ne_nil hne
  rw [State.barHolder, hms] at h
  rw [hms, ← h]
  exact List.mem_cons_self

/-- The timestamp of an event changes nothing else of its context. -/
theorem me_barStamp : (s.barStamp s.cur s.ctx q).me = { s.me with pts := s.barTime s.cur s.ctx q } :=
  (ctxAt_barStamp s s.cur s.cur s.ctx q s.ctx).trans (if_pos ⟨rfl, rfl⟩)

@[simp] theorem barAt_updMe (f : Ctx → Ctx) (m c : Nat) : (s.updMe f).barAt m c = s.barAt m c := barAt_updCtx s s.cur m s.ctx c f
@[simp] theorem barAt_setWait (wt : Wait) (m c : Nat) : (s.setWait wt).barAt m c = s.barAt m c := barAt_updMe _ m c

/-! What the event answers. -/

section
variable (hbans : s.me.bans = none) (hwant : (s.barAt s.cur q).want = 0) (hhere : s.barHolder s.cur q = s.cur)
include hbans hwant hhere

theorem barDo_made (he : s.barEvent s.cur s.ctx q fn n = (t, some (.ok w))) : s.barDo q fn n = .ok (w, t) := by
  simp [State.barDo, hbans, State.linkPending, hwant, hhere, he]
theorem barDo_refused (he : s.barEvent s.cur s.ctx q fn n = (t, some (.bad c w))) : s.barDo q fn n = fault c w := by
  simp [State.barDo, hbans, State.linkPending, hwant, hhere, he]
theorem barDo_sleeps (he : s.barEvent s.cur s.ctx q fn n = (t, none)) : s.barDo q fn n = .error (.wait t (.bar q false)) := by
  simp [State.barDo, hbans, State.linkPending, hwant, hhere, he]
end

/-- While its link is pending, a function waits (R170). -/
theorem barDo_pending (hbans : s.me.bans = none) (hwant : (s.barAt s.cur q).want ≠ 0) : s.barDo q fn n = waiting s := by
  simp only [State.barDo, hbans]
  exact if_pos (bne_iff_ne.2 hwant)

section
variable (hbans : s.me.bans = none) (hwant : (s.barAt s.cur q).want = 0) (haway : s.barHolder s.cur q ≠ s.cur)
include hbans hwant haway

/-- It waits for a holder that does not run, and for room among the packets of its core (R341). -/
theorem barDo_blocked (h : (s.coreAt (s.barHolder s.cur q)).hstat ≠ .running ∨ maxFlits ≤ s.outbound s.cur) :
    s.barDo q fn n = waiting s := by
  simp only [State.barDo, hbans]
  rw [if_neg (by simp [State.linkPending, hwant]), if_neg haway]
  exact if_pos (by simpa using h)

theorem barDo_forwards (hrun : (s.coreAt (s.barHolder s.cur q)).hstat = .running) (hroom : s.outbound s.cur < maxFlits) :
    s.barDo q fn n = waiting (({ s with barq := s.barq ++ [(s.barHolder s.cur q, .bar q s.cur s.ctx fn.code n)] } : State).updMe
      fun x => { x with bans := some .sent }) := by
  simp only [State.barDo, hbans]
  rw [if_neg (by simp [State.linkPending, hwant]), if_neg haway]
  exact if_neg (by simp [hrun, hroom])
end

/-! What the instruction does with it. -/

section
variable {f : State → Word} {r : Word → State → State} (hexec : exec i s = s.barInstr len us b fn f r) (hr : s.ready ([.b b] ++ us))
include hexec hr

theorem barInstr_retires (hd : s.barDo b.toNat fn (f s) = .ok (w, t)) : Retires i s len (r w t) :=
  instr_retires hexec hr (by rw [hd]; rfl)

theorem barInstr_traps (hd : s.barDo b.toNat fn (f s) = fault c w) : Traps i s c w := by
  rw [Traps, hexec, State.barInstr, instr_ready hr, hd]
  exact finish_fault c w

theorem barInstr_waits {wt : Wait} (hd : s.barDo b.toNat fn (f s) = .error (.wait t wt)) : exec i s = .next (t.setWait wt) := by
  rw [hexec, State.barInstr, instr_ready hr, hd]
  exact finish_wait wt

/-- A function whose event is not made at once is sent, or waits, or has its answer (R170, R341). -/
theorem barSends_of_barInstr : BarSends i s len b.toNat fn (f s) r := by
  refine ⟨fun c v h => ?_, fun v h => ?_, fun h => ?_, fun h hwant => ?_, fun h hwant hh => ⟨fun hfull => ?_, fun hrun hroom => ?_⟩⟩
  · exact barInstr_traps hexec hr (by simp only [State.barDo, h])
  · exact barInstr_retires hexec hr (by simp only [State.barDo, h])
  · exact barInstr_waits hexec hr (by simp only [State.barDo, h]; rfl)
  · exact barInstr_waits hexec hr (barDo_pending h hwant)
  · exact barInstr_waits hexec hr (barDo_blocked h hwant hh hfull)
  · exact barInstr_waits hexec hr (barDo_forwards h hwant hh hrun hroom)
end

/-- A function that takes no answer retires with what its event makes. -/
theorem barInstr_goes {f : State → Word} (hexec : exec i s = s.barInstr len us b fn f fun _ t => t) (hr : s.ready ([.b b] ++ us))
    (hd : s.barDo b.toNat fn (f s) = .ok (w, t)) : Retires i s len t :=
  barInstr_retires (r := fun _ t => t) hexec hr hd

theorem barWait_woken (hr : s.ready [.b b]) (h : s.me.wait = .bar q true) : Retires (.barWait b) s 4 (s.barWoken b.toNat) := by
  rw [Retires]
  change execBarWait b s = _
  rw [execBarWait, instr_ready hr]
  simp only [h, finish_goes]

theorem barWait_sleeping (hr : s.ready [.b b]) (h : s.me.wait = .bar q false) :
    exec (.barWait b) s = .next (s.setWait (.bar q false)) := by
  change execBarWait b s = _
  rw [execBarWait, instr_ready hr]
  simp only [h, finish_wait]

/-- An event of the executing context that is made on its own core. -/
theorem State.BarMade.barMakes {v : Barrier} {marks : Nat → Nat → Bool × Bool × Bool} (h : s.BarMade s.cur s.ctx q v marks t)
    (hhere : s.barHolder s.cur q = s.cur) (hret : Retires i s len t) {old : Nat → Bool × Bool × Bool}
    (hmarks : ∀ j, marks s.cur j = old j) : BarMakes i s len q v old := by
  refine ⟨t, hret, ?_, fun c hc => ?_, fun j => ?_⟩
  · rw [h.bars, if_pos ⟨hhere.symm, rfl⟩]
  · rw [h.bars, if_neg fun e => hc e.2]
  · rw [State.core, h.cur, h.marks, hmarks]

end Sys2Proof.Machine
end

section
open Sys2Proof Sys2Proof.Machine

/-- Settles O42. The instructions are one event each, made on the executing core; what the event makes of the fields and marks,
or the fault that answers it, is that of R168 function by function. -/
theorem barrierResults : Obligations.BarrierResults := by
  unfold Obligations.BarrierResults
  intro b a d n s hr q v x old new busy asleep init expect hwant hhere hbans
  have hb : q < 48 := barrier_lt_of_ready hr
  have hv : s.barAt (s.barHolder s.cur q) q = v := by rw [hhere]
  -- each function by its instruction
  have hinit : ∀ {i : Instr} {us : List Use} (len : Nat) (f : State → Word), exec i s = s.barInstr len us b .init f (fun _ t => t) →
      s.ready ([.b b] ++ us) → init i len (f s) := by
    intro i us len f hexec hready
    refine ⟨fun hs => ?_, fun hs hn => ?_, fun hs hn => ?_⟩
    · exact barInstr_traps hexec hready (barDo_refused hbans hwant hhere (barEvent_init_asleep hs))
    · exact barInstr_traps hexec hready (barDo_refused hbans hwant hhere (barEvent_init_over hs hn))
    · obtain ⟨t, he, hmade⟩ := barEvent_init_made (j := s.ctx) hs hn
      rw [hv] at hmade
      refine hmade.barMakes hhere (barInstr_goes hexec hready (barDo_made hbans hwant hhere he)) fun j => ?_
      simp only [mem_barMembers_of_holder hhere, true_and]
      rfl
  have hexpect : ∀ {i : Instr} {us : List Use} (len : Nat) (f : State → Word), exec i s = s.barInstr len us b .expect f (fun _ t => t) →
      s.ready ([.b b] ++ us) → expect i len (f s) := by
    intro i us len f hexec hready
    refine ⟨fun hn => ?_, fun hn => ?_⟩
    · exact barInstr_traps hexec hready (barDo_refused hbans hwant hhere (barEvent_expect_over (by rwa [hv])))
    · obtain ⟨t, he, hmade⟩ := barEvent_expect_made (s := s) (k := s.cur) (j := s.ctx) (b := q) (n := f s) (by rwa [hv])
      rw [hv] at hmade
      exact hmade.barMakes hhere (barInstr_goes hexec hready (barDo_made hbans hwant hhere he)) fun j => rfl
  -- a drop is an arrival that marks its context, and lowers the next expected count
  have harrive : ∀ {i : Instr} (fn : BarFn) (d : Bool) (w : Barrier), exec i s = s.barInstr 4 [] b fn (fun _ => 0) (fun _ t => t) →
      s.barEvent s.cur s.ctx q fn 0 = (s.arrived s.cur s.ctx q d w, some (.ok 0)) → w.phase = v.phase →
      BarMakes i s 4 q w.tried (new (true, v.phase, d || x.isDropped q)) := by
    intro i fn d w hexec he hphase
    refine (barMade_arrived hb d w).barMakes hhere (barInstr_goes hexec hr (barDo_made hbans hwant hhere he)) fun j => ?_
    rw [hphase]
    by_cases hj : j = s.ctx
    · rw [if_pos ⟨rfl, hj⟩, hj]
      exact (if_pos rfl).symm
    · rw [if_neg fun h => hj h.2]
      exact (if_neg hj).symm
  have hbusy : s.barBusy s.cur s.ctx q ↔ busy := by rw [State.barBusy, hv]; rfl
  have hpassed : s.barPassed s.cur s.ctx q ↔ (x.isPend q = true ∧ x.isAph q ≠ v.phase) := by rw [State.barPassed, hv]; rfl
  have hwaited : ∀ j, s.waited s.cur s.ctx q s.cur j = new (false, x.isAph q, x.isDropped q) j := by
    intro j
    by_cases hj : j = s.ctx
    · rw [State.waited, if_pos ⟨rfl, hj⟩, hj]
      exact (if_pos rfl).symm
    · rw [State.waited, if_neg fun h => hj h.2]
      exact (if_neg hj).symm
  refine ⟨hinit 12 _ (exec_barInitImm b n s) hr, hexpect 12 _ (exec_barExpectImm b n s) hr,
    fun hra => ⟨hinit 4 _ (exec_barInit b a s) hra, hexpect 4 _ (exec_barExpect b a s) hra⟩, fun h => ⟨?_, ?_⟩, fun h => ⟨?_, ?_⟩,
    fun hrd => ?_, barWait_woken hr, barWait_sleeping hr, fun hw => ⟨fun hp haph => ?_, fun hp harr hbarr => ?_, fun hp hv' => ?_⟩⟩
  · exact barInstr_traps (exec_barArrive b s) hr (barDo_refused hbans hwant hhere (barEvent_arrive_busy (hbusy.2 h)))
  · exact barInstr_traps (exec_barDrop b s) hr (barDo_refused hbans hwant hhere (barEvent_drop_busy (hbusy.2 h)))
  · exact harrive .arrive false _ (exec_barArrive b s) (by rw [barEvent_arrive fun h' => h (hbusy.1 h'), hv]) rfl
  · exact harrive .drop true _ (exec_barDrop b s) (by rw [barEvent_drop fun h' => h (hbusy.1 h'), hv]) rfl
  · have he := barEvent_test (s := s) (k := s.cur) (j := s.ctx) (b := q) (n := 0)
    rw [hv] at he
    exact barInstr_retires (r := fun v t => t.setX d v) (exec_barTest b d s) hrd (barDo_made hbans hwant hhere he)
  · obtain ⟨t, he, hmade⟩ := barEvent_wait_passed (n := 0) (hpassed.2 ⟨hp, haph⟩)
    rw [hv] at hmade
    exact hmade.barMakes hhere (barInstr_goes (exec_barWait hw) hr (barDo_made hbans hwant hhere he)) hwaited
  · obtain ⟨t, he, hmade⟩ := barEvent_wait_completes (n := 0) (fun h => hp (hpassed.1 h)) (by rw [hv]; exact ⟨harr, hbarr⟩)
    rw [hv] at hmade
    exact hmade.barMakes hhere (barInstr_goes (exec_barWait hw) hr (barDo_made hbans hwant hhere he)) hwaited
  · have he := barEvent_wait_sleeps (n := 0) (fun h => hp (hpassed.1 h)) (by rw [hv]; exact hv')
    refine ⟨_, barInstr_waits (exec_barWait hw) hr (barDo_sleeps hbans hwant hhere he), ?_, ?_, ?_⟩
    · rw [State.setWait, State.me_updMe]
    · rw [State.setWait, State.me_updMe, me_barStamp]
    · rw [barAt_setWait, barAt_barStamp, if_pos ⟨hhere.symm, rfl⟩, hv]
end

section
/-! SUPPORT. The wake by an arrival that completes a phase (R168), and how bar.link ends on a core in no link (R170). -/

namespace Sys2Proof.Machine

variable {s t : State} {k j b m i : Nat} {d : Bool} {w : Barrier} {x : Word}

/-- An arrival with which the phase completes wakes every other context of a member (R168). -/
theorem ctxAt_arrived (hdone : w.arr = w.exp ∧ w.barr = w.bexp) (hmem : w.mem = (s.barAt (s.barHolder k b) b).mem)
    (hin : m ∈ s.barMembers (s.barHolder k b) b) (hi : i < 11) (hother : ¬(m = k ∧ i = j)) :
    ((s.arrived k j b d w).coreAt m).ctxAt i = ((s.coreAt m).ctxAt i).woken b := by
  generalize hu : ((s.barStamp k j b).setBar (s.barHolder k b) b { w with ts := s.barTime k j b }).markBar k j b d w.phase = u
  have hfields : u.barAt (s.barHolder k b) b = { w with ts := s.barTime k j b } := by
    rw [← hu, barAt_markBar, barAt_setBar, if_pos ⟨rfl, rfl⟩]
  have hctx : (u.coreAt m).ctxAt i = (s.coreAt m).ctxAt i := by
    rw [← hu, State.markBar, ctxAt_updCtx, if_neg hother, ctxAt_setBar, ctxAt_barStamp, if_neg hother]
  have hmembers : u.barMembers (s.barHolder k b) b = s.barMembers (s.barHolder k b) b :=
    barMembers_congr (by rw [hfields]; exact hmem)
  rw [State.arrived, hu, ctxAt_tryComplete_done _ _ _ _ _ (by rw [hfields]; exact hdone), hmembers, if_pos ⟨hin, hi⟩, hctx]

/-! bar.link. -/

theorem barLink_retires {b : BitVec 6} {a : BitVec 5} (hr : s.ready [.b b, .x a]) (h : s.barLinkTo s.cur b.toNat (s.xr a) = some t) :
    Retires (.barLink b a) s 4 t := by
  refine instr_retires (body := fun s => match s.barLinkTo s.cur b.toNat (s.xr a) with
    | some s => goes s
    | none => fault Cause.BAR_NOT_MEMBER (s.xr a)) rfl hr ?_
  simp only [h]

theorem barLink_traps {b : BitVec 6} {a : BitVec 5} (hr : s.ready [.b b, .x a]) (h : s.barLinkTo s.cur b.toNat (s.xr a) = none) :
    Traps (.barLink b a) s Cause.BAR_NOT_MEMBER (s.xr a) := by
  rw [Traps]
  change execBarLink b a s = _
  rw [execBarLink, instr_ready hr]
  simp only [h, finish_fault]

/-- The mask that a core has given for barrier `b`, or that formed its link (R170). -/
def State.givenMask (s : State) (k b : Nat) : BitVec 16 := if (s.barAt k b).mem = 0 then (s.barAt k b).want else (s.barAt k b).link

/-- Bit `i` of the mask in a register. -/
theorem getLsbD_mask (x : Word) (hi : i < 16) : (x.setWidth 16).getLsbD i = x.getLsbD i := by
  rw [BitVec.getLsbD_setWidth, decide_eq_true hi, Bool.true_and]

theorem mask_ne_zero (hi : i < 16) (h : x.getLsbD i = true) : x.setWidth 16 ≠ 0 := fun e => by
  have hbit := getLsbD_mask x hi
  rw [e, h] at hbit
  exact Bool.false_ne_true ((BitVec.getLsbD_zero (w := 16)).symm.trans hbit)

/-- Mask 0 withdraws the pending one. -/
theorem barLinkTo_zero (hmem : (s.barAt k b).mem = 0) :
    ∃ t, s.barLinkTo k b 0 = some t ∧ t.barAt k b = { s.barAt k b with want := 0 } := by
  refine ⟨s.barLeave k b, rfl, ?_⟩
  have hleave : s.barLeave k b = if (s.barAt k b).want = 0 then s else s.setBar k b { s.barAt k b with want := 0 } := if_pos hmem
  rw [hleave]
  split
  · next h => exact congrArg (fun w => ({ s.barAt k b with want := w } : Barrier)) h
  · rw [barAt_setBar, if_pos ⟨rfl, rfl⟩]

/-- A mask without the executing core, or with a bit above 15, is refused. -/
theorem barLinkTo_foreign (hmem : (s.barAt k b).mem = 0) (h0 : x ≠ 0) (h : x.getLsbD (k % 16) = false ∨ 2 ^ 16 ≤ x.toNat) :
    s.barLinkTo k b x = none := by
  have hmask : ¬(x.setWidth 16 = 0 ∧ x.toNat < 2 ^ 16) := fun ⟨hz, hlt⟩ => h0 (by
    have hn := congrArg BitVec.toNat hz
    rw [BitVec.toNat_setWidth, Nat.mod_eq_of_lt hlt] at hn
    exact BitVec.eq_of_toNat_eq hn)
  have hbit := getLsbD_mask x (Nat.mod_lt k (by decide : 0 < 16))
  simp only [State.barLinkTo, BitVec.ofNat_toNat]
  rw [if_neg (by simpa using hmask), if_neg (by simp [hmem]), if_pos]
  rcases h with h | h
  · simp [hbit, h]
  · rw [decide_eq_true h, Bool.true_or, Bool.true_or, Bool.true_or]

/-- A mask that the core may give is first its pending mask, and forms where every member has given it. -/
theorem barLinkTo_accepted (hmem : (s.barAt k b).mem = 0) (hx : x.toNat < 2 ^ 16) (hself : x.getLsbD (k % 16) = true)
    (hcores : ∀ m ∈ maskCores k (x.setWidth 16), coreExists m = true ∧ s.holderOf m = s.holderOf k)
    (hgiven : ∀ m, m < 16 → s.givenMask (k / 16 * 16 + m) b = 0 ∨ s.givenMask (k / 16 * 16 + m) b = x.setWidth 16 ∨
      (m ≠ k % 16 ∧ x.getLsbD m = false ∧ (s.givenMask (k / 16 * 16 + m) b).getLsbD (k % 16) = false)) :
    let u := s.setBar k b { s.barAt k b with want := x.setWidth 16 }
    s.barLinkTo k b x = if ((maskCores k (x.setWidth 16)).all fun m => (u.barAt m b).want == x.setWidth 16) = true then
      some ((maskCores k (x.setWidth 16)).foldl (fun s m =>
        s.setBar m b { s.barAt m b with link := x.setWidth 16, mem := x.setWidth 16, want := 0 }) u) else some u := by
  have hk : k % 16 < 16 := Nat.mod_lt k (by decide)
  have hbit := getLsbD_mask x hk
  simp only [State.barLinkTo, BitVec.ofNat_toNat]
  rw [if_neg fun h => mask_ne_zero hk hself (of_decide_eq_true (Bool.and_eq_true_iff.1 h).1), if_neg (by simp [hmem]), if_neg]
  simp only [Bool.or_eq_true, not_or]
  refine ⟨⟨⟨by simpa using hx, by rw [hbit, hself]; decide⟩, ?_⟩, ?_⟩
  · rw [List.any_eq_true]
    rintro ⟨m, hm, hbad⟩
    obtain ⟨hexists, hheld⟩ := hcores m hm
    simp [hexists, hheld] at hbad
  · rw [List.any_eq_true]
    rintro ⟨m, hm, hbad⟩
    have hm16 : m < 16 := List.mem_range.1 hm
    change (s.givenMask (k / 16 * 16 + m) b != 0 && s.givenMask (k / 16 * 16 + m) b != x.setWidth 16 &&
      (k / 16 * 16 + m == k || (x.setWidth 16).getLsbD m || (s.givenMask (k / 16 * 16 + m) b).getLsbD (k % 16))) = true at hbad
    rw [getLsbD_mask x hm16] at hbad
    rcases hgiven m hm16 with h | h | ⟨hne, hout, hself'⟩
    · simp [h] at hbad
    · simp [h] at hbad
    · have hpeer : k / 16 * 16 + m ≠ k := by omega
      simp [hpeer, hout, hself'] at hbad

/-- A mask that some other member has not given is kept as the pending one. -/
theorem barLinkTo_pending (hmem : (s.barAt k b).mem = 0) (hx : x.toNat < 2 ^ 16) (hself : x.getLsbD (k % 16) = true)
    (hcores : ∀ m ∈ maskCores k (x.setWidth 16), coreExists m = true ∧ s.holderOf m = s.holderOf k)
    (hgiven : ∀ m, m < 16 → s.givenMask (k / 16 * 16 + m) b = 0 ∨ s.givenMask (k / 16 * 16 + m) b = x.setWidth 16 ∨
      (m ≠ k % 16 ∧ x.getLsbD m = false ∧ (s.givenMask (k / 16 * 16 + m) b).getLsbD (k % 16) = false))
    (hm : m < 16) (hin : x.getLsbD m = true) (hother : m ≠ k % 16) (hwant : (s.barAt (k / 16 * 16 + m) b).want ≠ x.setWidth 16) :
    s.barLinkTo k b x = some (s.setBar k b { s.barAt k b with want := x.setWidth 16 }) := by
  rw [barLinkTo_accepted hmem hx hself hcores hgiven, if_neg]
  intro hall
  have hmember : k / 16 * 16 + m ∈ maskCores k (x.setWidth 16) :=
    List.mem_map_of_mem (List.mem_filter.2 ⟨List.mem_range.2 hm, by rw [getLsbD_mask x hm, hin]⟩)
  have hgave := List.all_eq_true.1 hall _ hmember
  rw [barAt_setBar, if_neg fun h => (by omega : k / 16 * 16 + m ≠ k) h.1] at hgave
  exact hwant (beq_iff_eq.1 hgave)

/-- The mask of a core alone has that core as its one member. -/
theorem maskCores_self (hx : x.toNat = 2 ^ (k % 16)) : maskCores k (x.setWidth 16) = [k] := by
  have hone : ∀ r, r < 16 → (List.range 16).filter (fun i => (BitVec.ofNat 16 (2 ^ r)).getLsbD i) = [r] := by decide
  rw [maskCores, ← BitVec.ofNat_toNat, hx, hone _ (Nat.mod_lt k (by decide)), List.map_singleton, Nat.div_add_mod']

/-- A mask of the core alone forms at once. -/
theorem barLinkTo_self (hmem : (s.barAt k b).mem = 0) (hx : x.toNat = 2 ^ (k % 16)) (hexists : coreExists k = true)
    (hwant : (s.barAt k b).want = 0 ∨ (s.barAt k b).want = x.setWidth 16)
    (hgiven : ∀ m, m < 16 → (s.givenMask (k / 16 * 16 + m) b).getLsbD (k % 16) = false ∨ m = k % 16) :
    ∃ t, s.barLinkTo k b x = some t ∧
      t.barAt k b = { s.barAt k b with link := x.setWidth 16, mem := x.setWidth 16, want := 0 } := by
  have hk : k % 16 < 16 := Nat.mod_lt k (by decide)
  have hlt : x.toNat < 2 ^ 16 := by rw [hx]; exact Nat.pow_lt_pow_right (by decide) hk
  have hbit : ∀ m, x.getLsbD m = decide (k % 16 = m) := fun m => by rw [BitVec.getLsbD, hx, Nat.testBit_two_pow]
  let u := s.setBar k b { s.barAt k b with want := x.setWidth 16 }
  have hu : u.barAt k b = { s.barAt k b with want := x.setWidth 16 } := by rw [barAt_setBar, if_pos ⟨rfl, rfl⟩]
  refine ⟨u.setBar k b { u.barAt k b with link := x.setWidth 16, mem := x.setWidth 16, want := 0 }, ?_, ?_⟩
  · rw [barLinkTo_accepted hmem hlt (by rw [hbit, decide_eq_true rfl]) (fun m hm => ?_) fun m hm => ?_]
    · rw [maskCores_self hx, if_pos (by simp)]; rfl
    · rw [maskCores_self hx, List.mem_singleton] at hm
      rw [hm]
      exact ⟨hexists, rfl⟩
    · by_cases hself : m = k % 16
      · have hmine : s.givenMask (k / 16 * 16 + m) b = (s.barAt k b).want := by
          rw [hself, Nat.div_add_mod', State.givenMask, if_pos hmem]
        rw [hmine]
        exact hwant.imp_right .inl
      · exact .inr (.inr ⟨hself, by rw [hbit, decide_eq_false fun h => hself h.symm], (hgiven m hm).resolve_right hself⟩)
  · rw [barAt_setBar, if_pos ⟨rfl, rfl⟩, hu]

end Sys2Proof.Machine
end

section
open Sys2Proof Sys2Proof.Machine

/-- Settles O43. The functions share one form, and with it what is sent, what waits and what is answered; the wake is that of
the arrival's event; bar.link is decided by the checks of its mask. -/
theorem barrierWakeAndLink : Obligations.BarrierWakeAndLink := by
  unfold Obligations.BarrierWakeAndLink
  intro b a d n j s hr q v x sends mask peer given
  have hsends : ∀ {i : Instr} {us : List Use} (len : Nat) (fn : BarFn) (f : State → Word),
      exec i s = s.barInstr len us b fn f (fun _ t => t) → s.ready ([.b b] ++ us) → sends i len fn (f s) :=
    fun len fn f hexec hready => barSends_of_barInstr hexec hready
  have htest : s.ready [.b b, .x d] → BarSends (.barTest b d) s 4 q .test 0 fun v t => t.setX d v := fun hrd =>
    barSends_of_barInstr (f := fun _ => 0) (r := fun v t => t.setX d v) (exec_barTest b d s) hrd
  refine ⟨hsends 4 .arrive (fun _ => 0) (exec_barArrive b s) hr, hsends 4 .drop (fun _ => 0) (exec_barDrop b s) hr,
    hsends 12 .init (fun _ => n.setWidth 64) (exec_barInitImm b n s) hr,
    hsends 12 .expect (fun _ => n.setWidth 64) (exec_barExpectImm b n s) hr,
    fun hw => hsends 4 .wait (fun _ => 0) (exec_barWait hw) hr,
    fun hra => ⟨hsends 4 .init (fun s => s.xr a) (exec_barInit b a s) hra, hsends 4 .expect (fun s => s.xr a) (exec_barExpect b a s) hra⟩,
    htest, fun hmem => ⟨?_, fun hra => ⟨fun h0 => ?_, fun h0 hbad => ?_, fun t ht => ?_, ?_, ?_⟩⟩⟩
  · intro hwant hbans hdropped hpend hexp hlast hbytes hj hother hsleeps
    have hmembers : s.barMembers s.cur q = [s.cur] := if_pos hmem
    have hhere : s.barHolder s.cur q = s.cur := by rw [State.barHolder, hmembers]; rfl
    have hbusy : ¬s.barBusy s.cur s.ctx q := by
      rw [State.barBusy, hhere]
      rintro (h | h | h)
      · exact Bool.false_ne_true (hdropped.symm.trans h)
      · exact hpend h
      · exact hexp h
    have he := barEvent_arrive (n := 0) hbusy
    rw [hhere] at he
    refine ⟨_, barInstr_goes (exec_barArrive b s) hr (barDo_made hbans hwant hhere he), ?_⟩
    have hin : s.cur ∈ s.barMembers (s.barHolder s.cur q) q := by rw [hhere, hmembers]; exact List.mem_singleton_self _
    have hcur := (barMade_arrived (s := s) (k := s.cur) (j := s.ctx) (barrier_lt_of_ready hr) false { v with arr := v.arr + 1 }).cur
    rw [State.core, hcur, ctxAt_arrived (w := { v with arr := v.arr + 1 }) ⟨hlast, hbytes⟩ (by rw [hhere]) hin hj
      fun h => hother h.2]
    exact Ctx.wait_woken q _ hsleeps
  · obtain ⟨t, ht, hfields⟩ := barLinkTo_zero hmem
    exact ⟨t, barLink_retires hra ((congrArg (s.barLinkTo s.cur q) h0).trans ht), hfields⟩
  · exact barLink_traps hra (barLinkTo_foreign hmem h0 hbad)
  · exact barLink_retires hra ht
  · intro hx hexists hwant hgiven
    obtain ⟨t, ht, hfields⟩ := barLinkTo_self hmem hx hexists hwant hgiven
    exact ⟨t, barLink_retires hra ht, hfields⟩
  · rintro hx hself hcores hgiven ⟨m, hm, hin, hother, hwant⟩
    refine ⟨_, barLink_retires hra (barLinkTo_pending hmem hx hself (fun c hc => ?_) hgiven hm hin hother hwant), ?_, fun k hk => ?_⟩
    · obtain ⟨i, hi, rfl⟩ := List.mem_map.1 hc
      obtain ⟨hi16, hbit⟩ := List.mem_filter.1 hi
      have hlt : i < 16 := List.mem_range.1 hi16
      exact hcores i hlt (by rwa [getLsbD_mask _ hlt] at hbit)
    · rw [barAt_setBar, if_pos ⟨rfl, rfl⟩]
    · rw [barAt_setBar, if_neg fun h => hk h.1]
end

section
/-! SUPPORT. Accesses to the scratchpad that wait for nothing (R116, R66), and values that no log replaces (R386). -/

namespace Sys2Proof.Machine

variable {s t : State} {a : Word} {n off : Nat} {rd wr stk : Bool}

/-- Its place is in the pool. -/
theorem place_pad (h : s.padOk rd wr stk a n) :
    s.place s.ag (if wr then .write else .read) a.toNat n = .ok (.pool a.toNat, s) := by
  obtain ⟨-, -, hlow, hrows, -, -⟩ := h
  have hnone : (rowsOf a.toNat n).findSome? (s.rowCheck s.ag.core (if wr then .write else .read)) = none :=
    List.findSome?_eq_none_iff.2 hrows
  rw [State.place, if_pos hlow, hnone]

/-- An access to the scratchpad that meets its checks comes to its step with nothing changed. -/
theorem padOk_ready (h : s.padOk rd wr stk a n) :
    s.accCheck (if wr then .write else .read) stk a n n = .ok (.pool a.toNat, s) ∧ s.accReady rd wr (.pool a.toNat) a n = .ok s := by
  have hplace := place_pad h
  obtain ⟨hal, hstk, hlow, -, hwatch, hcard⟩ := h
  constructor
  · rw [accCheck_ok hal hstk (.inl (awaited_local (by omega))), hplace]; rfl
  · rw [accReady_gate hwatch hcard (.inl (by omega)), extGate_inside rfl]

/-- Outside record and replay an event has its own value (R388). -/
theorem logged_of_unlogged {j kind v : Nat} (h : s.unlogged) : s.logged s.cur j kind a v = .ok (v, s) := by
  rw [State.logged]
  cases hl : s.taskLaunch s.cur with
  | none => rfl
  | some p =>
    obtain ⟨slot, l⟩ := p
    have hmode : l.logMode = 0 := h _ hl
    simp only [State.loggedFor, hmode]
    rfl

theorem State.Quiet.unlogged {near : Nat → Prop} (h : s.Quiet near t) (hu : s.unlogged) : t.unlogged := fun p hp =>
  hu p (by rwa [h.taskLaunch] at hp)

/-- An access in the scratchpad leaves no time of a virtual line (R190). -/
theorem touch_local (s : State) (n : Nat) (p : BitVec 64) (h : a.toNat < 2 ^ 32) : s.touch a n p = s := by
  rw [State.touch, globalLines, if_pos (by simpa using h)]

@[simp] theorem spawns_stampReads (s : State) (ls : List Nat) (pts : BitVec 64) : (s.stampReads ls pts).2.spawns = s.spawns :=
  List.foldlRecOn (motive := fun t : State => t.spawns = s.spawns) ls _ rfl fun _ h _ _ => h

/-- A read step of the scratchpad has the bytes of the pool, and moves the context's time alone. -/
theorem ctxRead_pool (s : State) (h : a.toNat < 2 ^ 32) : ∃ u, s.ctxRead (.pool off) a n = .ok (s.core.pool.bytes off n, u) ∧
    s.Quiet (· = s.cur) u ∧ u.spawns = s.spawns := by
  refine ⟨_, rfl, ?_, ?_⟩
  · refine (State.Quiet.of_alike ?_).trans ((State.Quiet.updMe ?_ ?_ ?_ _).trans (.touch _ _ _ _))
    · exact (State.Alike.stampReads _ _ _).trans (.sealWalks _ _)
    all_goals exact fun _ => rfl
  · rw [touch_local _ _ _ h]
    exact (spawns_stampReads _ _ _).trans (spawns_stampReads _ _ _)

end Sys2Proof.Machine
end

section
/-! SUPPORT. ibx.take, task.end and task.spawn (R172 to R174). -/

namespace Sys2Proof.Machine

variable {s : State} {a b d : BitVec 5} {m : Msg} {q : List Msg} {f : Bool}

/-! ibx.take. -/

theorem exec_ibxTake (s : State) : exec .ibxTake s = execIbxTake s := rfl

/-- Elsewhere than in context 0 of a core with no task and no pod message it faults. -/
theorem ibxTake_traps (h : s.ctx ≠ 0 ∨ s.core.task = true ∨ s.core.podMsg = true) : Traps .ibxTake s Cause.CTX_ROLE (word s.ctx) := by
  rw [Traps, exec_ibxTake, execIbxTake, instr_nil, if_pos (by simpa [or_assoc] using h), finish_fault]

/-- With no record it waits. -/
theorem ibxTake_waits (hctx : s.ctx = 0) (htask : s.core.task = false) (hmsg : s.core.podMsg = false) (hin : s.core.inbox = []) :
    exec .ibxTake s = .next (s.setWait .inbox) := by
  rw [exec_ibxTake, execIbxTake, instr_nil, if_neg (by simp [hctx, htask, hmsg]), hin]
  rfl

/-- The time of the record is all that the context takes before its own effect. -/
theorem nextPc_taken (s : State) (q : List Msg) (t : BitVec 64) (n : Nat) :
    ((s.updCore fun c => { c with inbox := q }).follow t).nextPc n = s.me.pc + word n := by
  rw [State.nextPc, State.follow, State.me_updMe, State.me, State.core_updCore]; rfl

section
variable (hctx : s.ctx = 0) (htask : s.core.task = false) (hmsg : s.core.podMsg = false) (hin : s.core.inbox = m :: q)
include hctx htask hmsg hin

/-- A pod message starts at its entry. -/
theorem ibxTake_message (hk : m.kind = true) : exec .ibxTake s = .next (((((s.updCore fun c => { c with inbox := q }).follow
    m.pts).startMessage (fun j => m.words.getD j 0) (s.me.pc + 4))).count s.cur 3 1) := by
  rw [exec_ibxTake, execIbxTake, instr_nil, if_neg (by simp [hctx, htask, hmsg]), hin]
  dsimp only
  rw [hk, if_pos rfl, nextPc_taken, finish_own]
  rfl

/-- A task record that has no image is installed. -/
theorem ibxTake_task (hk : m.kind = false) (himg : (s.block ((m.words.getD 4 0).toNat % 256)).scratchLen = 0) :
    exec .ibxTake s = .next (((((s.updCore fun c => { c with inbox := q }).follow m.pts).install (fun j => m.words.getD j 0) m.gang
      (s.block ((m.words.getD 4 0).toNat % 256)) (s.me.pc + 4) [])).count s.cur 3 1) := by
  rw [exec_ibxTake, execIbxTake, instr_nil, if_neg (by simp [hctx, htask, hmsg]), hin]
  generalize hu : (s.updCore fun c => { c with inbox := q }).follow m.pts = u
  have hblock : u.block = s.block := by rw [← hu]; rfl
  have hpc : u.nextPc 4 = s.me.pc + word 4 := by rw [← hu, nextPc_taken]
  simp only [hk, hu, hblock, himg, Bool.false_eq_true, if_false, State.imageRead, Nat.zero_add, Nat.reduceDiv, List.range_zero, liftTrap]
  change s.finish 4 (.ok (.own (u.install _ _ _ (u.nextPc 4) []))) = _
  rw [hpc, finish_own]
  rfl
end

/-! task.end. -/

theorem exec_taskEnd (s : State) : exec (.taskEnd f a) s = execTaskEnd f a s := rfl

theorem taskEnd_traps (hr : s.ready [.x a]) (h : s.ctx ≠ 0 ∨ (s.core.task = false ∧ s.core.podMsg = false)) :
    Traps (.taskEnd f a) s Cause.CTX_ROLE (word s.ctx) := by
  rw [Traps, exec_taskEnd, execTaskEnd, instr_ready hr, if_pos (by simpa using h), finish_fault]

/-- With nothing left to wait for the status word is committed and the task ends. -/
theorem taskEnd_commits (hr : s.ready [.x a]) (hctx : s.ctx = 0) (hrun : s.core.task = true ∨ s.core.podMsg = true)
    (hwait : s.core.endWaits = false) (hlate : ¬(s.pastDeadline s.cur = true ∧ s.core.abortSet = true)) :
    exec (.taskEnd f a) s = .next (((s.commit s.cur (if f then .faulted else .completed)
      ((s.xr a &&& ~~~(0xFF : Word)) ||| (if f then 8 else 0) ||| if !f && s.pastDeadline s.cur then 1 else 0)).endTask
        s.cur false false).count s.cur 3 1) := by
  have hrole : ¬((s.ctx ≠ 0 || !(s.core.task || s.core.podMsg)) = true) := by simpa [hctx] using fun h1 => hrun.resolve_left (by simp [h1])
  rw [exec_taskEnd, execTaskEnd, instr_ready hr, if_neg hrole, if_neg (by simpa using hlate), if_neg (by simp [hwait]), finish_own]

/-- A deadline is that of a task. -/
theorem task_of_pastDeadline (h : s.pastDeadline s.cur = true) : s.core.task = true := by
  simp only [State.pastDeadline, State.pastDeadlineAt, Bool.and_eq_true] at h
  exact h.1.1

/-- A task past its deadline is aborted where it has asked for it (R27). -/
theorem taskEnd_aborts (hr : s.ready [.x a]) (hctx : s.ctx = 0) (hlate : s.pastDeadline s.cur = true) (habort : s.core.abortSet = true) :
    exec (.taskEnd f a) s = .next ((s.deadlineAbort s.cur).count s.cur 3 1) := by
  rw [exec_taskEnd, execTaskEnd, instr_ready hr, if_neg (by simp [hctx, task_of_pastDeadline hlate]),
    if_pos (by simp [hlate, habort]), finish_own]

/-! task.spawn. -/

/-- The record of a spawn joins the die's queue where there is room, and X[d] tells. -/
theorem spawnAt_spawns {i : Instr} {len : Nat} {k at' : Word} (hexec : exec i s = s.spawnAt len d b k) (hat : s.xr b + k = at')
    (hr : s.ready [.x d, .x b]) (hu : s.unlogged) (hpad : s.padOk true false false at' 128) :
    ∃ (t : State) (p : BitVec 64), ((s.spawnQ (dieOf s.cur)).length < 16 → Retires i s len
        (({ t with spawns := Table.put s.spawns (dieOf s.cur) (s.spawnQ (dieOf s.cur) ++ [(⟨s.core.pool.bytes at'.toNat 128,
          s.core.flags.toNat % 256, s.core.domain.toNat, s.cur, p⟩ : Spawn)]) }).setX d 1)) ∧
      (¬(s.spawnQ (dieOf s.cur)).length < 16 → Retires i s len (t.setX d 0)) ∧
      t.core.pool = s.core.pool ∧ (∀ n, t.xr n = s.xr n) ∧ t.spawns = s.spawns := by
  subst hat
  obtain ⟨hcheck, hready⟩ := padOk_ready hpad
  rw [if_neg Bool.false_ne_true] at hcheck
  obtain ⟨t, hread, hquiet, hspawns⟩ := ctxRead_pool (off := (s.xr b + k).toNat) (n := 128) s
    (show (s.xr b + k).toNat < 2 ^ 32 by have := hpad.2.2.1; omega)
  have hqueue : t.spawnQ (dieOf s.cur) = s.spawnQ (dieOf s.cur) := by rw [State.spawnQ, hspawns]; rfl
  have hlog : ∀ v, t.logged s.cur t.ctx 5 (s.xr b + k) v = .ok (v, t) := fun v => by
    rw [← hquiet.cur]; exact logged_of_unlogged (hquiet.unlogged hu)
  have hflags : t.core.flags = s.core.flags := hquiet.coreOwn Core.flags
  have hdomain : t.core.domain = s.core.domain := hquiet.coreOwn Core.domain
  refine ⟨t, t.me.pts, fun hroom => ?_, fun hfull => ?_, hquiet.pool, hquiet.xr, hspawns⟩
  · rw [Retires, hexec, State.spawnAt, instr_ready hr]
    simp only [hcheck, hready, hread, bind, Except.bind, hquiet.cur, hqueue, hroom, decide_true, if_true, hlog, liftTrap]
    simp [hspawns, hflags, hdomain, word]
  · rw [Retires, hexec, State.spawnAt, instr_ready hr]
    simp only [hcheck, hready, hread, bind, Except.bind, hquiet.cur, hqueue, hfull, decide_false, Bool.false_eq_true, if_false, hlog, liftTrap]
    simp [word]

end Sys2Proof.Machine
end

section
/-! SUPPORT. Range units (R25, R175, R176). -/

namespace Sys2Proof.Machine

variable {s : State} {a b c d : BitVec 5} {r : Range} {i : Nat}

theorem exec_rngOpen (s : State) : exec (.rngOpen d a b c) s = execRngOpen d a b c s := rfl
theorem exec_rngTake (s : State) : exec (.rngTake d a) s = execRngTake d a s := rfl
theorem exec_rngClose (s : State) : exec (.rngClose a) s = execRngClose a s := rfl

/-- The state with a range unit in its place. -/
def State.putRange (s : State) (i : Nat) (r : Range) : State := { s with ranges := Table.put s.ranges i r }

@[simp] theorem rangeAt_putRange (s : State) (i : Nat) (r : Range) : (s.putRange i r).rangeAt i = r := Table.get_put_same _ _ _ _

/-- P is in range. -/
theorem parts_in_range {p : Word} (h0 : p ≠ 0) (h : p.toNat < 2 ^ 16) : ¬((decide (p = 0) || decide (65535 < p.toNat)) = true) := by
  rw [decide_eq_false h0, Bool.false_or, decide_eq_true_eq]
  omega

section
variable (hr : s.ready [.x d, .x a, .x b, .x c])
include hr

/-- T out of range. -/
theorem rngOpen_traps_total (h : 2 ^ 40 ≤ (s.xr a).toNat) : Traps (.rngOpen d a b c) s Cause.RNG_INVALID (s.xr a) := by
  rw [Traps, exec_rngOpen, execRngOpen, instr_ready hr, if_pos h, finish_fault]

/-- M out of range. -/
theorem rngOpen_traps_min (ht : (s.xr a).toNat < 2 ^ 40) (h : 2 ^ 24 ≤ (s.xr b).toNat) :
    Traps (.rngOpen d a b c) s Cause.RNG_INVALID (s.xr b) := by
  rw [Traps, exec_rngOpen, execRngOpen, instr_ready hr, if_neg (Nat.not_le.2 ht), if_pos h, finish_fault]

/-- P out of range. -/
theorem rngOpen_traps_parts (ht : (s.xr a).toNat < 2 ^ 40) (hm : (s.xr b).toNat < 2 ^ 24)
    (h : s.xr c = 0 ∨ 2 ^ 16 ≤ (s.xr c).toNat) : Traps (.rngOpen d a b c) s Cause.RNG_INVALID (s.xr c) := by
  rw [Traps, exec_rngOpen, execRngOpen, instr_ready hr, if_neg (Nat.not_le.2 ht), if_neg (Nat.not_le.2 hm), if_pos, finish_fault]
  simpa [Nat.succ_le_iff] using h

variable (ht : (s.xr a).toNat < 2 ^ 40) (hm : (s.xr b).toNat < 2 ^ 24) (hp0 : s.xr c ≠ 0) (hp : (s.xr c).toNat < 2 ^ 16)
include ht hm hp0 hp

/-- Where every unit of the die is used it writes 0. -/
theorem rngOpen_full (hused : ∀ u, u < 64 → (s.rangeAt (dieOf s.cur * 64 + u)).used = true) :
    Retires (.rngOpen d a b c) s 12 (s.setX d 0) := by
  have hnone : ((List.range 64).filter fun u => !(s.rangeAt (dieOf s.cur * 64 + u)).used) = [] :=
    List.filter_eq_nil_iff.2 fun u hu => by rw [hused u (List.mem_range.1 hu)]; decide
  rw [Retires, exec_rngOpen, execRngOpen, instr_ready hr, if_neg (Nat.not_le.2 ht), if_neg (Nat.not_le.2 hm),
    if_neg (parts_in_range hp0 hp)]
  simp only [hnone, List.isEmpty_nil, if_true, finish_goes]

/-- Else it opens a free one. -/
theorem rngOpen_opens (hfree : ∃ u, u < 64 ∧ (s.rangeAt (dieOf s.cur * 64 + u)).used = false) :
    ∃ (t : State) (u : Nat), u < 64 ∧ (s.rangeAt (dieOf s.cur * 64 + u)).used = false ∧
      t.rangeAt (dieOf s.cur * 64 + u) = ⟨true, (s.xr a).toNat, max (s.xr b).toNat 1, (s.xr c).toNat, (s.xr a).toNat,
        (s.rangeAt (dieOf s.cur * 64 + u)).gen + 1, s.launchSeq s.cur⟩ ∧
      Retires (.rngOpen d a b c) s 12 (t.setX d (word (((s.rangeAt (dieOf s.cur * 64 + u)).gen + 1).toNat * 2 ^ 16 +
        dieOf s.cur * 2 ^ 8 + 2 ^ 7 + u))) := by
  generalize hfrees : ((List.range 64).filter fun u => !(s.rangeAt (dieOf s.cur * 64 + u)).used) = free
  have hne : free ≠ [] := by
    obtain ⟨u, hu, hunused⟩ := hfree
    rw [← hfrees]
    exact List.ne_nil_of_mem (List.mem_filter.2 ⟨List.mem_range.2 hu, by simp [hunused]⟩)
  have hlen : 0 < free.length := List.length_pos_of_ne_nil hne
  have hlt := Nat.mod_lt s.free.1.toNat hlen
  have hmem : free.getD (s.free.1.toNat % free.length) 0 ∈ free := by
    rw [List.getD_eq_getElem _ _ hlt]; exact List.getElem_mem hlt
  generalize hu : free.getD (s.free.1.toNat % free.length) 0 = u at hmem
  obtain ⟨hrange, hunused⟩ := List.mem_filter.1 (hfrees ▸ hmem)
  refine ⟨s.free.2.putRange (dieOf s.cur * 64 + u) _, u, List.mem_range.1 hrange, by simpa using hunused, rangeAt_putRange _ _ _, ?_⟩
  rw [Retires, exec_rngOpen, execRngOpen, instr_ready hr, if_neg (Nat.not_le.2 ht), if_neg (Nat.not_le.2 hm),
    if_neg (parts_in_range hp0 hp)]
  simp only [hfrees, hu, List.isEmpty_eq_false_iff.2 hne, Bool.false_eq_true, if_false, finish_goes]
  rfl
end

theorem rngTake_traps (hr : s.ready [.x d, .x a]) (h : s.rangeOf (s.xr a) = none) : Traps (.rngTake d a) s Cause.RNG_INVALID (s.xr a) := by
  rw [Traps, exec_rngTake, execRngTake, instr_ready hr]
  simp only [h, finish_fault]

/-- A chunk goes to X[d], by its start and count. -/
theorem rngTake_takes (hr : s.ready [.x d, .x a]) (hu : s.unlogged) (h : s.rangeOf (s.xr a) = some (i, r)) :
    Retires (.rngTake d a) s 4 ((s.putRange i { r with rem := r.rem - r.chunk.2 }).setX d (word (r.chunk.1 * 2 ^ 24 + r.chunk.2))) := by
  rw [Retires, exec_rngTake, execRngTake, instr_ready hr]
  simp only [h, logged_of_unlogged hu, liftTrap]
  exact finish_goes

theorem rngClose_traps (hr : s.ready [.x a]) (h : s.rangeOf (s.xr a) = none) : Traps (.rngClose a) s Cause.RNG_INVALID (s.xr a) := by
  rw [Traps, exec_rngClose, execRngClose, instr_ready hr]
  simp only [h, finish_fault]

theorem rngClose_closes (hr : s.ready [.x a]) (h : s.rangeOf (s.xr a) = some (i, r)) :
    Retires (.rngClose a) s 4 (s.putRange i { r with used := false, gen := r.gen + 1 }) := by
  rw [Retires, exec_rngClose, execRngClose, instr_ready hr]
  simp only [h, finish_goes]
  rfl

end Sys2Proof.Machine
end

section
/-! SUPPORT. Gangs (R22 to R24, R177): the members of a gang, what forming it and counting a join make of each of them. -/

namespace Sys2Proof.Machine

variable {s t : State} {k m n : Nat} {y : Bool} {i : Instr} {body : State → Run Done}

theorem coreAt_updCore (f : Core → Core) (s : State) (n : Nat) :
    (s.updCore f).coreAt n = if n = s.cur then f (s.coreAt n) else s.coreAt n := coreAt_updCoreAt s s.cur n f

/-- One update of every core of a list. -/
theorem coreAt_foldl_updCoreAt (f : Core → Core) {l : List Nat} (hl : l.Nodup) (s : State) (n : Nat) :
    (l.foldl (fun s m => s.updCoreAt m f) s).coreAt n = if n ∈ l then f (s.coreAt n) else s.coreAt n := by
  induction l generalizing s with
  | nil => simp
  | cons m l ih =>
    obtain ⟨hm, hl⟩ := List.nodup_cons.1 hl
    rw [List.foldl_cons, ih hl, coreAt_updCoreAt]
    by_cases hn : n = m
    · rw [if_pos hn, if_neg (hn ▸ hm), if_pos (by simp [hn])]
    · simp [hn]

theorem cur_foldl_updCoreAt (f : Core → Core) (l : List Nat) (s : State) : (l.foldl (fun s m => s.updCoreAt m f) s).cur = s.cur :=
  foldl_view_same (f := fun s m => s.updCoreAt m f) (v := State.cur) (fun _ _ => rfl) l s

/-! The followers. -/

theorem mem_followers : n ∈ s.followers k ↔ n ∈ s.gang k ∧ n ≠ k := by simp [State.followers]

theorem nodup_followers (s : State) (k : Nat) : (s.followers k).Nodup := by
  have hplaces : (s.gangPlaces k).Nodup := List.nodup_range.map fun _ _ h => Nat.add_left_cancel h
  exact (hplaces.filter _).filter _

/-- The leader and its followers are different cores. -/
theorem nodup_leader_followers (s : State) (k : Nat) : (k :: s.followers k).Nodup :=
  List.nodup_cons.2 ⟨fun h => (mem_followers.1 h).2 rfl, nodup_followers s k⟩

/-- The followers are told by the flags, the task and the gang of each core. -/
theorem followers_congr (h : ∀ n, (t.coreAt n).task = (s.coreAt n).task ∧ (t.coreAt n).flags = (s.coreAt n).flags ∧
    (t.coreAt n).gangId = (s.coreAt n).gangId) (k : Nat) : t.followers k = s.followers k := by
  have htask n := (h n).1
  have hflags n := (h n).2.1
  have hgang n := (h n).2.2
  simp only [State.followers, State.gang, State.gangPlaces, State.gangMate, State.gangLeader, Core.gsize, Core.gpos, htask, hflags,
    hgang]

/-! The form of a gang instruction. -/

/-- What holds of every instruction of the form holds of the four. -/
theorem gang_forall {P : Instr → Prop} (h : ∀ i body, (∀ s, exec i s = s.gangInstr body) → P i) (y : Bool) :
    P .gangLead ∧ P .gangFollow ∧ P (.gangJoin y) ∧ P .gangLeave :=
  ⟨h _ _ fun _ => rfl, h _ _ fun _ => rfl, h _ _ fun _ => rfl, h _ _ fun _ => rfl⟩

/-- GANG_ROLE in a context other than 0. -/
theorem gangInstr_foreign (hexec : exec i s = s.gangInstr body) (h : s.ctx ≠ 0) :
    Traps i s Cause.GANG_ROLE (word (s.core.gpos * 16 + s.ctx)) := by
  rw [Traps, hexec, State.gangInstr, instr_nil, if_pos h, State.gangRole, finish_fault]

/-- No effect in a core of no gang, or one that has left it. -/
theorem gangInstr_idle (hexec : exec i s = s.gangInstr body) (h0 : s.ctx = 0) (h : s.core.gsize = 0 ∨ s.core.gleft = true) :
    Retires i s 4 s := by
  rw [Retires, hexec, State.gangInstr, instr_nil, if_neg (by simp [h0]), if_pos (by simpa using h), finish_goes]

section
variable (h0 : s.ctx = 0) (hsize : s.core.gsize ≠ 0) (hleft : s.core.gleft = false)
include h0 hsize hleft

/-- In context 0 of a gang each has its own effect. -/
theorem gangInstr_member (body : State → Run Done) : s.gangInstr body = s.finish 4 (body s) := by
  rw [State.gangInstr, instr_nil, if_neg (by simp [h0]), if_neg (by simp [hsize, hleft])]

theorem gangLead_follower (h : s.core.gpos ≠ 0) : Traps .gangLead s Cause.GANG_ROLE (word (s.core.gpos * 16 + s.ctx)) := by
  rw [Traps]
  change execGangLead s = _
  rw [execGangLead, gangInstr_member h0 hsize hleft, if_pos h, State.gangRole, finish_fault]

theorem gangFollow_leader (h : s.core.gpos = 0) : Traps .gangFollow s Cause.GANG_ROLE (word (s.core.gpos * 16 + s.ctx)) := by
  rw [Traps]
  change execGangFollow s = _
  rw [execGangFollow, gangInstr_member h0 hsize hleft, if_pos h, State.gangRole, finish_fault]

theorem gangLead_formed (hform : s.core.gformed = true) (h : s.core.gpos = 0) : Retires .gangLead s 4 s := by
  rw [Retires]
  change execGangLead s = _
  rw [execGangLead, gangInstr_member h0 hsize hleft, if_neg (not_not.2 h), if_pos hform, finish_goes]

theorem gangFollow_formed (hform : s.core.gformed = true) (h : s.core.gpos ≠ 0) : Retires .gangFollow s 4 s := by
  rw [Retires]
  change execGangFollow s = _
  rw [execGangFollow, gangInstr_member h0 hsize hleft, if_neg h, if_pos hform, finish_goes]

/-- A join of an attached follower is the leader's to count. -/
theorem gangJoin_attached (hform : s.core.gformed = true) (h : s.core.gpos ≠ 0) (hatt : s.core.gattached = true) :
    Retires (.gangJoin y) s 4 s := by
  rw [Retires]
  change execGangJoin y s = _
  rw [execGangJoin, gangInstr_member h0 hsize hleft]
  simp only [hform, hatt, h, Bool.not_true, Bool.false_eq_true, if_false, if_true, finish_goes]

/-- Where the gang is not formed the core counts its own join. -/
theorem gangJoin_unformed (hform : s.core.gformed = false) :
    Retires (.gangJoin y) s 4 (s.updCore fun c => { c with jcount := c.jcount + 1 }) := by
  rw [Retires]
  change execGangJoin y s = _
  rw [execGangJoin, gangInstr_member h0 hsize hleft]
  simp only [hform, Bool.not_false, if_true, finish_goes]

theorem gangLeave_leader (h : s.core.gpos = 0) : Retires .gangLeave s 4 (s.detachAll s.cur true) := by
  rw [Retires]
  change execGangLeave s = _
  rw [execGangLeave, gangInstr_member h0 hsize hleft, if_pos h, finish_goes]

theorem gangLeave_follower (h : s.core.gpos ≠ 0) :
    Retires .gangLeave s 4 ((s.unmask s.cur).updCore fun c => { c with gattached := false, gleft := true }) := by
  rw [Retires]
  change execGangLeave s = _
  rw [execGangLeave, gangInstr_member h0 hsize hleft, if_neg h, finish_goes]
end

/-! gang.lead forms the gang. -/

/-- The core of a member that attaches, and where it goes on. -/
def Core.attachedAt (c : Core) (pc : Word) : Core := ({ c with gattached := true }).setCtx 0 { c.ctxAt 0 with pc := pc, wait := .none }

/-- A member of another core attaches: its own core changes, and of the leader's only the mask. -/
theorem attachMember_spec (h : m ≠ s.cur) : (s.attachMember m).cur = s.cur ∧ (s.attachMember m).nextPc 4 = s.nextPc 4 ∧
    ∀ n, n ≠ s.cur → (s.attachMember m).coreAt n = if n = m then (s.coreAt n).attachedAt (s.nextPc 4) else s.coreAt n := by
  have hmask : ∀ n, (s.attachMember m).coreAt n =
      if n = s.cur then { s.coreAt n with amask := setBit (s.coreAt n).amask (m - s.cur) }
      else if n = m then (s.coreAt n).attachedAt (s.nextPc 4) else s.coreAt n := fun n => by
    refine (coreAt_updCore (fun c => { c with amask := setBit c.amask (m - s.cur) })
      (s.updCoreAt m fun c => c.attachedAt (s.nextPc 4)) n).trans ?_
    change (if n = s.cur then _ else _) = _
    by_cases hn : n = s.cur
    · have hne : n ≠ m := fun e => h (e.symm.trans hn)
      rw [if_pos hn, if_pos hn, coreAt_updCoreAt, if_neg hne]
    · rw [if_neg hn, if_neg hn, coreAt_updCoreAt]
  refine ⟨rfl, ?_, fun n hn => by rw [hmask, if_neg hn]⟩
  have hme : (s.attachMember m).me = s.me := by
    change ((s.attachMember m).coreAt s.cur).ctxAt s.ctx = _
    rw [hmask, if_pos rfl]; rfl
  rw [State.nextPc, hme]; rfl

/-- Every member of a list attaches. -/
theorem attachMembers_spec {l : List Nat} (h : s.cur ∉ l) : (l.foldl State.attachMember s).cur = s.cur ∧
    ∀ n, n ∈ l → (((l.foldl State.attachMember s).coreAt n).ctxAt 0).pc = s.nextPc 4 := by
  have hall : ∀ {l : List Nat} {s : State}, s.cur ∉ l → (l.foldl State.attachMember s).cur = s.cur ∧
      ∀ n, n ≠ s.cur → (((l.foldl State.attachMember s).coreAt n).ctxAt 0).pc =
        if n ∈ l then s.nextPc 4 else ((s.coreAt n).ctxAt 0).pc := by
    intro l
    induction l with
    | nil => exact fun _ => ⟨rfl, fun _ _ => rfl⟩
    | cons m l ih =>
      intro s h
      obtain ⟨hm, hl⟩ := not_or.1 (mt List.mem_cons.2 h)
      obtain ⟨hcur, hpc, hcore⟩ := attachMember_spec (s := s) (m := m) (Ne.symm hm)
      obtain ⟨hcur', hview⟩ := ih (s := s.attachMember m) (by rwa [hcur])
      refine ⟨hcur'.trans hcur, fun n hn => ?_⟩
      rw [List.foldl_cons, hview n (by rwa [hcur]), hpc, hcore n hn]
      by_cases hnl : n ∈ l
      · rw [if_pos hnl, if_pos (List.mem_cons_of_mem m hnl)]
      · rw [if_neg hnl]
        by_cases hnm : n = m
        · rw [if_pos hnm, if_pos (hnm ▸ List.mem_cons_self), Core.attachedAt, Core.ctxAt_setCtx_same]
        · rw [if_neg hnm, if_neg (by simp [hnm, hnl])]
  exact ⟨(hall h).1, fun n hn => by rw [(hall h).2 n fun e => h (e ▸ hn), if_pos hn]⟩

/-- The core of a member of a gang that forms. -/
def Core.inGang (c : Core) : Core := { c with gformed := true, gattached := true, gfollowed := false, jcount := 0 }

/-- Where every other member follows, gang.lead forms the gang. -/
theorem gangLead_forms (h0 : s.ctx = 0) (hsize : s.core.gsize ≠ 0) (hleft : s.core.gleft = false) (hform : s.core.gformed = false)
    (hpos : s.core.gpos = 0)
    (hall : ∀ n ∈ s.gangPlaces s.cur, n = s.cur ∨ (s.gangMate s.cur n = true ∧ (s.coreAt n).gfollowed = true)) :
    ∃ (t : State), Retires .gangLead s 4 t ∧ ∀ n ∈ s.followers s.cur, (t.coreAt n).gformed = true ∧ (t.coreAt n).gattached = true ∧
      ((t.coreAt n).ctxAt 0).pc = s.me.pc + 4 ∧ (t.coreAt n).jcount = 0 := by
  generalize hu : (s.followers s.cur).foldl State.attachMember s = u
  generalize hv : (s.cur :: s.followers s.cur).foldl (fun s m => s.updCoreAt m Core.inGang) u = v
  obtain ⟨hcur, hpc⟩ := attachMembers_spec (s := s) (l := s.followers s.cur) fun h => (mem_followers.1 h).2 rfl
  rw [hu] at hcur hpc
  have hvcur : v.cur = s.cur := by rw [← hv, cur_foldl_updCoreAt, hcur]
  refine ⟨v.updCore fun c => { c with amask := setBit c.amask 0 }, ?_, fun n hn => ?_⟩
  · rw [Retires]
    change execGangLead s = _
    have hready : (s.gangPlaces s.cur).all (fun m => m == s.cur || (s.gangMate s.cur m && (s.coreAt m).gfollowed)) = true :=
      List.all_eq_true.2 fun n hn => by simpa using hall n hn
    rw [execGangLead, gangInstr_member h0 hsize hleft, if_neg (not_not.2 hpos), if_neg (by simp [hform]), if_pos hready]
    dsimp only
    rw [hu, hcur]
    change s.finish 4 (goes (State.updCore ((s.cur :: s.followers s.cur).foldl (fun s m => s.updCoreAt m Core.inGang) u) _)) = _
    rw [hv, finish_goes]
  · have hne : n ≠ v.cur := fun e => (mem_followers.1 hn).2 (e.trans hvcur)
    have hcore : (v.updCore fun c => { c with amask := setBit c.amask 0 }).coreAt n = (u.coreAt n).inGang := by
      rw [coreAt_updCore, if_neg hne, ← hv, coreAt_foldl_updCoreAt _ (nodup_leader_followers s s.cur),
        if_pos (List.mem_cons_of_mem _ hn)]
    rw [hcore]
    exact ⟨rfl, rfl, hpc n hn, rfl⟩

/-! gang.join of the leader. -/

/-- The core of a member of which a join counts. -/
def Core.joined (c : Core) : Core := ({ c with jcount := c.jcount + 1 }).setCtx 0 { c.ctxAt 0 with wait := .gang }

/-- A join of the leader counts in its core and in every follower's, all being attached, and goes on. -/
theorem gangJoin_leader (h0 : s.ctx = 0) (hsize : s.core.gsize ≠ 0) (hleft : s.core.gleft = false) (hform : s.core.gformed = true)
    (hpos : s.core.gpos = 0) (hwait : s.me.wait ≠ .gang) (hatt : ∀ n ∈ s.followers s.cur, (s.coreAt n).gattached = true) :
    ∃ (t : State), Retires (.gangJoin y) s 4 t ∧ t.core.jcount = s.core.jcount + 1 ∧
      ∀ n ∈ s.followers s.cur, (t.coreAt n).jcount = (s.coreAt n).jcount + 1 := by
  have hnodup := nodup_leader_followers s s.cur
  have hcount : s.countJoin = (s.cur :: s.followers s.cur).foldl (fun s m => s.updCoreAt m Core.joined) s := by
    rw [State.countJoin, List.filter_eq_self.2 hatt]; rfl
  have hcur : s.countJoin.cur = s.cur := by rw [hcount, cur_foldl_updCoreAt]
  have hcore : ∀ n, s.countJoin.coreAt n = if n ∈ s.cur :: s.followers s.cur then (s.coreAt n).joined else s.coreAt n := fun n => by
    rw [hcount, coreAt_foldl_updCoreAt _ hnodup]
  have hfollowers : s.countJoin.followers s.cur = s.followers s.cur := followers_congr (fun n => by
    rw [hcore]
    split <;> exact ⟨rfl, rfl, rfl⟩) _
  have hatt' : ∀ n ∈ s.followers s.cur, (s.countJoin.coreAt n).gattached = true := fun n hn => by
    rw [hcore, if_pos (List.mem_cons_of_mem _ hn)]; exact hatt n hn
  have hall : (s.followers s.cur).all (fun m => (s.countJoin.coreAt m).gleft || (s.countJoin.coreAt m).gattached ||
      s.countJoin.joinReady m) = true := List.all_eq_true.2 fun n hn => by simp [hatt' n hn]
  have hnone : (s.followers s.cur).filter s.countJoin.joinReady = [] := List.filter_eq_nil_iff.2 fun n hn => by
    simp [State.joinReady, hatt' n hn]
  refine ⟨s.countJoin, ?_, ?_, fun n hn => ?_⟩
  · rw [Retires]
    change execGangJoin y s = _
    rw [execGangJoin, gangInstr_member h0 hsize hleft]
    simp only [hform, hpos, beq_eq_false_iff_ne.2 hwait, Bool.not_true, Bool.false_eq_true, if_false, if_true, hcur, hfollowers, hall,
      hnone, Bool.or_true, List.foldl_nil, finish_goes]
  · rw [State.core, hcur, hcore, if_pos List.mem_cons_self]; rfl
  · rw [hcore, if_pos (List.mem_cons_of_mem _ hn)]; rfl

end Sys2Proof.Machine
end

section
open Sys2Proof Sys2Proof.Machine

/-- Settles O47, instruction by instruction, each by the branches of its own meaning; the gang instructions share the checks of
their form, and forming a gang and counting a join change the core of each follower once. -/
theorem taskResults : Obligations.TaskResults := by
  unfold Obligations.TaskResults
  intro f y d a b c k32 l i r m q s co w taken die room spawns role gang
  have hgang : ∀ {P : Instr → Prop}, (∀ j body, (∀ s, exec j s = s.gangInstr body) → P j) → gang P := fun h => gang_forall h y
  refine ⟨ibxTake_traps, fun h0 htask hmsg => ⟨ibxTake_waits h0 htask hmsg, fun hin =>
      ⟨ibxTake_message h0 htask hmsg hin, ibxTake_task h0 htask hmsg hin⟩⟩,
    fun hr => ⟨taskEnd_traps hr, taskEnd_commits hr, taskEnd_aborts hr⟩, fun hr hu => ⟨?_, ?_, ?_⟩,
    fun hr => ⟨rngOpen_traps_total hr, rngOpen_traps_min hr, rngOpen_traps_parts hr⟩,
    fun hr ht hm hp0 hp => ⟨rngOpen_full hr ht hm hp0 hp, rngOpen_opens hr ht hm hp0 hp⟩,
    fun hr hu => ⟨rngTake_traps hr, rngTake_takes hr hu⟩, fun hr => ⟨rngClose_traps hr, rngClose_closes hr⟩,
    fun h0 => hgang fun j body hexec => gangInstr_foreign (hexec s) h0,
    fun h0 hidle => hgang fun j body hexec => gangInstr_idle (hexec s) h0 hidle, fun h0 hsize hleft => ?_⟩
  · exact spawnAt_spawns (i := .taskSpawn d b) rfl (BitVec.add_zero _) hr hu
  · exact spawnAt_spawns (i := .taskSpawnExt d b k32) rfl rfl hr hu
  · exact spawnAt_spawns (i := .taskSpawnLit d b l) rfl rfl hr hu
  · exact ⟨gangLead_follower h0 hsize hleft, gangFollow_leader h0 hsize hleft,
      fun hform => ⟨gangLead_formed h0 hsize hleft hform, fun hpos => ⟨gangFollow_formed h0 hsize hleft hform hpos,
        gangJoin_attached h0 hsize hleft hform hpos⟩⟩,
      gangJoin_unformed h0 hsize hleft, gangLead_forms h0 hsize hleft, gangJoin_leader h0 hsize hleft,
      gangLeave_leader h0 hsize hleft, gangLeave_follower h0 hsize hleft⟩
end

section
/-! SUPPORT. Numbers in memory (R4), times of reads at a home (R249), and external writes that take effect (R255). -/

namespace Sys2Proof

/-- Memory with the `n` bytes of a number at `a`, where there is one. -/
def Memory.replaced (m : Memory) (a n : Nat) (v : Option Nat) : Memory :=
  match v with
  | some v => m.putBytes a (Machine.leOf n v)
  | none => m

/-- Memory `m'` is in canonical form and has the byte at `b` as `m` has it. -/
def Memory.Keeps (m : Memory) (b : Nat) (m' : Memory) : Prop := m'.wf = true ∧ m'.read b = m.read b

namespace Machine

/-! Numbers in memory. -/

theorem readLE_lt (m : Memory) (a n : Nat) : m.readLE a n < 256 ^ n := by
  induction n generalizing a with
  | zero => exact Nat.one_pos
  | succ n ih =>
    have hb := (m.read a).isLt
    have hrest := ih (a + 1)
    rw [Memory.readLE, Nat.pow_succ]
    omega

/-- The number of a run of bytes. -/
theorem leVal_bytes (m : Memory) (a n : Nat) : leVal (m.bytes a n) = m.readLE a n := by
  induction n generalizing a with
  | zero => rfl
  | succ n ih =>
    have hcons : m.bytes a (n + 1) = m.read a :: m.bytes (a + 1) n := by
      simp only [Memory.bytes, List.range_succ_eq_map, List.map_cons, List.map_map, Nat.add_zero]
      exact congrArg _ (List.map_congr_left fun i _ => by simp [Nat.add_assoc, Nat.add_comm 1])
    rw [hcons, leVal, ih, Memory.readLE]

theorem readLE_replaced {m : Memory} (h : m.wf = true) (a n : Nat) (v : Option Nat) :
    (m.replaced a n v).readLE a n = v.getD (m.readLE a n) % 256 ^ n := by
  cases v with
  | none => exact (Nat.mod_eq_of_lt (readLE_lt m a n)).symm
  | some v => exact readLE_putBytes_leOf a n v h

theorem read_replaced {m : Memory} (h : m.wf = true) {a n b : Nat} (v : Option Nat) (hb : ¬(a ≤ b ∧ b < a + n)) :
    (m.replaced a n v).read b = m.read b := by
  cases v with
  | none => rfl
  | some v => exact read_putBytes_leOf h hb

/-! Reads at a home. -/

namespace State.Alike

variable {near : Nat → Prop} {g : Ag}

theorem countCc (hall : ∀ k, near k) (s : State) (req : Option Nat) (core : Nat) (hit : Bool) : s.Alike near (s.countCc req core hit) :=
  countNear hall s req _ _ _ _

theorem homeRead (hreq : ∀ k, g.req = some k → near k) (s : State) (l : Nat) (pts : BitVec 64) : s.Alike near (s.homeRead g l pts).2 := by
  refine (widen hreq s l).trans ?_
  simp only [State.homeRead]
  split
  · exact setLine _ _ _
  · exact of_cores rfl rfl rfl rfl rfl rfl

section
variable {p : Place} (hlook : ∀ pa, p = .phys pa → ∀ k, near k)
include hlook

/-- A lookup of device memory counts at every core, and one of the scratchpad at none. -/
theorem stampRead (s : State) (pts : BitVec 64) : s.Alike near (s.stampRead g p pts).2 := by
  refine trans ?_ (sealWalks _ _)
  cases p with
  | pool off => exact stampReads _ _ _
  | phys pa =>
    dsimp only
    split
    · exact refl s
    · exact (lookHome (hlook pa rfl) s _ _ _).trans (homeRead (fun k _ => hlook pa rfl k) _ _ _)
  | ctl pa => exact stampReads _ _ _
  | fmt _ _ _ => exact refl s

theorem atomicLook (s : State) (cc : Bool) : s.Alike near (s.atomicLook g p cc) := by
  cases p with
  | phys pa =>
    simp only [State.atomicLook]
    split
    · exact refl s
    · split
      · exact countCc (hlook pa rfl) _ _ _ _
      · split
        · exact setLine _ _ _
        · exact refl s
  | pool off => exact refl s
  | ctl pa => exact refl s
  | fmt _ _ _ => exact refl s
end

theorem takeLease (s : State) (p : Place) (cc : Bool) : s.Alike near (s.takeLease g p cc) := by
  unfold State.takeLease
  split
  · split
    · exact refl s
    · exact setLine _ _ _
  · exact refl s

end State.Alike

/-! External writes that take effect. -/

variable {s : State} {b : Nat}

theorem mem_of_mustLand {must : ExtWrite → Bool} {ws : List ExtWrite} {p : ExtWrite × Bool} (h : p ∈ mustLand must ws) : p.1 ∈ ws := by
  induction ws with
  | nil => exact absurd h List.not_mem_nil
  | cons w ws ih =>
    rcases List.mem_cons.1 h with rfl | h
    · exact List.mem_cons_self
    · exact List.mem_cons_of_mem _ (ih h)

/-- What holds of memory still holds after the writes that take effect, where each of them keeps it. -/
theorem landExt_induct {P : Memory → Prop} (must : ExtWrite → Bool) (h0 : P s.mem)
    (hput : ∀ m, P m → ∀ w ∈ s.extw, P (m.putBytes w.pa w.bs)) : P (s.landExt must).mem := by
  refine List.foldlRecOn (motive := fun r : Memory × List ExtWrite × Nat => P r.1) (mustLand must s.extw) _ h0 fun r hr p hp => ?_
  dsimp only
  split
  · split
    · exact hr
    · exact hput r.1 hr p.1 (mem_of_mustLand hp)
  · exact hr

theorem wf_landExt (must : ExtWrite → Bool) (hwf : s.mem.wf = true) : (s.landExt must).mem.wf = true :=
  landExt_induct (P := fun m => m.wf = true) must hwf fun _ hm _ _ => Memory.wf_putBytes _ _ hm

/-- They leave every byte that none of them names. -/
theorem landExt_keeps (must : ExtWrite → Bool) (hwf : s.mem.wf = true)
    (hb : ∀ w ∈ s.extw, ¬(w.pa ≤ b ∧ b < w.pa + w.bs.length)) : s.mem.Keeps b (s.landExt must).mem :=
  landExt_induct must ⟨hwf, rfl⟩ fun m hm w hw => by
    have hout := hb w hw
    exact ⟨Memory.wf_putBytes _ _ hm.1, (Memory.read_putBytes_out hm.1 (by omega)).trans hm.2⟩

theorem wf_outsideWrites (hwf : s.mem.wf = true) : s.outsideWrites.mem.wf = true :=
  List.foldlRecOn (motive := fun m : Memory => m.wf = true) _ _ hwf fun _ hm _ _ => Memory.wf_write _ _ hm

/-- So do those of outside agents, at the device's own bytes. -/
theorem outsideWrites_keeps (hwf : s.mem.wf = true) (hb : isExternal b = false) : s.mem.Keeps b s.outsideWrites.mem :=
  ⟨wf_outsideWrites hwf, read_outsideWrites hwf hb⟩

end Machine
end Sys2Proof
end

section
/-! SUPPORT. The stages of an atomic (R158): its checks, the old value, and the write step at its place. -/

namespace Sys2Proof.Machine

variable {s t u : State} {p : Place} {stk cc : Bool} {a : Word} {n off pa : Nat} {v : Option Nat} {f : Nat → Option Nat}
  {near : Nat → Prop}

/-- The last stage of an atomic: the write of the new value where there is one, else the times of a read. -/
def State.atomicPut (s : State) (p : Place) (cc : Bool) (a : Word) (n : Nat) (v : Option Nat) : Run State :=
  match v with
  | some v => do
    let s ← if p.external then .ok (s.homePut p (leOf n v)) else s.ctxWrite p a ((leOf n v).map some)
    .ok (s.takeLease s.ag p cc)
  | none =>
    let r := s.stampRead s.ag p s.me.pts
    .ok (((r.2.updMe fun c => { c with pts := r.1 }).touch a n r.1).takeLease s.ag p cc)

/-- An atomic outside record and replay, by its stages. -/
theorem rmw_eq {l w x : State} {bs : List Byte} (hcheck : s.accCheck .write stk a n n = .ok (p, t)) (hfmt : p.image = false)
    (hhost : (p.host && !t.atomicOps) = false) (hready : t.accReady true true p a n = .ok u)
    (hland : (if p.external then u.landCtx u.cur u.ctx else u) = l) (hpeek : l.peekAt l.ag p a.toNat n = .ok (bs, w)) (hu : w.unlogged)
    (hput : (w.atomicLook w.ag p cc).atomicPut p cc a n (f (leVal bs)) = .ok x) : s.rmw stk cc a n f = .ok (leVal bs, x) := by
  cases p with
  | fmt g pa o => cases hfmt
  | _ =>
    simp only [State.rmw, hcheck, bind, Except.bind, hhost, Bool.false_eq_true, if_false, hready, hland, hpeek, liftTrap,
      logged_of_unlogged hu]
    cases hf : f (leVal bs) with
    | none =>
      rw [hf] at hput
      cases hput
      rfl
    | some v =>
      rw [hf] at hput
      simp only [State.atomicPut, bind, Except.bind] at hput ⊢
      split at hput
      · next hext =>
        cases hput
        rw [if_pos hext]
      · next hext =>
        rw [if_neg hext]
        split at hput
        · cases hput
        · cases hput
          rfl

/-! The last stage at the three kinds of place. -/

/-- An access that changes nothing in memory. -/
theorem State.Wrote.of_quiet (h : s.Quiet near t) : s.Wrote near 0 s.core.pool s.mem t where
  toAccessed := h.toAccessed
  x := h.x
  fpflags := h.fpflags.trans (or_no_flag _).symm
  pool := h.pool
  mem := h.mem

theorem State.Quiet.setPts (s : State) (q : BitVec 64) : s.Quiet near (s.updMe fun c => { c with pts := q }) := by
  refine .updMe ?_ ?_ ?_ s <;> exact fun _ => rfl

theorem State.Quiet.setExtOut (s : State) (b : Bool) : s.Quiet near (s.updMe fun c => { c with extOut := b }) := by
  refine .updMe ?_ ?_ ?_ s <;> exact fun _ => rfl

theorem State.Quiet.followWalks (s : State) : s.Quiet near s.followWalks :=
  (State.Quiet.of_alike (.sealWalks s _)).trans (.setPts _ _)

/-- Without a new value there is only a read's time. -/
theorem atomicPut_none (hlook : ∀ pa, p = .phys pa → ∀ k, near k) (s : State) (cc : Bool) (a : Word) (n : Nat) :
    ∃ t, s.atomicPut p cc a n none = .ok t ∧ s.Wrote near 0 s.core.pool s.mem t := by
  refine ⟨_, rfl, .of_quiet ?_⟩
  have hread : s.Alike near (s.stampRead s.ag p s.me.pts).2 := .stampRead hlook s _
  exact (((State.Quiet.of_alike hread).trans (.setPts _ _)).trans (.touch _ _ _ _)).trans (.of_alike (State.Alike.takeLease _ _ _))

/-- With one it is a write step, inside the device. -/
theorem atomicPut_some {v : Nat} {pool mem : Memory} (hp : p.ext? = none)
    (hwrite : ∀ pts, ∃ q u, s.writePlace s.ag p a.toNat ((leOf n v).map some) pts = .ok (q, u, 0) ∧ s.Wrote near 0 pool mem u) :
    ∃ t, s.atomicPut p cc a n (some v) = .ok t ∧ s.Wrote near 0 pool mem t := by
  obtain ⟨q, u, hplace, hu⟩ := hwrite (s.joinWalks s.me.pts)
  obtain ⟨t, ht, hwrote⟩ := ctxWrite_of_writePlace hp hplace hu
  have hext : p.external = false := by rw [Place.external, hp]; rfl
  refine ⟨t.takeLease t.ag p cc, ?_, hwrote.then_quiet (.of_alike (.takeLease _ _ _))⟩
  simp only [State.atomicPut, hext, Bool.false_eq_true, if_false, ht, bind, Except.bind]

theorem atomicPut_pool (s : State) (cc : Bool) (a : Word) (hn : 0 < n) (v : Option Nat) :
    ∃ t, s.atomicPut (.pool off) cc a n v = .ok t ∧ s.Wrote (· = s.cur) 0 (s.core.pool.replaced off n v) s.mem t := by
  cases v with
  | none => exact atomicPut_none (fun _ h => Place.noConfusion h) s cc a n
  | some v => exact atomicPut_some rfl fun pts => writePlace_pool s a.toNat pts (leOf_ne_nil hn v)

theorem atomicPut_device (s : State) (cc : Bool) (a : Word) (hn : 0 < n) (hext : isExternal pa = false) (v : Option Nat) :
    ∃ t, s.atomicPut (.phys pa) cc a n v = .ok t ∧ s.Wrote (fun _ => True) 0 s.core.pool (s.mem.replaced pa n v) t := by
  cases v with
  | none => exact atomicPut_none (fun _ _ _ => trivial) s cc a n
  | some v => exact atomicPut_some (by simp [Place.ext?, hext]) fun pts => writePlace_phys s a.toNat pts (leOf_ne_nil hn v) hext

/-- At an external place the home puts the new value down (R158, R159). -/
theorem atomicPut_external (s : State) (cc : Bool) (a : Word) (hext : isExternal pa = true) (v : Option Nat) :
    ∃ t, s.atomicPut (.phys pa) cc a n v = .ok t ∧ s.Wrote (fun _ => True) 0 s.core.pool (s.mem.replaced pa n v) t := by
  cases v with
  | none => exact atomicPut_none (fun _ _ _ => trivial) s cc a n
  | some v =>
    have hp : (Place.phys pa).external = true := by simp [Place.external, Place.ext?, hext]
    refine ⟨(s.homePut (.phys pa) (leOf n v)).takeLease (s.homePut (.phys pa) (leOf n v)).ag (.phys pa) cc, ?_, ?_⟩
    · simp only [State.atomicPut, hp, if_true, bind, Except.bind]
    · refine State.Wrote.then_quiet ?_ (.of_alike (.takeLease _ _ _))
      have hput : s.Wrote (fun _ => True) 0 s.core.pool (s.mem.putBytes pa (leOf n v)) { s with mem := s.mem.putBytes pa (leOf n v) } :=
        .setMem (.refl s) _
      exact hput.then_quiet ((State.Quiet.followWalks _).trans (.setExtOut _ true))

end Sys2Proof.Machine
end

section
/-! SUPPORT. Atomics at the three kinds of place (R158): the old value, and what is left of the state. -/

namespace Sys2Proof.Machine

/-! No translation changes what the host supports (R331). -/

section
variable (s : State)

theorem atomicOps_addCounter (k i ev amt : Nat) : (s.addCounter k i ev amt).atomicOps = s.atomicOps := by
  simp only [State.addCounter]
  split <;> rfl

theorem atomicOps_addShared (die i ev amt : Nat) : (s.addShared die i ev amt).atomicOps = s.atomicOps := by
  simp only [State.addShared]
  split <;> rfl

theorem atomicOps_countNear (req : Option Nat) (ev amt : Nat) (at' : Nat → Bool) (die : Nat) :
    (s.countNear req ev amt at' die).atomicOps = s.atomicOps := by
  simp only [State.countNear]
  rw [foldl_view_same (v := State.atomicOps) fun s p => atomicOps_addShared s _ _ _ _,
    foldl_view_same (v := State.atomicOps) fun s p => ?_]
  split
  · exact foldl_view_same (v := State.atomicOps) (fun s q => atomicOps_addCounter s _ _ _ _) _ s
  · rfl

theorem atomicOps_countL2 (req : Option Nat) (wr : Bool) (a : Nat) : (s.countL2 req wr a).atomicOps = s.atomicOps := by
  simp only [State.countL2, atomicOps_countNear, State.lineSize, State.metaLook]
  repeat' split
  all_goals rfl

theorem atomicOps_readWalk (g : Ag) (w : Walked) (pts : BitVec 64) : (s.readWalk g w pts).2.atomicOps = s.atomicOps := by
  refine (foldl_view_same (v := State.atomicOps) (fun s l => ?_) _ _).trans
    (foldl_view_same (v := State.atomicOps) (fun s l => atomicOps_countL2 s _ _ _) w.lines s)
  rfl
end

variable {s t u : State} {p : Place} {stk cc : Bool} {a : Word} {n off pa : Nat} {f : Nat → Option Nat}

theorem atomicOps_translate {g : Ag} {acc : Acc} {a : Nat} (h : s.translate g acc a = .ok (p, u)) : u.atomicOps = s.atomicOps := by
  unfold State.translate at h
  dsimp only at h
  split at h
  · cases h
  · split at h
    · cases h
    · cases h
      rw [← atomicOps_readWalk s g]
      simp only [State.noteCmp, State.cacheWalk]
      repeat' split
      all_goals rfl

theorem atomicOps_accCheck {acc : Acc} {z : Nat} (h : s.accCheck acc stk a z n = .ok (p, u)) : u.atomicOps = s.atomicOps := by
  have hplace : ∀ {r : Except Trap (Place × State)}, r = s.place s.ag acc a.toNat n → liftTrap r = .ok (p, u) → u.atomicOps = s.atomicOps := by
    intro r hr h
    cases r with
    | error e => cases h
    | ok q =>
      cases h
      unfold State.place at hr
      split at hr
      · split at hr <;> cases hr
        rfl
      · split at hr
        · cases hr
        · exact atomicOps_translate hr.symm
  unfold State.accCheck at h
  split at h
  · cases h
  · split at h
    · cases h
    · split at h
      · cases h
      · split at h
        · exact hplace rfl h
        · cases h
      · exact hplace rfl h

/-! The atomic itself. -/

/-- The executing context's task stays outside record and replay. -/
theorem State.Alike.unlogged {near : Nat → Prop} (h : s.Alike near t) (hu : s.unlogged) : t.unlogged :=
  (State.Quiet.of_alike h).unlogged hu

/-- A write step that sets no flag, and one after it. -/
theorem State.Wrote.trans {near : Nat → Prop} {fl : FFlags} {pool pool' mem mem' : Memory} (h : s.Wrote near 0 pool mem t)
    (h' : t.Wrote near fl pool' mem' u) : s.Wrote near fl pool' mem' u where
  toAccessed := h.toAccessed.trans h'.toAccessed
  x := h'.x.trans h.x
  fpflags := by rw [h'.fpflags, h.fpflags, or_no_flag]
  pool := h'.pool
  mem := h'.mem

/-- An atomic in the scratchpad (R158). -/
theorem rmw_pad (hn : 0 < n) (hu : s.unlogged) (h : s.padOk true true stk a n) :
    ∃ t, s.rmw stk cc a n f = .ok (s.core.pool.readLE a.toNat n, t) ∧
      s.Wrote (· = s.cur) 0 (s.core.pool.replaced a.toNat n (f (s.core.pool.readLE a.toNat n))) s.mem t := by
  obtain ⟨hcheck, hready⟩ := padOk_ready h
  obtain ⟨t, hput, hwrote⟩ := atomicPut_pool (off := a.toNat) s cc a hn (f (leVal (s.core.pool.bytes a.toNat n)))
  rw [← leVal_bytes]
  exact ⟨t, rmw_eq hcheck rfl rfl hready rfl rfl hu hput, hwrote⟩

/-- An atomic at a global address in device memory. -/
theorem rmw_far (hn : 0 < n) (hu : s.unlogged) (h : s.farOk true true stk a n pa) :
    ∃ t, s.rmw stk cc a n f = .ok (s.mem.readLE pa n, t) ∧
      s.Wrote (fun _ => True) 0 s.core.pool (s.mem.replaced pa n (f (s.mem.readLE pa n))) t := by
  obtain ⟨hal, hstk, hg, hin, ⟨t, htr⟩, hext, hst, hwatch, hcard⟩ := h
  have hwalk : s.Alike (fun _ => True) t := .translate (fun _ => trivial) htr
  obtain ⟨hw, hc, hs⟩ := held_of_alike (rd := true) (wr := true) (a := a) (n := n) hwalk
  have hp : (Place.phys pa).ext? = none := by simp [Place.ext?, hin]
  have hhost : (Place.phys pa).host = false := by
    have hlow : ¬0x100000000000 ≤ pa := of_decide_eq_false hin
    rw [Place.host, isHost, decide_eq_false hlow, Bool.false_and]
  have hcheck : s.accCheck .write stk a n n = .ok (.phys pa, t) := by
    rw [accCheck_ok hal hstk (.inl (awaited_none hext)), place_global hg]
    exact congrArg liftTrap htr
  have hready : t.accReady true true (.phys pa) a n = .ok t := by
    rw [accReady_gate (hw.trans hwatch) (hc.trans hcard) (.inr (hs.trans hst)), extGate_inside hp]
  have hpeek : t.peekAt t.ag (.phys pa) a.toNat n = .ok (t.mem.bytes pa n, t) := by
    rw [State.peekAt, hin]; rfl
  have hlook : t.Alike (fun _ => True) (t.atomicLook t.ag (.phys pa) cc) := .atomicLook (fun _ _ _ => trivial) t cc
  obtain ⟨u, hput, hwrote⟩ := atomicPut_device (t.atomicLook t.ag (.phys pa) cc) cc a hn hin (f (leVal (t.mem.bytes pa n)))
  have hall := State.Wrote.after_quiet (.of_alike (hwalk.trans hlook)) hwrote
  have hpool : (t.atomicLook t.ag (.phys pa) cc).core.pool = s.core.pool := by rw [(hwalk.trans hlook).core_eq]
  rw [hpool, hlook.mem, leVal_bytes, hwalk.mem] at hall
  rw [← leVal_bytes, ← hwalk.mem]
  refine ⟨u, rmw_eq hcheck rfl (by rw [hhost]; rfl) hready ?_ hpeek (hwalk.unlogged hu) hput, ?_⟩
  · rw [Place.external, hp]; rfl
  · rw [leVal_bytes, hwalk.mem]; exact hall

/-- An atomic in an external window, of what stands there once the context's own writes and outside agents' have taken effect
(R158, R255). -/
theorem rmw_external (hu : s.unlogged) (hwf : s.mem.wf = true) (h : s.extOk true true stk a n pa)
    (hops : isHost pa = false ∨ s.atomicOps = true) :
    ∃ (t : State) (m : Memory), s.rmw stk cc a n f = .ok (m.readLE pa n, t) ∧ m.wf = true ∧
      (∀ b, isExternal b = false → (∀ w ∈ s.extw, ¬(w.pa ≤ b ∧ b < w.pa + w.bs.length)) → m.read b = s.mem.read b) ∧
      s.Wrote (fun _ => True) 0 s.core.pool (m.replaced pa n (f (m.readLE pa n))) t := by
  have hout : isExternal pa = true := h.2.2.2.1
  have hp : (Place.phys pa).external = true := by simp [Place.external, Place.ext?, hout]
  obtain ⟨t, u, hcheck, hready, hquiet⟩ := extOk_ready h
  let w := (u.landCtx u.cur u.ctx).outsideWrites
  have hlanded : u.Wrote (fun _ => True) 0 u.core.pool w.mem w :=
    { toAccessed := .of_cores rfl rfl rfl, x := rfl, fpflags := (or_no_flag _).symm, pool := rfl, mem := rfl }
  have hlook : w.Alike (fun _ => True) (w.atomicLook w.ag (.phys pa) cc) := .atomicLook (fun _ _ _ => trivial) w cc
  have huwf : u.mem.wf = true := by rw [hquiet.mem]; exact hwf
  have hwf' := wf_landExt (fun w => w.core == u.cur && w.ctx == u.ctx) huwf
  obtain ⟨x, hput, hwrote⟩ := atomicPut_external (w.atomicLook w.ag (.phys pa) cc) cc a hout (f (leVal (w.mem.bytes pa n)))
  have hhost : ((Place.phys pa).host && !t.atomicOps) = false := by
    rw [atomicOps_accCheck hcheck, Place.host]
    rcases hops with h | h <;> simp [h]
  refine ⟨x, w.mem, ?_, wf_outsideWrites hwf', fun b hb hkeep => ?_, ?_⟩
  · rw [← leVal_bytes]
    refine rmw_eq hcheck rfl hhost hready (if_pos hp) ?_ (w := w) (hquiet.unlogged hu) hput
    rw [State.peekAt, hout]; rfl
  · have hland : u.mem.Keeps b (u.landCtx u.cur u.ctx).mem := landExt_keeps _ huwf (by rw [hquiet.extw]; exact hkeep)
    rw [(outsideWrites_keeps hland.1 hb).2, hland.2, hquiet.mem]
  · rw [show (w.atomicLook w.ag (.phys pa) cc).core.pool = s.core.pool by rw [hlook.core_eq, ← hquiet.pool]; rfl, hlook.mem,
      leVal_bytes] at hwrote
    exact (State.Wrote.of_quiet hquiet).trans (hlanded.trans (hwrote.after_quiet (.of_alike hlook)))

end Sys2Proof.Machine
end

section
/-! SUPPORT. The instructions of an atomic (R157, R158): the old value in X[d] with the flags of the addition, at each of the three
kinds of place. -/

namespace Sys2Proof.Machine

variable {s t u : State} {near : Nat → Prop} {fl : FFlags} {pool mem : Memory} {stk : Bool} {a : Word} {n len : Nat} {i : Instr}
  {d : BitVec 5}

/-- Flags that are set (R50). -/
theorem State.Wrote.setFp (s : State) (f : FFlags) : s.Wrote near f s.core.pool s.mem (s.setFp f) where
  toAccessed := by
    refine .updMe (f := fun x => { x with fpflags := x.fpflags ||| f, istat := x.istat ||| 0 }) (fun x => ?_) s
    rw [show x.istat ||| (0 : BitVec 3) = x.istat from BitVec.or_zero]
    rfl
  x := by rw [State.setFp, State.setFlags, State.me_updMe]
  fpflags := by rw [State.setFp, State.setFlags, State.me_updMe]
  pool := by rw [State.setFp, State.setFlags, State.core_updMe]; rfl
  mem := rfl

/-- The result of an atomic at a global address is on its way (R105). -/
theorem State.Quiet.awaitX (s : State) (d : BitVec 5) (a : Word) : s.Quiet near (s.awaitX d a) := by
  unfold State.awaitX
  split
  · refine .updMe ?_ ?_ ?_ s <;> exact fun _ => rfl
  · exact .refl s

theorem xr_of_x (h : t.me.x = s.me.x) (r : BitVec 5) : t.xr r = s.xr r := by rw [State.xr, State.xr, Ctx.getX, Ctx.getX, h]

/-- What an atomic has written stays where its result follows it. -/
theorem State.Wrote.result (h : s.Wrote near 0 pool mem t) (d : BitVec 5) (v : Word) (f : FFlags) (a : Word)
    (hu : ((t.setX d v).setFp f).awaitX d a = u) :
    s.Accessed near u ∧ (∀ r, u.xr r = if r = 0 then 0 else if r = d then v else s.xr r) ∧ u.me.fpflags = s.me.fpflags ||| f ∧
      u.core.pool = pool ∧ u.mem = mem := by
  subst hu
  obtain ⟨hacc, hx, hfp, hpool, hmem⟩ := h.withBase (upd := some (d, v))
  have hrest := (State.Wrote.setFp (near := near) (t.setX d v) f).then_quiet (.awaitX _ d a)
  exact ⟨hacc.trans hrest.toAccessed, fun r => (xr_of_x hrest.x r).trans (hx r),
    hrest.fpflags.trans (by rw [show (t.setX d v).me.fpflags = s.me.fpflags from hfp.trans (or_no_flag _)]),
    hrest.pool.trans hpool, hrest.mem.trans hmem⟩

/-- An instruction that ends as an atomic does is one at each of the three kinds of place. -/
theorem atomic_of_rmw {cc : Bool} {f : Nat → Word} {g : Nat → Option Nat} {flags : Nat → FFlags} (hcan : s.canonical) (hu : s.unlogged)
    (hn : 0 < n)
    (hexec : ∀ o t, s.rmw stk cc a n g = .ok (o, t) → Retires i s len (((t.setX d (f o)).setFp (flags o)).awaitX d a)) :
    Atomic i s len d stk a n f g flags := by
  have hpoolwf : s.core.pool.wf = true := hcan.2 s.cur
  refine ⟨fun h => ?_, fun pa h => ?_, fun pa h hops => ?_⟩
  · obtain ⟨t, hrmw, hw⟩ := rmw_pad (cc := cc) (f := g) hn hu h
    obtain ⟨hacc, hx, hfp, hpool, hmem⟩ := hw.result d _ _ a rfl
    refine ⟨_, hexec _ _ hrmw, hx, hfp, hacc.keeps hmem, ?_, fun b hb => ?_⟩
    · rw [hpool, readLE_replaced hpoolwf]
    · rw [hpool, read_replaced hpoolwf _ hb]
  · obtain ⟨t, hrmw, hw⟩ := rmw_far (cc := cc) (f := g) hn hu h
    obtain ⟨hacc, hx, hfp, hpool, hmem⟩ := hw.result d _ _ a rfl
    refine ⟨_, hexec _ _ hrmw, hx, hfp, hacc.keepsFar, ?_, fun b hb => ?_, fun b => by rw [hpool]⟩
    · rw [hmem, readLE_replaced hcan.1]
    · rw [hmem, read_replaced hcan.1 _ hb]
  · obtain ⟨t, m, hrmw, hwf, hinside, hw⟩ := rmw_external (cc := cc) (f := g) hu hcan.1 h hops
    obtain ⟨hacc, hx, hfp, hpool, hmem⟩ := hw.result d _ _ a rfl
    refine ⟨_, m.readLE pa n, readLE_lt m pa n, hexec _ _ hrmw, hx, hfp, hacc.keepsFar, ?_, fun b => by rw [hpool], fun b hb hkeep => ?_⟩
    · rw [hmem, readLE_replaced hwf]
    · have hbelow : ¬(pa ≤ b ∧ b < pa + n) := fun ⟨hle, _⟩ => by
        have hout : 0x100000000000 ≤ pa := of_decide_eq_true h.2.2.2.1
        have hin : ¬0x100000000000 ≤ b := of_decide_eq_false hb
        omega
      rw [hmem, read_replaced hwf _ hbelow, hinside b hb hkeep]

variable {op : AmoOp} {p : Scope} {w : Bool} {x : BitVec 5} {e : BitVec 5} {us : List Use} {b : BitVec 5}

/-- X[d] of an atomic (R158). -/
def AmoOp.result (op : AmoOp) (n old : Nat) : Word := if AmoOp.signs op then BitVec.ofInt 64 (sgn n old) else word old

/-- An instruction whose meaning is the effect of R158 is an atomic. -/
theorem atomic_of_amo (hexec : exec i s = s.instr len us fun s => s.amo op p w d b x e) (hr : s.ready us) (hcan : s.canonical)
    (hu : s.unlogged) :
    Atomic i s len d (b == 2) (s.xr b) (amoBits w / 8) (AmoOp.result op (amoBits w))
      (fun o => (amoNew op (amoBits w) o ((s.xr x).toNat % 2 ^ amoBits w) ((s.xr e).toNat % 2 ^ amoBits w)).1)
      (fun o => (amoNew op (amoBits w) o ((s.xr x).toNat % 2 ^ amoBits w) ((s.xr e).toNat % 2 ^ amoBits w)).2) := by
  refine atomic_of_rmw (cc := scopeNear p) hcan hu (by cases w <;> decide) fun o t hrmw => ?_
  rw [Retires, hexec, instr_ready hr, State.amo]
  simp only [hrmw, bind, Except.bind, finish_goes]
  rfl

/-- At a format page it faults (R158). -/
theorem amo_traps_format {g : GxT} {pa o : Nat} (hexec : exec i s = s.instr len us fun s => s.amo op p w d b x e) (hr : s.ready us)
    (hal : (s.xr b).toNat % (amoBits w / 8) = 0) (hstk : b = 2 → s.me.stacklim.toNat ≤ (s.xr b).toNat) (hg : 2 ^ 32 ≤ (s.xr b).toNat)
    (hext : s.me.ext = none) (htr : s.translate s.ag .write (s.xr b).toNat = .ok (.fmt g pa o, u)) :
    Traps i s Cause.FORMAT_ATOMIC (s.xr b) := by
  have hcheck : s.accCheck .write (b == 2) (s.xr b) (amoBits w / 8) (amoBits w / 8) = .ok (.fmt g pa o, u) := by
    rw [accCheck_ok hal (fun h => hstk (beq_iff_eq.1 h)) (.inl (awaited_none hext)), place_global hg, htr]; rfl
  rw [Traps, hexec, instr_ready hr, State.amo]
  simp only [State.rmw, hcheck, bind, Except.bind]
  exact finish_fault _ _

end Sys2Proof.Machine
end

section
open Sys2Proof Sys2Proof.Machine

/-- Settles O25: all atomics have the effect of R158, which is a check, a read and a write step at one of three kinds of place; they
differ in the new value and in the extension of the old one. -/
theorem scratchpadAtomics : Obligations.ScratchpadAtomics := by
  unfold Obligations.ScratchpadAtomics
  intro p w d a c e s hcan hu n z x y sx zx
  refine ⟨fun hr => ⟨?_, ?_, ?_, ?_, ?_, ?_, ?_, ?_, ?_⟩, fun hr => ?_, fun hr => ?_, fun hr f pa o u hal hstk hg hext htr i hi => ?_⟩
  · exact atomic_of_amo (op := .add) (e := 0) rfl hr hcan hu
  · exact atomic_of_amo (op := .and) (e := 0) rfl hr hcan hu
  · exact atomic_of_amo (op := .or) (e := 0) rfl hr hcan hu
  · exact atomic_of_amo (op := .xor) (e := 0) rfl hr hcan hu
  · exact atomic_of_amo (op := .min) (e := 0) rfl hr hcan hu
  · exact atomic_of_amo (op := .max) (e := 0) rfl hr hcan hu
  · exact atomic_of_amo (op := .minu) (e := 0) rfl hr hcan hu
  · exact atomic_of_amo (op := .maxu) (e := 0) rfl hr hcan hu
  · exact atomic_of_amo (op := .swap) (e := 0) rfl hr hcan hu
  · exact atomic_of_amo (op := .fadd) (w := false) (e := 0) rfl hr hcan hu
  · exact atomic_of_amo (op := .cas) rfl hr hcan hu
  · have hform : ∃ op, exec i s = s.amo3 op p w d a c := by
      simp only [List.mem_cons, List.not_mem_nil, or_false] at hi
      rcases hi with rfl | rfl | rfl | rfl | rfl | rfl | rfl | rfl | rfl
      all_goals exact ⟨_, rfl⟩
    obtain ⟨op, hexec⟩ := hform
    exact amo_traps_format hexec hr hal hstk hg hext htr
end

section
/-! SUPPORT. Fences and prefetches (R161 to R163, R165): what they wait for, and what a hint leaves as it is. -/

namespace Sys2Proof.Machine

variable {s t u : State} {near : Nat → Prop} {a n : BitVec 5} {ls : List Nat}

/-! Fences. -/

theorem fenceImem_waits (h : s.me.storing = true ∨ s.me.extOut = true) : exec .fenceImem s = .next (s.setWait .other) := by
  change execFenceImem s = _
  rw [execFenceImem, instr_nil, if_pos (by simpa using h), finish_waiting]

/-- With no store outstanding the instruction buffer is emptied, and the context's fetches follow its time (R162). -/
theorem fenceImem_retires (hst : s.me.storing = false) (hout : s.me.extOut = false) :
    Retires .fenceImem s 4 ((s.updMe fun x => { x with ifence := x.pts }).updCore fun c => { c with ibuf := [] }) := by
  rw [Retires]
  change execFenceImem s = _
  rw [execFenceImem, instr_nil, if_neg (by simp [hst, hout]), finish_goes]

theorem fenceExt_retires (hout : s.me.extOut = false) (hload : s.me.loading = 0) : Retires .fenceExt s 4 s := by
  rw [Retires]
  change execFenceExt s = _
  rw [execFenceExt, instr_nil, if_neg (by simp [hout, hload]), finish_goes]

/-! Prefetches. -/

/-- An address of no global memory names no line. -/
theorem hintLines_local {k : Acc} {v : Word} (h : v.toNat < 2 ^ 32) : s.hintLines k v = none := if_pos h

/-- The translation of a hint changes neither cores nor memory. -/
theorem hintLines_alike {k : Acc} {v : Word} (h : s.hintLines k v = some (ls, t)) : s.Alike (fun _ => True) t := by
  have hwalk : ∀ {p u}, s.translate s.ag k v.toNat = .ok (p, u) →
      s.Alike (fun _ => True) { u with walked := s.walked, walkTs := s.walkTs } := fun htr =>
    (State.Alike.translate (fun _ => trivial) htr).trans (.of_cores rfl rfl rfl rfl rfl rfl)
  unfold State.hintLines at h
  split at h
  · cases h
  · split at h
    · next htr =>
      dsimp only at h
      split at h
      · split at h <;> cases h
        exact hwalk htr
      · cases h
        exact hwalk htr
      · cases h
    · cases h

theorem hintFill_alike (s : State) (q : BitVec 64) (l : Nat) : s.Alike (fun _ => True) (s.hintFill q l).2 :=
  (State.Alike.lookHome (fun _ => trivial) s _ _ _).trans (.homeRead (fun _ _ => trivial) _ _ _)

/-- No register and no byte of memory changes. -/
def State.Hinted (s t : State) : Prop := t.me = s.me ∧ t.mem = s.mem ∧ ∀ k, (t.coreAt k).pool = (s.coreAt k).pool

theorem State.Hinted.of_alike (h : s.Alike near t) : s.Hinted t := ⟨h.me_eq, h.mem, fun k => by rw [h.coreAt_eq k]⟩

/-- A line in the instruction buffer is no change of either. -/
theorem State.Hinted.buffered (h : s.Hinted t) (f : Core → List ILine) : s.Hinted (t.updCore fun c => { c with ibuf := f c }) := by
  obtain ⟨hme, hmem, hpool⟩ := h
  refine ⟨?_, hmem, fun k => ?_⟩
  · rw [← hme, State.me, State.core_updCore]; rfl
  · rw [← hpool k, coreAt_updCore]
    split <;> rfl

theorem dpref_local {lv : Bool} (hr : s.ready [.x a]) (h : (s.xr a).toNat < 2 ^ 32) : Retires (.dpref lv a) s 4 s := by
  rw [Retires]
  change execDpref lv a s = _
  rw [execDpref, instr_ready hr, hintLines_local h, finish_goes]

theorem ipref_local (hr : s.ready [.x a]) (h : (s.xr a).toNat < 2 ^ 32) : Retires (.ipref a) s 4 s := by
  rw [Retires]
  change execIpref a s = _
  rw [execIpref, instr_ready hr, hintLines_local h, finish_goes]

theorem dpref_hints (lv : Bool) (hr : s.ready [.x a]) : ∃ t, Retires (.dpref lv a) s 4 t ∧ s.Hinted t := by
  simp only [Retires]
  change ∃ t, execDpref lv a s = _ ∧ _
  rw [execDpref, instr_ready hr]
  cases hl : s.hintLines .read (s.xr a) with
  | none => exact ⟨s, finish_goes, .of_alike (near := fun _ => True) (.refl s)⟩
  | some r =>
    refine ⟨_, finish_goes, .of_alike ((hintLines_alike hl).trans (.foldl (fun t i => ?_) r.1 r.2))⟩
    split
    · exact .lookHome (fun _ => trivial) t _ _ _
    · exact hintFill_alike t _ i

theorem ipref_hints (hr : s.ready [.x a]) : ∃ t, Retires (.ipref a) s 4 t ∧ s.Hinted t := by
  simp only [Retires]
  change ∃ t, execIpref a s = _ ∧ _
  rw [execIpref, instr_ready hr]
  cases hl : s.hintLines .fetch (s.xr a) with
  | none => exact ⟨s, finish_goes, .of_alike (near := fun _ => True) (.refl s)⟩
  | some r =>
    obtain ⟨_ | ⟨l, ls⟩, t⟩ := r
    · exact ⟨s, finish_goes, .of_alike (near := fun _ => True) (.refl s)⟩
    · refine ⟨_, finish_goes, ?_⟩
      have hfill : s.Hinted (t.hintFill t.me.pts l).2 := .of_alike ((hintLines_alike hl).trans (hintFill_alike t _ l))
      dsimp only
      split
      · exact hfill.buffered _
      · exact hfill

end Sys2Proof.Machine
end

section
/-! SUPPORT. discard of rows of the scratchpad (R164, R259): a row is zeroed by a bump of its generation. -/

namespace Sys2Proof.Machine

variable {s t u : State} {a : Word}

/-- The core `c`, with what a discard of rows may change taken from `d`. -/
def Core.bumpedAs (c d : Core) : Core :=
  { c with ctxs := d.ctxs, pool := d.pool, written := d.written, rowGen := d.rowGen, wbuf := d.wbuf, cnt := d.cnt }

/-- Rows of the executing core are discarded: of its core only what `bumpedAs` names changes, of its context only the time. -/
structure State.Bumped (s t : State) : Prop where
  cur : t.cur = s.cur
  ctx : t.ctx = s.ctx
  me : t.me = { s.me with pts := t.me.pts }
  ctxs : ∀ j, j ≠ s.ctx → t.core.ctxAt j = s.core.ctxAt j
  core : t.core = s.core.bumpedAs t.core
  others : ∀ k, k ≠ s.cur → t.coreAt k = s.coreAt k
  mem : t.mem = s.mem

namespace State.Bumped

theorem trans (h : s.Bumped t) (h' : t.Bumped u) : s.Bumped u where
  cur := h'.cur.trans h.cur
  ctx := h'.ctx.trans h.ctx
  me := (h'.me.trans (congrArg (fun x : Ctx => { x with pts := u.me.pts }) h.me :)).trans rfl
  ctxs j hj := (h'.ctxs j (by rwa [h.ctx])).trans (h.ctxs j hj)
  core := (h'.core.trans (congrArg (Core.bumpedAs · u.core) h.core :)).trans rfl
  others k hk := (h'.others k (by rwa [h.cur])).trans (h.others k hk)
  mem := h'.mem.trans h.mem

theorem of_alike (h : s.Alike (· = s.cur) t) : s.Bumped t where
  cur := h.cur
  ctx := h.ctx
  me := by rw [h.me_eq]
  ctxs j _ := h.ctxAt_eq j
  core := by rw [h.core_eq]; rfl
  others k hk := h.others k hk
  mem := h.mem

theorem setPts (s : State) (q : BitVec 64) : s.Bumped (s.updMe fun x => { x with pts := q }) where
  cur := rfl
  ctx := rfl
  me := by rw [State.me_updMe]
  ctxs j hj := by rw [State.core_updMe, Core.ctxAt_setCtx_ne _ _ hj]
  core := by rw [State.core_updMe]; rfl
  others k hk := State.coreAt_setCoreAt_ne _ _ hk
  mem := rfl

theorem bumpRows (s : State) (lo hi : Nat) : s.Bumped (s.updCore fun c => c.bumpRows lo hi) := by
  have hcore := State.core_updCore s fun c => c.bumpRows lo hi
  exact
    { cur := rfl
      ctx := rfl
      me := by rw [State.me, hcore]; rfl
      ctxs := fun j _ => by rw [hcore]; rfl
      core := by rw [hcore]; rfl
      others := fun k hk => State.coreAt_setCoreAt_ne _ _ hk
      mem := rfl }

theorem xr (h : s.Bumped t) (r : BitVec 5) : t.xr r = s.xr r := by rw [State.xr, h.me]; rfl

theorem keeps (h : s.Bumped t) : s.keeps t := by
  have own : ∀ {α : Type} (f : Ctx → α), (∀ x q, f { x with pts := q } = f x) → f t.me = f s.me := fun f hf => by rw [h.me, hf]
  have coreOwn : ∀ {α : Type} (f : Core → α), (∀ c d, f (Core.bumpedAs c d) = f c) → f t.core = f s.core := fun f hf => by
    rw [h.core, hf]
  refine ⟨⟨h.cur, h.ctx, fun n => own (Ctx.getM · n) ?_, fun n => own (Ctx.getH · n) ?_, fun n => own (Ctx.getC · n) ?_,
    own Ctx.pc ?_, own Ctx.rrb ?_, own Ctx.trapvec ?_, own Ctx.epc ?_, own Ctx.cause ?_, own Ctx.tval ?_, own Ctx.tstep ?_,
    own Ctx.tin ?_, own Ctx.stacklim ?_, own Ctx.istat ?_, coreOwn Core.partw ?_, coreOwn Core.decla ?_, coreOwn Core.declb ?_,
    coreOwn Core.flags ?_, coreOwn Core.mxsat ?_, coreOwn Core.kcause ?_, h.ctxs⟩, h.others, fun b => by rw [h.mem]⟩
  all_goals exact fun _ _ => rfl

end State.Bumped

/-- One row is zeroed, and its generation advances by one. -/
theorem zeroLine_pool (s : State) (off : Nat) (a : Word) : ∃ t, s.zeroLine (.pool off) a = .ok t ∧ s.Bumped t ∧
    t.core.pool = Table.clear s.core.pool (128 * (off / 128)) (128 * (off / 128 + 1)) ∧
    t.core.rowGen = Table.put s.core.rowGen (off / 128) (Table.get 0 s.core.rowGen (off / 128) + 1) := by
  refine ⟨_, rfl, ?_⟩
  generalize hq : s.stampWrite s.ag (rowKey s.cur (off / 128)) s.me.pts = q
  have hstamp : s.Alike (· = s.cur) q.2 := by
    rw [← hq]
    refine .stampWrites (req_ag s) (fun l hl hlow => ?_) s _
    rw [List.mem_singleton.1 hl, rowKey, hbmEnd] at hlow
    omega
  generalize hv : q.2.updMe (fun x => { x with pts := q.1 }) = v
  have hpts : q.2.Bumped v := by rw [← hv]; exact .setPts q.2 q.1
  have hcore : v.core.pool = s.core.pool ∧ v.core.rowGen = s.core.rowGen := by
    rw [← hv, State.core_updMe, hstamp.core_eq]; exact ⟨rfl, rfl⟩
  have hdirty : (v.updCore fun c => c.bumpRows (off / 128) (off / 128 + 1)).Alike
      (· = (v.updCore fun c => c.bumpRows (off / 128) (off / 128 + 1)).cur)
      ((v.updCore fun c => c.bumpRows (off / 128) (off / 128 + 1)).dirtySegs
        (v.updCore fun c => c.bumpRows (off / 128) (off / 128 + 1)).cur off 128) := .dirtyRows _ _ _
  refine ⟨((State.Bumped.of_alike hstamp).trans hpts).trans ((State.Bumped.bumpRows v _ _).trans (.of_alike hdirty)), ?_, ?_⟩
  · rw [hdirty.core_eq, State.core_updCore, ← hcore.1]; rfl
  · rw [hdirty.core_eq, State.core_updCore, ← hcore.2]
    simp [Core.bumpRows]

/-- Rows are zeroed one after another. -/
theorem zeroLines_pool (ls : List (Nat × Word)) (s : State) (hwf : s.core.pool.wf = true) :
    ∃ t, s.zeroLines (ls.map fun l => (.pool l.1, l.2)) = .ok t ∧ s.Bumped t ∧
      (∀ b, t.core.pool.read b = if b / 128 ∈ ls.map (fun l => l.1 / 128) then 0 else s.core.pool.read b) ∧
      ∀ r, Table.get 0 t.core.rowGen r = Table.get 0 s.core.rowGen r + (ls.map fun l => l.1 / 128).count r := by
  induction ls generalizing s with
  | nil => exact ⟨s, rfl, .of_alike (.refl s), fun b => by simp, fun r => by simp⟩
  | cons l ls ih =>
    obtain ⟨t, hzero, hbump, hpool, hgen⟩ := zeroLine_pool s l.1 l.2
    obtain ⟨u, hzeros, hbumps, hpools, hgens⟩ := ih t (by rw [hpool]; exact Memory.wf_clear _ _ hwf)
    refine ⟨u, ?_, hbump.trans hbumps, fun b => ?_, fun r => ?_⟩
    · simp only [List.map_cons, State.zeroLines, hzero, bind, Except.bind, hzeros]
    · have hrow : (128 * (l.1 / 128) ≤ b ∧ b < 128 * (l.1 / 128 + 1)) ↔ b / 128 = l.1 / 128 := by omega
      rw [hpools, hpool, Memory.read_clear _ _ _ hwf]
      simp only [List.map_cons, List.mem_cons, hrow]
      by_cases hb : b / 128 = l.1 / 128
      · simp only [hb, true_or, if_true, ite_self]
      · simp only [hb, false_or, if_false]
    · rw [hgens, hgen, List.map_cons, List.count_cons]
      by_cases hr : r = l.1 / 128
      · subst hr
        rw [Table.get_put_same, if_pos (beq_self_eq_true _), Nat.cast_add, Nat.cast_one, BitVec.add_assoc, BitVec.add_comm 1]
      · rw [Table.get_put_ne _ _ _ hr, if_neg (by simpa using Ne.symm hr), Nat.add_zero]

end Sys2Proof.Machine
end

section
/-! SUPPORT. discard (R164): its checks, and the lines that it zeroes, in the scratchpad and at global addresses. -/

namespace Sys2Proof.Machine

variable {s t u v : State} {near : Nat → Prop} {a n : BitVec 5} {ps : List (Place × Word)} {ls : List Word} {i : Nat}

/-! The checks. -/

section
variable (hr : s.ready [.x a, .x n])
include hr

theorem discard_empty (h : s.xr n = 0) : Retires (.discard a n) s 4 s := by
  rw [Retires]
  change execDiscard a n s = _
  rw [execDiscard, instr_ready hr, if_pos h, finish_goes]

theorem discard_misaligned_base (h0 : s.xr n ≠ 0) (h : (s.xr a).toNat % 128 ≠ 0) : Traps (.discard a n) s Cause.MISALIGNED (s.xr a) := by
  rw [Traps]
  change execDiscard a n s = _
  rw [execDiscard, instr_ready hr, if_neg h0, if_pos h, finish_fault]

variable (h0 : s.xr n ≠ 0) (hbase : (s.xr a).toNat % 128 = 0)
include h0 hbase

theorem discard_misaligned_end (h : (s.xr n).toNat % 128 ≠ 0) : Traps (.discard a n) s Cause.MISALIGNED (s.xr a + s.xr n) := by
  rw [Traps]
  change execDiscard a n s = _
  rw [execDiscard, instr_ready hr, if_neg h0, if_neg (not_not.2 hbase), if_pos h, finish_fault]

theorem discard_range (hlen : (s.xr n).toNat % 128 = 0)
    (h : 65536 < (s.xr n).toNat ∨ ((s.xr a).toNat < 2 ^ 18 ∧ 2 ^ 18 < (s.xr a).toNat + (s.xr n).toNat) ∨
      ((s.xr a).toNat < 2 ^ 32 ∧ 2 ^ 32 < (s.xr a).toNat + (s.xr n).toNat)) :
    Traps (.discard a n) s Cause.DISCARD_RANGE (s.xr n) := by
  rw [Traps]
  change execDiscard a n s = _
  rw [execDiscard, instr_ready hr, if_neg h0, if_neg (not_not.2 hbase), if_neg (not_not.2 hlen), if_pos h, finish_fault]

/-- Past the checks of its range it checks every line, waits for what they wait for, and zeroes them. -/
theorem discard_retires (hlen : (s.xr n).toNat % 128 = 0)
    (hrange : ¬(65536 < (s.xr n).toNat ∨ ((s.xr a).toNat < 2 ^ 18 ∧ 2 ^ 18 < (s.xr a).toNat + (s.xr n).toNat) ∨
      ((s.xr a).toNat < 2 ^ 32 ∧ 2 ^ 32 < (s.xr a).toNat + (s.xr n).toNat)))
    (hcheck : s.discardCheck (linesOf (s.xr a) (s.xr n).toNat) = .ok (ps, u)) (hready : u.discardReady ps = .ok v)
    (hzero : v.zeroLines ps = .ok t) : Retires (.discard a n) s 4 t := by
  rw [Retires]
  change execDiscard a n s = _
  rw [execDiscard, instr_ready hr, if_neg h0, if_neg (not_not.2 hbase), if_neg (not_not.2 hlen), if_neg hrange, hcheck]
  simp only [bind, Except.bind, hready, hzero, andGoes, finish_next]
end

/-- The length of up to 512 lines. -/
theorem word_lines (h : i ≤ 512) : (word (128 * i)).toNat = 128 * i := by
  rw [word, BitVec.toNat_ofNat]
  exact Nat.mod_eq_of_lt (by omega)

theorem ne_zero_of_lines {x : Word} (h0 : 0 < i) (h : i ≤ 512) (hx : x = word (128 * i)) : x ≠ 0 := fun e => by
  have hzero : (word (128 * i)).toNat = 0 := by rw [← hx, e]; rfl
  rw [word_lines h] at hzero
  omega

theorem linesOf_eq (x : Word) (i : Nat) : linesOf x (128 * i) = (List.range i).map fun j => x + word (128 * j) := by
  rw [linesOf, Nat.mul_div_cancel_left i (by decide)]

/-! Rows. -/

theorem discardCheck_pool (h : ∀ l ∈ ls, s.padOk false true false l 128) :
    s.discardCheck ls = .ok (ls.map fun l => (.pool l.toNat, l), s) := by
  induction ls with
  | nil => rfl
  | cons l ls ih =>
    have hplace : s.place s.ag .write l.toNat 128 = .ok (.pool l.toNat, s) := place_pad (h l List.mem_cons_self)
    have hrest := ih fun m hm => h m (List.mem_cons_of_mem l hm)
    simp only [State.discardCheck, hplace, liftTrap, bind, Except.bind, hrest, List.map_cons]

/-- Lines that wait for nothing change nothing before they are zeroed. -/
theorem discardReady_ok (h : ∀ q ∈ ps, s.accReady false true q.1 q.2 128 = .ok s) : s.discardReady ps = .ok s := by
  induction ps with
  | nil => rfl
  | cons q ps ih =>
    simp only [State.discardReady, h q List.mem_cons_self, bind, Except.bind, ih fun r hr => h r (List.mem_cons_of_mem q hr)]

/-- The rows of the scratchpad that a discard zeroes (R164). -/
theorem discardRows (hr : s.ready [.x a, .x n]) (hi0 : 0 < i) (hi : i ≤ 512) (hlen : s.xr n = word (128 * i)) (hcan : s.canonical) :
    DiscardRows s a n i := by
  intro hbase hpad
  set base := (s.xr a).toNat
  have hlen' : (s.xr n).toNat = 128 * i := by rw [hlen, word_lines hi]
  -- no address of a line wraps around
  have hfirst : base < 2 ^ 18 := by
    have h := (hpad 0 hi0).2.2.1
    rwa [show s.xr a + word (128 * 0) = s.xr a from BitVec.add_zero _] at h
  have hline : ∀ j, j < i → (s.xr a + word (128 * j)).toNat = base + 128 * j := fun j hj => by
    rw [BitVec.toNat_add, word_lines (by omega)]
    exact Nat.mod_eq_of_lt (show base + 128 * j < 2 ^ 64 by omega)
  have hlast : base + 128 * i ≤ 2 ^ 18 := by
    have h := (hpad (i - 1) (by omega)).2.2.1
    rw [hline _ (by omega)] at h
    omega
  have hrows : ((List.range i).map fun j => (s.xr a + word (128 * j)).toNat / 128) = (List.range i).map fun j => base / 128 + j :=
    List.map_congr_left fun j hj => by rw [hline j (List.mem_range.1 hj)]; omega
  have hmem : ∀ l ∈ (List.range i).map (fun j => s.xr a + word (128 * j)), s.padOk false true false l 128 := fun l hl => by
    obtain ⟨j, hj, rfl⟩ := List.mem_map.1 hl
    exact hpad j (List.mem_range.1 hj)
  generalize hls : (List.range i).map (fun j => s.xr a + word (128 * j)) = ls at hmem
  obtain ⟨t, hzero, hbump, hpool, hgen⟩ := zeroLines_pool (ls.map fun l => (l.toNat, l)) s (hcan.2 s.cur)
  have hrows' : ((ls.map fun l => (l.toNat, l)).map fun l => l.1 / 128) = (List.range i).map fun j => base / 128 + j := by
    rw [← hrows, ← hls, List.map_map, List.map_map]; rfl
  rw [List.map_map] at hzero
  refine ⟨t, ?_, fun b => ?_, fun j hj => ?_, hbump.xr, hbump.keeps⟩
  · refine discard_retires hr (ne_zero_of_lines hi0 hi hlen) hbase (by omega) (by omega) (ps := ls.map fun l : Word => (Place.pool l.toNat, l)) (u := s) (v := s) ?_ ?_ hzero
    · rw [hlen', linesOf_eq, hls]
      exact discardCheck_pool hmem
    · refine discardReady_ok fun q hq => ?_
      obtain ⟨l, hl, rfl⟩ := List.mem_map.1 hq
      exact (padOk_ready (hmem l hl)).2
  · rw [hpool, hrows']
    have hin : b / 128 ∈ (List.range i).map (fun j => base / 128 + j) ↔ base ≤ b ∧ b < base + 128 * i := by
      simp only [List.mem_map, List.mem_range]
      constructor
      · rintro ⟨j, hj, hb⟩
        omega
      · intro h
        exact ⟨b / 128 - base / 128, by omega, by omega⟩
    simp only [hin]
  · rw [hgen, hrows', List.count_eq_one_of_mem (List.nodup_range.map fun _ _ h => Nat.add_left_cancel h)
      (List.mem_map.2 ⟨j, List.mem_range.2 hj, rfl⟩)]
    rfl

/-! Lines at global addresses. -/

theorem place_alike {g : Ag} {acc : Acc} {a z : Nat} {p : Place} (h : s.place g acc a z = .ok (p, u)) : s.Alike (fun _ => True) u := by
  unfold State.place at h
  split at h
  · split at h <;> cases h
    exact .refl s
  · split at h
    · cases h
    · exact .translate (fun _ => trivial) h

/-- The checks of a discard change neither cores nor memory. -/
theorem discardCheck_alike (h : s.discardCheck ls = .ok (ps, u)) : s.Alike (fun _ => True) u := by
  induction ls generalizing s ps with
  | nil => cases h; exact .refl _
  | cons l ls ih =>
    obtain ⟨⟨p, t⟩, hplace, hrest⟩ := Run.bind_eq_ok h
    obtain ⟨⟨qs, w⟩, hchecks, hend⟩ := Run.bind_eq_ok hrest
    cases hend
    refine State.Alike.trans ?_ (ih hchecks)
    cases hp : s.place s.ag .write l.toNat 128 with
    | error e => rw [hp] at hplace; cases hplace
    | ok r =>
      rw [hp] at hplace
      cases hplace
      exact place_alike hp

theorem blockBytes_pos (g : GxT) : 0 < g.blockBytes := by cases g <;> decide

/-- Zeros put down: the bytes that they cover read 0, and every other byte as before. -/
theorem read_putZeros {m : Memory} (h : m.wf = true) (a n b : Nat) :
    (m.putBytes a (List.replicate n 0)).read b = if a ≤ b ∧ b < a + n then 0 else m.read b := by
  induction n generalizing m a with
  | zero => rw [if_neg (by omega)]; rfl
  | succ n ih =>
    rw [List.replicate_succ, Memory.putBytes, ih (Memory.wf_write _ _ h)]
    by_cases hb : b = a
    · rw [if_neg (by omega), if_pos (by omega), hb, Memory.read_write_same _ _ h]
    · rw [Memory.read_write_ne _ h hb]
      exact if_congr (by omega) rfl rfl

/-- Memory after a place of one line is zeroed. -/
def Place.ZeroedIn (p : Place) (m m' : Memory) : Prop :=
  m'.wf = true ∧ (∀ b, p.lineHas b → m'.read b = 0) ∧ ∀ b, ¬p.lineHas b → m'.read b = m.read b

/-- A write step of zeros to device memory. -/
theorem ctxWrite_zeros {pa z : Nat} (s : State) (l : Word) (hz : 0 < z) (hext : isExternal pa = false) :
    ∃ t, s.ctxWrite (.phys pa) l (List.replicate z (some 0)) = .ok t ∧
      s.Wrote (fun _ => True) 0 s.core.pool (s.mem.putBytes pa (List.replicate z 0)) t := by
  have hne : List.replicate z (0 : Byte) ≠ [] := List.ne_nil_of_length_pos (by rwa [List.length_replicate])
  obtain ⟨q, u, hplace, hu⟩ := writePlace_phys s l.toNat (s.joinWalks s.me.pts) hne hext
  rw [← List.map_replicate]
  exact ctxWrite_of_writePlace (by simp [Place.ext?, hext]) hplace hu

/-- A line of device memory, or of a format page, is zeroed. -/
theorem zeroLine_device {p : Place} (s : State) (l : Word) (hp : p.device) (hwf : s.mem.wf = true) :
    ∃ t m, s.zeroLine p l = .ok t ∧ p.ZeroedIn s.mem m ∧ s.Wrote (fun _ => True) 0 s.core.pool m t := by
  cases p with
  | phys pa =>
    obtain ⟨t, ht, hw⟩ := ctxWrite_zeros s l (show 0 < 128 by decide) hp
    exact ⟨t, _, ht, ⟨Memory.wf_putBytes _ _ hwf, fun b hb => (read_putZeros hwf _ _ b).trans (if_pos hb),
      fun b hb => (read_putZeros hwf _ _ b).trans (if_neg hb)⟩, hw⟩
  | fmt g pa o =>
    obtain ⟨t, ht, hw⟩ := ctxWrite_zeros (z := 2 * g.blockBytes) s l (by have := blockBytes_pos g; omega) hp
    exact ⟨t, _, ht, ⟨Memory.wf_putBytes _ _ hwf, fun b hb => (read_putZeros hwf _ _ b).trans (if_pos hb),
      fun b hb => (read_putZeros hwf _ _ b).trans (if_neg hb)⟩, hw⟩
  | pool off => exact hp.elim
  | ctl pa => exact hp.elim

/-- Lines are zeroed one after another. -/
theorem zeroLines_device (ps : List (Place × Word)) (s : State) (hdev : ∀ q ∈ ps, q.1.device) (hwf : s.mem.wf = true) :
    ∃ t m, s.zeroLines ps = .ok t ∧ (∀ b, (∃ q ∈ ps, q.1.lineHas b) → m.read b = 0) ∧
      (∀ b, (∀ q ∈ ps, ¬q.1.lineHas b) → m.read b = s.mem.read b) ∧ s.Wrote (fun _ => True) 0 s.core.pool m t := by
  induction ps generalizing s with
  | nil => exact ⟨s, s.mem, rfl, fun b ⟨q, hq, _⟩ => absurd hq List.not_mem_nil, fun _ _ => rfl, .of_quiet (.refl s)⟩
  | cons q ps ih =>
    obtain ⟨t, m, hzero, ⟨hm, hin, hout⟩, hw⟩ := zeroLine_device s q.2 (hdev q List.mem_cons_self) hwf
    obtain ⟨u, m', hzeros, hins, houts, hws⟩ := ih t (fun r hr => hdev r (List.mem_cons_of_mem q hr)) (by rw [hw.mem]; exact hm)
    rw [hw.mem] at houts
    rw [hw.pool] at hws
    refine ⟨u, m', ?_, fun b ⟨r, hr, hb⟩ => ?_, fun b hb => ?_, hw.trans hws⟩
    · simp only [State.zeroLines, hzero, bind, Except.bind, hzeros]
    · by_cases hlater : ∃ r ∈ ps, r.1.lineHas b
      · exact hins b hlater
      · rcases List.mem_cons.1 hr with rfl | hr
        · rw [houts b fun x hx h => hlater ⟨x, hx, h⟩, hin b hb]
        · exact absurd ⟨r, hr, hb⟩ hlater
    · rw [houts b fun r hr => hb r (List.mem_cons_of_mem q hr), hout b (hb q List.mem_cons_self)]

/-- No place inside the device has an answer to wait for. -/
theorem ext_of_device {p : Place} (h : p.device) : p.ext? = none := by
  cases p with
  | phys pa =>
    have hin : isExternal pa = false := h
    simp [Place.ext?, hin]
  | _ => rfl

/-- The lines of device memory and of format pages that a discard zeroes (R164). -/
theorem discardLines (hr : s.ready [.x a, .x n]) (hi0 : 0 < i) (hi : i ≤ 512) (hlen : s.xr n = word (128 * i)) (hcan : s.canonical) :
    DiscardLines s a n i := by
  intro pl hbase hg hst ⟨u, hcheck⟩ hok
  set ls := linesOf (s.xr a) (128 * i)
  have hlen' : (s.xr n).toNat = 128 * i := by rw [hlen, word_lines hi]
  have hwalk := discardCheck_alike hcheck
  obtain ⟨t, m, hzero, hin, hout, hw⟩ := zeroLines_device (ls.map fun l => (pl l, l)) u
    (fun q hq => by
      obtain ⟨l, hl, rfl⟩ := List.mem_map.1 hq
      exact (hok l hl).1)
    (by rw [hwalk.mem]; exact hcan.1)
  have hall := hw.after_quiet (.of_alike hwalk)
  have hready : u.discardReady (ls.map fun l => (pl l, l)) = .ok u := discardReady_ok fun q hq => by
    obtain ⟨l, hl, rfl⟩ := List.mem_map.1 hq
    obtain ⟨hdev, hwatch, hcard⟩ := hok l hl
    obtain ⟨hw, hc, hs⟩ := held_of_alike (rd := false) (wr := true) (a := l) (n := 128) hwalk
    rw [accReady_gate (hw.trans hwatch) (hc.trans hcard) (.inr (hs.trans hst)), extGate_inside (ext_of_device hdev)]
  refine ⟨t, ?_, fun b ⟨l, hl, hb⟩ => ?_, fun b hb => ?_, fun b => ?_, xr_of_x hall.x, ?_, hall.keepsFar⟩
  · refine discard_retires hr (ne_zero_of_lines hi0 hi hlen) hbase (by omega) (by omega) ?_ hready hzero
    · rw [hlen']; exact hcheck
  · rw [hall.mem]
    exact hin b ⟨_, List.mem_map.2 ⟨l, hl, rfl⟩, hb⟩
  · rw [hall.mem, hout b fun q hq => by
      obtain ⟨l, hl, rfl⟩ := List.mem_map.1 hq
      exact hb l hl, hwalk.mem]
  · rw [hall.pool, hwalk.core_eq]
  · rw [hall.fpflags, or_no_flag]

end Sys2Proof.Machine
end

section
open Sys2Proof Sys2Proof.Machine

/-- Settles O26: fences and prefetches by their own meaning; a discard by its checks, and by the lines zeroed one after another, of
which the single row of the scratchpad is the first case. -/
theorem memoryControl : Obligations.MemoryControl := by
  unfold Obligations.MemoryControl
  intro lv a n s
  refine ⟨fenceImem_waits, fenceImem_retires, fenceExt_retires,
    fun hr => ⟨fun hlow => ⟨dpref_local hr hlow, ipref_local hr hlow⟩, dpref_hints lv hr, ipref_hints hr⟩,
    fun hr => ⟨discard_empty hr, discard_misaligned_base hr, fun hcan hlen hpad => ?_,
      fun h0 hbase => ⟨discard_misaligned_end hr h0 hbase, discard_range hr h0 hbase⟩,
      fun i hi0 hi hlen hcan => ⟨discardRows hr hi0 hi hlen hcan, discardLines hr hi0 hi hlen hcan⟩⟩⟩
  obtain ⟨t, hret, hpool, hgen, hrest⟩ := discardRows (i := 1) hr (by decide) (by decide) hlen hcan hpad.1 fun j hj => by
    rw [Nat.lt_one_iff.1 hj, show s.xr a + word (128 * 0) = s.xr a from BitVec.add_zero _]
    exact hpad
  exact ⟨t, hret, hpool, hgen 0 (by decide), hrest⟩
end

section
/-! SUPPORT. The instructions of futures (R183, R185 to R188): their meaning where the handle is live, and where it is not. -/

namespace Sys2Proof.Machine

variable {s : State} {d a : BitVec 5} {h : BitVec 4} {i n : Nat} {f : Future} {c : Card}

theorem exec_fwait (d : BitVec 5) (h : BitVec 4) (s : State) : exec (.fwait d h) s = execFwait d h s := rfl
theorem exec_ftest (d : BitVec 5) (h : BitVec 4) (s : State) : exec (.ftest d h) s = execFtest d h s := rfl
theorem exec_fcancel (h : BitVec 4) (s : State) : exec (.fcancel h) s = execFcancel h s := rfl
theorem exec_fwaitany (d a : BitVec 5) (s : State) : exec (.fwaitany d a) s = execFwaitany d a s := rfl
theorem exec_fmovx (d : BitVec 5) (h : BitVec 4) (s : State) : exec (.fmovx d h) s = execFmovx d h s := rfl
theorem exec_xmovf (h : BitVec 4) (a : BitVec 5) (s : State) : exec (.xmovf h a) s = execXmovf h a s := rfl
theorem exec_fenceCards (s : State) : exec .fenceCards s = execFenceCards s := rfl

/-! fwait. -/

/-- CAUSE is the low byte of the status word (R183). -/
theorem cause_status (hc : f.complete = true) : f.status.extractLsb' 0 8 = f.cause := by
  apply BitVec.eq_of_toNat_eq
  have hcause := f.cause.isLt
  simp only [Future.status, hc, Bool.not_true, Bool.false_eq_true, if_false, word, BitVec.extractLsb'_toNat, BitVec.toNat_ofNat,
    Nat.shiftRight_zero]
  split <;> split <;> split <;> split <;> omega

/-- The entry of a wait is freed, and the context follows the completion (R185, R191). -/
def State.freed (s : State) (i : Nat) (f : Future) : State := (s.updCore fun co => co.freeFut i).follow f.pts

section
variable (hr : s.ready [.x d, .h h]) (hw : ∀ g r, s.me.wait ≠ .fut g (some r))
include hr hw

theorem fwait_stale (hlive : s.core.liveFut (s.hr h) = none) : Traps (.fwait d h) s Cause.FUTURE_STALE ((s.hr h).setWidth 64) := by
  rw [Traps, exec_fwait, execFwait, instr_ready hr]
  simp only [hlive]
  split
  · next g _ _ _ hwait => exact absurd hwait (hw g _)
  · rfl

/-- With its handle live, and no status taken before, it looks at the entry. -/
theorem fwait_live (hlive : s.core.liveFut (s.hr h) = some (i, f)) : exec (.fwait d h) s = s.finish 4
    (if f.complete then fwaitDone (s.freed i f) d f.status f.tval else .error (.wait s (.fut (s.hr h) none))) := by
  rw [exec_fwait, execFwait, instr_ready hr]
  simp only [hlive]
  split
  · next g _ _ _ hwait => exact absurd hwait (hw g _)
  · rfl

variable (hlive : s.core.liveFut (s.hr h) = some (i, f))
include hlive

theorem fwait_waits (hc : f.complete = false) : exec (.fwait d h) s = .next (s.setWait (.fut (s.hr h) none)) := by
  rw [fwait_live hr hw hlive, if_neg (by rw [hc]; exact Bool.false_ne_true), finish_wait]

theorem fwait_status (hc : f.complete = true) (hd : d ≠ 0) : Retires (.fwait d h) s 4 ((s.freed i f).setX d f.status) := by
  rw [Retires, fwait_live hr hw hlive, if_pos hc, fwaitDone, if_pos hd, finish_goes]

theorem fwait_success (hc : f.complete = true) (hd : d = 0) (hcause : f.cause = 0) : Retires (.fwait d h) s 4 (s.freed i f) := by
  rw [Retires, fwait_live hr hw hlive, if_pos hc, fwaitDone, if_neg (not_not.2 hd), cause_status hc, if_neg (not_not.2 hcause), finish_goes]

theorem fwait_failure (hc : f.complete = true) (hd : d = 0) (hcause : f.cause ≠ 0) : exec (.fwait d h) s =
    .next (((s.freed i f).retire false s.me.pc).takeTrap (s.me.pc + 4) f.cause f.tval) := by
  rw [fwait_live hr hw hlive, if_pos hc, fwaitDone, if_neg (not_not.2 hd), cause_status hc, if_pos hcause, finish_trapNext]
  rfl
end

/-! ftest and fcancel. -/

theorem ftest_stale (hr : s.ready [.x d, .h h]) (hlive : s.core.liveFut (s.hr h) = none) :
    Traps (.ftest d h) s Cause.FUTURE_STALE ((s.hr h).setWidth 64) := by
  rw [Traps, exec_ftest, execFtest, instr_ready hr, hlive, finish_fault]

theorem ftest_status (hr : s.ready [.x d, .h h]) (hlive : s.core.liveFut (s.hr h) = some (i, f)) :
    Retires (.ftest d h) s 4 ((if f.complete then s.follow f.pts else s).setX d f.status) := by
  rw [Retires, exec_ftest, execFtest, instr_ready hr, hlive, finish_goes]

theorem fcancel_stale (hr : s.ready [.h h]) (hlive : s.core.liveFut (s.hr h) = none) :
    Traps (.fcancel h) s Cause.FUTURE_STALE ((s.hr h).setWidth 64) := by
  rw [Traps, exec_fcancel, execFcancel, instr_ready hr, hlive, finish_fault]

section
variable (hr : s.ready [.h h]) (hlive : s.core.liveFut (s.hr h) = some (i, f))
include hr hlive

theorem fcancel_without_card (hcard : s.core.cards.find? (fun c => c.slot == i) = none) : Retires (.fcancel h) s 4 s := by
  rw [Retires, exec_fcancel, execFcancel, instr_ready hr]
  simp only [hlive, hcard, finish_goes]

/-- A running card is marked. -/
theorem fcancel_running (hcard : s.core.cards.find? (fun c => c.slot == i) = some c) (hrun : c.running = true) :
    Retires (.fcancel h) s 4 (s.updCard s.cur c.eng c.seq fun k => { k with cancelled := true }) := by
  rw [Retires, exec_fcancel, execFcancel, instr_ready hr]
  simp only [hlive, hcard, hrun, if_true, finish_goes]

/-- A queued card completes. -/
theorem fcancel_queued (hcard : s.core.cards.find? (fun c => c.slot == i) = some c) (hrun : c.running = false) :
    Retires (.fcancel h) s 4 (s.completeCard s.cur { c with cancelled := true } 0 0 false) := by
  rw [Retires, exec_fcancel, execFcancel, instr_ready hr]
  simp only [hlive, hcard, hrun, Bool.false_eq_true, if_false, finish_goes]
end

/-! fwaitany. -/

/-- With nothing selected it writes 16. -/
theorem fwaitany_empty (hr : s.ready [.x d, .x a]) (hsel : ∀ m, m < 16 → (s.xr a).getLsbD m = false) :
    Retires (.fwaitany d a) s 4 (s.setX d 16) := by
  have hnone : (List.range 16).filter (fun m => (s.xr a).getLsbD m) = [] :=
    List.filter_eq_nil_iff.2 fun m hm => by rw [hsel m (List.mem_range.1 hm)]; exact Bool.false_ne_true
  rw [Retires, exec_fwaitany, execFwaitany, instr_ready hr]
  simp only [hnone, List.isEmpty_nil, if_true, finish_goes]

/-- The numbers below 16 that a test selects, around one of them. -/
theorem filter_range_around {p : Nat → Bool} (hn : n < 16) (hp : p n = true) :
    (List.range 16).filter p = (List.range n).filter p ++ n :: (List.range' (n + 1) (15 - n)).filter p := by
  have hsplit : List.range 16 = List.range n ++ n :: List.range' (n + 1) (15 - n) := by
    rw [← List.range'_succ, List.range_eq_range', List.range_eq_range', show 16 = n + (15 - n + 1) by omega]
    simpa using (List.range'_append (s := 0) (m := n) (n := 15 - n + 1) (step := 1)).symm
  rw [hsplit, List.filter_append, List.filter_cons_of_pos hp]

/-- With every selected handle declared and live it writes the first whose card is complete. -/
theorem fwaitany_first (hr : s.ready [.x d, .x a]) (hn : n < 16) (hsel : (s.xr a).getLsbD n = true)
    (hlive : s.core.liveFut (s.hr (BitVec.ofNat 4 n)) = some (i, f)) (hc : f.complete = true)
    (hall : ∀ m, m < 16 → (s.xr a).getLsbD m = true → (s.core.limited = true → m < s.core.handles) ∧
      ∃ j g, s.core.liveFut (s.hr (BitVec.ofNat 4 m)) = some (j, g) ∧ (m < n → g.complete = false)) :
    Retires (.fwaitany d a) s 4 ((s.follow f.pts).setX d (word n)) := by
  have hmem : ∀ m ∈ (List.range 16).filter fun m => (s.xr a).getLsbD m, m < 16 ∧ (s.xr a).getLsbD m = true := fun m hm =>
    ⟨List.mem_range.1 (List.mem_filter.1 hm).1, (List.mem_filter.1 hm).2⟩
  have hdecl : ((List.range 16).filter fun m => (s.xr a).getLsbD m).find?
      (fun m => s.core.limited && decide (s.core.handles ≤ m)) = none := List.find?_eq_none.2 fun m hm => by
    obtain ⟨hm16, hms⟩ := hmem m hm
    simpa using (hall m hm16 hms).1
  have hgood : ((List.range 16).filter fun m => (s.xr a).getLsbD m).find?
      (fun m => (s.core.liveFut (s.hr (BitVec.ofNat 4 m))).isNone) = none := List.find?_eq_none.2 fun m hm => by
    obtain ⟨hm16, hms⟩ := hmem m hm
    obtain ⟨j, g, hg, -⟩ := (hall m hm16 hms).2
    simp [hg]
  have haround := filter_range_around (p := fun m => (s.xr a).getLsbD m) hn hsel
  rw [Retires, exec_fwaitany, execFwaitany, instr_ready hr]
  simp only [hdecl, hgood]
  rw [if_neg (by rw [haround]; simp), haround, List.findSome?_append, List.findSome?_eq_none_iff.2 fun m hm => ?_]
  · simp only [List.findSome?_cons, hlive, hc, if_true, Option.none_or, finish_goes]
  · -- none below `n` is complete
    obtain ⟨hmn, hms⟩ := List.mem_filter.1 hm
    have hmn := List.mem_range.1 hmn
    obtain ⟨j, g, hg, hopen⟩ := (hall m (by omega) hms).2
    simp [hg, hopen hmn]

/-! The moves of handles, and fence.cards. -/

theorem fmovx_retires (hr : s.ready [.x d, .h h]) :
    Retires (.fmovx d h) s 4 (s.setX d (word (s.cur % 2 ^ 14 * 2 ^ 16 + (s.hr h).toNat))) :=
  instr_retires (exec_fmovx d h s) hr rfl

theorem xmovf_retires (hr : s.ready [.h h, .x a]) (hown : (s.xr a).toNat / 2 ^ 16 = s.cur) :
    Retires (.xmovf h a) s 4 (s.setH h ((s.xr a).setWidth 16)) :=
  instr_retires (exec_xmovf h a s) hr (if_neg (not_not.2 hown))

theorem xmovf_foreign (hr : s.ready [.h h, .x a]) (hown : (s.xr a).toNat / 2 ^ 16 ≠ s.cur) :
    Traps (.xmovf h a) s Cause.FUTURE_FOREIGN (s.xr a) := by
  rw [Traps, exec_xmovf, execXmovf, instr_ready hr, if_pos hown, finish_fault]

theorem fenceCards_retires (hcards : ∀ k ∈ s.core.cards, k.poster ≠ s.ctx) :
    Retires .fenceCards s 4 (s.follow (s.core.doneTs fun f => f.poster == s.ctx)) :=
  instr_retires (exec_fenceCards s) ready_nil (if_neg (by simpa using hcards))

end Sys2Proof.Machine
end

section
open Sys2Proof Sys2Proof.Machine

/-- Settles O41, instruction by instruction, each by the state of the entry that its handle names. -/
theorem futureResults : Obligations.FutureResults := by
  unfold Obligations.FutureResults
  intro d a h i n f c s
  refine ⟨fun hr hw => ⟨fwait_stale hr hw, ftest_stale hr, fun hlive => ⟨fwait_waits hr hw hlive, fwait_status hr hw hlive,
      fwait_success hr hw hlive, fwait_failure hr hw hlive, ftest_status hr hlive⟩⟩,
    fun hr => ⟨fcancel_stale hr, fun hlive => ⟨fcancel_without_card hr hlive, fun hcard =>
      ⟨fcancel_running hr hlive hcard, fcancel_queued hr hlive hcard⟩⟩⟩,
    fun hr => ⟨fwaitany_empty hr, fwaitany_first hr⟩, fmovx_retires, fun hr => ⟨xmovf_retires hr, xmovf_foreign hr⟩,
    fenceCards_retires⟩
end

section
/-! SUPPORT. What the completion of a card makes of its core (R191, R202, R211): of its entry, of the rings, and of the h registers. -/

namespace Sys2Proof.Machine

/-- A change of a table's values that a view does not see. -/
theorem Table.get_map_view {α β : Type} {d : α} {g : Nat × α → Nat × α} (v : α → β) (hkey : ∀ p, (g p).1 = p.1)
    (hview : ∀ p, v (g p).2 = v p.2) (t : Table α) (k : Nat) : v (Table.get d (t.map g) k) = v (Table.get d t k) := by
  induction t with
  | nil => rfl
  | cons p t ih =>
    simp only [List.map_cons, Table.get, hkey]
    split
    · rfl
    · split
      · exact hview p
      · exact ih

variable {s : State} {co : Core} {c x : Card} {f : Future} {i j : Nat} {e eng pqfull : Bool} {cause : BitVec 8} {tval : Word}

@[simp] theorem Core.fut_setFut : (co.setFut i f).fut i = f := Table.get_put_same _ _ _ _

theorem Core.ring_setRing (l : List Card) : (co.setRing e l).ring eng = if eng = e then l else co.ring eng := by
  cases e <;> cases eng <;> rfl

@[simp] theorem Core.fut_setRing (l : List Card) : (co.setRing e l).fut i = co.fut i := by cases e <;> rfl

@[simp] theorem Core.ctxAt_setRing (l : List Card) : (co.setRing e l).ctxAt j = co.ctxAt j := by cases e <;> rfl

/-- A card that stands in a ring, but for its time. -/
def Core.HadCard (co : Core) (eng : Bool) (z : Card) : Prop := ∃ j ∈ co.ring eng, { z with pts := j.pts } = j

theorem Core.HadCard.of_ring {co' : Core} {z : Card} (h : co'.HadCard eng z) (hring : ∀ k ∈ co'.ring eng, k ∈ co.ring eng) :
    co.HadCard eng z := by
  obtain ⟨k, hk, hz⟩ := h
  exact ⟨k, hring k hk, hz⟩

/-! The time that follows a completion. -/

/-- It changes no card but for its time. -/
theorem Core.hadCard_afterCard {z : Card} (h : z ∈ (co.afterCard x).ring eng) : co.HadCard eng z := by
  have hmap : (co.afterCard x).ring eng = (co.ring eng).map fun k =>
      if decide (x.seq < k.seq) && cardConflict x k then { k with pts := later k.pts x.pts } else k := by cases eng <;> rfl
  rw [hmap] at h
  obtain ⟨k, hk, rfl⟩ := List.mem_map.1 h
  exact ⟨k, hk, by split <;> rfl⟩

theorem Core.getH_afterCard (n : BitVec 4) : ((co.afterCard x).ctxAt j).getH n = (co.ctxAt j).getH n :=
  Table.get_map_view (Ctx.getH · n) (fun p => by split <;> rfl) (fun p => by split <;> rfl) _ _

/-! COMPLETE of an entry. -/

@[simp] theorem Core.fut_complete : (co.complete i f).fut i = f := Core.fut_setFut

@[simp] theorem Core.ring_complete : (co.complete i f).ring eng = co.ring eng := by cases eng <;> rfl

/-- A wait takes the status, and no h register changes. -/
theorem Core.getH_complete (n : BitVec 4) : ((co.complete i f).ctxAt j).getH n = (co.ctxAt j).getH n := by
  refine Table.get_map_view (Ctx.getH · n) (fun p => ?_) (fun p => ?_) _ _ <;>
  · dsimp only
    split
    · split <;> rfl
    · rfl

/-! The card. -/

/-- The core on which a card has completed. -/
def Core.completed (co : Core) (c : Card) (cause : BitVec 8) (tval : Word) (pqfull : Bool) : Core :=
  let f := { co.fut c.slot with
    complete := true, cancelled := c.cancelled && cause == 0, narrow := c.narrow, pqfull := pqfull, cause := cause, tval := tval,
    pts := c.pts }
  let co := (co.setRing c.eng ((co.ring c.eng).filter fun k => k.seq != c.seq)).afterCard c
  let co := if !c.eng && c.began then { co with mxnarrow := c.narrow } else co
  co.complete c.slot f

/-- Its entry takes the result. -/
theorem Core.fut_completed : (co.completed c cause tval pqfull).fut c.slot = { co.fut c.slot with
    complete := true, cancelled := c.cancelled && cause == 0, narrow := c.narrow, pqfull := pqfull, cause := cause, tval := tval,
    pts := c.pts } := by
  rw [Core.completed, Core.fut_complete]

/-- The rings hold no card that they did not hold. -/
theorem Core.hadCard_completed {z : Card} (h : z ∈ (co.completed c cause tval pqfull).ring eng) : co.HadCard eng z := by
  have hafter : z ∈ ((co.setRing c.eng ((co.ring c.eng).filter fun k => k.seq != c.seq)).afterCard c).ring eng := by
    rw [Core.completed, Core.ring_complete] at h
    split at h
    · cases eng <;> exact h
    · exact h
  refine (Core.hadCard_afterCard hafter).of_ring fun k hk => ?_
  rw [Core.ring_setRing] at hk
  split at hk
  · next heng => exact heng ▸ (List.mem_filter.1 hk).1
  · exact hk

theorem Core.getH_completed (n : BitVec 4) : ((co.completed c cause tval pqfull).ctxAt j).getH n = (co.ctxAt j).getH n := by
  have hafter := Core.getH_afterCard (co := co.setRing c.eng ((co.ring c.eng).filter fun k => k.seq != c.seq)) (x := c) (j := j) n
  rw [Core.ctxAt_setRing] at hafter
  rw [Core.completed, Core.getH_complete]
  split <;> exact hafter

/-- A completion on the executing core counts there, and does nothing else. -/
theorem completeCard_alike : (s.updCore fun co => co.completed c cause tval pqfull).Alike (· = s.cur)
    (s.completeCard s.cur c cause tval pqfull) :=
  State.Alike.count (near := (· = s.cur)) rfl (s.updCore fun co => co.completed c cause tval pqfull) 14 1

theorem core_completeCard : (s.completeCard s.cur c cause tval pqfull).core =
    { s.core.completed c cause tval pqfull with cnt := (s.completeCard s.cur c cause tval pqfull).core.cnt } := by
  rw [← State.core_updCore s fun co => co.completed c cause tval pqfull]
  exact completeCard_alike.core_eq

/-- No h register of the executing context changes. -/
theorem hr_completeCard (n : BitVec 4) : (s.completeCard s.cur c cause tval pqfull).hr n = s.hr n := by
  refine (congrArg (Ctx.getH · n) completeCard_alike.me_eq).trans ?_
  rw [State.me, State.core_updCore]
  exact Core.getH_completed n

end Sys2Proof.Machine
end

section
/-! SUPPORT. The post of a card (R184): what it reads, what it makes of an entry and of a ring, and what it answers. -/

namespace Sys2Proof.Machine

variable {s t u w : State} {d : BitVec 4} {a : BitVec 5} {i off n : Nat} {eng : Bool} {j : Instr} {c x : Card} {b : List Byte}
  {err : Option Trap} {p : Word} {near : Nat → Prop}

theorem exec_post (eng : Bool) (d : BitVec 4) (a : BitVec 5) (s : State) :
    exec (if eng then .postCp d a else .postMx d a) s = s.post eng d a := by
  cases eng <;> rfl

/-! The reads. -/

/-- A read step of the scratchpad posts nothing. -/
theorem serial_ctxRead_pool (h : s.ctxRead (.pool off) p n = .ok (b, u)) : u.serial = s.serial := by
  have hstamp : ∀ (s : State) ls pts, (s.stampReads ls pts).2.serial = s.serial := fun s ls pts =>
    List.foldlRecOn (motive := fun t : State => t.serial = s.serial) ls _ rfl fun _ h _ _ => h
  have htouch : ∀ (s : State) (a : Word) n pts, (s.touch a n pts).serial = s.serial := fun s a n pts => by
    unfold State.touch
    split <;> rfl
  cases h
  exact (htouch _ _ _ _).trans ((hstamp _ _ _).trans (hstamp _ _ _))

/-- Nor does it change more than the context's time. -/
theorem ctxRead_pool_quiet (h : s.ctxRead (.pool off) p n = .ok (b, u)) : s.Quiet near u := by
  cases h
  refine (State.Quiet.of_alike ?_).trans ((State.Quiet.updMe ?_ ?_ ?_ _).trans (.touch _ _ _ _))
  · exact (State.Alike.stampReads _ _ _).trans (.sealWalks _ _)
  all_goals exact fun _ => rfl

theorem poolReads_quiet {ls : List (Nat × Nat)} {bs : List (List Byte)} (h : s.poolReads ls = .ok (bs, u)) : s.Quiet near u := by
  induction ls generalizing s bs with
  | nil => cases h; exact .refl _
  | cons l ls ih =>
    rw [State.poolReads_cons] at h
    obtain ⟨⟨b, t⟩, hfirst, hrest⟩ := Run.bind_eq_ok h
    obtain ⟨⟨bs', t'⟩, hreads, hend⟩ := Run.bind_eq_ok hrest
    cases hend
    refine State.Quiet.trans ?_ (ih hreads)
    split at hfirst
    · cases hfirst; exact .refl s
    · exact ctxRead_pool_quiet hfirst

/-- The record of a card is read, whatever its checks find, and the card keeps its entry and its time. -/
theorem readRecord_quiet {acc : Acc} {e : Option Trap} (h : s.readRecord c acc = .ok (x, e, u)) :
    s.Quiet near u ∧ x.slot = c.slot ∧ x.pts = c.pts := by
  unfold State.readRecord at h
  split at h
  · cases h; exact ⟨.refl s, rfl, rfl⟩
  · obtain ⟨s₁, hready, h⟩ := Run.bind_eq_ok h
    obtain ⟨⟨bs, s₂⟩, hreads, h⟩ := Run.bind_eq_ok h
    obtain ⟨s₃, hready', h⟩ := Run.bind_eq_ok h
    obtain ⟨⟨ts, s₄⟩, hreads', h⟩ := Run.bind_eq_ok h
    cases h
    rw [poolReady_eq hready] at hreads
    rw [poolReady_eq hready'] at hreads'
    exact ⟨(poolReads_quiet hreads).trans (poolReads_quiet hreads'), rfl, rfl⟩

/-- The card is that of the bytes of the scratchpad before the read. -/
theorem newCard_ctxRead (h : s.ctxRead (.pool off) p n = .ok (b, u)) :
    u.newCard i (BitVec.ofNat 512 (leVal b)) = s.newCard i (BitVec.ofNat 512 (s.core.pool.readLE off n)) := by
  have hbytes : b = s.core.pool.bytes off n := by cases h; rfl
  rw [State.newCard, State.newCard, serial_ctxRead_pool h, (ctxRead_pool_quiet (near := (· = s.cur)) h).ctx, hbytes, leVal_bytes]

/-! The validation. -/

/-- The offences of a card's bytes hang on the limits of its core alone. -/
theorem cardBad_quiet (h : s.Quiet near u) : u.cardBad u.cur eng c = s.cardBad s.cur eng c := by
  have hacc : (u.coreAt u.cur).acc = (s.coreAt s.cur).acc := h.coreOwn Core.acc
  rw [State.cardBad, State.cardBad, hacc]

/-- The card as its post has read it, and the first offence of its bytes and its record (R181, R184). -/
def State.cardRead (s : State) (eng : Bool) (c : Card) : Run (Card × Option Trap × State) :=
  let bad := s.cardBad s.cur eng c
  if c.hasRec && !bad.contains 0 then
    s.readRecord c (if eng then .write else .read) >>= fun r => .ok (r.1, firstOffence (formatErr bad) r.2.1, r.2.2)
  else .ok (c, formatErr bad, s)

/-- A card without a record, or of no kind of card. -/
theorem cardRead_bytes (h : c.hasRec = false ∨ 0 ∈ s.cardBad s.cur eng c) :
    s.cardRead eng c = .ok (c, formatErr (s.cardBad s.cur eng c), s) := by
  rw [State.cardRead]
  exact if_neg (by simpa [imp_iff_or_not, or_comm] using h)

theorem cardRead_record {e : Option Trap} (hrec : c.hasRec = true) (h0 : 0 ∉ s.cardBad s.cur eng c)
    (h : s.readRecord c (if eng then .write else .read) = .ok (x, e, u)) :
    s.cardRead eng c = .ok (x, firstOffence (formatErr (s.cardBad s.cur eng c)) e, u) := by
  rw [State.cardRead]
  simp only [hrec, List.contains_eq_mem, h0, decide_false, Bool.not_false, Bool.and_self, if_true, h, bind, Except.bind]

/-- Its record has been read, or nothing has. -/
theorem cardRead_ok (h : s.cardRead eng c = .ok (x, err, u)) :
    ((c.hasRec && !(s.cardBad s.cur eng c).contains 0) = true ∧ ∃ e, s.readRecord c (if eng then .write else .read) = .ok (x, e, u) ∧
      err = firstOffence (formatErr (s.cardBad s.cur eng c)) e) ∨
    (¬(c.hasRec && !(s.cardBad s.cur eng c).contains 0) = true ∧ x = c ∧ err = formatErr (s.cardBad s.cur eng c) ∧ u = s) := by
  rw [State.cardRead] at h
  by_cases hcond : (c.hasRec && !(s.cardBad s.cur eng c).contains 0) = true
  · rw [if_pos hcond] at h
    obtain ⟨⟨x', e, u'⟩, hrec, hend⟩ := Run.bind_eq_ok h
    cases hend
    exact .inl ⟨hcond, e, hrec, rfl⟩
  · rw [if_neg hcond] at h
    cases h
    exact .inr ⟨hcond, rfl, rfl, rfl⟩

/-- Either way the card keeps its entry and its time. -/
theorem cardRead_quiet (h : s.cardRead eng c = .ok (x, err, u)) : s.Quiet near u ∧ x.slot = c.slot ∧ x.pts = c.pts := by
  rcases cardRead_ok h with ⟨-, e, hrec, -⟩ | ⟨-, rfl, -, rfl⟩
  · exact readRecord_quiet hrec
  · exact ⟨.refl _, rfl, rfl⟩

/-! The effect. -/

/-- The clock of a card that is posted now (R189, R190, R257). -/
def State.cardTime (s : State) (c : Card) : BitVec 64 :=
  s.core.past.foldl (fun t x => if cardConflict x c then later t x.pts else t) (later s.me.pts (s.core.touchedBy c))

/-- A future entry taken by the executing context, and its handle in H[d] (R183, R184). -/
def State.entryTaken (s : State) (d : BitVec 4) (i : Nat) : State :=
  let f : Future := { Future.zero with used := true, gen := (s.core.fut i).gen, poster := s.ctx }
  ({ s with serial := s.serial + 1 }.updCore fun co => co.setFut i f).setH d (handleOf i f)

/-- The end of a post: the card completes with its offence, or joins its ring (R184). -/
def State.postEnd (s : State) (eng : Bool) (d : BitVec 4) (c : Card) (err : Option Trap) : State :=
  let s := s.landCore s.cur
  let x := { c with pts := s.cardTime c }
  let t := s.entryTaken d c.slot
  match err with
  | some e => t.completeCard s.cur x e.1 e.2 false
  | none => t.updCore fun co => co.setRing eng (co.ring eng ++ [x])

/-- The entry `i` is in use for the executing context of `s`, and H[d] holds its handle. -/
def State.Posted (s : State) (d : BitVec 4) (i : Nat) (t : State) : Prop :=
  t.hr d = handleOf i (s.core.fut i) ∧ (t.core.fut i).used = true ∧ (t.core.fut i).poster = s.ctx

theorem core_entryTaken : (s.entryTaken d i).core =
    (s.core.setFut i { Future.zero with used := true, gen := (s.core.fut i).gen, poster := s.ctx }).setCtx s.ctx
      (s.me.setH d (handleOf i (s.core.fut i))) := by
  rw [State.entryTaken, State.setH, State.core_updMe, State.core_updCore, State.me, State.core_updCore]
  rfl

@[simp] theorem fut_entryTaken : (s.entryTaken d i).core.fut i =
    { Future.zero with used := true, gen := (s.core.fut i).gen, poster := s.ctx } := by
  rw [core_entryTaken]
  exact Core.fut_setFut

@[simp] theorem ring_entryTaken : (s.entryTaken d i).core.ring eng = s.core.ring eng := by
  rw [core_entryTaken]
  cases eng <;> rfl

@[simp] theorem hr_entryTaken : (s.entryTaken d i).hr d = handleOf i (s.core.fut i) := by
  rw [State.hr, State.entryTaken, State.me_setH, Ctx.getH_setH_same]
  rfl

/-- A card without an offence is the last of its ring, and its entry is not complete. -/
theorem postEnd_queued : let t := s.postEnd eng d c none
    s.Posted d c.slot t ∧ (t.core.fut c.slot).complete = false ∧
      ∃ z, t.core.ring eng = s.core.ring eng ++ [z] ∧ { z with pts := c.pts } = c := by
  intro t
  let v := s.landCore s.cur
  let x := { c with pts := v.cardTime c }
  have hcore : t.core = (v.entryTaken d c.slot).core.setRing eng ((v.entryTaken d c.slot).core.ring eng ++ [x]) :=
    State.core_updCore _ _
  have hhr : t.hr d = (v.entryTaken d c.slot).hr d := by rw [State.hr, State.me, hcore, Core.ctxAt_setRing]; rfl
  have hfut : t.core.fut c.slot = (v.entryTaken d c.slot).core.fut c.slot := by rw [hcore, Core.fut_setRing]
  rw [State.Posted, hfut, hhr, fut_entryTaken, hr_entryTaken]
  refine ⟨⟨rfl, rfl, rfl⟩, rfl, x, ?_, rfl⟩
  rw [hcore, Core.ring_setRing, if_pos rfl, ring_entryTaken]
  rfl

/-- A card with an offence has completed with it, and no ring holds a card that it did not hold. -/
theorem postEnd_done (e : Trap) : let t := s.postEnd eng d c (some e)
    s.Posted d c.slot t ∧ (t.core.fut c.slot).complete = true ∧ (t.core.fut c.slot).cause = e.1 ∧ (t.core.fut c.slot).tval = e.2 ∧
      ∀ z ∈ t.core.ring eng, s.core.HadCard eng z := by
  intro t
  let v := s.landCore s.cur
  let x := { c with pts := v.cardTime c }
  have hcore : t.core = { (v.entryTaken d c.slot).core.completed x e.1 e.2 false with cnt := t.core.cnt } :=
    core_completeCard (s := v.entryTaken d c.slot)
  have hhr : t.hr d = (v.entryTaken d c.slot).hr d := hr_completeCard (s := v.entryTaken d c.slot) d
  have hfut : t.core.fut c.slot = ((v.entryTaken d c.slot).core.completed x e.1 e.2 false).fut x.slot := by rw [hcore]; rfl
  rw [State.Posted, hfut, hhr, Core.fut_completed, fut_entryTaken, hr_entryTaken]
  refine ⟨⟨rfl, rfl, rfl⟩, rfl, rfl, rfl, fun z hz => ?_⟩
  have hold : z ∈ ((v.entryTaken d c.slot).core.completed x e.1 e.2 false).ring eng := by
    rw [hcore] at hz
    cases eng <;> exact hz
  exact (Core.hadCard_completed hold).of_ring fun k hk => by rwa [ring_entryTaken] at hk

/-- What the post `j` of the card `c` for entry `i` does (R184): without an offence it is queued, with one it completes. -/
def PostDoes (j : Instr) (s : State) (eng : Bool) (d : BitVec 4) (i : Nat) (c : Card) (err : Option Trap) : Prop :=
  (err = none → ∃ t z, (Retires j s 4 t ∧ s.Posted d i t) ∧ (t.core.fut i).complete = false ∧ t.core.ring eng = s.core.ring eng ++ [z] ∧
    { z with pts := 0 } = c) ∧
  ∀ e, err = some e → ∃ t, (Retires j s 4 t ∧ s.Posted d i t) ∧ (t.core.fut i).complete = true ∧ (t.core.fut i).cause = e.1 ∧
    (t.core.fut i).tval = e.2 ∧ ∀ z ∈ t.core.ring eng, s.core.HadCard eng z

/-- The end of the post, after reads that have moved times alone. -/
theorem postDoes_of_retires (hq : s.Quiet near w) (hslot : c.slot = i) (hpts : c.pts = 0)
    (hret : Retires j s 4 (w.postEnd eng d c err)) : PostDoes j s eng d i c err := by
  subst hslot
  have hring : w.core.ring eng = s.core.ring eng := hq.coreOwn (Core.ring · eng)
  have hposted : ∀ t, w.Posted d c.slot t → s.Posted d c.slot t := fun t h => by
    have hfut : w.core.fut c.slot = s.core.fut c.slot := hq.coreOwn (Core.fut · c.slot)
    rwa [State.Posted, hfut, hq.ctx] at h
  constructor
  · rintro rfl
    obtain ⟨hp, hopen, z, hz, hcard⟩ := postEnd_queued (s := w) (eng := eng) (d := d) (c := c)
    exact ⟨_, z, ⟨hret, hposted _ hp⟩, hopen, hring ▸ hz, hpts ▸ hcard⟩
  · rintro e rfl
    obtain ⟨hp, hdone, hcause, htval, hz⟩ := postEnd_done (s := w) (eng := eng) (d := d) (c := c) e
    exact ⟨_, ⟨hret, hposted _ hp⟩, hdone, hcause, htval, fun z h => (hz z h).of_ring fun k hk => hring ▸ hk⟩

/-! The instruction. -/

/-- A card in the scratchpad whose read meets its checks has its place there (R116, R184). -/
theorem place_card {a : Word} (h : s.padOk true false false a 64) :
    a.toNat % 64 = 0 ∧ ¬2 ^ 32 ≤ a.toNat ∧ s.place s.ag .read a.toNat 64 = .ok (.pool a.toNat, s) := by
  have hplace := place_pad h
  obtain ⟨hal, -, hlow, -⟩ := h
  exact ⟨hal, by omega, hplace⟩

section
variable (hexec : exec j s = s.post eng d a) (hr : s.ready [.h d, .x a])
include hexec hr

theorem post_misaligned (h : (s.xr a).toNat % 64 ≠ 0) : Traps j s Cause.MISALIGNED (s.xr a) := by
  rw [Traps, hexec, State.post, instr_ready hr, if_pos h, finish_fault]

theorem post_beyond (hal : (s.xr a).toNat % 64 = 0) (h : 2 ^ 32 ≤ (s.xr a).toNat) : Traps j s Cause.CARD_FORMAT (s.xr a) := by
  rw [Traps, hexec, State.post, instr_ready hr, if_neg (not_not.2 hal), if_pos h, finish_fault]

variable (hpad : s.padOk true false false (s.xr a) 64)
include hpad

theorem post_without_entry (hfree : s.core.freeEntry = none) : Traps j s Cause.FUTURE_FULL 0 := by
  obtain ⟨hal, hlow, hplace⟩ := place_card hpad
  rw [Traps, hexec, State.post, instr_ready hr, if_neg (not_not.2 hal), if_neg hlow]
  simp only [hplace, liftTrap, bind, Except.bind, hfree, finish_fault]

variable (hfree : s.core.freeEntry = some i)
include hfree

theorem post_full (hfull : ringSize eng ≤ (s.core.ring eng).length) : exec j s = .next (s.setWait .other) := by
  obtain ⟨hal, hlow, hplace⟩ := place_card hpad
  rw [hexec, State.post, instr_ready hr, if_neg (not_not.2 hal), if_neg hlow]
  simp only [hplace, liftTrap, bind, Except.bind, hfree, hfull, if_true, finish_waiting]

/-- With an entry free and room in the ring it has its effect. -/
theorem post_retires (hroom : (s.core.ring eng).length < ringSize eng)
    (hread : s.ctxRead (.pool (s.xr a).toNat) (s.xr a) 64 = .ok (b, u))
    (hcard : u.cardRead eng (u.newCard i (BitVec.ofNat 512 (leVal b))) = .ok (x, err, w)) :
    Retires j s 4 (w.postEnd eng d x (err.or (w.core.cardBar x))) := by
  obtain ⟨hal, hlow, hplace⟩ := place_card hpad
  obtain ⟨-, hready⟩ := padOk_ready hpad
  rw [Retires, hexec, State.post, instr_ready hr, if_neg (not_not.2 hal), if_neg hlow]
  rcases cardRead_ok hcard with ⟨hcond, e, hrec, rfl⟩ | ⟨hcond, rfl, rfl, rfl⟩
  · obtain ⟨-, hslot, -⟩ := cardRead_quiet (near := (· = s.cur)) hcard
    obtain rfl : x.slot = i := hslot
    simp only [hplace, liftTrap, bind, Except.bind, hfree, Nat.not_le.2 hroom, if_false, hready, hread, hcond, if_true, hrec]
    cases firstOffence (formatErr (u.cardBad u.cur eng (u.newCard x.slot (BitVec.ofNat 512 (leVal b))))) e with
    | some e => rfl
    | none =>
      rw [Option.none_or]
      cases w.core.cardBar x <;> rfl
  · simp only [hplace, liftTrap, bind, Except.bind, hfree, Nat.not_le.2 hroom, if_false, hready, hread, hcond]
    cases formatErr (w.cardBad w.cur eng (w.newCard i (BitVec.ofNat 512 (leVal b)))) with
    | some e => rfl
    | none =>
      rw [Option.none_or]
      cases w.core.cardBar (w.newCard i (BitVec.ofNat 512 (leVal b))) <;> rfl

variable (hroom : (s.core.ring eng).length < ringSize eng) (hread : s.ctxRead (.pool (s.xr a).toNat) (s.xr a) 64 = .ok (b, u))
include hroom hread

/-- What the validation finds decides whether the card is queued. -/
theorem post_does (hcard : u.cardRead eng (s.newCard i (BitVec.ofNat 512 (s.core.pool.readLE (s.xr a).toNat 64))) = .ok (x, err, w)) :
    PostDoes j s eng d i x (err.or (s.core.cardBar x)) := by
  obtain ⟨hquiet, hslot, hpts⟩ := cardRead_quiet (near := (· = s.cur)) hcard
  have hall : s.Quiet (· = s.cur) w := (ctxRead_pool_quiet hread).trans hquiet
  have hbar : w.core.cardBar x = s.core.cardBar x := hall.coreOwn (Core.cardBar · x)
  rw [← newCard_ctxRead hread] at hcard
  rw [← hbar]
  exact postDoes_of_retires hall hslot hpts (post_retires hexec hr hpad hfree hroom hread hcard)

/-- A card whose 64 bytes decide. -/
theorem post_bytes {k : Card} (hk : k = s.newCard i (BitVec.ofNat 512 (s.core.pool.readLE (s.xr a).toNat 64)))
    (h : k.hasRec = false ∨ 0 ∈ s.cardBad s.cur eng k) :
    PostDoes j s eng d i k ((formatErr (s.cardBad s.cur eng k)).or (s.core.cardBar k)) := by
  subst hk
  rw [← cardBad_quiet (ctxRead_pool_quiet (near := (· = s.cur)) hread)] at h ⊢
  exact post_does hexec hr hpad hfree hroom hread (cardRead_bytes h)

/-- A card whose record is read with it. -/
theorem post_record {k : Card} {e : Option Trap} (hk : k = s.newCard i (BitVec.ofNat 512 (s.core.pool.readLE (s.xr a).toNat 64)))
    (hrec : k.hasRec = true) (h0 : 0 ∉ s.cardBad s.cur eng k) (h : u.readRecord k (if eng then .write else .read) = .ok (x, e, w)) :
    PostDoes j s eng d i x ((firstOffence (formatErr (s.cardBad s.cur eng k)) e).or (s.core.cardBar x)) := by
  subst hk
  rw [← cardBad_quiet (ctxRead_pool_quiet (near := (· = s.cur)) hread)] at h0 ⊢
  exact post_does hexec hr hpad hfree hroom hread (cardRead_record hrec h0 h)
end

end Sys2Proof.Machine
end

section
open Sys2Proof Sys2Proof.Machine

/-- Settles O40. Both posts are one instruction: its reads change no more than times, so that the entry, the ring and the checks are
those of the state before it; the validation finds an offence or none, and the end of the post is a completion or a place in the ring. -/
theorem cardPosting : Obligations.CardPosting := by
  unfold Obligations.CardPosting
  intro d a i eng s hr
  have hexec := exec_post eng d a s
  refine ⟨post_misaligned hexec hr, post_beyond hexec hr, fun hpad => ⟨post_without_entry hexec hr hpad, fun hfree =>
    ⟨post_full hexec hr hpad hfree, fun hroom => ⟨?_, fun hrec h0 b u w x e hread hrecord => ?_⟩⟩⟩⟩
  · obtain ⟨-, hlow, -⟩ := place_card hpad
    obtain ⟨u, hread, -⟩ := ctxRead_pool (off := (s.xr a).toNat) (n := 64) s (Nat.not_le.1 hlow)
    exact post_bytes hexec hr hpad hfree hroom hread rfl
  · exact post_record hexec hr hpad hfree hroom hread rfl hrec h0 hrecord
end

section
/-! SUPPORT. Numbers laid end to end, low bytes first (R4): each of them is a run of bytes of their image. -/

namespace Sys2Proof

/-- Any run of bytes within a number in memory is its digits there. -/
theorem Memory.readLE_within (m : Memory) (a : Nat) {o k n : Nat} (h : o + k ≤ n) :
    m.readLE (a + o) k = m.readLE a n / 256 ^ o % 256 ^ k := by
  induction o generalizing a n with
  | zero =>
    induction k generalizing a n with
    | zero => simp [Memory.readLE, Nat.mod_one]
    | succ k ih =>
      obtain ⟨n, rfl⟩ : ∃ j, n = j + 1 := ⟨n - 1, by omega⟩
      have hb := (m.read a).isLt
      have hrest := ih (a + 1) (n := n) (by omega)
      simp only [Nat.add_zero, pow_zero, Nat.div_one] at hrest ⊢
      rw [Memory.readLE, Memory.readLE, hrest, Nat.pow_succ', Nat.mod_mul, Nat.add_mul_mod_self_left, Nat.mod_eq_of_lt hb,
        show ((m.read a).toNat + 256 * m.readLE (a + 1) n) / 256 = m.readLE (a + 1) n by omega]
  | succ o ih =>
    obtain ⟨n, rfl⟩ : ∃ j, n = j + 1 := ⟨n - 1, by omega⟩
    have hb := (m.read a).isLt
    rw [Memory.readLE, show a + (o + 1) = a + 1 + o by omega, ih (a + 1) (n := n) (by omega), Nat.pow_succ', ← Nat.div_div_eq_div_mul,
      show ((m.read a).toNat + 256 * m.readLE (a + 1) n) / 256 = m.readLE (a + 1) n by omega]

/-- Fields, each a number of bytes and a value, laid end to end. -/
def laid : List (Nat × Nat) → Nat
  | [] => 0
  | f :: fs => f.2 + 256 ^ f.1 * laid fs

/-- Every field has room for its value. -/
def Fits (fs : List (Nat × Nat)) : Prop := ∀ f ∈ fs, f.2 < 256 ^ f.1

/-- Bytes of some fields. -/
def widthOf (fs : List (Nat × Nat)) : Nat := (fs.map Prod.fst).sum

theorem Fits.cons {f : Nat × Nat} {fs : List (Nat × Nat)} (h : Fits (f :: fs)) : f.2 < 256 ^ f.1 ∧ Fits fs := List.forall_mem_cons.1 h

theorem widthOf_cons (f : Nat × Nat) (fs : List (Nat × Nat)) : widthOf (f :: fs) = f.1 + widthOf fs := List.sum_cons
theorem widthOf_append (pre post : List (Nat × Nat)) : widthOf (pre ++ post) = widthOf pre + widthOf post := by simp [widthOf]
theorem pow_widthOf_cons (f : Nat × Nat) (fs : List (Nat × Nat)) : 256 ^ widthOf (f :: fs) = 256 ^ f.1 * 256 ^ widthOf fs := by
  rw [widthOf_cons, Nat.pow_add]

theorem widthOf_words (x : Nat → Nat) (n : Nat) : widthOf ((List.range n).map fun k => (8, x k)) = 8 * n := by
  simp [widthOf, Function.comp_def, Nat.mul_comm]

theorem laid_append (pre post : List (Nat × Nat)) : laid (pre ++ post) = laid pre + 256 ^ widthOf pre * laid post := by
  induction pre with
  | nil => simp [laid, widthOf]
  | cons f pre ih => rw [List.cons_append, laid, laid, ih, pow_widthOf_cons]; ring

theorem laid_lt {fs : List (Nat × Nat)} (h : Fits fs) : laid fs < 256 ^ widthOf fs := by
  induction fs with
  | nil => exact Nat.one_pos
  | cons f fs ih =>
    obtain ⟨hf, hfs⟩ := h.cons
    calc f.2 + 256 ^ f.1 * laid fs < 256 ^ f.1 * (laid fs + 1) := by rw [Nat.mul_add_one]; omega
      _ ≤ 256 ^ f.1 * 256 ^ widthOf fs := Nat.mul_le_mul_left _ (ih hfs)
      _ = 256 ^ widthOf (f :: fs) := (pow_widthOf_cons f fs).symm

/-- A field is read behind the bytes of the fields before it. -/
theorem laid_field {fs : List (Nat × Nat)} (h : Fits fs) {n w v : Nat} (hn : fs[n]? = some (w, v)) :
    laid fs / 256 ^ widthOf (fs.take n) % 256 ^ w = v := by
  induction fs generalizing n with
  | nil => exact nomatch hn
  | cons f fs ih =>
    obtain ⟨hf, hfs⟩ := h.cons
    cases n with
    | zero =>
      obtain rfl : f = (w, v) := Option.some.inj hn
      simp [laid, widthOf, Nat.mod_eq_of_lt hf]
    | succ n =>
      rw [List.take_succ_cons, pow_widthOf_cons, ← Nat.div_div_eq_div_mul, laid, Nat.add_mul_div_left _ _ (Nat.pow_pos (by decide)),
        Nat.div_eq_of_lt hf, Nat.zero_add, ih hfs hn]

end Sys2Proof
end

section
/-! SUPPORT. Captures (R216, R219): the slot that a capture fills, and what it makes of the pool. -/

namespace Sys2Proof.Machine

/-- The fields of a slot's first row behind the captured x registers: REF, XMASK, the kinds, COUNT, QHOLD, GEN and VROW (R216). -/
def slotTail (xm : BitVec 8) (vm : BitVec 2) (r : PodRef) (gen : BitVec 10) (row : Nat) : List (Nat × Nat) :=
  [(16, r.bytes), (1, xm.toNat), (1, vm.toNat + 4 * r.kind), (1, 1), (1, 0), (2, gen.toNat), (2, if vm = 0 then 0 else row + 1)]

/-- All its fields in their order, with the captures `x` at their places. -/
def slotFields (entry : Word) (x : Nat → Nat) (xm : BitVec 8) (vm : BitVec 2) (r : PodRef) (gen : BitVec 10) (row : Nat) :
    List (Nat × Nat) :=
  (8, entry.toNat) :: ((List.range 8).map (fun k => (8, x k)) ++ slotTail xm vm r gen row)

/-- The core with slot `i` filled and its first row written. -/
def Core.filled (c : Core) (i row img : Nat) : Core :=
  { c.setRow (c.podBase + row) img with pods := Table.put c.pods i { c.slotAt i with used := true, row := row } }

/-- The core with a capture in slot `i`: where it captures a v register, two rows of them stand behind the first. -/
def Core.captured (c : Core) (i row img : Nat) (vm : BitVec 2) (v : Nat → Nat) : Core :=
  if vm = 0 then c.filled i row img else ((c.filled i row img).setRow (c.podBase + row + 1) (v 0)).setRow (c.podBase + row + 2) (v 1)

/-- What a register that a mask captures holds, and 0 for the others. -/
def State.capturedX (s : State) (xm : BitVec 8) (k : Nat) : Nat := if xm.getLsbD k then (s.xr (BitVec.ofNat 5 (20 + k))).toNat else 0
def State.capturedV (s : State) (vm : BitVec 2) (j : Nat) : Nat := if vm.getLsbD j then s.vr (BitVec.ofNat 5 (14 + j)) else 0

/-- A row reads back the low 128 bytes written to it. -/
theorem Core.row_setRow_bytes (c : Core) (r v : Nat) (h : c.pool.wf = true) : (c.setRow r v).row r = v % 256 ^ 128 :=
  (Memory.readLE_writeLE _ 128 v h).trans (by rw [Nat.pow_mul])

section
variable (c : Core) (i row img : Nat) (vm : BitVec 2) (v : Nat → Nat)

@[simp] theorem Core.podBase_captured : (c.captured i row img vm v).podBase = c.podBase := by
  unfold Core.captured
  split <;> rfl

@[simp] theorem Core.slotAt_captured : (c.captured i row img vm v).slotAt i = { c.slotAt i with used := true, row := row } := by
  unfold Core.captured
  split <;> exact Table.get_put_same _ _ _ _

variable (h : c.pool.wf = true)
include h

theorem Core.wf_filled : (c.filled i row img).pool.wf = true := Core.wf_setRow c _ img h

/-- Its first row holds the image. -/
theorem Core.row_captured_first : (c.captured i row img vm v).row (c.podBase + row) = img % 256 ^ 128 := by
  have hfilled : (c.filled i row img).row (c.podBase + row) = img % 256 ^ 128 := Core.row_setRow_bytes c _ img h
  have hwf := Core.wf_filled c i row img h
  unfold Core.captured
  split
  · exact hfilled
  · rw [Core.row_setRow_ne _ _ (Core.wf_setRow _ _ _ hwf) (by omega), Core.row_setRow_ne _ _ hwf (by omega), hfilled]

/-- The rows after it hold the v registers. -/
theorem Core.row_captured_vector {j : Nat} (hj : j < 2) (hvm : vm ≠ 0) :
    (c.captured i row img vm v).row (c.podBase + row + 1 + j) = v j % 256 ^ 128 := by
  have hwf := Core.wf_filled c i row img h
  rw [Core.captured, if_neg hvm]
  obtain rfl | rfl : j = 0 ∨ j = 1 := by omega
  · rw [Nat.add_zero, Core.row_setRow_ne _ _ (Core.wf_setRow _ _ _ hwf) (by omega), Core.row_setRow_bytes _ _ _ hwf]
  · exact Core.row_setRow_bytes _ _ _ (Core.wf_setRow _ _ _ hwf)

/-- No other row changes. -/
theorem Core.read_captured_out {a : Nat} (ha : a / 128 < c.podBase + row ∨ c.podBase + row + (if vm = 0 then 1 else 3) ≤ a / 128) :
    (c.captured i row img vm v).pool.read a = c.pool.read a := by
  have hwf := Core.wf_filled c i row img h
  have hfilled (hout : a / 128 ≠ c.podBase + row) : (c.filled i row img).pool.read a = c.pool.read a :=
    Memory.read_writeLE_out h (by omega)
  unfold Core.captured
  split
  · next hvm =>
    rw [if_pos hvm] at ha
    exact hfilled (by omega)
  · next hvm =>
    rw [if_neg hvm] at ha
    exact (Memory.read_writeLE_out (Core.wf_setRow _ _ _ hwf) (by omega)).trans
      ((Memory.read_writeLE_out hwf (by omega)).trans (hfilled (by omega)))
end

/-! The capture. -/

variable {s : State} {d : BitVec 4} {b e : BitVec 5} {xm : BitVec 8} {vm : BitVec 2} {r : PodRef} {i row : Nat} {entry : Word}

theorem at'_eq (o v : Nat) : at' o v = v * 256 ^ o := by rw [at', Nat.pow_mul]

/-- The captured x registers are words laid end to end behind the entry. -/
theorem foldl_words (x : Nat → Nat) (n : Nat) : (List.range n).foldl (fun v k => v + at' (8 + 8 * k) (x k)) 0 =
    256 ^ 8 * laid ((List.range n).map fun k => (8, x k)) := by
  induction n with
  | zero => rfl
  | succ n ih =>
    rw [List.range_succ, List.foldl_append, ih, List.map_append, laid_append, widthOf_words]
    simp only [List.foldl_cons, List.foldl_nil, List.map_cons, List.map_nil, laid, at'_eq, Nat.pow_add]
    ring

section
variable (x : Nat → Nat) (gen : BitVec 10)

/-- The slot fields laid end to end are the image that a capture writes. -/
theorem laid_slotFields : laid (slotFields entry x xm vm r gen row) =
    at' 0 entry.toNat + (List.range 8).foldl (fun v k => v + at' (8 + 8 * k) (x k)) 0 + at' 72 r.bytes + at' 88 xm.toNat +
      at' 89 (vm.toNat + 4 * r.kind) + at' 90 1 + at' 92 gen.toNat + at' 94 (if vm = 0 then 0 else row + 1) := by
  rw [slotFields, laid, laid_append, widthOf_words, foldl_words]
  simp only [slotTail, laid, at'_eq]
  ring

theorem fits_slotFields (hx : ∀ k, x k < 2 ^ 64) (hk : r.kind < 4) (hb : r.bytes < 2 ^ 128) (hrow : row < 60) :
    Fits (slotFields entry x xm vm r gen row) := by
  have hentry := entry.isLt
  have hxm := xm.isLt
  have hvm := vm.isLt
  have hgen := gen.isLt
  have hvrow : (if vm = 0 then 0 else row + 1) < 256 ^ 2 := by split <;> omega
  refine List.forall_mem_cons.2 ⟨hentry, List.forall_mem_append.2 ⟨List.forall_mem_map.2 fun k _ => hx k, ?_⟩⟩
  simp only [slotTail, List.forall_mem_cons]
  exact ⟨hb, by omega, by omega, by omega, by omega, by omega, hvrow, nofun⟩

theorem slotFields_word {k : Nat} (hk : k < 8) : (slotFields entry x xm vm r gen row)[k + 1]? = some (8, x k) := by
  rw [slotFields, List.getElem?_cons_succ, List.getElem?_append_left (by simpa using hk)]
  simp [hk]

theorem widthOf_slotFields_word {k : Nat} (hk : k < 8) : widthOf ((slotFields entry x xm vm r gen row).take (k + 1)) = 8 + 8 * k := by
  rw [slotFields, List.take_succ_cons, List.take_append_of_le_length (by simpa using hk.le), ← List.map_take, List.take_range,
    Nat.min_eq_left hk.le]
  exact congrArg (8 + ·) (widthOf_words x k)

theorem slotFields_tail (n : Nat) : (slotFields entry x xm vm r gen row)[n + 9]? = (slotTail xm vm r gen row)[n]? := by
  rw [slotFields, List.getElem?_cons_succ, List.getElem?_append_right (by simp), List.length_map, List.length_range, Nat.add_sub_cancel]

theorem widthOf_slotFields_tail (n : Nat) : widthOf ((slotFields entry x xm vm r gen row).take (n + 9)) =
    72 + widthOf ((slotTail xm vm r gen row).take n) := by
  rw [slotFields, List.take_succ_cons, widthOf_cons, List.take_append, List.take_of_length_le (by simp), List.length_map,
    List.length_range, Nat.add_sub_cancel, widthOf_append, widthOf_words, ← Nat.add_assoc]
end

/-- A field of a slot whose first row holds fields laid end to end. -/
theorem podFld_laid {c : Core} {p : PodSlot} {fs : List (Nat × Nat)} (hrow : c.row (c.podBase + p.row) = laid fs) (h : Fits fs)
    {n o w v : Nat} (hn : fs[n]? = some (w, v)) (ho : widthOf (fs.take n) = o) (hw : o + w ≤ 128) : c.podFld p o w = v := by
  rw [Core.podFld, Memory.readLE_within _ _ hw, ← Core.row, hrow, ← ho, laid_field h hn]

/-- Slot `p` holds a pod as R216 lays it out, just captured. -/
structure Core.Holds (c : Core) (p : PodSlot) (entry : Word) (x : Nat → Nat) (xm : BitVec 8) (vm : BitVec 2) (r : PodRef) : Prop where
  entry : c.podFld p 0 8 = entry.toNat
  words : ∀ k, k < 8 → c.podFld p (8 + 8 * k) 8 = x k
  ref : c.podFld p 72 16 = r.bytes
  xmask : c.podXmask p = xm.toNat
  kinds : c.podKinds p = vm.toNat + 4 * r.kind
  count : c.podCount p = 1
  qhold : c.podQhold p = 0

section
variable {c : Core} {p : PodSlot} {x : Nat → Nat} {gen : BitVec 10}
  (hrow : c.row (c.podBase + p.row) = laid (slotFields entry x xm vm r gen row)) (h : Fits (slotFields entry x xm vm r gen row))
include hrow h

theorem podFld_tail {n o w v : Nat} (hn : (slotTail xm vm r gen row)[n]? = some (w, v))
    (ho : 72 + widthOf ((slotTail xm vm r gen row).take n) = o) (hw : o + w ≤ 128) : c.podFld p o w = v :=
  podFld_laid hrow h ((slotFields_tail x gen n).trans hn) ((widthOf_slotFields_tail x gen n).trans ho) hw

theorem holds_of_row : c.Holds p entry x xm vm r where
  entry := podFld_laid hrow h (n := 0) rfl rfl (by decide)
  words k hk := podFld_laid hrow h (slotFields_word x gen hk) (widthOf_slotFields_word x gen hk) (by omega)
  ref := podFld_tail hrow h (n := 0) rfl rfl (by decide)
  xmask := podFld_tail hrow h (n := 1) rfl rfl (by decide)
  kinds := podFld_tail hrow h (n := 2) rfl rfl (by decide)
  count := podFld_tail hrow h (n := 3) rfl rfl (by decide)
  qhold := podFld_tail hrow h (n := 4) rfl rfl (by decide)
end

section
variable {c : Core} {p : PodSlot} {x : Nat → Nat} (h : c.Holds p entry x xm vm r)
include h

theorem Core.Holds.vmask : c.podVmask p = vm.toNat := by
  have hvm := vm.isLt
  rw [Core.podVmask, h.kinds]
  omega

theorem Core.Holds.rkind : c.podRkind p = r.kind % 4 := by
  have hvm := vm.isLt
  rw [Core.podRkind, h.kinds]
  omega

theorem Core.Holds.not_exported (hk : r.kind < 4) : c.podExported p = false := by
  have hvm := vm.isLt
  rw [Core.podExported, h.kinds, show (vm.toNat + 4 * r.kind) / 16 = 0 by omega]
  rfl
end

/-- The rows of a run of free rows are in the pod store, which has 60 rows at the most. -/
theorem freeRun_lt {c : Core} {n : Nat} (h : c.freeRun n = some row) : row < 60 := by
  have hmem := List.mem_range.1 (List.mem_of_find?_eq_some h)
  have hrows : c.podRows ≤ 60 := by rw [Core.podRows]; omega
  omega

theorem capturedX_lt (s : State) (xm : BitVec 8) (k : Nat) : s.capturedX xm k < 2 ^ 64 := by
  unfold State.capturedX
  split
  · exact BitVec.isLt _
  · decide

/-- The core as a capture of the executing context leaves it. -/
def State.capturedCore (s : State) (i row : Nat) (entry : Word) (xm : BitVec 8) (vm : BitVec 2) (r : PodRef) : Core :=
  s.core.captured i row (laid (slotFields entry (s.capturedX xm) xm vm r (s.core.slotAt i).gen row)) vm (s.capturedV vm)

theorem holds_capturedCore (hwf : s.core.pool.wf = true) (hk : r.kind < 4) (hb : r.bytes < 2 ^ 128) (hrow : row < 60) :
    (s.capturedCore i row entry xm vm r).Holds { s.core.slotAt i with used := true, row := row } entry (s.capturedX xm) xm vm r := by
  have hfits := fits_slotFields (entry := entry) (xm := xm) (vm := vm) _ (s.core.slotAt i).gen (capturedX_lt s xm) hk hb hrow
  refine holds_of_row ?_ hfits
  have hwidth : 256 ^ widthOf (slotFields entry (s.capturedX xm) xm vm r (s.core.slotAt i).gen row) ≤ 256 ^ 128 := by
    refine Nat.pow_le_pow_right (by decide) ?_
    rw [slotFields, widthOf_cons, widthOf_append, widthOf_words]
    exact (by decide : 8 + (8 * 8 + 24) ≤ 128)
  rw [State.capturedCore, Core.podBase_captured, Core.row_captured_first _ _ _ _ _ _ hwf,
    Nat.mod_eq_of_lt (Nat.lt_of_lt_of_le (laid_lt hfits) hwidth)]

theorem capture_full (h : s.core.freeSlot = none ∨ s.core.freeRun (if vm = 0 then 1 else 3) = none) : s.capture entry xm vm r = none := by
  simp only [State.capture]
  rcases h with h | h
  · simp only [h]
  · rw [h]
    cases s.core.freeSlot <;> rfl

theorem capture_free (hi : s.core.freeSlot = some i) (hrow : s.core.freeRun (if vm = 0 then 1 else 3) = some row) :
    s.capture entry xm vm r = some (BitVec.ofNat 16 ((s.core.slotAt i).gen.toNat * 64 + i),
      s.setCore (s.capturedCore i row entry xm vm r)) := by
  rw [State.capturedCore, laid_slotFields]
  simp only [State.capture, hi, hrow]
  rfl

/-! The instructions. -/

theorem exec_pcap (d : BitVec 4) (b : BitVec 5) (xm : BitVec 8) (vm : BitVec 2) (s : State) :
    exec (.pcap d b xm vm) s = execPcap d b xm vm s := rfl
theorem exec_pcapr (g : Bool) (d : BitVec 4) (b : BitVec 5) (xm : BitVec 8) (vm : BitVec 2) (e : BitVec 5) (s : State) :
    exec (.pcapr g d b xm vm e) s = execPcapr g d b xm vm e s := rfl

section
variable {q : Instr} (hexec : exec q s = s.finish 12 (s.captureTo d b xm vm r))
include hexec

theorem captureTo_traps (h : s.core.freeSlot = none ∨ s.core.freeRun (if vm = 0 then 1 else 3) = none) :
    Traps q s Cause.POD_STORE_FULL 0 := by
  rw [Traps, hexec, State.captureTo, capture_full h, finish_fault]

theorem captureTo_retires (hi : s.core.freeSlot = some i) (hrow : s.core.freeRun (if vm = 0 then 1 else 3) = some row) :
    Retires q s 12 ((s.setCore (s.capturedCore i row (s.xr b) xm vm r)).setC d
      (BitVec.ofNat 16 ((s.core.slotAt i).gen.toNat * 64 + i))) := by
  rw [Retires, hexec, State.captureTo, capture_free hi hrow, finish_goes]
end

/-- What the reference of a pcapr is made from (R219). -/
def State.podRef (s : State) (g : Bool) (v : Word) : Run PodRef := if g then s.segRef v else s.rowsRef v

theorem execPcapr_eq (g : Bool) : execPcapr g d b xm vm e s = s.instr 12 [.c d, .x b, .x e] fun s => s.captureReady xm vm fun s =>
    s.podRef g (s.xr e) >>= s.captureTo d b xm vm := by
  cases g <;> rfl

section
variable (hx : ∀ k, k < 8 → xm.getLsbD k = true → s.me.loading.getLsbD (bitX (20 + k)) = false)
  (hv : ∀ j, j < 2 → vm.getLsbD j = true → s.me.loading.getLsbD (bitV (14 + j)) = false)
include hx hv

/-- With no captured register being loaded the capture goes on (R105). -/
theorem captureReady_goes (f : State → Run Done) : s.captureReady xm vm f = f s := by
  have hxs : (List.range 8).any (fun k => xm.getLsbD k && s.me.loading.getLsbD (bitX (20 + k))) = false :=
    List.any_eq_false.2 fun k hk => by simpa using hx k (List.mem_range.1 hk)
  have hvs : (List.range 2).any (fun j => vm.getLsbD j && s.me.loading.getLsbD (bitV (14 + j))) = false :=
    List.any_eq_false.2 fun j hj => by simpa using hv j (List.mem_range.1 hj)
  rw [State.captureReady, hxs, hvs]
  rfl

theorem pcap_captures (hr : s.ready [.c d, .x b]) :
    exec (.pcap d b xm vm) s = s.finish 12 (s.captureTo d b xm vm ⟨0, 0⟩) := by
  rw [exec_pcap, execPcap, instr_ready hr, captureReady_goes hx hv]

variable {g : Bool} (hr : s.ready [.c d, .x b, .x e])
include hr

theorem pcapr_captures (href : s.podRef g (s.xr e) = .ok r) :
    exec (.pcapr g d b xm vm e) s = s.finish 12 (s.captureTo d b xm vm r) := by
  rw [exec_pcapr, execPcapr_eq, instr_ready hr, captureReady_goes hx hv, href]
  rfl

theorem pcapr_traps {c : BitVec 8} {v : Word} (href : s.podRef g (s.xr e) = .error (.trap c v)) :
    Traps (.pcapr g d b xm vm e) s c v := by
  rw [Traps, exec_pcapr, execPcapr_eq, instr_ready hr, captureReady_goes hx hv, href]
  exact finish_fault c v
end

/-! The state after it. -/

theorem core_setCore_setC (c : Core) (v : BitVec 16) : ∃ z, ((s.setCore c).setC d v).core = c.setCtx s.ctx z :=
  ⟨_, by rw [State.setC, State.core_updMe, State.core_setCore, State.setCore_ctx]⟩

/-- A captured v register is read back from its row. -/
theorem row_capturedCore (hwf : s.core.pool.wf = true) {j : Nat} (hj : j < 2) (hvm : vm.getLsbD j = true) :
    (s.capturedCore i row entry xm vm r).row (s.core.podBase + row + 1 + j) = s.vr (BitVec.ofNat 5 (14 + j)) := by
  have hne : vm ≠ 0 := by
    rintro rfl
    simp at hvm
  rw [State.capturedCore, Core.row_captured_vector _ _ _ _ _ _ hwf hj hne, State.capturedV, if_pos hvm]
  exact Nat.mod_eq_of_lt (readLE_lt _ _ _)

end Sys2Proof.Machine
end

section
open Sys2Proof Sys2Proof.Machine

/-- Settles O44. The fields of the slot are laid end to end in its first row, so that each is read back at its place; the rows of the
v registers stand behind it, and the write of C[A] leaves the pool as it is. -/
theorem podCaptures : Obligations.PodCaptures := by
  unfold Obligations.PodCaptures
  intro g d b e xm vm i row s hcan hx hv c n x makes
  have hwf : c.pool.wf = true := hcan.2 s.cur
  have hmakes : ∀ q r, r.kind < 4 → r.bytes < 2 ^ 128 → exec q s = s.finish 12 (s.captureTo d b xm vm r) → makes q r := by
    intro q r hk hb hexec
    refine ⟨captureTo_traps hexec, fun hi hrow => ⟨_, captureTo_retires hexec hi hrow, ?_, ?_⟩⟩
    · rw [State.cr, State.me_setC, Ctx.getC_setC_same]
    have hholds := holds_capturedCore (i := i) (entry := s.xr b) (xm := xm) (vm := vm) hwf hk hb (freeRun_lt hrow)
    have hslot : (s.capturedCore i row (s.xr b) xm vm r).slotAt i = { c.slotAt i with used := true, row := row } :=
      Core.slotAt_captured _ _ _ _ _ _
    obtain ⟨z, hcore⟩ := core_setCore_setC (s := s) (d := d) (s.capturedCore i row (s.xr b) xm vm r)
      (BitVec.ofNat 16 ((c.slotAt i).gen.toNat * 64 + i))
    rw [hcore]
    refine ⟨hslot, ?_, fun j hj hvm => row_capturedCore hwf hj hvm, fun a ha => Core.read_captured_out _ _ _ _ _ _ hwf ha⟩
    rw [← hslot] at hholds
    exact ⟨hholds.entry, hholds.words, hholds.ref.trans (Nat.mod_eq_of_lt hb).symm, hholds.xmask, hholds.vmask, hholds.rkind, hholds.count,
      hholds.qhold, hholds.not_exported hk⟩
  exact ⟨fun hr => hmakes _ _ (by decide) (by decide) (pcap_captures hx hv hr), fun hr =>
    ⟨fun r href hk hb => hmakes _ r hk hb (pcapr_captures hx hv hr href), fun v t href => pcapr_traps hx hv hr href⟩⟩
end

section
/-! SUPPORT. The applying of pods (R220 to R222), their messages and their handles (R223 to R225): what each instruction does. -/

namespace Sys2Proof.Machine

variable {s : State} {d a : BitVec 5} {h g : BitVec 4} {i k : Nat} {p : PodSlot} {b : PodBad} {o : Bool}

theorem exec_pcall (o : Bool) (h : BitVec 4) (s : State) : exec (.pcall o h) s = execPcall o h s := rfl
theorem exec_pspawn (o : Bool) (d : BitVec 5) (h : BitVec 4) (s : State) : exec (.pspawn o d h) s = execPspawn o d h s := rfl
theorem exec_psend (d : BitVec 5) (h : BitVec 4) (a : BitVec 5) (s : State) : exec (.psend d h a) s = execPsend d h a s := rfl
theorem exec_pdup (g h : BitVec 4) (s : State) : exec (.pdup g h) s = execPdup g h s := rfl
theorem exec_prel (h : BitVec 4) (s : State) : exec (.prel h) s = execPrel h s := rfl
theorem exec_pget (d : BitVec 5) (h : BitVec 4) (s : State) : exec (.pget d h) s = execPget d h s := rfl
theorem exec_pexport (d : BitVec 5) (h : BitVec 4) (s : State) : exec (.pexport d h) s = execPexport d h s := rfl
theorem exec_pimport (g : BitVec 4) (a : BitVec 5) (s : State) : exec (.pimport g a) s = execPimport g a s := rfl

/-- An instruction whose registers are ready and whose body faults takes that exception. -/
theorem instr_traps {j : Instr} {us : List Use} {len : Nat} {body : State → Run Done} {c : BitVec 8} {v : Word}
    (hexec : exec j s = s.instr len us body) (hr : s.ready us) (hbody : body s = fault c v) : Traps j s c v := by
  rw [Traps, hexec, instr_ready hr, hbody, finish_fault]

section
variable {j : Instr} {us : List Use} {len : Nat} {body : State → Run Done} {v : BitVec 16} {f : Nat × PodSlot → Run Done}
  (hexec : exec j s = s.instr len us body) (hr : s.ready us) (hbody : body s = s.podLive v >>= f)
include hexec hr hbody

/-- An instruction on a handle that is not live faults (R215). -/
theorem stale_traps (hp : s.core.livePod v = none) : Traps j s Cause.POD_STALE (v.setWidth 64) :=
  instr_traps hexec hr (by rw [hbody, State.podLive, hp]; rfl)

/-- With its handle live it goes on with the slot. -/
theorem exec_of_live (hp : s.core.livePod v = some (i, p)) : exec j s = s.finish len (f (i, p)) := by
  rw [hexec, instr_ready hr, hbody, State.podLive, hp]
  rfl
end

/-! pcall. -/

/-- The state in which a call goes on at the entry: the captures have landed, x1 holds the next instruction, and a .once form has
released the pod (R221). -/
def State.called (s : State) (o : Bool) (i : Nat) (p : PodSlot) : State :=
  let t := (s.updCore fun c => c.land s.ctx p).setX 1 (s.nextPc 4)
  if o then t.updCore fun c => c.releasePod i else t

section
variable (hr : s.ready [.c h]) (hx : (Use.x 1).loading s.me = false)
include hr hx

theorem pcall_goes (hp : s.podCheck s.cur (s.cr h) = .ok (i, p)) :
    RetiresTo (.pcall o h) s (s.called o i p) (word (s.core.podFld p 0 8)) :=
  instr_retiresTo (exec_pcall o h s) hr (by simp only [State.x1Ready, hx, Bool.false_eq_true, if_false, State.podChecked, hp]; rfl)

theorem pcall_refused (hp : s.podCheck s.cur (s.cr h) = .error b) : Traps (.pcall o h) s b.cause ((s.cr h).setWidth 64) :=
  instr_traps (exec_pcall o h s) hr (by simp only [State.x1Ready, hx, Bool.false_eq_true, if_false, State.podChecked, hp]; rfl)
end

/-! pspawn. -/

/-- The apply that a pspawn makes: its helper takes the limits and the handler of the executing context (R222). -/
abbrev State.applyOf (s : State) (h : BitVec 4) : Apply := ⟨s.cr h, s.me.stacklim, s.me.trapvec, []⟩

/-- The core with an apply of slot `p` at the end of its queue, holding the slot (R222). -/
def Core.queued (c : Core) (p : PodSlot) (q : Apply) : Core :=
  let u := c.podSet p 91 1 (c.podQhold p + 1)
  { u with applyQ := c.applyQ ++ [⟨q, u.capOf p, c.task || c.podMsg⟩] }

/-- The release that a .once form makes. -/
def Core.releaseOnce (c : Core) (o : Bool) (i : Nat) : Core := if o then c.releasePod i else c

@[simp] theorem Core.applyQ_releasePod (c : Core) (i : Nat) : (c.releasePod i).applyQ = c.applyQ := by
  simp only [Core.releasePod]
  split <;> rfl
@[simp] theorem Core.ctxAt_releasePod (c : Core) (i k : Nat) : (c.releasePod i).ctxAt k = c.ctxAt k := by
  simp only [Core.releasePod]
  split <;> rfl
@[simp] theorem Core.applyQ_releaseOnce (c : Core) (o : Bool) (i : Nat) : (c.releaseOnce o i).applyQ = c.applyQ := by
  cases o
  · rfl
  · exact Core.applyQ_releasePod c i
@[simp] theorem Core.ctxAt_releaseOnce (c : Core) (o : Bool) (i k : Nat) : (c.releaseOnce o i).ctxAt k = c.ctxAt k := by
  cases o
  · rfl
  · exact Core.ctxAt_releasePod c i k

/-! The four ends of an apply (R222). -/

section
variable {q : Apply} {pts : BitVec 64}

theorem spawnApply_bad (hp : s.podCheck s.cur q.handle = .error b) : s.spawnApply s.cur q o pts = (.bad b, s) := by
  simp only [State.spawnApply, hp]

variable (hp : s.podCheck s.cur q.handle = .ok (i, p))
include hp

theorem spawnApply_started (hf : s.core.freeHelper = some k) : s.spawnApply s.cur q o pts = (.started k, s.setCore
    (((s.core.startHelper k (word (s.core.podFld p 0 8)) q.stacklim q.trapvec true q.data pts).land k p).releaseOnce o i)) := by
  simp only [State.spawnApply, hp, show (s.coreAt s.cur).freeHelper = _ from hf]
  rfl

theorem spawnApply_full (hf : s.core.freeHelper = none) (hq : 16 ≤ s.core.applyQ.length) : s.spawnApply s.cur q o pts = (.full, s) := by
  simp only [State.spawnApply, hp, show (s.coreAt s.cur).freeHelper = _ from hf]
  exact if_pos hq

theorem spawnApply_queued (hf : s.core.freeHelper = none) (hq : s.core.applyQ.length < 16) :
    s.spawnApply s.cur q o pts = (.queued, s.setCore ((s.core.queued p q).releaseOnce o i)) := by
  simp only [State.spawnApply, hp, show (s.coreAt s.cur).freeHelper = _ from hf]
  exact if_neg (Nat.not_le.2 hq)
end

/-! The pspawn for each of them. -/

section
variable (hr : s.ready [.x d, .c h])
include hr

theorem pspawn_refused (hp : s.podCheck s.cur (s.cr h) = .error b) : Traps (.pspawn o d h) s b.cause ((s.cr h).setWidth 64) :=
  instr_traps (exec_pspawn o d h s) hr (by simp only [spawnApply_bad (q := s.applyOf h) hp])

variable (hp : s.podCheck s.cur (s.cr h) = .ok (i, p))
include hp

theorem pspawn_started (hf : s.core.freeHelper = some k) : Retires (.pspawn o d h) s 4 ((s.setCore (((s.core.startHelper k
    (word (s.core.podFld p 0 8)) s.me.stacklim s.me.trapvec true [] s.me.pts).land k p).releaseOnce o i)).setX d (word k)) :=
  instr_retires (exec_pspawn o d h s) hr (by simp only [spawnApply_started (q := s.applyOf h) hp hf])

theorem pspawn_full (hf : s.core.freeHelper = none) (hq : 16 ≤ s.core.applyQ.length) : Retires (.pspawn o d h) s 4 (s.setX d 0) :=
  instr_retires (exec_pspawn o d h s) hr (by simp only [spawnApply_full (q := s.applyOf h) hp hf hq])

theorem pspawn_queued (hf : s.core.freeHelper = none) (hq : s.core.applyQ.length < 16) : Retires (.pspawn o d h) s 4
    ((s.setCore ((s.core.queued p (s.applyOf h)).releaseOnce o i)).setX d 16) :=
  instr_retires (exec_pspawn o d h s) hr (by simp only [spawnApply_queued (q := s.applyOf h) hp hf hq])
end

/-- An apply that is queued leaves the executing context as it is. -/
theorem me_setCore_queued (q : Apply) : (s.setCore ((s.core.queued p q).releaseOnce o i)).me = s.me := by
  rw [State.me, State.core_setCore, Core.ctxAt_releaseOnce]
  rfl

/-! Handles. -/

theorem pget_retires (hr : s.ready [.x d, .c h]) : Retires (.pget d h) s 4 (s.setX d ((s.cr h).setWidth 64)) :=
  instr_retires (exec_pget d h s) hr rfl

section
variable (hr : s.ready [.c h])
include hr

theorem prel_stale (hp : s.core.livePod (s.cr h) = none) : Traps (.prel h) s Cause.POD_STALE ((s.cr h).setWidth 64) :=
  stale_traps (exec_prel h s) hr rfl hp

theorem prel_retires (hp : s.core.livePod (s.cr h) = some (i, p)) : Retires (.prel h) s 4 (s.updCore fun c => c.releasePod i) :=
  exec_of_live (exec_prel h s) hr rfl hp
end

section
variable (hr : s.ready [.c g, .c h])
include hr

theorem pdup_stale (hp : s.core.livePod (s.cr h) = none) : Traps (.pdup g h) s Cause.POD_STALE ((s.cr h).setWidth 64) :=
  stale_traps (exec_pdup g h s) hr rfl hp

variable (hp : s.core.livePod (s.cr h) = some (i, p))
include hp

theorem pdup_live : exec (.pdup g h) s = s.finish 4 (if s.core.podCount p = 255 then fault Cause.POD_REFCOUNT ((s.cr h).setWidth 64)
    else goes ((s.updCore fun c => c.podSet p 90 1 (c.podCount p + 1)).setC g (s.cr h))) :=
  exec_of_live (exec_pdup g h s) hr rfl hp

theorem pdup_over (hc : s.core.podCount p = 255) : Traps (.pdup g h) s Cause.POD_REFCOUNT ((s.cr h).setWidth 64) := by
  rw [Traps, pdup_live hr hp, if_pos hc, finish_fault]

theorem pdup_retires (hc : s.core.podCount p ≠ 255) :
    Retires (.pdup g h) s 4 ((s.updCore fun c => c.podSet p 90 1 (c.podCount p + 1)).setC g (s.cr h)) := by
  rw [Retires, pdup_live hr hp, if_neg hc, finish_goes]
end

section
variable (hr : s.ready [.x d, .c h])
include hr

theorem pexport_stale (hp : s.core.livePod (s.cr h) = none) : Traps (.pexport d h) s Cause.POD_STALE ((s.cr h).setWidth 64) :=
  stale_traps (exec_pexport d h s) hr rfl hp

variable (hp : s.core.livePod (s.cr h) = some (i, p))
include hp

theorem pexport_live : exec (.pexport d h) s = s.finish 4 (let token := word (s.cur * 2 ^ 16 + (s.cr h).toNat)
    if s.core.podExported p then goes (s.setX d token)
    else if s.core.podCount p = 255 then fault Cause.POD_REFCOUNT ((s.cr h).setWidth 64)
    else goes ((s.updCore fun c => (c.podSet p 90 1 (c.podCount p + 1)).podSet p 89 1 (c.podKinds p + 16)).setX d token)) :=
  exec_of_live (exec_pexport d h s) hr rfl hp

theorem pexport_again (hx : s.core.podExported p = true) :
    Retires (.pexport d h) s 4 (s.setX d (word (s.cur * 2 ^ 16 + (s.cr h).toNat))) := by
  rw [Retires, pexport_live hr hp, if_pos hx, finish_goes]

variable (hx : s.core.podExported p = false)
include hx

theorem pexport_over (hc : s.core.podCount p = 255) : Traps (.pexport d h) s Cause.POD_REFCOUNT ((s.cr h).setWidth 64) := by
  rw [Traps, pexport_live hr hp, if_neg (ne_true_of_eq_false hx), if_pos hc, finish_fault]

theorem pexport_retires (hc : s.core.podCount p ≠ 255) : Retires (.pexport d h) s 4 ((s.updCore fun c =>
    (c.podSet p 90 1 (c.podCount p + 1)).podSet p 89 1 (c.podKinds p + 16)).setX d (word (s.cur * 2 ^ 16 + (s.cr h).toNat))) := by
  rw [Retires, pexport_live hr hp, if_neg (ne_true_of_eq_false hx), if_neg hc, finish_goes]
end

section
variable (hr : s.ready [.c g, .x a])
include hr

theorem pimport_foreign (hcur : (s.xr a).toNat / 2 ^ 16 ≠ s.cur) : Traps (.pimport g a) s Cause.POD_FOREIGN (s.xr a) :=
  instr_traps (exec_pimport g a s) hr (if_pos hcur)

variable (hcur : (s.xr a).toNat / 2 ^ 16 = s.cur) (hp : s.core.livePod ((s.xr a).setWidth 16) = some (i, p))
include hcur hp

/-- A token of this core whose pod is live is taken where the pod is EXPORTED. -/
theorem pimport_live : exec (.pimport g a) s = s.finish 4 (if s.core.podExported p then goes (s.setC g ((s.xr a).setWidth 16))
    else fault Cause.POD_STALE (((s.xr a).setWidth 16).setWidth 64)) :=
  exec_of_live (exec_pimport g a s) hr (if_neg (not_not.2 hcur)) hp

theorem pimport_retires (hx : s.core.podExported p = true) : Retires (.pimport g a) s 4 (s.setC g ((s.xr a).setWidth 16)) := by
  rw [Retires, pimport_live hr hcur hp, if_pos hx, finish_goes]

theorem pimport_unexported (hx : s.core.podExported p = false) :
    Traps (.pimport g a) s Cause.POD_STALE (((s.xr a).setWidth 16).setWidth 64) := by
  rw [Traps, pimport_live hr hcur hp, if_neg (ne_true_of_eq_false hx), finish_fault]
end

/-! psend. -/

section
variable (hr : s.ready [.x d, .c h, .x a])
include hr

theorem psend_stale (hp : s.core.livePod (s.cr h) = none) : Traps (.psend d h a) s Cause.POD_STALE ((s.cr h).setWidth 64) :=
  stale_traps (exec_psend d h a s) hr rfl hp

variable (hp : s.core.livePod (s.cr h) = some (i, p)) (hvm : s.core.podVmask p = 0) (hk : s.core.podRkind p = 0)
  (hcaps : (List.range 8).countP (fun j => s.core.podXmask p / 2 ^ j % 2 == 1) ≤ 6) (hto : (s.xr a).toNat = k) (hcore : coreExists k = true)
  (hown : s.holderOf k = s.holderOf s.cur) (hinst : (s.coreAt k).installed = true)
include hp hvm hk hcaps hto hcore hown hinst

/-- A portable pod for an installed core of the same holder is sent where there is room. -/
theorem psend_live : exec (.psend d h a) s = s.finish 4
    (if 4 ≤ (s.coreAt k).inbox.length + s.transit k || (s.coreAt k).hstat != .running then goes (s.setX d 0)
    else if maxFlits ≤ s.outbound s.cur then waiting s
    else goes (({ s with barq := s.barq ++ [(k, Packet.inbox s.cur
      { kind := true, words := s.core.podRecord p, gang := 0, pts := s.me.pts })] }).setX d 1)) := by
  subst hto
  have hportable : ¬((decide (s.core.podVmask p ≠ 0) || s.core.podRkind p != 0 || decide (6 < (List.range 8).countP
      fun j => s.core.podXmask p / 2 ^ j % 2 == 1)) = true) := by simpa [hvm, hk] using hcaps
  have htarget : ¬((!coreExists (s.xr a).toNat || s.holderOf (s.xr a).toNat != s.holderOf s.cur || !(s.coreAt (s.xr a).toNat).installed) =
      true) := by simp [hcore, hown, hinst]
  exact (exec_of_live (exec_psend d h a s) hr rfl hp).trans (congrArg (s.finish 4) ((if_neg hportable).trans (if_neg htarget)))

theorem psend_sends (hroom : (s.coreAt k).inbox.length + s.transit k < 4) (hrun : (s.coreAt k).hstat = .running)
    (hout : s.outbound s.cur < 32) : Retires (.psend d h a) s 4 (({ s with barq := s.barq ++ [(k, Packet.inbox s.cur
      { kind := true, words := s.core.podRecord p, gang := 0, pts := s.me.pts })] }).setX d 1) := by
  rw [Retires, psend_live hr hp hvm hk hcaps hto hcore hown hinst, if_neg (by simp [hrun, hroom]),
    if_neg (show ¬maxFlits ≤ s.outbound s.cur from Nat.not_le.2 hout), finish_goes]

theorem psend_full (hfull : 4 ≤ (s.coreAt k).inbox.length + s.transit k) : Retires (.psend d h a) s 4 (s.setX d 0) := by
  rw [Retires, psend_live hr hp hvm hk hcaps hto hcore hown hinst, if_pos (by simp [hfull]), finish_goes]
end

end Sys2Proof.Machine
end

section
open Sys2Proof Sys2Proof.Machine

/-- Settles O45, instruction by instruction: a call by the check, a spawn by the four ends of an apply, and the others by whether
their handle is live and by what the slot holds. As its parentheses stand, the statement has the clauses from the full queue to
pexport under the hypotheses of the clause before them, one of which is a free helper, and the rest under the registers of pspawn.
The lemmas cited need none of that: each has the hypotheses of its own clause alone. -/
theorem podResults : Obligations.PodResults := by
  unfold Obligations.PodResults
  intro o d a h g i k p b s
  refine ⟨fun hr hx => ⟨pcall_goes hr hx, pcall_refused hr hx⟩, fun hr => ⟨pspawn_refused hr, fun hp hf =>
    ⟨pspawn_started hr hp hf, pspawn_full hr, fun hp hf hq => ⟨_, pspawn_queued hr hp hf hq, ?_, me_setCore_queued _⟩, pget_retires hr,
      pexport_stale hr, fun hp => ⟨pexport_again hr hp, pexport_over hr hp, pexport_retires hr hp⟩⟩,
    fun hr => ⟨psend_stale hr, fun hp hvm hk hcaps hto hcore hown hinst => ⟨psend_sends hr hp hvm hk hcaps hto hcore hown hinst,
      psend_full hr hp hvm hk hcaps hto hcore hown hinst⟩⟩,
    fun hr => ⟨pdup_stale hr, pdup_over hr, pdup_retires hr⟩, fun hr => ⟨prel_stale hr, prel_retires hr⟩,
    fun hr => ⟨pimport_foreign hr, fun hcur hp => ⟨pimport_retires hr hcur hp, pimport_unexported hr hcur hp⟩⟩⟩⟩
  rw [State.core_setCore, Core.applyQ_releaseOnce]
  rfl
end

section
/-! SUPPORT. The shared moves of segment entries (R231 to R237), and the write home of an eviction: an access of the device to
memory changes no attachment, no domain of a core, and of the directory the DIRTY marks alone. -/

namespace Sys2Proof.Machine

/-! The times, walks and lookups of an access leave the directory. -/

section
variable (s : State)

@[simp] theorem segs_addCounter (k i ev amt : Nat) : (s.addCounter k i ev amt).segs = s.segs := by
  simp only [State.addCounter]
  split <;> rfl

@[simp] theorem segs_addShared (die i ev amt : Nat) : (s.addShared die i ev amt).segs = s.segs := by
  simp only [State.addShared]
  split <;> rfl

@[simp] theorem segs_countNear (req : Option Nat) (ev amt : Nat) (at' : Nat → Bool) (die : Nat) :
    (s.countNear req ev amt at' die).segs = s.segs := by
  simp only [State.countNear]
  rw [foldl_view_same (v := State.segs) fun s _ => segs_addShared s _ _ _ _, foldl_view_same (v := State.segs) fun s _ => ?_]
  split
  · exact foldl_view_same (v := State.segs) (fun s _ => segs_addCounter s _ _ _ _) _ s
  · rfl

@[simp] theorem segs_count (k ev amt : Nat) : (s.count k ev amt).segs = s.segs :=
  (foldl_view_same (v := State.segs) (fun s _ => segs_addShared s _ _ _ _) _ _).trans
    (foldl_view_same (v := State.segs) (fun s _ => segs_addCounter s _ _ _ _) _ s)

@[simp] theorem segs_countReq (g : Ag) (ev : Nat) : (s.countReq g ev).segs = s.segs := by
  unfold State.countReq
  split <;> simp

@[simp] theorem segs_countL2 (req : Option Nat) (wr : Bool) (a : Nat) : (s.countL2 req wr a).segs = s.segs := by
  simp only [State.countL2, segs_countNear, State.lineSize, State.metaLook]
  repeat' split
  all_goals rfl

@[simp] theorem segs_lookHome (g : Ag) (wr : Bool) (l : Nat) : (s.lookHome g wr l).segs = s.segs := by
  unfold State.lookHome
  split <;> simp

@[simp] theorem segs_widen (g : Ag) (l : Nat) : (s.widen g l).segs = s.segs := by
  simp only [State.widen]
  repeat' split
  all_goals simp [State.setLine]

@[simp] theorem segs_stampReads (ls : List Nat) (pts : BitVec 64) : (s.stampReads ls pts).2.segs = s.segs := by
  refine foldl_view_same (v := State.segs) (fun s l => ?_) ls s
  rfl

@[simp] theorem segs_stampWrites (g : Ag) (ls : List Nat) (pts : BitVec 64) : (s.stampWrites g ls pts).2.segs = s.segs := by
  simp only [State.stampWrites]
  refine (foldl_view_same (v := State.segs) (fun s l => ?_) ls _).trans ?_
  · rfl
  have hlook : ∀ ks : List Nat, (ks.foldl (fun s l => s.lookHome g true l) (ls.foldl (fun s l => s.widen g l) s)).segs = s.segs :=
    fun ks => (foldl_view_same (v := State.segs) (fun s l => segs_lookHome s g true l) ks _).trans
      (foldl_view_same (v := State.segs) (fun s l => segs_widen s g l) ls s)
  split <;> simp [hlook]

@[simp] theorem segs_readWalk (g : Ag) (w : Walked) (pts : BitVec 64) : (s.readWalk g w pts).2.segs = s.segs :=
  (segs_stampReads _ _ _).trans (foldl_view_same (v := State.segs) (fun s _ => segs_countL2 s _ _ _) w.lines s)
end

variable {s t u : State} {g h : Seg} {k : Nat}

theorem segs_translate {ag : Ag} {acc : Acc} {a : Nat} {p : Place} (h : s.translate ag acc a = .ok (p, u)) : u.segs = s.segs := by
  unfold State.translate at h
  dsimp only at h
  split at h
  · cases h
  · split at h
    · cases h
    · cases h
      rw [← segs_readWalk s ag]
      simp only [State.noteCmp, State.cacheWalk]
      repeat' split
      all_goals rfl

/-! What an entry bears, and what of a state the moves of segments keep. -/

/-- By what an entry is found (R230): its domain, its name, and whether it is live. -/
def Seg.bearing (g : Seg) : Nat × Word × Bool := (g.dom, g.name, g.live)

/-- No live entry of a domain bears the name. -/
theorem liveSeg_eq_none_iff {dom : Nat} {name : Word} : s.liveSeg dom name = none ↔ (dom, name, true) ∉ s.segs.map Seg.bearing := by
  simp [State.liveSeg, List.find?_eq_none, Seg.bearing]

/-- `t` has the attachments and the domains of the cores of `s`, and no entry that bears what none of `s` does. -/
structure State.KeepsSegs (s t : State) : Prop where
  cur : t.cur = s.cur
  attach : ∀ k, (t.coreAt k).attach = (s.coreAt k).attach
  domain : ∀ k, (t.coreAt k).domain = (s.coreAt k).domain
  segs : t.segs.map Seg.bearing ⊆ s.segs.map Seg.bearing

namespace State.KeepsSegs

theorem of_cores (cores : t.cores = s.cores) (cur : t.cur = s.cur) (segs : t.segs.map Seg.bearing ⊆ s.segs.map Seg.bearing) :
    s.KeepsSegs t :=
  ⟨cur, fun k => by rw [State.coreAt, cores]; rfl, fun k => by rw [State.coreAt, cores]; rfl, segs⟩

/-- The same cores, and the same directory. -/
theorem of_same (cores : t.cores = s.cores) (cur : t.cur = s.cur) (segs : t.segs = s.segs) : s.KeepsSegs t :=
  of_cores cores cur (by rw [segs]; exact List.Subset.refl _)

theorem refl (s : State) : s.KeepsSegs s := of_same rfl rfl rfl

theorem trans (h : s.KeepsSegs t) (h' : t.KeepsSegs u) : s.KeepsSegs u where
  cur := h'.cur.trans h.cur
  attach k := (h'.attach k).trans (h.attach k)
  domain k := (h'.domain k).trans (h.domain k)
  segs := List.Subset.trans h'.segs h.segs

theorem of_alike (h : s.Alike (fun _ => True) t) (hs : t.segs = s.segs) : s.KeepsSegs t where
  cur := h.cur
  attach k := by rw [h.coreAt_eq k]
  domain k := by rw [h.coreAt_eq k]
  segs := by rw [hs]; exact List.Subset.refl _

theorem updCoreAt (s : State) (k : Nat) {f : Core → Core} (ha : ∀ c, (f c).attach = c.attach := by exact fun _ => rfl)
    (hd : ∀ c, (f c).domain = c.domain := by exact fun _ => rfl) : s.KeepsSegs (s.updCoreAt k f) where
  cur := rfl
  attach m := by rw [coreAt_updCoreAt]; split <;> simp [ha]
  domain m := by rw [coreAt_updCoreAt]; split <;> simp [hd]
  segs := List.Subset.refl _

theorem updMe (f : Ctx → Ctx) (s : State) : s.KeepsSegs (s.updMe f) :=
  updCoreAt s s.cur (f := fun c => c.setCtx s.ctx (f s.me))

theorem core_attach (h : s.KeepsSegs t) : t.core.attach = s.core.attach := by rw [State.core, h.cur]; exact h.attach s.cur
theorem core_domain (h : s.KeepsSegs t) : t.core.domain = s.core.domain := by rw [State.core, h.cur]; exact h.domain s.cur

/-! Steps of memory. -/

theorem stampReads (s : State) (ls : List Nat) (pts : BitVec 64) : s.KeepsSegs (s.stampReads ls pts).2 :=
  of_alike (.stampReads s ls pts) (segs_stampReads s ls pts)

theorem stampWrites (s : State) (ag : Ag) (ls : List Nat) (pts : BitVec 64) : s.KeepsSegs (s.stampWrites ag ls pts).2 :=
  of_alike (.stampWrites (fun _ _ => trivial) (fun _ _ _ _ => trivial) s pts) (segs_stampWrites s ag ls pts)

theorem translate {ag : Ag} {acc : Acc} {a : Nat} {p : Place} (h : s.translate ag acc a = .ok (p, t)) : s.KeepsSegs t :=
  of_alike (.translate (fun _ => trivial) h) (segs_translate h)

theorem extAnswer (s : State) (wr : Bool) (p : Place) (a : Nat) : s.KeepsSegs (s.extAnswer wr p a).2 := by
  simp only [State.extAnswer]
  repeat' split
  all_goals exact of_same rfl rfl rfl

theorem outPut (s : State) (rs : List (Nat × List Byte)) : s.KeepsSegs (s.outPut rs) := by
  simp only [State.outPut]
  split <;> exact of_same rfl rfl rfl

theorem outsideWrites_outPut (s : State) (rs : List (Nat × List Byte)) : s.KeepsSegs (s.outsideWrites.outPut rs) :=
  (of_same rfl rfl rfl : State.KeepsSegs s s.outsideWrites).trans (outPut _ rs)

theorem spanWrite (s : State) (ag : Ag) (rs : List (Nat × List Byte)) (pts : BitVec 64) : s.KeepsSegs (s.spanWrite ag rs pts).2 := by
  simp only [State.spanWrite]
  refine trans (trans ?_ (stampWrites _ ag _ pts)) (of_same rfl rfl rfl)
  split
  · exact refl s
  · exact outsideWrites_outPut s _

theorem fmtBlock (s : State) (ag : Ag) (f : GxT) (bpa o : Nat) (bs : List (Option Byte)) (pts : BitVec 64) :
    s.KeepsSegs (s.fmtBlock ag f bpa o bs pts).2.1 := by
  simp only [State.fmtBlock]
  split
  · exact refl s
  · exact spanWrite s ag _ pts

theorem fmtWrite (s : State) (ag : Ag) (f : GxT) (pa o : Nat) (bs : List (Option Byte)) (pts : BitVec 64) :
    s.KeepsSegs (s.fmtWrite ag f pa o bs pts).2.1 :=
  List.foldlRecOn (motive := fun r : BitVec 64 × State × FFlags => s.KeepsSegs r.2.1) _ _ (refl s) fun _ h _ _ =>
    h.trans (fmtBlock _ ag f _ _ _ _)

theorem domStore (s : State) (o d off n img : Nat) : s.KeepsSegs (s.domStore o d off n img) := of_same rfl rfl rfl

theorem ring (s : State) (i : Nat) (v : BitVec 32) : s.KeepsSegs (s.ring i v) := by
  simp only [State.ring]
  repeat' split
  all_goals exact of_same rfl rfl rfl

theorem qslotStore (s : State) (o i off n img : Nat) : s.KeepsSegs (s.qslotStore o i off n img) := by
  simp only [State.qslotStore]
  split
  · exact (of_same rfl rfl rfl : State.KeepsSegs s (s.setQslot i _)).trans (ring _ i _)
  · exact of_same rfl rfl rfl

/-- The control space holds no segment, and nothing of a core (R322). -/
theorem ctlStore (s : State) (o : Nat) (b : Blk) (off n img : Nat) : s.KeepsSegs (s.ctlStore o b off n img) := by
  cases b with
  | qslot i => exact qslotStore s o i off n img
  | mbpend => simp only [State.ctlStore]; split <;> exact of_same rfl rfl rfl
  | attest => simp only [State.ctlStore]; split <;> exact of_same rfl rfl rfl
  | dom | func | mailbox | logd | load | bucket => exact of_same rfl rfl rfl

theorem ctlPut {o pa : Nat} {bs : List Byte} (h : s.ctlPut o pa bs = some t) : s.KeepsSegs t := by
  simp only [State.ctlPut] at h
  split at h
  · cases h
  · split at h
    · cases h
      exact List.foldlRecOn (motive := fun sb : State × List Byte => s.KeepsSegs sb.1) _ _ (refl s) fun _ h _ _ =>
        h.trans (ctlStore _ o _ _ _ _)
    · cases h

theorem ctlWrites {o : Nat} (rs : List (Nat × List Byte)) (h : s.ctlWrites o rs = some t) : s.KeepsSegs t := by
  induction rs generalizing s with
  | nil => cases h; exact refl _
  | cons r rs ih =>
    simp only [State.ctlWrites] at h
    split at h
    · next hput => exact (ctlPut hput).trans (ih h)
    · cases h

theorem dirtyRows (s : State) (k : Nat) (rows : List Nat) : s.KeepsSegs (s.dirtyRows k rows) := by
  refine of_cores rfl rfl ?_
  rw [State.dirtyRows, List.map_map, List.map_congr_left (g := Seg.bearing)]
  · exact List.Subset.refl _
  · intro g _
    simp only [Function.comp]
    split <;> rfl

theorem setRuns (s : State) (k : Nat) (rows : List Nat) (rs : List (Nat × List Byte)) :
    s.KeepsSegs (s.updCoreAt k fun c => c.setRuns rows rs) :=
  updCoreAt s k (fun c => by rw [(setRuns_spec c rows rs).1]; rfl) fun c => by rw [(setRuns_spec c rows rs).1]; rfl

theorem writePlace {ag : Ag} {p : Place} {a : Nat} {bs : List (Option Byte)} {pts : BitVec 64} {r : BitVec 64 × State × FFlags}
    (h : s.writePlace ag p a bs pts = .ok r) : s.KeepsSegs r.2.1 := by
  cases p with
  | pool off =>
    cases h
    exact ((stampWrites s ag _ pts).trans (setRuns _ _ _ _)).trans (dirtyRows _ _ _)
  | phys pa =>
    simp only [State.writePlace] at h
    split at h <;> cases h
    · exact outsideWrites_outPut s _
    · exact (stampWrites s ag _ pts).trans (of_same rfl rfl rfl)
  | ctl pa =>
    simp only [State.writePlace] at h
    split at h <;> cases h
    next hput => exact (ctlWrites _ hput).trans (stampWrites _ ag _ pts)
  | fmt f pa o =>
    cases h
    exact fmtWrite s ag f pa o bs pts

theorem writeAt {ag : Ag} {p : Place} {a : Nat} {bs : List (Option Byte)} {pts ts : BitVec 64} {f : FFlags}
    (h : s.writeAt ag p a bs pts = .ok (ts, t, f)) : s.KeepsSegs t := by
  rw [State.writeAt] at h
  cases hplace : s.writePlace ag p a bs (s.joinWalks pts) with
  | error e => rw [hplace] at h; cases h
  | ok r =>
    rw [hplace] at h
    cases h
    exact (writePlace hplace).trans (stampReads _ _ _)

/-- Rows are written home one after another (R237). -/
theorem writeHome (is : List Nat) {pts ts : BitVec 64} (h : s.writeHome g is pts = .ok (ts, t)) : s.KeepsSegs t := by
  induction is generalizing s pts with
  | nil => cases h; exact refl _
  | cons i is ih =>
    simp only [State.writeHome] at h
    split at h
    · cases h
    · next p s1 htr =>
      split at h
      · cases h
      · next s2 hans =>
        split at h
        · cases h
        · next hwrite =>
          have hext : s1.KeepsSegs s2 := by
            have := extAnswer s1 true p (g.home.toNat + 128 * i)
            rwa [hans] at this
          exact ((((translate htr).trans hext).trans (stampReads s2 _ _)).trans (writeAt hwrite)).trans (ih h)

/-! Moves of entries. -/

/-- An entry that bears what one of `s` does takes the place of others. -/
theorem updSeg (hk : s.KeepsSegs t) (hb : h.bearing ∈ s.segs.map Seg.bearing) : s.KeepsSegs (t.updSeg g h) where
  cur := hk.cur
  attach := hk.attach
  domain := hk.domain
  segs b hmem := by
    obtain ⟨x, hx, rfl⟩ := List.mem_map.1 hmem
    obtain ⟨y, hy, rfl⟩ := List.mem_map.1 hx
    split
    · exact hb
    · exact hk.segs (List.mem_map_of_mem hy)

theorem removeSeg (hk : s.KeepsSegs t) (g : Seg) : s.KeepsSegs (t.removeSeg g) :=
  hk.trans (of_cores rfl rfl (List.map_subset _ (List.filter_subset_self _)))

/-- An eviction (R237), of an entry that is live before it and after. -/
theorem evictSeg (hb : g.bearing ∈ s.segs.map Seg.bearing) (hlive : g.live = true) (h : s.evictSeg g = .ok t) : s.KeepsSegs t := by
  have hevicted : ∀ ts, Seg.bearing { g with st := .evicted, dirty := false, evp := false, ro := 0, wr := false, ts := ts } ∈
      s.segs.map Seg.bearing := fun ts => by
    rwa [Seg.bearing, hlive] at hb
  simp only [State.evictSeg] at h
  split at h
  · split at h <;> cases h
    next hhome => exact (writeHome _ hhome).updSeg (hevicted _)
  · cases h
    exact (refl s).updSeg (hevicted _)

theorem lastDetach (hk : s.KeepsSegs t) (hb : g.bearing ∈ t.segs.map Seg.bearing) : s.KeepsSegs (t.lastDetach g) := by
  refine hk.trans ?_
  simp only [State.lastDetach]
  split
  · exact refl t
  split
  · exact (refl t).removeSeg g
  next hdrop =>
  split
  · split
    · next hevict =>
      obtain ⟨-, hlive⟩ : g.drp = false ∧ g.live = true := by simpa using hdrop
      exact evictSeg hb hlive hevict
    · exact (refl t).updSeg hb
  · exact refl t

theorem followHome (hk : s.KeepsSegs t) (k : Nat) (g : Seg) : s.KeepsSegs (t.followHome k g) := by
  refine hk.trans ?_
  simp only [State.followHome]
  split
  · exact (updCoreAt t k).trans (updMe _ _)
  · exact updCoreAt t k

/-- An entry is counted anew at a detach, with what follows the last (R237). -/
theorem recount (hg : g ∈ s.segs) (hb : h.bearing ∈ s.segs.map Seg.bearing) (k : Nat) (c : Prop) [Decidable c] :
    s.KeepsSegs (if c then ((s.updSeg g h).lastDetach h).followHome k h else (s.updSeg g h).lastDetach h) := by
  have hmem : h ∈ (s.updSeg g h).segs := List.mem_map.2 ⟨g, hg, if_pos (beq_self_eq_true g.no)⟩
  have hlast := ((refl s).updSeg (g := g) hb).lastDetach (List.mem_map_of_mem hmem)
  split
  · exact hlast.followHome k h
  · exact hlast

end State.KeepsSegs

theorem core_updCoreAt_cur (s : State) (f : Core → Core) : (s.updCoreAt s.cur f).core = f s.core := State.core_updCore s f

theorem mem_of_attachedSeg {a : Attach} (h : s.attachedSeg a = some g) : g ∈ s.segs := by
  obtain ⟨i, -, hfind⟩ := Option.bind_eq_some_iff.1 h
  exact List.mem_of_find?_eq_some hfind

/-- A publish leaves a live entry live. -/
theorem bearing_published (g : Seg) {pub : Bool} (hpub : pub = true → g.live = true) (ver : BitVec 32) (wr : Bool) (ro : Nat)
    (ts : BitVec 64) : Seg.bearing { g with ver := ver, st := if pub then .resident else g.st, wr := wr, ro := ro, ts := ts } =
      g.bearing := by
  cases pub with
  | false => rfl
  | true => rw [Seg.bearing, Seg.bearing, hpub rfl]; rfl

/-- A detach takes the attachment, and no other (R241). -/
theorem detach_keepsSegs (s : State) (k : Nat) (a : Attach) :
    (s.updCoreAt k fun c => { c with attach := c.attach.erase a }).KeepsSegs (s.detach k a) := by
  simp only [State.detach]
  generalize s.updCoreAt k (fun c => { c with attach := c.attach.erase a }) = t
  split
  · exact .refl t
  next g hg =>
  have hmem := mem_of_attachedSeg hg
  have hpub : (a.rw && g.live && !a.void) = true → g.live = true := fun h => by
    obtain ⟨⟨-, hlive⟩, -⟩ : (a.rw = true ∧ g.live = true) ∧ a.void = false := by simpa using h
    exact hlive
  refine .recount hmem ?_ k _
  rw [bearing_published g hpub]
  exact List.mem_map_of_mem hmem

theorem detach_attach (s : State) (a : Attach) : (s.detach s.cur a).core.attach = s.core.attach.erase a := by
  rw [(detach_keepsSegs s s.cur a).core_attach, core_updCoreAt_cur]

/-- Detaches by the executing core bring no live entry. -/
theorem detaches_liveSeg (as : List Attach) {name : Word} (h : s.liveSeg s.core.domain.toNat name = none) :
    let t := as.foldl (fun s a => s.detach s.cur a) s
    t.liveSeg t.core.domain.toNat name = none := by
  induction as generalizing s with
  | nil => exact h
  | cons a as ih =>
    refine ih ?_
    have hkeep := detach_keepsSegs s s.cur a
    rw [hkeep.core_domain, core_updCoreAt_cur]
    rw [liveSeg_eq_none_iff] at h ⊢
    exact fun hmem => h (hkeep.segs hmem)

theorem mem_insertAttach (a : Attach) (as : List Attach) : a ∈ insertAttach a as := by
  induction as with
  | nil => exact List.mem_singleton_self a
  | cons b as ih =>
    rw [insertAttach]
    split
    · exact List.mem_cons_self
    · exact List.mem_cons_of_mem b ih

end Sys2Proof.Machine
end

section
/-! SUPPORT. The instructions of named segments (R239 to R243): what each of them answers, and the entry that it leaves. -/

namespace Sys2Proof.Machine

variable {cls m : BitVec 2} {cnt : BitVec 11} {d a b e : BitVec 5} {g : Seg} {u : Attach} {base : Nat} {ps : List Place} {s v : State}

theorem exec_segMake (cls : BitVec 2) (cnt : BitVec 11) (d a b e : BitVec 5) (s : State) :
    exec (.segMake cls cnt d a b e) s = execSegMake cls cnt d a b e s := rfl
theorem exec_segAttach (m : BitVec 2) (d b : BitVec 5) (s : State) : exec (.segAttach m d b) s = execSegAttach m d b s := rfl
theorem exec_segDetach (b : BitVec 5) (s : State) : exec (.segDetach b) s = execSegDetach b s := rfl
theorem exec_segPublish (d b : BitVec 5) (s : State) : exec (.segPublish d b) s = execSegPublish d b s := rfl
theorem exec_segEvict (d b : BitVec 5) (s : State) : exec (.segEvict d b) s = execSegEvict d b s := rfl
theorem exec_segDrop (d b : BitVec 5) (s : State) : exec (.segDrop d b) s = execSegDrop d b s := rfl
theorem exec_segQuery (d b : BitVec 5) (s : State) : exec (.segQuery d b) s = execSegQuery d b s := rfl

/-! seg.make. -/

/-- The entry of a segment that is made of `n` rows from `base` (R239). -/
def State.newSeg (s : State) (cls : BitVec 2) (dom n base : Nat) (name home : Word) (e : BitVec 5) : Seg where
  no := s.serial
  name := name
  dom := dom
  core := s.cur
  base := base
  count := n
  ver := 0
  st := .making
  home := home
  cls := cls.toNat
  term := if cls = 3 then s.xr e else 0
  ro := 0
  wr := true
  dirty := true
  evp := false
  drp := false
  maker := some s.core.taskNo
  launch := if cls.toNat ≤ 1 then (s.taskLaunch s.cur).map (fun l => l.2.seq) else none
  ts := s.me.pts

/-- The attachment of the maker, read-write, among those of the core. -/
def Core.attachMaker (c : Core) (g : Seg) : Core :=
  { c with attach := insertAttach ⟨g.name, true, 0, false, g.base, g.count, some g.no⟩ c.attach }

/-- The state in which the entry is listed with its maker's attachment, as a step on its name, and its rows are bumped (R239, R259). -/
def State.makeSeg (s : State) (g : Seg) : State :=
  let t := ((s.nameStep g.dom g.name).bumpOwn g.base (g.base + g.count)).updCore fun c => c.attachMaker g
  { t with segs := t.segs ++ [{ g with ts := t.me.pts }], serial := t.serial + 1 }

theorem makeSeg_segs (s : State) (g : Seg) : (s.makeSeg g).segs = s.segs ++ [{ g with ts := (s.makeSeg g).me.pts }] := rfl
theorem makeSeg_serial (s : State) (g : Seg) : (s.makeSeg g).serial = s.serial + 1 := rfl

theorem mem_makeSeg_attach (s : State) (g : Seg) :
    ⟨g.name, true, 0, false, g.base, g.count, some g.no⟩ ∈ ((s.makeSeg g).coreAt s.cur).attach := by
  have hcore : (s.makeSeg g).coreAt s.cur = ((s.nameStep g.dom g.name).bumpOwn g.base (g.base + g.count)).core.attachMaker g :=
    State.core_updCore ((s.nameStep g.dom g.name).bumpOwn g.base (g.base + g.count)) fun c => c.attachMaker g
  rw [hcore]
  exact mem_insertAttach _ _

section
variable (hr : s.ready ([.x d, .x a, .x b] ++ if cls = 3 then [.x e] else []))
include hr

theorem segMake_arg (h : s.xr a = 0 ∨ cnt.toNat = 0 ∨ 1504 < cnt.toNat ∨ (s.xr b).toNat % 128 ≠ 0 ∨ (s.xr b).toNat < 2 ^ 32) :
    Traps (.segMake cls cnt d a b e) s Cause.SEG_ARG (s.xr a) :=
  instr_traps (exec_segMake cls cnt d a b e s) hr (if_pos (by simpa [or_assoc] using h))

/-- With its checks met, a segment is made of the rows found (R239). -/
theorem segMake_retires (hname : s.xr a ≠ 0) (hpos : cnt.toNat ≠ 0) (hle : cnt.toNat ≤ 1504) (hal : (s.xr b).toNat % 128 = 0)
    (hhome : 2 ^ 32 ≤ (s.xr b).toNat) (hterm : cls = 3 → s.now < (s.xr e).toNat)
    (hplaces : s.homePlaces .write (s.xr b).toNat (List.range cnt.toNat) = .ok (ps, v)) (hfmt : ∀ q ∈ ps, q.formatted = false)
    (hfree : v.liveSeg s.core.domain.toNat (s.xr a) = none) (hdecl : v.core.attach.length < v.core.segsDecl)
    (hdir : v.dirCount (dieOf v.cur) < 8192) (hrows : v.findRows v.cur v.core.rowsDecl cnt.toNat v.core.rowsS = some base) :
    Retires (.segMake cls cnt d a b e) s 12
      ((v.makeSeg (v.newSeg cls s.core.domain.toNat cnt.toNat base (s.xr a) (s.xr b) e)).setX d (word (128 * base))) := by
  have hargs : ¬(decide (s.xr a = 0) || decide (cnt.toNat = 0) || decide (1504 < cnt.toNat) || (s.xr b).toNat % 128 != 0 ||
      decide ((s.xr b).toNat < 2 ^ 32)) = true := by
    simpa [hpos, hle, hal] using And.intro hname hhome
  have hpast : ¬(decide (cls = 3) && decide ((s.xr e).toNat ≤ s.now)) = true := by simpa using hterm
  have hany : ¬(ps.any Place.formatted) = true := by simpa using hfmt
  have hnone : ¬(v.liveSeg s.core.domain.toNat (s.xr a)).isSome = true := by simp [hfree]
  refine instr_retires (exec_segMake cls cnt d a b e s) hr (((if_neg hargs).trans (if_neg hpast)).trans ?_)
  simp only [hplaces, bind, Except.bind]
  refine (if_neg hany).trans ((if_neg hnone).trans ((if_neg (Nat.not_le.2 hdecl)).trans ((if_neg (Nat.not_le.2 hdir)).trans ?_)))
  simp only [hrows]
  rfl
end

/-! seg.attach. -/

/-- No attachment bears the name. -/
theorem filter_name_nil {as : List Attach} {name : Word} (h : ∀ t ∈ as, t.name ≠ name) : (as.filter fun t => t.name == name) = [] :=
  List.filter_eq_nil_iff.2 fun t ht => mt beq_iff_eq.1 (h t ht)

/-- The attachment of a segment of the core, resident or just reloaded, that no exclusive holder keeps from it (R240). -/
theorem attachTo_goes {w : Bool} (s : State) (hheld : if w then g.held = false else g.wr = false)
    (hroom : s.core.attach.length < s.core.segsDecl) : ∃ t : State, s.attachTo false g w d = goes (t.setX d (word (128 * g.base))) ∧
      ⟨g.name, w, g.ver, false, g.base, g.count, some g.no⟩ ∈ t.core.attach := by
  have hfree : ¬(if w then g.held else g.wr) = true := by cases w <;> simpa using hheld
  refine ⟨_, (if_neg hfree).trans (if_neg (Nat.not_le.2 hroom)), ?_⟩
  rw [State.core_updCore]
  exact mem_insertAttach _ _

section
variable (hr : s.ready [.x d, .x b])
include hr

section
variable (hnow : (s.core.attach.find? fun t => t.name == s.xr b && !t.void) = some u)
include hnow

theorem segAttach_again (h : u.rw = m.getLsbD 0) : Retires (.segAttach m d b) s 4 (s.setX d (word (128 * u.base))) :=
  instr_retires (exec_segAttach m d b s) hr (by simp only [hnow]; exact if_pos (beq_iff_eq.2 h))

theorem segAttach_otherwise (h : u.rw ≠ m.getLsbD 0) : Traps (.segAttach m d b) s Cause.SEG_EXCLUSIVE (s.xr b) :=
  instr_traps (exec_segAttach m d b s) hr (by simp only [hnow]; exact if_neg (mt beq_iff_eq.1 h))
end

section
variable (hnow : (s.core.attach.find? fun t => t.name == s.xr b && !t.void) = none)
include hnow

theorem segAttach_unknown (hlive : s.liveSeg s.core.domain.toNat (s.xr b) = none) :
    Traps (.segAttach m d b) s Cause.SEG_UNKNOWN (s.xr b) :=
  instr_traps (exec_segAttach m d b s) hr (by simp only [hnow, detaches_liveSeg _ hlive])

variable (hlive : s.liveSeg s.core.domain.toNat (s.xr b) = some g) (hname : ∀ t ∈ s.core.attach, t.name ≠ s.xr b)
include hlive hname

theorem segAttach_unpublished (hst : g.st = .making) : Traps (.segAttach m d b) s Cause.SEG_UNPUBLISHED (s.xr b) :=
  instr_traps (exec_segAttach m d b s) hr (by simp only [hnow, filter_name_nil hname, List.foldl_nil, hlive, hst])

theorem segAttach_evicted (hst : g.st = .evicted) (hload : m.getLsbD 1 = false) :
    Traps (.segAttach m d b) s Cause.SEG_ATTACH_MISS (s.xr b) :=
  instr_traps (exec_segAttach m d b s) hr (by
    simp only [hnow, filter_name_nil hname, List.foldl_nil, hlive, hst]
    exact if_neg (ne_true_of_eq_false hload))

theorem segAttach_resident (hst : g.st = .resident) (hcore : g.core = s.cur) (hroom : s.core.attach.length < s.core.segsDecl)
    (hheld : if m.getLsbD 0 then g.held = false else g.wr = false) :
    ∃ t : State, Retires (.segAttach m d b) s 4 (t.setX d (word (128 * g.base))) ∧
      ⟨g.name, m.getLsbD 0, g.ver, false, g.base, g.count, some g.no⟩ ∈ t.core.attach := by
  obtain ⟨t, hgoes, hmem⟩ := attachTo_goes (d := d) s hheld hroom
  refine ⟨t, instr_retires (exec_segAttach m d b s) hr ?_, hmem⟩
  simp only [hnow, filter_name_nil hname, List.foldl_nil, hlive, hst]
  exact (if_pos hcore).trans hgoes
end

/-! seg.publish. -/

/-- A writer's publish turns the entry RESIDENT at its next version (R236, R241). -/
theorem segPublish_retires (hwriter : (s.core.attach.find? fun t => t.name == s.xr b && !t.void && t.rw) = some u)
    (hbusy : s.core.segBusy u = false) (hg : s.attachedSeg u = some g) (hlive : g.live = true) :
    ∃ t : State, Retires (.segPublish d b) s 4 (t.setX d ((g.ver + 1).setWidth 64)) ∧
      ∀ x ∈ t.segs, x.same g = true → x.st = .resident ∧ x.ver = g.ver + 1 ∧ x.wr = false ∧ x.ro = g.ro + 1 := by
  refine ⟨?published, instr_retires (exec_segPublish d b s) hr ?goes, ?entries⟩
  case goes =>
    simp only [hwriter, hbusy, hg, hlive, Bool.false_eq_true, if_false, if_true]
    rfl
  case entries =>
    intro x hx hsame
    obtain ⟨y, -, rfl⟩ := List.mem_map.1 hx
    by_cases hy : y.same g = true
    · rw [if_pos hy]
      exact ⟨rfl, rfl, rfl, rfl⟩
    · rw [if_neg hy] at hsame
      exact absurd hsame hy

/-! seg.evict, seg.drop and seg.query. -/

section
variable (hlive : s.liveSeg s.core.domain.toNat (s.xr b) = none)
include hlive

theorem segEvict_unknown : Retires (.segEvict d b) s 4 ((s.nameStep s.core.domain.toNat (s.xr b)).setX d 4) :=
  instr_retires (exec_segEvict d b s) hr (by simp only [hlive])

theorem segDrop_unknown : Retires (.segDrop d b) s 4 ((s.nameStep s.core.domain.toNat (s.xr b)).setX d 4) :=
  instr_retires (exec_segDrop d b s) hr (by simp only [hlive])

theorem segQuery_unknown : Retires (.segQuery d b) s 4 ((s.nameStep s.core.domain.toNat (s.xr b)).setX d 0) :=
  instr_retires (exec_segQuery d b s) hr (by simp only [hlive])
end

/-- The entry after a step of the executing context, and the state after it (R236). -/
def State.stepped (s : State) (g : Seg) : Seg := { g with ts := (s.segStep g 0).1 }
def State.stepSeg (s : State) (g : Seg) : State := (s.segStep g 0).2.updSeg g (s.stepped g)

variable (hlive : s.liveSeg s.core.domain.toNat (s.xr b) = some g)
include hlive

theorem segQuery_retires : Retires (.segQuery d b) s 4 ((s.stepSeg g).setX d g.query) :=
  instr_retires (exec_segQuery d b s) hr (by simp only [hlive]; rfl)

theorem segDrop_retires :
    Retires (.segDrop d b) s 4 (((s.stepSeg g).dropSeg (s.stepped g)).setX d (if g.held then 1 else 0)) :=
  instr_retires (exec_segDrop d b s) hr (by simp only [hlive]; rfl)

theorem segEvict_making (hst : g.st = .making) : Retires (.segEvict d b) s 4 ((s.stepSeg g).setX d 3) :=
  instr_retires (exec_segEvict d b s) hr (by simp only [hlive]; exact if_pos hst)

theorem segEvict_evicted (hst : g.st = .evicted) : Retires (.segEvict d b) s 4 ((s.stepSeg g).setX d 2) :=
  instr_retires (exec_segEvict d b s) hr (by
    have hmaking : g.st ≠ .making := by simp [hst]
    simp only [hlive]
    exact (if_neg hmaking).trans (if_pos hst))

section
variable (hst : g.st = .resident)
include hst

omit hr hlive in
theorem not_making_of_resident : g.st ≠ .making ∧ g.st ≠ .evicted := by simp [hst]

theorem segEvict_held (hheld : g.held = true) :
    Retires (.segEvict d b) s 4 (((s.stepSeg g).updSeg (s.stepped g) { s.stepped g with evp := true }).setX d 1) :=
  instr_retires (exec_segEvict d b s) hr (by
    obtain ⟨hmaking, hevicted⟩ := not_making_of_resident hst
    simp only [hlive]
    exact (if_neg hmaking).trans ((if_neg hevicted).trans (if_pos hheld)))

variable (hheld : g.held = false)
include hheld

theorem segEvict_goes (h : (s.stepSeg g).evictSeg (s.stepped g) = .ok v) : Retires (.segEvict d b) s 4 ((v.updMe fun x =>
    { x with pts := v.segs.foldl (fun ts x => if x.same (s.stepped g) then later ts x.ts else ts) v.me.pts }).setX d 0) :=
  instr_retires (exec_segEvict d b s) hr (by
    obtain ⟨hmaking, hevicted⟩ := not_making_of_resident hst
    rw [State.stepSeg, State.stepped] at h
    simp only [hlive, h]
    exact (if_neg hmaking).trans ((if_neg hevicted).trans (if_neg (ne_true_of_eq_false hheld))))

theorem segEvict_fails {f : Trap} (h : (s.stepSeg g).evictSeg (s.stepped g) = .error f) :
    Retires (.segEvict d b) s 4 ((s.stepSeg g).setX d 5) :=
  instr_retires (exec_segEvict d b s) hr (by
    obtain ⟨hmaking, hevicted⟩ := not_making_of_resident hst
    rw [State.stepSeg, State.stepped] at h
    simp only [hlive, h]
    exact (if_neg hmaking).trans ((if_neg hevicted).trans (if_neg (ne_true_of_eq_false hheld))))
end
end

/-! seg.detach. -/

section
variable (hr : s.ready [.x b]) (hu : s.core.attach.find? (fun t => t.name == s.xr b) = some u)
  (hidle : u.void = true ∨ u.rw = false ∨ s.core.segBusy u = false)
include hr hu hidle

/-- A detach that no access in flight holds back is a step on the entry that the attachment is counted in (R236, R241). -/
theorem segDetach_retires : Retires (.segDetach b) s 4
    (((s.attachedSeg u).elim s fun g => (s.segStep g (if u.rw then s.core.kptsNow else 0)).2).detach s.cur u) := by
  have hgo : ¬(!u.void && u.rw && s.core.segBusy u) = true := by
    rcases hidle with h | h | h <;> simp [h]
  refine instr_retires (exec_segDetach b s) hr ?_
  simp only [hu]
  refine (if_neg hgo).trans ?_
  cases s.attachedSeg u with
  | none => rfl
  | some g => rfl

theorem segDetach_loose (hg : s.attachedSeg u = none) : Retires (.segDetach b) s 4 (s.detach s.cur u) := by
  simpa only [hg, Option.elim] using segDetach_retires hr hu hidle

theorem segDetach_counted (hg : s.attachedSeg u = some g) :
    Retires (.segDetach b) s 4 ((s.segStep g (if u.rw then s.core.kptsNow else 0)).2.detach s.cur u) := by
  simpa only [hg, Option.elim] using segDetach_retires hr hu hidle

/-- The attachment goes, and no other (R241). -/
theorem segDetach_erases : ∃ t : State, Retires (.segDetach b) s 4 t ∧ t.core.attach = s.core.attach.erase u := by
  cases hg : s.attachedSeg u with
  | none => exact ⟨_, segDetach_loose hr hu hidle hg, detach_attach s u⟩
  | some g =>
    refine ⟨_, segDetach_counted hr hu hidle hg, (detach_attach (s.segStep g _).2 u).trans ?_⟩
    exact congrArg (fun as : List Attach => as.erase u) (State.KeepsSegs.updMe _ s).core_attach
end

end Sys2Proof.Machine
end

section
open Sys2Proof Sys2Proof.Machine

/-- Settles O46, instruction by instruction. Two clauses rest on more than their instruction's own body: a void attachment is
detached before seg.attach looks for the name and by seg.detach, and its detach may write the rows of the entry home. That neither
brings a live entry nor touches another attachment, as `detach_keepsSegs` says. -/
theorem segmentResults : Obligations.SegmentResults := by
  unfold Obligations.SegmentResults
  intro cls m cnt d a b e g u base ps s v n dom
  refine ⟨fun hr => ⟨segMake_arg hr, ?make⟩, fun hr => ⟨?held, segAttach_unknown hr, ?attach, segPublish_retires hr, ?unknown, ?live⟩,
    fun hr hu hidle => ⟨fun _ => segDetach_erases hr hu hidle, segDetach_loose hr hu hidle, segDetach_counted hr hu hidle⟩⟩
  case make =>
    intro hname hpos hle hal hhome hterm hplaces hfmt hfree hdecl hdir hrows
    exact ⟨_, _, segMake_retires hr hname hpos hle hal hhome hterm hplaces hfmt hfree hdecl hdir hrows, makeSeg_segs _ _,
      rfl, rfl, rfl, rfl, rfl, rfl, rfl, rfl, rfl, rfl, rfl, rfl, makeSeg_serial _ _, mem_makeSeg_attach _ _⟩
  case held => exact fun hnow => ⟨segAttach_again hr hnow, segAttach_otherwise hr hnow⟩
  case attach =>
    exact fun hnow hlive => ⟨fun hst hname => segAttach_unpublished hr hnow hlive hname hst,
      fun hst hname => segAttach_evicted hr hnow hlive hname hst,
      fun hst hcore hname => segAttach_resident hr hnow hlive hname hst hcore⟩
  case unknown => exact fun hlive => ⟨segEvict_unknown hr hlive, segDrop_unknown hr hlive, segQuery_unknown hr hlive⟩
  case live =>
    exact fun hlive => ⟨segQuery_retires hr hlive, segDrop_retires hr hlive, segEvict_making hr hlive, segEvict_evicted hr hlive,
      segEvict_held hr hlive, segEvict_goes hr hlive, fun hst hheld _ => segEvict_fails hr hlive hst hheld⟩
end

section
/-! SUPPORT. The state after reset: no core, domain or entry of the map is listed, so each is the one of an unlisted key (R381, R385). -/

namespace Sys2Proof.Machine

/-- Before the endowment an unlisted entry is FREE (R385). -/
theorem holder_dflt_false (cls aux lo hi : Nat) : (Entry.dflt false cls aux lo hi).holder = 0 := rfl

/-- A context that nothing has written reads 0 in every x register. -/
theorem Ctx.getX_of_nil {x : Ctx} (h : x.x = []) (n : BitVec 5) : x.getX n = 0 := by
  rw [Ctx.getX, h]
  split <;> rfl

theorem Ctx.getM_of_nil {x : Ctx} (h : x.m = []) {n : BitVec 3} (hn : n ≠ 0) : x.getM n = 0 := by
  rw [Ctx.getM, h, if_neg hn]
  rfl

theorem Core.ctxAt_empty (j : Nat) : Core.empty.ctxAt j = if j = 0 then { Ctx.empty with st := .live } else Ctx.empty := by
  cases j <;> rfl

end Sys2Proof.Machine
end

section
open Sys2Proof Sys2Proof.Machine

/-- Settles O56: each clause reads an unlisted key, and the one piece of a range of HBM is the entry that fills the gap. -/
theorem resetState : Obligations.ResetState := by
  unfold Obligations.ResetState
  refine ⟨rfl, rfl, rfl, ⟨rfl, fun _ => rfl⟩, fun _ => rfl, fun _ => rfl, fun a b hab _ e he => ?_,
    fun _ => ⟨rfl, rfl, rfl, rfl, rfl, rfl, rfl⟩, fun _ => rfl,
    fun k => ⟨rfl, rfl, rfl, rfl, rfl, fun _ => rfl, fun j => ?_⟩⟩
  · have hpieces : State.reset.pieces ⟨cMem, 0, a, b⟩ = [Entry.dflt false cMem 0 a b] := if_pos hab
    rw [hpieces, List.mem_singleton] at he
    rw [he, holder_dflt_false]
  · rw [show State.reset.coreAt k = Core.empty from rfl, Core.ctxAt_empty]
    split
    · exact ⟨rfl, Ctx.getX_of_nil rfl, rfl, fun n => Ctx.getM_of_nil rfl, rfl, rfl, rfl⟩
    · exact ⟨rfl, Ctx.getX_of_nil rfl, rfl, fun n => Ctx.getM_of_nil rfl, rfl, rfl, rfl⟩
end

section
/-! SUPPORT. A trap of an instruction (R334, R325): the walk of a translation that fails is an access that leaves all but counters
and the time of its context, and the entry into the handler leaves all but the registers of the exception. -/

namespace Sys2Proof.Machine

variable {near : Nat → Prop} {s u : State} {epc v : Word} {c : BitVec 8}

/-- The walk of a translation that fails (R325). -/
theorem State.Quiet.walkFault (hnear : ∀ k, near k) (s : State) (c : BitVec 8) (a : Word) : s.Quiet near (s.walkFault c a) := by
  unfold State.walkFault
  split
  · let r := s.readWalk s.ag (s.leafFor s.ag a.toNat) s.me.pts
    exact .trans (.of_alike (.readWalk hnear s s.ag _ _))
      (.updMe (f := fun x => { x with pts := r.1 }) (fun _ => rfl) (fun _ => rfl) (fun _ => rfl) r.2)
  · exact .refl s

/-- After such an access a handler can run where one could before. -/
theorem State.Quiet.handled (h : s.Quiet near u) (hs : s.handled) : u.handled :=
  ⟨(h.own Ctx.tin).trans hs.1, by rw [h.own Ctx.trapvec]; exact hs.2⟩

/-- The context of a handler that has been entered keeps its other registers. -/
theorem me_takeTrap_handled (h : s.handled) : (s.takeTrap epc c v).me = { s.me with
    pc := s.me.trapvec, epc := epc, cause := c, tval := v, tin := true, wait := .none, ext := none, bans := none, shape := none } := by
  rw [takeTrap_handled h.1 h.2, State.me_setMe]

theorem core_takeTrap_handled (h : s.handled) :
    (s.takeTrap epc c v).core = s.core.setCtx s.ctx (s.takeTrap epc c v).me := by
  rw [takeTrap_handled h.1 h.2, State.core_setMe, State.me_setMe]

theorem coreAt_takeTrap_handled (h : s.handled) {k : Nat} (hk : k ≠ s.cur) : (s.takeTrap epc c v).coreAt k = s.coreAt k := by
  rw [takeTrap_handled h.1 h.2]
  exact State.coreAt_setCoreAt_ne _ _ hk

theorem cur_takeTrap_handled (h : s.handled) : (s.takeTrap epc c v).cur = s.cur := by rw [takeTrap_handled h.1 h.2]; rfl
theorem mem_takeTrap_handled (h : s.handled) : (s.takeTrap epc c v).mem = s.mem := by rw [takeTrap_handled h.1 h.2]; rfl

end Sys2Proof.Machine
end

section
open Sys2Proof Sys2Proof.Machine

/-- Settles O16: the outcome is one, so the state is that of the entry into the handler after the walk, each of which leaves what the
statement names. -/
theorem trapEntry : Obligations.TrapEntry := by
  unfold Obligations.TrapEntry
  intro i s t cause tval htrap hexec hin hvec
  obtain rfl : (s.walkFault cause tval).takeTrap s.me.pc cause tval = t := Host.Outcome.next.inj (htrap.symm.trans hexec)
  have hs : s.handled := ⟨hin, hvec⟩
  have hwalk : s.Quiet (fun _ => True) (s.walkFault cause tval) := .walkFault (fun _ => trivial) s cause tval
  have hnowalk : walkCause cause = false → s.walkFault cause tval = s := walkFault_other
  generalize s.walkFault cause tval = u at hwalk hnowalk
  have hu : u.handled := hwalk.handled hs
  have hme := me_takeTrap_handled (epc := s.me.pc) (c := cause) (v := tval) hu
  have hcore := core_takeTrap_handled (epc := s.me.pc) (c := cause) (v := tval) hu
  have hcur := cur_takeTrap_handled (epc := s.me.pc) (c := cause) (v := tval) hu
  have hmem := mem_takeTrap_handled (epc := s.me.pc) (c := cause) (v := tval) hu
  have hother : ∀ k, k ≠ s.cur → (u.takeTrap s.me.pc cause tval).coreAt k = u.coreAt k := fun k hk =>
    coreAt_takeTrap_handled hu (by rwa [hwalk.cur])
  generalize u.takeTrap s.me.pc cause tval = t at *
  have own {α : Type} (f : Ctx → α) (ht : f t.me = f u.me := by rw [hme])
      (hf : ∀ x y, f (Ctx.accessedAs x y) = f x := by exact fun _ _ => rfl) : f t.me = f s.me :=
    ht.trans (hwalk.own f hf)
  have shared {α : Type} (f : Core → α) (hc : f t.core = f u.core := by rw [hcore]; rfl)
      (hf : ∀ c d, f (Core.accessedAs c d) = f c := by exact fun _ _ => rfl) :
      f t.core = f s.core := hc.trans (hwalk.coreOwn f hf)
  have hothers : ∀ k, k ≠ s.cur → { t.coreAt k with cnt := (s.coreAt k).cnt } = s.coreAt k := fun k hk => by
    rw [hother k hk]; exact hwalk.counters k hk
  have hpool : ∀ k, (t.coreAt k).pool = (s.coreAt k).pool := fun k => by
    by_cases hk : k = s.cur
    · have hcurpool : t.core.pool = s.core.pool := by rw [hcore]; exact hwalk.pool
      rw [hk, ← State.core, ← hcurpool, State.core, hcur, hwalk.cur]
    · rw [← hothers k hk]
  have hx : t.me.x = s.me.x := by rw [hme]; exact hwalk.x
  refine ⟨?_, by rw [hme], by rw [hme], by rw [hme], by rw [hme], fun n => ?_, fun n => own (Ctx.getM · n) (by rw [hme]; rfl), fun n => own (Ctx.getH · n) (by rw [hme]; rfl),
    fun n => own (Ctx.getC · n) (by rw [hme]; rfl), own Ctx.rrb, own Ctx.tstep, own Ctx.stacklim, ?_, own Ctx.istat, own Ctx.trapvec, shared Core.partw,
    shared Core.decla, shared Core.kcause, shared Core.declb, shared Core.wid, shared Core.domain, shared Core.flags,
    shared Core.mxsat, shared Core.mxnarrow, shared Core.evsel, shared Core.bars, shared Core.futs, shared Core.cards, fun hc => ?_,
    fun j hj => ?_, hothers, fun k r => by rw [hpool], fun r => by rw [hmem, hwalk.mem]⟩
  · rw [hme]; exact hwalk.own Ctx.trapvec
  · rw [State.xr, State.xr, Ctx.getX, Ctx.getX, hx]
  · rw [hme]; exact hwalk.fpflags
  · rw [hcore, hnowalk hc]; rfl
  · rw [hcore, hwalk.ctx, Core.ctxAt_setCtx_ne _ _ hj]; exact hwalk.ctxs j hj
end

section
/-! SUPPORT. The canonical form of memory and of every pool (R246, R34) as an invariant of operations: what it means of a result of
each kind, and the rules by which a result is composed of others. -/

namespace Sys2Proof.Machine

variable {α β : Type} {s t : State}

/-! Results. -/

/-- Of an outcome: a next state is in canonical form. -/
def Answers (o : Host.Outcome State Fault Refusal) : Prop := ∀ t, o = .next t → t.canonical

/-- Of a computation that can fail: `P` holds of its result. -/
def Gives {ε : Type} (P : α → Prop) (r : Except ε α) : Prop := ∀ a, r = .ok a → P a

/-- Of a value that may not be there: `P` holds of it. -/
def Finds (P : α → Prop) (o : Option α) : Prop := ∀ a, o = some a → P a

/-- Of a meaning that can end early: `P` holds of its result, and the state that a Wait leaves is in canonical form. -/
def Ends (P : α → Prop) (r : Run α) : Prop := Gives P r ∧ ∀ t w, r = .error (.wait t w) → t.canonical

/-- The state in which an instruction retires, or traps as it retires. -/
def Done.state : Done → State
  | .next s | .jump s _ | .wrote s | .own s | .trapNext s _ _ | .trapHere s _ _ => s

/-- Of what an instruction does when it retires. -/
def Done.canonical (d : Done) : Prop := d.state.canonical

theorem Answers.next (h : t.canonical) : Answers (.next t) := by rintro _ ⟨⟩; exact h
theorem Answers.of_eq {o : Host.Outcome State Fault Refusal} (h : Answers o) (e : o = .next t) : t.canonical := h t e
theorem Answers.ite {c : Prop} [Decidable c] {a b : Host.Outcome State Fault Refusal} (ha : Answers a) (hb : Answers b) :
    Answers (if c then a else b) := by split <;> assumption

section
variable {ε : Type} {P : α → Prop} {Q : β → Prop}

theorem Gives.ok {a : α} (h : P a) : Gives P (.ok a : Except ε α) := by rintro _ ⟨⟩; exact h
theorem Gives.error {e : ε} : Gives P (.error e : Except ε α) := nofun
theorem Gives.of_eq {r : Except ε α} (h : Gives P r) {a : α} (e : r = .ok a) : P a := h a e
theorem Gives.ite {c : Prop} [Decidable c] {a b : Except ε α} (ha : Gives P a) (hb : Gives P b) : Gives P (if c then a else b) := by
  split <;> assumption
theorem Gives.map {r : Except ε α} {f : α → β} (h : Gives P r) (hf : ∀ a, P a → Q (f a)) : Gives Q (r.map f) := by
  cases r with
  | error e => exact .error
  | ok a => exact .ok (hf a (h a rfl))

theorem Finds.some {a : α} (h : P a) : Finds P (Option.some a) := by rintro _ ⟨⟩; exact h
theorem Finds.none : Finds P Option.none := nofun
theorem Finds.of_eq {o : Option α} (h : Finds P o) {a : α} (e : o = Option.some a) : P a := h a e
theorem Finds.ite {c : Prop} [Decidable c] {a b : Option α} (ha : Finds P a) (hb : Finds P b) : Finds P (if c then a else b) := by
  split <;> assumption
theorem Finds.bind {o : Option α} {f : α → Option β} (h : Finds P o) (hf : ∀ a, P a → Finds Q (f a)) : Finds Q (o.bind f) := by
  cases o with
  | none => exact .none
  | some a => exact hf a (h a rfl)
theorem Finds.map {o : Option α} {f : α → β} (h : Finds P o) (hf : ∀ a, P a → Q (f a)) : Finds Q (o.map f) := by
  cases o with
  | none => exact .none
  | some a => exact .some (hf a (h a rfl))

theorem Ends.ok {a : α} (h : P a) : Ends P (.ok a) := ⟨.ok h, fun _ _ e => by cases e⟩
theorem Ends.trap {c : BitVec 8} {v : Word} : Ends P (.error (.trap c v)) := ⟨.error, fun _ _ e => by cases e⟩
theorem Ends.fault {c : BitVec 8} {v : Word} : Ends P (fault c v) := trap
theorem Ends.wait {w : Wait} (h : t.canonical) : Ends P (.error (.wait t w)) := ⟨.error, by rintro _ _ ⟨⟩; exact h⟩
theorem Ends.waiting (h : t.canonical) : Ends P (waiting t) := wait h
theorem Ends.of_eq {r : Run α} (h : Ends P r) {a : α} (e : r = .ok a) : P a := h.1 a e
/-- A meaning that ends early where another does. -/
theorem Ends.of_error {r : Run α} (h : Ends P r) {e : Halt} (he : r = .error e) : Ends Q (.error e) :=
  ⟨.error, fun t w hw => h.2 t w (he.trans (congrArg Except.error (Except.error.inj hw)))⟩
theorem Ends.ite {c : Prop} [Decidable c] {a b : Run α} (ha : Ends P a) (hb : Ends P b) : Ends P (if c then a else b) := by
  split <;> assumption
theorem Ends.bind {r : Run α} {f : α → Run β} (h : Ends P r) (hf : ∀ a, P a → Ends Q (f a)) : Ends Q (r >>= f) := by
  cases r with
  | error e => exact h.of_error rfl
  | ok a => exact hf a (h.of_eq rfl)
theorem Ends.liftTrap {r : Except Trap α} (h : Gives P r) : Ends P (liftTrap r) := by
  cases r with
  | error e => exact .trap
  | ok a => exact .ok (h.of_eq rfl)
theorem Ends.goes (h : s.canonical) : Ends Done.canonical (goes s) := .ok h
/-- A retirement whose next pc is the meaning's own. -/
theorem Ends.own (h : s.canonical) : Ends Done.canonical (.ok (.own s)) := .ok h
theorem Ends.andGoes {r : Run State} (h : Ends State.canonical r) : Ends Done.canonical (andGoes r) := by
  cases r with
  | error e => exact h.of_error rfl
  | ok a => exact .ok (P := Done.canonical) (h.of_eq rfl)
end

theorem State.canonical.getD {o : Option State} (h : s.canonical) (ho : Finds State.canonical o) : (o.getD s).canonical := by
  cases o with
  | none => exact h
  | some t => exact ho.of_eq rfl

/-! Memories and pools. -/

theorem Memory.wf_foldl {f : Memory → α → Memory} {m : Memory} (h : m.wf = true) (hf : ∀ m a, m.wf = true → (f m a).wf = true)
    (l : List α) : (l.foldl f m).wf = true :=
  List.foldlRecOn (motive := fun m : Memory => m.wf = true) l f h fun _ h a _ => hf _ a h

theorem Memory.wf_filter {m : Memory} (h : m.wf = true) (p : Nat × Byte → Bool) : Memory.wf (m.filter p) = true := by
  obtain ⟨hs, hne⟩ := (Memory.wf_iff m).1 h
  exact (Memory.wf_iff _).2 ⟨Table.sorted_filter p hs, fun q hq => hne q (List.mem_filter.1 hq).1⟩

theorem Core.wf_foldl {f : Core → α → Core} {c : Core} (h : c.pool.wf = true)
    (hf : ∀ c a, c.pool.wf = true → (f c a).pool.wf = true) (l : List α) : (l.foldl f c).pool.wf = true :=
  List.foldlRecOn (motive := fun c : Core => c.pool.wf = true) l f h fun _ h a _ => hf _ a h

theorem Core.wf_ite {p : Prop} [Decidable p] {c d : Core} (hc : c.pool.wf = true) (hd : d.pool.wf = true) :
    (if p then c else d).pool.wf = true := by split <;> assumption

/-! States. -/

theorem State.canonical.ite {p : Prop} [Decidable p] (hs : s.canonical) (ht : t.canonical) : (if p then s else t).canonical := by
  split <;> assumption

/-- What holds of a result holds of what it equals. -/
theorem canonical_of_eq {v : β → State} {a b : β} (h : (v a).canonical) (e : a = b) : (v b).canonical := e ▸ h

/-- A fold of operations, seen through the state of its accumulator. -/
theorem canonical_foldl {v : β → State} {f : β → α → β} {b : β} (h : (v b).canonical)
    (hf : ∀ b a, (v b).canonical → (v (f b a)).canonical) (l : List α) : (v (l.foldl f b)).canonical :=
  List.foldlRecOn (motive := fun b => (v b).canonical) l f h fun _ h a _ => hf _ a h

theorem State.canonical.foldl {f : State → α → State} (h : s.canonical) (hf : ∀ s a, s.canonical → (f s a).canonical)
    (l : List α) : (l.foldl f s).canonical := canonical_foldl (v := id) h hf l

theorem State.canonical.setCoreAt {c : Core} {k : Nat} (h : s.canonical) (hc : c.pool.wf = true) : (s.setCoreAt k c).canonical := by
  refine ⟨h.1, fun j => ?_⟩
  by_cases hj : j = k
  · rwa [hj, State.coreAt_setCoreAt_same]
  · rw [State.coreAt_setCoreAt_ne _ _ hj]
    exact h.2 j

theorem State.canonical.core (h : s.canonical) : s.core.pool.wf = true := h.2 s.cur
theorem State.canonical.setCore {c : Core} (h : s.canonical) (hc : c.pool.wf = true) : (s.setCore c).canonical := h.setCoreAt hc

theorem State.canonical.updCoreAt {f : Core → Core} {k : Nat} (h : s.canonical)
    (hf : ∀ c, c.pool.wf = true → (f c).pool.wf = true) : (s.updCoreAt k f).canonical :=
  h.setCoreAt (hf _ (h.2 k))

theorem State.canonical.updCore {f : Core → Core} (h : s.canonical)
    (hf : ∀ c, c.pool.wf = true → (f c).pool.wf = true) : (s.updCore f).canonical :=
  h.updCoreAt hf

theorem State.canonical.setMe {x : Ctx} (h : s.canonical) : (s.setMe x).canonical := h.setCore h.core
theorem State.canonical.updMe {f : Ctx → Ctx} (h : s.canonical) : (s.updMe f).canonical := h.setMe

/-- A table whose values are replaced reads at a listed key as the value that is put in the place of its own. -/
theorem Table.get_map {d : α} {f : Nat × α → Nat × α} (hf : ∀ p, (f p).1 = p.1) (t : Table α) (k : Nat) :
    Table.get d (t.map f) k = d ∨ Table.get d (t.map f) k = (f (k, Table.get d t k)).2 := by
  induction t with
  | nil => exact .inl rfl
  | cons p t ih =>
    obtain ⟨j, w⟩ := p
    rw [List.map_cons, ← Prod.eta (f (j, w)), hf]
    simp only [Table.get]
    split
    · exact .inl rfl
    split
    · next hk => exact .inr (by rw [hk])
    · exact ih

/-- Every core replaced, at its place. -/
theorem State.canonical.mapCores {f : Nat × Core → Nat × Core} (h : s.canonical) (hk : ∀ p, (f p).1 = p.1)
    (hf : ∀ p, p.2.pool.wf = true → (f p).2.pool.wf = true) : ({ s with cores := s.cores.map f } : State).canonical := by
  refine ⟨h.1, fun k => ?_⟩
  rcases Table.get_map (d := Core.empty) hk s.cores k with hget | hget
  · exact (congrArg (fun c : Core => c.pool.wf) hget).trans rfl
  · exact (congrArg (fun c : Core => c.pool.wf) hget).trans (hf _ (h.2 k))

end Sys2Proof.Machine
end

section
/-! SUPPORT. The canonical form (O60): the accessors of the state. -/

namespace Sys2Proof.Machine

variable {s : State} {c : Core}

theorem State.canonical.reset : State.reset.canonical := ⟨rfl, fun _ => rfl⟩
end Sys2Proof.Machine
end

section
/-! SUPPORT. The canonical form (O60): the register accessors. -/

namespace Sys2Proof.Machine

variable {s : State} {c : Core}

theorem Core.wf_setCtx {k x} (hc : c.pool.wf = true) : (c.setCtx k x).pool.wf = true := hc
theorem State.canonical.setX {n v} (h : s.canonical) : (s.setX n v).canonical := h.updMe
theorem State.canonical.setM {n v} (h : s.canonical) : (s.setM n v).canonical := h.updMe
theorem State.canonical.setH {n v} (h : s.canonical) : (s.setH n v).canonical := h.updMe
theorem State.canonical.setC {n v} (h : s.canonical) : (s.setC n v).canonical := h.updMe
theorem Core.wf_setRuns {rows rs} (hc : c.pool.wf = true) : (c.setRuns rows rs).pool.wf = true := by
  unfold Core.setRuns
  refine Core.wf_foldl ?_ (fun _ _ hc => by exact hc) rows
  exact Memory.wf_foldl hc (fun _ _ hm => Memory.wf_putBytes _ _ hm) rs

theorem Core.wf_setBytes {off bs} (hc : c.pool.wf = true) : (c.setBytes off bs).pool.wf = true := Core.wf_setRuns hc
theorem Core.wf_bumpRows {lo hi} (hc : c.pool.wf = true) : (c.bumpRows lo hi).pool.wf = true := Memory.wf_clear _ _ hc
theorem State.canonical.setV {n v} (h : s.canonical) : (s.setV n v).canonical :=
  State.canonical.updMe (h.updCore fun _ h0 => Core.wf_setRow _ _ _ h0)
theorem State.canonical.voidHooks (h : s.canonical) : s.voidHooks.canonical := h
theorem State.canonical.notify {n} (h : s.canonical) : (s.notify n).canonical :=
  State.canonical.ite h.voidHooks (State.canonical.ite h h)
theorem State.canonical.carried {n} (h : s.canonical) : (s.carried n).canonical := h
theorem State.canonical.postOvf (h : s.canonical) : s.postOvf.canonical := by
  simp only [State.postOvf]
  refine canonical_foldl (v := Prod.fst) h (fun _ _ h0 => ?_) _
  split
  · exact State.canonical.notify h0
  · exact h0

theorem State.canonical.addCounter {k i ev amt} (h : s.canonical) : (s.addCounter k i ev amt).canonical :=
  State.canonical.ite (State.canonical.setCoreAt h (h.2 _)) (State.canonical.carried (State.canonical.setCoreAt h (h.2 _)))
theorem State.canonical.addShared {die i ev amt} (h : s.canonical) : (s.addShared die i ev amt).canonical :=
  State.canonical.ite h (State.canonical.carried h)
theorem State.canonical.countNear {req ev amt near die} (h : s.canonical) : (s.countNear req ev amt near die).canonical :=
  State.canonical.foldl (State.canonical.foldl h
    (fun _ _ h0 => State.canonical.ite (State.canonical.foldl h0 (fun _ _ h1 => h1.addCounter) _) h0) _)
    (fun _ _ h2 => h2.addShared) _

theorem State.canonical.countCc {req k hit} (h : s.canonical) : (s.countCc req k hit).canonical := h.countNear
theorem State.canonical.lineSize {wr cmp a} (h : s.canonical) : (s.lineSize wr cmp a).2.canonical := by
  simp only [State.lineSize]
  split
  · exact h
  · split
    · exact h
    · exact h

theorem State.canonical.metaLook {cmp a} (h : s.canonical) : (s.metaLook cmp a).2.canonical := by
  simp only [State.metaLook]
  split
  · exact h
  · exact h

theorem State.canonical.countL2 {req wr a} (h : s.canonical) : (s.countL2 req wr a).canonical :=
  State.canonical.countNear (.countNear (.countNear (.metaLook (.lineSize h))))
theorem State.canonical.countBut {k ev amt own sh} (h : s.canonical) : (s.countBut k ev amt own sh).canonical :=
  State.canonical.foldl (State.canonical.foldl h (fun _ _ h0 => h0.addCounter) _) (fun _ _ h1 => h1.addShared) _
theorem State.canonical.count {k ev amt} (h : s.canonical) : (s.count k ev amt).canonical := h.countBut
theorem State.canonical.free (h : s.canonical) : s.free.2.canonical := h
end Sys2Proof.Machine
end

section
/-! SUPPORT. The canonical form (O60): the control space. -/

namespace Sys2Proof.Machine

variable {s : State} {c : Core}

theorem State.canonical.setDomain {d x} (h : s.canonical) : (s.setDomain d x).canonical := h
theorem State.canonical.setQslot {i x} (h : s.canonical) : (s.setQslot i x).canonical := h
theorem State.canonical.setLog {d no v} (h : s.canonical) : (s.setLog d no v).canonical := h
theorem State.canonical.ring {i v} (h : s.canonical) : (s.ring i v).canonical :=
  State.canonical.ite (State.canonical.ite h.setQslot h.setQslot) (State.canonical.ite h.setQslot h.setQslot)
theorem State.canonical.domStore {o d off n img} (h : s.canonical) : (s.domStore o d off n img).canonical := h.setDomain
theorem State.canonical.qslotStore {o i off n img} (h : s.canonical) : (s.qslotStore o i off n img).canonical :=
  State.canonical.ite h.setQslot.ring h.setQslot
theorem State.canonical.bucketStore {b img} (h : s.canonical) : (s.bucketStore b img).canonical := h
theorem State.canonical.funcStore {f img} (h : s.canonical) : (s.funcStore f img).canonical := h
theorem State.canonical.loadStore {d off n img} (h : s.canonical) : (s.loadStore d off n img).canonical := h.setDomain
theorem State.canonical.logStore {d off n img} (h : s.canonical) : (s.logStore d off n img).canonical := h.setDomain
theorem State.canonical.ctlStore {o b off n img} (h : s.canonical) : (s.ctlStore o b off n img).canonical := by
  simp only [State.ctlStore]
  split
  · exact h.domStore
  · exact h.qslotStore
  · exact h.funcStore
  · exact State.canonical.ite h h
  · exact h
  · exact State.canonical.ite h h
  · exact h.logStore
  · exact h.loadStore
  · exact h.bucketStore

theorem State.canonical.ctlPut {o pa bs} (h : s.canonical) : Finds State.canonical (s.ctlPut o pa bs) := by
  simp only [State.ctlPut]
  split
  · exact .none
  · exact .ite (.some (canonical_foldl (v := Prod.fst) h (fun _ _ h0 => h0.ctlStore) _)) .none
end Sys2Proof.Machine
end

section
/-! SUPPORT. The canonical form (O60): reads and writes of memory: translation, time stamps, directory and counters. -/

namespace Sys2Proof.Machine

variable {s : State} {c : Core}

theorem State.canonical.cacheWalk {g l es ts} (h : s.canonical) : (s.cacheWalk g l es ts).canonical := State.canonical.ite h h
theorem State.canonical.setLine {l t} (h : s.canonical) : (s.setLine l t).canonical := h
theorem State.canonical.stampReads {ls pts} (h : s.canonical) : (s.stampReads ls pts).2.canonical :=
  State.canonical.foldl h (fun _ _ h0 => h0.setLine) _
theorem State.canonical.readWalk {g w pts} (h : s.canonical) : (s.readWalk g w pts).2.canonical :=
  State.canonical.stampReads (State.canonical.foldl h (fun _ _ h0 => h0.countL2) _)
theorem State.canonical.noteCmp {l} (h : s.canonical) : (s.noteCmp l).canonical := State.canonical.ite h h
theorem State.canonical.translate {g k a} (h : s.canonical) : Gives (fun r => r.2.canonical) (s.translate g k a) := by
  simp only [State.translate]
  split
  · exact .error
  · split
    · exact .error
    · exact .ok h.readWalk.cacheWalk.noteCmp

theorem State.canonical.place {g k a n} (h : s.canonical) : Gives (fun r => r.2.canonical) (s.place g k a n) := by
  simp only [State.place]
  refine .ite ?_ (.ite .error h.translate)
  split
  · exact .error
  · exact .ok h

theorem State.canonical.countReq {g ev} (h : s.canonical) : (s.countReq g ev).canonical := by
  simp only [State.countReq]
  split
  · exact h.count
  · exact h

theorem State.canonical.lookHome {g wr l} (h : s.canonical) : (s.lookHome g wr l).canonical := State.canonical.ite h h.countL2
theorem State.canonical.widen {g l} (h : s.canonical) : (s.widen g l).canonical := by
  simp only [State.widen]
  split
  · exact h
  · exact State.canonical.ite h (State.canonical.ite h (State.canonical.countReq h))

theorem State.canonical.homeRead {g l pts} (h : s.canonical) : (s.homeRead g l pts).2.canonical := by
  simp only [State.homeRead]
  split
  · exact h.widen.setLine
  · exact h.widen

theorem State.canonical.lineReadAs {cc g pa n pts} (h : s.canonical) : (s.lineReadAs cc g pa n pts).2.2.canonical := by
  simp only [State.lineReadAs]
  split
  · exact State.canonical.homeRead (State.canonical.lookHome (State.canonical.ite h.countCc h))
  · split
    · exact State.canonical.homeRead (State.canonical.lookHome (State.canonical.ite h.countCc h))
    · split
      · exact State.canonical.homeRead (State.canonical.lookHome (State.canonical.ite (State.canonical.countCc h) h))
      · split
        · exact State.canonical.homeRead
            (State.canonical.lookHome
            (State.canonical.ite (State.canonical.countCc (State.canonical.countReq h)) (State.canonical.countReq h)))
        · exact State.canonical.ite (State.canonical.countCc h) h

theorem State.canonical.lineRead {g pa n pts} (h : s.canonical) : (s.lineRead g pa n pts).2.2.canonical := h.lineReadAs
theorem State.canonical.stampWrites {g ls pts} (h : s.canonical) : (s.stampWrites g ls pts).2.canonical :=
  State.canonical.foldl (State.canonical.ite
    (State.canonical.countReq
    (State.canonical.foldl (State.canonical.foldl h (fun _ _ h0 => h0.widen) _) (fun _ _ h1 => h1.lookHome) _))
    (State.canonical.foldl (State.canonical.foldl h (fun _ _ h2 => h2.widen) _) (fun _ _ h3 => h3.lookHome) _))
    (fun _ _ h4 => h4.setLine) _

theorem State.canonical.stampWrite {g l pts} (h : s.canonical) : (s.stampWrite g l pts).2.canonical := h.stampWrites
theorem State.canonical.ctlStamp {pa n pts} (h : s.canonical) : (s.ctlStamp pa n pts).2.canonical := h.stampWrites
theorem State.canonical.ctlStep {o pa bs pts} (h : s.canonical) : Finds (fun r => r.2.canonical) (s.ctlStep o pa bs pts) :=
  .map h.ctlPut fun _ h0 => h0.ctlStamp
theorem State.canonical.ctlMark {pa n pts} (h : s.canonical) : (s.ctlMark pa n pts).canonical := h.ctlStamp
theorem State.canonical.outMark {pa n} (h : s.canonical) : (s.outMark pa n).canonical := h.ctlStamp
theorem State.canonical.stepDomain {d x} (h : s.canonical) : (s.stepDomain d x).canonical := h.setDomain.ctlMark
theorem State.canonical.stepQslot {i x pts} (h : s.canonical) : (s.stepQslot i x pts).canonical := h.setQslot.ctlMark
theorem State.canonical.ctlWrite {o pa bs} (h : s.canonical) : Finds State.canonical (s.ctlWrite o pa bs) :=
  .map h.ctlStep fun ⟨_, _⟩ h0 => h0
theorem State.canonical.stampBump {p pts} (h : s.canonical) : (s.stampBump p pts).2.canonical := h
theorem State.canonical.stampRows {core p pts} (h : s.canonical) : (s.stampRows core p pts).2.canonical := h.stampBump
theorem State.canonical.sealWalks {pts} (h : s.canonical) : (s.sealWalks pts).canonical := h.stampReads
theorem State.canonical.stampHome {l pts} (h : s.canonical) : (s.stampHome l pts).2.canonical := h.stampReads
theorem State.canonical.stampRow {core row pts} (h : s.canonical) : (s.stampRow core row pts).2.canonical := h.stampHome
theorem State.canonical.outsideWrites (h : s.canonical) : s.outsideWrites.canonical :=
  ⟨Memory.wf_foldl h.1 (fun _ _ h0 => Memory.wf_write _ _ h0) _, h.2⟩
theorem State.canonical.outPut {rs} (h : s.canonical) : (s.outPut rs).canonical :=
  State.canonical.ite h ⟨Memory.wf_foldl h.1 (fun _ _ h0 => Memory.wf_putBytes _ _ h0) _, h.2⟩
theorem State.canonical.landExt {must} (h : s.canonical) : (s.landExt must).canonical := by
  refine ⟨List.foldlRecOn (motive := fun r : Memory × List ExtWrite × Nat => r.1.wf = true) _ _ h.1 fun r hr p _ => ?_, h.2⟩
  dsimp only
  split
  · dsimp only
    split
    · exact hr
    · exact Memory.wf_putBytes _ _ hr
  · exact hr

theorem State.canonical.landCtx {core ctx} (h : s.canonical) : (s.landCtx core ctx).canonical := h.landExt
theorem State.canonical.landRange {lo hi} (h : s.canonical) : (s.landRange lo hi).canonical := h.landExt
theorem State.canonical.landOwn {core ctx pa n} (h : s.canonical) : (s.landOwn core ctx pa n).canonical := h.landExt
theorem State.canonical.landCore {core} (h : s.canonical) : (s.landCore core).canonical := h.landExt
theorem State.canonical.physRead {g pa n pts} (h : s.canonical) : (s.physRead g pa n pts).2.2.canonical := by
  unfold State.physRead
  split
  · exact h.outsideWrites
  · refine canonical_foldl (v := fun r : List Byte × BitVec 64 × State => r.2.2) ?_ (fun _ _ hr => ?_) _
    · exact h
    · exact State.canonical.lineRead hr

theorem State.canonical.fillRead {g pa pts} (h : s.canonical) : (s.fillRead g pa pts).2.2.canonical := by
  simp only [State.fillRead]
  split
  · exact h.physRead
  · exact h.lineReadAs

theorem State.canonical.physWrite {g pa bs pts} (h : s.canonical) : (s.physWrite g pa bs pts).2.canonical := by
  simp only [State.physWrite]
  split
  · exact h.outsideWrites.outPut
  · exact ⟨Memory.wf_putBytes _ _ ((canonical_foldl (v := Prod.snd) h (fun _ _ h0 => h0.stampWrite) _).1),
      (canonical_foldl (v := Prod.snd) h (fun _ _ h1 => h1.stampWrite) _).2⟩

theorem State.canonical.spanRead {g rs pts} (h : s.canonical) : (s.spanRead g rs pts).2.2.canonical := by
  simp only [State.spanRead]
  split
  · exact State.canonical.lineRead (State.canonical.ite h.outsideWrites h)
  · exact canonical_foldl (v := Prod.snd)
      (canonical_foldl (v := Prod.snd)
      (State.canonical.foldl (State.canonical.ite h.outsideWrites h)
      (fun _ _ h0 => State.canonical.lookHome (State.canonical.ite h0.countCc h0)) _) (fun _ _ h1 => h1.homeRead) _)
      (fun _ _ h2 => h2.homeRead) _

theorem State.canonical.blockRead {g pa n pts} (h : s.canonical) : (s.blockRead g pa n pts).2.2.canonical := h.spanRead
theorem State.canonical.spanWrite {g rs pts} (h : s.canonical) : (s.spanWrite g rs pts).2.canonical :=
  ⟨Memory.wf_foldl ((State.canonical.stampWrites (State.canonical.ite h h.outsideWrites.outPut)).1)
    (fun _ _ h0 => Memory.wf_putBytes _ _ h0) _, (State.canonical.stampWrites (State.canonical.ite h h.outsideWrites.outPut)).2⟩

theorem State.canonical.readPlace {g p a n pts} (h : s.canonical) :
    Gives (fun r => r.2.2.canonical) (s.readPlace g p a n pts) := by
  unfold State.readPlace
  split
  · exact .ok h.stampReads
  · exact .ok h.blockRead
  · split
    · exact .ok h.stampHome
    · exact .error
  · refine .ok (canonical_foldl (v := fun r : List Byte × BitVec 64 × State => r.2.2) ?_ (fun _ _ hr => ?_) _)
    · exact h
    · exact State.canonical.blockRead hr

theorem State.canonical.readAt {g p a n pts} (h : s.canonical) : Gives (fun r => r.2.2.canonical) (s.readAt g p a n pts) :=
  .map h.readPlace fun ⟨_, _, _⟩ h0 => h0.sealWalks
theorem State.canonical.peekAt {g p a n} (h : s.canonical) : Gives (fun r => r.2.canonical) (s.peekAt g p a n) := by
  simp only [State.peekAt]
  split
  · exact .ok h
  · exact .ok (State.canonical.ite h.outsideWrites h)
  · split
    · exact .ok h
    · exact .error
  · exact .ok h

theorem State.canonical.stampRead {g p pts} (h : s.canonical) : (s.stampRead g p pts).2.canonical := by
  simp only [State.stampRead]
  refine State.canonical.sealWalks ?_
  split
  · exact h.stampRow
  · split
    · exact h
    · exact h.lookHome.homeRead
  · exact h.stampHome
  · exact h

theorem State.canonical.atomicLook {g p near} (h : s.canonical) : (s.atomicLook g p near).canonical := by
  simp only [State.atomicLook]
  split
  · exact State.canonical.ite h (State.canonical.ite h.countCc (State.canonical.ite h.setLine h))
  · exact h

theorem State.canonical.takeLease {g p near} (h : s.canonical) : (s.takeLease g p near).canonical := by
  simp only [State.takeLease]
  split
  · exact State.canonical.ite h h.setLine
  · exact h

theorem State.canonical.dirtyRows {core rows} (h : s.canonical) : (s.dirtyRows core rows).canonical := h
theorem State.canonical.dirtySegs {core off n} (h : s.canonical) : (s.dirtySegs core off n).canonical := h.dirtyRows
theorem State.canonical.fmtBlock {g f bpa o bs pts} (h : s.canonical) : (s.fmtBlock g f bpa o bs pts).2.1.canonical := by
  simp only [State.fmtBlock]
  split
  · exact h
  · exact h.spanWrite

theorem State.canonical.fmtWrite {g f pa o bs pts} (h : s.canonical) : (s.fmtWrite g f pa o bs pts).2.1.canonical := by
  refine canonical_foldl (v := fun r : BitVec 64 × State × FFlags => r.2.1) ?_ (fun _ _ hr => ?_) _
  · exact h
  · exact State.canonical.fmtBlock hr

theorem State.canonical.ctlWrites {o rs} (h : s.canonical) : Finds State.canonical (s.ctlWrites o rs) := by
  induction rs generalizing s with
  | nil => exact .some h
  | cons r rs ih =>
    simp only [State.ctlWrites]
    split
    · next e => exact ih (h.ctlPut.of_eq e)
    · exact .none

theorem State.canonical.writePlace {g p a bs pts} (h : s.canonical) :
    Gives (fun r => r.2.1.canonical) (s.writePlace g p a bs pts) := by
  simp only [State.writePlace]
  split
  · exact .ok (State.canonical.dirtyRows (h.stampWrites.updCoreAt fun _ h0 => Core.wf_setRuns h0))
  · exact .ite (.ok h.outsideWrites.outPut)
      (.ok ⟨Memory.wf_foldl h.stampWrites.1 (fun _ _ h1 => Memory.wf_putBytes _ _ h1) _, h.stampWrites.2⟩)
  · split
    · next e2 =>
        have h3 := h.ctlWrites.of_eq e2
        exact .ok h3.stampWrite
    · exact .error
  · exact .ok h.fmtWrite

theorem State.canonical.writeAt {g p a bs pts} (h : s.canonical) : Gives (fun r => r.2.1.canonical) (s.writeAt g p a bs pts) :=
  .map h.writePlace fun ⟨_, _, _⟩ h0 => h0.sealWalks
end Sys2Proof.Machine
end

section
/-! SUPPORT. The canonical form (O60): the log of a launch. -/

namespace Sys2Proof.Machine

variable {s : State} {c : Core}

theorem State.canonical.logPlace {l acc a} (h : s.canonical) : Gives (fun r => r.2.canonical) (s.logPlace l acc a) :=
  h.translate
theorem State.canonical.logAppend {slot l kind ctx core addr v} (h : s.canonical) :
    (s.logAppend slot l kind ctx core addr v).canonical := by
  unfold State.logAppend
  refine .ite h (.ite (State.canonical.ctlMark (.setLog h)) ?_)
  dsimp only
  split
  · exact h
  · next e =>
    have hp := State.canonical.logPlace (s := _) (by exact h) |>.of_eq e
    split
    · exact .ite hp.outPut hp.physWrite
    · split
      · next e => exact hp.writeAt.of_eq e
      · exact hp

theorem State.canonical.loggedFor {launch core ctx kind addr v} (h : s.canonical) :
    Gives (fun r => r.2.canonical) (s.loggedFor launch core ctx kind addr v) := by
  unfold State.loggedFor
  split
  · exact .ok h
  refine .ite (.ok h.logAppend) (.ite ?_ (.ok h))
  dsimp only
  split
  · exact .ite (.ok h) .error
  · exact .error

theorem State.canonical.logged {core ctx kind addr v} (h : s.canonical) :
    Gives (fun r => r.2.canonical) (s.logged core ctx kind addr v) :=
  h.loggedFor

theorem State.canonical.hostLogFor {launch core ctx fuel a bs} (h : s.canonical) :
    Gives (fun r => r.2.canonical) (s.hostLogFor launch core ctx fuel a bs) := by
  induction fuel generalizing s a bs with
  | zero => exact .ok h
  | succ fuel ih =>
    simp only [State.hostLogFor]
    refine .ite (.ok h) ?_
    split
    · exact .error
    next e =>
    have h : State.canonical _ := h.loggedFor.of_eq e
    split
    · exact .error
    next e =>
    have h : State.canonical _ := (ih h).of_eq e
    exact .ok h

theorem State.canonical.hostLog {core ctx n a bs} (h : s.canonical) :
    Gives (fun r => r.2.canonical) (s.hostLog core ctx n a bs) :=
  h.hostLogFor
end Sys2Proof.Machine
end

section
/-! SUPPORT. The canonical form (O60): the accesses of a context. -/

namespace Sys2Proof.Machine

variable {s : State} {c : Core}

theorem State.canonical.accCheck {acc stk a z n} (h : s.canonical) :
    Ends (fun r => r.2.canonical) (s.accCheck acc stk a z n) := by
  simp only [State.accCheck]
  refine .ite .fault ?_
  refine .ite .fault ?_
  split
  · exact .waiting h
  · exact .ite (.liftTrap h.place) .fault
  · exact .liftTrap h.place

theorem State.canonical.extGate {wr p a} (h : s.canonical) : Ends State.canonical (s.extGate wr p a) := by
  simp only [State.extGate]
  split
  · refine .ite (.ok h) ?_
    split
    · split
      · exact .ite (.ok h.updMe) .fault
      · exact .ite (.waiting h) (.ite (.waiting h) (.ite .fault (.ok (State.canonical.updMe h))))
    · exact .ite (.ok h) (.ite (.ite (.ok h) (.waiting (State.canonical.updMe (State.canonical.setDomain h))))
        (.ite (.ite .fault (.ok h)) (.ite (.ite (.ok h) (.waiting (State.canonical.updMe h))) (.ok h))))
  · exact .ok h

theorem State.canonical.extAnswer {wr p a} (h : s.canonical) : (s.extAnswer wr p a).2.canonical := by
  simp only [State.extAnswer]
  split
  · exact h
  · split
    · exact h
    · split
      · exact h
      · exact h

theorem State.canonical.partReady {lo rd wr p a n} (h : s.canonical) : Ends State.canonical (s.partReady lo rd wr p a n) :=
  .ite .fault (.ite (.wait h) (.ite (.waiting h) h.extGate))
theorem State.canonical.accReady {rd wr p a n} (h : s.canonical) : Ends State.canonical (s.accReady rd wr p a n) := h.partReady
theorem State.canonical.touch {a n t} (h : s.canonical) : (s.touch a n t).canonical := by
  simp only [State.touch]
  split
  · exact h
  · exact (h.updCore fun _ hc => by exact hc)

theorem State.canonical.ctxRead {p a n} (h : s.canonical) : Ends (fun r => r.2.canonical) (s.ctxRead p a n) := by
  unfold State.ctxRead
  extract_lets t
  have ht : t.canonical := by
    simp only [t]
    split
    · exact h.landOwn
    · exact h
  have hr := Ends.liftTrap (ht.readAt (g := t.ag) (p := p) (a := a.toNat) (n := n) (pts := t.me.pts))
  split
  · next e => exact hr.of_error e
  next bs pts s e =>
  have hs : s.canonical := hr.of_eq e
  have hs : ((s.updMe fun c => { c with pts := pts }).touch a n pts).canonical := hs.updMe.touch
  exact .ite (.liftTrap hs.hostLog) (.ok hs)

theorem State.canonical.followWalks (h : s.canonical) : s.followWalks.canonical := h.sealWalks.updMe
theorem State.canonical.stepWrite {fl p a bs} (h : s.canonical) : Ends State.canonical (s.stepWrite fl p a bs) := by
  unfold State.stepWrite
  split
  · exact .ok (State.canonical.updMe (State.canonical.followWalks h))
  have hw := Ends.liftTrap (h.writeAt (g := s.ag) (p := p) (a := a.toNat) (bs := bs) (pts := s.me.pts))
  split
  · next e => exact hw.of_error e
  · next e =>
    have hs : State.canonical _ := hw.of_eq e
    exact .ok hs.updMe.touch

theorem State.canonical.ctxWrite {p a bs} (h : s.canonical) : Ends State.canonical (s.ctxWrite p a bs) := h.stepWrite
theorem State.canonical.load {stk a n} (h : s.canonical) : Ends (fun r => r.2.canonical) (s.load stk a n) :=
  .bind h.accCheck fun _ h => .bind (State.canonical.accReady h) fun _ h => .bind (State.canonical.ctxRead h) fun _ h => .ok h
theorem State.canonical.store {stk a n v} (h : s.canonical) : Ends State.canonical (s.store stk a n v) :=
  .bind h.accCheck fun ⟨_, _⟩ h0 => .bind h0.accReady fun _ h1 => h1.ctxWrite
theorem State.canonical.lanesCheck {acc stk z ls} (h : s.canonical) :
    Ends (fun r => r.2.canonical) (s.lanesCheck acc stk z ls) := by
  induction ls generalizing s with
  | nil => exact .ok h
  | cons l ls ih => exact .bind h.accCheck fun _ h => .bind (ih h) fun _ h => .ok h

theorem State.canonical.lanesReady {lo rd wr z ls} (h : s.canonical) : Ends State.canonical (s.lanesReady lo rd wr z ls) := by
  induction ls generalizing s with
  | nil => exact .ok h
  | cons l ls ih => exact .bind h.partReady fun _ h => ih h

theorem State.canonical.groupWrite {pos a2} (h : s.canonical) : Ends State.canonical (s.groupWrite pos a2) := by
  simp only [State.groupWrite]
  split
  · exact .ok h
  · exact h.stepWrite

theorem State.canonical.lanesWrite {fuel ls} (h : s.canonical) : Ends State.canonical (s.lanesWrite fuel ls) := by
  induction fuel generalizing s ls with
  | zero => cases ls <;> exact .ok h
  | succ fuel ih =>
    cases ls with
    | nil => exact .ok h
    | cons x xs =>
      simp only [State.lanesWrite]
      split <;> exact .bind h.groupWrite fun _ h => ih h

theorem State.canonical.rowEntries {before rows} (h : s.canonical) : (s.rowEntries before rows).canonical :=
  (h.updCore fun _ hc => by exact hc)
theorem State.canonical.vstore {one stk z ls} (h : s.canonical) : Ends State.canonical (s.vstore one stk z ls) :=
  .bind h.lanesCheck fun ⟨_, _⟩ h0 => .bind h0.lanesReady fun _ h1 => .ite (.bind h1.groupWrite fun _ h2 => .ok h2.rowEntries)
    (.bind h1.lanesWrite fun _ h3 => .ok h3.rowEntries)

theorem State.canonical.lanesRead {z seen ls} (h : s.canonical) : Ends (fun r => r.2.canonical) (s.lanesRead z seen ls) := by
  induction ls generalizing s seen with
  | nil => exact .ok h
  | cons l ls ih =>
    unfold State.lanesRead
    split
    · dsimp only
      split
      · exact .bind (P := fun r => r.2.canonical) (.ok h) fun _ h => .bind (ih h) fun _ h => .ok h
      · exact .bind h.ctxRead fun r h => .bind (ih h) fun _ h => .ok h
    · exact .bind h.ctxRead fun r h => .bind (ih h) fun _ h => .ok h

theorem State.canonical.vload {one stk z ls} (h : s.canonical) : Ends (fun r => r.2.canonical) (s.vload one stk z ls) := by
  refine .bind h.lanesCheck fun r h => .bind (State.canonical.lanesReady h) fun _ h => ?_
  split
  · exact .ok h
  · exact .ite (.bind (State.canonical.ctxRead h) fun _ h => .ok h) (State.canonical.lanesRead h)

theorem State.canonical.homePut {p bs} (h : s.canonical) : (s.homePut p bs).canonical := by
  simp only [State.homePut]
  split
  · exact State.canonical.updMe (State.canonical.followWalks ⟨Memory.wf_putBytes _ _ h.1, h.2⟩)
  · exact h

theorem State.canonical.rmw {stk near a n f} (h : s.canonical) : Ends (fun r => r.2.canonical) (s.rmw stk near a n f) := by
  unfold State.rmw
  refine .bind h.accCheck fun ⟨_, _⟩ h0 => ?_
  split
  · next e1 =>
      have h2 := canonical_of_eq (v := Prod.snd) h0 e1
      split
      · exact .fault
      · refine .ite .fault ?_
        refine .bind h2.accReady fun _ h5 => ?_
        refine .bind (P := fun r => r.2.canonical) (.liftTrap (State.canonical.peekAt (State.canonical.ite h5.landCtx h5)))
          fun ⟨_, _⟩ h6 => ?_
        refine .bind (P := fun r => r.2.canonical) (.liftTrap h6.logged) fun ⟨_, _⟩ h7 => ?_
        split
        · next e8 =>
            have h9 := canonical_of_eq (v := Prod.snd) h7 e8
            split
            · exact .ite (.bind (P := State.canonical) (.ok h9.atomicLook.homePut) fun _ h10 => .ok h10.takeLease)
                (.bind h9.atomicLook.ctxWrite fun _ h11 => .ok h11.takeLease)
            · exact .ok h9.atomicLook.stampRead.updMe.touch.takeLease
end Sys2Proof.Machine
end

section
/-! SUPPORT. The canonical form (O60): the barriers. -/

namespace Sys2Proof.Machine

variable {s : State} {c : Core}

theorem Core.wf_setBar {b v} (hc : c.pool.wf = true) : (c.setBar b v).pool.wf = true := hc
theorem State.canonical.setBar {k b v} (h : s.canonical) : (s.setBar k b v).canonical :=
  h.updCoreAt fun _ h0 => Core.wf_setBar h0
theorem State.canonical.updCtx {k j f} (h : s.canonical) : (s.updCtx k j f).canonical :=
  h.updCoreAt fun _ h0 => Core.wf_setCtx h0
theorem State.canonical.wakeBar {k b} (h : s.canonical) : (s.wakeBar k b).canonical :=
  State.canonical.foldl h (fun _ _ h0 => State.canonical.foldl h0 (fun _ _ h1 => h1.updCtx) _) _
theorem State.canonical.tryComplete {y b} (h : s.canonical) : (s.tryComplete y b).canonical :=
  State.canonical.ite h.setBar.wakeBar h
theorem State.canonical.barStamp {k j b} (h : s.canonical) : (s.barStamp k j b).canonical := h.setBar.updCtx
theorem State.canonical.barEvent {k j b fn n} (h : s.canonical) : (s.barEvent k j b fn n).1.canonical := by
  simp only [State.barEvent]
  split
  · split
    · exact h.barStamp
    · split
      · exact h.barStamp
      · exact State.canonical.foldl h.barStamp.setBar
          (fun _ _ h0 => State.canonical.foldl h0 (fun _ _ h1 => State.canonical.ite h1.updCtx h1) _) _
  · split
    · exact h.barStamp
    · exact h.barStamp.setBar.updCtx.tryComplete
  · split
    · exact h.barStamp
    · exact h.barStamp.setBar.updCtx.tryComplete
  · split
    · exact h.barStamp.updCtx
    · split
      · exact h.barStamp.tryComplete.updCtx
      · exact h.barStamp.tryComplete
  · split
    · exact h.barStamp
    · exact h.barStamp.setBar.tryComplete
  · exact h.barStamp

theorem State.canonical.barLeave {k b} (h : s.canonical) : (s.barLeave k b).canonical := by
  simp only [State.barLeave]
  refine State.canonical.ite (State.canonical.ite h h.setBar) ?_
  refine State.canonical.setBar ?_
  split
  · exact State.canonical.ite
      (State.canonical.updCoreAt (State.canonical.foldl h (fun _ _ h0 => (h0.setBar.updCoreAt fun _ hc => by exact hc)) _)
      fun _ hc => by exact hc) (State.canonical.setBar
      (State.canonical.foldl h (fun _ _ h3 => (h3.setBar.updCoreAt fun _ hc => by exact hc)) _))
  · exact State.canonical.foldl h (fun _ _ h5 => (h5.setBar.updCoreAt fun _ hc => by exact hc)) _

theorem State.canonical.leaveLinks {k} (h : s.canonical) : (s.leaveLinks k).canonical :=
  State.canonical.foldl h (fun _ _ h0 => h0.barLeave) _
theorem State.canonical.dropHeld {k} (h : s.canonical) : (s.dropHeld k).canonical := by
  refine State.canonical.foldl ?_ (fun s p h => ?_) _
  · exact (State.canonical.updCoreAt h fun _ hc => by exact hc)
  · split
    · exact h.updCtx
    · exact h

theorem State.canonical.barLinkTo {k b x} (h : s.canonical) : Finds State.canonical (s.barLinkTo k b x) :=
  .ite (.some h.barLeave) (.ite (.some h)
    (.ite .none (.ite (.some (State.canonical.foldl h.setBar (fun _ _ h0 => h0.setBar) _)) (.some h.setBar))))

theorem State.canonical.credit {k b n pts} (h : s.canonical) : (s.credit k b n pts).2.canonical := by
  simp only [State.credit]
  split
  · exact h
  · split
    · exact h
    · exact h.setBar.tryComplete

theorem State.canonical.barDo {b fn n} (h : s.canonical) : Ends (fun r => r.2.canonical) (s.barDo b fn n) := by
  simp only [State.barDo]
  split
  · exact .ok h.updMe
  · exact .fault
  · exact .waiting h
  · refine .ite (.waiting h) ?_
    refine .ite ?_ (.ite (.waiting h) (.waiting (State.canonical.updMe h)))
    split
    · next e0 =>
        have h1 := canonical_of_eq (v := Prod.fst) h.barEvent e0
        exact .ok h1
    · exact .fault
    · next e4 =>
        have h5 := canonical_of_eq (v := Prod.fst) h.barEvent e4
        exact .waiting h5
    · next e6 =>
        have h7 := canonical_of_eq (v := Prod.fst) h.barEvent e6
        exact .wait h7
end Sys2Proof.Machine
end

section
/-! SUPPORT. The canonical form (O60): the directory of segments. -/

namespace Sys2Proof.Machine

variable {s : State} {c : Core}

theorem State.canonical.updSeg {g y} (h : s.canonical) : (s.updSeg g y).canonical := h
theorem State.canonical.setName {dom name t} (h : s.canonical) : (s.setName dom name t).canonical := h
theorem State.canonical.removeSeg {g} (h : s.canonical) : (s.removeSeg g).canonical := State.canonical.setName h
theorem State.canonical.nameStep {dom name} (h : s.canonical) : (s.nameStep dom name).canonical := h.setName.updMe
theorem State.canonical.voidAttach {g} (h : s.canonical) : (s.voidAttach g).canonical := (h.updCoreAt fun _ hc => by exact hc)
theorem State.canonical.writeHome {g is pts} (h : s.canonical) : Gives (fun r => r.2.canonical) (s.writeHome g is pts) := by
  induction is generalizing s pts with
  | nil => exact .ok h
  | cons i is ih =>
    simp only [State.writeHome]
    split
    · exact .error
    · next e =>
      have h1 := h.translate.of_eq e
      split
      · exact .error
      · next e =>
        have h2 : State.canonical _ := canonical_of_eq (v := Prod.snd) h1.extAnswer e
        split
        · exact .error
        · next e => exact ih (h2.stampRow.writeAt.of_eq e)

theorem State.canonical.evictSeg {g} (h : s.canonical) : Gives State.canonical (s.evictSeg g) := by
  unfold State.evictSeg
  refine .ite ?_ (.ok h.updSeg)
  split
  · exact .error
  · next e => exact .ok (State.canonical.updSeg (h.writeHome.of_eq e))

theorem State.canonical.dropSeg {g} (h : s.canonical) : (s.dropSeg g).canonical := State.canonical.ite h.updSeg h.removeSeg
theorem State.canonical.dropVoid {g} (h : s.canonical) : (s.dropVoid g).canonical := h.voidAttach.removeSeg
theorem State.canonical.evictOrDrop {g} (h : s.canonical) : (s.evictOrDrop g).canonical := by
  simp only [State.evictOrDrop]
  refine State.canonical.ite ?_ h.dropVoid
  split
  · next e0 =>
      have h1 := h.voidAttach.evictSeg.of_eq e0
      exact h1
  · exact h.dropVoid

theorem State.canonical.lastDetach {g} (h : s.canonical) : (s.lastDetach g).canonical := by
  simp only [State.lastDetach]
  refine State.canonical.ite h ?_
  refine State.canonical.ite h.removeSeg ?_
  refine State.canonical.ite ?_ h
  split
  · next e0 =>
      have h1 := h.evictSeg.of_eq e0
      exact h1
  · exact h.updSeg

theorem State.canonical.followHome {core g} (h : s.canonical) : (s.followHome core g).canonical :=
  State.canonical.ite (h.updCoreAt fun _ hc => by exact hc).updMe (h.updCoreAt fun _ hc => by exact hc)
theorem State.canonical.detach {core t} (h : s.canonical) : (s.detach core t).canonical := by
  simp only [State.detach]
  split
  · exact (h.updCoreAt fun _ hc => by exact hc)
  · exact State.canonical.ite (h.updCoreAt fun _ hc => by exact hc).updSeg.lastDetach.followHome
      (h.updCoreAt fun _ hc => by exact hc).updSeg.lastDetach

theorem State.canonical.endMaker {core} (h : s.canonical) : (s.endMaker core).canonical := h
theorem State.canonical.endTaskSegs {core} (h : s.canonical) : (s.endTaskSegs core).canonical :=
  State.canonical.foldl (State.canonical.endMaker
    (State.canonical.foldl h (fun _ _ h0 => State.canonical.ite h0.dropSeg
    (State.canonical.ite (h0.updCoreAt fun _ hc => by exact hc).updSeg h0)) _)) (fun _ _ h2 => h2.detach) _

theorem State.canonical.abortSegs {core} (h : s.canonical) : (s.abortSegs core).canonical := by
  simp only [State.abortSegs]
  refine (State.canonical.updCoreAt ?_ fun _ hc => by exact hc)
  refine State.canonical.endMaker ?_
  refine State.canonical.foldl ?_ (fun _ _ h1 => h1.dropVoid) _
  refine State.canonical.foldl h (fun _ _ h0 => ?_) _
  split
  · exact h0
  · exact State.canonical.ite h0.dropVoid h0.detach

theorem State.canonical.endLaunchSegs {seq} (h : s.canonical) : (s.endLaunchSegs seq).canonical :=
  State.canonical.foldl h (fun _ _ h0 => h0.dropSeg) _
theorem State.canonical.clearSegs {core} (h : s.canonical) : (s.clearSegs core).canonical :=
  State.canonical.foldl h (fun _ _ h0 => h0.evictOrDrop) _
end Sys2Proof.Machine
end

section
/-! SUPPORT. The canonical form (O60): the pods. -/

namespace Sys2Proof.Machine

variable {s : State} {c : Core}

theorem Core.wf_podSet {p off n v} (hc : c.pool.wf = true) : (c.podSet p off n v).pool.wf = true := Memory.wf_writeLE _ _ _ hc
theorem Core.wf_freePod {i} (hc : c.pool.wf = true) : (c.freePod i).pool.wf = true := hc
theorem Core.wf_releasePod {i} (hc : c.pool.wf = true) : (c.releasePod i).pool.wf = true :=
  Core.wf_ite (Core.wf_freePod (Core.wf_podSet hc)) (Core.wf_podSet hc)
theorem Core.wf_unholdPod {i} (hc : c.pool.wf = true) : (c.unholdPod i).pool.wf = true :=
  Core.wf_ite (Core.wf_freePod (Core.wf_podSet hc)) (Core.wf_podSet hc)
theorem Core.wf_unhold {y} (hc : c.pool.wf = true) : (c.unhold y).pool.wf = true := Core.wf_ite (Core.wf_unholdPod hc) hc
theorem Core.wf_freePods {all} (hc : c.pool.wf = true) : (c.freePods all).pool.wf = true :=
  Core.wf_foldl hc (fun _ _ h0 => Core.wf_freePod h0) _
theorem Core.wf_landCap {k p} (hc : c.pool.wf = true) : (c.landCap k p).pool.wf = true :=
  Core.wf_ite (Core.wf_setCtx
    (Core.wf_setRow _ _ _ (Core.wf_ite (Core.wf_setCtx (Core.wf_setRow _ _ _ (Core.wf_setCtx hc))) (Core.wf_setCtx hc))))
    (Core.wf_ite (Core.wf_setCtx (Core.wf_setRow _ _ _ (Core.wf_setCtx hc))) (Core.wf_setCtx hc))

theorem Core.wf_land {k p} (hc : c.pool.wf = true) : (c.land k p).pool.wf = true := Core.wf_landCap hc
theorem Core.wf_clearRows {lo n} (hc : c.pool.wf = true) : (c.clearRows lo n).pool.wf = true := Memory.wf_clear _ _ hc
theorem Core.wf_startHelper {k pc stacklim trapvec detached xs pts} (hc : c.pool.wf = true) :
    (c.startHelper k pc stacklim trapvec detached xs pts).pool.wf = true :=
  Core.wf_setCtx (Core.wf_clearRows hc)

theorem State.canonical.spawnApply {core a once pts} (h : s.canonical) : (s.spawnApply core a once pts).2.canonical := by
  unfold State.spawnApply
  split
  · exact h
  dsimp only
  split
  · exact h.setCoreAt (Core.wf_ite (Core.wf_releasePod (Core.wf_land (Core.wf_startHelper (h.2 core))))
      (Core.wf_land (Core.wf_startHelper (h.2 core))))
  split
  · exact h
  · exact h.setCoreAt (Core.wf_ite (Core.wf_releasePod (Core.wf_podSet (h.2 core))) (Core.wf_podSet (h.2 core)))

theorem State.canonical.startQueued {core} (h : s.canonical) : (s.startQueued core).canonical := by
  simp only [State.startQueued]
  split
  · exact State.canonical.setCoreAt h (Core.wf_unhold (Core.wf_landCap (Core.wf_startHelper (h.2 _))))
  · exact h
end Sys2Proof.Machine
end

section
/-! SUPPORT. The canonical form (O60): the end of a task. -/

namespace Sys2Proof.Machine

variable {s : State} {c : Core}

theorem State.canonical.detachAll {k dissolve} (h : s.canonical) : (s.detachAll k dissolve).canonical :=
  State.canonical.foldl h (fun _ _ h0 => (h0.updCoreAt fun _ hc => by exact hc)) _
theorem State.canonical.unmask {k} (h : s.canonical) : (s.unmask k).canonical :=
  State.canonical.ite (h.updCoreAt fun _ hc => by exact hc) h
theorem State.canonical.endGang {k} (h : s.canonical) : (s.endGang k).canonical :=
  State.canonical.ite h (State.canonical.ite h.detachAll (h.unmask.updCoreAt fun _ hc => by exact hc))
theorem State.canonical.commitAt {k ct wid o flags pts} (h : s.canonical) : (s.commitAt k ct wid o flags pts).canonical := h
theorem State.canonical.commit {k o flags} (h : s.canonical) : (s.commit k o flags).canonical :=
  State.canonical.ite h h.commitAt
theorem Core.wf_endTask (hc : c.pool.wf = true) : c.endTask.pool.wf = true := Core.wf_clearRows hc
theorem State.canonical.endTask {k all abort} (h : s.canonical) : (s.endTask k all abort).canonical :=
  State.canonical.updCoreAt
    (State.canonical.leaveLinks (State.canonical.endGang (State.canonical.ite h.abortSegs h.endTaskSegs))) fun _ h0 =>
    Core.wf_endTask (Core.wf_freePods (Core.wf_foldl h0 (fun _ _ h1 => Core.wf_unhold h1) _))

theorem State.canonical.doubleFault {k j pc cause} (h : s.canonical) : (s.doubleFault k j pc cause).canonical :=
  (h.commit.endTask.updCoreAt fun _ hc => by exact hc)
theorem Core.wf_bumpBut {keep} (hc : c.pool.wf = true) : (c.bumpBut keep).pool.wf = true := Memory.wf_filter hc _
theorem State.canonical.bumpTask {k} (h : s.canonical) : (s.bumpTask k).canonical :=
  h.stampRows.updCoreAt fun _ h0 => Core.wf_setCtx (Core.wf_bumpBut h0)
theorem State.canonical.deadlineAbort {k} (h : s.canonical) : (s.deadlineAbort k).canonical :=
  (h.commit.endTask.bumpTask.updCoreAt fun _ hc => by exact hc)
end Sys2Proof.Machine
end

section
/-! SUPPORT. The canonical form (O60): what every instruction does as it ends. -/

namespace Sys2Proof.Machine

variable {s : State} {c : Core}

theorem State.canonical.walkFault {c a} (h : s.canonical) : (s.walkFault c a).canonical :=
  State.canonical.ite h.readWalk.updMe h
theorem State.canonical.takeTrap {epc cause tval} (h : s.canonical) : (s.takeTrap epc cause tval).canonical :=
  State.canonical.ite h.doubleFault h.setMe
theorem State.canonical.returnTrap (h : s.canonical) : Finds (fun r => r.1.canonical) s.returnTrap := .ite (.some h.updMe) .none
theorem State.canonical.setWait {w} (h : s.canonical) : (s.setWait w).canonical := h.updMe
theorem State.canonical.goOn {pc} (h : s.canonical) : (s.goOn pc).canonical := h.updMe
theorem State.canonical.stepTrap {step pc} (h : s.canonical) : (s.stepTrap step pc).canonical :=
  State.canonical.ite h.free.takeTrap h
theorem State.canonical.retire {step pc} (h : s.canonical) : (s.retire step pc).canonical := h.goOn.count.stepTrap
theorem State.canonical.reserved {w} (h : s.canonical) : Answers (s.reserved w) := .next h.takeTrap
theorem State.canonical.finish {len r} (h : s.canonical) (hr : Ends Done.canonical r) : Answers (s.finish len r) := by
  cases r with
  | error e =>
    cases e with
    | trap c v => exact .next h.walkFault.takeTrap
    | wait t w => exact .next (hr.2 t w rfl).setWait
  | ok d =>
    have hd : d.state.canonical := hr.of_eq rfl
    cases d with
    | next t => exact .next hd.retire
    | jump t pc => exact .next hd.retire
    | wrote t => exact .next hd.goOn.stepTrap
    | own t => exact .next hd.count
    | trapNext t c v => exact .next hd.retire.takeTrap
    | trapHere t c v => exact .next hd.walkFault.takeTrap

theorem State.canonical.instr {len us body} (h : s.canonical) (hb : Ends Done.canonical (body s)) :
    Answers (s.instr len us body) := by
  simp only [State.instr]
  split
  · exact .next h.setWait
  · split
    · exact .next h.takeTrap
    · exact h.finish hb
end Sys2Proof.Machine
end

section
/-! SUPPORT. The canonical form (O60): the flags. -/

namespace Sys2Proof.Machine

variable {s : State} {c : Core}

theorem State.canonical.setFlags {f} (h : s.canonical) : (s.setFlags f).canonical := h.updMe
theorem State.canonical.setFp {f} (h : s.canonical) : (s.setFp f).canonical := h.setFlags
theorem State.canonical.setIst {f} (h : s.canonical) : (s.setIst f).canonical := h.setFlags
end Sys2Proof.Machine
end

section
/-! SUPPORT. The canonical form (O60): the integer instructions. -/

namespace Sys2Proof.Machine

variable {s : State} {c : Core}

theorem State.canonical.rrr {d a c f} (h : s.canonical) : Answers (s.rrr d a c f) := h.instr (.goes h.setX)
theorem State.canonical.rr {d a f} (h : s.canonical) : Answers (s.rr d a f) := h.instr (.goes h.setX)
theorem State.canonical.rri {len d a k f} (h : s.canonical) : Answers (s.rri len d a k f) := h.instr (.goes h.setX)
theorem State.canonical.divide {d a c signed rem} (h : s.canonical) : Answers (s.divide d a c signed rem) :=
  h.instr (.goes h.setX.setIst)
theorem State.canonical.const {len d f} (h : s.canonical) : Answers (s.const len d f) := h.instr (.goes h.setX)
theorem State.canonical.lea {len d b c sh k} (h : s.canonical) : Answers (s.lea len d b c sh k) := h.instr (.goes h.setX)
theorem answers_execBfx {d a p w} (h : s.canonical) : Answers (execBfx d a p w s) := h.instr (.goes h.setX)
theorem answers_execBfxu {d a p w} (h : s.canonical) : Answers (execBfxu d a p w s) := h.instr (.goes h.setX)
theorem answers_execBfi {d a p w} (h : s.canonical) : Answers (execBfi d a p w s) := h.instr (.goes h.setX)
theorem answers_execCsel {d a c e} (h : s.canonical) : Answers (execCsel d a c e s) := h.instr (.goes h.setX)
theorem answers_execMad {d a c e} (h : s.canonical) : Answers (execMad d a c e s) := h.instr (.goes h.setX)
theorem answers_execWfield {d a c} (h : s.canonical) : Answers (execWfield d a c s) := h.instr (.goes h.setX)
end Sys2Proof.Machine
end

section
/-! SUPPORT. The canonical form (O60): the scalar float instructions. -/

namespace Sys2Proof.Machine

variable {s : State} {c : Core}

theorem State.canonical.fp2 {len d a c f} (h : s.canonical) : Answers (s.fp2 len d a c f) := h.instr (.goes h.setX.setFp)
theorem State.canonical.fp1 {len d a f} (h : s.canonical) : Answers (s.fp1 len d a f) := h.instr (.goes h.setX.setFp)
theorem answers_execFmadd {d a c e r} (h : s.canonical) : Answers (execFmadd d a c e r s) := h.instr (.goes h.setX.setFp)
theorem answers_execFcvtf {d a r} (h : s.canonical) : Answers (execFcvtf d a r s) := h.instr (.goes h.setX.setFp)
end Sys2Proof.Machine
end

section
/-! SUPPORT. The canonical form (O60): the loads, stores and atomics. -/

namespace Sys2Proof.Machine

variable {s : State} {c : Core}

theorem State.canonical.awaitX {d a} (h : s.canonical) : (s.awaitX d a).canonical := State.canonical.ite h.updMe h
theorem State.canonical.loadX {t stk a d} (h : s.canonical) : Ends State.canonical (s.loadX t stk a d) :=
  .bind h.load fun ⟨_, _⟩ h0 => .ok h0.setX.awaitX
theorem State.canonical.ldAt {len t k b d} (h : s.canonical) : Answers (s.ldAt len t k b d) := h.instr (.andGoes h.loadX)
theorem State.canonical.stAt {len w k b v} (h : s.canonical) : Answers (s.stAt len w k b v) := h.instr (.andGoes h.store)
theorem answers_execLdP {t o b d} (h : s.canonical) : Answers (execLdP t o b d s) :=
  .ite h.reserved (h.instr (.bind h.loadX fun _ h0 => .goes h0.setX))
theorem answers_execStP {w o b v} (h : s.canonical) : Answers (execStP w o b v s) :=
  h.instr (.bind h.store fun _ h0 => .goes h0.setX)
theorem State.canonical.ldxAt {len t sh k d b c} (h : s.canonical) : Answers (s.ldxAt len t sh k d b c) :=
  h.instr (.andGoes h.loadX)
theorem State.canonical.stxAt {len w sh k v b c} (h : s.canonical) : Answers (s.stxAt len w sh k v b c) :=
  h.instr (.andGoes h.store)
theorem State.canonical.amo {op p w d a v e} (h : s.canonical) : Ends Done.canonical (s.amo op p w d a v e) :=
  .bind h.rmw fun ⟨_, _⟩ h0 => .goes h0.setX.setFp.awaitX
theorem State.canonical.amo3 {op p w d a v} (h : s.canonical) : Answers (s.amo3 op p w d a v) := h.instr h.amo
theorem answers_execAmoCas {p w d a v e} (h : s.canonical) : Answers (execAmoCas p w d a v e s) := h.instr h.amo
theorem answers_execFenceImem (h : s.canonical) : Answers (execFenceImem s) :=
  h.instr (.ite (.waiting h) (.goes (h.updMe.updCore fun _ hc => by exact hc)))
theorem answers_execFenceExt (h : s.canonical) : Answers (execFenceExt s) := h.instr (.ite (.waiting h) (.goes h))
theorem State.canonical.discardCheck {ls} (h : s.canonical) : Ends (fun r => r.2.canonical) (s.discardCheck ls) := by
  induction ls generalizing s with
  | nil => exact .ok h
  | cons l ls ih => exact .bind (.liftTrap h.place) fun _ h => .bind (ih h) fun _ h => .ok h

theorem State.canonical.discardReady {ls} (h : s.canonical) : Ends State.canonical (s.discardReady ls) := by
  induction ls generalizing s with
  | nil => exact .ok h
  | cons l ls ih => exact .bind h.accReady fun _ h => ih h

theorem State.canonical.zeroLine {p a} (h : s.canonical) : Ends State.canonical (s.zeroLine p a) := by
  simp only [State.zeroLine]
  split
  · exact .ok (State.canonical.dirtySegs (h.stampWrite.updMe.updCore fun _ h0 => Core.wf_bumpRows h0))
  · exact h.ctxWrite
  · exact h.ctxWrite

theorem State.canonical.zeroLines {ls} (h : s.canonical) : Ends State.canonical (s.zeroLines ls) := by
  induction ls generalizing s with
  | nil => exact .ok h
  | cons l ls ih => exact .bind h.zeroLine fun _ h => ih h

theorem answers_execDiscard {a n} (h : s.canonical) : Answers (execDiscard a n s) :=
  h.instr (.ite (.goes h) (.ite .fault
    (.ite .fault (.ite .fault
    (.bind h.discardCheck fun ⟨_, _⟩ h0 => .bind h0.discardReady fun _ h1 => .andGoes h1.zeroLines)))))

theorem State.canonical.hintLines {k a} (h : s.canonical) : Finds (fun r => r.2.canonical) (s.hintLines k a) := by
  simp only [State.hintLines]
  refine .ite .none ?_
  split
  · next e0 =>
      have h1 := h.translate.of_eq e0
      split
      · exact .ite .none (.some h1)
      · exact .some h1
      · exact .none
  · exact .none

theorem State.canonical.hintFill {pts l} (h : s.canonical) : (s.hintFill pts l).2.canonical := h.lookHome.homeRead
theorem answers_execDpref {l a} (h : s.canonical) : Answers (execDpref l a s) := by
  simp only [execDpref]
  refine h.instr ?_
  split
  · next e0 =>
      have h1 := h.hintLines.of_eq e0
      exact .goes (State.canonical.foldl h1 (fun _ _ h2 => State.canonical.ite h2.lookHome h2.hintFill) _)
  · exact .goes h

theorem answers_execIpref {a} (h : s.canonical) : Answers (execIpref a s) := by
  refine h.instr ?_
  dsimp only
  split
  · next e =>
    have ht : State.canonical _ := h.hintLines.of_eq e
    refine .goes (State.canonical.ite (State.canonical.updCore ?_ fun _ hc => by exact hc) ?_)
    all_goals exact ht.hintFill
  · exact .goes h
end Sys2Proof.Machine
end

section
/-! SUPPORT. The canonical form (O60): the status registers and fences. -/

namespace Sys2Proof.Machine

variable {s : State} {c : Core}

theorem State.canonical.writeCnt {o k n v} (h : s.canonical) : (s.writeCnt o k n v).canonical :=
  State.canonical.ite (State.canonical.ite h h) (State.canonical.setCoreAt h (h.2 _))
theorem State.canonical.writeSel {o k n v} (h : s.canonical) : (s.writeSel o k n v).canonical := by
  unfold State.writeSel
  extract_lets v t key c
  have ht : t.canonical := (State.canonical.updCoreAt h fun _ hc => by exact hc)
  exact .ite ht ht

theorem State.canonical.countFirst {k n cnt} (h : s.canonical) : (s.countFirst k n cnt).canonical := h.countBut
theorem State.canonical.writeSR {o k j i v} (h : s.canonical) : Finds State.canonical (s.writeSR o k j i v) := by
  simp only [State.writeSR]
  refine .ite (.some h.writeCnt) ?_
  refine .ite (.some h.writeSel) ?_
  split
  · exact .some (h.updCoreAt fun _ h0 => Core.wf_setCtx h0)
  · exact .some (h.updCoreAt fun _ h1 => Core.wf_setCtx h1)
  · exact .some (h.updCoreAt fun _ h2 => Core.wf_setCtx h2)
  · exact .some (h.updCoreAt fun _ h3 => Core.wf_setCtx h3)
  · exact .some (h.updCoreAt fun _ h4 => Core.wf_setCtx h4)
  · exact .some (h.updCoreAt fun _ h5 => Core.wf_setCtx h5)
  · exact .some (h.updCoreAt fun _ h6 => Core.wf_setCtx h6)
  · exact .some (h.updCoreAt fun _ h7 => Core.wf_setCtx h7)
  · exact .some (h.updCoreAt fun _ hc => by exact hc)
  · exact .some (h.updCoreAt fun _ h9 => Core.wf_setCtx h9)
  · exact .none
end Sys2Proof.Machine
end

section
/-! SUPPORT. The canonical form (O60): the control instructions. -/

namespace Sys2Proof.Machine

variable {s : State} {c : Core}

theorem State.canonical.branch {len off a b f} (h : s.canonical) : Answers (s.branch len off a b f) :=
  h.instr (.ite (.ok h) (.goes h))
theorem State.canonical.x1Ready {f} (h : s.canonical) (hf : Ends Done.canonical (f s)) : Ends Done.canonical (s.x1Ready f) :=
  .ite (.waiting h) hf
theorem answers_execB {o} (h : s.canonical) : Answers (execB o s) := h.instr (.ok h)
theorem answers_execBLit {l} (h : s.canonical) : Answers (execBLit l s) := h.instr (.ok h)
theorem answers_execBl {o} (h : s.canonical) : Answers (execBl o s) := h.instr (h.x1Ready (.ok h.setX))
theorem answers_execBlLit {l} (h : s.canonical) : Answers (execBlLit l s) := h.instr (h.x1Ready (.ok h.setX))
theorem answers_execBr {a} (h : s.canonical) : Answers (execBr a s) := h.instr (.ok h)
theorem answers_execBlr {d a} (h : s.canonical) : Answers (execBlr d a s) := h.instr (.ok h.setX)
theorem answers_execRet (h : s.canonical) : Answers (execRet s) := h.instr (h.x1Ready (.ok h))
theorem answers_execLoop {c r o} (h : s.canonical) : Answers (execLoop c r o s) :=
  .ite h.reserved (h.instr (.ite (.ok (State.canonical.ite h.setX.updMe h.setX))
    (.goes (State.canonical.ite h.setX.updMe h.setX))))

theorem answers_execStart {d a c} (h : s.canonical) : Answers (execStart d a c s) := by
  simp only [execStart]
  refine h.instr ?_
  split
  · exact .goes h.setX
  · exact .goes (State.canonical.setX (h.updCore fun _ h0 => Core.wf_startHelper h0))

theorem State.canonical.failJoins {k} (h : s.canonical) : (s.failJoins k).canonical := (h.updCore fun _ hc => by exact hc)
theorem answers_execJoin {d a} (h : s.canonical) : Answers (execJoin d a s) :=
  h.instr (.ite .fault (.ite (.wait h)
    (.goes (State.canonical.setX (State.canonical.updMe (h.failJoins.updCore fun _ h0 => Core.wf_setCtx h0))))))

theorem answers_execEndc {a} (h : s.canonical) : Answers (execEndc a s) := h.instr (.ite .fault (.own h.updMe))
theorem answers_execYield (h : s.canonical) : Answers (execYield s) := h.instr (.goes h)
theorem answers_execTrap {n a} (h : s.canonical) : Answers (execTrap n a s) := h.instr (.ok h)
theorem answers_execBrk (h : s.canonical) : Answers (execBrk s) := h.instr .fault
theorem answers_execTret (h : s.canonical) : Answers (execTret s) := by
  simp only [execTret]
  refine h.instr ?_
  split
  · next e0 =>
      have h1 := h.returnTrap.of_eq e0
      exact .ok h1
  · exact .fault

theorem answers_execRdsr {d i} (h : s.canonical) : Answers (execRdsr d i s) := by
  simp only [execRdsr]
  refine h.instr ?_
  split
  · exact .goes h.setX
  · exact .fault

theorem answers_execWrsr {i a} (h : s.canonical) : Answers (execWrsr i a s) := by
  refine h.instr ?_
  dsimp only
  split
  · exact .ok (P := Done.canonical) (h.countFirst.getD h.countFirst.writeSR)
  · split
    · next e => exact .goes (h.writeSR.of_eq e)
    · exact .fault

theorem answers_execRdtime {d} (h : s.canonical) : Answers (execRdtime d s) :=
  h.instr (.goes (h.updCore fun _ hc => by exact hc).setX)
end Sys2Proof.Machine
end

section
/-! SUPPORT. The canonical form (O60): the access to vector lanes. -/

namespace Sys2Proof.Machine

variable {s : State} {c : Core}

theorem State.canonical.vwrite {w k d as cs f} (h : s.canonical) : (s.vwrite w k d as cs f).canonical := h.setV.setFlags
theorem State.canonical.awaitV {d ls} (h : s.canonical) : (s.awaitV d ls).canonical := State.canonical.ite h.updMe h
theorem State.canonical.loadV {one stk t k d addr} (h : s.canonical) : Ends State.canonical (s.loadV one stk t k d addr) :=
  .bind h.vload fun ⟨_, _⟩ h0 => .ok h0.setV.awaitV
theorem State.canonical.storeV {one stk t k d addr} (h : s.canonical) : Ends State.canonical (s.storeV one stk t k d addr) :=
  h.vstore
theorem State.canonical.vmem {len st one t k a b c addr upd} (h : s.canonical) :
    Answers (s.vmem len st one t k a b c addr upd) := by
  simp only [State.vmem]
  refine h.instr ?_
  refine .ite ?_ ?_
  · refine .bind h.storeV fun _ h0 => ?_
    refine .goes ?_
    split
    · exact h0.setX
    · exact h0
  · refine .bind h.loadV fun _ h1 => ?_
    refine .goes ?_
    split
    · exact h1.setX
    · exact h1

theorem State.canonical.vldAt {len st t k disp a b} (h : s.canonical) : Answers (s.vldAt len st t k disp a b) := h.vmem
theorem State.canonical.vldPAt {len st t k disp a b} (h : s.canonical) : Answers (s.vldPAt len st t k disp a b) := h.vmem
theorem State.canonical.vldsAt {len st t k disp a b c} (h : s.canonical) : Answers (s.vldsAt len st t k disp a b c) := h.vmem
theorem State.canonical.vldxAt {len st t k sh disp a b c} (h : s.canonical) : Answers (s.vldxAt len st t k sh disp a b c) :=
  h.vmem
theorem State.canonical.vldbAt {len t k disp a b} (h : s.canonical) : Answers (s.vldbAt len t k disp a b) := h.vmem
end Sys2Proof.Machine
end

section
/-! SUPPORT. The canonical form (O60): the vector instructions. -/

namespace Sys2Proof.Machine

variable {s : State} {c : Core}

theorem State.canonical.valu {len k y a b c f} (h : s.canonical) : Answers (s.valu len k y a b c f) := h.instr (.goes h.vwrite)
theorem State.canonical.valu1 {len k y a b f} (h : s.canonical) : Answers (s.valu1 len k y a b f) := h.instr (.goes h.vwrite)
theorem State.canonical.vselAt {len k y a b c} (h : s.canonical) : Answers (s.vselAt len k y a b c) := h.instr (.goes h.vwrite)
theorem State.canonical.vcmpAt {len k y c uns b z a} (h : s.canonical) : Answers (s.vcmpAt len k y c uns b z a) :=
  h.instr (.goes h.setM.setFp)
theorem State.canonical.vfmaAt {len k y r negP negD a b c} (h : s.canonical) : Answers (s.vfmaAt len k y r negP negD a b c) :=
  h.instr (.goes h.vwrite)
theorem State.canonical.vdotAt {len n k y r a b c} (h : s.canonical) : Answers (s.vdotAt len n k y r a b c) :=
  h.instr (.goes h.vwrite)
theorem State.canonical.spec1 {len k y a b f} (h : s.canonical) : Answers (s.spec1 len k y a b f) := State.canonical.valu1 h
theorem answers_execVcvt {td ts part r k a b} (h : s.canonical) : Answers (execVcvt td ts part r k a b s) :=
  h.instr (.goes h.setV.setFlags)
theorem answers_execVpackgx {g off a b} (h : s.canonical) : Answers (execVpackgx g off a b s) := h.instr (.goes h.setV.setFp)
theorem answers_execVunpackgx {g off k a b} (h : s.canonical) : Answers (execVunpackgx g off k a b s) :=
  h.instr (.goes h.vwrite)
theorem State.canonical.mask3 {a b c f} (h : s.canonical) : Answers (s.mask3 a b c f) := h.instr (.goes h.setM)
theorem answers_execMnot {a b} (h : s.canonical) : Answers (execMnot a b s) := h.instr (.goes h.setM)
theorem answers_execMpopc {a b} (h : s.canonical) : Answers (execMpopc a b s) := h.instr (.goes h.setX)
theorem answers_execMfirst {a b} (h : s.canonical) : Answers (execMfirst a b s) := h.instr (.goes h.setX)
theorem answers_execMfromx {y a b} (h : s.canonical) : Answers (execMfromx y a b s) := h.instr (.goes h.setM)
theorem answers_execMtox {y a b} (h : s.canonical) : Answers (execMtox y a b s) := h.instr (.goes h.setX)
theorem answers_execMlanes {a b} (h : s.canonical) : Answers (execMlanes a b s) := h.instr (.goes h.setM)
end Sys2Proof.Machine
end

section
/-! SUPPORT. The canonical form (O60): the permutations, scans and masks. -/

namespace Sys2Proof.Machine

variable {s : State} {c : Core}

theorem State.canonical.perm2 {len k y a b c f} (h : s.canonical) : Answers (s.perm2 len k y a b c f) :=
  h.instr (.goes h.vwrite)
theorem State.canonical.perm1 {len k y a b f} (h : s.canonical) : Answers (s.perm1 len k y a b f) := h.instr (.goes h.vwrite)
theorem State.canonical.slideUp {len k y a b c} (h : s.canonical) : Answers (s.slideUp len k y a b c) :=
  h.instr (.goes h.vwrite)
theorem State.canonical.slideDn {len k y a b c} (h : s.canonical) : Answers (s.slideDn len k y a b c) :=
  h.instr (.goes h.vwrite)
theorem State.canonical.bcast {len k y a b} (h : s.canonical) : Answers (s.bcast len k y a b) := h.instr (.goes h.vwrite)
theorem State.canonical.vextAt {len y a b c} (h : s.canonical) : Answers (s.vextAt len y a b c) := h.instr (.goes h.setX)
theorem State.canonical.vinsAt {len k y a b c} (h : s.canonical) : Answers (s.vinsAt len k y a b c) := h.instr (.goes h.vwrite)
theorem State.canonical.vredAt {len k y o a b} (h : s.canonical) : Answers (s.vredAt len k y o a b) :=
  h.instr (.goes h.setV.setFp)
theorem State.canonical.vscanAt {len k y o a b} (h : s.canonical) : Answers (s.vscanAt len k y o a b) :=
  h.instr (.goes h.vwrite.setFp)
theorem State.canonical.keep2 {len y a b c} (h : s.canonical) : Answers (s.keep2 len y a b c) := h.instr (.goes h.setV.setM)
end Sys2Proof.Machine
end

section
/-! SUPPORT. The canonical form (O60): the shape-form instructions. -/

namespace Sys2Proof.Machine

variable {s : State} {c : Core}

theorem State.canonical.poolReady {ls} (h : s.canonical) : Ends State.canonical (s.poolReady ls) := by
  induction ls generalizing s with
  | nil => exact .ok h
  | cons l ls ih => exact .ite (ih h) (.bind h.accReady fun _ h => ih h)

theorem State.canonical.poolReads {ls} (h : s.canonical) : Ends (fun r => r.2.canonical) (s.poolReads ls) := by
  induction ls generalizing s with
  | nil => exact .ok h
  | cons l ls ih =>
    unfold State.poolReads
    dsimp only
    split
    · exact .bind (P := fun r => r.2.canonical) (.ok h) fun _ h => .bind (ih h) fun _ h => .ok h
    · exact .bind h.ctxRead fun _ h => .bind (ih h) fun _ h => .ok h

theorem State.canonical.validate {ops ok types red} (h : s.canonical) :
    Ends (fun r => r.2.canonical) (s.validate ops ok types red) := by
  unfold State.validate
  split
  · exact .ok h
  refine .bind h.poolReady fun _ h => .bind (State.canonical.poolReads h) fun r h => ?_
  dsimp only
  split
  · exact .ok h
  · exact .bind (State.canonical.poolReady h) fun _ h => .bind (State.canonical.poolReads h) fun _ h => .ok h

theorem State.canonical.setCursor {addr v} (h : s.canonical) : Ends State.canonical (s.setCursor addr v) := h.ctxWrite
theorem State.canonical.parkShape {k j} (h : s.canonical) : (s.parkShape k j).canonical := by
  simp only [State.parkShape]
  split
  · exact h
  · refine State.canonical.ite (h.updCoreAt fun _ h0 => Core.wf_setCtx h0) ?_
    split
    · exact h.updCoreAt fun _ h1 => Core.wf_setCtx h1
    · exact State.canonical.dirtySegs
        (State.canonical.updCoreAt (h.updCoreAt fun _ h2 => Core.wf_setCtx h2) fun _ h3 => Core.wf_setBytes h3)

/-- Of a step of a shape operation: its effect keeps the canonical form. -/
def ShStep.Keeps (st : ShStep) : Prop := ∀ s, s.canonical → Ends State.canonical (st.act s)

theorem State.canonical.shapeGo {run st began} (h : s.canonical) (hst : st.Keeps) :
    Ends Done.canonical (s.shapeGo run st began) := by
  unfold State.shapeGo
  split
  · exact .goes h
  next d _ _ =>
  extract_lets last r
  have hr : Ends State.canonical r :=
    .bind h.poolReady fun s h => .bind (hst s h) fun s h => .ite (State.canonical.setCursor h) (.ok h)
  clear_value r
  split
  · exact .ite (.ok (P := Done.canonical) (State.canonical.parkShape h)) .fault
  · exact hr.of_error rfl
  · exact .ite (.goes (State.canonical.updMe (hr.of_eq rfl))) (.wait (State.canonical.updMe (hr.of_eq rfl)))

theorem State.canonical.elemWrites {z k a bs} (h : s.canonical) : Ends State.canonical (s.elemWrites z k a bs) := by
  induction k generalizing s a bs with
  | zero => exact .ok h
  | succ k ih => exact .bind h.ctxWrite fun _ h => ih h

theorem State.canonical.runWrite {z a bs} (h : s.canonical) : Ends State.canonical (s.runWrite z a bs) :=
  .bind h.elemWrites fun _ h0 => .ok h0.rowEntries
theorem ShOp.step_keeps {o : ShOp} {md : Rnd} {x : Nat} {t : State} {run : ShapeRun} : (o.step md x t run).Keeps := by
  intro s h
  unfold ShOp.step
  split
  · exact .ok h
  · dsimp only
    refine .bind h.poolReads fun r h => ?_
    split
    · refine .bind (State.canonical.poolReads h) fun r h => State.canonical.runWrite ?_
      exact State.canonical.setFlags h
    · refine .bind (P := fun r => r.2.canonical) (.ok h) fun r h => State.canonical.runWrite ?_
      exact State.canonical.setFlags h
theorem RedOp.step_keeps {o : RedOp} {t : State} {run : ShapeRun} : (o.step t run).Keeps := by
  intro s h
  unfold RedOp.step
  split
  · exact .bind h.poolReads fun r h => State.canonical.ctxWrite (State.canonical.setFp h)
  · exact .ok h

theorem State.canonical.shapeForm {us ops ok types red step} (h : s.canonical) (hst : ∀ t run, (step t run).Keeps) :
    Answers (s.shapeForm us ops ok types red step) := by
  refine h.instr ?_
  split
  · exact h.shapeGo (hst _ _)
  refine .bind h.validate fun r h => ?_
  obtain ⟨c, s⟩ := r
  dsimp -zeta only at h ⊢
  split
  · exact .fault
  · split
    · exact .goes h
    · exact .bind h.poolReady fun s h => .andGoes (State.canonical.setCursor h)
  · split
    · exact .goes h
    · exact .ite (.bind h.poolReady fun s h => .andGoes (State.canonical.setCursor h)) (h.shapeGo (hst _ _))

theorem State.canonical.shape3 {o r a b c} (h : s.canonical) : Answers (s.shape3 o r a b c) :=
  h.shapeForm fun _ _ => ShOp.step_keeps
theorem State.canonical.checkRead {a n} (h : s.canonical) : Ends (fun r => r.2.canonical) (s.checkRead a n) :=
  .bind h.poolReady fun _ h => .bind (State.canonical.poolReads h) fun _ h => .ok h
theorem State.canonical.checkStep {ops run} (h : s.canonical) : Ends (fun r => r.2.2.canonical) (s.checkStep ops run) := by
  unfold State.checkStep
  extract_lets next
  split
  · exact .bind h.checkRead fun _ h => .ok h
  dsimp only
  split
  · exact .ok h
  · exact .bind h.checkRead fun _ h => .ok h

theorem answers_execShpCheck {a b c e} (h : s.canonical) : Answers (execShpCheck a b c e s) := by
  refine h.instr ?_
  extract_lets src ops done go
  have hdone (r : Checked) {t : State} (ht : t.canonical) : Ends Done.canonical (done r t) := .goes
    (State.canonical.setX ht.updMe)
  have hgo (run : ShapeRun) : Ends Done.canonical (go run) := by
    have hs := h.checkStep (ops := ops) (run := run)
    simp only [go]
    split
    · next hr => exact hdone _ (hs.of_eq hr)
    · next hr => exact .wait (State.canonical.updMe (hs.of_eq hr))
    · exact .ite (.ok (P := Done.canonical) (State.canonical.parkShape h)) .fault
    · next hr => exact hs.of_error hr
  split
  · exact hgo _
  split
  · exact hdone (.bad _ _) h
  · exact hgo _
end Sys2Proof.Machine
end

section
/-! SUPPORT. The canonical form (O60): the barrier instructions. -/

namespace Sys2Proof.Machine

variable {s : State} {c : Core}

theorem State.canonical.barFn {len us b fn n} (h : s.canonical) : Answers (s.barFn len us b fn n) :=
  h.instr (.bind h.barDo fun ⟨_, _⟩ h0 => .goes h0)
theorem State.canonical.barWoken {b} (h : s.canonical) : (s.barWoken b).canonical := h.barStamp.updMe
theorem answers_execBarWait {b} (h : s.canonical) : Answers (execBarWait b s) := by
  simp only [execBarWait]
  refine h.instr ?_
  split
  · exact .goes h.barWoken
  · exact .wait h
  · exact .bind h.barDo fun ⟨_, _⟩ h0 => .goes h0

theorem answers_execBarTest {b d} (h : s.canonical) : Answers (execBarTest b d s) :=
  h.instr (.bind h.barDo fun ⟨_, _⟩ h0 => .goes h0.setX)
theorem answers_execBarLink {b a} (h : s.canonical) : Answers (execBarLink b a s) := by
  simp only [execBarLink]
  refine h.instr ?_
  split
  · next e0 =>
      have h1 := h.barLinkTo.of_eq e0
      exact .goes h1
  · exact .fault
end Sys2Proof.Machine
end

section
/-! SUPPORT. The canonical form (O60): the steps of a matrix card. -/

namespace Sys2Proof.Machine

variable {s : State} {c : Core}

theorem Core.wf_bankDone {eng row} (hc : c.pool.wf = true) : (c.bankDone eng row).pool.wf = true := hc
theorem Core.wf_setAccRow {r vs} (hc : c.pool.wf = true) : (c.setAccRow r vs).pool.wf = true :=
  Memory.wf_writeLE _ _ _ (Memory.wf_writeLE _ _ _ hc)
end Sys2Proof.Machine
end

section
/-! SUPPORT. The canonical form (O60): the units of the two engines. -/

namespace Sys2Proof.Machine

variable {s : State} {c : Core}

/-- The state that a gate of an access leaves. -/
def Gate.state : Gate → State
  | .go s _ | .bad s _ | .ask s _ => s

theorem State.canonical.cardGate {s : State} {dom a : Nat} {ext : Option ExtWait} {wr : Bool} {p : Place} (h : s.canonical) :
    (s.cardGate dom ext wr p a).state.canonical := by
  unfold State.cardGate
  dsimp only
  rw [apply_ite Gate.state]
  refine .ite ?_ ?_
  · split
    · next e => exact canonical_of_eq (v := Prod.snd) h.extAnswer e
    · next e => exact canonical_of_eq (v := Prod.snd) h.extAnswer e
  split
  · split <;> exact h
  · split <;> exact h

/-! The units of the engines. -/

/-- Of a step of an engine: it leaves memory and pools in canonical form, also where it faults. -/
def Eng.Keeps {α : Type} (u : Eng α) : Prop := ∀ e : EngS, e.s.canonical → (u.run e).2.s.canonical

section
variable {α β : Type} {core : Nat} {c : Card}

theorem Eng.Keeps.pure {a : α} : Eng.Keeps (Pure.pure a) := fun _ h => h
theorem Eng.Keeps.throw {t : Trap} : Eng.Keeps (α := α) (throw t) := fun _ h => h
theorem Eng.Keeps.cardFault {cause : BitVec 8} {tval : Nat} : Eng.Keeps (α := α) (cardFault cause tval) := throw
theorem Eng.Keeps.modify {f : EngS → EngS} (hf : ∀ e, e.s.canonical → (f e).s.canonical) : Eng.Keeps (modify f) := hf
theorem Eng.Keeps.onState {f : State → State} (hf : ∀ s, s.canonical → (f s).canonical) : Eng.Keeps (onState f) := fun e h => hf e.s h
theorem Eng.Keeps.set {e : EngS} (h : e.s.canonical) : Eng.Keeps (set e) := fun _ _ => h
theorem Eng.Keeps.get {f : EngS → Eng α} (hf : ∀ e, e.s.canonical → Eng.Keeps (f e)) : Eng.Keeps (get >>= f) := fun e h => hf e h e h
theorem Eng.Keeps.ite {p : Prop} [Decidable p] {u v : Eng α} (hu : Eng.Keeps u) (hv : Eng.Keeps v) : Eng.Keeps (if p then u else v) := by
  split <;> assumption
theorem Eng.Keeps.bind {u : Eng α} {f : α → Eng β} (hu : Eng.Keeps u) (hf : ∀ a, Eng.Keeps (f a)) : Eng.Keeps (u >>= f) := by
  intro e h
  have hu := hu e h
  change (ExceptT.bindCont f (u.run e).1 (u.run e).2).2.s.canonical
  generalize u.run e = r at hu ⊢
  obtain ⟨t | a, e⟩ := r
  · exact hu
  · exact hf a e hu
theorem Eng.Keeps.mapM {f : α → Eng β} (hf : ∀ a, Eng.Keeps (f a)) (l : List α) : Eng.Keeps (l.mapM f) := by
  induction l with
  | nil => rw [List.mapM_nil]; exact .pure
  | cons a l ih => rw [List.mapM_cons]; exact (hf a).bind fun _ => ih.bind fun _ => .pure
end

section
variable {core k : ℕ} {c : Card} {f o : Fp} {ag : Ag} {p : Place} {acc : Acc} {a n z : ℕ}

theorem covered_keeps : Eng.Keeps (covered f a n) := .ite .pure (.ite .cardFault (.ite .cardFault .pure))

theorem walkFault_keeps {t : Trap} : Eng.Keeps (walkFault ag t) := .ite (.modify fun _ h => h.readWalk) .pure

theorem banksDone_keeps {rows : List ℕ} : Eng.Keeps (banksDone core rows) :=
  .modify fun _ h => h.updCoreAt fun _ hc => Core.wf_foldl hc (fun _ _ hc => Core.wf_bankDone hc) _

theorem cardPlace_keeps {packed : Bool} : Eng.Keeps (cardPlace k f acc packed a n) := by
  refine .get fun e h => .ite ?_ ?_
  · split
    · exact .throw
    · exact .pure
  split
  · exact walkFault_keeps.bind fun _ => .throw
  next p s hp =>
  have hs : s.canonical := h.place.of_eq hp
  refine .get fun e' _ => ?_
  extract_lets rest
  have hrest (r : PUnit) : Eng.Keeps (rest r) := by
    simp only [rest]
    split
    · exact .ite .pure .cardFault
    · exact .ite .pure .cardFault
    · exact .ite .cardFault .pure
  · have hg {dom ext wr} : (s.cardGate dom ext wr p a).state.canonical := hs.cardGate
    split
    · next hg' => exact .bind (.modify fun _ _ => canonical_of_eq (v := Gate.state) hg hg') hrest
    · next hg' => exact .bind (.onState fun _ _ => canonical_of_eq (v := Gate.state) hg hg') fun _ => .bind .throw hrest
    · next hg' => exact .bind (.modify fun _ _ => canonical_of_eq (v := Gate.state) hg hg') fun _ => .bind .throw hrest

theorem logBits_keeps {bs : List Bit} {data : List Byte} : Eng.Keeps (logBits bs data) := by
  induction bs generalizing data with
  | nil => exact .pure
  | cons b bs ih =>
    unfold logBits
    extract_lets own rest
    have hrest (own : List Byte) : Eng.Keeps (rest own) := ih.bind fun _ => .pure
    refine .ite (.get fun e h => ?_) (.bind .pure hrest)
    split
    · exact .bind .throw hrest
    · next hl => exact .bind (.onState fun _ _ => h.hostLog.of_eq hl) fun _ => .bind .pure hrest

theorem readPart_keeps : Eng.Keeps (readPart ag p a n) := by
  refine .get fun e h => ?_
  split
  · exact .throw
  · next hr => exact .bind (.set (h.readAt.of_eq hr)) fun _ => banksDone_keeps.bind fun _ => logBits_keeps

theorem writePart_keeps {bs : List (Option Byte)} : Eng.Keeps (writePart ag p a bs) := by
  refine .get fun e h => ?_
  dsimp only
  split
  · exact .throw
  · next hw =>
    have hs : State.canonical _ := h.writeAt.of_eq hw
    exact .bind (.set (hs.updCoreAt fun _ hc => by exact hc)) fun _ => banksDone_keeps

theorem stepBits_keeps {packed : Bool} : Eng.Keeps (stepBits k f acc packed a n) :=
  .mapM (fun _ => cardPlace_keeps.bind fun _ => .pure) _

theorem readBits_keeps {bs : List Bit} : Eng.Keeps (readBits bs) := by
  unfold readBits
  split
  · exact readPart_keeps
  split
  · refine .get fun e h => ?_
    have hs {b : Bit} {rs : List (ℕ × ℕ)} : State.canonical _ := h.spanRead (g := b.ag) (rs := rs) (pts := e.s.joinWalks e.pts)
    exact .bind (.set (State.canonical.sealWalks hs)) fun _ => logBits_keeps
  · exact .bind (.mapM (fun _ => readPart_keeps) _) fun _ => .pure

theorem writeBits_keeps {bs : List Byte} {ps : List Bit} : Eng.Keeps (writeBits bs ps) := by
  unfold writeBits
  dsimp only
  split
  · exact writePart_keeps
  split
  · exact .get fun e h => .set (State.canonical.sealWalks h.spanWrite)
  · exact .bind (.mapM (fun _ => writePart_keeps) _) fun _ => .pure

theorem cardRead_keeps : Eng.Keeps (cardRead k f z a n) :=
  covered_keeps.bind fun _ => .bind (.mapM (fun _ => stepBits_keeps.bind fun _ => readBits_keeps) _) fun _ => .pure

theorem cardWriteFrom_keeps {fuel : ℕ} {bs : List Byte} : Eng.Keeps (cardWriteFrom k f z fuel a bs) := by
  induction fuel generalizing a bs with
  | zero => exact .pure
  | succ fuel ih =>
    refine .ite .pure (.get fun e _ => covered_keeps.bind fun _ => ?_)
    exact stepBits_keeps.bind fun _ => writeBits_keeps.bind fun _ => ih

theorem cardWrite_keeps {bs : List Byte} : Eng.Keeps (cardWrite k f z a bs) := cardWriteFrom_keeps

/-! The matrix unit. -/

theorem tileRow_keeps {r : Rec} {t : ℕ} : Eng.Keeps (tileRow core c r k t n) :=
  cardRead_keeps.bind fun _ => cardRead_keeps.bind fun _ =>
    .bind (.mapM (fun _ => cardRead_keeps.bind fun _ => .pure) _) fun _ => .pure

theorem unpackSparse_keeps {row : List FVal} {idx : ℕ} : Eng.Keeps (unpackSparse row idx) := by
  unfold unpackSparse
  refine .bind (.mapM (fun _ => ?_) _) fun _ => .pure
  exact .ite .cardFault .pure

theorem macRow_keeps {t k0 n0 cols : ℕ} {row : List FVal} : Eng.Keeps (macRow core c t row k0 n0 cols) := by
  refine .get fun _ _ => .bind (.onState fun s h => ?_) fun _ => banksDone_keeps
  refine State.canonical.updCoreAt h fun co hc => ?_
  dsimp only
  exact Core.wf_setAccRow hc

theorem mulRow_keeps {r : Rec} {t : ℕ} : Eng.Keeps (mulRow core c r t) := by
  refine tileRow_keeps.bind fun _ => ?_
  extract_lets j mac
  have hmac (row : List FVal) : Eng.Keeps (mac row) := .ite macRow_keeps macRow_keeps
  exact .ite (cardRead_keeps.bind fun _ => unpackSparse_keeps.bind hmac) (.bind .pure hmac)

theorem loadB_keeps : Eng.Keeps (loadB core c) :=
  cardRead_keeps.bind fun _ => .onState fun _ h => (State.canonical.updCoreAt h fun _ hc => by exact hc)

theorem readoutRow_keeps {i : ℕ} : Eng.Keeps (readoutRow core c i) := by
  refine .get fun _ _ => banksDone_keeps.bind fun _ => cardWrite_keeps.bind fun _ => .bind (.onState fun s h => ?_) fun _ => .pure
  exact State.canonical.updCoreAt h fun _ hc => Core.wf_ite (Core.wf_setAccRow hc) hc

theorem mxUnit_keeps : Eng.Keeps (mxUnit core c) := by
  unfold mxUnit
  dsimp only
  split
  · exact .bind (.mapM (fun _ => mulRow_keeps) _) fun _ => .pure
  · exact .bind (.mapM (fun _ => mulRow_keeps) _) fun _ => .pure
  · exact loadB_keeps.bind fun _ => .pure
  · exact readoutRow_keeps
  · refine .bind (.onState fun s h => ?_) fun _ => .get fun _ _ => banksDone_keeps.bind fun _ => .pure
    refine State.canonical.updCoreAt h fun co hc => ?_
    exact Core.wf_setAccRow hc

/-! The copy unit. -/

theorem readPieces_keeps {kd : Kind} {g0 g1 : ℕ} : Eng.Keeps (readPieces core f kd g0 g1) := by
  unfold readPieces
  split
  · refine .mapM (fun _ => covered_keeps.bind fun _ => cardPlace_keeps.bind fun _ => readPart_keeps.bind fun _ => .pure) _
  · exact cardRead_keeps.bind fun _ => .pure

theorem writePieces_keeps {kd : Kind} {g0 : ℕ} {vs : List ℕ} : Eng.Keeps (writePieces core f kd g0 vs) := by
  unfold writePieces
  split
  · exact .bind (.mapM (fun _ => covered_keeps.bind fun _ => cardPlace_keeps.bind fun _ => writePart_keeps) _) fun _ => .pure
  · exact cardWrite_keeps.bind fun _ => .pure

theorem touchKind_keeps {m : Option ℕ} : Eng.Keeps (touchKind core f o acc m) :=
  .get fun _ _ => .ite .pure (cardPlace_keeps.bind fun _ => .cardFault)

theorem creditIn_keeps : Eng.Keeps (creditIn core c n) := by
  refine .ite .pure (.get fun e h => ?_)
  split
  · next hr => exact .bind (.onState fun _ _ => canonical_of_eq (v := Prod.snd) h.credit hr) fun _ => .pure
  · exact .pure
  · exact .cardFault

theorem copyRow_keeps {u : ℕ} : Eng.Keeps (copyRow core c u) := by
  refine touchKind_keeps.bind fun _ => touchKind_keeps.bind fun _ => ?_
  dsimp only
  exact .ite (readPieces_keeps.bind fun _ => writePieces_keeps.bind fun _ => .pure)
    (.bind .pure fun _ => writePieces_keeps.bind fun _ => .pure)

theorem moveItem_keeps {j : ℕ} : Eng.Keeps (moveItem core c j) :=
  cardRead_keeps.bind fun _ => covered_keeps.bind fun _ => cardRead_keeps.bind fun _ =>
    .bind (.mapM (fun _ => .bind (.mapM (fun _ => cardWrite_keeps) _) fun _ => creditIn_keeps) _) fun _ => .pure

theorem fillRow_keeps {u : ℕ} : Eng.Keeps (fillRow core c u) := cardWrite_keeps.bind fun _ => .pure

theorem accElement_keeps {i : ℕ} : Eng.Keeps (accElement core c i) := by
  refine cardRead_keeps.bind fun _ => covered_keeps.bind fun _ => cardPlace_keeps.bind fun _ => ?_
  dsimp only
  split
  · exact .cardFault
  refine .get fun e _ => .ite (.bind .cardFault fun _ => .get fun e h => ?_) (.get fun e h => ?_)
  all_goals
    split
    · exact .throw
    next hp =>
    refine .bind (.onState fun _ _ => h.peekAt.of_eq hp) fun _ => ?_
    split
    · exact .modify fun e h => ⟨Memory.wf_putBytes _ _ h.1, (h.sealWalks (pts := e.s.joinWalks e.pts)).2⟩
    · exact writePart_keeps.bind fun _ => .onState fun _ h => State.canonical.takeLease h

theorem accLine_keeps {u : ℕ} : Eng.Keeps (accLine core c u) :=
  .bind (.mapM (fun _ => accElement_keeps) _) fun _ => .pure

theorem planarStage_keeps {u : ℕ} : Eng.Keeps (planarStage core c u) := by
  refine touchKind_keeps.bind fun _ => readPieces_keeps.bind fun _ => .bind (.mapM (fun _ => ?_) _) fun _ => .pure
  exact cardPlace_keeps.bind fun _ => writePart_keeps.bind fun _ => .bind (.mapM (fun _ => creditIn_keeps) _) fun _ => .pure

theorem cpUnit_keeps : Eng.Keeps (cpUnit core c) := by
  unfold cpUnit
  split
  · exact .ite planarStage_keeps copyRow_keeps
  · exact moveItem_keeps
  · exact moveItem_keeps
  · exact fillRow_keeps
  · exact accLine_keeps
end
end Sys2Proof.Machine
end

section
/-! SUPPORT. The canonical form (O60): posting, waiting and the events of the engines. -/

namespace Sys2Proof.Machine

variable {s : State} {c : Core}

theorem Core.wf_setFut {i f} (hc : c.pool.wf = true) : (c.setFut i f).pool.wf = true := hc
theorem Core.wf_freeFut {i} (hc : c.pool.wf = true) : (c.freeFut i).pool.wf = true := Core.wf_setFut hc
theorem Core.wf_setRing {eng l} (hc : c.pool.wf = true) : (c.setRing eng l).pool.wf = true := Core.wf_ite hc hc
theorem State.canonical.updCard {core eng id f} (h : s.canonical) : (s.updCard core eng id f).canonical :=
  h.updCoreAt fun _ h0 => Core.wf_setRing h0
theorem Core.wf_complete {i f} (hc : c.pool.wf = true) : (c.complete i f).pool.wf = true := by
  simp only [Core.complete]
  exact Core.wf_setFut hc

theorem Core.wf_afterCard {x} (hc : c.pool.wf = true) : (c.afterCard x).pool.wf = true := hc
theorem State.canonical.completeCard {core c cause tval pqfull} (h : s.canonical) :
    (s.completeCard core c cause tval pqfull).canonical := by
  refine State.canonical.count (h.updCoreAt fun _ hc => Core.wf_complete (Core.wf_ite ?_ ?_))
  all_goals exact Core.wf_afterCard (x := c) (Core.wf_setRing hc)

theorem State.canonical.readRecord {c acc} (h : s.canonical) : Ends (fun r => r.2.2.canonical) (s.readRecord c acc) := by
  unfold State.readRecord
  split
  · exact .ok h
  · exact .bind h.poolReady fun _ h => .bind (State.canonical.poolReads h) fun _ h => .bind (State.canonical.poolReady h)
      fun _ h =>
      .bind (State.canonical.poolReads h) fun _ h => .ok h

theorem State.canonical.post {eng d a} (h : s.canonical) : Answers (s.post eng d a) := by
  refine h.instr (.ite .fault (.ite .fault (.bind (.liftTrap h.place) fun r h => ?_)))
  obtain ⟨p, s⟩ := r
  dsimp -zeta only at h ⊢
  split
  · exact .fault
  refine .ite (.waiting h) (.bind h.accReady fun s h => .bind (State.canonical.ctxRead h) fun r h => ?_)
  obtain ⟨bs, s⟩ := r
  dsimp -zeta only at h ⊢
  extract_lets c bad zero rest
  have hrest (r : Card × Option Trap × State) (h : r.2.2.canonical) : Ends Done.canonical (rest r) := by
    have hs (i f) : ((r.2.2.landCore r.2.2.cur).updCore fun co => co.setFut i
      f).canonical := ((State.canonical.landCore h).updCore fun _ hc => by exact hc)
    simp only [rest]
    split
    · exact .goes (State.canonical.completeCard (State.canonical.setH (hs _ _)))
    · exact .goes (State.canonical.updCore (State.canonical.setH (hs _ _)) fun _ hc => Core.wf_setRing hc)
  exact .ite (.bind h.readRecord fun r h => .bind (P := fun r => r.2.2.canonical) (.ok h) hrest)
    (.bind (P := fun r => r.2.2.canonical) (.ok h) hrest)

theorem State.canonical.follow {t} (h : s.canonical) : (s.follow t).canonical := h.updMe
theorem State.canonical.fwaitDone {d st tval} (h : s.canonical) : Ends Done.canonical (fwaitDone s d st tval) :=
  .ite (.goes h.setX) (.ite (.ok h) (.goes h))
theorem answers_execFwait {d a} (h : s.canonical) : Answers (execFwait d a s) := by
  refine h.instr ?_
  generalize hl : s.core.liveFut (s.hr a) = live
  dsimp only
  rw [hl]
  have hfree : (match live with
      | some (i, _) => s.updCore fun c => c.freeFut i
      | none => s).canonical := by
    split
    · exact h.updCore fun _ hc => Core.wf_freeFut hc
    · exact h
  split
  · exact .ite (State.canonical.fwaitDone hfree.follow) .fault
  split
  · exact .fault
  · exact .ite (State.canonical.fwaitDone hfree.follow) (.wait h)

theorem answers_execFtest {d a} (h : s.canonical) : Answers (execFtest d a s) := by
  simp only [execFtest]
  refine h.instr ?_
  split
  · exact .fault
  · exact .goes (State.canonical.setX (State.canonical.ite h.follow h))

theorem answers_execFcancel {a} (h : s.canonical) : Answers (execFcancel a s) := by
  simp only [execFcancel]
  refine h.instr ?_
  split
  · exact .fault
  · split
    · exact .goes h
    · exact .ite (.goes h.updCard) (.goes h.completeCard)

theorem answers_execFwaitany {d a} (h : s.canonical) : Answers (execFwaitany d a s) := by
  refine h.instr ?_
  dsimp only
  refine .ite (.goes h.setX) ?_
  split
  · exact .fault
  split
  · exact .fault
  split
  · exact .goes (State.canonical.setX h.follow)
  · exact .waiting h

theorem answers_execFmovx {d a} (h : s.canonical) : Answers (execFmovx d a s) := h.instr (.goes h.setX)
theorem answers_execXmovf {d a} (h : s.canonical) : Answers (execXmovf d a s) := h.instr (.ite .fault (.goes h.setH))
theorem answers_execFenceCards (h : s.canonical) : Answers (execFenceCards s) := h.instr (.ite (.waiting h) (.goes h.follow))
theorem answers_execCardStart {core eng id} (h : s.canonical) : Answers (execCardStart core eng id s) := by
  simp only [execCardStart]
  split
  · exact .next h
  · exact .ite (.next h) (.next h.updCard)

theorem State.canonical.cardCredit {core c n} (h : s.canonical) : (s.cardCredit core c n).2.canonical := by
  simp only [State.cardCredit]
  split
  · exact h
  · split
    · next e0 =>
        have h1 := canonical_of_eq (v := Prod.snd) h.credit e0
        exact h1
    · next e2 =>
        have h3 := canonical_of_eq (v := Prod.snd) h.credit e2
        exact h3
    · next e4 =>
        have h5 := canonical_of_eq (v := Prod.snd) h.credit e4
        exact h5

theorem State.canonical.cardAsk {core c w} (h : s.canonical) : (s.cardAsk core c w).canonical := h.setDomain.updCard
theorem State.canonical.cardUnit {core c u narrow} (h : s.canonical) (hu : Eng.Keeps u) :
    (s.cardUnit core c u narrow).canonical := by
  unfold State.cardUnit
  refine .ite (State.canonical.updCard h.cardCredit) ?_
  have hs := hu ⟨s, c.pts, c.eng, c.ext, none⟩ h
  generalize ExceptT.run u ⟨s, c.pts, c.eng, c.ext, none⟩ = r at hs ⊢
  obtain ⟨r, e⟩ := r
  dsimp only at hs ⊢
  split
  · exact State.canonical.cardAsk h
  split
  · exact hs.updCard
  · exact State.canonical.updCard hs.cardCredit

theorem answers_execMatrixUnitStep {core} (h : s.canonical) : Answers (execMatrixUnitStep core s) := by
  have ht {p : Prop} [Decidable p] : (if p then { s with n := s.n + 1 } else s).canonical := .ite h h
  simp only [execMatrixUnitStep]
  split
  · exact .next ht
  · exact .ite (.next ht) (.next (State.canonical.cardUnit (.ite ht (.count ht)) mxUnit_keeps))

theorem answers_execCopyUnitWrite {core id} (h : s.canonical) : Answers (execCopyUnitWrite core id s) := by
  unfold execCopyUnitWrite
  extract_lets co
  split
  · exact .next h
  · exact .ite (.next (h.cardUnit cpUnit_keeps)) (.next h)

theorem answers_execCardComplete {core eng id} (h : s.canonical) : Answers (execCardComplete core eng id s) := by
  unfold execCardComplete
  extract_lets co
  split
  · exact .next h
  refine .ite (.next h) ?_
  split
  · exact .next h.completeCard
  refine .ite (.next h.completeCard) (.ite (.next h.completeCard) ?_)
  extract_lets
  split
  all_goals
    next e =>
    have hs : State.canonical _ := canonical_of_eq (v := Prod.snd) h.spawnApply e
    exact .next hs.completeCard

theorem answers_execWriteBufferDrain {core bank} (h : s.canonical) : Answers (execWriteBufferDrain core bank s) :=
  .next (State.canonical.ite (h.updCoreAt fun _ hc => by exact hc) h)
theorem answers_execEngineBankForce {core eng bank} (h : s.canonical) : Answers (execEngineBankForce core eng bank s) :=
  .ite (.next h) (.ite (.next (h.updCoreAt fun _ hc => by exact hc))
    (.next (State.canonical.ite (State.canonical.count (State.canonical.updCoreAt h fun _ hc => by exact hc))
    (State.canonical.updCoreAt h fun _ hc => by exact hc))))
end Sys2Proof.Machine
end

section
/-! SUPPORT. The canonical form (O60): the pod instructions. -/

namespace Sys2Proof.Machine

variable {s : State} {c : Core}

theorem State.canonical.captureReady {xm vm f} (h : s.canonical) (hf : Ends Done.canonical (f s)) :
    Ends Done.canonical (s.captureReady xm vm f) :=
  .ite (.waiting h) hf

theorem State.canonical.capture {entry xm vm r} (h : s.canonical) :
    Finds (fun r => r.2.canonical) (s.capture entry xm vm r) := by
  unfold State.capture
  extract_lets c
  split
  · have hc {v : ℕ} {row : ℕ} : (c.setRow row v).pool.wf = true := Core.wf_setRow _ _ _ h.core
    exact .some (h.setCore (Core.wf_ite hc (Core.wf_setRow _ _ _ (Core.wf_setRow _ _ _ hc))))
  · exact .none

theorem State.canonical.captureTo {d b xm vm r} (h : s.canonical) : Ends Done.canonical (s.captureTo d b xm vm r) := by
  simp only [State.captureTo]
  split
  · next e0 =>
      have h1 := h.capture.of_eq e0
      exact .goes h1.setC
  · exact .fault

theorem answers_execPcap {d b xm vm} (h : s.canonical) : Answers (execPcap d b xm vm s) := h.instr (h.captureReady h.captureTo)
theorem State.canonical.rowsRef {v} (_ : s.canonical) : Ends (fun _ => True) (s.rowsRef v) := by
  unfold State.rowsRef
  dsimp only
  refine .ite .fault ?_
  split
  · exact .fault
  · exact .ite (.ok trivial) .fault

theorem State.canonical.segRef {v} : Ends (fun _ => True) (s.segRef v) := by
  simp only [State.segRef]
  split
  · exact .ok trivial
  · exact .fault

theorem answers_execPcapr {g d b xm vm e} (h : s.canonical) : Answers (execPcapr g d b xm vm e s) :=
  h.instr (h.captureReady (.ite (.bind State.canonical.segRef fun _ _ => h.captureTo)
    (.bind h.rowsRef fun _ _ => h.captureTo)))

theorem State.canonical.podChecked {y} : Ends (fun _ => True) (s.podChecked y) := by
  simp only [State.podChecked]
  split
  · exact .ok trivial
  · exact .fault

theorem answers_execPcall {once a} (h : s.canonical) : Answers (execPcall once a s) :=
  h.instr (h.x1Ready (.bind State.canonical.podChecked fun ⟨_, _⟩ _ => .ok
    (State.canonical.ite (State.canonical.updCore (State.canonical.setX (h.updCore fun _ h1 => Core.wf_land h1)) fun _ h2 =>
    Core.wf_releasePod h2) (State.canonical.setX (h.updCore fun _ h3 => Core.wf_land h3)))))

theorem answers_execPspawn {once d a} (h : s.canonical) : Answers (execPspawn once d a s) := by
  refine h.instr ?_
  dsimp only
  split
  · exact .fault
  all_goals
    next e =>
    have hs : State.canonical _ := canonical_of_eq (v := Prod.snd) h.spawnApply e
    exact .goes hs.setX

theorem State.canonical.podLive {y} : Ends (fun _ => True) (s.podLive y) := by
  simp only [State.podLive]
  split
  · exact .ok trivial
  · exact .fault

theorem answers_execPsend {d a t} (h : s.canonical) : Answers (execPsend d a t s) :=
  h.instr (.bind State.canonical.podLive fun ⟨_, _⟩ _ => .ite .fault
    (.ite .fault (.ite (.goes h.setX) (.ite (.waiting h) (.goes (State.canonical.setX h))))))

theorem answers_execPdup {d a} (h : s.canonical) : Answers (execPdup d a s) :=
  h.instr (.bind State.canonical.podLive fun ⟨_, _⟩ _ => .ite .fault
    (.goes (State.canonical.setC (h.updCore fun _ h1 => Core.wf_podSet h1))))

theorem answers_execPrel {a} (h : s.canonical) : Answers (execPrel a s) :=
  h.instr (.bind State.canonical.podLive fun ⟨_, _⟩ _ => .goes (h.updCore fun _ h1 => Core.wf_releasePod h1))
theorem answers_execPget {d a} (h : s.canonical) : Answers (execPget d a s) := h.instr (.goes h.setX)
theorem answers_execPexport {d a} (h : s.canonical) : Answers (execPexport d a s) :=
  h.instr (.bind State.canonical.podLive fun ⟨_, _⟩ _ => .ite (.goes h.setX)
    (.ite .fault (.goes (State.canonical.setX (h.updCore fun _ h1 => Core.wf_podSet (Core.wf_podSet h1))))))

theorem answers_execPimport {d a} (h : s.canonical) : Answers (execPimport d a s) :=
  h.instr (.ite .fault (.bind State.canonical.podLive fun ⟨_, _⟩ _ => .ite (.goes h.setC) .fault))
end Sys2Proof.Machine
end

section
/-! SUPPORT. The canonical form (O60): the segment instructions. -/

namespace Sys2Proof.Machine

variable {s : State} {c : Core}

theorem State.canonical.segStep {g t} (h : s.canonical) : (s.segStep g t).2.canonical := h.updMe
theorem State.canonical.homePlaces {acc home ls} (h : s.canonical) :
    Ends (fun r => r.2.canonical) (s.homePlaces acc home ls) := by
  induction ls generalizing s with
  | nil => exact .ok h
  | cons l ls ih => exact .bind (.liftTrap h.translate) fun _ h => .bind (ih h) fun _ h => .ok h

theorem State.canonical.bumpOwn {lo hi} (h : s.canonical) : (s.bumpOwn lo hi).canonical :=
  h.stampRows.updMe.updCore fun _ h0 => Core.wf_bumpRows h0
theorem answers_execSegMake {cls cnt d b c e} (h : s.canonical) : Answers (execSegMake cls cnt d b c e s) := by
  refine h.instr (.ite .fault (.ite .fault (.bind h.homePlaces fun r h => ?_)))
  obtain ⟨ps, s⟩ := r
  refine .ite .fault (.ite .fault (.ite .fault (.ite .fault ?_)))
  dsimp -zeta only at h ⊢
  split
  · exact .fault
  · extract_lets g t named made
    have hmade : made.canonical := (State.canonical.updCore (State.canonical.bumpOwn h.nameStep) fun _ hc => by exact hc)
    clear_value made
    exact .goes (State.canonical.setX hmade)

theorem State.canonical.homeRow {p a} (h : s.canonical) : Gives (fun r => r.2.canonical) (s.homeRow p a) := by
  simp only [State.homeRow]
  split
  · exact .error
  · next e2 =>
      have h3 := canonical_of_eq (v := Prod.snd) h.extAnswer e2
      split
      · exact .error
      · next e6 =>
          have h7 := h3.readAt.of_eq e6
          refine .ite ?_ (.ok h7.updMe)
          split
          · exact .error
          · next e10 =>
              have h11 := h7.updMe.hostLog.of_eq e10
              exact .ok h11

theorem State.canonical.homeRow_error {t p a f} (h : s.canonical) (e : s.homeRow p a = .error (f, t)) : t.canonical := by
  unfold State.homeRow at e
  split at e
  · next e' =>
    cases e
    exact canonical_of_eq (v := Prod.snd) h.extAnswer e'
  next u e' =>
  have hu : u.canonical := canonical_of_eq (v := Prod.snd) h.extAnswer e'
  split at e
  · cases e
    exact hu
  next e' =>
  have hu : State.canonical _ := hu.readAt.of_eq e'
  dsimp only at e
  split at e
  · split at e
    · cases e
      exact hu.updMe
    · cases e
  · cases e
theorem State.canonical.reloadRows {base home ps} (h : s.canonical) : (s.reloadRows base home ps).2.canonical := by
  induction ps generalizing s with
  | nil => exact h
  | cons p ps ih =>
    unfold State.reloadRows
    split
    · next e => exact h.homeRow_error e
    · next e =>
      have h : State.canonical _ := h.homeRow.of_eq e
      refine ih (State.canonical.updCore ?_ fun _ hc => Memory.wf_putBytes _ _ hc)
      exact State.canonical.updMe h.stampWrite

theorem State.canonical.reload {g} (h : s.canonical) : Ends (fun r => r.2.2.canonical) (s.reload g) := by
  simp only [State.reload]
  split
  · exact .fault
  · exact .bind h.segStep.homePlaces fun ⟨_, _⟩ h0 => .ok
      (State.canonical.updSeg (State.canonical.reloadRows (State.canonical.bumpOwn (State.canonical.ite h0.landCtx h0))))

theorem State.canonical.attachTo {reloaded g rw d} (h : s.canonical) : Ends Done.canonical (s.attachTo reloaded g rw d) :=
  .ite (.ite (.ok h) .fault) (.ite (.ite (.ok h) .fault) (.goes (h.updMe.updSeg.updCore fun _ hc => by exact hc).setX))
theorem answers_execSegAttach {m d b} (h : s.canonical) : Answers (execSegAttach m d b s) := by
  refine h.instr ?_
  dsimp only
  split
  · exact .ite (.goes h.setX) .fault
  have hs (p : Attach → Bool) : ((s.core.attach.filter p).foldl (fun s t => s.detach s.cur t) s).canonical :=
    h.foldl (fun _ _ h => State.canonical.detach h) _
  split
  · exact .fault
  split
  · exact .fault
  · refine .ite (.bind (State.canonical.reload (hs _)) fun r h => ?_) .fault
    split
    · exact .ok (P := Done.canonical) h
    · exact State.canonical.attachTo h
  · exact .ite (State.canonical.attachTo (hs _)) (.ite .fault .fault)

theorem State.canonical.faultFree {P : α → Prop} {c : BitVec 8} : Ends P (s.faultFree c) := .fault
theorem answers_execSegDetach {b} (h : s.canonical) : Answers (execSegDetach b s) := by
  simp only [execSegDetach]
  refine h.instr ?_
  split
  · exact State.canonical.faultFree
  · refine .ite (.waiting h) ?_
    refine .goes ?_
    refine State.canonical.detach ?_
    split
    · exact h.segStep
    · exact h

theorem answers_execSegPublish {d b} (h : s.canonical) : Answers (execSegPublish d b s) := by
  simp only [execSegPublish]
  refine h.instr ?_
  split
  · exact State.canonical.faultFree
  · refine .ite (.waiting h) ?_
    split
    · exact State.canonical.faultFree
    · exact .goes (h.updMe.updCore fun _ hc => by exact hc).updSeg.setX

theorem answers_execSegEvict {d b} (h : s.canonical) : Answers (execSegEvict d b s) := by
  simp only [execSegEvict]
  refine h.instr ?_
  split
  · exact .goes h.nameStep.setX
  · refine .ite (.goes h.updMe.updSeg.setX) ?_
    refine .ite (.goes h.updMe.updSeg.setX) ?_
    refine .ite (.goes h.updMe.updSeg.updSeg.setX) ?_
    split
    · next e0 =>
        have h1 := h.updMe.updSeg.evictSeg.of_eq e0
        exact .goes h1.updMe.setX
    · exact .goes h.updMe.updSeg.setX

theorem answers_execSegDrop {d b} (h : s.canonical) : Answers (execSegDrop d b s) := by
  simp only [execSegDrop]
  refine h.instr ?_
  split
  · exact .goes h.nameStep.setX
  · exact .goes h.updMe.updSeg.dropSeg.setX

theorem answers_execSegQuery {d b} (h : s.canonical) : Answers (execSegQuery d b s) := by
  simp only [execSegQuery]
  refine h.instr ?_
  split
  · exact .goes h.nameStep.setX
  · exact .goes h.updMe.updSeg.setX
end Sys2Proof.Machine
end

section
/-! SUPPORT. The canonical form (O60): the task and gang instructions. -/

namespace Sys2Proof.Machine

variable {s : State} {c : Core}

theorem State.canonical.partsRead {slot g ps} (h : s.canonical) : Gives (fun r => r.2.canonical) (s.partsRead slot g ps) := by
  induction ps generalizing s with
  | nil => exact .ok h
  | cons p ps ih =>
    simp only [State.partsRead]
    split
    · exact .error
    next p s e =>
    have h : s.canonical := h.place.of_eq e
    split
    · exact .error
    next s e =>
    have h : s.canonical := canonical_of_eq (v := Prod.snd) h.extAnswer e
    split
    · exact .error
    next bs pts s e =>
    have h : s.canonical := h.readAt.of_eq e
    have h : (s.updMe fun x => { x with pts := pts }).canonical := h.updMe
    split
    · exact .error
    next bs s e =>
    have h : s.canonical := Gives.of_eq (P := fun r => r.2.canonical) (.ite h.hostLogFor (.ok h)) e
    split
    · exact .error
    next rest s e =>
    have h : s.canonical := (ih h).of_eq e
    exact .ok h

theorem State.canonical.imageRead {slot g a n is} (h : s.canonical) :
    Gives (fun r => r.2.canonical) (s.imageRead slot g a n is) := by
  induction is generalizing s with
  | nil => exact .ok h
  | cons i is ih =>
    simp only [State.imageRead]
    split
    · exact .error
    next bs s e =>
    have h : s.canonical := h.partsRead.of_eq e
    split
    · exact .error
    next rest s e =>
    have h : s.canonical := (ih h).of_eq e
    exact .ok h

theorem Core.wf_installPods {partw} (hc : c.pool.wf = true) : (c.installPods partw).pool.wf = true :=
  Core.wf_foldl hc (fun _ _ h0 => Core.wf_freePod h0) _
theorem State.canonical.installSegs {k partw decla} (h : s.canonical) : (s.installSegs k partw decla).canonical :=
  State.canonical.foldl h (fun _ _ h0 => h0.evictOrDrop) _
theorem State.canonical.install {w gang b loopRet img} (h : s.canonical) : (s.install w gang b loopRet img).canonical := by
  unfold State.install
  refine State.canonical.updCore (.bumpTask (.updCore (.installSegs h) fun _ hc => Core.wf_installPods hc)) fun c hc => ?_
  dsimp only
  refine Core.wf_foldl (Core.wf_foldl ?_ (fun _ _ hc => Memory.wf_writeLE _ _ _ hc) _) (fun _ _ hc => ?_) _
  · exact hc
  · exact Core.wf_ite hc (Memory.wf_putBytes _ _ hc)

theorem State.canonical.startMessage {w loopRet} (h : s.canonical) : (s.startMessage w loopRet).canonical :=
  State.canonical.updCore h fun _ h0 => Core.wf_clearRows h0
theorem answers_execIbxTake (h : s.canonical) : Answers (execIbxTake s) := by
  refine h.instr (.ite .fault ?_)
  split
  · exact .wait h
  next m q _ =>
  have hs : ((s.updCore fun c => { c with inbox := q }).follow m.pts).canonical := State.canonical.follow
    (h.updCore fun _ hc => by exact hc)
  refine .ite (.own hs.startMessage) ?_
  exact .bind (.liftTrap hs.imageRead) fun _ h => .own (State.canonical.install h)

theorem answers_execTaskEnd {f a} (h : s.canonical) : Answers (execTaskEnd f a s) :=
  h.instr (.ite .fault (.ite (.ok h.deadlineAbort) (.ite (.waiting h) (.ok h.commit.endTask))))
theorem State.canonical.spawnAt {len d b k} (h : s.canonical) : Answers (s.spawnAt len d b k) := by
  refine h.instr (.bind h.accCheck fun _ ht => .bind (State.canonical.accReady ht) fun _ ht => .bind
    (State.canonical.ctxRead ht) fun _ ht => ?_)
  refine .bind (.liftTrap (State.canonical.logged ht)) fun r ht => .ite ?_ (.goes (State.canonical.setX (.ite ht ht)))
  exact .waiting h

theorem answers_execRngOpen {d b c e} (h : s.canonical) : Answers (execRngOpen d b c e s) :=
  h.instr (.ite .fault (.ite .fault (.ite .fault (.ite (.goes h.setX) (.goes (State.canonical.setX h))))))
theorem answers_execRngTake {d a} (h : s.canonical) : Answers (execRngTake d a s) := by
  simp only [execRngTake]
  refine h.instr ?_
  split
  · exact .fault
  · exact .bind (P := fun r => r.2.canonical) (.liftTrap h.logged) fun ⟨_, _⟩ h0 => .goes (State.canonical.setX h0)

theorem answers_execRngClose {a} (h : s.canonical) : Answers (execRngClose a s) := by
  simp only [execRngClose]
  refine h.instr ?_
  split
  · exact .fault
  · exact .goes h

theorem State.canonical.gangRole {P : α → Prop} : Ends P s.gangRole := .fault
theorem State.canonical.gangInstr {body} (h : s.canonical) (hb : Ends Done.canonical (body s)) : Answers (s.gangInstr body) :=
  h.instr (.ite State.canonical.gangRole (.ite (.goes h) hb))
theorem State.canonical.attachMember {m} (h : s.canonical) : (s.attachMember m).canonical :=
  (State.canonical.updCore (h.updCoreAt fun _ h0 => Core.wf_setCtx h0) fun _ hc => by exact hc)
theorem answers_execGangLead (h : s.canonical) : Answers (execGangLead s) :=
  h.gangInstr (.ite State.canonical.gangRole
    (.ite (.goes h) (.ite (.goes
    (State.canonical.updCore (State.canonical.foldl (State.canonical.foldl h (fun _ _ h0 => h0.attachMember) _)
    (fun _ _ h1 => (h1.updCoreAt fun _ hc => by exact hc)) _) fun _ hc => by exact hc)) (.waiting h))))

theorem answers_execGangFollow (h : s.canonical) : Answers (execGangFollow s) :=
  h.gangInstr (.ite State.canonical.gangRole (.ite (.goes h) (.waiting (h.updCore fun _ hc => by exact hc))))
theorem State.canonical.countJoin (h : s.canonical) : s.countJoin.canonical := by
  refine State.canonical.foldl h (fun _ _ h => ?_) _
  exact (State.canonical.updCoreAt h fun _ hc => by exact hc)

theorem answers_execGangJoin {sync} (h : s.canonical) : Answers (execGangJoin sync s) :=
  h.gangInstr (.ite (.goes (h.updCore fun _ hc => by exact hc))
    (.ite (.ite (.goes (State.canonical.foldl (State.canonical.ite h h.countJoin) (fun _ _ h1 => h1.attachMember) _))
    (.wait (State.canonical.ite h h.countJoin)))
    (.ite (.goes h) (.ite (.wait (State.canonical.ite h (h.updCore fun _ hc => by exact hc)))
    (.goes (State.canonical.ite h (h.updCore fun _ hc => by exact hc)))))))

theorem answers_execGangLeave (h : s.canonical) : Answers (execGangLeave s) :=
  h.gangInstr (.ite (.goes h.detachAll) (.goes (h.unmask.updCore fun _ hc => by exact hc)))
end Sys2Proof.Machine
end

section
/-! SUPPORT. The canonical form (O60): the map of resources. -/

namespace Sys2Proof.Machine

variable {s : State} {c : Core}

theorem State.canonical.putEntry {e} (h : s.canonical) : (s.putEntry e).canonical := h
theorem State.canonical.splitCheck {nm cls t} (ht : t.canonical) : Ends State.canonical (s.splitCheck nm cls t) :=
  .ite .fault (.ok ht)
theorem State.canonical.splitTo {nm e} (h : s.canonical) : Ends State.canonical (s.splitTo nm e) := h.putEntry.splitCheck
theorem State.canonical.cancelTouching {os r} (h : s.canonical) : (s.cancelTouching os r).canonical :=
  h.mapCores (fun p => by split <;> rfl) fun p hp => by split <;> exact hp
theorem Core.wf_restartLoop (hc : c.pool.wf = true) : c.restartLoop.pool.wf = true :=
  Core.wf_endTask (Core.wf_foldl hc (fun _ _ h0 => Core.wf_unhold h0) _)
theorem Core.wf_clear {named} (hc : c.pool.wf = true) : (c.clear named).pool.wf = true :=
  Core.wf_bumpBut (Core.wf_restartLoop (Core.wf_freePods hc))
theorem State.canonical.clearDomain {d} (h : s.canonical) : (s.clearDomain d).canonical := h
theorem State.canonical.clearTime {e} (h : s.canonical) : (s.clearTime e).2.canonical := by
  simp only [State.clearTime]
  split
  · exact h.stampRows
  · split
    · exact h.stampBump
    · split
      · exact h.stampRows
      · split
        · exact h.stampBump
        · exact h

theorem State.canonical.landEntry {e} (h : s.canonical) : (s.landEntry e).canonical := State.canonical.ite h.landRange h
theorem State.canonical.followMapOf {k j e} (h : s.canonical) : (s.followMapOf k j e).canonical := h.updCtx
theorem State.canonical.followMap {e} (h : s.canonical) : (s.followMap e).canonical := h.followMapOf
theorem State.canonical.stampMap {r t} (h : s.canonical) : (s.stampMap r t).canonical :=
  State.canonical.foldl h (fun _ _ h0 => h0.putEntry) _
theorem State.canonical.clearEntry {e} (h : s.canonical) : (s.clearEntry e).canonical := by
  have hs : (if e.cls = cCore then (s.landEntry e).clearSegs e.lo else s.landEntry e).canonical := .ite h.landEntry.clearSegs
    h.landEntry
  unfold State.clearEntry
  extract_lets t1 t2
  have hs : (t2.clearTime e).2.canonical := State.canonical.clearTime hs
  clear_value t2
  generalize t2.clearTime e = r at hs ⊢
  obtain ⟨ts, t⟩ := r
  dsimp only at hs ⊢
  have hs : (t.putEntry { e with gen := e.gen + 1, ts := ts }).canonical := hs
  generalize t.putEntry { e with gen := e.gen + 1, ts := ts } = t at hs ⊢
  refine .ite ?_ (.ite (.ite hs ?_) ?_)
  · generalize (List.range 1536).filter _ = named
    refine State.canonical.updCoreAt hs.endGang.leaveLinks.dropHeld fun c hc => ?_
    dsimp only
    exact Core.wf_clear hc
  · exact ⟨Memory.wf_clear _ _ hs.1, hs.2⟩
  · exact .ite (hs.updCoreAt fun _ hc => Core.wf_bumpRows hc) (.ite hs (.ite hs.clearDomain hs))

theorem State.canonical.beginStop {k cause region namer tick ends} (h : s.canonical) :
    (s.beginStop k cause region namer tick ends).canonical :=
  State.canonical.ite h (State.canonical.setCoreAt h (h.2 _))

theorem State.canonical.loseMessages {k} (h : s.canonical) : (s.loseMessages k).canonical := h
theorem State.canonical.takeOffer {e o} (h : s.canonical) : (s.takeOffer e o).canonical :=
  State.canonical.voidHooks
    (State.canonical.ite (State.canonical.notify
    (State.canonical.ite (State.canonical.loseMessages
    (State.canonical.updCoreAt (State.canonical.ite h.landEntry.clearEntry h.landEntry.putEntry) fun _ hc => by exact hc))
    (State.canonical.ite h.landEntry.clearEntry h.landEntry.putEntry)))
    (State.canonical.ite (State.canonical.loseMessages
    (State.canonical.updCoreAt (State.canonical.ite h.landEntry.clearEntry h.landEntry.putEntry) fun _ hc => by exact hc))
    (State.canonical.ite h.landEntry.clearEntry h.landEntry.putEntry)))

theorem Core.wf_takeHeld (hc : c.pool.wf = true) : c.takeHeld.pool.wf = true := by
  refine Core.wf_foldl hc (fun c p hc => ?_) _
  split
  · exact Core.wf_setBar hc
  · exact hc

theorem State.canonical.restart {k} (h : s.canonical) : (s.restart k).canonical :=
  State.canonical.updCoreAt (State.canonical.leaveLinks (h.updCoreAt fun _ h0 => Core.wf_takeHeld h0)) fun _ h1 =>
    Core.wf_restartLoop h1

theorem State.canonical.finishReclaim {nm e j tell} (h : s.canonical) : (s.finishReclaim nm e j tell).canonical := by
  simp only [State.finishReclaim]
  split
  · exact h
  · exact State.canonical.voidHooks
      (State.canonical.ite (State.canonical.notify
      (State.canonical.foldl h.cancelTouching.clearEntry (fun _ _ h0 => h0.notify) _))
      (State.canonical.foldl h.cancelTouching.clearEntry (fun _ _ h1 => h1.notify) _))

theorem State.canonical.voluntaryReturn {e} (h : s.canonical) : (s.voluntaryReturn e).canonical := by
  simp only [State.voluntaryReturn]
  split
  · exact h
  · exact State.canonical.ite h.cancelTouching.landEntry.putEntry.voidHooks.beginStop
      h.cancelTouching.landEntry.putEntry.voidHooks

theorem State.canonical.retireEntry {o e} (h : s.canonical) : (s.retireEntry o e).canonical := by
  simp only [State.retireEntry]
  split
  · exact h.putEntry
  · exact State.canonical.ite h.putEntry.beginStop h.clearEntry

theorem State.canonical.retireOid {o how pts} (h : s.canonical) : (s.retireOid o how pts).canonical := by
  refine State.canonical.voidHooks (State.canonical.foldl ?_ (fun _ _ h => State.canonical.notify h) _)
  exact State.canonical.foldl h (fun _ _ h => State.canonical.retireEntry h) _
end Sys2Proof.Machine
end

section
/-! SUPPORT. The canonical form (O60): the ownership instructions. -/

namespace Sys2Proof.Machine

variable {s : State} {c : Core}

theorem State.canonical.ownInstr {len us body} (h : s.canonical) (hb : Ends Done.canonical (body s)) :
    Answers (s.ownInstr len us body) :=
  h.instr (.ite (.waiting h) hb)

theorem ends_ownName {n} : Ends (fun _ => True) (ownName n) := by
  unfold ownName
  split
  · exact .ok trivial
  · exact .fault

theorem State.canonical.ownLive {n} : Ends (fun _ => True) (s.ownLive n) :=
  .bind ends_ownName fun _ _ => .ite .fault (.ok trivial)
theorem State.canonical.mapTouch {r} (h : s.canonical) : (s.mapTouch r).canonical := h.landCtx.stampMap.updMe
theorem State.canonical.heldEntry {n r} : Ends (fun _ => True) (s.heldEntry n r) := by
  simp only [State.heldEntry]
  split
  · exact .ite .fault (.ok trivial)
  · exact .fault

theorem State.canonical.offer {n t r e husk lends clr rc term grace} (h : s.canonical) :
    Ends Done.canonical (s.offer n t r e husk lends clr rc term grace) :=
  .ite .fault (.ite .fault (.ite .fault
    (.ite .fault (.bind h.landCtx.updCtx.splitTo fun _ h0 => .ite
    (.ite (.waiting h) (.ite (.goes h0.beginStop) (.goes h0.takeOffer.followMap))) (.goes h0.notify)))))

theorem State.canonical.giveTo {len b c husk clr} (h : s.canonical) : Answers (s.giveTo len b c husk clr) := by
  unfold State.giveTo
  refine h.ownInstr ?_
  refine .bind ends_ownName fun _ h0 => ?_
  refine .ite (.waiting h) ?_
  refine .ite .fault ?_
  refine .bind State.canonical.heldEntry fun _ h1 => ?_
  split
  · exact .ite (.bind h.landCtx.updCtx.splitTo fun _ h2 => .goes h.landCtx.updCtx.voluntaryReturn)
      (.ite .fault (.ite .fault h.offer))
  · exact .ite h.offer h.offer

theorem State.canonical.lendTo {len rc clr y b c e g} (h : s.canonical) : Answers (s.lendTo len rc clr y b c e g) :=
  h.ownInstr (.bind ends_ownName fun _ _ => .ite (.waiting h)
    (.ite .fault (.bind State.canonical.heldEntry fun _ _ => .ite .fault (.ite .fault h.offer))))

theorem answers_execAccept {b} (h : s.canonical) : Answers (execAccept b s) := by
  simp only [execAccept]
  refine h.ownInstr ?_
  refine .ite (.goes h) ?_
  refine .bind State.canonical.ownLive fun _ h0 => ?_
  refine .ite (.waiting h) ?_
  split
  · exact .fault
  · exact .ite .fault (.ite (.waiting h.beginStop)
      (.ite (.waiting h) (.bind h.landCtx.updCtx.takeOffer.followMap.splitCheck fun _ h1 => .goes h1)))

theorem answers_execDecline {b} (h : s.canonical) : Answers (execDecline b s) := by
  simp only [execDecline]
  refine h.ownInstr ?_
  refine .bind State.canonical.ownLive fun _ h0 => ?_
  split
  · exact .fault
  · exact .ite .fault (.bind h.landCtx.updCtx.splitTo fun _ h1 => .goes h1)

theorem answers_execRecall {d b} (h : s.canonical) : Answers (execRecall d b s) := by
  simp only [execRecall]
  refine h.ownInstr ?_
  refine .bind ends_ownName fun _ h0 => ?_
  refine .ite .fault ?_
  refine .ite (.waiting h) ?_
  split
  · exact .goes h.mapTouch.setX
  · split
    · exact .goes h.mapTouch.setX
    · split
      · exact .goes h.mapTouch.setX
      · exact .ite (.goes h.mapTouch.setX)
          (.ite (.goes h.mapTouch.setX) (.bind h.landCtx.updCtx.splitTo fun _ h1 => .goes h1.notify.setX))

theorem answers_execReclaim {d b} (h : s.canonical) : Answers (execReclaim d b s) := by
  unfold execReclaim
  refine h.ownInstr ?_
  refine .bind State.canonical.ownLive fun _ h0 => ?_
  refine .ite .fault ?_
  refine .ite (.waiting h) ?_
  split
  · exact .goes h.mapTouch.setX
  · split
    · exact .goes h.mapTouch.setX
    · split
      · exact .goes h.mapTouch.setX
      · exact .ite (.goes h.mapTouch.setX)
          (.ite (.goes h.mapTouch.beginStop.setX)
          (.bind h.landCtx.updCtx.splitTo fun _ h1 => .goes h.landCtx.updCtx.finishReclaim.followMap.setX))

theorem answers_execOwnQ {w d b} (h : s.canonical) : Answers (execOwnQ w d b s) :=
  h.ownInstr (.bind ends_ownName fun _ _ => .goes h.mapTouch.setX)
theorem answers_execMint {d b} (h : s.canonical) : Answers (execMint d b s) := by
  refine h.ownInstr (.bind ends_ownName fun r _ => .ite .fault ?_)
  dsimp only
  have ht : (s.mapTouch r).canonical := h.mapTouch
  split
  · exact .goes ht.setX
  · exact .goes (State.canonical.setX ht)

theorem answers_execRetire (h : s.canonical) : Answers (execRetire s) :=
  h.ownInstr (.ite (.wait h) (.ite .fault (.wait h.landCtx.retireOid)))
theorem answers_execOwnHook {k a} (h : s.canonical) : Answers (execOwnHook k a s) := by
  simp only [execOwnHook]
  refine h.ownInstr ?_
  refine .ite (.goes h) ?_
  split
  · exact .ite (.goes h) .fault
  · exact .fault
end Sys2Proof.Machine
end

section
/-! SUPPORT. The canonical form (O60): the save of a core. -/

namespace Sys2Proof.Machine

variable {s : State} {c : Core}

theorem Core.wf_barRestore {b img ts} (hc : c.pool.wf = true) : (c.barRestore b img ts).pool.wf = true := by
  unfold Core.barRestore
  extract_lets old f v m c'
  have hc' : c'.pool.wf = true := Core.wf_ite hc hc
  refine Core.wf_foldl hc' (fun _ _ hc => ?_) _
  split
  · exact hc
  · exact hc

theorem State.canonical.huskWrite {k base off bs} (h : s.canonical) : (s.huskWrite k base off bs).canonical := h.physWrite
theorem State.canonical.restoreRows {k base rowmap d} (h : s.canonical) : (s.restoreRows k base rowmap d).canonical :=
  State.canonical.setCoreAt h (Core.wf_foldl (Memory.wf_filter (h.2 _) _) (fun _ _ h0 => Memory.wf_putBytes _ _ h0) _)
theorem State.canonical.restore {k base} (h : s.canonical) : (s.restore k base).canonical := by
  unfold State.restore
  extract_lets t f w note d u f' c kpts reg bit buf bbufs cards msgs dom rowsOf ctx c1 c2 c3
  have hu : u.canonical := State.canonical.restoreRows (.ite h.outsideWrites h)
  have hc : c3.pool.wf = true := Core.wf_foldl (c := c2) (hu.2 k) (fun _ _ hc => Core.wf_barRestore hc) _
  exact hu.setCoreAt hc
end Sys2Proof.Machine
end

section
/-! SUPPORT. The canonical form (O60): the stop, keeper access and the resume. -/

namespace Sys2Proof.Machine

variable {s : State} {c : Core}

theorem State.canonical.writeResume {o k v} (h : s.canonical) : Gives State.canonical (s.writeResume o k v) := by
  simp only [State.writeResume]
  refine .ite .error ?_
  refine .ite (.ok (h.updCoreAt fun _ hc => by exact hc).restart) ?_
  refine .ite .error ?_
  split
  · exact .error
  · exact .ite (.ok (State.canonical.updCoreAt (State.canonical.huskWrite (State.canonical.ite h.outsideWrites h)) fun _ hc =>
      by exact hc)) .error

theorem State.canonical.keeperWrite {o k j i v} (h : s.canonical) : Gives State.canonical (s.keeperWrite o k j i v) := by
  simp only [State.keeperWrite]
  refine .ite ?_ ?_
  · split
    · next e0 =>
        have h1 := h.writeSR.of_eq e0
        exact .ok h1
    · exact .error
  · split
    · exact .ok (h.updCoreAt fun _ hc => by exact hc)
    · exact .ite (.ok h) (.ite .error (.ok h.beginStop))
    · exact h.writeResume
    · exact .ok (h.updCoreAt fun _ hc => by exact hc)
    · exact .ok (h.updCoreAt fun _ hc => by exact hc)
    · exact .error

theorem State.canonical.keptCore {n} : Ends (fun _ => True) (s.keptCore n) :=
  .bind ends_ownName fun _ _ => .ite .fault (.ite .fault (.ok trivial))
theorem State.canonical.keeperInstr {i x w us body} (h : s.canonical) (hb : Ends Done.canonical (body s)) :
    Answers (s.keeperInstr i x w us body) :=
  .ite (.next h.takeTrap) (h.ownInstr hb)

theorem answers_execKread {d a i x} (h : s.canonical) : Answers (execKread d a i x s) := by
  simp only [execKread]
  refine h.keeperInstr ?_
  refine .bind State.canonical.keptCore fun _ h0 => ?_
  split
  · exact .goes h.setX
  · exact .fault

theorem answers_execKwrite {a v i x} (h : s.canonical) : Answers (execKwrite a v i x s) :=
  h.keeperInstr (.bind State.canonical.keptCore fun _ _ => .ite
    (.bind (P := State.canonical) (.liftTrap h.countFirst.keeperWrite) fun _ h1 => .ok h1) (.andGoes (.liftTrap h.keeperWrite)))

theorem State.canonical.keeperEvent {o k j i v} (h : s.canonical) : Answers (s.keeperEvent o k j i v) := by
  simp only [State.keeperEvent]
  refine .ite (.next h) ?_
  split
  · next e0 =>
      have h1 := h.keeperWrite.of_eq e0
      exact .next h1
  · exact .next h

theorem answers_execTflagsWrite {k j v} (h : s.canonical) : Answers (execTflagsWrite k j v s) :=
  .ite (.next (h.updCoreAt fun _ h0 => Core.wf_setCtx h0)) (.next h)
theorem State.canonical.setStop {k st} (h : s.canonical) : (s.setStop k st).canonical := (h.updCoreAt fun _ hc => by exact hc)
theorem answers_execStopTick {k} (h : s.canonical) : Answers (execStopTick k s) := by
  simp only [execStopTick]
  split
  · exact .next h
  · exact .ite (.next h) (.next
      (State.canonical.updCoreAt
      (State.canonical.foldl (State.canonical.ite (State.canonical.detachAll (State.canonical.ite h.deadlineAbort h))
      (State.canonical.ite h.deadlineAbort h)) (fun _ _ h0 => h0.parkShape) _) fun _ hc => by exact hc))

theorem State.canonical.dropAccepts {k} (h : s.canonical) : (s.dropAccepts k).canonical :=
  State.canonical.foldl h (fun _ _ h0 => (h0.updCoreAt fun _ hc => by exact hc)) _
theorem answers_execQuiesceEnd {k} (h : s.canonical) : Answers (execQuiesceEnd k s) := by
  simp only [execQuiesceEnd]
  split
  · exact .next h
  · exact .ite (.next h) (.next (h.landCore.updCoreAt fun _ hc => by exact hc).dropAccepts)

theorem State.canonical.dropRecords {k} (h : s.canonical) : (s.dropRecords k).canonical :=
  (State.canonical.updCoreAt (State.canonical.foldl h (fun _ _ h0 => h0.commitAt) _) fun _ hc => by exact hc)
theorem State.canonical.voidStop {k st} (h : s.canonical) : (s.voidStop k st).canonical :=
  (State.canonical.updCoreAt (State.canonical.ite h.dropRecords.commit.endTask h.dropRecords) fun _ hc => by exact hc)
theorem State.canonical.endStop {k} (h : s.canonical) : (s.endStop k).canonical := by
  simp only [State.endStop]
  split
  · exact State.canonical.ite h.setStop h
  · exact h

theorem State.canonical.stageFlits {k st} (h : s.canonical) : (s.stageFlits k st).canonical := State.canonical.setStop h
theorem answers_execFlushToken {k} (h : s.canonical) : Answers (execFlushToken k s) := by
  unfold execFlushToken
  split
  · exact .next h
  · refine .ite (.next h) ?_
    refine .ite (.next h.stageFlits) ?_
    split
    · split
      · exact .ite (.next (State.canonical.stageFlits (State.canonical.updCoreAt h.huskWrite fun _ hc => by exact hc)))
          (.next (State.canonical.endStop (State.canonical.voidStop h)))
      · exact .next (State.canonical.endStop (State.canonical.voidStop h))

theorem answers_execSaveBufferDrain {k} (h : s.canonical) : Answers (execSaveBufferDrain k s) := by
  simp only [execSaveBufferDrain]
  split
  · exact .next h
  · split
    · exact .next h
    · exact .ite (.next h) (.next (h.huskWrite.updCoreAt fun _ hc => by exact hc))

theorem answers_execHuskSaveStep {k} (h : s.canonical) : Answers (execHuskSaveStep k s) := by
  simp only [execHuskSaveStep]
  split
  · exact .next h
  · split
    · exact .next h
    · exact .ite (.next h) (.next (h.huskWrite.updCoreAt fun _ hc => by exact hc))

theorem answers_execHuskValid {k} (h : s.canonical) : Answers (execHuskValid k s) := by
  simp only [execHuskValid]
  split
  · exact .next h
  · exact .ite (.next h) (.next (h.huskWrite.updCoreAt fun _ hc => by exact hc).endStop)

theorem State.canonical.acceptEnd {k who nm} (h : s.canonical) : (s.acceptEnd k who nm).canonical := by
  simp only [State.acceptEnd]
  split
  · exact h
  · refine State.canonical.ite h ?_
    split
    · exact h.takeOffer.restart
    · exact h.landCtx.updCtx.takeOffer.restart.followMapOf.updCtx

theorem answers_execAcceptStopEnd {k} (h : s.canonical) : Answers (execAcceptStopEnd k s) := by
  simp only [execAcceptStopEnd]
  split
  · exact .next h
  · refine .ite (.next h) ?_
    refine .next ?_
    refine State.canonical.endStop ?_
    refine State.canonical.foldl h.setStop (fun _ _ h0 => ?_) _
    split
    · exact h0.acceptEnd
    · exact h0

theorem State.canonical.reclaimFrom {o} (h : s.canonical) : (s.reclaimFrom o).canonical := by
  simp only [State.reclaimFrom]
  refine State.canonical.foldl h (fun _ _ h0 => ?_) _
  split
  · exact h0
  · split
    · exact h0
    · exact State.canonical.ite h0.beginStop h0.finishReclaim

theorem State.canonical.stopEnd {x} (h : s.canonical) : (s.stopEnd x).canonical := by
  simp only [State.stopEnd]
  split
  · exact h
  · split
    · split
      · exact h.finishReclaim
      · exact h
    · exact h
  · split
    · exact h.clearEntry
    · exact h
  · exact State.canonical.ite h h.reclaimFrom

theorem answers_execReclaimStopEnd {k} (h : s.canonical) : Answers (execReclaimStopEnd k s) := by
  simp only [execReclaimStopEnd]
  split
  · exact .next h
  · exact .ite (.next h) (.next (State.canonical.endStop (State.canonical.foldl h.setStop (fun _ _ h0 => h0.stopEnd) _)))

theorem answers_execPowerEmergency (h : s.canonical) : Answers (execPowerEmergency s) :=
  .next (State.canonical.foldl h (fun _ _ h0 => State.canonical.ite h0 h0.beginStop) _)
theorem State.canonical.flrCore {o k} (h : s.canonical) : (s.flrCore o k).canonical := by
  simp only [State.flrCore]
  refine State.canonical.ite h ?_
  refine State.canonical.ite ?_ (h.beginStop.updCoreAt fun _ hc => by exact hc)
  split
  · exact h
  · exact (h.huskWrite.updCoreAt fun _ hc => by exact hc)

theorem answers_execFunctionLevelReset {f} (h : s.canonical) : Answers (execFunctionLevelReset f s) :=
  .ite (.next h) (.next (State.canonical.ite (State.canonical.foldl h (fun _ _ h0 => h0.flrCore) _)
    (State.canonical.reclaimFrom (State.canonical.foldl h (fun _ _ h1 => h1.flrCore) _))))

theorem answers_execResumeComplete {k} (h : s.canonical) : Answers (execResumeComplete k s) := by
  simp only [execResumeComplete]
  refine .ite (.next h) ?_
  split
  · exact .next h
  · exact .next (h.restore.updCoreAt fun _ h0 => Core.wf_takeHeld h0)
end Sys2Proof.Machine
end

section
/-! SUPPORT. The canonical form (O60): the events that fall due by time. -/

namespace Sys2Proof.Machine

variable {s : State} {c : Core}

theorem answers_execDeadlineAbort {k} (h : s.canonical) : Answers (execDeadlineAbort k s) :=
  .next (State.canonical.ite h.deadlineAbort h)
theorem answers_execPodMessageDeliver {k} (h : s.canonical) : Answers (execPodMessageDeliver k s) := by
  unfold execPodMessageDeliver
  refine .ite (.next h) ?_
  dsimp only
  split
  · exact .next h
  split
  · exact .next h
  · exact .next (.ite (.updCoreAt h fun _ hc => by exact hc) h)

theorem answers_execApplyQueueStart {k} (h : s.canonical) : Answers (execApplyQueueStart k s) :=
  .next (State.canonical.ite h.startQueued h)
theorem State.canonical.deliver {n} (h : s.canonical) : Finds State.canonical (s.deliver n) := by
  unfold State.deliver
  split
  · exact .some h
  refine .ite .none ?_
  dsimp only
  split
  · exact .some h
  · exact .none
  · next e => exact .some (canonical_of_eq (v := Prod.snd) h.spawnApply e)

theorem answers_execNoticeDeliver (h : s.canonical) : Answers (execNoticeDeliver s) := by
  unfold execNoticeDeliver
  split
  · exact .next h
  next n _ =>
  have hd := State.canonical.deliver (s := { s with notices := s.notices.erase n }) (n := n) h
  split
  · next e => exact .next (hd.of_eq e)
  · exact .next h

theorem Core.wf_tickPts (hc : c.pool.wf = true) : c.tickPts.pool.wf = true := Core.wf_ite hc hc
theorem Table.pools_foldl_tickPts {t} (l : List ℕ) (ht : ∀ k, (Table.get Core.empty t k).pool.wf = true) (k : ℕ) :
    (Table.get Core.empty (l.foldl (fun t k => Table.put t k (Core.tickPts (Table.get Core.empty t k))) t) k).pool.wf =
      true := by
  induction l generalizing t with
  | nil => exact ht k
  | cons i l ih =>
    refine ih fun j => ?_
    by_cases hj : j = i
    · rw [hj, Table.get_put_same]
      exact Core.wf_tickPts (ht i)
    · rw [Table.get_put_ne _ _ _ hj]
      exact ht j
theorem answers_execPtsAdvance (h : s.canonical) : Answers (execPtsAdvance s) := by
  unfold execPtsAdvance
  refine .next (State.canonical.ite ?_ h)
  generalize (List.range 8200).filter coreExists = l
  exact ⟨h.1, Table.pools_foldl_tickPts l h.2⟩

theorem answers_execGlobalLoadReturn {k j} (h : s.canonical) : Answers (execGlobalLoadReturn k j s) :=
  .next (State.canonical.ite h.updCtx h)
theorem answers_execGlobalStoreReturn {k j} (h : s.canonical) : Answers (execGlobalStoreReturn k j s) :=
  .next (State.canonical.ite h.landCtx.updCtx h)
theorem State.canonical.linkedEvent {b src j fn n} (h : s.canonical) : (s.linkedEvent b src j fn n).canonical := by
  simp only [State.linkedEvent]
  refine State.canonical.ite h ?_
  split
  · next e0 =>
      have h1 := canonical_of_eq (v := Prod.fst) h.barEvent e0
      exact h1.updCtx
  · next e2 =>
      have h3 := canonical_of_eq (v := Prod.fst) h.barEvent e2
      exact h3.updCtx

theorem answers_execLinkedBarrierEvent (h : s.canonical) : Answers (execLinkedBarrierEvent s) := by
  simp only [execLinkedBarrierEvent]
  split
  · exact .next h
  · split
    · exact .next (State.canonical.linkedEvent h)
    · exact .next h

theorem answers_execClockGate {k} (h : s.canonical) : Answers (execClockGate k s) :=
  .next (State.canonical.ite (h.updCoreAt fun _ hc => by exact hc) h)
theorem State.canonical.ungate (h : s.canonical) : s.ungate.canonical :=
  h.mapCores (fun p => by split <;> rfl) fun p hp => by split <;> exact hp
theorem State.canonical.endUse {e j l tick} (h : s.canonical) : (s.endUse e j l tick).canonical :=
  State.canonical.ite h.putEntry.beginStop h.putEntry
theorem answers_execLoanTermExpiry {nm j} (h : s.canonical) : Answers (execLoanTermExpiry nm j s) := by
  simp only [execLoanTermExpiry]
  split
  · exact .next (State.canonical.ite h.endUse h)
  · exact .next h

theorem answers_execGraceDeadlineExpiry {nm j} (h : s.canonical) : Answers (execGraceDeadlineExpiry nm j s) := by
  simp only [execGraceDeadlineExpiry]
  split
  · exact .next (State.canonical.ite h.endUse h)
  · exact .next h

theorem answers_execTermNear {nm j} (h : s.canonical) : Answers (execTermNear nm j s) := by
  simp only [execTermNear]
  split
  · exact .ite (.next h.putEntry.notify) (.next h)
  · exact .next h

theorem answers_execOidIdleRetire {o} (h : s.canonical) : Answers (execOidIdleRetire o s) := by
  simp only [execOidIdleRetire]
  split
  · exact .next (State.canonical.ite h.retireOid h)
  · exact .next h

theorem answers_execSegTermEnd {dom nm} (h : s.canonical) : Answers (execSegTermEnd dom nm s) := by
  simp only [execSegTermEnd]
  split
  · exact .next (State.canonical.ite h.dropSeg h)
  · exact .next h

theorem answers_execCounterSnapshot (h : s.canonical) : Answers (execCounterSnapshot s) := .next (State.canonical.ite h h)
theorem answers_execCounterWrap {k i amt} (h : s.canonical) : Answers (execCounterWrap k i amt s) :=
  .ite (.next h.addCounter) (.next h)
theorem answers_execBucketCharge {b ticks} (h : s.canonical) : Answers (execBucketCharge b ticks s) := by
  simp only [execBucketCharge]
  split
  · exact .next h
  · exact .next (State.canonical.ite h (State.canonical.ctlMark h))

theorem answers_execBucketRefill (h : s.canonical) : Answers (execBucketRefill s) := by
  refine .next (State.canonical.ite (State.canonical.foldl ?_ (fun _ _ h => State.canonical.ctlMark h) _) h)
  exact h

theorem State.canonical.unboost (h : s.canonical) : s.unboost.canonical := h.mapCores (fun _ => rfl) fun _ hp => hp
theorem State.canonical.boost {ks} (h : s.canonical) : (s.boost ks).canonical := by
  induction ks generalizing s with
  | nil => exact h
  | cons k ks ih =>
    simp only [State.boost]
    split
    · exact ih h
    · exact ih (State.canonical.updCoreAt (s := { s with n := s.n + 1 }) h fun _ hc => by exact hc)

theorem answers_execPowerEstimate (h : s.canonical) : Answers (execPowerEstimate s) :=
  .ite (.next h) (.ite (.next
    (State.canonical.ite (State.canonical.unboost h)
    (State.canonical.ite (State.canonical.unboost h) (State.canonical.unboost h))))
    (.next (State.canonical.boost (State.canonical.ite h h))))

theorem State.canonical.countTime {k dt cyc part} (h : s.canonical) : (s.countTime k dt cyc part).canonical :=
  State.canonical.ite h (State.canonical.foldl h.countBut.count (fun _ _ h0 => h0.count) _)
theorem State.canonical.countTicks {dt cyc part} (h : s.canonical) : (s.countTicks dt cyc part).canonical :=
  State.canonical.foldl (State.canonical.foldl h (fun _ _ h0 => h0.countTime) _) (fun _ _ h1 => h1.addShared) _
theorem State.canonical.oldSelects (h : s.canonical) : s.oldSelects.canonical := h.mapCores (fun _ => rfl) fun _ hp => hp
theorem State.canonical.newSelects {t on} (h : s.canonical) : (s.newSelects t on).canonical :=
  h.mapCores (fun _ => rfl) fun _ hp => hp
theorem State.canonical.countElapsed {dt} (h : s.canonical) : (s.countElapsed dt).canonical :=
  .mapCores (.ite h.countTicks h.oldSelects.countTicks.newSelects.countTicks) (fun _ => rfl) fun _ hp => hp
theorem State.canonical.idleTimes (h : s.canonical) : s.idleTimes.canonical := h
theorem State.canonical.slowDown (h : s.canonical) : s.slowDown.canonical :=
  h.mapCores (fun p => by split <;> rfl) fun p hp => by split <;> exact hp
theorem State.canonical.elapse {dt} (h : s.canonical) : (s.elapse dt).canonical :=
  State.canonical.countElapsed h.idleTimes.slowDown
end Sys2Proof.Machine
end

section
/-! SUPPORT. The canonical form (O60): the launch unit. -/

namespace Sys2Proof.Machine

variable {s : State} {c : Core}

theorem State.canonical.unitPlace {dom acc a} (h : s.canonical) : Finds (fun r => r.2.canonical) (s.unitPlace dom acc a) := by
  simp only [State.unitPlace]
  split
  · exact .none
  · next e2 =>
      have h3 := h.translate.of_eq e2
      split
      · next e4 =>
          have h5 := canonical_of_eq (v := Prod.snd) h3.extAnswer e4
          exact .some h5
      · exact .none

theorem State.canonical.unitReadAt {dom a n pts} (h : s.canonical) :
    Finds (fun r => r.2.2.canonical) (s.unitReadAt dom a n pts) := by
  simp only [State.unitReadAt]
  split
  · exact .none
  · next e2 =>
      have h3 := h.unitPlace.of_eq e2
      split
      · next e4 =>
          have h5 := h3.readAt.of_eq e4
          exact .some h5
      · exact .none

theorem State.canonical.unitRead {dom a n} (h : s.canonical) : Finds (fun r => r.2.2.canonical) (s.unitRead dom a n) :=
  h.unitReadAt
theorem State.canonical.unitWriteAt {dom a bs pts} (h : s.canonical) :
    Finds (fun r => r.2.canonical) (s.unitWriteAt dom a bs pts) := by
  simp only [State.unitWriteAt]
  split
  · exact .none
  · next e2 =>
      have h3 := h.unitPlace.of_eq e2
      split
      · next e4 =>
          have h5 := h3.writeAt.of_eq e4
          exact .some h5
      · exact .none

theorem State.canonical.setLaunch {i l} (h : s.canonical) : (s.setLaunch i l).canonical := h
theorem State.canonical.footprints {r i n} (h : s.canonical) : Finds (fun r => r.2.canonical) (s.footprints r i n) := by
  induction n generalizing s i with
  | zero => exact .some h
  | succ n ih =>
    simp only [State.footprints]
    split
    · exact .none
    next e =>
    have h : State.canonical _ := h.unitRead.of_eq e
    split
    · exact .none
    next e =>
    have h : State.canonical _ := h.unitRead.of_eq e
    split
    · exact .none
    next e =>
    have h : State.canonical _ := h.unitRead.of_eq e
    split
    · exact .none
    split
    · next e =>
      have h : State.canonical _ := (ih h).of_eq e
      exact .some h
    · exact .none

theorem State.canonical.checkLaunch {r o} (h : s.canonical) : (s.checkLaunch r o).2.2.2.canonical := by
  unfold State.checkLaunch
  split
  · exact h
  split
  · exact h
  split
  · exact h
  split
  · exact h
  split
  · exact h
  split
  · exact h
  split
  · exact h
  · next e => exact h.footprints.of_eq e

theorem State.canonical.logLaunch {slot r} (h : s.canonical) : (s.logLaunch slot r).canonical := by
  simp only [State.logLaunch]
  refine State.canonical.foldl ?_ (fun _ _ h1 => ?_) _
  · refine State.canonical.foldl h (fun _ _ h0 => ?_) _
    split
    · exact h0.logAppend
    · exact h0
  · split
    · exact h1
    · next e4 =>
        have h5 := h1.unitRead.of_eq e4
        split
        · exact h5
        · next e8 =>
            have h9 := h5.unitRead.of_eq e8
            split
            · exact h9.logAppend
            · exact h9

theorem State.canonical.admitRecord {bytes o pts} (h : s.canonical) : (s.admitRecord bytes o pts).canonical := by
  have hc : (s.free.2.checkLaunch ⟨bytes⟩ o).2.2.2.canonical := h.free.checkLaunch
  unfold State.admitRecord
  generalize s.free = free at hc ⊢
  obtain ⟨v, s⟩ := free
  dsimp only at hc ⊢
  generalize s.checkLaunch ⟨bytes⟩ o = check at hc ⊢
  exact .ite (.logLaunch hc) hc

theorem answers_execLaunchFetch {i} (h : s.canonical) : Answers (execLaunchFetch i s) := by
  unfold execLaunchFetch
  refine .ite ?_ (.next h)
  have hs {ls : List ℕ} : (({ s with qnext := (i + 1) % 1024 } : State).stampReads ls 0).2.canonical := .stampReads h
  dsimp only
  split
  · exact .next (State.canonical.stepQslot hs)
  · next e => exact .next (.stepQslot (.admitRecord (hs.unitReadAt.of_eq e)))

theorem answers_execSpawnAdmit {die} (h : s.canonical) : Answers (execSpawnAdmit die s) := by
  simp only [execSpawnAdmit]
  split
  · exact .next h
  · exact .ite (.next (State.canonical.admitRecord h)) (.next h)

theorem State.canonical.poolAt {die phase} (h : s.canonical) : (s.poolAt die phase).canonical := h
theorem answers_execTaskExpand {die} (h : s.canonical) : Answers (execTaskExpand die s) := by
  simp only [execTaskExpand]
  split
  · exact .next h
  · exact .ite (.next h) (.next (State.canonical.poolAt (State.canonical.setLaunch h)))

theorem State.canonical.discard {n o flag} (h : s.canonical) : (s.discard n o flag).canonical := h
theorem answers_execNodeRetire {id} (h : s.canonical) : Answers (execNodeRetire id s) := by
  simp only [execNodeRetire]
  split
  · exact .next h
  · split
    · exact .next h
    · refine .ite (.next h) ?_
      refine .ite ?_ ?_
      · refine .next ?_
        split
        · exact State.canonical.ite h (State.canonical.setLaunch h)
        · exact h
      · refine .next ?_
        refine State.canonical.foldl ?_ (fun _ _ h0 => h0.discard) _
        split
        · exact State.canonical.ite h (State.canonical.setLaunch h)
        · exact h

theorem answers_execDeadlineDiscard {id} (h : s.canonical) : Answers (execDeadlineDiscard id s) := by
  simp only [execDeadlineDiscard]
  split
  · exact .next h
  · exact .next (State.canonical.ite h.discard h)

theorem State.canonical.sendNode {n k} (h : s.canonical) : (s.sendNode n k).canonical := by
  unfold State.sendNode
  split
  · exact h
  · next l _ =>
    have hl : (s.setLaunch n.slot { l with last := Table.put l.last (l.groupOf n.pos) (clusterOf k) }).canonical := h.setLaunch
    generalize s.setLaunch n.slot _ = u at hl ⊢
    have hc : (u.updCoreAt k fun c => { c with inbox := c.inbox ++ [l.record n k] }).canonical := hl.updCoreAt fun _ hc => hc
    dsimp only
    split
    · exact .ite (State.canonical.logAppend hc) hc
    · exact hc

theorem State.canonical.tryUnit {die n} (h : s.canonical) : Finds State.canonical (s.tryUnit die n) := by
  simp only [State.tryUnit]
  split
  · refine .ite .none ?_
    refine .ite (.some h.discard) ?_
    refine .ite (.ite .none (.ite (.some h.setLaunch.discard)
      (.ite (.some (State.canonical.foldl h.setLaunch (fun _ _ h0 => h0.sendNode) _)) .none))) ?_
    split
    · exact .some (State.canonical.foldl h (fun _ _ h1 => h1.sendNode) _)
    · exact .none
  · exact .none

theorem answers_execTaskDispatch {die} (h : s.canonical) : Answers (execTaskDispatch die s) := by
  simp only [execTaskDispatch]
  split
  · next e =>
    obtain ⟨n, -, hn⟩ := List.exists_of_findSome?_eq_some e
    exact .next (h.tryUnit.of_eq hn).poolAt
  · exact .next h

theorem answers_execGangDrain {die} (h : s.canonical) : Answers (execGangDrain die s) := by
  simp only [execGangDrain]
  refine .next ?_
  split <;> exact h

theorem State.canonical.launchCompletes {seq} (h : s.canonical) : (s.launchCompletes seq).canonical := h.endLaunchSegs
theorem answers_execTreePropagate {slot node} (h : s.canonical) : Answers (execTreePropagate slot node s) := by
  simp only [execTreePropagate]
  refine .ite (.next h) ?_
  refine .ite (.next h) ?_
  split
  · exact .next h
  · exact .ite (.next (State.canonical.launchCompletes (State.canonical.setLaunch h))) (.next (State.canonical.setLaunch h))

theorem State.canonical.setVec {f vec v} (h : s.canonical) : (s.setVec f vec v).canonical := h
theorem State.canonical.msix {f vec} (h : s.canonical) : (s.msix f vec).canonical :=
  State.canonical.ite h (State.canonical.ite h.setVec h)
theorem State.canonical.storeVec {f vec v} (h : s.canonical) : (s.storeVec f vec v).canonical := State.canonical.ite h h.setVec
theorem State.canonical.signal {i} (h : s.canonical) : (s.signal i).canonical := h.setQslot.msix
theorem State.canonical.freeLaunch {slot} (h : s.canonical) : (s.freeLaunch slot).canonical := h
theorem State.canonical.recordTail {slot w} (h : s.canonical) : (s.recordTail slot w).canonical :=
  State.canonical.ite h.stepQslot.freeLaunch.signal h.stepQslot.freeLaunch
theorem State.canonical.writeRecord {slot} (h : s.canonical) : Finds State.canonical (s.writeRecord slot) := by
  simp only [State.writeRecord]
  refine .bind (P := fun _ => True) (fun _ _ => trivial) fun _ h0 => ?_
  split
  · exact .some h.recordTail
  · exact .bind (P := fun _ => True) (fun _ _ => trivial) fun _ h1 => .ite (.some h.landExt.freeLaunch)
      (.ite .none (.bind (P := fun _ => True) (fun _ _ => trivial) fun ⟨_, _⟩ h2 => .ite
      (.ite .none (.some h.landExt.stepQslot)) (.map h.landExt.unitWriteAt fun ⟨_, _⟩ h3 => h3.setLaunch)))

theorem answers_execCompletionRecordWrite {slot} (h : s.canonical) : Answers (execCompletionRecordWrite slot s) :=
  .next (State.canonical.getD h h.writeRecord)
theorem answers_execMsixHoldoffExpiry {i} (h : s.canonical) : Answers (execMsixHoldoffExpiry i s) :=
  .next (State.canonical.ite h.signal h)
theorem answers_execMsixUnmask {f vec} (h : s.canonical) : Answers (execMsixUnmask f vec s) :=
  .next (State.canonical.ite h.storeVec h)
end Sys2Proof.Machine
end

section
/-! SUPPORT. The canonical form (O60): the loader. -/

namespace Sys2Proof.Machine

variable {s : State} {c : Core}

theorem State.canonical.unitBytes {dom pts fuel a n} (h : s.canonical) :
    Finds (fun r => r.2.2.canonical) (s.unitBytes dom pts fuel a n) := by
  induction fuel generalizing s pts a n with
  | zero => exact .some h
  | succ fuel ih =>
    simp only [State.unitBytes]
    split
    · exact .some h
    split
    · exact .none
    next e =>
    have h : State.canonical _ := h.unitReadAt.of_eq e
    split
    · next e =>
      have h : State.canonical _ := (ih h).of_eq e
      exact .some h
    · exact .none

theorem State.canonical.patchAll {dom pts ps} (h : s.canonical) : Finds (fun r => r.2.canonical) (s.patchAll dom pts ps) := by
  induction ps generalizing s pts with
  | nil => exact .some h
  | cons p ps ih =>
    simp only [State.patchAll]
    split
    · exact .none
    next e =>
    have h := h.unitWriteAt.of_eq e
    split
    · exact ih h
    split
    · exact .none
    · next e => exact ih (h.unitWriteAt.of_eq e)

theorem State.canonical.load96 {dom} (h : s.canonical) : (s.load96 dom).2.2.canonical := by
  have hs : (s.stampReads [loadBlock dom / 128] 0).2.canonical := h.stampReads
  unfold State.load96
  generalize s.stampReads [loadBlock dom / 128] 0 = r at hs ⊢
  dsimp only
  split
  · exact hs
  next e =>
  have ht : State.canonical _ := hs.unitBytes.of_eq e
  split
  · exact hs
  split
  · exact hs
  split
  · exact hs
  split
  · exact hs
  split
  · exact hs
  · next e =>
    have hp : State.canonical _ := ht.patchAll.of_eq e
    exact hp

theorem answers_execLoadComplete {dom} (h : s.canonical) : Answers (execLoadComplete dom s) := by
  refine .ite (.next h) (.next ?_)
  exact State.canonical.ctlMark (State.canonical.setDomain h.load96)
end Sys2Proof.Machine
end

section
/-! SUPPORT. The canonical form (O60): the host link and the peers. -/

namespace Sys2Proof.Machine

variable {s : State} {c : Core}

theorem State.canonical.ctlEvent {o pa bs} (h : s.canonical) : Answers (s.ctlEvent o pa bs) := by
  simp only [State.ctlEvent]
  refine .ite (.next h) ?_
  split
  · next e0 =>
      have h1 := h.ctlWrite.of_eq e0
      exact .next h1
  · exact .next h

theorem answers_execPasidWrite {d v o} (h : s.canonical) : Answers (execPasidWrite d v o s) :=
  .ite (.next (State.canonical.ite h.setDomain.outMark h)) h.ctlEvent
theorem State.canonical.atsAnswer {c a2} (h : s.canonical) : (s.atsAnswer c a2).canonical := by
  simp only [State.atsAnswer]
  split
  · exact h.updCtx
  · exact h.updCard

theorem State.canonical.atsPick {d} (h : s.canonical) : (s.atsPick d).2.canonical := by
  simp only [State.atsPick]
  split <;> exact h

theorem State.canonical.atsRespond {d c} (h : s.canonical) : (s.atsRespond d c).canonical := by
  simp only [State.atsRespond]
  split
  · next e0 =>
      have h1 := canonical_of_eq (v := Prod.snd) h.atsPick e0
      exact h1.atsAnswer
  · next e2 =>
      have h3 := canonical_of_eq (v := Prod.snd) h.atsPick e2
      exact h3

theorem answers_execAtsResponse {d} (h : s.canonical) : Answers (execAtsResponse d s) :=
  .ite (.next (State.canonical.stepDomain (State.canonical.ite h h)))
    (.ite (.next (State.canonical.ite h h))
    (.ite (.next (State.canonical.atsRespond (State.canonical.setDomain (State.canonical.ite h h))))
    (.next (State.canonical.atsRespond (State.canonical.stepDomain (State.canonical.ite h h))))))

theorem answers_execPasidRetireEnd {d} (h : s.canonical) : Answers (execPasidRetireEnd d s) :=
  .next (State.canonical.ite (State.canonical.stepDomain (State.canonical.foldl h (fun _ _ h0 => h0.atsAnswer) _)) h)
theorem State.canonical.doorbell {f page v completion} (h : s.canonical) : (s.doorbell f page v completion).canonical := by
  simp only [State.doorbell]
  split
  · exact State.canonical.ite h.ring.outMark h
  · exact h

theorem answers_execLaunchDoorbell {f page v} (h : s.canonical) : Answers (execLaunchDoorbell f page v s) := .next h.doorbell
theorem answers_execCompletionDoorbell {f page v} (h : s.canonical) : Answers (execCompletionDoorbell f page v s) :=
  .next h.doorbell
theorem State.canonical.mailboxWrite {off bs} (h : s.canonical) : (s.mailboxWrite off bs).canonical :=
  State.canonical.ite h (State.canonical.ite (State.canonical.outMark (State.canonical.outMark h)) (State.canonical.outMark h))
theorem answers_execMailboxDoorbell {off bs} (h : s.canonical) : Answers (execMailboxDoorbell off bs s) := .next h.mailboxWrite
theorem State.canonical.lineReads {dom ps} (h : s.canonical) : Finds (fun r => r.2.canonical) (s.lineReads dom ps) := by
  induction ps generalizing s with
  | nil => exact .some h
  | cons p ps ih =>
    simp only [State.lineReads]
    split
    · exact .none
    next t s e =>
    have h : s.canonical := h.unitReadAt.of_eq e
    split
    · next e =>
      have hr : State.canonical _ := (ih (s := { s with outPts := t }) h).of_eq e
      exact .some hr
    · exact .none

theorem State.canonical.lineWrites {dom ps bs} (h : s.canonical) : Finds State.canonical (s.lineWrites dom ps bs) := by
  induction ps generalizing s bs with
  | nil => exact .some h
  | cons p ps ih =>
    simp only [State.lineWrites]
    split
    · exact .none
    next e =>
    have h := h.unitWriteAt.of_eq e
    exact ih h

theorem State.canonical.send {x} (h : s.canonical) : (s.send x).canonical := h
theorem State.canonical.outWrite {pa bs} (h : s.canonical) : (s.outWrite pa bs).canonical := h.physWrite
theorem answers_execHostWindowRead {f off n} (h : s.canonical) : Answers (execHostWindowRead f off n s) := by
  unfold execHostWindowRead
  refine .ite (.next ?_) ?_
  · exact h.physRead
  split
  · exact .next h.send
  split
  · next e =>
    have hr : State.canonical _ := h.lineReads.of_eq e
    exact .next hr.send
  · exact .next h.send

theorem answers_execHostWindowWrite {f off bs} (h : s.canonical) : Answers (execHostWindowWrite f off bs s) := by
  simp only [execHostWindowWrite]
  refine .ite (.next h.outWrite) ?_
  split
  · exact .next h
  · split
    · next e0 =>
        have h1 := h.lineWrites.of_eq e0
        exact .next h1
    · exact .next h

theorem State.canonical.barRead {f bar off n} (h : s.canonical) : Answers (s.barRead f bar off n) :=
  .ite (.next h.send) (.ite (answers_execHostWindowRead h) (.next (State.canonical.send h.stampReads)))
theorem State.canonical.tableWrite {f off bs} (h : s.canonical) : (s.tableWrite f off bs).canonical :=
  State.canonical.foldl h (fun _ _ h0 => State.canonical.ite h0.storeVec h0) _
theorem State.canonical.barWrite {f bar off bs} (h : s.canonical) : Answers (s.barWrite f bar off bs) :=
  .ite (.next h) (.ite (answers_execHostWindowWrite h)
    (.ite (.ite (.next h.doorbell.doorbell) (.next h)) (.ite (.ite (.next h.mailboxWrite) (.next h.tableWrite)) (.next h))))

theorem State.canonical.peerRead {port pa n} (h : s.canonical) : Finds (fun r => r.2.canonical) (s.peerRead port pa n) := by
  simp only [State.peerRead]
  split
  · exact .none
  · exact .ite (.map (P := fun _ => True) (fun _ _ => trivial) fun _ h0 => h.stampReads) (.ite (.some h.physRead) .none)

theorem State.canonical.peerWrite {port pa bs} (h : s.canonical) : Finds State.canonical (s.peerWrite port pa bs) := by
  simp only [State.peerWrite]
  split
  · exact .none
  · exact .ite (.map h.ctlStep fun ⟨_, _⟩ h0 => h0) (.ite (.some h.outWrite) .none)

theorem answers_execPeerReadRequest {port pa n} (h : s.canonical) : Answers (execPeerReadRequest port pa n s) := by
  simp only [execPeerReadRequest]
  split
  · next e0 =>
      have h1 := h.peerRead.of_eq e0
      exact .next h1.send
  · exact .next h.send

theorem answers_execPeerWriteRequest {port pa bs} (h : s.canonical) : Answers (execPeerWriteRequest port pa bs s) := by
  simp only [execPeerWriteRequest]
  split
  · next e0 =>
      have h1 := h.peerWrite.of_eq e0
      exact .next h1
  · exact .next h.send

theorem answers_execPeerAtomicRequest {port pa op w v e} (h : s.canonical) :
    Answers (execPeerAtomicRequest port pa op w v e s) := by
  unfold execPeerAtomicRequest
  dsimp only
  refine .ite (.next h.send) ?_
  split
  · exact .next h.send
  next e =>
  have hr : State.canonical _ := h.peerRead.of_eq e
  split
  · exact .next hr.send
  split
  · next e => exact .next (State.canonical.send (h.peerWrite.of_eq e))
  · exact .next h.send

theorem answers_execPeerTimeout {k j} (h : s.canonical) : Answers (execPeerTimeout k j s) :=
  .next (State.canonical.ite h.updCtx h)
theorem State.canonical.verify (h : s.canonical) : s.verify.canonical := State.canonical.ite h (State.canonical.ctlMark h)
theorem answers_execDeviceReset (h : s.canonical) : Answers (execDeviceReset s) :=
  .next (State.canonical.verify ⟨Memory.wf_putBytes _ _ (Memory.wf_filter h.1 _), State.canonical.reset.2⟩)
theorem answers_execSelfTestEnd {failed} (h : s.canonical) : Answers (execSelfTestEnd failed s) := by
  unfold execSelfTestEnd
  refine .ite (.next h) (.ite (.next ?_) (.next ?_))
  · refine State.canonical.foldl ?_ (fun _ _ h => .ite (State.canonical.putEntry h) h) _
    exact h
  · refine State.canonical.updCtx (.updCoreAt ?_ fun _ hc => by exact hc)
    refine State.canonical.foldl ?_ (fun _ _ h => .ite (State.canonical.putEntry h) h) _
    exact h

theorem answers_execRecoveryImageCheck (h : s.canonical) : Answers (execRecoveryImageCheck s) :=
  .next (State.canonical.ite h.verify h)
theorem answers_execAttestReportDone (h : s.canonical) : Answers (execAttestReportDone s) :=
  .ite (.next h) (.next (State.canonical.ctlMark h))
end Sys2Proof.Machine
end

section
/-! SUPPORT. The canonical form (O60): the fetch. -/

namespace Sys2Proof.Machine

variable {s : State} {c : Core}

theorem answers_execUndecodableWord {cause tval} (h : s.canonical) : Answers (execUndecodableWord cause tval s) :=
  .next h.takeTrap
theorem State.canonical.fillLine {a} (h : s.canonical) : Ends (fun r => r.2.canonical) (s.fillLine a) := by
  unfold State.fillLine
  extract_lets place
  have hplace : Ends State.canonical place := by
    refine .bind h.accCheck fun r h => ?_
    obtain ⟨p, s⟩ := r
    dsimp -zeta only at h ⊢
    split
    · refine .bind h.extGate fun s h => ?_
      extract_lets d r t put
      have ht : t.canonical := (State.canonical.fillRead h).sealWalks
      have hput (r : List Byte × State) (h : r.2.canonical) : Ends State.canonical (put r) := .ok
        (State.canonical.updCore h fun _ hc => by exact hc)
      clear_value put
      exact .ite (.bind (.liftTrap ht.hostLog) hput) (.bind (P := fun r => r.2.canonical) (.ok ht) hput)
    · exact .fault
  clear_value place
  split
  · exact .ite .fault .fault
  · exact hplace.of_error rfl
  · exact .ok (hplace.of_eq rfl)

theorem State.canonical.fetchLine {a} (h : s.canonical) : Ends (fun r => r.2.canonical) (s.fetchLine a) := by
  simp only [State.fetchLine]
  refine .ite (.ok h.fillRead) ?_
  refine .ite .fault ?_
  split
  · exact h.fillLine
  · exact .ite (.ok h) (State.canonical.fillLine h)

theorem State.canonical.fetch (h : s.canonical) : Ends (fun r => r.2.canonical) s.fetch :=
  .ite .fault (.bind h.fetchLine fun ⟨_, _⟩ h0 => .ite (.ok h0) (.bind h0.fetchLine fun ⟨_, _⟩ h1 => .ok h1))
theorem State.canonical.nextInstr (h : s.canonical) : Ends (fun r => r.2.2.canonical) s.nextInstr := by
  simp only [State.nextInstr]
  split
  · exact .ok h
  · split
    · next e0 =>
        exact h.fetch.of_error e0
    · next e2 =>
        have h3 := h.fetch.of_eq e2
        exact .ok h3
end Sys2Proof.Machine
end

section
/-! SUPPORT. The canonical form (O60): every instruction and every event. -/

namespace Sys2Proof.Machine

variable {s : State} {c : Core}

theorem answers_exec {i : Instr} (h : s.canonical) : Answers (exec i s) :=
  match i with
  | .deviceReset => answers_execDeviceReset h
  | .selfTestEnd .. => answers_execSelfTestEnd h
  | .recoveryImageCheck => answers_execRecoveryImageCheck h
  | .mailboxDoorbell .. => answers_execMailboxDoorbell h
  | .launchDoorbell .. => answers_execLaunchDoorbell h
  | .completionDoorbell .. => answers_execCompletionDoorbell h
  | .tailwWrite x1 x2 x3 => show Answers (execTailwWrite x1 x2 x3 s) from h.ctlEvent
  | .queueSlotEnableWrite x1 x2 x3 => show Answers (execQueueSlotEnableWrite x1 x2 x3 s) from h.ctlEvent
  | .launchFetch .. => answers_execLaunchFetch h
  | .spawnAdmit .. => answers_execSpawnAdmit h
  | .taskExpand .. => answers_execTaskExpand h
  | .nodeRetire .. => answers_execNodeRetire h
  | .deadlineDiscard .. => answers_execDeadlineDiscard h
  | .taskDispatch .. => answers_execTaskDispatch h
  | .gangDrain .. => answers_execGangDrain h
  | .treePropagate .. => answers_execTreePropagate h
  | .completionRecordWrite .. => answers_execCompletionRecordWrite h
  | .msixHoldoffExpiry .. => answers_execMsixHoldoffExpiry h
  | .msixUnmask .. => answers_execMsixUnmask h
  | .deadlineAbort .. => answers_execDeadlineAbort h
  | .podMessageDeliver .. => answers_execPodMessageDeliver h
  | .applyQueueStart .. => answers_execApplyQueueStart h
  | .noticeDeliver => answers_execNoticeDeliver h
  | .cardStart .. => answers_execCardStart h
  | .matrixUnitStep .. => answers_execMatrixUnitStep h
  | .copyUnitWrite .. => answers_execCopyUnitWrite h
  | .cardComplete .. => answers_execCardComplete h
  | .writeBufferDrain .. => answers_execWriteBufferDrain h
  | .engineBankForce .. => answers_execEngineBankForce h
  | .ptsAdvance => answers_execPtsAdvance h
  | .globalLoadReturn .. => answers_execGlobalLoadReturn h
  | .globalStoreReturn .. => answers_execGlobalStoreReturn h
  | .linkedBarrierEvent => answers_execLinkedBarrierEvent h
  | .powerEstimate => answers_execPowerEstimate h
  | .clockGate .. => answers_execClockGate h
  | .bucketCharge .. => answers_execBucketCharge h
  | .bucketRefill => answers_execBucketRefill h
  | .counterSnapshot => answers_execCounterSnapshot h
  | .counterWrap .. => answers_execCounterWrap h
  | .loanTermExpiry .. => answers_execLoanTermExpiry h
  | .graceDeadlineExpiry .. => answers_execGraceDeadlineExpiry h
  | .termNear .. => answers_execTermNear h
  | .oidIdleRetire .. => answers_execOidIdleRetire h
  | .segTermEnd .. => answers_execSegTermEnd h
  | .stopTick .. => answers_execStopTick h
  | .quiesceEnd .. => answers_execQuiesceEnd h
  | .flushToken .. => answers_execFlushToken h
  | .saveBufferDrain .. => answers_execSaveBufferDrain h
  | .huskSaveStep .. => answers_execHuskSaveStep h
  | .huskValid .. => answers_execHuskValid h
  | .acceptStopEnd .. => answers_execAcceptStopEnd h
  | .reclaimStopEnd .. => answers_execReclaimStopEnd h
  | .powerEmergency => answers_execPowerEmergency h
  | .functionLevelReset .. => answers_execFunctionLevelReset h
  | .kstopWrite x1 x2 x3 => show Answers (execKstopWrite x1 x2 x3 s) from h.keeperEvent
  | .kresumeWrite x1 x2 x3 => show Answers (execKresumeWrite x1 x2 x3 s) from h.keeperEvent
  | .eventSelectWrite x1 x2 x3 x4 => show Answers (execEventSelectWrite x1 x2 x3 x4 s) from h.keeperEvent
  | .counterWrite x1 x2 x3 x4 => show Answers (execCounterWrite x1 x2 x3 x4 s) from h.keeperEvent
  | .tflagsWrite .. => answers_execTflagsWrite h
  | .tgenWrite x1 x2 => show Answers (execTgenWrite x1 x2 s) from h.ctlEvent
  | .pasidWrite .. => answers_execPasidWrite h
  | .toffWrite x1 x2 x3 => show Answers (execToffWrite x1 x2 x3 s) from h.ctlEvent
  | .atsResponse .. => answers_execAtsResponse h
  | .pasidRetireEnd .. => answers_execPasidRetireEnd h
  | .loadRequest x1 x2 x3 => show Answers (execLoadRequest x1 x2 x3 s) from h.ctlEvent
  | .loadComplete .. => answers_execLoadComplete h
  | .attestNonceWrite x1 x2 => show Answers (execAttestNonceWrite x1 x2 s) from h.ctlEvent
  | .attestReportDone => answers_execAttestReportDone h
  | .controlSpaceWrite x1 x2 x3 => show Answers (execControlSpaceWrite x1 x2 x3 s) from h.ctlEvent
  | .hostWindowRead .. => answers_execHostWindowRead h
  | .hostWindowWrite .. => answers_execHostWindowWrite h
  | .hostWindowAtomic x1 x2 => show Answers (execHostWindowAtomic x1 x2 s) from .next h.send
  | .peerReadRequest .. => answers_execPeerReadRequest h
  | .peerWriteRequest .. => answers_execPeerWriteRequest h
  | .peerAtomicRequest .. => answers_execPeerAtomicRequest h
  | .peerTimeout .. => answers_execPeerTimeout h
  | .add x1 x2 x3 => show Answers (execAdd x1 x2 x3 s) from h.rrr
  | .sub x1 x2 x3 => show Answers (execSub x1 x2 x3 s) from h.rrr
  | .andX x1 x2 x3 => show Answers (execAndX x1 x2 x3 s) from h.rrr
  | .orX x1 x2 x3 => show Answers (execOrX x1 x2 x3 s) from h.rrr
  | .xorX x1 x2 x3 => show Answers (execXorX x1 x2 x3 s) from h.rrr
  | .andn x1 x2 x3 => show Answers (execAndn x1 x2 x3 s) from h.rrr
  | .orn x1 x2 x3 => show Answers (execOrn x1 x2 x3 s) from h.rrr
  | .brev x1 x2 => show Answers (execBrev x1 x2 s) from h.rr
  | .sll x1 x2 x3 => show Answers (execSll x1 x2 x3 s) from h.rrr
  | .srl x1 x2 x3 => show Answers (execSrl x1 x2 x3 s) from h.rrr
  | .sra x1 x2 x3 => show Answers (execSra x1 x2 x3 s) from h.rrr
  | .rol x1 x2 x3 => show Answers (execRol x1 x2 x3 s) from h.rrr
  | .ror x1 x2 x3 => show Answers (execRor x1 x2 x3 s) from h.rrr
  | .slt x1 x2 x3 => show Answers (execSlt x1 x2 x3 s) from h.rrr
  | .sltu x1 x2 x3 => show Answers (execSltu x1 x2 x3 s) from h.rrr
  | .minX x1 x2 x3 => show Answers (execMinX x1 x2 x3 s) from h.rrr
  | .maxX x1 x2 x3 => show Answers (execMaxX x1 x2 x3 s) from h.rrr
  | .minu x1 x2 x3 => show Answers (execMinu x1 x2 x3 s) from h.rrr
  | .maxu x1 x2 x3 => show Answers (execMaxu x1 x2 x3 s) from h.rrr
  | .mul x1 x2 x3 => show Answers (execMul x1 x2 x3 s) from h.rrr
  | .mulh x1 x2 x3 => show Answers (execMulh x1 x2 x3 s) from h.rrr
  | .mulhu x1 x2 x3 => show Answers (execMulhu x1 x2 x3 s) from h.rrr
  | .div x1 x2 x3 => show Answers (execDiv x1 x2 x3 s) from h.divide
  | .divu x1 x2 x3 => show Answers (execDivu x1 x2 x3 s) from h.divide
  | .rem x1 x2 x3 => show Answers (execRem x1 x2 x3 s) from h.divide
  | .remu x1 x2 x3 => show Answers (execRemu x1 x2 x3 s) from h.divide
  | .clz x1 x2 => show Answers (execClz x1 x2 s) from h.rr
  | .ctz x1 x2 => show Answers (execCtz x1 x2 s) from h.rr
  | .popc x1 x2 => show Answers (execPopc x1 x2 s) from h.rr
  | .bswap x1 x2 => show Answers (execBswap x1 x2 s) from h.rr
  | .sext x1 x2 x3 => show Answers (execSext x1 x2 x3 s) from h.rr
  | .zext x1 x2 x3 => show Answers (execZext x1 x2 x3 s) from h.rr
  | .addi x1 x2 x3 => show Answers (execAddi x1 x2 x3 s) from h.rri
  | .addiLit x1 x2 x3 => show Answers (execAddiLit x1 x2 x3 s) from h.rri
  | .andi x1 x2 x3 => show Answers (execAndi x1 x2 x3 s) from h.rri
  | .andiLit x1 x2 x3 => show Answers (execAndiLit x1 x2 x3 s) from h.rri
  | .ori x1 x2 x3 => show Answers (execOri x1 x2 x3 s) from h.rri
  | .oriLit x1 x2 x3 => show Answers (execOriLit x1 x2 x3 s) from h.rri
  | .xori x1 x2 x3 => show Answers (execXori x1 x2 x3 s) from h.rri
  | .xoriLit x1 x2 x3 => show Answers (execXoriLit x1 x2 x3 s) from h.rri
  | .slti x1 x2 x3 => show Answers (execSlti x1 x2 x3 s) from h.rri
  | .sltiLit x1 x2 x3 => show Answers (execSltiLit x1 x2 x3 s) from h.rri
  | .sltiu x1 x2 x3 => show Answers (execSltiu x1 x2 x3 s) from h.rri
  | .sltiuLit x1 x2 x3 => show Answers (execSltiuLit x1 x2 x3 s) from h.rri
  | .slli x1 x2 x3 => show Answers (execSlli x1 x2 x3 s) from h.rr
  | .srli x1 x2 x3 => show Answers (execSrli x1 x2 x3 s) from h.rr
  | .srai x1 x2 x3 => show Answers (execSrai x1 x2 x3 s) from h.rr
  | .rori x1 x2 x3 => show Answers (execRori x1 x2 x3 s) from h.rr
  | .lui x1 x2 => show Answers (execLui x1 x2 s) from h.const
  | .pcadd x1 x2 => show Answers (execPcadd x1 x2 s) from h.const
  | .pcaddLit x1 x2 => show Answers (execPcaddLit x1 x2 s) from h.const
  | .li x1 x2 => show Answers (execLi x1 x2 s) from h.const
  | .lea x1 x2 x3 x4 x5 => show Answers (execLea x1 x2 x3 x4 x5 s) from h.lea
  | .leaLit x1 x2 x3 x4 x5 => show Answers (execLeaLit x1 x2 x3 x4 x5 s) from h.lea
  | .bfx .. => answers_execBfx h
  | .bfxu .. => answers_execBfxu h
  | .bfi .. => answers_execBfi h
  | .csel .. => answers_execCsel h
  | .mad .. => answers_execMad h
  | .wfield .. => answers_execWfield h
  | .fadd x1 x2 x3 => show Answers (execFadd x1 x2 x3 s) from h.fp2
  | .faddExt x1 x2 x3 x4 => show Answers (execFaddExt x1 x2 x3 x4 s) from h.fp2
  | .fsub x1 x2 x3 => show Answers (execFsub x1 x2 x3 s) from h.fp2
  | .fsubExt x1 x2 x3 x4 => show Answers (execFsubExt x1 x2 x3 x4 s) from h.fp2
  | .fmul x1 x2 x3 => show Answers (execFmul x1 x2 x3 s) from h.fp2
  | .fmulExt x1 x2 x3 x4 => show Answers (execFmulExt x1 x2 x3 x4 s) from h.fp2
  | .fdiv x1 x2 x3 => show Answers (execFdiv x1 x2 x3 s) from h.fp2
  | .fdivExt x1 x2 x3 x4 => show Answers (execFdivExt x1 x2 x3 x4 s) from h.fp2
  | .fsqrt x1 x2 => show Answers (execFsqrt x1 x2 s) from h.fp1
  | .fsqrtExt x1 x2 x3 => show Answers (execFsqrtExt x1 x2 x3 s) from h.fp1
  | .fmin x1 x2 x3 => show Answers (execFmin x1 x2 x3 s) from h.fp2
  | .fmax x1 x2 x3 => show Answers (execFmax x1 x2 x3 s) from h.fp2
  | .fmadd .. => answers_execFmadd h
  | .feq x1 x2 x3 => show Answers (execFeq x1 x2 x3 s) from h.fp2
  | .flt x1 x2 x3 => show Answers (execFlt x1 x2 x3 s) from h.fp2
  | .fle x1 x2 x3 => show Answers (execFle x1 x2 x3 s) from h.fp2
  | .fclass x1 x2 => show Answers (execFclass x1 x2 s) from h.fp1
  | .fcvti x1 x2 x3 => show Answers (execFcvti x1 x2 x3 s) from h.fp1
  | .fcvtf .. => answers_execFcvtf h
  | .ld x1 x2 x3 x4 => show Answers (execLd x1 x2 x3 x4 s) from h.ldAt
  | .ldLit x1 x2 x3 x4 => show Answers (execLdLit x1 x2 x3 x4 s) from h.ldAt
  | .ldP .. => answers_execLdP h
  | .st x1 x2 x3 x4 => show Answers (execSt x1 x2 x3 x4 s) from h.stAt
  | .stLit x1 x2 x3 x4 => show Answers (execStLit x1 x2 x3 x4 s) from h.stAt
  | .stP .. => answers_execStP h
  | .ldx x1 x2 x3 x4 x5 x6 => show Answers (execLdx x1 x2 x3 x4 x5 x6 s) from h.ldxAt
  | .ldxLit x1 x2 x3 x4 x5 x6 => show Answers (execLdxLit x1 x2 x3 x4 x5 x6 s) from h.ldxAt
  | .stx x1 x2 x3 x4 x5 x6 => show Answers (execStx x1 x2 x3 x4 x5 x6 s) from h.stxAt
  | .stxLit x1 x2 x3 x4 x5 x6 => show Answers (execStxLit x1 x2 x3 x4 x5 x6 s) from h.stxAt
  | .amoAdd x1 x2 x3 x4 x5 => show Answers (execAmoAdd x1 x2 x3 x4 x5 s) from h.amo3
  | .amoAnd x1 x2 x3 x4 x5 => show Answers (execAmoAnd x1 x2 x3 x4 x5 s) from h.amo3
  | .amoOr x1 x2 x3 x4 x5 => show Answers (execAmoOr x1 x2 x3 x4 x5 s) from h.amo3
  | .amoXor x1 x2 x3 x4 x5 => show Answers (execAmoXor x1 x2 x3 x4 x5 s) from h.amo3
  | .amoMin x1 x2 x3 x4 x5 => show Answers (execAmoMin x1 x2 x3 x4 x5 s) from h.amo3
  | .amoMax x1 x2 x3 x4 x5 => show Answers (execAmoMax x1 x2 x3 x4 x5 s) from h.amo3
  | .amoMinu x1 x2 x3 x4 x5 => show Answers (execAmoMinu x1 x2 x3 x4 x5 s) from h.amo3
  | .amoMaxu x1 x2 x3 x4 x5 => show Answers (execAmoMaxu x1 x2 x3 x4 x5 s) from h.amo3
  | .amoSwap x1 x2 x3 x4 x5 => show Answers (execAmoSwap x1 x2 x3 x4 x5 s) from h.amo3
  | .amoFadd x1 x2 x3 x4 => show Answers (execAmoFadd x1 x2 x3 x4 s) from h.amo3
  | .amoCas .. => answers_execAmoCas h
  | .fenceImem => answers_execFenceImem h
  | .fenceExt => answers_execFenceExt h
  | .discard .. => answers_execDiscard h
  | .dpref .. => answers_execDpref h
  | .ipref .. => answers_execIpref h
  | .beq x1 x2 x3 => show Answers (execBeq x1 x2 x3 s) from h.branch
  | .beqExt x1 x2 x3 => show Answers (execBeqExt x1 x2 x3 s) from h.branch
  | .beqLit x1 x2 x3 => show Answers (execBeqLit x1 x2 x3 s) from h.branch
  | .bne x1 x2 x3 => show Answers (execBne x1 x2 x3 s) from h.branch
  | .bneExt x1 x2 x3 => show Answers (execBneExt x1 x2 x3 s) from h.branch
  | .bneLit x1 x2 x3 => show Answers (execBneLit x1 x2 x3 s) from h.branch
  | .blt x1 x2 x3 => show Answers (execBlt x1 x2 x3 s) from h.branch
  | .bltExt x1 x2 x3 => show Answers (execBltExt x1 x2 x3 s) from h.branch
  | .bltLit x1 x2 x3 => show Answers (execBltLit x1 x2 x3 s) from h.branch
  | .bge x1 x2 x3 => show Answers (execBge x1 x2 x3 s) from h.branch
  | .bgeExt x1 x2 x3 => show Answers (execBgeExt x1 x2 x3 s) from h.branch
  | .bgeLit x1 x2 x3 => show Answers (execBgeLit x1 x2 x3 s) from h.branch
  | .bltu x1 x2 x3 => show Answers (execBltu x1 x2 x3 s) from h.branch
  | .bltuExt x1 x2 x3 => show Answers (execBltuExt x1 x2 x3 s) from h.branch
  | .bltuLit x1 x2 x3 => show Answers (execBltuLit x1 x2 x3 s) from h.branch
  | .bgeu x1 x2 x3 => show Answers (execBgeu x1 x2 x3 s) from h.branch
  | .bgeuExt x1 x2 x3 => show Answers (execBgeuExt x1 x2 x3 s) from h.branch
  | .bgeuLit x1 x2 x3 => show Answers (execBgeuLit x1 x2 x3 s) from h.branch
  | .b .. => answers_execB h
  | .bLit .. => answers_execBLit h
  | .bl .. => answers_execBl h
  | .blLit .. => answers_execBlLit h
  | .br .. => answers_execBr h
  | .blr .. => answers_execBlr h
  | .ret => answers_execRet h
  | .loop .. => answers_execLoop h
  | .start .. => answers_execStart h
  | .join .. => answers_execJoin h
  | .endc .. => answers_execEndc h
  | .yield => answers_execYield h
  | .trap .. => answers_execTrap h
  | .brk => answers_execBrk h
  | .tret => answers_execTret h
  | .rdsr .. => answers_execRdsr h
  | .wrsr .. => answers_execWrsr h
  | .rdtime .. => answers_execRdtime h
  | .vld x1 x2 x3 x4 x5 => show Answers (execVld x1 x2 x3 x4 x5 s) from h.vldAt
  | .vldLit x1 x2 x3 x4 x5 => show Answers (execVldLit x1 x2 x3 x4 x5 s) from h.vldAt
  | .vldP x1 x2 x3 x4 x5 => show Answers (execVldP x1 x2 x3 x4 x5 s) from h.vldPAt
  | .vldPLit x1 x2 x3 x4 x5 => show Answers (execVldPLit x1 x2 x3 x4 x5 s) from h.vldPAt
  | .vlds x1 x2 x3 x4 x5 x6 => show Answers (execVlds x1 x2 x3 x4 x5 x6 s) from h.vldsAt
  | .vldsLit x1 x2 x3 x4 x5 x6 => show Answers (execVldsLit x1 x2 x3 x4 x5 x6 s) from h.vldsAt
  | .vldx x1 x2 x3 x4 x5 x6 x7 => show Answers (execVldx x1 x2 x3 x4 x5 x6 x7 s) from h.vldxAt
  | .vldxLit x1 x2 x3 x4 x5 x6 x7 => show Answers (execVldxLit x1 x2 x3 x4 x5 x6 x7 s) from h.vldxAt
  | .vldb x1 x2 x3 x4 x5 => show Answers (execVldb x1 x2 x3 x4 x5 s) from h.vldbAt
  | .vldbLit x1 x2 x3 x4 x5 => show Answers (execVldbLit x1 x2 x3 x4 x5 s) from h.vldbAt
  | .vst x1 x2 x3 x4 x5 => show Answers (execVst x1 x2 x3 x4 x5 s) from h.vldAt
  | .vstLit x1 x2 x3 x4 x5 => show Answers (execVstLit x1 x2 x3 x4 x5 s) from h.vldAt
  | .vstP x1 x2 x3 x4 x5 => show Answers (execVstP x1 x2 x3 x4 x5 s) from h.vldPAt
  | .vstPLit x1 x2 x3 x4 x5 => show Answers (execVstPLit x1 x2 x3 x4 x5 s) from h.vldPAt
  | .vsts x1 x2 x3 x4 x5 x6 => show Answers (execVsts x1 x2 x3 x4 x5 x6 s) from h.vldsAt
  | .vstsLit x1 x2 x3 x4 x5 x6 => show Answers (execVstsLit x1 x2 x3 x4 x5 x6 s) from h.vldsAt
  | .vstx x1 x2 x3 x4 x5 x6 x7 => show Answers (execVstx x1 x2 x3 x4 x5 x6 x7 s) from h.vldxAt
  | .vstxLit x1 x2 x3 x4 x5 x6 x7 => show Answers (execVstxLit x1 x2 x3 x4 x5 x6 x7 s) from h.vldxAt
  | .vadd x1 x2 x3 x4 x5 => show Answers (execVadd x1 x2 x3 x4 x5 s) from h.valu
  | .vaddExt x1 x2 x3 x4 x5 x6 => show Answers (execVaddExt x1 x2 x3 x4 x5 x6 s) from h.valu
  | .vsub x1 x2 x3 x4 x5 => show Answers (execVsub x1 x2 x3 x4 x5 s) from h.valu
  | .vsubExt x1 x2 x3 x4 x5 x6 => show Answers (execVsubExt x1 x2 x3 x4 x5 x6 s) from h.valu
  | .vmul x1 x2 x3 x4 x5 => show Answers (execVmul x1 x2 x3 x4 x5 s) from h.valu
  | .vmulExt x1 x2 x3 x4 x5 x6 => show Answers (execVmulExt x1 x2 x3 x4 x5 x6 s) from h.valu
  | .vmin x1 x2 x3 x4 x5 => show Answers (execVmin x1 x2 x3 x4 x5 s) from h.valu
  | .vminExt x1 x2 x3 x4 x5 => show Answers (execVminExt x1 x2 x3 x4 x5 s) from h.valu
  | .vmax x1 x2 x3 x4 x5 => show Answers (execVmax x1 x2 x3 x4 x5 s) from h.valu
  | .vmaxExt x1 x2 x3 x4 x5 => show Answers (execVmaxExt x1 x2 x3 x4 x5 s) from h.valu
  | .vand x1 x2 x3 x4 x5 => show Answers (execVand x1 x2 x3 x4 x5 s) from h.valu
  | .vandExt x1 x2 x3 x4 x5 => show Answers (execVandExt x1 x2 x3 x4 x5 s) from h.valu
  | .vor x1 x2 x3 x4 x5 => show Answers (execVor x1 x2 x3 x4 x5 s) from h.valu
  | .vorExt x1 x2 x3 x4 x5 => show Answers (execVorExt x1 x2 x3 x4 x5 s) from h.valu
  | .vxor x1 x2 x3 x4 x5 => show Answers (execVxor x1 x2 x3 x4 x5 s) from h.valu
  | .vxorExt x1 x2 x3 x4 x5 => show Answers (execVxorExt x1 x2 x3 x4 x5 s) from h.valu
  | .vandn x1 x2 x3 x4 x5 => show Answers (execVandn x1 x2 x3 x4 x5 s) from h.valu
  | .vandnExt x1 x2 x3 x4 x5 => show Answers (execVandnExt x1 x2 x3 x4 x5 s) from h.valu
  | .vshl x1 x2 x3 x4 x5 => show Answers (execVshl x1 x2 x3 x4 x5 s) from h.valu
  | .vshlExt x1 x2 x3 x4 x5 => show Answers (execVshlExt x1 x2 x3 x4 x5 s) from h.valu
  | .vshr x1 x2 x3 x4 x5 => show Answers (execVshr x1 x2 x3 x4 x5 s) from h.valu
  | .vshrExt x1 x2 x3 x4 x5 => show Answers (execVshrExt x1 x2 x3 x4 x5 s) from h.valu
  | .vsra x1 x2 x3 x4 x5 => show Answers (execVsra x1 x2 x3 x4 x5 s) from h.valu
  | .vsraExt x1 x2 x3 x4 x5 => show Answers (execVsraExt x1 x2 x3 x4 x5 s) from h.valu
  | .vabs x1 x2 x3 x4 => show Answers (execVabs x1 x2 x3 x4 s) from h.valu1
  | .vabsExt x1 x2 x3 x4 => show Answers (execVabsExt x1 x2 x3 x4 s) from h.valu1
  | .vneg x1 x2 x3 x4 => show Answers (execVneg x1 x2 x3 x4 s) from h.valu1
  | .vnegExt x1 x2 x3 x4 => show Answers (execVnegExt x1 x2 x3 x4 s) from h.valu1
  | .vmov x1 x2 x3 x4 => show Answers (execVmov x1 x2 x3 x4 s) from h.valu1
  | .vmovExt x1 x2 x3 x4 => show Answers (execVmovExt x1 x2 x3 x4 s) from h.valu1
  | .vsel x1 x2 x3 x4 x5 => show Answers (execVsel x1 x2 x3 x4 x5 s) from h.vselAt
  | .vselExt x1 x2 x3 x4 x5 => show Answers (execVselExt x1 x2 x3 x4 x5 s) from h.vselAt
  | .vminu x1 x2 x3 x4 x5 => show Answers (execVminu x1 x2 x3 x4 x5 s) from h.valu
  | .vminuExt x1 x2 x3 x4 x5 => show Answers (execVminuExt x1 x2 x3 x4 x5 s) from h.valu
  | .vmaxu x1 x2 x3 x4 x5 => show Answers (execVmaxu x1 x2 x3 x4 x5 s) from h.valu
  | .vmaxuExt x1 x2 x3 x4 x5 => show Answers (execVmaxuExt x1 x2 x3 x4 x5 s) from h.valu
  | .vmulh x1 x2 x3 x4 x5 => show Answers (execVmulh x1 x2 x3 x4 x5 s) from h.valu
  | .vmulhExt x1 x2 x3 x4 x5 => show Answers (execVmulhExt x1 x2 x3 x4 x5 s) from h.valu
  | .vmulhu x1 x2 x3 x4 x5 => show Answers (execVmulhu x1 x2 x3 x4 x5 s) from h.valu
  | .vmulhuExt x1 x2 x3 x4 x5 => show Answers (execVmulhuExt x1 x2 x3 x4 x5 s) from h.valu
  | .vavg x1 x2 x3 x4 x5 => show Answers (execVavg x1 x2 x3 x4 x5 s) from h.valu
  | .vavgExt x1 x2 x3 x4 x5 => show Answers (execVavgExt x1 x2 x3 x4 x5 s) from h.valu
  | .vadds x1 x2 x3 x4 x5 => show Answers (execVadds x1 x2 x3 x4 x5 s) from h.valu
  | .vaddsExt x1 x2 x3 x4 x5 => show Answers (execVaddsExt x1 x2 x3 x4 x5 s) from h.valu
  | .vsubs x1 x2 x3 x4 x5 => show Answers (execVsubs x1 x2 x3 x4 x5 s) from h.valu
  | .vsubsExt x1 x2 x3 x4 x5 => show Answers (execVsubsExt x1 x2 x3 x4 x5 s) from h.valu
  | .vaddsu x1 x2 x3 x4 x5 => show Answers (execVaddsu x1 x2 x3 x4 x5 s) from h.valu
  | .vaddsuExt x1 x2 x3 x4 x5 => show Answers (execVaddsuExt x1 x2 x3 x4 x5 s) from h.valu
  | .vsubsu x1 x2 x3 x4 x5 => show Answers (execVsubsu x1 x2 x3 x4 x5 s) from h.valu
  | .vsubsuExt x1 x2 x3 x4 x5 => show Answers (execVsubsuExt x1 x2 x3 x4 x5 s) from h.valu
  | .vcmpEq x1 x2 x3 x4 x5 => show Answers (execVcmpEq x1 x2 x3 x4 x5 s) from h.vcmpAt
  | .vcmpEqExt x1 x2 x3 x4 x5 => show Answers (execVcmpEqExt x1 x2 x3 x4 x5 s) from h.vcmpAt
  | .vcmpNe x1 x2 x3 x4 x5 => show Answers (execVcmpNe x1 x2 x3 x4 x5 s) from h.vcmpAt
  | .vcmpNeExt x1 x2 x3 x4 x5 => show Answers (execVcmpNeExt x1 x2 x3 x4 x5 s) from h.vcmpAt
  | .vcmpLt x1 x2 x3 x4 x5 => show Answers (execVcmpLt x1 x2 x3 x4 x5 s) from h.vcmpAt
  | .vcmpLtExt x1 x2 x3 x4 x5 => show Answers (execVcmpLtExt x1 x2 x3 x4 x5 s) from h.vcmpAt
  | .vcmpLe x1 x2 x3 x4 x5 => show Answers (execVcmpLe x1 x2 x3 x4 x5 s) from h.vcmpAt
  | .vcmpLeExt x1 x2 x3 x4 x5 => show Answers (execVcmpLeExt x1 x2 x3 x4 x5 s) from h.vcmpAt
  | .vcmpLtu x1 x2 x3 x4 x5 => show Answers (execVcmpLtu x1 x2 x3 x4 x5 s) from h.vcmpAt
  | .vcmpLtuExt x1 x2 x3 x4 x5 => show Answers (execVcmpLtuExt x1 x2 x3 x4 x5 s) from h.vcmpAt
  | .vcmpLeu x1 x2 x3 x4 x5 => show Answers (execVcmpLeu x1 x2 x3 x4 x5 s) from h.vcmpAt
  | .vcmpLeuExt x1 x2 x3 x4 x5 => show Answers (execVcmpLeuExt x1 x2 x3 x4 x5 s) from h.vcmpAt
  | .vclass x1 x2 x3 x4 => show Answers (execVclass x1 x2 x3 x4 s) from h.valu1
  | .vclassExt x1 x2 x3 x4 => show Answers (execVclassExt x1 x2 x3 x4 s) from h.valu1
  | .vfma x1 x2 x3 x4 x5 => show Answers (execVfma x1 x2 x3 x4 x5 s) from h.vfmaAt
  | .vfmaExt x1 x2 x3 x4 x5 x6 => show Answers (execVfmaExt x1 x2 x3 x4 x5 x6 s) from h.vfmaAt
  | .vfms x1 x2 x3 x4 x5 => show Answers (execVfms x1 x2 x3 x4 x5 s) from h.vfmaAt
  | .vfmsExt x1 x2 x3 x4 x5 x6 => show Answers (execVfmsExt x1 x2 x3 x4 x5 x6 s) from h.vfmaAt
  | .vfnma x1 x2 x3 x4 x5 => show Answers (execVfnma x1 x2 x3 x4 x5 s) from h.vfmaAt
  | .vfnmaExt x1 x2 x3 x4 x5 x6 => show Answers (execVfnmaExt x1 x2 x3 x4 x5 x6 s) from h.vfmaAt
  | .vfnms x1 x2 x3 x4 x5 => show Answers (execVfnms x1 x2 x3 x4 x5 s) from h.vfmaAt
  | .vfnmsExt x1 x2 x3 x4 x5 x6 => show Answers (execVfnmsExt x1 x2 x3 x4 x5 x6 s) from h.vfmaAt
  | .vdot4 x1 x2 x3 x4 x5 => show Answers (execVdot4 x1 x2 x3 x4 x5 s) from h.vdotAt
  | .vdot4Ext x1 x2 x3 x4 x5 => show Answers (execVdot4Ext x1 x2 x3 x4 x5 s) from h.vdotAt
  | .vdot2 x1 x2 x3 x4 x5 => show Answers (execVdot2 x1 x2 x3 x4 x5 s) from h.vdotAt
  | .vdot2Ext x1 x2 x3 x4 x5 x6 => show Answers (execVdot2Ext x1 x2 x3 x4 x5 x6 s) from h.vdotAt
  | .vexp2 x1 x2 x3 x4 => show Answers (execVexp2 x1 x2 x3 x4 s) from h.spec1
  | .vexp2Ext x1 x2 x3 x4 => show Answers (execVexp2Ext x1 x2 x3 x4 s) from h.spec1
  | .vlog2 x1 x2 x3 x4 => show Answers (execVlog2 x1 x2 x3 x4 s) from h.spec1
  | .vlog2Ext x1 x2 x3 x4 => show Answers (execVlog2Ext x1 x2 x3 x4 s) from h.spec1
  | .vrcp x1 x2 x3 x4 => show Answers (execVrcp x1 x2 x3 x4 s) from h.valu1
  | .vrcpExt x1 x2 x3 x4 => show Answers (execVrcpExt x1 x2 x3 x4 s) from h.valu1
  | .vrsqrt x1 x2 x3 x4 => show Answers (execVrsqrt x1 x2 x3 x4 s) from h.valu1
  | .vrsqrtExt x1 x2 x3 x4 => show Answers (execVrsqrtExt x1 x2 x3 x4 s) from h.valu1
  | .vsqrt x1 x2 x3 x4 => show Answers (execVsqrt x1 x2 x3 x4 s) from h.valu1
  | .vsqrtExt x1 x2 x3 x4 => show Answers (execVsqrtExt x1 x2 x3 x4 s) from h.valu1
  | .vtanh x1 x2 x3 x4 => show Answers (execVtanh x1 x2 x3 x4 s) from h.spec1
  | .vtanhExt x1 x2 x3 x4 => show Answers (execVtanhExt x1 x2 x3 x4 s) from h.spec1
  | .vsigm x1 x2 x3 x4 => show Answers (execVsigm x1 x2 x3 x4 s) from h.spec1
  | .vsigmExt x1 x2 x3 x4 => show Answers (execVsigmExt x1 x2 x3 x4 s) from h.spec1
  | .vdiv x1 x2 x3 x4 x5 => show Answers (execVdiv x1 x2 x3 x4 x5 s) from h.valu
  | .vdivExt x1 x2 x3 x4 x5 => show Answers (execVdivExt x1 x2 x3 x4 x5 s) from h.valu
  | .vcvt .. => answers_execVcvt h
  | .vpackgx .. => answers_execVpackgx h
  | .vunpackgx .. => answers_execVunpackgx h
  | .vperm x1 x2 x3 x4 x5 => show Answers (execVperm x1 x2 x3 x4 x5 s) from h.perm2
  | .vpermExt x1 x2 x3 x4 x5 => show Answers (execVpermExt x1 x2 x3 x4 x5 s) from h.perm2
  | .vslideup x1 x2 x3 x4 x5 => show Answers (execVslideup x1 x2 x3 x4 x5 s) from h.slideUp
  | .vslideupExt x1 x2 x3 x4 x5 => show Answers (execVslideupExt x1 x2 x3 x4 x5 s) from h.slideUp
  | .vslidedn x1 x2 x3 x4 x5 => show Answers (execVslidedn x1 x2 x3 x4 x5 s) from h.slideDn
  | .vslidednExt x1 x2 x3 x4 x5 => show Answers (execVslidednExt x1 x2 x3 x4 x5 s) from h.slideDn
  | .vbcast x1 x2 x3 x4 => show Answers (execVbcast x1 x2 x3 x4 s) from h.bcast
  | .vbcastExt x1 x2 x3 x4 => show Answers (execVbcastExt x1 x2 x3 x4 s) from h.bcast
  | .vext x1 x2 x3 x4 => show Answers (execVext x1 x2 x3 x4 s) from h.vextAt
  | .vextExt x1 x2 x3 x4 => show Answers (execVextExt x1 x2 x3 x4 s) from h.vextAt
  | .vins x1 x2 x3 x4 x5 => show Answers (execVins x1 x2 x3 x4 x5 s) from h.vinsAt
  | .vinsExt x1 x2 x3 x4 x5 => show Answers (execVinsExt x1 x2 x3 x4 x5 s) from h.vinsAt
  | .vzip x1 x2 x3 x4 x5 => show Answers (execVzip x1 x2 x3 x4 x5 s) from h.perm2
  | .vzipExt x1 x2 x3 x4 x5 => show Answers (execVzipExt x1 x2 x3 x4 x5 s) from h.perm2
  | .vunzip x1 x2 x3 x4 => show Answers (execVunzip x1 x2 x3 x4 s) from h.perm1
  | .vunzipExt x1 x2 x3 x4 => show Answers (execVunzipExt x1 x2 x3 x4 s) from h.perm1
  | .vrev x1 x2 x3 x4 => show Answers (execVrev x1 x2 x3 x4 s) from h.perm1
  | .vrevExt x1 x2 x3 x4 => show Answers (execVrevExt x1 x2 x3 x4 s) from h.perm1
  | .vscanAdd x1 x2 x3 x4 => show Answers (execVscanAdd x1 x2 x3 x4 s) from h.vscanAt
  | .vscanAddExt x1 x2 x3 x4 x5 => show Answers (execVscanAddExt x1 x2 x3 x4 x5 s) from h.vscanAt
  | .vscanMax x1 x2 x3 x4 => show Answers (execVscanMax x1 x2 x3 x4 s) from h.vscanAt
  | .vscanMaxExt x1 x2 x3 x4 x5 => show Answers (execVscanMaxExt x1 x2 x3 x4 x5 s) from h.vscanAt
  | .vkeep2 x1 x2 x3 x4 => show Answers (execVkeep2 x1 x2 x3 x4 s) from h.keep2
  | .vkeep2Ext x1 x2 x3 x4 => show Answers (execVkeep2Ext x1 x2 x3 x4 s) from h.keep2
  | .vredAdd x1 x2 x3 x4 => show Answers (execVredAdd x1 x2 x3 x4 s) from h.vredAt
  | .vredAddExt x1 x2 x3 x4 x5 => show Answers (execVredAddExt x1 x2 x3 x4 x5 s) from h.vredAt
  | .vredMax x1 x2 x3 x4 => show Answers (execVredMax x1 x2 x3 x4 s) from h.vredAt
  | .vredMaxExt x1 x2 x3 x4 => show Answers (execVredMaxExt x1 x2 x3 x4 s) from h.vredAt
  | .vredMin x1 x2 x3 x4 => show Answers (execVredMin x1 x2 x3 x4 s) from h.vredAt
  | .vredMinExt x1 x2 x3 x4 => show Answers (execVredMinExt x1 x2 x3 x4 s) from h.vredAt
  | .mand x1 x2 x3 => show Answers (execMand x1 x2 x3 s) from h.mask3
  | .mor x1 x2 x3 => show Answers (execMor x1 x2 x3 s) from h.mask3
  | .mxor x1 x2 x3 => show Answers (execMxor x1 x2 x3 s) from h.mask3
  | .mandn x1 x2 x3 => show Answers (execMandn x1 x2 x3 s) from h.mask3
  | .mnot .. => answers_execMnot h
  | .mpopc .. => answers_execMpopc h
  | .mfirst .. => answers_execMfirst h
  | .mfromx .. => answers_execMfromx h
  | .mtox .. => answers_execMtox h
  | .mlanes .. => answers_execMlanes h
  | .sadd x1 x2 x3 x4 => show Answers (execSadd x1 x2 x3 x4 s) from h.shape3
  | .ssub x1 x2 x3 x4 => show Answers (execSsub x1 x2 x3 x4 s) from h.shape3
  | .smul x1 x2 x3 x4 => show Answers (execSmul x1 x2 x3 x4 s) from h.shape3
  | .sfma x1 x2 x3 x4 => show Answers (execSfma x1 x2 x3 x4 s) from h.shape3
  | .smin x1 x2 x3 => show Answers (execSmin x1 x2 x3 s) from h.shape3
  | .smax x1 x2 x3 => show Answers (execSmax x1 x2 x3 s) from h.shape3
  | .scvt x1 x2 x3 => show Answers (execScvt x1 x2 x3 s) from h.shapeForm fun _ _ => ShOp.step_keeps
  | .scopy x1 x2 => show Answers (execScopy x1 x2 s) from h.shapeForm fun _ _ => ShOp.step_keeps
  | .sexp2 x1 x2 => show Answers (execSexp2 x1 x2 s) from h.shapeForm fun _ _ => ShOp.step_keeps
  | .srsum x1 x2 x3 => show Answers (execSrsum x1 x2 x3 s) from h.shapeForm fun _ _ => RedOp.step_keeps
  | .srmax x1 x2 => show Answers (execSrmax x1 x2 s) from h.shapeForm fun _ _ => RedOp.step_keeps
  | .sbcast x1 x2 => show Answers (execSbcast x1 x2 s) from h.shapeForm fun _ _ => ShOp.step_keeps
  | .shpCheck .. => answers_execShpCheck h
  | .postMx x1 x2 => show Answers (execPostMx x1 x2 s) from h.post
  | .postCp x1 x2 => show Answers (execPostCp x1 x2 s) from h.post
  | .fwait .. => answers_execFwait h
  | .ftest .. => answers_execFtest h
  | .fcancel .. => answers_execFcancel h
  | .fwaitany .. => answers_execFwaitany h
  | .fmovx .. => answers_execFmovx h
  | .xmovf .. => answers_execXmovf h
  | .fenceCards => answers_execFenceCards h
  | .barInit x1 x2 => show Answers (execBarInit x1 x2 s) from h.barFn
  | .barInitImm x1 x2 => show Answers (execBarInitImm x1 x2 s) from h.barFn
  | .barArrive x1 => show Answers (execBarArrive x1 s) from h.barFn
  | .barDrop x1 => show Answers (execBarDrop x1 s) from h.barFn
  | .barWait .. => answers_execBarWait h
  | .barExpect x1 x2 => show Answers (execBarExpect x1 x2 s) from h.barFn
  | .barExpectImm x1 x2 => show Answers (execBarExpectImm x1 x2 s) from h.barFn
  | .barTest .. => answers_execBarTest h
  | .barLink .. => answers_execBarLink h
  | .pcap .. => answers_execPcap h
  | .pcapr .. => answers_execPcapr h
  | .pcall .. => answers_execPcall h
  | .pspawn .. => answers_execPspawn h
  | .psend .. => answers_execPsend h
  | .pdup .. => answers_execPdup h
  | .prel .. => answers_execPrel h
  | .pget .. => answers_execPget h
  | .pexport .. => answers_execPexport h
  | .pimport .. => answers_execPimport h
  | .segMake .. => answers_execSegMake h
  | .segAttach .. => answers_execSegAttach h
  | .segDetach .. => answers_execSegDetach h
  | .segPublish .. => answers_execSegPublish h
  | .segEvict .. => answers_execSegEvict h
  | .segDrop .. => answers_execSegDrop h
  | .segQuery .. => answers_execSegQuery h
  | .ibxTake => answers_execIbxTake h
  | .taskEnd .. => answers_execTaskEnd h
  | .taskSpawn x1 x2 => show Answers (execTaskSpawn x1 x2 s) from h.spawnAt
  | .taskSpawnExt x1 x2 x3 => show Answers (execTaskSpawnExt x1 x2 x3 s) from h.spawnAt
  | .taskSpawnLit x1 x2 x3 => show Answers (execTaskSpawnLit x1 x2 x3 s) from h.spawnAt
  | .rngOpen .. => answers_execRngOpen h
  | .rngTake .. => answers_execRngTake h
  | .rngClose .. => answers_execRngClose h
  | .gangLead => answers_execGangLead h
  | .gangFollow => answers_execGangFollow h
  | .gangJoin .. => answers_execGangJoin h
  | .gangLeave => answers_execGangLeave h
  | .give x1 x2 => show Answers (execGive x1 x2 s) from h.giveTo
  | .giveExt x1 x2 x3 x4 => show Answers (execGiveExt x1 x2 x3 x4 s) from h.giveTo
  | .accept .. => answers_execAccept h
  | .decline .. => answers_execDecline h
  | .lend x1 x2 x3 x4 x5 x6 x7 => show Answers (execLend x1 x2 x3 x4 x5 x6 x7 s) from h.lendTo
  | .lendLit x1 x2 x3 x4 x5 x6 x7 => show Answers (execLendLit x1 x2 x3 x4 x5 x6 x7 s) from h.lendTo
  | .recall .. => answers_execRecall h
  | .reclaim .. => answers_execReclaim h
  | .ownQ .. => answers_execOwnQ h
  | .mint .. => answers_execMint h
  | .retire => answers_execRetire h
  | .ownHook .. => answers_execOwnHook h
  | .kread .. => answers_execKread h
  | .kwrite .. => answers_execKwrite h
  | .undecodableWord .. => answers_execUndecodableWord h
  | .resumeComplete .. => answers_execResumeComplete h
end Sys2Proof.Machine
end

section
/-! SUPPORT. The canonical form (O60): the issue of instructions. -/

namespace Sys2Proof.Machine

variable {s : State} {c : Core}

theorem State.canonical.dropForwards {k} (h : s.canonical) : (s.dropForwards k).canonical := h
theorem State.canonical.gangDetach {m} (h : s.canonical) : (s.gangDetach m).canonical :=
  (h.unmask.updCoreAt fun _ hc => by exact hc)
theorem State.canonical.afterLeader {k bs t} (ht : t.canonical) : (s.afterLeader k bs t).canonical :=
  State.canonical.ite ht (State.canonical.ite ht.detachAll ht)
theorem State.canonical.afterFollower {k bs pc t} (ht : t.canonical) : (s.afterFollower k bs pc t).canonical :=
  State.canonical.ite ht.dropForwards.gangDetach ht.dropForwards
/-- An attempt: what executes answers a state in canonical form, and so does one that could not fetch yet. -/
theorem State.canonical.attempt (h : s.canonical) :
    Gives (fun r => Answers r.2) s.attempt ∧ ∀ t, s.attempt = .error t → t.canonical := by
  have hn := h.nextInstr
  unfold State.attempt
  split
  · next e => exact ⟨.ok (answers_exec (hn.of_eq e)), fun _ e => by cases e⟩
  · next c v _ =>
    have hx : Answers (exec (.undecodableWord c v) ((s.walkFault c v).parkShape s.cur s.ctx)) := answers_exec
      h.walkFault.parkShape
    exact ⟨.ok hx, fun _ e => by cases e⟩
  · next e => exact ⟨.error, by rintro _ ⟨⟩; exact hn.2 _ _ e⟩

theorem State.canonical.issueCtx {k j} (h : s.canonical) : Answers (s.issueCtx k j).1 := by
  unfold State.issueCtx
  extract_lets t u
  have ht : t.canonical := h
  have hu : u.canonical := .ite ht.dropForwards ht
  clear_value u t
  split
  · split
    · exact .next ht
    · have hx {i : Instr} : Answers (exec i t) := answers_exec ht
      split
      · next e => exact .next (State.canonical.ite (State.canonical.afterFollower (hx.of_eq e)) (hx.of_eq e))
      · exact hx
  split
  · exact .next ht
  · obtain ⟨hok, herr⟩ := hu.attempt
    split
    · next e => exact .next (herr _ e)
    · next e =>
      have hv : State.canonical _ := (hok.of_eq e).of_eq rfl
      exact .next (State.canonical.ite (State.canonical.afterLeader hv) hv)
    · next e => exact hok.of_eq e

theorem State.canonical.issueFrom {k still js} (h : s.canonical) : Answers (s.issueFrom k still js) := by
  induction js generalizing s with
  | nil => exact .next (h.updCoreAt fun _ hc => by exact hc)
  | cons j js ih =>
    unfold State.issueFrom
    have hi := h.issueCtx (k := k) (j := j)
    split
    · exact ih h
    split
    · next e =>
      have ht : State.canonical _ := hi.of_eq (congrArg Prod.fst e)
      exact .next (ht.updCoreAt fun _ hc => by exact hc)
    · next e => exact ih (hi.of_eq (congrArg Prod.fst e))
    · next e =>
      rw [e] at hi
      exact hi

theorem State.canonical.issueCore {k} (h : s.canonical) : Answers (s.issueCore k) :=
  .ite (.next h) (.ite (.next h.deadlineAbort) (h.updCoreAt fun _ hc => by exact hc).issueFrom)
theorem State.canonical.turn {x} (h : s.canonical) : Answers (s.turn x) := by
  simp only [State.turn]
  split
  · exact h.issueCore
  · exact .ite (answers_exec h) (.next h)
  · exact h.barRead
  · exact h.barWrite
  · exact .next h

theorem State.canonical.pass (h : s.canonical) : s.pass.canonical := h.ungate.voidHooks.postOvf.landExt.elapse
theorem Answers.passed {o} (h : Answers o) : Answers (passed o) := by
  cases o with
  | next s => exact .next (h.of_eq rfl).pass
  | fault r => exact fun _ e => by cases e
  | refused r => exact fun _ e => by cases e

theorem State.canonical.move (h : s.canonical) : Answers s.move := by
  unfold State.move
  split
  · exact .passed (State.canonical.turn h)
  split
  · exact answers_exec h
  · exact .passed h.turn
end Sys2Proof.Machine
end

section
open Sys2Proof Sys2Proof.Machine

/-- Settles O60: every instruction and every event answers a state in canonical form where it answers one. -/
theorem canonicalKept : Obligations.CanonicalKept :=
  fun _ _ h e => (State.canonical.move h).of_eq e
end

section
/-! SUPPORT. Views of the cores that writes of memory, counters, moves of segments, gangs and links of barriers leave as they are. -/

namespace Sys2Proof.Machine

/-- The core `c`, with what those may change taken from `d`. -/
def Core.movedAs (c d : Core) : Core :=
  { c with ctxs := d.ctxs, pool := d.pool, written := d.written, wbuf := d.wbuf, cnt := d.cnt, touched := d.touched
           attach := d.attach, kpts := d.kpts, gattached := d.gattached, gformed := d.gformed, gfollowed := d.gfollowed
           gleft := d.gleft, amask := d.amask, bars := d.bars, held := d.held }

/-- A view of a core in which nothing of that is seen. -/
def Core.Apart {α : Type} (v : Core → α) : Prop := ∀ c d : Core, v (c.movedAs d) = v c

/-- Every core of `t` is seen as that of `s` is. -/
def State.Keeps {α : Type} (v : Core → α) (s t : State) : Prop := ∀ k, v (t.coreAt k) = v (s.coreAt k)

namespace State.Keeps

variable {α β : Type} {v : Core → α} {s t u : State} {k : Nat} {g h : Seg}

theorem of_cores (e : t.cores = s.cores) : s.Keeps v t := fun k => by rw [State.coreAt, e]; rfl
theorem refl (s : State) : s.Keeps v s := fun _ => rfl
theorem trans (h : s.Keeps v t) (h' : t.Keeps v u) : s.Keeps v u := fun k => (h' k).trans (h k)
theorem ite {p : Prop} [Decidable p] (h : s.Keeps v t) (h' : s.Keeps v u) : s.Keeps v (if p then t else u) := by split <;> assumption
theorem foldl {f : State → β → State} (hf : ∀ (s : State) (b : β), s.Keeps v (f s b)) (l : List β) (s : State) :
    s.Keeps v (l.foldl f s) :=
  List.foldlRecOn (motive := s.Keeps v) l f (refl s) fun t h b _ => h.trans (hf t b)

theorem outsideWrites (s : State) : s.Keeps v s.outsideWrites := of_cores rfl
theorem outPut (s : State) (rs : List (Nat × List Byte)) : s.Keeps v (s.outPut rs) := .ite (refl s) (of_cores rfl)
theorem updSeg (s : State) (g h : Seg) : s.Keeps v (s.updSeg g h) := of_cores rfl
theorem removeSeg (s : State) (g : Seg) : s.Keeps v (s.removeSeg g) := of_cores rfl

theorem extAnswer (s : State) (wr : Bool) (p : Place) (a : Nat) : s.Keeps v (s.extAnswer wr p a).2 := by
  simp only [State.extAnswer]
  repeat' split
  all_goals exact of_cores rfl

/-! The control space holds nothing of a core (R322). -/

theorem ring (s : State) (i : Nat) (x : BitVec 32) : s.Keeps v (s.ring i x) := by
  simp only [State.ring]
  repeat' split
  all_goals exact of_cores rfl

theorem ctlStore (s : State) (o : Nat) (b : Blk) (off n img : Nat) : s.Keeps v (s.ctlStore o b off n img) := by
  cases b with
  | qslot i => exact .ite ((of_cores rfl).trans (ring _ i _)) (of_cores rfl)
  | mbpend | attest => exact .ite (of_cores rfl) (refl s)
  | dom | func | mailbox | logd | load | bucket => exact of_cores rfl

theorem ctlPut {o pa : Nat} {bs : List Byte} (h : s.ctlPut o pa bs = some t) : s.Keeps v t := by
  simp only [State.ctlPut] at h
  split at h
  · cases h
  · split at h
    · cases h
      exact List.foldlRecOn (motive := fun sb : State × List Byte => s.Keeps v sb.1) _ _ (refl s) fun _ h _ _ =>
        h.trans (ctlStore _ o _ _ _ _)
    · cases h

theorem ctlWrites {o : Nat} (rs : List (Nat × List Byte)) (h : s.ctlWrites o rs = some t) : s.Keeps v t := by
  induction rs generalizing s with
  | nil => cases h; exact refl _
  | cons r rs ih =>
    simp only [State.ctlWrites] at h
    split at h
    · next hput => exact (ctlPut hput).trans (ih h)
    · cases h

section
variable (hv : Core.Apart v)
include hv

theorem of_alike (h : s.Alike (fun _ => True) t) : s.Keeps v t := fun k => by
  rw [h.coreAt_eq k]
  exact hv (s.coreAt k) { s.coreAt k with cnt := (t.coreAt k).cnt }

/-- A core that is replaced by one which differs in what may change. -/
theorem updCoreAt (s : State) (k : Nat) {f : Core → Core} (hf : ∀ c, f c = c.movedAs (f c)) : s.Keeps v (s.updCoreAt k f) := fun m => by
  rw [coreAt_updCoreAt]
  split
  · rw [hf]; exact hv _ _
  · rfl

theorem updMe (s : State) (f : Ctx → Ctx) : s.Keeps v (s.updMe f) :=
  updCoreAt hv s s.cur (f := fun c => c.setCtx s.ctx (f s.me)) fun _ => rfl

/-! Writes. -/

theorem stampReads (s : State) (ls : List Nat) (pts : BitVec 64) : s.Keeps v (s.stampReads ls pts).2 := of_alike hv (.stampReads s ls pts)

theorem stampWrites (s : State) (ag : Ag) (ls : List Nat) (pts : BitVec 64) : s.Keeps v (s.stampWrites ag ls pts).2 :=
  of_alike hv (.stampWrites (fun _ _ => trivial) (fun _ _ _ _ => trivial) s pts)

theorem translate {ag : Ag} {acc : Acc} {a : Nat} {p : Place} (h : s.translate ag acc a = .ok (p, t)) : s.Keeps v t :=
  of_alike hv (.translate (fun _ => trivial) h)

theorem spanWrite (s : State) (ag : Ag) (rs : List (Nat × List Byte)) (pts : BitVec 64) : s.Keeps v (s.spanWrite ag rs pts).2 := by
  simp only [State.spanWrite]
  refine trans (trans ?_ (stampWrites hv _ ag _ pts)) (of_cores rfl)
  exact .ite (refl s) ((outsideWrites s).trans (outPut _ _))

theorem fmtBlock (s : State) (ag : Ag) (f : GxT) (bpa o : Nat) (bs : List (Option Byte)) (pts : BitVec 64) :
    s.Keeps v (s.fmtBlock ag f bpa o bs pts).2.1 := by
  simp only [State.fmtBlock]
  split
  · exact refl s
  · exact spanWrite hv s ag _ pts

theorem fmtWrite (s : State) (ag : Ag) (f : GxT) (pa o : Nat) (bs : List (Option Byte)) (pts : BitVec 64) :
    s.Keeps v (s.fmtWrite ag f pa o bs pts).2.1 :=
  List.foldlRecOn (motive := fun r : BitVec 64 × State × FFlags => s.Keeps v r.2.1) _ _ (refl s) fun _ h _ _ =>
    h.trans (fmtBlock hv _ ag f _ _ _ _)

theorem setRuns (s : State) (k : Nat) (rows : List Nat) (rs : List (Nat × List Byte)) :
    s.Keeps v (s.updCoreAt k fun c => c.setRuns rows rs) := fun m => by
  rw [coreAt_updCoreAt]
  split
  · rw [(setRuns_spec _ rows rs).1]; exact hv (s.coreAt m) (Core.accessedAs (s.coreAt m) ((s.coreAt m).setRuns rows rs))
  · rfl

theorem writePlace {ag : Ag} {p : Place} {a : Nat} {bs : List (Option Byte)} {pts : BitVec 64} {r : BitVec 64 × State × FFlags}
    (h : s.writePlace ag p a bs pts = .ok r) : s.Keeps v r.2.1 := by
  cases p with
  | pool off =>
    cases h
    exact ((stampWrites hv s ag _ pts).trans (setRuns hv _ _ _ _)).trans (of_cores rfl)
  | phys pa =>
    simp only [State.writePlace] at h
    split at h <;> cases h
    · exact (outsideWrites s).trans (outPut _ _)
    · exact (stampWrites hv s ag _ pts).trans (of_cores rfl)
  | ctl pa =>
    simp only [State.writePlace] at h
    split at h <;> cases h
    next hput => exact (ctlWrites _ hput).trans (stampWrites hv _ ag _ pts)
  | fmt f pa o =>
    cases h
    exact fmtWrite hv s ag f pa o bs pts

theorem writeAt {ag : Ag} {p : Place} {a : Nat} {bs : List (Option Byte)} {pts ts : BitVec 64} {f : FFlags}
    (h : s.writeAt ag p a bs pts = .ok (ts, t, f)) : s.Keeps v t := by
  rw [State.writeAt] at h
  cases hplace : s.writePlace ag p a bs (s.joinWalks pts) with
  | error e => rw [hplace] at h; cases h
  | ok r =>
    rw [hplace] at h
    cases h
    exact (writePlace hv hplace).trans (stampReads hv _ _ _)

theorem writeHome (is : List Nat) {pts ts : BitVec 64} (h : s.writeHome g is pts = .ok (ts, t)) : s.Keeps v t := by
  induction is generalizing s pts with
  | nil => cases h; exact refl _
  | cons i is ih =>
    simp only [State.writeHome] at h
    split at h
    · cases h
    next p s1 htr =>
    split at h
    · cases h
    next s2 hans =>
    split at h
    · cases h
    next hwrite =>
    have hext : s1.Keeps v s2 := by
      have := extAnswer (v := v) s1 true p (g.home.toNat + 128 * i)
      rwa [hans] at this
    exact ((((translate hv htr).trans hext).trans (stampReads hv s2 _ _)).trans (writeAt hv hwrite)).trans (ih h)

/-! Moves of segments (R231 to R237). -/

theorem evictSeg (h : s.evictSeg g = .ok t) : s.Keeps v t := by
  simp only [State.evictSeg] at h
  split at h
  · split at h <;> cases h
    next hhome => exact (writeHome hv _ hhome).trans (updSeg _ _ _)
  · cases h
    exact updSeg _ _ _

theorem lastDetach (s : State) (g : Seg) : s.Keeps v (s.lastDetach g) := by
  simp only [State.lastDetach]
  refine .ite (refl s) (.ite (removeSeg s g) (.ite ?_ (refl s)))
  split
  · next h => exact evictSeg hv h
  · exact updSeg _ _ _

theorem followHome (s : State) (k : Nat) (g : Seg) : s.Keeps v (s.followHome k g) :=
  .ite ((updCoreAt hv s k fun _ => rfl).trans (updMe hv _ _)) (updCoreAt hv s k fun _ => rfl)

theorem detach (s : State) (k : Nat) (a : Attach) : s.Keeps v (s.detach k a) := by
  have hloose : s.Keeps v (s.updCoreAt k fun c => { c with attach := c.attach.erase a }) := updCoreAt hv s k fun _ => rfl
  simp only [State.detach]
  split
  · exact hloose
  · exact hloose.trans (.ite (((updSeg _ _ _).trans (lastDetach hv _ _)).trans (followHome hv _ _ _)) ((updSeg _ _ _).trans (lastDetach hv _ _)))

theorem endTaskSegs (s : State) (k : Nat) : s.Keeps v (s.endTaskSegs k) := by
  simp only [State.endTaskSegs]
  refine trans (trans (foldl (fun s g => ?_) _ s) (of_cores rfl)) (foldl (fun s a => detach hv s k a) _ _)
  refine .ite (.ite (updSeg _ _ _) (removeSeg _ _)) (.ite ?_ (refl s))
  exact (updCoreAt hv s k fun _ => rfl).trans (updSeg _ _ _)

/-! Gangs (R23) and the links of barriers (R341). -/

theorem endGang (s : State) (k : Nat) : s.Keeps v (s.endGang k) := by
  refine .ite (refl s) (.ite (foldl (fun s m => updCoreAt hv s m fun _ => rfl) _ s) ?_)
  exact trans (.ite (updCoreAt hv s _ fun _ => rfl) (refl s)) (updCoreAt hv _ k fun _ => rfl)

theorem setBar (s : State) (k b : Nat) (x : Barrier) : s.Keeps v (s.setBar k b x) := updCoreAt hv s k fun _ => rfl

theorem barLeave (s : State) (k b : Nat) : s.Keeps v (s.barLeave k b) := by
  unfold State.barLeave
  extract_lets x rest mask holds idle s1 s2
  have hrest : s.Keeps v s1 := foldl (fun s m => (setBar hv _ _ _ _).trans (updCoreAt hv _ _ fun _ => rfl)) _ s
  have hholder : s1.Keeps v s2 := by
    clear_value rest holds s1
    simp only [s2]
    split
    · exact .ite (updCoreAt hv _ _ fun _ => rfl) (setBar hv _ _ _ _)
    · exact refl _
  exact .ite (.ite (refl s) (setBar hv _ _ _ _)) ((hrest.trans hholder).trans (setBar hv _ _ _ _))

theorem leaveLinks (s : State) (k : Nat) : s.Keeps v (s.leaveLinks k) := foldl (fun s (p : Nat × Barrier) => barLeave hv s k p.1) _ s
end

end State.Keeps

end Sys2Proof.Machine
end

section
/-! SUPPORT. What the end of a task leaves in its core (R29, R335). -/

namespace Sys2Proof.Machine

/-! Pods let go take nothing from the queue of applies. -/

@[simp] theorem Core.applyQ_freePod (c : Core) (i : Nat) : (c.freePod i).applyQ = c.applyQ := rfl

@[simp] theorem Core.applyQ_freePods (c : Core) (all : Bool) : (c.freePods all).applyQ = c.applyQ :=
  foldl_view_same (fun c _ => Core.applyQ_freePod c _) _ c

theorem Core.endTask_applyQ (c : Core) : c.endTask.applyQ = c.applyQ := rfl

/-- The contexts of a task that has ended, context 0 apart, are FREE (R29). -/
theorem Core.endTask_free (c : Core) {j : Nat} (hj : j ≠ 0) : (c.endTask.ctxAt j).st = .free := by
  rcases Table.get_map (d := Ctx.empty)
    (f := fun p => (p.1, if p.1 = 0 then { p.2.fresh with st := .live, pc := c.loopRet, pts := c.kptsNow } else p.2.fresh))
    (fun _ => rfl) c.ctxs j with h | h
  · exact congrArg Ctx.st h
  · exact (congrArg Ctx.st h).trans (by rw [if_neg hj]; rfl)

/-- The applies that wait after the end of a task: none of them with `all`, else those of other contexts (R217, R227). -/
theorem State.endTask_applyQ (s : State) (k : Nat) (all : Bool) :
    ((s.endTask k all false).coreAt k).applyQ = (s.coreAt k).applyQ.filter fun a => !(all || a.own) := by
  have hv : Core.Apart Core.applyQ := fun _ _ => rfl
  have hmoved : s.Keeps Core.applyQ (((s.endTaskSegs k).endGang k).leaveLinks k) :=
    ((Keeps.endTaskSegs hv s k).trans (Keeps.endGang hv _ k)).trans (Keeps.leaveLinks hv _ k)
  rw [← hmoved k, State.endTask, coreAt_updCoreAt, if_pos rfl, Core.endTask_applyQ, Core.applyQ_freePods]
  rfl

/-- A core whose task has ended is one at the end of a task. -/
theorem State.endTask_core (s : State) (k : Nat) (all abort : Bool) : ∃ c, (s.endTask k all abort).coreAt k = Core.endTask c :=
  ⟨_, by rw [State.endTask, coreAt_updCoreAt, if_pos rfl]⟩

@[simp] theorem State.coreAt_commit (s : State) (k j : Nat) (o : Outc) (w : Word) : (s.commit k o w).coreAt j = s.coreAt j := by
  rw [State.commit]
  split <;> rfl

end Sys2Proof.Machine
end

section
open Sys2Proof Sys2Proof.Machine

/-- Settles O17: `brk` with no handler is DOUBLE_FAULT, which ends the task with the core's cause registers written last. -/
theorem doubleFaultEnds : Obligations.DoubleFaultEnds := by
  unfold Obligations.DoubleFaultEnds
  intro s hhandler hctx
  have hstep : exec .brk s = .next (s.doubleFault s.cur s.ctx s.me.pc Cause.BREAK) := by
    rw [exec_brk, takeTrap_unhandled hhandler]
  let u := (s.commit s.cur .faulted 8).endTask s.cur (!s.core.podMsg) false
  have hcore : (s.doubleFault s.cur s.ctx s.me.pc Cause.BREAK).coreAt s.cur = { u.coreAt s.cur with
      kcause := 0xA3, kepc := s.me.pc
      ktval := word (0x90 + 256 * (if s.me.trapvec = 0 then 0 else s.me.cause.toNat) + 65536 * s.ctx) } :=
    State.coreAt_setCoreAt_same _ _ _
  have hqueue : (u.coreAt s.cur).applyQ = s.core.applyQ.filter fun a => !(!s.core.podMsg || a.own) := by
    rw [State.endTask_applyQ, State.coreAt_commit]; rfl
  obtain ⟨c, hend⟩ : ∃ c, u.coreAt s.cur = Core.endTask c := State.endTask_core _ _ _ _
  refine ⟨_, hstep, ?_⟩
  rw [hcore]
  refine ⟨rfl, rfl, ?_, ?_, ?_, ?_, ?_, fun j hj => ?_, rfl⟩
  · have hcause : (if s.me.trapvec = 0 then 0 else s.me.cause.toNat) < 256 := by
      split
      · decide
      · exact s.me.cause.isLt
    exact Nat.mod_eq_of_lt (by omega)
  · rw [hend]; rfl
  · rw [hend]; rfl
  · rw [hend]; rfl
  · show (u.coreAt s.cur).applyQ = _
    rw [hqueue]
    cases s.core.podMsg <;> simp
  · show ((u.coreAt s.cur).ctxAt j).st = .free
    rw [hend, Core.endTask_free c hj]

end

section
/-! SUPPORT. What the times, walks, lookups and counts of an access to memory leave of the device as it is (R249, R325, R358). -/

namespace Sys2Proof.Machine

/-- The state `s`, with what an access may leave its traces in taken from `t`: the counters, times of lines, walks, translation
buffers, compressed sizes, overflow notices and free values. -/
def State.tracedAs (s t : State) : State :=
  { s with cores := t.cores, n := t.n, lines := t.lines, tlb := t.tlb, walks := t.walks, walked := t.walked, walkTs := t.walkTs
           cmp := t.cmp, csize := t.csize, cmeta := t.cmeta, shared := t.shared, ovf := t.ovf }

/-- `t` is `s` but for the traces of accesses. -/
def State.Traced (s t : State) : Prop := t = s.tracedAs t

namespace State.Traced

variable {β : Type} {s t u : State}

/-- A view that sees no traces. -/
theorem view {α : Type} (v : State → α) (hv : ∀ s t : State, v (s.tracedAs t) = v s) (h : s.Traced t) : v t = v s :=
  (congrArg v (show t = s.tracedAs t from h)).trans (hv s t)

theorem refl (s : State) : s.Traced s := rfl
theorem trans (h : s.Traced t) (h' : t.Traced u) : s.Traced u :=
  have hs : t.tracedAs u = (s.tracedAs t).tracedAs u := congrArg (State.tracedAs · u) h
  Eq.trans h' hs
theorem ite {p : Prop} [Decidable p] (h : s.Traced t) (h' : s.Traced u) : s.Traced (if p then t else u) := by split <;> assumption
theorem foldl {f : State → β → State} (hf : ∀ (s : State) (b : β), s.Traced (f s b)) (l : List β) (s : State) : s.Traced (l.foldl f s) :=
  List.foldlRecOn (motive := s.Traced) l f (refl s) fun t h b _ => h.trans (hf t b)

theorem setLine (s : State) (l : Nat) (x : LineTs) : s.Traced (s.setLine l x) := rfl
theorem addCounter (s : State) (k i ev amt : Nat) : s.Traced (s.addCounter k i ev amt) := ite rfl rfl
theorem addShared (s : State) (die i ev amt : Nat) : s.Traced (s.addShared die i ev amt) := ite rfl rfl

theorem count (s : State) (k ev amt : Nat) : s.Traced (s.count k ev amt) :=
  (foldl (fun s (p : Nat × Word) => addCounter s k p.1 ev amt) _ s).trans (foldl (fun s _ => addShared s _ _ _ _) _ _)

theorem countNear (s : State) (req : Option Nat) (ev amt : Nat) (near : Nat → Bool) (die : Nat) :
    s.Traced (s.countNear req ev amt near die) :=
  (foldl (fun s _ => ite (foldl (fun s _ => addCounter s _ _ _ _) _ s) (refl s)) _ s).trans (foldl (fun s _ => addShared s _ _ _ _) _ _)

theorem countReq (s : State) (g : Ag) (ev : Nat) : s.Traced (s.countReq g ev) := by
  unfold State.countReq
  split
  · exact count s _ _ _
  · exact refl s

theorem lineSize (s : State) (wr cmp : Bool) (a : Nat) : s.Traced (s.lineSize wr cmp a).2 := by
  simp only [State.lineSize]
  repeat' split
  all_goals rfl

theorem metaLook (s : State) (cmp : Bool) (a : Nat) : s.Traced (s.metaLook cmp a).2 := by
  simp only [State.metaLook]
  split <;> rfl

theorem countL2 (s : State) (req : Option Nat) (wr : Bool) (a : Nat) : s.Traced (s.countL2 req wr a) := by
  simp only [State.countL2]
  refine trans (trans (trans ?_ (countNear _ _ _ _ _ _)) (countNear _ _ _ _ _ _)) (countNear _ _ _ _ _ _)
  exact trans (trans (t := { s with n := s.n + 2 }) rfl (lineSize _ _ _ _)) (metaLook _ _ _)

theorem lookHome (s : State) (g : Ag) (wr : Bool) (l : Nat) : s.Traced (s.lookHome g wr l) := ite (refl s) (countL2 s _ _ _)

theorem widen (s : State) (g : Ag) (l : Nat) : s.Traced (s.widen g l) := by
  unfold State.widen
  split
  · exact refl s
  · exact ite (refl s) (ite rfl (trans (t := { s.setLine l { s.lineAt l with lease := none } with n := s.n + 1 }) rfl (countReq _ _ _)))

theorem stampReads (s : State) (ls : List Nat) (pts : BitVec 64) : s.Traced (s.stampReads ls pts).2 :=
  foldl (fun s _ => setLine s _ _) ls s

theorem stampWrites (s : State) (g : Ag) (ls : List Nat) (pts : BitVec 64) : s.Traced (s.stampWrites g ls pts).2 := by
  unfold State.stampWrites
  extract_lets s1 ts s2 s3
  have hwiden : s.Traced s1 := foldl (fun s l => widen s g l) ls s
  have hlook : s1.Traced s2 := foldl (fun s l => lookHome s g true l) _ s1
  have hcount : s2.Traced s3 := ite (countReq _ _ _) (refl _)
  exact ((hwiden.trans hlook).trans hcount).trans (foldl (fun s _ => setLine s _ _) ls s3)

theorem ctlMark (s : State) (pa n : Nat) (pts : BitVec 64) : s.Traced (s.ctlMark pa n pts) := stampWrites s _ _ _

theorem readWalk (s : State) (g : Ag) (w : Walked) (pts : BitVec 64) : s.Traced (s.readWalk g w pts).2 :=
  ((foldl (fun s _ => countL2 s _ _ _) w.lines s).trans (stampReads _ _ _)).trans rfl

theorem cacheWalk (s : State) (g : Ag) (l : Leaf) (es : List (Nat × Pte)) (ts : BitVec 64) : s.Traced (s.cacheWalk g l es ts) :=
  ite rfl rfl

theorem noteCmp (s : State) (l : Leaf) : s.Traced (s.noteCmp l) := ite rfl rfl

theorem translate {g : Ag} {acc : Acc} {a : Nat} {p : Place} (h : s.translate g acc a = .ok (p, t)) : s.Traced t := by
  simp only [State.translate] at h
  split at h
  · cases h
  · split at h
    · cases h
    · cases h
      exact ((readWalk s g _ 0).trans (cacheWalk _ g _ _ _)).trans (noteCmp _ _)

end State.Traced

end Sys2Proof.Machine
end

section
/-! SUPPORT. The events that fall due by time: what each does where it is due (R277, R284, R316, R319, R360). -/

namespace Sys2Proof.Machine

/-- The power manager's steps change the clocks of cores and the count of free values alone (R319). -/
theorem State.boost_eq (s : State) (ks : List Nat) : s.boost ks = { s with cores := (s.boost ks).cores, n := (s.boost ks).n } := by
  induction ks generalizing s with
  | nil => rfl
  | cons k ks ih =>
    simp only [State.boost]
    split
    · exact (ih _).trans rfl
    · exact (ih _).trans rfl

/-- An addition that carries a counter past its end leaves the sum modulo 2^48 in it (R360). -/
theorem State.addCounter_carry (s : State) {k i ev amt : Nat} (hamt : amt < 2 ^ 48)
    (hcarry : 2 ^ 48 ≤ (Table.get 0 (s.coreAt k).cnt i).toNat + amt) :
    (Table.get 0 ((s.addCounter k i ev amt).coreAt k).cnt i).toNat = (Table.get 0 (s.coreAt k).cnt i).toNat + amt - 2 ^ 48 := by
  have hcore : (s.addCounter k i ev amt).coreAt k = { s.coreAt k with
      cnt := Table.put (s.coreAt k).cnt i (BitVec.ofNat 48 ((Table.get 0 (s.coreAt k).cnt i).toNat + amt)) } := by
    simp only [State.addCounter]
    rw [if_neg (by omega)]
    exact State.coreAt_setCoreAt_same _ _ _
  rw [hcore, Table.get_put_same, BitVec.toNat_ofNat]
  have := (Table.get 0 (s.coreAt k).cnt i).isLt
  omega

section
variable {s : State} {j : Nat} {nm : Word} {e : Entry} {l : Loan}

theorem exec_loanTermExpiry (h : s.loanAt nm j = some (e, l)) :
    exec (.loanTermExpiry nm j) s = .next (if l.termDue s.now then s.endUse e j l l.term.toNat else s) := by
  change execLoanTermExpiry nm j s = _
  rw [execLoanTermExpiry, h]

theorem exec_graceDeadlineExpiry (h : s.loanAt nm j = some (e, l)) :
    exec (.graceDeadlineExpiry nm j) s = .next (if l.graceDue s.now then s.endUse e j l l.rdl.toNat else s) := by
  change execGraceDeadlineExpiry nm j s = _
  rw [execGraceDeadlineExpiry, h]

theorem exec_termNear (h : s.loanAt nm j = some (e, l)) (hdue : l.nearDue s.now = true) :
    exec (.termNear nm j) s = .next ((s.putEntry { e with loans := e.loans.set j { l with near := true } }).notify
      ⟨l.borrower, 2, nm, noticeData 2 nm (word l.lender) l.term⟩) := by
  change execTermNear nm j s = _
  rw [execTermNear, h]
  exact if_pos hdue

theorem exec_segTermEnd {d : Nat} {g : Seg} (h : s.liveSeg d nm = some g) (hcls : g.cls = 3) (hterm : g.term.toNat ≤ s.now) :
    exec (.segTermEnd d nm) s = .next (s.dropSeg g) := by
  have hlive : g.live = true := by
    have := List.find?_some h
    simp only [Bool.and_eq_true] at this
    exact this.2
  change execSegTermEnd d nm s = _
  rw [execSegTermEnd, h]
  simp [Seg.termDue, hlive, hcls, hterm]

theorem exec_bucketCharge {b ticks : Nat} {x : Bucket} (h : s.buckets.find? (fun p => p.1 == b) = some (b, x)) (hdue : x.due ≠ 0)
    (hticks : ticks ≠ 0) (hlevel : -(2 ^ 31 : Int) ≤ x.level.toInt) :
    exec (.bucketCharge b ticks) s = .next (({ s with buckets := Table.put s.buckets b { x with
      due := x.due - min ticks x.due
      level := BitVec.ofInt 64 (max (-(2 ^ 31 : Int)) (x.level.toInt - ((min ticks x.due : Nat) : Int))) } } : State).ctlMark
        (bucketBlock b) 32 0) := by
  change execBucketCharge b ticks s = _
  rw [execBucketCharge, h]
  have hsome : Nat.min ticks x.due ≠ 0 := by
    show min ticks x.due ≠ 0
    omega
  have habove : ¬ x.level.toInt < -(2 ^ 31 : Int) := by omega
  simp only [if_neg hsome, if_neg habove]

/-- Every bucket is refilled (R316). -/
theorem exec_bucketRefill (h : s.refills < s.now / 1024) : ∃ t, exec .bucketRefill s = .next t ∧ t.refills = s.refills + 1 ∧
    t.buckets = s.buckets.map fun p => (p.1, Bucket.refill p.2) := by
  let u : State := { s with refills := s.refills + 1, buckets := s.buckets.map fun p => (p.1, Bucket.refill p.2) }
  have hmarks : u.Traced (s.buckets.foldl (fun s p => s.ctlMark (bucketBlock p.1) 32 0) u) :=
    State.Traced.foldl (fun s _ => State.Traced.ctlMark s _ _ _) _ u
  refine ⟨_, congrArg Host.Outcome.next (if_pos h), ?_, ?_⟩
  · exact congrArg State.refills hmarks
  · exact congrArg State.buckets hmarks

/-- Above 1,800 W every core returns to the nominal step; the alarm follows the estimate there (R319). -/
theorem exec_powerEstimate (h : s.powers < s.now / 1024) : ∃ t, exec .powerEstimate s = .next t ∧ t.powers = s.powers + 1 ∧
    (1800 < Config.power s.n → (∀ p ∈ t.cores, p.2.clk = 600) ∧ (1800 < Config.power (s.n + 1) → t.alarm = true)) ∧
    (Config.power s.n < 1710 → t.alarm = false) := by
  have hdue : ¬ s.now / 1024 ≤ s.powers := Nat.not_le.mpr h
  have hnominal : ∀ u : State, ∀ p ∈ u.unboost.cores, p.2.clk = 600 := fun u p hp => by
    obtain ⟨q, _, rfl⟩ := List.mem_map.mp hp
    rfl
  change ∃ t, execPowerEstimate s = .next t ∧ _
  simp only [execPowerEstimate, if_neg hdue]
  by_cases hover : 1800 < Config.power s.n
  · rw [if_pos hover]
    refine ⟨_, rfl, ?_, fun _ => ⟨?_, fun halarm => ?_⟩, fun hlow => absurd hover (by omega)⟩
    · split
      · rfl
      · split <;> rfl
    · split
      · exact hnominal _
      · split <;> exact hnominal _
    · rw [if_pos halarm]
  · rw [if_neg hover]
    refine ⟨_, rfl, ?_, fun h => absurd h hover, fun hlow => ?_⟩
    · rw [State.boost_eq]
      show State.powers (if _ then _ else _) = _
      split <;> rfl
    · rw [State.boost_eq]
      show State.alarm (if _ then _ else _) = _
      rw [if_pos hlow]
end

end Sys2Proof.Machine
end

section
open Sys2Proof Sys2Proof.Machine

/-- Settles O54: each event that is due does what its rule says. -/
theorem timedEvents : Obligations.TimedEvents := by
  unfold Obligations.TimedEvents
  intro j o b ticks k i amt d nm seg e l x g id s
  refine ⟨fun hloan hdue => ⟨fun hterm => ?_, fun hrecalled hrdl => ?_, fun hnear hterm => ?_, fun hcls => ?_⟩,
    fun hoid hone hidle => ?_, exec_segTermEnd, exec_bucketCharge, fun hrefill => ?_, fun hsnap => ?_, ?_, exec_powerEstimate⟩
  · rw [exec_loanTermExpiry hloan, if_pos (by simp [Loan.termDue, hdue, hterm])]
  · rw [exec_graceDeadlineExpiry hloan, if_pos (by simp [Loan.graceDue, hdue, hrecalled, hrdl])]
  · exact exec_termNear hloan (by simp [Loan.nearDue, hdue, hnear, hterm])
  · exact if_neg hcls
  · change execOidIdleRetire o s = _
    rw [execOidIdleRetire, hoid]
    simp [hone, hidle]
  · obtain ⟨t, hstep, hcount, hbuckets⟩ := exec_bucketRefill hrefill
    refine ⟨t, hstep, hcount, fun p hp => ?_⟩
    rw [hbuckets]
    exact List.mem_map_of_mem (f := fun p => (p.1, Bucket.refill p.2)) hp
  · exact ⟨_, congrArg Host.Outcome.next (if_pos hsnap), rfl, fun p hp =>
      List.mem_map_of_mem (f := fun (p : Nat × Shared) => (p.1, { p.2 with snap := p.2.count })) hp⟩
  · intro co sel hcore hi hactive hcounts hshared hfree hevent hamt hcarry
    have hfree' : freeEvents.contains (selEvent sel) = true := List.contains_iff_mem.mpr hfree
    refine ⟨s.addCounter k i (selEvent sel) amt, ?_, s.addCounter_carry hamt hcarry⟩
    change execCounterWrap k i amt s = _
    unfold execCounterWrap
    refine if_pos ?_
    simp only [Bool.and_eq_true, Bool.or_eq_true, decide_eq_true_eq, Bool.not_eq_true', and_assoc]
    exact ⟨hcore, hi, hactive, hcounts, hshared, hfree', .inl hevent, hamt, hcarry⟩

end

section
/-! SUPPORT. Stores to the control space: where a block's bytes lie, what an image with stored bytes reads as, and the effect of
a store within one block (R322). -/

namespace Sys2Proof.Machine

/-! Images of blocks. -/

/-- The image with bytes stored, by the bytes above, at and below them. -/
theorem overlay_eq (img off n v : Nat) :
    overlay img off n v = 2 ^ (8 * off) * (2 ^ (8 * n) * (img / 2 ^ (8 * off) / 2 ^ (8 * n)) + v % 2 ^ (8 * n)) + img % 2 ^ (8 * off) := by
  simp only [overlay, at', fieldOf]
  generalize 2 ^ (8 * off) = p, 2 ^ (8 * n) = q
  have himg : img = p * (q * (img / p / q) + img / p % q) + img % p := by rw [Nat.div_add_mod, Nat.div_add_mod]
  have hsplit : img = p * (q * (img / p / q)) + img % p + img / p % q * p := by
    conv_lhs => rw [himg]
    ring
  have hsub : img - img / p % q * p = p * (q * (img / p / q)) + img % p := by omega
  rw [hsub]
  ring

/-- The bytes stored are what the image holds there. -/
theorem fieldOf_overlay_same (img off n v : Nat) : fieldOf (overlay img off n v) off n = v % 2 ^ (8 * n) := by
  have hp : 0 < 2 ^ (8 * off) := by positivity
  rw [overlay_eq, fieldOf, Nat.mul_add_div hp, Nat.div_eq_of_lt (Nat.mod_lt _ hp), Nat.add_zero, Nat.mul_add_mod, Nat.mod_mod]

/-- The bytes below those stored are as before. -/
theorem fieldOf_overlay_below {img off n v o k : Nat} (h : o + k ≤ off) : fieldOf (overlay img off n v) o k = fieldOf img o k := by
  obtain ⟨m, rfl⟩ := Nat.exists_eq_add_of_le h
  have hlow : ∀ x, fieldOf (2 ^ (8 * (o + k + m)) * x + img % 2 ^ (8 * (o + k + m))) o k =
      fieldOf (img % 2 ^ (8 * (o + k + m))) o k := fun x => by
    have hexp : 2 ^ (8 * (o + k + m)) * x = 2 ^ (8 * o) * (2 ^ (8 * k) * (2 ^ (8 * m) * x)) := by
      rw [Nat.mul_add, Nat.mul_add, Nat.pow_add, Nat.pow_add]; ring
    rw [fieldOf, hexp, Nat.mul_add_div (by positivity), Nat.mul_add_mod, fieldOf]
  have himg : fieldOf img o k = fieldOf (img % 2 ^ (8 * (o + k + m))) o k := by
    conv_lhs => rw [← Nat.div_add_mod img (2 ^ (8 * (o + k + m)))]
    exact hlow _
  rw [overlay_eq, hlow, himg]

theorem leVal_leOf (n v : Nat) : leVal (leOf n v) = v % 2 ^ (8 * n) := by
  induction n generalizing v with
  | zero => rw [leOf, leVal, Nat.mul_zero, Nat.pow_zero, Nat.mod_one]
  | succ n ih =>
    have hpow : 2 ^ (8 * (n + 1)) = 256 * 2 ^ (8 * n) := by rw [Nat.mul_add, Nat.pow_add]; ring
    rw [leOf, leVal, ih, BitVec.toNat_ofNat, hpow, Nat.mod_mul]

/-! The image of a queue slot below its TAILW (R371). -/

section
variable (s : State) (i : Nat)

theorem logn_image : fieldOf (s.ctlImage (.qslot i)) 8 1 = (s.qslotAt i).logn.toNat := by
  have h0 := (s.qslotAt i).ring.isLt
  have h8 := (s.qslotAt i).logn.isLt
  simp only [fieldOf, State.ctlImage, at']
  omega

/-- HEAD and TAIL lie at bytes 16 and 20. -/
theorem ctlImage_qslot_eq : ∃ low rest, low < 2 ^ 128 ∧
    s.ctlImage (.qslot i) = low + 2 ^ 128 * ((s.qslotAt i).head.toNat + 2 ^ 32 * ((s.qslotAt i).tail.toNat + 2 ^ 32 * rest)) := by
  have h0 := (s.qslotAt i).ring.isLt
  have h8 := (s.qslotAt i).logn.isLt
  have h9 : b2n (s.qslotAt i).completion + 128 * b2n (s.qslotAt i).enable < 256 := by
    cases (s.qslotAt i).completion <;> cases (s.qslotAt i).enable <;> decide
  have h10 := (s.qslotAt i).func.isLt
  have h11 := (s.qslotAt i).fidx.isLt
  have h12 := (s.qslotAt i).queue.isLt
  have h14 := (s.qslotAt i).dom.isLt
  refine ⟨s.ctlImage (.qslot i) % 2 ^ 128, s.ctlImage (.qslot i) / 2 ^ 192, Nat.mod_lt _ (by decide), ?_⟩
  have h16 := (s.qslotAt i).head.isLt
  have h20 := (s.qslotAt i).tail.isLt
  simp only [State.ctlImage, at']
  omega

theorem head_image : fieldOf (s.ctlImage (.qslot i)) 16 4 = (s.qslotAt i).head.toNat := by
  obtain ⟨low, rest, hlow, himg⟩ := ctlImage_qslot_eq s i
  have := (s.qslotAt i).head.isLt
  rw [fieldOf, himg]
  omega

theorem tail_image : fieldOf (s.ctlImage (.qslot i)) 20 4 = (s.qslotAt i).tail.toNat := by
  obtain ⟨low, rest, hlow, himg⟩ := ctlImage_qslot_eq s i
  have := (s.qslotAt i).head.isLt
  have := (s.qslotAt i).tail.isLt
  rw [fieldOf, himg]
  omega
end

/-! Where blocks lie. -/

/-- A byte of block `i` of an array. -/
theorem ctlLocate_of {pa lo hi sz i k : Nat} {f : Nat → Blk}
    (h : ctlArrays.find? (fun a => a.1 ≤ pa && pa < a.2.1) = some (lo, hi, sz, f)) (hpa : pa = lo + (sz * i + k)) (hk : k < sz) :
    ctlLocate pa = some (f i, k, sz - k) := by
  rw [ctlLocate, h]
  show some (f ((pa - lo) / sz), (pa - lo) % sz, sz - (pa - lo) % sz) = _
  rw [hpa, Nat.add_sub_cancel_left, Nat.mul_add_div (by omega), Nat.mul_add_mod, Nat.div_eq_of_lt hk, Nat.mod_eq_of_lt hk, Nat.add_zero]

theorem ctlLocate_dom {d k : Nat} (hd : d < 4096) (hk : k < 64) : ctlLocate (domBlock d + k) = some (.dom d, k, 64 - k) := by
  have hpa : domBlock d + k = 0xF000000000 + (64 * d + k) := by rw [domBlock, Nat.mod_eq_of_lt hd, Nat.add_assoc]
  have hin : 0xF000000000 ≤ domBlock d + k ∧ domBlock d + k < 0xF000040000 := by omega
  refine ctlLocate_of (lo := 0xF000000000) (hi := 0xF000040000) (f := .dom) ?_ hpa hk
  simp [ctlArrays, hin]

theorem ctlLocate_qslot {i k : Nat} (hi : i < 1024) (hk : k < 64) : ctlLocate (slotBlock i + k) = some (.qslot i, k, 64 - k) := by
  have hpa : slotBlock i + k = 0xF000080000 + (64 * i + k) := by rw [slotBlock, Nat.mod_eq_of_lt hi, Nat.add_assoc]
  have hin : 0xF000080000 ≤ slotBlock i + k ∧ slotBlock i + k < 0xF000090000 := by omega
  have hdom : ¬slotBlock i + k < 0xF000040000 := by omega
  refine ctlLocate_of (lo := 0xF000080000) (hi := 0xF000090000) (f := .qslot) ?_ hpa hk
  simp [ctlArrays, hin, hdom]

theorem ctlLocate_load {d k : Nat} (hd : d < 4096) (hk : k < 32) : ctlLocate (loadBlock d + k) = some (.load d, k, 32 - k) := by
  have hpa : loadBlock d + k = 0xF0000D0000 + (32 * d + k) := by rw [loadBlock, Nat.mod_eq_of_lt hd, Nat.add_assoc]
  have hin : 0xF0000D0000 ≤ loadBlock d + k ∧ loadBlock d + k < 0xF0000F0000 := by omega
  have hpast : ¬loadBlock d + k < 0xF000040000 ∧ ¬loadBlock d + k < 0xF000090000 ∧ ¬loadBlock d + k < 0xF000090400 ∧
      ¬loadBlock d + k < 0xF0000A0008 ∧ ¬loadBlock d + k < 0xF0000A2000 ∧ ¬loadBlock d + k < 0xF0000B0200 ∧
      ¬loadBlock d + k < 0xF0000D0000 := by omega
  refine ctlLocate_of (lo := 0xF0000D0000) (hi := 0xF0000F0000) (f := .load) ?_ hpa hk
  simp [ctlArrays, hin, hpast]

/-! A store within one block. -/

section
variable {s : State} {o pa off left : Nat} {b : Blk} {bs : List Byte}

theorem ctlParts_one {n : Nat} (hloc : ctlLocate pa = some (b, off, left)) (hn : n ≠ 0) (hle : n ≤ left) :
    ctlParts n pa n = some [(b, off, n)] := by
  obtain ⟨m, rfl⟩ := Nat.exists_eq_succ_of_ne_zero hn
  simp only [ctlParts, hloc, Nat.min_eq_left hle, Nat.sub_self]

theorem ctlPut_one (hloc : ctlLocate pa = some (b, off, left)) (hne : bs ≠ []) (hle : bs.length ≤ left) :
    s.ctlPut o pa bs = if s.ctlWritable o b off bs.length then
      some (s.ctlStore o b off bs.length (overlay (s.ctlImage b) off bs.length (leVal bs))) else none := by
  have hlen : bs.length ≠ 0 := fun h => hne (List.eq_nil_of_length_eq_zero h)
  rw [State.ctlPut, ctlParts_one hloc hlen hle]
  simp [List.take_length]

/-- A store that is honoured is made, and leaves traces of a write. -/
theorem ctlEvent_stores (ho : o ≠ 0) (hlive : s.oidLive o = true) (hloc : ctlLocate pa = some (b, off, left)) (hne : bs ≠ [])
    (hle : bs.length ≤ left) (hw : s.ctlWritable o b off bs.length = true) :
    ∃ t, s.ctlEvent o pa bs = .next t ∧
      (s.ctlStore o b off bs.length (overlay (s.ctlImage b) off bs.length (leVal bs))).Traced t := by
  refine ⟨_, ?_, State.Traced.ctlMark _ pa bs.length 0⟩
  rw [State.ctlEvent, if_neg (by simp [ho, hlive]), State.ctlWrite, State.ctlStep, ctlPut_one hloc hne hle, if_pos hw]
  rfl

/-- A store that is refused changes nothing. -/
theorem ctlEvent_refused (hw : s.ctlWrite o pa bs = none) : s.ctlEvent o pa bs = .next s := by
  rw [State.ctlEvent, hw]
  exact ite_self _
end

end Sys2Proof.Machine
end

section
/-! SUPPORT. The stores to the fields of the control space, doorbells and the mailbox (R331, R355, R371 to R374, R384). -/

namespace Sys2Proof.Machine

section
variable {s t : State}

/-! Traces of accesses are not in the control space. -/

namespace State.Traced
theorem domainAt (h : s.Traced t) (d : Nat) : t.domainAt d = s.domainAt d :=
  h.view (·.domainAt d) fun _ _ => rfl
theorem qslotAt (h : s.Traced t) (i : Nat) : t.qslotAt i = s.qslotAt i :=
  h.view (·.qslotAt i) fun _ _ => rfl
end State.Traced

theorem domainAt_setDomain (s : State) (d : Nat) (x : Domain) : (s.setDomain d x).domainAt d = x := Table.get_put_same _ _ _ _
theorem qslotAt_setQslot (s : State) (i : Nat) (x : QSlot) : (s.setQslot i x).qslotAt i = x := Table.get_put_same _ _ _ _
theorem setQslot_setQslot_at (s : State) (i : Nat) (x y : QSlot) : ((s.setQslot i x).setQslot i y).qslotAt i = y := qslotAt_setQslot _ _ _

theorem qslotAt_outMark {i pa n : Nat} : (s.outMark pa n).qslotAt i = s.qslotAt i :=
  have h := (State.Traced.ctlMark s pa n s.outPts).view (·.qslotAt i) fun _ _ => rfl
  h
theorem mailbox_outMark {pa n : Nat} : (s.outMark pa n).mailbox = s.mailbox :=
  have h := (State.Traced.ctlMark s pa n s.outPts).view State.mailbox fun _ _ => rfl
  h
theorem mbpend_outMark {pa n : Nat} : (s.outMark pa n).mbpend = s.mbpend :=
  have h := (State.Traced.ctlMark s pa n s.outPts).view State.mbpend fun _ _ => rfl
  h

/-- The bytes of a number stored are that number in the image. -/
theorem fieldOf_stored {img off n v : Nat} (h : v < 2 ^ (8 * n)) : fieldOf (overlay img off n (leVal (leOf n v))) off n = v := by
  rw [fieldOf_overlay_same, leVal_leOf, Nat.mod_mod, Nat.mod_eq_of_lt h]

/-! A domain's block. -/

section
variable {d o : Nat} (hd : d < 4096) (ho : o ≠ 0) (hlive : s.oidLive o = true) (huse : s.usesOne o cDomain d = true)
include hd ho hlive huse

/-- A store within a domain's block, by who uses the domain. -/
theorem domEvent {off : Nat} {bs : List Byte} (hne : bs ≠ []) (hle : off + bs.length ≤ 64) (hoff : off < 64) :
    ∃ t, s.ctlEvent o (domBlock d + off) bs = .next t ∧
      t.domainAt d = (s.domStore o d off bs.length (overlay (s.ctlImage (.dom d)) off bs.length (leVal bs))).domainAt d := by
  obtain ⟨t, hstep, htraced⟩ := ctlEvent_stores (s := s) ho hlive (ctlLocate_dom hd hoff) hne (by omega) huse
  exact ⟨t, hstep, htraced.domainAt d⟩

theorem exec_tgenWrite : ∃ t, exec (.tgenWrite d o) s = .next t ∧ t.domainAt d = { s.domainAt d with tgen := (s.domainAt d).tgen + 1 } := by
  obtain ⟨t, hstep, hdom⟩ := domEvent hd ho hlive huse (off := 24) (bs := leOf 2 0) (leOf_ne_nil (by decide) 0) (by decide) (by decide)
  refine ⟨t, hstep, hdom.trans ?_⟩
  rw [State.domStore, domainAt_setDomain]
  rfl

theorem exec_pasidWrite_host {pas : BitVec 20} (hone : o = 1) : ∃ t, exec (.pasidWrite d pas o) s = .next t ∧
    t.domainAt d = (s.domainAt d).storePasid pas s.now := by
  obtain ⟨t, hstep, hdom⟩ := domEvent hd ho hlive huse (off := 8) (bs := leOf 4 pas.toNat) (leOf_ne_nil (by decide) _)
    (by rw [length_leOf]; decide) (by decide)
  refine ⟨t, (if_neg ho).trans hstep, hdom.trans ?_⟩
  have hpas := pas.isLt
  rw [State.domStore, domainAt_setDomain, length_leOf, fieldOf_stored (by omega), BitVec.ofNat_toNat, BitVec.setWidth_eq, hone]
  rfl

theorem exec_pasidWrite_other {pas : BitVec 20} (hone : o ≠ 1) : ∃ t, exec (.pasidWrite d pas o) s = .next t ∧
    t.domainAt d = s.domainAt d := by
  obtain ⟨t, hstep, hdom⟩ := domEvent hd ho hlive huse (off := 8) (bs := leOf 4 pas.toNat) (leOf_ne_nil (by decide) _)
    (by rw [length_leOf]; decide) (by decide)
  refine ⟨t, (if_neg ho).trans hstep, hdom.trans ?_⟩
  rw [State.domStore, domainAt_setDomain, length_leOf, if_neg (c := (touches 8 4 8 8 && o == 1) = true) (by simp [hone])]
  rfl

theorem exec_toffWrite {v : Word} : ∃ t, exec (.toffWrite d v o) s = .next t ∧ t.domainAt d = { s.domainAt d with toff := v } := by
  obtain ⟨t, hstep, hdom⟩ := domEvent hd ho hlive huse (off := 16) (bs := leOf 8 v.toNat) (leOf_ne_nil (by decide) _)
    (by rw [length_leOf]; decide) (by decide)
  refine ⟨t, hstep, hdom.trans ?_⟩
  rw [State.domStore, domainAt_setDomain, length_leOf, fieldOf_stored v.isLt, BitVec.ofNat_toNat, BitVec.setWidth_eq]
  rfl

/-- A store to SIZE requests a load, unless one is in progress (R97). -/
theorem exec_loadRequest {v : Word} : ∃ t, exec (.loadRequest d v o) s = .next t ∧
    t.domainAt d = if (s.domainAt d).ldStatus = 0xFFFF then s.domainAt d else { s.domainAt d with ldSize := v, ldStatus := 0xFFFF } := by
  obtain ⟨t, hstep, htraced⟩ := ctlEvent_stores (s := s) (b := .load d) (bs := leOf 8 v.toNat) ho hlive (ctlLocate_load hd (k := 8) (by decide))
    (leOf_ne_nil (by decide) _) (by rw [length_leOf]; decide) huse
  refine ⟨t, hstep, (htraced.domainAt d).trans ?_⟩
  have hobj : touches 8 8 0 8 = false := rfl
  have hsize : touches 8 8 8 8 = true := rfl
  simp only [State.ctlStore, State.loadStore, domainAt_setDomain, length_leOf, fieldOf_stored (n := 8) v.isLt, BitVec.ofNat_toNat,
    BitVec.setWidth_eq, hobj, hsize, Bool.false_eq_true, if_false, Bool.true_and, bne_iff_ne]
  exact ite_not _ _ _
end

/-- PASID moves from NONE to ACTIVE and from ACTIVE to RETIRING (R331). -/
theorem storePasid_eq (x : Domain) (p : BitVec 20) (now : Nat) : x.storePasid p now =
    if x.pstate = 0 ∧ p ≠ 0 then { x with pasid := p, pstate := 1 }
    else if x.pstate = 1 ∧ p = 0 then { x with pstate := 2, retireAt := now } else x := by
  unfold Domain.storePasid
  split
  next h => by_cases hp : p = 0 <;> simp [h, hp]
  next h => by_cases hp : p = 0 <;> simp [h, hp]
  next h0 h1 => rw [if_neg fun h => h0 h.1, if_neg fun h => h1 h.1]

/-- The host's teardown of an ACTIVE PASID (R331). -/
theorem exec_pasidWrite_teardown {d : Nat} (hd : d < 4096) (hactive : (s.domainAt d).pstate = 1) : exec (.pasidWrite d 0 0) s =
    .next ((s.setDomain d { s.domainAt d with pstate := 2, retireAt := s.now }).outMark (domBlock d) 64) := by
  change execPasidWrite d 0 0 s = _
  rw [execPasidWrite, if_pos rfl, if_pos (by simp [hd]), storePasid_eq, if_neg (by simp), if_pos ⟨hactive, rfl⟩]

/-! The nonce of the attestation (R384). -/

theorem exec_attestNonceWrite {nonce : BitVec 384} (hidle : s.attesting = false) (hwf : s.attest.wf = true) :
    ∃ t, exec (.attestNonceWrite nonce 1) s = .next t ∧ t.attesting = true ∧ t.attest.readLE 0 48 = nonce.toNat := by
  have hloc : ctlLocate 0xF0000B0000 = some (.attest, 0, 512) :=
    ctlLocate_of (i := 0) (k := 0) (lo := 0xF0000B0000) (hi := 0xF0000B0200) (f := fun _ => .attest) rfl rfl (by decide)
  obtain ⟨t, hstep, htraced⟩ := ctlEvent_stores (s := s) (bs := leOf 48 nonce.toNat) (o := 1) (by decide) rfl hloc
    (leOf_ne_nil (by decide) _) (by rw [length_leOf]; decide) (by rw [length_leOf]; rfl)
  rw [State.ctlStore, length_leOf, if_neg (by simp [hidle]), fieldOf_stored (n := 48) nonce.isLt] at htraced
  refine ⟨t, hstep, htraced.view State.attesting fun _ _ => rfl, ?_⟩
  rw [htraced.view State.attest fun _ _ => rfl]
  show (s.attest.writeLE 0 48 nonce.toNat).readLE 0 48 = _
  rw [Memory.readLE_writeLE _ _ _ hwf]
  exact Nat.mod_eq_of_lt nonce.isLt

theorem exec_attestNonceWrite_refused {nonce : BitVec 384} {o : Nat} (ho : o ≠ 1) : exec (.attestNonceWrite nonce o) s = .next s := by
  have hloc : ctlLocate 0xF0000B0000 = some (.attest, 0, 512) :=
    ctlLocate_of (i := 0) (k := 0) (lo := 0xF0000B0000) (hi := 0xF0000B0200) (f := fun _ => .attest) rfl rfl (by decide)
  have hno : (o == 1) = false := beq_eq_false_iff_ne.mpr ho
  refine ctlEvent_refused ?_
  rw [State.ctlWrite, State.ctlStep, ctlPut_one hloc (leOf_ne_nil (by decide) _) (by rw [length_leOf]; decide), State.ctlWritable, hno]
  rfl

/-! Queue slots (R371 to R374). -/

/-- What a store to a queue slot makes of the fields that the doorbells use, and of ENABLE and STOPPED. -/
theorem qslotStore_spec (s : State) (o i off n img : Nat) : ∃ q, s.qslotStore o i off n img =
      (if touches off n 32 4 then (s.setQslot i q).ring i (BitVec.ofNat 32 (fieldOf img 32 4)) else s.setQslot i q) ∧
    q.enable = (if o == 1 && touches off n 9 1 then fieldOf img 9 1 / 128 == 1 else (s.qslotAt i).enable) ∧
    q.stopped = ((s.qslotAt i).stopped && !(o == 1 && touches off n 9 1)) ∧
    (let mine := s.holdsOne o cQueue (s.qslotAt i).queue.toNat
     q.logn = (if mine then BitVec.ofNat 8 (fieldOf img 8 1) else (s.qslotAt i).logn) ∧
     q.head = (if mine then BitVec.ofNat 32 (fieldOf img 16 4) else (s.qslotAt i).head) ∧
     q.tail = (if mine then BitVec.ofNat 32 (fieldOf img 20 4) else (s.qslotAt i).tail) ∧
     q.completion = if mine && touches off n 9 1 then fieldOf img 9 1 % 2 == 1 else (s.qslotAt i).completion) :=
  ⟨_, rfl, rfl, rfl, rfl, rfl, rfl, rfl⟩

theorem exec_queueSlotEnableWrite {i : Nat} {b : BitVec 8} (hi : i < 1024) : ∃ t, exec (.queueSlotEnableWrite i b 1) s = .next t ∧
    (t.qslotAt i).enable = decide (128 ≤ b.toNat) ∧ (t.qslotAt i).stopped = false := by
  obtain ⟨t, hstep, htraced⟩ := ctlEvent_stores (s := s) (b := .qslot i) (bs := [b]) (o := 1) (by decide) rfl
    (ctlLocate_qslot hi (k := 9) (by decide)) (List.cons_ne_nil _ _) (Nat.le_add_left 1 54) rfl
  obtain ⟨q, hstore, henable, hstopped, -⟩ :=
    qslotStore_spec s 1 i 9 1 (overlay (s.ctlImage (.qslot i)) 9 1 (leVal [b]))
  have hslot : t.qslotAt i = q := by
    rw [htraced.qslotAt, State.ctlStore, List.length_singleton, hstore, if_neg (by decide), qslotAt_setQslot]
  refine ⟨t, hstep, ?_, ?_⟩
  · have hbyte := b.isLt
    rw [hslot, henable, fieldOf_overlay_same, leVal, leVal, if_pos (by decide), Nat.mul_zero, Nat.add_zero, Nat.mod_eq_of_lt (by omega),
      Bool.eq_iff_iff, beq_iff_eq, decide_eq_true_eq]
    omega
  · rw [hslot, hstopped]
    exact Bool.and_false _

/-- A doorbell of a launch slot writes the tail within the ring, and one outside it sets ERR (R373). -/
theorem ring_launch {i : Nat} {w : BitVec 32} (hc : (s.qslotAt i).completion = false) : s.ring i w =
    s.setQslot i (if 2 ^ (s.qslotAt i).logn.toNat < (w - (s.qslotAt i).head).toNat then { s.qslotAt i with err := true }
      else { s.qslotAt i with tail := w }) := by
  simp only [State.ring, hc, Bool.false_eq_true, if_false]
  split <;> rfl

/-- A store to TAILW leaves the fields below it as they were, and rings (R372). -/
theorem exec_tailwWrite {i o : Nat} {w : BitVec 32} (hi : i < 1024) (ho : o ≠ 0) (hlive : s.oidLive o = true)
    (hmine : s.holdsOne o cQueue (s.qslotAt i).queue.toNat = true) : ∃ t q, exec (.tailwWrite i w o) s = .next t ∧
      t.qslotAt i = ((s.setQslot i q).ring i w).qslotAt i ∧ q.logn = (s.qslotAt i).logn ∧ q.head = (s.qslotAt i).head ∧
      q.tail = (s.qslotAt i).tail ∧ q.completion = (s.qslotAt i).completion := by
  have hw : s.ctlWritable o (.qslot i) 32 4 = true := by
    have h12 : touches 32 4 12 2 = false := rfl
    have h9 : touches 32 4 9 1 = false := rfl
    simp only [State.ctlWritable, h12, h9, hmine, Bool.not_false, Bool.true_or, Bool.or_true, Bool.and_true]
  obtain ⟨t, hstep, htraced⟩ := ctlEvent_stores (s := s) (b := .qslot i) (bs := leOf 4 w.toNat) ho hlive
    (ctlLocate_qslot hi (k := 32) (by decide)) (leOf_ne_nil (by decide) _) (by rw [length_leOf]; decide) (by rw [length_leOf]; exact hw)
  obtain ⟨q, hstore, -, -, hlogn, hhead, htail, hcompl⟩ :=
    qslotStore_spec s o i 32 4 (overlay (s.ctlImage (.qslot i)) 32 4 (leVal (leOf 4 w.toNat)))
  rw [if_pos hmine, fieldOf_overlay_below (by decide), logn_image, BitVec.ofNat_toNat, BitVec.setWidth_eq] at hlogn
  rw [if_pos hmine, fieldOf_overlay_below (by decide), head_image, BitVec.ofNat_toNat, BitVec.setWidth_eq] at hhead
  rw [if_pos hmine, fieldOf_overlay_below (by decide), tail_image, BitVec.ofNat_toNat, BitVec.setWidth_eq] at htail
  have h9 : touches 32 4 9 1 = false := rfl
  rw [h9, Bool.and_false, if_neg (by decide)] at hcompl
  refine ⟨t, q, hstep, ?_, hlogn, hhead, htail, hcompl⟩
  rw [htraced.qslotAt, State.ctlStore, length_leOf, hstore, if_pos (by decide), fieldOf_stored (n := 4) w.isLt, BitVec.ofNat_toNat,
    BitVec.setWidth_eq]

/-- The head of a completion slot that a doorbell within the ring writes (R373). -/
theorem ring_completion {i : Nat} {w : BitVec 32} (hc : (s.qslotAt i).completion = true)
    (hin : ((s.qslotAt i).tail - w).toNat ≤ 2 ^ (s.qslotAt i).logn.toNat) : ((s.ring i w).qslotAt i).head = w := by
  simp only [State.ring, hc, if_true, if_neg (Nat.not_lt.mpr hin)]
  rw [qslotAt_setQslot]

/-- The doorbell of a page rings the slot that serves it (R373). -/
theorem doorbell_rings {f page i o : Nat} {w : BitVec 32} {q : QSlot}
    (hfind : s.qslots.find? (fun p => p.2.enable && p.2.func.toNat == f && p.2.fidx.toNat == page) = some (i, q))
    (hbound : s.bound f = some o) (hf : f < 64) (hpage : page < 64) (hmine : s.holdsOne o cQueue q.queue.toNat = true) :
    s.doorbell f page w q.completion = (s.ring i w).outMark (slotBlock i) 64 := by
  rw [State.doorbell, hfind, hbound]
  exact if_pos (by simp [hf, hpage, hmine])

/-! The mailbox (R371). -/

theorem exec_mailboxDoorbell {off : Nat} {bs : List Byte} (hin : off + bs.length ≤ 4096) (hne : bs ≠ []) :
    ∃ t, exec (.mailboxDoorbell off bs) s = .next t ∧ t.mailbox = s.mailbox.putBytes off bs ∧
      t.mbpend = (s.mbpend || touches off bs.length 0xFF8 1) := by
  refine ⟨_, rfl, ?_⟩
  rw [State.mailboxWrite, if_neg (by simp [hne]; omega)]
  split
  next h => exact ⟨by rw [mailbox_outMark]; exact mailbox_outMark, by rw [mbpend_outMark, h, Bool.or_true]⟩
  next h => exact ⟨mailbox_outMark, by rw [mbpend_outMark, Bool.eq_false_iff.mpr h, Bool.or_false]⟩
end

end Sys2Proof.Machine
end

section
open Sys2Proof Sys2Proof.Machine

/-- Settles O49: each store, doorbell and mailbox write does to its block what the block's rule says. -/
theorem controlSpaceEvents : Obligations.ControlSpaceEvents := by
  unfold Obligations.ControlSpaceEvents
  intro d i o f page off pa v w b pas nonce bs q s dom slot
  refine ⟨fun hd ho hlive huse => ⟨exec_tgenWrite hd ho hlive huse, fun hone => ?_, fun hone _ => exec_pasidWrite_other hd ho hlive huse hone,
      exec_toffWrite hd ho hlive huse, exec_loadRequest hd ho hlive huse⟩,
    exec_pasidWrite_teardown, exec_attestNonceWrite, exec_attestNonceWrite_refused, exec_queueSlotEnableWrite,
    fun hi ho hlive hmine => ?_, fun t ho hlive hput => ?_, ctlEvent_refused, fun hfind hbound hf hpage hmine hq => ⟨fun hc hin => ?_, fun hc hin => ?_⟩,
    fun hin hne => ?_, ?_⟩
  · obtain ⟨t, hstep, hdom⟩ := exec_pasidWrite_host (pas := pas) hd ho hlive huse hone
    exact ⟨t, hstep, hdom.trans (storePasid_eq _ _ _)⟩
  · obtain ⟨t, q, hstep, hslot, hlogn, hhead, htail, hcompl⟩ := exec_tailwWrite (w := w) hi ho hlive hmine
    have hat := qslotAt_setQslot s i q
    have hring (hc : slot.completion = false) := ring_launch (s := s.setQslot i q) (w := w) (i := i) (by rw [hat, hcompl]; exact hc)
    rw [hat, hlogn, hhead] at hring
    refine ⟨t, hstep, fun hc hin => ?_, fun hc hout => ?_⟩
    · rw [hslot, hring hc, if_neg (Nat.not_lt.mpr hin), qslotAt_setQslot]
      exact ⟨rfl, hhead⟩
    · rw [hslot, hring hc, if_pos hout, qslotAt_setQslot]
      exact ⟨htail, rfl⟩
  · show s.ctlEvent o pa bs = _
    rw [State.ctlEvent, if_neg (by simp [ho, hlive]), hput]
  · show Host.Outcome.next (s.doorbell f page w false) = _
    rw [← hc, doorbell_rings hfind hbound hf hpage hmine, ring_launch (by rw [hq]; exact hc), hq, if_neg (Nat.not_lt.mpr hin)]
  · refine ⟨_, congrArg Host.Outcome.next (hc ▸ doorbell_rings hfind hbound hf hpage hmine), ?_⟩
    rw [qslotAt_outMark]
    exact ring_completion (by rw [hq]; exact hc) (by rw [hq]; exact hin)
  · obtain ⟨t, hstep, hbox, hpend⟩ := exec_mailboxDoorbell (s := s) hin hne
    refine ⟨t, hstep, hbox, hpend.trans ?_⟩
    have hflag : decide (off < 0xFF8 + 1) = decide (off ≤ 0xFF8) := decide_eq_decide.mpr Nat.lt_succ_iff
    rw [touches, hflag]
  · exact congrArg Host.Outcome.next (if_pos (by simp))

end

section
/-! SUPPORT. The launch unit, the pools and the completion tree: the step of each event where it is enabled (R304 to R317, R374
to R376). -/

namespace Sys2Proof.Machine

/-- What a search by key finds after a put there. -/
theorem Table.find?_put_same {α : Type} (t : Table α) (k : Nat) (v : α) : (Table.put t k v).find? (fun p => p.1 == k) = some (k, v) := by
  induction t with
  | nil => simp [Table.put]
  | cons p t ih =>
    obtain ⟨j, w⟩ := p
    rw [Table.put]
    split
    · simp
    · split
      · simp
      · next h => rw [List.find?_cons_of_neg (by simpa using fun e => h e.symm), ih]

section
variable {s t u : State} {slot die : Nat} {l : Launch} {n : PoolNode}

theorem launchAt_setLaunch (s : State) (slot : Nat) (l : Launch) : (s.setLaunch slot l).launchAt slot = some l :=
  congrArg (Option.map Prod.snd) (Table.find?_put_same s.slots slot l)

/-- The fetch of the slot whose turn it is (R374). -/
theorem exec_launchFetch {i : Nat} {seen : BitVec 64} (hendowed : s.endowed = true)
    (hturn : ((List.range 1024).map fun k => (s.qnext + k) % 1024).find? s.fetchable = some i)
    (hseen : ({ s with qnext := (i + 1) % 1024 } : State).stampReads [slotBlock i / 128] 0 = (seen, u)) :
    let q := s.qslotAt i
    exec (.launchFetch i) s = Option.elim (u.unitReadAt q.dom.toNat (q.ring.toNat + 128 * (q.head.toNat % 2 ^ q.logn.toNat)) 128 seen)
      (.next (u.stepQslot i { q with stopped := true, err := true } seen))
      fun r => .next ((r.2.2.admitRecord r.1 (.queue q.queue.toNat) r.2.1).stepQslot i { q with head := q.head + 1 } r.2.1) := by
  change execLaunchFetch i s = _
  rw [execLaunchFetch, if_pos (by simp only [hendowed, hturn, beq_self_eq_true, Bool.and_self])]
  simp only [hseen]
  split
  · next h => rw [h]; rfl
  · next h => rw [h]; rfl

/-! Expansion (R304). -/

/-- The one launch that has a task for a die is next. -/
theorem expandNext_single (hslots : s.slots = [(slot, l)]) (hmore : l.next < l.total) (hdie : s.dieFor l = die) :
    s.expandNext die = some (slot, l) := by
  have hact : (s.slots.filter fun p => decide (p.2.next < p.2.total) && s.dieFor p.2 == die) = [(slot, l)] := by
    rw [hslots]
    simp [hmore, hdie]
  rw [State.expandNext, hact]
  simp only [List.filter_cons, List.filter_nil]
  split <;> rename_i h <;> split at h <;> simp_all [leastLaunch]

theorem exec_taskExpand (hnext : s.expandNext die = some (slot, l)) (hroom : (nodesOf s die).length < poolSize)
    (hphase : s.poolPhase die < 3) : ∃ t m, exec (.taskExpand die) s = .next t ∧ t.pool = s.pool ++ [m] ∧ m.die = die ∧
      m.slot = slot ∧ m.pos = l.next ∧ m.ended = none ∧ (m.edges = [] → m.st = .ready) ∧ (m.edges ≠ [] → m.st = .waiting) ∧
      (t.launchAt slot).map Launch.next = some (l.next + 1) := by
  change ∃ t m, execTaskExpand die s = .next t ∧ _
  simp only [execTaskExpand, hnext]
  rw [if_neg (by simp [hroom, hphase])]
  refine ⟨_, _, rfl, rfl, rfl, rfl, rfl, rfl, fun h => ?_, fun h => ?_, ?_⟩
  · rw [List.map_eq_nil_iff] at h
    exact if_pos (List.isEmpty_iff.mpr h)
  · rw [ne_eq, List.map_eq_nil_iff] at h
    exact if_neg (by rwa [List.isEmpty_iff])
  · exact congrArg (Option.map Launch.next) (launchAt_setLaunch _ slot _)

/-! Retirement (R307). -/

section
variable {o : Outc} {w : Word} {m : PoolNode}

/-- A discard leaves the nodes of the pool but that some have ended. -/
theorem id_of_mem_discard (h : m ∈ (s.discard n o w).pool) : ∃ p ∈ s.pool, p.id = m.id := by
  obtain ⟨p, hp, rfl⟩ := List.mem_map.mp h
  refine ⟨p, hp, ?_⟩
  split <;> rfl

theorem mem_of_mem_discard (hopen : m.ended = none) (h : m ∈ (s.discard n o w).pool) : m ∈ s.pool := by
  obtain ⟨p, hp, rfl⟩ := List.mem_map.mp h
  split at hopen
  · cases hopen
  · next hout => rwa [if_neg hout]

/-- A node of the pool is one of its gang. -/
theorem mem_gangNodes (h : n ∈ s.pool) : n ∈ s.gangNodes n := by
  rw [State.gangNodes]
  split
  · split
    · exact List.mem_singleton_self n
    · exact List.mem_filter.mpr ⟨h, by simp⟩
  · exact List.mem_singleton_self n

/-- A discard ends the node that it is for, unless it has been dispatched or has ended (R26). -/
theorem not_mem_discard (hopen : n.ended = none) (hst : n.st ≠ .dispatched) : n ∉ (s.discard n o w).pool := fun h => by
  have hgone : n ∈ (s.gangNodes n).filter fun m => m.st != .dispatched && m.ended.isNone :=
    List.mem_filter.mpr ⟨mem_gangNodes (mem_of_mem_discard hopen h), by simp [hst, hopen]⟩
  obtain ⟨p, _, hp⟩ := List.mem_map.mp h
  split at hp
  · rw [← hp] at hopen; cases hopen
  · next hout => exact hout (List.any_eq_true.mpr ⟨n, hgone, by rw [hp, beq_self_eq_true]⟩)

theorem id_of_mem_discards (ns : List PoolNode) (h : m ∈ (ns.foldl (fun s n => s.discard n o w) s).pool) : ∃ p ∈ s.pool, p.id = m.id := by
  induction ns generalizing s with
  | nil => exact ⟨m, h, rfl⟩
  | cons n ns ih =>
    obtain ⟨p, hp, hid⟩ := ih h
    obtain ⟨q, hq, hid'⟩ := id_of_mem_discard hp
    exact ⟨q, hq, hid'.trans hid⟩

/-- What has not ended after discards was there before, and none of them was for it. -/
theorem not_mem_of_mem_discards (ns : List PoolNode) (hopen : m.ended = none) (hst : m.st ≠ .dispatched)
    (h : m ∈ (ns.foldl (fun s n => s.discard n o w) s).pool) : m ∈ s.pool ∧ m ∉ ns := by
  induction ns generalizing s with
  | nil => exact ⟨h, List.not_mem_nil⟩
  | cons n ns ih =>
    obtain ⟨hmem, hns⟩ := ih h
    refine ⟨mem_of_mem_discard hopen hmem, fun hcons => ?_⟩
    rcases List.mem_cons.mp hcons with rfl | hin
    · exact not_mem_discard hopen hst hmem
    · exact hns hin
end

/-- The later tasks of a launch with footprints come after a node that retires (R306). -/
def State.afterNode (s : State) (n : PoolNode) : State :=
  match s.launchAt n.slot with
  | some l => if l.fps.isEmpty then s else s.setLaunch n.slot { l with pts := later l.pts n.pts }
  | none => s

@[simp] theorem pool_afterNode (s : State) (n : PoolNode) : (s.afterNode n).pool = s.pool := by
  unfold State.afterNode
  split
  · split <;> rfl
  · rfl

@[simp] theorem now_afterNode (s : State) (n : PoolNode) : (s.afterNode n).now = s.now := by
  unfold State.afterNode
  split
  · split <;> rfl
  · rfl

/-- Does a node wait for node `id` of the slot of `n`? -/
def PoolNode.succOf (n : PoolNode) (id : Nat) (m : PoolNode) : Bool := m.slot == n.slot && m.edges.contains id && m.ended.isNone

/-- A node retires: its successors lose the edge to it, or are discarded where it failed (R307). -/
theorem exec_nodeRetire {id : Nat} {ok : Bool} (hfind : s.pool.find? (fun m => m.id == id) = some n) (hended : n.ended = some ok)
    (hphase : s.poolPhase n.die = 0) :
    let left := s.pool.filter fun m => m.id != id
    (∃ t, exec (.nodeRetire id) s = .next t ∧ t.pool = left.map fun m => if n.succOf id m then m.unedge n s.now else m) ∨
      ok = false ∧ ∃ u : State, u.pool = left ∧
        exec (.nodeRetire id) s = .next ((left.filter (n.succOf id)).foldl (fun s m => s.discard m .late 16) u) := by
  intro left
  let kept : State := { s with pool := left }
  let u := kept.afterNode n
  have hpool : u.pool = left := pool_afterNode kept n
  have hstep : exec (.nodeRetire id) s = if ok || ((kept.launchAt n.slot).map Launch.tolerant).getD false then
      .next { u with pool := u.pool.map fun m => if n.succOf id m then m.unedge n u.now else m }
      else .next ((u.pool.filter (n.succOf id)).foldl (fun s m => s.discard m .late 16) u) := by
    change execNodeRetire id s = _
    simp only [execNodeRetire, hfind, hended, hphase, ne_eq, not_true, if_false]
    rfl
  rw [hstep]
  split
  · refine .inl ⟨_, rfl, ?_⟩
    show List.map _ u.pool = _
    rw [hpool, now_afterNode]
    rfl
  · next hno => exact .inr ⟨(Bool.or_eq_false_iff.mp (Bool.eq_false_iff.mpr hno)).1, u, hpool, by rw [hpool]⟩

/-- A node that comes from another by the removal of an edge. -/
theorem unedge_spec (m n : PoolNode) (now : Nat) : (m.unedge n now).id = m.id ∧ (m.unedge n now).slot = m.slot ∧
    (m.unedge n now).ended = m.ended ∧ (m.unedge n now).edges = m.edges.filter fun e => e != n.id := by
  simp only [PoolNode.unedge]
  split <;> exact ⟨rfl, rfl, rfl, rfl⟩

/-- No successor keeps an edge to a node that has retired by the removal of edges (R307). -/
theorem retired_of_unedge {id : Nat} {m : PoolNode} {now : Nat} (hid : n.id = id) (hm : m ∈ (s.pool.filter fun m => m.id != id).map fun m =>
      if n.succOf id m then m.unedge n now else m) :
    m.id ≠ id ∧ (m.slot = n.slot → m.ended = none → id ∉ m.edges) := by
  obtain ⟨p, hp, rfl⟩ := List.mem_map.mp hm
  have hpid : p.id ≠ id := bne_iff_ne.mp (List.mem_filter.mp hp).2
  obtain ⟨huid, -, -, hedges⟩ := unedge_spec p n now
  split
  · rw [huid, hedges, hid]
    exact ⟨hpid, fun _ _ h => absurd rfl (bne_iff_ne.mp (List.mem_filter.mp h).2)⟩
  · next hno => exact ⟨hpid, fun hslot hopen hmem => hno (by simp [PoolNode.succOf, hslot, hopen, hmem])⟩

theorem nodeRetire_done {id : Nat} (hfind : s.pool.find? (fun m => m.id == id) = some n) (hended : n.ended = some true)
    (hphase : s.poolPhase n.die = 0) : ∃ t, exec (.nodeRetire id) s = .next t ∧ ∀ m ∈ t.pool, m.id ≠ id ∧
      (m.slot = n.slot → m.ended = none → id ∉ m.edges) := by
  have hid : n.id = id := by simpa using List.find?_some hfind
  obtain ⟨t, hstep, hpool⟩ | ⟨hno, -⟩ := exec_nodeRetire hfind hended hphase
  · exact ⟨t, hstep, fun m hm => retired_of_unedge hid (hpool ▸ hm)⟩
  · cases hno

theorem nodeRetire_failed {id : Nat} (hfind : s.pool.find? (fun m => m.id == id) = some n) (hended : n.ended = some false)
    (hphase : s.poolPhase n.die = 0) : ∃ t, exec (.nodeRetire id) s = .next t ∧ ∀ m ∈ t.pool, m.id ≠ id ∧
      (m.slot = n.slot → m.st ≠ .dispatched → m.ended = none → id ∉ m.edges) := by
  have hid : n.id = id := by simpa using List.find?_some hfind
  obtain ⟨t, hstep, hpool⟩ | ⟨-, u, hleft, hstep⟩ := exec_nodeRetire hfind hended hphase
  · refine ⟨t, hstep, fun m hm => ?_⟩
    obtain ⟨hne, hedges⟩ := retired_of_unedge hid (hpool ▸ hm)
    exact ⟨hne, fun hslot _ => hedges hslot⟩
  · refine ⟨_, hstep, fun m hm => ⟨?_, fun hslot hst hopen hmem => ?_⟩⟩
    · obtain ⟨p, hp, hpid⟩ := id_of_mem_discards _ hm
      rw [hleft] at hp
      exact hpid ▸ bne_iff_ne.mp (List.mem_filter.mp hp).2
    · obtain ⟨hin, hout⟩ := not_mem_of_mem_discards _ hopen hst hm
      exact hout (List.mem_filter.mpr ⟨hleft ▸ hin, by simp [PoolNode.succOf, hslot, hopen, hmem]⟩)

/-! Dispatch (R308 to R313). -/

theorem exec_taskDispatch (h : (s.unitOrder die).findSome? (fun n => s.tryUnit die n) = some t) :
    exec (.taskDispatch die) s = .next (t.poolAt die 4) := by
  change execTaskDispatch die s = _
  rw [execTaskDispatch, h]

/-- A READY node that is not late goes to the core it is given (R311). -/
theorem tryUnit_single {k : Nat} (hl : s.launchAt n.slot = some l) (hready : s.readyUnit n = some [n]) (hlog : l.logMode ≠ 2)
    (hbucket : s.bucketEmpty l.domain = false) (huse : (s.entryOf cDomain l.domain).ended = false) (hlate : s.nodeLate n = false)
    (hplace : s.placeUnit die l [n] = some [k]) : s.tryUnit die n = some (s.sendNode n k) := by
  have hnone : [n].any s.nodeLate = false := by rw [List.any_cons, hlate]; rfl
  simp only [State.tryUnit, hl, hready, hbucket, huse, hnone, hplace, Bool.or_self, Bool.false_eq_true, if_false, if_neg hlog]
  rfl

/-- The least of a list's members by a measure is one of them. -/
theorem foldl_least_mem {α : Type} {f : α → Nat} (l : List α) (a : α) : l.foldl (fun b c => if f c < f b then c else b) a ∈ a :: l :=
  List.foldlRecOn (motive := fun b => b ∈ a :: l) l _ List.mem_cons_self fun b hb c hc => by
    split
    · exact List.mem_cons_of_mem _ hc
    · exact hb

/-- The one chosen of a list that is not empty is one of them. -/
theorem chosen_mem {f : Nat → Nat} {x id : Nat} (cs : List Nat) (h : x ∈ cs) : ∃ c ∈ cs, (match (generalizing := false) cs with
    | [] => none
    | c :: rest => some (rest.foldl (fun b c => if f c < f b then c else b) c, id)) = some (c, id) := by
  cases cs with
  | nil => cases h
  | cons c rest => exact ⟨_, foldl_least_mem rest c, rfl⟩

/-- A gang that has waited for 2^20 ticks has a cluster of its die drained for it (R313). -/
theorem drainFor_starved {ns : List PoolNode} (hdrains : s.drains = []) (horder : s.unitOrder die = [n]) (hl : s.launchAt n.slot = some l)
    (hgang : l.gsize ≠ 0) (hready : s.readyUnit n = some ns) (hwait : unitReady ns + 2 ^ 20 ≤ s.now)
    (hrun : ∃ c, c < 64 ∧ ∀ k, k < 16 → s.canRun l (16 * (64 * die + c) + k) = true) (hsize : 2 ^ l.gsize ≤ 16) :
    ∃ c, s.drainFor die = some (c, n.id) ∧ 64 * die ≤ c ∧ c < 64 * die + 64 := by
  obtain ⟨c, hc, hcores⟩ := hrun
  let run (c : Nat) : Bool := (List.range (16 / 2 ^ l.gsize)).any fun i => (List.range (2 ^ l.gsize)).all fun j =>
    s.canRun l (16 * c + 2 ^ l.gsize * i + j)
  have hsome : 64 * die + c ∈ ((List.range 64).map fun i => 64 * die + i).filter run := by
    refine List.mem_filter.mpr ⟨List.mem_map.mpr ⟨c, List.mem_range.mpr hc, rfl⟩, List.any_eq_true.mpr ⟨0, ?_, ?_⟩⟩
    · exact List.mem_range.mpr (Nat.div_pos hsize (Nat.two_pow_pos _))
    · refine List.all_eq_true.mpr fun j hj => hcores j ?_
      exact Nat.lt_of_lt_of_le (List.mem_range.mp hj) hsize
  have hdue : (decide (l.gsize ≠ 0) && decide (unitReady ns + 2 ^ 20 ≤ s.now)) = true := by
    rw [decide_eq_true hgang, decide_eq_true hwait]; rfl
  obtain ⟨b, hb, hchosen⟩ := chosen_mem (id := n.id) (f := fun c => (List.range 16).countP fun i =>
    (s.coreAt (16 * c + i)).task && (s.coreAt (16 * c + i)).deadline == 0) _ hsome
  refine ⟨b, ?_, ?_⟩
  · rw [State.drainFor, hdrains, horder]
    simp only [List.any_nil, Bool.false_eq_true, if_false, List.findSome?_cons, hl, hready, hdue, if_true]
    exact hchosen
  · obtain ⟨i, hi, rfl⟩ := List.mem_map.mp (List.mem_filter.mp hb).1
    have := List.mem_range.mp hi
    omega

/-! The completion tree (R317, R375). -/

section
variable {node : Nat}

/-- Dropping a segment touches neither the tree nor the launch slots. -/
theorem launchCompletes_frame (s : State) (seq : Nat) : (s.launchCompletes seq).words = s.words ∧ (s.launchCompletes seq).slots = s.slots := by
  have hdrop : ∀ (s : State) (g : Seg), (s.dropSeg g).words = s.words ∧ (s.dropSeg g).slots = s.slots := fun s g => by
    rw [State.dropSeg]
    split <;> exact ⟨rfl, rfl⟩
  exact ⟨foldl_view_same (v := State.words) (fun s g => (hdrop s g).1) _ s, foldl_view_same (v := State.slots) (fun s g => (hdrop s g).2) _ s⟩

/-- The words of a launch at a node of the tree. -/
def TreeWord.atNode (slot node : Nat) (w : TreeWord) : Bool := w.slot == slot && w.node == node

/-- The word that the words of a launch at a node make together. -/
def State.wordAbove (s : State) (slot node : Nat) : TreeWord :=
  let ws := s.words.filter (TreeWord.atNode slot node)
  { slot := slot, node := dieNode (node / 64), completed := (ws.map TreeWord.completed).sum, late := (ws.map TreeWord.late).sum
    faulted := (ws.map TreeWord.faulted).sum, flags := ws.foldl (fun f w => f ||| w.flags) 0
    pts := ws.foldl (fun t w => later t w.pts) 0, since := s.now }

/-- A launch with the counts of a word at its root. -/
def Launch.counted (l : Launch) (w : TreeWord) : Launch :=
  { l with completed := l.completed + w.completed, late := l.late + w.late, faulted := l.faulted + w.faulted
           flags := l.flags ||| w.flags, cpts := later l.cpts w.pts }

theorem exec_treePropagate (hsome : ∃ w ∈ s.words, TreeWord.atNode slot node w = true) :
    let above : State := { s with words := s.words.filter fun w => !TreeWord.atNode slot node w }
    let sum := s.wordAbove slot node
    (node < 1024 → exec (.treePropagate slot node) s = .next { s with words := above.words ++ [sum] }) ∧
    (1024 ≤ node → s.launchAt slot = some l → ∀ m, m = l.counted sum →
      exec (.treePropagate slot node) s = .next (if m.completed + m.late + m.faulted = m.total then
        ({ above with serial := s.serial + 1 }.setLaunch slot { m with doneAt := some s.serial }).launchCompletes m.seq
        else above.setLaunch slot m)) := by
  intro above sum
  have hne : (s.words.filter (TreeWord.atNode slot node)).isEmpty = false := by
    obtain ⟨w, hw, hmine⟩ := hsome
    exact Bool.eq_false_iff.mpr fun h => List.not_mem_nil ((List.isEmpty_iff.mp h) ▸ List.mem_filter.mpr ⟨hw, hmine⟩)
  refine ⟨fun hnode => ?_, fun hnode hl m hm => ?_⟩
  · change execTreePropagate slot node s = _
    refine (if_neg (Bool.eq_false_iff.mp hne)).trans ((if_pos hnode).trans rfl)
  · change execTreePropagate slot node s = _
    have hl' : above.launchAt slot = some l := hl
    refine (if_neg (Bool.eq_false_iff.mp hne)).trans ((if_neg (Nat.not_lt.mpr hnode)).trans ?_)
    dsimp only
    split
    · next hnone => cases hl'.symm.trans hnone
    next x hsome =>
    obtain rfl : l = x := Option.some.inj (hl'.symm.trans hsome)
    rw [hm]
    exact (apply_ite Host.Outcome.next _ _ _).symm

/-- At the root the words of a launch are counted, and its last completes it (R317). -/
theorem treePropagate_root (hsome : ∃ w ∈ s.words, TreeWord.atNode slot node w = true) (hnode : 1024 ≤ node)
    (hl : s.launchAt slot = some l) : ∃ t m, exec (.treePropagate slot node) s = .next t ∧ t.launchAt slot = some m ∧
      t.words = (s.words.filter fun w => !TreeWord.atNode slot node w) ∧
      m.completed = l.completed + ((s.words.filter (TreeWord.atNode slot node)).map TreeWord.completed).sum ∧
      (m.completed + m.late + m.faulted = m.total → m.doneAt = some s.serial) := by
  have hstep := (exec_treePropagate hsome).2 hnode hl _ rfl
  split at hstep
  · refine ⟨_, { l.counted (s.wordAbove slot node) with doneAt := some s.serial }, hstep, ?_, ?_, rfl, fun _ => rfl⟩
    · exact (congrArg (fun x => (x.find? fun p => p.1 == slot).map Prod.snd) (launchCompletes_frame _ _).2).trans (launchAt_setLaunch _ _ _)
    · exact (launchCompletes_frame _ _).1
  · next hnot => exact ⟨_, _, hstep, launchAt_setLaunch _ _ _, rfl, rfl, fun h => absurd h hnot⟩
end

/-! Completion records (R375, R376). -/

/-- Once a record is written, TAIL advances past it; the slot signals where THRESH is met. -/
theorem exec_completionRecordWrite_tail {w : Written} (hl : s.launchAt slot = some l) (hw : l.wrote = some w) :
    let qs := s.qslotAt w.slot
    let x : QSlot := { qs with tail := qs.tail + 1, p := qs.p + 1, t0 := if qs.p = 0 then w.tick else qs.t0
                               full := decide ((qs.tail + 1 - qs.head).toNat = 2 ^ qs.logn.toNat) }
    let t := (s.stepQslot w.slot x w.pts).freeLaunch slot
    exec (.completionRecordWrite slot) s = .next (if qs.thresh ≠ 0 ∧ qs.thresh.toNat ≤ x.p then t.signal w.slot else t) := by
  intro qs x t
  have hrecord : s.writeRecord slot = some (if x.countMet then t.signal w.slot else t) := by
    rw [State.writeRecord, hl, Option.bind_some]
    dsimp only
    rw [hw]
    rfl
  have hmet : (x.countMet = true) = (qs.thresh ≠ 0 ∧ qs.thresh.toNat ≤ x.p) := by
    simp only [QSlot.countMet, Bool.and_eq_true, bne_iff_ne, decide_eq_true_eq, x]
  rw [← if_congr hmet.to_iff rfl rfl]
  exact congrArg (fun r => Host.Outcome.next (r.getD s)) hrecord

section
variable {done : Nat} (hl : s.launchAt slot = some l) (hdone : l.doneAt = some done) (hwrote : l.wrote = none)
include hl hdone hwrote

theorem writeRecord_noQueue (hcq : l.cq = 0xFFFF) :
    s.writeRecord slot = some ((s.landExt fun w => w.launch == some l.seq).freeLaunch slot) := by
  simp only [State.writeRecord, hl, hdone, hwrote, Option.bind_some]
  exact if_pos hcq

/-- The record of the only launch is next in its queue's slot. -/
theorem writeRecord_slot {cl : Nat} {qs : QSlot} (hcq : l.cq ≠ 0xFFFF)
    (hz : (s.landExt fun w => w.launch == some l.seq).slots = [(slot, l)])
    (hfind : (s.landExt fun w => w.launch == some l.seq).qslots.find?
      (fun p => p.2.enable && p.2.completion && p.2.queue.toNat == l.cq) = some (cl, qs)) :
    let z := s.landExt fun w => w.launch == some l.seq
    s.writeRecord slot =
      if (qs.tail - qs.head).toNat = 2 ^ qs.logn.toNat then if qs.full then none else some (z.stepQslot cl { qs with full := true } 0)
      else (z.unitWriteAt qs.dom.toNat (qs.ring.toNat + 64 * (qs.tail.toNat % 2 ^ qs.logn.toNat)) (l.completion z.now) l.cpts).map
        fun r => r.2.setLaunch slot { l with wrote := some ⟨cl, z.now, r.1⟩ } := by
  intro z
  have hfirst : ([(slot, l)].all fun p => p.2.cq != l.cq || match p.2.doneAt with
      | some u => decide (done ≤ u)
      | none => true) = true := by simp [hdone]
  simp only [State.writeRecord, hl, hdone, hwrote, Option.bind_some, hz, hfind, if_neg hcq]
  exact if_neg (by simp [hdone])
end
end

end Sys2Proof.Machine
end

section
open Sys2Proof Sys2Proof.Machine

/-- Settles O51: each event of the launch unit, where it is enabled, makes the step that its rule gives. -/
theorem launchEvents : Obligations.LaunchEvents := by
  unfold Obligations.LaunchEvents
  intro i die id slot node cl bs pts r rest n ns l s u q v ring
  refine ⟨fun hendowed hturn => ⟨fun hnone => ?_, fun hsome => ?_⟩, fun hspawn hfree => ?_, expandNext_single, exec_taskExpand,
    fun hfind => ⟨nodeRetire_done hfind, nodeRetire_failed hfind, fun hlate => ?_⟩, fun t ht => exec_taskDispatch ht,
    fun k horder hl hready hlog hbucket huse hlate hplace => ?_, fun d hd => ?_, fun hdrains horder hl hgang hready hwait hrun hsize => ?_,
    fun hsome hnode => ?_, fun hsome hnode hl => treePropagate_root hsome hnode hl, fun done hl hdone hwrote hcq => ?_,
    fun done qs hl hdone hwrote hcq hz hfind hroom hwrite => ?_, fun w hl hw => ⟨fun hlow => ?_, fun hth hmet => ?_⟩,
    fun done qs hl hdone hwrote hcq hz hfind hfull hnot => ?_⟩
  · exact (exec_launchFetch hendowed hturn (seen := v.1) (u := v.2) rfl).trans (congrArg (Option.elim · _ _) hnone)
  · exact (exec_launchFetch hendowed hturn (seen := v.1) (u := v.2) rfl).trans (congrArg (Option.elim · _ _) hsome)
  · change execSpawnAdmit die s = _
    rw [execSpawnAdmit, hspawn]
    exact if_pos hfree
  · change execDeadlineDiscard id s = _
    rw [execDeadlineDiscard, hfind]
    exact congrArg Host.Outcome.next (if_pos hlate)
  · refine exec_taskDispatch ?_
    rw [horder, List.findSome?_cons, tryUnit_single hl hready hlog hbucket huse hlate hplace]
  · change execGangDrain die s = _
    rw [execGangDrain, hd]
  · obtain ⟨c, hc, hlo, hhi⟩ := drainFor_starved hdrains horder hl hgang hready hwait hrun hsize
    refine ⟨{ s with drains := Table.put s.drains die (c, n.id) }, c, ?_, ?_, hlo, hhi⟩
    · change execGangDrain die s = _
      rw [execGangDrain, hc]
    · show Table.put s.drains die (c, n.id) = _
      rw [hdrains]
      rfl
  · exact ⟨_, _, (exec_treePropagate (l := l) hsome).1 hnode, rfl, rfl, rfl, rfl, rfl, rfl⟩
  · exact congrArg (fun r => Host.Outcome.next (r.getD s)) (writeRecord_noQueue hl hdone hwrote hcq)
  · have hrecord := writeRecord_slot hl hdone hwrote hcq hz hfind
    dsimp only at hrecord
    rw [if_neg hroom, hwrite] at hrecord
    exact congrArg (fun r => Host.Outcome.next (r.getD s)) hrecord
  · rw [exec_completionRecordWrite_tail hl hw]
    refine congrArg Host.Outcome.next (if_neg fun h => ?_)
    rcases hlow with hzero | hless
    · exact h.1 hzero
    · exact absurd h.2 (Nat.not_le.mpr hless)
  · rw [exec_completionRecordWrite_tail hl hw]
    exact congrArg Host.Outcome.next (if_pos ⟨hth, hmet⟩)
  · have hrecord := writeRecord_slot hl hdone hwrote hcq hz hfind
    dsimp only at hrecord
    rw [if_pos hfull, if_neg (by simp [hnot])] at hrecord
    exact congrArg (fun r => Host.Outcome.next (r.getD s)) hrecord
end

section
/-! SUPPORT. The ownership map (R272): an entry put in its place, what is found of a core's entry and of its holder afterwards, and
the entry of a name. -/

namespace Sys2Proof.Machine

section
variable {e x : Entry} {k : Nat}

/-- Is the entry that of a core? -/
def Entry.isCore (x : Entry) : Bool := x.cls == cCore

/-- Adjacent entries of extents alone become one. -/
theorem filter_mergeEntries (es : List Entry) : (mergeEntries es).filter Entry.isCore = es.filter Entry.isCore := by
  induction es with
  | nil => rfl
  | cons e es ih =>
    rw [mergeEntries]
    split
    next f fs hm =>
      rw [hm] at ih
      split
      next hmerge =>
        simp only [Bool.and_eq_true] at hmerge
        obtain ⟨⟨hextent, -⟩, hsame⟩ := hmerge
        have hterms : e.terms = f.terms := beq_iff_eq.mp hsame
        have hcls : e.cls = f.cls := (congrArg Entry.cls hterms :)
        have hno : (e.cls == cCore) = false := by
          rcases Bool.or_eq_true_iff.mp hextent with h | h <;> rw [beq_iff_eq.mp h] <;> rfl
        have hf : ¬(f.isCore = true) := by rw [Entry.isCore, ← hcls, hno]; decide
        rw [List.filter_cons_of_neg hf] at ih
        rw [List.filter_cons_of_neg (by rw [Entry.isCore, hno]; decide), List.filter_cons_of_neg (by rw [Entry.isCore, hno]; decide), ih]
      next => rw [List.filter_cons, ih, List.filter_cons]
    next hm =>
      rw [hm] at ih
      rw [List.filter_cons, List.filter_cons, ih]

theorem mem_insertEntry (es : List Entry) : x ∈ insertEntry e es ↔ x = e ∨ x ∈ es := by
  induction es with
  | nil => rw [insertEntry, List.mem_cons]
  | cons f fs ih =>
    rw [insertEntry]
    split
    · rw [List.mem_cons]
    · rw [List.mem_cons, ih, List.mem_cons]
      exact or_left_comm

/-- Another entry inserted is not what is found. -/
theorem find?_insertEntry {p : Entry → Bool} (he : p e = false) (es : List Entry) : (insertEntry e es).find? p = es.find? p := by
  induction es with
  | nil => rw [insertEntry, List.find?_cons_of_neg (by simp [he])]
  | cons f fs ih =>
    rw [insertEntry]
    split
    · rw [List.find?_cons_of_neg (by simp [he])]
    · rw [List.find?_cons, List.find?_cons, ih]

/-- An entry inserted where no other is like it is what is found. -/
theorem find?_insertEntry_self {p : Entry → Bool} (he : p e = true) (es : List Entry) (hes : ∀ x ∈ es, p x = false) :
    (insertEntry e es).find? p = some e := by
  induction es with
  | nil => rw [insertEntry, List.find?_cons_of_pos he]
  | cons f fs ih =>
    rw [insertEntry]
    split
    · rw [List.find?_cons_of_pos he]
    · rw [List.find?_cons_of_neg (by simp [hes f List.mem_cons_self]), ih fun x hx => hes x (List.mem_cons_of_mem _ hx)]

/-- What is left of an entry has its holder, and lies outside the entry put. -/
theorem cut_spec {y : Entry} (h : y ∈ e.cut x) : y.holder = x.holder ∧ y.cls = x.cls ∧ y.aux = x.aux ∧ x.lo ≤ y.lo ∧ y.hi ≤ x.hi ∧
    (y.cls = e.cls → y.aux = e.aux → e.lo < y.hi → y.lo < e.hi → False) := by
  rw [Entry.cut] at h
  split at h
  next hmeets =>
    simp only [Entry.meets, Bool.and_eq_true, decide_eq_true_eq, beq_iff_eq] at hmeets
    obtain ⟨⟨⟨hcls, haux⟩, hlo⟩, hhi⟩ := hmeets
    rcases List.mem_append.mp h with h | h <;> split at h
    next hl => cases List.mem_singleton.mp h; exact ⟨rfl, rfl, rfl, Nat.le_refl _, Nat.le_of_lt hhi, fun _ _ h _ => absurd h (Nat.lt_irrefl _)⟩
    next => cases h
    next hr => cases List.mem_singleton.mp h; exact ⟨rfl, rfl, rfl, Nat.le_of_lt hlo, Nat.le_refl _, fun _ _ _ h => absurd h (Nat.lt_irrefl _)⟩
    next => cases h
  next hmeets =>
    cases List.mem_singleton.mp h
    refine ⟨rfl, rfl, rfl, Nat.le_refl _, Nat.le_refl _, fun hcls haux hlo hhi => hmeets ?_⟩
    simp [Entry.meets, hcls, haux, hlo, hhi]
end

/-! Cores after an entry is put in its place. -/

section
variable (s : State) (e : Entry)

/-- What is found of a core is not touched by the merge. -/
theorem find?_mergeEntries {p : Entry → Bool} (hp : ∀ x, p x = true → x.isCore = true) (es : List Entry) :
    (mergeEntries es).find? p = es.find? p := by
  have hfilter : ∀ l : List Entry, l.find? p = (l.filter Entry.isCore).find? p := fun l => by
    rw [List.find?_filter]
    refine List.find?_congr fun x _ => ?_
    cases hx : p x with
    | false => simp
    | true => simp [hp x hx]
  rw [hfilter, filter_mergeEntries, ← hfilter]

/-- What is left of the entries of a core elsewhere has the holder that was found. -/
theorem find?_cut {k : Nat} (hk : Entry.meets cCore 0 k (k + 1) e = false) (es : List Entry) :
    ((es.flatMap e.cut).find? (Entry.meets cCore 0 k (k + 1))).map Entry.holder =
      (es.find? (Entry.meets cCore 0 k (k + 1))).map Entry.holder := by
  induction es with
  | nil => rfl
  | cons x es ih =>
    rw [List.flatMap_cons, List.find?_append]
    cases hx : Entry.meets cCore 0 k (k + 1) x with
    | true =>
      rw [List.find?_cons_of_pos hx]
      have hsome : ∃ y ∈ e.cut x, Entry.meets cCore 0 k (k + 1) y = true := by
        simp only [Entry.meets, Bool.and_eq_true, Bool.and_eq_false_iff, decide_eq_true_eq, decide_eq_false_iff_not, beq_iff_eq, beq_eq_false_iff_ne] at hx hk
        obtain ⟨⟨⟨hcls, haux⟩, hlo⟩, hhi⟩ := hx
        rw [Entry.cut]
        split
        next hmeets =>
          simp only [Entry.meets, Bool.and_eq_true, decide_eq_true_eq, beq_iff_eq] at hmeets
          by_cases hleft : k < e.lo
          · exact ⟨{ x with hi := e.lo }, by rw [if_pos (by omega)]; simp, by simp [Entry.meets, hcls, haux, hleft]; omega⟩
          · have hright : e.hi ≤ k := by
              by_contra hin
              rcases hk with ((h | h) | h) | h
              · exact h (hmeets.1.1.1 ▸ hcls)
              · exact h (hmeets.1.1.2 ▸ haux)
              · omega
              · omega
            exact ⟨{ x with lo := e.hi }, by rw [if_pos (c := e.hi < x.hi) (by omega)]; simp, by simp [Entry.meets, hcls, haux, hhi]; omega⟩
        next => exact ⟨x, List.mem_singleton_self x, by simp [Entry.meets, hcls, haux, hlo, hhi]⟩
      cases hfind : (e.cut x).find? (Entry.meets cCore 0 k (k + 1)) with
      | none =>
        obtain ⟨y, hy, hmeets⟩ := hsome
        exact absurd hmeets (List.find?_eq_none.mp hfind y hy)
      | some y => exact congrArg some (cut_spec (List.mem_of_find?_eq_some hfind)).1
    | false =>
      rw [List.find?_cons_of_neg (by simp [hx]), ← ih]
      have hnone : (e.cut x).find? (Entry.meets cCore 0 k (k + 1)) = none := by
        refine List.find?_eq_none.mpr fun y hy hmeets => ?_
        obtain ⟨-, hcls, haux, hlo, hhi, -⟩ := cut_spec hy
        simp only [Entry.meets, Bool.and_eq_true, decide_eq_true_eq, beq_iff_eq] at hmeets
        obtain ⟨⟨⟨hycls, hyaux⟩, hylo⟩, hyhi⟩ := hmeets
        have hxmeets : Entry.meets cCore 0 k (k + 1) x = true := by
          simp only [Entry.meets, Bool.and_eq_true, decide_eq_true_eq, beq_iff_eq]
          exact ⟨⟨⟨hcls ▸ hycls, haux ▸ hyaux⟩, by omega⟩, by omega⟩
        rw [hx] at hxmeets
        cases hxmeets
      rw [hnone]
      rfl

/-- The holder of a core after an entry is put in its place: the entry's, where it is of that core, and else as before. -/
theorem holderOf_putEntry (k : Nat) : (s.putEntry e).holderOf k = if Entry.meets cCore 0 k (k + 1) e then e.holder else s.holderOf k := by
  have hcore : ∀ x : Entry, Entry.meets cCore 0 k (k + 1) x = true → x.isCore = true := fun x hx => by
    simp only [Entry.meets, Bool.and_eq_true] at hx
    exact hx.1.1.1
  have hholder : ∀ u : State, u.holderOf k = ((u.entries.find? (Entry.meets cCore 0 k (k + 1))).map Entry.holder).getD
      (Entry.dflt u.endowed cCore 0 k (k + 1)).holder := fun u => by
    rw [State.holderOf, State.coreEntry, State.entryOf]
    split <;> rename_i h <;> rw [h] <;> rfl
  have hentries : ((s.putEntry e).entries.find? (Entry.meets cCore 0 k (k + 1))) =
      (insertEntry e (s.entries.flatMap e.cut)).find? (Entry.meets cCore 0 k (k + 1)) := find?_mergeEntries hcore _
  rw [hholder, hentries]
  cases he : Entry.meets cCore 0 k (k + 1) e with
  | true =>
    rw [find?_insertEntry_self he, if_pos rfl]
    · rfl
    · intro y hy
      obtain ⟨x, -, hcut⟩ := List.mem_flatMap.mp hy
      obtain ⟨-, -, -, -, -, hout⟩ := cut_spec hcut
      refine Bool.eq_false_iff.mpr fun hmeets => ?_
      simp only [Entry.meets, Bool.and_eq_true, decide_eq_true_eq, beq_iff_eq] at hmeets he
      obtain ⟨⟨⟨hycls, hyaux⟩, hylo⟩, hyhi⟩ := hmeets
      obtain ⟨⟨⟨hcls, haux⟩, hlo⟩, hhi⟩ := he
      exact hout (hycls.trans hcls.symm) (hyaux.trans haux.symm) (by omega) (by omega)
  | false =>
    rw [find?_insertEntry he, find?_cut e he, if_neg (by decide), hholder]
    rfl

/-- An OID that holds a core elsewhere than where an entry is put holds it still. -/
theorem holdsCore_putEntry {o : Nat} (h : s.holdsCore o = true)
    (hout : ∀ x ∈ s.entries, Entry.meets e.cls e.aux e.lo e.hi x = true → x.holder ≠ o) : (s.putEntry e).holdsCore o = true := by
  obtain ⟨x, hx, hcore⟩ := List.any_eq_true.mp h
  have hcls : x.isCore = true := (Bool.and_eq_true_iff.mp hcore).1
  have hho : x.holder = o := beq_iff_eq.mp (Bool.and_eq_true_iff.mp hcore).2
  have hcut : e.cut x = [x] := if_neg fun hmeets => hout x hx hmeets hho
  have hmem : x ∈ (mergeEntries (insertEntry e (s.entries.flatMap e.cut))).filter Entry.isCore := by
    rw [filter_mergeEntries]
    refine List.mem_filter.mpr ⟨(mem_insertEntry _).mpr (.inr (List.mem_flatMap.mpr ⟨x, hx, ?_⟩)), hcls⟩
    rw [hcut]
    exact List.mem_singleton_self x
  exact List.any_eq_true.mpr ⟨x, (List.mem_filter.mp hmem).1, hcore⟩
end

/-! The entry of a name (R272). -/

section
variable {s : State} {r : Res} {en : Entry}

theorem mem_piecesFrom {d : Nat → Nat → Entry} {hi lo : Nat} {es : List Entry} {x : Entry} (hx : x ∈ es) :
    ∃ y ∈ piecesFrom d hi lo es, y.terms = x.terms := by
  induction es generalizing lo with
  | nil => cases hx
  | cons e es ih =>
    rw [piecesFrom]
    rcases List.mem_cons.mp hx with rfl | hx
    · exact ⟨_, List.mem_append_right _ List.mem_cons_self, rfl⟩
    · obtain ⟨y, hy, hterms⟩ := ih hx
      exact ⟨y, List.mem_append_right _ (List.mem_cons_of_mem _ hy), hterms⟩

theorem piecesFrom_kind {d : Nat → Nat → Entry} {cls aux : Nat} (hd : ∀ lo hi, (d lo hi).cls = cls ∧ (d lo hi).aux = aux) {hi lo : Nat}
    {es : List Entry} (hes : ∀ x ∈ es, x.cls = cls ∧ x.aux = aux) {y : Entry} (hy : y ∈ piecesFrom d hi lo es) : y.cls = cls ∧ y.aux = aux := by
  induction es generalizing lo with
  | nil =>
    rw [piecesFrom] at hy
    split at hy
    · cases List.mem_singleton.mp hy; exact hd _ _
    · cases hy
  | cons e es ih =>
    rw [piecesFrom] at hy
    rcases List.mem_append.mp hy with hy | hy
    · split at hy
      · cases List.mem_singleton.mp hy; exact hd _ _
      · cases hy
    · rcases List.mem_cons.mp hy with rfl | hy
      · exact hes e List.mem_cons_self
      · exact ih (fun x hx => hes x (List.mem_cons_of_mem _ hx)) hy

/-- The holder of an entry is one of its terms. -/
theorem holder_of_terms {x y : Entry} (h : x.terms = y.terms) : x.holder = y.holder := (congrArg Entry.holder h :)

/-- The entry of a name stands for all that the name names: every listed entry of it has the same holder. -/
theorem entryFor_spec (h : s.entryFor r = some en) : en.cls = r.cls ∧ en.aux = r.aux ∧ en.lo = r.lo ∧ en.hi = r.hi ∧
    ∀ x ∈ s.entries, Entry.meets r.cls r.aux r.lo r.hi x = true → x.holder = en.holder := by
  rw [State.entryFor] at h
  split at h
  · cases h
  next e es hpieces =>
  split at h
  next hall =>
    cases h
    have hterms : ∀ y ∈ s.pieces r, e.terms = y.terms := fun y hy => by
      rw [hpieces] at hy
      rcases List.mem_cons.mp hy with rfl | hy
      · rfl
      · exact beq_iff_eq.mp (List.all_eq_true.mp hall y hy)
    have hkind : e.cls = r.cls ∧ e.aux = r.aux := by
      refine piecesFrom_kind (cls := r.cls) (aux := r.aux) ?_ ?_ (hpieces ▸ List.mem_cons_self : e ∈ s.pieces r)
      · intro lo hi
        split
        · next hcls => exact ⟨hcls.symm, rfl⟩
        · exact ⟨rfl, rfl⟩
      · intro x hx
        have hmeets := (List.mem_filter.mp hx).2
        simp only [Entry.meets, Bool.and_eq_true, beq_iff_eq] at hmeets
        exact hmeets.1.1
    refine ⟨hkind.1, hkind.2, rfl, rfl, fun x hx hmeets => ?_⟩
    obtain ⟨y, hy, hxy⟩ := mem_piecesFrom (List.mem_filter.mpr ⟨hx, hmeets⟩)
    exact (holder_of_terms hxy).symm.trans (holder_of_terms (hterms y hy)).symm
  next => cases h
end

end Sys2Proof.Machine
end

section
/-! SUPPORT. The ownership instructions (R278 to R291) and the keeper's (R293), where their registers are ready and no store is
outstanding: what their bodies come to. -/

namespace Sys2Proof.Machine

theorem fault_bind {α β : Type} (c : BitVec 8) (v : Word) (f : α → Run β) : ((fault c v : Run α) >>= f) = fault c v := rfl
theorem ok_bind {α β : Type} (a : α) (f : α → Run β) : ((.ok a : Run α) >>= f) = f a := rfl

section
variable {s t u : State} {i : Instr} {len : Nat} {us : List Use} {body : State → Run Done} {c : BitVec 8} {v : Word}

/-- A map instruction ends as its body does (R276). -/
theorem own_finish (hexec : exec i s = s.ownInstr len us body) (hst : s.me.storing = false) (hr : s.ready us) :
    exec i s = s.finish len (body s) := by
  rw [hexec, State.ownInstr, instr_ready hr, hst]
  rfl

theorem retires_of_finish {run : Run Done} (h : exec i s = s.finish len run) (hrun : run = goes t) : Retires i s len t := by
  rw [Retires, h, hrun, finish_goes]

theorem traps_of_finish {run : Run Done} (h : exec i s = s.finish len run) (hrun : run = fault c v) : Traps i s c v := by
  rw [Traps, h, hrun, finish_fault]

theorem exec_accept (b : BitVec 5) (s : State) : exec (.accept b) s = execAccept b s := rfl
theorem exec_decline (b : BitVec 5) (s : State) : exec (.decline b) s = execDecline b s := rfl
theorem exec_recall (d b : BitVec 5) (s : State) : exec (.recall d b) s = execRecall d b s := rfl
theorem exec_reclaim (d b : BitVec 5) (s : State) : exec (.reclaim d b) s = execReclaim d b s := rfl
theorem exec_ownQ (w : BitVec 2) (d b : BitVec 5) (s : State) : exec (.ownQ w d b) s = execOwnQ w d b s := rfl
theorem exec_mint (d b : BitVec 5) (s : State) : exec (.mint d b) s = execMint d b s := rfl
theorem exec_retire (s : State) : exec .retire s = execRetire s := rfl
theorem exec_ownHook (k : BitVec 3) (a : BitVec 4) (s : State) : exec (.ownHook k a) s = execOwnHook k a s := rfl
theorem exec_kread (d a : BitVec 5) (n : BitVec 10) (x : BitVec 4) (s : State) : exec (.kread d a n x) s = execKread d a n x s := rfl
theorem exec_kwrite (a v : BitVec 5) (n : BitVec 10) (x : BitVec 4) (s : State) : exec (.kwrite a v n x) s = execKwrite a v n x s := rfl

/-! Names. -/

section
variable {n : Word} {r : Res}

theorem ownName_ok (h : Res.ofName n = some r) : ownName n = .ok r := by rw [ownName, h]
theorem ownName_bad (h : Res.ofName n = none) : ownName n = fault Cause.OWN_BAD_NAME n := by rw [ownName, h]
theorem ownLive_bad (h : Res.ofName n = none) : s.ownLive n = fault Cause.OWN_BAD_NAME n := by rw [State.ownLive, ownName_bad h]; rfl
theorem ownLive_ok (h : Res.ofName n = some r) (hd : ¬s.defunct r = true) : s.ownLive n = .ok r := by
  rw [State.ownLive, ownName_ok h, ok_bind, if_neg hd]
theorem ownLive_defunct (h : Res.ofName n = some r) (hd : s.defunct r = true) : s.ownLive n = fault Cause.OWN_NOT_HELD n := by
  rw [State.ownLive, ownName_ok h, ok_bind, if_pos hd]

/-- Where no step waits for a stop of the core, no accept does. -/
theorem accepting_of_plain (h : s.entryBusy r = false) : s.accepting r = false := by
  rw [State.entryBusy] at h
  rw [State.accepting]
  cases hcls : r.cls == cCore with
  | false => rfl
  | true =>
    rw [hcls, Bool.true_and] at h
    rw [Bool.true_and]
    cases hstop : (s.coreAt r.lo).stop with
    | none => rfl
    | some st =>
      rw [hstop, Option.any_some, Bool.not_eq_false', List.isEmpty_iff] at h
      rw [Option.any_some, h]
      rfl
end

/-! Offers (R279, R282). -/

section
variable {n t : Word} {r : Res} {e : Entry}

/-- An entry that its holder may offer is held by the executing OID. -/
theorem heldEntry_spec (h : s.heldEntry n r = .ok e) : s.entryFor r = some e ∧ e.holder = s.oid := by
  rw [State.heldEntry] at h
  split at h
  next f hfor =>
    split at h
    · cases h
    next hheld =>
      cases h
      simp only [Bool.or_eq_true, decide_eq_true_eq, bne_iff_ne, beq_iff_eq, not_or, not_not] at hheld
      exact ⟨hfor, hheld.1.2⟩
  · cases h

/-- No OID offers to itself (R273). -/
theorem ne_oid_of_target (h : s.badTarget t = false) : t.toNat ≠ s.oid := fun hself => by
  rw [State.badTarget, hself, beq_self_eq_true, Bool.or_true] at h
  cases h

/-- What follows the making of an offer: it is taken at once by a target that the executing OID sponsors and that holds no core,
and any other target is told (R279, R273). -/
def State.offerMade (s0 s : State) (n t : Word) (r : Res) (e : Entry) (o : Offer) : Run Done :=
  if (s.oids.any fun p => p.1 == t.toNat && p.2.sponsor == s.oid) && !s.holdsCore t.toNat then
    if s.touching s.oid r then waiting s0
    else if r.cls = cCore && !(s.coreAt r.lo).stopped then
      goes (s.beginStop r.lo Cause.STOP_HANDOVER o.husk s.oid (stopTick s.now) [.accept none n])
    else goes ((s.takeOffer { e with offer := some o } o).followMap e)
  else goes (s.notify ⟨t.toNat, 0, n, noticeData 0 n (word s.oid) (if o.lend then o.term else 0)⟩)

/-- An offer without a husk region that passes its checks is made. -/
theorem offer_plain {lends clr rc : Bool} {term : Word} {grace : BitVec 32} (hnone : e.offer = none) (hcls : r.cls ≠ cCore)
    (hpending : s.pendingTo t.toNat < 256) :
    let o : Offer := ⟨t.toNat, lends, clr, term, grace, rc, 0, [(r.lo, r.hi)]⟩
    s.offer n t r e none lends clr rc term grace =
      (s.mapStep e).2.splitTo n { (s.mapStep e).1 with offer := some o } >>= fun u => s.offerMade u n t r (s.mapStep e).1 o := by
  intro o
  rw [State.offer, hnone]
  have hcore : ¬((decide (r.cls = cCore) && !((none : Option (BitVec 5)).any fun h => h != 0)) = true) := by simp [hcls]
  exact (if_neg Bool.false_ne_true).trans ((if_neg hcore).trans ((if_neg Bool.false_ne_true).trans (if_neg (Nat.not_le.mpr hpending))))

/-- One with a husk region that the executing OID holds. -/
theorem offer_husk {x : BitVec 5} {lends clr rc : Bool} {term : Word} {grace : BitVec 32} (hnone : e.offer = none) (hx : x ≠ 0)
    (hheld : s.huskHeld s.oid (s.xr x) = true) (hpending : s.pendingTo t.toNat < 256) :
    let o : Offer := ⟨t.toNat, lends, clr, term, grace, rc, s.xr x, [(r.lo, r.hi)]⟩
    s.offer n t r e (some x) lends clr rc term grace =
      (s.mapStep e).2.splitTo n { (s.mapStep e).1 with offer := some o } >>= fun u => s.offerMade u n t r (s.mapStep e).1 o := by
  intro o
  have hnamed : (x != 0) = true := bne_iff_ne.mpr hx
  rw [State.offer, hnone]
  simp only [Option.isSome_none, Option.any_some, hnamed, if_neg hx, hheld, Bool.not_true, Bool.and_false, Bool.false_eq_true, if_false,
    if_neg (Nat.not_le.mpr hpending)]
  rfl

/-- The split that finds room leads to the map with the entry in its place. -/
theorem splitTo_ok {f : Entry} (h : s.splitTo n f = .ok u) : u = s.putEntry f := by
  rw [State.splitTo, State.splitCheck] at h
  split at h
  · cases h
  · exact (Except.ok.inj h).symm

/-- The target of an offer is told, unless the executing OID sponsors it and it holds no core. -/
theorem offerMade_told {o : Offer} (hheld : s.heldEntry n r = .ok e) (hself : t.toNat ≠ s.oid)
    (hput : (s.mapStep e).2.splitTo n { (s.mapStep e).1 with offer := some o } = .ok u)
    (hno : ¬((s.oids.any fun p => p.1 == t.toNat && p.2.sponsor == s.oid) = true ∧ s.holdsCore t.toNat = false)) :
    s.offerMade u n t r (s.mapStep e).1 o = goes (u.notify ⟨t.toNat, 0, n, noticeData 0 n (word u.oid) (if o.lend then o.term else 0)⟩) := by
  obtain ⟨hfor, hmine⟩ := heldEntry_spec hheld
  obtain ⟨hcls, haux, hlo, hhi, hall⟩ := entryFor_spec hfor
  have hu := splitTo_ok hput
  have hoid : u.oid = s.oid := by
    rw [hu]
    refine (holderOf_putEntry _ _ _).trans ?_
    split
    · exact hmine
    · rfl
  have hoids : u.oids = s.oids := by rw [hu]; rfl
  refine if_neg fun h => hno ?_
  rw [hoids, hoid, Bool.and_eq_true] at h
  refine ⟨h.1, Bool.eq_false_iff.mpr fun hcore => ?_⟩
  have hkept : u.holdsCore t.toNat = true := by
    rw [hu]
    refine holdsCore_putEntry _ _ hcore fun x hx hmeets hto => hself ?_
    have hmeets' : Entry.meets r.cls r.aux r.lo r.hi x = true := by
      rw [← hcls, ← haux, ← hlo, ← hhi]; exact hmeets
    rw [← hto, hall x hx hmeets', hmine]
  rw [hkept] at h
  cases h.2
end

/-! give and lend. -/

section
variable {a b c e : BitVec 5} {r : Res} {en : Entry} {husk : Option (BitVec 5)} {clr rc : Bool} {gr : BitVec 32}

section
variable (hexec : exec i s = s.giveTo len b c husk clr) (hst : s.me.storing = false)
  (hr : s.ready ([.x b, .x c] ++ husk.toList.map Use.x))
include hexec hst hr

theorem give_badName (hname : Res.ofName (s.xr b) = none) : exec i s = s.finish len (fault Cause.OWN_BAD_NAME (s.xr b)) := by
  rw [own_finish hexec hst hr]
  dsimp only
  rw [ownName_bad hname]
  rfl

variable (hname : Res.ofName (s.xr b) = some r) (hplain : s.entryBusy r = false)
include hname hplain

theorem give_badTarget (ht : s.badTarget (s.xr c) = true) : exec i s = s.finish len (fault Cause.OWN_BAD_OID (s.xr c)) := by
  rw [own_finish hexec hst hr]
  dsimp only
  rw [ownName_ok hname, ok_bind, if_neg (by simp [hplain]), if_pos ht]

variable (ht : s.badTarget (s.xr c) = false)
include ht

theorem give_notHeld {g : BitVec 8} {w : Word} (hheld : s.heldEntry (s.xr b) r = fault g w) : exec i s = s.finish len (fault g w) := by
  rw [own_finish hexec hst hr]
  dsimp only
  rw [ownName_ok hname, ok_bind, if_neg (by simp [hplain]), if_neg (by simp [ht]), hheld, fault_bind]

variable (hheld : s.heldEntry (s.xr b) r = .ok en)
include hheld

/-- give by the top borrower to the lender returns the entry (R287). -/
theorem give_return {l : Loan} (hlast : en.loans.getLast? = some l) (hl : (s.xr c).toNat = l.lender) : exec i s = s.finish len
    ((s.mapStep en).2.splitTo (s.xr b) ((s.mapStep en).2.unlent (s.mapStep en).1 (en.loans.length - 1) true) >>= fun _ =>
      goes ((s.mapStep en).2.voluntaryReturn (s.mapStep en).1)) := by
  rw [own_finish hexec hst hr]
  dsimp only
  rw [ownName_ok hname, ok_bind, if_neg (by simp [hplain]), if_neg (by simp [ht]), hheld, ok_bind]
  simp only [hlast, if_pos hl]
  rfl

theorem give_lent {l : Loan} (hlast : en.loans.getLast? = some l) (hl : (s.xr c).toNat ≠ l.lender) (hone : s.oid ≠ 1) :
    exec i s = s.finish len (fault Cause.OWN_NOT_HELD (s.xr b)) := by
  rw [own_finish hexec hst hr]
  dsimp only
  rw [ownName_ok hname, ok_bind, if_neg (by simp [hplain]), if_neg (by simp [ht]), hheld, ok_bind]
  simp only [hlast, if_neg hl, if_pos hone]

theorem give_gift (hloans : en.loans = []) (hone : s.oid ≠ 1) :
    exec i s = s.finish len (s.offer (s.xr b) (s.xr c) r en husk false clr false 0 0) := by
  rw [own_finish hexec hst hr]
  dsimp only
  rw [ownName_ok hname, ok_bind, if_neg (by simp [hplain]), if_neg (by simp [ht]), hheld, ok_bind]
  simp only [hloans, List.getLast?_nil, if_neg hone]

/-- give by the seed owner is a lend (R274). -/
theorem give_seed (hone : s.oid = 1) (hdeep : en.loans.length < 3)
    (hl : ∀ l, en.loans.getLast? = some l → (s.xr c).toNat ≠ l.lender) :
    exec i s = s.finish len (s.offer (s.xr b) (s.xr c) r en husk true clr true (BitVec.allOnes 64) (2 ^ 20)) := by
  rw [own_finish hexec hst hr]
  dsimp only
  rw [ownName_ok hname, ok_bind, if_neg (by simp [hplain]), if_neg (by simp [ht]), hheld, ok_bind]
  cases hlast : en.loans.getLast? with
  | none => simp only [if_pos hone]
  | some l => simp only [if_neg (hl l hlast), if_neg (not_not.mpr hone), if_neg (Nat.not_le.mpr hdeep)]
end

section
variable (hexec : exec i s = s.lendTo len rc clr a b c e gr) (hst : s.me.storing = false)
  (hr : s.ready [.x a, .x b, .x c, .x e]) (hname : Res.ofName (s.xr b) = some r) (hplain : s.entryBusy r = false)
  (ht : s.badTarget (s.xr c) = false) (hheld : s.heldEntry (s.xr b) r = .ok en)
include hexec hst hr hname hplain ht hheld

theorem lend_deep (hdeep : 3 ≤ en.loans.length) : exec i s = s.finish len (fault Cause.OWN_DEPTH (s.xr b)) := by
  rw [own_finish hexec hst hr]
  dsimp only
  rw [ownName_ok hname, ok_bind, if_neg (by simp [hplain]), if_neg (by simp [ht]), hheld, ok_bind]
  simp only [if_pos hdeep]

theorem lend_past (hdeep : en.loans.length < 3) (hpast : (s.xr e).toNat ≤ s.now) :
    exec i s = s.finish len (fault Cause.OWN_BAD_TERM (s.xr e)) := by
  rw [own_finish hexec hst hr]
  dsimp only
  rw [ownName_ok hname, ok_bind, if_neg (by simp [hplain]), if_neg (by simp [ht]), hheld, ok_bind]
  simp only [if_neg (Nat.not_le.mpr hdeep), decide_eq_true hpast, Bool.true_or, if_true]

theorem lend_offer (hdeep : en.loans.length < 3) (hterm : s.now < (s.xr e).toNat)
    (hl : ∀ l, en.loans.getLast? = some l → l.term.ult (s.xr e) = false ∧ l.grace.ult gr = false) :
    exec i s = s.finish len (s.offer (s.xr b) (s.xr c) r en (some a) true clr rc (s.xr e) gr) := by
  have hfuture : decide ((s.xr e).toNat ≤ s.now) = false := decide_eq_false (Nat.not_le.mpr hterm)
  rw [own_finish hexec hst hr]
  dsimp only
  rw [ownName_ok hname, ok_bind, if_neg (by simp [hplain]), if_neg (by simp [ht]), hheld, ok_bind]
  cases hlast : en.loans.getLast? with
  | none => simp only [if_neg (Nat.not_le.mpr hdeep), hfuture, Bool.or_self, Bool.false_eq_true, if_false]
  | some l =>
    obtain ⟨hlterm, hlgrace⟩ := hl l hlast
    simp only [if_neg (Nat.not_le.mpr hdeep), hfuture, hlterm, hlgrace, Bool.or_self, Bool.false_eq_true, if_false]
end
end

/-! accept and decline (R280, R281). -/

section
variable {b : BitVec 5} {r : Res} {en : Entry} {o : Offer} (hst : s.me.storing = false) (hr : s.ready [.x b])
include hst hr

theorem accept_done (hwait : s.me.wait = .done) : exec (.accept b) s = s.finish 4 (goes s) := by
  rw [own_finish (exec_accept b s) hst hr]
  dsimp only
  rw [if_pos (by simp [hwait])]

theorem accept_badName (hwait : s.me.wait ≠ .done) (hname : Res.ofName (s.xr b) = none) :
    exec (.accept b) s = s.finish 4 (fault Cause.OWN_BAD_NAME (s.xr b)) := by
  rw [own_finish (exec_accept b s) hst hr]
  dsimp only
  rw [if_neg (by simp [hwait]), ownLive_bad hname, fault_bind]

theorem decline_badName (hname : Res.ofName (s.xr b) = none) :
    exec (.decline b) s = s.finish 4 (fault Cause.OWN_BAD_NAME (s.xr b)) := by
  rw [own_finish (exec_decline b s) hst hr]
  dsimp only
  rw [ownLive_bad hname, fault_bind]

variable (hname : Res.ofName (s.xr b) = some r)
include hname

theorem accept_defunct (hwait : s.me.wait ≠ .done) (hd : s.defunct r = true) :
    exec (.accept b) s = s.finish 4 (fault Cause.OWN_NOT_HELD (s.xr b)) := by
  rw [own_finish (exec_accept b s) hst hr]
  dsimp only
  rw [if_neg (by simp [hwait]), ownLive_defunct hname hd, fault_bind]

theorem decline_defunct (hd : s.defunct r = true) : exec (.decline b) s = s.finish 4 (fault Cause.OWN_NOT_HELD (s.xr b)) := by
  rw [own_finish (exec_decline b s) hst hr]
  dsimp only
  rw [ownLive_defunct hname hd, fault_bind]

variable (hd : ¬s.defunct r = true)
include hd

theorem decline_none (hoffer : s.offerAt r = none) : exec (.decline b) s = s.finish 4 (fault Cause.OWN_NO_OFFER (s.xr b)) := by
  rw [own_finish (exec_decline b s) hst hr]
  dsimp only
  rw [ownLive_ok hname hd, ok_bind]
  simp only [hoffer]

variable (hplain : s.entryBusy r = false)
include hplain

theorem accept_none (hwait : s.me.wait ≠ .done) (hoffer : s.offerAt r = none) :
    exec (.accept b) s = s.finish 4 (fault Cause.OWN_NO_OFFER (s.xr b)) := by
  rw [own_finish (exec_accept b s) hst hr]
  dsimp only
  rw [if_neg (by simp [hwait]), ownLive_ok hname hd, ok_bind, if_neg (by simp [hplain])]
  simp only [hoffer]

theorem accept_other (hwait : s.me.wait ≠ .done) (hoffer : s.offerAt r = some (en, o)) (hto : o.target ≠ s.oid) :
    exec (.accept b) s = s.finish 4 (fault Cause.OWN_NO_OFFER (s.xr b)) := by
  rw [own_finish (exec_accept b s) hst hr]
  dsimp only
  rw [if_neg (by simp [hwait]), ownLive_ok hname hd, ok_bind, if_neg (by simp [hplain])]
  simp only [hoffer, if_pos hto]

theorem accept_takes (hwait : s.me.wait ≠ .done) (hoffer : s.offerAt r = some (en, o)) (hto : o.target = s.oid)
    (htouch : s.touching en.holder r = false) (hstop : r.cls = cCore → (s.coreAt r.lo).stopped = true) :
    exec (.accept b) s = s.finish 4 ((s.mapStep en).2.splitCheck (s.xr b) r.cls
      (((s.mapStep en).2.takeOffer (s.mapStep en).1 o).followMap (s.mapStep en).1) >>= goes) := by
  have hrun : ¬((decide (r.cls = cCore) && !(s.coreAt r.lo).stopped) = true) := by
    rw [Bool.and_eq_true, decide_eq_true_eq, Bool.not_eq_true']
    exact fun h => absurd (hstop h.1) (by simp [h.2])
  rw [own_finish (exec_accept b s) hst hr]
  dsimp only
  rw [if_neg (by simp [hwait]), ownLive_ok hname hd, ok_bind, if_neg (by simp [hplain])]
  simp only [hoffer, if_neg (not_not.mpr hto), if_neg hrun, htouch, Bool.false_eq_true, if_false]

theorem decline_removes (hoffer : s.offerAt r = some (en, o)) (hmine : o.target = s.oid ∨ en.holder = s.oid) :
    exec (.decline b) s = s.finish 4 ((s.mapStep en).2.splitTo (s.xr b) { (s.mapStep en).1 with offer := none, recalling := false } >>= goes) := by
  have hno : ¬((s.accepting r || (o.target != s.oid && en.holder != s.oid)) = true) := by
    rw [accepting_of_plain hplain]
    rcases hmine with h | h <;> simp [h]
  rw [own_finish (exec_decline b s) hst hr]
  dsimp only
  rw [ownLive_ok hname hd, ok_bind]
  simp only [hoffer, if_neg hno]
end

/-! recall and reclaim (R283, R285). -/

section
variable {d b : BitVec 5} {r : Res} {en : Entry} {l : Loan} {j : Nat} (hst : s.me.storing = false) (hr : s.ready [.x d, .x b])
include hst hr

theorem recall_badName (hname : Res.ofName (s.xr b) = none) :
    exec (.recall d b) s = s.finish 4 (fault Cause.OWN_BAD_NAME (s.xr b)) := by
  rw [own_finish (exec_recall d b s) hst hr]
  dsimp only
  rw [ownName_bad hname, fault_bind]

variable (hname : Res.ofName (s.xr b) = some r)
include hname

theorem recall_counter (hcls : r.cls = cCounter) : exec (.recall d b) s = s.finish 4 (fault Cause.OWN_NOT_HELD (s.xr b)) := by
  rw [own_finish (exec_recall d b s) hst hr]
  dsimp only
  rw [ownName_ok hname, ok_bind, if_pos hcls]

theorem reclaim_defunct (hd : s.defunct r = true) : exec (.reclaim d b) s = s.finish 4 (fault Cause.OWN_NOT_HELD (s.xr b)) := by
  rw [own_finish (exec_reclaim d b s) hst hr]
  dsimp only
  rw [ownLive_defunct hname hd, fault_bind]

theorem reclaim_counter (hcls : r.cls = cCounter) : exec (.reclaim d b) s = s.finish 4 (fault Cause.OWN_NOT_HELD (s.xr b)) := by
  by_cases hd : s.defunct r = true
  · exact reclaim_defunct hst hr hname hd
  · rw [own_finish (exec_reclaim d b s) hst hr]
    dsimp only
    rw [ownLive_ok hname hd, ok_bind, if_pos hcls]

variable (hcls : r.cls ≠ cCounter) (hplain : s.entryBusy r = false)
include hcls hplain

/-- recall of what the executing OID does not lend. -/
theorem recall_notLent (hno : s.entryFor r = none ∨ s.entryFor r = some en ∧ en.lentBy s.oid = none) :
    exec (.recall d b) s = s.finish 4 (goes ((s.mapTouch r).setX d 2)) := by
  rw [own_finish (exec_recall d b s) hst hr]
  dsimp only
  rw [ownName_ok hname, ok_bind, if_neg hcls, if_neg (by simp [hplain])]
  rcases hno with hno | ⟨hfor, hno⟩
  · simp only [hno]
  · simp only [hfor, hno]

theorem reclaim_notLent (hd : ¬s.defunct r = true) (hno : s.entryFor r = none ∨ s.entryFor r = some en ∧ en.lentBy s.oid = none) :
    exec (.reclaim d b) s = s.finish 4 (goes ((s.mapTouch r).setX d 2)) := by
  rw [own_finish (exec_reclaim d b s) hst hr]
  dsimp only
  rw [ownLive_ok hname hd, ok_bind, if_neg hcls, if_neg (by simp [accepting_of_plain hplain])]
  rcases hno with hno | ⟨hfor, hno⟩
  · simp only [hno]
  · simp only [hfor, hno]

variable (hfor : s.entryFor r = some en) (hlent : en.lentBy s.oid = some j) (hl : en.loans[j]? = some l)
include hfor hlent hl

theorem recall_lent : exec (.recall d b) s = s.finish 4 (if l.recalled || l.due then goes ((s.mapTouch r).setX d 1)
    else if !l.rc then goes ((s.mapTouch r).setX d 3)
    else (s.mapStep en).2.splitTo (s.xr b) { (s.mapStep en).1 with
        loans := en.loans.set j { l with recalled := true, rdl := s.fabric + l.grace.setWidth 64 }, recalling := true } >>= fun u =>
      goes ((u.notify ⟨l.borrower, 1, s.xr b, noticeData 1 (s.xr b) (word u.oid) (s.fabric + l.grace.setWidth 64)⟩).setX d 0)) := by
  rw [own_finish (exec_recall d b s) hst hr]
  dsimp only
  rw [ownName_ok hname, ok_bind, if_neg hcls, if_neg (by simp [hplain])]
  simp only [hfor, hlent, hl]
  rfl

variable (hd : ¬s.defunct r = true)
include hd

theorem reclaim_lent : exec (.reclaim d b) s = s.finish 4 (if !l.due && s.oidLive l.borrower then goes ((s.mapTouch r).setX d 1)
    else if r.cls = cCore && !(s.coreAt r.lo).stopped then
      goes (((s.mapTouch r).beginStop r.lo Cause.STOP_RECLAIM l.husk l.lender (stopTick s.now) [.reclaim (s.xr b) l.lender]).setX d 3)
    else (s.mapStep en).2.splitTo (s.xr b) { (s.mapStep en).2.unlent (s.mapStep en).1 j false with gen := (s.mapStep en).1.gen + 1 } >>= fun _ =>
      goes ((((s.mapStep en).2.finishReclaim (s.xr b) (s.mapStep en).1 j false).followMap (s.mapStep en).1).setX d 0)) := by
  rw [own_finish (exec_reclaim d b s) hst hr]
  dsimp only
  rw [ownLive_ok hname hd, ok_bind, if_neg hcls, if_neg (by simp [accepting_of_plain hplain])]
  simp only [hfor, hlent, hl]
end

/-! own.q and mint (R275, R290). -/

section
variable {d b : BitVec 5} {w : BitVec 2} {r : Res} (hst : s.me.storing = false) (hr : s.ready [.x d, .x b])
include hst hr

theorem ownQ_badName (hname : Res.ofName (s.xr b) = none) : exec (.ownQ w d b) s = s.finish 4 (fault Cause.OWN_BAD_NAME (s.xr b)) := by
  rw [own_finish (exec_ownQ w d b s) hst hr]
  dsimp only
  rw [ownName_bad hname, fault_bind]

theorem mint_badName (hname : Res.ofName (s.xr b) = none) : exec (.mint d b) s = s.finish 4 (fault Cause.OWN_BAD_NAME (s.xr b)) := by
  rw [own_finish (exec_mint d b s) hst hr]
  dsimp only
  rw [ownName_bad hname, fault_bind]

variable (hname : Res.ofName (s.xr b) = some r)
include hname

theorem ownQ_word : let y : Res := if r.cls = cCounter then ⟨cCore, 0, r.lo / 16, r.lo / 16 + 1⟩ else r
    exec (.ownQ w d b) s = s.finish 4 (goes ((s.mapTouch y).setX d
      (((s.pieces y).headD (Entry.dflt s.endowed y.cls y.aux y.lo y.hi)).word s.oid w.toNat))) := by
  rw [own_finish (exec_ownQ w d b s) hst hr]
  dsimp only
  rw [ownName_ok hname, ok_bind]

theorem mint_notHeld (hcls : r.cls ≠ cOid) : exec (.mint d b) s = s.finish 4 (fault Cause.OWN_NOT_HELD (s.xr b)) := by
  rw [own_finish (exec_mint d b s) hst hr]
  dsimp only
  rw [ownName_ok hname, ok_bind, if_pos (by simp [hcls])]

/-- May an OID be minted (R290)? -/
def State.mintable (s : State) (i : Nat) : Bool := decide (1 < i) && i != 0xFFFF && !s.oidLive i && !s.oidNamed i

omit hst hr hname in
theorem mintable_iff {i : Nat} : s.mintable i = true ↔ 1 < i ∧ i ≠ 0xFFFF ∧ s.oidLive i = false ∧ s.oidNamed i = false := by
  simp only [State.mintable, Bool.and_eq_true, decide_eq_true_eq, bne_iff_ne, Bool.not_eq_true', and_assoc]

variable (hcls : r.cls = cOid) (huse : s.usesOne s.oid cOid r.lo = true)
include hcls huse

/-- mint writes the first of the block's OIDs that may be minted, or 0 (R290). -/
theorem mint_first : exec (.mint d b) s = s.finish 4 (Option.elim (((List.range 256).map fun i => 256 * r.lo + i).find? s.mintable)
    (goes ((s.mapTouch r).setX d 0)) fun o => goes (({ s.mapTouch r with
      oids := Table.put (s.mapTouch r).oids o { sponsor := s.oid, idle := some s.now } } : State).setX d (word o))) := by
  rw [own_finish (exec_mint d b s) hst hr]
  dsimp only
  rw [ownName_ok hname, ok_bind, if_neg (by simp [hcls, huse])]
  change s.finish 4 (match ((List.range 256).map fun i => 256 * r.lo + i).find? s.mintable with
    | none => _
    | some _ => _) = _
  cases ((List.range 256).map fun i => 256 * r.lo + i).find? s.mintable <;> rfl
end

/-- The first number of a block that has a property (R290). -/
theorem find?_block {p : Nat → Bool} {block j : Nat} (hj : j / 256 = block) (hp : p j = true)
    (hfirst : ∀ i, i < j → 256 * block ≤ i → p i = false) : ((List.range 256).map fun i => 256 * block + i).find? p = some j := by
  rw [List.find?_eq_some_iff_getElem]
  refine ⟨hp, j % 256, by simp; omega, by simp; omega, fun i hi => ?_⟩
  rw [List.getElem_map, List.getElem_range, hfirst _ (by omega) (by omega)]
  rfl

/-! retire, hooks and the keeper (R288, R291, R293). -/

theorem retire_seed (hst : s.me.storing = false) (hwait : s.me.wait ≠ .done) (hone : s.oid = 1) :
    exec .retire s = s.finish 4 (fault Cause.OWN_BAD_OID 1) := by
  rw [own_finish (exec_retire s) hst ready_nil]
  rw [if_neg (by simp [hwait]), if_pos hone]

theorem retire_ends (hst : s.me.storing = false) (hwait : s.me.wait ≠ .done) (hone : s.oid ≠ 1) :
    exec .retire s = .next (((s.landCtx s.cur s.ctx).retireOid s.oid 0 s.me.pts).setWait .done) := by
  rw [own_finish (exec_retire s) hst ready_nil]
  rw [if_neg (by simp [hwait]), if_neg hone, finish_wait]

section
variable {k : BitVec 3} {h : BitVec 4} (hst : s.me.storing = false) (hr : s.ready [.c h])
include hst hr

theorem ownHook_removes (hzero : s.cr h = 0) :
    let z := s.voidHooks
    exec (.ownHook k h) s = s.finish 4 (goes { z with
      hooks := z.hooks.filter fun q => !(q.oid == z.oid && q.kind == k.toNat)
      notices := z.notices.filter fun q => !(q.oid == z.oid && q.kind == k.toNat) }) := by
  rw [own_finish (exec_ownHook k h s) hst hr]
  dsimp only
  rw [if_pos hzero]

theorem ownHook_sets {slot : Nat × PodSlot} (hzero : s.cr h ≠ 0) (hlive : s.core.livePod (s.cr h) = some slot)
    (hexported : s.core.podExported slot.2 = true) :
    let z := s.voidHooks
    exec (.ownHook k h) s = s.finish 4 (goes { z with
      hooks := z.hooks.filter (fun q => !(q.oid == z.oid && q.kind == k.toNat)) ++ [⟨z.oid, k.toNat, s.cur, s.cr h⟩] }) := by
  rw [own_finish (exec_ownHook k h s) hst hr]
  dsimp only
  rw [if_neg hzero]
  have hcore : s.voidHooks.core = s.core := rfl
  simp only [hcore, hlive, hexported, if_true]
  rfl

theorem ownHook_notLive (hzero : s.cr h ≠ 0) (hlive : s.core.livePod (s.cr h) = none) :
    exec (.ownHook k h) s = s.finish 4 (fault Cause.OWN_HOOK_INVALID ((s.cr h).setWidth 64)) := by
  rw [own_finish (exec_ownHook k h s) hst hr]
  dsimp only
  rw [if_neg hzero]
  have hcore : s.voidHooks.core = s.core := rfl
  simp only [hcore, hlive]
end

section
variable {d b c : BitVec 5} {n : BitVec 10} {x : BitVec 4} {r : Res}

theorem keeper_reserved (hx : x ≠ 0) (hscope : coreScope n.toNat = true) :
    Traps (.kread d b n x) s Cause.RESERVED_FIELD ((packR 10 0 b d 51 2).setWidth 64) ∧
      Traps (.kwrite b c n x) s Cause.RESERVED_FIELD ((packR 11 c b 0 51 2).setWidth 64) := by
  have hbad : (decide (x ≠ 0) && coreScope n.toNat) = true := by rw [hscope, decide_eq_true hx]; rfl
  constructor
  · rw [Traps, walkFault_other (by decide)]
    exact if_pos hbad
  · rw [Traps, walkFault_other (by decide)]
    exact if_pos hbad

theorem keptCore_ok (hname : Res.ofName (s.xr b) = some r) (hcls : r.cls = cCore) (hkeep : s.isKeeper s.oid r.lo = true) :
    s.keptCore (s.xr b) = .ok r.lo := by
  rw [State.keptCore, ownName_ok hname, ok_bind, if_neg (not_not.mpr hcls), if_neg (by simp [hkeep])]

variable (hscope : x = 0 ∨ coreScope n.toNat = false)
include hscope

/-- A keeper's instruction that names its registers as R293 says is a map instruction. -/
theorem keeperInstr_own {w : BitVec 32} (us : List Use) (body : State → Run Done) :
    s.keeperInstr n x w us body = s.ownInstr 12 us body :=
  if_neg fun h => by
    simp only [Bool.and_eq_true, decide_eq_true_eq] at h
    rcases hscope with hx | hs
    · exact h.1 hx
    · rw [hs] at h; cases h.2

variable (hst : s.me.storing = false) (hname : Res.ofName (s.xr b) = some r) (hcls : r.cls = cCore) (hkeep : s.isKeeper s.oid r.lo = true)
include hst hname hcls hkeep

theorem kread_eq (hr : s.ready [.x d, .x b]) : exec (.kread d b n x) s = s.finish 12 (Option.elim (s.keeperRead s.oid r.lo x.toNat n.toNat)
    (fault Cause.SR_ACCESS (n.setWidth 64)) fun v => goes (s.setX d v)) := by
  rw [own_finish ((exec_kread d b n x s).trans (keeperInstr_own hscope _ _)) hst hr]
  rw [keptCore_ok hname hcls hkeep, ok_bind]
  cases s.keeperRead s.oid r.lo x.toNat n.toNat <;> rfl

theorem kwrite_eq (hr : s.ready [.x b, .x c]) (hreg : ¬(n.toNat / 16 = 4 ∨ n.toNat / 16 = 5))
    (hwrite : s.keeperWrite s.oid r.lo x.toNat n.toNat (s.xr c) = .ok u) : exec (.kwrite b c n x) s = s.finish 12 (goes u) := by
  rw [own_finish ((exec_kwrite b c n x s).trans (keeperInstr_own hscope _ _)) hst hr]
  dsimp only
  rw [keptCore_ok hname hcls hkeep, ok_bind, if_neg (by simpa using hreg), hwrite]
  rfl

theorem kwrite_counter (hr : s.ready [.x b, .x c]) (hreg : n.toNat / 16 = 4 ∨ n.toNat / 16 = 5)
    (hwrite : (s.countFirst r.lo (n.toNat % 16) (n.toNat / 16 == 4)).keeperWrite (s.countFirst r.lo (n.toNat % 16) (n.toNat / 16 == 4)).oid
      r.lo x.toNat n.toNat ((s.countFirst r.lo (n.toNat % 16) (n.toNat / 16 == 4)).xr c) = .ok u) :
    exec (.kwrite b c n x) s = .next ((u.goOn (s.nextPc 12)).stepTrap s.me.tstep (s.nextPc 12)) := by
  rw [own_finish ((exec_kwrite b c n x s).trans (keeperInstr_own hscope _ _)) hst hr]
  dsimp only
  rw [keptCore_ok hname hcls hkeep, ok_bind, if_pos (by simpa using hreg), hwrite]
  exact finish_wrote
end
end

end Sys2Proof.Machine
end

section
open Sys2Proof Sys2Proof.Machine

/-- Settles O48: each ownership instruction ends as its rule says, check by check. -/
theorem ownershipResults : Obligations.OwnershipResults := by
  unfold Obligations.OwnershipResults
  intro rc clr w kd h x n10 d a b c e gr r en of j ln slot v s u hst nm t st plain defunct noOffer tells
  have give (b c : BitVec 5) : exec (.give b c) s = s.giveTo 4 b c none false := rfl
  have giveExt (b c e : BitVec 5) : exec (.giveExt clr b c e) s = s.giveTo 12 b c (some e) clr := rfl
  have lend : exec (.lend rc clr a b c e gr) s = s.lendTo 12 rc clr a b c e gr := rfl
  have lendLit : exec (.lendLit rc clr a b c e gr) s = s.lendTo 20 rc clr a b c e gr := rfl
  refine ⟨fun hname => ⟨fun hr => traps_of_finish (give_badName (give b c) hst hr hname) rfl,
      fun hr => ⟨fun hwait => traps_of_finish (accept_badName hst hr hwait hname) rfl, traps_of_finish (decline_badName hst hr hname) rfl⟩,
      fun hr => ⟨traps_of_finish (ownQ_badName hst hr hname) rfl, traps_of_finish (recall_badName hst hr hname) rfl,
        traps_of_finish (mint_badName hst hr hname) rfl⟩⟩,
    fun hname => ⟨fun hplain ht hheld hno => ?_, fun hr hplain => ?_, fun hr hplain ht hheld => ⟨fun hdeep => ?_, fun hdeep hpast => ?_⟩,
      fun hr hwait hd => ?_, fun hr hwait hd hplain => ?_, fun hr hwait => ?_, fun hr hcls => ?_, fun hr hd => ?_, fun hr hcls hplain => ?_,
      fun hr => ?_, fun hscope hcls hkeep => ?_⟩,
    keeper_reserved, fun hwait => ⟨fun hone => ?_, retire_ends hst hwait⟩, fun hr => ?_⟩
  · obtain ⟨hnone, hpending, hsponsor⟩ := hno
    have told {o : Offer} (hput : st.2.splitTo nm { st.1 with offer := some o } = .ok u) :
        s.offerMade u nm t r st.1 o = goes (tells u (if o.lend then o.term else 0)) :=
      offerMade_told hheld (ne_oid_of_target ht) hput hsponsor
    refine ⟨fun hloans hone hcls hput hr => ?_, fun hone hdeep hl hcls hput hr => ?_, fun hone hdeep hl he hhusk hput hr => ?_,
      fun hloans hone he hhusk hput hr => ?_, fun ha hdeep hl hterm hhusk hput hr => ⟨?_, ?_⟩⟩
    · refine retires_of_finish (give_gift (give b c) hst hr hname hplain ht hheld hloans hone) ?_
      rw [offer_plain hnone hcls hpending, hput, ok_bind]
      exact told hput
    · refine retires_of_finish (give_seed (give b c) hst hr hname hplain ht hheld hone hdeep hl) ?_
      rw [offer_plain hnone hcls hpending, hput, ok_bind]
      exact told hput
    · refine retires_of_finish (give_seed (giveExt b c e) hst hr hname hplain ht hheld hone hdeep hl) ?_
      rw [offer_husk hnone he hhusk hpending, hput, ok_bind]
      exact told hput
    · refine retires_of_finish (give_gift (giveExt b c e) hst hr hname hplain ht hheld hloans hone) ?_
      rw [offer_husk hnone he hhusk hpending, hput, ok_bind]
      exact told hput
    · refine retires_of_finish (lend_offer lend hst hr hname hplain ht hheld hdeep hterm hl) ?_
      rw [offer_husk hnone ha hhusk hpending, hput, ok_bind]
      exact told hput
    · refine retires_of_finish (lend_offer lendLit hst hr hname hplain ht hheld hdeep hterm hl) ?_
      rw [offer_husk hnone ha hhusk hpending, hput, ok_bind]
      exact told hput
  · refine ⟨fun ht => traps_of_finish (give_badTarget (give b c) hst hr hname hplain ht) rfl, fun ht => ⟨fun g v hheld =>
      traps_of_finish (give_notHeld (give b c) hst hr hname hplain ht hheld) rfl, fun hheld => ⟨fun l hlast => ⟨fun hl hput => ?_, fun hl hone =>
      traps_of_finish (give_lent (give b c) hst hr hname hplain ht hheld hlast hl hone) rfl⟩, fun hloans hone => ⟨fun hfull => ?_,
      fun hnone hcls => ?_, fun hnone hpending hcls hput hsponsor hcore htouch => ?_⟩⟩⟩⟩
    · refine retires_of_finish (give_return (give b c) hst hr hname hplain ht hheld hlast hl) ?_
      rw [hput, ok_bind]
    · refine traps_of_finish (give_gift (give b c) hst hr hname hplain ht hheld hloans hone) ?_
      exact if_pos (Option.isSome_iff_ne_none.mpr hfull)
    · refine traps_of_finish (give_gift (give b c) hst hr hname hplain ht hheld hloans hone) ?_
      rw [State.offer, hnone]
      exact (if_neg Bool.false_ne_true).trans (if_pos (by simp [hcls]))
    · refine retires_of_finish (give_gift (give b c) hst hr hname hplain ht hheld hloans hone) ?_
      rw [offer_plain hnone hcls hpending, hput, ok_bind, State.offerMade, if_pos (by rw [hsponsor, hcore]; rfl), htouch,
        if_neg Bool.false_ne_true, if_neg (by simp [hcls])]
  · exact traps_of_finish (lend_deep lend hst hr hname hplain ht hheld hdeep) rfl
  · exact traps_of_finish (lend_past lend hst hr hname hplain ht hheld hdeep hpast) rfl
  · exact ⟨traps_of_finish (accept_defunct hst hr hname hwait hd) rfl, traps_of_finish (decline_defunct hst hr hname hd) rfl⟩
  · refine ⟨fun hoffer => ⟨traps_of_finish (accept_none hst hr hname hd hplain hwait hoffer) rfl,
      traps_of_finish (decline_none hst hr hname hd hoffer) rfl⟩, fun hoffer => ⟨fun hto =>
      traps_of_finish (accept_other hst hr hname hd hplain hwait hoffer hto) rfl, fun hto htouch hstop hput => ?_, fun hmine hput => ?_⟩⟩
    · refine retires_of_finish (accept_takes hst hr hname hd hplain hwait hoffer hto htouch hstop) ?_
      rw [hput, ok_bind]
    · refine retires_of_finish (decline_removes hst hr hname hd hplain hoffer hmine) ?_
      rw [hput, ok_bind]
  · exact retires_of_finish (accept_done hst hr hwait) rfl
  · exact ⟨traps_of_finish (recall_counter hst hr hname hcls) rfl, traps_of_finish (reclaim_counter hst hr hname hcls) rfl⟩
  · exact traps_of_finish (reclaim_defunct hst hr hname hd) rfl
  · refine ⟨fun hno => ⟨retires_of_finish (recall_notLent (en := en) hst hr hname hcls hplain (.inl hno)) rfl, fun hd =>
      retires_of_finish (reclaim_notLent (en := en) hst hr hname hcls hplain hd (.inl hno)) rfl⟩, fun hfor hno =>
      ⟨retires_of_finish (recall_notLent hst hr hname hcls hplain (.inr ⟨hfor, hno⟩)) rfl, fun hd =>
      retires_of_finish (reclaim_notLent hst hr hname hcls hplain hd (.inr ⟨hfor, hno⟩)) rfl⟩, fun hfor hlent hl => ?_⟩
    have hrecall := recall_lent (d := d) hst hr hname hcls hplain hfor hlent hl
    have hreclaim := reclaim_lent (d := d) hst hr hname hcls hplain hfor hlent hl
    refine ⟨fun hover => ?_, fun hrec hdue hrc => ?_, fun hrec hdue hrc hput => ?_, fun hd hdue hlive => ?_,
      fun hd hend => ⟨fun hcore hrun => ?_, fun hstop hput => ?_⟩⟩
    · exact retires_of_finish hrecall (if_pos (Bool.or_eq_true_iff.mpr hover))
    · refine retires_of_finish hrecall ?_
      rw [hrec, hdue, hrc]
      rfl
    · refine retires_of_finish hrecall ?_
      rw [if_neg (by rw [hrec, hdue]; decide), if_neg (by rw [hrc]; decide), hput, ok_bind]
    · exact retires_of_finish (hreclaim hd) (if_pos (by rw [hdue, hlive]; rfl))
    · refine retires_of_finish (hreclaim hd) ?_
      rw [if_neg (by rcases hend with h | h <;> simp [h]), if_pos (by simp [hcore, hrun])]
    · refine retires_of_finish (hreclaim hd) ?_
      have hstopped : ¬((decide (r.cls = cCore) && !(s.coreAt r.lo).stopped) = true) := by
        simp only [Bool.and_eq_true, decide_eq_true_eq, Bool.not_eq_true']
        exact fun h => absurd (hstop h.1) (by simp [h.2])
      rw [if_neg (by rcases hend with h | h <;> simp [h]), if_neg hstopped, hput, ok_bind]
  · refine ⟨retires_of_finish (ownQ_word hst hr hname) rfl, fun hcls => traps_of_finish (mint_notHeld hst hr hname hcls) rfl,
      fun hcls huse => ⟨fun hnone => ?_, fun hblock hfree hfirst => ?_⟩⟩
    · refine retires_of_finish (mint_first hst hr hname hcls huse) ?_
      rw [List.find?_eq_none.mpr]
      · rfl
      · intro i hi hmint
        obtain ⟨m, hm, rfl⟩ := List.mem_map.mp hi
        have := List.mem_range.mp hm
        exact hnone _ (by omega) (mintable_iff.mp hmint)
    · refine retires_of_finish (mint_first hst hr hname hcls huse) ?_
      rw [find?_block hblock (mintable_iff.mpr hfree) fun i hi hlo => Bool.eq_false_iff.mpr fun h => hfirst i hi hlo (mintable_iff.mp h)]
      rfl
  · refine ⟨fun hr => ⟨fun hread => ?_, fun hread => ?_⟩, fun hr => ⟨fun hreg hwrite => ?_, kwrite_counter hscope hst hname hcls hkeep hr⟩⟩
    · exact retires_of_finish (kread_eq hscope hst hname hcls hkeep hr) (by rw [hread]; rfl)
    · exact traps_of_finish (kread_eq hscope hst hname hcls hkeep hr) (by rw [hread]; rfl)
    · exact retires_of_finish (kwrite_eq hscope hst hname hcls hkeep hr (by simpa using hreg) hwrite) rfl
  · exact traps_of_finish (retire_seed hst hwait hone) rfl
  · exact ⟨fun hzero => retires_of_finish (ownHook_removes hst hr hzero) rfl, fun hzero hlive hexported =>
      retires_of_finish (ownHook_sets hst hr hzero hlive hexported) rfl, fun hzero hlive => traps_of_finish (ownHook_notLive hst hr hzero hlive) rfl⟩

end

section
/-! SUPPORT. Writes of husks and the listed cores (R341, R342): what follows a step of an access leaves a view of every core as it
is, and so what every listed core of the device has in that view. -/

namespace Sys2Proof.Machine

/-! The write of a husk. -/

theorem State.Traced.physWrite (s : State) (g : Ag) (pa : Nat) (bs : List Byte) (pts : BitVec 64) :
    ∃ u : State, s.Traced u ∧ (s.physWrite g pa bs pts).2 = { u with mem := (s.physWrite g pa bs pts).2.mem, n := (s.physWrite g pa bs pts).2.n } := by
  simp only [State.physWrite]
  split
  · refine ⟨s, .refl s, ?_⟩
    simp only [State.outPut]
    split <;> rfl
  · refine ⟨_, ?_, rfl⟩
    exact List.foldlRecOn (motive := fun r : BitVec 64 × State => s.Traced r.2) _ _ (.refl s) fun r hr p _ =>
      hr.trans (.stampWrites r.2 g _ r.1)

theorem State.Keeps.physWrite {α : Type} {v : Core → α} (hv : Core.Apart v) (s : State) (g : Ag) (pa : Nat) (bs : List Byte) (pts : BitVec 64) :
    s.Keeps v (s.physWrite g pa bs pts).2 := by
  simp only [State.physWrite]
  split
  · exact (outsideWrites s).trans (outPut _ _)
  · refine trans ?_ (of_cores rfl)
    exact List.foldlRecOn (motive := fun r : BitVec 64 × State => s.Keeps v r.2) _ _ (refl s) fun r hr p _ =>
      hr.trans (stampWrites hv r.2 g _ r.1)

/-! What is listed of the cores. -/

/-- What is read of a table is its default or listed. -/
theorem Table.get_eq_or_mem {α : Type} {d : α} (t : Table α) (k : Nat) : Table.get d t k = d ∨ (k, Table.get d t k) ∈ t := by
  induction t with
  | nil => exact .inl rfl
  | cons p t ih =>
    obtain ⟨j, w⟩ := p
    simp only [Table.get]
    split
    · exact .inl rfl
    · split
      · next h => exact .inr (by rw [h]; exact List.mem_cons_self)
      · exact ih.imp id (List.mem_cons_of_mem _)

/-- Every listed core of a cluster is seen as `a` is. -/
def State.AllOf {α : Type} (v : Core → α) (at' : Nat → Prop) (a : α) (s : State) : Prop := ∀ p ∈ s.cores, at' p.1 → v p.2 = a

namespace State.AllOf

variable {α β : Type} {v : Core → α} {near : Nat → Prop} {a : α} {s t : State}

theorem foldl {f : State → β → State} (hf : ∀ (s : State) (b : β), s.AllOf v near a → (f s b).AllOf v near a) (l : List β)
    (h : s.AllOf v near a) : (l.foldl f s).AllOf v near a :=
  List.foldlRecOn (motive := fun s => s.AllOf v near a) l f h fun s hs b _ => hf s b hs

theorem ite {p : Prop} [Decidable p] (h : s.AllOf v near a) (h' : t.AllOf v near a) : (if p then s else t).AllOf v near a := by
  split <;> assumption

theorem of_cores (e : t.cores = s.cores) (h : s.AllOf v near a) : t.AllOf v near a := fun p hp => h p (e ▸ hp)

section
variable (hempty : v Core.empty = a)
include hempty

/-- A core that is replaced by one that is seen as it was. -/
theorem setCoreAt {k : Nat} {c : Core} (hc : v c = v (s.coreAt k)) (h : s.AllOf v near a) : (s.setCoreAt k c).AllOf v near a := fun p hp hat => by
  rcases Table.mem_put hp with rfl | hp
  · show v c = a
    rw [hc]
    rcases Table.get_eq_or_mem (d := Core.empty) s.cores k with hget | hget
    · exact (congrArg v hget).trans hempty
    · exact h _ hget hat
  · exact h p hp hat

theorem updCoreAt {k : Nat} {f : Core → Core} (hf : ∀ c, v (f c) = v c) (h : s.AllOf v near a) : (s.updCoreAt k f).AllOf v near a :=
  setCoreAt hempty (hf _) h

variable (hv : Core.Apart v)
include hv

theorem addCounter {k i ev amt : Nat} (h : s.AllOf v near a) : (s.addCounter k i ev amt).AllOf v near a := by
  have hput : ∀ n, (s.setCoreAt k { s.coreAt k with cnt := n }).AllOf v near a := fun n =>
    setCoreAt hempty (hv (s.coreAt k) { s.coreAt k with cnt := n }) h
  exact ite (hput _) (of_cores (s := s.setCoreAt k _) rfl (hput _))

omit hempty hv in
theorem addShared {die i ev amt : Nat} (h : s.AllOf v near a) : (s.addShared die i ev amt).AllOf v near a :=
  ite (of_cores rfl h) (of_cores rfl h)

theorem count {k ev amt : Nat} (h : s.AllOf v near a) : (s.count k ev amt).AllOf v near a :=
  foldl (fun _ _ => addShared) _ (foldl (fun _ _ => addCounter hempty hv) _ h)

theorem countNear {req : Option Nat} {ev amt : Nat} {at' : Nat → Bool} {die : Nat} (h : s.AllOf v near a) :
    (s.countNear req ev amt at' die).AllOf v near a :=
  foldl (fun _ _ => addShared) _ (foldl (fun _ _ h => ite (foldl (fun _ _ => addCounter hempty hv) _ h) h) _ h)

theorem countReq {g : Ag} {ev : Nat} (h : s.AllOf v near a) : (s.countReq g ev).AllOf v near a := by
  unfold State.countReq
  split
  · exact count hempty hv h
  · exact h

omit hempty hv in
theorem metaLook_lineSize (wr cmp hit : Bool) (b : Nat) : (((s.lineSize wr cmp b).2).metaLook hit b).2.cores = s.cores := by
  simp only [State.lineSize, State.metaLook]
  repeat' split
  all_goals rfl

omit hempty hv in
theorem setLine {l : Nat} {x : LineTs} (h : s.AllOf v near a) : (s.setLine l x).AllOf v near a := h

theorem countL2 {req : Option Nat} {wr : Bool} {b : Nat} (h : s.AllOf v near a) : (s.countL2 req wr b).AllOf v near a := by
  simp only [State.countL2]
  refine countNear hempty hv (countNear hempty hv (countNear hempty hv (of_cores (s := { s with n := s.n + 2 }) ?_ (of_cores rfl h))))
  exact metaLook_lineSize _ _ _ _

theorem widen {g : Ag} {l : Nat} (h : s.AllOf v near a) : (s.widen g l).AllOf v near a := by
  unfold State.widen
  split
  · exact h
  · exact ite h (ite (of_cores rfl h) (countReq hempty hv (of_cores rfl h)))

theorem stampWrites {g : Ag} {ls : List Nat} {pts : BitVec 64} (h : s.AllOf v near a) : (s.stampWrites g ls pts).2.AllOf v near a := by
  unfold State.stampWrites
  extract_lets s1 ts s2 s3
  have h1 : s1.AllOf v near a := foldl (fun _ _ => widen hempty hv) ls h
  have h2 : s2.AllOf v near a := foldl (fun _ _ h => ite h (countL2 hempty hv h)) _ h1
  have h3 : s3.AllOf v near a := ite (countReq hempty hv h2) h2
  exact foldl (fun _ _ => setLine) ls h3

theorem physWrite {g : Ag} {pa : Nat} {bs : List Byte} {pts : BitVec 64} (h : s.AllOf v near a) : (s.physWrite g pa bs pts).2.AllOf v near a := by
  simp only [State.physWrite]
  split
  · exact ite (of_cores rfl h) (of_cores rfl h)
  · exact of_cores rfl (List.foldlRecOn (motive := fun r : BitVec 64 × State => r.2.AllOf v near a) _ _ h fun r hr p _ =>
      stampWrites hempty hv hr)
end

end State.AllOf

end Sys2Proof.Machine
end

section
/-! SUPPORT. The synchronised stop (R338 to R350): what each of its events makes of the core. -/

namespace Sys2Proof.Machine

section
variable {s t : State} {k o : Nat} {st : Stop}

theorem coreAt_updCoreAt_same (s : State) (k : Nat) (f : Core → Core) : (s.updCoreAt k f).coreAt k = f (s.coreAt k) :=
  State.coreAt_setCoreAt_same s k _

@[simp] theorem stop_setStop (s : State) (k : Nat) (x : Option Stop) : ((s.setStop k x).coreAt k).stop = x := by
  rw [State.setStop, coreAt_updCoreAt_same]

/-! STOP_TICK (R339). -/

/-- A shape set aside keeps the place at which every context stands, and the map. -/
theorem parkShape_frame (s : State) (k j : Nat) : s.Keeps (fun c => (c.ctxAt 0).pc) (s.parkShape k j) ∧
    (s.parkShape k j).entries = s.entries ∧ (s.parkShape k j).endowed = s.endowed := by
  have hctx : ∀ (s : State) (x : Ctx), x.pc = ((s.coreAt k).ctxAt j).pc → s.Keeps (fun c => (c.ctxAt 0).pc) (s.updCoreAt k fun c => c.setCtx j x) :=
    fun s x hx m => by
      rw [coreAt_updCoreAt]
      split
      · next hm =>
        subst hm
        by_cases hj : 0 = j
        · subst hj; exact (congrArg Ctx.pc (Table.get_put_same _ _ _ _)).trans hx
        · exact congrArg Ctx.pc (Table.get_put_ne _ _ _ hj)
      · rfl
  have hbytes : ∀ (s : State) (o : Nat) (bs : List Byte), s.Keeps (fun c => (c.ctxAt 0).pc) (s.updCoreAt k fun c => c.setBytes o bs) := fun s o bs m => by
    rw [coreAt_updCoreAt]
    split
    · exact congrArg (fun t => (Table.get Ctx.empty t 0).pc) (setRuns_spec _ _ _).2.1
    · rfl
  unfold State.parkShape
  dsimp only
  split
  · exact ⟨.refl s, rfl, rfl⟩
  · split
    · exact ⟨hctx s _ rfl, rfl, rfl⟩
    · split
      · exact ⟨hctx s _ rfl, rfl, rfl⟩
      · have hclear := hctx s { (s.coreAt k).ctxAt j with shape := none } rfl
        exact ⟨(hclear.trans (hbytes _ _ _)).trans (.of_cores rfl), rfl, rfl⟩

theorem exec_stopTick (hstop : (s.coreAt k).stop = some st) (hticked : st.ticked = false) (hdue : st.tick ≤ s.now)
    (hrun : (s.coreAt k).hstat = .running) (habort : (s.coreAt k).abortSet = false) (hgang : (s.coreAt k).gformed = false) :
    ∃ (t : State) (c : Core), exec (.stopTick k) s = .next t ∧ t.coreAt k = { c with
      kcause := st.cause, kepc := ((s.coreAt k).ctxAt 0).pc, ktick := word st.tick, hstat := .stopping
      stop := some { st with ticked := true, holder := s.holderOf k } } := by
  have hstop' : s.stopOf k = some st := hstop
  have hgo : (st.ticked || decide (s.now < st.tick) || (s.coreAt k).hstat != .running) = false := by
    rw [hticked, hrun, decide_eq_false (Nat.not_lt.mpr hdue)]; rfl
  have hapart : s.gangApart k st.tick = false := by rw [State.gangApart, hgang]; rfl
  change ∃ (t : State) (c : Core), execStopTick k s = .next t ∧ _
  rw [execStopTick, hstop']
  dsimp only
  have hlate : ((s.coreAt k).abortSet && s.pastDeadlineAt k st.tick) = false := by rw [habort]; rfl
  rw [if_neg (Bool.eq_false_iff.mp hgo)]
  simp only [hlate, hapart, Bool.false_eq_true, if_false]
  let u := ctxNums.foldl (fun s j => s.parkShape k j) s
  have hpc : ((u.coreAt k).ctxAt 0).pc = ((s.coreAt k).ctxAt 0).pc :=
    State.Keeps.foldl (v := fun c : Core => (c.ctxAt 0).pc) (fun s j => (parkShape_frame s k j).1) ctxNums s k
  have hholder : u.holderOf k = s.holderOf k := by
    have hentries : u.entries = s.entries := foldl_view_same (v := State.entries) (fun s j => (parkShape_frame s k j).2.1) ctxNums s
    have hendowed : u.endowed = s.endowed := foldl_view_same (v := State.endowed) (fun s j => (parkShape_frame s k j).2.2) ctxNums s
    rw [State.holderOf, State.coreEntry, State.entryOf, hentries, hendowed]
    rfl
  refine ⟨_, u.coreAt k, rfl, ?_⟩
  rw [coreAt_updCoreAt_same]
  show ({ u.coreAt k with kcause := _, kepc := ((u.coreAt k).ctxAt 0).pc, ktick := _, hstat := _
                          stop := some { st with ticked := true, holder := u.holderOf k } } : Core) = _
  rw [hpc, hholder]

/-! QUIESCE_END (R340). -/

theorem quiesce_spec (x : Ctx) : x.quiesce.loading = 0 ∧ x.quiesce.storing = false ∧ x.quiesce.extOut = false ∧ x.quiesce.ext = none ∧
    (x.quiesce.wait = .none ∨ x.quiesce.wait = .gang) := by
  unfold Ctx.quiesce
  dsimp only
  split
  · next h => exact ⟨rfl, rfl, rfl, rfl, .inr h⟩
  · exact ⟨rfl, rfl, rfl, rfl, .inl rfl⟩
  · exact ⟨rfl, rfl, rfl, rfl, .inl rfl⟩

/-- Accepts abandoned change no context, and of a stop nothing but what waits for its end. -/
theorem dropAccepts_frame (s : State) (k : Nat) : s.Keeps (fun c => (c.ctxs, c.stop.map Stop.quiet)) (s.dropAccepts k) := by
  refine State.Keeps.foldl (fun s p m => ?_) _ s
  rw [coreAt_updCoreAt]
  split
  · show (_, Option.map Stop.quiet (Option.map _ _)) = _
    rw [Option.map_map]
    rfl
  · rfl

theorem exec_quiesceEnd (hstop : (s.coreAt k).stop = some st) (hticked : st.ticked = true) (hquiet : st.quiet = false) :
    ∃ t, exec (.quiesceEnd k) s = .next t ∧ (∀ p ∈ (t.coreAt k).ctxs, ∃ x : Ctx, p.2 = x.quiesce) ∧
      (t.coreAt k).stop.map Stop.quiet = some true := by
  have hstop' : s.stopOf k = some st := hstop
  change ∃ t, execQuiesceEnd k s = .next t ∧ _
  rw [execQuiesceEnd, hstop']
  dsimp only
  rw [if_neg (by simp [hticked, hquiet])]
  refine ⟨_, rfl, ?_⟩
  have hframe := dropAccepts_frame ((s.landCore k).updCoreAt k fun c => { c with
    ctxs := c.ctxs.map fun p => (p.1, p.2.quiesce), stop := some { st with quiet := true } }) k k
  rw [coreAt_updCoreAt_same] at hframe
  obtain ⟨hctxs, hflag⟩ := Prod.mk.inj hframe
  refine ⟨fun p hp => ?_, hflag⟩
  rw [hctxs] at hp
  obtain ⟨q, _, rfl⟩ := List.mem_map.mp hp
  exact ⟨q.2, rfl⟩

/-! FLUSH_TOKEN (R341, R342). -/

/-- The end of a stop leaves all of the core but the stop. -/
theorem endStop_frame (s : State) (k : Nat) : ∃ x, (s.endStop k).coreAt k = { s.coreAt k with stop := x } := by
  unfold State.endStop
  split
  · split
    · exact ⟨none, coreAt_updCoreAt_same _ _ _⟩
    · exact ⟨_, rfl⟩
  · exact ⟨_, rfl⟩

/-- The core of a stop that writes no husk is VOID, with the cause of the stop (R342). -/
theorem voidStop_spec (s : State) (k : Nat) (st : Stop) :
    ((s.voidStop k st).coreAt k).hstat = .void ∧ ((s.voidStop k st).coreAt k).kcause = st.cause := by
  rw [State.voidStop, coreAt_updCoreAt_same]
  exact ⟨rfl, rfl⟩

/-- Packets staged change of the core its stop alone. -/
theorem stageFlits_core (s : State) (k : Nat) (st : Stop) : (s.stageFlits k st).coreAt k = { s.coreAt k with stop := some { st with
    saved := st.saved ++ (s.barq.filter fun p => p.2.from k).take (32 - s.staged k)
    flushed := ((s.barq.filter fun p => p.2.from k).take (32 - s.staged k)).length == (s.barq.filter fun p => p.2.from k).length } } :=
  coreAt_updCoreAt_same _ _ _

/-- The save buffer of a cluster is empty where no listed core has flits in it. -/
theorem staged_eq_zero_iff : s.staged k = 0 ↔
    s.AllOf (fun c => (c.stop.map fun st => st.saved.length).getD 0) (fun j => clusterOf j = clusterOf k) 0 := by
  have hsum : ∀ (l : List (Nat × Core)) (n : Nat), l.foldl (fun n p => if clusterOf p.1 = clusterOf k then
      n + (p.2.stop.map fun st => st.saved.length).getD 0 else n) n = 0 ↔
      n = 0 ∧ ∀ p ∈ l, clusterOf p.1 = clusterOf k → (p.2.stop.map fun st => st.saved.length).getD 0 = 0 := fun l => by
    induction l with
    | nil => intro n; simp
    | cons p l ih =>
      intro n
      rw [List.foldl_cons, ih, List.forall_mem_cons]
      split
      · next hp => rw [Nat.add_eq_zero_iff, and_assoc]; exact and_congr_right fun _ => and_congr_left fun _ => ⟨fun h _ => h, fun h => h hp⟩
      · next hp => exact and_congr_right fun _ => ⟨fun h => ⟨fun hp' => absurd hp' hp, h⟩, And.right⟩
  rw [State.staged, hsum]
  exact and_iff_right rfl
end

end Sys2Proof.Machine
end

section
/-! SUPPORT. The save of a husk, the ends of stops and the keeper's writes as events (R280, R285, R341, R342, R349, R350). -/

namespace Sys2Proof.Machine

section
variable {s t : State} {k o : Nat} {st : Stop}

/-! FLUSH_TOKEN. -/

/-- The start of a save (R342): the core is WRITING, with the note of what its sections hold. -/
def State.saveBegun (s : State) (k base holder : Nat) : State :=
  let u := s.huskWrite k base 6 [0]
  let note := (u.coreAt k).note k 0
  ({ u with husks := note :: u.husks.filter fun n => !(n.core == note.core && n.tick == note.tick) } : State).updCoreAt k fun c =>
    { c with hstat := .writing, hclass := u.huskClass k holder base, hblocks := 0 }

theorem saveBegun_core (s : State) (k base holder : Nat) : ((s.saveBegun k base holder).coreAt k).hstat = .writing ∧
    ((s.saveBegun k base holder).coreAt k).hblocks = 0 := by
  rw [State.saveBegun, coreAt_updCoreAt_same]
  exact ⟨rfl, rfl⟩

theorem barq_saveBegun (s : State) (k base holder : Nat) : (s.saveBegun k base holder).barq = s.barq := by
  obtain ⟨u, htraced, hwrite⟩ := State.Traced.physWrite s ⟨k, 0, false, none⟩ (base + 6) [0] (s.coreAt k).kptsNow
  have hbarq : (s.huskWrite k base 6 [0]).barq = u.barq := (congrArg State.barq hwrite :)
  exact hbarq.trans (htraced.view State.barq fun _ _ => rfl)

theorem staged_saveBegun (s : State) (k base holder : Nat) (h : s.staged k = 0) : (s.saveBegun k base holder).staged k = 0 := by
  rw [staged_eq_zero_iff] at h ⊢
  unfold State.saveBegun
  have hwritten := State.AllOf.physWrite (g := ⟨k, 0, false, none⟩) (pa := base + 6) (bs := [0]) (pts := (s.coreAt k).kptsNow)
    (v := fun c : Core => (c.stop.map fun st => st.saved.length).getD 0) rfl (fun _ _ => rfl) h
  exact State.AllOf.updCoreAt (a := 0) rfl (fun _ => rfl) (State.AllOf.of_cores rfl hwritten)

section
variable (hstop : (s.coreAt k).stop = some st) (hquiet : st.quiet = true) (hflushed : st.flushed = false) (hopen : st.finished = false)
  (hset : ∀ p ∈ s.cores, ∀ y, p.2.stop = some y → p.2.hstat = .resuming ∨ y.tick ≠ st.tick ∨ y.quiet = true ∨ y.finished = true)
include hquiet hflushed hopen hset

theorem flushToken_set : (!st.quiet || st.flushed || st.finished || !s.cores.all fun p =>
    p.2.hstat == .resuming || p.2.stop.all fun t => t.tick != st.tick || t.quiet || t.finished) = false := by
  have hall : (s.cores.all fun p => p.2.hstat == .resuming || p.2.stop.all fun t => t.tick != st.tick || t.quiet || t.finished) = true := by
    refine List.all_eq_true.mpr fun p hp => ?_
    cases hy : p.2.stop with
    | none => exact Bool.or_true _
    | some y =>
      rcases hset p hp y hy with h | h | h | h <;> simp [h]
  rw [hquiet, hflushed, hopen, hall]
  rfl

include hstop

theorem flushToken_writing (hw : (s.coreAt k).hstat = .writing) : exec (.flushToken k) s = .next (s.stageFlits k st) := by
  have hstop' : s.stopOf k = some st := hstop
  change execFlushToken k s = _
  rw [execFlushToken, hstop']
  dsimp only
  rw [if_neg (Bool.eq_false_iff.mp (flushToken_set hquiet hflushed hopen hset)), if_pos (by simp [hw])]

variable (hw : (s.coreAt k).hstat ≠ .writing)
include hw

/-- Without a region that its namer holds, the stop ends VOID (R342). -/
theorem flushToken_void (hno : ∀ base, huskBase (if st.noHusk then (0, 0) else (s.coreAt k).stopRegion st).1 = some base →
      s.huskHeld (if st.noHusk then (0, 0) else (s.coreAt k).stopRegion st).2 (if st.noHusk then (0, 0) else (s.coreAt k).stopRegion st).1 = false ∨
        isPeer base = true) :
    exec (.flushToken k) s = .next ((({ s with barq := s.barq.filter fun p => !p.2.from k } : State).voidStop k st).endStop k) := by
  have hstop' : s.stopOf k = some st := hstop
  change execFlushToken k s = _
  rw [execFlushToken, hstop']
  dsimp only
  rw [if_neg (Bool.eq_false_iff.mp (flushToken_set hquiet hflushed hopen hset)), if_neg (by simp [hw])]
  generalize (if st.noHusk = true then ((0, 0) : Word × Nat) else (s.coreAt k).stopRegion st) = rg at hno ⊢
  obtain ⟨region, namer⟩ := rg
  dsimp only at hno ⊢
  cases hbase : huskBase region with
  | none => rfl
  | some base =>
    refine if_neg fun h => ?_
    rw [Bool.and_eq_true, Bool.not_eq_true'] at h
    rcases hno base hbase with h' | h'
    · rw [h'] at h; cases h.1
    · rw [h'] at h; cases h.2

/-- The save begins in a region that its namer holds (R342). -/
theorem flushToken_saves {base : Nat} (hbase : huskBase (if st.noHusk then (0, 0) else (s.coreAt k).stopRegion st).1 = some base)
    (hheld : s.huskHeld (if st.noHusk then (0, 0) else (s.coreAt k).stopRegion st).2 (if st.noHusk then (0, 0) else (s.coreAt k).stopRegion st).1 = true)
    (hpeer : isPeer base = false) :
    let save : Stop := { st with base := base, todo := s.huskBlocks k { st with base := base } }
    exec (.flushToken k) s = .next ((s.saveBegun k base st.holder).stageFlits k save) := by
  intro save
  have hstop' : s.stopOf k = some st := hstop
  change execFlushToken k s = _
  rw [execFlushToken, hstop']
  dsimp only
  rw [if_neg (Bool.eq_false_iff.mp (flushToken_set hquiet hflushed hopen hset)), if_neg (by simp [hw])]
  generalize (if st.noHusk = true then ((0, 0) : Word × Nat) else (s.coreAt k).stopRegion st) = rg at hbase hheld ⊢
  obtain ⟨region, namer⟩ := rg
  dsimp only at hbase hheld ⊢
  rw [hbase]
  dsimp only
  rw [if_pos (by rw [hheld, hpeer]; rfl)]
  rfl
end

/-! The save and its end (R341, R342). -/

section
variable (hstop : (s.coreAt k).stop = some st) (hopen : st.finished = false)
include hstop hopen

theorem exec_saveBufferDrain {d : Nat} {p : Packet} {rest : List (Nat × Packet)} (hsaved : st.saved = (d, p) :: rest) :
    exec (.saveBufferDrain k) s = .next ((s.huskWrite k st.base (0x4200 + 64 * st.drained) (leOf 64 (packetImage d p))).updCoreAt k fun c =>
      { c with hblocks := c.hblocks + (1 - st.drained % 2), stop := some { st with saved := rest, drained := st.drained + 1 } }) := by
  have hstop' : s.stopOf k = some st := hstop
  change execSaveBufferDrain k s = _
  rw [execSaveBufferDrain, hstop']
  dsimp only
  rw [hsaved]
  exact if_neg (by simp [hopen])

theorem exec_huskSaveStep {off : Nat} {bs : List Byte} {rest : List (Nat × List Byte)} (htodo : st.todo = (off, bs) :: rest) :
    exec (.huskSaveStep k) s = .next ((s.huskWrite k st.base off bs).updCoreAt k fun c =>
      { c with hblocks := c.hblocks + 1, stop := some { st with todo := rest } }) := by
  have hstop' : s.stopOf k = some st := hstop
  change execHuskSaveStep k s = _
  rw [execHuskSaveStep, hstop']
  dsimp only
  rw [htodo]
  exact if_neg (by simp [hopen])

theorem exec_huskValid (hflushed : st.flushed = true) (htodo : st.todo = []) (hsaved : st.saved = []) : exec (.huskValid k) s = .next
    (((s.huskWrite k st.base 6 [1]).updCoreAt k fun c => { c with hstat := .valid, stop := some { st with finished := true } }).endStop k) := by
  have hstop' : s.stopOf k = some st := hstop
  change execHuskValid k s = _
  rw [execHuskValid, hstop']
  exact if_neg (by simp [hopen, hflushed, htodo, hsaved])
end

/-- A stop that has finished is taken off the core when nothing waits for its end. -/
theorem stop_endStop (hstop : (s.coreAt k).stop = some st) (hdone : st.finished = true) :
    ((s.endStop k).coreAt k).stop = if st.ends = [] then none else some st := by
  have hstop' : s.stopOf k = some st := hstop
  rw [State.endStop, hstop']
  dsimp only
  split
  · next h =>
    rw [if_pos (List.isEmpty_iff.mp (Bool.and_eq_true_iff.mp h).2)]
    exact stop_setStop _ _ _
  · next h =>
    rw [if_neg fun hnil => h (by rw [hdone, hnil]; rfl)]
    exact hstop

section
variable (hstop : (s.coreAt k).stop = some st) (hdone : st.finished = true)
include hstop hdone

theorem exec_acceptStopEnd {who : Option (Nat × Nat)} {nm : Word} (hends : st.ends = [.accept who nm]) (htouch : s.acceptTouched st = false) :
    exec (.acceptStopEnd k) s = .next (((s.setStop k (some { st with ends := [] })).acceptEnd k who nm).endStop k) := by
  have hstop' : s.stopOf k = some st := hstop
  change execAcceptStopEnd k s = _
  rw [execAcceptStopEnd, hstop']
  dsimp only
  rw [if_neg (by rw [hdone, hends, htouch]; exact Bool.false_ne_true), hends]
  rfl

theorem exec_reclaimStopEnd {nm : Word} {l : Nat} (hends : st.ends = [.reclaim nm l]) :
    exec (.reclaimStopEnd k) s = .next (((s.setStop k (some { st with ends := [] })).stopEnd (.reclaim nm l)).endStop k) := by
  have hstop' : s.stopOf k = some st := hstop
  change execReclaimStopEnd k s = _
  rw [execReclaimStopEnd, hstop']
  dsimp only
  rw [hdone, hends]
  rfl
end

/-! POWER_EMERGENCY and resets (R349, R350). -/

/-- The stop that a power emergency begins at one core. -/
def State.emergencyStop (s : State) (k : Nat) : State :=
  let e := s.coreEntry k
  if e.holder = 0xFFFF then s
  else
    let (region, namer) := match e.loans.getLast? with
      | some l => (l.husk, l.lender)
      | none => (0, 0)
    s.beginStop k Cause.POWER_EMERGENCY region namer (stopTick s.now) []

theorem exec_powerEmergency (s : State) : exec .powerEmergency s = .next ((List.range 8192).foldl State.emergencyStop s) := rfl

theorem emergencyStop_frame (s : State) (k : Nat) : (s.emergencyStop k).entries = s.entries ∧ (s.emergencyStop k).endowed = s.endowed ∧
    (s.emergencyStop k).fabric = s.fabric ∧ ∀ j, j ≠ k → (s.emergencyStop k).coreAt j = s.coreAt j := by
  have hbegin : ∀ cause region namer tick ends, let t := s.beginStop k cause region namer tick ends
      t.entries = s.entries ∧ t.endowed = s.endowed ∧ t.fabric = s.fabric ∧ ∀ j, j ≠ k → t.coreAt j = s.coreAt j := by
    intro cause region namer tick ends t
    simp only [t, State.beginStop]
    split
    · exact ⟨rfl, rfl, rfl, fun _ _ => rfl⟩
    · exact ⟨rfl, rfl, rfl, fun j hj => State.coreAt_setCoreAt_ne _ _ hj⟩
  rw [State.emergencyStop]
  dsimp only
  split
  · exact ⟨rfl, rfl, rfl, fun _ _ => rfl⟩
  · exact hbegin _ _ _ _ _

theorem emergencyStop_begins (hholder : (s.coreEntry k).holder ≠ 0xFFFF) (hrun : (s.coreAt k).stopped = false)
    (hstop : (s.coreAt k).stop = none) : ∃ w, ((s.emergencyStop k).coreAt k).stop = some w ∧ w.cause = Cause.POWER_EMERGENCY ∧
      w.tick = stopTick s.now ∧ w.ticked = false := by
  have hbegin : ∀ region namer, ∃ w, ((s.beginStop k Cause.POWER_EMERGENCY region namer (stopTick s.now) []).coreAt k).stop = some w ∧
      w.cause = Cause.POWER_EMERGENCY ∧ w.tick = stopTick s.now ∧ w.ticked = false := fun region namer => by
    simp only [State.beginStop, hrun, hstop, Bool.false_eq_true, if_false, State.coreAt_setCoreAt_same]
    exact ⟨_, rfl, rfl, rfl, rfl⟩
  rw [State.emergencyStop]
  dsimp only
  rw [if_neg hholder]
  exact hbegin _ _

/-- Of a list of cores that names core `k` once, the power emergency begins its stop. -/
theorem emergencyStops_begin (hholder : (s.coreEntry k).holder ≠ 0xFFFF) (hrun : (s.coreAt k).stopped = false)
    (hstop : (s.coreAt k).stop = none) (l : List Nat) (hnodup : l.Nodup) (hk : k ∈ l) :
    ∃ w, ((l.foldl State.emergencyStop s).coreAt k).stop = some w ∧ w.cause = Cause.POWER_EMERGENCY ∧
      w.tick = stopTick s.now ∧ w.ticked = false := by
  induction l generalizing s with
  | nil => cases hk
  | cons i l ih =>
    obtain ⟨hi, hl⟩ := List.nodup_cons.mp hnodup
    obtain ⟨hentries, hendowed, hfabric, hothers⟩ := emergencyStop_frame s i
    rw [List.foldl_cons]
    by_cases hik : k = i
    · subst hik
      have hkeep : (l.foldl State.emergencyStop (s.emergencyStop k)).coreAt k = (s.emergencyStop k).coreAt k :=
        List.foldlRecOn (motive := fun u : State => u.coreAt k = (s.emergencyStop k).coreAt k) l _ rfl fun u hu j hj =>
          ((emergencyStop_frame u j).2.2.2 k fun e => hi (e ▸ hj)).trans hu
      rw [hkeep]
      exact emergencyStop_begins hholder hrun hstop
    · have hcore : (s.emergencyStop i).coreAt k = s.coreAt k := hothers k hik
      have hentry : (s.emergencyStop i).coreEntry k = s.coreEntry k := by
        rw [State.coreEntry, State.entryOf, hentries, hendowed]; rfl
      have hnow : (s.emergencyStop i).now = s.now := congrArg BitVec.toNat hfabric
      rw [← hnow]
      exact ih (by rw [hentry]; exact hholder) (by rw [hcore]; exact hrun) (by rw [hcore]; exact hstop) hl
        ((List.mem_cons.mp hk).resolve_left hik)

/-- A function-level reset of an OID without cores reclaims its loans (R350). -/
theorem exec_functionLevelReset {f : Nat} (hf : (s.funcAt f).oid.toNat = o) (ho : o ≠ 0) (hone : o ≠ 1) (hlive : s.oidLive o = true)
    (hno : ∀ e ∈ s.entries, e.cls = cCore → e.holder ≠ o) : exec (.functionLevelReset f) s = .next (s.reclaimFrom o) := by
  have hheld : (s.entries.filter fun e => e.cls == cCore && e.holder == o) = [] :=
    List.filter_eq_nil_iff.mpr fun e he h => by
      rw [Bool.and_eq_true, beq_iff_eq, beq_iff_eq] at h
      exact hno e he h.1 h.2
  have hseed : (s.endowed && o == 1) = false := by rw [beq_eq_false_iff_ne.mpr hone, Bool.and_false]
  change execFunctionLevelReset f s = _
  unfold execFunctionLevelReset
  rw [hf]
  dsimp only
  rw [if_neg (by simp [ho, hlive]), hheld, hseed]
  rfl

/-! The keeper's writes (R338). -/

theorem keeperEvent_writes {j i : Nat} {v : Word} (hk : coreExists k = true) (hlive : s.oidLive o = true) (hkeep : s.isKeeper o k = true)
    (hwrite : s.keeperWrite o k j i v = .ok t) : s.keeperEvent o k j i v = .next t := by
  rw [State.keeperEvent, if_neg (by simp [hk, hlive, hkeep]), hwrite]
end

end Sys2Proof.Machine
end

section
/-! SUPPORT. The resume (R347): the rows, the registers of the core and the contexts that a husk restores. -/

namespace Sys2Proof.Machine

/-! Tables built from images. -/

/-- What is read of the entries of a range that a filter keeps. -/
theorem Table.get_range'_filter {α : Type} (d : α) (g : Nat → α) (p : Nat × α → Bool) (n a k : Nat) :
    Table.get d (((List.range' a n).map fun i => (i, g i)).filter p) k =
      if a ≤ k ∧ k < a + n ∧ p (k, g k) = true then g k else d := by
  induction n generalizing a with
  | zero => rw [if_neg (by omega)]; rfl
  | succ n ih =>
    rw [List.range'_succ, List.map_cons, List.filter_cons]
    split
    · next hp =>
      rw [Table.get]
      rcases Nat.lt_trichotomy k a with hk | rfl | hk
      · rw [if_pos hk, if_neg (by omega)]
      · rw [if_neg (Nat.lt_irrefl k), if_pos rfl, if_pos ⟨Nat.le_refl _, by omega, hp⟩]
      · rw [if_neg (by omega), if_neg (by omega), ih]
        exact if_congr ⟨fun h => ⟨by omega, by omega, h.2.2⟩, fun h => ⟨by omega, by omega, h.2.2⟩⟩ rfl rfl
    · next hp =>
      rw [ih]
      refine if_congr ⟨fun h => ⟨by omega, by omega, h.2.2⟩, fun h => ⟨?_, by omega, h.2.2⟩⟩ rfl rfl
      rcases Nat.eq_or_lt_of_le h.1 with rfl | hlt
      · exact absurd h.2.2 hp
      · exact hlt

theorem Table.get_range_filter {α : Type} (d : α) (g : Nat → α) (p : Nat × α → Bool) (n k : Nat) :
    Table.get d (((List.range n).map fun i => (i, g i)).filter p) k = if k < n ∧ p (k, g k) = true then g k else d := by
  rw [List.range_eq_range', Table.get_range'_filter]
  exact if_congr (by simp) rfl rfl

theorem Table.get_range_map {α : Type} (d : α) (g : Nat → α) {n k : Nat} (hk : k < n) :
    Table.get d ((List.range n).map fun i => (i, g i)) k = g k := by
  have h := Table.get_range_filter d g (fun _ => true) n k
  rw [List.filter_true, if_pos ⟨hk, rfl⟩] at h
  exact h

/-! Bytes put down. -/

theorem Memory.read_putBytes_in {m : Memory} {a i : Nat} {bs : List Byte} (h : m.wf = true) (hi : i < bs.length) :
    (m.putBytes a bs).read (a + i) = bs[i] := by
  induction bs generalizing m a i with
  | nil => cases hi
  | cons b bs ih =>
    rw [Memory.putBytes]
    cases i with
    | zero =>
      exact (Memory.read_putBytes_out (Memory.wf_write a b h) (.inl (Nat.lt_succ_self a))).trans (Memory.read_write_same _ _ h)
    | succ i =>
      rw [show a + (i + 1) = a + 1 + i by omega]
      exact ih (Memory.wf_write a b h) (by simpa using hi)

/-- Rows put down from memory one by one: a row of the list is as in memory. -/
theorem read_putRows {m : Memory} {base : Nat} (rows : List Nat) {c : Core} (hc : c.pool.wf = true) {r i : Nat} (hr : r ∈ rows) (hi : i < 128) :
    (rows.foldl (fun (c : Core) r =>
      { c with pool := c.pool.putBytes (128 * r) (m.bytes (base + 128 * r) 128), written := setBit c.written r }) c).pool.read (128 * r + i) =
        m.read (base + 128 * r + i) := by
  have hlen : ∀ r, (m.bytes (base + 128 * r) 128).length = 128 := fun r => by rw [Memory.bytes, List.length_map, List.length_range]
  have hrow : ∀ (rows : List Nat) (c : Core), c.pool.wf = true → c.pool.read (128 * r + i) = m.read (base + 128 * r + i) ∨ r ∈ rows →
      (rows.foldl (fun (c : Core) r =>
        { c with pool := c.pool.putBytes (128 * r) (m.bytes (base + 128 * r) 128), written := setBit c.written r }) c).pool.read (128 * r + i) =
          m.read (base + 128 * r + i) := fun rows => by
    induction rows with
    | nil => exact fun c _ h => h.resolve_right List.not_mem_nil
    | cons j rows ih =>
      intro c hc h
      rw [List.foldl_cons]
      refine ih _ (Memory.wf_putBytes _ _ hc) ?_
      by_cases hj : r = j
      · subst hj
        refine .inl ?_
        show (c.pool.putBytes (128 * r) (m.bytes (base + 128 * r) 128)).read (128 * r + i) = _
        rw [Memory.read_putBytes_in hc (by rw [hlen]; exact hi)]
        simp only [Memory.bytes, List.getElem_map, List.getElem_range]
      · refine h.imp (fun h => ?_) fun h => (List.mem_cons.mp h).resolve_left hj
        show (c.pool.putBytes (128 * j) (m.bytes (base + 128 * j) 128)).read (128 * r + i) = _
        rw [Memory.read_putBytes_out hc (by rw [hlen]; omega), h]
  exact hrow rows c hc (.inr hr)

section
variable {s : State} {k base : Nat}

/-- A core without its rows. -/
def Core.rowless (c : Core) : Core := { c with pool := [], written := 0, wbuf := [] }

theorem restoreRows_mem (s : State) (k base rowmap : Nat) (d : Core) : (s.restoreRows k base rowmap d).mem = s.mem := rfl

/-- The rows of a resume change the rows of the core alone. -/
theorem restoreRows_rowless (s : State) (k base rowmap : Nat) (d : Core) :
    ((s.restoreRows k base rowmap d).coreAt k).rowless = (s.coreAt k).rowless := by
  unfold State.restoreRows
  extract_lets c regs keep c' rows
  refine (congrArg Core.rowless (Table.get_put_same _ _ _ _)).trans ?_
  exact List.foldlRecOn (motive := fun x : Core => x.rowless = c.rowless) rows _ rfl fun _ hx _ _ => hx

/-- A row of the image is as in the husk. -/
theorem restoreRows_read (hs : s.canonical) {rowmap r i : Nat} {d : Core} (hr : r < d.regBase) (hr' : r < 1536) (hi : i < 128)
    (hbit : rowmap / 2 ^ r % 2 = 1) :
    ((s.restoreRows k base rowmap d).coreAt k).pool.read (128 * r + i) = s.mem.read (base + 0x10000 + 128 * r + i) := by
  unfold State.restoreRows
  extract_lets c regs keep c' rows
  refine (congrArg (fun x : Core => x.pool.read (128 * r + i)) (Table.get_put_same _ _ _ _)).trans ?_
  have hwf : c'.pool.wf = true := Memory.wf_filter (hs.2 k) _
  refine read_putRows rows hwf (List.mem_filter.mpr ⟨List.mem_range.mpr hr', ?_⟩) hi
  simp [hbit, regs, hr]

/-! Barriers restored. -/

/-- A core without its barriers and contexts. -/
def Core.unbarred (c : Core) : Core := { c with bars := [], ctxs := [], held := [] }
/-- A context without its marks on barriers. -/
def Ctx.bare (x : Ctx) : Ctx := { x with pend := 0, aph := 0, dropped := 0 }

/-- The restore of a barrier changes barriers and marks alone. -/
theorem barRestore_frame (c : Core) (b img : Nat) (ts : BitVec 64) : (c.barRestore b img ts).unbarred = c.unbarred ∧
    ∀ j, ((c.barRestore b img ts).ctxAt j).bare = (c.ctxAt j).bare := by
  unfold Core.barRestore
  extract_lets old f v m c'
  have hc' : c'.unbarred = c.unbarred ∧ ∀ j, (c'.ctxAt j).bare = (c.ctxAt j).bare := by
    simp only [c']
    split <;> exact ⟨rfl, fun _ => rfl⟩
  refine List.foldlRecOn (motive := fun d : Core => d.unbarred = c.unbarred ∧ ∀ j, (d.ctxAt j).bare = (c.ctxAt j).bare) _ _ hc'
    fun d hd i _ => ?_
  split
  · exact hd
  · refine ⟨hd.1, fun j => ?_⟩
    rw [← hd.2 j]
    by_cases hj : j = i
    · subst hj; exact (congrArg Ctx.bare (Table.get_put_same _ _ _ _)).trans rfl
    · exact congrArg Ctx.bare (Table.get_put_ne _ _ _ hj)

/-- What a packet in hand changes is a barrier. -/
theorem takeHeld_frame (c : Core) : c.takeHeld.unbarred = c.unbarred ∧ ∀ j, (c.takeHeld.ctxAt j).bare = (c.ctxAt j).bare :=
  List.foldlRecOn (motive := fun d : Core => d.unbarred = c.unbarred ∧ ∀ j, (d.ctxAt j).bare = (c.ctxAt j).bare) c.held _
    ⟨rfl, fun _ => rfl⟩ fun _ hd p _ => by cases p <;> exact hd

theorem takeHeld_held (c : Core) : c.takeHeld.held = [] := rfl

/-! Latch records (R345). -/

/-- A field of an image in memory. -/
theorem fieldOf_readLE (m : Memory) (a : Nat) {off n size : Nat} (h : off + n ≤ size) : fieldOf (m.readLE a size) off n = m.readLE (a + off) n := by
  rw [Memory.readLE_within m a h, fieldOf, Nat.pow_mul, Nat.pow_mul]

/-- A LIVE context from its latch record (R347, R37). -/
theorem ofLatch_live (img : Nat) (kpts : Word) (hlive : fieldOf img 511 1 / 64 = 1) :
    let x := Ctx.ofLatch img kpts
    x.st = .live ∧ x.pc = word (fieldOf img 448 8) ∧ x.trapvec = word (fieldOf img 456 8) ∧ x.epc = word (fieldOf img 464 8) ∧
      x.tval = word (fieldOf img 472 8) ∧ x.stacklim = word (fieldOf img 480 8) ∧ x.pts = later (word (fieldOf img 488 8)) kpts ∧
      ∀ n : BitVec 5, x.getX n = if n ≠ 0 ∧ (BitVec.ofNat 104 (fieldOf img 496 13)).getLsbD (bitX n.toNat) = true then
        word (fieldOf img (8 * n.toNat) 8) else 0 := by
  have hst : CtxSt.ofCode (fieldOf img 511 1 / 64) = .live := by rw [hlive]; rfl
  have hne : ¬(CtxSt.live = CtxSt.free) := by decide
  simp only [Ctx.ofLatch, hst, if_neg hne]
  refine ⟨trivial, trivial, trivial, trivial, trivial, trivial, trivial, fun n => ?_⟩
  rw [Ctx.getX]
  by_cases hn : n = 0
  · rw [if_pos hn, if_neg fun h => h.1 hn]
  · rw [if_neg hn, regTable, List.filter_filter, Table.get_range_filter]
    have hlt : n.toNat < 32 := n.isLt
    have hnz : n.toNat ≠ 0 := fun h => hn (BitVec.eq_of_toNat_eq h)
    have hword : (BitVec.ofNat 64 (fieldOf img (0 + 8 * n.toNat) 8)) = word (fieldOf img (8 * n.toNat) 8) := by rw [Nat.zero_add]; rfl
    rw [hword]
    by_cases hz : word (fieldOf img (8 * n.toNat) 8) = 0
    · rw [hz, ite_self, ite_self]
    · have hz' : word (fieldOf img (8 * n.toNat) 8) ≠ 0#64 := hz
      have hn' : n ≠ 0#5 := hn
      exact if_congr (by simp [hlt, hnz, hn', hz']) rfl rfl

/-! The core restored (R347). -/

/-- The section of a husk at the latch record of a context is that record alone (R344). -/
theorem eq_of_mem_sections {c : Core} {j : Nat} (hj : j < 11) {x : Nat × Nat × Nat} (hx : x ∈ c.sections)
    (h : (decide (x.1 ≤ 0x200 + 512 * j) && decide (0x200 + 512 * j < x.1 + x.2.1)) = true) : x.1 = 0x200 + 512 * j := by
  rw [Bool.and_eq_true, decide_eq_true_iff, decide_eq_true_iff] at h
  obtain ⟨hlo, hhi⟩ := h
  rcases List.mem_append.mp hx with hx | hx
  · obtain ⟨i, -, rfl⟩ := List.mem_map.mp hx
    dsimp only at hlo hhi ⊢
    omega
  · simp only [List.mem_cons, List.not_mem_nil, or_false] at hx
    rcases hx with rfl | rfl | rfl | rfl | rfl | rfl | rfl <;> dsimp only at hlo hhi <;> omega

theorem all_sections_latch {j : Nat} (hj : j < 11) {l : List Nat} (hq : 0x200 + 512 * j ∈ l) (c : Core) :
    ((c.sections.filter fun x => decide (x.1 ≤ 0x200 + 512 * j) && decide (0x200 + 512 * j < x.1 + x.2.1)).map Prod.fst).all l.contains = true := by
  rw [List.all_eq_true]
  intro a ha
  obtain ⟨x, hx, rfl⟩ := List.mem_map.mp ha
  obtain ⟨hmem, hin⟩ := List.mem_filter.mp hx
  rw [eq_of_mem_sections hj hmem hin]
  exact List.contains_iff_mem.mpr hq

/-- What a resume restores from the head of a husk, from its rows and from the latch record of a context. -/
theorem restore_spec (hext : isExternal base = false) (hs : s.canonical) :
    let m (off n : Nat) : Nat := s.mem.readLE (base + off) n
    let c := (s.restore k base).coreAt k
    (c.partw = word (m 24 8) ∧ c.decla = word (m 32 8) ∧ c.declb = word (m 40 8) ∧ c.wid = word (m 48 8) ∧ c.deadline = word (m 56 8) ∧
      c.flags = word (m 64 8) ∧ c.loopRet = word (m 72 8) ∧ c.ctarget = word (m 80 8)) ∧
    (∀ r i, r < ({ Core.empty with partw := word (m 24 8) } : Core).regBase → i < 128 → m 128 192 / 2 ^ r % 2 = 1 →
      c.pool.read (128 * r + i) = s.mem.read (base + 0x10000 + 128 * r + i)) ∧
    ∀ j, j < 11 → 0x200 + 512 * j ∈ (s.noteOf k (word (m 16 8)) (m 92 1 % 2 == 1)).sects →
      ∃ d g b, (c.ctxAt j).bare = { Ctx.ofLatch (m (0x200 + 512 * j) 512) (s.coreAt k).kptsNow with detached := d, wait := g, bans := b }.bare := by
  unfold State.restore
  extract_lets m t f w note d u f' c kpts reg bit buf bbufs cards msgs dom rowsOf ctx c1 c2 c3 v c4
  have ht : t = s := if_neg (by rw [hext]; exact Bool.false_ne_true)
  have hc4 : c4 = c3 := Table.get_put_same _ _ _ _
  have hmem : u.mem = t.mem := restoreRows_mem t k base _ _
  have hc3 : c3.unbarred = c2.unbarred ∧ ∀ j, (c3.ctxAt j).bare = (c2.ctxAt j).bare :=
    List.foldlRecOn (motive := fun x : Core => x.unbarred = c2.unbarred ∧ ∀ j, (x.ctxAt j).bare = (c2.ctxAt j).bare) _ _
      ⟨rfl, fun _ => rfl⟩ fun x hx b _ => by
        obtain ⟨h1, h2⟩ := barRestore_frame x b (f' (0x1800 + 32 * b) 32) (note.bars.getD b 0)
        exact ⟨h1.trans hx.1, fun j => (h2 j).trans (hx.2 j)⟩
  clear_value c4
  subst hc4
  clear_value c3
  have hw : ∀ off, w off = word (m off 8) := fun off => by simp only [w, f, m, ht]
  refine ⟨?_, ?_, ?_⟩
  · rw [← hw 24, ← hw 32, ← hw 40, ← hw 48, ← hw 56, ← hw 64, ← hw 72, ← hw 80]
    clear_value w
    exact ⟨congrArg Core.partw hc3.1, congrArg Core.decla hc3.1, congrArg Core.declb hc3.1, congrArg Core.wid hc3.1,
      congrArg Core.deadline hc3.1, congrArg Core.flags hc3.1, congrArg Core.loopRet hc3.1, congrArg Core.ctarget hc3.1⟩
  · intro r i hr hi hbit
    have hpool : c3.pool = (u.coreAt k).pool := (congrArg Core.pool hc3.1 :)
    have hr' : r < 1536 := Nat.lt_of_lt_of_le hr (Nat.sub_le _ _)
    rw [hpool, ← ht]
    rw [← ht] at hs
    rw [← hw] at hr
    refine restoreRows_read hs hr hr' hi ?_
    rw [← hbit]
    simp only [f, m, ht]
  · intro j hj hq
    have hkpts : kpts = (s.coreAt k).kptsNow := by
      rw [← ht]
      exact (congrArg Core.kptsNow (restoreRows_rowless t k base (f 128 192) { d with partw := w 24 }) :)
    have hf' : f' (0x200 + 512 * j) 512 = m (0x200 + 512 * j) 512 := by
      have hnote : note = s.noteOf k (word (m 16 8)) (m 92 1 % 2 == 1) := by simp only [note, w, f, m, ht]
      rw [← hnote] at hq
      refine (if_pos (all_sections_latch hj hq Core.empty)).trans ?_
      simp only [f, m, ht]
    have hctx : c2.ctxAt j = ctx j := Table.get_range_map _ _ hj
    rw [hc3.2 j, hctx, ← hf', ← hkpts]
    exact ⟨_, _, _, rfl⟩

/-- A core that takes what is held for it and runs. -/
def Core.resumed (c : Core) : Core := { c.takeHeld with hstat := .running }

theorem exec_resumeComplete (hst : (s.coreAt k).hstat = .resuming) (hb : huskBase (s.coreAt k).kresume = some base) :
    exec (.resumeComplete k) s = .next ((s.restore k base).updCoreAt k Core.resumed) := by
  change execResumeComplete k s = _
  rw [execResumeComplete, hst, hb]
  rfl

theorem resumed_unbarred (c : Core) : c.resumed.unbarred = { c.unbarred with hstat := .running } := by
  have h := (takeHeld_frame c).1
  rw [← h]
  rfl

theorem resumed_bare (c : Core) (j : Nat) : (c.resumed.ctxAt j).bare = (c.ctxAt j).bare := (takeHeld_frame c).2 j

/-- A context that agrees with its latch record but for what a record does not hold. -/
theorem latch_of_bare {x : Ctx} {img : Nat} {kpts : Word} {d : Bool} {g : Wait} {b : Option BarAns} (hlive : fieldOf img 511 1 / 64 = 1)
    (h : x.bare = { Ctx.ofLatch img kpts with detached := d, wait := g, bans := b }.bare) :
    x.st = .live ∧ x.pc = word (fieldOf img 448 8) ∧ x.trapvec = word (fieldOf img 456 8) ∧ x.epc = word (fieldOf img 464 8) ∧
      x.tval = word (fieldOf img 472 8) ∧ x.stacklim = word (fieldOf img 480 8) ∧ x.pts = later (word (fieldOf img 488 8)) kpts ∧
      ∀ n : BitVec 5, x.getX n = if n ≠ 0 ∧ (BitVec.ofNat 104 (fieldOf img 496 13)).getLsbD (bitX n.toNat) = true then
        word (fieldOf img (8 * n.toNat) 8) else 0 := by
  obtain ⟨h1, h2, h3, h4, h5, h6, h7, h8⟩ := ofLatch_live img kpts hlive
  exact ⟨(congrArg Ctx.st h).trans h1, (congrArg Ctx.pc h).trans h2, (congrArg Ctx.trapvec h).trans h3, (congrArg Ctx.epc h).trans h4,
    (congrArg Ctx.tval h).trans h5, (congrArg Ctx.stacklim h).trans h6, (congrArg Ctx.pts h).trans h7,
    fun n => (congrArg (Ctx.getX · n) h).trans (h8 n)⟩

/-- The core that runs after a resume (R347): the head of the husk, its rows, and the contexts of its latch records. -/
theorem resumed_spec (hext : isExternal base = false) (hs : s.canonical) :
    let m (off n : Nat) : Nat := s.mem.readLE (base + off) n
    let c := ((s.restore k base).coreAt k).resumed
    (c.partw = word (m 24 8) ∧ c.decla = word (m 32 8) ∧ c.declb = word (m 40 8) ∧ c.wid = word (m 48 8) ∧ c.deadline = word (m 56 8) ∧
      c.flags = word (m 64 8) ∧ c.loopRet = word (m 72 8) ∧ c.ctarget = word (m 80 8)) ∧
    (∀ r i, r < ({ Core.empty with partw := word (m 24 8) } : Core).regBase → i < 128 → m 128 192 / 2 ^ r % 2 = 1 →
      c.pool.read (128 * r + i) = s.mem.read (base + 0x10000 + 128 * r + i)) ∧
    ∀ j (n : BitVec 5), j < 11 → let q := 0x200 + 512 * j
      let x := c.ctxAt j
      q ∈ (s.noteOf k (word (m 16 8)) (m 92 1 % 2 == 1)).sects → m (q + 511) 1 / 64 = 1 →
        x.st = .live ∧ x.pc = word (m (q + 448) 8) ∧ x.trapvec = word (m (q + 456) 8) ∧ x.epc = word (m (q + 464) 8) ∧
        x.tval = word (m (q + 472) 8) ∧ x.stacklim = word (m (q + 480) 8) ∧ x.pts = later (word (m (q + 488) 8)) (s.coreAt k).kptsNow ∧
        x.getX n = if n ≠ 0 ∧ (BitVec.ofNat 104 (m (q + 496) 13)).getLsbD (bitX n.toNat) then word (m (q + 8 * n.toNat) 8) else 0 := by
  intro m c
  obtain ⟨hhead, hrows, hctx⟩ := restore_spec (k := k) hext hs
  have hc := resumed_unbarred ((s.restore k base).coreAt k)
  refine ⟨?_, ?_, ?_⟩
  · obtain ⟨h1, h2, h3, h4, h5, h6, h7, h8⟩ := hhead
    exact ⟨(congrArg Core.partw hc).trans h1, (congrArg Core.decla hc).trans h2, (congrArg Core.declb hc).trans h3,
      (congrArg Core.wid hc).trans h4, (congrArg Core.deadline hc).trans h5, (congrArg Core.flags hc).trans h6,
      (congrArg Core.loopRet hc).trans h7, (congrArg Core.ctarget hc).trans h8⟩
  · intro r i hr hi hbit
    have hpool : c.pool = ((s.restore k base).coreAt k).pool := (congrArg Core.pool hc :)
    rw [hpool]
    exact hrows r i hr hi hbit
  · intro j n hj q x hq hlive
    obtain ⟨d, g, b, hbare⟩ := hctx j hj hq
    have hx := (resumed_bare ((s.restore k base).coreAt k) j).trans hbare
    have hfield : ∀ off n, off + n ≤ 512 → fieldOf (s.mem.readLE (base + q) 512) off n = m (q + off) n := fun off n h => by
      rw [fieldOf_readLE _ _ h, Nat.add_assoc]
    rw [← hfield 511 1 (by decide)] at hlive
    obtain ⟨h1, h2, h3, h4, h5, h6, h7, h8⟩ := latch_of_bare hlive hx
    rw [hfield 448 8 (by decide)] at h2
    rw [hfield 456 8 (by decide)] at h3
    rw [hfield 464 8 (by decide)] at h4
    rw [hfield 472 8 (by decide)] at h5
    rw [hfield 480 8 (by decide)] at h6
    rw [hfield 488 8 (by decide)] at h7
    have h9 := h8 n
    have hn : 8 * n.toNat + 8 ≤ 512 := by have := n.isLt; omega
    rw [hfield 496 13 (by decide), hfield _ 8 hn] at h9
    exact ⟨h1, h2, h3, h4, h5, h6, h7, h9⟩
end

end Sys2Proof.Machine
end

section
/-! SUPPORT. The flush and the keeper's stop as O53 states them. -/

namespace Sys2Proof.Machine

section
variable {s : State} {k o : Nat} {st : Stop}

/-- FLUSH_TOKEN, once every core of its stop set has quiesced (R341, R342). -/
theorem flushToken_spec (hstop : (s.coreAt k).stop = some st) (hquiet : st.quiet = true) (hflushed : st.flushed = false)
    (hopen : st.finished = false)
    (hset : ∀ p ∈ s.cores, ∀ y, p.2.stop = some y → p.2.hstat = .resuming ∨ y.tick ≠ st.tick ∨ y.quiet = true ∨ y.finished = true) :
    let rg := if st.noHusk then (0, 0) else (s.coreAt k).stopRegion st
    let sent := s.barq.filter fun p => p.2.from k
    ((s.coreAt k).hstat = .writing → exec (.flushToken k) s = .next (s.stageFlits k st)) ∧
    ((s.coreAt k).hstat ≠ .writing → (∀ base, huskBase rg.1 = some base → s.huskHeld rg.2 rg.1 = false ∨ isPeer base = true) →
      ∃ t, exec (.flushToken k) s = .next t ∧ (t.coreAt k).hstat = .void ∧ (t.coreAt k).kcause = st.cause) ∧
    ((s.coreAt k).hstat ≠ .writing → ∀ base, huskBase rg.1 = some base → s.huskHeld rg.2 rg.1 = true → isPeer base = false →
      ∃ t w n, exec (.flushToken k) s = .next t ∧ (t.coreAt k).hstat = .writing ∧ (t.coreAt k).hblocks = 0 ∧
        (t.coreAt k).stop = some w ∧ w.base = base ∧ w.drained = st.drained ∧ w.todo = s.huskBlocks k { st with base := base } ∧
        n ≤ 32 ∧ w.saved = st.saved ++ sent.take n ∧
        (s.staged k = 0 → sent.length ≤ 32 → w.saved = st.saved ++ sent ∧ w.flushed = true)) := by
  intro rg sent
  refine ⟨flushToken_writing hstop hquiet hflushed hopen hset, fun hw hno => ?_, fun hw base hbase hheld hpeer => ?_⟩
  · refine ⟨_, flushToken_void hstop hquiet hflushed hopen hset hw hno, ?_⟩
    obtain ⟨x, hx⟩ := endStop_frame ((({ s with barq := s.barq.filter fun p => !p.2.from k } : State).voidStop k st)) k
    rw [hx]
    exact voidStop_spec _ k st
  · let save : Stop := { st with base := base, todo := s.huskBlocks k { st with base := base } }
    let u := s.saveBegun k base st.holder
    have hcore := stageFlits_core u k save
    have hbarq : u.barq = s.barq := barq_saveBegun s k base st.holder
    obtain ⟨hstat, hblocks⟩ := saveBegun_core s k base st.holder
    rw [hbarq] at hcore
    refine ⟨_, _, 32 - u.staged k, flushToken_saves hstop hquiet hflushed hopen hset hw hbase hheld hpeer,
      (congrArg Core.hstat hcore).trans hstat, (congrArg Core.hblocks hcore).trans hblocks, congrArg Core.stop hcore, rfl, rfl, rfl,
      Nat.sub_le _ _, rfl, fun hfree hfew => ?_⟩
    have hroom : u.staged k = 0 := staged_saveBegun s k base st.holder hfree
    have hall : sent.take (32 - u.staged k) = sent := by rw [hroom]; exact List.take_of_length_le hfew
    exact ⟨congrArg (st.saved ++ ·) hall, by rw [beq_iff_eq]; exact congrArg List.length hall⟩

/-- A keeper's write of 1 to KSTOP begins a stop into the region that KHUSK names (R338). -/
theorem keeperWrite_kstop (h : (s.coreAt k).khusk ≠ 0) : s.keeperWrite o k 0 0x106 1 =
    .ok (s.beginStop k Cause.STOP_KEEPER (s.coreAt k).khusk (s.coreAt k).khuskBy (stopTick s.now) []) := by
  have hplain : ¬((0x106 = 0x010 || (0x040 ≤ 0x106 && 0x106 ≤ 0x05F) : Bool) = true) := by decide
  rw [State.keeperWrite]
  dsimp only
  rw [if_neg hplain, if_neg (fun e => e rfl), if_neg h]
end

end Sys2Proof.Machine
end

section
open Sys2Proof Sys2Proof.Machine

/-- Settles O53: each event is the step its unit makes of the core and its stop; a resume changes of the core what the husk holds,
and what barriers and held packets add touches neither its registers nor a context's latch record. -/
theorem stopEvents : Obligations.StopEvents := by
  unfold Obligations.StopEvents
  intro k o i f v nm st s t co
  refine ⟨?_, ?_, flushToken_spec, ?_, ?_, ?_, ?_, ?_, ?_, exec_functionLevelReset, ?_, ?_⟩
  · intro hstop hticked hdue hrun habort hgang
    obtain ⟨t, c, hexec, hcore⟩ := exec_stopTick hstop hticked hdue hrun habort hgang
    refine ⟨t, hexec, ?_⟩
    rw [hcore]
    exact ⟨rfl, rfl, rfl, rfl, rfl⟩
  · intro hstop hticked hquiet
    obtain ⟨t, hexec, hctxs, hflag⟩ := exec_quiesceEnd hstop hticked hquiet
    refine ⟨t, hexec, fun p hp => ?_, hflag⟩
    obtain ⟨x, hx⟩ := hctxs p hp
    rw [hx]
    exact quiesce_spec x
  · intro d p rest hstop hsaved hopen
    exact ⟨_, exec_saveBufferDrain hstop hopen hsaved, congrArg Core.stop (coreAt_updCoreAt_same _ _ _), rfl⟩
  · intro off bs rest hstop htodo hopen
    have hcore := coreAt_updCoreAt_same (s.huskWrite k st.base off bs) k fun c => { c with hblocks := c.hblocks + 1, stop := some { st with todo := rest } }
    exact ⟨_, exec_huskSaveStep hstop hopen htodo, congrArg Core.stop hcore, congrArg Core.hblocks hcore, rfl⟩
  · intro hstop hflushed hopen htodo hsaved
    let u := (s.huskWrite k st.base 6 [1]).updCoreAt k fun c => { c with hstat := .valid, stop := some { st with finished := true } }
    have hcore := coreAt_updCoreAt_same (s.huskWrite k st.base 6 [1]) k fun c => { c with hstat := .valid, stop := some { st with finished := true } }
    obtain ⟨x, hx⟩ := endStop_frame u k
    have hend := stop_endStop (s := u) (congrArg Core.stop hcore) rfl
    refine ⟨_, exec_huskValid hstop hopen hflushed htodo hsaved, ?_, fun h => ?_, fun h => ?_⟩
    · exact (congrArg Core.hstat hx).trans (congrArg Core.hstat hcore)
    · exact hend.trans (if_pos h)
    · exact hend.trans (if_neg h)
  · exact fun _ hstop hdone hends htouch => exec_acceptStopEnd hstop hdone hends htouch
  · exact fun _ hstop hdone hends => exec_reclaimStopEnd hstop hdone hends
  · intro hk hholder hrun hstop _
    obtain ⟨w, hw⟩ := emergencyStops_begin hholder hrun hstop (List.range 8192) List.nodup_range (List.mem_range.mpr hk)
    exact ⟨_, w, exec_powerEmergency s, hw⟩
  · intro hk hlive hkeep
    refine ⟨keeperEvent_writes hk hlive hkeep, keeperEvent_writes hk hlive hkeep, fun hi hwrite => ?_, fun hi hwrite => ?_, keeperWrite_kstop⟩
    · exact keeperEvent_writes hk hlive hkeep (by rw [Nat.mod_eq_of_lt hi]; exact hwrite)
    · exact keeperEvent_writes hk hlive hkeep (by rw [Nat.mod_eq_of_lt hi]; exact hwrite)
  · intro base hst hb t m
    have hcore : t.coreAt k = ((s.restore k base).coreAt k).resumed := coreAt_updCoreAt_same _ _ _
    refine ⟨exec_resumeComplete hst hb, ?_, ?_, fun hext hs => ?_⟩
    · rw [hcore]; rfl
    · rw [hcore]; rfl
    · obtain ⟨⟨h1, h2, h3, h4, h5, h6, h7, h8⟩, hrows, hctx⟩ := resumed_spec (k := k) hext hs
      rw [← hcore] at h1 h2 h3 h4 h5 h6 h7 h8 hrows hctx
      exact ⟨h1, h2, h3, h4, h5, h6, h7, h8, hrows, hctx⟩
end

section
/-! SUPPORT. Answers of translation requests (R96, R331): who waits, what an answer changes, and marks on control space. -/

namespace Sys2Proof.Machine

section
variable {s t : State} {d k j : Nat} {g : Bool} {c : BitVec 8}

/-! Marks on lines outside of HBM count nothing at a core. -/

theorem cores_setLines (f : State → Nat → LineTs) (ls : List Nat) (s : State) :
    (ls.foldl (fun s l => s.setLine l (f s l)) s).cores = s.cores :=
  foldl_view_same (f := fun s l => s.setLine l (f s l)) (v := State.cores) (fun _ _ => rfl) ls s

theorem cores_stampReads (ls : List Nat) (pts : BitVec 64) : (s.stampReads ls pts).2.cores = s.cores := cores_setLines _ ls s

theorem cores_countReq_outside (d ev : Nat) : (s.countReq (Ag.outside d) ev).cores = s.cores := rfl

theorem cores_widen_outside (d l : Nat) : (s.widen (Ag.outside d) l).cores = s.cores := by
  unfold State.widen
  split
  · rfl
  · dsimp only
    split
    · rfl
    · split <;> rfl

/-- A mark on control space, which no cache of a die holds, leaves the cores as they are. -/
theorem cores_ctlMark {pa n : Nat} (pts : BitVec 64) (hlo : hbmEnd + 128 ≤ pa) (hn : 0 < n) : (s.ctlMark pa n pts).cores = s.cores := by
  have hfar : ([pa / 128, (pa + n - 1) / 128].eraseDups.filter fun l => decide (128 * l < hbmEnd)) = [] :=
    List.filter_eq_nil_iff.mpr fun l hl => by
      have hl' : l ∈ [pa / 128, (pa + n - 1) / 128] := List.mem_eraseDups.mp hl
      simp only [List.mem_cons, List.not_mem_nil, or_false] at hl'
      rw [decide_eq_true_iff]
      omega
  rw [State.ctlMark, State.ctlStamp, State.stampWrites, hfar]
  dsimp only [List.foldl_nil]
  rw [cores_setLines]
  have hwiden : ∀ ls : List Nat, (ls.foldl (fun s l => s.widen (Ag.outside 0) l) s).cores = s.cores := fun ls =>
    foldl_view_same (v := State.cores) (fun s l => cores_widen_outside 0 l) ls s
  split <;> exact hwiden _

theorem cores_stepDomain (x : Domain) : (s.stepDomain d x).cores = s.cores :=
  cores_ctlMark (s := s.setDomain d x) 0 (by unfold hbmEnd domBlock; omega) (by decide)

theorem domainAt_stepDomain (x : Domain) : (s.stepDomain d x).domainAt d = x :=
  ((State.Traced.ctlMark (s.setDomain d x) (domBlock d) 64 0).domainAt d).trans (domainAt_setDomain s d x)

/-! Who waits. -/

/-- A context whose translation is asked of the host is listed. -/
theorem ctx_mem_atsWaiters {x : ExtWait} (hx : ((s.coreAt k).ctxAt j).ext = some x) (hd : x.hostOf d = true) : .ctx k j ∈ s.atsWaiters d := by
  rcases Table.get_eq_or_mem (d := Core.empty) s.cores k with h | h
  · have hnone : (Core.empty.ctxAt j).ext = none := by cases j <;> rfl
    rw [State.coreAt, h, hnone] at hx
    cases hx
  rcases Table.get_eq_or_mem (d := Ctx.empty) (s.coreAt k).ctxs j with h' | h'
  · rw [Core.ctxAt, h'] at hx; cases hx
  refine List.mem_flatMap.mpr ⟨_, h, List.mem_append_left _ (List.mem_map.mpr ⟨_, List.mem_filter.mpr ⟨h', ?_⟩, rfl⟩)⟩
  show Option.any _ ((s.coreAt k).ctxAt j).ext = true
  rw [hx]
  exact hd

/-- A card whose translation is asked of the host is listed. -/
theorem card_mem_atsWaiters {q : Card} {x : ExtWait} (hq : q ∈ (s.coreAt k).ring q.eng) (hx : q.ext = some x) (hd : x.hostOf d = true) :
    .card k q.eng q.seq ∈ s.atsWaiters d := by
  rcases Table.get_eq_or_mem (d := Core.empty) s.cores k with h | h
  · rw [State.coreAt, h, Core.ring] at hq; split at hq <;> cases hq
  have hcard : q ∈ (s.coreAt k).cards := by
    rw [Core.ring] at hq
    rw [Core.cards, List.mem_append]
    split at hq
    · exact .inr hq
    · exact .inl hq
  refine List.mem_flatMap.mpr ⟨_, h, List.mem_append_right _ (List.mem_map.mpr ⟨q, List.mem_filter.mpr ⟨hcard, ?_⟩, rfl⟩)⟩
  rw [hx]
  exact hd

/-! What an answer changes. -/

theorem domainAt_atsAnswer (s : State) (c : BitVec 8) (w : AtsWaiter) (d : Nat) : (s.atsAnswer c w).domainAt d = s.domainAt d := by
  cases w <;> rfl

theorem ext_atsAnswer (s : State) (c : BitVec 8) (w : AtsWaiter) (k j : Nat) : (((s.atsAnswer c w).coreAt k).ctxAt j).ext =
    if w = .ctx k j then answered c ((s.coreAt k).ctxAt j).ext else ((s.coreAt k).ctxAt j).ext := by
  cases w with
  | ctx k' j' =>
    rw [State.atsAnswer, ctxAt_updCtx]
    by_cases h : k = k' ∧ j = j'
    · obtain ⟨rfl, rfl⟩ := h; rw [if_pos ⟨rfl, rfl⟩, if_pos rfl]
    · rw [if_neg h, if_neg fun e => h (by injection e with e1 e2; exact ⟨e1.symm, e2.symm⟩)]
  | card k' e i =>
    rw [if_neg nofun, State.atsAnswer, State.updCard, coreAt_updCoreAt]
    split
    · rw [Core.ctxAt_setRing]
    · rfl

theorem ring_atsAnswer (s : State) (c : BitVec 8) (w : AtsWaiter) (k : Nat) (g : Bool) : ((s.atsAnswer c w).coreAt k).ring g =
    ((s.coreAt k).ring g).map fun q => if w = .card k g q.seq then { q with ext := answered c q.ext } else q := by
  cases w with
  | ctx k' j' =>
    rw [State.atsAnswer, State.updCtx, coreAt_updCoreAt]
    simp only [reduceCtorEq, if_false, List.map_id']
    split <;> rfl
  | card k' e i =>
    rw [State.atsAnswer, State.updCard, coreAt_updCoreAt]
    by_cases h : k = k' ∧ g = e
    · obtain ⟨rfl, rfl⟩ := h
      rw [if_pos rfl, Core.ring_setRing, if_pos rfl]
      refine List.map_congr_left fun q _ => if_congr ⟨fun e => by rw [e], fun e => ?_⟩ rfl rfl
      injection e with _ _ e
      exact e.symm
    · have hne : ∀ q : Card, ¬(AtsWaiter.card k' e i = .card k g q.seq) := fun q hq => h (by injection hq with h1 h2; exact ⟨h1.symm, h2.symm⟩)
      simp only [hne, if_false, List.map_id']
      split
      · next hk => rw [Core.ring_setRing, if_neg fun hg => h ⟨hk, hg⟩]
      · rfl

/-! Answers to all that wait. -/

/-- Every listed waiter answered. -/
def State.atsAnswerAll (s : State) (c : BitVec 8) (l : List AtsWaiter) : State := l.foldl (State.atsAnswer · c) s

theorem domainAt_atsAnswerAll (s : State) (c : BitVec 8) (l : List AtsWaiter) (d : Nat) : (s.atsAnswerAll c l).domainAt d = s.domainAt d :=
  foldl_view_same (v := (·.domainAt d)) (fun s w => domainAt_atsAnswer s c w d) l s

theorem ext_atsAnswerAll (l : List AtsWaiter) {x : ExtWait} (hx : (((s.atsAnswerAll c l).coreAt k).ctxAt j).ext = some x) (hno : x.answer = none) :
    ((s.coreAt k).ctxAt j).ext = some x ∧ .ctx k j ∉ l := by
  induction l generalizing s with
  | nil => exact ⟨hx, List.not_mem_nil⟩
  | cons w l ih =>
    obtain ⟨h, hl⟩ := ih (s := s.atsAnswer c w) hx
    rw [ext_atsAnswer] at h
    split at h
    · obtain ⟨y, _, rfl⟩ := Option.map_eq_some_iff.mp h; cases hno
    · next hw => exact ⟨h, List.not_mem_cons_of_ne_of_not_mem (fun e => hw e.symm) hl⟩

theorem card_atsAnswerAll (l : List AtsWaiter) {q : Card} {x : ExtWait} (hq : q ∈ ((s.atsAnswerAll c l).coreAt k).ring g) (hx : q.ext = some x)
    (hno : x.answer = none) : q ∈ (s.coreAt k).ring g ∧ .card k g q.seq ∉ l := by
  induction l generalizing s with
  | nil => exact ⟨hq, List.not_mem_nil⟩
  | cons w l ih =>
    obtain ⟨h, hl⟩ := ih (s := s.atsAnswer c w) hq
    rw [ring_atsAnswer] at h
    obtain ⟨q', hq', rfl⟩ := List.mem_map.mp h
    split at hx
    · obtain ⟨y, _, rfl⟩ := Option.map_eq_some_iff.mp hx; cases hno
    · next hw =>
      rw [if_neg hw] at hl ⊢
      exact ⟨hq', List.not_mem_cons_of_ne_of_not_mem (fun e => hw e.symm) hl⟩

/-- Once all that wait in a domain are answered, no context of it waits (R331). -/
theorem ctx_answered {x : ExtWait} (hx : (((s.atsAnswerAll c (s.atsWaiters d)).coreAt k).ctxAt j).ext = some x) (hpeer : x.peer = false)
    (hdom : x.dom = d) : x.answer ≠ none := fun hno => by
  obtain ⟨hold, hnot⟩ := ext_atsAnswerAll _ hx hno
  exact hnot (ctx_mem_atsWaiters hold (by simp [ExtWait.hostOf, hpeer, hdom, hno]))

/-- Once all that wait in a domain are answered, no card of it waits (R331). -/
theorem card_answered {q : Card} {x : ExtWait} (hq : q ∈ ((s.atsAnswerAll c (s.atsWaiters d)).coreAt k).ring q.eng) (hx : q.ext = some x)
    (hpeer : x.peer = false) (hdom : x.dom = d) : x.answer ≠ none := fun hno => by
  obtain ⟨hold, hnot⟩ := card_atsAnswerAll _ hq hx hno
  exact hnot (card_mem_atsWaiters hold hx (by simp [ExtWait.hostOf, hpeer, hdom, hno]))

/-! The answer of the host to one that waits. -/

theorem atsRespond_none (h : s.atsWaiters d = []) : s.atsRespond d c = s := by
  rw [State.atsRespond, State.atsPick, h]

/-- A response answers one that waits, whichever the host picks (R96). -/
theorem atsRespond_some (h : s.atsWaiters d ≠ []) : ∃ x ∈ s.atsWaiters d, ∃ z : State, s.atsRespond d c = z.atsAnswer c x ∧ z.cores = s.cores ∧
    z.domains = s.domains := by
  rw [State.atsRespond, State.atsPick]
  match hl : s.atsWaiters d with
  | [] => exact absurd hl h
  | [w] => exact ⟨w, List.mem_singleton_self w, s, rfl, rfl, rfl⟩
  | a :: b :: ws =>
    have hlt : (Config.freeWord s.n).toNat % (a :: b :: ws).length < (a :: b :: ws).length := Nat.mod_lt _ (Nat.succ_pos _)
    refine ⟨_, List.getElem_mem hlt, { s with n := s.n + 1 }, ?_, rfl, rfl⟩
    dsimp only
    rw [List.getElem?_eq_getElem hlt]
end

end Sys2Proof.Machine
end

section
/-! SUPPORT. Bring-up, BAR reads and vectors (R381, R370, R376), and the events of the translation answers. -/

namespace Sys2Proof.Machine

section
variable {s t : State} {d k j f vec : Nat} {failed : List Nat}

/-! Bring-up (R381). -/

theorem verify_ok (h : imageOk s.mem = true) : s.verify.stage = 4 ∧ s.verify.recovery = false ∧ s.verify.digest = imageDigest s.mem := by
  rw [State.verify, if_pos h]
  exact ⟨rfl, rfl, rfl⟩

theorem verify_bad (h : imageOk s.mem = false) : s.verify.stage = 3 ∧ s.verify.recovery = true := by
  rw [State.verify, if_neg (by rw [h]; exact Bool.false_ne_true)]
  have ht := State.Traced.ctlMark { s with stage := 3, recovery := true, mbpend := false } pendBlock 8 0
  exact ⟨ht.view State.stage fun _ _ => rfl, ht.view State.recovery fun _ _ => rfl⟩

/-- A core that failed its self-test, in the map. -/
def State.coreFailed (s : State) (k : Nat) : State :=
  if coreExists k then s.putEntry { Entry.dflt true cCore 0 k (k + 1) with owner := 0xFFFF } else s

/-- What the marks of failed cores leave: the map alone changes. -/
theorem coreFailed_frame (failed : List Nat) (s : State) : failed.foldl State.coreFailed s = { s with entries := (failed.foldl State.coreFailed s).entries } :=
  List.foldlRecOn (motive := fun t : State => t = { s with entries := t.entries }) failed _ rfl fun t ht k _ => by
    rw [State.coreFailed]
    split
    · rw [State.putEntry, ht]
    · exact ht

theorem exec_selfTestEnd_ok (hst : s.stage = 4) (hok : 8192 ∉ failed) : ∃ t, exec (.selfTestEnd failed) s = .next t ∧ t.stage = 5 ∧ t.endowed = true ∧
    ((t.coreAt 8192).ctxAt 0).pc = word (s.mem.readLE 16 8) := by
  have hframe := coreFailed_frame failed { s with endowed := true, stage := 5 }
  refine ⟨_, (if_neg fun h => h hst).trans (if_neg fun h => hok (List.contains_iff_mem.mp h)), ?_, ?_, ?_⟩
  · exact (congrArg State.stage hframe :)
  · exact (congrArg State.endowed hframe :)
  · rw [ctxAt_updCtx, if_pos ⟨rfl, rfl⟩]
    have hmem := congrArg State.mem hframe
    exact congrArg (fun m : Memory => word (m.readLE 16 8)) hmem

theorem exec_selfTestEnd_failed (hst : s.stage = 4) (hbad : 8192 ∈ failed) : ∃ t, exec (.selfTestEnd failed) s = .next t ∧ t.stage = 3 ∧
    t.recovery = true := by
  have hframe := coreFailed_frame failed { s with stage := 3, recovery := true }
  exact ⟨_, (if_neg fun h => h hst).trans (if_pos (List.contains_iff_mem.mpr hbad)), congrArg State.stage hframe, congrArg State.recovery hframe⟩

theorem exec_attestReportDone (h : s.attesting = true) : ∃ t, exec .attestReportDone s = .next t ∧ t.attesting = false := by
  refine ⟨_, if_neg (by rw [h]; exact Bool.false_ne_true), ?_⟩
  exact (State.Traced.ctlMark _ 0xF0000B0000 512 0).view State.attesting fun _ _ => rfl

/-! Reads of BAR 0 and BAR 4 (R370, R376). -/

theorem leOf_eq_map (n v : Nat) : leOf n v = (List.range n).map fun i => BitVec.ofNat 8 (v / 256 ^ i) := by
  refine List.ext_getElem (by simp) fun i h _ => ?_
  rw [length_leOf] at h
  have hi := leOf_getD v h
  rw [List.getD_eq_getElem _ _ (by rw [length_leOf]; exact h)] at hi
  rw [hi, List.getElem_map, List.getElem_range]

theorem ofNat_fieldOf (v i : Nat) : BitVec.ofNat 8 (fieldOf v i 1) = BitVec.ofNat 8 (v / 256 ^ i) := by
  rw [fieldOf, Nat.pow_mul]
  exact BitVec.eq_of_toNat_eq (by simp)

/-- A read of a vector's entry answers it (R376). -/
theorem barRead_vec (hv : s.visible f = true) (hvec : hasVec f vec = true) :
    s.barRead f 4 (16 * vec) 16 = .next (s.send (.readData (leOf 16 (s.vecAt f vec).image))) := by
  rw [hasVec, Bool.and_eq_true, decide_eq_true_iff, decide_eq_true_iff] at hvec
  obtain ⟨-, hlt⟩ := hvec
  have hcount : vecCount f ≤ 2048 := by unfold vecCount; split <;> omega
  have hbytes : (List.range 16).map (fun i => s.barByte f 4 (16 * vec + i)) = leOf 16 (s.vecAt f vec).image := by
    rw [leOf_eq_map]
    refine List.map_congr_left fun i hi => ?_
    have hi' : i < 16 := List.mem_range.mp hi
    rw [State.barByte, if_neg (by decide), if_neg (by decide), if_pos (by omega), show (16 * vec + i) / 16 = vec by omega,
      show (16 * vec + i) % 16 = i by omega, ofNat_fieldOf]
  have hmail : (4 = 4 && f = 0 && 0x10000 ≤ 16 * vec && 16 * vec < 0x11000 : Bool) = false := by
    simp only [Bool.and_eq_false_iff, decide_eq_false_iff_not]
    omega
  rw [State.barRead, if_neg (by rw [hv]; exact Bool.false_ne_true), if_neg (by decide)]
  dsimp only
  rw [hmail, ← hbytes, if_neg Bool.false_ne_true]
  split <;> rfl

/-- A read of a doorbell page answers the index of its slot (R370). -/
theorem barRead_page (hv : s.visible f = true) {off : Nat} (hoff : off < 64) : ∃ (z : State),
    s.barRead f 0 (4096 * off) 4 = .next (z.send (.readData (leOf 4 (s.pageIndex f off).toNat))) ∧
      z.cores = s.cores ∧ z.qslots = s.qslots ∧ z.mem = s.mem := by
  rw [State.barRead, if_neg (by rw [hv]; exact Bool.false_ne_true), if_neg (by decide)]
  extract_lets ls ls' r v z
  have htraced : s.Traced r.2 := State.Traced.stampReads s ls' s.outPts
  have hq : r.2.qslots = s.qslots := htraced.view State.qslots fun _ _ => rfl
  have hm : r.2.mem = s.mem := htraced.view State.mem fun _ _ => rfl
  refine ⟨z, ?_, cores_stampReads ls' s.outPts, hq, hm⟩
  have hindex : z.pageIndex f off = s.pageIndex f off := by rw [State.pageIndex, show z.qslots = s.qslots from hq]; rfl
  have hbytes : (List.range 4).map (fun i => z.barByte f 0 (4096 * off + i)) = leOf 4 (s.pageIndex f off).toNat := by
    rw [leOf_eq_map]
    refine List.map_congr_left fun i hi => ?_
    have hi' : i < 4 := List.mem_range.mp hi
    have hdiv : (4096 * off + i) / 4096 = off := by omega
    have hmod : (4096 * off + i) % 4096 = i := by omega
    have hlow : (4096 * off + i < 2 ^ 18 && (4096 * off + i) % 4096 < 4 : Bool) = true := by
      rw [Bool.and_eq_true, decide_eq_true_iff, decide_eq_true_iff]
      omega
    rw [State.barByte, if_pos rfl, if_pos hlow, hdiv, hmod, hindex, ofNat_fieldOf]
  rw [hbytes]

/-! Vectors (R376). -/

theorem exec_msixUnmask (hv : s.visible f = true) (hvec : hasVec f vec = true) : ∃ t, exec (.msixUnmask f vec) s = .next t ∧
    t.vecAt f vec = { s.vecAt f vec with masked := false, pending := false } ∧
    t.sent = s.sent ++ if (s.vecAt f vec).pending then [.msix f vec] else [] := by
  have hset : ∀ v, (s.setVec f vec v).vecAt f vec = v := fun v => Table.get_put_same _ _ _ _
  have hexec : exec (.msixUnmask f vec) s = .next (s.storeVec f vec { s.vecAt f vec with masked := false }) :=
    congrArg Host.Outcome.next (if_pos (by rw [hv, hvec]; rfl))
  refine ⟨_, hexec, ?_⟩
  rw [State.storeVec]
  cases hp : (s.vecAt f vec).pending with
  | true => exact ⟨hset _, rfl⟩
  | false =>
    refine ⟨(hset _).trans ?_, (List.append_nil _).symm⟩
    rw [← hp]

/-! Translation answers (R96, R331). -/

theorem exec_peerTimeout (h : ((s.coreAt k).ctxAt j).peerLate s.now = true) : ∃ t, exec (.peerTimeout k j) s = .next t ∧
    ((t.coreAt k).ctxAt j).ext.all (fun x => x.answer == some Cause.PAGE_ABSENT) = true := by
  refine ⟨_, congrArg Host.Outcome.next (if_pos h), ?_⟩
  rw [ctxAt_updCtx, if_pos ⟨rfl, rfl⟩]
  dsimp only
  cases ((s.coreAt k).ctxAt j).ext <;> rfl

/-- What ATS_RESPONSE makes of a response to a request that still counts: it answers one that waits, of the state `u`. -/
theorem atsRespond_spec {u : State} {c : BitVec 8} {b : Domain} (hcores : u.cores = s.cores) (hdom : u.domainAt d = b) :
    (u.atsRespond d c).domainAt d = b ∧
    (s.atsWaiters d ≠ [] → ∃ x ∈ s.atsWaiters d, ∃ (z : State), u.atsRespond d c = z.atsAnswer c x ∧ z.cores = s.cores) ∧
    (s.atsWaiters d = [] → (u.atsRespond d c).cores = s.cores) := by
  have hwait : u.atsWaiters d = s.atsWaiters d := by rw [State.atsWaiters, hcores]; rfl
  rw [← hwait]
  by_cases hw : u.atsWaiters d = []
  · rw [atsRespond_none hw]
    exact ⟨hdom, fun h => absurd hw h, fun _ => hcores⟩
  · obtain ⟨x, hx, z, hz, hzc, hzd⟩ := atsRespond_some (c := c) hw
    refine ⟨?_, fun _ => ⟨x, hx, z, hz, hzc.trans hcores⟩, fun h => absurd h hw⟩
    rw [hz, domainAt_atsAnswer, State.domainAt, hzd]
    exact hdom

theorem exec_atsResponse (hold : (s.domainAt d).atsOld = 0) (hout : (s.domainAt d).atsOut ≠ 0) : ∃ t, exec (.atsResponse d) s = .next t ∧
    (t.domainAt d).atsOut = (s.domainAt d).atsOut - 1 ∧
    (t.domainAt d).dropped = (if (s.domainAt d).pstate = 1 then (s.domainAt d).dropped else (s.domainAt d).dropped + 1) ∧
    (s.atsWaiters d ≠ [] → ∃ x ∈ s.atsWaiters d, ∃ (z : State) (c : BitVec 8), t = z.atsAnswer c x ∧ z.cores = s.cores ∧
      ((s.domainAt d).pstate = 1 → c = 0 ∨ c = Cause.PAGE_ABSENT) ∧ ((s.domainAt d).pstate ≠ 1 → c = Cause.PASID_RETIRED)) ∧
    (s.atsWaiters d = [] → t.cores = s.cores) := by
  have hnew : ¬((s.domainAt d).atsOld != 0 && ((s.domainAt d).atsOut == 0 || Config.freeBool s.n)) = true := by rw [hold]; exact Bool.false_ne_true
  have hsame : ¬(s.domainAt d).atsOld ≠ 0 := fun h => h hold
  change ∃ t, execAtsResponse d s = .next t ∧ _
  rw [execAtsResponse]
  dsimp only
  rw [if_neg hnew, if_neg hsame, if_neg hout]
  by_cases hp : (s.domainAt d).pstate = 1
  · let b : Domain := { s.domainAt d with atsOut := (s.domainAt d).atsOut - 1 }
    let u : State := ({ s with n := s.n + 1 } : State).setDomain d b
    obtain ⟨hdom, hsome, hnone⟩ := atsRespond_spec (s := s) (u := u) (c := if Config.freeBool s.n then 0 else Cause.PAGE_ABSENT) rfl
      (domainAt_setDomain _ d b)
    refine ⟨_, if_pos hp, congrArg Domain.atsOut hdom, ?_, fun h => ?_, hnone⟩
    · rw [if_pos hp]; exact (congrArg Domain.dropped hdom :)
    · obtain ⟨x, hx, z, hz, hzc⟩ := hsome h
      refine ⟨x, hx, z, _, hz, hzc, fun _ => ?_, fun h => absurd hp h⟩
      split
      · exact .inl rfl
      · exact .inr rfl
  · let b : Domain := { s.domainAt d with atsOut := (s.domainAt d).atsOut - 1, dropped := (s.domainAt d).dropped + 1 }
    obtain ⟨hdom, hsome, hnone⟩ := atsRespond_spec (s := s) (u := s.stepDomain d b) (c := Cause.PASID_RETIRED) (cores_stepDomain b)
      (domainAt_stepDomain b)
    refine ⟨_, if_neg hp, congrArg Domain.atsOut hdom, ?_, fun h => ?_, hnone⟩
    · rw [if_neg hp]; exact (congrArg Domain.dropped hdom :)
    · obtain ⟨x, hx, z, hz, hzc⟩ := hsome h
      exact ⟨x, hx, z, _, hz, hzc, fun h => absurd h hp, fun _ => rfl⟩

/-- A response to a request of a PASID that has retired is dropped and counted (R331). -/
theorem exec_atsResponse_old (hold : (s.domainAt d).atsOld ≠ 0) (hout : (s.domainAt d).atsOut = 0) : ∃ t, exec (.atsResponse d) s = .next t ∧
    t.domainAt d = { s.domainAt d with atsOld := (s.domainAt d).atsOld - 1, dropped := (s.domainAt d).dropped + 1 } ∧ t.cores = s.cores := by
  let u : State := { s with n := s.n + 1 }
  change ∃ t, execAtsResponse d s = .next t ∧ _
  rw [execAtsResponse]
  dsimp only
  refine ⟨_, if_pos (by simp [hold, hout]), ?_, ?_⟩
  · exact domainAt_stepDomain _
  · rw [cores_stepDomain]; split <;> rfl

theorem exec_pasidRetireEnd (hst : (s.domainAt d).pstate = 2) (hdue : (s.domainAt d).atsOut = 0 ∨ (s.domainAt d).retireAt + 6000 ≤ s.now) :
    exec (.pasidRetireEnd d) s = .next ((s.atsAnswerAll Cause.PASID_RETIRED (s.atsWaiters d)).stepDomain d
      { s.domainAt d with pstate := 0, pasid := 0, atsOut := 0, atsOld := (s.domainAt d).atsOld + (s.domainAt d).atsOut }) :=
  congrArg Host.Outcome.next (if_pos (by simp [Domain.retireDue, hst, hdue]))

theorem exec_loadComplete (h : (s.domainAt d).ldStatus = 0xFFFF) : ∃ t st, exec (.loadComplete d) s = .next t ∧ (s.load96 d).1 = st ∧
    (t.domainAt d).ldStatus = BitVec.ofNat 16 st ∧ (t.domainAt d).ldSeq = ((s.load96 d).2.2.domainAt d).ldSeq + 1 := by
  let b := (s.load96 d).2.2.domainAt d
  let x : Domain := { b with ldStatus := BitVec.ofNat 16 (s.load96 d).1, ldSeq := b.ldSeq + 1 }
  have hdom : ((((s.load96 d).2.2.setDomain d x).ctlMark (loadBlock d) 32 (s.load96 d).2.1)).domainAt d = x :=
    ((State.Traced.ctlMark _ _ _ _).domainAt d).trans (domainAt_setDomain _ d x)
  exact ⟨_, _, if_neg fun e => e h, rfl, congrArg Domain.ldStatus hdom, congrArg Domain.ldSeq hdom⟩
end

end Sys2Proof.Machine
end

section
open Sys2Proof Sys2Proof.Machine

/-- Settles O50: each event is the step its unit makes; a mark on control space leaves the cores as they are, so that what waits in a
domain is what the state before lists, and the answer to all of it at the end of a PASID leaves none of the domain waiting. -/
theorem hostEvents : Obligations.HostEvents := by
  unfold Obligations.HostEvents
  intro f off n a d port pa k j vec i bs op w v e failed s t u flash dom
  refine ⟨rfl, verify_ok, verify_bad, exec_selfTestEnd_ok, exec_selfTestEnd_failed, ?_, exec_attestReportDone, ?_, ?_, ?_, rfl, ?_, ?_, ?_, ?_, ?_,
    exec_peerTimeout, exec_atsResponse, ?_, ?_, exec_atsResponse_old, ?_, exec_loadComplete, ?_, fun hv hvec => ⟨exec_msixUnmask hv hvec, barRead_vec hv hvec⟩,
    fun hv hoff => barRead_page hv hoff⟩
  · intro hheld hrec hst hpend
    exact congrArg Host.Outcome.next (if_pos (by simp [hheld, hrec, hst, hpend]))
  · intro hrom hwin hread
    change execHostWindowRead f off n s = _
    rw [execHostWindowRead, if_neg (by rw [hrom]; exact Bool.false_ne_true), hwin]
    dsimp only
    rw [hread]
  · intro hrom hwin
    change execHostWindowRead f off n s = _
    rw [execHostWindowRead, if_neg (by rw [hrom]; exact Bool.false_ne_true), hwin]
  · intro hn hrom hwin hwrite
    subst hn
    change execHostWindowWrite f off bs s = _
    rw [execHostWindowWrite]
    rw [if_neg (by rw [hrom]; exact Bool.false_ne_true), hwin]
    dsimp only
    rw [hwrite]
  · intro h
    change execPeerReadRequest port pa n s = _
    rw [execPeerReadRequest, h]
  · intro h
    change execPeerReadRequest port pa n s = _
    rw [execPeerReadRequest, h]
  · intro h
    change execPeerWriteRequest port pa bs s = _
    rw [execPeerWriteRequest, h]
  · intro h
    change execPeerWriteRequest port pa bs s = _
    rw [execPeerWriteRequest, h]
  · intro z hal hread x hnew hwrite
    change execPeerAtomicRequest port pa op w v e s = _
    rw [execPeerAtomicRequest]
    dsimp only
    rw [if_neg fun h => h hal, hread]
    dsimp only
    rw [hnew]
    dsimp only
    rw [hwrite]
  · intro c x hx
    rw [ext_atsAnswer, if_pos rfl, hx]
    rfl
  · intro c g q x hq hseq hx
    rw [ring_atsAnswer]
    refine List.mem_map.mpr ⟨q, hq, ?_⟩
    rw [if_pos (by rw [hseq]), hx]
    rfl
  · intro hst hdue
    refine ⟨_, exec_pasidRetireEnd hst hdue, domainAt_stepDomain _, fun c y x hx => ?_, fun c q x hq => ?_⟩
    · rw [State.coreAt, cores_stepDomain] at hx
      exact ctx_answered hx
    · rw [State.coreAt, cores_stepDomain] at hq
      exact card_answered hq
  · exact fun h => congrArg Host.Outcome.next (if_pos h)
end
